-- ==== Sys2Proof/Word.lean ====
section
/-! DEFINITION. The word types of the part (spec 00 R4, R5, R7): bytes, 64-byte lines, local and fabric addresses. -/

namespace Sys2Proof

/-- One byte of memory. -/
abbrev Byte := BitVec 8

/-- One 64-byte line (R234), byte 0 in the least significant bits (R4). -/
abbrev Line := BitVec 512

/-- A local address, 44 bits wide (R5). -/
abbrev LocalAddr := BitVec 44

/-- A fabric address: device number in [59:44], local address in [43:0] (R7). -/
abbrev FabricAddr := BitVec 60

end Sys2Proof
end

