-- ==== Sys2Proof/Syntax.lean ====
section
/-! DEFINITION. The commands of the part: one constructor of Instr for each row of spec/opcode_table.json.
An operand is either what the outside world presents (a value written, a message, a pin) or what the device
observes or chooses where the spec fixes no value (a sensor reading, a free tag, the result of a signature check). -/

namespace Sys2Proof

abbrev ArrayId := Fin 4
abbrev PartId := Fin 16
abbrev EngineId := Fin 4
abbrev QueueId := Fin 64
abbrev RingId := Fin 64
abbrev CtxId := Fin 64
abbrev TagId := Fin 512
abbrev StackId := Fin 20
abbrev GroupId := Fin 80
abbrev PortId := Fin 24
abbrev CommId := Fin 256
abbrev SourceId := Fin 1024

/-- The path of a dictionary access; it fixes the privilege level (R345) and the claimant code (Table 16.8). -/
inductive Path where
  | sec            -- security core on its own behalf, L0
  | signed         -- security core on a verified owner-signed command, L0
  | cc (n : Fin 4) -- control core running Gwevi, L1
  | slotA          -- mailbox slot A, L1
  | slotB          -- mailbox slot B, L2
  | field          -- field network, L3
  | tap            -- the TAP at debug level 2, L0 for A000h-AFFFh only (R406)
deriving DecidableEq, Repr

/-- The agents of Table 12.1. -/
inductive Agent where
  | part (a : ArrayId) (ii : PartId)
  | engine (n : EngineId)
  | dma (n : Fin 4)
  | cc (n : Fin 4)
  | host
  | coll
  | inbound (dev : BitVec 16)
deriving DecidableEq, Repr

/-- Compare-and-swap (R243) is an LR, a comparison by the core, and an SC of the new word; `whole` is all of it with no
access in between. -/
inductive CasStep where
  | loadReserved
  | storeConditional
  | whole (expected : BitVec 64)
deriving DecidableEq, Repr

/-- Who writes an interrupt-controller register (R329). -/
inductive IrqWriter where
  | cc (n : Fin 4)
  | sec
  | host
deriving DecidableEq, Repr

/-- What the ECC decoder finds in one unit (a 256-bit loam word, R184; an HBM line, R223). -/
inductive EccResult where
  | clean
  | corrected
  | uncorrectable
deriving DecidableEq, Repr

/-- The check results of one boot image (R399): bytes 0-63, and the three cryptographic checks. -/
structure ImageCheck where
  header   : BitVec 512
  keyOk    : Bool
  sigOk    : Bool
  digestOk : Bool
deriving DecidableEq, Repr

/-- One image slot: SEC, GWEVI and BASE (R399). -/
structure SlotCheck where
  sec   : ImageCheck
  gwevi : ImageCheck
  base  : ImageCheck
deriving DecidableEq, Repr

/-- What the security core derives at start-up (R401, R412): the key pair's public part and certificate when the
reconstruction succeeds, and the random values. -/
structure IdentityResult where
  ok        : Bool
  publicKey : List Byte
  cert      : List Byte
  sieveSeed : BitVec 64
  nonce     : BitVec 64
  challenge : BitVec 256
deriving DecidableEq, Repr

/-- One HBM row (R206). -/
structure HbmRow where
  stack : StackId
  pc    : Fin 64
  bank  : Fin 64
  row   : Fin 16384
deriving DecidableEq, Repr

/-- A failing array cell. -/
structure CellAt where
  row : Fin 512
  col : Fin 512
deriving DecidableEq, Repr

/-- A hardware upset of one drained or recomputed value: its element and the bits that flip (48 bits and the flag). In the
output stage a column of 2^20 or more names the sent value of column `col - 2^20`, whose bits flip after conversion. In
weight-stationary mode it is a cell, and the bits that flip in what the cell puts out. -/
structure Upset where
  row  : Nat
  col  : Nat
  mask : BitVec 49
deriving DecidableEq, Repr

/-- What the start-up self-test of one array meets (R83, R86): cells with a fault, failing spare lines, and the known-answer
tile of the output stage. -/
structure ArrayTest where
  upsets    : List Upset
  badSpareRows : List (Fin 16)
  badSpareCols : List (Fin 16)
  stageOk   : Bool
deriving DecidableEq, Repr

/-- One rail's telemetry (R368). -/
structure RailReading where
  rail : Fin 10
  mv   : BitVec 32
  ma   : BitVec 32
  temp : BitVec 32
deriving DecidableEq, Repr

/-- A fabric message: the 32-byte header of Table 13.3 as one 256-bit little-endian value, and its lines. -/
structure Msg where
  hdr  : BitVec 256
  body : List Line
deriving DecidableEq, Repr

/-- Where a message arrives from: a port, or the loopback of R272. -/
inductive Via where
  | port (p : PortId)
  | loopback
deriving DecidableEq, Repr

/-- How link training ends (R258, R259). -/
inductive TrainResult where
  | up       -- eight lanes
  | lowHalf  -- lanes 0-3
  | highHalf -- lanes 4-7
  | down
deriving DecidableEq, Repr

/-- What asks for Hold (R383). -/
inductive HoldSource where
  | entry (p : Path)
  | d3hot
deriving DecidableEq, Repr

/-- What wakes the device from Doze (Table 17.6). -/
inductive WakeCause where
  | irq
  | doorbell
  | inbound
deriving DecidableEq, Repr

/-- The classes of vector-engine work (R130). -/
inductive WorkClass where
  | epilogue
  | update
  | program
  | sieve
deriving DecidableEq, Repr

/-- The operations of slot arithmetic: the element-wise and transcendental ones of Table 6.3 on whole slots. -/
inductive SlotOp where
  | add
  | sub
  | mul
  | fma
  | min
  | max
  | abs
  | neg
  | exp2
  | log2
  | rcp
  | rsqrt
deriving DecidableEq, Repr

/-- A slot-arithmetic instruction as a command names it: the class that runs it and its operation. -/
structure SlotWork where
  cls : WorkClass
  op  : SlotOp
deriving DecidableEq, Repr

/-- A mailbox slot (R354). -/
inductive MailSlot where
  | a
  | b
deriving DecidableEq, Repr

/-- Source address and port of a field-network datagram. -/
structure FieldSrc where
  addr : BitVec 128
  port : BitVec 16
deriving DecidableEq, Repr

/-- Where a dictionary request stands: in a mailbox slot, pending on the field network (its transaction id),
or made directly by a control core or the security core (R354, R345). -/
inductive DictReq where
  | mail (slot : MailSlot)
  | field (src : FieldSrc) (tid : BitVec 16)
  | direct (p : Path) (index : BitVec 16) (sub : BitVec 8) (offset : BitVec 32) (len : BitVec 16) (payload : List Byte)
deriving DecidableEq, Repr

/-- Result of the signature check of a signed command (R403). -/
structure SigCheck where
  sigOk   : Bool
deriving DecidableEq, Repr

/-- Where a PCIe completion belongs (R327). -/
inductive HostRead where
  | queueSlot (q : QueueId)
  | dmaDescriptor (ch : Fin 4)
  | dmaData (ch : Fin 4)
deriving DecidableEq, Repr

/-- The kinds of granted resource (Table 15.14). -/
inductive Resource where
  | loamBank (tier : Fin 4) (bank : Fin 4096)
  | stackLink (s : StackId)
  | fratyOut (p : PortId) (vl : Fin 4)
  | noc (t : Fin 5)
deriving DecidableEq, Repr

/-- A request for a resource: the requester's order number and index (Tables 10.3, 11.3, 13.5, 15.15) and an id. -/
structure ArbReq where
  order : Nat
  index : Nat
  id    : Nat
deriving DecidableEq, Repr

/-- A TAP instruction (R406). -/
inductive TapOp where
  | bypass
  | samplePreload
  | extest
  | idcode
  | coreDebug    -- control-core debug
  | secDebug     -- security-core debug
  | vendorAccess -- access to A000h-AFFFh
deriving DecidableEq, Repr

/-- A request that waits at a base die, by what issued it (Table 11.2); `lc` is the class bit of a DMA descriptor or of an
inbound fabric read. -/
inductive HbmRequest where
  | cacheMiss
  | loamDma (lc write : Bool)
  | bar4 (write : Bool)
  | inboundRead (lc : Bool)
  | inboundWrite
  | contextCopy
  | hostDataPort
  | hostDma
  | arrivalAdd
  | slotWrite
  | slottedFold
  | trafficGenerator
  | margining
  | patrolScrub
deriving DecidableEq, Repr

/-- What a targeted self-test meets (R390): whether the unit's own march, known-answer tile or program passes, the cells of
an array with a fault, its failing spare lines, the failing wire or lane half, and the faults that a recovery recomputation
meets (R395). -/
structure TestResult where
  pass  : Bool
  upsets : List Upset
  badSpareRows : List (Fin 16)
  badSpareCols : List (Fin 16)
  wire  : BitVec 11
  lowHalfOk  : Bool
  highHalfOk : Bool
  recompute : List Upset
deriving DecidableEq, Repr

/-- An HBM interface access (R325). -/
inductive Bar4Op where
  | write (offset : BitVec 36) (data : List Byte)
  | read (offset : BitVec 36) (len : Nat)
deriving DecidableEq, Repr

/-- Whose request a stack-link transfer carries (R207): an operation's, a context command's copy, or another access. -/
inductive LinkUser where
  | operation (tag : TagId)
  | command (c : CtxId)
  | access (ag : Agent) (addr : LocalAddr)
deriving DecidableEq, Repr

/-- A transfer of a stack link: which one it is, and the request it belongs to. -/
structure Transfer where
  number : Nat
  user   : LinkUser
deriving DecidableEq, Repr

/-- What a margining run found on the read and on the write side: sixteen words each (Table 11.6). -/
structure MarginSides where
  read  : List (BitVec 32)
  write : List (BitVec 32)
deriving DecidableEq, Repr

/-- Where a line access goes: to the device's own memory, or to a line of a peer by the remote path (R275). -/
inductive LinePlace where
  | own (addr : LocalAddr)
  | peer (dev : BitVec 16) (addr : LocalAddr)
deriving DecidableEq, Repr

/-- The commands: one constructor for each row of spec/opcode_table.json, in the table's order. -/
inductive Instr where
  -- start-up and resets (19)
  | vddAonUp
  | s0 (railsInRange : Bool)
  | fuseSenseComplete
  | bootImagesVerified (a b : SlotCheck)
  | gweviRunning (version : BitVec 32)
  | identityDerived (r : IdentityResult)
  | softRepairRegistersLoaded
  | loamMarchComplete (failing : List LocalAddr)
  | arraySelfTestComplete (results : List (ArrayId × ArrayTest)) (badEngines : List EngineId)
  | baseDieFirmwareRunning
  | hbmTrainingComplete (failed : List StackId)
  | hbmMarchComplete (rows : List HbmRow)
  | portsSettled
  | ready
  | perstNRise
  | pcieLinkUp
  | warmReset
  | hotReset
  | clockLoss
  | clockReturn
  -- pins, ramps, stops, temperatures, rails (17)
  | paceHoldNFall
  | paceHoldNRise
  | skewExpiry (a : ArrayId)
  | rampIntervalEnd (a : ArrayId)
  | coolantOkFall
  | coolantOkRise
  | coolantStop
  | coolantResume (p : Path) (v : Byte)
  | resumeComplete
  | thermtrip
  | tjUpdate (celsius : BitVec 32)
  | thermalGridPoint
  | thermalStop
  | stackTemperatureRead (s : StackId) (celsius : BitVec 32)
  | pmbAlert (faulted : List (Fin 10))
  | railTelemetryPoll (r : List RailReading)
  | voltageLoopUpdate (die : Fin 2) (arrayRates engineRates : BitVec 32 × BitVec 32) (acked : Bool)
  | ageingMeasurement (a : ArrayId) (rate : BitVec 32)
  | ageingFuseBurnEnd (a : ArrayId) (ok : Bool)
  | canaryEvent (u : Fin 8)
  | marginWindowEnd (u : Fin 8)
  | railScaleUpdate (k : Fin 10) (modelled telemetry : BitVec 64)
  | phaseAnnouncement (q : QueueId) (slot : Fin 33)
  | powerShareEvaluation (now mean10ms mean1s fixedW : BitVec 32)
  | phaseEnd (a : ArrayId) (ctx : CtxId) (phase : Byte) (array vector loam hbm : BitVec 14)
  | shareTableWrap
  | shareShadowWrite (p : Path) (v : BitVec 512)
  | d0Request (p : Path)
  | dozeRequest (p : Path)
  | holdRequest (src : HoldSource)
  | dozeEntry
  | holdEntry
  | wakeEvent (cause : WakeCause)
  | pcieD0
  -- arrays
  | nop (q : QueueId) (tag : TagId)
  | matmul (q : QueueId) (tag : TagId)
  | wave (a : ArrayId) (ii : PartId)
  | outputStageAccept (a : ArrayId) (ii : PartId) (upsets : List Upset)
  | completionRecord (tag : TagId)
  | recordWrite (r : RingId)
  | operationDeadlineExpiry (tag : TagId)
  | arrayHold (p : Path) (a : ArrayId) (v : Byte)
  | partitionMode (p : Path) (a : ArrayId) (v : Byte)
  | repairBurn (p : Path) (a : ArrayId) (v : Byte)
  | repairBurnComplete (a : ArrayId)
  -- vector engines
  | vprog (q : QueueId) (tag : TagId)
  | vprogNop (q : QueueId) (tag : TagId)
  | epilogue (a : ArrayId) (ii : PartId)
  | shareWindowEnd (e : EngineId)
  | vecNop (e : EngineId) (k : WorkClass)
  | vecEnd (e : EngineId) (k : WorkClass)
  | shape (e : EngineId) (k : WorkClass)
  | loop (e : EngineId) (k : WorkClass)
  | endloop (e : EngineId) (k : WorkClass)
  | yield (e : EngineId) (k : WorkClass)
  | vecWait (e : EngineId) (k : WorkClass)
  | vecSignal (e : EngineId) (k : WorkClass)
  | sets (e : EngineId) (k : WorkClass)
  | setar (e : EngineId) (k : WorkClass)
  | advar (e : EngineId) (k : WorkClass)
  | add (e : EngineId) (k : WorkClass)
  | sub (e : EngineId) (k : WorkClass)
  | mul (e : EngineId) (k : WorkClass)
  | fma (e : EngineId) (k : WorkClass)
  | min (e : EngineId) (k : WorkClass)
  | max (e : EngineId) (k : WorkClass)
  | abs (e : EngineId) (k : WorkClass)
  | neg (e : EngineId) (k : WorkClass)
  | select (e : EngineId) (k : WorkClass)
  | cmpeq (e : EngineId) (k : WorkClass)
  | cmplt (e : EngineId) (k : WorkClass)
  | cmple (e : EngineId) (k : WorkClass)
  | mand (e : EngineId) (k : WorkClass)
  | mor (e : EngineId) (k : WorkClass)
  | mnot (e : EngineId) (k : WorkClass)
  | exp2 (e : EngineId) (k : WorkClass)
  | log2 (e : EngineId) (k : WorkClass)
  | rcp (e : EngineId) (k : WorkClass)
  | rsqrt (e : EngineId) (k : WorkClass)
  | rsum (e : EngineId) (k : WorkClass)
  | rsumsq (e : EngineId) (k : WorkClass)
  | rprod (e : EngineId) (k : WorkClass)
  | rmax (e : EngineId) (k : WorkClass)
  | rmin (e : EngineId) (k : WorkClass)
  | rargmax (e : EngineId) (k : WorkClass)
  | rargmin (e : EngineId) (k : WorkClass)
  | rcount (e : EngineId) (k : WorkClass)
  | slotArithmetic (e : EngineId) (w : SlotWork)
  | cvt (e : EngineId) (k : WorkClass)
  | quant (e : EngineId) (k : WorkClass)
  | qdual (e : EngineId) (k : WorkClass)
  | compress (e : EngineId) (k : WorkClass)
  | expand (e : EngineId) (k : WorkClass)
  | topk (e : EngineId) (k : WorkClass)
  | maskgen (e : EngineId) (k : WorkClass)
  | vecLoad (e : EngineId) (k : WorkClass)
  | store (e : EngineId) (k : WorkClass)
  | loadstat (e : EngineId) (k : WorkClass)
  | savestat (e : EngineId) (k : WorkClass)
  | loadmask (e : EngineId) (k : WorkClass)
  | microcodeInstruction (e : EngineId) (k : WorkClass)
  -- sieve
  | captureComplete (a : ArrayId) (ii : PartId)
  | exactCheck (e : EngineId) (upsets : List Upset)
  | sieveRecheck (e : EngineId) (upsets : List Upset)
  | fidelityCheck (e : EngineId)
  | sieveEnable (p : Path) (v : BitVec 32)
  -- DMA and lines
  | copy (q : QueueId) (tag : TagId)
  | fill (q : QueueId) (tag : TagId)
  | dmaNop (q : QueueId) (tag : TagId)
  | lineRead (ag : Agent) (place : LinePlace) (ecc0 ecc1 : EccResult)
  | lineWrite (ag : Agent) (place : LinePlace) (data : Line) (nibbleMask : BitVec 128) (ecc0 ecc1 : EccResult)
  -- contexts
  | contextRecordWrite (p : Path) (c : CtxId) (v : BitVec 1024)
  | load (p : Path) (c : CtxId) (fresh : Bool)
  | preempt (p : Path) (c : CtxId)
  | checkpoint (p : Path) (c : CtxId)
  | reset (p : Path) (c : CtxId)
  | delete (p : Path) (c : CtxId)
  | loadRemote (p : Path) (c : CtxId)
  | loadComplete (c : CtxId)
  | imageSaved (c : CtxId) (gweviState : List Byte)
  | checkpointCommitted (c : CtxId)
  | scrubStart (p : Path) (v : Byte)
  | scrubDone
  | patrolScrubRead (hbm : Bool) (ecc0 ecc1 : EccResult)
  -- HBM
  | stackLinkReplay (s : StackId) (transfer : Transfer) (wire : BitVec 11)
  | slotTableWrap (cg : GroupId)
  | hbmSlotGrant (cg : GroupId) (ready : List HbmRequest)
  | slotShadow (p : Path) (cg : GroupId) (v : BitVec 128)
  | slotAll (p : Path) (v : BitVec 128)
  | arrivalAdd (ag : Agent) (addr : LocalAddr) (fmt : Fin 8) (data : Line) (mask : BitVec 64)
  | slotWrite (ag : Agent) (addr : LocalAddr) (fmt : Fin 8) (data : Line) (mask : BitVec 64)
  | areaRegistration (reg : BitVec 512)
  | areaDone (area : Fin 16)
  | areaRelease (area : Fin 16)
  | refresh (s : StackId) (pc : Fin 64) (bank : Fin 64)
  | pprBurn (p : Path) (v : Byte)
  | pprBurnComplete
  | readPhaseUpdate (s : StackId) (pc : Fin 64)
  | writePathRetrain (s : StackId) (ch : Fin 32)
  | marginReadTiming (p : Path) (cg : GroupId)
  | marginReadVoltage (p : Path) (cg : GroupId)
  | marginWriteTiming (p : Path) (cg : GroupId)
  | marginWriteVoltage (p : Path) (cg : GroupId)
  | marginRunDone (cg : GroupId) (sides : MarginSides)
  | tgenEnable (p : Path) (s : StackId) (v : Byte)
  | tgenRunEnd (s : StackId) (errors : BitVec 64)
  -- synchronisation
  | signal (q : QueueId) (tag : TagId)
  | wait (q : QueueId) (tag : TagId)
  | acquire (q : QueueId) (tag : TagId)
  | releaseLock (q : QueueId) (tag : TagId)
  | arrive (q : QueueId) (tag : TagId)
  | clear (q : QueueId) (tag : TagId)
  | init (q : QueueId) (tag : TagId)
  | waitSatisfied (tag : TagId)
  | lockGrant (obj : Fin 4096)
  | syncTimeout (tag : TagId)
  | compareAndSwap (n : Fin 4) (wide : Bool) (addr : FabricAddr) (step : CasStep) (new : BitVec 64) (aq rl : Bool)
  | swap (n : Fin 4) (wide : Bool) (addr : FabricAddr) (new : BitVec 64) (aq rl : Bool)
  | fetchAdd (n : Fin 4) (wide : Bool) (addr : FabricAddr) (inc : BitVec 64) (aq rl : Bool)
  -- fabric
  | linkTrained (p : PortId) (r : TrainResult) (dev : BitVec 16) (port : Byte)
  | dataCell (p : PortId) (hdr : BitVec 128) (payload : List Byte)
  | uncorrectableCodeword (p : PortId)
  | replayReq (p : PortId) (hdr : BitVec 128)
  | read (v : Via) (m : Msg)
  | write (v : Via) (m : Msg)
  | redAdd (v : Via) (m : Msg)
  | redSlot (v : Via) (m : Msg)
  | fabricSignal (v : Via) (m : Msg)
  | collData (v : Via) (m : Msg)
  | collCtrl (v : Via) (m : Msg)
  | notice (v : Via) (m : Msg)
  | readData (v : Via) (m : Msg)
  | ack (v : Via) (m : Msg)
  | nak (v : Via) (m : Msg)
  | transitForward (p : PortId) (m : Msg)
  | remoteTimeout (tag : BitVec 16)
  | fabricEnable (p : Path) (v : Byte)
  | window (p : Path) (w : Fin 256) (v : BitVec 256)
  | windowWriteOk (w : Fin 256)
  -- collectives
  | commState (p : Path) (c : CommId) (v : Byte)
  | rs (q : QueueId) (tag : TagId)
  | ag (q : QueueId) (tag : TagId)
  | ar (q : QueueId) (tag : TagId)
  | rsug (q : QueueId) (tag : TagId)
  | sliceTaken (a : ArrayId) (ii : PartId)
  | contrib (v : Via) (m : Msg)
  | partialAcc (v : Via) (m : Msg)
  | partialBlock (v : Via) (m : Msg)
  | compressed (v : Via) (m : Msg)
  | gather (v : Via) (m : Msg)
  | repairData (v : Via) (m : Msg)
  | scales (v : Via) (m : Msg)
  | shadowDigest (v : Via) (m : Msg)
  | substitute (v : Via) (m : Msg)
  | stopped (v : Via) (m : Msg)
  | done (v : Via) (m : Msg)
  | abort (v : Via) (m : Msg)
  | norm (v : Via) (m : Msg)
  | repairReq (v : Via) (m : Msg)
  | barrierArrive (v : Via) (m : Msg)
  | barrierRelease (v : Via) (m : Msg)
  | streamDeadlineExpiry (tag : TagId) (stream : Nat)
  | collWatchdogExpiry (tag : TagId)
  | resultChunkAccepted (tag : TagId) (chunk : Nat)
  | bucketEnd (tag : TagId)
  | updateSlice (e : EngineId) (c : CtxId) (entry : Nat) (first : Nat)
  | globalNormKnown (c : CtxId)
  | normRecord (c : CtxId)
  -- control plane
  | tail (q : QueueId) (v : BitVec 64)
  | ringHead (r : RingId) (v : BitVec 64)
  | queueConfig (p : Path) (q : QueueId) (v : BitVec 128)
  | resume (p : Path) (q : QueueId)
  | flush (p : Path) (q : QueueId) (tags : List TagId)
  | ringConfig (p : Path) (r : RingId) (v : BitVec 128)
  | dataPortWrite (data : List Byte) (firstBE lastBE : BitVec 4)
  | dataPortRead (dwords : Nat)
  | bar4Access (op : Bar4Op)
  | chTail (ch : Fin 4) (v : BitVec 64)
  | hostDmaDescriptor (ch : Fin 4)
  | chBase (ch : Fin 4) (size : Bool) (v : BitVec 64)
  | interruptSource (s : SourceId) (condition : Bool)
  | claim (p : Fin 6)
  | eoi (p : Fin 6)
  | pending (w : IrqWriter) (g : Fin 32) (v : BitVec 32)
  | raise (w : IrqWriter) (g : Fin 32) (v : BitVec 32)
  | holdoffExpiry (g : Fin 32)
  | holdoffNs (p : Path) (g : Fin 32) (v : BitVec 32)
  | gpioEdge (n : Fin 8)
  | grant (r : Resource) (arrivals : List ArbReq)
  | resourceWatchdogExpiry (r : Resource)
  | waitLimit (p : Path) (k : Fin 4) (sub : Fin 7) (v : BitVec 16)
  -- dictionary
  | fieldFrame (src : FieldSrc) (frame : List Byte) (udpOk : Bool)
  | mailboxDoorbell (slot : MailSlot) (request : List Byte) (len : BitVec 14)
  | dictRead (r : DictReq)
  | dictWrite (r : DictReq)
  | readBlock (r : DictReq)
  | writeBlock (r : DictReq)
  | entryWrite (p : Path) (index : BitVec 16) (sub : BitVec 8) (value : List Byte)
  | neighborSolicitation (src : BitVec 128) (target : BitVec 128)
  | echo (src : BitVec 128) (data : List Byte)
  | duplicateAddressDetectionEnd (unique : Bool)
  | stagedWrite (p : Path) (index : BitVec 16) (sub : BitVec 8) (v : Byte)
  | commit (p : Path)
  | discard (p : Path)
  | modeApplied (unit : Fin 4)
  | gpioFunction (p : Path) (n : Fin 8) (v : Byte)
  -- security and reliability
  | signedCommand (p : Path) (offset : BitVec 32) (data : List Byte)
  | attest
  | attestationReportReady (signature : List Byte) (fuseDigest : BitVec 256)
  | writeEntry (c : SigCheck)
  | scrub (c : SigCheck)
  | advanceSvn (c : SigCheck)
  | installOwnerKey (c : SigCheck)
  | debugUnlock (c : SigCheck) (challenge : BitVec 256)
  | signedCommandEnded (c : SigCheck)
  | faultAck (p : Path) (v : Byte)
  | retiredListWrite (p : Path) (offset : BitVec 32) (data : List Byte)
  | targetedSelfTestStart (unit : Fin 64)
  | targetedSelfTestEnd (unit : Fin 64) (r : TestResult)
  | laneErrorRateCheckEnd (p : PortId) (ratio : BitVec 32) (lowHalfOk highHalfOk : Bool)
  | vddAonRemoval
  -- rows that stand at the table's end
  | linkLeavesUp (p : PortId)
  | idleCell (p : PortId) (hdr : BitVec 128)
  | coolantStopComplete
  | returnToD0
  | faultNChange (low : Bool)
  | pmbAlertNRise
  | msiXUnmask (v : Fin 64)
  | srcCfg (w : IrqWriter) (s : SourceId) (v : BitVec 32)
  | threshold (w : IrqWriter) (p : Fin 6) (v : BitVec 32)
  | dataPortRegisterWrite (offset : BitVec 8) (v : BitVec 64)
  | configurationRequest
  | hostCompletion (r : HostRead) (data : List Byte) (ok : Bool)
  | tapInstruction (op : TapOp)
  | dictionaryAnswers
deriving DecidableEq, Repr

end Sys2Proof
end

