-- ==== Sys2Proof/Decode.lean ====
section
/-! DEFINITION. The command a word of the command table spells. No row of the table gives bits: a command reaches the
part as an access or an event, so no word spells one. -/

namespace Sys2Proof

/-- The command that `w`, `nbits` long, spells by the table's bits: none, since no row has bits. -/
def decodeTableWord (_nbits _w : Nat) : Option Instr := none

end Sys2Proof
end

