-- ==== Sys2Proof/Machine/State.lean ====
section
/-! DEFINITION. The state of the part as plain data, and the state after reset.
Registers the spec numbers live in two register maps: `dict` (object dictionary, key index*256+subindex) and `bar`
(BAR0 offsets); an unlisted register reads as its reset value (Machine/Store.lean). DOMAIN entries live in `domains`,
loam and HBM in `mem`. Everything else the spec gives the machine has a field of its own. -/

namespace Sys2Proof.Machine

/-- A sparse map: keys strictly rising, no entry equal to what an unlisted key reads as (Machine/Store.lean). -/
abbrev SMap (α : Type) := List (Nat × α)

/-- An acc48 register with its sticky overflow flag (R25, R26). -/
structure Acc where
  bits : BitVec 48
  ovf  : Bool
deriving DecidableEq, Repr

/-- An exact operand value (R22, R23): NaN, an infinity, or (-1)^neg * mant * 2^exp. -/
inductive FVal where
  | nan
  | inf (neg : Bool)
  | fin (neg : Bool) (mant : Nat) (exp : Int)
deriving DecidableEq, Repr

/-- Signals the outside drives (Table 19.7); true is a high level. -/
structure Pins where
  perstN     : Bool
  coolantOk  : Bool
  paceHoldN  : Bool
  pmbAlertN  : Bool
  faultNLow  : Bool        -- another device of the board pulls FAULT_N low
  refclk     : Bool        -- PE_REFCLK toggles
  slotId     : BitVec 6
  bootMode   : BitVec 2
  pmbBase    : BitVec 3
deriving DecidableEq, Repr

/-- The AON domain and the start-up sequence (R15, R18, R410 to R419). -/
structure Aon where
  up          : Bool       -- VDD_AON present
  time        : Nat        -- local time counter, ns (R18)
  s0          : Bool       -- S0 reached
  perstSeen   : Bool       -- PERST_N has been high since S0
  waitPerst   : Bool       -- a warm reset waits for PERST_N to rise
  dictUp      : Bool       -- the dictionary answers on the field network
  fatal       : Bool       -- severity-4 event since reset
  clockHeld   : Bool       -- REF-derived domains held by a clock loss
  clockLost   : Bool       -- a clock loss since the last warm reset or power cycle
  frozen      : Bool       -- the self-timed region is frozen
  thermtrip   : Bool       -- THERMTRIP_N driven low
  pcieUp      : Bool       -- PCIe link up
  pcieConfigured : Bool    -- configuration space set up since the last reset of the link
deriving DecidableEq, Repr

/-- Fuse contents. CEILING_FUSED, MARGIN_FLOOR and the like are fixed at test; fields burn in service. -/
structure Fuses where
  ceiling     : SMap Nat   -- per array, M waves/s (R84); unlisted 2,000
  marginFloor : SMap Nat   -- per unit 0-7 (R366); unlisted 0
  ageing      : SMap Nat   -- per array, burnt ageing fuses (R365)
  repairs     : SMap (List Nat) -- per array, fused repair records in fuse order (R88, R91)
  repairFree  : SMap Nat   -- per array, field-programmable slots used (R88): free = 8 - this
  svn         : SMap Nat   -- fused SVN of SEC 0, GWEVI 1, BASE 2 (R400)
  ownerHash   : SMap Nat   -- owner key hashes 0-2 (R404)
  ownerState  : SMap Nat   -- 0 UNUSED, 1 ACTIVE, 2 REVOKED
  lemundHash  : SMap Nat   -- Lemund key hashes 0-1
  hpprUsed    : SMap Nat   -- hard repairs burnt, keyed stack*256 + pc*4 + bank group (R225)
  hardRows    : List Nat   -- rows replaced by a hard repair
  serial      : BitVec 64
  mac         : BitVec 48
deriving DecidableEq, Repr

/-- Kinds of descriptor. -/
inductive OpKind where
  | matrix
  | vector
  | dma
  | sync
  | coll
deriving DecidableEq, Repr

/-- An operation in flight (R315): its descriptor as read at dispatch (R94) and what its record will report. -/
structure Op where
  tag       : Nat
  queue     : Nat
  ctx       : Nat
  kind      : OpKind
  desc      : BitVec 1024
  taken     : Nat          -- local time of dispatch
  deadline  : Option Nat
  dlHandled : Bool
  status    : Nat
  ended     : Bool         -- nothing more to do but the record
  recorded  : Bool         -- record handed to its ring
  under     : Nat
  ovfl      : Nat
  nan       : Nat
  waves     : Nat
  zeroK     : Bool
  empty     : Bool
  missed    : Bool
  sampled   : Bool
  late      : Bool
  subst     : Bool
  diverge   : Bool
  repaired  : Bool
  capExt    : Bool
  epochSeen : Nat
  waitNs    : Nat
  remoteOut : Nat          -- remote requests not yet answered
  capsOut   : Nat          -- captures not yet complete (R104)
  accepted  : Bool         -- a sync operation has taken effect
  energy    : Nat
  epi       : BitVec 512   -- the epilogue-table entry read with it (R125)
  rowMask   : Nat          -- masks read once before the first wave (R98): bit i = masked
  colMask   : Nat
  planned   : Nat          -- W of R75 as computed when the operation began
  epiStop   : Bool         -- its epilogue has stopped: rows that still arrive are discarded (R106)
  doneAt    : Option Nat   -- local time at which the conditions of R104 came to hold (R108)
  before    : SMap Byte    -- bytes that operands and destination share, as they were when the operation began (R97)
  subEnd    : Nat          -- the tile before which the present sub-wave ends (R316)
  turn      : Option (SMap Nat) -- between two sub-waves: the queues yet to be served, with their heads (R316)
deriving DecidableEq, Repr

/-- A completion record that is ready (R320). -/
structure ReadyRec where
  ring : Nat
  word : BitVec 256
  tag  : Option Nat
deriving DecidableEq, Repr

/-- One drained row segment of a tile (R69): element values with their columns. -/
structure OutRow where
  tag  : Nat
  tile : Nat
  row  : Nat
  last : Bool              -- the tile's last row
  vals : List (Nat × Acc)
deriving DecidableEq, Repr

/-- The operand groups of one wave number on their way through the cells (R62, R63). After `age` further waves the row
group of the r-th active row has entered at the west edge for r up to `age` and stands in cells (r, age - r); column
groups move south alike. -/
structure Slice where
  wave : Nat
  age  : Nat
  a    : SMap (List FVal)  -- row groups, by position among the active rows
  b    : SMap (List FVal)  -- column groups, by position among the active columns
deriving DecidableEq, Repr

/-- A tile in the cells (R66): its compute registers, and the groups of it that still move. -/
structure Flight where
  tag    : Nat
  tile   : Nat
  fed    : Nat             -- waves whose groups have entered
  rows   : List Nat        -- active rows and columns
  cols   : List Nat
  acc    : SMap Acc        -- compute registers, key row*2^20 + column of the output
  slices : List Slice      -- oldest first
  cross  : Nat             -- waves left of the run's crossing time, once all is fed (s of R75)
deriving DecidableEq, Repr

/-- A partition (R66, R73): the operations of its stream, the tiles in its cells, and the drain. -/
structure Partition where
  ops     : List Nat       -- tags in order, oldest first
  inRun   : Bool           -- false: the next operation starts a run (R75)
  begun   : Bool           -- the front operation has started: the last flight is being fed
  startup : Nat            -- waves of accumulate-in loading left (R68)
  cross   : Nat            -- s of R75 of the present run
  flights : List Flight    -- tiles in the cells, oldest first
  drain   : List OutRow    -- rows still in the drain chain, bottom row first
  stage   : List OutRow    -- rows held by the output stage (at most 32)
  group   : List OutRow    -- rows of the 32-row group being formed (R69)
deriving DecidableEq, Repr

/-- What an array holds beside its partitions and its dictionary entries. -/
structure ArrayUnit where
  lastWave  : Nat          -- local time of the last wave
  skewUntil : Option Nat   -- no wave before this time (R375)
  rampStart : Option Nat   -- ramp running since (R374)
  rampStep  : Nat
  burning   : Bool         -- REPAIR_BURN in progress
  badRows   : Nat          -- failing spare rows, bit per group (R86)
  badCols   : Nat
  recent    : SMap (SMap Nat) -- per partition, waves by local time over the last 1 us (2200h:06)
  recirc    : List (List Acc) -- weight-stationary mode: partial sums of the last chunk, up to 64 rows (R82)
deriving DecidableEq, Repr

/-- Layout tag of a tile buffer (R113). -/
inductive Layout where
  | fp32
  | int32
  | packed
deriving DecidableEq, Repr

/-- A bank of scalar and address registers (Table 6.1). -/
structure Bank where
  sc : SMap Acc
  ar : SMap Nat
deriving DecidableEq, Repr

/-- A vector program in progress. -/
structure Prog where
  cls    : WorkClass
  ctx    : Nat
  tag    : Option Nat      -- the operation it belongs to
  base   : Nat             -- program address
  len    : Nat             -- words
  pc     : Nat
  rows   : Nat             -- active rectangle
  cols   : Nat
  loops  : List (Nat × Nat) -- (first word, iterations left), innermost first
  saved  : Option Bank     -- bank P while yielded
  waiting : Bool           -- stalled by WAIT
  empty  : Bool            -- an empty row was met (R120)
  part   : Nat             -- epilogue: 16*array + partition
  row0   : Nat             -- epilogue: origin of the tile or stripe
  col0   : Nat
  rowOff : Nat             -- epilogue: rows of the rectangle that the descriptor masks, bit per row
  colOff : Nat             -- epilogue: columns that the descriptor masks
  tileW  : Nat             -- epilogue over a stripe: columns of a tile (0: the rectangle is one tile)
deriving DecidableEq, Repr

/-- A finished FP32 tile or part of one in epilogue staging (R126). -/
structure Staged where
  part : Nat
  tag  : Nat
  tile : Nat
  row  : Nat
  last : Bool
  vals : List (Nat × Acc)
deriving DecidableEq, Repr

/-- A vector engine (Table 6.1). Tile buffer element key: buffer*2^44 + row*2^22 + column. -/
structure Engine where
  tb      : SMap Acc
  tags    : SMap Layout
  slots   : SMap (Option Acc) -- none: PRESENT is 0; key slot*2^22 + entry
  slotKind : SMap Nat      -- what an entry without a value stands for (Table 6.4), by slot
  argRun  : SMap (Option Acc × Nat) -- of a position entry: the winning value and the positions seen (R51, R118)
  masks   : SMap Bool      -- key mask*2^44 + row*2^22 + column
  bankE   : Bank
  bankP   : Bank
  epi     : Option Prog
  run     : Option Prog    -- the holder of TB3, SL32-63, MB2, MB3 and bank P
  queue   : List Prog      -- programs that wait for the engine or have yielded
  staging : List Staged
  shared    : Option Nat   -- since the last YIELD: where the unspecified contents of the shared buffers start (R130)
  winSteps  : Nat
  winSieve  : Nat
  winUpdate : Nat
  missed    : Bool         -- an entitled class was kept from the engine in this window (R131)
  recent    : SMap Nat     -- steps by local time, over the last 1 us (2300h:01)
deriving DecidableEq, Repr

/-- A captured tile (R171). Strips are held as exact values. -/
structure Capture where
  array  : Nat
  part   : Nat
  ctx    : Nat
  slot   : Nat
  tag    : Nat
  opId   : Nat
  desc   : BitVec 1024
  tile   : Nat
  rows   : List Nat
  cols   : List Nat
  aStrip : List (List FVal)
  bStrip : List (List FVal)
  aWide  : Option (List (List FVal))
  bWide  : Option (List (List FVal))
  cIn    : SMap Acc
  drained : SMap Acc
  sent   : SMap Nat
  fidelity : Bool
  rows_left : Nat
  size     : Nat           -- bytes of the capture (R171)
  complete : Bool
  exactDone : Bool
  failed : Option (List (Nat × Nat × Acc) × SMap Nat)  -- the first recomputation after a failed exact check, and its sent values
  firstEngine : Nat
deriving DecidableEq, Repr

/-- A context command in progress (R195 to R202). -/
structure CtxRun where
  cmd    : Nat             -- opcode of Table 10.7
  fresh  : Bool
  phase  : Nat             -- 0 work in flight ends, 1 image copy, 2 remote copy, 3 commit
  slot   : Nat
  remote : SMap Byte       -- lines read from the buddy, by offset from BUDDY_ADDR
  left   : Nat             -- remote requests outstanding
  bad    : Option Nat      -- the status a failed remote request gives
  id     : Nat             -- the model's own: tells the run's remote requests from those of an earlier one
  next   : Option Nat      -- a save accepted while the remote copy runs (R202): opcode 2 or 3
deriving DecidableEq, Repr

/-- A registered slotted area (R220). -/
structure Area where
  reg   : BitVec 512
  ovfl  : Nat
  nan   : Nat
  under : Nat
  doneReported : Bool
deriving DecidableEq, Repr

/-- A wait or lock request pending on a sync object (R250, R254). -/
structure WaitReq where
  tag      : Nat           -- the sync operation, or the operation of a vector program
  engine   : Option Nat    -- the engine of a waiting vector program
  owner    : Nat           -- owning context
  obj      : Nat
  target   : Nat
  acquire  : Bool
  agent    : Nat           -- agent number of Table 12.8
  ctx      : Nat           -- issuing context
  scope    : Nat
  deadline : Nat
  satisfied : Option Nat   -- time at which a satisfying change was accepted
deriving DecidableEq, Repr

/-- A sync object (Table 12.5). -/
structure SyncObj where
  type     : Nat
  poisoned : Bool
  set      : Bool
  held     : Bool
  comm     : Nat
  localCount : Nat
  localArrived : Nat
  epoch    : Nat
  holder   : Nat
deriving DecidableEq, Repr

/-- A message that has taken its port: its requester at the port (Table 13.5: order * 256 + index) and bytes sent. -/
structure TxMsg where
  msg  : Msg
  req  : Nat
  sent : Nat
deriving DecidableEq, Repr

/-- A DATA cell as sent. -/
structure TxCell where
  hdr     : BitVec 128
  payload : List Byte
deriving DecidableEq, Repr

/-- One direction pair of a Fraty link (R260 to R263). -/
structure Link where
  rxExpect : Nat           -- next SEQ expected
  rxSeen   : Bool          -- a DATA cell has been accepted: ACK_VALID of the headers sent
  dropping : Bool          -- discarding until the expected SEQ comes again
  txNext   : Nat           -- SEQ of the next new DATA cell
  replay   : List TxCell   -- cells sent and not yet acknowledged, oldest first
  tx       : SMap (List TxMsg) -- messages that have taken the port and are not wholly sent, per lane
  missed   : SMap Nat      -- cell slots in a row that VL2 and VL0 lost with data and credits (R266)
  waits    : SMap Nat      -- wait counts of the requesters of a lane, key lane*2^16 + requester (Table 13.5)
  credits  : SMap Nat      -- per virtual lane; unlisted: the partner's buffer size
  freed    : SMap Nat      -- cells freed since the last return, per lane
  heldCells : SMap Nat     -- cells of held collective messages, per lane: not yet freed (R283)
  reqSeq   : Nat           -- SEQ of the last REPLAY_REQ received
  reqCount : Nat           -- how often in a row
  rx       : SMap (List Byte) -- received bytes not yet made into messages, per lane
  badLow   : Bool          -- a lane of the half failed training or is retired
  badHigh  : Bool
deriving DecidableEq, Repr

/-- What a remote request was sent for (R276). A core's read keeps `fill`: no invalidation has come since it was sent. -/
inductive Purpose where
  | dmaRead (tag : Nat) (dst : Nat) (dstRemote : Bool)
  | dmaWrite (tag : Nat)
  | portRead (id : Nat)
  | portWrite (word : Nat)
  | hostDma (ch : Nat)
  | ctxImage (c run : Nat) (offset : Nat)
  | ckptClear (c run : Nat)
  | ckptImage (c run : Nat)
  | ckptCommit (c run : Nat)
  | lineRead (ag : Agent) (fill : Bool)
  | lineWrite (ag : Agent)
deriving DecidableEq, Repr

/-- A request that awaits its response. -/
structure RemoteReq where
  tag      : Nat
  addr     : Nat
  lines    : Nat
  isRead   : Bool
  deadline : Nat
  sentAt   : Option Nat    -- local time at which its first cell was sent; its time-out runs from then
  purpose  : Purpose
deriving DecidableEq, Repr

/-- A rank-table entry (R281). -/
structure Rank where
  device : Nat
  backup : Option Nat
deriving DecidableEq, Repr

/-- An incoming stream of a bucket (R291). -/
structure Stream where
  rank     : Nat
  isGroup  : Bool          -- a group partial; rank is the group number
  deadline : Option Nat
  handled  : Bool
  missed   : Bool
  substituted : Bool       -- SUBSTITUTE has been sent for it
  fromShadow  : Bool       -- the backup's contribution is the one used
  need     : Nat           -- elements expected
  vals     : SMap Nat      -- values as they travel, by bucket index (Table 14.5)
  shadow   : SMap Nat      -- the backup's values
  crcMain  : Option Nat
  crcShadow : Option Nat
  compared : Bool          -- the two CRCs have been compared (R297)
deriving DecidableEq, Repr

/-- A bucket in flight, kept until its collective ends (R287). -/
structure Bucket where
  tag     : Nat
  comm    : Nat
  seq     : Nat
  number  : Nat
  desc    : BitVec 1024
  ctx     : Nat
  taken   : Nat            -- local time of dispatch, moved on by stops (R293)
  feeder  : Option Nat     -- tag of the matrix operation whose slices feed the bucket
  own     : SMap Nat       -- this device's contribution in FMT, by bucket index; listed elements are present
  comp    : SMap Nat       -- the compressed contribution (R298) as 8-byte ACC entries
  sent    : Nat            -- bytes sent
  sentParts : List Nat     -- owners whose part has left, or has been formed on the device itself
  part    : SMap Nat       -- this device's own group partial of its own range
  streams : List Stream
  result  : SMap Nat       -- the owned shard's result in FMT, by bucket index
  foldDone : Bool          -- BLOCK: no flagged block is left
  blockVals : SMap Nat     -- BLOCK: folded elements, E4M3 in [7:0], bit 8 saturated
  scaleTab : SMap Byte     -- agreed scales, by block
  scaleIn : SMap Nat       -- scale pass: maximum byte seen, by block of the owned range
  scaleFrom : List Nat     -- ranks whose scale bytes have come
  scaleSent : List Nat     -- owners that have been sent this rank's scale bytes
  needScales : Bool        -- a scale pass runs
  flags   : SMap Nat       -- flagged blocks: 128 + k
  bump    : SMap Nat       -- K added to the agreed scale of a block (R302)
  repairing : Bool
  repairVals : SMap (SMap Nat) -- repair elements received, by rank
  norms   : SMap Acc       -- NORM values held, by rank; groups from 2^20 on
  normSent : Bool
  normOut : Option Acc     -- the bucket's squared norm, once known
  gathered : SMap Nat      -- gathered elements, by bucket index
  gatherSent : Bool
  doneSent : Bool
  doneFrom : List Nat      -- owners whose DONE has arrived
  stopTile : Option Nat    -- tile at which the contributing operation stopped
  stopSent : Bool
  needsArea : Bool
  areaNum : Option Nat
  updated : Bool           -- the owned shard's updates are written or given up (RSUG)
  status  : Nat
  finished : Bool
deriving DecidableEq, Repr

/-- The run of a collective on a communicator (R287, R307). -/
structure CollRun where
  posted    : Nat          -- bit b: bucket b has been posted
  lastSeen  : Option Nat   -- number of the bucket that carried LAST
  completed : Nat          -- bit b: bucket b has completed
  crcs      : SMap (Nat × Nat) -- C_in and C_out by bucket number
  diverge   : Bool
  subst     : Bool
  repaired  : Bool
  incomplete : Bool
  capUs     : Option Nat   -- the notice that extended the deadlines
deriving DecidableEq, Repr

/-- The update step of a context (R151 to R165), one for each collective. -/
structure UpdRun where
  header   : Option (BitVec 512)
  headerRead : Bool               -- the table has been read in this step, or found to lie outside the window
  entries  : SMap (BitVec 1024)   -- entries read in this step, by number
  firstStep : Option Nat          -- STEP of the first entry read
  status   : Nat
  failed   : List Nat             -- entries that failed their checks
  halted   : Bool                 -- the step has failed: no further element is updated (R163, R165)
  norms    : SMap Acc             -- bucket squared norms
  buckets  : Nat                  -- bit b: bucket b's owned shard is written, passed over or failed
  known    : Bool                 -- Q is known
  q        : Acc
  factor   : Acc
  nonfinite : Bool
  skipped  : Bool
  clipped  : Bool
  doneSlices : List (Nat × Nat)   -- entry and first element
  siltSat  : Nat
  nan      : Nat
  ovfl     : Nat
deriving DecidableEq, Repr

/-- What the Gwevi area of a saved image stands for (Table 10.6): the context's update steps and the reduced shards that
wait for their slices (R165, R197). -/
structure SavedImage where
  ctx     : Nat
  gwevi   : List Byte      -- the bytes of the area, not interpreted by any other party
  upd     : SMap UpdRun
  buckets : List Bucket
deriving DecidableEq, Repr

/-- A granted resource (R335). -/
structure ArbUnit where
  queue  : List ArbReq     -- parked requests, oldest first
  waits  : SMap Nat        -- key order*256 + index
  holder : Option ArbReq
  since  : Nat
deriving DecidableEq, Repr

/-- A response kept for repeats (R353). -/
structure KeptResp where
  src  : FieldSrc
  tid  : BitVec 16
  resp : List Byte
  at_  : Nat
deriving DecidableEq, Repr

/-- A field-network request that has passed the frame checks (R353). -/
structure FieldTx where
  src   : FieldSrc
  tid   : BitVec 16
  frame : List Byte
deriving DecidableEq, Repr

/-- Canary and check counts of a calibrated unit (R367). -/
structure Margin where
  canary : Nat
  cleanWindows : Nat
  cleanChecks  : Nat
  backedOff : Bool         -- a back_off ran in this window
  active : Bool            -- a wave or step started in this window
deriving DecidableEq, Repr

/-- Tests of Table 18.5. -/
inductive TestKind where
  | line
  | loamMarch
  | hbmRow
  | arrayRegion
  | outputStage
  | engine
  | stackLink
  | lane
  | fullUnit
deriving DecidableEq, Repr

/-- A targeted self-test, pending or running (R391). `unit` as UNIT of Table 18.3. -/
structure Test where
  unit    : Nat
  kind    : TestKind
  code    : Nat            -- event code that started it
  loc     : Nat            -- location (R392)
  detail  : Nat            -- LOG_TOTAL of the starting entry, all ones when suppressed
  running : Bool
  cell    : Option (Nat × Nat) -- kept cell (R393)
  capture : Option Capture     -- the captured tile of an EXACT_MISMATCH, with the exact check's values (R395)
deriving DecidableEq, Repr

/-- Recurrence count of a location (R392). -/
structure LocRec where
  code : Nat
  unit : Nat
  loc  : Nat
  times : List Nat
deriving DecidableEq, Repr

/-- What the device puts out. -/
inductive Output where
  | msg (v : Via) (m : Msg)
  | replay (p : Nat) (seq : Nat)
  | replayReq (p : Nat) (seq : Nat)
  | cell (p : Nat) (hdr : BitVec 128) (payload : List Byte)
  | linkTraining (p : Nat)
  | msix (vector : Nat)
  | datagram (dst : FieldSrc) (bytes : List Byte)
  | neighborAdvert (dst : BitVec 128)
  | echoReply (dst : BitVec 128) (data : List Byte)
  | hostData (data : List Byte) (poison : Bool)
  | hostWrite (addr : Nat) (data : List Byte)
  | hostRead (r : HostRead) (addr : Nat) (len : Nat)
  | retryStatus
  | configServed
  | lineData (ag : Agent) (addr : Nat) (data : Line) (poison : Bool)
  | atomicOld (n : Nat) (old : BitVec 64)
  | scDone (n : Nat) (stored : Bool)
  | accessFault (n : Nat)
  | hwFault (ag : Agent) (addr : Nat)
  | addressError (ag : Agent) (addr : Nat)
  | dictAnswer (p : Path) (status : Nat) (payload : List Byte)
  | cmdAnswer (p : Path) (status : Nat)
  | pmbusVout (rail : Nat) (mv : Nat)
  | pmbusStatusRead
  | claimed (p : Nat) (level : Nat)
  | tap (op : TapOp) (served : Bool)
  | arbGranted (r : Resource) (req : ArbReq)
deriving DecidableEq, Repr

/-- Ways the machine stops with a fault. No meaning of this model raises one: every error the spec gives the part is
state of the part. -/
inductive Fault where
  /-- Raised by no meaning; present so that the type is inhabited. Safe. -/
  | none
deriving DecidableEq, Repr

/-- Ways a command is refused. -/
inductive Refusal where
  /-- The command has no meaning yet. Raised only by the arms of Dispatch.lean. Safe. -/
  | notModelled (mnemonic : String)
deriving DecidableEq, Repr

/-- Power and thermal control beside its dictionary entries (ch. 17). -/
structure Power where
  margins  : SMap Margin   -- units 0-3 A0-A3, 4-7 V0-V3
  phases   : SMap Nat      -- running phase tag of partition 16*a + ii, plus 1
  announced : SMap Nat     -- announced phase tag and context, key partition*2^13 + slot: 1 + tag + 256*context (R371)
  wrapAt    : Nat          -- local time of the share table's last wrap (R373)
  fixedW    : Nat          -- fixed power of R372 as last modelled
  lastGrid  : Nat          -- 1 + local time of the last thermal grid point (R379)
  hbmRate  : Nat           -- HBM request rate, in 1/64 (R372)
  stackLimit : SMap Nat    -- limit of R379 of a stack, in 1/64; unlisted 64
  lowSince  : Option Nat   -- COOLANT_OK low since
  highSince : Option Nat   -- COOLANT_OK high since
  stopPhase : Nat          -- 0 running, 1 stopping, 2 stopped, 3 resuming
  stopAt    : Nat          -- start of the present stop
  tjHotSince : Option Nat  -- TJ_NOW at or above 105 since
  request   : Nat          -- 0 none, 2 Doze, 3 Hold requested and not yet entered
  leaving   : Bool         -- a return to D0 is under way
  railStopped : Nat        -- rails whose loop has stopped, bit per die (R369)
  lastLimits : SMap Nat    -- limits at the last voltage update, by unit
  ageBurn   : SMap Nat     -- ageing burns under way, by array: the value being burnt
deriving DecidableEq, Repr

/-- HBM beside its dictionary entries (ch. 11). -/
structure Hbm where
  slotIdx  : SMap Nat      -- present slot of a channel group
  turn     : SMap Nat      -- free mode: class served next
  freeMode : SMap Bool     -- mode in effect per channel group
  wrapped  : List Nat      -- groups that have adopted a committed mode
  lastGrant : SMap Nat     -- class granted last: 1 LC read, 2 LC write, 3 REDUCE, 4 BULK, 5 TEST
  areas    : SMap Area     -- registered areas by number
  arrived  : SMap Nat      -- arrival masks, key area*2^40 + target line index
  folded   : SMap Bool     -- complete target lines, same key
  sppr     : List HbmRow   -- active soft repairs
  burning  : List HbmRow   -- hard repairs being burnt
  replayOf : SMap Nat      -- per stack: 1 + transfer that failed last
  replayCount : SMap Nat   -- how often in a row
  spareWires : SMap Nat    -- spare wires used per stack
  unusable : SMap Bool     -- stacks no longer usable (R211)
  lastPhase : SMap Nat     -- last read-phase update, 1 + time, key stack*64 + pc
  lastRetrain : SMap Nat   -- last write retrain, 1 + time, key stack*32 + channel
  lastRefresh : SMap Nat   -- last refresh, 1 + time, key (stack*64 + pc)*64 + bank
  selfRefresh : Bool
  marginWhat : SMap Nat    -- bits of the margin run of a channel group
  tgenRun  : SMap (Nat × Nat × Nat) -- generator run of a stack: first line of its group, lines, reads in 16, as it started
  areaReports : SMap (Nat × Nat) -- AREA_DONE at the collective engine: the area's summed overflow and NaN counts (R222)
deriving DecidableEq, Repr

/-- The fabric beside its dictionary entries (ch. 13). -/
structure Fabric where
  links    : SMap Link
  reqs     : List RemoteReq
  nextTag  : Nat
  held     : List (Via × Msg)  -- messages in receive buffers: collective ones for buckets not yet posted, and those behind them in the lane (R283)
  subs     : List (Via × Msg)  -- SUBSTITUTE messages that wait for a backup's contribution (R296)
  loop     : List Msg          -- messages of this device to itself, not yet served (R272)
  kept     : List (Via × Msg)  -- responses kept during a coolant stop (R277)
  windowOk : List Nat          -- window writes whose OK is still due
  unsent   : List (RemoteReq × Msg) -- requests that wait to be sent (R276, R277), tag 0
  stops    : List (Nat × Nat × Nat) -- communicator, bucket and tile of contributions that stopped before the bucket was posted
deriving DecidableEq, Repr

/-- The interrupt controller beside its registers (R328 to R334). -/
structure Irq where
  cond    : SMap Nat       -- present condition bits of level sources, per group
  held    : SMap Nat       -- held sources, per group
  levels  : SMap (List Nat) -- level stacks of processors, top first
  timers  : SMap Nat       -- running hold-off timers: expiry time, per group
  pba     : SMap Nat       -- group + 1 of the source that set a vector's pending bit
  saved   : Bool           -- state saved in retention (Doze)
  late    : List Nat       -- sources that rose while saved, in order (R334)
deriving DecidableEq, Repr

/-- Field network, mailbox and notification (ch. 16). -/
structure Frames where
  pending : List FieldTx
  repeats : List FieldTx    -- repeats of pending transactions, answered with the first copy's response
  kept    : List KeptResp
  addrState : Nat           -- 0 no address, 1 optimistic, 2 valid, 3 withdrawn
  reqA    : List Byte
  reqB    : List Byte
  respA   : List Byte
  respB   : List Byte
  stA     : Nat             -- MB_STATE
  stB     : Nat
  ring    : SMap (List Byte) -- slot A's NOTIFY_RING
  ringNext : Nat
  notifySeq : Nat
  notifyQ : List (List Byte)
  staged  : SMap Nat        -- staged values, 1 + value, by key (R357)
deriving DecidableEq, Repr

/-- Reliability (ch. 18). -/
structure Rel where
  tests    : List Test
  locs     : List LocRec
  suppress : SMap (Nat × Nat) -- per code: millisecond and events in it
  faultDrive : Bool
  poison   : SMap Bool     -- poisoned units: loam 32-byte words, HBM 64-byte lines, by address
  retired  : SMap Bool     -- retired loam words (their line) and HBM lines, by line address
  engines  : Nat           -- retired vector engines, bit per engine
  lastComm : Option Nat    -- communicator that last began a collective
  loamScrubAt : Nat        -- line the loam patrol scrub reads next
  hbmScrubAt  : Nat
deriving DecidableEq, Repr

/-- Security (ch. 18). -/
structure Sec where
  result    : Option Nat   -- result of the running signed command, once its effect is done
  mSec      : BitVec 256
  mGwevi    : BitVec 256
  mBase     : BitVec 256
  mModules  : BitVec 256
  reportNonce : BitVec 256
  reportDue : Bool
  keyErased : Bool
  pendingHash : Option Nat -- owner key to fuse when the scrub of R404 ends
  pendingUnlock : Bool
  tapIr     : TapOp
  identityDone : Bool      -- identity derivation of this start-up has ended (R401, R412)
  via       : Option Path  -- the path by which the signed command came (R404)
  svnRun    : SMap Nat     -- SVN of the running SEC 0, GWEVI 1 and BASE 2 image (R400)
deriving DecidableEq, Repr

/-- A remote data-port read whose completion is held (R324). -/
structure PortRead where
  id     : Nat
  word   : Nat             -- DP_ADDR at its start
  addr   : Nat             -- fabric address of its first byte
  len    : Nat
  got    : SMap Byte       -- bytes by offset; unlisted FFh
  poison : Bool
  left   : Nat             -- requests not yet answered
deriving DecidableEq, Repr

/-- Host DMA channels, data-port reads and host-memory reads (R317, R323 to R327). -/
structure HostIf where
  slotData : SMap (BitVec 1024) -- descriptor read from host memory for a queue's head
  asked    : List Nat           -- queues whose head slot is being read from host memory
  dmaDesc  : SMap (BitVec 512)  -- descriptor read for a channel
  dmaBusy  : SMap Nat           -- channel with a descriptor in progress: 1 + remote requests left
  dmaErr   : SMap Nat           -- first failure of the descriptor in progress
  flushing : SMap Nat           -- queue in host memory whose slots are being returned: 1 + context (R317, R318)
  reads    : List PortRead
  nextRead : Nat
deriving DecidableEq, Repr

/-- The machine. -/
structure State where
  pending : List Instr
  pins    : Pins
  aon     : Aon
  dict    : SMap Nat
  bar     : SMap Nat
  domains : List Host.Cell
  mem     : List Host.Cell
  fuses   : Fuses
  ops     : List Op
  ready   : List ReadyRec
  rrLast  : SMap Nat        -- queue each dispatcher served last, plus 1
  ringPass : SMap Bool      -- pass bit of a ring; unlisted 1 (true)
  parts   : SMap Partition
  arrays  : SMap ArrayUnit
  engines : SMap Engine
  caps    : List Capture
  fidWin  : SMap (Nat × Nat × Bool) -- fidelity window of a context: checks, checks at or above THRESH_BIN, FIDELITY_LOW raised
  ctxs    : SMap CtxRun
  hbm     : Hbm
  sync    : SMap SyncObj
  syncPoison : Nat          -- bit c: the objects of context c were poisoned and it has not been loaded since (R253)
  waits   : List WaitReq
  rtCache : SMap Line       -- read-through caches, key die*2^44 + line address
  rrCache : SMap Line       -- remote-read cache, by fabric line address
  reservations : SMap Nat   -- per control core, 1 + the line address its LR reserved (R243)
  fab     : Fabric
  ranks   : SMap (List Rank)
  tables  : SMap (SMap Byte) -- block-scale tables of communicators, by bucket*2^34 + block; valid when listed
  buckets : List Bucket
  colls   : SMap CollRun
  barriers : SMap (List Nat) -- rank 0: devices arrived, key object*2^32 + epoch
  upd     : SMap UpdRun     -- key context*2^72 + communicator*2^64 + collective sequence
  images  : List SavedImage -- the Gwevi areas written so far, newest first
  ctxRuns : Nat             -- the model's own: numbers context commands
  irq     : Irq
  arb     : SMap ArbUnit
  frames  : Frames
  power   : Power
  rel     : Rel
  sec     : Sec
  hostIf  : HostIf
  out     : List Output
  freeCtr : Nat             -- the model's own: advances the free values of Config.freeValue
deriving DecidableEq, Repr

/-- The pins at reset: inputs inactive, clock and coolant present (DESIGN CHOICE, log 2). -/
def Pins.reset : Pins :=
  { perstN := false, coolantOk := true, paceHoldN := true, pmbAlertN := true, faultNLow := false, refclk := true,
    slotId := 0, bootMode := 0, pmbBase := 0 }

/-- The AON domain when VDD_AON comes up (R18): time 0, nothing started. -/
def Aon.reset : Aon :=
  { up := true, time := 0, s0 := false, perstSeen := false, waitPerst := false, dictUp := false, fatal := false,
    clockHeld := false, clockLost := false, frozen := false, thermtrip := false, pcieUp := false,
    pcieConfigured := false }

/-- Fuses of an unused part: nothing burnt (PRESUMED, log 4). -/
def Fuses.blank : Fuses :=
  { ceiling := [], marginFloor := [], ageing := [], repairs := [], repairFree := [], svn := [], ownerHash := [],
    ownerState := [], lemundHash := [], hpprUsed := [], hardRows := [], serial := 0, mac := 0 }

def Power.reset : Power :=
  { margins := [], phases := [], announced := [], wrapAt := 0, fixedW := 0, lastGrid := 0, hbmRate := 64, stackLimit := [], lowSince := none,
    highSince := some 0, stopPhase := 0, stopAt := 0, tjHotSince := none, request := 0, leaving := false,
    railStopped := 0, lastLimits := [], ageBurn := [] }

def Hbm.reset : Hbm :=
  { slotIdx := [], turn := [], freeMode := [], wrapped := [], lastGrant := [], areas := [], arrived := [],
    folded := [], sppr := [], burning := [], replayOf := [], replayCount := [], spareWires := [], unusable := [],
    lastPhase := [], lastRetrain := [], lastRefresh := [], selfRefresh := false, marginWhat := [],
    tgenRun := [], areaReports := [] }

def Fabric.reset : Fabric :=
  { links := [], reqs := [], nextTag := 0, held := [], subs := [], loop := [], kept := [], windowOk := [], unsent := [], stops := [] }

def Irq.reset : Irq := { cond := [], held := [], levels := [], timers := [], pba := [], saved := false, late := [] }

def Frames.reset : Frames :=
  { pending := [], repeats := [], kept := [], addrState := 0, reqA := [], reqB := [], respA := [], respB := [],
    stA := 0, stB := 0, ring := [], ringNext := 0, notifySeq := 0, notifyQ := [], staged := [] }

def Rel.reset : Rel :=
  { tests := [], locs := [], suppress := [], faultDrive := false, poison := [], retired := [], engines := 0,
    lastComm := none, loamScrubAt := 0, hbmScrubAt := 0 }

/-- Security at reset; the TAP holds IDCODE (PRESUMED, log 116). -/
def Sec.reset : Sec :=
  { result := none, mSec := 0, mGwevi := 0, mBase := 0, mModules := 0, reportNonce := 0, reportDue := false,
    keyErased := false, pendingHash := none, pendingUnlock := false, tapIr := .idcode, identityDone := false,
    via := none, svnRun := [] }

def HostIf.reset : HostIf := { slotData := [], asked := [], dmaDesc := [], dmaBusy := [], dmaErr := [], flushing := [], reads := [], nextRead := 0 }

/-- The machine right after VDD_AON has come up (R18, R410): START_STATE reads RAILS, every register at its reset
value, memory with nothing listed, nothing in flight. -/
def State.reset : State :=
  { pending := [], pins := Pins.reset, aon := Aon.reset, dict := [], bar := [], domains := [], mem := [],
    fuses := Fuses.blank, ops := [], ready := [], rrLast := [], ringPass := [], parts := [], arrays := [],
    engines := [], caps := [], fidWin := [], ctxs := [], hbm := Hbm.reset, sync := [], syncPoison := 0, waits := [], rtCache := [], rrCache := [], reservations := [],
    fab := Fabric.reset, ranks := [], tables := [], buckets := [], colls := [], barriers := [], upd := [],
    images := [], ctxRuns := 0,
    irq := Irq.reset, arb := [], frames := Frames.reset, power := Power.reset, rel := Rel.reset, sec := Sec.reset,
    hostIf := HostIf.reset, out := [], freeCtr := 0 }

end Sys2Proof.Machine
end

