-- ==== Sys2Proof/Machine/Store.lean ====
section
/-! DEFINITION. Sparse maps in one canonical form: keys strictly rising, and no entry equal to what an unlisted key
reads as. `get` and `set` are the only operations; a write of the unlisted value removes the entry. -/

namespace Sys2Proof.Machine

/-- What key `k` holds; an unlisted key reads as `d`. -/
def SMap.get {α : Type} : SMap α → Nat → α → α
  | [], _, d => d
  | (j, v) :: m, k, d => if j = k then v else SMap.get m k d

/-- Store `v` at key `k` of a map whose unlisted keys read as `d`. -/
def SMap.set {α : Type} [DecidableEq α] (m : SMap α) (k : Nat) (v d : α) : SMap α :=
  m.filter (fun e => decide (e.1 < k)) ++ ((if v = d then [] else [(k, v)]) ++ m.filter (fun e => decide (k < e.1)))

/-- Is key `k` listed. -/
def SMap.has {α : Type} (m : SMap α) (k : Nat) : Bool := m.any (fun e => e.1 == k)

/-- The entry of key `k`, if listed. -/
def SMap.find {α : Type} : SMap α → Nat → Option α
  | [], _ => none
  | (j, v) :: m, k => if j = k then some v else SMap.find m k

/-- Store `v` at key `k` of a map whose listed keys are the ones present. -/
def SMap.put {α : Type} (m : SMap α) (k : Nat) (v : α) : SMap α :=
  m.filter (fun e => decide (e.1 < k)) ++ ((k, v) :: m.filter (fun e => decide (k < e.1)))

/-- Remove key `k`. -/
def SMap.drop {α : Type} (m : SMap α) (k : Nat) : SMap α := m.filter (fun e => e.1 != k)

/-- Remove every key in [lo, hi). -/
def SMap.dropRange {α : Type} (m : SMap α) (lo hi : Nat) : SMap α := m.filter (fun e => !(decide (lo ≤ e.1) && decide (e.1 < hi)))

/-- The entries of `lo` below key `k` and those of `hi` from it on. -/
def SMap.graft {α : Type} (k : Nat) (lo hi : SMap α) : SMap α :=
  lo.filter (fun e => decide (e.1 < k)) ++ hi.filter (fun e => decide (k ≤ e.1))

/-- Counts by local time over the last 1 us: add `n` at time `t`, forget what is older. -/
def addRecent (m : SMap Nat) (t n : Nat) : SMap Nat :=
  SMap.set (m.filter (fun e => decide (t < e.1 + 1000))) t (SMap.get m t 0 + n) 0

/-- The sum over the last 1 us. -/
def recentSum (m : SMap Nat) (t : Nat) : Nat := ((m.filter (fun e => decide (t < e.1 + 1000))).map Prod.snd).sum

/-- Apply `f` to the entry of key `k`, read as `d` when unlisted. -/
def SMap.upd {α : Type} [DecidableEq α] (m : SMap α) (k : Nat) (d : α) (f : α → α) : SMap α :=
  SMap.set m k (f (SMap.get m k d)) d

/-- The canonical form of a map whose unlisted keys read as `d`. -/
def SMap.wf {α : Type} [DecidableEq α] (m : SMap α) (d : α) : Bool :=
  decide (m.Pairwise (fun a b => a.1 < b.1)) && m.all (fun e => decide (e.2 ≠ d))

/-- Replace the elements of a list that satisfy `p`. -/
def mapIf {α : Type} (p : α → Bool) (f : α → α) (l : List α) : List α := l.map (fun x => if p x then f x else x)

/-- The elements of `l` at positions that satisfy `p`. -/
def bitsOf (w : Nat) (n : Nat) : List Nat := (List.range n).filter (fun i => w.testBit i)

/-- Set or clear bit `i` of `w`. -/
def setBit (w i : Nat) (b : Bool) : Nat :=
  if b then w ||| 2 ^ i else if w.testBit i then w - 2 ^ i else w

/-- Bits [hi:lo] of `w` (R4). -/
def fld (w hi lo : Nat) : Nat := w / 2 ^ lo % 2 ^ (hi + 1 - lo)

/-- `w` with bits [hi:lo] replaced by `v`. -/
def setFld (w hi lo v : Nat) : Nat :=
  w / 2 ^ (hi + 1) * 2 ^ (hi + 1) + v % 2 ^ (hi + 1 - lo) * 2 ^ lo + w % 2 ^ lo

/-- The value of a little-endian byte list (R4). -/
def leVal : List Byte → Nat
  | [] => 0
  | b :: l => b.toNat + 256 * leVal l

/-- The `n` little-endian bytes of `v` (R4). -/
def leBytes : Nat → Nat → List Byte
  | 0, _ => []
  | n + 1, v => BitVec.ofNat 8 v :: leBytes n (v / 256)

/-- The value of a byte list in network order (R348). -/
def beVal (l : List Byte) : Nat := l.foldl (fun a b => a * 256 + b.toNat) 0

/-- The `n` bytes of `v` in network order. -/
def beBytes (n v : Nat) : List Byte := (leBytes n v).reverse

/-- `l` padded with zeros, or cut, to `n` bytes. -/
def padTo (n : Nat) (l : List Byte) : List Byte := (l ++ List.replicate (n - l.length) 0).take n

/-- Saturating addition into a field of `w` bits (R43). -/
def satAdd (w a b : Nat) : Nat := if 2 ^ w - 1 < a + b then 2 ^ w - 1 else a + b

/-- A flag as a bit. -/
def b2n (b : Bool) : Nat := if b then 1 else 0

end Sys2Proof.Machine
end

