-- ==== Sys2Proof/Machine/Hash.lean ====
section
/-! DEFINITION. SHA3-256 (FIPS 202), CRC-32 (R350) and CRC-64/ECMA-182 (R306). -/

namespace Sys2Proof.Machine

/-- Round constants of Keccak-f[1600]. -/
def keccakRC : List (BitVec 64) :=
  [0x0000000000000001, 0x0000000000008082, 0x800000000000808A, 0x8000000080008000,
   0x000000000000808B, 0x0000000080000001, 0x8000000080008081, 0x8000000000008009] ++
  [0x000000000000008A, 0x0000000000000088, 0x0000000080008009, 0x000000008000000A,
   0x000000008000808B, 0x800000000000008B, 0x8000000000008089, 0x8000000000008003] ++
  [0x8000000000008002, 0x8000000000000080, 0x000000000000800A, 0x800000008000000A,
   0x8000000080008081, 0x8000000000008080, 0x0000000080000001, 0x8000000080008008]

/-- Rotation offset of lane x + 5y. -/
def keccakRot : List Nat :=
  [0, 1, 62, 28, 27, 36, 44, 6, 55, 20, 3, 10, 43, 25, 39, 41, 45, 15, 21, 8, 18, 2, 61, 56, 14]

/-- Lane x + 5y of the state. -/
def lane (s : List (BitVec 64)) (x y : Nat) : BitVec 64 := s.getD (x % 5 + 5 * (y % 5)) 0

def keccakTheta (s : List (BitVec 64)) : List (BitVec 64) :=
  let c := (List.range 5).map (fun x => lane s x 0 ^^^ lane s x 1 ^^^ lane s x 2 ^^^ lane s x 3 ^^^ lane s x 4)
  (List.range 25).map (fun i =>
    s.getD i 0 ^^^ (c.getD ((i + 4) % 5) 0 ^^^ (c.getD ((i + 1) % 5) 0).rotateLeft 1))

/-- rho and pi: lane (x, y) moves to (y, 2x + 3y). Lane (X, Y) comes from x = X + 3Y, y = X. -/
def keccakRhoPi (s : List (BitVec 64)) : List (BitVec 64) :=
  (List.range 25).map (fun i =>
    let x := (i % 5 + 3 * (i / 5)) % 5
    let y := i % 5
    (lane s x y).rotateLeft (keccakRot.getD (x + 5 * y) 0))

def keccakChi (s : List (BitVec 64)) : List (BitVec 64) :=
  (List.range 25).map (fun i =>
    let x := i % 5
    let y := i / 5
    lane s x y ^^^ (~~~(lane s (x + 1) y) &&& lane s (x + 2) y))

def keccakRound (s : List (BitVec 64)) (rc : BitVec 64) : List (BitVec 64) :=
  match keccakChi (keccakRhoPi (keccakTheta s)) with
  | [] => []
  | a :: l => (a ^^^ rc) :: l

def keccakF (s : List (BitVec 64)) : List (BitVec 64) := keccakRC.foldl keccakRound s

/-- Absorb `n` blocks of 136 bytes. -/
def sha3Absorb : Nat → List (BitVec 64) → List Byte → List (BitVec 64)
  | 0, s, _ => s
  | n + 1, s, m =>
    let blk := m.take 136
    let s' := (List.range 25).map (fun i =>
      s.getD i 0 ^^^ BitVec.ofNat 64 (if i < 17 then leVal ((blk.drop (8 * i)).take 8) else 0))
    sha3Absorb n (keccakF s') (m.drop 136)

/-- Padding of SHA3-256: 06h, zeros, and 80h in the last byte of the block. -/
def sha3Pad (m : List Byte) : List Byte :=
  let k := 136 - m.length % 136
  if k = 1 then m ++ [0x86] else m ++ [0x06] ++ List.replicate (k - 2) 0 ++ [0x80]

/-- SHA3-256 (FIPS 202). -/
def sha3 (m : List Byte) : List Byte :=
  let p := sha3Pad m
  ((sha3Absorb (p.length / 136) (List.replicate 25 0) p).take 4).flatMap (fun l => leBytes 8 l.toNat)

/-- SHA3-256 as a 256-bit little-endian value. -/
def sha3Val (m : List Byte) : Nat := leVal (sha3 m)

/-- Eight steps of a reflected CRC-32. -/
def crc32Byte (c : BitVec 32) (b : Byte) : BitVec 32 :=
  (List.range 8).foldl (fun c _ => if c.getLsbD 0 then (c >>> 1) ^^^ 0xEDB88320 else c >>> 1) (c ^^^ b.zeroExtend 32)

/-- CRC-32 of R350. -/
def crc32 (l : List Byte) : Nat := (l.foldl crc32Byte 0xFFFFFFFF ^^^ 0xFFFFFFFF : BitVec 32).toNat

/-- Eight steps of CRC-64/ECMA-182: polynomial 42F0_E1EB_A9EA_3693h, most significant bit first. -/
def crc64Byte (c : BitVec 64) (b : Byte) : BitVec 64 :=
  (List.range 8).foldl (fun c _ => if c.getLsbD 63 then (c <<< 1) ^^^ 0x42F0E1EBA9EA3693 else c <<< 1)
    (c ^^^ (b.zeroExtend 64 <<< 56))

/-- CRC-64/ECMA-182, initial value 0, no final exclusive-or (R306). -/
def crc64 (l : List Byte) : Nat := (l.foldl crc64Byte 0).toNat

end Sys2Proof.Machine
end

