-- ==== Sys2Proof/Machine/Regs.lean ====
section
/-! DEFINITION. Register access: dictionary entries (key index*256 + subindex, R341), DOMAIN bytes, BAR0 registers,
local time and outputs. Reset values are those of the entry tables; log 4 names the values the spec leaves to fuses,
straps or calibration. -/

namespace Sys2Proof.Machine

/-- Key of a dictionary entry. -/
abbrev dkey (i sub : Nat) : Nat := i * 256 + sub

/-- Is `i` in [lo, lo + n). -/
def inIdx (i lo n : Nat) : Bool := decide (lo ≤ i) && decide (i < lo + n)

/-- The default slot table: four words 4040_4048h (R213). -/
def slotTableDefault : Nat := 0x40404048404040484040404840404048

/-- 64 bytes of 40h (Table 17.7). -/
def shareTableDefault : Nat :=
  0x40404040404040404040404040404040404040404040404040404040404040404040404040404040404040404040404040404040404040404040404040404040

/-- "NL4H20-LC-A1" padded with zeros, first character in the lowest byte (Table 16.9). -/
def orderingCode : Nat := 0x31412D434C2D303248344C4E

/-- Reset values of 1000h to 2FFFh. -/
def resetLow (i sub : Nat) : Nat :=
  if i = 0x1000 then (if sub = 1 then 0x4C4D0420 else if sub = 2 then orderingCode else 0)
  else if i = 0x1010 then (if sub = 1 then 4867 else if sub = 4 then 0x3F else 0)
  else if i = 0x2004 then (if sub = 2 then 10 else 0)
  else if i = 0x2020 then (if sub = 1 then 65536 else 0)
  else if i = 0x2030 then (if sub = 0x29 || sub = 0x2A then 1 else 0)
  else if inIdx i 0x2100 64 then (if sub = 1 then 64 * 2 ^ 89 else 0)
  else if inIdx i 0x2300 4 then (if sub = 2 then 2000 else if sub = 3 || sub = 4 then 8 else 0)
  else if i = 0x2500 then (if sub = 1 then 1000000000 else 0)
  else if i = 0x2700 then (if sub = 1 then 1000 else if sub = 2 then 10000 else if sub = 3 then 100000
    else if sub = 4 then 10000 else 0)
  else if i = 0x2710 then (if sub = 1 then 1023 else if sub = 2 then 64 else if sub = 3 then 128 else if sub = 4 then 32
    else if sub = 5 then 16 else if sub = 6 then 1023 else 0)
  else if i = 0x2711 then (if sub = 1 then 16 else if sub = 2 then 64 else if sub = 3 then 128 else if sub = 4 then 128
    else if sub = 5 then 1023 else 0)
  else if i = 0x2712 then (if sub = 1 then 16 else if sub = 2 then 32 else if sub = 3 then 64 else if sub = 4 then 128
    else 0)
  else if i = 0x2713 then (if sub = 1 then 16 else if sub = 2 || sub = 3 then 32 else if sub = 4 || sub = 5 then 64
    else if sub = 6 || sub = 7 then 128 else 0)
  else 0

/-- Reset values of 3000h to 3FFFh (Table 17.7). -/
def resetPower (i sub : Nat) : Nat :=
  if i = 0x3000 then (if sub = 1 then 3200 else if sub = 2 then 3600 else if sub = 3 then 50 else 0)
  else if i = 0x3018 then (if sub = 1 || sub = 3 then 16 else if sub = 2 then 64 else 0)
  else if i = 0x3020 then (if sub = 1 then 1000 else if sub = 2 then 16 else if sub = 3 then 500
    else if sub = 4 then 1 else 0)
  else if i = 0x3050 then (if sub = 3 then 64 else 0)
  else if inIdx i 0x3060 2 then (if sub = 5 then 700 else 0)
  else if i = 0x3070 then (if sub = 2 then 4 else 0)
  else if i = 0x3080 then (if sub = 1 then 8 else 0)
  else if i = 0x3082 then (if sub = 1 || sub = 2 then shareTableDefault else 0)
  else if i = 0x3200 then (if 2 ≤ sub && sub ≤ 11 then 0x3F800000 else 0)
  else 0

/-- Reset values of 4000h up. -/
def resetHigh (i sub : Nat) : Nat :=
  if i = 0x4000 then (if sub = 3 then 2 else 0)
  else if inIdx i 0x5100 80 then (if sub = 1 || sub = 2 then slotTableDefault else 0)
  else if inIdx i 0x5200 20 then (if sub = 3 then 0x13F00000000 else if sub = 5 then 8 else if sub = 6 then 1 else 0)
  else if i = 0x6120 then (if sub = 1 then 3 else if sub = 2 then 10 else if sub = 3 then 2 else 0)
  else if inIdx i 0x6140 64 then (if sub = 0x21 then 27 else if sub = 0x22 then 4 else 0)
  else if i = 0x7000 then (if sub = 3 then 100000 else 0)
  else if inIdx i 0x7020 24 then (if sub = 2 then 1 else 0)
  else if i = 0x7080 then (if sub = 1 then 1000000000 else if sub = 2 then 50 else 0)
  else if i = 0x8000 then (if sub = 1 then 3 else if sub = 3 then 2 else if sub = 4 || sub = 6 then 3600
    else if sub = 5 then 2 else if sub = 7 then 86400 else 0)
  else 0

/-- The reset value of a dictionary entry. -/
def resetVal (i sub : Nat) : Nat :=
  if i < 0x3000 then resetLow i sub else if i < 0x4000 then resetPower i sub else resetHigh i sub

/-- The stored value of a dictionary entry. -/
def reg (s : State) (i sub : Nat) : Nat := SMap.get s.dict (dkey i sub) (resetVal i sub)

/-- Store a dictionary entry. -/
def setReg (s : State) (i sub v : Nat) : State :=
  { s with dict := SMap.set s.dict (dkey i sub) v (resetVal i sub) }

/-- Add to a 64-bit counter; R398: none wraps in the service life. -/
def bumpBy (s : State) (i sub n : Nat) : State := setReg s i sub ((reg s i sub + n) % 2 ^ 64)

def bump (s : State) (i sub : Nat) : State := bumpBy s i sub 1

/-- Add to a counter of 32 bits that saturates. -/
def bumpSat32 (s : State) (i sub n : Nat) : State := setReg s i sub (satAdd 32 (reg s i sub) n)

/-- Local time in ns (R18). -/
abbrev now (s : State) : Nat := s.aon.time

/-- Put out `o`. -/
def emit (s : State) (o : Output) : State := { s with out := s.out ++ [o] }

/-- A BAR0 register. -/
def barDefault (off : Nat) : Nat :=
  if 0x300000 ≤ off && off < 0x300400 && off % 16 == 12 then 1 else 0

def bget (s : State) (off : Nat) : Nat := SMap.get s.bar off (barDefault off)

def bset (s : State) (off v : Nat) : State := { s with bar := SMap.set s.bar off v (barDefault off) }

/-- Key of byte `off` of a DOMAIN entry. -/
abbrev domKey (i sub off : Nat) : Nat := dkey i sub * 2 ^ 20 + off

def domByte (s : State) (i sub off : Nat) : Byte := SMap.get s.domains (domKey i sub off) 0

def domRead (s : State) (i sub off len : Nat) : List Byte := (List.range len).map (fun j => domByte s i sub (off + j))

/-- Store bytes from key `k` of a byte map. -/
def putBytes (m : List Host.Cell) (k : Nat) : List Byte → List Host.Cell
  | [] => m
  | b :: l => putBytes (SMap.set m k b 0) (k + 1) l

def domWrite (s : State) (i sub off : Nat) (l : List Byte) : State :=
  { s with domains := putBytes s.domains (domKey i sub off) l }

/-- A little-endian field of a DOMAIN. -/
def domVal (s : State) (i sub off len : Nat) : Nat := leVal (domRead s i sub off len)

/-- A fresh free value (log 3): the model's counter advances. -/
def nextFree (s : State) : State := { s with freeCtr := s.freeCtr + 1 }

/-- The device number (R7). -/
abbrev devNum (s : State) : Nat := reg s 0x7000 1

/-- START_STATE (Table 19.6). -/
abbrev startState (s : State) : Nat := reg s 0x2001 1

/-- REF-derived domains run: the clock is present and the device has not been held by its loss (R15). -/
def clockOn (s : State) : Bool := s.aon.up && s.pins.refclk && !s.aon.clockHeld

end Sys2Proof.Machine
end

