-- ==== Sys2Proof/Machine/Interrupts.lean ====
section
/-! DEFINITION. The interrupt controller (R328 to R334). Registers live at BAR0 0020_0000h (Table 15.11): SRC_CFG at
+4s, PENDING at +1000h + 4g, THRESHOLD of processor p at +2000h + 200h * p. -/

namespace Sys2Proof.Machine

/-- Source 32g + i. -/
abbrev src (g i : Nat) : Nat := 32 * g + i

abbrev srcCfgOff (s : Nat) : Nat := 0x200000 + 4 * s
abbrev pendOff (g : Nat) : Nat := 0x201000 + 4 * g
abbrev thrOff (p : Nat) : Nat := 0x202000 + 0x200 * p

def srcCfg (s : State) (n : Nat) : Nat := bget s (srcCfgOff n)

/-- PRIO, TARGET and VECTOR of a source (Table 15.12). -/
def srcPrio (s : State) (n : Nat) : Nat := fld (srcCfg s n) 3 0
def srcTarget (s : State) (n : Nat) : Nat := fld (srcCfg s n) 6 4
def srcVector (s : State) (n : Nat) : Nat := fld (srcCfg s n) 13 8

def pendWord (s : State) (g : Nat) : Nat := bget s (pendOff g)
def isPending (s : State) (n : Nat) : Bool := (pendWord s (n / 32)).testBit (n % 32)
def isHeld (s : State) (n : Nat) : Bool := (SMap.get s.irq.held (n / 32) 0).testBit (n % 32)

/-- Level sources (Table 15.10). -/
def isLevelSrc (n : Nat) : Bool :=
  let g := n / 32
  let i := n % 32
  g == 2 || g == 3 || (g == 4 && i % 8 == 4) || (g == 9 && i < 20)
    || (g == 15 && (i == 0 || i == 1 || i == 3 || i == 4)) || (g == 16 && i == 0)
    || (g == 17 && 5 ≤ i && i ≤ 8) || (g == 18 && i == 1)

/-- Sources that Table 15.10 lists; others are never pending (R328). -/
def srcListed (n : Nat) : Bool :=
  let g := n / 32
  let i := n % 32
  g ≤ 3 || (g == 4 && i % 8 ≤ 4) || (g == 5 && i % 8 ≤ 1) || (g == 6 && i ≤ 7) || (g == 7 && i ≤ 8)
    || (g == 8 && i ≤ 22) || (g == 9 && i ≤ 21) || (g == 10 && i ≤ 2) || (g == 11 && i ≤ 27) || (g == 12 && i ≤ 24)
    || (g == 13 && i ≤ 6) || (g == 14 && i ≤ 3) || (g == 15 && i ≤ 7) || (g == 16 && i ≤ 4) || (g == 17 && i ≤ 9)
    || (g == 18 && i ≤ 4) || (19 ≤ g && g ≤ 23) || (g == 24 && i ≤ 7)

/-- The condition of a level source. -/
def condOf (s : State) (n : Nat) : Bool := (SMap.get s.irq.cond (n / 32) 0).testBit (n % 32)

/-- A pending source is counted unless it is held (R330). -/
def isCounted (s : State) (n : Nat) : Bool := isPending s n && !isHeld s n

/-- The pending sources. -/
def pendingSources (s : State) : List Nat :=
  (List.range 32).flatMap (fun g => (bitsOf (pendWord s g) 32).map (fun i => 32 * g + i))

/-- WIN_LEVEL of processor p (R330). -/
def winLevel (s : State) (p : Nat) : Nat :=
  ((pendingSources s).filter (fun n => isCounted s n && srcTarget s n == p)).foldl (fun m n => max m (srcPrio s n)) 0

/-- The stack of processor p, top first (R331). -/
def levelStack (s : State) (p : Nat) : List Nat := SMap.get s.irq.levels p []

def runLevel (s : State) (p : Nat) : Nat := (levelStack s p).headD 0

def threshold (s : State) (p : Nat) : Nat := fld (bget s (thrOff p)) 3 0

/-- LINE of processor p (R330, R331): the host's shows a counted source above its THRESHOLD. -/
def line (s : State) (p : Nat) : Bool :=
  if p = 5 then decide (threshold s 5 < winLevel s 5)
  else decide (threshold s p < winLevel s p) && decide (runLevel s p < winLevel s p)

/-- HOLDOFF_NS of group g. -/
def holdoffNs (s : State) (g : Nat) : Nat := reg s (0x2180 + g) 1

/-- Is group g's hold-off timer running. -/
def timerOn (s : State) (g : Nat) : Bool :=
  match SMap.find s.irq.timers g with
  | none => false
  | some t => decide (now s < t)

/-- Start group g's timer when its HOLDOFF_NS is not 0 and it is not running (R332). -/
def startTimer (s : State) (g : Nat) : State :=
  if holdoffNs s g = 0 || timerOn s g then s
  else { s with irq := { s.irq with timers := SMap.put s.irq.timers g (now s + holdoffNs s g) } }

/-- MSI-X table words and the pending-bit array. -/
abbrev msixCtl (v : Nat) : Nat := 0x30000C + 16 * v
abbrev pbaOff : Nat := 0x301000

/-- Send the message of source n, which starts its group's timer (R332), or set the vector's bit in the pending-bit array
while it is masked (R333). -/
def sendMsix (s : State) (n : Nat) : State :=
  let v := srcVector s n
  if (bget s (msixCtl v)).testBit 0 then
    bset { s with irq := { s.irq with pba := SMap.set s.irq.pba v (n / 32 + 1) 0 } } pbaOff (setBit (bget s pbaOff) v true)
  else startTimer (emit s (.msix v)) (n / 32)

/-- The controller speaks only while its clock runs and it is not in Doze retention (R15, R334). -/
def irqLive (s : State) : Bool := clockOn s && !s.irq.saved

/-- A source whose pending bit has just risen and is counted: the host's message (R333) and the timer (R332). -/
def msixOnRise (s : State) (n : Nat) : State :=
  if irqLive s && isCounted s n && srcTarget s n == 5 && decide (threshold s 5 < srcPrio s n) then
    sendMsix s n
  else s

/-- Groups with a counted source for p at WIN_LEVEL. -/
def winGroups (s : State) (p : Nat) : List Nat :=
  (List.range 32).filter (fun g => (pendingSources s).any (fun n =>
    n / 32 == g && isCounted s n && srcTarget s n == p && srcPrio s n == winLevel s p))

/-- Lines of CC0-CC3 and the security core that are asserted now and were not in `before` start the timers of the
groups that assert them (R332). -/
def linesRose (before s : State) : State :=
  if irqLive s then
    (List.range 5).foldl (fun t p =>
      if line t p && !line before p then (winGroups t p).foldl startTimer t else t) s
  else s

/-- Set the pending bit of a source (R328): a rise while the group's timer runs is held (R330). -/
def raise (s : State) (n : Nat) : State :=
  if isPending s n || !srcListed n then s
  else
    let g := n / 32
    let s1 := bset s (pendOff g) (setBit (pendWord s g) (n % 32) true)
    if timerOn s g then
      { s1 with irq := { s1.irq with held := SMap.set s1.irq.held g (setBit (SMap.get s1.irq.held g 0) (n % 32) true) 0 } }
    else if s.irq.saved then { s1 with irq := { s1.irq with late := s1.irq.late ++ [n] } }
    else linesRose s (msixOnRise s1 n)

def raiseAll (s : State) (l : List Nat) : State := l.foldl raise s

/-- Set the condition of a level source; while it holds, the source is pending (R328). -/
def setCond (s : State) (n : Nat) (b : Bool) : State :=
  let g := n / 32
  let s1 := { s with irq := { s.irq with cond := SMap.set s.irq.cond g (setBit (SMap.get s.irq.cond g 0) (n % 32) b) 0 } }
  if b then raise s1 n else s1

/-- Clear a pending bit; a level source whose condition persists rises again at once (R328). -/
def clearPending (s : State) (n : Nat) : State :=
  let g := n / 32
  let s1 := bset s (pendOff g) (setBit (pendWord s g) (n % 32) false)
  let s2 := { s1 with irq := { s1.irq with held := SMap.set s1.irq.held g (setBit (SMap.get s1.irq.held g 0) (n % 32) false) 0 } }
  if isLevelSrc n && condOf s2 n then raise s2 n else s2

end Sys2Proof.Machine
end

