-- ==== Sys2Proof/Machine/Messages.lean ====
section
/-! DEFINITION. Fabric messages (Table 13.3), routing (R267 to R269) and what a port carries (R259 to R261). -/

namespace Sys2Proof

/-- Bits [hi:lo] of word Qn of a header. -/
def Msg.q (m : Msg) (n hi lo : Nat) : Nat := Machine.fld m.hdr.toNat (64 * n + hi) (64 * n + lo)

def Msg.opcode (m : Msg) : Nat := m.q 0 7 0
def Msg.pinned (m : Msg) : Bool := m.q 0 9 9 == 1
def Msg.linkLocal (m : Msg) : Bool := m.q 0 10 10 == 1
def Msg.fmt (m : Msg) : Nat := m.q 0 14 12
def Msg.hops (m : Msg) : Nat := m.q 0 21 16
def Msg.linesM1 (m : Msg) : Nat := m.q 0 30 24
def Msg.source (m : Msg) : Nat := m.q 0 47 32
def Msg.tag (m : Msg) : Nat := m.q 0 63 48
def Msg.addr (m : Msg) : Nat := m.q 1 59 0
def Msg.dest (m : Msg) : Nat := m.q 1 59 44
def Msg.offset (m : Msg) : Nat := m.q 1 43 0
def Msg.mask (m : Msg) : Nat := m.q 3 63 0

end Sys2Proof

namespace Sys2Proof.Machine

/-- All 64 bits one: the BYTE_MASK of a message that enables every byte. -/
abbrev ones64 : Nat := 2 ^ 64 - 1

/-- A message. `q0` gives CLASS, PINNED, LINK_LOCAL and FMT as they lie in bits [15:8]. -/
def mkMsg (op flags lm1 source tag addr q2 mask : Nat) (body : List Line) : Msg :=
  { hdr := BitVec.ofNat 256
      (op + 2 ^ 8 * flags + 2 ^ 24 * lm1 + 2 ^ 32 * (source % 65536) + 2 ^ 48 * (tag % 65536)
        + 2 ^ 64 * (addr % 2 ^ 60) + 2 ^ 128 * q2 + 2 ^ 192 * mask),
    body := body }

/-- The virtual lane of an opcode (Table 13.4). -/
def vlOf (op : Nat) : Nat :=
  if op = 1 || op = 2 then 0
  else if op = 0x81 || op = 0x82 || op = 0x83 then 1
  else if op = 3 || op = 4 || op = 6 then 2
  else 3

/-- Does the opcode carry lines (Table 13.4). -/
def carriesBody (op : Nat) : Bool :=
  op == 2 || op == 3 || op == 4 || op == 6 || op == 7 || op == 8 || op == 0x81

/-- LINK_STATE of a port: UP or UP_HALF. -/
def portUp (s : State) (p : Nat) : Bool := reg s (0x7020 + p) 1 == 2 || reg s (0x7020 + p) 1 == 3

/-- The partner's buffer of a lane (R261). -/
def laneBuffer (vl : Nat) : Nat := if vl = 0 then 128 else if vl = 1 then 192 else if vl = 2 then 128 else 64

def Link.fresh : Link :=
  { rxExpect := 0, rxSeen := false, dropping := false, txNext := 0, replay := [], tx := [], missed := [], waits := [],
    credits := [], freed := [], heldCells := [], reqSeq := 0, reqCount := 0, rx := [], badLow := false, badHigh := false }

def linkOf (s : State) (p : Nat) : Link := SMap.get s.fab.links p Link.fresh

def setLink (s : State) (p : Nat) (l : Link) : State :=
  { s with fab := { s.fab with links := SMap.set s.fab.links p l Link.fresh } }

def creditsOf (s : State) (p vl : Nat) : Nat := SMap.get (linkOf s p).credits vl (laneBuffer vl)

/-- The route-table entry of a destination (R267). -/
def routeEntry (s : State) (d : Nat) : Nat := domVal s 0x7010 1 (8 * d) 8

/-- The port of a set that is up and holds the most credits; a tie goes to the lowest (R268). -/
def bestPort (s : State) (vl : Nat) (l : List Nat) : Option Nat :=
  l.foldl (fun b p => match b with
    | none => some p
    | some q => if creditsOf s q vl < creditsOf s p vl then some p else some q) none

/-- The port a message takes (R268); none: UNREACHABLE. -/
def routePort (s : State) (m : Msg) : Option Nat :=
  let e := routeEntry s m.dest
  let mode := fld e 30 29
  if mode = 1 || (mode = 2 && m.pinned) then
    (if portUp s (fld e 28 24) && decide (fld e 28 24 < 24) then some (fld e 28 24) else none)
  else if mode = 2 then bestPort s (vlOf m.opcode) ((bitsOf (fld e 23 0) 24).filter (portUp s))
  else none

/-- A message is discarded and counted (R269). -/
def discardMsg (s : State) : State := raise (bump s 0x7000 0x0A) (src 11 25)

/-! Cells (R260 to R262, R266, Table 13.2). -/
def cVl (h : Nat) : Nat := fld h 1 0
def cType (h : Nat) : Nat := fld h 3 2
def cSeq (h : Nat) : Nat := fld h 15 4
def cAck (h : Nat) : Nat := fld h 27 16
def cAckValid (h : Nat) : Bool := h.testBit 28
def cCredits (h v : Nat) : Nat := fld h (64 + 8 * v + 7) (64 + 8 * v)
def cFill (h : Nat) : Nat := fld h 103 96

/-- The header of a cell that a link sends: the credits of the cells freed since the last return go with it. -/
def cellHdr (l : Link) (type vl seq ack fill : Nat) (ackValid : Bool) : BitVec 128 :=
  BitVec.ofNat 128 (vl + type * 2 ^ 2 + seq * 2 ^ 4 + ack * 2 ^ 16 + b2n ackValid * 2 ^ 28
    + ((List.range 4).map (fun v => min 255 (SMap.get l.freed v 0) * 2 ^ (64 + 8 * v))).sum + fill * 2 ^ 96)

/-- The last in-order DATA cell received. -/
def lastSeq (l : Link) : Nat := (l.rxExpect + 4095) % 4096

/-- The bytes of a message in its lane's stream. -/
def msgBytes (m : Msg) : List Byte := leBytes 32 m.hdr.toNat ++ m.body.flatMap (fun x => leBytes 64 x.toNat)

/-- The requester that wins (R335): the lowest of those whose wait has reached its limit, else the lowest of all. -/
def winner (limit : Nat → Nat) (wait : Nat → Nat) (c : List Nat) : Option Nat :=
  let f := c.filter (fun w => decide (limit (w / 256) ≤ wait w))
  let pool := if f.isEmpty then c else f
  pool.foldl (fun b w => match b with
    | none => some w
    | some x => some (min x w)) none

/-- WAIT_LIMIT of an order number (R338). -/
def waitLimit (s : State) (k order : Nat) : Nat := reg s (0x2710 + k) order

/-- Is FABRIC_ENABLE set. -/
def fabricOn (s : State) : Bool := reg s 0x7000 2 == 1

/-- May a port carry a message now: while FABRIC_ENABLE is 0 the ports carry only NOTICEs (R259), and the NAKs that answer
requests then (Table 13.7; log 71). -/
def portCarries (s : State) (m : Msg) : Bool := fabricOn s || m.opcode == 8 || m.opcode == 0x83

/-- The wait count of a requester of a lane. -/
def laneWait (l : Link) (vl w : Nat) : Nat := SMap.get l.waits (vl * 2 ^ 16 + w) 0

def laneMsgs (l : Link) (vl : Nat) : List TxMsg := SMap.get l.tx vl []

/-- The requesters of a lane whose messages can begin. -/
def laneReqs (s : State) (l : Link) (vl : Nat) : List Nat :=
  (((laneMsgs l vl).filter (fun x => portCarries s x.msg)).map TxMsg.req).eraseDups

/-- The message a lane sends from: the one begun, else the oldest of the requester that the arbiter grants (R266, R335). The
messages of a lane are laid end to end, so one that has begun goes on to its end (log 20). -/
def nextTx (s : State) (l : Link) (vl : Nat) : Option TxMsg :=
  match (laneMsgs l vl).find? (fun x => x.sent != 0) with
  | some x => some x
  | none =>
    match winner (waitLimit s 2) (laneWait l vl) (laneReqs s l vl) with
    | none => none
    | some w => (laneMsgs l vl).find? (fun x => x.req == w && portCarries s x.msg)

/-- The wait counts after a grant. -/
def tallyLane (l : Link) (vl w : Nat) (c : List Nat) : SMap Nat :=
  c.foldl (fun m y => SMap.set m (vl * 2 ^ 16 + y) (if y = w then 0 else laneWait l vl y + 1) 0) l.waits

/-- Fill a cell of a lane with at most `room` bytes: the link after it, the bytes, and the messages that begin in it. -/
def fillCell (s : State) (vl : Nat) : Nat → Link → Nat → Link × List Byte × List Msg
  | 0, l, _ => (l, [], [])
  | k + 1, l, room =>
    if room = 0 then (l, [], [])
    else match nextTx s l vl with
      | none => (l, [], [])
      | some x =>
        let all := msgBytes x.msg
        let part := (all.drop x.sent).take room
        let x1 := { x with sent := x.sent + part.length }
        let q := if x1.sent = all.length then (laneMsgs l vl).erase x else (laneMsgs l vl).replace x x1
        let r := fillCell s vl k { l with
          tx := SMap.set l.tx vl q []
          waits := if x.sent = 0 then tallyLane l vl x.req (laneReqs s l vl) else l.waits } (room - part.length)
        (r.1, part ++ r.2.1, if x.sent = 0 then x.msg :: r.2.2 else r.2.2)

/-- A lane that has data and a credit (R261). -/
def laneReady (s : State) (l : Link) (v : Nat) : Bool :=
  decide (0 < SMap.get l.credits v (laneBuffer v)) && (nextTx s l v).isSome

/-- The lane that takes the next cell slot (R266): VL3, VL1, VL2, VL0, but VL2 or VL0 after eight slots lost in a row. -/
def pickLane (s : State) (l : Link) : Option Nat :=
  let ready := [3, 1, 2, 0].filter (laneReady s l)
  match [2, 0].find? (fun v => ready.contains v && decide (8 ≤ SMap.get l.missed v 0)) with
  | some v => some v
  | none => ready.head?

/-- The slots VL2 and VL0 have lost after lane v took one. -/
def tallySlot (s : State) (l : Link) (v : Nat) : SMap Nat :=
  [0, 2].foldl (fun m x => SMap.set m x (if x = v || !laneReady s l x then 0 else SMap.get l.missed x 0 + 1) 0) l.missed

/-- The first cell of a request of this device has been sent: its time runs (R276). -/
def beginReq (s : State) (m : Msg) : State :=
  if m.source = devNum s && (m.opcode == 1 || m.opcode == 2) then
    let start := fun (r : RemoteReq) => { r with sentAt := some (now s), deadline := now s + reg s 0x7000 3 }
    { s with fab := { s.fab with reqs := mapIf (fun r => r.tag == m.tag && r.sentAt.isNone) start s.fab.reqs } }
  else s

/-- Send the next DATA cell of a port: none while its link is not up, its replay buffer is full, or no lane is ready
(R261, R262). -/
def sendCell (s : State) (p : Nat) : Option State :=
  let l := linkOf s p
  if !portUp s p || decide (1024 ≤ l.replay.length) then none
  else match pickLane s l with
    | none => none
    | some v =>
      let r := fillCell s v 8 l 240
      let c : TxCell := { hdr := cellHdr l 0 v l.txNext (lastSeq l) r.2.1.length l.rxSeen, payload := padTo 240 r.2.1 }
      let l1 := { r.1 with
        txNext := (l.txNext + 1) % 4096
        replay := l.replay ++ [c]
        freed := []
        missed := tallySlot s l v
        credits := SMap.set l.credits v (SMap.get l.credits v (laneBuffer v) - 1) (laneBuffer v) }
      some (bump (emit (r.2.2.foldl beginReq (setLink s p l1)) (.cell p c.hdr c.payload)) (0x7020 + p) 0x0B)

/-- Send cells until none can go; the replay buffer bounds their number. -/
def sendCells : Nat → State → Nat → State
  | 0, s, _ => s
  | k + 1, s, p =>
    match sendCell s p with
    | none => s
    | some t => sendCells k t p

/-- A port sends what it can. -/
def pumpPort (s : State) (p : Nat) : State := sendCells 1024 s p

/-- The requester of a message of this device at a port (Table 13.5); NOTICEs stand with the responses (log 20). -/
def ownReq (m : Msg) : Nat :=
  if m.opcode = 1 || m.opcode = 2 then 4 * 256 else if m.opcode = 6 || m.opcode = 7 then 2 * 256 else 256

/-- A message takes a port (R267): it joins its lane, and the port sends what it can. -/
def sendOn (s : State) (p w : Nat) (m : Msg) : State :=
  let l := linkOf s p
  let vl := vlOf m.opcode
  pumpPort (emit (setLink s p { l with tx := SMap.set l.tx vl (laneMsgs l vl ++ [{ msg := m, req := w, sent := 0 }]) [] })
    (.msg (.port (Fin.ofNat 24 p)) m)) p

/-- A message for this device itself loops back in the marl die, where it is served as an arriving one (R272). -/
def loopSend (s : State) (m : Msg) : State :=
  beginReq (emit { s with fab := { s.fab with loop := s.fab.loop ++ [m] } } (.msg .loopback m)) m

/-- Send a message of this device: loopback for the own number (R272), else by route; none: UNREACHABLE. -/
def trySend (s : State) (m : Msg) : Option State :=
  if m.dest = devNum s then some (loopSend s m)
  else match routePort s m with
    | none => none
    | some p => some (sendOn s p (ownReq m) m)

/-- Send a response or routed notice; one that cannot be routed is discarded and counted (R269). -/
def sendOrDrop (s : State) (m : Msg) : State :=
  match trySend s m with
  | some s' => s'
  | none => discardMsg s

/-- A NAK for a message (Tables 13.3, 13.7). -/
def nakFor (s : State) (m : Msg) (reason : Nat) : Msg :=
  mkMsg 0x83 0 0 (devNum s) m.tag (m.source * 2 ^ 44 + m.offset) reason ones64 []

/-- The reasons of Table 13.7. -/
abbrev nakWindow : Nat := 1
abbrev nakAddress : Nat := 2
abbrev nakFormat : Nat := 3
abbrev nakSync : Nat := 4
abbrev nakUnreachable : Nat := 5
abbrev nakDisabled : Nat := 6
abbrev nakPoisoned : Nat := 7
abbrev nakScrubbing : Nat := 8
abbrev nakHalted : Nat := 9

/-- A message without a usable port is answered with NAK UNREACHABLE (R268). A NAK is discarded and counted (R269), and so
is a response, notice or collective message of this device, which no requester here waits for (log 71). -/
def unroutable (s : State) (m : Msg) : State :=
  if m.opcode = 0x83 || (m.source == devNum s && m.opcode != 1 && m.opcode != 2) then discardMsg s
  else sendOrDrop s (nakFor s m nakUnreachable)

/-- The ports that are UP or UP_HALF. -/
def upPorts (s : State) : List Nat := (List.range 24).filter (portUp s)

/-- A link-local NOTICE on every UP port (R377, R389); it bypasses routing (R268). -/
def noticeAll (s : State) (type : Nat) (body : Line) : State :=
  (upPorts s).foldl (fun t p =>
    sendOn t p 256 (mkMsg 8 4 0 (devNum t) 0 ((reg t (0x7020 + p) 3) * 2 ^ 44) (type * 2 ^ 8) ones64 [body])) s

end Sys2Proof.Machine
end

