-- ==== Sys2Proof/Machine/Events.lean ====
section
/-! DEFINITION. Dictionary frames (R348), NOTIFY (R356), the error log and its reporting paths (R386 to R389), and the
scheduling of targeted self-tests (R390 to R392). -/

namespace Sys2Proof.Machine

/-- A dictionary frame: header of Table 16.4 in network order, payload, CRC of the payload (R350). -/
def mkFrame (op tid index sub status offset : Nat) (len : Nat) (payload : List Byte) : List Byte :=
  beBytes 1 1 ++ beBytes 1 op ++ beBytes 2 tid ++ beBytes 2 index ++ beBytes 1 sub ++ beBytes 1 status
    ++ beBytes 4 offset ++ beBytes 2 len ++ beBytes 2 0 ++ payload ++ leBytes 4 (crc32 payload)

/-- NOTIFY_DEST: address and port in network order, byte 0 in the lowest bits of the value (R4). -/
def notifyDest (s : State) : FieldSrc :=
  let b := leBytes 18 (reg s 0x1010 3)
  { addr := BitVec.ofNat 128 (beVal (b.take 16)), port := BitVec.ofNat 16 (beVal (b.drop 16)) }

/-- Send or queue a NOTIFY on the field network: up to 64 wait, the oldest is dropped and counted (R356). -/
def fieldNotify (s : State) (f : List Byte) : State :=
  if reg s 0x1010 3 = 0 then s
  else if s.frames.addrState = 1 || s.frames.addrState = 2 then emit s (.datagram (notifyDest s) f)
  else
    let q := s.frames.notifyQ ++ [f]
    if 64 < q.length then bump { s with frames := { s.frames with notifyQ := q.drop 1 } } 0x1010 5
    else { s with frames := { s.frames with notifyQ := q } }

/-- One NOTIFY (R356, Table 16.7): `bit` enables it; the entry named and its value. -/
def notify (s : State) (bit index sub : Nat) (payload : List Byte) : State :=
  if (reg s 0x1010 4).testBit bit && clockOn s then
    let f := mkFrame 5 s.frames.notifySeq index sub 0 0 (payload.take 16).length (payload.take 16)
    let s1 := { s with frames := { s.frames with
      ring := SMap.set s.frames.ring s.frames.ringNext (padTo 64 f) []
      ringNext := (s.frames.ringNext + 1) % 64
      notifySeq := (s.frames.notifySeq + 1) % 65536 } }
    fieldNotify (raise s1 (src 16 3)) f
  else s

/-- The side of a partition under a mode (Table 4.3). -/
def sideOf (mode : Nat) : Nat := if mode = 0 then 512 else if mode = 1 then 256 else 128

/-- The origin cell of partition ii (Table 4.3). -/
def originOf (mode ii : Nat) : Nat × Nat :=
  let n := if mode = 0 then 1 else if mode = 1 then 2 else 4
  (sideOf mode * (ii / n), sideOf mode * (ii % n))

/-- An event of Table 18.2. -/
structure Event where
  code   : Nat
  sev    : Nat
  unit   : Nat
  ctx    : Option Nat
  opId   : Nat
  comm   : Option Nat
  detail : Nat
  srcs   : List Nat
  tests  : List (TestKind × Nat × Nat)   -- kind, unit of the test (R391), location (R392)
  cell   : Option (Nat × Nat)            -- the kept cell of a 06h event (R393)
  capture : Option Capture               -- its captured tile, with the exact check's values (R395)
deriving DecidableEq, Repr

/-- An event without context, operation, communicator, sources and tests. -/
def Event.plain (code sev unit detail : Nat) : Event :=
  { code := code, sev := sev, unit := unit, ctx := none, opId := 0, comm := none, detail := detail, srcs := [],
    tests := [], cell := none, capture := none }

/-- Q0 to Q3 of an error-log entry (Table 18.3). -/
def entryBytes (s : State) (e : Event) (outcome : Nat) : List Byte :=
  let comm : Option Nat := match e.comm with
    | some c => some c
    | none => s.rel.lastComm
  let q1 := e.code + e.sev * 2 ^ 8 + outcome * 2 ^ 11 + (if e.ctx.isSome then 2 ^ 13 else 0)
    + e.ctx.getD 0 * 2 ^ 14 + comm.getD 0 * 2 ^ 20 + (if comm.isSome then 2 ^ 28 else 0)
    + e.opId % 2 ^ 24 * 2 ^ 32 + e.unit % 256 * 2 ^ 56
  let seq := match comm with
    | some c => reg s (0x7100 + c) 3
    | none => 0
  leBytes 8 (now s) ++ leBytes 8 q1 ++ leBytes 8 seq ++ leBytes 8 e.detail

/-- Is a severity-0 event of this code past its 64 of the present millisecond (R387). -/
def suppressed (s : State) (e : Event) : Bool :=
  e.sev == 0 && (SMap.get s.rel.suppress e.code (0, 0)) == (now s / 1000000, 64)

/-- Count a severity-0 event into its aligned millisecond (R387). -/
def countMs (s : State) (e : Event) : State :=
  if e.sev = 0 then
    let c := SMap.get s.rel.suppress e.code (0, 0)
    let n := if c.1 = now s / 1000000 then c.2 + 1 else 1
    { s with rel := { s.rel with suppress := SMap.set s.rel.suppress e.code (now s / 1000000, n) (0, 0) } }
  else s

/-- A FAULT notice (R389): link-local on every UP port, and routed to the first FAULT_DEST_COUNT devices. -/
def faultNotice (s : State) (entry : List Byte) : State :=
  let body : Line := BitVec.ofNat 512 (leVal (leBytes 8 (devNum s) ++ entry))
  let s1 := noticeAll s 1 body
  (List.range (reg s 0x8000 0x0B)).foldl (fun t i =>
    sendOrDrop t (mkMsg 8 0 0 (devNum t) 0 (fld (reg s 0x8000 0x0A) (16 * i + 15) (16 * i) * 2 ^ 44) (2 ^ 8) ones64 [body])) s1

/-- Drive FAULT_N (R388); source 18:1 is pending while the line is low. -/
def driveFaultN (s : State) : State :=
  setCond { s with rel := { s.rel with faultDrive := true } } (src 18 1) true

/-- Where the paths of R388 send a written entry: interrupts, NOTIFY, FAULT notice and FAULT_N. While the clock is lost
only the AON logic acts (R15). -/
def report (s : State) (e : Event) (entry : List Byte) : State :=
  let s1 := raiseAll s (src 18 0 :: e.srcs)
  let s2 := notify s1 5 0x8101 1 (entry.take 16)
  let s3 := if reg s2 0x8000 3 ≤ e.sev && e.code != 0x18 && clockOn s2 then faultNotice s2 entry else s2
  let s4 := if reg s3 0x8000 1 ≤ e.sev then driveFaultN s3 else s3
  if e.sev = 4 then { s4 with aon := { s4.aon with fatal := true } } else s4

/-- Write an entry into the ring of the error log (R387) and report it. -/
def writeEntryOf (s : State) (e : Event) (outcome : Nat) : State :=
  let n := reg s 0x8100 2
  let entry := entryBytes s e outcome
  let s1 := domWrite s 0x8100 1 (32 * (n % 256)) entry
  let s2 := setReg (setReg s1 0x8100 2 (n + 1)) 0x8101 1 (leVal (entry.take 16))
  report s2 e entry

/-- Remember an event at a location; the 1,024 most recent locations are kept (R392). -/
def noteLoc (s : State) (code unit loc : Nat) : State :=
  let old := s.rel.locs.find? (fun l => l.code == code && l.unit == unit && l.loc == loc)
  let times := (match old with
    | some l => l.times
    | none => []) ++ [now s]
  let rest := s.rel.locs.filter (fun l => !(l.code == code && l.unit == unit && l.loc == loc))
  { s with rel := { s.rel with locs := ({ code := code, unit := unit, loc := loc, times := times } :: rest).take 1024 } }

/-- The location of a whole-partition test: its mode and number. -/
def partLoc (mode ii : Nat) : Nat := 2 ^ 16 + 16 * mode + ii

/-- Is region r (row region * 16 + column region) one that an array location names: itself, or a partition's. -/
def inRegions (loc r : Nat) : Bool :=
  if loc < 2 ^ 16 then r == loc
  else
    let mode := loc % 2 ^ 16 / 16
    let o := originOf mode (loc % 16)
    o.1 / 32 ≤ r / 16 && r / 16 < (o.1 + sideOf mode) / 32 && o.2 / 32 ≤ r % 16 && r % 16 < (o.2 + sideOf mode) / 32

/-- Is a test of this site pending or running (R391). A test of an array's region or partition that shares a region with
this one counts, since no further test of that region starts (R174). -/
def siteUnderTest (s : State) (k : TestKind) (unit loc : Nat) : Bool :=
  s.rel.tests.any (fun t => t.kind == k && t.unit == unit
    && (t.loc == loc || (k == .arrayRegion && (List.range 256).any (fun r => inRegions loc r && inRegions t.loc r))))

/-- Put a test of a site behind the earlier tests of its unit (R391). -/
def addTest (s : State) (e : Event) (detail : Nat) (t : TestKind × Nat × Nat) : State :=
  let s1 := noteLoc s e.code t.2.1 t.2.2
  if siteUnderTest s1 t.1 t.2.1 t.2.2 then s1
  else { s1 with rel := { s1.rel with tests := s1.rel.tests ++
    [{ unit := t.2.1, kind := t.1, code := e.code, loc := t.2.2, detail := detail, running := false, cell := e.cell,
       capture := e.capture }] } }

/-- Record an event (R386): its log entry, unless suppressed, its reports and its targeted self-tests. -/
def logEvent (s : State) (e : Event) : State :=
  let n := reg s 0x8100 2
  if suppressed s e then
    let s1 := bump s 0x8100 3
    e.tests.foldl (fun t x => addTest t e (2 ^ 64 - 1) x) s1
  else
    let s1 := writeEntryOf (countMs s e) e 0
    e.tests.foldl (fun t x => addTest t e n x) s1

end Sys2Proof.Machine
end

