-- ==== Sys2Proof/Machine/Modes.lean ====
section
/-! DEFINITION. Two-phase mode changes (R357 to R359): the staged values and the states of their units. -/

namespace Sys2Proof.Machine

/-- MODE_STATE of unit u: 0 HBM, 1 POWER, 2 FABRIC, 3 NUMERICS. -/
def modeState (s : State) (u : Nat) : Nat := reg s 0x2010 (2 + u)

/-- A unit's subentry returns to APPLIED, announced by NOTIFY bit 2. -/
def returnApplied (s : State) (u : Nat) : State :=
  notify (setReg s 0x2010 (2 + u) 0) 2 0x2010 (2 + u) [0]

/-- Drop every staged value (R358). -/
def discardStaged (s : State) : State :=
  ((List.range 4).filter (fun u => modeState s u == 1)).foldl returnApplied
    { s with frames := { s.frames with staged := [] } }

end Sys2Proof.Machine
end

