-- ==== Sys2Proof/Config.lean ====
section
/-! DEFINITION. What the spec leaves open: free values without a body, so that no proof can see what they are, and
the calibration constants that the spec says are fixed at test without stating them. -/

namespace Sys2Proof.Config

/-- A fresh unspecified value for each argument (log 3). Read modulo the width of the place it goes to. -/
opaque freeValue : Nat → Nat

/-- The energy of an operation in units of 16 nJ (Table 5.4): the coefficients of 3200h:01 are calibrated at test (R371) and the
spec states no value (log 3). -/
opaque energyEstimate : Nat → Nat

/-- Free hard-repair resources fused into a bank group, keyed stack*256 + pseudo-channel*4 + bank group (R225): each part
has its own number and the spec states none (log 3). -/
opaque hpprFused : Nat → Nat

/-- The opcode number of SETS within 00h to 0Fh, read modulo 16: Table 6.3 lists the control instructions without their
numbers, and the check of R129 needs this one (log 3). -/
opaque setsOpcode : Nat

/-- The bytes of 3200h:01 COEFFICIENTS, calibrated at test (R381): the spec gives typical values alone (log 3). -/
opaque coefficientByte : Nat → Nat

/-! Operands and amounts that an instruction word gives in a way Tables 6.2 and 6.3 do not state. Each is a function of the
word (and of what the word acts on), so that the same program gives the same bits (R59; log 40). -/

/-- Rows and columns that a SHAPE word sets. -/
opaque shapeRows : Nat → Nat
opaque shapeCols : Nat → Nat

/-- Rows and columns before a program's first SHAPE, by its descriptor. -/
opaque firstRows : Nat → Nat
opaque firstCols : Nat → Nat

/-- The value a SETAR word sets. -/
opaque setarValue : Nat → Nat

/-- The amount an ADVAR word adds, by the address register's present value. -/
opaque advarAmount : Nat → Nat → Nat

/-- Iterations of a LOOP word with IMM 0, which R116 does not allow. -/
opaque loopZero : Nat → Nat

/-- The slots that source n (0, 1) of a slot-arithmetic word names. -/
opaque slotSource : Nat → Nat → Nat

/-- Feed stalls of a completed operation, in waves that the ceiling would have allowed (R75): they depend on the times at
which loam delivers operands, which the model leaves out (log 20). -/
opaque feedStalls : Nat → Nat

/-- The fixed pattern table of the array self-test (R83): patterns beyond the first, the format code and the operand bits of
each; the spec names what the table includes and not its contents. -/
opaque testPatterns : Nat
opaque testFormat : Nat → Nat
opaque testOperand : Nat → Nat → Nat

end Sys2Proof.Config
end

