-- ==== Sys2Proof/Machine/Numbers.lean ====
section
/-! DEFINITION. Number formats (ch. 02): what each encoding means (R22, R23, R28), the accumulator format acc48
(R25, R26), narrowing (R37 to R41) and the block-scale quantizer (R33). -/

namespace Sys2Proof.Machine

/-- A dyadic rational: mantissa and binary exponent. -/
abbrev Dy := Int × Int

/-- The exact sum. -/
def Dy.add (a b : Dy) : Dy :=
  if a.2 ≤ b.2 then (a.1 + b.1 * 2 ^ (b.2 - a.2).toNat, a.2) else (a.1 * 2 ^ (a.2 - b.2).toNat + b.1, b.2)

/-- The exact product. -/
def Dy.mul (a b : Dy) : Dy := (a.1 * b.1, a.2 + b.2)

def Dy.neg (a : Dy) : Dy := (-a.1, a.2)

/-- a < b. -/
def Dy.lt (a b : Dy) : Bool := decide ((Dy.add a (Dy.neg b)).1 < 0)

/-- floor of a dyadic as an integer. -/
def Dy.floor (a : Dy) : Int := if 0 ≤ a.2 then a.1 * 2 ^ a.2.toNat else a.1 / (2 ^ (-a.2).toNat : Int)

/-- n * 2^sh rounded down, n not negative. -/
def shiftFloor (n : Nat) (sh : Int) : Nat := if 0 ≤ sh then n * 2 ^ sh.toNat else n / 2 ^ (-sh).toNat

/-- n * 2^sh rounded to the nearest integer, ties to even (R37). -/
def shiftRne (n : Nat) (sh : Int) : Nat :=
  if 0 ≤ sh then n * 2 ^ sh.toNat
  else
    let d := (-sh).toNat
    if n.log2 + 2 < d then 0
    else
      let q := n / 2 ^ d
      let r := 2 * (n % 2 ^ d)
      if 2 ^ d < r || (r == 2 ^ d && q % 2 == 1) then q + 1 else q

/-- n * 2^sh rounded stochastically with the 16-bit value r (R38). -/
def shiftSr (n : Nat) (sh : Int) (r : Nat) : Nat :=
  if 0 ≤ sh then n * 2 ^ sh.toNat
  else
    let d := (-sh).toNat
    let lo := n / 2 ^ d
    let d16 := n % 2 ^ d * 65536 / 2 ^ d
    if r < d16 then lo + 1 else lo

/-- floor(log2) of n * 2^e, n not zero. -/
def binade (n : Nat) (e : Int) : Int := (n.log2 : Int) + e

/-- The largest finite acc48 magnitude (R25). -/
def accMaxBits : Nat := 0x7FEFFFFFFFFF

/-- The canonical acc48 NaN (R25). -/
def accNan : Nat := 0x7FF800000000

/-- An acc48 value with its flag. -/
def mkAcc (neg : Bool) (mag : Nat) (ovf : Bool) : Acc :=
  { bits := BitVec.ofNat 48 ((if neg then 2 ^ 47 else 0) + mag), ovf := ovf }

/-- The canonical NaN. -/
def Acc.nan (ovf : Bool) : Acc := { bits := BitVec.ofNat 48 accNan, ovf := ovf }

/-- +0 with the flag clear: a register at the start of a tile (R44). -/
def Acc.zero : Acc := { bits := 0, ovf := false }

/-- What an acc48 encoding denotes (R25). -/
def Acc.val (a : Acc) : FVal :=
  let w := a.bits.toNat
  let neg := w.testBit 47
  let e := fld w 46 36
  let f := fld w 35 0
  if e = 0x7FF then .nan
  else if e = 0 then .fin neg f (-1058)
  else .fin neg (2 ^ 36 + f) ((e : Int) - 1059)

def Acc.isNan (a : Acc) : Bool := fld a.bits.toNat 46 36 == 0x7FF

def Acc.isNeg (a : Acc) : Bool := a.bits.toNat.testBit 47

/-- The exact value of a finite FVal. -/
def FVal.dy : FVal → Dy
  | .fin neg m e => (if neg then -(m : Int) else m, e)
  | _ => (0, 0)

def FVal.isNan : FVal → Bool
  | .nan => true
  | _ => false

def FVal.isInf : FVal → Bool
  | .inf _ => true
  | _ => false

def FVal.neg : FVal → Bool
  | .nan => false
  | .inf n => n
  | .fin n _ _ => n

/-- Is it a zero of either sign. -/
def FVal.isZero : FVal → Bool
  | .fin _ m _ => m == 0
  | _ => false

/-- Round the exact value (-1)^neg * n * 2^e once to acc48 by round to nearest even (rnd of ch. 03), saturating and
setting the flag as R26 states; a zero keeps the sign given. -/
def rndMag (neg : Bool) (n : Nat) (e : Int) (flag : Bool) : Acc :=
  if n = 0 then mkAcc neg 0 flag
  else
    let b := binade n e
    let q : Int := if b < -1022 then -1058 else b - 36
    let m := shiftRne n (e - q)
    let m' := if m = 2 ^ 37 then 2 ^ 36 else m
    let q' := if m = 2 ^ 37 then q + 1 else q
    if m' < 2 ^ 36 then mkAcc neg m' flag
    else if 1023 < q' + 36 then mkAcc neg accMaxBits true
    else mkAcc neg ((q' + 36 + 1023).toNat * 2 ^ 36 + (m' - 2 ^ 36)) flag

/-- rnd of a dyadic; an exact zero takes the sign `zneg` (R26, Table 3.2). -/
def rnd (v : Dy) (zneg flag : Bool) : Acc :=
  if v.1 = 0 then mkAcc zneg 0 flag else rndMag (decide (v.1 < 0)) v.1.natAbs v.2 flag

/-- Widening to acc48 (R36): exact for finite values, canonical NaN, infinity to the largest finite with the flag. -/
def widen : FVal → Acc
  | .nan => Acc.nan false
  | .inf neg => mkAcc neg accMaxBits true
  | .fin neg m e => rndMag neg m e false

/-- The storage formats of Table 2.1, MXINT8 elements apart (R28). -/
inductive Fmt where
  | fp32 | fp16 | bf16 | e4m3 | e5m2 | e3m2 | e2m3 | e2m1 | int8 | int4 | int32 | mxint8
deriving DecidableEq, Repr

/-- Bits of an element. -/
def Fmt.bits : Fmt → Nat
  | .fp32 | .int32 => 32
  | .fp16 | .bf16 => 16
  | .e4m3 | .e5m2 | .int8 | .mxint8 => 8
  | .e3m2 | .e2m3 => 6
  | .e2m1 | .int4 => 4

/-- Exponent and fraction widths and bias of a floating-point format (Table 2.1). -/
def Fmt.float : Fmt → Option (Nat × Nat × Nat)
  | .fp32 => some (8, 23, 127)
  | .fp16 => some (5, 10, 15)
  | .bf16 => some (8, 7, 127)
  | .e4m3 => some (4, 3, 7)
  | .e5m2 => some (5, 2, 15)
  | .e3m2 => some (3, 2, 3)
  | .e2m3 => some (2, 3, 1)
  | .e2m1 => some (2, 1, 1)
  | .int8 | .int4 | .int32 | .mxint8 => none

/-- Formats whose all-ones exponent field is kept for infinity and NaN. -/
def Fmt.hasInf : Fmt → Bool
  | .fp32 | .fp16 | .bf16 | .e5m2 => true
  | .e4m3 | .e3m2 | .e2m3 | .e2m1 | .int8 | .int4 | .int32 | .mxint8 => false

/-- The largest finite magnitude as mantissa and exponent (Table 2.1; MXINT8: 127 * 2^-6, R33). -/
def Fmt.maxFin : Fmt → Nat × Int
  | .fp32 => (2 ^ 24 - 1, 104)
  | .fp16 => (2047, 5)
  | .bf16 => (255, 120)
  | .e4m3 => (7, 6)
  | .e5m2 => (7, 13)
  | .e3m2 => (7, 2)
  | .e2m3 => (15, -1)
  | .e2m1 => (3, 1)
  | .int8 => (127, 0)
  | .int4 => (7, 0)
  | .int32 => (2 ^ 31 - 1, 0)
  | .mxint8 => (127, -6)

/-- The exponent of the largest normal element value (emax of R33). -/
def Fmt.emax : Fmt → Int
  | .e4m3 => 8
  | .e5m2 => 15
  | .e3m2 => 4
  | .e2m3 => 2
  | .e2m1 => 2
  | .mxint8 => 0
  | .fp32 => 127
  | .fp16 => 15
  | .bf16 => 127
  | .int8 => 6
  | .int4 => 2
  | .int32 => 30

/-- The canonical NaN of a destination (R24); 0 where the format has none. -/
def Fmt.nanBits : Fmt → Nat
  | .fp32 => 0x7FC00000
  | .fp16 => 0x7E00
  | .bf16 => 0x7FC0
  | .e4m3 => 0x7F
  | .e5m2 => 0x7E
  | .e3m2 | .e2m3 | .e2m1 | .int8 | .int4 | .int32 | .mxint8 => 0

/-- What an encoding denotes (R22, R23, R28). -/
def Fmt.decode (f : Fmt) (w : Nat) : FVal :=
  match f.float with
  | some (eb, mb, bias) =>
    let neg := w.testBit (eb + mb)
    let e := w / 2 ^ mb % 2 ^ eb
    let m := w % 2 ^ mb
    if f.hasInf && e == 2 ^ eb - 1 then (if m = 0 then .inf neg else .nan)
    else if f = .e4m3 && w % 128 == 127 then .nan
    else if e = 0 then .fin neg m (1 - (bias : Int) - mb)
    else .fin neg (2 ^ mb + m) ((e : Int) - bias - mb)
  | none =>
    let x := w % 2 ^ f.bits
    let neg := x.testBit (f.bits - 1)
    .fin neg (if neg then 2 ^ f.bits - x else x) (if f = .mxint8 then -6 else 0)

/-- An element of a block with scale byte `s` (R23, R32). -/
def FVal.scale (v : FVal) (s : Nat) : FVal :=
  if s = 255 then .nan
  else match v with
    | .nan => .nan
    | .inf n => .inf n
    | .fin n m e => .fin n m (e + s - 127)

/-- The exponent of the grid step of format `f` at the binade `b` (R37). -/
def Fmt.step (f : Fmt) (b : Int) : Int :=
  match f.float with
  | some (_, mb, bias) => (if b < 1 - (bias : Int) then 1 - (bias : Int) else b) - mb
  | none => if f = .mxint8 then -6 else 0

/-- Encode (-1)^neg * n * 2^q, which lies on the grid of `f` and does not exceed its range. -/
def Fmt.encode (f : Fmt) (neg : Bool) (n : Nat) (q : Int) : Nat :=
  match f.float with
  | some (eb, mb, bias) =>
    let sg := if neg then 2 ^ (eb + mb) else 0
    if n = 0 then sg
    else
      let b := binade n q
      if b < 1 - (bias : Int) then sg + shiftFloor n (q + bias + mb - 1)
      else sg + (b + bias).toNat * 2 ^ mb + (shiftFloor n (q - b + mb) - 2 ^ mb)
  | none =>
    let u := shiftFloor n (if f = .mxint8 then q + 6 else q)
    if neg then (2 ^ f.bits - u) % 2 ^ f.bits else u

/-- n * 2^a > m * 2^b. -/
def magGt (n : Nat) (a : Int) (m : Nat) (b : Int) : Bool := Dy.lt ((m : Int), b) ((n : Int), a)

/-- The rounding of a conversion: to nearest even, or stochastic with its 16 random bits (R37, R38). -/
inductive Rmode where
  | rne
  | sr (r : Nat)
deriving DecidableEq, Repr

def roundBy : Rmode → Nat → Int → Nat
  | .rne, n, sh => shiftRne n sh
  | .sr r, n, sh => shiftSr n sh r

/-- What a written element counts as (R42). -/
inductive Count where
  | none | nan | ovf | under
deriving DecidableEq, Repr

/-- The result of an overflow (Table 2.3). `ieee` selects the IEEE mode, which only unscaled FP32, FP16, BF16 and
E5M2 destinations honour. -/
def Fmt.overflow (f : Fmt) (neg ieee : Bool) : Nat :=
  match f.float with
  | some (eb, mb, _) =>
    if ieee && f.hasInf then (if neg then 2 ^ (eb + mb) else 0) + (2 ^ eb - 1) * 2 ^ mb
    else f.encode neg f.maxFin.1 f.maxFin.2
  | none =>
    if neg && f != .mxint8 then 2 ^ (f.bits - 1) else f.encode neg f.maxFin.1 f.maxFin.2

/-- Narrow an acc48 value, divided by 2^s, to an element of `f` (R37 to R41); not for a NaN in a block. The least
integer -2^(bits-1) is in the range of an unscaled integer destination. -/
def Fmt.narrow (f : Fmt) (a : Acc) (s : Int) (mode : Rmode) (ieee : Bool) : Nat × Count :=
  match a.val with
  | .nan => (f.nanBits, .nan)
  | .inf n => (f.overflow n ieee, .ovf)
  | .fin neg m e =>
    if a.ovf then (f.overflow neg ieee, .ovf)
    else if m = 0 then (f.encode neg 0 0, .none)
    else
      let e' := e - s
      let q := f.step (binade m e')
      let n := roundBy mode m (e' - q)
      let least := neg && f.float == none && f != .mxint8 && n == 2 ^ (f.bits - 1)
      if magGt n q f.maxFin.1 f.maxFin.2 && !least then (f.overflow neg ieee, .ovf)
      else if n = 0 then (f.encode neg 0 q, .under)
      else (f.encode neg n q, .none)

/-- The power of two of R33 for a block, from its largest magnitude and the headroom h. -/
def blockPower (f : Fmt) (amax : Dy) (h : Nat) : Int :=
  if amax.1 = 0 then 0
  else
    let n := amax.1.natAbs
    let s0 : Int := binade n amax.2 - f.emax + h
    let q := f.step (binade n (amax.2 - s0))
    let r := shiftRne n (amax.2 - s0 - q)
    let s := if magGt r q f.maxFin.1 f.maxFin.2 then s0 + 1 else s0
    if s < -127 then -127 else if 127 < s then 127 else s

/-- The largest magnitude among values without NaN. -/
def amaxOf (l : List Acc) : Dy :=
  l.foldl (fun m a => let d := a.val.dy; let d' : Dy := (d.1.natAbs, d.2); if Dy.lt m d' then d' else m) (0, 0)

/-- Quantize one block (R33): scale byte and elements with their counts. `modes` gives each element's rounding. -/
def quantBlock (f : Fmt) (h : Nat) (l : List (Acc × Rmode)) : Nat × List (Nat × Count) :=
  if l.any (fun x => x.1.isNan) then (255, l.map (fun _ => (0, Count.nan)))
  else
    let s := blockPower f (amaxOf (l.map Prod.fst)) h
    ((s + 127).toNat, l.map (fun x => f.narrow x.1 s x.2 false))

end Sys2Proof.Machine
end

