-- ==== Sys2Proof/Machine/Reference.lean ====
section
/-! DEFINITION. Reference arithmetic (ch. 03): dot products (R44 to R48), element-wise arithmetic (R49), folds (R50),
maximum and minimum (R51), composite statistics (R52), the transcendental functions (R53, R54) and the grain
generator (R55, R56). -/

namespace Sys2Proof.Machine

/-- The exact product of two factors (Table 3.2 handles NaN and infinities). -/
def FVal.mulFin (a b : FVal) : FVal :=
  match a, b with
  | .fin n m e, .fin n' m' e' => .fin (n != n') (m * m') (e + e')
  | .nan, _ => .nan
  | _, .nan => .nan
  | .inf n, b => if b.isZero then .nan else .inf (n != b.neg)
  | a, .inf n => if a.isZero then .nan else .inf (a.neg != n)

/-- One reference group (R44, Table 3.2): the accumulator and the exact products of the group. -/
def groupSum (acc : Acc) (ps : List FVal) : Acc :=
  if acc.isNan || ps.any FVal.isNan then Acc.nan acc.ovf
  else if ps.any (fun p => p.isInf && p.neg) && ps.any (fun p => p.isInf && !p.neg) then Acc.nan acc.ovf
  else if ps.any (fun p => p.isInf) then mkAcc (ps.any (fun p => p.isInf && p.neg)) accMaxBits true
  else
    let s := ps.foldl (fun (t : Dy) p => Dy.add t p.dy) acc.val.dy
    rnd s (acc.isNeg && ps.all (fun p => p.neg)) acc.ovf

/-- The products of one group. -/
def groupProducts (a b : List FVal) : List FVal := (a.zip b).map (fun p => FVal.mulFin p.1 p.2)

/-- The dot product of R44 over pairs of factors, in groups of `g`; `n` bounds the number of groups. -/
def dotGo (g : Nat) : Nat → Acc → List FVal → List FVal → Acc
  | 0, acc, _, _ => acc
  | n + 1, acc, a, b =>
    if a.isEmpty then acc
    else dotGo g n (groupSum acc (groupProducts (a.take g) (b.take g))) (a.drop g) (b.drop g)

/-- C[i,j] of R44: initial accumulator, group size, row of A and column of B. -/
def dot (g : Nat) (c : Acc) (a b : List FVal) : Acc := dotGo g a.length c a b

/-- Element-wise sum (R49, Table 3.2). The result's flag is that of either source or its own (log 10). -/
def accAdd (x y : Acc) : Acc :=
  if x.isNan || y.isNan then Acc.nan (x.ovf || y.ovf)
  else rnd (Dy.add x.val.dy y.val.dy) (x.isNeg && y.isNeg) (x.ovf || y.ovf)

def accNeg (x : Acc) : Acc := if x.isNan then x else { x with bits := x.bits ^^^ BitVec.ofNat 48 (2 ^ 47) }

def accAbs (x : Acc) : Acc := if x.isNan then x else { x with bits := BitVec.ofNat 48 (x.bits.toNat % 2 ^ 47) }

def accSub (x y : Acc) : Acc := accAdd x (accNeg y)

def accMul (x y : Acc) : Acc :=
  if x.isNan || y.isNan then Acc.nan (x.ovf || y.ovf)
  else rnd (Dy.mul x.val.dy y.val.dy) (x.isNeg != y.isNeg) (x.ovf || y.ovf)

/-- fma(x, y, z) = rnd(x * y + z), product and sum exact (ch. 03). -/
def accFma (x y z : Acc) : Acc :=
  if x.isNan || y.isNan || z.isNan then Acc.nan (x.ovf || y.ovf || z.ovf)
  else rnd (Dy.add (Dy.mul x.val.dy y.val.dy) z.val.dy) ((x.isNeg != y.isNeg) && z.isNeg) (x.ovf || y.ovf || z.ovf)

/-- x < y for values without NaN, with -0 below +0 (R51). -/
def accLtTotal (x y : Acc) : Bool :=
  let a := x.val.dy
  let b := y.val.dy
  Dy.lt a b || (a.1 == 0 && b.1 == 0 && x.isNeg && !y.isNeg)

def accMax (x y : Acc) : Acc :=
  if x.isNan || y.isNan then Acc.nan (x.ovf || y.ovf) else if accLtTotal x y then y else x

def accMin (x y : Acc) : Acc :=
  if x.isNan || y.isNan then Acc.nan (x.ovf || y.ovf) else if accLtTotal y x then y else x

/-- Comparisons; a NaN compares false (R117). -/
def accEq (x y : Acc) : Bool := !x.isNan && !y.isNan && (Dy.add x.val.dy (Dy.neg y.val.dy)).1 == 0

def accLt (x y : Acc) : Bool := !x.isNan && !y.isNan && Dy.lt x.val.dy y.val.dy

def accLe (x y : Acc) : Bool := !x.isNan && !y.isNan && !Dy.lt y.val.dy x.val.dy

/-- Folds of R50 over the active positions: within a chunk, then over the chunks. -/
def foldPart (f : Acc → Acc → Acc) (l : List Acc) : Option Acc :=
  match l with
  | [] => none
  | x :: l => some (l.foldl f x)

/-- Cut positions into chunks of 64; an inactive position is none. -/
def chunks64 : Nat → List (Option Acc) → List (List Acc)
  | 0, _ => []
  | n + 1, l => if l.isEmpty then [] else (l.take 64).filterMap id :: chunks64 n (l.drop 64)

/-- A fold that goes on from a running total (R118). -/
def foldFrom (f : Acc → Acc → Acc) (init : Option Acc) (l : List Acc) : Option Acc := foldPart f (init.toList ++ l)

/-- The parts of R50, one for each chunk with an active position: the same operation inside and across chunks. -/
def rowParts (f : Acc → Acc → Acc) (l : List (Option Acc)) : List Acc :=
  (chunks64 (l.length + 1) l).filterMap (foldPart f)

/-- The parts of a sum of squares (R50): rnd(x*x) first, then fma(x, x, part). -/
def squareParts (l : List (Option Acc)) : List Acc :=
  (chunks64 (l.length + 1) l).filterMap (fun c =>
    match c with
    | [] => none
    | x :: r => some (r.foldl (fun p y => accFma y y p) (accMul x x)))

/-- The fold of R50 with the same operation inside and across chunks (sum, product). -/
def foldRow (f : Acc → Acc → Acc) (l : List (Option Acc)) : Option Acc := foldPart f (rowParts f l)

/-- A sum of squares (R50); chunks are summed. -/
def foldSquares (l : List (Option Acc)) : Option Acc := foldPart accAdd (squareParts l)

/-- Maximum and minimum over the active positions (R51). The result carries the winner's overflow flag, a NaN that of
either source; the spec does not say which flag a maximum carries (DESIGN CHOICE, log 10). -/
def foldExt (f : Acc → Acc → Acc) (l : List (Option Acc)) : Option Acc := foldPart f (l.filterMap id)

/-- The lowest position that holds the winner, or a NaN (R51). -/
def argExt (f : Acc → Acc → Acc) (l : List (Option Acc)) : Option Nat :=
  match foldExt f l with
  | none => none
  | some w =>
    (List.range l.length).find? (fun i =>
      match l[i]?.join with
      | none => false
      | some x => if w.isNan then x.isNan else x.bits == w.bits)

/-- Table 3.5, texp: 2^(i/64) to the nearest acc48 value, in units of 2^-36. -/
def texpTable : List Nat :=
  [68719476736, 69467782776, 70224237334, 70988929142, 71761947898, 72543384276, 73333329938, 74131877545] ++
  [74939120765, 75755154288, 76580073833, 77413976163, 78256959093, 79109121506, 79970563360, 80841385700] ++
  [81721690674, 82611581540, 83511162683, 84420539622, 85339819026, 86269108727, 87208517730, 88158156225] ++
  [89118135606, 90088568477, 91069568669, 92061251253, 93063732552, 94077130157, 95101562938, 96137151061] ++
  [97184015999, 98242280549, 99312068844, 100393506370, 101486719979, 102591837903, 103708989773, 104838306629] ++
  [105979920939, 107133966613, 108300579022, 109479895006, 110672052900, 111877192542, 113095455294, 114326984058] ++
  [115571923291, 116830419023, 118102618875, 119388672076, 120688729477, 122002943576, 123331468528, 124674460168] ++
  [126032076028, 127404475355, 128791819132, 130194270091, 131611992741, 133045153377, 134493920110, 135958462879]

/-- Table 3.5, tlg: log2(1 + i/64) to the nearest acc48 value, in units of 2^-42. -/
def tlgTable : List Nat :=
  [0, 98374682051, 195247401758, 290663333516, 384665643812, 477295608504, 568592721616, 658594796488] ++
  [747338059744, 834857238904, 921185643944, 1006355243408, 1090396735504, 1173339614512, 1255212232928, 1336041859664] ++
  [1415854734544, 1494676119488, 1572530346448, 1649440862560, 1725430272496, 1800520378352, 1874732217232, 1948086096528] ++
  [2020601627440, 2092297756272, 2163192794288, 2233304445696, 2302649834176, 2371245528128, 2439107564224, 2506251470048] ++
  [2572692285408, 2638444582560, 2703522485248, 2767939687168, 2831709469088, 2894844715296, 2957357929248, 3019261248448] ++
  [3080566458624, 3141285007040, 3201428015552, 3261006292640, 3320030345152, 3378510389472, 3436456361984, 3493877929376] ++
  [3550784498176, 3607185224128, 3663089020928, 3718504568736, 3773440322208, 3827904518336, 3881905183808, 3935450141984] ++
  [3988547019968, 4041203254880, 4093426100224, 4145222631872, 4196599753792, 4247564203648, 4298122557920, 4348281237248]

/-- Table 3.5, c1 to c4: mantissa and exponent of each coefficient. -/
def cCoef : List Dy := [(95265423098, -37), (132065918851, -39), (122054825733, -41), (84601958330, -43)]

/-- Table 3.5, d1 to d6. -/
def dCoef : List Dy := [(99141248300, -36), (-99141248300, -37), (132188331066, -38), (-99141248300, -38), (79312998640, -38), (-132188331066, -39)]

/-- The acc48 value nearest to ln 2 (R52). -/
def ln2Const : Dy := (95265423098, -37)

/-- The acc48 value nearest to 1 / ln 2 (R52). -/
def log2eConst : Dy := (99141248300, -36)

/-- Table 3.5, trcp: 1 / (1 + (2i+1)/256) to 16 significant bits, in units of 2^-16. -/
def trcpEntry (i : Nat) : Nat := (2 * (256 * 2 ^ 16) + (257 + 2 * i)) / (2 * (257 + 2 * i))

/-- Table 3.5, trsq: 1 / sqrt(1 + (2i+1)/128) to 16 significant bits, in units of 2^-16. -/
def trsqEntry (i : Nat) : Nat := (Nat.sqrt (2 ^ 41 / (129 + 2 * i)) + 1) / 2

/-- Table 3.5, trl: 1 / (1 + i/64) to the nearest acc48 value. -/
def trlEntry (i : Nat) : Dy := ((shiftRneDiv (64 * 2 ^ 37) (64 + i) : Nat), -37)
where
  /-- a / b rounded to nearest; no tie arises for the operands used. -/
  shiftRneDiv (a b : Nat) : Nat := (2 * a + b) / (2 * b)

/-- rnd as a function on exact values, for intermediate results inside the pseudocode of R53. -/
def rd (v : Dy) : Dy := (rnd v false false).val.dy

def dyFma (a b c : Dy) : Dy := rd (Dy.add (Dy.mul a b) c)

/-- m of the decomposition x = (-1)^s * m * 2^e with 1 ≤ m < 2 (R53). -/
def mantOf (n : Nat) : Dy := (n, -(n.log2 : Int))

def newtonRcp (m : Dy) : Nat → Dy → Dy
  | 0, y => y
  | k + 1, y => newtonRcp m k (let err := dyFma (Dy.neg m) y (1, 0); dyFma y err y)

/-- rcp (R53, R54). -/
def accRcp (x : Acc) : Acc :=
  match x.val with
  | .nan | .inf _ => Acc.nan x.ovf
  | .fin neg n e0 =>
    if n = 0 then mkAcc neg accMaxBits true
    else
      let m := mantOf n
      let e : Int := binade n e0
      let y : Dy := if n = 2 ^ n.log2 then (1, 0)
        else newtonRcp m 3 (trcpEntry ((Dy.floor (Dy.mul (Dy.add m (-1, 0)) (128, 0))).toNat), -16)
      rnd ((if neg then -y.1 else y.1), y.2 - e) neg x.ovf

def newtonRsqrt (m2 : Dy) : Nat → Dy → Dy
  | 0, y => y
  | k + 1, y =>
    newtonRsqrt m2 k (let t := rd (Dy.mul y y)
                      let h := rd (Dy.mul (dyFma (Dy.neg m2) t (1, 0)) (1, -1))
                      dyFma y h y)

/-- rsqrt (R53, R54). -/
def accRsqrt (x : Acc) : Acc :=
  match x.val with
  | .nan | .inf _ => Acc.nan x.ovf
  | .fin neg n e0 =>
    if n = 0 then mkAcc neg accMaxBits true
    else if neg then Acc.nan x.ovf
    else
      let e : Int := binade n e0
      let m := mantOf n
      let odd := e % 2 == 1
      let m2 : Dy := if odd then (m.1, m.2 + 1) else m
      let e2 : Int := if odd then e - 1 else e
      let y : Dy := if n = 2 ^ n.log2 && !odd then (1, 0)
        else newtonRsqrt m2 3 (trsqEntry ((Dy.floor (Dy.mul (Dy.add m2 (-1, 0)) (64, 0))).toNat), -16)
      rnd (y.1, y.2 - e2 / 2) false x.ovf

/-- Horner evaluation by fma, coefficients from the highest. -/
def horner (r : Dy) : Dy → List Dy → Dy
  | p, [] => p
  | p, c :: l => horner r (dyFma p r c) l

/-- exp2 (R53, R54). -/
def accExp2 (x : Acc) : Acc :=
  match x.val with
  | .nan | .inf _ => Acc.nan x.ovf
  | .fin neg n e =>
    let v : Dy := (if neg then -(n : Int) else n, e)
    if !Dy.lt v (1024, 0) then mkAcc false accMaxBits true
    else if Dy.lt v (-1100, 0) then mkAcc false 0 x.ovf
    else
      let k := Dy.floor v
      let f := Dy.add v (-k, 0)
      let j := Dy.floor (Dy.mul f (64, 0))
      let r := Dy.add f (-j, -6)
      let p := horner r (cCoef.getD 3 (0, 0)) [cCoef.getD 2 (0, 0), cCoef.getD 1 (0, 0), cCoef.getD 0 (0, 0), (1, 0)]
      let t : Dy := ((texpTable.getD j.toNat 0 : Nat), -36)
      let w := Dy.mul t p
      rnd (w.1, w.2 + k) false x.ovf

/-- log2 (R53, R54). -/
def accLog2 (x : Acc) : Acc :=
  match x.val with
  | .nan | .inf _ => Acc.nan x.ovf
  | .fin neg n e0 =>
    if n = 0 then mkAcc true accMaxBits true
    else if neg then Acc.nan x.ovf
    else
      let e : Int := binade n e0
      let m := mantOf n
      let j := (Dy.floor (Dy.mul (Dy.add m (-1, 0)) (64, 0))).toNat
      let t := dyFma m (trlEntry j) (-1, 0)
      let q := horner t (dCoef.getD 5 (0, 0))
        [dCoef.getD 4 (0, 0), dCoef.getD 3 (0, 0), dCoef.getD 2 (0, 0), dCoef.getD 1 (0, 0), dCoef.getD 0 (0, 0)]
      rnd (Dy.add (Dy.add (e, 0) ((tlgTable.getD j 0 : Nat), -42)) (rd (Dy.mul q t))) false x.ovf

/-- An integer widened to acc48. -/
def accOfNat (n : Nat) : Acc := rndMag false n 0 false

/-- An acc48 value from an exact one. -/
def accOfDy (d : Dy) : Acc := rnd d false false

/-- Table 3.4: mean = rnd(sum * rcp(n)). -/
def statMean (sum n : Acc) : Acc := accMul sum (accRcp n)

/-- Table 3.4: reciprocal standard deviation = rsqrt(rnd(variance + eps)). -/
def statRstd (var eps : Acc) : Acc := accRsqrt (accAdd var eps)

/-- Table 3.4: log-sum-exp = rnd(max + rnd(log2(sum) * ln2)). -/
def statLse (mx sum : Acc) : Acc := accAdd mx (accMul (accLog2 sum) (accOfDy ln2Const))

/-- One round of R56 on the four words. -/
def grainRound (k : BitVec 32) (x : BitVec 32 × BitVec 32 × BitVec 32 × BitVec 32) :
    BitVec 32 × BitVec 32 × BitVec 32 × BitVec 32 :=
  let x0 := x.1 + x.2.1 + k
  let x3 := (x.2.2.2 ^^^ x0).rotateLeft 16
  let x2 := x.2.2.1 + x3
  let x1 := (x.2.1 ^^^ x2).rotateLeft 8
  (x0, x1, x2, x3)

/-- Round key r (R55). -/
def grainKey (seed : BitVec 64) (stream : BitVec 32) (r : Nat) : BitVec 32 :=
  (if r % 3 = 0 then seed.truncate 32 else if r % 3 = 1 then (seed >>> 32).truncate 32 else stream)
    + BitVec.ofNat 32 ((r + 1) * 0x9e3779b9)

/-- The grain generator (R55, R56): 128 bits from key and counter. -/
def grain (seed : BitVec 64) (stream : BitVec 32) (step element : BitVec 64) : BitVec 128 :=
  let x := (List.range 10).foldl (fun x r => grainRound (grainKey seed stream r) x)
    ((step.truncate 32, (step >>> 32).truncate 32, element.truncate 32, (element >>> 32).truncate 32) :
      BitVec 32 × BitVec 32 × BitVec 32 × BitVec 32)
  x.2.2.2 ++ x.2.2.1 ++ x.2.1 ++ x.1

/-- Lane j of 16 bits of the generator's output (R38). -/
def grainLane (seed stream step element j : Nat) : Nat :=
  fld (grain (BitVec.ofNat 64 seed) (BitVec.ofNat 32 stream) (BitVec.ofNat 64 step) (BitVec.ofNat 64 element)).toNat
    (16 * j + 15) (16 * j)

/-- The random value of element index i under operation opId (R38). -/
def srBits (seed stream step opId i : Nat) : Nat := grainLane seed stream step (opId * 2 ^ 40 + i / 8) (i % 8)

end Sys2Proof.Machine
end

