-- ==== Sys2Proof/Machine/Ops.lean ====
section
/-! DEFINITION. Named operations over memory (R5, R183, R184, R209, R223, R234), contexts' windows (R192, R193) and the
operations in flight (R315). -/

namespace Sys2Proof.Machine

/-- End of HBM, the loam range, the Gwevi region and control space (Table 0.2, R210). -/
abbrev hbmEnd : Nat := 0x14000000000
abbrev gweviBase : Nat := 0x13F00000000
abbrev loamBase : Nat := 0x80000000000
abbrev loamEnd : Nat := 0x80180000000
abbrev ctlBase : Nat := 0xF0000000000
abbrev ctlEnd : Nat := 0x100000000000

def inHbm (a : Nat) : Bool := decide (a < hbmEnd)
def inLoam (a : Nat) : Bool := decide (loamBase ≤ a) && decide (a < loamEnd)
def inCtl (a : Nat) : Bool := decide (ctlBase ≤ a) && decide (a < ctlEnd)
def inGwevi (a : Nat) : Bool := decide (gweviBase ≤ a) && decide (a < hbmEnd)

/-- Unassigned local addresses (Table 0.2). -/
def unassigned (a : Nat) : Bool := !inHbm a && !inLoam a && !inCtl a

/-- The home region of a loam address (Table 10.1). -/
def regionOf (a : Nat) : Nat := (a - loamBase) / 0x60000000

/-- Where a loam address lies (R183): tier, bank of the tier, bank row. -/
def loamPlace (a : Nat) : Nat × Nat × Nat :=
  let n := regionOf a
  let l := (a - loamBase) % 0x60000000 / 64
  (2 * (n / 2) + l % 2, 2048 * (n % 2) + l / 2 % 2048, l / 4096)

/-- The address of the first byte of a line, from its tier, bank and bank row. -/
def loamLineAt (tier bank row : Nat) : Nat :=
  loamBase + 0x60000000 * (tier / 2 * 2 + bank / 2048) + 64 * (4096 * row + 2 * (bank % 2048) + tier % 2)

/-- A range wholly in loam, or wholly in HBM outside the Gwevi region. -/
def userRange (a len : Nat) : Bool :=
  (decide (loamBase ≤ a) && decide (a + len ≤ loamEnd)) || decide (a + len ≤ gweviBase)

/-- Where an HBM address lies (R209): stack, pseudo-channel, bank, row. -/
def hbmOf (a : Nat) : HbmRow :=
  let g := a / 256
  let u := g / 20
  let w := u / 64
  { stack := Fin.ofNat 20 g, pc := Fin.ofNat 64 ((u % 64) ^^^ (w % 64)), bank := Fin.ofNat 64 (w / 4),
    row := Fin.ofNat 16384 (w / 256) }

/-- The local address of granule k (0-3) of a row (R209 inverted). -/
def rowAddr (r : HbmRow) (k : Nat) : Nat :=
  let w := r.row.val * 256 + r.bank.val * 4 + k
  let u := w * 64 + (r.pc.val ^^^ (w % 64))
  (u * 20 + r.stack.val) * 256

/-- The sixteen lines of a row (R225). -/
def rowLines (r : HbmRow) : List Nat :=
  (List.range 4).flatMap (fun k => (List.range 4).map (fun j => rowAddr r k + 64 * j))

/-- The channel group of an HBM address: 4 * stack + floor(pc / 16) (R206). -/
def groupOf (a : Nat) : Nat := 4 * (hbmOf a).stack.val + (hbmOf a).pc.val / 16

/-- The line and the ECC unit an address lies in (R184, R223). -/
def lineAddr (a : Nat) : Nat := a / 64 * 64
def eccUnit (a : Nat) : Nat := if inLoam a then a / 32 * 32 else lineAddr a
def eccSize (a : Nat) : Nat := if inLoam a then 32 else 64

def memByte (s : State) (a : Nat) : Byte := SMap.get s.mem a 0

def memRead (s : State) (a len : Nat) : List Byte := (List.range len).map (fun j => memByte s (a + j))

/-- A little-endian value in memory (R4). -/
def memVal (s : State) (a len : Nat) : Nat := leVal (memRead s a len)

def lineAt (s : State) (a : Nat) : Line := BitVec.ofNat 512 (memVal s (lineAddr a) 64)

def isRetired (s : State) (a : Nat) : Bool := SMap.get s.rel.retired (lineAddr a) false

/-- A stack that has become unusable (R211). -/
def stackLost (s : State) (st : Nat) : Bool := SMap.get s.hbm.unusable st false

/-- Does a range meet an unusable stack (R211); twenty granules in a row meet every stack. -/
def rangeLost (s : State) (a len : Nat) : Bool :=
  !s.hbm.unusable.isEmpty && inHbm a && len != 0
    && (List.range (min 20 ((a + len - 1) / 256 - a / 256 + 1))).any (fun k => stackLost s ((a / 256 + k) % 20))

/-- An HBM address whose stack is in self-refresh, in Hold and in a coolant stop: it takes no requests, and they wait (R224). -/
def hbmAsleep (s : State) (a : Nat) : Bool := s.hbm.selfRefresh && inHbm a

/-- A running self-test holds the place of an address (Table 18.5): a line test its line, a loam word march and an HBM row
test the bank. -/
def underTest (s : State) (a : Nat) : Bool :=
  s.rel.tests.any (fun t => t.running && (match t.kind with
    | .line => lineAddr t.loc == lineAddr a
    | .loamMarch => inLoam a && (loamPlace a).1 == (loamPlace t.loc).1 && (loamPlace a).2.1 == (loamPlace t.loc).2.1
    | .hbmRow => inHbm a && (hbmOf a).stack == (hbmOf t.loc).stack && (hbmOf a).pc == (hbmOf t.loc).pc
        && (hbmOf a).bank == (hbmOf t.loc).bank
    | .arrayRegion | .outputStage | .engine | .fullUnit | .stackLink | .lane => false))

/-- An access to an address waits: its stack is in self-refresh, or a self-test holds it. -/
def memHeld (s : State) (a : Nat) : Bool := hbmAsleep s a || underTest s a

/-- Does reading this unit give poison (R184, R394); a request to an unusable stack fails in the same way (R211). -/
def isPoisoned (s : State) (a : Nat) : Bool :=
  SMap.get s.rel.poison (eccUnit a) false || isRetired s a || rangeLost s a 1

/-- Does a range meet a poisoned unit or a retired line. -/
def rangePoisoned (s : State) (a len : Nat) : Bool :=
  s.rel.poison.any (fun e => e.2 && decide (e.1 < a + len) && decide (a < e.1 + eccSize e.1))
    || s.rel.retired.any (fun e => e.2 && decide (e.1 < a + len) && decide (a < e.1 + 64))
    || rangeLost s a len

/-- Retired lines of a range. -/
def retiredIn (s : State) (a len : Nat) : List Nat :=
  ((s.rel.retired.filter (fun e => e.2 && decide (e.1 < a + len) && decide (a < e.1 + 64))).map Prod.fst)

/-- Store bytes, leaving the lines of `skip` as they are (R394). -/
def putBytesSkip (m : List Host.Cell) (skip : List Nat) (k : Nat) : List Byte → List Host.Cell
  | [] => m
  | b :: l => putBytesSkip (if skip.contains (lineAddr k) then m else SMap.set m k b 0) skip (k + 1) l

/-- Clear the poison of every unit wholly inside a range, retired lines apart (R184, R223). -/
def clearPoison (s : State) (a len : Nat) : State :=
  { s with rel := { s.rel with poison := s.rel.poison.filter (fun e =>
      !(decide (a ≤ e.1) && decide (e.1 + eccSize e.1 ≤ a + len))) } }

/-- A write breaks the reservations of the lines it meets (R243). -/
def keepRes (s : State) (a len : Nat) : SMap Nat :=
  s.reservations.filter (fun e => !(decide (e.2 < a + len + 1) && decide (a < e.2 + 63)))

/-- Write bytes at a local address: retired lines discard their part and count (R394), wholly covered units lose their
poison. -/
def memWrite (s : State) (a : Nat) (l : List Byte) : State :=
  let skip := retiredIn s a l.length
  let s1 := clearPoison s a l.length
  bumpBy { s1 with mem := putBytesSkip s1.mem skip a l, reservations := keepRes s a l.length } 0x8000 9 skip.length

/-- Write a value of `n` bytes. -/
def memWriteVal (s : State) (a n v : Nat) : State := memWrite s a (leBytes n v)

/-- Move the cells of [src, src + len) to dst; the bytes there before are gone. -/
def moveCells (m : List Host.Cell) (dst src len : Nat) : List Host.Cell :=
  (m.filter (fun e => decide (src ≤ e.1) && decide (e.1 < src + len))).foldl
    (fun t e => SMap.set t (e.1 - src + dst) e.2 0) (SMap.dropRange m dst (dst + len))

/-- Copy a range of memory (R191). Retired lines of the destination keep reading as poisoned. -/
def memCopy (s : State) (dst src len : Nat) : State :=
  let s1 := clearPoison s dst len
  bumpBy { s1 with mem := moveCells s1.mem dst src len, reservations := keepRes s dst len } 0x8000 9 (retiredIn s dst len).length

/-- Bytes of a range whose layout or contents the spec leaves open: each byte that no retired line holds has a free value, and
the poison of a unit inside stays or goes by a free choice (log 39). -/
def leaveOpen (s : State) (a len : Nat) : State :=
  let skip := retiredIn s a len
  let bytes := leBytes len (Config.freeValue s.freeCtr)
  let mid := ((List.range len).zip bytes).map (fun e =>
    (a + e.1, if skip.contains (lineAddr (a + e.1)) then memByte s (a + e.1) else e.2))
  { s with
    mem := s.mem.filter (fun e => decide (e.1 < a)) ++ (mid.filter (fun e => decide (e.2 ≠ 0))
      ++ s.mem.filter (fun e => decide (a + len ≤ e.1)))
    reservations := keepRes s a len
    rel := { s.rel with poison := s.rel.poison.filter (fun e =>
      !(decide (a ≤ e.1) && decide (e.1 + eccSize e.1 ≤ a + len)) || (Config.freeValue (s.freeCtr + 1)).testBit (e.1 - a)) }
    freeCtr := s.freeCtr + 2 }

/-- Write zeros to a range. -/
def memZero (s : State) (a len : Nat) : State :=
  let s1 := clearPoison s a len
  { s1 with mem := SMap.dropRange s1.mem a (a + len), reservations := keepRes s a len }

/-- Merge a line under a mask of 128 nibbles (R234): nibble j of `new` where bit j is set. -/
def mergeLine (old new : Line) (mask : BitVec 128) : Line :=
  BitVec.ofNat 512 ((List.range 128).foldl (fun v j =>
    v + (if mask.getLsbD j then fld new.toNat (4 * j + 3) (4 * j) else fld old.toNat (4 * j + 3) (4 * j)) * 2 ^ (4 * j)) 0)

/-- A byte mask as a nibble mask. -/
def nibbles (m : Nat) : BitVec 128 :=
  BitVec.ofNat 128 ((List.range 64).foldl (fun v j => if m.testBit j then v + 3 * 2 ^ (2 * j) else v) 0)

/-- Does the mask cover the 256-bit word (or the line) at nibble offset lo, n nibbles. -/
def maskCovers (mask : BitVec 128) (lo n : Nat) : Bool := (List.range n).all (fun j => mask.getLsbD (lo + j))

/-- Any nibble of the unit enabled. -/
def maskTouches (mask : BitVec 128) (lo n : Nat) : Bool := (List.range n).any (fun j => mask.getLsbD (lo + j))

/-- Store a line's bytes without touching poison. -/
def putLine (s : State) (a : Nat) (v : Line) : State :=
  { s with mem := putBytes s.mem (lineAddr a) (leBytes 64 v.toNat), reservations := keepRes s (lineAddr a) 64 }

/-- A masked write of one line (R184, R223, R234). A retired line discards it and counts it (R394); a line of
an unusable stack takes no write (R211). -/
def writeLine (s : State) (a : Nat) (v : Line) (mask : BitVec 128) : State :=
  if isRetired s a then bump s 0x8000 9
  else if rangeLost s a 1 then s
  else
    let b := lineAddr a
    let s1 := putLine s a (mergeLine (lineAt s a) v mask)
    if inLoam a then
      let s2 := if maskCovers mask 0 64 then clearPoison s1 b 32 else s1
      if maskCovers mask 64 64 then clearPoison s2 (b + 32) 32 else s2
    else if maskCovers mask 0 128 then clearPoison s1 b 64 else s1

/-- Mark the ECC unit at `a` poisoned. -/
def setPoison (s : State) (a : Nat) : State :=
  { s with rel := { s.rel with poison := SMap.set s.rel.poison (eccUnit a) true false } }

/-- The unit code of a loam site (Table 18.3). -/
def loamUnit (a : Nat) : Nat := 60 + regionOf a

/-- The unit code of the stack that holds an HBM address. -/
def stackUnit (a : Nat) : Nat := 12 + (hbmOf a).stack.val

/-- Events 01h to 04h for the unit at `a`, with the operation concerned (R184, R223). -/
def eccEvent (bad : Bool) (a : Nat) (ctx : Option Nat) (opId : Nat) : Event :=
  if inLoam a then
    if bad then { Event.plain 2 1 (loamUnit a) (eccUnit a) with
        ctx := ctx, opId := opId, srcs := [src 6 1], tests := [(.loamMarch, loamUnit a, lineAddr a)] }
    else { Event.plain 1 0 (loamUnit a) (lineAddr a) with
        ctx := ctx, opId := opId, srcs := [src 6 0], tests := [(.line, loamUnit a, lineAddr a)] }
  else
    if bad then { Event.plain 4 1 (stackUnit a) (lineAddr a) with
        ctx := ctx, opId := opId, srcs := [src 8 (hbmOf a).stack.val],
        tests := [(.hbmRow, stackUnit a, rowAddr (hbmOf a) 0)] }
    else { Event.plain 3 0 (stackUnit a) (lineAddr a) with
        ctx := ctx, opId := opId, srcs := [src 8 20], tests := [(.line, stackUnit a, lineAddr a)] }

/-- What the check of one unit finds (R184, R223). Only the first detection of an uncorrectable unit counts. -/
def eccFind (s : State) (a : Nat) (r : EccResult) (ctx : Option Nat) (opId : Nat) : State :=
  let base := if inLoam a then 0x4000 else 0x5000
  let ic := if inLoam a then 4 else 3
  match r with
  | .clean => s
  | .corrected => if isPoisoned s a then s else logEvent (bump s base ic) (eccEvent false a ctx opId)
  | .uncorrectable =>
    if isPoisoned s a then s
    else logEvent (setReg (bump (setPoison s a) base (ic + 1)) base (ic + 2) (eccUnit a)) (eccEvent true a ctx opId)

/-- An access to an unassigned address is logged (R6). -/
def logUnassigned (s : State) (a : Nat) (ctx : Option Nat) (opId : Nat) : State :=
  logEvent s { Event.plain 0x17 2 0xFF a with ctx := ctx, opId := opId }

/-! Contexts. -/

/-- The context record (Table 10.5). -/
def ctxRec (s : State) (c : Nat) : Nat := reg s (0x4100 + c) 1

/-- Field [hi:lo] of word Qn of a value. -/
def qf (w n hi lo : Nat) : Nat := fld w (64 * n + hi) (64 * n + lo)

def ctxState (s : State) (c : Nat) : Nat := reg s (0x4100 + c) 2

def ctxSeed (s : State) (c : Nat) : Nat := qf (ctxRec s c) 0 63 0

/-- Base and size in bytes of loam window n of a record. -/
def winBase (r n : Nat) : Nat := qf r (3 + n) 43 0
def winSize (r n : Nat) : Nat := 0x200000 * qf r (3 + n) 63 44
def hbmWinBase (r : Nat) : Nat := qf r 1 43 0
def hbmWinSize (r : Nat) : Nat := 0x4000000 * qf r 1 63 44

/-- [a, a + len) lies in [b, b + size). -/
def within (a len b size : Nat) : Bool := decide (b ≤ a) && decide (a + len ≤ b + size)

/-- A range inside the loam window of a record: wholly inside one window (R193). -/
def inLoamWin (r a len : Nat) : Bool := (List.range 4).any (fun n => winSize r n != 0 && within a len (winBase r n) (winSize r n))

def inHbmWin (r a len : Nat) : Bool := within a len (hbmWinBase r) (hbmWinSize r)

/-- A context that holds its windows, sync range and queues (R196). -/
def ctxHolds (s : State) (c : Nat) : Bool := decide (2 ≤ ctxState s c)

def syncBase (r : Nat) : Nat := qf r 11 11 0
def syncCount (r : Nat) : Nat := qf r 11 24 12
def ctxQueues (r : Nat) : Nat := qf r 12 63 0

/-- The context that holds queue q. -/
def queueCtx (s : State) (q : Nat) : Option Nat :=
  (List.range 64).find? (fun c => ctxHolds s c && (ctxQueues (ctxRec s c)).testBit q)

/-! Operations in flight. -/

def findOp (s : State) (tag : Nat) : Option Op := s.ops.find? (fun o => o.tag == tag)

/-- Note the time at which the conditions of R104 come to hold (R108). -/
def Op.stamp (t : Nat) (o : Op) : Op :=
  if o.ended && o.capsOut == 0 && o.remoteOut == 0 && o.doneAt.isNone then { o with doneAt := some t } else o

/-- Change the operation with this tag. -/
def updOp (s : State) (tag : Nat) (f : Op → Op) : State :=
  { s with ops := mapIf (fun o => o.tag == tag) (fun o => (f o).stamp s.aon.time) s.ops }

/-- End an operation with a status, unless it has ended. -/
def endOp (s : State) (tag st : Nat) : State :=
  updOp s tag (fun o => if o.ended then o else { o with status := st, ended := true })

/-- A coolant or thermal stop is in force, resume included (R377, R378). -/
def stopped (s : State) : Bool := s.power.stopPhase != 0

/-- The self-timed region runs: powered, clocked, not frozen. -/
def coreRuns (s : State) : Bool := clockOn s && !s.aon.frozen && !stopped s

/-- Is vector engine n retired, and array n (R89, R393): all of an array's sixteen blocks retired. -/
def engineRetired (s : State) (n : Nat) : Bool := s.rel.engines.testBit n
def retiredBlocks (s : State) (a : Nat) : Nat := reg s (0x2200 + a) 0x0A

/-- Events need a context option. -/
def opEvent (o : Op) (e : Event) : Event := { e with ctx := some o.ctx, opId := fld o.desc.toNat 47 24 }

end Sys2Proof.Machine
end

