-- ==== Sys2Proof/Machine/Operands.lean ====
section
/-! DEFINITION. Operand forms: format codes (Table 5.2), the stored layout of tensors (R29, R96), the fields of the
matrix descriptor (Table 5.1), tiles (R99), masks (R98) and the reference groups of each class (Tables 3.1, 4.1). -/

namespace Sys2Proof.Machine

/-- The format of a code (Table 5.2); scaled INT8 is MXINT8. -/
def fmtOfCode (c : Nat) (scaled : Bool) : Option Fmt :=
  if c = 0 then some .fp32 else if c = 1 then some .fp16 else if c = 2 then some .bf16
  else if c = 3 then some .e4m3 else if c = 4 then some .e5m2 else if c = 5 then some .e3m2
  else if c = 6 then some .e2m3 else if c = 7 then some .e2m1
  else if c = 8 then some (if scaled then .mxint8 else .int8)
  else if c = 9 then some .int4 else if c = 10 then some .int32 else none

/-- Does the SCALED bit agree with the Scaled column of Table 5.2. -/
def scaledOk (c : Nat) (scaled : Bool) : Bool :=
  if c = 3 || c = 4 || c = 8 then true
  else if c = 5 || c = 6 || c = 7 then scaled
  else !scaled

/-- The operand class of a code: rows of Table 2.2 (0 4/6-bit float, 1 INT4, 2 8-bit float, 3 INT8, 4 16-bit, 5 FP32). -/
def classOf (c : Nat) : Nat :=
  if c = 5 || c = 6 || c = 7 then 0 else if c = 9 then 1 else if c = 3 || c = 4 then 2
  else if c = 8 then 3 else if c = 1 || c = 2 then 4 else 5

/-- G of Table 3.1. -/
def groupSize (cls : Nat) : Nat := if cls ≤ 3 then 4 else if cls = 4 then 2 else 1

/-- Kw of Table 4.1. -/
def kWaves (cls k : Nat) : Nat :=
  if cls ≤ 1 then (k + 7) / 8 else if cls ≤ 3 then (k + 3) / 4 else if cls = 4 then (k + 1) / 2 else 2 * k

/-- The k range [lo, hi) that wave w consumes (R63): an FP32 element is completed every second wave. -/
def kRange (cls k w : Nat) : Nat × Nat :=
  let n := if cls ≤ 1 then 8 else if cls ≤ 3 then 4 else 2
  if cls = 5 then (if w % 2 = 1 then (w / 2, min (w / 2 + 1) k) else (0, 0))
  else (w * n, min (w * n + n) k)

/-- A stored tensor (R96). -/
structure Tensor where
  addr   : Nat
  fmt    : Fmt
  scaled : Bool
  axis   : Nat
  scale  : Nat
  pitch  : Nat      -- in 64-byte units
  rows   : Nat
  cols   : Nat
deriving DecidableEq, Repr

def ceilDiv (a b : Nat) : Nat := (a + b - 1) / b

/-- Stored lines. -/
def Tensor.lines (t : Tensor) : Nat := if t.scaled && t.axis == 1 then ceilDiv t.rows 32 else t.rows

/-- Bytes of one line. -/
def Tensor.lineBytes (t : Tensor) : Nat :=
  if t.scaled then (if t.axis = 1 then t.cols * 4 * t.fmt.bits else ceilDiv t.cols 32 * (4 * t.fmt.bits))
  else ceilDiv (t.cols * t.fmt.bits) 8

/-- Bytes from the first to the last of the element array; 0 when it holds nothing. -/
def Tensor.size (t : Tensor) : Nat :=
  if t.lines = 0 || t.lineBytes = 0 then 0 else (t.lines - 1) * (64 * t.pitch) + t.lineBytes

/-- Bytes of the scale array. -/
def Tensor.scaleSize (t : Tensor) : Nat :=
  if t.scaled then (if t.axis = 1 then ceilDiv t.rows 32 * t.cols else t.rows * ceilDiv t.cols 32) else 0

/-- The line and the element index in it of element (r, c). -/
def Tensor.place (t : Tensor) (r c : Nat) : Nat × Nat :=
  if t.scaled && t.axis == 1 then (r / 32, c * 32 + r % 32) else (r, c)

/-- The address of the byte that holds the first bit of an element, and its bit offset there (R29). -/
def Tensor.loc (t : Tensor) (r c : Nat) : Nat × Nat :=
  let p := t.place r c
  (t.addr + p.1 * (64 * t.pitch) + p.2 * t.fmt.bits / 8, p.2 * t.fmt.bits % 8)

/-- The address of the scale byte of an element. -/
def Tensor.scaleLoc (t : Tensor) (r c : Nat) : Nat :=
  if t.axis = 1 then t.scale + r / 32 * t.cols + c else t.scale + r * ceilDiv t.cols 32 + c / 32

/-- The bits of an element. -/
def Tensor.raw (s : State) (t : Tensor) (r c : Nat) : Nat :=
  let p := t.loc r c
  memVal s p.1 ((t.fmt.bits + p.2 + 7) / 8) / 2 ^ p.2 % 2 ^ t.fmt.bits

/-- The value of an element, its scale applied (R23, R32). -/
def Tensor.read (s : State) (t : Tensor) (r c : Nat) : FVal :=
  let v := t.fmt.decode (t.raw s r c)
  if t.scaled then v.scale (memByte s (t.scaleLoc r c)).toNat else v

/-- Does reading an element meet poison. -/
def Tensor.poisonAt (s : State) (t : Tensor) (r c : Nat) : Bool :=
  isPoisoned s (t.loc r c).1 || (t.scaled && isPoisoned s (t.scaleLoc r c))

/-- Store the bits of an unscaled element; a nibble is merged (R76). -/
def Tensor.store (t : Tensor) (s : State) (r c v : Nat) : State :=
  let p := t.loc r c
  if t.fmt.bits < 8 then
    let old := (memByte s p.1).toNat
    memWrite s p.1 [BitVec.ofNat 8 (setFld old (p.2 + t.fmt.bits - 1) p.2 v)]
  else memWriteVal s p.1 (t.fmt.bits / 8) v

/-- The bytes of a block of 32 elements (R29). -/
def packBlock (f : Fmt) (l : List Nat) : List Byte :=
  leBytes (4 * f.bits) (((List.range l.length).zip l).foldl (fun v e => v + e.2 * 2 ^ (f.bits * e.1)) 0)

/-- Store a whole block and its scale byte; (r, c) is its first element, missing elements are zeros (R31). -/
def Tensor.storeBlock (t : Tensor) (s : State) (r c scale : Nat) (elems : List Nat) : State :=
  memWrite (memWrite s (t.loc r c).1 (packBlock t.fmt elems)) (t.scaleLoc r c) [BitVec.ofNat 8 scale]

/-! Matrix descriptor (Table 5.1), as a 1,024-bit value. -/

def dOpcode (d : Nat) : Nat := qf d 0 7 0
def dVersion (d : Nat) : Nat := qf d 0 15 8
def dOpId (d : Nat) : Nat := qf d 0 47 24
def dUserTag (d : Nat) : Nat := qf d 0 63 48
def dCq (d : Nat) : Nat := qf d 1 21 16
def dPhase (d : Nat) : Nat := qf d 1 31 24
def mArray (d : Nat) : Nat := qf d 0 17 16
def mPart (d : Nat) : Nat := qf d 0 21 18
def mMode (d : Nat) : Nat := qf d 0 23 22
def mRound (d : Nat) : Nat := qf d 1 1 0
def mIeee (d : Nat) : Bool := qf d 1 2 2 == 1
def mZeroMasked (d : Nat) : Bool := qf d 1 3 3 == 1
def mDual (d : Nat) : Bool := qf d 1 4 4 == 1
def dAbort (d : Nat) : Bool := qf d 1 5 5 == 1
def mColMajor (d : Nat) : Bool := qf d 1 6 6 == 1
def mAccIn (d : Nat) : Bool := qf d 1 7 7 == 1
def mDest (d : Nat) : Nat := qf d 1 9 8
def mRowMask (d : Nat) : Bool := qf d 1 10 10 == 1
def mColMask (d : Nat) : Bool := qf d 1 11 11 == 1
def mHeadroom (d : Nat) : Nat := qf d 1 15 12
def mStream (d : Nat) : Nat := qf d 1 63 32
def mStep (d : Nat) : Nat := qf d 2 63 0
def mM (d : Nat) : Nat := qf d 3 19 0
def mN (d : Nat) : Nat := qf d 3 39 20
def mK (d : Nat) : Nat := qf d 3 63 40
def mAFmt (d : Nat) : Nat := qf d 4 47 44
def mBFmt (d : Nat) : Nat := qf d 6 47 44
def mDFmt (d : Nat) : Nat := qf d 8 47 44
def mDScaled (d : Nat) : Bool := qf d 8 48 48 == 1
def mDAxis (d : Nat) : Nat := qf d 8 49 49
def mEpi (d : Nat) : Nat := qf d 11 59 44
def mComm (d : Nat) : Nat := qf d 13 51 44
def mBucket (d : Nat) : Nat := qf d 14 63 44
def mMaskAddr (d : Nat) : Nat := qf d 14 43 0
def mSlope (d : Nat) : Nat := qf d 13 63 52
def dBase (d : Nat) : Nat := qf d 15 31 0
def dWork (d : Nat) : Nat := qf d 15 63 32

/-- An operand of Q4 and Q5 (n = 4) or Q6 and Q7 (n = 6), stored `outer` x K or K x `outer`; `kFirst` is the value of
KDIM for which K runs along the lines' columns. -/
def mOperand (d n outer : Nat) : Tensor :=
  let scaled := qf d n 48 48 == 1
  let kdim := qf d n 49 49
  { addr := qf d n 43 0, fmt := (fmtOfCode (qf d n 47 44) scaled).getD .fp32, scaled := scaled,
    axis := qf d n 50 50, scale := qf d (n + 1) 43 0, pitch := qf d (n + 1) 63 44,
    rows := if kdim = 0 then outer else mK d, cols := if kdim = 0 then mK d else outer }

def mA (d : Nat) : Tensor := mOperand d 4 (mM d)
def mB (d : Nat) : Tensor := mOperand d 6 (mN d)

/-- A[i,k] and B[k,j]. -/
def readA (s : State) (d i k : Nat) : FVal :=
  if qf d 4 49 49 = 0 then (mA d).read s i k else (mA d).read s k i
def readB (s : State) (d k j : Nat) : FVal :=
  if qf d 6 49 49 = 0 then (mB d).read s j k else (mB d).read s k j
def poisonA (s : State) (d i k : Nat) : Bool :=
  if qf d 4 49 49 = 0 then (mA d).poisonAt s i k else (mA d).poisonAt s k i
def poisonB (s : State) (d k j : Nat) : Bool :=
  if qf d 6 49 49 = 0 then (mB d).poisonAt s j k else (mB d).poisonAt s k j

def mDFormat (d : Nat) : Fmt := (fmtOfCode (mDFmt d) (mDScaled d)).getD .fp32

/-- The destination, its column copy (R100), and the accumulate-in tile (R97). -/
def mD (d : Nat) : Tensor :=
  { addr := qf d 8 43 0, fmt := mDFormat d, scaled := mDScaled d, axis := mDAxis d, scale := qf d 9 43 0,
    pitch := qf d 9 63 44, rows := mM d, cols := mN d }
def mD2 (d : Nat) : Tensor :=
  { addr := qf d 10 43 0, fmt := mDFormat d, scaled := true, axis := 1, scale := qf d 11 43 0,
    pitch := qf d 10 63 44, rows := mM d, cols := mN d }
def mAcc (d : Nat) : Tensor :=
  { addr := qf d 12 43 0, fmt := mDFormat d, scaled := mDScaled d, axis := mDAxis d, scale := qf d 13 43 0,
    pitch := qf d 12 63 44, rows := mM d, cols := mN d }

/-- Address of the column mask (R98). -/
def colMaskAddr (d : Nat) : Nat := mMaskAddr d + 64 * ceilDiv (mM d) 512

/-- The masks as bit sets, read once (R98); bit i = masked. -/
def readRowMask (s : State) (d : Nat) : Nat :=
  if mRowMask d then memVal s (mMaskAddr d) (ceilDiv (mM d) 8) % 2 ^ mM d else 0
def readColMask (s : State) (d : Nat) : Nat :=
  if mColMask d then memVal s (colMaskAddr d) (ceilDiv (mN d) 8) % 2 ^ mN d else 0

/-- Partitions of a mode. -/
def partsOf (mode : Nat) : Nat := if mode = 0 then 1 else if mode = 1 then 4 else 16

/-- Tiles of an operation in side p (R99). -/
def tileCount (d p : Nat) : Nat := ceilDiv (mM d) p * ceilDiv (mN d) p

/-- (tm, tn) of tile t (R99). -/
def tileAt (d p t : Nat) : Nat × Nat :=
  if mColMajor d then (t % ceilDiv (mM d) p, t / ceilDiv (mM d) p)
  else (t / ceilDiv (mN d) p, t % ceilDiv (mN d) p)

/-- Rows and columns of a tile. -/
def tileRows (d p t : Nat) : List Nat :=
  let r0 := (tileAt d p t).1 * p
  (List.range (min (r0 + p) (mM d) - r0)).map (· + r0)
def tileCols (d p t : Nat) : List Nat :=
  let c0 := (tileAt d p t).2 * p
  (List.range (min (c0 + p) (mN d) - c0)).map (· + c0)

/-- Active rows and columns (R77). -/
def activeOf (l : List Nat) (mask : Nat) : List Nat := l.filter (fun i => !mask.testBit i)

/-- The rounding of element (row, col) of the destination (R37, R38). -/
def roundMode (s : State) (o : Op) (row col : Nat) : Rmode :=
  let d := o.desc.toNat
  if mRound d = 1 then .sr (srBits (ctxSeed s o.ctx) (mStream d) (mStep d) (dOpId d) (row * mN d + col)) else .rne

end Sys2Proof.Machine
end

