-- ==== Sys2Proof/Machine/Flags.lean ====
section
/-! DEFINITION. Status codes (Tables 5.3, 12.8, 15.3), the counts of R42 and R43, and the completion records of
Tables 5.4 and 12.7. -/

namespace Sys2Proof.Machine

/-! Completion statuses (Tables 5.3 and 12.8, R317). -/
abbrev stOk : Nat := 0
abbrev stDescriptor : Nat := 1
abbrev stMode : Nat := 2
abbrev stPartition : Nat := 3
abbrev stFormat : Nat := 4
abbrev stAddress : Nat := 5
abbrev stAborted : Nat := 6
abbrev stContextReset : Nat := 7
abbrev stHwFault : Nat := 8
abbrev stTimeout : Nat := 9
abbrev stAbandoned : Nat := 10
abbrev stNotHolder : Nat := 11
abbrev stFlushed : Nat := 13
abbrev stAlreadyHeld : Nat := 14

/-- How many of a kind. -/
def countOf (k : Count) (l : List Count) : Nat := (l.filter (· == k)).length

/-- Add the counts of written elements to an operation (R42, R43); totals saturate at their field. -/
def addCounts (o : Op) (l : List Count) : Op :=
  { o with ovfl := satAdd 32 o.ovfl (countOf .ovf l), nan := satAdd 32 o.nan (countOf .nan l),
           under := satAdd 32 o.under (countOf .under l) }

/-- Add to a status total. -/
def addNan (o : Op) (n : Nat) : Op := { o with nan := satAdd 32 o.nan n }

/-- Did the descriptor fail a check: its record keeps the Reset column of Table 5.4. -/
def failedCheck (o : Op) : Bool := decide (1 ≤ o.status) && decide (o.status ≤ 5) && o.waves == 0 && !o.accepted

/-- The completion record of Table 5.4; RING_PHASE is set when it is written. -/
def recordWord (o : Op) : BitVec 256 :=
  let d := o.desc.toNat
  let q0 := o.tag + dUserTag d * 2 ^ 16 + o.status * 2 ^ 32 + dOpId d * 2 ^ 40
  let sat := o.under == 2 ^ 32 - 1 || o.nan == 2 ^ 32 - 1 || o.ovfl == 2 ^ 32 - 1
  let q3 := min o.waves (2 ^ 40 - 1) + b2n o.zeroK * 2 ^ 40 + b2n o.empty * 2 ^ 41 + b2n o.missed * 2 ^ 42
    + b2n o.sampled * 2 ^ 43 + b2n sat * 2 ^ 44 + dPhase d * 2 ^ 48
  BitVec.ofNat 256 (q0 + (o.under + o.nan * 2 ^ 32) * 2 ^ 64 + (o.ovfl + min o.energy (2 ^ 32 - 1) * 2 ^ 32) * 2 ^ 128
    + q3 * 2 ^ 192)

/-- The sync record of Table 12.7. -/
def syncRecordWord (o : Op) : BitVec 256 :=
  let d := o.desc.toNat
  let q0 := o.tag + dUserTag d * 2 ^ 16 + o.status * 2 ^ 32 + dOpId d * 2 ^ 40
  BitVec.ofNat 256 (q0 + o.epochSeen % 2 ^ 32 * 2 ^ 64 + min o.waitNs (2 ^ 40 - 1) * 2 ^ 128 + b2n o.late * 2 ^ 192)

/-- The record of a flushed slot (R317): USER_TAG and OP_ID copied, every other field at its Reset value. -/
def flushedWord (tag : Nat) (d : Nat) : BitVec 256 :=
  BitVec.ofNat 256 (tag + dUserTag d * 2 ^ 16 + stFlushed * 2 ^ 32 + dOpId d * 2 ^ 40)

/-- An operation just taken (R315). -/
def newOp (s : State) (tag q ctx : Nat) (kind : OpKind) (desc : BitVec 1024) : Op :=
  { tag := tag, queue := q, ctx := ctx, kind := kind, desc := desc, taken := now s, deadline := none,
    dlHandled := false, status := 0, ended := false, recorded := false, under := 0, ovfl := 0, nan := 0, waves := 0,
    zeroK := false, empty := false, missed := false, sampled := false, late := false, subst := false,
    diverge := false, repaired := false, capExt := false, epochSeen := 0, waitNs := 0, remoteOut := 0, capsOut := 0,
    accepted := false, energy := 0, epi := 0, rowMask := 0, colMask := 0, planned := 0, epiStop := false, doneAt := none, before := [],
    subEnd := 0, turn := none }

/-- The deadline of R107: base 0 means none. -/
def deadlineOf (s : State) (base work slope : Nat) : Option Nat :=
  if base = 0 then none else some (now s + base + work * slope / 1024)

end Sys2Proof.Machine
end

