-- ==== Sys2Proof/Machine/Queues.lean ====
section
/-! DEFINITION. Command queues, dispatch and completion rings (R312 to R320): the parts every descriptor shares. -/

namespace Sys2Proof.Machine

/-- A meaning's answer. -/
abbrev Out := Host.Outcome State Fault Refusal

/-! QUEUE_CONFIG (Table 15.1). -/
def qCfg (s : State) (q : Nat) : Nat := reg s (0x2100 + q) 1
def qBase (c : Nat) : Nat := qf c 0 62 0
def qHost (c : Nat) : Bool := qf c 0 63 63 == 1
def qSize (c : Nat) : Nat := qf c 1 12 0
def qKind (c : Nat) : Nat := qf c 1 18 16
def qUnit (c : Nat) : Nat := qf c 1 20 19
def qPart (c : Nat) : Nat := qf c 1 24 21
def qTagLimit (c : Nat) : Nat := qf c 1 34 25

abbrev qTailOff (q : Nat) : Nat := 64 * q
abbrev qHeadOff (q : Nat) : Nat := 64 * q + 8
abbrev rHeadOff (r : Nat) : Nat := 0x1000 + 64 * r
abbrev rTailOff (r : Nat) : Nat := 0x1000 + 64 * r + 8

def qHead (s : State) (q : Nat) : Nat := bget s (qHeadOff q)
def qTail (s : State) (q : Nat) : Nat := bget s (qTailOff q)
def qState (s : State) (q : Nat) : Nat := reg s (0x2100 + q) 2

/-- Put a queue into a state of Table 15.3; the level source of a STOPPED queue follows (groups 2 and 3). -/
def setQState (s : State) (q st : Nat) : State :=
  setCond (setReg s (0x2100 + q) 2 st) (src (2 + q / 32) (q % 32)) (st == 3)

/-- Stop a queue with a reason (R317). A queue that is not held stays IDLE. -/
def stopQueue (s : State) (q reason : Nat) : State :=
  if qState s q = 0 then s else setReg (setQState s q 3) (0x2100 + q) 4 reason

/-- Slots from head to tail (R314). -/
def qAvail (s : State) (q : Nat) : Nat :=
  let n := qSize (qCfg s q)
  if n = 0 then 0 else (qTail s q + n - qHead s q) % n

/-- Local address or host address of slot i. -/
def slotAddr (s : State) (q i : Nat) : Nat := qBase (qCfg s q) + 128 * i

/-- Is a local slot readable: inside the windows of the context that holds the queue, and not poisoned (R317). -/
def slotReadable (s : State) (c q i : Nat) : Bool :=
  let a := slotAddr s q i
  (inLoamWin (ctxRec s c) a 128 || inHbmWin (ctxRec s c) a 128) && !rangePoisoned s a 128

/-- The descriptor at a slot of a local queue. -/
def slotDesc (s : State) (q i : Nat) : BitVec 1024 := BitVec.ofNat 1024 (memVal s (slotAddr s q i) 128)

/-- What a read of the head slot gives: not read yet (host memory), unreadable, or the descriptor. -/
inductive SlotRead where
  | waiting
  | failed
  | desc (d : BitVec 1024)
deriving DecidableEq, Repr

def readHead (s : State) (c q : Nat) : SlotRead :=
  if qHost (qCfg s q) then
    match SMap.find s.hostIf.slotData q with
    | none => .waiting
    | some d => .desc d
  else if slotReadable s c q (qHead s q) then .desc (slotDesc s q (qHead s q)) else .failed

/-- Ask the host for the slot at the head of a host-memory queue, once, when dispatch takes it (R94, R321). -/
def askHostSlot (s : State) (q : Nat) : State :=
  if qHost (qCfg s q) && qAvail s q != 0 && s.aon.pcieUp && !SMap.has s.hostIf.slotData q && !s.hostIf.asked.contains q then
    emit { s with hostIf := { s.hostIf with asked := q :: s.hostIf.asked } }
      (.hostRead (.queueSlot (Fin.ofNat 64 q)) (slotAddr s q (qHead s q)) 128)
  else s

/-- The read of a queue's head slot is over, or its answer is no longer wanted. -/
def slotAnswered (s : State) (q : Nat) : State :=
  { s with hostIf := { s.hostIf with asked := s.hostIf.asked.filter (fun x => x != q) } }

/-- Operations of a queue in flight: taken, record not yet written (R315). -/
def inFlight (s : State) (q : Nat) : List Op := s.ops.filter (fun o => o.queue == q)

/-- Operations per stream of a kind (Table 15.2). -/
def streamLimit (kind : Nat) : Nat := if kind = 0 || kind = 1 then 2 else if kind = 2 then 8 else 64

/-- Opcodes of the sync operations (R248), taken by their own commands on every queue. -/
def isSyncOp (op : Nat) : Bool := decide (0x10 ≤ op) && decide (op ≤ 0x16)

/-- Statuses that stop the queue with reason 1 (Table 15.3). -/
def stopsQueue (st : Nat) : Bool := st == stTimeout || st == stAbandoned || st == stHwFault

/-- Is a WAIT or ACQUIRE of the stream not completed (R249); one that stops its queue holds the stream until its record has
done so (R251). -/
def streamWaits (s : State) (q : Nat) : Bool :=
  (inFlight s q).any (fun o => o.kind == .sync && (dOpcode o.desc.toNat == 0x11 || dOpcode o.desc.toNat == 0x12)
    && (!o.ended || (stopsQueue o.status && !o.recorded)))

/-- MODE_STATE of a unit reads MIXED (R358). -/
def mixed (s : State) : Bool := (List.range 4).any (fun u => reg s 0x2010 (2 + u) == 2)

/-- The device dispatches: READY, not FATAL, not MIXED, no power transition, control cores clocked (R15, R358, R383,
R386, R413). -/
def dispatchOn (s : State) : Bool :=
  clockOn s && startState s == 3 && !s.aon.fatal && !mixed s && s.power.request == 0 && !s.power.leaving
    && decide (reg s 0x3300 1 ≤ 1)

/-- An array unit that has done nothing. -/
def ArrayUnit.idle : ArrayUnit :=
  { lastWave := 0, skewUntil := none, rampStart := none, rampStep := 0, burning := false, badRows := 0, badCols := 0,
    recent := [], recirc := [] }

def arrayOf (s : State) (a : Nat) : ArrayUnit := SMap.get s.arrays a ArrayUnit.idle

def setArray (s : State) (a : Nat) (u : ArrayUnit) : State := { s with arrays := SMap.set s.arrays a u ArrayUnit.idle }

/-- An array held for a burn or a targeted test (R88, R92). -/
def arrayBusyHeld (s : State) (a : Nat) : Bool :=
  (arrayOf s a).burning || s.rel.tests.any (fun t => t.running && t.unit == a)

/-- Does partition ii exist in the array's mode, and is it not retired (R74, R89). -/
def blocksOf (mode ii : Nat) : List Nat :=
  if mode = 0 then List.range 16
  else if mode = 1 then
    let r := 2 * (ii / 2)
    let c := 2 * (ii % 2)
    [4 * r + c, 4 * r + c + 1, 4 * r + c + 4, 4 * r + c + 5]
  else [ii]

def partMode (s : State) (a : Nat) : Nat := reg s (0x2200 + a) 1

def partExists (s : State) (a ii : Nat) : Bool := decide (ii < partsOf (partMode s a))

def partRetired (s : State) (a ii : Nat) : Bool :=
  (blocksOf (partMode s a) ii).any (fun b => (retiredBlocks s a).testBit b)

/-- Dispatch takes descriptors of a context while it is RESIDENT, and during a checkpoint once its hold is released, until
another save holds it (R197, R200, R202). -/
def ctxDispatches (s : State) (c : Nat) : Bool :=
  ctxState s c == 3 || (ctxState s c == 5 && (match SMap.find s.ctxs c with
    | none => false
    | some u => u.phase != 0 && u.next.isNone))

/-- A RUNNING queue of a context that dispatches holds a descriptor. -/
def hasWork (s : State) (q : Nat) : Bool :=
  dispatchOn s && qState s q == 1 && qAvail s q != 0
    && (match queueCtx s q with
        | some x => ctxDispatches s x
        | none => false)

/-- Stop reasons 3 and 4 of Table 15.3: the partition of a PARTITION queue does not exist in the array's mode, or is
retired. -/
def deadReason (s : State) (q : Nat) : Option Nat :=
  let c := qCfg s q
  if qSize c = 0 || qKind c ≠ 0 then none
  else if !partExists s (qUnit c) (qPart c) then some 3
  else if partRetired s (qUnit c) (qPart c) then some 4
  else none

/-- May a descriptor be taken from queue q (R315), tags and turn apart. -/
def dispatchable (s : State) (q : Nat) : Bool :=
  let c := qCfg s q
  hasWork s q && (deadReason s q).isNone
    && !(qKind c == 0 && (reg s (0x2200 + qUnit c) 2 == 1 || arrayBusyHeld s (qUnit c)))
    && decide ((inFlight s q).length < streamLimit (qKind c))
    && !streamWaits s q
    && decide ((inFlight s q).length < qTagLimit c)

/-- The dispatching control core (Table 15.2). -/
def dispatcherOf (s : State) (q : Nat) : Nat := if qKind (qCfg s q) = 3 then 0 else qUnit (qCfg s q)

/-- The queue dispatcher d serves next: ascending, after the one it served last (R315). -/
def nextQueue (s : State) (d : Nat) : Option Nat :=
  let last := SMap.get s.rrLast d 0
  ((List.range 64).map (fun i => (last + i) % 64)).find? (fun q => dispatcherOf s q == d && dispatchable s q)

def tagFree (s : State) (tag : Nat) : Bool := !s.ops.any (fun o => o.tag == tag)

/-- R315 in full. -/
def canTake (s : State) (q tag : Nat) : Bool :=
  dispatchable s q && nextQueue s (dispatcherOf s q) == some q && tagFree s tag

/-- Advance the head past the slot just read, and give the dispatcher's turn to the next queue. -/
def takeHead (s : State) (q : Nat) : State :=
  let d := dispatcherOf s q
  let n := qSize (qCfg s q)
  let s1 := bset s (qHeadOff q) ((qHead s q + 1) % n)
  { s1 with rrLast := SMap.set s1.rrLast d (q + 1) 0,
            hostIf := { s1.hostIf with slotData := SMap.drop s1.hostIf.slotData q } }

/-- The unit a queue is bound to, numbered as UNIT of Table 18.3 (DEDUCED, log 45). -/
def queueUnit (s : State) (q : Nat) : Nat :=
  if qKind (qCfg s q) = 3 then 56 else 4 * qKind (qCfg s q) + qUnit (qCfg s q)

/-- Add an operation in flight. -/
def addOp (s : State) (o : Op) : State := { s with ops := s.ops ++ [o] }

/-- Dispatch one descriptor from queue q under tag `tag` (R315, R94): `accept` says whether this command is the one for
the descriptor's opcode, `k` starts the operation. An unreadable slot stops the queue (Table 15.3, reason 2), a slot in host
memory while the link is down too (R420), and so does
a partition that does not exist or is retired (reasons 3, 4). -/
def dispatch (s : State) (q tag : Nat) (accept : Nat → Bool) (kind : OpKind) (k : State → Op → State) : State :=
  if canTake s q tag then
    match queueCtx s q with
    | none => s
    | some c =>
      match readHead s c q with
      | .waiting => if s.aon.pcieUp then askHostSlot s q else stopQueue s q 2
      | .failed => stopQueue s q 2
      | .desc d => if accept d.toNat then k (takeHead s q) (newOp s tag q c kind d) else s
  else match deadReason s q with
    | some r => if hasWork s q then stopQueue s q r else s
    | none => s

/-- A descriptor refused by its checks: taken, and ended with its status (R105). -/
def refuse (s : State) (o : Op) (st : Nat) : State := addOp s { o with status := st, ended := true }

/-! Completion rings. -/

def rCfg (s : State) (r : Nat) : Nat := reg s (0x2140 + r) 1
def rSize (c : Nat) : Nat := qf c 1 16 0
def ringFull (s : State) (r : Nat) : Bool :=
  (bget s (rTailOff r) + 1) % rSize (rCfg s r) == bget s (rHeadOff r)

/-- The pass bit of a ring (R320). -/
def ringPassBit (s : State) (r : Nat) : Bool := SMap.get s.ringPass r true

/-- A record becomes ready for its ring (R320). -/
def pushRecord (s : State) (r : Nat) (w : BitVec 256) (tag : Option Nat) : State :=
  { s with ready := s.ready ++ [{ ring := r, word := w, tag := tag }] }

/-- Write a record at the ring's tail with its pass bit, advance the tail, and make the ring's source pending. -/
def putRecord (s : State) (r : Nat) (w : BitVec 256) : State :=
  let c := rCfg s r
  let t := bget s (rTailOff r)
  let word := w.toNat % 2 ^ 255 + b2n (ringPassBit s r) * 2 ^ 255
  let a := qBase c + 32 * t
  let s1 := if qHost c then emit s (.hostWrite a (leBytes 32 word)) else memWriteVal s a 32 word
  let s2 := bset s1 (rTailOff r) ((t + 1) % rSize c)
  let s3 := if t + 1 = rSize c then { s2 with ringPass := SMap.set s2.ringPass r (!ringPassBit s2 r) true } else s2
  if qf c 1 17 17 = 1 then raise s3 (src (r / 32) (r % 32)) else s3

/-- Free the tag of an operation whose record has been written (R315). -/
def freeTag (s : State) (tag : Option Nat) : State :=
  match tag with
  | none => s
  | some t => { s with ops := s.ops.filter (fun o => o.tag != t) }

/-- Take the first ready record of ring r out of the list. -/
def dropReady (s : State) (r : Nat) : State :=
  { s with ready := s.ready.eraseP (fun x => x.ring == r) }

/-- Flush the descriptors of a queue as R317 states: each readable one takes a tag and receives a FLUSHED record, each
unreadable one is skipped and counted. The tags are the free ones given, one for each slot; without one the rest stays
(log 43). A slot in host memory is asked for, and the return goes on with the completion. -/
def flushSlots (s : State) (c q : Nat) : Nat → List Nat → State
  | 0, _ => s
  | n + 1, tags =>
    if qAvail s q = 0 then { s with hostIf := { s.hostIf with flushing := SMap.drop s.hostIf.flushing q } }
    else
      let i := qHead s q
      let adv := bset s (qHeadOff q) ((i + 1) % qSize (qCfg s q))
      if qHost (qCfg s q) then
        match SMap.find s.hostIf.slotData q with
        | none =>
          if s.aon.pcieUp then
            askHostSlot { s with hostIf := { s.hostIf with flushing := SMap.put s.hostIf.flushing q (c + 1) } } q
          else flushSlots (bump adv 0x2020 5) c q n tags
        | some d =>
          let s1 := { adv with hostIf := { adv.hostIf with slotData := SMap.drop adv.hostIf.slotData q } }
          match tags with
          | [] => s
          | t :: ts => flushSlots (flushOne s1 c q t d) c q n ts
      else if slotReadable s c q i then
        match tags with
        | [] => s
        | t :: ts => flushSlots (flushOne adv c q t (slotDesc s q i)) c q n ts
      else flushSlots (bump adv 0x2020 5) c q n tags
where
  /-- The record of one flushed slot, in its descriptor's CQ (Tables 5.1, 14.2); its tag stays allocated until the record is
  written. -/
  flushOne (s : State) (c q t : Nat) (d : BitVec 1024) : State :=
    pushRecord (addOp s { newOp s t q c .sync d with status := stFlushed, ended := true, recorded := true })
      (if qKind (qCfg s q) = 3 && !isSyncOp (dOpcode d.toNat) then qf d.toNat 1 29 24 else dCq d.toNat) (flushedWord t d.toNat) (some t)

/-- The free tags in ascending order. -/
def freeTags (s : State) : List Nat := (List.range 512).filter (tagFree s)

/-- Return the queued descriptors of every queue a context holds, and make the queues IDLE (R318). -/
def returnQueues (s : State) (c : Nat) : State :=
  (bitsOf (ctxQueues (ctxRec s c)) 64).foldl (fun t q => setQState (flushSlots t c q 4096 (freeTags t)) q 0) s

end Sys2Proof.Machine
end

