-- ==== Sys2Proof/Machine/DictTable.lean ====
section
/-! DEFINITION. The entry tables of the object dictionary (R341 to R343): which addresses exist, their types, access
kinds and ranges; privilege levels (R345, R346, Table 16.3); what answers before READY (R416, Table 19.4); and the order
of the checks of a request (R351, Table 16.5). -/

namespace Sys2Proof.Machine

/-- Access kinds (Table 16.2). -/
inductive DictAccess where
  | const
  | ro
  | rw
  | wo
  | rwq
deriving DecidableEq, Repr

/-- Types (Table 16.1) with the range the entry's table gives. -/
inductive DictType where
  | uint (bytes lo hi : Nat)   -- U8 to U64, I32, F32, BOOL
  | set (vals : List Nat)      -- ENUM8
  | bits (mask : Nat)          -- BITS32
  | octets (n : Nat)
  | domain (n : Nat)
deriving DecidableEq, Repr

/-- One line of an entry table: `count` indices from `base`, `subs` subindices from `sub`. -/
structure DictRow where
  base  : Nat
  count : Nat
  sub   : Nat
  subs  : Nat
  acc   : DictAccess
  ty    : DictType
deriving DecidableEq, Repr

/-- Entries 1000h to 1100h. -/
def dictRows1a : List DictRow :=
  [⟨0x1000, 1, 0x01, 1, .const, (.uint 4 0 4294967295)⟩,
   ⟨0x1000, 1, 0x02, 1, .const, (.octets 16)⟩,
   ⟨0x1000, 1, 0x03, 1, .const, (.uint 8 0 18446744073709551615)⟩,
   ⟨0x1000, 1, 0x04, 1, .ro, (.uint 4 0 4294967295)⟩,
   ⟨0x1000, 1, 0x06, 1, .const, (.octets 6)⟩,
   ⟨0x1000, 1, 0x07, 1, .ro, (.uint 1 0 255)⟩,
   ⟨0x1010, 1, 0x01, 1, .rw, (.uint 2 1 65535)⟩,
   ⟨0x1010, 1, 0x02, 1, .rw, (.uint 1 0 1)⟩,
   ⟨0x1010, 1, 0x03, 1, .rw, (.octets 18)⟩,
   ⟨0x1010, 1, 0x04, 1, .rw, (.bits 63)⟩,
   ⟨0x1010, 1, 0x05, 1, .ro, (.uint 8 0 18446744073709551615)⟩,
   ⟨0x1010, 1, 0x06, 1, .ro, (.uint 8 0 18446744073709551615)⟩,
   ⟨0x1100, 256, 0x01, 1, .rw, (.octets 32)⟩]

/-- Entries 2001h to 2180h. -/
def dictRows2a : List DictRow :=
  [⟨0x2001, 1, 0x01, 1, .ro, (.set [])⟩,
   ⟨0x2001, 1, 0x02, 1, .ro, (.bits 0)⟩,
   ⟨0x2001, 1, 0x03, 1, .ro, (.set [])⟩,
   ⟨0x2001, 1, 0x04, 1, .ro, (.uint 8 0 18446744073709551615)⟩,
   ⟨0x2001, 1, 0x05, 1, .ro, (.uint 1 0 255)⟩,
   ⟨0x2001, 1, 0x06, 1, .ro, (.uint 1 0 255)⟩,
   ⟨0x2004, 1, 0x01, 1, .ro, (.uint 8 0 18446744073709551615)⟩,
   ⟨0x2004, 1, 0x02, 1, .const, (.uint 4 0 4294967295)⟩,
   ⟨0x2010, 1, 0x01, 1, .ro, (.set [])⟩,
   ⟨0x2010, 1, 0x02, 4, .ro, (.set [])⟩,
   ⟨0x2011, 1, 0x01, 1, .wo, (.set [1, 2])⟩,
   ⟨0x2020, 1, 0x01, 1, .rw, (.uint 4 1024 4294967295)⟩,
   ⟨0x2020, 1, 0x02, 1, .ro, (.uint 2 0 65535)⟩,
   ⟨0x2020, 1, 0x03, 1, .ro, (.uint 8 0 18446744073709551615)⟩,
   ⟨0x2020, 1, 0x04, 1, .ro, (.uint 8 0 18446744073709551615)⟩,
   ⟨0x2020, 1, 0x05, 1, .ro, (.uint 8 0 18446744073709551615)⟩,
   ⟨0x2030, 1, 0x01, 8, .ro, (.uint 1 0 255)⟩,
   ⟨0x2030, 1, 0x09, 32, .ro, (.uint 1 0 255)⟩,
   ⟨0x2030, 1, 0x29, 2, .ro, (.uint 1 0 255)⟩,
   ⟨0x2030, 1, 0x2B, 20, .ro, (.uint 1 0 255)⟩,
   ⟨0x2040, 1, 0x01, 8, .rw, (.set [0, 1, 2, 3])⟩,
   ⟨0x2100, 64, 0x01, 1, .rw, (.octets 16)⟩,
   ⟨0x2100, 64, 0x02, 1, .ro, (.set [])⟩,
   ⟨0x2100, 64, 0x03, 1, .wo, (.uint 1 1 2)⟩,
   ⟨0x2100, 64, 0x04, 1, .ro, (.set [])⟩,
   ⟨0x2140, 64, 0x01, 1, .rw, (.octets 16)⟩,
   ⟨0x2180, 32, 0x01, 1, .rw, (.uint 4 0 1048575)⟩]

/-- Entries 2200h to 2500h. -/
def dictRows22a : List DictRow :=
  [⟨0x2200, 4, 0x01, 1, .rwq, (.set [0, 1, 2])⟩,
   ⟨0x2200, 4, 0x02, 1, .rw, (.uint 1 0 1)⟩,
   ⟨0x2200, 4, 0x03, 1, .ro, (.uint 1 0 1)⟩,
   ⟨0x2200, 4, 0x04, 1, .const, (.uint 4 0 4294967295)⟩,
   ⟨0x2200, 4, 0x05, 1, .ro, (.uint 4 0 4294967295)⟩,
   ⟨0x2200, 4, 0x06, 1, .ro, (.uint 4 0 4294967295)⟩,
   ⟨0x2200, 4, 0x07, 1, .ro, (.uint 8 0 18446744073709551615)⟩,
   ⟨0x2200, 4, 0x08, 1, .ro, (.bits 0)⟩,
   ⟨0x2200, 4, 0x09, 1, .ro, (.bits 0)⟩,
   ⟨0x2200, 4, 0x0A, 1, .ro, (.bits 0)⟩,
   ⟨0x2200, 4, 0x0B, 1, .ro, (.uint 1 0 255)⟩,
   ⟨0x2200, 4, 0x0C, 1, .wo, (.uint 1 0 1)⟩,
   ⟨0x2210, 4, 0x01, 32, .ro, (.uint 4 0 4294967295)⟩,
   ⟨0x2300, 4, 0x01, 1, .ro, (.uint 4 0 4294967295)⟩,
   ⟨0x2300, 4, 0x02, 1, .ro, (.uint 4 0 4294967295)⟩,
   ⟨0x2300, 4, 0x03, 1, .rw, (.uint 1 0 48)⟩,
   ⟨0x2300, 4, 0x04, 1, .rw, (.uint 1 0 48)⟩,
   ⟨0x2300, 4, 0x05, 1, .ro, (.uint 8 0 18446744073709551615)⟩,
   ⟨0x2300, 4, 0x06, 1, .ro, (.uint 8 0 18446744073709551615)⟩,
   ⟨0x2300, 4, 0x07, 1, .ro, (.uint 8 0 18446744073709551615)⟩,
   ⟨0x2300, 4, 0x08, 1, .ro, (.uint 8 0 18446744073709551615)⟩,
   ⟨0x2300, 4, 0x09, 1, .ro, (.uint 8 0 18446744073709551615)⟩,
   ⟨0x2300, 4, 0x0A, 1, .ro, (.uint 8 0 18446744073709551615)⟩,
   ⟨0x2300, 4, 0x0B, 1, .ro, (.uint 4 0 4294967295)⟩,
   ⟨0x2300, 4, 0x0C, 1, .ro, (.uint 8 0 18446744073709551615)⟩,
   ⟨0x2500, 1, 0x01, 1, .rw, (.uint 4 1000 4294967295)⟩,
   ⟨0x2500, 1, 0x02, 1, .ro, (.uint 8 0 18446744073709551615)⟩,
   ⟨0x2500, 1, 0x03, 1, .ro, (.uint 8 0 18446744073709551615)⟩,
   ⟨0x2500, 1, 0x04, 1, .ro, (.uint 8 0 18446744073709551615)⟩,
   ⟨0x2500, 1, 0x05, 1, .ro, (.uint 2 0 65535)⟩]

/-- Entries 2500h to 2710h. -/
def dictRows22b : List DictRow :=
  [⟨0x2500, 1, 0x06, 1, .ro, (.uint 8 0 18446744073709551615)⟩,
   ⟨0x2700, 1, 0x01, 4, .rw, (.uint 4 100 4294967295)⟩,
   ⟨0x2700, 1, 0x05, 1, .ro, (.uint 8 0 18446744073709551615)⟩,
   ⟨0x2710, 4, 0x01, 7, .rw, (.uint 2 1 1023)⟩]

/-- Entries 3000h to 3050h. -/
def dictRows3a : List DictRow :=
  [⟨0x3000, 1, 0x01, 1, .rw, (.uint 2 500 3200)⟩,
   ⟨0x3000, 1, 0x02, 1, .rw, (.uint 2 500 3600)⟩,
   ⟨0x3000, 1, 0x03, 1, .rw, (.uint 2 0 500)⟩,
   ⟨0x3000, 1, 0x04, 1, .ro, (.uint 4 0 4294967295)⟩,
   ⟨0x3000, 1, 0x05, 1, .ro, (.uint 4 0 4294967295)⟩,
   ⟨0x3000, 1, 0x06, 1, .ro, (.uint 4 0 4294967295)⟩,
   ⟨0x3000, 1, 0x07, 1, .ro, (.uint 1 0 1)⟩,
   ⟨0x3000, 1, 0x08, 1, .ro, (.uint 8 0 18446744073709551615)⟩,
   ⟨0x3000, 1, 0x09, 1, .ro, (.uint 8 0 18446744073709551615)⟩,
   ⟨0x3010, 8, 0x01, 1, .ro, (.uint 1 0 255)⟩,
   ⟨0x3010, 8, 0x02, 1, .const, (.uint 1 0 255)⟩,
   ⟨0x3010, 8, 0x03, 1, .ro, (.uint 8 0 18446744073709551615)⟩,
   ⟨0x3010, 8, 0x04, 1, .ro, (.uint 8 0 18446744073709551615)⟩,
   ⟨0x3010, 8, 0x05, 1, .ro, (.uint 4 0 4294967295)⟩,
   ⟨0x3010, 8, 0x06, 1, .ro, (.uint 4 0 4294967295)⟩,
   ⟨0x3018, 1, 0x01, 1, .rw, (.uint 2 1 65535)⟩,
   ⟨0x3018, 1, 0x02, 1, .rw, (.uint 2 1 65535)⟩,
   ⟨0x3018, 1, 0x03, 1, .rw, (.uint 2 0 65535)⟩,
   ⟨0x3020, 1, 0x01, 1, .rw, (.uint 4 0 65535)⟩,
   ⟨0x3020, 1, 0x02, 1, .rw, (.uint 1 1 64)⟩,
   ⟨0x3020, 1, 0x03, 1, .rw, (.uint 4 0 1000000)⟩,
   ⟨0x3020, 1, 0x04, 1, .rw, (.uint 1 0 1)⟩,
   ⟨0x3020, 1, 0x05, 1, .ro, (.uint 2 0 65535)⟩,
   ⟨0x3030, 1, 0x01, 1, .ro, (.uint 8 0 18446744073709551615)⟩,
   ⟨0x3030, 1, 0x02, 1, .ro, (.uint 8 0 18446744073709551615)⟩,
   ⟨0x3040, 1, 0x01, 1, .ro, (.set [])⟩,
   ⟨0x3040, 1, 0x02, 1, .wo, (.uint 1 0 1)⟩,
   ⟨0x3040, 1, 0x03, 1, .ro, (.uint 8 0 18446744073709551615)⟩,
   ⟨0x3040, 1, 0x04, 1, .ro, (.set [])⟩,
   ⟨0x3050, 1, 0x01, 1, .ro, (.uint 4 0 4294967295)⟩]

/-- Entries 3050h to 3300h. -/
def dictRows3b : List DictRow :=
  [⟨0x3050, 1, 0x02, 1, .ro, (.uint 4 0 4294967295)⟩,
   ⟨0x3050, 1, 0x03, 1, .ro, (.uint 1 0 255)⟩,
   ⟨0x3050, 1, 0x04, 1, .ro, (.uint 8 0 18446744073709551615)⟩,
   ⟨0x3060, 10, 0x01, 1, .rw, (.uint 1 0 127)⟩,
   ⟨0x3060, 10, 0x02, 1, .ro, (.uint 4 0 4294967295)⟩,
   ⟨0x3060, 10, 0x03, 1, .ro, (.uint 4 0 4294967295)⟩,
   ⟨0x3060, 10, 0x04, 1, .ro, (.uint 4 0 4294967295)⟩,
   ⟨0x3060, 10, 0x05, 1, .ro, (.uint 4 0 4294967295)⟩,
   ⟨0x3070, 1, 0x01, 1, .rw, (.set [0, 1])⟩,
   ⟨0x3070, 1, 0x02, 1, .rw, (.uint 1 0 20)⟩,
   ⟨0x3080, 1, 0x01, 1, .rw, (.uint 1 0 32)⟩,
   ⟨0x3081, 1, 0x01, 1, .rw, (.domain 131072)⟩,
   ⟨0x3082, 1, 0x01, 1, .rw, (.octets 64)⟩,
   ⟨0x3082, 1, 0x02, 1, .ro, (.octets 64)⟩,
   ⟨0x3082, 1, 0x03, 1, .ro, (.uint 1 0 1)⟩,
   ⟨0x3100, 64, 0x01, 1, .ro, (.uint 8 0 18446744073709551615)⟩,
   ⟨0x3200, 1, 0x01, 1, .ro, (.domain 4096)⟩,
   ⟨0x3200, 1, 0x02, 10, .ro, (.uint 4 0 4294967295)⟩,
   ⟨0x3300, 1, 0x01, 1, .ro, (.set [])⟩,
   ⟨0x3300, 1, 0x02, 1, .wo, (.set [0, 2, 3])⟩]

/-- Entries 4000h to 4100h. -/
def dictRows4a : List DictRow :=
  [⟨0x4000, 1, 0x01, 1, .ro, (.uint 1 0 255)⟩,
   ⟨0x4000, 1, 0x03, 1, .rw, (.uint 1 0 8)⟩,
   ⟨0x4000, 1, 0x04, 1, .ro, (.uint 8 0 18446744073709551615)⟩,
   ⟨0x4000, 1, 0x05, 1, .ro, (.uint 8 0 18446744073709551615)⟩,
   ⟨0x4000, 1, 0x06, 1, .ro, (.uint 8 0 18446744073709551615)⟩,
   ⟨0x4002, 1, 0x01, 1, .wo, (.uint 1 0 1)⟩,
   ⟨0x4002, 1, 0x02, 1, .ro, (.set [])⟩,
   ⟨0x4010, 1, 0x01, 1, .wo, (.uint 4 0 4294967295)⟩,
   ⟨0x4100, 64, 0x01, 1, .rw, (.octets 128)⟩,
   ⟨0x4100, 64, 0x02, 1, .ro, (.set [])⟩,
   ⟨0x4100, 64, 0x03, 1, .ro, (.set [])⟩,
   ⟨0x4100, 64, 0x04, 1, .ro, (.uint 8 0 18446744073709551615)⟩,
   ⟨0x4100, 64, 0x05, 1, .ro, (.uint 1 0 1)⟩]

/-- Entries 5000h to 5300h. -/
def dictRows5a : List DictRow :=
  [⟨0x5000, 1, 0x01, 1, .rw, (.set [0, 1])⟩,
   ⟨0x5000, 1, 0x03, 1, .ro, (.uint 8 0 18446744073709551615)⟩,
   ⟨0x5000, 1, 0x04, 1, .ro, (.uint 8 0 18446744073709551615)⟩,
   ⟨0x5000, 1, 0x05, 1, .ro, (.uint 8 0 18446744073709551615)⟩,
   ⟨0x5000, 1, 0x06, 1, .ro, (.uint 8 0 18446744073709551615)⟩,
   ⟨0x5000, 1, 0x07, 1, .ro, (.uint 8 0 18446744073709551615)⟩,
   ⟨0x5000, 1, 0x08, 1, .ro, (.uint 8 0 18446744073709551615)⟩,
   ⟨0x5000, 1, 0x09, 1, .ro, (.uint 8 0 18446744073709551615)⟩,
   ⟨0x5000, 1, 0x0A, 1, .wo, (.uint 1 0 1)⟩,
   ⟨0x5000, 1, 0x0B, 1, .wo, (.octets 16)⟩,
   ⟨0x5020, 20, 0x01, 1, .ro, (.uint 4 0 4294967295)⟩,
   ⟨0x5020, 20, 0x02, 1, .ro, (.uint 4 0 4294967295)⟩,
   ⟨0x5020, 20, 0x03, 1, .ro, (.uint 2 0 65535)⟩,
   ⟨0x5020, 20, 0x04, 1, .ro, (.uint 2 0 65535)⟩,
   ⟨0x5020, 20, 0x05, 1, .ro, (.uint 1 0 1)⟩,
   ⟨0x5100, 80, 0x01, 1, .rw, (.octets 16)⟩,
   ⟨0x5100, 80, 0x02, 1, .ro, (.octets 16)⟩,
   ⟨0x5100, 80, 0x03, 1, .ro, (.uint 1 0 1)⟩,
   ⟨0x5200, 20, 0x01, 1, .rw, (.uint 1 0 1)⟩,
   ⟨0x5200, 20, 0x02, 1, .rw, (.set [0, 1, 2, 3])⟩,
   ⟨0x5200, 20, 0x03, 1, .rw, (.uint 8 0 18446744073709551615)⟩,
   ⟨0x5200, 20, 0x04, 1, .rw, (.uint 4 0 4294967295)⟩,
   ⟨0x5200, 20, 0x05, 1, .rw, (.uint 1 0 16)⟩,
   ⟨0x5200, 20, 0x06, 1, .rw, (.uint 4 0 4294967295)⟩,
   ⟨0x5200, 20, 0x07, 1, .ro, (.uint 8 0 18446744073709551615)⟩,
   ⟨0x5200, 20, 0x08, 1, .ro, (.uint 8 0 18446744073709551615)⟩,
   ⟨0x5300, 80, 0x01, 1, .wo, (.bits 15)⟩,
   ⟨0x5300, 80, 0x02, 1, .ro, (.set [])⟩,
   ⟨0x5300, 80, 0x03, 16, .ro, (.uint 4 0 4294967295)⟩]

/-- Entries 6120h to 6400h. -/
def dictRows6a : List DictRow :=
  [⟨0x6120, 1, 0x01, 1, .rw, (.bits 3)⟩,
   ⟨0x6120, 1, 0x02, 1, .rw, (.uint 1 0 16)⟩,
   ⟨0x6120, 1, 0x03, 1, .rw, (.uint 1 0 8)⟩,
   ⟨0x6120, 1, 0x04, 1, .rw, (.uint 8 0 18446744073709551615)⟩,
   ⟨0x6124, 1, 0x01, 4, .ro, (.uint 8 0 18446744073709551615)⟩,
   ⟨0x6125, 1, 0x01, 4, .ro, (.uint 8 0 18446744073709551615)⟩,
   ⟨0x6126, 1, 0x01, 4, .ro, (.uint 8 0 18446744073709551615)⟩,
   ⟨0x6127, 1, 0x01, 4, .ro, (.uint 8 0 18446744073709551615)⟩,
   ⟨0x6128, 1, 0x01, 1, .ro, (.octets 16)⟩,
   ⟨0x6140, 64, 0x01, 32, .ro, (.uint 4 0 4294967295)⟩,
   ⟨0x6140, 64, 0x21, 1, .rw, (.uint 1 1 31)⟩,
   ⟨0x6140, 64, 0x22, 1, .rw, (.uint 1 1 64)⟩,
   ⟨0x6140, 64, 0x23, 1, .ro, (.uint 4 0 4294967295)⟩,
   ⟨0x6140, 64, 0x24, 1, .ro, (.uint 4 0 4294967295)⟩,
   ⟨0x6400, 1, 0x01, 1, .ro, (.uint 8 0 18446744073709551615)⟩,
   ⟨0x6400, 1, 0x02, 1, .ro, (.uint 8 0 18446744073709551615)⟩,
   ⟨0x6400, 1, 0x03, 1, .ro, (.uint 8 0 18446744073709551615)⟩,
   ⟨0x6400, 1, 0x04, 1, .ro, (.uint 8 0 18446744073709551615)⟩,
   ⟨0x6400, 1, 0x05, 1, .ro, (.uint 4 0 4294967295)⟩]

/-- Entries 7000h to 7080h. -/
def dictRows7a : List DictRow :=
  [⟨0x7000, 1, 0x01, 1, .rwq, (.uint 2 0 65535)⟩,
   ⟨0x7000, 1, 0x02, 1, .rw, (.uint 1 0 1)⟩,
   ⟨0x7000, 1, 0x03, 1, .rw, (.uint 4 1000 4294967295)⟩,
   ⟨0x7000, 1, 0x04, 1, .rw, (.uint 1 0 1)⟩,
   ⟨0x7000, 1, 0x05, 1, .ro, (.uint 8 0 18446744073709551615)⟩,
   ⟨0x7000, 1, 0x06, 1, .ro, (.uint 8 0 18446744073709551615)⟩,
   ⟨0x7000, 1, 0x07, 1, .ro, (.octets 16)⟩,
   ⟨0x7000, 1, 0x08, 1, .ro, (.uint 8 0 18446744073709551615)⟩,
   ⟨0x7000, 1, 0x09, 1, .ro, (.uint 8 0 18446744073709551615)⟩,
   ⟨0x7000, 1, 0x0A, 1, .ro, (.uint 8 0 18446744073709551615)⟩,
   ⟨0x7010, 1, 0x01, 1, .rw, (.domain 524288)⟩,
   ⟨0x7020, 24, 0x01, 1, .ro, (.set [])⟩,
   ⟨0x7020, 24, 0x02, 1, .rw, (.uint 1 0 1)⟩,
   ⟨0x7020, 24, 0x03, 1, .ro, (.uint 2 0 65535)⟩,
   ⟨0x7020, 24, 0x04, 1, .ro, (.uint 1 0 255)⟩,
   ⟨0x7020, 24, 0x05, 1, .ro, (.bits 0)⟩,
   ⟨0x7020, 24, 0x06, 1, .ro, (.uint 8 0 18446744073709551615)⟩,
   ⟨0x7020, 24, 0x07, 1, .ro, (.uint 8 0 18446744073709551615)⟩,
   ⟨0x7020, 24, 0x08, 1, .ro, (.uint 8 0 18446744073709551615)⟩,
   ⟨0x7020, 24, 0x09, 1, .ro, (.uint 4 0 4294967295)⟩,
   ⟨0x7020, 24, 0x0A, 1, .ro, (.uint 4 0 4294967295)⟩,
   ⟨0x7020, 24, 0x0B, 1, .ro, (.uint 8 0 18446744073709551615)⟩,
   ⟨0x7020, 24, 0x0C, 1, .ro, (.uint 8 0 18446744073709551615)⟩,
   ⟨0x7080, 1, 0x01, 1, .rw, (.uint 4 1000 4294967295)⟩,
   ⟨0x7080, 1, 0x02, 1, .rw, (.uint 2 1 65535)⟩,
   ⟨0x7080, 1, 0x03, 1, .ro, (.uint 8 0 18446744073709551615)⟩,
   ⟨0x7080, 1, 0x04, 1, .ro, (.uint 8 0 18446744073709551615)⟩,
   ⟨0x7080, 1, 0x05, 1, .ro, (.uint 8 0 18446744073709551615)⟩,
   ⟨0x7080, 1, 0x06, 1, .ro, (.uint 8 0 18446744073709551615)⟩,
   ⟨0x7080, 1, 0x07, 1, .ro, (.uint 8 0 18446744073709551615)⟩]

/-- Entries 7080h to 7200h. -/
def dictRows7b : List DictRow :=
  [⟨0x7080, 1, 0x08, 1, .ro, (.uint 8 0 18446744073709551615)⟩,
   ⟨0x7080, 1, 0x09, 1, .ro, (.uint 8 0 18446744073709551615)⟩,
   ⟨0x7100, 256, 0x01, 1, .rw, (.octets 64)⟩,
   ⟨0x7100, 256, 0x02, 1, .rw, (.set [0, 1])⟩,
   ⟨0x7100, 256, 0x03, 1, .ro, (.uint 8 0 18446744073709551615)⟩,
   ⟨0x7200, 1, 0x01, 1, .ro, (.domain 262144)⟩,
   ⟨0x7200, 1, 0x02, 1, .ro, (.uint 2 0 65535)⟩]

/-- Entries 8000h to 8200h. -/
def dictRows8a : List DictRow :=
  [⟨0x8000, 1, 0x01, 1, .rw, (.uint 1 0 5)⟩,
   ⟨0x8000, 1, 0x02, 1, .wo, (.uint 1 0 1)⟩,
   ⟨0x8000, 1, 0x03, 1, .rw, (.uint 1 0 5)⟩,
   ⟨0x8000, 1, 0x04, 1, .rw, (.uint 4 1 4294967295)⟩,
   ⟨0x8000, 1, 0x05, 1, .rw, (.uint 1 1 255)⟩,
   ⟨0x8000, 1, 0x06, 1, .rw, (.uint 4 0 4294967295)⟩,
   ⟨0x8000, 1, 0x07, 1, .rw, (.uint 4 0 4294967295)⟩,
   ⟨0x8000, 1, 0x08, 1, .ro, (.uint 8 0 18446744073709551615)⟩,
   ⟨0x8000, 1, 0x09, 1, .ro, (.uint 8 0 18446744073709551615)⟩,
   ⟨0x8000, 1, 0x0A, 1, .rw, (.octets 8)⟩,
   ⟨0x8000, 1, 0x0B, 1, .rw, (.uint 1 0 4)⟩,
   ⟨0x8100, 1, 0x01, 1, .ro, (.domain 8192)⟩,
   ⟨0x8100, 1, 0x02, 1, .ro, (.uint 8 0 18446744073709551615)⟩,
   ⟨0x8100, 1, 0x03, 1, .ro, (.uint 8 0 18446744073709551615)⟩,
   ⟨0x8101, 1, 0x01, 1, .ro, (.octets 16)⟩,
   ⟨0x8200, 1, 0x01, 1, .rw, (.domain 16384)⟩,
   ⟨0x8200, 1, 0x02, 1, .ro, (.uint 2 0 65535)⟩]

/-- Entries 9000h to 9040h. -/
def dictRows9a : List DictRow :=
  [⟨0x9000, 1, 0x01, 1, .ro, (.set [])⟩,
   ⟨0x9000, 1, 0x02, 1, .ro, (.domain 1952)⟩,
   ⟨0x9000, 1, 0x03, 1, .ro, (.domain 8192)⟩,
   ⟨0x9001, 1, 0x01, 3, .ro, (.uint 1 0 255)⟩,
   ⟨0x9002, 1, 0x01, 3, .ro, (.octets 32)⟩,
   ⟨0x9002, 1, 0x04, 1, .ro, (.bits 0)⟩,
   ⟨0x9003, 1, 0x01, 2, .const, (.octets 32)⟩,
   ⟨0x9010, 1, 0x01, 1, .wo, (.domain 65536)⟩,
   ⟨0x9010, 1, 0x02, 1, .ro, (.uint 8 0 18446744073709551615)⟩,
   ⟨0x9010, 1, 0x03, 1, .ro, (.set [])⟩,
   ⟨0x9010, 1, 0x04, 1, .ro, (.uint 1 0 255)⟩,
   ⟨0x9020, 1, 0x01, 1, .ro, (.domain 4096)⟩,
   ⟨0x9030, 1, 0x01, 1, .ro, (.octets 32)⟩,
   ⟨0x9030, 1, 0x02, 1, .ro, (.set [])⟩,
   ⟨0x9040, 1, 0x01, 1, .ro, (.set [])⟩]

/-- Every entry of the manual. -/
def dictRows : List DictRow :=
  dictRows1a ++ dictRows2a ++ dictRows22a ++ dictRows22b ++ dictRows3a ++ dictRows3b ++ dictRows4a ++ dictRows5a ++ dictRows6a ++ dictRows7a ++ dictRows7b ++ dictRows8a ++ dictRows9a

/-- The entry at an address other than subindex 00h. -/
def entryOf (i sub : Nat) : Option DictRow :=
  dictRows.find? (fun r => inIdx i r.base r.count && inIdx sub r.sub r.subs)

/-- Does an index exist, and its highest subindex (R341). -/
def indexExists (i : Nat) : Bool := dictRows.any (fun r => inIdx i r.base r.count)
def highestSub (i : Nat) : Nat := (dictRows.filter (fun r => inIdx i r.base r.count)).foldl (fun m r => max m (r.sub + r.subs - 1)) 0

def DictType.size : DictType → Nat
  | .uint n _ _ => n
  | .set _ => 1
  | .bits _ => 4
  | .octets n => n
  | .domain n => n

def DictType.isDomain : DictType → Bool
  | .domain _ => true
  | _ => false

/-- Is a value in the range or set of the entry's table (R342). -/
def DictType.inRange : DictType → Nat → Bool
  | .uint _ lo hi, v => decide (lo ≤ v) && decide (v ≤ hi)
  | .set l, v => l.contains v
  | .bits m, v => v &&& m == v
  | .octets _, _ => true
  | .domain _, _ => true

/-- The row an access meets: subindex 00h of an index that exists is a U8 CONST (R341). -/
def lookupEntry (i sub : Nat) : Option DictRow :=
  if sub = 0 then (if indexExists i then some ⟨i, 1, 0, 1, .const, .uint 1 0 255⟩ else none) else entryOf i sub

/-- The level of a path (R345). -/
def levelOf : Path → Nat
  | .sec => 0
  | .signed => 0
  | .tap => 0
  | .cc _ => 1
  | .slotA => 1
  | .slotB => 2
  | .field => 3

/-- The claimant code of a path (Table 16.8). -/
def claimantOf : Path → Nat
  | .cc n => 0x10 + n.val
  | .sec => 0x14
  | .signed => 0x14
  | .tap => 0x14
  | .slotA => 0x15
  | .slotB => 0x15
  | .field => 0x16

def fieldWrites (s : State) : Bool := reg s 0x1010 2 == 1

/-- The level Table 16.3 and the stricter rules give a read. -/
def readLevel (s : State) (i sub : Nat) : Option Nat :=
  if inIdx i 0x1100 256 then some 2
  else if inIdx i 0x4100 64 && sub == 1 then some 2
  else if 0xA000 ≤ i then (if reg s 0x9030 2 = 2 then some 0 else none)
  else some 3

/-- The level of a write. -/
def writeLevel (s : State) (i sub : Nat) : Option Nat :=
  if inIdx i 0x1000 256 then some 1
  else if inIdx i 0x1100 256 then some 0
  else if (i == 0x4002 && sub == 1) || (inIdx i 0x2200 4 && sub == 0x0C) || (i == 0x5000 && sub == 0x0A) then some 0
  else if (i == 0x3040 && sub == 2) || i == 0x7010 || (i == 0x8200 && sub == 1) then some 1
  else if 0x3000 ≤ i && i < 0x4000 then some (if fieldWrites s then 3 else 1)
  else if i < 0x8000 then some 2
  else if i < 0x9000 then some (if fieldWrites s then 3 else 1)
  else if i < 0xA000 then (if i == 0x9010 && sub == 1 then some 3 else some 0)
  else if reg s 0x9030 2 = 2 then some 0 else none

/-- Is an access permitted (R346). -/
def permitted (s : State) (p : Path) (i sub : Nat) (wr : Bool) : Bool :=
  match (if wr then writeLevel s i sub else readLevel s i sub) with
  | none => false
  | some k => decide (levelOf p ≤ k) && (p != .tap || decide (0xA000 ≤ i))

/-- START_STEPS bit b. -/
def stepDone (s : State) (b : Nat) : Bool := (reg s 0x2001 2).testBit b

/-- Does the range of an index answer yet (R416, Table 19.4). -/
def broughtUp (s : State) (i : Nat) (wr : Bool) : Bool :=
  stepDone s 11
    || (!wr && (inIdx i 0x1000 256 || i == 0x2001 || inIdx i 0x8000 0x200 || inIdx i 0x9000 0x100))
    || (stepDone s 2 && (inIdx i 0x1000 0x1000 || inIdx i 0x2000 0x200 || inIdx i 0x2500 0x300 || inIdx i 0x3000 0x1000
          || inIdx i 0x7000 0x40 || inIdx i 0x8000 0x1000 || inIdx i 0x9000 0x1000))
    || (stepDone s 4 && inIdx i 0x4000 0x1000)
    || (stepDone s 5 && (inIdx i 0x2200 0x200 || inIdx i 0x6000 0x1000))
    || (inIdx i 0x5020 20 && reg s i 5 == 1) || (inIdx i 0x5200 20 && reg s (i - 0x5200 + 0x5020) 5 == 1)
    || (stepDone s 8 && inIdx i 0x5000 0x1000)

/-! Status codes (Table 16.5). -/
abbrev dOk : Nat := 0
abbrev dNoEntry : Nat := 1
abbrev dAccess : Nat := 2
abbrev dPrivilege : Nat := 3
abbrev dLength : Nat := 4
abbrev dRange : Nat := 5
abbrev dQuiesce : Nat := 6
abbrev dConflict : Nat := 7
abbrev dBusy : Nat := 8
abbrev dCrc : Nat := 9
abbrev dProtocol : Nat := 10
abbrev dNotReady : Nat := 11

def DictAccess.readable : DictAccess → Bool
  | .wo => false
  | .const | .ro | .rw | .rwq => true

def DictAccess.writable : DictAccess → Bool
  | .const | .ro => false
  | .rw | .wo | .rwq => true

/-- The checks of Table 16.5 from NO_ENTRY to NOT_READY for a whole-value access of `len` bytes (a read: len is not
checked) or a block of `len` bytes at `off`; 0 when all pass. -/
def checkAccess (s : State) (p : Path) (i sub : Nat) (wr block : Bool) (off len : Nat) : Nat :=
  match lookupEntry i sub with
  | none => dNoEntry
  | some r =>
    if !permitted s p i sub wr then dPrivilege
    else if !(if wr then r.acc.writable else r.acc.readable) then dAccess
    else if block != r.ty.isDomain then dLength
    else if block && (off % 8 != 0 || len % 8 != 0 || decide (r.ty.size < off + len)) then dLength
    else if wr && !block && len != r.ty.size then dLength
    else if !broughtUp s i wr then dNotReady
    else dOk

/-- The range check, last in order (Table 16.5). -/
def rangeOk (i sub v : Nat) : Bool :=
  match lookupEntry i sub with
  | none => false
  | some r => r.ty.inRange v

/-- The dictionary answers: clocked, and its server runs (R15, R416). -/
def dictLive (s : State) : Bool := clockOn s && s.aon.dictUp

/-- A write of the whole value `v` (`len` bytes): the checks of R351 in order, `pre` giving BUSY, QUIESCE and CONFLICT,
then the effect. A failed request changes no entry. -/
def tryWrite (s : State) (p : Path) (i sub len v : Nat) (pre : State → Nat) (eff : State → State) : Nat × State :=
  if checkAccess s p i sub true false 0 len ≠ 0 then (checkAccess s p i sub true false 0 len, s)
  else if pre s ≠ 0 then (pre s, s)
  else if !rangeOk i sub v then (dRange, s)
  else (dOk, eff s)

/-- Answer a direct access (R344). -/
def answerTo (p : Path) (r : Nat × State) : State := emit r.2 (.dictAnswer p r.1 [])

/-- A whole dictionary write by path `p`: nothing happens while the dictionary does not answer. -/
def guarded (s : State) (p : Path) (i sub len v : Nat) (pre : State → Nat) (eff : State → State) : Out :=
  .next (if dictLive s then answerTo p (tryWrite s p i sub len v pre eff) else s)

/-- No further condition. -/
def freely (_ : State) : Nat := 0

end Sys2Proof.Machine
end

