-- ==== Sys2Proof/Machine/Repairs.lean ====
section
/-! DEFINITION. Repair and retirement shared by start-up, self-tests and list writes: repair records (R86, R91), the
retired list (R394), and soft repairs of HBM rows (R225). -/

namespace Sys2Proof.Machine

/-! Repair records (Table 4.5). -/

def repairWord (soft col : Bool) (ln cross : Nat) : Nat :=
  2 ^ 31 + b2n soft * 2 ^ 30 + b2n col * 2 ^ 29 + ln * 2 ^ 20 + cross * 2 ^ 11

def recSoft (w : Nat) : Bool := w.testBit 30
def recCol (w : Nat) : Bool := w.testBit 29
def recLine (w : Nat) : Nat := fld w 28 20

/-- Valid records of array a in subindex order. -/
def recordsOf (s : State) (a : Nat) : List Nat :=
  ((List.range 32).map (fun i => reg s (0x2210 + a) (i + 1))).filter (fun w => w.testBit 31)

/-- Store the record list packed from subindex 01 (R91), and the spares it uses. -/
def setRecords (s : State) (a : Nat) (l : List Nat) : State :=
  let s1 := (List.range 32).foldl (fun t i => setReg t (0x2210 + a) (i + 1) (l.getD i 0)) s
  let used (c : Bool) : Nat := (l.filter (fun w => recCol w == c)).foldl (fun m w => setBit m (recLine w / 32) true) 0
  setReg (setReg s1 (0x2200 + a) 8 (used false)) (0x2200 + a) 9 (used true)

def rowReplaced (s : State) (a row : Nat) : Bool := (recordsOf s a).any (fun w => !recCol w && recLine w == row)
def colReplaced (s : State) (a col : Nat) : Bool := (recordsOf s a).any (fun w => recCol w && recLine w == col)

/-- A spare line is free when no record uses it and it has not failed (R86). -/
def spareRowFree (s : State) (a g : Nat) : Bool := !(reg s (0x2200 + a) 8).testBit g && !(arrayOf s a).badRows.testBit g
def spareColFree (s : State) (a g : Nat) : Bool := !(reg s (0x2200 + a) 9).testBit g && !(arrayOf s a).badCols.testBit g

/-! The retired list (Table 18.7). -/

/-- Index of the lowest-numbered empty entry. -/
def emptyRetired (s : State) : Option Nat := (List.range 1024).find? (fun i => domByte s 0x8200 1 (16 * i) == 0)

/-- Log a retirement (code 21h): DETAIL is the index, or FFFF_FFFFh without one (R394). -/
def logRetired (s : State) (unit : Nat) (srcs : List Nat) (idx : Option Nat) : State :=
  logEvent s { Event.plain 0x21 3 unit (idx.getD 0xFFFFFFFF) with srcs := srcs }

/-- Write the device's own retirement into the list and log it. -/
def recordRetired (s : State) (site unit loc : Nat) (srcs : List Nat) : State :=
  match emptyRetired s with
  | none => logRetired s unit srcs none
  | some i =>
    logRetired (domWrite s 0x8200 1 (16 * i) (leBytes 8 (site + unit * 2 ^ 8) ++ leBytes 8 loc)) unit srcs (some i)

/-- Lines that read as poisoned from now on. -/
def markRetired (s : State) (lines : List Nat) : State :=
  { s with rel := { s.rel with retired := lines.foldl (fun m a => SMap.set m a true false) s.rel.retired } }

/-- A free value where the list's LOCATION is not stated (log 3). -/
def openLoc (s : State) : Nat := Config.freeValue s.freeCtr % 2 ^ 64

def retireLoamLine (s : State) (a : Nat) : State :=
  recordRetired (markRetired s [lineAddr a]) 1 (loamUnit a) (lineAddr a) []

def retireRow (s : State) (r : HbmRow) : State :=
  recordRetired (markRetired s (rowLines r)) 2 (12 + r.stack.val) (rowAddr r 0) []

/-- PARTITION queues of array a whose partition satisfies `bad` stop with a reason (Table 15.3). -/
def stopBound (s : State) (a reason : Nat) (bad : Nat → Bool) : State :=
  ((List.range 64).filter (fun q => qSize (qCfg s q) != 0 && qKind (qCfg s q) == 0 && qUnit (qCfg s q) == a
    && bad (qPart (qCfg s q)))).foldl (fun t q => stopQueue t q reason) s

/-- Rows of one bank of one pseudo-channel. -/
def sameBank (x y : HbmRow) : Bool := x.stack == y.stack && x.pc == y.pc && x.bank == y.bank

/-- SPPR_ACTIVE of a stack. -/
def showSppr (s : State) (st : Nat) : State :=
  setReg s (0x5020 + st) 3 (s.hbm.sppr.filter (fun r => r.stack.val == st)).length

/-- A soft repair, or retirement when the bank's resource is in use (R225). The row's lines keep their contents. -/
def softRepair (s : State) (r : HbmRow) : State :=
  if s.hbm.sppr.any (sameBank r) then retireRow s r
  else showSppr { s with hbm := { s.hbm with sppr := s.hbm.sppr ++ [r] } } r.stack.val

end Sys2Proof.Machine
end

