-- ==== Sys2Proof/Machine/Pace.lean ====
section
/-! DEFINITION. Power operations other units call: ceilings (R84, R365), the margin loop (R367), the ramp trigger and
the skew (R374, R375), stops (R377, R378), and what counts as quiet (R383). -/

namespace Sys2Proof.Machine

/-- The effective ceiling of array a in M waves/s (R84, R365). -/
def ceilingFused (s : State) (a : Nat) : Nat := SMap.get s.fuses.ceiling a 2000
def ceilingOf (s : State) (a : Nat) : Nat := max 2000 (ceilingFused s a - reg s (0x3010 + a) 6)

/-- PACE_LIMIT, held as 1 + the limit: an unset one is the effective ceiling (Table 17.7). -/
def paceLimit (s : State) (a : Nat) : Nat :=
  if reg s (0x3010 + a) 5 = 0 then ceilingOf s a else reg s (0x3010 + a) 5 - 1

def rateLimit (s : State) (n : Nat) : Nat := reg s (0x2300 + n) 2

/-! The margin loop. Units 0-3 are A0-A3, 4-7 V0-V3. -/

def Margin.fresh : Margin := { canary := 0, cleanWindows := 0, cleanChecks := 0, backedOff := false, active := false }

def marginOf (s : State) (u : Nat) : Margin := SMap.get s.power.margins u Margin.fresh

def setMargin (s : State) (u : Nat) (m : Margin) : State :=
  { s with power := { s.power with margins := SMap.set s.power.margins u m Margin.fresh } }

def marginStep (s : State) (u : Nat) : Nat := reg s (0x3010 + u) 1

/-- back_off() of R367. -/
def backOff (s : State) (u : Nat) : State :=
  let s1 :=
    if marginStep s u < 15 then setReg s (0x3010 + u) 1 (marginStep s u + 1)
    else logEvent s { Event.plain 0x0B 3 u (marginStep s u) with tests := [(.fullUnit, u, u)] }
  let m := marginOf s1 u
  raise (bump (setMargin s1 u { m with canary := 0, cleanWindows := 0, cleanChecks := 0, backedOff := true })
    (0x3010 + u) 3) (src 15 6)

/-- A clean check (R367). -/
def cleanCheck (s : State) (u : Nat) : State :=
  let m := marginOf s u
  setMargin s u { m with cleanChecks := m.cleanChecks + 1 }

/-- The unit started a wave or step in this window. -/
def markActive (s : State) (u : Nat) : State :=
  let m := marginOf s u
  setMargin s u { m with active := true }

/-! Ramp and skew. -/

/-- SKEW_NS of R375 before its switch. -/
def skewOf (s : State) : Nat := 100 * (devNum s % 31)

def skewNow (s : State) : Nat := if reg s 0x3020 4 = 1 then skewOf s else 0

/-- Start the skew and the ramp of one array. -/
def rampArray (s : State) (skew a : Nat) : State :=
  let u := arrayOf s a
  if u.lastWave + reg s 0x3020 3 ≤ now s then
    setArray s a { u with
      skewUntil := if skew = 0 then none else some (now s + skew)
      rampStart := if reg s 0x3020 1 = 0 then none else some (now s + skew)
      rampStep := 0 }
  else s

/-- A ramp trigger (R374): every array idle for RAMP_IDLE_NS. -/
def rampTrigger (s : State) (skew : Nat) : State := (List.range 4).foldl (fun t a => rampArray t skew a) s

/-- The ramp limit of an array in M waves/s, rounded down; none when no ramp runs. -/
def rampLimit (s : State) (a : Nat) : Option Nat :=
  (arrayOf s a).rampStart.map (fun _ =>
    ceilingOf s a * (reg s 0x3020 2 + 3 * (arrayOf s a).rampStep) / (4 * reg s 0x3020 2))

/-! Stops. -/

/-- The body of a HALTED notice (Table 17.4). -/
def haltedBody (s : State) (reason : Nat) : Line :=
  BitVec.ofNat 512 (devNum s + reason * 2 ^ 16 + now s * 2 ^ 64 + reg s 0x3040 3 * 2 ^ 128)

/-- A stop starts (R377, R379). Running tests are abandoned and stay pending (R391). -/
def startStop (s : State) (reason : Nat) : State :=
  let s1 := setReg (setReg (bump s 0x3040 3) 0x3040 1 1) 0x3040 4 reason
  let s2 := { s1 with
    power := { s1.power with stopPhase := 1, stopAt := now s1 }
    hbm := { s1.hbm with selfRefresh := true }
    rel := { s1.rel with tests := s1.rel.tests.map (fun t => { t with running := false }) } }
  let s3 := noticeAll (raise s2 (src 15 2)) 2 (haltedBody s2 reason)
  logEvent s3 (Event.plain 0x0F 2 0xFF reason)

/-- Move a deadline by the length of a stop. -/
def later (d : Nat) : Option Nat → Option Nat
  | none => none
  | some t => some (t + d)

/-- The times that a stop suspends run on with what remained (R378, R108, R251, R276, R293); a request sent
during the stop has lost nothing. -/
def shiftTimes (s : State) (d : Nat) : State :=
  { s with
    ops := s.ops.map (fun o => { o with deadline := later d o.deadline })
    waits := s.waits.map (fun w => { w with deadline := w.deadline + d })
    fab := { s.fab with reqs := s.fab.reqs.map (fun r => { r with
      deadline := r.deadline + min d (now s - r.sentAt.getD (now s)) }) }
    buckets := s.buckets.map (fun b => { b with
      taken := b.taken + d
      streams := b.streams.map (fun x => { x with deadline := later d x.deadline }) })
    arb := s.arb.map (fun e => (e.1, { e.2 with since := e.2.since + d })) }

/-- The stop answers inbound requests with NAK HALTED until a resume is accepted (R277, R378). -/
def halted (s : State) : Bool := s.power.stopPhase == 1 || s.power.stopPhase == 2

/-- The owner-change scrub runs (R203). -/
def scrubbing (s : State) : Bool := reg s 0x4002 2 == 1

/-- No operation, wait or context command is in flight (R383). -/
def quiet (s : State) : Bool := s.ops.isEmpty && s.waits.isEmpty && s.ctxs.isEmpty && s.ready.isEmpty

/-- A new wave or step may start: the core runs and PACE_HOLD_N is high (R376). -/
def stepsRun (s : State) : Bool := coreRuns s && s.pins.paceHoldN && decide (reg s 0x3300 1 ≤ 1)

end Sys2Proof.Machine
end

