-- ==== Sys2Proof/Machine/Power.lean ====
section
/-! DEFINITION. Power and thermal control (ch. 17): pins, ramps, stops, temperatures, rails, margins, the tilth
controller and power states. -/

namespace Sys2Proof.Machine

/-- A 32-bit two's-complement reading as an integer. -/
def i32 (v : Nat) : Int := (BitVec.ofNat 32 v).toInt

/-! PACE_HOLD_N (R376), skew and ramp (R374, R375). -/

/-- PACE_HOLD_N falls: no wave or step starts; source 15:1 is pending. -/
def execPaceHoldNFall (s : State) : Out :=
  .next (if s.aon.up && s.pins.paceHoldN then
    setCond (bump { s with pins := { s.pins with paceHoldN := false } } 0x3030 1) (src 15 1) true
  else { s with pins := { s.pins with paceHoldN := false } })

/-- PACE_HOLD_N rises: ramp and skew apply (R374, R375). -/
def execPaceHoldNRise (s : State) : Out :=
  .next (if s.aon.up && !s.pins.paceHoldN then
    let s1 := setCond { s with pins := { s.pins with paceHoldN := true } } (src 15 1) false
    rampTrigger s1 (skewNow s1)
  else { s with pins := { s.pins with paceHoldN := true } })

/-- The skew of an array is over (R375). -/
def execSkewExpiry (a : ArrayId) (s : State) : Out :=
  .next (match (arrayOf s a.val).skewUntil with
    | none => s
    | some t => if t ≤ now s then setArray s a.val { arrayOf s a.val with skewUntil := none } else s)

/-- Interval k of the ramp ends (R374); after the last the limit lifts. -/
def execRampIntervalEnd (a : ArrayId) (s : State) : Out :=
  .next (
    let u := arrayOf s a.val
    match u.rampStart with
    | none => s
    | some t =>
      if t * reg s 0x3020 2 + (u.rampStep + 1) * reg s 0x3020 1 ≤ now s * reg s 0x3020 2 then
        (if reg s 0x3020 2 ≤ u.rampStep + 1 then setArray s a.val { u with rampStart := none, rampStep := 0 }
         else setArray s a.val { u with rampStep := u.rampStep + 1 })
      else s)

/-! Coolant and thermal stops (R377 to R379). -/

/-- COOLANT_OK falls: its microsecond starts. -/
def execCoolantOkFall (s : State) : Out :=
  .next (if s.pins.coolantOk then
    { s with pins := { s.pins with coolantOk := false }
             power := { s.power with lowSince := some (now s), highSince := none } }
  else s)

/-- COOLANT_OK rises: the count of R377 restarts and the second of R378 begins. -/
def execCoolantOkRise (s : State) : Out :=
  .next (if s.pins.coolantOk then s
    else { s with pins := { s.pins with coolantOk := true }
                  power := { s.power with lowSince := none, highSince := some (now s) } })

/-- COOLANT_OK has been low for 1 us (the AON oscillator measures it while the clock is lost). -/
def lowFor1us (s : State) : Bool :=
  !s.pins.coolantOk && (match s.power.lowSince with
    | none => false
    | some t => decide (t + 1000 ≤ now s) || !s.pins.refclk)

/-- The start-up sequence has ended (R415: no stop before). -/
def sequenceOver (s : State) : Bool := decide (3 ≤ startState s)

def execCoolantStop (s : State) : Out :=
  .next (if clockOn s && sequenceOver s && lowFor1us s && !stopped s then startStop s 1 else s)

/-- The stop is complete: the self-timed region is frozen (R377). -/
def execCoolantStopComplete (s : State) : Out :=
  .next (if s.power.stopPhase = 1 then { s with power := { s.power with stopPhase := 2 } } else s)

/-- The conditions of R378 on a resume. -/
def mayResume (s : State) : Bool :=
  s.power.stopPhase == 2 && s.pins.coolantOk
    && (match s.power.highSince with
        | none => false
        | some t => decide (t + 1000000000 ≤ now s))
    && decide (i32 (reg s 0x3050 1) ≤ 95)
    && (List.range 20).all (fun k => decide (i32 (reg s (0x5020 + k) 1) ≤ 95))

def preCoolantResume (v : Nat) (s : State) : Nat := if v = 1 && !mayResume s then dQuiesce else 0

/-- Acceptance: the stacks leave self-refresh, the NAKs end, and the resume is under way (R378). -/
def effCoolantResume (v : Nat) (s : State) : State :=
  if v = 1 then { s with power := { s.power with stopPhase := 3 }, hbm := { s.hbm with selfRefresh := false } } else s

def execCoolantResume (p : Path) (v : Byte) (s : State) : Out :=
  guarded s p 0x3040 2 1 v.toNat (preCoolantResume v.toNat) (effCoolantResume v.toNat)

/-- THERMTRIP_N is driven low and the self-timed region freezes (R380). -/
def execThermtrip (s : State) : Out :=
  .next (if s.aon.up then { s with aon := { s.aon with thermtrip := true, frozen := true } } else s)

/-- TJ_NOW (R379), with its level sources. -/
def execTjUpdate (c : BitVec 32) (s : State) : Out :=
  .next (if clockOn s then
    let s1 := setReg s 0x3050 1 c.toNat
    let s2 := if i32 (reg s1 0x3050 2) < c.toInt then setReg s1 0x3050 2 c.toNat else s1
    let s3 := { s2 with power := { s2.power with tjHotSince :=
      if c.toInt < 105 then none else if s2.power.tjHotSince.isNone then some (now s2) else s2.power.tjHotSince } }
    setCond (setCond s3 (src 15 3) (decide (100 ≤ c.toInt))) (src 15 4) (decide (105 ≤ c.toInt))
  else s)

/-- The thermal factor moves only at multiples of 100 us of local time, once at each (R379). -/
def execThermalGridPoint (s : State) : Out :=
  .next (if clockOn s && now s % 100000 == 0 && s.power.lastGrid != now s + 1 then
    let f := reg s 0x3050 3
    let tj := i32 (reg s 0x3050 1)
    let f' := if 100 ≤ tj then max 16 (f - 1) else if tj ≤ 98 then min 64 (f + 1) else f
    { setReg s 0x3050 3 f' with power := { s.power with lastGrid := now s + 1 } }
  else s)

/-- TJ_NOW has stayed at or above 105 for 10 us (R379). -/
def execThermalStop (s : State) : Out :=
  .next (match s.power.tjHotSince with
    | none => s
    | some t => if clockOn s && decide (t + 10000 ≤ now s) && sequenceOver s && !stopped s then startStop s 2 else s)

/-- A stack's temperature report (R227, R379). -/
def execStackTemperatureRead (k : StackId) (c : BitVec 32) (s : State) : Out :=
  .next (if clockOn s then
    let s1 := setReg s (0x5020 + k.val) 1 c.toNat
    let lim := if 100 ≤ c.toInt then 16 else if 95 ≤ c.toInt then 32 else 64
    let s2 := { s1 with power := { s1.power with stackLimit := SMap.set s1.power.stackLimit k.val lim 64 } }
    let s3 := setCond s2 (src 9 k.val) (decide (85 < c.toInt))
    if 105 ≤ c.toInt && sequenceOver s3 && !stopped s3 then startStop s3 3 else s3
  else s)

/-! Rails (R368, R369). -/

def pmbusAddr (s : State) (k : Nat) : Nat := reg s (0x3060 + k) 1

/-- PMB_ALERT_N low: STATUS_WORD of every rail is read and faults are logged. A rail without an address is not
monitored. -/
def execPmbAlert (faulted : List (Fin 10)) (s : State) : Out :=
  .next (
    let s1 := { s with pins := { s.pins with pmbAlertN := false } }
    if clockOn s1 && s.pins.pmbAlertN then
      let s2 := emit (setCond s1 (src 16 0) true) .pmbusStatusRead
      let s3 := (faulted.filter (fun k => pmbusAddr s2 k.val != 0)).foldl
        (fun t k => logEvent t (Event.plain 0x0D 2 0xFF k.val)) s2
      raise s3 (src 15 5)
    else s1)

/-- PMB_ALERT_N high again: the level source ends. -/
def execPmbAlertNRise (s : State) : Out :=
  .next (setCond { s with pins := { s.pins with pmbAlertN := true } } (src 16 0) false)

/-- Telemetry of each polled rail (R368). -/
def execRailTelemetryPoll (r : List RailReading) (s : State) : Out :=
  .next (if clockOn s then
    (r.filter (fun x => pmbusAddr s x.rail.val != 0)).foldl (fun t x =>
      setReg (setReg (setReg t (0x3060 + x.rail.val) 2 x.mv.toNat) (0x3060 + x.rail.val) 3 x.ma.toNat)
        (0x3060 + x.rail.val) 4 x.temp.toNat) s
  else s)

/-- Target and measured rate of each unit of a die as fractions over a common base (DEDUCED, log 21): arrays of their
fused ceiling, engines of 2,000 M steps/s. -/
def dieTargets (s : State) (d : Nat) : List (Nat × Nat) :=
  [(min (ceilingOf s (2 * d)) (paceLimit s (2 * d)), ceilingFused s (2 * d)),
   (min (ceilingOf s (2 * d + 1)) (paceLimit s (2 * d + 1)), ceilingFused s (2 * d + 1)),
   (rateLimit s (2 * d), 2000), (rateLimit s (2 * d + 1), 2000)]

def dieRates (s : State) (d : Nat) (ar er : BitVec 32 × BitVec 32) : List (Nat × Nat) :=
  [(ar.1.toNat, ceilingFused s (2 * d)), (ar.2.toNat, ceilingFused s (2 * d + 1)), (er.1.toNat, 2000), (er.2.toNat, 2000)]

/-- The largest of a list of fractions. -/
def maxFrac (l : List (Nat × Nat)) : Nat × Nat :=
  l.foldl (fun m x => if m.1 * x.2 < x.1 * m.2 then x else m) (0, 1)

/-- The step of a rail in mV (R369). -/
def railStep (s : State) (d : Nat) (ar er : BitVec 32 × BitVec 32) : Int :=
  let m := maxFrac (dieTargets s d)
  let t : Nat × Nat := (m.1 * (100 + reg s 0x3070 2), m.2 * 100)
  let rates := dieRates s d ar er
  let limits := (dieTargets s d).map Prod.fst
  let rose := (List.range 4).any (fun i => decide (SMap.get s.power.lastLimits (4 * d + i) 0 < limits.getD i 0))
  if rates.any (fun r => decide (r.1 * t.2 < t.1 * r.2)) then (if rose then 20 else 5)
  else if rates.all (fun r => decide (t.1 * r.2 * 103 < r.1 * t.2 * 100)) then -5
  else 0

/-- Remember the limits of the update. -/
def noteLimits (s : State) (d : Nat) : State :=
  let l := (dieTargets s d).map Prod.fst
  let m := (List.range 4).foldl (fun m i => SMap.set m (4 * d + i) (l.getD i 0) 0) s.power.lastLimits
  { s with power := { s.power with lastLimits := m } }

/-- One update of the loop of rail VDD_CORE_d (R369). -/
def execVoltageLoopUpdate (die : Fin 2) (ar er : BitVec 32 × BitVec 32) (acked : Bool) (s : State) : Out :=
  .next (
    let d := die.val
    if clockOn s && startState s == 3 && !s.power.railStopped.testBit d && pmbusAddr s d != 0
        && decide (reg s 0x3300 1 ≤ 1) then
      let old := reg s (0x3060 + d) 5
      let new : Nat := if reg s 0x3070 1 = 1 then 700 else (max 550 (min 850 ((old : Int) + railStep s d ar er))).toNat
      let s1 := noteLimits s d
      if new = old then s1
      else if acked then emit (setReg s1 (0x3060 + d) 5 new) (.pmbusVout d new)
      else
        logEvent { s1 with power := { s1.power with railStopped := setBit s1.power.railStopped d true } }
          (Event.plain 0x0D 2 0xFF d)
    else s)

/-! Ageing (R365). -/

def ageingFault (s : State) (a : Nat) : State := logEvent s (Event.plain 0x0C 3 a (reg s (0x3010 + a) 6))

/-- The ageing monitor's measurement: the reduction rises by the smallest multiple of 10 M waves/s that restores the
inequality, and its fuses begin to burn; the ceiling never falls below 2.00 G waves/s. -/
def execAgeingMeasurement (a : ArrayId) (rate : BitVec 32) (s : State) : Out :=
  .next (
    let fused := ceilingFused s a.val
    if clockOn s && decide (rate.toNat < ceilingOf s a.val) then
      let want := ceilDiv (fused - rate.toNat) 10 * 10
      let cap := fused - 2000
      let r := min want cap
      let s1 :=
        if reg s (0x3010 + a.val) 6 < r then
          { setReg s (0x3010 + a.val) 6 r with
              power := { s.power with ageBurn := SMap.set s.power.ageBurn a.val r 0 } }
        else s
      if cap < want then ageingFault s1 a.val else s1
    else s)

/-- The fuse block has burnt a rise, or failed to (R365). -/
def execAgeingFuseBurnEnd (a : ArrayId) (ok : Bool) (s : State) : Out :=
  .next (
    let v := SMap.get s.power.ageBurn a.val 0
    if v = 0 || !s.aon.up then s
    else
      let s1 := { s with power := { s.power with ageBurn := SMap.set s.power.ageBurn a.val 0 0 } }
      if ok then { s1 with fuses := { s1.fuses with ageing := SMap.set s1.fuses.ageing a.val (v / 10) 0 } }
      else ageingFault s1 a.val)

/-! Margins (R367). -/

def execCanaryEvent (u : Fin 8) (s : State) : Out :=
  .next (if coreRuns s then
    let s1 := bump s (0x3010 + u.val) 4
    let m := marginOf s1 u.val
    let s2 := setMargin s1 u.val { m with canary := m.canary + 1 }
    if reg s 0x3018 1 < m.canary + 1 then backOff s2 u.val else s2
  else s)

def execMarginWindowEnd (u : Fin 8) (s : State) : Out :=
  .next (if clockOn s then
    let m := marginOf s u.val
    let w := if !m.backedOff && m.active then m.cleanWindows + 1 else m.cleanWindows
    let creep := decide (reg s 0x3018 2 ≤ w) && decide (reg s 0x3018 3 ≤ m.cleanChecks)
      && decide (SMap.get s.fuses.marginFloor u.val 0 < marginStep s u.val)
    let s1 := if creep then setReg s (0x3010 + u.val) 1 (marginStep s u.val - 1) else s
    setMargin s1 u.val { canary := 0, cleanWindows := if creep then 0 else w,
                         cleanChecks := if creep then 0 else m.cleanChecks, backedOff := false, active := false }
  else s)

/-! Energy scale (R381). -/

/-- num / den as FP32 by round to nearest even (DEDUCED, log 22). -/
def ratioF32 (num den : Nat) : Nat :=
  let n := num * 2 ^ 40 / den
  let sticky := if num * 2 ^ 40 % den = 0 then 0 else 1
  (Fmt.narrow .fp32 (rndMag false (2 * n + sticky) (-41) false) 0 .rne false).1

/-- The new RAIL_SCALE: one sixteenth of the way to telemetry / modelled, within 0.80 to 1.25. -/
def railScale (old modelled telemetry : Nat) : Nat :=
  match Fmt.decode .fp32 old with
  | .fin _ m e =>
    let k := m * 2 ^ (e + 149).toNat
    let num := 15 * k * modelled + telemetry * 2 ^ 149
    let den := 16 * modelled * 2 ^ 149
    if num * 5 < den * 4 then ratioF32 4 5 else if den * 5 < num * 4 then ratioF32 5 4 else ratioF32 num den
  | _ => old

/-- With no modelled energy the ratio is not stated: a free value (log 3). -/
def execRailScaleUpdate (k : Fin 10) (modelled telemetry : BitVec 64) (s : State) : Out :=
  .next (if clockOn s then
    (if modelled = 0 then nextFree (setReg s 0x3200 (2 + k.val) (Config.freeValue s.freeCtr % 2 ^ 32))
     else setReg s 0x3200 (2 + k.val) (railScale (reg s 0x3200 (2 + k.val)) modelled.toNat telemetry.toNat))
  else s)

/-! The tilth controller (R370 to R373). -/

/-- Offset of the learned entry of a context and phase (R370). -/
def learnedOff (c p : Nat) : Nat := 8 * (256 * c + p)

def learnedEntry (s : State) (c p : Nat) : Nat := domVal s 0x3081 1 (learnedOff c p) 8

/-- The four powers an entry counts as, in 0.1 W: peak values below three observations and for tag 0. -/
def learnedPowers (s : State) (c p : Nat) : List Nat :=
  let e := learnedEntry s c p
  if fld e 57 56 < 3 || p == 0 then [3750, 425, 750, 2500]
  else [fld e 13 0, fld e 27 14, fld e 41 28, fld e 55 42]

/-- The slots within LOOKAHEAD_SLOTS of the head of a queue (R371). -/
def lookahead (s : State) (q : Nat) : List Nat :=
  (List.range (min (reg s 0x3080 1) (qAvail s q))).map (fun j => (qHead s q + j) % qSize (qCfg s q))

/-- The announced phases of partition k: those that the slots near the head of its RUNNING queue carry (R371). -/
def announcedOf (s : State) (k : Nat) : List Nat :=
  match (List.range 64).find? (fun q => qSize (qCfg s q) != 0 && qKind (qCfg s q) == 0
      && 16 * qUnit (qCfg s q) + qPart (qCfg s q) == k && qState s q == 1) with
  | none => []
  | some q => (lookahead s q).map (fun i => SMap.get s.power.announced (k * 2 ^ 13 + i) 0)

/-- The powers of a partition: the larger, class by class, of the running and the announced phases; as arrays (with
loam), vector, hbm. Phases are held as 1 + tag + 256 * context. -/
def partPowers (s : State) (k : Nat) : List Nat :=
  let of (w : Nat) : List Nat :=
    if w = 0 then [0, 0, 0]
    else
      let l := learnedPowers s ((w - 1) / 256) ((w - 1) % 256)
      [l.getD 0 0 + l.getD 2 0, l.getD 1 0, l.getD 3 0]
  (announcedOf s k).foldl (fun m w => (List.range 3).map (fun i => max (m.getD i 0) ((of w).getD i 0)))
    (of (SMap.get s.power.phases k 0))

/-- Demand of a class in W: partitions count in proportion to their cells. -/
def demand (s : State) (cls : Nat) : Rat :=
  (List.range 4).foldl (fun t a =>
    t + ((List.range (partsOf (partMode s a))).foldl (fun u ii => u + (partPowers s (16 * a + ii)).getD cls 0) 0 : Nat)
        / ((10 * partsOf (partMode s a) : Nat) : Rat)) 0

/-- The pseudocode of R372: keep of arrays, vector and hbm, and what remains of the cut beyond the floors. -/
def keeps (first : Nat) (floors d : List Rat) (avail : Rat) : List Rat × Rat :=
  let g (l : List Rat) (i : Nat) : Rat := l.getD i 0
  let cut := g d 0 + g d 1 + g d 2 - avail
  if cut ≤ 0 then ([1, 1, 1], 0)
  else
    let c1 : Rat := if first = 0 then 0 else min cut (g d (first - 1) * (1 - g floors (first - 1)))
    let k1 : Rat := if first = 0 || g d (first - 1) = 0 then 1 else 1 - c1 / g d (first - 1)
    let rest := (List.range 3).filter (fun i => i + 1 != first)
    let cut2 := cut - c1
    let r := rest.foldl (fun t i => t + g d i * (1 - g floors i)) 0
    let f : Rat := if cut2 ≤ 0 then 0 else if r ≤ cut2 then 1 else cut2 / r
    ((List.range 3).map (fun i => if i + 1 = first then (if r < cut2 then g floors i else k1) else 1 - f * (1 - g floors i)),
      max 0 (cut2 - r))

def floorTo (q : Nat) (x : Rat) : Nat := (x / (q : Rat)).floor.toNat * q

/-- One evaluation (R372), with the thermal factor of R379 applied before rounding. How far array pace limits fall below
their floor when the floors do not suffice is left open between 1/16 of the ceiling and the floor: a free value. -/
def evaluate (s : State) : State :=
  let slot := fld (reg s 0x3082 2) (8 * ((now s - s.power.wrapAt) / 1000 % 64) + 7) (8 * ((now s - s.power.wrapAt) / 1000 % 64))
  let floors : List Rat := [(fld slot 7 2 : Rat) / 64, 1 / 8, 1 / 4]
  let budget : Int := if reg s 0x3000 1 ≤ reg s 0x3000 6 + reg s 0x3000 3 then (reg s 0x3000 1 : Int) - reg s 0x3000 3
    else (reg s 0x3000 2 : Int) - reg s 0x3000 3
  let k := keeps (fld slot 1 0) floors [demand s 0, demand s 1, demand s 2] (budget - s.power.fixedW : Int)
  let f : Rat := (reg s 0x3050 3 : Rat) / 64
  let keep (i : Nat) : Rat := k.1.getD i 1
  let capped := keep 0 < 1 || keep 1 < 1 || keep 2 < 1
  let pace (a : Nat) : Nat :=
    let hi := floorTo 10 (keep 0 * f * (ceilingOf s a : Rat))
    let lo := ceilDiv (ceilingOf s a) 16
    if k.2 = 0 || hi ≤ lo then hi else lo + Config.freeValue s.freeCtr % (hi - lo + 1)
  let s1 := (List.range 4).foldl (fun t a => setReg t (0x3010 + a) 5 (1 + pace a)) s
  let s2 := (List.range 4).foldl (fun t n => setReg t (0x2300 + n) 2 (floorTo 10 (keep 1 * f * 2000))) s1
  let s3 := { nextFree s2 with power := { s2.power with hbmRate := floorTo 1 (keep 2 * f * 64) } }
  setCond (setReg s3 0x3000 7 (b2n capped)) (src 15 0) capped

/-- A phase tag within LOOKAHEAD_SLOTS of the head of a RUNNING array queue is announced, and the power is shared again
(R371, R372). -/
def execPhaseAnnouncement (q : QueueId) (slot : Fin 33) (s : State) : Out :=
  .next (
    let c := qCfg s q.val
    let i := (qHead s q.val + slot.val) % qSize c
    if clockOn s && qState s q.val == 1 && qKind c == 0 && decide (slot.val < reg s 0x3080 1)
        && decide (slot.val < qAvail s q.val) then
      match queueCtx s q.val with
      | none => s
      | some x =>
        let d : Option (BitVec 1024) :=
          if qHost c then (if slot.val = 0 then SMap.find s.hostIf.slotData q.val else none)
          else if slotReadable s x q.val i then some (slotDesc s q.val i) else none
        match d with
        | none => s
        | some d =>
          let k := 16 * qUnit c + qPart c
          -- announcements of slots that have left the look-ahead are over
          let kept := s.power.announced.filter (fun e => e.1 / 2 ^ 13 != k || (lookahead s q.val).contains (e.1 % 2 ^ 13))
          let m := SMap.set kept (k * 2 ^ 13 + i) (1 + dPhase d.toNat + 256 * x) 0
          evaluate { s with power := { s.power with announced := m } }
    else s)

/-- The 1 us evaluation: a microsecond of the present power counts as package energy (R382), and the shares follow
the present power, the running means and the modelled fixed power (R372). -/
def execPowerShareEvaluation (p m10 m1 fixedW : BitVec 32) (s : State) : Out :=
  .next (if clockOn s then
    evaluate { setReg (setReg (setReg (bumpBy s 0x3000 8 p.toNat) 0x3000 4 p.toNat) 0x3000 5 m10.toNat) 0x3000 6 m1.toNat with
      power := { s.power with fixedW := fixedW.toNat } }
  else s)

/-- learned + (observed - learned) / 4; the rounding of an inexact quarter is not stated: free between the two
neighbours (log 3). -/
def learn (free old obs : Nat) : Nat :=
  let d : Int := ((obs : Int) - old) / 4
  let r : Int := ((obs : Int) - old) % 4
  ((old : Int) + d + (if r = 0 then 0 else (free % 2 : Nat))).toNat % 2 ^ 14

/-- A phase ends on an array (R370): its learned entry moves, and OBS counts to 3. -/
def execPhaseEnd (a : ArrayId) (ctx : CtxId) (phase : Byte) (array vector loam hbm : BitVec 14) (s : State) : Out :=
  .next (if clockOn s then
    let e := learnedEntry s ctx.val phase.toNat
    let fr := Config.freeValue s.freeCtr
    let w := learn fr (fld e 13 0) array.toNat + learn (fr / 2) (fld e 27 14) vector.toNat * 2 ^ 14
      + learn (fr / 4) (fld e 41 28) loam.toNat * 2 ^ 28 + learn (fr / 8) (fld e 55 42) hbm.toNat * 2 ^ 42
      + min 3 (fld e 57 56 + 1) * 2 ^ 56
    let s1 := domWrite (nextFree s) 0x3081 1 (learnedOff ctx.val phase.toNat) (leBytes 8 w)
    let left := s1.power.phases.filter (fun x => !(x.1 / 16 == a.val && x.2 == 1 + phase.toNat + 256 * ctx.val))
    { s1 with power := { s1.power with phases := left } }
  else s)

/-- The share table wraps every 64 us; a written shadow becomes active (R373). -/
def execShareTableWrap (s : State) : Out :=
  .next (if clockOn s && decide (s.power.wrapAt + 64000 ≤ now s) then
    let s1 := { s with power := { s.power with wrapAt := now s } }
    if reg s1 0x3082 3 = 1 then setReg (setReg s1 0x3082 2 (reg s1 0x3082 1)) 0x3082 3 0 else s1
  else s)

def effShareShadow (v : Nat) (s : State) : State := setReg (setReg s 0x3082 1 v) 0x3082 3 1

def execShareShadowWrite (p : Path) (v : BitVec 512) (s : State) : Out :=
  guarded s p 0x3082 1 64 v.toNat freely (effShareShadow v.toNat)

/-! Power states (R383). -/

/-- Quiesce conditions on a request (R383, R203). -/
def prePowerState (v : Nat) (s : State) : Nat :=
  if s.power.request != 0 || s.power.leaving then dQuiesce
  else if v != 0 && scrubbing s then dQuiesce
  else 0

/-- A request: 0 leaves Doze or Hold, 2 and 3 ask for entry. Hold is left by mailbox or field network; a request of Doze
in Hold changes nothing, since Table 17.6 does not list it among what leaves Hold (log 29). -/
def effPowerState (p : Path) (v : Nat) (s : State) : State :=
  let st := reg s 0x3300 1
  let direct : Bool := match p with
    | .cc _ => true
    | .sec => true
    | .signed | .slotA | .slotB | .field | .tap => false
  if v = 0 then
    (if st = 2 || (st = 3 && !direct) then { s with power := { s.power with leaving := true } } else s)
  else if st = v || st = 3 then s
  else { s with power := { s.power with request := v } }

def execD0Request (p : Path) (s : State) : Out := guarded s p 0x3300 2 1 0 (prePowerState 0) (effPowerState p 0)

def execDozeRequest (p : Path) (s : State) : Out := guarded s p 0x3300 2 1 2 (prePowerState 2) (effPowerState p 2)

/-- Hold by entry write, or by PCIe D3hot, whose entry waits for the scrub (R203). -/
def execHoldRequest (h : HoldSource) (s : State) : Out :=
  match h with
  | .entry p => guarded s p 0x3300 2 1 3 (prePowerState 3) (effPowerState p 3)
  | .d3hot => .next (if clockOn s && s.aon.pcieUp && reg s 0x3300 1 != 3 then
      { s with power := { s.power with request := 3 } } else s)

/-- The interrupt controller's state is in retention; running hold-offs count as expired (R334). -/
def saveIrq (s : State) : State := { s with irq := { s.irq with saved := true, timers := [], held := [] } }

def execDozeEntry (s : State) : Out :=
  .next (if clockOn s && s.power.request == 2 && quiet s then
    saveIrq (setReg { s with power := { s.power with request := 0 } } 0x3300 1 2)
  else s)

/-- Entry to Hold clears FABRIC_ENABLE, puts the stacks into self-refresh and abandons running tests (R383, R224,
R391). -/
def execHoldEntry (s : State) : Out :=
  .next (if clockOn s && s.power.request == 3 && quiet s && !scrubbing s then
    saveIrq (setReg (setReg { s with
      power := { s.power with request := 0 }
      hbm := { s.hbm with selfRefresh := true }
      rel := { s.rel with tests := s.rel.tests.map (fun t => { t with running := false }) } } 0x7000 2 0) 0x3300 1 3)
  else s)

/-- A wake event in Doze (Table 17.6); an interrupt wakes only when a line would be asserted (R334). -/
def execWakeEvent (c : WakeCause) (s : State) : Out :=
  .next (
    let real : Bool := match c with
      | .irq => (List.range 6).any (line s)
      | .doorbell => true
      | .inbound => true
    if clockOn s && reg s 0x3300 1 == 2 && real then { s with power := { s.power with leaving := true } } else s)

/-- PCIe D0 leaves Hold. -/
def execPcieD0 (s : State) : Out :=
  .next (if clockOn s && reg s 0x3300 1 == 3 then { s with power := { s.power with leaving := true } } else s)

/-- Lines that are asserted once the controller speaks again start their groups' timers (R332). -/
def linesStart (s : State) : State :=
  (List.range 5).foldl (fun t p => if line t p then (winGroups t p).foldl startTimer t else t) s

/-- The device is back in D0: the controller's state is restored before any line or message (R334), the stacks serve
again, and idle arrays are ramped (R374). -/
def execReturnToD0 (s : State) : Out :=
  .next (if clockOn s && s.power.leaving then
    let s1 := setReg { s with
      power := { s.power with leaving := false }
      hbm := { s.hbm with selfRefresh := stopped s }
      irq := { s.irq with saved := false, late := [] } } 0x3300 1 0
    rampTrigger (linesStart (s.irq.late.foldl msixOnRise s1)) 0
  else s)

end Sys2Proof.Machine
end

