-- ==== Sys2Proof/Machine/Capture.lean ====
section
/-! DEFINITION. What the output stage sends (R69, R70, R76 to R78, R100) and what the sieve captures of a tile (R169 to
R171, R177). -/

namespace Sys2Proof.Machine

/-- Context-record fields of the sieve, the epilogue table, the update table and the source table (Table 10.5). -/
def recEpi (r : Nat) : Nat := qf r 7 43 0
def recUpd (r : Nat) : Nat := qf r 8 43 0
def recSieve (r : Nat) : Nat := qf r 9 43 0
def recSieveMib (r : Nat) : Nat := qf r 9 63 44
def recSrc (r : Nat) : Nat := qf r 10 43 0
def recSrcN (r : Nat) : Nat := qf r 10 63 44

/-! Pieces sent to a destination. -/

/-- One element, or one block with its scale; (row, col) is the first element. `copy2` is the column copy of R34. -/
inductive Piece where
  | elem (copy2 : Bool) (row col val : Nat)
  | block (copy2 : Bool) (row col scale : Nat) (elems : List Nat)
deriving DecidableEq, Repr

/-- Key and value of a piece in a capture. -/
def Piece.entry (f : Fmt) : Piece → Nat × Nat
  | .elem c r k v => (b2n c * 2 ^ 44 + r * 2 ^ 20 + k, v)
  | .block c r k sc l => (b2n c * 2 ^ 44 + r * 2 ^ 20 + k, sc + 256 * leVal (packBlock f l))

/-- Quantize the 32 positions of a block (R33, R42): masked and padding positions are none. -/
def convBlock (f : Fmt) (h : Nat) (l : List (Option (Acc × Rmode))) : Nat × List Nat × List Count :=
  let q := quantBlock f h (l.filterMap id)
  if q.1 = 255 then (255, l.map (fun _ => 0), l.map (fun _ => Count.nan))
  else
    let fill := l.foldl (fun (t : List Nat × List (Nat × Count)) x => match x with
      | none => (t.1 ++ [0], t.2)
      | some _ => (t.1 ++ [(t.2.headD (0, .none)).1], t.2.drop 1)) ([], q.2)
    (q.1, fill.1, q.2.map Prod.snd)

/-- The value of a column in a row segment. -/
def valAt (vals : List (Nat × Acc)) (c : Nat) : Option Acc := (vals.find? (fun v => v.1 == c)).map Prod.snd

/-! Operand bytes that the destination shares (R97). -/

/-- Two ranges share a byte. -/
def rangesMeet (a la b lb : Nat) : Bool := decide (a < b + lb) && decide (b < a + la)

/-- The element and scale ranges of a tensor. -/
def Tensor.ranges (t : Tensor) : List (Nat × Nat) := [(t.addr, t.size), (t.scale, t.scaleSize)]

/-- The accumulate-in tile is the destination itself (R97). -/
def accIsDest (d : Nat) : Bool :=
  (mAcc d).addr == (mD d).addr && (mAcc d).pitch == (mD d).pitch && (!mDScaled d || (mAcc d).scale == (mD d).scale)

/-- Ranges that waves read, and ranges that the operation writes; masks are read before the first write. -/
def readRanges (d : Nat) : List (Nat × Nat) :=
  (mA d).ranges ++ (mB d).ranges ++ (if mAccIn d && !accIsDest d then (mAcc d).ranges else [])
def writeRanges (d : Nat) : List (Nat × Nat) :=
  if mDest d = 2 then [] else (mD d).ranges ++ (if mDual d then (mD2 d).ranges else [])

/-- The bytes that operands and destination share, as memory holds them now. -/
def sharedBytes (s : State) (d : Nat) : SMap Byte :=
  (readRanges d).foldl (fun m x => (writeRanges d).foldl (fun m y =>
    if rangesMeet x.1 x.2 y.1 y.2 then
      let lo := max x.1 y.1
      (List.range (min (x.1 + x.2) (y.1 + y.2) - lo)).foldl (fun m i => SMap.put m (lo + i) (memByte s (lo + i))) m
    else m) m) []

/-- Memory as an operation's operand reads see it: a byte shared with the destination is the one before the write or the
one after it, and which one is left open (R97, log 118). -/
def operandView (s : State) (o : Op) : State :=
  o.before.foldl (fun t e => if (Config.freeValue (s.freeCtr + e.1)).testBit 0 then memWrite t e.1 [e.2] else t) s

/-! K = 0 with an accumulate-in tile (R81). -/

/-- An element of the accumulate-in tile that conversion leaves as it is: no infinity, no NaN but the canonical one. -/
def accClean (s : State) (d i j : Nat) : Bool :=
  let sc := (memByte s ((mAcc d).scaleLoc i j)).toNat
  let raw := (mAcc d).raw s i j
  if sc = 255 then raw == 0
  else match (mAcc d).fmt.decode raw with
    | .fin .. => true
    | _ => false

/-- The rows of row i's tile. -/
def tileRowsOf (d i : Nat) : List Nat :=
  let p := sideOf (mMode d)
  (List.range (min p (mM d - i / p * p))).map (· + i / p * p)

/-- The bits of a block-scaled accumulate-in tile go unchanged to the destination: K = 0, and neither infinity nor
non-canonical NaN in the tile of row i and these columns. -/
def keepsBits (s : State) (o : Op) (i : Nat) (cols : List Nat) : Bool :=
  let d := o.desc.toNat
  o.zeroK && mAccIn d && mDScaled d
    && (activeOf (tileRowsOf d i) o.rowMask).all (fun r => (activeOf cols o.colMask).all (fun c => accClean s d r c))

/-- A block of the accumulate-in tile as it stands: position x of the block is element (at x); a masked one is 0. -/
def keptBlock (s : State) (d : Nat) (at_ : Nat → Nat × Nat) (l : List (Option (Acc × Rmode))) : Nat × List Nat × List Count :=
  let o := at_ (l.findIdx Option.isSome)
  let sc := (memByte s ((mAcc d).scaleLoc o.1 o.2)).toNat
  (sc, ((List.range l.length).zip l).map (fun x => if x.2.isSome then (mAcc d).raw s (at_ x.1).1 (at_ x.1).2 else 0),
    if sc = 255 then l.map (fun _ => Count.nan) else [])

/-- The block a destination takes: as it stands under R81, else quantized (R33). -/
def destBlock (s : State) (o : Op) (kept : Bool) (at_ : Nat → Nat × Nat) (l : List (Option (Acc × Rmode))) :
    Nat × List Nat × List Count :=
  let d := o.desc.toNat
  if kept && l.any Option.isSome then keptBlock (operandView s o) d at_ l else convBlock (mDFormat d) (mHeadroom d) l

/-- One row of the row copy or of an unscaled destination: every position of the tile's columns. -/
def rowPieces (s : State) (o : Op) (cols : List Nat) (row : Nat) (vals : List (Nat × Acc)) : List Piece × List Count :=
  let d := o.desc.toNat
  let f := mDFormat d
  if mDScaled d then
    let blocks := (cols.filter (fun c => c % 32 == 0)).map (fun c0 =>
      let l := (List.range 32).map (fun i => (valAt vals (c0 + i)).map (fun a => (a, roundMode s o row (c0 + i))))
      (c0, l))
    let kept := blocks.filter (fun b => mZeroMasked d || b.2.any Option.isSome)
    let same := keepsBits (operandView s o) o row cols
    let out := kept.map (fun b => (b.1, destBlock s o same (fun i => (row, b.1 + i)) b.2))
    (out.map (fun b => Piece.block false row b.1 b.2.1 b.2.2.1), out.flatMap (fun b => b.2.2.2))
  else
    let out := cols.filterMap (fun c => match valAt vals c with
      | some a => let r := f.narrow a 0 (roundMode s o row c) (mIeee d); some (Piece.elem false row c r.1, r.2)
      | none => if mZeroMasked d then some (Piece.elem false row c 0, Count.none) else none)
    (out.map Prod.fst, out.map Prod.snd)

/-- One group of 32 rows with blocks along columns: the column copy, or a destination of axis 1. -/
def groupPieces (s : State) (o : Op) (copy2 : Bool) (cols : List Nat) (g : Nat) (rows : List OutRow) :
    List Piece × List Count :=
  let d := o.desc.toNat
  let blocks := cols.map (fun c => (c, (List.range 32).map (fun i =>
    match rows.find? (fun r => r.row == 32 * g + i) with
    | none => none
    | some r => (valAt r.vals c).map (fun a => (a, roundMode s o (32 * g + i) c)))))
  let kept := blocks.filter (fun b => mZeroMasked d || b.2.any Option.isSome)
  let same := !copy2 && keepsBits (operandView s o) o (32 * g) cols
  let out := kept.map (fun b => (b.1, destBlock s o same (fun i => (32 * g + i, b.1)) b.2))
  (out.map (fun b => Piece.block copy2 (32 * g) b.1 b.2.1 b.2.2.1), out.flatMap (fun b => b.2.2.2))

/-- FP32 hand-off values of a row (R70). -/
def handoff (cols : List (Nat × Acc)) : List (Nat × Nat × Count) :=
  cols.map (fun v => let r := Fmt.narrow .fp32 v.2 0 .rne false; (v.1, r.1, r.2))

/-- Does the destination need groups of 32 rows (R69). -/
def needsGroup (d : Nat) : Bool := mDScaled d && (mDAxis d == 1 || mDual d)

/-- Everything a whole tile sends to loam or the collective engine, rows bottom first (R69): pieces and counts. -/
def tilePieces (s : State) (o : Op) (cols : List Nat) (rows : List OutRow) : List Piece × List Count :=
  let d := o.desc.toNat
  let a := if mDScaled d && mDAxis d == 1 then [] else rows.map (fun r => rowPieces s o cols r.row r.vals)
  let gs := (rows.map (fun r => r.row / 32)).eraseDups
  let b := if needsGroup d then gs.map (fun g => groupPieces s o (mDual d) cols g (rows.filter (fun r => r.row / 32 == g)))
    else []
  ((a ++ b).flatMap Prod.fst, (a ++ b).flatMap Prod.snd)

/-- Store a piece at its destination tensor. -/
def applyPiece (d : Nat) (s : State) : Piece → State
  | .elem _ r c v => (mD d).store s r c v
  | .block c2 r c sc l => (if c2 then mD2 d else mD d).storeBlock s r c sc l

/-! Captures. -/

/-- Keys of the counts of a tile in a capture. -/
abbrev countKey (i : Nat) : Nat := 2 ^ 46 + i

/-- Add counts to a capture's totals. -/
def capCounts (m : SMap Nat) (l : List Count) : SMap Nat :=
  let add (m : SMap Nat) (i n : Nat) : SMap Nat := SMap.set m (countKey i) (SMap.get m (countKey i) 0 + n) 0
  add (add (add m 0 (countOf .ovf l)) 1 (countOf .nan l)) 2 (countOf .under l)

/-- An entry of the source table (Table 9.3): four quadwords. -/
def srcEntry (s : State) (r i : Nat) : Nat := memVal s (recSrc r + 32 * i) 32

/-- An entry with a reserved value in any field is ignored (R177). -/
def srcEntryOk (e : Nat) : Bool :=
  (qf e 0 47 44 == 0 || qf e 0 47 44 == 2) && qf e 0 63 49 == 0 && qf e 2 63 0 == 0 && qf e 3 63 0 == 0

/-- The wide source of an operand's element array: the first valid entry. -/
def wideOf (s : State) (r addr : Nat) : Option Nat :=
  ((List.range (recSrcN r)).map (srcEntry s r)).find? (fun e => srcEntryOk e && qf e 0 43 0 == addr)

/-- The wide tensor of an entry, `outer` x K or K x `outer`. -/
def wideTensor (e outer k : Nat) : Tensor :=
  { addr := qf e 1 43 0, fmt := if qf e 0 47 44 = 0 then .fp32 else .bf16, scaled := false, axis := 0, scale := 0,
    pitch := qf e 1 63 44, rows := if qf e 0 48 48 = 0 then outer else k, cols := if qf e 0 48 48 = 0 then k else outer }

/-- Element (i, k) of a wide operand. -/
def readWide (s : State) (e outer k i j : Nat) : FVal :=
  if qf e 0 48 48 = 0 then (wideTensor e outer k).read s i j else (wideTensor e outer k).read s j i

/-- Stored bytes of n lines of K elements with their scales. -/
def stripBytes (t : Tensor) (n k : Nat) : Nat :=
  ceilDiv (n * k * t.fmt.bits) 8 + (if t.scaled then n * ceilDiv k 32 else 0)

def wideBytes (e : Option Nat) (n k : Nat) : Nat :=
  match e with
  | none => 0
  | some e => n * k * (if qf e 0 47 44 = 0 then 4 else 2)

/-- Blocks of 32 that a list of positions touches. -/
def blocksOn (l : List Nat) : Nat := ((l.map (· / 32)).eraseDups).length

/-- Bytes of a tile's output as sent: the active rows and columns, or all of the tile's under ZERO_MASKED, with a scale byte
for each block of a line. -/
def sentBytes (d t : Nat) (rows cols : List Nat) : Nat :=
  if mDest d = 1 then 4 * rows.length * cols.length
  else
    let p := sideOf (mMode d)
    let rs := if mZeroMasked d then tileRows d p t else rows
    let cs := if mZeroMasked d then tileCols d p t else cols
    let one := ceilDiv (rs.length * cs.length * (mDFormat d).bits) 8
    let along := rs.length * blocksOn cs
    let down := cs.length * blocksOn rs
    if !mDScaled d then one
    else if mDual d then 2 * one + along + down
    else one + (if mDAxis d = 1 then down else along)

/-- The sieve is enabled on array a's clay die. -/
def sieveOn (s : State) (a : Nat) : Bool := (reg s 0x6120 1).testBit (a / 2)

/-- The grain output that decides tile sampling (R169). -/
def sieveDraw (s : State) (a : Nat) : Nat :=
  (grain (BitVec.ofNat 64 (reg s 0x6120 4)) 3 (BitVec.ofNat 64 (reg s 0x6124 (a + 1))) (BitVec.ofNat 64 a)).toNat

/-- Sampled, and selected for fidelity. -/
def sieveSampled (s : State) (a : Nat) : Bool := sieveDraw s a % 2 ^ reg s 0x6120 2 == 0
def sieveFidelity (s : State) (a : Nat) : Bool := sieveDraw s a / 2 ^ 16 % 2 ^ reg s 0x6120 3 == 0

/-- A sample is dropped and counted (R170). -/
def dropSample (s : State) (a : Nat) : State := raise (bump s 0x6127 (a + 1)) (src 7 (5 + a))

/-- The first free capture slot of a context. -/
def freeSlot (s : State) (c : Nat) : Option Nat :=
  (List.range 2).find? (fun k => !s.caps.any (fun x => x.ctx == c && x.slot == k))

/-- The capture slot's address: each is half of the sieve area (R171). -/
def slotBase (s : State) (c slot : Nat) : Nat := recSieve (ctxRec s c) + slot * (recSieveMib (ctxRec s c) * 2 ^ 19)

/-- An unassigned address that a wide source meets: its read gives no data (R6), and the operand has no wide source. -/
def wideHole (e outer k : Nat) : Option Nat :=
  let t := wideTensor e outer k
  [t.addr, t.addr + t.size - 1].find? unassigned

/-- Such a read is logged (R6). -/
def noteWide (s : State) (o : Op) (addr outer : Nat) : State :=
  match (wideOf s (ctxRec s o.ctx) addr).bind (fun e => wideHole e outer (mK o.desc.toNat)) with
  | none => s
  | some a => logUnassigned s a (some o.ctx) (dOpId o.desc.toNat)

/-- Capture a sampled tile of operation `o` on An.ii, or drop it. How the slot's bytes are laid out is not stated (log 39). -/
def captureTile (s : State) (a ii tile : Nat) (o : Op) (rows cols : List Nat) (cIn : SMap Acc) : State :=
  let d := o.desc.toNat
  let r := ctxRec s o.ctx
  let k := mK d
  let fid := sieveFidelity s a
  let wa := if fid then (wideOf s r (mA d).addr).filter (fun e => (wideHole e (mM d) k).isNone) else none
  let wb := if fid then (wideOf s r (mB d).addr).filter (fun e => (wideHole e (mN d) k).isNone) else none
  let size := stripBytes (mA d) rows.length k + stripBytes (mB d) cols.length k + 8 * rows.length * cols.length
    + sentBytes d tile rows cols + wideBytes wa rows.length k + wideBytes wb cols.length k
  match freeSlot s o.ctx with
  | none => dropSample s a
  | some slot =>
    if recSieveMib r = 0 || recSieveMib r * 2 ^ 19 < size then dropSample s a
    else
      let skip := fid && wa.isNone && wb.isNone
      let cap : Capture :=
        { array := a, part := ii, ctx := o.ctx, slot := slot, tag := o.tag, opId := dOpId d, desc := o.desc, tile := tile,
          rows := rows, cols := cols,
          aStrip := rows.map (fun _ => []), bStrip := cols.map (fun _ => []),
          aWide := wa.map (fun e => rows.map (fun i => (List.range k).map (fun j => readWide s e (mM d) k i j))),
          bWide := wb.map (fun e => cols.map (fun c => (List.range k).map (fun j => readWide s e (mN d) k c j))),
          cIn := cIn, drained := [], sent := [], fidelity := fid && !skip,
          rows_left := rows.length, size := size, complete := false, exactDone := false, failed := none, firstEngine := a }
      let s0 := if fid then noteWide (noteWide s o (mA d).addr (mM d)) o (mB d).addr (mN d) else s
      let s1 := if skip then bumpSat32 s0 (0x6140 + o.ctx) 0x23 1 else s0
      let s2 := leaveOpen s1 (slotBase s o.ctx slot) size
      updOp { s2 with caps := s2.caps ++ [cap] } o.tag (fun p => { p with capsOut := p.capsOut + 1 })

/-- Offer an issuing tile to the sieve (R169). -/
def offerTile (s : State) (a ii tile : Nat) (o : Op) (rows cols : List Nat) (cIn : SMap Acc) : State :=
  if sieveOn s a then
    let hit := sieveSampled s a
    let s1 := if hit then captureTile s a ii tile o rows cols cIn else s
    bump s1 0x6124 (a + 1)
  else s

/-- Change the captures of one tile. -/
def updCap (s : State) (tag tile : Nat) (f : Capture → Capture) : State :=
  { s with caps := mapIf (fun c => c.tag == tag && c.tile == tile && !c.complete) f s.caps }

/-- The tap of a clay die whose enable bit is clear is released when no check is pending there (R180). -/
def releaseTaps (s : State) : State :=
  (List.range 2).foldl (fun t d =>
    if !(reg t 0x6120 1).testBit d && reg t 0x2030 (0x29 + d) == 1 && !t.caps.any (fun c => c.array / 2 == d) then
      setReg t 0x2030 (0x29 + d) 0 else t) s

/-- Discard the incomplete captures of an operation that satisfy `p` (R171). -/
def discardCaps (s : State) (tag : Nat) (p : Capture → Bool) : State :=
  let gone := s.caps.filter (fun c => c.tag == tag && !c.complete && p c)
  releaseTaps (updOp { s with caps := s.caps.filter (fun c => !(c.tag == tag && !c.complete && p c)) } tag
    (fun o => { o with capsOut := o.capsOut - gone.length }))

end Sys2Proof.Machine
end

