-- ==== Sys2Proof/Machine/Words.lean ====
section
/-! DEFINITION. The instruction word of a vector program (Table 6.2) and the checks on the words of a program before its
first instruction runs (R129). -/

namespace Sys2Proof.Machine

/-! The instruction word (Table 6.2). -/
def iOp (w : Nat) : Nat := fld w 7 0
def iDst (w : Nat) : Nat := fld w 9 8
def iSrc1 (w : Nat) : Nat := fld w 11 10
def iSrc2 (w : Nat) : Nat := fld w 13 12
def iKind2 (w : Nat) : Nat := fld w 15 14
def iSlot (w : Nat) : Nat := fld w 21 16
def iSreg (w : Nat) : Nat := fld w 26 22
def iMaskEn (w : Nat) : Bool := w.testBit 27
def iMaskSel (w : Nat) : Nat := fld w 29 28
def iSr (w : Nat) : Bool := w.testBit 30
def iIeee (w : Nat) : Bool := w.testBit 31
def iFmt (w : Nat) : Nat := fld w 35 32
def iScaled (w : Nat) : Bool := w.testBit 36
def iAxis (w : Nat) : Nat := fld w 37 37
def iDual (w : Nat) : Bool := w.testBit 38
def iPacked (w : Nat) : Bool := w.testBit 39
def iAr (w : Nat) : Nat := fld w 42 40
def iHead (w : Nat) : Nat := fld w 47 44
def iImm (w : Nat) : Nat := fld w 63 48

/-- The format of a conversion or memory instruction; `wordStatus` admits only pairs of Table 5.2. -/
def iFormat (w : Nat) : Fmt := (fmtOfCode (iFmt w) (iScaled w)).getD .fp32

/-- The word is of the conversion class of Table 6.3. -/
def isConv (w : Nat) : Bool := decide (0x60 ≤ iOp w) && decide (iOp w ≤ 0x6F)

/-- The word converts or moves elements in FMT: the conversion and memory classes of Table 6.3. -/
def usesFmt (w : Nat) : Bool := isConv w || (decide (0x90 ≤ iOp w) && decide (iOp w ≤ 0x9F))

/-- Is a word a SETS, whose next word is a literal (R129). -/
def isSets (w : Nat) : Bool := decide (iOp w < 16) && iOp w == Config.setsOpcode % 16

/-- Stream ids a descriptor may name (R58). -/
def streamOk (x : Nat) : Bool := x == 1 || x == 2 || decide (0x10000 ≤ x)

/-- A FMT, SCALED, AXIS and DUAL that do not go together: the pair is outside Table 5.2 (R27), an unscaled word names a
block axis, or DUAL lacks a row copy with scales (R34, R96, R100). The spec names no status for it; it is taken as a
reserved field value (DEDUCED, log 117). -/
def fmtBad (w : Nat) : Bool :=
  usesFmt w && (!scaledOk (iFmt w) (iScaled w) || (!iScaled w && (iAxis w != 0 || iDual w)) || (iDual w && iAxis w != 0))

/-- One instruction word (R129): OK, DESCRIPTOR_ERROR or MODE_ERROR. A program in a context's loam window is not one
that Gwevi supplied, so a microcode opcode in it is a MODE_ERROR (DEDUCED, log 117). -/
def wordStatus (w : Nat) : Nat :=
  if (decide (0xA0 ≤ iOp w) && decide (iOp w < 0xF0)) || w.testBit 43 || decide (11 ≤ iFmt w) || fmtBad w then stDescriptor
  else if decide (0xF0 ≤ iOp w) then stMode
  else stOk

/-- The words of a program in order, literals skipped (R129); the first failing status. -/
def programStatus : List Nat → Nat
  | [] => stOk
  | w :: l =>
    if wordStatus w ≠ 0 then wordStatus w
    else if isSets w then
      match l with
      | [] => stDescriptor
      | x :: l => if x / 2 ^ 32 ≠ 0 then stDescriptor else programStatus l
    else programStatus l

/-- Does some instruction word satisfy `p`; literals are skipped. -/
def anyWord (p : Nat → Bool) : List Nat → Bool
  | [] => false
  | w :: l =>
    if p w then true
    else if isSets w then
      match l with
      | [] => false
      | _ :: l => anyWord p l
    else anyWord p l

/-- The words of a program in loam. -/
def programWords (s : State) (base len : Nat) : List Nat := (List.range len).map (fun i => memVal s (base + 8 * i) 8)

/-- A conversion or store that rounds stochastically. -/
def wordSr (w : Nat) : Bool := usesFmt w && iSr w

/-- The status of a program's words under a stream id: a stochastic word needs an id of R58. -/
def wordsStatus (stream : Nat) (l : List Nat) : Nat :=
  if anyWord wordSr l && !streamOk stream then stDescriptor else programStatus l

end Sys2Proof.Machine
end

