-- ==== Sys2Proof/Machine/Matrix.lean ====
section
/-! DEFINITION. Matrix operations (ch. 05) and the partitions that run them (R62 to R81): the checks of R105, tiles,
waves, drains and the output stage. -/

namespace Sys2Proof.Machine

/-! Partitions. -/

def Partition.idle : Partition :=
  { ops := [], inRun := false, begun := false, startup := 0, cross := 0, flights := [], drain := [], stage := [], group := [] }

/-- Key of An.ii. -/
abbrev pkey (a ii : Nat) : Nat := 16 * a + ii

def partOf (s : State) (k : Nat) : Partition := SMap.get s.parts k Partition.idle

def setPart (s : State) (k : Nat) (p : Partition) : State := { s with parts := SMap.set s.parts k p Partition.idle }

/-- Nothing in the partition. -/
def Partition.empty (p : Partition) : Bool :=
  p.ops.isEmpty && p.flights.isEmpty && p.drain.isEmpty && p.stage.isEmpty && p.group.isEmpty

/-- The idle condition of R74. -/
def arrayIdle (s : State) (a : Nat) : Bool :=
  (List.range 16).all (fun ii => (partOf s (pkey a ii)).empty)
    && !s.ops.any (fun o => o.kind == .matrix && mArray o.desc.toNat == a && !o.ended)

/-- Source 4:(8n + 4) follows ARRAY_IDLE. -/
def showIdle (s : State) (a : Nat) : State := setCond s (src 4 (8 * a + 4)) (arrayIdle s a)

/-! Checks before the first wave (Table 5.3). -/

/-- DESCRIPTOR_ERROR: version, reserved values and bits, stream ids of R58. -/
def matDescriptorBad (d : Nat) : Bool :=
  dVersion d != 1 || qf d 1 23 22 != 0 || decide (2 ≤ mRound d) || mDest d == 3 || mMode d == 3
    || qf d 4 63 51 != 0 || qf d 6 63 51 != 0 || qf d 8 63 50 != 0 || qf d 11 63 60 != 0
    || decide (11 ≤ mAFmt d) || decide (11 ≤ mBFmt d) || decide (11 ≤ mDFmt d)
    || (mRound d == 1 && !streamOk (mStream d))

/-- PARTITION_ERROR. -/
def matPartitionBad (s : State) (q d : Nat) : Bool :=
  mArray d != qUnit (qCfg s q) || mPart d != qPart (qCfg s q) || mMode d != partMode s (mArray d)
    || !partExists s (mArray d) (mPart d) || partRetired s (mArray d) (mPart d)

/-- One operand's format rules (R95, R96, R30). -/
def operandBad (d n : Nat) : Bool :=
  let scaled := qf d n 48 48 == 1
  qf d n 47 44 == 10 || !scaledOk (qf d n 47 44) scaled
    || (if scaled then qf d n 50 50 != qf d n 49 49 else qf d n 50 50 != 0)

/-- A mask that covers part of a 32-position block (R78). -/
def partialMask (mask n : Nat) : Bool :=
  (List.range (ceilDiv n 32)).any (fun b =>
    let l := (List.range (min 32 (n - 32 * b))).map (fun i => mask.testBit (32 * b + i))
    l.any id && !l.all id)

/-- Bitmaps inside the window, so that they can be read. -/
def masksInside (r d : Nat) : Bool :=
  (!mRowMask d || inLoamWin r (mMaskAddr d) (ceilDiv (mM d) 8))
    && (!mColMask d || inLoamWin r (colMaskAddr d) (ceilDiv (mN d) 8))

/-- Address of the epilogue-table entry (R125) and the entry. -/
def epiAddr (r d : Nat) : Nat := recEpi r + 64 * mEpi d
def epiEntry (s : State) (r d : Nat) : Nat := memVal s (epiAddr r d) 64
def epiInside (r d : Nat) : Bool := recEpi r != 0 && inLoamWin r (epiAddr r d) 64

def eProg (e : Nat) : Nat := qf e 0 43 0
def eLen (e : Nat) : Nat := qf e 0 59 44
def eRowWide (e : Nat) : Bool := qf e 0 60 60 == 1
def eSave (e : Nat) : Bool := qf e 0 61 61 == 1
def eStat (e : Nat) : Nat := qf e 1 43 0
def eSpillKib (e : Nat) : Nat := qf e 1 63 44
def eSpill (e : Nat) : Nat := qf e 2 43 0

/-- The words of the epilogue program of a DEST = 1 descriptor, as far as entry and program lie in the window (R129). -/
def epiStatus (s : State) (r d : Nat) : Nat :=
  let e := epiEntry s r d
  if mDest d = 1 && epiInside r d && inLoamWin r (eProg e) (8 * eLen e) then
    wordsStatus (mStream d) (programWords s (eProg e) (eLen e)) else stOk

/-- Dispatch meets poison in the entry or its program. -/
def epiPoisoned (s : State) (r d : Nat) : Bool :=
  mDest d == 1 && (rangePoisoned s (epiAddr r d) 64
    || rangePoisoned s (eProg (epiEntry s r d)) (8 * eLen (epiEntry s r d)))

/-- DESCRIPTOR_ERROR of the entry itself: a reserved bit set, or a program of no words (Table 6.5). -/
def epiFieldsBad (s : State) (r d : Nat) : Bool :=
  let e := epiEntry s r d
  mDest d == 1 && epiInside r d && (qf e 0 63 62 != 0 || qf e 2 63 44 != 0 || qf e 4 63 44 != 0
    || qf e 5 63 0 != 0 || qf e 6 63 0 != 0 || qf e 7 63 0 != 0 || eLen e == 0)

/-- Staging bytes of a partition (R126). -/
def stagingBytes (p : Nat) : Nat := 3 * (4 * p * p)

/-- R126: a row-wide program needs ROW_MAJOR and a stripe that fits staging and spill. -/
def epiFormatBad (e d : Nat) : Bool :=
  eRowWide e && (mColMajor d
    || decide (stagingBytes (sideOf (mMode d)) + 1024 * eSpillKib e < 4 * sideOf (mMode d) * mN d))

/-- FORMAT_ERROR. -/
def matFormatBad (s : State) (r d : Nat) : Bool :=
  operandBad d 4 || operandBad d 6 || classOf (mAFmt d) != classOf (mBFmt d)
    || !scaledOk (mDFmt d) (mDScaled d) || (!mDScaled d && mDAxis d != 0)
    || (mDual d && (!mDScaled d || mDAxis d != 0))
    || (mDest d == 2 && (decide (3 ≤ mDFmt d) || mDScaled d || qf d 8 43 0 != 0 || qf d 10 43 0 != 0 || mAccIn d
          || mDual d || ((mRowMask d || mColMask d) && !mZeroMasked d)))
    || (mDScaled d && !mZeroMasked d && masksInside r d
          && (((mDual d || mDAxis d == 0) && partialMask (readColMask s d) (mN d))
            || ((mDual d || mDAxis d == 1) && partialMask (readRowMask s d) (mM d))))
    || (mDest d == 1 && epiInside r d && epiFormatBad (epiEntry s r d) d)

/-- A tensor that is misaligned, whose lines are longer than its pitch, or that is not wholly inside the window. -/
def tensorBad (r : Nat) (t : Tensor) : Bool :=
  t.addr % 64 != 0 || (t.scaled && t.scale % 64 != 0) || (t.lines != 0 && decide (64 * t.pitch < t.lineBytes))
    || (t.size != 0 && !inLoamWin r t.addr t.size)
    || (t.scaleSize != 0 && !inLoamWin r t.scale t.scaleSize)

/-- The program, records and spill area of an epilogue entry (R125). -/
def epiBad (s : State) (r d : Nat) : Bool :=
  let e := epiEntry s r d
  !epiInside r d || !inLoamWin r (eProg e) (8 * eLen e)
    || (eSave e && mM d != 0 && !inLoamWin r (eStat e) (8 * mM d))
    || (eSpillKib e != 0 && !inLoamWin r (eSpill e) (1024 * eSpillKib e))

/-- ADDRESS_ERROR. -/
def matAddressBad (s : State) (r d : Nat) : Bool :=
  tensorBad r (mA d) || tensorBad r (mB d) || (mDest d != 2 && tensorBad r (mD d)) || (mDual d && tensorBad r (mD2 d))
    || (mAccIn d && tensorBad r (mAcc d))
    || ((mRowMask d || mColMask d) && (mMaskAddr d % 64 != 0 || !masksInside r d))
    || (mDest d == 1 && epiBad s r d)

/-- The first failing status of Table 5.3, in table order (R83, R105, R125, R129, R313). The bitmaps that the format
check reads are read again when the partition begins (R98): a change in between is not checked again (DESIGN CHOICE, log 110). -/
def matCheck (s : State) (q ctx d : Nat) : Nat :=
  let r := ctxRec s ctx
  if (2 ≤ dOpcode d && dOpcode d < 0x80) || matDescriptorBad d || epiFieldsBad s r d || epiStatus s r d == stDescriptor then
    stDescriptor
  else if 0x80 ≤ dOpcode d || epiStatus s r d == stMode then stMode
  else if matPartitionBad s q d then stPartition
  else if matFormatBad s r d then stFormat
  else if matAddressBad s r d then stAddress
  else if epiPoisoned s r d then stHwFault
  else stOk

/-! The operation at the front of a partition. -/

/-- Active rows and columns of tile t under the masks read at the start (R77). -/
def actRows (o : Op) (t : Nat) : List Nat := activeOf (tileRows o.desc.toNat (sideOf (mMode o.desc.toNat)) t) o.rowMask
def actCols (o : Op) (t : Nat) : List Nat := activeOf (tileCols o.desc.toNat (sideOf (mMode o.desc.toNat)) t) o.colMask

def opTiles (o : Op) : Nat := tileCount o.desc.toNat (sideOf (mMode o.desc.toNat))

def tileActive (o : Op) (t : Nat) : Bool := !(actRows o t).isEmpty && !(actCols o t).isEmpty

/-- The tiles that issue waves or, with K = 0, have positions to write (R77). -/
def activeTiles (o : Op) : List Nat := (List.range (opTiles o)).filter (tileActive o)

/-- W of R75. -/
def wavesOf (o : Op) (startsRun : Bool) : Nat :=
  let d := o.desc.toNat
  let l := activeTiles o
  match l with
  | [] => 0
  | t :: _ =>
    let a1 := (actRows o t).length
    (if startsRun then a1 + (actCols o t).length - 2 + (if mAccIn d then a1 else 0) else 0)
      + l.foldl (fun n t => n + max (kWaves (classOf (mAFmt d)) (mK d)) (actRows o t).length) 0
      + (actRows o (l.getLast?.getD t)).length

/-- Key of a cell's output position. -/
abbrev ckey (row col : Nat) : Nat := row * 2 ^ 20 + col

/-- Initial accumulators of a tile: the accumulate-in values widened (R36, R68), or +0. -/
def accInit (s : State) (o : Op) (t : Nat) : SMap Acc :=
  let d := o.desc.toNat
  let v := operandView s o
  (actRows o t).flatMap (fun i => (actCols o t).map (fun j =>
    (ckey i j, if mAccIn d then widen ((mAcc d).read v i j) else Acc.zero)))

/-- Does the accumulate-in tile meet poison. -/
def accPoisoned (s : State) (o : Op) (t : Nat) : Bool :=
  let d := o.desc.toNat
  mAccIn d && (actRows o t).any (fun i => (actCols o t).any (fun j => (mAcc d).poisonAt s i j))

/-- The drained rows of a tile, bottom row first (R66). -/
def drainRows (o : Op) (t : Nat) (acc : SMap Acc) : List OutRow :=
  let rows := actRows o t
  let cols := actCols o t
  rows.reverse.map (fun i =>
    { tag := o.tag, tile := t, row := i, last := rows.head? == some i,
      vals := cols.map (fun j => (j, SMap.get acc (ckey i j) Acc.zero)) })

/-- A row of no values stands for a tile without active positions, whose zeros are still to be written (R77, R102). -/
def markRow (o : Op) (t : Nat) : OutRow := { tag := o.tag, tile := t, row := 0, last := true, vals := [] }

/-- Tiles from t0 on that only write zeros, up to the next active tile. -/
def passedTiles (o : Op) (t0 : Nat) : List Nat :=
  ((List.range (opTiles o)).drop t0).takeWhile (fun t => !tileActive o t)

/-- The zeros of the tiles passed over, when ZERO_MASKED asks for them. -/
def marks (o : Op) (t0 : Nat) : List OutRow :=
  if mZeroMasked o.desc.toNat then (passedTiles o t0).map (markRow o) else []

/-- Is any row of an operation still on its way out. -/
def rowsLeft (s : State) (tag : Nat) : Bool :=
  s.parts.any (fun e => e.2.ops.contains tag || e.2.flights.any (fun f => f.tag == tag) || (e.2.drain ++ e.2.stage ++ e.2.group).any (fun r => r.tag == tag))
    || s.engines.any (fun e => e.2.staging.any (fun x => x.tag == tag)
        || (match e.2.epi with
            | some g => g.tag == some tag
            | none => false))

/-- When nothing of an operation is left to compute or to write, it has ended (R104, R106): WAVES_USED is W of R75 and the
feed stalls for a completed one, the waves started for a stopped one; energy and stalls are free values (log 3). -/
def finishIfDone (s : State) (tag : Nat) : State :=
  if rowsLeft s tag then s
  else
    nextFree (updOp s tag (fun o =>
      if o.ended then o
      else { o with ended := true, energy := Config.energyEstimate s.freeCtr,
                    waves := if o.status = 0 then (if o.planned = 0 then 0 else o.planned + Config.feedStalls s.freeCtr)
                      else o.waves }))

/-- A dW contribution has stopped at tile t (R106): its bucket notes it, or it waits for the bucket to be posted. -/
def noteStop (s : State) (comm num t : Nat) : State :=
  if s.buckets.any (fun b => b.comm == comm && b.number == num) then
    { s with buckets := mapIf (fun b => b.comm == comm && b.number == num) (fun b => { b with stopTile := some t }) s.buckets }
  else { s with fab := { s.fab with stops := s.fab.stops ++ [(comm, num, t)] } }

/-- The first tile of an operation whose drain has not begun: the one being fed. A tile whose feed is over has swapped
registers in its first cell (R66), so its drain has begun (DEDUCED, log 36). -/
def stopPoint (p : Partition) (o : Op) : Nat :=
  if p.ops.head? == some o.tag && p.begun then (p.flights.getLast?.map Flight.tile).getD 0
  else if p.ops.contains o.tag then 0 else opTiles o

/-- Stop an operation by R106 from tile t on: nothing more of it enters, tile t and those behind it are discarded, the
tiles before it drain completely. A dW contribution marks its bucket with the tile (R295). One that has ended and waits
for its captures takes the status too (R104, R108). -/
def stopAt (s : State) (tag st t : Nat) : State :=
  match findOp s tag with
  | none => s
  | some o =>
    if o.ended then
      if o.capsOut = 0 then s
      else discardCaps (updOp s tag (fun x => if x.status = 0 then { x with status := st } else x)) tag (fun _ => true)
    else
      let k := pkey (mArray o.desc.toNat) (mPart o.desc.toNat)
      let p := partOf s k
      let front := p.ops.head? == some tag && p.begun
      let s1 := discardCaps s tag (fun c => decide (t ≤ c.tile))
      let p1 := { p with ops := p.ops.erase tag, flights := p.flights.filter (fun f => f.tag != tag || decide (f.tile < t)) }
      let s2 := setPart s1 k (if front then { p1 with begun := false, startup := 0 } else p1)
      let s3 := updOp s2 tag (fun x => if x.status = 0 then { x with status := st } else x)
      let s4 := if mDest o.desc.toNat = 2 then noteStop s3 (mComm o.desc.toNat) (mBucket o.desc.toNat) t else s3
      finishIfDone s4 tag

/-- Stop an operation by R106 where it stands. -/
def stopMatrix (s : State) (tag st : Nat) : State :=
  match findOp s tag with
  | none => s
  | some o => stopAt s tag st (stopPoint (partOf s (pkey (mArray o.desc.toNat) (mPart o.desc.toNat))) o)

/-- The waves of a tile: Kw, and no fewer than its active rows (R67, R75); none without active positions. -/
def tileWaves (o : Op) (t : Nat) : Nat :=
  if tileActive o t then max (kWaves (classOf (mAFmt o.desc.toNat)) (mK o.desc.toNat)) (actRows o t).length else 0

/-- Where the sub-wave that begins with tile t ends (R316): whole tiles whose waves do not exceed SUBWAVE_WAVES, the rest
of an operation that declares no more. -/
def subWaveEnd (s : State) (o : Op) (t : Nat) : Nat :=
  if dWork o.desc.toNat ≤ reg s 0x2020 1 then opTiles o
  else (((List.range (opTiles o)).drop (t + 1)).foldl (fun (e : Nat × Nat × Bool) x =>
    if e.2.2 && decide (e.2.1 + tileWaves o x ≤ reg s 0x2020 1) then (x + 1, e.2.1 + tileWaves o x, true)
    else (e.1, e.2.1, false)) (t + 1, tileWaves o t, true)).1

/-- The queues to be served before an operation's next sub-wave is issued (R316): every other eligible queue of its array,
until its head has moved on or it is eligible no longer. -/
def turnLeft (s : State) (o : Op) : SMap Nat :=
  let other (q : Nat) : Bool :=
    q != o.queue && qKind (qCfg s q) == 0 && qUnit (qCfg s q) == mArray o.desc.toNat && dispatchable s q
  match o.turn with
  | none => ((List.range 64).filter other).map (fun q => (q, qHead s q))
  | some l => l.filter (fun e => other e.1 && qHead s e.1 == e.2)

/-- Begin tile t of the front operation: its accumulators, and its offer to the sieve before the first operand request
(R170). -/
def beginTile (s : State) (a ii t : Nat) (o : Op) : State :=
  let k := pkey a ii
  if accPoisoned s o t then stopAt s o.tag stHwFault t
  else
    let acc := accInit s o t
    let f : Flight := { tag := o.tag, tile := t, fed := 0, rows := actRows o t, cols := actCols o t, acc := acc,
                        slices := [], cross := (partOf s k).cross }
    let s1 := setPart s k { partOf s k with flights := (partOf s k).flights ++ [f] }
    offerTile s1 a ii t o (actRows o t) (actCols o t) (if mAccIn o.desc.toNat then acc else [])

/-- Rows that an operation without waves writes: its active tiles up to one whose accumulate-in tile is poisoned, and
the zeros of ZERO_MASKED (R79, R81, R106). -/
def zeroWaveRows (s : State) (o : Op) : List OutRow :=
  let l := (List.range (opTiles o)).takeWhile (fun t => !(tileActive o t && accPoisoned s o t))
  l.flatMap (fun t =>
    if tileActive o t then drainRows o t (accInit s o t)
    else if mZeroMasked o.desc.toNat then [markRow o t] else [])

/-- Begin the front operation of a partition when it can begin; it may end at once (R79, R81, R103). -/
def beginOp (s : State) (a ii : Nat) : State :=
  let k := pkey a ii
  let p := partOf s k
  match p.ops.head? with
  | none => s
  | some tag =>
    match findOp s tag with
    | none => setPart s k { p with ops := p.ops.drop 1 }
    | some o0 =>
      let d := o0.desc.toNat
      if p.begun then s
      else if dOpcode d = 0 then finishIfDone (setPart s k { p with ops := p.ops.drop 1 }) tag
      else
        let o1 := { o0 with rowMask := readRowMask s d, colMask := readColMask s d, before := sharedBytes s d }
        let none_ := mM d == 0 || mN d == 0
        let emp := none_ || (activeTiles o1).isEmpty
        let noWaves := emp || mK d == 0
        let o2 := { o1 with zeroK := mK d == 0, empty := emp, planned := if noWaves then 0 else wavesOf o1 (!p.inRun) }
        if noWaves then
          -- what is to be written goes straight to the output stage, behind what still computes and drains
          if !p.drain.isEmpty || !p.flights.isEmpty then s
          else
            let rows := if none_ then [] else zeroWaveRows s o2
            let bad := !none_ && (activeTiles o2).any (accPoisoned s o2)
            let s1 := updOp s tag (fun _ => if bad then { o2 with status := stHwFault } else o2)
            finishIfDone (setPart s1 k { p with ops := p.ops.drop 1, stage := p.stage ++ rows }) tag
        else
          let t := (activeTiles o2).headD 0
          let s1 := updOp s tag (fun _ => { o2 with subEnd := subWaveEnd s o2 t })
          let s2 := setPart s1 k { p with
            begun := true
            inRun := true
            startup := if !p.inRun && mAccIn d then (actRows o2 t).length else 0
            cross := if p.inRun then p.cross else (actRows o2 t).length + (actCols o2 t).length - 2
            drain := p.drain ++ marks o2 0 }
          beginTile s2 a ii t o2

/-- Begin operations at the front until one computes. -/
def settle : Nat → State → Nat → Nat → State
  | 0, s, _, _ => s
  | n + 1, s, a, ii =>
    let p := partOf s (pkey a ii)
    if p.ops.isEmpty || p.begun then s else settle n (beginOp s a ii) a ii

def settlePart (s : State) (a ii : Nat) : State :=
  showIdle (settle ((partOf s (pkey a ii)).ops.length + 1) s a ii) a

/-- Stop an operation, and begin what stands behind it. -/
def stopMatrixGo (s : State) (tag st : Nat) : State :=
  match findOp s tag with
  | none => s
  | some o => settlePart (stopMatrix s tag st) (mArray o.desc.toNat) (mPart o.desc.toNat)

/-! Waves (R62 to R68). -/

/-- The k positions of wave w. -/
def waveKs (d w : Nat) : List Nat :=
  let kr := kRange (classOf (mAFmt d)) (mK d) w
  (List.range (kr.2 - kr.1)).map (· + kr.1)

/-- The operand groups at the west and north edges: lanes beyond K are absent (R64). -/
def rowGroup (s : State) (o : Op) (w i : Nat) : List FVal :=
  (waveKs o.desc.toNat w).map (fun k => readA (operandView s o) o.desc.toNat i k)
def colGroup (s : State) (o : Op) (w j : Nat) : List FVal :=
  (waveKs o.desc.toNat w).map (fun k => readB (operandView s o) o.desc.toNat k j)

/-- The groups that enter with the slice at its age. -/
def Slice.enter (s : State) (o : Op) (f : Flight) (x : Slice) : Slice :=
  { x with a := (match f.rows[x.age]? with
                  | some i => SMap.put x.a x.age (rowGroup s o x.wave i)
                  | none => x.a)
           b := (match f.cols[x.age]? with
                  | some j => SMap.put x.b x.age (colGroup s o x.wave j)
                  | none => x.b) }

/-- Would they meet poison. -/
def Slice.poisoned (s : State) (o : Op) (f : Flight) (x : Slice) : Bool :=
  let d := o.desc.toNat
  (match f.rows[x.age]? with
    | some i => (waveKs d x.wave).any (fun k => poisonA s d i k)
    | none => false)
  || (match f.cols[x.age]? with
    | some j => (waveKs d x.wave).any (fun k => poisonB s d k j)
    | none => false)

/-- The cells (r, c) in which the slice's groups meet: r + c = age. Each completes its reference groups (R44, R63). -/
def Slice.compute (g : Nat) (f : Flight) (x : Slice) (acc : SMap Acc) : SMap Acc :=
  (List.range (x.age + 1)).foldl (fun m r =>
    match f.rows[r]?, f.cols[x.age - r]? with
    | some i, some j =>
      SMap.put m (ckey i j) (dot g (SMap.get m (ckey i j) Acc.zero) (SMap.get x.a r []) (SMap.get x.b (x.age - r) []))
    | _, _ => m) acc

/-- Has the slice met in the last cell. -/
def Slice.over (f : Flight) (x : Slice) : Bool := decide (f.rows.length + f.cols.length ≤ x.age + 2)

/-- The waves that an operation's tile in the cells feeds (R67, R75). -/
def feedWaves (o : Op) (f : Flight) : Nat := max (kWaves (classOf (mAFmt o.desc.toNat)) (mK o.desc.toNat)) f.rows.length

/-- The slices of a flight in the next wave: those under way one cell further, and with `feed` the next one of K. -/
def nextSlices (o : Op) (feed : Bool) (f : Flight) : List Slice :=
  f.slices.map (fun x => { x with age := x.age + 1 })
    ++ (if feed && decide (f.fed < kWaves (classOf (mAFmt o.desc.toNat)) (mK o.desc.toNat))
        then [{ wave := f.fed, age := 0, a := [], b := [] }] else [])

/-- One wave of a flight. -/
def waveFlight (s : State) (o : Op) (feed : Bool) (f : Flight) : Flight :=
  let l := (nextSlices o feed f).map (Slice.enter s o f)
  { f with fed := if feed then f.fed + 1 else f.fed
           cross := if feed then f.cross else f.cross - 1
           acc := l.foldl (fun m x => x.compute (groupSize (classOf (mAFmt o.desc.toNat))) f m) f.acc
           slices := l.filter (fun x => !x.over f) }

/-- Would a wave of the flight meet poison. -/
def flightPoisoned (s : State) (o : Op) (feed : Bool) (f : Flight) : Bool :=
  (nextSlices o feed f).any (Slice.poisoned s o f)

/-- Is flight number i of the partition the one being fed. -/
def isFed (p : Partition) (i : Nat) : Bool := p.begun && i + 1 == p.flights.length

/-- The flights with their numbers. -/
def numbered (p : Partition) : List (Nat × Flight) := (List.range p.flights.length).zip p.flights

/-- Operations whose next wave would meet poison, each with the first tile that would. -/
def poisonedTiles (s : State) (p : Partition) : List (Nat × Nat) :=
  (numbered p).filterMap (fun x => match findOp s x.2.tag with
    | some o => if flightPoisoned s o (isFed p x.1) x.2 then some (x.2.tag, x.2.tile) else none
    | none => none)

/-- The groups that a captured tile's operands gain in this wave (R171). -/
def captureFeed (s : State) (o : Op) (feed : Bool) (f : Flight) : State :=
  (nextSlices o feed f).foldl (fun t x => updCap t f.tag f.tile (fun c =>
    { c with aStrip := (match f.rows[x.age]? with
               | some i => c.aStrip.modify x.age (· ++ rowGroup s o x.wave i)
               | none => c.aStrip)
             bStrip := (match f.cols[x.age]? with
               | some j => c.bStrip.modify x.age (· ++ colGroup s o x.wave j)
               | none => c.bStrip) })) s

/-- Every flight of a partition one wave on. -/
def moveFlights (s : State) (k : Nat) : State :=
  let p := partOf s k
  let s1 := (numbered p).foldl (fun t x => match findOp s x.2.tag with
    | some o => captureFeed t o (isFed p x.1) x.2
    | none => t) s
  setPart s1 k { p with flights := (numbered p).map (fun x => match findOp s x.2.tag with
    | some o => waveFlight s o (isFed p x.1) x.2
    | none => x.2) }

/-- The tile being fed has had its waves: the next tile of the operation begins, or the next operation (R66, R99). The
first tile of a further sub-wave waits for its turn (R316). -/
def nextTile (s : State) (a ii : Nat) : State :=
  let k := pkey a ii
  let p := partOf s k
  match p.begun, p.flights.getLast? with
  | true, some f =>
    match findOp s f.tag with
    | none => s
    | some o =>
      if f.fed < feedWaves o f then s
      else
        match (activeTiles o).filter (fun t => decide (f.tile < t)) with
        | t :: _ =>
          if t < o.subEnd then beginTile s a ii t o
          else
            let l := turnLeft s o
            if l.isEmpty then beginTile (updOp s o.tag (fun x => { x with subEnd := subWaveEnd s o t, turn := none })) a ii t o
            else updOp s o.tag (fun x => { x with turn := some l })
        | [] => settlePart (setPart s k { p with begun := false, ops := p.ops.drop 1 }) a ii
  | _, _ => s

/-- The oldest tile is complete in its last cell, the crossing time of the run has passed behind its feed (R75), and the
drain is clear: its registers swap (R66, R67). A tile larger than the first of its run takes the longer crossing of its
own groups (log 36). -/
def swapTile (s : State) (a ii : Nat) : State :=
  let k := pkey a ii
  let p := partOf s k
  match p.flights with
  | [] => s
  | f :: l =>
    if p.drain.isEmpty && f.slices.isEmpty && f.cross == 0 && !isFed p 0 then
      match findOp s f.tag with
      | none => setPart s k { p with flights := l }
      | some o => setPart s k { p with flights := l, drain := drainRows o f.tile f.acc ++ marks o (f.tile + 1) }
    else s

/-- One drain step: the next row enters the output stage, with the markers behind it. -/
def drainStep (p : Partition) : Partition :=
  match p.drain with
  | [] => p
  | r :: l =>
    let m := l.takeWhile (fun x => x.vals.isEmpty)
    { p with drain := l.drop m.length, stage := p.stage ++ (r :: m) }

/-- The output stage can take a row of the partition (R69, R71). Its buffers hold 32 rows that wait for the destination,
beside the rows of the group being formed (DESIGN CHOICE, log 36). -/
def stageRoom (p : Partition) : Bool := p.drain.isEmpty || decide (p.stage.length < 32)

/-- May a wave start in An.ii (R62, R67, R375, R376). -/
def waveReady (s : State) (a ii : Nat) : Bool :=
  let p := partOf s (pkey a ii)
  stepsRun s && partExists s a ii && !arrayBusyHeld s a && (p.begun || !p.flights.isEmpty || !p.drain.isEmpty) && stageRoom p
    && (match (arrayOf s a).skewUntil with
        | none => true
        | some t => decide (t ≤ now s))

/-- The compute part of a wave: an operation that meets poison stops, accumulate-in values take their waves (R68), the
groups move on, and tiles begin and end. -/
def computeWave (s : State) (a ii : Nat) : State :=
  let k := pkey a ii
  if 0 < (partOf s k).startup then setPart s k { partOf s k with startup := (partOf s k).startup - 1 }
  else
    match poisonedTiles s (partOf s k) with
    | [] => swapTile (nextTile (moveFlights s k) a ii) a ii
    | l => settlePart (l.foldr (fun x t => stopAt t x.1 stHwFault x.2) s) a ii

/-- The operation being fed in a partition. -/
def frontOp (s : State) (k : Nat) : Option Op :=
  if (partOf s k).begun then (match (partOf s k).ops.head? with
    | none => none
    | some t => findOp s t) else none

/-- A run ends when the partition has nothing more to compute or drain (R75). -/
def endRun (s : State) (k : Nat) : State :=
  let p := partOf s k
  if p.ops.isEmpty && p.flights.isEmpty && p.drain.isEmpty then setPart s k { p with inRun := false } else s

/-- The operations in the cells or the drain of a partition. -/
def waveTags (p : Partition) : List Nat := (p.flights.map Flight.tag ++ p.drain.map OutRow.tag).eraseDups

/-- What every wave counts (R67, R90, R371). -/
def countWave (s : State) (a ii : Nat) : State :=
  let k := pkey a ii
  let u := arrayOf s a
  let s1 := markActive (bump (setArray s a { u with lastWave := now s
                                                    recent := SMap.set u.recent ii (addRecent (SMap.get u.recent ii []) (now s) 1) [] })
    (0x2200 + a) 7) a
  let s2 := (waveTags (partOf s k)).foldl (fun t x => updOp t x (fun o => { o with waves := o.waves + 1 })) s1
  match frontOp s2 k with
  | none => s2
  | some o =>
    { s2 with power := { s2.power with phases := SMap.set s2.power.phases k (1 + dPhase o.desc.toNat + 256 * o.ctx) 0 } }

/-- One wave of An.ii: a drain step and a compute step (R62 to R68). -/
def waveEffect (s : State) (a ii : Nat) : State :=
  if waveReady s a ii then
    let k := pkey a ii
    let s1 := countWave s a ii
    let s2 := computeWave (setPart s1 k (drainStep (partOf s1 k))) a ii
    let s3 := if (partOf s2 k).begun then s2 else settlePart s2 a ii
    showIdle (endRun { s3 with freeCtr := s3.freeCtr + 2 ^ 50 } k) a
  else s

/-! The output stage. -/

/-- Flip the bits of an upset value. -/
def upsetAcc (ups : List Upset) (row col : Nat) (v : Acc) : Acc :=
  ups.foldl (fun x u => if u.row = row && u.col = col then
    { bits := x.bits ^^^ u.mask.truncate 48, ovf := x.ovf != u.mask.getLsbD 48 } else x) v

def upsetRow (ups : List Upset) (r : OutRow) : OutRow :=
  { r with vals := r.vals.map (fun v => (v.1, upsetAcc ups r.row v.1 v.2)) }

/-- Upsets of sent values: columns of 2^20 and above. -/
def upsetPiece (ups : List Upset) : Piece → Piece
  | .elem c r k v => .elem c r k (ups.foldl (fun x u =>
      if u.row = r && u.col = 2 ^ 20 + k then x ^^^ u.mask.toNat % 2 ^ 32 else x) v)
  | .block c r k sc l => .block c r k (ups.foldl (fun x u =>
      if u.row = r && u.col = 2 ^ 20 + k then x ^^^ u.mask.toNat % 2 ^ 8 else x) sc) l

/-- What the captured tile keeps of a row and its pieces. -/
def noteCapture (s : State) (r : OutRow) (ps : List Piece) (f : Fmt) (cs : List Count) : State :=
  updCap s r.tag r.tile (fun c => { c with
    drained := r.vals.foldl (fun m v => SMap.put m (ckey r.row v.1) v.2) c.drained
    sent := capCounts (ps.foldl (fun m x => SMap.put m (x.entry f).1 (x.entry f).2) c.sent) cs
    rows_left := if r.vals.isEmpty then c.rows_left else c.rows_left - 1 })

/-- The zeros of masked rows of a tile, sent with its last row under ZERO_MASKED (R76). -/
def maskedPieces (s : State) (o : Op) (t : Nat) : List Piece :=
  let d := o.desc.toNat
  let p := sideOf (mMode d)
  if mZeroMasked d then
    let rows := (tileRows d p t).filter (fun i => tileActive o t == false || o.rowMask.testBit i)
    let cols := tileCols d p t
    let a := if mDScaled d && mDAxis d == 1 then [] else rows.map (fun i => (rowPieces s o cols i []).1)
    let gs := ((rows.map (· / 32)).eraseDups).filter (fun g =>
      (tileRows d p t).all (fun i => i / 32 != g || rows.contains i))
    let b := if needsGroup d then gs.map (fun g => (groupPieces s o (mDual d) cols g []).1) else []
    (a ++ b).flatten
  else []

/-- An engine that has done nothing. -/
def Engine.fresh : Engine :=
  { tb := [], tags := [], slots := [], slotKind := [], argRun := [], shared := none, masks := [], bankE := ⟨[], []⟩, bankP := ⟨[], []⟩, epi := none, run := none,
    queue := [], staging := [], winSteps := 0, winSieve := 0, winUpdate := 0, missed := false, recent := [] }

def engineOf (s : State) (n : Nat) : Engine := SMap.get s.engines n Engine.fresh

def setEngine (s : State) (n : Nat) (e : Engine) : State := { s with engines := SMap.set s.engines n e Engine.fresh }

/-- Room for a row in epilogue staging (R126): three tiles of a partition, or what staging and spill area hold of
stripes. -/
def stagingRoom (s : State) (a ii : Nat) (o : Op) (r : OutRow) : Bool :=
  let rows := (engineOf s a).staging.filter (fun x => x.part == pkey a ii)
  let mine := (rows.map (fun x => (x.tag, x.tile))).eraseDups
  if eRowWide o.epi.toNat then
    decide ((rows.map (fun x => 4 * x.vals.length)).sum + 4 * r.vals.length
      ≤ stagingBytes (sideOf (mMode o.desc.toNat)) + 1024 * eSpillKib o.epi.toNat)
  else mine.contains (o.tag, r.tile) || decide (mine.length < 3)

/-- Take the first row out of a partition's stage. -/
def takeStage (s : State) (k : Nat) : State := setPart s k { partOf s k with stage := (partOf s k).stage.drop 1 }

/-- A row of an operation with DEST = 0: convert, count, store (R69). Groups of 32 rows are held until complete. -/
def stageLoam (s : State) (a ii : Nat) (o : Op) (ups : List Upset) (r0 : OutRow) : State :=
  let d := o.desc.toNat
  let k := pkey a ii
  let r := upsetRow ups r0
  let cols := tileCols d (sideOf (mMode d)) r.tile
  let held := (partOf s k).group
  let direct := if r.vals.isEmpty || (mDScaled d && mDAxis d == 1) then ([], []) else rowPieces s o cols r.row r.vals
  let grp := if r.vals.isEmpty then held else held ++ [r]
  -- a group is complete when the row above it is in another group, or the tile ends
  let nextSame : Bool := match (partOf s k).stage.drop 1, (partOf s k).drain with
    | x :: _, _ => x.tile == r.tile && x.tag == r.tag && x.row / 32 == r.row / 32
    | [], x :: _ => x.tile == r.tile && x.tag == r.tag && x.row / 32 == r.row / 32
    | [], [] => false
  let flush := needsGroup d && !grp.isEmpty && (r.last || !nextSame)
  let grouped := if flush then groupPieces s o (mDual d) cols (r.row / 32) grp else ([], [])
  let ps := (direct.1 ++ grouped.1).map (upsetPiece ups)
  let cs := direct.2 ++ grouped.2
  let zs := if r.last then maskedPieces s o r.tile else []
  let s1 := takeStage s k
  let s2 := setPart s1 k { partOf s1 k with group := if needsGroup d && !flush then grp else [] }
  let s3 := noteCapture s2 r (ps ++ zs) (mDFormat d) cs
  let s4 := (ps ++ zs).foldl (applyPiece d) s3
  finishIfDone (updOp s4 o.tag (fun x => addCounts x cs)) o.tag

/-- A row of an operation with DEST = 1: the FP32 hand-off into the engine's staging (R70, R126). -/
def stageEngine (s : State) (a ii : Nat) (o : Op) (ups : List Upset) (r0 : OutRow) : State :=
  let r := upsetRow ups r0
  if o.epiStop then finishIfDone (takeStage s (pkey a ii)) o.tag
  else if r.vals.isEmpty then
    finishIfDone ((maskedPieces s o r.tile).foldl (applyPiece o.desc.toNat) (takeStage s (pkey a ii))) o.tag
  else if stagingRoom s a ii o r then
    let h := handoff r.vals
    let cs := h.map (fun x => x.2.2)
    let ps := (h.map (fun x => Piece.elem false r.row x.1 x.2.1)).map (upsetPiece ups)
    let vals := ps.filterMap (fun x => match x with
      | .elem _ _ c v => some (c, widen (Fmt.decode .fp32 v))
      | .block .. => none)
    let s1 := noteCapture (takeStage s (pkey a ii)) r ps .fp32 cs
    let e := engineOf s1 a
    let s2 := setEngine s1 a { e with staging := e.staging ++
      [{ part := pkey a ii, tag := o.tag, tile := r.tile, row := r.row, last := r.last, vals := vals }] }
    updOp s2 o.tag (fun x => addCounts x cs)
  else s

/-- OUTPUT_STAGE_ACCEPT: the next drained row segment of An.ii (R69). A dW slice waits for SLICE_TAKEN. -/
def outputEffect (s : State) (a ii : Nat) (ups : List Upset) : State :=
  if coreRuns s then
    match (partOf s (pkey a ii)).stage with
    | [] => s
    | r :: _ =>
      match findOp s r.tag with
      | none => takeStage s (pkey a ii)
      | some o =>
        if mDest o.desc.toNat = 0 then showIdle (stageLoam s a ii o ups r) a
        else if mDest o.desc.toNat = 1 then showIdle (stageEngine s a ii o ups r) a
        else s
  else s

/-! Commands. -/

/-- The announced and running phases follow the operation taken. -/
def startMatrix (s : State) (o : Op) : State :=
  let d := o.desc.toNat
  let st := matCheck s o.queue o.ctx d
  if st ≠ 0 then refuse s o st
  else
    let o1 := { o with deadline := deadlineOf s (dBase d) (dWork d) (mSlope d)
                       epi := if mDest d = 1 then BitVec.ofNat 512 (epiEntry s (ctxRec s o.ctx) d) else 0 }
    let k := pkey (mArray d) (mPart d)
    let s1 := addOp s o1
    settlePart (setPart s1 k { partOf s1 k with ops := (partOf s1 k).ops ++ [o.tag] }) (mArray d) (mPart d)

/-- MATMUL, and every opcode a PARTITION queue refuses (R105, R313). -/
def execMatmul (q : QueueId) (tag : TagId) (s : State) : Out :=
  .next (dispatch s q.val tag.val
    (fun d => qKind (qCfg s q.val) == 0 && dOpcode d != 0 && !isSyncOp (dOpcode d)) .matrix startMatrix)

/-- NOP: no waves, status OK, its place in the partition's order. -/
def execNop (q : QueueId) (tag : TagId) (s : State) : Out :=
  .next (dispatch s q.val tag.val (fun d => qKind (qCfg s q.val) == 0 && dOpcode d == 0) .matrix startMatrix)

end Sys2Proof.Machine
end

