-- ==== Sys2Proof/Machine/Comm.lean ====
section
/-! DEFINITION. Communicators (R281, R286), the shape of collective messages (R308), and the fields of collective
descriptors (Table 14.2). -/

namespace Sys2Proof.Machine

/-! The communicator record (Table 14.1). -/
def commRec (s : State) (c : Nat) : Nat := reg s (0x7100 + c) 1
def commActive (s : State) (c : Nat) : Bool := reg s (0x7100 + c) 2 == 1
def collSeq (s : State) (c : Nat) : Nat := reg s (0x7100 + c) 3
def cRanks (r : Nat) : Nat := qf r 0 15 0 + 1
def cMyRank (r : Nat) : Nat := if qf r 0 48 48 = 1 then qf r 2 15 0 else qf r 0 31 16
def cGroup (r : Nat) : Nat := qf r 0 41 32 + 1
def cTransport (r : Nat) : Nat := qf r 0 43 42
def cMode (r : Nat) : Nat := qf r 0 45 44
def cNondet (r : Nat) : Bool := qf r 0 46 46 == 1
def cPin (r : Nat) : Bool := qf r 0 47 47 == 1
def cBackup (r : Nat) : Bool := qf r 0 48 48 == 1
def cOwner (r : Nat) : Nat := qf r 1 49 44
def cGroups (r : Nat) : Nat := ceilDiv (cRanks r) (cGroup r)

/-- Fold group of a rank and its members. -/
def groupOfRank (r k : Nat) : Nat := k / cGroup r
def membersOf (r g : Nat) : List Nat := (List.range (min (cGroup r) (cRanks r - g * cGroup r))).map (· + g * cGroup r)
def leaderOf (r g : Nat) : Nat := g * cGroup r

/-- The rank table as read at activation. -/
def ranksOf (s : State) (c : Nat) : List Rank := SMap.get s.ranks c []
def deviceOf (s : State) (c k : Nat) : Nat := (((ranksOf s c)[k]?).map Rank.device).getD 0
def backupOf (s : State) (c k : Nat) : Option Nat := ((ranksOf s c)[k]?).bind Rank.backup

/-! Collective descriptors. -/
def kComm (d : Nat) : Nat := qf d 0 23 16
def kBucket (d : Nat) : Nat := qf d 1 19 0
def kLast (d : Nat) : Bool := qf d 1 20 20 == 1
def kAbort (d : Nat) : Bool := qf d 1 21 21 == 1
def kLoam (d : Nat) : Bool := qf d 1 22 22 == 1
def kCq (d : Nat) : Nat := qf d 1 29 24
def kPhase (d : Nat) : Nat := qf d 1 39 32
def kFmtCode (d : Nat) : Nat := qf d 1 43 40
def kFmt (d : Nat) : Fmt := if kFmtCode d = 0 then .fp32 else if kFmtCode d = 1 then .fp16 else .bf16
def kBytes (d : Nat) : Nat := if kFmtCode d = 0 then 4 else 2
def kElems (d : Nat) : Nat := qf d 2 39 0
def kStep (d : Nat) : Nat := qf d 3 63 0
def kSrc (d : Nat) : Nat := qf d 4 43 0
def kResult (d : Nat) : Nat := qf d 5 43 0
def kStage (d : Nat) : Nat := qf d 6 43 0
def kStageMib (d : Nat) : Nat := qf d 6 63 44
def kErrfb (d : Nat) : Nat := qf d 7 43 0
def kM (d : Nat) : Nat := qf d 8 19 0
def kN (d : Nat) : Nat := qf d 8 39 20
def kPside (d : Nat) : Nat := qf d 8 41 40
def kOrder (d : Nat) : Bool := qf d 8 42 42 == 1
def kBase (d : Nat) : Nat := qf d 14 31 0
def kAllow (d : Nat) : Nat := qf d 14 47 32

/-- The owned range of rank k: first index and count (R286). -/
def ownedRange (r n k : Nat) : Nat × Nat :=
  let chunk := 32 * ceilDiv n (32 * cRanks r)
  (min (k * chunk) n, min ((k + 1) * chunk) n - min (k * chunk) n)

/-- The owner of a bucket index. -/
def ownerOf (r n i : Nat) : Nat := i / (32 * ceilDiv n (32 * cRanks r))

/-! Messages. -/

/-- Lines of a body, the last one padded with zeros; a message has at least one line. -/
def linesOf (l : List Byte) : List Line :=
  (List.range (max 1 (ceilDiv l.length 64))).map (fun i => BitVec.ofNat 512 (leVal ((l.drop (64 * i)).take 64)))

/-- The bytes of a body. -/
def bodyBytes (m : Msg) : List Byte := m.body.flatMap (fun l => leBytes 64 l.toNat)

/-- Is the device capped (R294).-/
def cappedNow (s : State) : Bool := reg s 0x3000 7 == 1

/-- A collective message (R308). -/
def collMsg (s : State) (op kind c rank bucket : Nat) (shadow : Bool) (seq target idx : Nat) (body : List Byte) : Msg :=
  let q2 := c + kind * 2 ^ 8 + rank % 65536 * 2 ^ 16 + bucket * 2 ^ 32 + b2n shadow * 2 ^ 52
  let q3 := seq % 2 ^ 32 + (if cappedNow s then reg s 0x7080 2 else 0) * 2 ^ 32
  let lines := linesOf body
  mkMsg op (if cPin (commRec s c) then 2 else 0) (lines.length - 1) (devNum s) 0 (target * 2 ^ 44 + idx % 2 ^ 40) q2 q3 lines

/-- Send a body of at most 64 lines a message; `per` is the elements one line carries. An unroutable message is lost
(no collective message is acknowledged, R283). -/
def sendColl (s : State) (op kind c rank bucket : Nat) (shadow : Bool) (seq target idx per : Nat) (body : List Byte) : State :=
  (List.range (max 1 (ceilDiv body.length 4096))).foldl (fun t i =>
    sendOrDrop t (collMsg t op kind c rank bucket shadow seq target (idx + 64 * per * i) ((body.drop (4096 * i)).take 4096))) s

/-- Fields of a received collective message. -/
def gComm (m : Msg) : Nat := m.q 2 7 0
def gKind (m : Msg) : Nat := m.q 2 15 8
def gRank (m : Msg) : Nat := m.q 2 31 16
def gBucket (m : Msg) : Nat := m.q 2 51 32
def gShadow (m : Msg) : Bool := m.q 2 52 52 == 1
def gSeq (m : Msg) : Nat := m.q 3 31 0
def gCap (m : Msg) : Nat := m.q 3 47 32
def gIndex (m : Msg) : Nat := m.q 1 39 0

end Sys2Proof.Machine
end

