-- ==== Sys2Proof/Machine/SyncObj.lean ====
section
/-! DEFINITION. Sync objects (R245 to R254): their state, the checks of R430, and what a change does. -/

namespace Sys2Proof.Machine

/-- The initial state: UNUSED, epoch 0, every flag clear (R245). -/
def SyncObj.initial : SyncObj :=
  { type := 0, poisoned := false, set := false, held := false, comm := 0, localCount := 0, localArrived := 0,
    epoch := 0, holder := 0 }

def objOf (s : State) (n : Nat) : SyncObj := SMap.get s.sync n SyncObj.initial

def setObj (s : State) (n : Nat) (o : SyncObj) : State := { s with sync := SMap.set s.sync n o SyncObj.initial }

/-- Object n in the range of a context's record (R192). -/
def inSyncRange (s : State) (c n : Nat) : Bool :=
  let r := ctxRec s c
  decide (syncBase r ≤ n) && decide (n < syncBase r + syncCount r)

/-- The objects of a context live in the device: loaded, and not yet released (R245). While a LOAD runs they are not yet
restored. -/
def syncLive (s : State) (c : Nat) : Bool := decide (3 ≤ ctxState s c)

/-! The image of a context (R194): its windows, then the control area with the sync-object state. -/
def cImage (r : Nat) : Nat := qf r 2 43 0
def winTotal (r : Nat) : Nat := ((List.range 4).map (winSize r)).sum

def ctlArea (r : Nat) : Nat := cImage r + winTotal r
def syncArea (r : Nat) : Nat := ctlArea r + 0x10000

/-- Sync-object state in an image (Table 12.5). -/
def objFromWord (w : Nat) : SyncObj :=
  { type := fld w 2 0, poisoned := w.testBit 3, set := w.testBit 4, held := w.testBit 5, comm := fld w 13 6,
    localCount := fld w 19 14, localArrived := fld w 25 20, epoch := fld w 63 32, holder := fld w 70 64 }

/-- The state of object n as context c has it (R245): the hardware object while the context is live, its image after it was
saved, and the initial state otherwise. -/
def ownObj (s : State) (c n : Nat) : SyncObj :=
  if !inSyncRange s c n then SyncObj.initial
  else if syncLive s c then objOf s n
  else if s.syncPoison.testBit c then { SyncObj.initial with poisoned := true }
  else if reg s (0x4100 + c) 5 = 0 then SyncObj.initial
  else objFromWord (memVal s (syncArea (ctxRec s c) + 64 * (n - syncBase (ctxRec s c))) 64)

/-! Scopes (R233, Table 12.2). -/

/-- The clay die of an agent; none: the marl die (Table 12.1). -/
def agentDie : Agent → Option Nat
  | .part a _ => some (a.val / 2)
  | .engine n => some (n.val / 2)
  | .dma n => some (n.val / 2)
  | .cc _ | .host | .coll | .inbound _ => none

/-- Does a scope, as agent x names it, contain agent y; `same`: y belongs to the device of x. -/
def inScope (code : Nat) (x y : Agent) (same : Bool) : Bool :=
  if code = 0 then same && x == y
  else if code = 1 then same && ((agentDie x).isNone || agentDie y == agentDie x)
  else if code = 2 then same
  else true

/-- A release of x at one scope and the acquire of y that observes it synchronise (R238): the scope of the acquire does not
widen that of the release (R239). -/
def synchronises (release : Nat) (x y : Agent) (same : Bool) : Bool := inScope release x y same

/-- e is at or after t (R247). -/
def atOrAfter (e t : Nat) : Bool := decide ((e + 2 ^ 32 - t % 2 ^ 32) % 2 ^ 32 < 2 ^ 31)

/-- Does the object satisfy a WAIT with target t (Table 12.4). -/
def waitOk (o : SyncObj) (t : Nat) : Bool :=
  if o.type = 1 || o.type = 4 then atOrAfter o.epoch t else o.type == 2 && (o.set || atOrAfter o.epoch t)

/-- Re-evaluate the waits on object n of context c after a change (R250). -/
def wakeWaits (s : State) (c n : Nat) : State :=
  let o := objOf s n
  { s with waits := mapIf (fun w => w.owner == c && w.obj == n && !w.acquire && w.satisfied.isNone && waitOk o w.target)
             (fun w => { w with satisfied := some (now s) }) s.waits }

def advance (o : SyncObj) (k : Nat) : SyncObj := { o with epoch := (o.epoch + k) % 2 ^ 32 }

/-- SIGNAL (Table 12.4): a COUNTER advances by the increment, an EVENT is set. -/
def signalObj (s : State) (c n inc : Nat) : State :=
  let o := objOf s n
  let o' := if o.type = 1 then advance o inc else if o.set then o else { advance o 1 with set := true }
  wakeWaits (setObj s n o') c n

/-- A pending request on the object. -/
def hasWaiter (s : State) (c n : Nat) : Bool := s.waits.any (fun w => w.owner == c && w.obj == n)

/-- Grant a free lock to an agent: its epoch advances (Table 12.4). -/
def grantLock (s : State) (n agent : Nat) : State := setObj s n { advance (objOf s n) 1 with held := true, holder := agent }

/-- The device's arrival at a barrier goes to rank 0 (R304). -/
def sendArrival (s : State) (n : Nat) : State :=
  let o := objOf s n
  if (ranksOf s o.comm).isEmpty then s
  else sendColl s 7 0x18 o.comm (cMyRank (commRec s o.comm)) 0 false (collSeq s o.comm) (deviceOf s o.comm 0) 0 1 (leBytes 4 n ++ leBytes 4 o.epoch)

/-- ARRIVE: one more local arrival of this generation; the last one sends the device's arrival (R250). -/
def arriveObj (s : State) (n : Nat) : State :=
  let o := objOf s n
  let s1 := setObj s n { o with localArrived := (o.localArrived + 1) % 64 }
  if o.localArrived + 1 = o.localCount then sendArrival s1 n else s1

/-- A barrier's generation ends: the epoch advances and the waits are re-evaluated (R304). -/
def releaseBarrier (s : State) (c n : Nat) : State :=
  wakeWaits (setObj s n { advance (objOf s n) 1 with localArrived := 0 }) c n

/-! Descriptors (Table 12.6). -/
def yScope (d : Nat) : Nat := qf d 1 1 0
def yObj (d : Nat) : Nat := qf d 1 43 32
def yOwner (d : Nat) : Nat := qf d 1 49 44
def yType (d : Nat) : Nat := qf d 1 52 50
def yArg (d : Nat) : Nat := qf d 2 31 0
def yComm (d : Nat) : Nat := qf d 2 39 32
def yLocal (d : Nat) : Nat := qf d 2 45 40
def yTimeout (d : Nat) : Nat := qf d 3 31 0

/-- The agent of a queue's stream (Table 12.8). -/
def queueAgent (s : State) (q : Nat) : Option Nat :=
  let c := qCfg s q
  if qKind c = 0 then some (16 * qUnit c + qPart c)
  else if qKind c = 1 then some (64 + qUnit c)
  else if qKind c = 2 then some (68 + qUnit c)
  else none

/-- The ARG of a SIGNAL out of the range of its object's type: 1 to 65,535 for a COUNTER, else 0 (Table 12.6). -/
def argBad (op type arg : Nat) : Bool := op == 0x10 && ((type == 1 && arg == 0) || (type == 2 && arg != 0))

/-- DESCRIPTOR_ERROR for the descriptor's own fields (R430, 1). -/
def syncFieldsBad (s : State) (q d : Nat) : Bool :=
  let op := dOpcode d
  dVersion d != 1 || qf d 0 23 16 != 0 || qf d 1 15 2 != 0 || qf d 1 31 22 != 0 || qf d 1 63 53 != 0 || qf d 2 63 46 != 0
    || qf d 3 63 32 != 0 || d / 2 ^ 256 != 0
    || (op == 0x10 && (decide (65535 < yArg d) || argBad op (ownObj s (yOwner d) (yObj d)).type (yArg d)))
    || ((op == 0x12 || op == 0x13 || op == 0x14 || op == 0x15) && yArg d != 0)
    || (op == 0x16 && (decide (5 ≤ yType d) || (yType d == 4 && yLocal d == 0)))
    || (op == 0x12 && (queueAgent s q).isNone)

/-- ADDRESS_ERROR (R430, 2). -/
def syncAddressBad (s : State) (op c n : Nat) : Bool :=
  ctxState s c == 0 || !inSyncRange s c n
    || ((op == 0x10 || op == 0x13 || op == 0x14 || op == 0x15) && ctxState s c != 3)

/-- Is the object poisoned for an operation that names the context (R253). -/
def syncPoisoned (s : State) (c n : Nat) : Bool :=
  if syncLive s c then (objOf s n).poisoned else s.syncPoison.testBit c

/-- The operations Table 12.4 lists for each type. -/
def typeAllows (op type : Nat) : Bool :=
  op == 0x16 || (type == 1 && (op == 0x10 || op == 0x11)) || (type == 2 && (op == 0x10 || op == 0x11 || op == 0x15))
    || (type == 3 && (op == 0x12 || op == 0x13)) || (type == 4 && (op == 0x14 || op == 0x11))

/-- DESCRIPTOR_ERROR for the object's state (R430, 4). -/
def syncStateBad (s : State) (op c n : Nat) : Bool :=
  !typeAllows op (objOf s n).type || (op == 0x16 && hasWaiter s c n)

/-- The status of R430 after the descriptor's own fields. An INIT issued once the range is held again clears the poison
(R253). What an object that is not live says is seen when its context has been loaded. -/
def syncStatus (s : State) (op c n agent : Nat) : Nat :=
  let o := objOf s n
  if syncAddressBad s op c n then stAddress
  else if syncPoisoned s c n && (op != 0x16 || decide (ctxState s c < 2)) then stAbandoned
  else if !syncLive s c then stOk
  else if syncStateBad s op c n then stDescriptor
  else if op = 0x13 && !(o.held && o.holder == agent) then stNotHolder
  else if op = 0x12 && o.held && o.holder == agent then stAlreadyHeld
  else stOk

/-! The two data caches (R240, Table 12.3). -/

/-- The die of an HBM line: stacks S00-S09 are CD0's. -/
def dieOf (a : Nat) : Nat := if (hbmOf a).stack.val < 10 then 0 else 1

def isCore : Agent → Bool
  | .cc _ => true
  | .part .. | .engine _ | .dma _ | .host | .coll | .inbound _ => false

/-- The accesses that use the caches: those of control cores, and the scalar accesses of vector engines. A LINE_READ or
LINE_WRITE of an engine is a scalar access; its tile operations read and write memory in their own commands. -/
def readsCached : Agent → Bool
  | .cc _ | .engine _ => true
  | .part .. | .dma _ | .host | .coll | .inbound _ => false

/-- Key of a line in the read-through caches. -/
def rtKey (a : Nat) : Nat := dieOf a * 2 ^ 44 + lineAddr a

/-- Make room for a line in a cache of `cap` lines whose keys lie in [lo, hi): which line a full cache gives up is not stated, and
a free choice (log 60). -/
def cacheRoom (m : SMap Line) (lo hi cap choice : Nat) : SMap Line :=
  let l := m.filter (fun e => decide (lo ≤ e.1) && decide (e.1 < hi))
  if l.length < cap then m
  else match l[choice % l.length]? with
    | none => m
    | some e => SMap.drop m e.1

/-- A line enters the read-through cache of its die: 64 MiB of lines each. -/
def rtFill (s : State) (a : Nat) (l : Line) : State :=
  { nextFree s with
    rtCache := SMap.put (cacheRoom s.rtCache (dieOf a * 2 ^ 44) ((dieOf a + 1) * 2 ^ 44) (2 ^ 20) (Config.freeValue s.freeCtr)) (rtKey a) l }

/-- A line of a peer enters the remote-read cache: 32 MiB of lines. -/
def rrFill (s : State) (x : Nat) (l : Line) : State :=
  { nextFree s with rrCache := SMap.put (cacheRoom s.rrCache 0 (2 ^ 60) (2 ^ 19) (Config.freeValue s.freeCtr)) x l }

/-- A write that goes through the read-through cache: memory, and the line where it is cached (Table 12.3). -/
def coreWrite (s : State) (a : Nat) (data : Line) (mask : BitVec 128) : State :=
  let s1 := writeLine s a data mask
  match if inHbm a then SMap.find s.rtCache (rtKey a) else none with
  | none => s1
  | some l => { s1 with rtCache := SMap.put s1.rtCache (rtKey a) (mergeLine l data mask) }

/-- A read under way that fills no cache. -/
def noFill (r : RemoteReq) : RemoteReq :=
  match r.purpose with
  | .lineRead ag _ => { r with purpose := .lineRead ag false }
  | _ => r

/-- Caches an acquire at a scope invalidates (R241); `prog` is a vector program or a control core. A remote read under way
fills no line of an older value after it (log 60). -/
def acquireEffect (s : State) (scope : Nat) (prog : Bool) : State :=
  let s1 := if prog && 1 ≤ scope then bump { s with rtCache := [] } 0x2500 6 else s
  if scope = 3 then
    bump { s1 with rrCache := [], fab := { s1.fab with reqs := s1.fab.reqs.map noFill } } 0x2500 6
  else s1

/-- A sync operation completes with a status (Table 12.7). -/
def endSync (s : State) (tag st : Nat) : State :=
  updOp s tag (fun o => if o.ended then o else { o with
    status := st, ended := true, accepted := true, epochSeen := (ownObj s (yOwner o.desc.toNat) (yObj o.desc.toNat)).epoch,
    waitNs := now s - o.taken })

/-- Take a request out of the pending list. -/
def dropWait (s : State) (w : WaitReq) : State := { s with waits := s.waits.erase w }

/-- Requests that became ABANDONED or ended by a reset count and report (R253). -/
def countAbandoned (s : State) : State := raise (bump s 0x2500 4) (src 10 1)

end Sys2Proof.Machine
end

