-- ==== Sys2Proof/Machine/Adds.lean ====
section
/-! DEFINITION. Memory-side adders: arrival adds (R218, R219), slotted areas and their folds (R220 to R222). -/

namespace Sys2Proof.Machine

/-- The float format of an add format code; codes 3 and 4 are INT32 and INT64. -/
def addFmt (c : Nat) : Option Fmt :=
  if c = 0 then some .fp32 else if c = 1 then some .fp16 else if c = 2 then some .bf16 else none

/-- Bits of an element of an add format. -/
def addBits (c : Nat) : Nat := if c = 0 || c = 3 then 32 else if c = 4 then 64 else 16

def addElems (c : Nat) : Nat := 512 / addBits c

def elemAt (c : Nat) (l : Line) (i : Nat) : Nat := fld l.toNat (addBits c * i + addBits c - 1) (addBits c * i)

/-- Does a byte mask enable element i whole. -/
def elemOn (c : Nat) (mask : BitVec 64) (i : Nat) : Bool :=
  (List.range (addBits c / 8)).all (fun j => mask.getLsbD (addBits c / 8 * i + j))

/-- A line from its elements. -/
def lineOf (c : Nat) (l : List Nat) : Line :=
  BitVec.ofNat 512 (((List.range l.length).zip l).foldl (fun v e => v + e.2 % 2 ^ addBits c * 2 ^ (addBits c * e.1)) 0)

/-- One element of an arrival add (R218): the new bits and what it counts as. -/
def addOne (c : Nat) (x y : Nat) : Nat × Count :=
  match addFmt c with
  | none => ((x + y) % 2 ^ addBits c, .none)
  | some f => f.narrow (accAdd (widen (f.decode x)) (widen (f.decode y))) 0 .rne false

/-- Count adds that overflowed or gave a NaN. -/
def countAdds (s : State) (ovf nan : Nat) : State :=
  if ovf + nan = 0 then s else raise (bumpBy (bumpBy s 0x5000 8 ovf) 0x5000 9 nan) (src 8 22)

/-- An arrival add of one line into HBM (R218, R219). -/
def arrivalLine (s : State) (a c : Nat) (data : Line) (mask : BitVec 64) : State :=
  let on := (List.range (addElems c)).filter (elemOn c mask)
  if isPoisoned s a then
    let s1 := countAdds s 0 on.length
    if isRetired s a then bump s1 0x8000 9 else s1
  else
    let old := lineAt s a
    let l := (List.range (addElems c)).map (fun i =>
      if elemOn c mask i then addOne c (elemAt c old i) (elemAt c data i) else (elemAt c old i, Count.none))
    let cs := l.map Prod.snd
    countAdds (putLine s a (lineOf c (l.map Prod.fst))) (countOf .ovf cs) (countOf .nan cs)

/-! Slotted areas (Table 11.4). -/
def aTarget (r : Nat) : Nat := qf r 0 43 0
def aFmt (r : Nat) : Nat := qf r 0 46 44
def aSlots (r : Nat) : Nat := qf r 0 53 48 + 1
def aNumber (r : Nat) : Nat := qf r 0 57 54
def aBase (r : Nat) : Nat := qf r 1 43 0
def aLength (r : Nat) : Nat := qf r 2 31 0
def aGroups (r : Nat) : Nat := qf r 3 63 0

/-- Bytes of one slot. -/
def aBytes (r : Nat) : Nat := 5120 * aLength r

/-- The area whose slots hold an address. -/
def areaAt (s : State) (a : Nat) : Option Nat :=
  (s.hbm.areas.find? (fun e => let r := e.2.reg.toNat
    decide (aBase r ≤ a) && decide (a < aBase r + aSlots r * aBytes r))).map Prod.fst

/-- The fold of R221 over values with their slots. -/
def slotFold (starts : Nat) (add : Acc → Acc → Acc) (l : List Acc) : Option Acc :=
  let step := fun (t : Option Acc × Option Acc) (e : Nat × Acc) =>
    if e.1 != 0 && starts.testBit e.1 then
      (match t.1, t.2 with
        | none, p => (p, some e.2)
        | some x, none => (some x, some e.2)
        | some x, some p => (some (add x p), some e.2))
    else match t.2 with
      | none => (t.1, some e.2)
      | some p => (t.1, some (add p e.2))
  let r := ((List.range l.length).zip l).foldl step (none, none)
  match r.1, r.2 with
  | none, p => p
  | some x, none => some x
  | some x, some p => some (add x p)

/-- One element of a target line: integers sum exactly (their order gives the same result), floats fold and convert. -/
def foldOne (c starts : Nat) (l : List Nat) : Nat × Count :=
  match addFmt c with
  | none => ((l.foldl (· + ·) 0) % 2 ^ addBits c, .none)
  | some f =>
    match slotFold starts accAdd (l.map (fun x => widen (f.decode x))) with
    | none => (0, .none)
    | some t => f.narrow t 0 .rne false

/-- Key of target line j of an area in the arrival maps. -/
abbrev akey (n j : Nat) : Nat := n * 2 ^ 40 + j

def areaOf (s : State) (n : Nat) : Area :=
  (SMap.find s.hbm.areas n).getD { reg := 0, ovfl := 0, nan := 0, under := 0, doneReported := false }

/-- Fold the slot lines of target line j (R221). -/
def foldLine (s : State) (n j : Nat) : State :=
  let ar := areaOf s n
  let r := ar.reg.toNat
  let c := aFmt r
  let addr (k : Nat) : Nat := aBase r + k * aBytes r + 64 * j
  let t := aTarget r + 64 * j
  let s1 := { s with hbm := { s.hbm with folded := SMap.set s.hbm.folded (akey n j) true false } }
  if (List.range (aSlots r)).any (fun k => isPoisoned s1 (addr k)) then
    setPoison { s1 with hbm := { s1.hbm with areas := SMap.put s1.hbm.areas n { ar with nan := ar.nan + addElems c } } } t
  else
    let l := (List.range (addElems c)).map (fun i =>
      foldOne c (aGroups r) ((List.range (aSlots r)).map (fun k => elemAt c (lineAt s1 (addr k)) i)))
    let cs := l.map Prod.snd
    let ar1 := { ar with ovfl := ar.ovfl + countOf .ovf cs, nan := ar.nan + countOf .nan cs, under := ar.under + countOf .under cs }
    writeLine { s1 with hbm := { s1.hbm with areas := SMap.put s1.hbm.areas n ar1 } } t (lineOf c (l.map Prod.fst))
      (BitVec.allOnes 128)

/-- A slot write of one line (R221); the address lies in the slots of area n. -/
def slotLine (s : State) (n a : Nat) (data : Line) (mask : BitVec 64) : State :=
  let r := (areaOf s n).reg.toNat
  let k := (a - aBase r) / aBytes r
  let j := (a - aBase r) % aBytes r / 64
  let m := SMap.get s.hbm.arrived (akey n j) 0
  if m.testBit k || SMap.get s.hbm.folded (akey n j) false then raise (bump s 0x5000 7) (src 8 21)
  else
    let zeroed := mergeLine 0 data (nibbles mask.toNat)
    let s1 := writeLine s a zeroed (BitVec.allOnes 128)
    let m' := setBit m k true
    let s2 := { s1 with hbm := { s1.hbm with arrived := SMap.set s1.hbm.arrived (akey n j) m' 0 } }
    if m' = 2 ^ aSlots r - 1 then foldLine s2 n j else s2

/-- Bytes of arrival memory one target line takes (R220). -/
def arrivalBytes (slots : Nat) : Nat := if slots ≤ 8 then 1 else if slots ≤ 16 then 2 else if slots ≤ 32 then 4 else 8

/-- Is a registration refused (R220, Table 11.4): reserved values, an area number in use, or arrival memory exhausted. -/
def regRefused (s : State) (r : Nat) : Bool :=
  decide (5 ≤ aFmt r) || aSlots r == 1 || aTarget r % 5120 != 0 || aBase r % 5120 != 0 || aLength r == 0
    || qf r 0 47 47 != 0 || qf r 0 63 58 != 0 || qf r 1 63 44 != 0 || qf r 2 63 32 != 0 || r / 2 ^ 256 != 0
    || decide (hbmEnd < aTarget r + aBytes r) || decide (hbmEnd < aBase r + aSlots r * aBytes r)
    || SMap.has s.hbm.areas (aNumber r)
    || decide (524288 < s.hbm.areas.foldl (fun t e => t + 4 * aLength e.2.reg.toNat * arrivalBytes (aSlots e.2.reg.toNat)) 0
        + 4 * aLength r * arrivalBytes (aSlots r))

/-- Register a slotted area (R220): refused by every base die or by none. -/
def registerArea (s : State) (r : BitVec 512) : State :=
  if regRefused s r.toNat then s
  else { s with hbm := { s.hbm with
    areas := SMap.put s.hbm.areas (aNumber r.toNat) { reg := r, ovfl := 0, nan := 0, under := 0, doneReported := false } } }

/-- Release an area: its registration and arrival memory are free, and its AREA_DONE is of no further use (R222). -/
def releaseArea (s : State) (n : Nat) : State :=
  { s with hbm := { s.hbm with
    areas := SMap.drop s.hbm.areas n
    areaReports := SMap.drop s.hbm.areaReports n
    arrived := SMap.dropRange s.hbm.arrived (akey n 0) (akey (n + 1) 0)
    folded := SMap.dropRange s.hbm.folded (akey n 0) (akey (n + 1) 0) } }

/-- The lowest free area number. -/
def freeArea (s : State) : Option Nat := (List.range 16).find? (fun n => !SMap.has s.hbm.areas n)

end Sys2Proof.Machine
end

