-- ==== Sys2Proof/Machine/CollBase.lean ====
section
/-! DEFINITION. The collective engine's data: reference sums over a fold shape (R288, R289), block-scaled partials
(R300 to R302), 1-bit compression (R298, R299), digests (R306), and the lookup of buckets. -/

namespace Sys2Proof.Machine

/-- The bucket of a tag, and of a name. -/
def bucketOf (s : State) (tag : Nat) : Option Bucket := s.buckets.find? (fun b => b.tag == tag && !b.finished)
def bucketNamed (s : State) (c seq num : Nat) : Option Bucket :=
  s.buckets.find? (fun b => b.comm == c && b.seq == seq && b.number == num)

def updBucket (s : State) (b : Bucket) : State :=
  { s with buckets := mapIf (fun x => x.comm == b.comm && x.seq == b.seq && x.number == b.number) (fun _ => b) s.buckets }

/-- Key of a collective's run. -/
abbrev runKey (c seq : Nat) : Nat := c * 2 ^ 64 + seq

def CollRun.fresh : CollRun :=
  { posted := 0, lastSeen := none, completed := 0, crcs := [], diverge := false, subst := false, repaired := false,
    incomplete := false, capUs := none }

def runOf (s : State) (c seq : Nat) : CollRun := SMap.get s.colls (runKey c seq) CollRun.fresh
def setRun (s : State) (c seq : Nat) (r : CollRun) : State :=
  { s with colls := SMap.set s.colls (runKey c seq) r CollRun.fresh }

/-- The collective that the next bucket of a communicator joins: the first from COLL_SEQ whose LAST has not been
posted. -/
def postSeq : Nat → State → Nat → Nat → Nat
  | 0, _, _, q => q
  | n + 1, s, c, q => if (runOf s c q).lastSeen.isSome then postSeq n s c (q + 1) else q

/-- Every earlier bucket of the collective has been posted (R287). -/
def predecessors (s : State) (b : Bucket) : Bool :=
  (runOf s b.comm b.seq).posted % 2 ^ b.number == 2 ^ b.number - 1

/-! 8-byte ACC entries (R113, R289). -/
def accEntry (a : Acc) : Nat := a.bits.toNat + 2 ^ 48 + b2n a.ovf * 2 ^ 49
def entryAcc (w : Nat) : Acc := { bits := BitVec.ofNat 48 w, ovf := w.testBit 49 }

/-- Values from consecutive fields of `n` bytes. -/
def fieldsOf (n : Nat) (l : List Byte) : List Nat :=
  (List.range (l.length / n)).map (fun i => leVal ((l.drop (n * i)).take n))

/-- Consecutive values put into a map from index i0 on. -/
def putVals (m : SMap Nat) (i0 : Nat) (l : List Nat) : SMap Nat :=
  ((List.range l.length).zip l).foldl (fun t e => SMap.put t (i0 + e.1) e.2) m

/-- Listed elements of a range, and whether it is wholly listed. -/
def valsIn (m : SMap Nat) (lo n : Nat) : List Nat := (List.range n).map (fun i => SMap.get m (lo + i) 0)
def covers (m : SMap Nat) (lo n : Nat) : Bool := (List.range n).all (fun i => SMap.has m (lo + i))

/-- The bytes of FMT elements. -/
def fmtBytes (d : Nat) (l : List Nat) : List Byte := l.flatMap (leBytes (kBytes d))

/-- Elements a line of FMT carries. -/
def perLine (d : Nat) : Nat := 64 / kBytes d

/-! Compression (R298). -/
def compBit (s : State) (b : Bucket) (i : Nat) : Bool :=
  let w := grain (BitVec.ofNat 64 (ctxSeed s b.ctx)) 4 (BitVec.ofNat 64 (kStep b.desc.toNat))
    (BitVec.ofNat 64 (b.number * 2 ^ 40 + i / 128))
  w.getLsbD (i % 128)

def toBf16 (a : Acc) : Nat := (Fmt.bf16.narrow a 0 .rne false).1
def ofBf16 (w : Nat) : Acc := widen (Fmt.bf16.decode w)

/-- One block of the compressor: scale, bits and new feedback. -/
def compBlock (s : State) (b : Bucket) (i0 : Nat) (v : List Acc) : Nat × List Bool × List Nat :=
  if v.any Acc.isNan then (0x7FC0, v.map (fun _ => false), v.map (fun _ => 0))
  else
    let m := accMul ((foldRow accAdd (v.map (fun a => some (accAbs a)))).getD Acc.zero) (accRcp (accOfNat v.length))
    let sc := toBf16 m
    let bits := ((List.range v.length).zip v).map (fun e =>
      if accLt Acc.zero e.2 then true else if accLt e.2 Acc.zero then false else compBit s b (i0 + e.1))
    (sc, bits, (v.zip bits).map (fun e => toBf16 (accSub e.1 (if e.2 then ofBf16 sc else accNeg (ofBf16 sc)))))

/-- Compress the whole contribution, overwriting the feedback entries. -/
def compress (s : State) (b : Bucket) : State × Bucket :=
  let d := b.desc.toNat
  (List.range (ceilDiv (kElems d) 256)).foldl (fun t k =>
    let i0 := 256 * k
    let n := min 256 (kElems d - i0)
    let v := (List.range n).map (fun j => accAdd (widen ((kFmt d).decode (SMap.get t.2.own (i0 + j) 0)))
      (ofBf16 (memVal t.1 (kErrfb d + 2 * (i0 + j)) 2)))
    let r := compBlock s b i0 v
    let s1 := memWrite t.1 (kErrfb d + 2 * i0) (r.2.2.flatMap (leBytes 2))
    let es := r.2.1.map (fun x => accEntry (if x then ofBf16 r.1 else accNeg (ofBf16 r.1)))
    (s1, { t.2 with comp := putVals t.2.comp i0 es })) (s, b)

/-- A range cut at the block boundaries of the bucket: starts and lengths. -/
def pieces : Nat → Nat → Nat → List (Nat × Nat)
  | 0, _, _ => []
  | k + 1, lo, n => if n = 0 then [] else let m := min n (256 - lo % 256); (lo, m) :: pieces k (lo + m) (n - m)

def piecesOf (lo n : Nat) : List (Nat × Nat) := pieces (n / 256 + 2) lo n

/-- One unit of the compressed stream (R299): sign bits of up to 32 blocks, then their scales, padded to whole lines. A
block that a part cuts counts its elements from the cut. -/
def unitBytes (b : Bucket) (ps : List (Nat × Nat)) : List Byte :=
  let bits := ps.flatMap (fun p => leBytes 32 ((List.range p.2).foldl (fun v j =>
    let x := entryAcc (SMap.get b.comp (p.1 + j) 0)
    if x.isNeg || x.isNan then v else v + 2 ^ j) 0))
  let scs := ps.flatMap (fun p => leBytes 2 (toBf16 (accAbs (entryAcc (SMap.get b.comp p.1 0)))))
  bits ++ scs ++ List.replicate ((64 - (bits ++ scs).length % 64) % 64) 0

/-- Elements of a received unit whose first element has index i0, `n` elements at most to the range's end. -/
def unitElems (l : List Byte) (i0 n : Nat) : List Nat :=
  let ps := (piecesOf i0 n).take 32
  ((List.range ps.length).zip ps).flatMap (fun e =>
    let w := leVal ((l.drop (32 * e.1)).take 32)
    let sc := ofBf16 (leVal ((l.drop (32 * ps.length + 2 * e.1)).take 2))
    (List.range e.2.2).map (fun j => accEntry (if w.testBit j then sc else accNeg sc)))

/-! Block-scaled steps (R301). -/

/-- H of R300. -/
def headroomOf (r : Nat) : Nat := if cRanks r ≤ 1 then 0 else (cRanks r - 1).log2 + 1

def agreedOf (t h : Nat) : Nat := if t = 255 then 255 else min 0xFE (t + h)

/-- The smallest k at which a value no longer exceeds the grid (R301); the flag byte holds four bits. -/
def gridK (a : Nat) (v : Acc) : Nat :=
  ((List.range 16).find? (fun k => (Fmt.e4m3.narrow v ((a + k : Nat) - 127) .rne false).2 != .ovf)).getD 15

/-- Quantize to the agreed grid: element, and the flag with its k when it saturates. -/
def toGrid (a : Nat) (v : Acc) : Nat × Option Nat :=
  let q := Fmt.e4m3.narrow v ((a : Int) - 127) .rne false
  (q.1, if q.2 = .ovf then some (gridK a v) else none)

def ofGrid (a w : Nat) : Acc := widen ((Fmt.e4m3.decode w).scale a)

/-- The agreed scale of a block, repairs included. -/
def blockScale (b : Bucket) (k : Nat) : Nat :=
  let a := (SMap.get b.scaleTab k 0).toNat
  if a = 255 then 255 else min 0xFE (a + SMap.get b.bump k 0)

/-- Fold one block-scaled element: values in fold order, each group a list; result element and largest k. -/
def gridFold (a : Nat) (gs : List (List Acc)) : Nat × Option Nat :=
  let mx := fun (x y : Option Nat) => match x, y with
    | none, y => y
    | x, none => x
    | some i, some j => some (max i j)
  let go := fun (l : List Acc) => l.foldl (fun (t : Option Nat × Option Nat) x =>
    let v := match t.1 with
      | none => x
      | some p => accAdd (ofGrid a p) x
    let q := toGrid a v
    (some q.1, mx t.2 q.2)) (none, none)
  let parts := gs.map go
  let tot := go ((parts.filterMap Prod.fst).map (ofGrid a))
  (tot.1.getD 0, (parts.map Prod.snd).foldl mx tot.2)

/-- Fold a block-scaled element from group partials that already lie on the grid. -/
def gridJoin (a : Nat) (ps : List Acc) : Nat × Option Nat := gridFold a [ps]

/-- Raise a block's flag. -/
def flagBlock (b : Bucket) (k : Nat) (f : Option Nat) : Bucket :=
  match f with
  | none => b
  | some j => { b with flags := SMap.put b.flags k (128 + max j (SMap.get b.flags k 0 % 16)) }

/-! Streams. -/
def Stream.done (x : Stream) : Bool := decide (x.need ≤ x.vals.length) || decide (x.need ≤ x.shadow.length)
def Stream.use (x : Stream) : SMap Nat := if x.fromShadow then x.shadow else x.vals

def findStream (b : Bucket) (rank : Nat) (grp : Bool) : Option Stream :=
  b.streams.find? (fun x => x.rank == rank && x.isGroup == grp)

/-- Does the stream cover a range. -/
def streamHas (b : Bucket) (rank : Nat) (grp : Bool) (lo n : Nat) : Bool :=
  match findStream b rank grp with
  | none => true
  | some x => covers x.use lo n

def streamVal (b : Bucket) (rank : Nat) (grp : Bool) (i : Nat) : Nat :=
  match findStream b rank grp with
  | none => 0
  | some x => SMap.get x.use i 0

/-- A rank's contribution to index i as an acc48 value: its stream's, or this device's own (whose stream exists only
when its backup substitutes for it). -/
def rankVal (r : Nat) (b : Bucket) (k i : Nat) : Acc :=
  let d := b.desc.toNat
  let w := if k = cMyRank r && (findStream b k false).isNone then (if cMode r = 2 && cRanks r != 1 then SMap.get b.comp i 0 else SMap.get b.own i 0)
    else streamVal b k false i
  if cMode r = 2 && cRanks r != 1 then entryAcc w else widen ((kFmt d).decode w)

/-- A group partial at index i. -/
def groupVal (r : Nat) (b : Bucket) (g i : Nat) : Acc :=
  let mine := (findStream b g true).isNone
  let w := if mine then SMap.get b.part i 0 else streamVal b g true i
  if cMode r = 1 then ofGrid (blockScale b (i / 32)) (w % 256) else entryAcc w

/-- GROUP_START of the fold shape over `n` consecutive ranks from a group's first. -/
def groupStarts (r : Nat) : Nat := (List.range 64).foldl (fun w k => if k % cGroup r = 0 then w + 2 ^ k else w) 0

/-- The total of index i at its owner, before conversion (R288, R301); BLOCK gives the grid element and its flag. -/
def totalAcc (r : Nat) (b : Bucket) (i : Nat) : Acc :=
  if cTransport r = 0 || cRanks r = 1 then
    (slotFold (groupStarts r) accAdd ((List.range (cRanks r)).map (fun k => rankVal r b k i))).getD Acc.zero
  else
    (foldPart accAdd ((List.range (cGroups r)).map (fun g => groupVal r b g i))).getD Acc.zero

def totalGrid (r : Nat) (b : Bucket) (i : Nat) : Nat × Option Nat :=
  let a := blockScale b (i / 32)
  if cTransport r = 0 then gridFold a ((List.range (cGroups r)).map (fun g => (membersOf r g).map (fun k => rankVal r b k i)))
  else gridJoin a ((List.range (cGroups r)).map (fun g => groupVal r b g i))

/-- The total from repair elements, which come from every rank whatever the transport (R302). -/
def repairGrid (r : Nat) (b : Bucket) (i : Nat) : Nat × Option Nat :=
  let d := b.desc.toNat
  let v := fun k => if k = cMyRank r then SMap.get b.own i 0 else SMap.get (SMap.get b.repairVals k []) i 0
  gridFold (blockScale b (i / 32))
    ((List.range (cGroups r)).map (fun g => (membersOf r g).map (fun k => widen ((kFmt d).decode (v k)))))

/-- Does BLOCK mode act: it has no effect on one rank. -/
def blockMode (r : Nat) : Bool := cMode r == 1 && cRanks r != 1

/-- The blocks of a range. -/
def blocksIn (lo n : Nat) : List Nat := (List.range (ceilDiv n 32)).map (· + lo / 32)

/-- This device's group partial of index i as it travels (R289). -/
def partialOf (r : Nat) (b : Bucket) (i : Nat) : Nat × Option Nat :=
  let me := cMyRank r
  let g := groupOfRank r me
  if cTransport r = 1 then
    let first := leaderOf r g == me
    let prev := streamVal b (me - 1) false i
    let own := rankVal r b me i
    if cMode r = 1 then
      let a := blockScale b (i / 32)
      toGrid a (if first then own else accAdd (ofGrid a (prev % 256)) own)
    else (accEntry (if first then own else accAdd (entryAcc prev) own), none)
  else
    let l := (membersOf r g).map (fun k => rankVal r b k i)
    if cMode r = 1 then gridFold (blockScale b (i / 32)) [l]
    else (accEntry ((foldPart accAdd l).getD Acc.zero), none)

/-- Wire form of a block-scaled partial: 64 blocks of elements, then their flag bytes (R301). -/
def blockBytes (b : Bucket) (vals : List Nat) (lo : Nat) : List Byte :=
  let n := vals.length
  (List.range (ceilDiv n 2048)).flatMap (fun u =>
    padTo 2048 (((vals.drop (2048 * u)).take 2048).map (fun v => BitVec.ofNat 8 v))
      ++ (List.range 64).map (fun k => BitVec.ofNat 8 (SMap.get b.flags (lo / 32 + 64 * u + k) 0)))

/-! Digests (R306). -/
def crcOf (d : Nat) (l : List Nat) : Nat := crc64 (fmtBytes d l)

/-- The CRC of a stream's values in FMT. -/
def streamCrc (d : Nat) (m : SMap Nat) : Nat := crcOf d (m.map Prod.snd)

end Sys2Proof.Machine
end

