-- ==== Sys2Proof/Machine/CollRun.lean ====
section
/-! DEFINITION. How buckets proceed (R287 to R307): sending parts, folding, repair passes, DONE, gather and the end of a
bucket. Every arrival calls `pump`, which sends and folds whatever has become possible. -/

namespace Sys2Proof.Machine

/-- The ranks that own something of a bucket. -/
def owners (r n : Nat) : List Nat := (List.range (cRanks r)).filter (fun k => (ownedRange r n k).2 != 0)

/-- The ranks other than this device. -/
def otherRanks (r : Nat) : List Nat := (List.range (cRanks r)).filter (fun k => cBackup r || k != cMyRank r)

/-- This device's owned range; a backup owns nothing (R286). -/
def myRange (r n : Nat) : Nat × Nat := if cBackup r then (0, 0) else ownedRange r n (cMyRank r)

/-- A control message to one rank of a bucket's communicator. A scale byte stands for 32 elements (R308). -/
def ctrlTo (s : State) (b : Bucket) (kind rank target idx : Nat) (body : List Byte) : State :=
  sendColl s 7 kind b.comm rank b.number false b.seq target idx (if kind = 0x10 || kind = 0x14 then 2048 else 0) body

/-- To every other rank. -/
def ctrlAll (s : State) (b : Bucket) (kind idx : Nat) (body : List Byte) : State :=
  let r := commRec s b.comm
  (otherRanks r).foldl (fun t k => ctrlTo t b kind (cMyRank r) (deviceOf t b.comm k) idx body) s

/-! Parts. -/

/-- The unit messages of a part: bytes with the index of their first element. -/
def sendUnits (s : State) (b : Bucket) (kind rank : Nat) (shadow : Bool) (target : Nat) (us : List (Nat × List Byte)) : State :=
  us.foldl (fun t u => sendColl t 6 kind b.comm rank b.number shadow b.seq target u.1 (perLine b.desc.toNat) u.2) s

/-- A contribution's part [lo, lo + n): in FMT, or compressed (R289, R299). -/
def contribUnits (r : Nat) (b : Bucket) (lo n : Nat) : List (Nat × List Byte) :=
  if cMode r = 2 then
    let ps := piecesOf lo n
    (List.range (ceilDiv ps.length 32)).map (fun u =>
      let l := (ps.drop (32 * u)).take 32
      ((l.headD (lo, 0)).1, unitBytes b l))
  else [(lo, fmtBytes b.desc.toNat (valsIn b.own lo n))]

def contribKind (r : Nat) : Nat := if cMode r = 2 then 4 else 1

/-- A partial's part: ACC entries or block-scaled units. -/
def partialUnits (r : Nat) (b : Bucket) (vals : List Nat) (lo : Nat) : List (Nat × List Byte) :=
  if cMode r = 1 then
    (List.range (ceilDiv vals.length 2048)).map (fun u =>
      (lo + 2048 * u, blockBytes b ((vals.drop (2048 * u)).take 2048) (lo + 2048 * u)))
  else (List.range (ceilDiv vals.length 512)).map (fun u => (lo + 512 * u, ((vals.drop (512 * u)).take 512).flatMap (leBytes 8)))

def unitsLen (us : List (Nat × List Byte)) : Nat := us.foldl (fun t u => t + u.2.length) 0

/-- Is this device's contribution to a range present (compressed, where the mode asks for it). -/
def ownHas (r : Nat) (b : Bucket) (lo n : Nat) : Bool :=
  covers (if cMode r = 2 && cRanks r != 1 then b.comp else b.own) lo n
    || ((findStream b (cMyRank r) false).isSome && streamHas b (cMyRank r) false lo n)

/-- Are the agreed scales of a range known. -/
def scalesHave (b : Bucket) (lo n : Nat) : Bool := (blocksIn lo n).all (fun k => SMap.has b.scaleTab k)

/-- May the part for owner k leave now. -/
def partReady (s : State) (r : Nat) (b : Bucket) (k : Nat) : Bool :=
  let rg := ownedRange r (kElems b.desc.toNat) k
  let g := groupOfRank r (cMyRank r)
  predecessors s b && !b.sentParts.contains k && ownHas r b rg.1 rg.2
    && (cBackup r || cTransport r == 0
        || ((!blockMode r || scalesHave b rg.1 rg.2 || (cTransport r == 2 && leaderOf r g != cMyRank r))
          && (if cTransport r = 1 then streamHas b (cMyRank r - 1) false rg.1 rg.2
              else leaderOf r g != cMyRank r || (membersOf r g).all (fun m => streamHas b m false rg.1 rg.2))))

/-- Send a partial to its next holder, or keep it when this device owns the range. -/
def sendPartial (s : State) (r : Nat) (b : Bucket) (k : Nat) : State :=
  let me := cMyRank r
  let g := groupOfRank r me
  let rg := ownedRange r (kElems b.desc.toNat) k
  let vs := (List.range rg.2).map (fun j => (rg.1 + j, partialOf r b (rg.1 + j)))
  let b1 := vs.foldl (fun t v => flagBlock t (v.1 / 32) v.2.2) b
  let vals := vs.map (fun v => v.2.1)
  let us := partialUnits r b1 vals rg.1
  let lastOne := cTransport r == 2 || (membersOf r g).getLast? == some me
  let kind := if cMode r = 1 then 3 else 2
  if lastOne && k == me then updBucket s { b1 with part := putVals b1.part rg.1 vals, sentParts := k :: b1.sentParts }
  else
    let s1 := updBucket s { b1 with sentParts := k :: b1.sentParts, sent := b1.sent + unitsLen us }
    if lastOne then sendUnits s1 b1 kind g false (deviceOf s b.comm k) us
    else sendUnits s1 b1 kind me false (deviceOf s b.comm (me + 1)) us

/-- Arrival adds of a contribution's lines into STAGE_ADDR on a communicator with NONDET set (R290); `n` elements. -/
def addPart (s : State) (b : Bucket) (i0 : Nat) (ls : List Line) (n : Nat) : State :=
  let d := b.desc.toNat
  let rg := myRange (commRec s b.comm) (kElems d)
  ((List.range ls.length).zip ls).foldl (fun t e =>
    let left := n - perLine d * e.1
    arrivalLine t (kStage d + kBytes d * (i0 - rg.1) + 64 * e.1) (kFmtCode d) e.2
      (BitVec.ofNat 64 (2 ^ (kBytes d * min left (perLine d)) - 1))) s

/-- Send this device's part for owner k, by transport (R289); a backup sends the part's CRC instead (R296). -/
def sendPart (s : State) (b : Bucket) (k : Nat) : State :=
  let r := commRec s b.comm
  let me := cMyRank r
  let d := b.desc.toNat
  let rg := ownedRange r (kElems d) k
  if !partReady s r b k then s
  else if cBackup r then
    ctrlTo (updBucket s { b with sentParts := k :: b.sentParts, sent := b.sent + 64 }) b 0x11 me (deviceOf s b.comm k) rg.1
      (leBytes 8 (crcOf d (valsIn b.own rg.1 rg.2)))
  else if cRanks r = 1 || (cTransport r = 0 && k = me) then
    let s1 := updBucket s { b with sentParts := k :: b.sentParts }
    if cNondet r && cRanks r != 1 then addPart s1 b rg.1 (linesOf (fmtBytes d (valsIn b.own rg.1 rg.2))) rg.2 else s1
  else if cTransport r = 0 || (cTransport r = 2 && leaderOf r (groupOfRank r me) != me) then
    let us := contribUnits r b rg.1 rg.2
    let dst := if cTransport r = 0 then k else leaderOf r (groupOfRank r me)
    sendUnits (updBucket s { b with sentParts := k :: b.sentParts, sent := b.sent + unitsLen us }) b (contribKind r) me false
      (deviceOf s b.comm dst) us
  else sendPartial s r b k

/-- Run `f` on the bucket of a tag, if it is in flight. -/
def withBucket (s : State) (tag : Nat) (f : State → Bucket → State) : State :=
  match bucketOf s tag with
  | none => s
  | some b => f s b

def sendParts (s : State) (tag : Nat) : State :=
  withBucket s tag (fun s b =>
    if dOpcode b.desc.toNat = 0x21 then s
    else (owners (commRec s b.comm) (kElems b.desc.toNat)).foldl (fun t k => withBucket t tag (fun t b => sendPart t b k)) s)

/-! The scale pass (R300). -/

/-- The R33 scale byte of a contribution's block, or 00h for an all-zero block. -/
def scaleByteOf (d : Nat) (vals : List Nat) : Nat :=
  let l := vals.map (fun w => widen ((kFmt d).decode w))
  if l.all (fun a => a.val.isZero) then 0 else (quantBlock .e4m3 0 (l.map (fun a => (a, Rmode.rne)))).1

def rangeScales (b : Bucket) (lo n : Nat) : List Byte :=
  (blocksIn lo n).map (fun k => BitVec.ofNat 8 (scaleByteOf b.desc.toNat
    (valsIn b.own (32 * k) (min 32 (kElems b.desc.toNat - 32 * k)))))

/-- Take a rank's scale bytes into the maximum. -/
def maxScales (b : Bucket) (lo : Nat) (l : List Byte) : Bucket :=
  { b with scaleIn := ((List.range l.length).zip l).foldl (fun m e =>
      SMap.put m (lo / 32 + e.1) (max (SMap.get m (lo / 32 + e.1) 0) e.2.toNat)) b.scaleIn }

/-- Messages that the scale bytes of a range of n elements take: 4,096 bytes each. -/
def scaleMsgs (n : Nat) : Nat := ceilDiv (ceilDiv n 32) 4096

/-- Mark of message i of rank k's scale bytes. -/
abbrev scaleMark (k i : Nat) : Nat := k * 2 ^ 34 + i

/-- Send scale bytes to owner k; its own go straight into its maximum. -/
def sendScale (s : State) (b : Bucket) (k : Nat) : State :=
  let r := commRec s b.comm
  let me := cMyRank r
  let rg := ownedRange r (kElems b.desc.toNat) k
  if b.scaleSent.contains k || !covers b.own rg.1 rg.2 || !predecessors s b || cBackup r then s
  else
    let l := rangeScales b rg.1 rg.2
    let b1 := { b with scaleSent := k :: b.scaleSent }
    if k = me then updBucket s { maxScales b1 rg.1 l with scaleFrom := (List.range (scaleMsgs rg.2)).map (scaleMark me) ++ b1.scaleFrom }
    else ctrlTo (updBucket s b1) b1 0x10 me (deviceOf s b.comm k) rg.1 l

/-- The agreed bytes go out once every rank's have come. -/
def agreeScales (s : State) (b : Bucket) : State :=
  let r := commRec s b.comm
  let rg := myRange r (kElems b.desc.toNat)
  if rg.2 = 0 || scalesHave b rg.1 rg.2 || b.scaleFrom.length < cRanks r * scaleMsgs rg.2 then s
  else
    let h := headroomOf r
    let l := (blocksIn rg.1 rg.2).map (fun k => BitVec.ofNat 8 (agreedOf (SMap.get b.scaleIn k 0) h))
    let b1 := { b with scaleTab := ((List.range l.length).zip l).foldl (fun m e => SMap.put m (rg.1 / 32 + e.1) e.2) b.scaleTab }
    ctrlAll (updBucket s b1) b1 0x10 rg.1 l

def scalePass (s : State) (tag : Nat) : State :=
  withBucket s tag (fun s b =>
    if b.needScales then
      withBucket ((owners (commRec s b.comm) (kElems b.desc.toNat)).foldl
        (fun t k => withBucket t tag (fun t b => sendScale t b k)) s) tag agreeScales
    else s)

/-! The fold of an owned shard. -/

/-- Everything the total of a range needs is present. -/
def rangeReady (r : Nat) (b : Bucket) (lo n : Nat) : Bool :=
  if cRanks r = 1 then ownHas r b lo n
  else if cTransport r = 0 then ownHas r b lo n && (otherRanks r).all (fun k => streamHas b k false lo n)
  else (List.range (cGroups r)).all (fun g =>
    if (findStream b g true).isNone then covers b.part lo n else streamHas b g true lo n)

/-- Refold the listed blocks of the owned range with `f`, setting flags anew. -/
def gridBlocks (r : Nat) (b : Bucket) (rg : Nat × Nat) (ks : List Nat) (f : Nat → Nat → Nat × Option Nat) : Bucket :=
  ks.foldl (fun t k =>
    let n := min 32 (rg.1 + rg.2 - 32 * k)
    let vs := (List.range n).map (fun j => (32 * k + j, f r (32 * k + j)))
    let t1 := { t with blockVals := vs.foldl (fun m v => SMap.put m v.1 (v.2.1 + (if v.2.2.isSome then 256 else 0))) t.blockVals
                       flags := SMap.drop t.flags k }
    vs.foldl (fun t v => flagBlock t k v.2.2) t1) b

/-- Flagged blocks whose scale can still rise. -/
def toRepair (b : Bucket) (rg : Nat × Nat) : List Nat :=
  (blocksIn rg.1 rg.2).filter (fun k => SMap.has b.flags k && decide (blockScale b k < 0xFE) && (SMap.get b.flags k 0 % 16 != 0))

/-- Start a repair pass, or declare the fold done (R302). -/
def nextPass (s : State) (b : Bucket) : State :=
  let r := commRec s b.comm
  let rg := myRange r (kElems b.desc.toNat)
  let ks := toRepair b rg
  if ks.isEmpty then updBucket s { b with foldDone := true, repairing := false }
  else
    let b1 := { b with
      repairing := true
      repairVals := []
      bump := ks.foldl (fun m k => SMap.put m k (SMap.get m k 0 + SMap.get b.flags k 0 % 16)) b.bump }
    let s1 := raise (bump (updOp (updBucket s b1) b.tag (fun o => { o with repaired := true })) 0x7080 6) (src 13 3)
    -- whole entries only in a message of 4,096 bytes
    (List.range (ceilDiv ks.length 682)).foldl (fun t i => ctrlAll t b1 0x17 0
      (((ks.drop (682 * i)).take 682).flatMap (fun k => leBytes 5 k ++ [BitVec.ofNat 8 (SMap.get b1.bump k 0)]))) s1

/-- Fold the whole owned shard in BLOCK mode when everything has come; repair elements refold the flagged blocks. -/
def foldBlocks (s : State) (tag : Nat) : State :=
  withBucket s tag (fun s b =>
    let r := commRec s b.comm
    let rg := myRange r (kElems b.desc.toNat)
    if !blockMode r || rg.2 = 0 || b.foldDone then s
    else if b.repairing then
      let ks := (blocksIn rg.1 rg.2).filter (SMap.has b.flags)
      let have_ := (otherRanks r).all (fun k => ks.all (fun x =>
        covers (SMap.get b.repairVals k []) (32 * x) (min 32 (rg.1 + rg.2 - 32 * x))))
      if have_ then nextPass s (gridBlocks r b rg ks (fun r i => repairGrid r b i)) else s
    else if scalesHave b rg.1 rg.2 && rangeReady r b rg.1 rg.2 then
      nextPass s (let g := gridBlocks r { b with flags := [] } rg (blocksIn rg.1 rg.2) (fun r i => totalGrid r b i)
        -- flags that partials carried stay (R301)
        { g with flags := (blocksIn rg.1 rg.2).foldl (fun m k =>
            if SMap.has b.flags k then SMap.put m k (max (SMap.get m k 0) (SMap.get b.flags k 0)) else m) g.flags })
    else s)

/-- The result element of index i in FMT, with its count (R288, R301, R302). -/
def resultElem (r : Nat) (b : Bucket) (i : Nat) : Nat × Count :=
  let f := kFmt b.desc.toNat
  if blockMode r then
    let w := SMap.get b.blockVals i 0
    let q := f.narrow (ofGrid (blockScale b (i / 32)) (w % 256)) 0 .rne false
    if w / 256 = 1 && q.2 != .nan then (q.1, .ovf) else q
  else f.narrow (totalAcc r b i) 0 .rne false

/-- Where the owned shard's index i lies in RESULT_ADDR (R284). -/
def resultAddr (d : Nat) (rg : Nat × Nat) (i : Nat) : Nat :=
  if dOpcode d = 0x22 || dOpcode d = 0x21 then kResult d + kBytes d * i else kResult d + kBytes d * (i - rg.1)

/-- Is the owned shard's result complete. -/
def shardDone (r : Nat) (b : Bucket) : Bool :=
  decide ((myRange r (kElems b.desc.toNat)).2 ≤ b.result.length)

/-! DONE. -/

/-- Backups of the communicator's ranks. -/
def backups (s : State) (c : Nat) : List Nat := (ranksOf s c).filterMap Rank.backup

/-- DONE goes to every backup and, in BLOCK mode, to every rank with the scale bytes of the folded blocks (R296, R302). -/
def sendDone (s : State) (tag : Nat) : State :=
  withBucket s tag (fun s b =>
    let r := commRec s b.comm
    let rg := myRange r (kElems b.desc.toNat)
    if b.doneSent || rg.2 = 0 || !shardDone r b || dOpcode b.desc.toNat = 0x21 then s
    else
      let l := if blockMode r then (blocksIn rg.1 rg.2).map (fun k =>
          BitVec.ofNat 8 (let vs := (List.range (min 32 (rg.1 + rg.2 - 32 * k))).map (fun j =>
              (ofGrid (blockScale b k) (SMap.get b.blockVals (32 * k + j) 0 % 256), Rmode.rne))
            (quantBlock .e4m3 0 vs).1)) else []
      let s1 := (backups s b.comm).foldl (fun t v => ctrlTo t b 0x14 (cMyRank r) v rg.1 l) (updBucket s { b with doneSent := true })
      if blockMode r then
        let s2 := ctrlAll s1 b 0x14 rg.1 l
        let tab := ((List.range l.length).zip l).foldl (fun m e => SMap.put m (b.number * 2 ^ 34 + rg.1 / 32 + e.1) e.2)
          (SMap.get s2.tables b.comm [])
        { s2 with tables := SMap.set s2.tables b.comm tab [] }
      else s1)

/-! The gather (R305). -/

/-- Is the shard to gather ready. -/
def gatherReady (s : State) (r : Nat) (b : Bucket) : Bool :=
  let op := dOpcode b.desc.toNat
  predecessors s b && !cBackup r
    && (op == 0x21 || (op == 0x22 && shardDone r b) || (op == 0x23 && b.updated && shardDone r b))

/-- Send the shard to every other rank and keep it as gathered. The caller gives its elements. -/
def gatherOut (s : State) (b : Bucket) (vals : List Nat) : State :=
  let r := commRec s b.comm
  let d := b.desc.toNat
  let rg := myRange r (kElems d)
  let n := (otherRanks r).length
  let bytes := if dOpcode d = 0x23 then vals.flatMap (leBytes 2) else fmtBytes d vals
  let s1 := updBucket s { b with gatherSent := true, gathered := putVals b.gathered rg.1 vals, sent := b.sent + n * bytes.length }
  if rg.2 = 0 then s1
  else (otherRanks r).foldl (fun t k =>
    sendColl t 6 5 b.comm (cMyRank r) b.number false b.seq (deviceOf t b.comm k) rg.1
      (if dOpcode d = 0x23 then 32 else perLine d) bytes) s1

/-! The end of a bucket. -/

def cInOf (r : Nat) (b : Bucket) : Nat :=
  let d := b.desc.toNat
  if cBackup r then 0
  else if dOpcode d = 0x21 then (let rg := myRange r (kElems d); crcOf d (valsIn b.gathered rg.1 rg.2))
  else crcOf d (b.own.map Prod.snd)

def cOutOf (r : Nat) (b : Bucket) : Nat :=
  let d := b.desc.toNat
  if dOpcode d = 0x20 then (let rg := myRange r (kElems d); crcOf d (valsIn b.result rg.1 rg.2))
  else if dOpcode d = 0x23 then crc64 (b.gathered.flatMap (fun e => leBytes 2 e.2))
  else crcOf d (b.gathered.map Prod.snd)

/-- The digest-ring entry of a finished collective (R307). -/
def digestEntry (s : State) (c seq : Nat) (u : CollRun) : State :=
  let crcs := u.crcs.flatMap (fun e => leBytes 8 e.2.1 ++ leBytes 8 e.2.2)
  let dig := sha3 (leBytes 8 seq ++ leBytes 1 c ++ crcs)
  let q1 := c + (u.lastSeen.getD 0 + 1) * 2 ^ 8 + b2n u.diverge * 2 ^ 28 + b2n u.subst * 2 ^ 29 + b2n u.repaired * 2 ^ 30
    + b2n u.incomplete * 2 ^ 31
  let n := reg s 0x7200 2
  let s1 := domWrite s 0x7200 1 (64 * n) (leBytes 8 seq ++ leBytes 8 q1 ++ dig ++ leBytes 8 (now s) ++ leBytes 8 0)
  raise (setReg s1 0x7200 2 ((n + 1) % 4096)) (src 13 5)

/-- The update step that a bucket belongs to: of its context and communicator (R151). -/
abbrev stepKey (b : Bucket) : Nat := b.ctx * 2 ^ 72 + b.comm * 2 ^ 64 + b.seq

def UpdRun.fresh : UpdRun :=
  { header := none, headerRead := false, entries := [], firstStep := none, status := 0, failed := [], halted := false,
    norms := [], buckets := 0, known := false, q := Acc.zero, factor := Acc.zero, nonfinite := false, skipped := false,
    clipped := false, doneSlices := [], siltSat := 0, nan := 0, ovfl := 0 }

def updOf (s : State) (k : Nat) : UpdRun := SMap.get s.upd k UpdRun.fresh
def setUpd (s : State) (k : Nat) (u : UpdRun) : State := { s with upd := SMap.set s.upd k u UpdRun.fresh }

/-- An RSUG bucket whose reduced shard is whole and whose update slices are not all written (R165). -/
def updatePending (s : State) (b : Bucket) : Bool :=
  let r := commRec s b.comm
  dOpcode b.desc.toNat == 0x23 && !cBackup r && shardDone r b && !(updOf s (stepKey b)).buckets.testBit b.number

/-- When LAST and every earlier bucket have completed, the collective ends: COLL_SEQ rises by 1 (R287). -/
def endCollective (s : State) (c seq : Nat) : State :=
  let u := runOf s c seq
  match u.lastSeen with
  | none => s
  | some l =>
    if u.completed % 2 ^ (l + 1) = 2 ^ (l + 1) - 1 then
      let s1 := digestEntry s c seq u
      let s2 := setReg s1 (0x7100 + c) 3 ((seq + 1) % 2 ^ 64)
      { s2 with colls := SMap.drop s2.colls (runKey c seq)
                buckets := s2.buckets.filter (fun b => !(b.comm == c && b.seq == seq) || updatePending s b) }
    else s

/-- ABORT to every rank (R295). -/
def sendAbort (s : State) (b : Bucket) (st : Nat) : State := ctrlAll s b 0x15 0 [BitVec.ofNat 8 st]

abbrev stIncomplete : Nat := 12

/-- Does ending with this status send ABORT. -/
def abortsOthers (st : Nat) : Bool :=
  st == stAborted || st == stTimeout || st == stContextReset || st == stHwFault

/-- CLIP_MODE of a header. -/
def clipExact (u : UpdRun) : Bool :=
  match u.header with
  | none => false
  | some h => qf h.toNat 0 1 0 == 1

/-- The step's record carries a status; under CLIP_EXACT, before Q is known, no element is updated (R163). -/
def failUpd (u : UpdRun) (st : Nat) : UpdRun :=
  { u with status := if u.status = 0 then st else u.status, skipped := u.skipped || (clipExact u && !u.known) }

/-- The step fails as a whole: what has been updated stays, and nothing more is (R163, R165). -/
def haltUpd (u : UpdRun) (st : Nat) : UpdRun := { failUpd u st with halted := true }

/-- A bucket of an update step that ends without a complete reduced result fails the step (R165). One whose shard is
reduced goes on being updated. -/
def failStep (s : State) (b : Bucket) (st : Nat) : State :=
  if dOpcode b.desc.toNat = 0x23 && st != 0 && !updatePending s b then
    let u := updOf s (stepKey b)
    if cBackup (commRec s b.comm) || u.buckets.testBit b.number then s
    else setUpd s (stepKey b) (haltUpd { u with buckets := setBit u.buckets b.number true } st)
  else s

/-- End a bucket with a status: its record becomes due, its area is free, and the collective may end with it. -/
def finishBucket (s : State) (b : Bucket) (st : Nat) : State :=
  let r := commRec s b.comm
  let s0 := match b.areaNum with
    | none => s
    | some n => releaseArea s n
  let s1 := updBucket s0 { b with finished := true, status := st, areaNum := none, needsArea := false }
  let s2 := nextFree (updOp s1 b.tag (fun o => if o.ended then o else
    { o with status := st, ended := true, waves := b.sent, energy := Config.energyEstimate s1.freeCtr }))
  let u := runOf s2 b.comm b.seq
  let o := (findOp s2 b.tag)
  let s3 := setRun s2 b.comm b.seq { u with
    completed := setBit u.completed b.number true
    crcs := SMap.put u.crcs b.number (cInOf r b, cOutOf r b)
    diverge := u.diverge || (o.map Op.diverge).getD false
    subst := u.subst || (o.map Op.subst).getD false
    repaired := u.repaired || (o.map Op.repaired).getD false
    incomplete := u.incomplete || st != 0 }
  let s4 := failStep s3 b st
  endCollective (if abortsOthers st then sendAbort s4 b st else s4) b.comm b.seq

/-- May the bucket end with OK (R305). The fused scalar reduction of RSUG belongs to the bucket (R160, log 82). -/
def bucketDone (s : State) (b : Bucket) : Bool :=
  let r := commRec s b.comm
  let d := b.desc.toNat
  let op := dOpcode d
  let os := owners r (kElems d)
  let doneAll := os.all (fun k => (k == cMyRank r && !cBackup r) || b.doneFrom.contains k)
  if cBackup r then op == 0x21 || doneAll
  else
    let sends := op == 0x21 || os.all (fun k => b.sentParts.contains k)
    let shard := op == 0x21 || shardDone r b
    let blk := op == 0x21 || !blockMode r || doneAll
    let gath := op == 0x20 || (b.gatherSent && covers b.gathered 0 (kElems d))
    let norm := op != 0x23 || b.normOut.isSome
    sends && shard && blk && gath && norm

/-- Areas that wait for a number (R289). -/
def claimArea (s : State) (tag : Nat) : State :=
  withBucket s tag (fun s b =>
    if b.needsArea && b.areaNum.isNone then
      let r := commRec s b.comm
      let z := (myRange r (kElems b.desc.toNat)).2 * kBytes b.desc.toNat
      let len := max 1 (ceilDiv z 5120)
      match freeArea s with
      | none => s
      | some n =>
        let g : BitVec 512 := BitVec.ofNat 512 (kStage b.desc.toNat + kFmtCode b.desc.toNat * 2 ^ 44 + (cRanks r - 1) * 2 ^ 48
          + n * 2 ^ 54 + (kStage b.desc.toNat + 5120 * len) * 2 ^ 64 + len * 2 ^ 128 + groupStarts r * 2 ^ 192)
        if regRefused s g.toNat then s else updBucket (registerArea s g) { b with areaNum := some n }
    else s)

/-- Send and fold whatever has become possible. The gather of RSUG is sent by the update (R305). -/
def pump (s : State) (tag : Nat) : State :=
  let s1 := claimArea s tag
  let s2 := scalePass s1 tag
  let s3 := sendParts s2 tag
  let s4 := foldBlocks s3 tag
  let s5 := sendDone s4 tag
  withBucket s5 tag (fun s b =>
    let r := commRec s b.comm
    let d := b.desc.toNat
    let rg := myRange r (kElems d)
    if gatherReady s r b && !b.gatherSent && dOpcode d != 0x23 then
      let vals := if dOpcode d = 0x21 then (List.range rg.2).map (fun j => memVal s (kSrc d + kBytes d * j) (kBytes d))
        else valsIn b.result rg.1 rg.2
      let s1 := if dOpcode d = 0x21 then memWrite s (kResult d + kBytes d * rg.1) (fmtBytes d vals) else s
      gatherOut s1 b vals
    else s)

/-- Every bucket of the device, after a change that may let any of them proceed. -/
def pumpAll (s : State) : State := (s.buckets.map Bucket.tag).foldl pump s

end Sys2Proof.Machine
end

