-- ==== Sys2Proof/Machine/Update.lean ====
section
/-! DEFINITION. The optimizer update (ch. 08): the update table, element updates (R155 to R158), clipping (R159 to R162),
update slices and the norm record (R164). -/

namespace Sys2Proof.Machine

/-! Header (Table 8.1) and entries (Table 8.2). -/
def hClip (h : Nat) : Nat := qf h 0 1 0
def hComm (h : Nat) : Nat := qf h 0 23 16
def hBuckets (h : Nat) : Nat := qf h 0 43 24
def hEntries (h : Nat) : Nat := qf h 0 63 44
def hC (h : Nat) : Nat := qf h 1 31 0
def hWork (h : Nat) : Nat := qf h 2 43 0
def hWorkBytes (h : Nat) : Nat := qf h 3 39 0
def hNorm (h : Nat) : Nat := qf h 4 43 0

def uOpt (e : Nat) : Nat := qf e 0 1 0
def uSr (e : Nat) : Bool := qf e 0 2 2 == 1
def uId (e : Nat) : Nat := qf e 0 39 16
def uW (e : Nat) : Nat := qf e 1 43 0
def uBucket (e : Nat) : Nat := qf e 1 63 44
def uSilt (e : Nat) : Nat := qf e 2 43 0
def uM (e : Nat) : Nat := qf e 3 43 0
def uMs (e : Nat) : Nat := qf e 4 43 0
def uV (e : Nat) : Nat := qf e 5 43 0
def uVs (e : Nat) : Nat := qf e 6 43 0
def uElems (e : Nat) : Nat := qf e 7 39 0
def uOffset (e : Nat) : Nat := qf e 8 39 0
def uStream (e : Nat) : Nat := qf e 9 31 0
def uStep (e : Nat) : Nat := qf e 10 63 0

/-- An FP32 field widened by R36. -/
def f32 (w : Nat) : Acc := widen (Fmt.fp32.decode w)
def toF32 (a : Acc) : Nat := (Fmt.fp32.narrow a 0 .rne false).1

def uLr (e : Nat) : Acc := f32 (qf e 11 31 0)
def uDecay (e : Nat) : Acc := f32 (qf e 11 63 32)
def uBeta1 (e : Nat) : Acc := f32 (qf e 12 31 0)
def uOmb1 (e : Nat) : Acc := f32 (qf e 12 63 32)
def uBeta2 (e : Nat) : Acc := f32 (qf e 13 31 0)
def uOmb2 (e : Nat) : Acc := f32 (qf e 13 63 32)
def uEps2 (e : Nat) : Nat := qf e 14 31 0
def uScale (e : Nat) : Acc := f32 (qf e 14 63 32)

/-- An FP32 field that is a positive finite value. -/
def posFinite (w : Nat) : Bool := decide (0 < w) && decide (w < 0x7F800000)

/-- Address of entry n of a context's table, and the entry in memory. -/
def updAddr (s : State) (c n : Nat) : Nat := recUpd (ctxRec s c) + 64 + 128 * n
def updEntry (s : State) (c n : Nat) : Nat := memVal s (updAddr s c n) 128

/-- The entry a step uses: as read, or as it stands in memory when it has not been read. -/
def entryNow (s : State) (c : Nat) (u : UpdRun) (n : Nat) : Nat :=
  match SMap.find u.entries n with
  | none => updEntry s c n
  | some e => e.toNat

/-- A tensor's part of a bucket range, in tensor elements: first and count. -/
def tensorPart (e lo n : Nat) : Nat × Nat :=
  let a := max lo (uOffset e)
  let z := min (lo + n) (uOffset e + uElems e)
  (a - uOffset e, z - a)

/-- Numbers of the entries that map some element of a range of a bucket. -/
def entriesFor (s : State) (c : Nat) (u : UpdRun) (num lo n : Nat) : List Nat :=
  match u.header with
  | none => []
  | some h => (List.range (hEntries h.toNat)).filter (fun k =>
      let e := entryNow s c u k
      uBucket e == num && (tensorPart e lo n).2 != 0)

/-- The entry that maps index i of a bucket. -/
def entryAt (s : State) (c : Nat) (u : UpdRun) (num i : Nat) : Option Nat := (entriesFor s c u num i 1).head?

/-! Reading the table (R152, R163). -/

/-- Bytes of held gradient and chunk partials that CLIP_EXACT needs for one shard. -/
def workNeed (n bytes : Nat) : Nat := n * bytes + 8 * ceilDiv n 64

/-- Under CLIP_EXACT, the work area does not hold what the shards of the buckets posted so far need. -/
def workBad (s : State) (h key : Nat) : Bool :=
  hClip h == 1 && decide (hWorkBytes h < (s.buckets.filter (fun b => stepKey b == key && dOpcode b.desc.toNat == 0x23)).foldl
    (fun t b => t + workNeed (myRange (commRec s b.comm) (kElems b.desc.toNat)).2 (kBytes b.desc.toNat)) 0)

/-- FORMAT_ERROR of a header. R163 names CLIP_C and the work area; reserved values and bits, another VERSION and no bucket
are refused beside them (log 82). -/
def headerBad (s : State) (h key : Nat) : Bool :=
  decide (2 ≤ hClip h) || qf h 0 7 2 != 0 || qf h 0 15 8 != 1 || hBuckets h == 0 || hEntries h == 0 || qf h 1 63 32 != 0
    || qf h 2 63 44 != 0 || qf h 3 63 40 != 0 || qf h 4 63 44 != 0 || (List.range 3).any (fun n => qf h (5 + n) 63 0 != 0)
    || (hClip h == 1 && !posFinite (hC h)) || workBad s h key

/-- The context's table header in memory, when the table is its communicator's. -/
def headerIn (s : State) (key : Nat) : Option Nat :=
  let r := ctxRec s (key / 2 ^ 72)
  let h := memVal s (recUpd r) 64
  if recUpd r != 0 && inLoamWin r (recUpd r) 64 && hComm h == key / 2 ^ 64 % 256 then some h else none

/-- The header of a step: as read, or as it stands in memory before it has been read. -/
def headerNow (s : State) (key : Nat) : Option Nat :=
  let u := updOf s key
  if u.headerRead then u.header.map BitVec.toNat else headerIn s key

/-- Read the header once in a step (R152). A table of another communicator updates nothing of this step (R151); without a
table the step fails with ADDRESS_ERROR. -/
def readHeader (s : State) (key : Nat) : State :=
  let u := updOf s key
  let r := ctxRec s (key / 2 ^ 72)
  if u.headerRead then s
  else match headerIn s key with
    | none =>
      let u1 := { u with headerRead := true }
      setUpd s key (if recUpd r = 0 || !inLoamWin r (recUpd r) 64 then haltUpd u1 stAddress else u1)
    | some h =>
      let u1 := { u with header := some (BitVec.ofNat 512 h), headerRead := true }
      setUpd s key (if headerBad s h key then { haltUpd u1 stFormat with skipped := true }
        else if u.status ≠ 0 && hClip h = 1 then { u1 with skipped := true } else u1)

def entryReserved (e : Nat) : Bool :=
  uOpt e == 3 || qf e 0 7 3 != 0 || qf e 0 15 8 != 1 || qf e 0 63 40 != 0 || qf e 2 63 44 != 0 || qf e 3 63 44 != 0
    || qf e 4 63 44 != 0 || qf e 5 63 44 != 0 || qf e 6 63 44 != 0 || qf e 7 63 40 != 0 || qf e 8 63 40 != 0
    || qf e 9 63 32 != 0 || qf e 15 63 0 != 0 || uElems e == 0 || decide (uStream e < 0x10000)

/-- Tensor ranges that an entry names, all inside the window. -/
def entryInside (r e : Nat) : Bool :=
  inLoamWin r (uW e) (2 * uElems e) && (uSr e || inLoamWin r (uSilt e) (uElems e))
    && inLoamWin r (uM e) (32 * ceilDiv (uElems e) 32) && inLoamWin r (uMs e) (ceilDiv (uElems e) 32)
    && (uOpt e != 1 || (inLoamWin r (uV e) (32 * ceilDiv (uElems e) 32) && inLoamWin r (uVs e) (ceilDiv (uElems e) 32)))

/-- Status of an entry's checks (R163). -/
def entryStatus (s : State) (c n e : Nat) : Nat :=
  if !inLoamWin (ctxRec s c) (updAddr s c n) 128 then stAddress
  else if entryReserved e || (uOpt e == 1 && !posFinite (uEps2 e)) then stFormat
  else if !entryInside (ctxRec s c) e then stAddress
  else stOk

/-- The owned range does not begin and end on blocks of the tensor (R153). -/
def misaligned (e : Nat) (rg : Nat × Nat) : Bool :=
  let p := tensorPart e rg.1 rg.2
  p.1 % 32 != 0 || ((p.1 + p.2) % 32 != 0 && p.1 + p.2 != uElems e)

/-- Read entry n once in a step. -/
def readEntry (s : State) (c key : Nat) (rg : Nat × Nat) (n : Nat) : State :=
  let u := updOf s key
  if SMap.has u.entries n then s
  else
    let e := updEntry s c n
    let st := entryStatus s c n e
    let u1 := { u with entries := SMap.put u.entries n (BitVec.ofNat 1024 e), firstStep := some (u.firstStep.getD (uStep e)) }
    setUpd s key (if st ≠ 0 then failUpd { u1 with failed := n :: u1.failed } st
      else if misaligned e rg then haltUpd u1 stFormat else u1)

/-! Norms (R159, R160, R303). -/

/-- gs of index i of a bucket. -/
def gradScaled (s : State) (u : UpdRun) (b : Bucket) (i : Nat) : Option Acc :=
  match entryAt s b.ctx u b.number i with
  | none => none
  | some n => some (accMul (widen ((kFmt b.desc.toNat).decode (SMap.get b.result i 0))) (uScale (entryNow s b.ctx u n)))

/-- The squared norm of this device's owned shard. -/
def shardNorm (s : State) (b : Bucket) : Acc :=
  let rg := myRange (commRec s b.comm) (kElems b.desc.toNat)
  let u := updOf s (stepKey b)
  (foldSquares ((List.range rg.2).map (fun j => gradScaled s u b (rg.1 + j)))).getD Acc.zero

/-- The bucket's squared norm is known on this device. -/
def setNorm (s : State) (b : Bucket) (v : Acc) : State :=
  let u := updOf s (stepKey b)
  setUpd (updBucket s { b with normOut := some v }) (stepKey b) { u with norms := SMap.put u.norms b.number v }

/-- Key of a group's norm at rank 0. -/
abbrev gkey (g : Nat) : Nat := 2 ^ 20 + g

/-- Rank 0 folds the group values and tells every rank; a leader folds its members' and tells rank 0. -/
def foldNorms (s : State) (b : Bucket) : State :=
  let r := commRec s b.comm
  let me := cMyRank r
  let g := groupOfRank r me
  let ms := membersOf r g
  let lead := leaderOf r g == me && ms.all (fun k => SMap.has b.norms k) && !SMap.has b.norms (gkey g)
  let v := (foldPart accAdd (ms.map (fun k => SMap.get b.norms k Acc.zero))).getD Acc.zero
  let b1 := if lead then { b with norms := SMap.put b.norms (gkey g) v } else b
  let s1 := if lead then
      (if me = 0 then updBucket s b1
       else ctrlTo (updBucket s b1) b1 0x16 g (deviceOf s b.comm 0) 0 (leBytes 8 (accEntry v)))
    else s
  if me = 0 && b1.normOut.isNone && (List.range (cGroups r)).all (fun k => SMap.has b1.norms (gkey k)) then
    let q := (foldPart accAdd ((List.range (cGroups r)).map (fun k => SMap.get b1.norms (gkey k) Acc.zero))).getD Acc.zero
    setNorm (ctrlAll s1 b1 0x16 0 (leBytes 8 (accEntry q))) b1 q
  else s1

/-- The owned shard's norm enters the scalar reduction once its sum is complete (R160). -/
def sendNorm (s : State) (tag : Nat) : State :=
  withBucket s tag (fun s b =>
    let r := commRec s b.comm
    let me := cMyRank r
    let g := groupOfRank r me
    if dOpcode b.desc.toNat != 0x23 || b.normSent || cBackup r || !shardDone r b then s
    else
      let v := shardNorm s b
      let b1 := { b with normSent := true, norms := SMap.put b.norms me v }
      if leaderOf r g = me then foldNorms (updBucket s b1) b1
      else ctrlTo (updBucket s b1) b1 0x16 me (deviceOf s b.comm (leaderOf r g)) 0 (leBytes 8 (accEntry v)))

/-! Element updates (R155 to R158). -/

/-- sign of LION: a NaN stays NaN. -/
def accSign (x : Acc) : Acc :=
  if x.isNan then Acc.nan x.ovf
  else if x.val.isZero then mkAcc false 0 x.ovf
  else { accOfNat 1 with bits := if x.isNeg then (accNeg (accOfNat 1)).bits else (accOfNat 1).bits, ovf := x.ovf }

/-- m1, v1 and delta of R155. -/
def stepDelta (e : Nat) (g w m v : Acc) : Acc × Acc × Acc :=
  let dec := accMul (accNeg (uDecay e)) w
  let nlr := accNeg (uLr e)
  if uOpt e = 0 then
    let m1 := accFma (uBeta1 e) m g
    (m1, Acc.zero, accFma nlr m1 dec)
  else if uOpt e = 1 then
    let m1 := accFma (uBeta1 e) m (accMul (uOmb1 e) g)
    let v1 := accFma (uBeta2 e) v (accMul (accMul g g) (uOmb2 e))
    let u := accMul m1 (accRsqrt (accAdd v1 (f32 (uEps2 e))))
    (m1, v1, accFma nlr u dec)
  else
    let c := accFma (uBeta1 e) m (accMul (uOmb1 e) g)
    let m1 := accFma (uBeta2 e) m (accMul (uOmb2 e) g)
    (m1, Acc.zero, accFma nlr (accSign c) dec)

/-- Exponent of ulp of a BF16 value. -/
def ulpExp (w : Nat) : Int := let ef := fld w 14 7; if ef = 0 then -133 else (ef : Int) - 134

/-- Round an exact dyadic to an integer, ties to even. -/
def dyRne (d : Dy) : Int := if d.1 < 0 then -(shiftRne d.1.natAbs d.2 : Int) else (shiftRne d.1.natAbs d.2 : Int)

/-- A two's-complement byte. -/
def sbyte (x : Nat) : Int := if 128 ≤ x % 256 then (x % 256 : Int) - 256 else (x % 256 : Int)

/-- ex of R156: w, the silt and delta summed exactly and rounded once. An exact zero is +0: the silt, an integer, is never
a negative zero, so the terms are never all -0 (Table 3.2). -/
def exOf (w silt : Nat) (delta : Acc) : Acc :=
  let wv := ofBf16 w
  if wv.isNan || delta.isNan then Acc.nan (wv.ovf || delta.ovf)
  else rnd (Dy.add (Dy.add wv.val.dy (sbyte silt, ulpExp w - 8)) delta.val.dy) false (wv.ovf || delta.ovf)

/-- The new weight, silt, its saturation and its count under SILT (R156). -/
def siltRule (w silt : Nat) (delta : Acc) : Nat × Nat × Bool × Count :=
  let ex := exOf w silt delta
  let q := Fmt.bf16.narrow ex 0 .rne false
  if ex.isNan then (0x7FC0, 0, false, q.2)
  else
    let d := Dy.add ex.val.dy (Dy.neg (ofBf16 q.1).val.dy)
    let k := dyRne (d.1, d.2 + 8 - ulpExp q.1)
    let c : Int := min (max k (-128)) 127
    (q.1, (c % 256).toNat, c != k, q.2)

/-- One element's new w, silt, m1 and v1, its silt saturation and the weight's count. -/
structure NewElem where
  w    : Nat
  silt : Nat
  m1   : Acc
  v1   : Acc
  sat  : Bool
  cnt  : Count

/-- The element with flat index i of entry e, reduced gradient gin. -/
def newElem (s : State) (c e i : Nat) (f gin m v : Acc) : NewElem :=
  let gs := accMul gin (uScale e)
  let g := if f.bits == (accOfNat 1).bits then gs else accMul gs f
  let w := memVal s (uW e + 2 * i) 2
  let d := stepDelta e g (ofBf16 w) m v
  if uSr e then
    let q := Fmt.bf16.narrow (accAdd (ofBf16 w) d.2.2) 0 (.sr (srBits (ctxSeed s c) (uStream e) (uStep e) (uId e) i)) false
    { w := q.1, silt := 0, m1 := d.1, v1 := d.2.1, sat := false, cnt := q.2 }
  else
    let q := siltRule w (memByte s (uSilt e + i)).toNat d.2.2
    { w := q.1, silt := q.2.1, m1 := d.1, v1 := d.2.1, sat := q.2.2.1, cnt := q.2.2.2 }

/-- A moment element: FP8 with its block's scale. -/
def readMoment (s : State) (f : Fmt) (a sc i : Nat) : Acc :=
  widen ((f.decode (memByte s (a + i)).toNat).scale (memByte s (sc + i / 32)).toNat)

/-- Quantize one block of moments (R155) and store it; padding positions are zeros (R31). -/
def writeMoment (s : State) (c e : Nat) (f : Fmt) (id a sc blk : Nat) (l : List Acc) : State × List Count :=
  let modes := (List.range l.length).map (fun j =>
    Rmode.sr (srBits (ctxSeed s c) (uStream e) (uStep e) ((uId e + id) % 2 ^ 24) (32 * blk + j)))
  let q := quantBlock f 0 (l.zip modes)
  let nan := q.1 == 255
  (memWrite (memWrite s (a + 32 * blk) (padTo 32 (q.2.map (fun x => BitVec.ofNat 8 x.1)))) (sc + blk) [BitVec.ofNat 8 q.1],
   if nan then List.replicate 32 Count.nan else q.2.map Prod.snd)

/-- Does a slice meet poison. -/
def slicePoison (s : State) (e i0 n : Nat) : Bool :=
  rangePoisoned s (uW e + 2 * i0) (2 * n) || (!uSr e && rangePoisoned s (uSilt e + i0) n) || rangePoisoned s (uM e + i0) n
    || rangePoisoned s (uMs e + i0 / 32) (ceilDiv n 32)
    || (uOpt e == 1 && (rangePoisoned s (uV e + i0) n || rangePoisoned s (uVs e + i0 / 32) (ceilDiv n 32)))

/-- Write a slice's moments block by block, and count what each block meets (R154, R155). -/
def writeMoments (t : State × List Count) (c e i0 : Nat) (fm : Fmt) (id a sc : Nat) (vals : List Acc) : State × List Count :=
  (List.range (ceilDiv vals.length 32)).foldl (fun t k =>
    let r := writeMoment t.1 c e fm id a sc (i0 / 32 + k) ((vals.drop (32 * k)).take 32)
    (r.1, t.2 ++ r.2)) t

/-- Write the slice [i0, i0 + n) of entry e: weights, silt, m and v together (R154). -/
def writeSlice (s : State) (b : Bucket) (e i0 n : Nat) (f : Acc) : State × List Count × Nat :=
  let c := b.ctx
  let d := b.desc.toNat
  let el := (List.range n).map (fun j =>
    let i := i0 + j
    newElem s c e i f (widen ((kFmt d).decode (SMap.get b.result (uOffset e + i) 0)))
      (readMoment s .e4m3 (uM e) (uMs e) i) (if uOpt e = 1 then readMoment s .e5m2 (uV e) (uVs e) i else Acc.zero))
  let s1 := memWrite s (uW e + 2 * i0) (el.flatMap (fun x => leBytes 2 x.w))
  let s2 := if uSr e then s1 else memWrite s1 (uSilt e + i0) (el.map (fun x => BitVec.ofNat 8 x.silt))
  let t1 := writeMoments (s2, []) c e i0 .e4m3 1 (uM e) (uMs e) (el.map NewElem.m1)
  let t2 := if uOpt e = 1 then writeMoments t1 c e i0 .e5m2 2 (uV e) (uVs e) (el.map NewElem.v1) else t1
  (t2.1, el.map NewElem.cnt ++ t2.2, (el.filter NewElem.sat).length)

/-! Slices. -/

/-- The owned part of a tensor, in tensor elements. -/
def ownedPart (s : State) (b : Bucket) (e : Nat) : Nat × Nat :=
  let rg := myRange (commRec s b.comm) (kElems b.desc.toNat)
  tensorPart e rg.1 rg.2

/-- The slice that starts at `first` (R154): a multiple of 32,768 or the start of the owned range; its length. -/
def sliceLen (p : Nat × Nat) (first : Nat) : Nat :=
  if (first == p.1 || first % 32768 == 0) && decide (p.1 ≤ first) && decide (first < p.1 + p.2) then
    min (32768 - first % 32768) (p.1 + p.2 - first)
  else 0

/-- First elements of the slices of an owned part. -/
def sliceStarts (p : Nat × Nat) : List Nat :=
  if p.2 = 0 then []
  else p.1 :: ((List.range (ceilDiv (p.1 + p.2) 32768)).map (· * 32768)).filter (fun x => decide (p.1 < x) && decide (x < p.1 + p.2))

/-- May slices of the step run: its factor is known, or clipping is off. -/
def factorOf (u : UpdRun) : Option Acc :=
  if u.skipped || u.halted then none else if clipExact u then (if u.known then some u.factor else none) else some (accOfNat 1)

/-- The slice at `first` of entry n of a bucket is ready to run on engine k. -/
def sliceReady (s : State) (b : Bucket) (k n first : Nat) : Bool :=
  let u := updOf s (stepKey b)
  let e := entryNow s b.ctx u n
  let len := sliceLen (ownedPart s b e) first
  SMap.has u.entries n && !u.failed.contains n && !u.doneSlices.contains (n, first) && uBucket e == b.number
    && (factorOf u).isSome && len != 0 && covers b.result (uOffset e + first) len
    && regionOf (uW e + 2 * first) == k

/-- May update slices of a context run: it is RESIDENT, or a checkpoint waits for what is in flight (R165, R200). -/
def updatesRun (s : State) (c : Nat) : Bool := ctxState s c == 3 || ctxState s c == 5

/-- Some update slice is ready on engine k (R131). -/
def updateReady (s : State) (k : Nat) : Bool :=
  s.buckets.any (fun b => dOpcode b.desc.toNat == 0x23 && updatesRun s b.ctx
    && (updOf s (stepKey b)).entries.any (fun x =>
      (sliceStarts (ownedPart s b x.2.toNat)).any (fun f => sliceReady s b k x.1 f)))

/-- The owned shard of a bucket needs no more slices: every slice is written, failed or skipped. -/
def shardWritten (s : State) (b : Bucket) : Bool :=
  let u := updOf s (stepKey b)
  let r := commRec s b.comm
  let rg := myRange r (kElems b.desc.toNat)
  shardDone r b && (u.skipped || u.halted
    || ((factorOf u).isSome && (entriesFor s b.ctx u b.number rg.1 rg.2).all (fun n =>
      u.failed.contains n || (sliceStarts (ownedPart s b (entryNow s b.ctx u n))).all (fun f => u.doneSlices.contains (n, f)))))

/-- BF16 weights of the owned range; an index no entry maps travels as 0. -/
def shardWeights (s : State) (b : Bucket) : List Nat :=
  let rg := myRange (commRec s b.comm) (kElems b.desc.toNat)
  let u := updOf s (stepKey b)
  (List.range rg.2).map (fun j =>
    match entryAt s b.ctx u b.number (rg.1 + j) with
    | none => 0
    | some n => let e := entryNow s b.ctx u n; memVal s (uW e + 2 * (rg.1 + j - uOffset e)) 2)

/-- Once the owned shard's last slice is written, its weights are gathered (R305). -/
def settleShard (s : State) (tag : Nat) : State :=
  match s.buckets.find? (fun b => b.tag == tag && updatePending s b) with
  | none => s
  | some b =>
    if shardWritten s b then
      let u := updOf s (stepKey b)
      let s1 := setUpd s (stepKey b) { u with buckets := setBit u.buckets b.number true }
      if !b.finished then gatherOut s1 { b with updated := true } (shardWeights s1 b)
      else if SMap.has s1.colls (runKey b.comm b.seq) then s1
      else { s1 with buckets := s1.buckets.filter (fun x => !(x.comm == b.comm && x.seq == b.seq && x.number == b.number)) }
    else s

/-- Steps of an update slice (Table 8.7), in proportion to its elements. -/
def sliceSteps (e n bytes : Nat) : Nat :=
  let base := if uOpt e = 1 then 120 else if uOpt e = 0 then (if bytes = 4 then 97 else 81) else (if bytes = 4 then 97 else 88)
  max 1 (ceilDiv (base * n) 32768)

/-- The oldest update step of a context, and one of its buckets. -/
def stepOf (s : State) (c : Nat) : Option Nat := (s.upd.find? (fun e => e.1 / 2 ^ 72 == c)).map Prod.fst

end Sys2Proof.Machine
end

