-- ==== Sys2Proof/Machine/Vector.lean ====
section
/-! DEFINITION. Vector engines (ch. 06): resources, programs, the choice between classes of work, and the forms of an
instruction (R111 to R120, R128 to R131). -/

namespace Sys2Proof.Machine

/-! Resources. -/
abbrev tkey (b r c : Nat) : Nat := b * 2 ^ 44 + r * 2 ^ 22 + c
abbrev skey (sl i : Nat) : Nat := sl * 2 ^ 22 + i

/-- An unspecified acc48 value (log 3). -/
def freeAcc (k : Nat) : Acc :=
  { bits := BitVec.ofNat 48 (Config.freeValue k), ovf := (Config.freeValue k).testBit 48 }

/-- An unlisted element: +0, or unspecified in a shared buffer after a YIELD. -/
def tbAt (e : Engine) (b r c : Nat) : Acc :=
  (SMap.find e.tb (tkey b r c)).getD (match e.shared with
    | some k => if b = 3 then freeAcc (k + tkey b r c) else Acc.zero
    | none => Acc.zero)

def slotAt (e : Engine) (sl i : Nat) : Option Acc :=
  (SMap.find e.slots (skey sl i)).getD (match e.shared with
    | some k => if 32 ≤ sl then some (freeAcc (k + 2 ^ 47 + skey sl i)) else none
    | none => none)

def maskAt (e : Engine) (m r c : Nat) : Bool :=
  (SMap.find e.masks (tkey m r c)).getD (match e.shared with
    | some k => if 2 ≤ m then (Config.freeValue (k + 2 ^ 48 + tkey m r c)).testBit 0 else false
    | none => false)

def putTb (e : Engine) (b : Nat) (l : List (Nat × Nat × Acc)) : Engine :=
  { e with tb := l.foldl (fun m x => SMap.put m (tkey b x.1 x.2.1) x.2.2) e.tb }

def putSlot (e : Engine) (sl kind : Nat) (l : List (Nat × Option Acc)) : Engine :=
  { e with slots := l.foldl (fun m x => SMap.put m (skey sl x.1) x.2) e.slots
           slotKind := SMap.set e.slotKind sl kind 0
           argRun := l.foldl (fun m x => SMap.drop m (skey sl x.1)) e.argRun }

def putMask (e : Engine) (m : Nat) (l : List (Nat × Nat × Bool)) : Engine :=
  { e with masks := l.foldl (fun t x => SMap.put t (tkey m x.1 x.2.1) x.2.2) e.masks }

/-- What an entry without a value stands for, by the reduction that wrote the slot (Table 6.4), in acc48: 0 sums and
composites, 1 product, 2 maximum and log-sum-exp, 3 minimum, 4 positions (the INT32 value FFFF_FFFFh). -/
def emptyAcc (k : Nat) : Acc :=
  if k = 1 then accOfNat 1 else if k = 2 then mkAcc true accMaxBits false else if k = 3 then mkAcc false accMaxBits false
  else if k = 4 then accNeg (accOfNat 1) else Acc.zero

/-- The same as FP32 (Table 6.4). -/
def emptyF32 (k : Nat) : Nat :=
  if k = 1 then 0x3F800000 else if k = 2 then 0xFF800000 else if k = 3 then 0x7F800000 else if k = 4 then 0x4F800000 else 0

/-- A slot entry as an operand. -/
def slotVal (e : Engine) (sl i : Nat) : Acc := (slotAt e sl i).getD (emptyAcc (SMap.get e.slotKind sl 0))

/-- A slot entry as FP32 (R122): round to nearest even, saturating. -/
def slotF32 (e : Engine) (sl i : Nat) : Nat :=
  match slotAt e sl i with
  | none => emptyF32 (SMap.get e.slotKind sl 0)
  | some a => toF32 a

/-! Programs. -/

/-- The bank of a class: E for epilogues, P for the others (R130). -/
def bankOf (e : Engine) (k : WorkClass) : Bank := if k = .epilogue then e.bankE else e.bankP
def setBank (e : Engine) (k : WorkClass) (b : Bank) : Engine :=
  if k = .epilogue then { e with bankE := b } else { e with bankP := b }

def scAt (b : Bank) (n : Nat) : Acc := SMap.get b.sc n Acc.zero
def arAt (b : Bank) (n : Nat) : Nat := SMap.get b.ar n 0
def setSc (b : Bank) (n : Nat) (a : Acc) : Bank := { b with sc := SMap.set b.sc n a Acc.zero }
def setAr (b : Bank) (n v : Nat) : Bank := { b with ar := SMap.set b.ar n v 0 }

/-- The program of a class on an engine. SIEVE and UPDATE work runs whole (Sieve.lean, UpdateOps.lean). -/
def progOf (e : Engine) (k : WorkClass) : Option Prog := if k = .epilogue then e.epi else e.run
def setProg (e : Engine) (k : WorkClass) (p : Option Prog) : Engine :=
  if k = .epilogue then { e with epi := p } else { e with run := p }

/-- The holder-to-be of a free engine: the oldest queued program, its bank restored (R130). -/
def takeProg (e : Engine) : Engine :=
  match e.run, e.queue with
  | none, p :: l => { e with run := some p, queue := l, bankP := p.saved.getD e.bankP }
  | _, _ => e

/-- Sieve work ready on engine n (R172, R173): a recheck comes first, then checks in capture order. -/
def sieveJob (s : State) (n : Nat) : Option Capture :=
  match s.caps.find? (fun c => c.failed.isSome && (n == c.firstEngine + 1 - 2 * (c.firstEngine % 2))) with
  | some c => some c
  | none => s.caps.find? (fun c => c.complete && c.failed.isNone && c.array == n)

/-- Below its minimum share of the window (R131). -/
def belowShare (have_ min_ : Nat) : Bool := decide (have_ * 64 < min_ * 4096)

def sieveEntitled (s : State) (n : Nat) : Bool :=
  (sieveJob s n).isSome && belowShare (engineOf s n).winSieve (reg s (0x2300 + n) 3)
def updateEntitled (s : State) (n : Nat) : Bool :=
  updateReady s n && belowShare (engineOf s n).winUpdate (reg s (0x2300 + n) 4)

/-- The class the engine runs next (R131). Only YIELD and END free the shared resources. -/
def chosen (s : State) (n : Nat) : Option WorkClass :=
  let e := engineOf s n
  let epi := match e.epi with
    | some p => !p.waiting
    | none => false
  if e.run.isNone && sieveEntitled s n then some .sieve
  else if e.run.isNone && updateEntitled s n then some .update
  else if epi then some .epilogue
  else if e.run.isNone && updateReady s n then some .update
  else match e.run with
    | some p => if p.waiting then none else some .program
    | none =>
      if !e.queue.isEmpty then some .program
      else if (sieveJob s n).isSome then some .sieve
      else none

/-- Is an engine held for a targeted self-test (R391). -/
def engineHeld (s : State) (n : Nat) : Bool := s.rel.tests.any (fun t => t.running && t.unit == 4 + n)

/-- May engine n run an instruction of class k now. -/
def mayRun (s : State) (n : Nat) (k : WorkClass) : Bool :=
  stepsRun s && !engineRetired s n && !engineHeld s n && chosen s n == some k

/-- Counter of a class (Table 6.7). -/
def classSub (k : WorkClass) : Nat :=
  match k with
  | .epilogue => 6
  | .update => 7
  | .program => 8
  | .sieve => 9

/-- A class entitled to its share that another class keeps from the engine by holding TB3 (R131). -/
def shareMissed (s : State) (n : Nat) : Bool :=
  (engineOf s n).run.isSome && (sieveEntitled s n || updateEntitled s n)

/-- Count steps of a class: the totals, the rate, the window, and a share missed at this boundary (R112, R128, R131). -/
def countSteps (s : State) (n : Nat) (k : WorkClass) (steps : Nat) : State :=
  let s1 := bumpBy (bumpBy s (0x2300 + n) 5 steps) (0x2300 + n) (classSub k) steps
  let e := engineOf s1 n
  markActive (setEngine s1 n { e with
    winSteps := e.winSteps + steps
    winSieve := if k = .sieve then e.winSieve + steps else e.winSieve
    winUpdate := if k = .update then e.winUpdate + steps else e.winUpdate
    missed := e.missed || shareMissed s n
    recent := addRecent e.recent (now s) steps }) (4 + n)

/-- The program of class k as it stands, the queued one taken when the engine is free. -/
def ready (s : State) (n : Nat) (k : WorkClass) : State × Option Prog :=
  if k = .epilogue then (s, (engineOf s n).epi)
  else if k = .program then
    let e := takeProg (engineOf s n)
    (setEngine s n e, e.run)
  else (s, none)

/-- The word at the program's counter. -/
def wordAt (s : State) (p : Prog) : Nat := memVal s (p.base + 8 * p.pc) 8

/-- The waits of a program that is over are withdrawn. -/
def dropWaits (s : State) (n : Nat) (p : Prog) : State :=
  { s with waits := s.waits.filter (fun w => !(w.engine == some n && some w.tag == p.tag)) }

/-- Stop the program of a class with a status; an epilogue's matrix operation stops by R106, and rows of it that still
arrive are discarded, so that the destination holds a prefix of whole tiles (R129). -/
def stopProg (s0 : State) (n : Nat) (k : WorkClass) (p : Prog) (st : Nat) : State :=
  let s := dropWaits s0 n p
  let e := engineOf s n
  if k = .epilogue then
    let s1 := setEngine s n { e with epi := none, staging := e.staging.filter (fun x => some x.tag != p.tag) }
    match p.tag with
    | none => s1
    | some t => stopMatrixGo (updOp s1 t (fun o => { o with epiStop := true })) t st
  else
    let s1 := setEngine s n { e with run := none }
    match p.tag with
    | none => s1
    | some t => nextFree (updOp (endOp s1 t st) t (fun o => { o with energy := Config.energyEstimate s1.freeCtr }))

/-- Write back the program of a class. -/
def keepProg (s : State) (n : Nat) (k : WorkClass) (p : Prog) : State :=
  setEngine s n (setProg (engineOf s n) k (some p))

/-- The operation of a program. -/
def progOp (s : State) (p : Prog) : Option Op := p.tag.bind (findOp s)

/-- Steps an operation of a vector descriptor has used (R128). -/
def opSteps (s : State) (p : Prog) (k : WorkClass) (steps : Nat) : State :=
  if k = .program then (match p.tag with
    | none => s
    | some t => updOp s t (fun o => { o with waves := o.waves + steps })) else s

/-- What one instruction sees: engine, class, program, word, a base of unspecified values, the operation, and whether it
is an epilogue's final write. -/
structure Ctx where
  eng   : Nat
  cls   : WorkClass
  prog  : Prog
  word  : Nat
  base  : Nat
  op    : Option Op
  final : Bool
deriving DecidableEq, Repr

/-- What an instruction answers: go on with the next word, go to a word, or stop with a status. -/
inductive Next where
  | go
  | skip
  | jump (pc : Nat)
  | stall
  | done
  | stop (st : Nat)
deriving DecidableEq, Repr

/-! The active rectangle (R114, R125). A run of an epilogue over a stripe takes the stripe tile by tile, and rows that
the descriptor masks lie outside its rectangle (the second example of ch. 06). -/
def rowsOf (p : Prog) : List Nat := (List.range p.rows).filter (fun r => !p.rowOff.testBit r)
def colsOf (p : Prog) : List Nat := List.range p.cols

/-- Every position of the active rectangle. -/
def rect (p : Prog) : List (Nat × Nat) := (rowsOf p).flatMap (fun r => (colsOf p).map (fun c => (r, c)))

/-- Is a position active for the instruction: not masked by the descriptor (R101), nor by MASK_SEL under MASK_EN. -/
def active (e : Engine) (c : Ctx) (r k : Nat) : Bool :=
  !c.prog.colOff.testBit k && (!iMaskEn c.word || maskAt e (iMaskSel c.word) r k)

/-- Rows of the rectangle without an active position (R120). -/
def emptyRowsOf (e : Engine) (c : Ctx) : List Nat :=
  (rowsOf c.prog).filter (fun r => (colsOf c.prog).all (fun k => !active e c r k))

/-- Does the instruction act on the rectangle. -/
def usesRect (w : Nat) : Bool := decide (0x10 ≤ iOp w) && !(decide (0x50 ≤ iOp w) && decide (iOp w ≤ 0x5F))

/-- An instruction that meets an empty row marks its operation EMPTY (R120). -/
def noteEmpty (s : State) (c : Ctx) : State :=
  match c.prog.tag with
  | none => s
  | some t =>
    if usesRect c.word && !(emptyRowsOf (engineOf s c.eng) c).isEmpty then updOp s t (fun o => { o with empty := true })
    else s

/-- What a class may change of an engine: an epilogue TB0 to TB2, SL00 to SL31, MB0 and MB1, the others TB3, SL32 to
SL63, MB2 and MB3 (R126, R130). What an instruction would write elsewhere is not written (DEDUCED, log 40). -/
def confine (k : WorkClass) (old new : Engine) : Engine :=
  let lo := if k = .epilogue then new else old
  let hi := if k = .epilogue then old else new
  { new with tb := SMap.graft (3 * 2 ^ 44) lo.tb hi.tb
             tags := SMap.graft 3 lo.tags hi.tags
             slots := SMap.graft (32 * 2 ^ 22) lo.slots hi.slots
             slotKind := SMap.graft 32 lo.slotKind hi.slotKind
             argRun := SMap.graft (32 * 2 ^ 22) lo.argRun hi.argRun
             masks := SMap.graft (2 * 2 ^ 44) lo.masks hi.masks }

/-- What instruction word `w` of program p sees. An epilogue's final write is its last conversion: no conversion stands
behind it in the program (DEDUCED, log 40). -/
def ctxOf (s : State) (n : Nat) (k : WorkClass) (p : Prog) (w : Nat) : Ctx :=
  { eng := n, cls := k, prog := p, word := w, base := s.freeCtr, op := progOp s p
    final := k == .epilogue && isConv w
      && !anyWord isConv (programWords s (p.base + 8 * (p.pc + 1)) (p.len - (p.pc + 1))) }

/-- Run one instruction of class k whose opcode lies in [lo, hi] (Table 6.3), at a cost in steps. A program that has
passed its last word only ends. -/
def instrStep (s : State) (n : Nat) (k : WorkClass) (lo hi : Nat) (cost : Ctx → Nat) (f : State → Ctx → State × Next) : State :=
  if mayRun s n k then
    let r := ready s n k
    match r.2 with
    | none => s
    | some p =>
      let past := decide (p.len ≤ p.pc)
      let w := if past then 0 else wordAt r.1 p
      if p.waiting || (past && !(lo == 0 && hi == 1)) || !(decide (lo ≤ iOp w) && decide (iOp w ≤ hi || (lo == 0 && iOp w ≤ 15)))
      then s
      else if !past && rangePoisoned r.1 (p.base + 8 * p.pc) 8 then stopProg r.1 n k p stHwFault
      else
        let c := ctxOf r.1 n k p w
        let s1 := noteEmpty (opSteps (countSteps { r.1 with freeCtr := r.1.freeCtr + 2 ^ 50 } n k (cost c)) p k (cost c)) c
        let o := f s1 c
        let s2 := setEngine o.1 n (confine k (engineOf s1 n) (engineOf o.1 n))
        let q := (progOf (engineOf s2 n) k).getD p
        match o.2 with
        | .go => keepProg s2 n k { q with pc := p.pc + 1 }
        | .skip => keepProg s2 n k { q with pc := p.pc + 2 }
        | .jump t => keepProg s2 n k { q with pc := t }
        | .stall => keepProg s2 n k { q with waiting := true }
        | .done => s2
        | .stop st => stopProg s2 n k p st
  else s

/-! Costs (Table 6.3). -/

/-- First column and width of the tiles of a run. -/
def tileSpans (p : Prog) : List (Nat × Nat) :=
  if p.tileW = 0 then [(0, p.cols)]
  else (List.range (ceilDiv p.cols p.tileW)).map (fun i => (i * p.tileW, min p.tileW (p.cols - i * p.tileW)))

/-- A cost that arises once for each tile. -/
def perTile (p : Prog) (f : Nat × Nat → Nat) : Nat := ((tileSpans p).map f).sum

/-- Rows of the rectangle. -/
def rowCount (p : Prog) : Nat := (rowsOf p).length

/-- e: the positions of the rectangle in columns of one tile. -/
def spanSize (p : Prog) (w : Nat × Nat) : Nat := rowCount p * w.2

def cost1 (_ : Ctx) : Nat := 1
def costElem (c : Ctx) : Nat := perTile c.prog (fun w => ceilDiv (spanSize c.prog w) (if iPacked c.word then 16384 else 8192))
def costTrans (c : Ctx) : Nat := 4 * perTile c.prog (fun w => ceilDiv (spanSize c.prog w) 8192)
def costRow (c : Ctx) : Nat := perTile c.prog (fun w => ceilDiv (spanSize c.prog w) 8192)

/-- Bytes of rows x cols in a format, whole blocks with their scales (R29, R31). -/
def rectBytes (f : Fmt) (scaled : Bool) (axis rows cols : Nat) : Nat :=
  if scaled then (if axis = 1 then ceilDiv rows 32 * cols else rows * ceilDiv cols 32) * (4 * f.bits + 1)
  else ceilDiv (rows * cols * f.bits) 8

/-- Bytes of an instruction's own tensor, both copies under DUAL. -/
def wordBytes (w : Nat) (dual : Bool) (rows cols : Nat) : Nat :=
  rectBytes (iFormat w) (iScaled w) (iAxis w) rows cols + (if dual then rectBytes (iFormat w) (iScaled w) 1 rows cols else 0)

/-- Bytes of an epilogue's final write of one tile: all rows and columns under ZERO_MASKED, else the unmasked ones, to D
and under DUAL to D2 (R76, R101). -/
def finalBytes (c : Ctx) (o : Op) (w : Nat × Nat) : Nat :=
  let d := o.desc.toNat
  let rows := if mZeroMasked d then c.prog.rows else rowCount c.prog
  let cols := if mZeroMasked d then w.2
    else ((List.range w.2).filter (fun i => !c.prog.colOff.testBit (w.1 + i))).length
  rectBytes (mDFormat d) (mDScaled d) (mDAxis d) rows cols
    + (if mDual d then rectBytes (mDFormat d) true 1 rows cols else 0)

/-- Bytes that a conversion or memory instruction moves for one tile. -/
def movedBytes (c : Ctx) (dual : Bool) (w : Nat × Nat) : Nat :=
  match c.final, c.op with
  | true, some o => finalBytes c o w
  | _, _ => wordBytes c.word dual (rowCount c.prog) w.2

def costConv (c : Ctx) : Nat :=
  perTile c.prog (fun w => max (ceilDiv (spanSize c.prog w) 8192) (ceilDiv (movedBytes c (iDual c.word) w) 4096))

/-- LOAD reads one copy. -/
def costLoad (c : Ctx) : Nat :=
  perTile c.prog (fun w => max (ceilDiv (spanSize c.prog w) 8192) (ceilDiv (movedBytes c false w) 4096))

/-! Reading operands (R113, R117). -/

/-- The bits of an element as written in its buffer's layout: FP32, INT32 or BF16 (R113). -/
def bitsAs (t : Layout) (a : Acc) : Nat :=
  match t with
  | .fp32 => toF32 a
  | .int32 => (Fmt.narrow .int32 a 0 .rne false).1
  | .packed => (Fmt.narrow .bf16 a 0 .rne false).1

/-- A source element. Read in the other layout, word (r, k) of an unpacked buffer and elements (r, 2k) and (r, 2k + 1) of a
packed one are the same 32 bits (R113). -/
def readTb (e : Engine) (c : Ctx) (b r k : Nat) : Acc :=
  match SMap.find e.tags b, iPacked c.word with
  | some .packed, false =>
    widen (Fmt.decode .fp32 (bitsAs .packed (tbAt e b r (2 * k)) + 2 ^ 16 * bitsAs .packed (tbAt e b r (2 * k + 1))))
  | some .fp32, true => widen (Fmt.decode .bf16 (bitsAs .fp32 (tbAt e b r (k / 2)) / 2 ^ (16 * (k % 2)) % 2 ^ 16))
  | some .int32, true => widen (Fmt.decode .bf16 (bitsAs .int32 (tbAt e b r (k / 2)) / 2 ^ (16 * (k % 2)) % 2 ^ 16))
  | _, _ => tbAt e b r k

def src1 (e : Engine) (c : Ctx) (r k : Nat) : Acc := readTb e c (iSrc1 c.word) r k

def src2 (e : Engine) (c : Ctx) (r k : Nat) : Acc :=
  let w := c.word
  if iKind2 w = 0 then readTb e c (iSrc2 w) r k
  else if iKind2 w = 1 then scAt (bankOf e c.cls) (iSreg w)
  else if iKind2 w = 2 then slotVal e (iSlot w) r
  else slotVal e (iSlot w) k

/-- Set the layout tag of a buffer that an instruction writes. -/
def tagBuf (e : Engine) (b : Nat) (t : Layout) : Engine := { e with tags := SMap.put e.tags b t }

def layoutOf (w : Nat) : Layout := if iPacked w then .packed else .fp32

/-- The active positions of the rectangle. -/
def activeRect (e : Engine) (c : Ctx) : List (Nat × Nat) := (rect c.prog).filter (fun x => active e c x.1 x.2)

/-- An element-wise instruction: every source is read before DST is written; inactive positions keep their contents. -/
def mapInstr (f : Engine → Ctx → Nat → Nat → Acc) (s : State) (c : Ctx) : State × Next :=
  let e := engineOf s c.eng
  let l := (activeRect e c).map (fun x => (x.1, x.2, f e c x.1 x.2))
  (setEngine s c.eng (tagBuf (putTb e (iDst c.word) l) (iDst c.word) (layoutOf c.word)), .go)

/-- A comparison writes its bits into MB[SREG mod 4] (R117). -/
def cmpInstr (f : Acc → Acc → Bool) (s : State) (c : Ctx) : State × Next :=
  let e := engineOf s c.eng
  let l := (activeRect e c).map (fun x => (x.1, x.2, f (src1 e c x.1 x.2) (src2 e c x.1 x.2)))
  (setEngine s c.eng (putMask e (iSreg c.word % 4) l), .go)

/-- A mask operation on the rectangle: MB[DST] from MB[SRC1] and MB[SRC2]. -/
def maskInstr (f : Bool → Bool → Bool) (s : State) (c : Ctx) : State × Next :=
  let e := engineOf s c.eng
  let l := (activeRect e c).map (fun x =>
    (x.1, x.2, f (maskAt e (iSrc1 c.word) x.1 x.2) (maskAt e (iSrc2 c.word) x.1 x.2)))
  (setEngine s c.eng (putMask e (iDst c.word) l), .go)

/-! Row reductions (R118 to R120). -/

/-- The positions of a row, an inactive one as none. -/
def rowVals (e : Engine) (c : Ctx) (r : Nat) : List (Option Acc) :=
  (colsOf c.prog).map (fun k => if active e c r k then some (src1 e c r k) else none)

/-- IMM bit 0 carries the running value of the slot on (R118; log 40). -/
def carries (w : Nat) : Bool := (iImm w).testBit 0

/-- Count the rows a reduction meets empty (R120). -/
def countEmpty (s : State) (c : Ctx) : State :=
  bumpBy s (0x2300 + c.eng) 0x0A (emptyRowsOf (engineOf s c.eng) c).length

/-- A row reduction into SLOT: `parts` are the values that the fold joins in order, chunk by chunk for R50, behind the
running total when one is carried. -/
def rowInstr (kind : Nat) (parts : List (Option Acc) → List Acc) (join : Acc → Acc → Acc) (s : State) (c : Ctx) : State × Next :=
  let e := engineOf s c.eng
  let init := fun r => if carries c.word then slotAt e (iSlot c.word) r else none
  let res := (rowsOf c.prog).map (fun r => (r, foldFrom join (init r) (parts (rowVals e c r))))
  (setEngine (countEmpty s c) c.eng (putSlot (engineOf (countEmpty s c) c.eng) (iSlot c.word) kind res), .go)

/-- The winner so far and the positions seen before this tile. -/
def argInit (e : Engine) (c : Ctx) (r : Nat) : Option Acc × Nat :=
  if carries c.word then SMap.get e.argRun (skey (iSlot c.word) r) (none, 0) else (none, 0)

/-- A position reduction: the lowest winning position of the row so far (R51), counted on over its tiles (R118). -/
def argInstr (f : Acc → Acc → Acc) (s : State) (c : Ctx) : State × Next :=
  let e := engineOf s c.eng
  let sl := iSlot c.word
  let res := (rowsOf c.prog).map (fun r =>
    let l := rowVals e c r
    let i := argInit e c r
    let win := foldFrom f i.1 (l.filterMap id)
    -- a NaN or an equal value met earlier keeps its place
    let kept := match i.1, win with
      | some y, some w => (y.isNan && w.isNan) || y.bits == w.bits
      | _, _ => false
    let pos := if kept then slotAt e sl r else (argExt f l).map (fun x => accOfNat (i.2 + x))
    (r, pos, (win, i.2 + c.prog.cols)))
  let e1 := putSlot (engineOf (countEmpty s c) c.eng) sl 4 (res.map (fun x => (x.1, x.2.1)))
  (setEngine (countEmpty s c) c.eng
    { e1 with argRun := res.foldl (fun m x => SMap.put m (skey sl x.1) x.2.2) e1.argRun }, .go)

end Sys2Proof.Machine
end

