-- ==== Sys2Proof/Machine/Sync.lean ====
section
/-! DEFINITION. Sync operations (R248 to R254) and control-core atomics (R243, R244). -/

namespace Sys2Proof.Machine

/-- The class of the vector program that waits: its agent is a partition stream for an epilogue (R232). -/
def waitClass (w : WaitReq) : WorkClass := if w.agent < 64 then .epilogue else .program

/-- The next operation of the stream's partition starts a run: the stream has waited on a sync object (R75). -/
def newRun (s : State) (tag : Nat) : State :=
  match findOp s tag with
  | none => s
  | some o =>
    let c := qCfg s o.queue
    let k := pkey (qUnit c) (qPart c)
    if qSize c != 0 && qKind c == 0 then setPart s k { partOf s k with inRun := false } else s

/-- A request ends with a status: a sync operation completes, a vector program goes on or stops (R250, R252, R253). -/
def endWait (s : State) (w : WaitReq) (st : Nat) : State :=
  let s1 := dropWait s w
  let late := st == 0 && (match w.satisfied with
    | some t => decide (w.deadline ≤ t)
    | none => false)
  let s2 := if late then raise (bump s1 0x2500 3) (src 10 2) else s1
  let s3 := if st = 0 then acquireEffect s2 w.scope w.engine.isSome else s2
  match w.engine with
  | none => endSync (updOp (newRun s3 w.tag) w.tag (fun o => { o with late := o.late || late })) w.tag st
  | some n =>
    match progOf (engineOf s3 n) (waitClass w) with
    | none => s3
    | some p =>
      if p.tag != some w.tag || !p.waiting then s3
      else if st = 0 then keepProg s3 n (waitClass w) { p with waiting := false, pc := p.pc + 1 }
      else stopProg s3 n (waitClass w) p st

/-- Every earlier descriptor of the stream has written its record (R249). -/
def recordsBefore (s : State) (o : Op) : Bool :=
  !((s.ops.takeWhile (fun x => x.tag != o.tag)).any (fun x => x.queue == o.queue))

/-- The first queued ACQUIRE of an object. -/
def firstAcquire (s : State) (c n : Nat) : Option WaitReq :=
  s.waits.find? (fun w => w.acquire && w.owner == c && w.obj == n)

/-- A lock that is free satisfies the first queued ACQUIRE. -/
def wakeLock (s : State) (c n : Nat) : State :=
  if (objOf s n).held then s
  else match firstAcquire s c n with
    | none => s
    | some w => { s with waits := mapIf (fun x => x == w) (fun x => { x with satisfied := some (now s) }) s.waits }

/-- RELEASE_LOCK frees the lock; the first queued ACQUIRE is satisfied by it. -/
def releaseObj (s : State) (c n : Nat) : State := wakeLock (setObj s n { objOf s n with held := false, holder := 0 }) c n

/-- INIT (R249). -/
def initObj (s : State) (d : Nat) : State :=
  setObj s (yObj d) { SyncObj.initial with
    type := yType d
    epoch := yArg d
    comm := if yType d = 4 then yComm d else 0
    localCount := if yType d = 4 then yLocal d else 0 }

/-- What an accepted SIGNAL, RELEASE_LOCK, ARRIVE, CLEAR or INIT changes. -/
def syncEffect (s : State) (d : Nat) : State :=
  let op := dOpcode d
  let n := yObj d
  if op = 0x10 then signalObj s (yOwner d) n (yArg d)
  else if op = 0x13 then releaseObj s (yOwner d) n
  else if op = 0x14 then arriveObj s n
  else if op = 0x15 then setObj s n { objOf s n with set := false }
  else initObj s d

/-- Accept a SIGNAL, CLEAR, RELEASE_LOCK, ARRIVE or INIT whose release condition holds. -/
def trySync (s : State) (tag : Nat) : State :=
  match findOp s tag with
  | none => s
  | some o =>
    let d := o.desc.toNat
    let op := dOpcode d
    if o.kind != .sync || o.ended || o.accepted || op = 0x11 || op = 0x12 || !recordsBefore s o then s
    else
      let st := if syncFieldsBad s o.queue d then stDescriptor
        else syncStatus s op (yOwner d) (yObj d) ((queueAgent s o.queue).getD 127)
      if st ≠ 0 then endSync (if st = stAbandoned then raise s (src 10 1) else s) tag st
      else if !syncLive s (yOwner d) then s
      else endSync (syncEffect s d) tag stOk

/-- Sync operations of a queue whose turn may have come, oldest first. -/
def retryStream (s : State) (q : Nat) : State :=
  ((s.ops.filter (fun o => o.queue == q && o.kind == .sync)).map Op.tag).foldl trySync s

/-- The pending request of a WAIT or ACQUIRE descriptor (R251). -/
def waitReq (s : State) (o : Op) : WaitReq :=
  let d := o.desc.toNat
  { tag := o.tag, engine := none, owner := yOwner d, obj := yObj d, target := yArg d, acquire := dOpcode d == 0x12,
    agent := (queueAgent s o.queue).getD 127, ctx := o.ctx, scope := yScope d,
    deadline := o.taken + (if yTimeout d = 0 then reg s 0x2500 1 else yTimeout d), satisfied := none }

/-- WAIT and ACQUIRE at dispatch: an error, completion at once, or a pending request. -/
def startWait (s : State) (o : Op) : State :=
  let d := o.desc.toNat
  let op := dOpcode d
  let w := waitReq s o
  let st := if syncFieldsBad s o.queue d then stDescriptor else syncStatus s op (yOwner d) (yObj d) w.agent
  let s1 := addOp s o
  if st ≠ 0 then endSync (if st = stAbandoned then countAbandoned s1 else s1) o.tag st
  else if op = 0x11 then
    if syncLive s (yOwner d) && waitOk (objOf s (yObj d)) (yArg d) then endWait { s1 with waits := s1.waits ++ [w] } w stOk
    else { s1 with waits := s1.waits ++ [w] }
  else if syncLive s (yOwner d) && !(objOf s (yObj d)).held && (firstAcquire s (yOwner d) (yObj d)).isNone then
    endWait (grantLock { s1 with waits := s1.waits ++ [w] } (yObj d) w.agent) w stOk
  else { s1 with waits := s1.waits ++ [w] }

/-- A request on an object of a context that has been loaded meets the checks that its object did not answer before
(R430), and a wait is re-evaluated (R254). -/
def recheckWait (s : State) (w : WaitReq) : State :=
  let st := syncStatus s (if w.acquire then 0x12 else 0x11) w.owner w.obj w.agent
  if w.satisfied.isSome || st = 0 then s else endWait s w st

/-- A sync descriptor taken from a queue (R248, R430). -/
def startSync (s : State) (o : Op) : State :=
  let d := o.desc.toNat
  if dOpcode d = 0x11 || dOpcode d = 0x12 then startWait s o
  else trySync (addOp s o) o.tag

/-- Dispatch a sync descriptor of one opcode. -/
def dispatchSync (op : Nat) (q : QueueId) (tag : TagId) (s : State) : Out :=
  .next (dispatch s q.val tag.val (fun d => dOpcode d == op) .sync startSync)

/-- SIGNAL (R249). -/
def execSignal (q : QueueId) (tag : TagId) (s : State) : Out := dispatchSync 0x10 q tag s

/-- WAIT (R249). -/
def execWait (q : QueueId) (tag : TagId) (s : State) : Out := dispatchSync 0x11 q tag s

/-- ACQUIRE (R250). -/
def execAcquire (q : QueueId) (tag : TagId) (s : State) : Out := dispatchSync 0x12 q tag s

/-- RELEASE_LOCK (R250). -/
def execReleaseLock (q : QueueId) (tag : TagId) (s : State) : Out := dispatchSync 0x13 q tag s

/-- ARRIVE (R250). -/
def execArrive (q : QueueId) (tag : TagId) (s : State) : Out := dispatchSync 0x14 q tag s

/-- CLEAR (R249). -/
def execClear (q : QueueId) (tag : TagId) (s : State) : Out := dispatchSync 0x15 q tag s

/-- INIT (R249). -/
def execInit (q : QueueId) (tag : TagId) (s : State) : Out := dispatchSync 0x16 q tag s

/-- The request of a tag. -/
def waitOf (s : State) (tag : Nat) : Option WaitReq := s.waits.find? (fun w => w.tag == tag)

/-- WAIT_SATISFIED: the wait, and every other wait on its object that the same change satisfied, complete together
(R250, R252). -/
def execWaitSatisfied (tag : TagId) (s : State) : Out :=
  .next (if clockOn s then
    (match waitOf s tag.val with
      | none => s
      | some w =>
        if w.acquire || w.satisfied.isNone then s
        else (s.waits.filter (fun x => !x.acquire && x.owner == w.owner && x.obj == w.obj && x.satisfied.isSome)).foldl
          (fun t x => endWait t x stOk) s)
    else s)

/-- LOCK_GRANT: a free lock goes to the first queued ACQUIRE (R250). -/
def execLockGrant (obj : Fin 4096) (s : State) : Out :=
  .next (match s.waits.find? (fun w => w.acquire && w.obj == obj.val && syncLive s w.owner) with
    | none => s
    | some w =>
      if clockOn s && (objOf s obj.val).type == 3 && !(objOf s obj.val).held then
        endWait (grantLock s obj.val w.agent) { w with satisfied := some (w.satisfied.getD (now s)) } stOk |> fun t => dropWait t w
      else s)

/-- SYNC_TIMEOUT (R251): the request ends with TIMEOUT and the watchdog fault is reported. -/
def execSyncTimeout (tag : TagId) (s : State) : Out :=
  .next (match waitOf s tag.val with
    | none => s
    | some w =>
      if clockOn s && !stopped s && w.satisfied.isNone && decide (w.deadline ≤ now s) then
        let o := findOp s w.tag
        let unit := match w.engine with
          | some n => 4 + n
          | none => (o.map (fun o => queueUnit s o.queue)).getD 0xFF
        let e := { Event.plain 0x11 2 unit w.obj with
          ctx := some w.ctx, opId := (o.map (fun o => dOpId o.desc.toNat)).getD 0, srcs := [src 10 0] }
        endWait (logEvent (bump s 0x2500 2) e) w stTimeout
      else s)

/-! Atomics (R243, R244). -/

/-- The local address of a fabric address of this device. -/
def ownAddr (s : State) (a : FabricAddr) : Option Nat :=
  if fld a.toNat 59 44 = devNum s then some (fld a.toNat 43 0) else none

/-- The control cores execute. -/
def coresRun (s : State) : Bool := clockOn s && stepDone s 2 && decide (reg s 0x3300 1 ≤ 1)

/-- The address an atomic works on: none for another device, control space, an unassigned or misaligned address, or a poisoned
line (R244). -/
def atomicAt (s : State) (wide : Bool) (addr : FabricAddr) : Option Nat :=
  match ownAddr s addr with
  | none => none
  | some a => if unassigned a || inCtl a || a % (if wide then 8 else 4) != 0 || isPoisoned s a then none else some a

/-- An atomic that moves no data: an access fault on core n, logged for an unassigned address (R6). -/
def atomicFault (s : State) (n : Nat) (addr : FabricAddr) : State :=
  match ownAddr s addr with
  | none => emit s (.accessFault n)
  | some a => emit (if unassigned a then logUnassigned s a none 0 else s) (.accessFault n)

/-- Does core n issue an atomic now; one to a sleeping stack waits (R224). -/
def atomicServed (s : State) (addr : FabricAddr) : Bool := coresRun s && !stopped s && !memHeld s (fld addr.toNat 43 0)

/-- The bytes of a word in memory. -/
def wordLen (wide : Bool) : Nat := if wide then 8 else 4

/-- Write an aligned word as a control core does. -/
def writeWord (s : State) (a : Nat) (wide : Bool) (v : Nat) : State :=
  coreWrite s a (BitVec.ofNat 512 (v % 2 ^ (8 * wordLen wide) * 2 ^ (8 * (a % 64)))) (nibbles ((2 ^ wordLen wide - 1) * 2 ^ (a % 64)))

/-- One atomic of core n: `f` gives the new word from the old one, none leaves it; with aq it acquires at DEVICE scope. -/
def atomic (n : Fin 4) (wide : Bool) (addr : FabricAddr) (aq : Bool) (s : State) (f : Nat → Option Nat) : State :=
  if !atomicServed s addr then s
  else match atomicAt s wide addr with
    | none => atomicFault s n.val addr
    | some a =>
      let old := memVal s a (wordLen wide)
      let s1 := match f old with
        | none => s
        | some v => writeWord s a wide v
      emit (if aq then acquireEffect s1 2 true else s1) (.atomicOld n.val (BitVec.ofNat 64 old))

/-- LR: the word is read and its line reserved, one line for a core. -/
def loadReserved (n : Fin 4) (wide : Bool) (addr : FabricAddr) (aq : Bool) (s : State) : State :=
  let t := atomic n wide addr aq s (fun _ => none)
  match if atomicServed s addr then atomicAt s wide addr else none with
  | none => t
  | some a => { t with reservations := SMap.put t.reservations n.val (lineAddr a + 1) }

/-- SC: stores when the core's reservation of the line still holds; a write to any part of the line has broken it. It uses
the reservation up. An SC that faults stores nothing. -/
def storeConditional (n : Fin 4) (wide : Bool) (addr : FabricAddr) (new : BitVec 64) (aq : Bool) (s : State) : State :=
  if !atomicServed s addr then s
  else
    let s0 := { s with reservations := SMap.drop s.reservations n.val }
    match atomicAt s wide addr with
    | none => atomicFault s0 n.val addr
    | some a =>
      let holds := SMap.get s.reservations n.val 0 == lineAddr a + 1
      let s1 := if holds then writeWord s0 a wide new.toNat else s0
      emit (if aq then acquireEffect s1 2 true else s1) (.scDone n.val holds)

/-- Compare-and-swap: its LR, its SC, or the whole of it with no access in between (R243). -/
def execCompareAndSwap (n : Fin 4) (wide : Bool) (addr : FabricAddr) (step : CasStep) (new : BitVec 64) (aq _rl : Bool) (s : State) : Out :=
  .next (match step with
    | .loadReserved => loadReserved n wide addr aq s
    | .storeConditional => storeConditional n wide addr new aq s
    | .whole expected => atomic n wide addr aq s (fun old =>
        if old = expected.toNat % 2 ^ (8 * wordLen wide) then some new.toNat else none))

/-- Swap (R243). -/
def execSwap (n : Fin 4) (wide : Bool) (addr : FabricAddr) (new : BitVec 64) (aq _rl : Bool) (s : State) : Out :=
  .next (atomic n wide addr aq s (fun _ => some new.toNat))

/-- Fetch-add modulo 2^32 or 2^64 (R243). -/
def execFetchAdd (n : Fin 4) (wide : Bool) (addr : FabricAddr) (inc : BitVec 64) (aq _rl : Bool) (s : State) : Out :=
  .next (atomic n wide addr aq s (fun old => some (old + inc.toNat)))

end Sys2Proof.Machine
end

