-- ==== Sys2Proof/Machine/VecOps.lean ====
section
/-! DEFINITION. Vector descriptors (R128, R129), the start of an epilogue (R125, R126, R141), the share window (R131) and
the vector instructions of Table 6.3. Where Table 6.3 names an operand without saying where it stands, log 40 says
what the model takes. -/

namespace Sys2Proof.Machine

/-! The vector descriptor (Table 6.6). -/
def vEngine (d : Nat) : Nat := qf d 0 17 16
def vRound (d : Nat) : Nat := qf d 1 1 0
def vStream (d : Nat) : Nat := qf d 1 63 32
def vStep (d : Nat) : Nat := qf d 2 63 0
def vProg (d : Nat) : Nat := qf d 3 43 0
def vLen (d : Nat) : Nat := qf d 3 59 44
def vSlope (d : Nat) : Nat := qf d 14 11 0

/-- DESCRIPTOR_ERROR of the descriptor's own fields: opcodes from 02h are reserved (Table 6.6), the engine is that of the
queue (R313), and a stream id that is named is one of R58. -/
def vecFieldsBad (s : State) (q d : Nat) : Bool :=
  2 ≤ dOpcode d || dVersion d != 1 || qf d 0 23 18 != 0 || qf d 1 4 3 != 0 || qf d 1 15 6 != 0 || qf d 1 23 22 != 0
    || qf d 3 63 60 != 0 || qf d 14 63 12 != 0 || decide (2 ≤ vRound d) || vEngine d != qUnit (qCfg s q)
    || ((vRound d == 1 || vStream d != 0) && !streamOk (vStream d))
    || (dOpcode d == 1 && vLen d == 0)

/-- The checks of a vector descriptor (R128, R129). -/
def vecCheck (s : State) (q ctx d : Nat) : Nat :=
  let r := ctxRec s ctx
  if vecFieldsBad s q d then stDescriptor
  else if dOpcode d = 0 then stOk
  else if !inLoamWin r (vProg d) (8 * vLen d) then stAddress
  else if rangePoisoned s (vProg d) (8 * vLen d) then stHwFault
  else wordsStatus (vStream d) (programWords s (vProg d) (vLen d))

/-- The rectangle a SHAPE word sets: up to 512 rows by 512 columns, 1,024 when packed (R114). Where the word names them
the spec does not say (log 40). -/
def shapeOf (w : Nat) : Nat × Nat :=
  (Config.shapeRows w % 513, Config.shapeCols w % (if iPacked w then 1025 else 513))

/-- Bank P at the start of a program (Table 6.6): SC4 to SC31 start at +0, since the spec names SC0 to SC3 alone and the
same descriptors give the same results whatever ran before (R59; DEDUCED, log 40). -/
def vecBank (d : Nat) : Bank :=
  let sc := (List.range 4).foldl (fun (m : SMap Acc) i =>
    SMap.set m i (widen (Fmt.decode .fp32 (qf d (12 + i / 2) (32 * (i % 2) + 31) (32 * (i % 2))))) Acc.zero) []
  let ar := (List.range 8).foldl (fun (m : SMap Nat) i => SMap.set m i (qf d (4 + i) 63 0) 0) []
  { sc := sc, ar := ar }

/-- A descriptor of a VECTOR queue is taken (R128): a program waits for its engine. -/
def startVector (s : State) (o : Op) : State :=
  let d := o.desc.toNat
  let st := vecCheck s o.queue o.ctx d
  if st ≠ 0 then refuse s o st
  else if dOpcode d = 0 then addOp s { o with ended := true }
  else
    let n := vEngine d
    let p : Prog := { cls := .program, ctx := o.ctx, tag := some o.tag, base := vProg d, len := vLen d, pc := 0,
                      rows := Config.firstRows d % 513, cols := Config.firstCols d % 513, loops := [],
                      saved := some (vecBank d), waiting := false, empty := false, part := 0, row0 := 0, col0 := 0,
                      rowOff := 0, colOff := 0, tileW := 0 }
    let s1 := addOp s { o with deadline := deadlineOf s (dBase d) (dWork d) (vSlope d) }
    let e := engineOf s1 n
    setEngine s1 n { e with queue := e.queue ++ [p] }

/-- VPROG, and every opcode a VECTOR queue refuses (R128, R129). -/
def execVprog (q : QueueId) (tag : TagId) (s : State) : Out :=
  .next (dispatch s q.val tag.val
    (fun d => qKind (qCfg s q.val) == 1 && dOpcode d != 0 && !isSyncOp (dOpcode d)) .vector startVector)

/-- VPROG_NOP: a record and nothing else. -/
def execVprogNop (q : QueueId) (tag : TagId) (s : State) : Out :=
  .next (dispatch s q.val tag.val (fun d => qKind (qCfg s q.val) == 1 && dOpcode d == 0) .vector startVector)

/-! Epilogues. -/

/-- The tiles of the run that tile t belongs to: itself, or the active tiles of its stripe (R126). -/
def runTiles (o : Op) (t : Nat) : List Nat :=
  let d := o.desc.toNat
  let p := sideOf (mMode d)
  if eRowWide o.epi.toNat then (activeTiles o).filter (fun x => (tileAt d p x).1 == (tileAt d p t).1) else [t]

/-- Every tile of the run is complete in staging. -/
def runStaged (e : Engine) (o : Op) (t : Nat) : Bool :=
  (runTiles o t).all (fun x => e.staging.any (fun g => g.tag == o.tag && g.tile == x && g.last))

/-- Origin and shape of a run: the tile or the stripe, masked positions included. -/
def runShape (o : Op) (t : Nat) : (Nat × Nat) × (Nat × Nat) :=
  let d := o.desc.toNat
  let p := sideOf (mMode d)
  let rows := tileRows d p t
  let cols := tileCols d p t
  if eRowWide o.epi.toNat then ((rows.headD 0, 0), (rows.length, mN d))
  else ((rows.headD 0, cols.headD 0), (rows.length, cols.length))

/-- Bank E before a run (R125, R141): SC0 and SC1 the parameters, SC29 to SC31 origin and columns, AR0 the auxiliary
address, AR1 the records of the first row. -/
def epiBank (b : Bank) (o : Op) (row0 col0 : Nat) : Bank :=
  let e := o.epi.toNat
  let b1 := setSc (setSc b 0 (widen (Fmt.decode .fp32 (qf e 3 31 0)))) 1 (widen (Fmt.decode .fp32 (qf e 3 63 32)))
  let b2 := setSc (setSc (setSc b1 29 (accOfNat row0)) 30 (accOfNat col0)) 31 (accOfNat (mN o.desc.toNat))
  setAr (setAr b2 0 (qf e 4 43 0)) 1 (eStat e + 8 * row0)

/-- Put a run's values into TB0 and the activity of the descriptor's masks into MB0; what TB0 holds at masked positions
is left open (log 3). -/
def loadRun (e : Engine) (o : Op) (t base : Nat) : Engine :=
  let g := runShape o t
  let tiles := runTiles o t
  let mine := e.staging.filter (fun x => x.tag == o.tag && tiles.contains x.tile)
  let pos := (List.range g.2.1).flatMap (fun r => (List.range g.2.2).map (fun c => (r, c)))
  let on := fun (x : Nat × Nat) => !o.rowMask.testBit (g.1.1 + x.1) && !o.colMask.testBit (g.1.2 + x.2)
  let e1 := putTb e 0 ((pos.filter (fun x => !on x)).map (fun x => (x.1, x.2, freeAcc (base + tkey 0 x.1 x.2))))
  let e2 := mine.foldl (fun e x => putTb e 0 (x.vals.map (fun v => (x.row - g.1.1, v.1 - g.1.2, v.2)))) e1
  let e3 := { e2 with masks := SMap.dropRange e2.masks 0 (2 ^ 44) }
  tagBuf (putMask e3 0 ((pos.filter on).map (fun x => (x.1, x.2, true)))) 0 .fp32

/-- The first staged tile of a partition whose run is complete. -/
def stagedRun (s : State) (a ii : Nat) : Option (Op × Nat) :=
  let e := engineOf s a
  e.staging.findSome? (fun x =>
    if x.part == pkey a ii then
      match findOp s x.tag with
      | none => none
      | some o => if runStaged e o x.tile then some (o, x.tile) else none
    else none)

/-- Bytes of a stripe in FP32 beyond staging (R126). -/
def spillBytes (o : Op) (t : Nat) : Nat :=
  if eRowWide o.epi.toNat then
    4 * (runShape o t).2.1 * (runShape o t).2.2 - stagingBytes (sideOf (mMode o.desc.toNat)) else 0

/-- The part of a stripe that does not fit staging has been written to the spill area in FP32 and is read back: it costs
the loam port both ways and changes no value; how the area's bytes are laid out is left open (R126, log 39). -/
def spillRun (s : State) (a : Nat) (o : Op) (t : Nat) : State :=
  if spillBytes o t = 0 then s
  else countSteps (leaveOpen s (eSpill o.epi.toNat) (spillBytes o t)) a .epilogue (2 * ceilDiv (spillBytes o t) 4096)

/-- Start the run of tile t. A program whose words have changed since dispatch is checked again before its first
instruction (R129). -/
def startEpilogue (s0 : State) (a ii : Nat) (o : Op) (t : Nat) : State :=
  let s := spillRun s0 a o t
  let g := runShape o t
  let ent := o.epi.toNat
  let base := s.freeCtr
  let p : Prog := { cls := .epilogue, ctx := o.ctx, tag := some o.tag, base := eProg ent, len := eLen ent, pc := 0,
                    rows := g.2.1, cols := g.2.2, loops := [], saved := none, waiting := false, empty := false,
                    part := pkey a ii, row0 := g.1.1, col0 := g.1.2,
                    rowOff := o.rowMask / 2 ^ g.1.1 % 2 ^ g.2.1, colOff := o.colMask / 2 ^ g.1.2 % 2 ^ g.2.2,
                    tileW := if eRowWide ent then sideOf (mMode o.desc.toNat) else 0 }
  let e := loadRun (engineOf s a) o t base
  let s1 := setEngine { s with freeCtr := s.freeCtr + 2 ^ 50 } a
    { e with bankE := epiBank e.bankE o g.1.1 g.1.2, epi := some p }
  let st := wordsStatus (mStream o.desc.toNat) (programWords s1 (eProg ent) (eLen ent))
  if rangePoisoned s1 (eProg ent) (8 * eLen ent) then stopProg s1 a .epilogue p stHwFault
  else if st ≠ 0 then stopProg s1 a .epilogue p st
  else s1

/-- The staged rows of a stopped operation whose stripe will not complete are discarded (R106). -/
def dropStripes (s : State) (a : Nat) : State :=
  let e := engineOf s a
  let gone := e.staging.filter (fun x => match findOp s x.tag with
    | none => true
    | some o => o.status != 0 && !runStaged e o x.tile
        && !(partOf s x.part).ops.contains x.tag && !(partOf s x.part).flights.any (fun f => f.tag == x.tag)
        && !((partOf s x.part).drain ++ (partOf s x.part).stage).any (fun r => r.tag == x.tag))
  (gone.map Staged.tag).eraseDups.foldl finishIfDone
    (setEngine s a { e with staging := e.staging.filter (fun x => !gone.contains x) })

/-- EPILOGUE: a tile or stripe complete in staging starts its program on the paired engine (R125, R126). -/
def execEpilogue (a : ArrayId) (ii : PartId) (s : State) : Out :=
  .next (if stepsRun s && !engineRetired s a.val && !engineHeld s a.val && (engineOf s a.val).epi.isNone then
    (match stagedRun s a.val ii.val with
      | some x => startEpilogue s a.val ii.val x.1 x.2
      | none => dropStripes s a.val)
    else s)

/-- SHARE_WINDOW_END: 4,096 steps have passed (R131). -/
def execShareWindowEnd (e : EngineId) (s : State) : Out :=
  .next (if 4096 ≤ (engineOf s e.val).winSteps then
    let s1 := if (engineOf s e.val).missed || shareMissed s e.val then
      raise (bumpSat32 s (0x2300 + e.val) 0x0B 1) (src 5 (8 * e.val + 1)) else s
    setEngine s1 e.val { engineOf s1 e.val with
      winSteps := (engineOf s1 e.val).winSteps - 4096, winSieve := 0, winUpdate := 0, missed := false }
    else s)

/-! Control instructions. -/

/-- Change the running program. -/
def editProg (s : State) (c : Ctx) (f : Prog → Prog) : State :=
  match progOf (engineOf s c.eng) c.cls with
  | none => s
  | some p => keepProg s c.eng c.cls (f p)

def editBank (s : State) (c : Ctx) (f : Bank → Bank) : State :=
  let e := engineOf s c.eng
  setEngine s c.eng (setBank e c.cls (f (bankOf e c.cls)))

def scReg (s : State) (c : Ctx) (n : Nat) : Acc := scAt (bankOf (engineOf s c.eng) c.cls) n
def arReg (s : State) (c : Ctx) (n : Nat) : Nat := arAt (bankOf (engineOf s c.eng) c.cls) (n % 8)

/-- The non-negative integer an acc48 value holds. -/
def accNat (a : Acc) : Option Nat :=
  match a.val with
  | .fin neg m e =>
    if m = 0 then some 0
    else if neg then none
    else if 0 ≤ e then some (m * 2 ^ e.toNat)
    else if m % 2 ^ (-e).toNat = 0 then some (m / 2 ^ (-e).toNat) else none
  | _ => none

/-- NOP. -/
def execVecNop (e : EngineId) (k : WorkClass) (s : State) : Out :=
  .next (instrStep s e.val k 0 15 cost1 (fun s _ => (s, .go)))

/-- The run's rows leave staging, and the epilogue is over. -/
def endEpilogue (s : State) (n : Nat) (p : Prog) : State :=
  let e := engineOf s n
  match p.tag with
  | none => setEngine s n { e with epi := none }
  | some t =>
    let gone := fun (x : Staged) => x.tag == t && decide (p.row0 ≤ x.row) && decide (x.row < p.row0 + p.rows)
      && x.vals.all (fun v => decide (p.col0 ≤ v.1) && decide (v.1 < p.col0 + p.cols))
    finishIfDone (setEngine s n { e with epi := none, staging := e.staging.filter (fun x => !gone x) }) t

/-- END: the program is over and its resources are free (R130). -/
def execVecEnd (e : EngineId) (k : WorkClass) (s : State) : Out :=
  .next (instrStep s e.val k 0 1 cost1 (fun s c =>
    (if c.cls = .epilogue then endEpilogue s c.eng c.prog else stopProg s c.eng c.cls c.prog stOk, .done)))

/-- SHAPE (R114). -/
def execShape (e : EngineId) (k : WorkClass) (s : State) : Out :=
  .next (instrStep s e.val k 0 15 cost1 (fun s c =>
    (editProg s c (fun p => { p with rows := (shapeOf c.word).1, cols := (shapeOf c.word).2, tileW := 0 }), .go)))

/-- LOOP: the words up to the matching ENDLOOP run IMM times, nesting at most four deep (R116). -/
def execLoop (e : EngineId) (k : WorkClass) (s : State) : Out :=
  .next (instrStep s e.val k 0 15 cost1 (fun s c =>
    if 4 ≤ c.prog.loops.length then (s, .stop stDescriptor)
    else
      let n := if iImm c.word = 0 then 1 + Config.loopZero c.word % 65535 else iImm c.word
      (editProg s c (fun p => { p with loops := (c.prog.pc + 1, n) :: p.loops }), .go)))

/-- ENDLOOP (R116). Without an open LOOP it does nothing (DESIGN CHOICE, log 40). -/
def execEndloop (e : EngineId) (k : WorkClass) (s : State) : Out :=
  .next (instrStep s e.val k 0 15 cost1 (fun s c =>
    match c.prog.loops with
    | [] => (s, .go)
    | (first, left) :: l =>
      if 1 < left then (editProg s c (fun p => { p with loops := (first, left - 1) :: l }), .jump first)
      else (editProg s c (fun p => { p with loops := l }), .go)))

/-- What other classes may use is unspecified for the yielding program (R130). -/
def forgetShared (e : Engine) (base : Nat) : Engine :=
  { e with tb := SMap.dropRange e.tb (3 * 2 ^ 44) (4 * 2 ^ 44), slots := SMap.dropRange e.slots (32 * 2 ^ 22) (64 * 2 ^ 22),
           slotKind := SMap.graft 32 e.slotKind [], argRun := SMap.graft (32 * 2 ^ 22) e.argRun [],
           masks := SMap.dropRange e.masks (2 * 2 ^ 44) (4 * 2 ^ 44), tags := SMap.drop e.tags 3, shared := some base }

/-- YIELD: bank P and the loop state are kept, and another class may hold the engine (R130). The program then stands behind
the others that wait (DESIGN CHOICE, log 40). An epilogue holds no shared resources. -/
def execYield (e : EngineId) (k : WorkClass) (s : State) : Out :=
  .next (instrStep s e.val k 0 15 cost1 (fun s c =>
    if c.cls = .epilogue then (s, .go)
    else
      let e := forgetShared (engineOf s c.eng) c.base
      match e.run with
      | none => (s, .done)
      | some p => (setEngine s c.eng { e with run := none, queue := e.queue ++
          [{ p with pc := c.prog.pc + 1, saved := some e.bankP }] }, .done)))

/-- The agent of a vector program (Table 12.8): an epilogue acts for its partition's stream. -/
def vecAgent (c : Ctx) : Nat := if c.cls = .epilogue then c.prog.part else 64 + c.eng

def vecObj (c : Ctx) : Nat := iImm c.word % 4096
def vecScope (c : Ctx) : Nat := iImm c.word / 4096 % 4

/-- WAIT of a vector program (R116, R249): the target stands in SREG, the timeout is SYNC_WATCHDOG_NS. -/
def vecWaitStep (s : State) (c : Ctx) : State × Next :=
  match accNat (scReg s c (iSreg c.word)) with
  | none => (s, .stop stFormat)
  | some t =>
    if 2 ^ 32 ≤ t then (s, .stop stFormat)
    else
      let n := vecObj c
      let st := syncStatus s 0x11 c.prog.ctx n (vecAgent c)
      if st ≠ 0 then (if st = stAbandoned then countAbandoned s else s, .stop st)
      else if syncLive s c.prog.ctx && waitOk (objOf s n) t then (acquireEffect s (vecScope c) true, .go)
      else
        let w : WaitReq := { tag := c.prog.tag.getD 0, engine := some c.eng, owner := c.prog.ctx, obj := n, target := t,
                             acquire := false, agent := vecAgent c, ctx := c.prog.ctx, scope := vecScope c,
                             deadline := now s + reg s 0x2500 1, satisfied := none }
        ({ s with waits := s.waits ++ [w] }, .stall)

def execVecWait (e : EngineId) (k : WorkClass) (s : State) : Out :=
  .next (instrStep s e.val k 0 15 cost1 vecWaitStep)

/-- SIGNAL of a vector program: a COUNTER by 1, an EVENT set (R249). -/
def vecSignalStep (s : State) (c : Ctx) : State × Next :=
  let n := vecObj c
  let st := syncStatus s 0x10 c.prog.ctx n (vecAgent c)
  if st ≠ 0 then (if st = stAbandoned then raise s (src 10 1) else s, .stop st)
  else (signalObj s c.prog.ctx n 1, .go)

def execVecSignal (e : EngineId) (k : WorkClass) (s : State) : Out :=
  .next (instrStep s e.val k 0 15 cost1 vecSignalStep)

/-- SETS: the word that follows is an FP32 literal, widened (R115). -/
def execSets (e : EngineId) (k : WorkClass) (s : State) : Out :=
  .next (instrStep s e.val k 0 15 (fun _ => 2) (fun s c =>
    let v := memVal s (c.prog.base + 8 * (c.prog.pc + 1)) 4
    (editBank s c (fun b => setSc b (iSreg c.word) (widen (Fmt.decode .fp32 v))), .skip)))

/-- SETAR: Table 6.3 gives no source for the value; it is a function of the word (R59, log 40). -/
def execSetar (e : EngineId) (k : WorkClass) (s : State) : Out :=
  .next (instrStep s e.val k 0 15 cost1 (fun s c =>
    (editBank s c (fun b => setAr b (iAr c.word) (Config.setarValue c.word % 2 ^ 64)), .go)))

/-- ADVAR: the spec gives no amount; it is a function of the word and the register (R59, log 40). -/
def execAdvar (e : EngineId) (k : WorkClass) (s : State) : Out :=
  .next (instrStep s e.val k 0 15 cost1 (fun s c =>
    (editBank s c (fun b => setAr b (iAr c.word)
      ((arAt b (iAr c.word) + Config.advarAmount c.word (arAt b (iAr c.word))) % 2 ^ 64)), .go)))

/-! Element-wise instructions (R49, R51, R117). -/

/-- An instruction of two sources. -/
def binary (f : Acc → Acc → Acc) (e : EngineId) (k : WorkClass) (lo hi : Nat) (s : State) : Out :=
  .next (instrStep s e.val k lo hi costElem (mapInstr (fun e c r j => f (src1 e c r j) (src2 e c r j))))

/-- An instruction of one source. -/
def unary (f : Acc → Acc) (e : EngineId) (k : WorkClass) (lo hi : Nat) (cost : Ctx → Nat) (s : State) : Out :=
  .next (instrStep s e.val k lo hi cost (mapInstr (fun e c r j => f (src1 e c r j))))

/-- ADD (R49). -/
def execAdd (e : EngineId) (k : WorkClass) (s : State) : Out := binary accAdd e k 0x10 0x2F s

/-- SUB (R49). -/
def execSub (e : EngineId) (k : WorkClass) (s : State) : Out := binary accSub e k 0x10 0x2F s

/-- MUL (R49). -/
def execMul (e : EngineId) (k : WorkClass) (s : State) : Out := binary accMul e k 0x10 0x2F s

/-- FMA: SRC1 * SRC2 added to the prior contents of DST, one rounding (R49). -/
def execFma (e : EngineId) (k : WorkClass) (s : State) : Out :=
  .next (instrStep s e.val k 0x10 0x2F costElem (mapInstr (fun e c r j =>
    accFma (src1 e c r j) (src2 e c r j) (readTb e c (iDst c.word) r j))))

/-- MIN (R51). -/
def execMin (e : EngineId) (k : WorkClass) (s : State) : Out := binary accMin e k 0x10 0x2F s

/-- MAX (R51). -/
def execMax (e : EngineId) (k : WorkClass) (s : State) : Out := binary accMax e k 0x10 0x2F s

/-- ABS. -/
def execAbs (e : EngineId) (k : WorkClass) (s : State) : Out := unary accAbs e k 0x10 0x2F costElem s

/-- NEG. -/
def execNeg (e : EngineId) (k : WorkClass) (s : State) : Out := unary accNeg e k 0x10 0x2F costElem s

/-- SELECT: SRC1 where the bit of MASK_SEL is 1, SRC2 elsewhere (R116); under MASK_EN inactive positions keep their
contents as for every element-wise instruction (R117). -/
def execSelect (e : EngineId) (k : WorkClass) (s : State) : Out :=
  .next (instrStep s e.val k 0x10 0x2F costElem (mapInstr (fun e c r j =>
    if maskAt e (iMaskSel c.word) r j then src1 e c r j else src2 e c r j)))

/-- CMPEQ (R117). -/
def execCmpeq (e : EngineId) (k : WorkClass) (s : State) : Out := .next (instrStep s e.val k 0x10 0x2F costElem (cmpInstr accEq))

/-- CMPLT (R117). -/
def execCmplt (e : EngineId) (k : WorkClass) (s : State) : Out := .next (instrStep s e.val k 0x10 0x2F costElem (cmpInstr accLt))

/-- CMPLE (R117). -/
def execCmple (e : EngineId) (k : WorkClass) (s : State) : Out := .next (instrStep s e.val k 0x10 0x2F costElem (cmpInstr accLe))

/-- MAND. -/
def execMand (e : EngineId) (k : WorkClass) (s : State) : Out := .next (instrStep s e.val k 0x10 0x2F costElem (maskInstr and))

/-- MOR. -/
def execMor (e : EngineId) (k : WorkClass) (s : State) : Out := .next (instrStep s e.val k 0x10 0x2F costElem (maskInstr or))

/-- MNOT. -/
def execMnot (e : EngineId) (k : WorkClass) (s : State) : Out :=
  .next (instrStep s e.val k 0x10 0x2F costElem (maskInstr (fun x _ => !x)))

/-- EXP2 (R53). -/
def execExp2 (e : EngineId) (k : WorkClass) (s : State) : Out := unary accExp2 e k 0x30 0x3F costTrans s

/-- LOG2 (R53). -/
def execLog2 (e : EngineId) (k : WorkClass) (s : State) : Out := unary accLog2 e k 0x30 0x3F costTrans s

/-- RCP (R53). -/
def execRcp (e : EngineId) (k : WorkClass) (s : State) : Out := unary accRcp e k 0x30 0x3F costTrans s

/-- RSQRT (R53). -/
def execRsqrt (e : EngineId) (k : WorkClass) (s : State) : Out := unary accRsqrt e k 0x30 0x3F costTrans s

/-! Row reductions (R118 to R120). -/

/-- RSUM (R50). -/
def execRsum (e : EngineId) (k : WorkClass) (s : State) : Out :=
  .next (instrStep s e.val k 0x40 0x4F costRow (rowInstr 0 (rowParts accAdd) accAdd))

/-- RSUMSQ (R50). -/
def execRsumsq (e : EngineId) (k : WorkClass) (s : State) : Out :=
  .next (instrStep s e.val k 0x40 0x4F costRow (rowInstr 0 squareParts accAdd))

/-- RPROD (R50). -/
def execRprod (e : EngineId) (k : WorkClass) (s : State) : Out :=
  .next (instrStep s e.val k 0x40 0x4F costRow (rowInstr 1 (rowParts accMul) accMul))

/-- RMAX (R51). -/
def execRmax (e : EngineId) (k : WorkClass) (s : State) : Out :=
  .next (instrStep s e.val k 0x40 0x4F costRow (rowInstr 2 (List.filterMap id) accMax))

/-- RMIN (R51). -/
def execRmin (e : EngineId) (k : WorkClass) (s : State) : Out :=
  .next (instrStep s e.val k 0x40 0x4F costRow (rowInstr 3 (List.filterMap id) accMin))

/-- RARGMAX (R51). -/
def execRargmax (e : EngineId) (k : WorkClass) (s : State) : Out :=
  .next (instrStep s e.val k 0x40 0x4F costRow (argInstr accMax))

/-- RARGMIN (R51). -/
def execRargmin (e : EngineId) (k : WorkClass) (s : State) : Out :=
  .next (instrStep s e.val k 0x40 0x4F costRow (argInstr accMin))

/-- The active count of a row, if it has an active position. -/
def countParts (l : List (Option Acc)) : List Acc :=
  if l.all Option.isNone then [] else [accOfNat (l.filterMap id).length]

/-- RCOUNT: the number of active positions (R51). -/
def execRcount (e : EngineId) (k : WorkClass) (s : State) : Out :=
  .next (instrStep s e.val k 0x40 0x4F costRow
    (rowInstr 0 countParts accAdd))

/-! Slot arithmetic: the element-wise and transcendental operations on whole slots (Table 6.3, R52). -/

/-- The result of an operation from up to three operands. -/
def slotApply (op : SlotOp) (x y z : Acc) : Acc :=
  match op with
  | .add => accAdd x y
  | .sub => accSub x y
  | .mul => accMul x y
  | .fma => accFma x y z
  | .min => accMin x y
  | .max => accMax x y
  | .abs => accAbs x
  | .neg => accNeg x
  | .exp2 => accExp2 x
  | .log2 => accLog2 x
  | .rcp => accRcp x
  | .rsqrt => accRsqrt x

def slotBinary (op : SlotOp) : Bool :=
  match op with
  | .add | .sub | .mul | .fma | .min | .max => true
  | _ => false

def slotTrans (op : SlotOp) : Bool :=
  match op with
  | .exp2 | .log2 | .rcp | .rsqrt => true
  | _ => false

/-- The slots an operation reads: one source; for an operation of two another, unless SRC2_KIND 1 names a scalar; for FMA
the prior contents of SLOT. Table 6.2 has no field for source slots, so which ones a word names is left open (log 40). -/
def slotSources (op : SlotOp) (w : Nat) : List Nat :=
  (Config.slotSource 0 w % 64)
    :: ((if slotBinary op && iKind2 w != 1 then [Config.slotSource 1 w % 64] else []) ++ (if op = .fma then [iSlot w] else []))

/-- Entry i of the slot that a slot operation writes: none when an operand it reads is none. -/
def slotEntry (e : Engine) (c : Ctx) (op : SlotOp) (i : Nat) : Option Acc :=
  let w := c.word
  let y := if iKind2 w = 1 then some (scAt (bankOf e c.cls) (iSreg w)) else slotAt e (Config.slotSource 1 w % 64) i
  match slotAt e (Config.slotSource 0 w % 64) i, (if slotBinary op then y else some Acc.zero),
      (if op = .fma then slotAt e (iSlot w) i else some Acc.zero) with
  | some x, some y, some z => some (slotApply op x y z)
  | _, _, _ => none

/-- What an entry without a value stands for: the most negative value when an operand stood for it (a log-sum-exp), else
+0, as Table 6.4 has it for the composites. -/
def slotKindOf (e : Engine) (c : Ctx) (op : SlotOp) : Nat :=
  if (slotSources op c.word).any (fun sl => SMap.get e.slotKind sl 0 == 2) then 2 else 0

def slotStep (op : SlotOp) (s : State) (c : Ctx) : State × Next :=
  let e := engineOf s c.eng
  (setEngine s c.eng (putSlot e (iSlot c.word) (slotKindOf e c op)
    ((List.range 512).map (fun i => (i, slotEntry e c op i)))), .go)

/-- SLOT_ARITHMETIC: one step, 4 for a transcendental operation. Table 6.3 names the operations and not their opcodes, so
the command names the operation. -/
def execSlotArithmetic (e : EngineId) (w : SlotWork) (s : State) : Out :=
  .next (instrStep s e.val w.cls 0x50 0x5F (fun _ => if slotTrans w.op then 4 else 1) (slotStep w.op))

/-! Compress and select (R123, R124). -/

/-- The active positions of a row, in ascending order. -/
def activeCols (e : Engine) (c : Ctx) (r : Nat) : List Nat := (colsOf c.prog).filter (active e c r)

/-- A row is active when one of its positions is. -/
def activeRows (e : Engine) (c : Ctx) : List Nat := (rowsOf c.prog).filter (fun r => !(activeCols e c r).isEmpty)

/-- Values of a list at ascending positions, +0 behind it. -/
def packed (n : Nat) (l : List Acc) : List (Nat × Acc) := (List.range n).map (fun i => (i, l.getD i Acc.zero))

def costSelect (c : Ctx) : Nat := 2 * costRow c

/-- The rows of the rectangle with their numbers from its top. -/
def rowNumbers (p : Prog) : List (Nat × Nat) := (List.range p.rows).zip (rowsOf p)

/-- COMPRESS (R123). -/
def compressStep (s : State) (c : Ctx) : State × Next :=
  let e := engineOf s c.eng
  let w := c.word
  let e1 :=
    if (iImm w).testBit 0 then
      let rs := activeRows e c
      let l := (rowNumbers c.prog).flatMap (fun i => (colsOf c.prog).map (fun k =>
        (i.2, k, match rs[i.1]? with
          | some r => src1 e c r k
          | none => Acc.zero)))
      putSlot (putTb e (iDst w) l) (iSlot w) 0 [(0, some (accOfNat rs.length))]
    else
      let l := (rowsOf c.prog).flatMap (fun r =>
        (packed c.prog.cols ((activeCols e c r).map (src1 e c r))).map (fun x => (r, x.1, x.2)))
      putSlot (putTb e (iDst w) l) (iSlot w) 0
        ((rowsOf c.prog).map (fun r => (r, some (accOfNat (activeCols e c r).length))))
  (setEngine s c.eng (tagBuf e1 (iDst w) (layoutOf w)), .go)

def execCompress (e : EngineId) (k : WorkClass) (s : State) : Out :=
  .next (instrStep s e.val k 0x70 0x7F costSelect compressStep)

/-- EXPAND, the inverse (R123): inactive positions keep their contents, or take +0 with IMM bit 1. -/
def expandStep (s : State) (c : Ctx) : State × Next :=
  let e := engineOf s c.eng
  let w := c.word
  let rs := activeRows e c
  let value := fun (r k : Nat) =>
    if (iImm w).testBit 0 then
      (match rs.findIdx? (· == r) with
        | some i => some (src1 e c ((rowsOf c.prog).getD i i) k)
        | none => none)
    else (match (activeCols e c r).findIdx? (· == k) with
        | some i => some (src1 e c r i)
        | none => none)
  let l := (rect c.prog).filterMap (fun x => match value x.1 x.2 with
    | some v => some (x.1, x.2, v)
    | none => if (iImm w).testBit 1 then some (x.1, x.2, Acc.zero) else none)
  (setEngine s c.eng (tagBuf (putTb e (iDst w) l) (iDst w) (layoutOf w)), .go)

def execExpand (e : EngineId) (k : WorkClass) (s : State) : Out :=
  .next (instrStep s e.val k 0x70 0x7F costSelect expandStep)

/-- x ranks above y (R124): NaN first, +0 above -0. -/
def ranksAbove (x y : Acc) : Bool := if y.isNan then false else x.isNan || accLtTotal y x

/-- The highest of a list of positions and values, the first of equals. -/
def topOne (l : List (Nat × Acc)) : Option (Nat × Acc) :=
  match l with
  | [] => none
  | x :: l => some (l.foldl (fun b y => if ranksAbove y.2 b.2 then y else b) x)

/-- The k highest, in descending order. -/
def topList : Nat → List (Nat × Acc) → List (Nat × Acc)
  | 0, _ => []
  | n + 1, l => match topOne l with
    | none => []
    | some b => b :: topList n (l.filter (fun x => x.1 != b.1))

/-- TOPK (R124). -/
def topkStep (s : State) (c : Ctx) : State × Next :=
  let k := iImm c.word
  let sl := iSlot c.word
  if k = 0 || 16 < k || 64 < sl + 2 * k then (s, .stop stFormat)
  else
    let e := engineOf s c.eng
    let tops := (rowsOf c.prog).map (fun r => (r, topList k ((activeCols e c r).map (fun j => (j, src1 e c r j)))))
    let e1 := (List.range k).foldl (fun e i =>
      putSlot (putSlot e (sl + i) 2 (tops.map (fun t => (t.1, (t.2[i]?).map Prod.snd))))
        (sl + k + i) 4 (tops.map (fun t => (t.1, (t.2[i]?).map (fun x => accOfNat x.1))))) e
    (setEngine s c.eng e1, .go)

def execTopk (e : EngineId) (k : WorkClass) (s : State) : Out :=
  .next (instrStep s e.val k 0x70 0x7F (fun c => (iImm c.word + 1) * costRow c) topkStep)

/-! Dropout masks (R140, R141). -/

/-- Is the element of index i kept. -/
def maskKept (seed step maskId q16 i : Nat) : Bool :=
  !decide (grainLane seed 1 step (maskId * 2 ^ 40 + i / 8) (i % 8) < q16)

/-- MASKGEN (R141). -/
def maskgenStep (s : State) (c : Ctx) : State × Next :=
  match accNat (scReg s c (iSreg c.word)), accNat (scReg s c 29), accNat (scReg s c 30), accNat (scReg s c 31) with
  | some q16, some r0, some c0, some n =>
    let idx := fun (x : Nat × Nat) => (r0 + x.1) * n + (c0 + x.2)
    if 65536 < q16 || (rect c.prog).any (fun x => decide (2 ^ 43 ≤ idx x)) then (s, .stop stFormat)
    else
      let e := engineOf s c.eng
      let l := (rect c.prog).map (fun x => (x.1, x.2,
        maskKept (ctxSeed s c.prog.ctx) (arReg s c (iAr c.word)) (iImm c.word) q16 (idx x)))
      (setEngine s c.eng (putMask e (iDst c.word) l), .go)
  | _, _, _, _ => (s, .stop stFormat)

def execMaskgen (e : EngineId) (k : WorkClass) (s : State) : Out :=
  .next (instrStep s e.val k 0x80 0x8F costRow maskgenStep)

/-! Memory instructions. -/

/-- The tensor an instruction names: the address and line distance of AR[AR + i], scales at AR[AR + i + 1]. -/
def vecTensor (s : State) (c : Ctx) (i axis : Nat) : Tensor :=
  let x := arReg s c (iAr c.word + i)
  { addr := fld x 43 0, fmt := iFormat c.word, scaled := iScaled c.word, axis := axis,
    scale := fld (arReg s c (iAr c.word + i + 1)) 43 0, pitch := fld x 63 44, rows := c.prog.rows, cols := c.prog.cols }

/-- Wholly inside the loam window of the program's context (R129). -/
def vecInside (s : State) (c : Ctx) (a len : Nat) : Bool := len == 0 || inLoamWin (ctxRec s c.prog.ctx) a len

def tensorInside (s : State) (c : Ctx) (t : Tensor) : Bool :=
  vecInside s c t.addr t.size && vecInside s c t.scale t.scaleSize

def tensorPoisoned (s : State) (t : Tensor) : Bool :=
  (t.size != 0 && rangePoisoned s t.addr t.size) || (t.scaleSize != 0 && rangePoisoned s t.scale t.scaleSize)

/-- The layout tag of values of a format. -/
def tagOf (w : Nat) : Layout := if iPacked w then .packed else if iFormat w = .int32 then .int32 else .fp32

/-- LOAD: the elements of the rectangle, widened (R36); stops outside the window or on poison (R129, R184). -/
def loadStep (s : State) (c : Ctx) : State × Next :=
  let t := vecTensor s c 0 (iAxis c.word)
  if !tensorInside s c t then (s, .stop stAddress)
  else if tensorPoisoned s t then (s, .stop stHwFault)
  else
    let e := engineOf s c.eng
    let l := (activeRect e c).map (fun x => (x.1, x.2, widen (t.read s x.1 x.2)))
    (setEngine s c.eng (tagBuf (putTb e (iDst c.word) l) (iDst c.word) (tagOf c.word)), .go)

def execVecLoad (e : EngineId) (k : WorkClass) (s : State) : Out := .next (instrStep s e.val k 0x90 0x9F costLoad loadStep)

/-- The rounding of position (r, j) of a conversion or store: stochastic when the instruction, or in a program the
descriptor's default, asks for it (R37, R38, Table 6.6); the final write of an epilogue takes the matrix descriptor's mode
instead (`epiWrite`, R101). The element index of R38 is the one in the destination for an epilogue; for a program the spec
names neither origin nor width, and r * columns + j of the active rectangle is taken (DESIGN CHOICE, log 40). -/
def vecRound (s : State) (c : Ctx) (r j : Nat) : Rmode :=
  match progOp s c.prog with
  | none => .rne
  | some o =>
    let d := o.desc.toNat
    if c.cls = .epilogue then
      if iSr c.word then
        .sr (srBits (ctxSeed s o.ctx) (mStream d) (mStep d) (dOpId d) ((c.prog.row0 + r) * mN d + (c.prog.col0 + j)))
      else .rne
    else if iSr c.word || vRound d = 1 then
      .sr (srBits (ctxSeed s o.ctx) (vStream d) (vStep d) (dOpId d) (r * c.prog.cols + j))
    else .rne

/-- IEEE overflow: of the instruction, or of the program's default (R39, Table 6.6). -/
def vecIeee (s : State) (c : Ctx) : Bool :=
  match progOp s c.prog with
  | none => iIeee c.word
  | some o => iIeee c.word || (c.cls != .epilogue && mIeee o.desc.toNat)

/-- The elements of one conversion: position, bits written, and counts. A block's scale stands with its first position. -/
structure Conv where
  elems  : List (Nat × Nat × Nat)
  blocks : List (Nat × Nat × Nat × List Nat)
  counts : List Count
  back   : List (Nat × Nat × Acc)
deriving DecidableEq, Repr

/-- The origins of the blocks of a rectangle along an axis. -/
def blockOrigins (p : Prog) (axis : Nat) : List (Nat × Nat) :=
  if axis = 0 then (List.range p.rows).flatMap (fun r => (List.range (ceilDiv p.cols 32)).map (fun b => (r, 32 * b)))
  else (List.range (ceilDiv p.rows 32)).flatMap (fun b => (colsOf p).map (fun k => (32 * b, k)))

/-- Convert the active positions of SRC1 (R33, R36 to R42). -/
def convert (s : State) (c : Ctx) (axis : Nat) : Conv :=
  let e := engineOf s c.eng
  let f := iFormat c.word
  let here := fun (r k : Nat) => decide (r < c.prog.rows) && !c.prog.rowOff.testBit r && decide (k < c.prog.cols) && active e c r k
  if iScaled c.word then
    let out := (blockOrigins c.prog axis).filterMap (fun o =>
      let at_ := fun i => if axis = 0 then (o.1, o.2 + i) else (o.1 + i, o.2)
      let l := (List.range 32).map (fun i =>
        let x := at_ i
        if here x.1 x.2 then some (src1 e c x.1 x.2, vecRound s c x.1 x.2) else none)
      if l.all Option.isNone then none
      else
        let q := convBlock f (iHead c.word) l
        let back := (List.range 32).filterMap (fun i =>
          let x := at_ i
          if here x.1 x.2 then some (x.1, x.2, widen (FVal.scale (f.decode (q.2.1.getD i 0)) q.1)) else none)
        some ((o.1, o.2, q.1, q.2.1), q.2.2, back))
    { elems := [], blocks := out.map Prod.fst, counts := out.flatMap (fun x => x.2.1), back := out.flatMap (fun x => x.2.2) }
  else
    let out := ((rect c.prog).filter (fun x => here x.1 x.2)).map (fun x =>
      (x, f.narrow (src1 e c x.1 x.2) 0 (vecRound s c x.1 x.2) (vecIeee s c)))
    { elems := out.map (fun x => (x.1.1, x.1.2, x.2.1)), blocks := [], counts := out.map (fun x => x.2.2),
      back := out.map (fun x => (x.1.1, x.1.2, widen (f.decode x.2.1))) }

/-- Store what a conversion produced. -/
def storeConv (s : State) (t : Tensor) (v : Conv) : State :=
  let s1 := v.elems.foldl (fun s x => t.store s x.1 x.2.1 x.2.2) s
  v.blocks.foldl (fun s x => t.storeBlock s x.1 x.2.1 x.2.2.1 x.2.2.2) s1

/-- A conversion that makes nothing. -/
def Conv.nothing : Conv := { elems := [], blocks := [], counts := [], back := [] }

/-- Convert to the tensor at AR, and with `dual` to the column copy at AR + 2 (R34): the first conversion, the second, and
the state after both are written. Outside the window nothing is written (R129). -/
def writeCopies (dual : Bool) (s : State) (c : Ctx) : Option (Conv × Conv × State) :=
  let t := vecTensor s c 0 (if dual then 0 else iAxis c.word)
  let t2 := vecTensor s c 2 1
  if !tensorInside s c t || (dual && !tensorInside s c t2) then none
  else
    let v := convert s c t.axis
    let v2 := if dual then convert s c 1 else Conv.nothing
    some (v, v2, storeConv (storeConv s t v) t2 v2)

/-- STORE: the active positions in the format of the instruction, both copies under DUAL (R34), not counted (R42 counts
conversions). -/
def storeStep (s : State) (c : Ctx) : State × Next :=
  match writeCopies (iDual c.word) s c with
  | none => (s, .stop stAddress)
  | some x => (x.2.2, .go)

def execStore (e : EngineId) (k : WorkClass) (s : State) : Out := .next (instrStep s e.val k 0x90 0x9F costConv storeStep)

def costStat (c : Ctx) : Nat := max (costRow c) (ceilDiv (8 * c.prog.rows) 4096)

/-- LOADSTAT: record r gives entry r of SLOT and of the next slot (R122). -/
def loadstatStep (s : State) (c : Ctx) : State × Next :=
  let a := fld (arReg s c (iAr c.word)) 43 0
  let n := 8 * c.prog.rows
  if !vecInside s c a n then (s, .stop stAddress)
  else if n != 0 && rangePoisoned s a n then (s, .stop stHwFault)
  else
    let e := engineOf s c.eng
    let col := fun (o : Nat) => (List.range c.prog.rows).map (fun r => (r, some (widen (Fmt.decode .fp32 (memVal s (a + 8 * r + o) 4)))))
    (setEngine s c.eng (putSlot (putSlot e (iSlot c.word) 0 (col 0)) ((iSlot c.word + 1) % 64) 0 (col 4)), .go)

def execLoadstat (e : EngineId) (k : WorkClass) (s : State) : Out := .next (instrStep s e.val k 0x90 0x9F costStat loadstatStep)

/-- What SAVESTAT writes for row r: a row masked by the descriptor of an epilogue keeps its record, or takes the empty-row
values under ZERO_MASKED (R122). -/
def statRecord (s : State) (c : Ctx) (r : Nat) : Option Nat :=
  let e := engineOf s c.eng
  let sl := iSlot c.word
  let full := slotF32 e sl r + slotF32 e ((sl + 1) % 64) r * 2 ^ 32
  match progOp s c.prog with
  | none => some full
  | some o =>
    if c.cls = .epilogue && o.rowMask.testBit (c.prog.row0 + r) then
      if mZeroMasked o.desc.toNat then
        some (emptyF32 (SMap.get e.slotKind sl 0) + emptyF32 (SMap.get e.slotKind ((sl + 1) % 64) 0) * 2 ^ 32)
      else none
    else some full

/-- SAVESTAT (R122). -/
def savestatStep (s : State) (c : Ctx) : State × Next :=
  let a := fld (arReg s c (iAr c.word)) 43 0
  if !vecInside s c a (8 * c.prog.rows) then (s, .stop stAddress)
  else ((List.range c.prog.rows).foldl (fun t r => match statRecord s c r with
      | none => t
      | some v => memWriteVal t (a + 8 * r) 8 v) s, .go)

def execSavestat (e : EngineId) (k : WorkClass) (s : State) : Out := .next (instrStep s e.val k 0x90 0x9F costStat savestatStep)

def costMask (c : Ctx) : Nat := max (costRow c) (ceilDiv (ceilDiv (rowCount c.prog * c.prog.cols) 8) 4096)

/-- LOADMASK: one bit for each position, 1 = active, rows at the line distance. -/
def loadmaskStep (s : State) (c : Ctx) : State × Next :=
  let x := arReg s c (iAr c.word)
  let a := fld x 43 0
  let pitch := 64 * fld x 63 44
  let n := if c.prog.rows = 0 then 0 else (c.prog.rows - 1) * pitch + ceilDiv c.prog.cols 8
  if !vecInside s c a n then (s, .stop stAddress)
  else if n != 0 && rangePoisoned s a n then (s, .stop stHwFault)
  else
    let e := engineOf s c.eng
    let l := (rect c.prog).map (fun p => (p.1, p.2, (memByte s (a + p.1 * pitch + p.2 / 8)).toNat.testBit (p.2 % 8)))
    (setEngine s c.eng (putMask e (iDst c.word) l), .go)

def execLoadmask (e : EngineId) (k : WorkClass) (s : State) : Out := .next (instrStep s e.val k 0x90 0x9F costMask loadmaskStep)

/-! Conversions (R33, R34, R36 to R43, R101, R127). -/

/-- The rows of an epilogue's final write: the values of SRC1 at the active positions. -/
def epiRows (s : State) (c : Ctx) (o : Op) : List OutRow :=
  let e := engineOf s c.eng
  let p := c.prog
  (rowsOf p).reverse.map (fun r =>
    { tag := o.tag, tile := 0, row := p.row0 + r, last := false,
      vals := (colsOf p).filterMap (fun k => if active e c r k then some (p.col0 + k, src1 e c r k) else none) })

/-- The tiles a run covers. -/
def tilesOfRun (o : Op) (p : Prog) : List Nat :=
  let d := o.desc.toNat
  let side := sideOf (mMode d)
  (List.range (opTiles o)).filter (fun t =>
    let x := tileAt d side t
    x.1 * side == p.row0 && (decide (p.col0 ≤ x.2 * side) && decide (x.2 * side < p.col0 + p.cols)))

/-- The values of a piece of the row copy, at their positions in the rectangle. -/
def Piece.values (d : Nat) (p : Prog) : Piece → List (Nat × Nat × Acc)
  | .elem false r k v => [(r - p.row0, k - p.col0, widen ((mDFormat d).decode v))]
  | .block false r k sc l => ((List.range l.length).zip l).map (fun x =>
      let i := if mDAxis d = 1 then (r - p.row0 + x.1, k - p.col0) else (r - p.row0, k - p.col0 + x.1)
      (i.1, i.2, widen (FVal.scale ((mDFormat d).decode x.2) sc)))
  | _ => []

/-- The final write of an epilogue: to D, and to D2 when DUAL = 1, under the matrix descriptor, with the zeros of its
masked positions (R101); DST takes the converted values. -/
def epiWrite (s : State) (c : Ctx) (o : Op) : State :=
  let d := o.desc.toNat
  let w := tilePieces s o ((colsOf c.prog).map (· + c.prog.col0)) (epiRows s c o)
  let zs := (tilesOfRun o c.prog).flatMap (maskedPieces s o)
  let e := engineOf s c.eng
  let back := (w.1.flatMap (Piece.values d c.prog)).filter (fun x =>
    decide (x.1 < c.prog.rows) && decide (x.2.1 < c.prog.cols) && active e c x.1 x.2.1)
  let s1 := setEngine s c.eng (tagBuf (putTb e (iDst c.word) back) (iDst c.word)
    (if mDFormat d = .int32 then .int32 else .fp32))
  updOp ((w.1 ++ zs).foldl (applyPiece d) s1) o.tag (fun x => addCounts x w.2)

/-- Counts of a program's conversion (R43, R127). -/
def noteCounts (s : State) (c : Ctx) (l : List Count) : State :=
  match c.prog.tag with
  | none => s
  | some t => updOp s t (fun o => addCounts o l)

/-- A conversion: an epilogue's last one is its final write; any other gives DST the converted values and loam at AR their
bits, with `both` the column copy at AR + 2 (R34). -/
def convStep (both : Bool) (s : State) (c : Ctx) : State × Next :=
  match c.final, progOp s c.prog with
  | true, some o => (epiWrite s c o, .go)
  | _, _ =>
    match writeCopies (both || iDual c.word) s c with
    | none => (s, .stop stAddress)
    | some x =>
      let e := engineOf x.2.2 c.eng
      let s2 := setEngine x.2.2 c.eng (tagBuf (putTb e (iDst c.word) x.1.back) (iDst c.word) (tagOf c.word))
      (noteCounts s2 c (x.1.counts ++ x.2.1.counts), .go)

/-- CVT (R37). -/
def execCvt (e : EngineId) (k : WorkClass) (s : State) : Out := .next (instrStep s e.val k 0x60 0x6F costConv (convStep false))

/-- QUANT (R33). -/
def execQuant (e : EngineId) (k : WorkClass) (s : State) : Out := .next (instrStep s e.val k 0x60 0x6F costConv (convStep false))

def costDual (c : Ctx) : Nat :=
  perTile c.prog (fun w => max (2 * ceilDiv (spanSize c.prog w) 8192) (ceilDiv (movedBytes c true w) 4096))

/-- QDUAL (R34). -/
def execQdual (e : EngineId) (k : WorkClass) (s : State) : Out := .next (instrStep s e.val k 0x60 0x6F costDual (convStep true))

/-- A microcode instruction. In a program of a context it stops the program with MODE_ERROR (R129; it is there only when the
word changed after dispatch). In Gwevi's own update and sieve microcode its steps are those that Table 8.7 and R179 give
the whole unit of work, and what it leaves in the buffers that the class holds is for Gwevi to document: unspecified (log 40). -/
def execMicrocodeInstruction (e : EngineId) (k : WorkClass) (s : State) : Out :=
  .next (if k = .epilogue || k = .program then instrStep s e.val k 0xF0 0xFF cost1 (fun s _ => (s, .stop stMode))
    else if mayRun s e.val k then
      { setEngine s e.val (forgetShared (engineOf s e.val) s.freeCtr) with freeCtr := s.freeCtr + 2 ^ 50 }
    else s)

end Sys2Proof.Machine
end

