-- ==== Sys2Proof/Machine/Sieve.lean ====
section
/-! DEFINITION. The sieve's checks (R171 to R181): capture completion, the exact check, its recheck on the other engine,
and the fidelity check. -/

namespace Sys2Proof.Machine

/-- The last part of a capture has been written (R171); the completion record waits for it (R104). The slot's bytes are left
open (log 39). -/
def execCaptureComplete (a : ArrayId) (ii : PartId) (s : State) : Out :=
  .next (match s.caps.find? (fun c => c.array == a.val && c.part == ii.val && !c.complete && c.rows_left == 0) with
    | none => s
    | some c =>
      if coreRuns s then
        leaveOpen (updOp (updCap s c.tag c.tile (fun x => { x with complete := true })) c.tag
          (fun o => { o with capsOut := o.capsOut - 1, sampled := true })) (slotBase s c.ctx c.slot) c.size
      else s)

/-- Change one capture. -/
def editCap (s : State) (c : Capture) (f : Capture → Capture) : State :=
  { s with caps := mapIf (fun x => x.ctx == c.ctx && x.slot == c.slot) f s.caps }

/-- A capture's checks have ended: its slot is free (R179). -/
def dropCap (s : State) (c : Capture) : State :=
  releaseTaps { s with caps := s.caps.filter (fun x => !(x.ctx == c.ctx && x.slot == c.slot)) }

/-- The reading of the capture, when it is longer than the computation (R179). -/
def withReading (c : Capture) (steps : Nat) : Nat := max steps (ceilDiv c.size 4096)

def capElems (c : Capture) : Nat := c.rows.length * c.cols.length

def exactSteps (c : Capture) : Nat :=
  withReading c (ceilDiv (capElems c) 8192 * ceilDiv (mK c.desc.toNat) (groupSize (classOf (mAFmt c.desc.toNat))))

def fidelitySteps (c : Capture) : Nat :=
  withReading c (ceilDiv (capElems c) 8192 * mK c.desc.toNat + 3 * ceilDiv (capElems c) 8192)

/-- The recomputed value of every active element, in row-major order (R172, R44). -/
def recompute (c : Capture) (ups : List Upset) : List (Nat × Nat × Acc) :=
  let g := groupSize (classOf (mAFmt c.desc.toNat))
  (c.rows.zip c.aStrip).flatMap (fun r => (c.cols.zip c.bStrip).map (fun k =>
    (r.1, k.1, upsetAcc ups r.1 k.1 (dot g (SMap.get c.cIn (ckey r.1 k.1) Acc.zero) r.2 k.2))))

/-- The operation a capture belongs to, as far as conversion needs it: its masks are those of the tile. -/
def capOp (s : State) (c : Capture) : Op :=
  let d := c.desc.toNat
  let p := sideOf (mMode d)
  let bits := fun (l : List Nat) (keep : List Nat) => (l.filter (fun i => !keep.contains i)).foldl (fun m i => setBit m i true) 0
  { newOp s c.tag 0 c.ctx .matrix c.desc with
    rowMask := bits (tileRows d p c.tile) c.rows
    colMask := bits (tileCols d p c.tile) c.cols }

/-- The rows of recomputed values as the drain delivers them, bottom row first. -/
def capRows (c : Capture) (vals : List (Nat × Nat × Acc)) : List OutRow :=
  c.rows.reverse.map (fun r =>
    { tag := c.tag, tile := c.tile, row := r, last := c.rows.head? == some r,
      vals := (vals.filter (fun v => v.1 == r)).map (fun v => (v.2.1, v.2.2)) })

/-- What the output stage should have sent of these values, with their counts (R172). -/
def sentOf (s : State) (c : Capture) (vals : List (Nat × Nat × Acc)) (ups : List Upset) : SMap Nat :=
  let d := c.desc.toNat
  let rows := capRows c vals
  let out : List Piece × List Count :=
    if mDest d = 1 then
      let l := rows.flatMap (fun r => (handoff r.vals).map (fun x => (Piece.elem false r.row x.1 x.2.1, x.2.2)))
      (l.map Prod.fst, l.map Prod.snd)
    else
      let x := tilePieces s (capOp s c) (tileCols d (sideOf (mMode d)) c.tile) rows
      (x.1 ++ maskedPieces s (capOp s c) c.tile, x.2)
  let f : Fmt := if mDest d = 1 then .fp32 else mDFormat d
  capCounts ((out.1.map (upsetPiece ups)).foldl (fun m x => SMap.put m (x.entry f).1 (x.entry f).2) []) out.2

/-- The captured acc48 values in row-major order. -/
def capturedOf (c : Capture) : List (Nat × Nat × Acc) :=
  c.rows.flatMap (fun r => c.cols.map (fun k => (r, k, SMap.get c.drained (ckey r k) Acc.zero)))

/-- A check's results compare equal with the capture. -/
def capAgrees (c : Capture) (vals : List (Nat × Nat × Acc)) (sent : SMap Nat) : Bool :=
  vals == capturedOf c && sent == c.sent

/-- After the exact check: the fidelity check when it was selected, else the slot is free. -/
def afterExact (s : State) (c : Capture) : State :=
  if c.fidelity then editCap s c (fun x => { x with exactDone := true, failed := none }) else dropCap s c

/-- May engine n run sieve work, and which capture comes first (R130, R172). -/
def sieveTurn (s : State) (n : Nat) : Option Capture :=
  if mayRun s n .sieve && (engineOf s n).run.isNone then sieveJob s n else none

/-- EXACT_CHECK (R172, R175). -/
def execExactCheck (e : EngineId) (ups : List Upset) (s : State) : Out :=
  .next (match sieveTurn s e.val with
    | none => s
    | some c =>
      if c.exactDone || c.failed.isSome then s
      else
        let s1 := countSteps s e.val .sieve (exactSteps c)
        let v := recompute c ups
        let sent := sentOf s c v ups
        if capAgrees c v sent then afterExact (cleanCheck (bump s1 0x6125 (c.array + 1)) c.array) c
        else editCap s1 c (fun x => { x with failed := some (v, sent), firstEngine := e.val }))

/-! Classification (Table 9.1). -/

/-- Positions at which a list of values differs from another of the same positions. -/
def diffAt (a b : List (Nat × Nat × Acc)) : List (Nat × Nat) :=
  ((a.zip b).filter (fun x => x.1.2.2 != x.2.2.2)).map (fun x => (x.1.1, x.1.2.1))

/-- The elements of one sent entry that differ from those of another: of a block, every element when the scale bytes differ,
else those whose bits do. -/
def entryDiff (d key x y : Nat) : List (Nat × Nat) :=
  let r := key % 2 ^ 44 / 2 ^ 20
  let c := key % 2 ^ 20
  if !mDScaled d || mDest d = 1 then [(r, c)]
  else
    let n := (mDFormat d).bits
    let down := mDAxis d == 1 || decide (2 ^ 44 ≤ key)
    ((List.range 32).filter (fun i =>
      x % 256 != y % 256 || x / 256 / 2 ^ (n * i) % 2 ^ n != y / 256 / 2 ^ (n * i) % 2 ^ n)).map
        (fun i => if down then (r + i, c) else (r, c + i))

/-- Elements of sent values that differ, counts apart. -/
def sentDiff (d : Nat) (a b : SMap Nat) : List (Nat × Nat) :=
  ((a ++ b).filter (fun x => decide (x.1 < 2 ^ 46) && SMap.find a x.1 != SMap.find b x.1)).flatMap
    (fun x => entryDiff d x.1 (SMap.get a x.1 0) (SMap.get b x.1 0))

/-- The culprit: a recheck that agrees with the capture names the first engine ahead of the other rows. -/
def culprit (c : Capture) (v1 v2 : List (Nat × Nat × Acc)) (s1 s2 : SMap Nat) : Nat :=
  let cap := capturedOf c
  if v2 == cap && s2 == c.sent then 2
  else if v1 == cap && v2 == cap then 1
  else if v1 == v2 && s1 == s2 then 0
  else 3

/-- The mismatching elements in row-major order: of acc48 values, and of sent values where those agree. -/
def mismatches (c : Capture) (v1 v2 : List (Nat × Nat × Acc)) (s1 s2 : SMap Nat) : List (Nat × Nat) :=
  let d := c.desc.toNat
  let cap := capturedOf c
  let accs := diffAt cap v1 ++ diffAt cap v2
  let l := if accs.isEmpty then sentDiff d c.sent s1 ++ sentDiff d c.sent s2 else accs
  ((tileRows d (sideOf (mMode d)) c.tile).flatMap (fun r => (tileCols d (sideOf (mMode d)) c.tile).map (fun k => (r, k)))).filter
    (fun x => l.contains x)

/-- The array cell that computes an element (R173). -/
def cellOf (c : Capture) (x : Nat × Nat) : Nat × Nat :=
  let mode := mMode c.desc.toNat
  let p := sideOf mode
  let o := originOf mode c.part
  (o.1 + x.1 % p, o.2 + x.2 % p)

/-- The 32 x 32 regions of cells; a test of each, or of the whole partition beyond four. -/
def regionTests (c : Capture) (l : List (Nat × Nat)) : List (TestKind × Nat × Nat) :=
  let rs := (l.map (fun x => (cellOf c x).1 / 32 * 16 + (cellOf c x).2 / 32)).eraseDups
  if rs.length ≤ 4 then rs.map (fun r => (TestKind.arrayRegion, c.array, r))
  else [(.arrayRegion, c.array, partLoc (mMode c.desc.toNat) c.part)]

/-- LAST_MISMATCH (Table 9.2). -/
def lastMismatch (c : Capture) (k n : Nat) (cell : Nat × Nat) : Nat :=
  c.array + c.part * 2 ^ 2 + k * 2 ^ 6 + c.ctx * 2 ^ 8 + c.opId * 2 ^ 16 + n * 2 ^ 40
    + (c.tile + cell.1 * 2 ^ 32 + cell.2 * 2 ^ 41) * 2 ^ 64

/-- XOR of the captured and the recomputed acc48 value of the first mismatch (code 06h). -/
def mismatchXor (c : Capture) (v : List (Nat × Nat × Acc)) (x : Nat × Nat) : Nat :=
  match v.find? (fun y => y.1 == x.1 && y.2.1 == x.2) with
  | none => 0
  | some y => (y.2.2.bits ^^^ (SMap.get c.drained (ckey x.1 x.2) Acc.zero).bits).toNat

/-- The events of a classified mismatch, with their tests (R173, R174, Table 18.2). -/
def mismatchEvents (s : State) (c : Capture) (k : Nat) (l : List (Nat × Nat)) (v : List (Nat × Nat × Acc)) : State :=
  let first := l.headD (c.rows.headD 0, c.cols.headD 0)
  let cell := cellOf c first
  let array := { Event.plain 0x06 1 c.array (mismatchXor c v first) with
    ctx := some c.ctx, opId := c.opId, srcs := [src 7 c.array], cell := some cell, capture := some c,
    tests := if k = 1 then [(.outputStage, c.array, c.array)] else regionTests c l }
  let engine := { Event.plain 0x08 1 (4 + c.firstEngine) c.firstEngine with
    ctx := some c.ctx, opId := c.opId, tests := [(.engine, 4 + c.firstEngine, 4 + c.firstEngine)],
    srcs := if k = 2 then [src 5 (8 * c.firstEngine), src 7 c.array] else [src 5 (8 * c.firstEngine)] }
  let s1 := if k = 2 then s else logEvent s array
  if 2 ≤ k then logEvent s1 engine else s1

/-- The back-offs of a culprit (Table 9.1), requested at the classification. -/
def mismatchBackOff (s : State) (c : Capture) (k : Nat) : State :=
  let s1 := if k = 2 then s else backOff s c.array
  if 2 ≤ k then backOff s1 (4 + c.firstEngine) else s1

/-- SIEVE_RECHECK (R173 to R175). -/
def execSieveRecheck (e : EngineId) (ups : List Upset) (s : State) : Out :=
  .next (match sieveTurn s e.val with
    | none => s
    | some c =>
      match c.failed with
      | none => s
      | some (v1, sent1) =>
        let s1 := countSteps s e.val .sieve (exactSteps c)
        let v2 := recompute c ups
        let sent2 := sentOf s c v2 ups
        let k := culprit c v1 v2 sent1 sent2
        let l := mismatches c v1 v2 sent1 sent2
        let first := l.headD (c.rows.headD 0, c.cols.headD 0)
        let s2 := mismatchBackOff s1 c k
        let s3 := setReg (bump s2 0x6126 (c.array + 1)) 0x6128 1 (lastMismatch c k (max 1 l.length) (cellOf c first))
        afterExact (mismatchEvents s3 c k l v2) c)

/-! The fidelity check (R176, R178). -/

/-- The wide result of one element. -/
def wideDot (cin : Acc) (a b : List FVal) : Acc :=
  (a.zip b).foldl (fun acc p => accFma (widen p.1) (widen p.2) acc) cin

/-- The error of R176: none is non-finite. -/
def fidelityError (c : Capture) : Option Acc :=
  let as_ := c.rows.zip (c.aWide.getD c.aStrip)
  let bs := c.cols.zip (c.bWide.getD c.bStrip)
  let wd := as_.flatMap (fun r => bs.map (fun k =>
    let w := wideDot (SMap.get c.cIn (ckey r.1 k.1) Acc.zero) r.2 k.2
    (w, accSub (SMap.get c.drained (ckey r.1 k.1) Acc.zero) w)))
  let num := (foldSquares (wd.map (fun x => some x.2))).getD Acc.zero
  let den := (foldSquares (wd.map (fun x => some x.1))).getD Acc.zero
  let bad := fun (x : Acc) => x.isNan || x.ovf
  if wd.any (fun x => bad x.1 || bad x.2) || bad num || bad den then none
  else if den.val.isZero then (if num.val.isZero then some Acc.zero else none)
  else
    let q := accMul num (accRcp den)
    if accLt Acc.zero q then some (accMul q (accRsqrt q)) else some Acc.zero

/-- The histogram bin of a result (R178). -/
def fidelityBin (e : Option Acc) : Nat :=
  match e with
  | none => 31
  | some a => match a.val with
    | .fin _ m x =>
      if m = 0 || binade m x < -30 then 0 else if 0 ≤ binade m x then 31 else (binade m x + 31).toNat
    | _ => 31

/-- One result in its context's window of 64 checks; FIDELITY_LOW when the count reaches COUNT_LIMIT (R178). -/
def fidelityWindow (s : State) (c bin : Nat) : State :=
  let w := SMap.get s.fidWin c (0, 0, false)
  let counted := decide (reg s (0x6140 + c) 0x21 ≤ bin) && !w.2.2
  let n := if counted then w.2.1 + 1 else w.2.1
  let low := counted && decide (reg s (0x6140 + c) 0x22 ≤ n)
  let w' := if w.1 + 1 = 64 then (0, 0, false) else (w.1 + 1, n, w.2.2 || low)
  let s1 := { s with fidWin := SMap.set s.fidWin c w' (0, 0, false) }
  if low then
    let s2 := raise (bumpSat32 s1 (0x6140 + c) 0x24 1) (src 7 4)
    notify s2 1 (0x6140 + c) 0x24 (leBytes 4 (reg s2 (0x6140 + c) 0x24))
  else s1

/-- FIDELITY_CHECK (R176, R178). -/
def execFidelityCheck (e : EngineId) (s : State) : Out :=
  .next (match sieveTurn s e.val with
    | none => s
    | some c =>
      if !c.exactDone || !c.fidelity || c.failed.isSome then s
      else
        let bin := fidelityBin (fidelityError c)
        let s1 := bumpSat32 (countSteps s e.val .sieve (fidelitySteps c)) (0x6140 + c.ctx) (bin + 1) 1
        dropCap (fidelityWindow s1 c.ctx bin) c)

/-! SIEVE_ENABLE (R180, R360). -/

/-- CONFLICT while another claimant holds the tap of a die whose bit is set. -/
def preSieveEnable (v : Nat) (s : State) : Nat :=
  if (List.range 2).any (fun d => v.testBit d && decide (1 < reg s 0x2030 (0x29 + d))) then dConflict else 0

/-- Setting a bit claims the die's tap; clearing it ends the offers there. -/
def effSieveEnable (v : Nat) (s : State) : State :=
  let s1 := setReg s 0x6120 1 v
  releaseTaps ((List.range 2).foldl (fun t d => if v.testBit d then setReg t 0x2030 (0x29 + d) 1 else t) s1)

/-- SIEVE_ENABLE. -/
def execSieveEnable (p : Path) (v : BitVec 32) (s : State) : Out :=
  guarded s p 0x6120 1 4 v.toNat (preSieveEnable v.toNat) (effSieveEnable v.toNat)

/-- The pending checks of a context are discarded and counted (R180). -/
def discardChecks (s : State) (c : Nat) : State :=
  let gone := s.caps.filter (fun x => x.ctx == c)
  let s1 := gone.foldl (fun t x => dropSample t x.array) { s with caps := s.caps.filter (fun x => x.ctx != c) }
  releaseTaps { s1 with ops := s1.ops.map (fun o => if o.ctx = c then { o with capsOut := 0 } else o) }

end Sys2Proof.Machine
end

