-- ==== Sys2Proof/Machine/UpdateOps.lean ====
section
/-! DEFINITION. The commands of the optimizer update (R154, R161 to R165). -/

namespace Sys2Proof.Machine

/-- Steps of the arrival pass of n elements under CLIP_EXACT (R168). -/
def arrivalSteps (n : Nat) : Nat := max 1 (ceilDiv (16 * n) 32768)

/-- The arrival pass of one tensor's part of a chunk, on the engine that updates it (R154, R168). -/
def arrivalPass (s : State) (b : Bucket) (u : UpdRun) (lo n k : Nat) : State :=
  let e := entryNow s b.ctx u k
  let p := tensorPart e lo n
  if clipExact u then countSteps s (regionOf (uW e + 2 * p.1)) .update (arrivalSteps p.2) else s

/-- The work area holds gradient and chunk partials from now on (R159, R162): its bytes have no stated layout (log 39). -/
def openWork (s : State) (key : Nat) : State :=
  match (updOf s key).header with
  | none => s
  | some h =>
    if inLoamWin (ctxRec s (key / 2 ^ 72)) (hWork h.toNat) (hWorkBytes h.toNat) && !(updOf s key).halted then
      leaveOpen s (hWork h.toNat) (hWorkBytes h.toNat)
    else s

/-- A header that was good when it was read fails the step when a bucket posted since makes the work area too small. -/
def checkWork (s : State) (key : Nat) : State :=
  let u := updOf s key
  match u.header with
  | none => s
  | some h =>
    if !u.known && !u.halted && workBad s h.toNat key then setUpd s key { haltUpd u stFormat with skipped := true } else s

/-- A folded chunk of an RSUG bucket is ready for the update (R152, R154): the table is read, and the shard's norm leaves
with the last chunk. -/
def onReduced (s : State) (b : Bucket) (lo n : Nat) : State :=
  let key := stepKey b
  let s1 := checkWork (readHeader s key) key
  let rg := myRange (commRec s b.comm) (kElems b.desc.toNat)
  let es := entriesFor s1 b.ctx (updOf s1 key) b.number lo n
  let s2 := es.foldl (fun t k => readEntry t b.ctx key rg k) s1
  openWork (es.foldl (fun t k => arrivalPass t b (updOf s2 key) lo n k) s2) key

/-- The bucket whose slice is named, ready to run on engine k. -/
def sliceBucket (s : State) (k c n first : Nat) : Option Bucket :=
  s.buckets.find? (fun b => dOpcode b.desc.toNat == 0x23 && b.ctx == c && sliceReady s b k n first)

/-- One update slice: weights, silt and moments are written together, and the totals of the step and the device rise. -/
def runSlice (s : State) (k : Nat) (b : Bucket) (n first : Nat) : State :=
  let key := stepKey b
  let u := updOf s key
  let e := entryNow s b.ctx u n
  let len := sliceLen (ownedPart s b e) first
  let s1 := countSteps s k .update (sliceSteps e len (kBytes b.desc.toNat))
  if slicePoison s1 e first len then
    settleShard (setUpd s1 key (failUpd { u with failed := n :: u.failed } stHwFault)) b.tag
  else
    let r := writeSlice s1 b e first len ((factorOf u).getD (accOfNat 1))
    let sats := r.2.2
    let s2 := setUpd r.1 key { u with
      doneSlices := (n, first) :: u.doneSlices
      siltSat := u.siltSat + sats
      nan := u.nan + countOf .nan r.2.1
      ovfl := u.ovfl + countOf .ovf r.2.1 }
    let s3 := bumpBy (bump s2 0x6400 1) 0x6400 2 sats
    settleShard (if sats = 0 then s3 else raise s3 (src 14 3)) b.tag

/-- UPDATE_SLICE (R154 to R158, R168). -/
def execUpdateSlice (e : EngineId) (c : CtxId) (entry first : Nat) (s : State) : Out :=
  .next (match sliceBucket s e.val c.val entry first with
    | none => s
    | some b =>
      if mayRun s e.val .update && (engineOf s e.val).run.isNone && updatesRun s c.val then runSlice s e.val b entry first
      else s)

/-- Keys of the update steps of a context, oldest first. -/
def stepsOf (s : State) (c : Nat) : List Nat := (s.upd.filter (fun e => e.1 / 2 ^ 72 == c)).map Prod.fst

/-- Every bucket norm of the step has come, and Q has not been formed. -/
def qReady (s : State) (key : Nat) : Bool :=
  let u := updOf s key
  match headerNow s key with
  | none => false
  | some h => !u.known && (List.range (hBuckets h)).all (fun k => SMap.has u.norms k)

/-- Q and the clip factor (R161, R162). -/
def withQ (u : UpdRun) (h : Nat) : UpdRun :=
  let l := (List.range (hBuckets h)).map (fun k => SMap.get u.norms k Acc.zero)
  let q := (foldPart accAdd l).getD Acc.zero
  let bad := q.isNan || q.ovf || l.any (fun x => x.ovf)
  let c := f32 (hC h)
  let clip := hClip h == 1 && !bad && !accLe q (accMul c c)
  { u with
    known := true
    q := q
    nonfinite := bad
    skipped := u.skipped || (hClip h == 1 && bad)
    clipped := clip
    factor := if clip then accMul c (accRsqrt q) else accOfNat 1 }

/-- The buckets of a step, whose gathers may now leave. -/
def settleStep (s : State) (key : Nat) : State :=
  ((s.buckets.filter (fun b => stepKey b == key)).map Bucket.tag).foldl settleShard s

/-- GLOBAL_NORM_KNOWN (R161, R162). -/
def execGlobalNormKnown (c : CtxId) (s : State) : Out :=
  .next (match (stepsOf s c.val).find? (qReady s) with
    | none => s
    | some key =>
      if clockOn s then
        let u := updOf s key
        settleStep (setUpd s key (withQ u ((headerNow s key).getD 0))) key
      else s)

/-- The step has ended on this device: every bucket's owned shard is settled, and Q is known or the step is skipped or
failed (R164). A failed entry under CLIP_OFF does not fail the step. -/
def recordDue (s : State) (key : Nat) : Bool :=
  let u := updOf s key
  match headerNow s key with
  | none => false
  | some h => (u.known || u.skipped || u.halted) && (List.range (hBuckets h)).all (fun k => u.buckets.testBit k)

/-- NORM of a record (R161). -/
def normOf (u : UpdRun) : Nat :=
  if u.known && accLt Acc.zero u.q then toF32 (accMul u.q (accRsqrt u.q))
  else if u.known && u.q.isNan then toF32 (Acc.nan false) else 0

/-- The norm record (Table 8.5). -/
def normRecord (u : UpdRun) (status : Nat) : Nat :=
  let sat := fun (n : Nat) => min n (2 ^ 32 - 1)
  u.firstStep.getD 0
    + (normOf u + (if u.known then toF32 u.factor else 0x3F800000) * 2 ^ 32) * 2 ^ 64
    + (sat u.siltSat + sat u.nan * 2 ^ 32) * 2 ^ 128
    + (sat u.ovfl + status * 2 ^ 32 + b2n u.clipped * 2 ^ 40 + b2n u.nonfinite * 2 ^ 41 + b2n u.skipped * 2 ^ 42 + 2 ^ 63) * 2 ^ 192

/-- Write the record of a step and forget the step. -/
def writeNorm (s : State) (key : Nat) (status : Nat) : State :=
  let u0 := updOf s key
  let c := key / 2 ^ 72
  match headerNow s key with
  | none => { s with upd := SMap.drop s.upd key }
  | some h =>
    let a := hNorm h
    -- a step that failed before its header was read updated nothing under CLIP_EXACT (R165)
    let u := { u0 with skipped := u0.skipped || (status != 0 && !u0.headerRead && hClip h == 1) }
    let s1 := if inLoamWin (ctxRec s c) a 32 then memWriteVal s a 32 (normRecord u status) else s
    let s2 := raise (setReg s1 0x6400 5 (normOf u)) (src 14 0)
    let s3 := if u.skipped then raise (bump s2 0x6400 3) (src 14 1) else s2
    let s4 := if u.clipped then raise (bump s3 0x6400 4) (src 14 2) else s3
    { s4 with upd := SMap.drop s4.upd key }

/-- A step that has failed, or that no table names, ends with the last of its buckets. -/
def stepLost (s : State) (key : Nat) : Bool :=
  ((updOf s key).halted || (headerNow s key).isNone) && !s.buckets.any (fun b => stepKey b == key)

/-- NORM_RECORD (R164, R165). -/
def execNormRecord (c : CtxId) (s : State) : Out :=
  .next (match (stepsOf s c.val).find? (fun k => recordDue s k || stepLost s k) with
    | none => s
    | some key => if clockOn s then writeNorm s key (updOf s key).status else s)

end Sys2Proof.Machine
end

