-- ==== Sys2Proof/Machine/Collect.lean ====
section
/-! DEFINITION. Collective descriptors (R284 to R287), the streams of a bucket (R291 to R297) and what ends one. -/

namespace Sys2Proof.Machine

/-! Checks (R284). -/

def collFieldsBad (s : State) (d : Nat) : Bool :=
  !(decide (0x20 ≤ dOpcode d) && decide (dOpcode d ≤ 0x23)) || dVersion d != 1 || qf d 1 23 23 != 0 || qf d 1 31 30 != 0
    || qf d 1 63 44 != 0 || qf d 2 63 40 != 0 || qf d 4 63 44 != 0 || qf d 5 63 44 != 0 || qf d 7 63 44 != 0
    || qf d 8 63 43 != 0 || (List.range 5).any (fun i => qf d (9 + i) 63 0 != 0) || qf d 14 63 48 != 0 || qf d 15 63 0 != 0
    || decide (3 ≤ kFmtCode d) || kElems d == 0 || kPside d == 3 || !commActive s (kComm d)

/-- Bytes of staging that Table 14.3 asks of this rank; a leader that is an owner needs both amounts. -/
def stageNeed (r d : Nat) : Nat :=
  let z := (myRange r (kElems d)).2
  let contrib := fun (n : Nat) => if cMode r = 2 then ceilDiv (n * 17) 128 else n * kBytes d
  let partial_ := fun (n : Nat) => if cMode r = 1 then ceilDiv (n * 33) 32 else n * 8
  if cRanks r = 1 || dOpcode d = 0x21 || cBackup r then 0
  else if cTransport r = 0 then
    (if cMode r = 0 then (cRanks r + 1) * z * kBytes d else contrib (cRanks r * z))
  else if cTransport r = 1 then partial_ (cGroups r * z) + z * 4
  else (if leaderOf r (groupOfRank r (cMyRank r)) = cMyRank r then contrib (cGroup r * z) else 0) + partial_ (cGroups r * z)

def collFormatBad (r d : Nat) : Bool :=
  (!kLoam d && dOpcode d != 0x21 && (kM d * kN d != kElems d || (cMode r == 2 && (kN d % 256 != 0 || kPside d == 2))))
    || decide (kStageMib d * 2 ^ 20 < stageNeed r d)

/-- Addresses wholly inside the owner's windows. -/
def collAddressBad (s : State) (ctx d : Nat) : Bool :=
  let r := commRec s (kComm d)
  let w := ctxRec s ctx
  let z := (myRange r (kElems d)).2 * kBytes d
  let n := kElems d * kBytes d
  let loam := fun (a len : Nat) => len == 0 || inLoamWin w a len
  let whole := dOpcode d == 0x21 || dOpcode d == 0x22
  ctx != cOwner r
    || (dOpcode d == 0x21 && !loam (kSrc d) z) || (dOpcode d != 0x21 && kLoam d && !loam (kSrc d) n)
    || !loam (kResult d) (if whole && !cBackup r then n else z)
    || (kStageMib d != 0 && (kStage d % 5120 != 0 || !inHbmWin w (kStage d) (kStageMib d * 2 ^ 20)))
    || (cMode r == 2 && cRanks r != 1 && dOpcode d != 0x21 && !loam (kErrfb d) (2 * kElems d))

/-- A bucket number that the collective already holds. -/
def bucketTaken (s : State) (d : Nat) : Bool :=
  let c := kComm d
  (runOf s c (postSeq (s.colls.length + 1) s c (collSeq s c))).posted.testBit (kBucket d)

/-- The first failing status in the order of Table 5.3; an opcode of another kind is a DESCRIPTOR_ERROR (R313). -/
def collCheck (s : State) (ctx d : Nat) : Nat :=
  if collFieldsBad s d || bucketTaken s d then stDescriptor
  else if collFormatBad (commRec s (kComm d)) d then stFormat
  else if collAddressBad s ctx d then stAddress
  else stOk

/-! Streams. -/

/-- The stream number of rank k's gathered shard. -/
abbrev gatherRank (k : Nat) : Nat := 2 ^ 20 + k

def mkStream (b : Bucket) (cap : Option Nat) (rank : Nat) (grp : Bool) (need : Nat) : Stream :=
  let d := b.desc.toNat
  { rank := rank, isGroup := grp,
    deadline := if kBase d = 0 then none
      else some (b.taken + kBase d + need * kBytes d * kAllow d / 1024 + cap.getD 0 * 1000),
    handled := false, missed := false, substituted := false, fromShadow := false, need := need, vals := [], shadow := [],
    crcMain := none, crcShadow := none, compared := false }

/-- The incoming streams of a bucket, by transport (R289, R291, R305). -/
def streamsOf (r : Nat) (b : Bucket) (cap : Option Nat) : List Stream :=
  let d := b.desc.toNat
  let n := kElems d
  let me := cMyRank r
  let z := (myRange r n).2
  let g := groupOfRank r me
  let mk := mkStream b cap
  if cRanks r = 1 || cBackup r then []
  else
    let reduce :=
      if dOpcode d = 0x21 then []
      else if cTransport r = 0 then (if z = 0 then [] else (otherRanks r).map (fun k => mk k false z))
      else if cTransport r = 1 then
        (if leaderOf r g = me then [] else [mk (me - 1) false n])
          ++ (if z = 0 then [] else ((List.range (cGroups r)).filter (fun x => (membersOf r x).getLast? != some me)).map
                (fun x => mk x true z))
      else
        (if leaderOf r g = me then ((membersOf r g).filter (· != me)).map (fun k => mk k false n) else [])
          ++ (if z = 0 then [] else ((List.range (cGroups r)).filter (fun x => leaderOf r x != me)).map (fun x => mk x true z))
    let gathers := if dOpcode d = 0x20 then []
      else ((owners r n).filter (· != me)).map (fun k => mk (gatherRank k) false (ownedRange r n k).2)
    reduce ++ gathers

/-- Change the stream of a rank. -/
def editStream (b : Bucket) (rank : Nat) (grp : Bool) (f : Stream → Stream) : Bucket :=
  { b with streams := mapIf (fun x => x.rank == rank && x.isGroup == grp) f b.streams }

/-- What a bucket holds in its staging (R289, R296, R300) has no stated layout but the arrival adds of NONDET: its bytes are left
open as the bucket proceeds (log 80). -/
def openStage (s : State) (tag : Nat) : State :=
  withBucket s tag (fun s b =>
    let r := commRec s b.comm
    let d := b.desc.toNat
    if cNondet r || cRanks r = 1 || dOpcode d = 0x21 || b.finished then s
    else leaveOpen s (kStage d) (kStageMib d * 2 ^ 20))

/-- A proceeding bucket: send, fold, hand the norm on, gather. -/
def advanceBucket (s : State) (tag : Nat) : State := settleShard (sendNorm (pump (openStage s tag) tag) tag) tag

/-- The agreed scales of a bucket whose table is valid (R300). -/
def tableScales (s : State) (c num n h : Nat) : Option (SMap Byte) :=
  let t := SMap.get s.tables c []
  if (List.range (ceilDiv n 32)).all (fun k => SMap.has t (num * 2 ^ 34 + k)) then
    some ((List.range (ceilDiv n 32)).map (fun k => (k, BitVec.ofNat 8 (agreedOf (SMap.get t (num * 2 ^ 34 + k) 0).toNat h))))
  else none

/-- A bucket as posted. -/
def newBucket (s : State) (o : Op) (seq : Nat) (own : SMap Nat) (cap : Option Nat) : Bucket :=
  let d := o.desc.toNat
  let r := commRec s (kComm d)
  let reduces := dOpcode d != 0x21 && cRanks r != 1
  let tab := tableScales s (kComm d) (kBucket d) (kElems d) (headroomOf r)
  let b : Bucket :=
    { tag := o.tag, comm := kComm d, seq := seq, number := kBucket d, desc := o.desc, ctx := o.ctx, taken := o.taken,
      feeder := none, own := own, comp := [], sent := 0, sentParts := [], part := [], streams := [], result := [],
      foldDone := false, blockVals := [], scaleTab := if blockMode r && reduces then tab.getD [] else [], scaleIn := [],
      scaleFrom := [], scaleSent := [], needScales := blockMode r && reduces && tab.isNone, flags := [], bump := [],
      repairing := false, repairVals := [], norms := [], normSent := false, normOut := none, gathered := [],
      gatherSent := false, doneSent := false, doneFrom := [], stopTile := none, stopSent := false,
      needsArea := reduces && cTransport r == 0 && cMode r == 0 && !cNondet r && (myRange r (kElems d)).2 != 0,
      areaNum := none, updated := false, status := 0, finished := false }
  { b with streams := streamsOf r b cap }

/-- The whole contribution is present: COMPRESS compresses it before anything is sent (R298). -/
def ownComplete (s : State) (b : Bucket) : State :=
  let r := commRec s b.comm
  if cMode r = 2 && cRanks r != 1 && dOpcode b.desc.toNat != 0x21 && !cBackup r && b.comp.isEmpty
      && covers b.own 0 (kElems b.desc.toNat) then
    let t := compress s b
    updBucket t.1 t.2
  else s

/-! Messages of streams. -/

/-- Elements from index i0 to the end of the owned range it lies in. -/
def leftIn (r n i0 : Nat) : Nat :=
  let rg := ownedRange r n (ownerOf r n i0)
  rg.1 + rg.2 - i0

/-- SUBSTITUTE to the backup of a rank (R296). -/
def askBackup (s : State) (b : Bucket) (rank v : Nat) : State :=
  let r := commRec s b.comm
  ctrlTo (updBucket s (editStream b rank false (fun x => { x with substituted := true }))) b 0x12 rank v
    (myRange r (kElems b.desc.toNat)).1 []

/-- End a bucket with INCOMPLETE and tell every rank (R295). -/
def endIncomplete (s : State) (b : Bucket) : State := finishBucket (sendAbort s b stIncomplete) b stIncomplete

/-- The CRC of a part in this device's range, once its values are whole (R297). -/
def partCrc (r d : Nat) (m : SMap Nat) : Option Nat :=
  let rg := myRange r (kElems d)
  if rg.2 != 0 && covers m rg.1 rg.2 then some (crcOf d (valsIn m rg.1 rg.2)) else none

/-- Compare the two CRCs of a rank's part when both are known (R297). Compressed contributions give the owner no CRC of the
FMT values. -/
def compareCrcs (s : State) (c seq num rank : Nat) : State :=
  match bucketNamed s c seq num with
  | none => s
  | some b =>
    let r := commRec s c
    match findStream b rank false with
    | none => s
    | some x =>
      if x.compared || cMode r = 2 || decide (2 ^ 20 ≤ rank) then s
      else
        let m := partCrc r b.desc.toNat x.vals
        let v := match x.crcShadow with
          | some v => some v
          | none => partCrc r b.desc.toNat x.shadow
        match m, v with
        | some a, some z =>
          let s1 := updBucket s (editStream b rank false (fun x => { x with compared := true, crcMain := some a, crcShadow := some z }))
          if a = z then s1
          else
            let u := runOf s1 c seq
            let s2 := setRun s1 c seq { u with diverge := true }
            let s3 := if b.finished then
                updOp s2 b.tag (fun o => if o.kind == .coll && o.ended && !o.recorded then { o with diverge := true } else o)
              else updOp s2 b.tag (fun o => { o with diverge := true })
            logEvent (bump s3 0x7080 5) { Event.plain 0x15 2 56 rank with
              ctx := some b.ctx, opId := dOpId b.desc.toNat, comm := some c, srcs := [src 13 2] }
        | _, _ => s

/-- Values of a stream arrive (R292, R296): the first whole contribution is used; one whole at or after its deadline, before
the expiry is handled, is late. -/
def feedStream (s : State) (b : Bucket) (rank : Nat) (grp shadow : Bool) (i0 : Nat) (vals : List Nat) : State :=
  match findStream b rank grp with
  | none => s
  | some x =>
    let was := x.done
    let y := if shadow then { x with shadow := putVals x.shadow i0 vals } else { x with vals := putVals x.vals i0 vals }
    let wins := !was && y.done && shadow
    let late := !was && y.done && !y.handled && (match y.deadline with
      | none => false
      | some t => decide (t ≤ now s))
    let s1 := updBucket s (editStream b rank grp (fun _ => { y with fromShadow := y.fromShadow || wins }))
    let s2 := if late then updOp (bump s1 0x7080 9) b.tag (fun o => { o with late := true }) else s1
    let s3 := if wins then
        let u := runOf s2 b.comm b.seq
        updOp (raise (bump (setRun s2 b.comm b.seq { u with subst := true }) 0x7080 4) (src 13 1)) b.tag
          (fun o => { o with subst := true })
      else s2
    if grp then s3 else compareCrcs s3 b.comm b.seq b.number rank

/-- A rank's stream is missing (R293, R295). -/
def missStream (s : State) (b : Bucket) (rank : Nat) (orElse : State → Bucket → State) : State :=
  match backupOf s b.comm rank with
  | none => orElse s b
  | some v =>
    if (match findStream b rank false with
        | none => false
        | some x => x.substituted) then s
    else askBackup s b rank v

/-! A contributing operation that stopped (R295). -/

/-- The operation that feeds a bucket has sent all it will send. -/
def feederOver (s : State) (b : Bucket) : Bool :=
  match b.feeder with
  | none => true
  | some t => !rowsLeft s t

/-- Tell every owner whose part will not come; this device's own range is treated as any owner treats it. -/
def announceStop (s : State) (b : Bucket) : State :=
  let r := commRec s b.comm
  let me := cMyRank r
  let b1 := { b with stopSent := true }
  let lost := (owners r (kElems b.desc.toNat)).filter (fun k => !b.sentParts.contains k)
  let lead := leaderOf r (groupOfRank r me)
  let dst := ((lost.filter (fun k => cBackup r || k != me)).map (deviceOf s b.comm)
    ++ (if cTransport r = 2 && lead != me then [deviceOf s b.comm lead] else [])).eraseDups
  let s1 := dst.foldl (fun t v => ctrlTo t b1 0x13 me v 0 (leBytes 4 (b.stopTile.getD 0))) (updBucket s b1)
  if lost.contains me && !cBackup r then
    let b2 := if (findStream b1 me false).isSome then b1
      else { b1 with streams := b1.streams ++ [mkStream b1 none me false (myRange r (kElems b.desc.toNat)).2] }
    missStream (updBucket s1 b2) b2 me endIncomplete
  else s1

/-- Announce what has stopped. -/
def announceStops (s : State) : State :=
  (s.buckets.filter (fun b => b.stopTile.isSome && !b.stopSent && !b.finished && feederOver s b)).foldl announceStop s

/-! Notices of capped devices (R294). -/

/-- The deadline of one stream, later by the allowance of a cap notice in microseconds. -/
def extendStream (us : Nat) (x : Stream) : Stream :=
  if x.handled then x else { x with deadline := later (us * 1000) x.deadline }

/-- The deadlines of a bucket's streams, later by the allowance of a cap notice. -/
def extendStreams (us : Nat) (b : Bucket) : Bucket := { b with streams := b.streams.map (extendStream us) }

/-- The first cap notice of a collective extends its deadlines once. -/
def capNotice (s : State) (c seq us : Nat) : State :=
  let u := runOf s c seq
  if us = 0 || u.capUs.isSome then s
  else
    let mine := fun (b : Bucket) => b.comm == c && b.seq == seq
    let s1 := setRun s c seq { u with capUs := some us }
    let s2 := { s1 with buckets := mapIf mine (extendStreams us) s1.buckets }
    let s3 := (s2.buckets.filter (fun b => mine b && !b.finished)).foldl
      (fun t b => updOp t b.tag (fun o => { o with capExt := true })) s2
    raise (bump s3 0x7080 7) (src 13 4)

/-! What a message does to its bucket. -/

/-- Values put into the stream of rank 2^20 + k and into memory (R305): FMT elements at RESULT_ADDR, weights at the W_ADDR of
the entries that map them. -/
def takeGather (s : State) (b : Bucket) (k i0 : Nat) (vals : List Nat) : State :=
  let d := b.desc.toNat
  let s1 :=
    if dOpcode d = 0x23 then
      let u := updOf s (stepKey b)
      let v := { u with header := (headerNow s (stepKey b)).map (BitVec.ofNat 512) }
      ((List.range vals.length).zip vals).foldl (fun t e =>
        match entryAt s b.ctx v b.number (i0 + e.1) with
        | none => t
        | some n =>
          let x := entryNow s b.ctx v n
          let a := uW x + 2 * (i0 + e.1 - uOffset x)
          if inLoamWin (ctxRec s b.ctx) a 2 then memWriteVal t a 2 e.2 else t) s
    else memWrite s (kResult d + kBytes d * i0) (fmtBytes d vals)
  let b1 := { b with gathered := putVals b.gathered i0 vals }
  feedStream (updBucket s1 b1) b1 (gatherRank k) false false i0 vals

/-- Block flags that travel with a partial (R301). -/
def takeFlags (b : Bucket) (i0 : Nat) (l : List Byte) : Bucket :=
  ((List.range l.length).zip l).foldl (fun t e =>
    if 128 ≤ e.2.toNat then flagBlock t (i0 / 32 + e.1) (some (e.2.toNat % 16)) else t) b

/-- Is a partial the predecessor's of a chain, rather than a group's. -/
def fromPrevious (s : State) (b : Bucket) (m : Msg) : Bool :=
  let r := commRec s b.comm
  let me := cMyRank r
  cTransport r == 1 && leaderOf r (groupOfRank r me) != me && m.source == deviceOf s b.comm (me - 1)

/-- Scale bytes (R300): a rank's to the owner, or the owner's agreed ones. -/
def takeScales (s : State) (b : Bucket) (m : Msg) : State :=
  let r := commRec s b.comm
  let n := kElems b.desc.toNat
  let rg := myRange r n
  let i0 := gIndex m
  let l := (bodyBytes m).take (ceilDiv (leftIn r n i0) 32)
  if rg.2 != 0 && decide (rg.1 ≤ i0) && decide (i0 < rg.1 + rg.2) then
    let mark := scaleMark (gRank m) ((i0 - rg.1) / (32 * 4096))
    if b.scaleFrom.contains mark then s
    else updBucket s { maxScales b i0 l with scaleFrom := mark :: b.scaleFrom }
  else
    updBucket s { b with scaleTab := ((List.range l.length).zip l).foldl (fun t e => SMap.put t (i0 / 32 + e.1) e.2) b.scaleTab }

/-- DONE of an owner (R296, R302): in BLOCK mode its bytes go into the table, FFh leaving the table not valid. -/
def takeDone (s : State) (b : Bucket) (m : Msg) : State :=
  let r := commRec s b.comm
  let n := kElems b.desc.toNat
  let k := gRank m
  let i0 := gIndex m
  let rg := ownedRange r n k
  let count := if blockMode r then scaleMsgs rg.2 else 1
  let mark := 2 ^ 20 * (1 + (i0 - rg.1) / (32 * 4096)) + k
  let marks := if b.doneFrom.contains mark then b.doneFrom else mark :: b.doneFrom
  let whole := (List.range count).all (fun i => marks.contains (2 ^ 20 * (1 + i) + k))
  let s1 := updBucket s { b with doneFrom := if whole && !marks.contains k then k :: marks else marks }
  if blockMode r && !cBackup r then
    let l := (bodyBytes m).take (ceilDiv (leftIn r n i0) 32)
    let tab := ((List.range l.length).zip l).foldl (fun t e =>
      let key := b.number * 2 ^ 34 + i0 / 32 + e.1
      if e.2 = 255 then SMap.drop t key else SMap.put t key e.2) (SMap.get s1.tables b.comm [])
    { s1 with tables := SMap.set s1.tables b.comm tab [] }
  else s1

/-- A squared norm (R303): a member's to its leader, a group's to rank 0, or rank 0's result. -/
def takeNorm (s : State) (b : Bucket) (m : Msg) : State :=
  let r := commRec s b.comm
  let me := cMyRank r
  let v := entryAcc (leVal ((bodyBytes m).take 8))
  let mate := (membersOf r (groupOfRank r me)).any (fun k => k != me && k == gRank m && deviceOf s b.comm k == m.source)
  if leaderOf r (groupOfRank r me) = me && mate then
    let b1 := { b with norms := SMap.put b.norms (gRank m) v }
    foldNorms (updBucket s b1) b1
  else if me = 0 then
    let b1 := { b with norms := SMap.put b.norms (gkey (gRank m)) v }
    foldNorms (updBucket s b1) b1
  else setNorm s b v

/-- REPAIR_REQ (R302): the named blocks of the send buffer go to the owner. Padding entries have K = 0. -/
def takeRepair (s : State) (b : Bucket) (m : Msg) : State :=
  let r := commRec s b.comm
  let d := b.desc.toNat
  let es := (fieldsOf 6 (bodyBytes m)).filter (fun e => e / 2 ^ 40 != 0)
  let blocks := es.map (fun e => e % 2 ^ 40)
  let data := fun (k : Nat) => fmtBytes d (valsIn b.own (32 * k) (min 32 (kElems d - 32 * k)))
  blocks.foldl (fun t k => sendColl t 6 6 b.comm (cMyRank r) b.number false b.seq m.source (32 * k) (perLine d) (data k))
    (updBucket s { b with sent := b.sent + (blocks.flatMap data).length })

/-- SUBSTITUTE at a backup (R296): the part for the requester's range, or the whole contribution for a leader. It is held
until the contribution is present. -/
def takeSubstitute (s : State) (v : Via) (b : Bucket) (m : Msg) : State :=
  let r := commRec s b.comm
  let d := b.desc.toNat
  let all := (List.range (cRanks r)).filter (fun k => deviceOf s b.comm k == m.source)
  let ks := if cTransport r = 2 then owners r (kElems d) else all
  let rgs := ks.map (ownedRange r (kElems d))
  if !cBackup r then s
  else if rgs.all (fun g => covers b.own g.1 g.2) then
    let t := if cMode r = 2 && b.comp.isEmpty && covers b.own 0 (kElems d) then compress s b else (s, b)
    if cMode r = 2 && !covers t.2.comp 0 (kElems d) then { s with fab := { s.fab with subs := s.fab.subs ++ [(v, m)] } }
    else
      let us := rgs.flatMap (fun g => contribUnits r t.2 g.1 g.2)
      sendUnits (updBucket t.1 { t.2 with sent := t.2.sent + unitsLen us }) t.2 (contribKind r) (cMyRank r) true m.source us
  else { s with fab := { s.fab with subs := s.fab.subs ++ [(v, m)] } }

/-- Contributions, whole or late (R289, R290, R297). -/
def takeContrib (s : State) (b : Bucket) (m : Msg) (vals : List Nat) : State :=
  let r := commRec s b.comm
  let late := match findStream b (gRank m) false with
    | none => true
    | some x => x.done
  let s1 := if cNondet r && !late && !b.finished then addPart s b (gIndex m) m.body vals.length else s
  feedStream s1 b (gRank m) false (gShadow m) (gIndex m) vals

/-- One collective message at its bucket (Table 14.5). A finished bucket still compares CRCs. -/
def deliver (s : State) (v : Via) (b : Bucket) (m : Msg) : State :=
  let r := commRec s b.comm
  let d := b.desc.toNat
  let k := gKind m
  let n := leftIn r (kElems d) (gIndex m)
  let l := bodyBytes m
  if k = 1 then takeContrib s b m ((fieldsOf (kBytes d) l).take n)
  else if k = 4 then takeContrib s b m (unitElems l (gIndex m) n)
  else if k = 0x11 then
    compareCrcs (updBucket s (editStream b (gRank m) false (fun x => { x with crcShadow := some (leVal (l.take 8)) })))
      b.comm b.seq b.number (gRank m)
  else if b.finished then s
  else if k = 2 then feedStream s b (gRank m) (!fromPrevious s b m) false (gIndex m) ((fieldsOf 8 l).take n)
  else if k = 3 then
    let b1 := takeFlags b (gIndex m) (l.drop 2048)
    feedStream (updBucket s b1) b1 (gRank m) (!fromPrevious s b m) false (gIndex m)
      ((l.take 2048).map BitVec.toNat |>.take n)
  else if k = 5 then takeGather s b (gRank m) (gIndex m) ((fieldsOf (if dOpcode d = 0x23 then 2 else kBytes d) l).take n)
  else if k = 6 then
    let vals := (fieldsOf (kBytes d) l).take n
    let now_ := putVals (SMap.get b.repairVals (gRank m) []) (gIndex m) vals
    updBucket s { b with repairVals := SMap.put b.repairVals (gRank m) now_ }
  else if k = 0x10 then takeScales s b m
  else if k = 0x12 then takeSubstitute s v b m
  else if k = 0x13 then
    (match findStream b (gRank m) false with
      | none => if (backupOf s b.comm (gRank m)).isSome then s else endIncomplete s b
      | some x => if x.done then s else missStream s b (gRank m) endIncomplete)
  else if k = 0x14 then takeDone s b m
  else if k = 0x15 then finishBucket s b stIncomplete
  else if k = 0x16 then takeNorm s b m
  else if k = 0x17 then takeRepair s b m
  else s

/-! Barriers (R304). -/

/-- An arrival at rank 0; the last one of an epoch releases every rank. -/
def barrierArrival (s : State) (c : Nat) (m : Msg) : State :=
  let l := bodyBytes m
  let obj := leVal (l.take 4) % 4096
  let epoch := leVal ((l.drop 4).take 4)
  let key := c * 2 ^ 48 + obj * 2 ^ 32 + epoch
  let r := commRec s c
  let seen := SMap.get s.barriers key []
  let now_ := if seen.contains m.source then seen else m.source :: seen
  if cBackup r || cMyRank r != 0 then s
  else if now_.length = cRanks r then
    (List.range (cRanks r)).foldl (fun t k =>
      sendColl t 7 0x19 c 0 0 false (collSeq t c) (deviceOf t c k) 0 1 (leBytes 4 obj ++ leBytes 4 epoch))
      { s with barriers := SMap.drop s.barriers key }
  else { s with barriers := SMap.put s.barriers key now_ }

/-- A release: the object's epoch advances, its waits are evaluated, and the arrays ramp (R304, R374, R375). -/
def barrierReleased (s : State) (c : Nat) (m : Msg) : State :=
  let l := bodyBytes m
  let obj := leVal (l.take 4) % 4096
  let o := objOf s obj
  match (List.range 64).find? (fun x => syncLive s x && inSyncRange s x obj) with
  | none => s
  | some x =>
    if o.type = 4 && o.comm = c && o.epoch = leVal ((l.drop 4).take 4) && !cBackup (commRec s c) then
      rampTrigger (releaseBarrier s x obj) (skewNow s)
    else s

/-! Admission (R283). -/

def discardColl (s : State) : State := raise (bump s 0x7080 8) (src 13 6)

def kindListed (op k : Nat) : Bool :=
  (op == 6 && decide (1 ≤ k) && decide (k ≤ 6)) || (op == 7 && decide (0x10 ≤ k) && decide (k ≤ 0x19))

/-- Is the sender a rank's device or a valid backup. -/
def knownSource (s : State) (c dev : Nat) : Bool :=
  (ranksOf s c).any (fun x => x.device == dev || x.backup == some dev)

/-- The full sequence number of a message. -/
def fullSeq (s : State) (m : Msg) : Option Nat :=
  let q := collSeq s (gComm m)
  if gSeq m = q % 2 ^ 32 then some q else if gSeq m = (q + 1) % 2 ^ 32 then some (q + 1) else none

/-- The buckets that any delivery lets proceed. -/
def afterDelivery (s : State) (b : Bucket) : State := advanceBucket s b.tag

/-- A collective message: accepted, held for a bucket not yet posted, or discarded. -/
def collIn (s : State) (v : Via) (m : Msg) : State :=
  let c := gComm m
  if !clockOn s then s
  else if !commActive s c || !knownSource s c m.source || !kindListed m.opcode (gKind m) then discardColl s
  else match fullSeq s m with
    | none => discardColl s
    | some seq =>
      let s1 := capNotice s c seq (gCap m)
      if gKind m = 0x18 then barrierArrival s1 c m
      else if gKind m = 0x19 then barrierReleased s1 c m
      else match bucketNamed s1 c seq (gBucket m) with
        | none =>
          if (runOf s1 c seq).posted.testBit (gBucket m) then s1
          else { s1 with fab := { s1.fab with held := s1.fab.held ++ [(v, m)] } }
        | some b => afterDelivery (deliver s1 v b m) b

/-- SUBSTITUTE messages of a bucket, delivered again once its contribution has become whole (R296). -/
def replaySubs (s : State) (b : Bucket) : State :=
  let mine := fun (x : Via × Msg) => gComm x.2 == b.comm && fullSeq s x.2 == some b.seq && gBucket x.2 == b.number
  (s.fab.subs.filter mine).foldl (fun t x => collIn t x.1 x.2)
    { s with fab := { s.fab with subs := s.fab.subs.filter (fun x => !mine x) } }

/-- A contribution that stopped before its bucket was posted (R106): the tile at which, taken by the bucket now posted. -/
def stopOf (s : State) (d : Nat) : Option Nat :=
  if kLoam d || dOpcode d == 0x21 then none
  else (s.fab.stops.find? (fun x => x.1 == kComm d && x.2.1 == kBucket d)).map (fun x => x.2.2)

/-- A collective descriptor taken (R284 to R287, R291). -/
def startColl (s : State) (o : Op) : State :=
  let d := o.desc.toNat
  let st := collCheck s o.ctx d
  if st ≠ 0 then refuse s o st
  else
    let c := kComm d
    let r := commRec s c
    let seq := postSeq (s.colls.length + 1) s c (collSeq s c)
    let u := runOf s c seq
    let loam := kLoam d && dOpcode d != 0x21
    let own := if loam then (List.range (kElems d)).map (fun i => (i, memVal s (kSrc d + kBytes d * i) (kBytes d))) else []
    let b := { newBucket s o seq own u.capUs with stopTile := stopOf s d }
    let s0 := if (stopOf s d).isNone then s
      else { s with fab := { s.fab with stops := s.fab.stops.filter (fun x => !(x.1 == c && x.2.1 == kBucket d)) } }
    let s1 := addOp s0 { o with capExt := u.capUs.isSome }
    let s2 := setRun { s1 with buckets := s1.buckets ++ [b], rel := { s1.rel with
        lastComm := if u.posted = 0 then some c else s1.rel.lastComm } } c seq
      { u with posted := setBit u.posted (kBucket d) true, lastSeen := if kLast d then some (kBucket d) else u.lastSeen }
    let z := (myRange r (kElems d)).2 * kBytes d
    if (loam && rangePoisoned s (kSrc d) (kElems d * kBytes d)) || (dOpcode d = 0x21 && z != 0 && rangePoisoned s (kSrc d) z) then
      finishBucket s2 b stHwFault
    else
      let s3 := replaySubs (ownComplete s2 b) b
      -- posting may also release the buckets behind it (R287)
      announceStops ((s3.buckets.filter (fun x => x.comm == c && x.seq == seq && !x.finished)).foldl
        (fun t x => advanceBucket t x.tag) s3)

/-- Dispatch a descriptor of a COLLECTIVE queue. -/
def dispatchColl (op : Nat → Bool) (q : QueueId) (tag : TagId) (s : State) : State :=
  dispatch s q.val tag.val (fun d => qKind (qCfg s q.val) == 3 && op (dOpcode d)) .coll startColl

/-! Slices (R285). -/

/-- The bucket that a row of a dW operation goes to: the one it feeds already, else one that waits for its first slice;
a finished bucket discards. -/
def sliceTarget (s : State) (o : Op) : Option Bucket :=
  let d := o.desc.toNat
  let mine := fun (b : Bucket) => b.comm == mComm d && b.number == mBucket d && dOpcode b.desc.toNat != 0x21
    && !kLoam b.desc.toNat
  match s.buckets.find? (fun b => mine b && b.feeder == some o.tag) with
  | some b => some b
  | none => s.buckets.find? (fun b => mine b && b.feeder.isNone)

/-- The dW operation has the shape that Q8 names (R285). -/
def feederFits (o : Op) (b : Bucket) : Bool :=
  let d := o.desc.toNat
  let k := b.desc.toNat
  mM d == kM k && mN d == kN k && mMode d == kPside k && mColMajor d == kOrder k && mDFmt d == kFmtCode k

/-- Values of pieces by bucket index. -/
def pieceVals (n : Nat) (m : SMap Nat) (ps : List Piece) : SMap Nat :=
  ps.foldl (fun t p => match p with
    | .elem _ r c v => SMap.put t (r * n + c) v
    | .block .. => t) m

/-- The collective engine takes one row of a slice. -/
def takeSlice (s : State) (a ii : Nat) (o : Op) (r : OutRow) (b : Bucket) : State :=
  let d := o.desc.toNat
  let s0 := takeStage s (pkey a ii)
  if b.finished then finishIfDone s0 o.tag
  else if !feederFits o b then finishIfDone (finishBucket s0 { b with feeder := some o.tag } stFormat) o.tag
  else
    let cols := tileCols d (sideOf (mMode d)) r.tile
    let w := if r.vals.isEmpty then ([], []) else rowPieces s o cols r.row r.vals
    let zs := if r.last then maskedPieces s o r.tile else []
    let s1 := noteCapture s0 r (w.1 ++ zs) (mDFormat d) w.2
    let b1 := { b with feeder := some o.tag, own := pieceVals (mN d) b.own (w.1 ++ zs) }
    let s2 := finishIfDone (updOp (updBucket s1 b1) o.tag (fun x => addCounts x w.2)) o.tag
    let s3 := replaySubs (ownComplete s2 b1) b1
    announceStops (advanceBucket s3 b.tag)

/-- The oldest row of a partition's output stage that belongs to a slice, taken by its bucket; one for a bucket not yet posted is
held there (R102, R285). -/
def sliceTake (s : State) (a ii : Nat) : State :=
  if coreRuns s then
    (match (partOf s (pkey a ii)).stage with
      | [] => s
      | r :: _ =>
        match findOp s r.tag with
        | none => s
        | some o =>
          if mDest o.desc.toNat != 2 then s
          else match sliceTarget s o with
            | none => s
            | some b => showIdle (takeSlice s a ii o r b) a)
  else s

/-! Deadlines and the end. -/

/-- A missed stream (R293). -/
def streamMissed (s : State) (b : Bucket) (x : Stream) : State :=
  let r := commRec s b.comm
  let s1 := updOp (bump s 0x7080 3) b.tag (fun o => { o with missed := true })
  let s2 := logEvent s1 { Event.plain 0x14 2 56 (x.rank % 2 ^ 20) with
    ctx := some b.ctx, opId := dOpId b.desc.toNat, comm := some b.comm, srcs := [src 13 0] }
  let orElse := fun (t : State) (b : Bucket) => if kAbort b.desc.toNat then finishBucket t b stAborted else t
  if !x.isGroup && decide (x.rank < 2 ^ 20) && cTransport r != 1 then missStream s2 b x.rank orElse else orElse s2 b

/-- STREAM_DEADLINE_EXPIRY (R291 to R293). -/
def execStreamDeadlineExpiry (tag : TagId) (stream : Nat) (s : State) : Out :=
  .next (match bucketOf s tag.val with
    | none => s
    | some b =>
      match b.streams[stream]? with
      | none => s
      | some x =>
        let due := match x.deadline with
          | none => false
          | some t => decide (t ≤ now s)
        if !clockOn s || stopped s || x.handled || !due then s
        else
          let b1 := editStream b x.rank x.isGroup (fun y => { y with handled := true, missed := !x.done })
          if x.done then updBucket s b1 else streamMissed (updBucket s b1) b1 x)

/-- COLL_WATCHDOG_EXPIRY (R292). -/
def execCollWatchdogExpiry (tag : TagId) (s : State) : Out :=
  .next (match bucketOf s tag.val with
    | none => s
    | some b =>
      if clockOn s && !stopped s && decide (b.taken + reg s 0x7080 1 ≤ now s) then finishBucket s b stTimeout else s)

/-- Is a chunk of the owned shard folded and not yet accepted (R289). -/
def chunkReady (r : Nat) (b : Bucket) (lo n : Nat) : Bool :=
  n != 0 && dOpcode b.desc.toNat != 0x21 && !covers b.result lo n && (!b.needsArea || b.areaNum.isSome)
    && (if blockMode r then b.foldDone else rangeReady r b lo n)

/-- The folded elements of a chunk in FMT with their counts; arrival adds have left theirs in staging (R290). -/
def chunkVals (s : State) (r : Nat) (b : Bucket) (rg : Nat × Nat) (lo n : Nat) : List (Nat × Count) :=
  let d := b.desc.toNat
  (List.range n).map (fun j =>
    if cNondet r && cRanks r != 1 then (memVal s (kStage d + kBytes d * (lo + j - rg.1)) (kBytes d), .none)
    else resultElem r b (lo + j))

/-- RESULT_CHUNK_ACCEPTED: 32,768 folded elements are in RESULT_ADDR, ready for the update (R289, R305). -/
def execResultChunkAccepted (tag : TagId) (chunk : Nat) (s : State) : Out :=
  .next (match bucketOf s tag.val with
    | none => s
    | some b =>
      let r := commRec s b.comm
      let d := b.desc.toNat
      let rg := myRange r (kElems d)
      let lo := rg.1 + 32768 * chunk
      let n := min 32768 (rg.1 + rg.2 - lo)
      if !clockOn s || stopped s || !chunkReady r b lo n then s
      else
        let vs := chunkVals s r b rg lo n
        let s1 := memWrite s (resultAddr d rg lo) (fmtBytes d (vs.map Prod.fst))
        let b1 := { b with result := putVals b.result lo (vs.map Prod.fst) }
        let s2 := updOp (updBucket s1 b1) b.tag (fun o => addCounts o (vs.map Prod.snd))
        let s3 := if dOpcode d = 0x23 then onReduced s2 b1 lo n else s2
        let s4 := match b1.areaNum with
          | some k => if shardDone r b1 then
              updBucket (releaseArea s3 k) { b1 with areaNum := none, needsArea := false } else s3
          | none => s3
        pumpAll (advanceBucket s4 b.tag))

/-- BUCKET_END (R287, R305, R307). -/
def execBucketEnd (tag : TagId) (s : State) : Out :=
  .next (match bucketOf s tag.val with
    | none => s
    | some b => if clockOn s && !stopped s && bucketDone s b then pumpAll (finishBucket s b stOk) else s)

/-! COMM_STATE (R281, R282). -/

/-- Entry k of the rank table in memory. -/
def rankWord (s : State) (r k : Nat) : Nat := memVal s (qf r 1 43 0 + 8 * k) 8

/-- Why an activation fails. -/
def activationBad (s : State) (r : Nat) : Bool :=
  let ws := (List.range (cRanks r)).map (rankWord s r)
  let valid := ws.any (fun w => w.testBit 32)
  cTransport r == 3 || cMode r == 3 || qf r 0 63 49 != 0 || qf r 1 63 50 != 0 || qf r 2 63 16 != 0 || r / 2 ^ 192 != 0
    || qf r 1 43 0 % 64 != 0 || ws.any (fun w => w / 2 ^ 33 != 0) || ctxState s (cOwner r) == 0 || decide (64 < cGroups r)
    || (cTransport r == 0 && decide (64 < cRanks r)) || (cTransport r == 2 && decide (64 < cGroup r))
    || (cMode r == 2 && cTransport r == 1) || (valid && cTransport r == 1)
    || (cNondet r && (cMode r != 0 || cTransport r != 0)) || decide (cRanks r ≤ qf r 0 31 16) || decide (cRanks r ≤ qf r 2 15 0)

/-- An unassigned address in the rank table that a record names: its read gives an address error (R6). -/
def tableHole (r : Nat) : Option Nat := [qf r 1 43 0, qf r 1 43 0 + 8 * cRanks r - 1].find? unassigned

def bucketInFlight (s : State) (c : Nat) : Bool := s.buckets.any (fun b => b.comm == c && !b.finished)

def preCommState (c v : Nat) (s : State) : Nat :=
  if v = 1 && !commActive s c && (activationBad s (commRec s c) || (tableHole (commRec s c)).isSome) then dRange
  else if v = 0 && bucketInFlight s c then dQuiesce else 0

/-- Take a communicator out of use. -/
def dropComm (s : State) (c : Nat) : State :=
  { s with
    ranks := SMap.drop s.ranks c
    tables := SMap.drop s.tables c
    buckets := s.buckets.filter (fun b => b.comm != c)
    colls := SMap.dropRange s.colls (runKey c 0) (runKey (c + 1) 0)
    barriers := SMap.dropRange s.barriers (c * 2 ^ 48) ((c + 1) * 2 ^ 48)
    fab := { s.fab with subs := s.fab.subs.filter (fun x => gComm x.2 != c) } }

/-- What a write of COMM_STATE does. -/
def setCommState (c v : Nat) (s : State) : State :=
  let r := commRec s c
  if v = 1 && !commActive s c then
    let l := (List.range (cRanks r)).map (fun k =>
      let w := rankWord s r k
      { device := fld w 15 0, backup := if w.testBit 32 then some (fld w 31 16) else none : Rank })
    let s1 := dropComm s c
    setReg (setReg { s1 with ranks := SMap.put s1.ranks c l } (0x7100 + c) 2 1) (0x7100 + c) 3 1
  else if v = 0 then setReg (dropComm s c) (0x7100 + c) 2 0
  else s

end Sys2Proof.Machine
end

