-- ==== Sys2Proof/Machine/Remote.lean ====
section
/-! DEFINITION. Remote requests of this device (R275, R276): sending, the limits that make them wait, and NAKs. -/

namespace Sys2Proof.Machine

/-- A tag no outstanding request uses, from `t` on. -/
def unusedTag (s : State) : Nat → Nat → Nat
  | 0, t => t
  | n + 1, t => if s.fab.reqs.any (fun r => r.tag == t) then unusedTag s n ((t + 1) % 65536) else t

/-- Lines reserved in the 8 MiB read-return buffer, 131,072 lines of it (R276). -/
def returnLines (s : State) : Nat := ((s.fab.reqs.filter (·.isRead)).map RemoteReq.lines).sum

/-- May a request be sent now: FABRIC_ENABLE is set, its limit of R276 is not reached, and a READ's lines are free in the
read-return buffer. -/
def maySend (s : State) (r : RemoteReq) : Bool :=
  reg s 0x7000 2 == 1
    && (if r.isRead then decide ((s.fab.reqs.filter (·.isRead)).length < 4096) && decide (returnLines s + r.lines ≤ 131072)
        else decide ((s.fab.reqs.filter (fun x => !x.isRead)).length < 16384))

/-- Send a request: its tag is set, and its time runs from its first cell (R276). Without a port it is answered at once with NAK UNREACHABLE, which loops
back (R268, R272). -/
def sendNow (s : State) (r : RemoteReq) (m : Msg) : State :=
  let t := unusedTag s 20481 s.fab.nextTag
  let m1 := { m with hdr := m.hdr + BitVec.ofNat 256 (2 ^ 48 * t) }
  let s1 := { s with fab := { s.fab with
    nextTag := (t + 1) % 65536
    reqs := s.fab.reqs ++ [{ r with tag := t }] } }
  match trySend s1 m1 with
  | some s2 => s2
  | none => unroutable s1 m1

/-- Send what can be sent of the requests that wait. -/
def sendWaiting (s : State) : State :=
  s.fab.unsent.foldl (fun t e =>
    if maySend t e.1 then sendNow t e.1 e.2
    else { t with fab := { t.fab with unsent := t.fab.unsent ++ [e] } })
    { s with fab := { s.fab with unsent := [] } }

/-- The device's own write to a cached line of a peer invalidates it (Table 12.3); a read of it under way fills nothing. -/
def dropRemoteLines (s : State) (addr lines : Nat) : State :=
  { s with
    rrCache := SMap.dropRange s.rrCache (addr / 64 * 64) (addr / 64 * 64 + 64 * lines)
    fab := { s.fab with reqs := mapIf (fun r => decide (addr / 64 ≤ r.addr / 64) && decide (r.addr / 64 < addr / 64 + lines)) noFill s.fab.reqs } }

/-- A request of a DMA engine, a control core or the host (R268: PINNED is PIN_LOCAL). -/
def request (s : State) (isRead : Bool) (cls addr lines mask : Nat) (body : List Line) (p : Purpose) : State :=
  let flags := cls + 2 * reg s 0x7000 4
  let m := mkMsg (if isRead then 1 else 2) flags (lines - 1) (devNum s) 0 addr 0 mask body
  let r : RemoteReq := { tag := 0, addr := addr, lines := lines, isRead := isRead, deadline := 0, sentAt := none, purpose := p }
  let s1 := if isRead then s else dropRemoteLines s addr lines
  sendWaiting { s1 with fab := { s1.fab with unsent := s1.fab.unsent ++ [(r, m)] } }

/-- Pieces of at most 64 lines: byte offset and lines. -/
def linePieces (lines : Nat) : List (Nat × Nat) :=
  (List.range (ceilDiv lines 64)).map (fun k => (4096 * k, min 64 (lines - 64 * k)))

/-- The lines of a byte range of memory. -/
def linesAt (s : State) (a lines : Nat) : List Line := (List.range lines).map (fun j => lineAt s (a + 64 * j))

/-- Outstanding or waiting requests for a purpose. -/
def dropUnsent (s : State) (p : Purpose → Bool) : State :=
  { s with fab := { s.fab with unsent := s.fab.unsent.filter (fun e => !p e.1.purpose) } }

end Sys2Proof.Machine
end

