-- ==== Sys2Proof/Machine/Dma.lean ====
section
/-! DEFINITION. Loam DMA (R189 to R191), line reads and writes of the agents (R234, R184, R223, R240). -/

namespace Sys2Proof.Machine

/-! The DMA descriptor (Table 10.4). -/
def zEngine (d : Nat) : Nat := qf d 0 17 16
def zSrcRemote (d : Nat) : Bool := qf d 1 6 6 == 1
def zDstRemote (d : Nat) : Bool := qf d 1 7 7 == 1
def zClass (d : Nat) : Nat := qf d 1 8 8
def zSrc (d : Nat) : Nat := qf d 2 59 0
def zDst (d : Nat) : Nat := qf d 3 59 0
def zRowBytes (d : Nat) : Nat := qf d 4 31 0
def zRows (d : Nat) : Nat := qf d 4 63 32
def zSrcStride (d : Nat) : Nat := qf d 5 31 0
def zDstStride (d : Nat) : Nat := qf d 5 63 32

/-- Broken layout rules of Table 10.4, and an ENGINE other than the queue's (R313). -/
def dmaFieldsBad (s : State) (q d : Nat) : Bool :=
  dVersion d != 1 || decide (2 < dOpcode d) || zEngine d != qUnit (qCfg s q) || qf d 0 23 18 != 0 || qf d 1 4 0 != 0
    || qf d 1 15 9 != 0 || qf d 1 23 22 != 0 || qf d 1 63 32 != 0 || qf d 2 63 60 != 0 || qf d 3 63 60 != 0
    || fld d (64 * 14 - 1) (64 * 6) != 0 || qf d 14 63 12 != 0
    || (dOpcode d != 0 && (zRowBytes d == 0 || zRowBytes d % 64 != 0 || zRows d == 0 || zSrcStride d % 64 != 0
        || zDstStride d % 64 != 0 || zDst d % 64 != 0 || (dOpcode d == 1 && zSrc d % 64 != 0)))

/-- A range inside one loam window or inside the HBM window (R190). -/
def dmaInside (r a len : Nat) : Bool := inLoamWin r a len || inHbmWin r a len

/-- Every row of a local side inside (R190). -/
def dmaSideOk (r base stride bytes rows : Nat) : Bool :=
  dmaInside r base ((rows - 1) * stride + bytes) || (List.range rows).all (fun i => dmaInside r (base + i * stride) bytes)

def dmaAddressBad (r d : Nat) : Bool :=
  dOpcode d != 0 &&
    ((!zDstRemote d && !dmaSideOk r (zDst d) (zDstStride d) (zRowBytes d) (zRows d))
      || (dOpcode d == 1 && !zSrcRemote d && !dmaSideOk r (zSrc d) (zSrcStride d) (zRowBytes d) (zRows d)))

def dmaCheck (s : State) (q ctx d : Nat) : Nat :=
  if dmaFieldsBad s q d then stDescriptor else if dmaAddressBad (ctxRec s ctx) d then stAddress else stOk

/-- Source and destination addresses of the rows. -/
def dmaRows (d : Nat) : List (Nat × Nat) :=
  (List.range (zRows d)).map (fun i => (zSrc d + i * zSrcStride d, zDst d + i * zDstStride d))

/-- Source and destination addresses of the lines, in ascending order. -/
def dmaLines (d : Nat) : List (Nat × Nat) :=
  (dmaRows d).flatMap (fun e => (List.range (zRowBytes d / 64)).map (fun j => (e.1 + 64 * j, e.2 + 64 * j)))

def dmaTotal (d : Nat) : Nat := zRows d * (zRowBytes d / 64)

def dmaSpan (stride bytes rows : Nat) : Nat := (rows - 1) * stride + bytes

/-- Do the source and destination of a local copy overlap. -/
def dmaOverlap (d : Nat) : Bool :=
  decide (zSrc d < zDst d + dmaSpan (zDstStride d) (zRowBytes d) (zRows d))
    && decide (zDst d < zSrc d + dmaSpan (zSrcStride d) (zRowBytes d) (zRows d))

/-- The free choices of a copy (log 3): bit j concerns line j. -/
def dmaChoice (s : State) (j : Nat) : Bool := (Config.freeValue s.freeCtr).testBit j

/-- An overlapping copy (R191): the value read at each source line is the one before the copy or the one it has by then. -/
def copyOverlap (s : State) (d : Nat) : State :=
  let l := (List.range (dmaTotal d)).zip (dmaLines d)
  let order := if zSrc d ≤ zDst d then l else l.reverse
  nextFree (order.foldl (fun t e =>
    memWriteVal t e.2.2 64 (if dmaChoice s e.1 then memVal s e.2.1 64 else memVal t e.2.1 64)) s)

/-- Source lines that are poisoned stop the copy (R184, R223); which of the other lines were moved is not stated. -/
def copyPoisoned (s : State) (d : Nat) : State × Nat :=
  let l := ((List.range (dmaTotal d)).zip (dmaLines d)).filter (fun e => !rangePoisoned s e.2.1 64 && !rangeLost s e.2.2 64 && dmaChoice s e.1)
  (nextFree (l.foldl (fun t e => memWriteVal t e.2.2 64 (memVal s e.2.1 64)) s), l.length)

/-- A copy between local ranges: the state, its status and the lines moved. -/
def copyLocal (s : State) (d : Nat) : State × Nat × Nat :=
  if (dmaRows d).any (fun e => rangePoisoned s e.1 (zRowBytes d) || rangeLost s e.2 (zRowBytes d)) then
    let r := copyPoisoned s d
    (r.1, stHwFault, r.2)
  else if dmaOverlap d then (copyOverlap s d, stOk, dmaTotal d)
  else ((dmaRows d).foldl (fun t e => memCopy t e.2 e.1 (zRowBytes d)) s, stOk, dmaTotal d)

/-- Write zeros to a row; retired lines count their discarded writes (R394). -/
def fillRow (s : State) (a len : Nat) : State := bumpBy (memZero s a len) 0x8000 9 (retiredIn s a len).length

/-- The error source of a loam DMA engine (Table 15.10, group 6). -/
def dmaError (s : State) (d st : Nat) : State := if st = 0 then s else raise s (src 6 (2 + zEngine d))

/-- A DMA operation ends. -/
def finishDma (s : State) (tag : Nat) : State :=
  match findOp s tag with
  | none => s
  | some o =>
    if o.ended then s
    else dmaError (nextFree (updOp s tag (fun x => { x with ended := true, energy := Config.energyEstimate s.freeCtr })))
      o.desc.toNat o.status

/-- A further remote request of an operation. -/
def dmaRequest (s : State) (tag : Nat) (isRead : Bool) (cls addr lines : Nat) (body : List Line) (p : Purpose) : State :=
  request (updOp s tag (fun o => { o with remoteOut := o.remoteOut + 1 })) isRead cls addr lines ones64 body p

/-- The requests of a copy or fill with a remote side (R190, R191). -/
def dmaRemote (s : State) (o : Op) : State :=
  let d := o.desc.toNat
  let ps := linePieces (zRowBytes d / 64)
  (dmaRows d).foldl (fun t e => ps.foldl (fun t p =>
    if dOpcode d = 1 && zSrcRemote d then
      dmaRequest t o.tag true (zClass d) (e.1 + p.1) p.2 [] (.dmaRead o.tag (e.2 + p.1) (zDstRemote d))
    else
      let body := if dOpcode d = 2 then List.replicate p.2 0 else linesAt t (e.1 + p.1) p.2
      dmaRequest t o.tag false 0 (e.2 + p.1) p.2 body (.dmaWrite o.tag)) t) s

/-- The first line of a local side's row that lies at an unassigned address. -/
def dmaHole (d : Nat) : Option Nat :=
  let ends := fun (base stride : Nat) => (List.range (zRows d)).flatMap (fun i => [base + i * stride, base + i * stride + zRowBytes d - 1])
  ((if zDstRemote d then [] else ends (zDst d) (zDstStride d))
    ++ (if dOpcode d == 1 && !zSrcRemote d then ends (zSrc d) (zSrcStride d) else [])).find? unassigned

/-- A descriptor refused for an unassigned address: the access moves no data and is logged (R6). -/
def noteHole (s : State) (o : Op) (st : Nat) : State :=
  match if st = stAddress then dmaHole o.desc.toNat else none with
  | none => s
  | some a => logUnassigned s a (some o.ctx) (dOpId o.desc.toNat)

/-- Start a DMA descriptor (R189 to R191). -/
def startDma (s : State) (o : Op) : State :=
  let d := o.desc.toNat
  let st := dmaCheck s o.queue o.ctx d
  let o1 := { o with deadline := deadlineOf s (qf d 15 31 0) (qf d 15 63 32) (qf d 14 11 0) }
  if st ≠ 0 then dmaError (refuse (noteHole s o st) o st) d st
  else if dOpcode d = 0 then addOp s { o1 with ended := true }
  else if (dOpcode d == 1 && zSrcRemote d) || zDstRemote d then
    if dOpcode d == 1 && !zSrcRemote d && (dmaRows d).any (fun e => rangePoisoned s e.1 (zRowBytes d)) then
      finishDma (addOp s { o1 with status := stHwFault }) o.tag
    else dmaRemote (addOp s o1) o1
  else if dOpcode d = 2 then
    finishDma (addOp ((dmaRows d).foldl (fun t e => fillRow t e.2 (zRowBytes d)) s) { o1 with
      waves := dmaTotal d
      status := if (dmaRows d).any (fun e => rangeLost s e.2 (zRowBytes d)) then stHwFault else stOk }) o.tag
  else
    let r := copyLocal s d
    finishDma (addOp r.1 { o1 with status := r.2.1, waves := r.2.2 }) o.tag

/-- Dispatch of a DMA descriptor. The loam DMA engines are frozen in a coolant stop (R377). -/
def dispatchDma (q : QueueId) (tag : TagId) (s : State) (accept : Nat → Bool) : Out :=
  .next (if stopped s then s
    else dispatch s q.val tag.val (fun d => qKind (qCfg s q.val) == 2 && accept (dOpcode d)) .dma startDma)

/-- COPY, and every opcode a DMA queue refuses (R313). -/
def execCopy (q : QueueId) (tag : TagId) (s : State) : Out :=
  dispatchDma q tag s (fun op => op != 0 && op != 2 && !isSyncOp op)

/-- FILL writes zeros. -/
def execFill (q : QueueId) (tag : TagId) (s : State) : Out := dispatchDma q tag s (fun op => op == 2)

/-- NOP completes with a record. -/
def execDmaNop (q : QueueId) (tag : TagId) (s : State) : Out := dispatchDma q tag s (fun op => op == 0)

/-- Stop a DMA operation: requests that have not been sent are given up (R106, R199). -/
def stopDma (s : State) (tag st : Nat) : State :=
  let mine : Purpose → Bool := fun p => match p with
    | .dmaRead t _ _ => t == tag
    | .dmaWrite t => t == tag
    | .portRead _ | .portWrite _ | .hostDma _ | .ctxImage .. | .ckptClear .. | .ckptImage .. | .ckptCommit ..
    | .lineRead .. | .lineWrite _ => false
  let n := (s.fab.unsent.filter (fun e => mine e.1.purpose)).length
  let s1 := updOp (dropUnsent s mine) tag (fun o => { o with
    remoteOut := o.remoteOut - n, status := if o.ended || o.status != 0 then o.status else st })
  finishDma s1 tag

/-- The status of a copy whose remote request ends by TIMEOUT is not stated (log 42): ADDRESS_ERROR, HW_FAULT or
TIMEOUT. -/
def dmaTimeoutStatus (s : State) : Nat :=
  let k := Config.freeValue s.freeCtr % 3
  if k = 0 then stAddress else if k = 1 then stHwFault else stTimeout

/-- A remote request of a copy has ended: `bad` is the status it stops the copy with. -/
def dmaAnswered (s : State) (tag lines : Nat) (bad : Nat) : State :=
  match findOp s tag with
  | none => s
  | some o =>
    let s1 := updOp s tag (fun o => { o with remoteOut := o.remoteOut - 1, waves := if bad = 0 && !o.ended then o.waves + lines else o.waves })
    if o.ended then s1
    else if bad ≠ 0 then stopDma s1 tag bad
    else if o.remoteOut = 1 then finishDma s1 tag
    else s1

/-- Data for a copy: written locally, or sent on to a remote destination. Nothing is written once the copy has stopped. -/
def dmaData (s : State) (tag dst : Nat) (dstRemote : Bool) (body : List Line) : State :=
  match findOp s tag with
  | none => s
  | some o =>
    if o.ended || o.status != 0 then dmaAnswered s tag 0 0
    else if dstRemote then
      dmaAnswered (dmaRequest s tag false 0 dst body.length body (.dmaWrite tag)) tag 0 0
    else if rangeLost s dst (64 * body.length) then dmaAnswered s tag 0 stHwFault
    else dmaAnswered (memWrite s dst (body.flatMap (fun l => leBytes 64 l.toNat))) tag body.length 0

/-! Lines. -/

/-- Does context c hold sync object n now (R245). -/
def holdsObj (s : State) (c n : Nat) : Bool := ctxHolds s c && inSyncRange s c n

/-- The state of a sync object as control cores read it (Table 12.5): its waiters are those of the context that holds it (R254). -/
def objWord (s : State) (n : Nat) : Line :=
  let o := objOf s n
  BitVec.ofNat 512 (o.type + b2n o.poisoned * 2 ^ 3 + b2n o.set * 2 ^ 4 + b2n o.held * 2 ^ 5 + o.comm * 2 ^ 6
    + o.localCount * 2 ^ 14 + o.localArrived * 2 ^ 20 + o.epoch * 2 ^ 32 + o.holder * 2 ^ 64
    + (s.waits.filter (fun w => w.obj == n && holdsObj s w.owner n)).length % 65536 * 2 ^ 128)

def inSyncWin (a : Nat) : Bool := decide (0xF0000100000 ≤ a) && decide (a < 0xF0000140000)

/-- What the checks of the units of a line find. -/
def lineChecks (s : State) (a : Nat) (e0 e1 : EccResult) : State :=
  let b := lineAddr a
  if inLoam a then eccFind (eccFind s b e0 none 0) (b + 32) e1 none 0 else eccFind s b e0 none 0

/-- Is any unit of a line poisoned, or the line retired. -/
def linePoisoned (s : State) (a : Nat) : Bool := rangePoisoned s (lineAddr a) 64

/-- The control cores reach the Gwevi region; every other unit is answered as for an unassigned address (R210). -/
def lineReaches (ag : Agent) (a : Nat) : Bool := !unassigned a && !(inGwevi a && !isCore ag)

/-- A read of a line of a peer by a control core, or a scalar read of a vector engine (R275): a hit in the remote-read cache sends
no message; a miss sends a READ. The class of its READ is not stated: LC, as for the misses of Table 11.2 (log 60). -/
def peerRead (s : State) (ag : Agent) (dev a : Nat) : State :=
  let x := dev * 2 ^ 44 + lineAddr a
  if !readsCached ag then emit s (.addressError ag a)
  else match SMap.find s.rrCache x with
    | some l => emit s (.lineData ag x l false)
    | none => request s true 1 x 1 ones64 [] (.lineRead ag true)

/-- The answer of a peer: the line goes to the reader and into the remote-read cache (Table 12.3). -/
def lineReadEnds (s : State) (ag : Agent) (fill : Bool) (x : Nat) (l : Line) : State :=
  emit (if fill then rrFill s x l else s) (.lineData ag x l false)

/-- A remote access of a core ends with NAK or TIMEOUT: an access fault (R276); a vector engine's fails as at an unassigned
address (log 60). -/
def lineFails (s : State) (ag : Agent) (x : Nat) : State :=
  match ag with
  | .cc n => emit s (.accessFault n.val)
  | .part .. | .engine _ | .dma _ | .host | .coll | .inbound _ => emit s (.addressError ag x)

/-- A line read (R234): served from the read-through cache of its die for a control core or a vector engine's scalar read, or
by the bank or base die with its checks (R240). -/
def execLineRead (ag : Agent) (place : LinePlace) (e0 e1 : EccResult) (s : State) : Out :=
  .next (if !clockOn s then s
    else match place with
    | .peer dev addr => peerRead s ag dev.toNat addr.toNat
    | .own addr =>
      let a := addr.toNat
      if memHeld s a then s
      else if inCtl a then
        (if isCore ag && inSyncWin a then emit s (.lineData ag (lineAddr a) (objWord s ((a - 0xF0000100000) / 64)) false)
         else emit s (.addressError ag a))
      else if !lineReaches ag a then emit (logUnassigned s a none 0) (.addressError ag a)
      else match if readsCached ag && inHbm a then SMap.find s.rtCache (rtKey a) else none with
        | some l => emit s (.lineData ag (lineAddr a) l false)
        | none =>
          let s1 := lineChecks s a e0 e1
          let bad := linePoisoned s1 a
          let s2 := if readsCached ag && inHbm a && !bad then rtFill s1 a (lineAt s1 a) else s1
          emit s2 (.lineData ag (lineAddr a) (lineAt s1 a) bad))

/-- Is a unit of n nibbles from nibble lo written only in part. -/
def partlyWritten (mask : BitVec 128) (lo n : Nat) : Bool := maskTouches mask lo n && !maskCovers mask lo n

/-- A write to a line of a peer: whole bytes go as a WRITE with a byte mask (R265); R276 holds for its end. -/
def peerWrite (s : State) (ag : Agent) (dev a : Nat) (data : Line) (mask : BitVec 128) : State :=
  if !readsCached ag then emit s (.addressError ag a)
  else request s false 0 (dev * 2 ^ 44 + lineAddr a) 1
    ((List.range 64).foldl (fun v j => if mask.getLsbD (2 * j) && mask.getLsbD (2 * j + 1) then v + 2 ^ j else v) 0) [data] (.lineWrite ag)

/-- A line write (R234): the read of a partial unit detects errors, and the enabled nibbles are stored. A core's write, and a
scalar write of a vector engine, updates its cached line (Table 12.3). -/
def execLineWrite (ag : Agent) (place : LinePlace) (data : Line) (mask : BitVec 128) (e0 e1 : EccResult) (s : State) : Out :=
  .next (if !clockOn s then s
    else match place with
    | .peer dev addr => peerWrite s ag dev.toNat addr.toNat data mask
    | .own addr =>
      let a := addr.toNat
      if memHeld s a then s
      else if inCtl a then
        (if inSyncWin a then emit (logUnassigned s a none 0) (.addressError ag a) else emit s (.addressError ag a))
      else if !lineReaches ag a then emit (logUnassigned s a none 0) (.addressError ag a)
      else if rangeLost s a 1 then emit s (.hwFault ag a)
      else
        let c0 := if inLoam a then (if partlyWritten mask 0 64 then e0 else .clean) else if partlyWritten mask 0 128 then e0 else .clean
        let c1 := if inLoam a && partlyWritten mask 64 64 then e1 else .clean
        let s1 := lineChecks s a c0 c1
        if readsCached ag then coreWrite s1 a data mask else writeLine s1 a data mask)

end Sys2Proof.Machine
end

