-- ==== Sys2Proof/Machine/Operations.lean ====
section
/-! DEFINITION. The run of an operation after dispatch: waves and the output stage, its completion record (R104, R109,
R309, R320), its deadline (R108), and the array commands (R74, R88). -/

namespace Sys2Proof.Machine

/-- A wave of partition ii of array a (R63); what it stops is announced to the collective engine (R106). -/
def execWave (a : ArrayId) (ii : PartId) (s : State) : Out := .next (announceStops (waveEffect s a.val ii.val))

/-- The output stage takes the next drained row segment (R69). -/
def execOutputStageAccept (a : ArrayId) (ii : PartId) (ups : List Upset) (s : State) : Out :=
  .next (announceStops (outputEffect s a.val ii.val ups))

/-- The record of a collective bucket (R309): Table 5.4 with the ring and phase of Table 14.2. -/
def collRecordWord (o : Op) : BitVec 256 :=
  let d := o.desc.toNat
  let q0 := o.tag + dUserTag d * 2 ^ 16 + o.status * 2 ^ 32 + dOpId d * 2 ^ 40
  let sat := o.under == 2 ^ 32 - 1 || o.nan == 2 ^ 32 - 1 || o.ovfl == 2 ^ 32 - 1
  let q3 := min o.waves (2 ^ 40 - 1) + b2n o.missed * 2 ^ 42 + b2n sat * 2 ^ 44 + qf d 1 39 32 * 2 ^ 48
    + b2n o.late * 2 ^ 56 + b2n o.subst * 2 ^ 57 + b2n o.diverge * 2 ^ 58 + b2n o.repaired * 2 ^ 59 + b2n o.capExt * 2 ^ 60
  BitVec.ofNat 256 (q0 + (o.under + o.nan * 2 ^ 32) * 2 ^ 64 + (o.ovfl + min o.energy (2 ^ 32 - 1) * 2 ^ 32) * 2 ^ 128
    + q3 * 2 ^ 192)

/-- The record and the ring of an operation. -/
def recordOf (o : Op) : BitVec 256 :=
  match o.kind with
  | .matrix | .vector | .dma => recordWord o
  | .sync => syncRecordWord o
  | .coll => collRecordWord o

def ringOf (o : Op) : Nat := if o.kind = .coll then qf o.desc.toNat 1 29 24 else dCq o.desc.toNat

/-- Every destination write is accepted, every sampled tile captured, and nothing is outstanding (R104). -/
def recordReady (o : Op) : Bool := o.ended && !o.recorded && o.capsOut == 0 && o.remoteOut == 0

/-- The record of an operation becomes ready (R104); its energy counts for its context (R382). -/
def readyRecord (s : State) (o : Op) : State :=
  let s1 := updOp (pushRecord s (ringOf o) (recordOf o) (some o.tag)) o.tag (fun x => { x with recorded := true })
  let s2 := bumpBy s1 (0x3100 + o.ctx) 1 (o.energy * 16 / 1000)
  if stopsQueue o.status then stopQueue s2 o.queue 1 else s2

/-- The oldest ready record of a ring. -/
def firstReady (s : State) (r : Nat) : Option ReadyRec := s.ready.find? (fun x => x.ring == r)

/-- Write the oldest ready record of ring r (R320): a full ring and a host ring without a link make it wait, an
unconfigured ring discards it. Its tag is freed, and sync operations of its stream may take effect (R249). -/
def writeRecord (s : State) (r : Nat) (x : ReadyRec) : State :=
  let q := (x.tag.bind (findOp s)).map Op.queue
  let s1 :=
    if rSize (rCfg s r) = 0 then some (bump (dropReady s r) 0x2020 4)
    else if ringFull s r || (qHost (rCfg s r) && !s.aon.pcieUp) then none
    else some (putRecord (dropReady s r) r x.word)
  match s1 with
  | none => s
  | some t =>
    match q with
    | none => freeTag t x.tag
    | some n => retryStream (freeTag t x.tag) n

def execRecordWrite (r : RingId) (s : State) : Out :=
  .next (match firstReady s r.val with
    | none => s
    | some x => if clockOn s then writeRecord s r.val x else s)

/-- Take the queued program of an operation off its engine and end the operation. -/
def stopQueued (s : State) (n tag st : Nat) : State :=
  let e := engineOf s n
  endOp (setEngine s n { e with queue := e.queue.filter (fun x => x.tag != some tag) }) tag st

/-- Stop a matrix, vector or DMA operation with a status (R106). -/
def stopOp (s : State) (o : Op) (st : Nat) : State :=
  if o.kind = .matrix then stopMatrixGo s o.tag st
  else if o.kind = .vector then
    let n := fld o.desc.toNat 17 16
    match (engineOf s n).run with
    | some p => if p.tag = some o.tag then stopProg s n .program p st else stopQueued s n o.tag st
    | none => stopQueued s n o.tag st
  else if o.kind = .dma then stopDma s o.tag st
  else s

/-- The conditions of R104 came to hold by time t. -/
def metBy (o : Op) (t : Nat) : Bool :=
  match o.doneAt with
  | some x => decide (x ≤ t)
  | none => false

/-- Stop an operation at its missed deadline with ABORTED (R106); one whose last capture or write came between the expiry
and its test is ABORTED too. -/
def abortOp (s : State) (o : Op) : State :=
  updOp (announceStops (stopOp s o stAborted)) o.tag (fun x =>
    if x.ended && x.status == 0 then { x with status := stAborted } else x)

/-- The deadline t is tested once (R108): met when the conditions of R104 held by then, otherwise a deadline fault (code
10h). -/
def deadlineTest (s : State) (o : Op) (t : Nat) : State :=
  let s1 := updOp s o.tag (fun x => { x with dlHandled := true })
  if metBy o t then s1
  else
    let s2 := updOp s1 o.tag (fun x => { x with missed := true })
    let s3 := logEvent s2 (opEvent o { Event.plain 0x10 2 (queueUnit s o.queue) o.tag with srcs := [src 18 3] })
    if dAbort o.desc.toNat then abortOp s3 o else s3

/-- Test the deadline of an operation that has expired and has not been tested. -/
def testExpired (s : State) (o : Op) : State :=
  match o.deadline with
  | none => s
  | some t => if decide (t ≤ now s) && !o.dlHandled && !stopped s && clockOn s && !o.recorded then deadlineTest s o t else s

/-- The record becomes ready; a deadline that has expired meanwhile is tested first. -/
def execCompletionRecord (tag : TagId) (s : State) : Out :=
  .next (match findOp s tag.val with
    | none => s
    | some o =>
      if clockOn s && recordReady o then
        let s1 := testExpired s o
        readyRecord s1 ((findOp s1 tag.val).getD o)
      else s)

def execOperationDeadlineExpiry (tag : TagId) (s : State) : Out :=
  .next (match findOp s tag.val with
    | none => s
    | some o => testExpired s o)

/-! Array commands. -/

/-- ARRAY_HOLD (R74). -/
def effArrayHold (a v : Nat) (s : State) : State := setReg s (0x2200 + a) 2 v

def execArrayHold (p : Path) (a : ArrayId) (v : Byte) (s : State) : Out :=
  guarded s p (0x2200 + a.val) 2 1 v.toNat freely (effArrayHold a.val v.toNat)

def prePartitionMode (a : Nat) (s : State) : Nat := if arrayIdle s a then 0 else dQuiesce

/-- The new mode; queues bound to partitions it does not have stop with reason 3 (R74, R317). -/
def effPartitionMode (a v : Nat) (s : State) : State :=
  stopBound (setReg s (0x2200 + a) 1 v) a 3 (fun ii => !decide (ii < partsOf v))

def execPartitionMode (p : Path) (a : ArrayId) (v : Byte) (s : State) : Out :=
  guarded s p (0x2200 + a.val) 1 1 v.toNat (prePartitionMode a.val) (effPartitionMode a.val v.toNat)

/-- Free field-programmable fuse slots of an array (R88). -/
def fuseSlotsFree (s : State) (a : Nat) : Nat := 8 - SMap.get s.fuses.repairFree a 0

def softRecords (s : State) (a : Nat) : List Nat := (recordsOf s a).filter recSoft

/-- Only while idle and held (QUIESCE); fewer slots than SOFT records fails too (R88; the code is a choice, log 41). -/
def preRepairBurn (a v : Nat) (s : State) : Nat :=
  if v ≠ 1 then 0
  else if !(arrayIdle s a && reg s (0x2200 + a) 2 == 1) || (arrayOf s a).burning then dQuiesce
  else if fuseSlotsFree s a < (softRecords s a).length then dConflict
  else 0

/-- The burn starts; the array stays held until it completes. -/
def effRepairBurn (a v : Nat) (s : State) : State :=
  if v = 1 then setArray s a { arrayOf s a with burning := true } else s

def execRepairBurn (p : Path) (a : ArrayId) (v : Byte) (s : State) : Out :=
  guarded s p (0x2200 + a.val) 0x0C 1 v.toNat (preRepairBurn a.val v.toNat) (effRepairBurn a.val v.toNat)

/-- Every SOFT record is now in a field fuse (R88). -/
def burnRecords (s : State) (a : Nat) : State :=
  let soft := softRecords s a
  let l := (recordsOf s a).map (fun w => if recSoft w then w - 2 ^ 30 else w)
  let s1 := setRecords s a l
  setArray { s1 with fuses := { s1.fuses with
    repairs := SMap.set s1.fuses.repairs a (SMap.get s1.fuses.repairs a [] ++ soft.map (fun w => w - 2 ^ 30)) []
    repairFree := SMap.set s1.fuses.repairFree a (SMap.get s1.fuses.repairFree a 0 + soft.length) 0 } } a
    { arrayOf s1 a with burning := false }

/-- The burn ends in the FUSE domain, which runs without PE_REFCLK too (R15). -/
def execRepairBurnComplete (a : ArrayId) (s : State) : Out :=
  .next (if s.aon.up && (arrayOf s a.val).burning then burnRecords s a.val else s)

end Sys2Proof.Machine
end

