-- ==== Sys2Proof/Machine/Stationary.lean ====
section
/-! DEFINITION. Weight-stationary mode (R82, R83): the passes of cells that hold one reference group each, the
recirculation buffer, the self-test's comparison of every pattern with R44, and the recovery recomputation (R395). The
mode is entered by no command queue; the array runs it as one partition of 512 x 512 cells, idle and whatever
PARTITION_MODE says (log 23). -/

namespace Sys2Proof.Machine

/-- The cells of column `col` from row r on, each holding group r of the column operand: a partial sum moves south, and
every cell adds its group's products and rounds once (R82). An upset flips bits of what a cell puts out. -/
def wsCells (ups : List Upset) (col g : Nat) : Nat → Nat → Acc → List FVal → List FVal → Acc
  | 0, _, acc, _, _ => acc
  | n + 1, r, acc, a, b =>
    if a.isEmpty then acc
    else wsCells ups col g n (r + 1) (upsetAcc ups r col (groupSum acc (groupProducts (a.take g) (b.take g))))
      (a.drop g) (b.drop g)

/-- One pass over 512 x G values of k: rows stream in, `inc` is the incoming value of every row and column. -/
def wsPass (ups : List Upset) (g : Nat) (rows : List (List FVal)) (cols : List (Nat × List FVal)) (inc : List (List Acc)) :
    List (List Acc) :=
  (rows.zip inc).map (fun r => (cols.zip r.2).map (fun c =>
    wsCells ups c.1.1 g 512 0 c.2 (r.1.take (512 * g)) (c.1.2.take (512 * g))))

/-- Up to 64 rows: passes until K is used up, the recirculation buffer feeding each its incoming values. The results, and
what the buffer held last. -/
def wsChunk (ups : List Upset) (g : Nat) : Nat → List (List FVal) → List (Nat × List FVal) → List (List Acc) →
    List (List Acc) × List (List Acc)
  | 0, _, _, inc => (inc, inc)
  | n + 1, rows, cols, inc =>
    let out := wsPass ups g rows cols inc
    if rows.all (fun r => decide (r.length ≤ 512 * g)) then (out, inc)
    else wsChunk ups g n (rows.map (List.drop (512 * g))) (cols.map (fun c => (c.1, c.2.drop (512 * g)))) out

/-- A tile of rows, 64 at a time. -/
def wsTile (ups : List Upset) (g : Nat) (cols : List (Nat × List FVal)) : Nat → List (List FVal) → List (List Acc) →
    List (List Acc) × List (List Acc)
  | 0, _, _ => ([], [])
  | n + 1, rows, inc =>
    let x := wsChunk ups g ((rows.take 64).foldl (fun m r => max m r.length) 0 + 1) (rows.take 64) cols (inc.take 64)
    if rows.length ≤ 64 then x
    else
      let y := wsTile ups g cols n (rows.drop 64) (inc.drop 64)
      (x.1 ++ y.1, y.2)

/-! The self-test. The pattern table is the controller's own (R83): its size, formats, operands and incoming values are
free (log 3). -/

def testFormat (n : Nat) : Nat := Config.testFormat n % 10

def testOperand (side n j : Nat) : FVal :=
  match fmtOfCode (testFormat n) true, fmtOfCode (testFormat n) false with
  | none, none => .nan
  | none, some f => f.decode (Config.testOperand (2 * n + side) j % 2 ^ f.bits)
  | some f, _ => f.decode (Config.testOperand (2 * n + side) j % 2 ^ f.bits)

def testIncoming (n : Nat) : Acc :=
  let w := Config.testOperand (2 * n) (2 ^ 20)
  { bits := BitVec.ofNat 48 w, ovf := w.testBit 48 }

/-- What R44 gives of pattern n in one cell. -/
def testExpected (n : Nat) : Acc :=
  let g := groupSize (classOf (testFormat n))
  groupSum (testIncoming n) (groupProducts ((List.range g).map (testOperand 0 n)) ((List.range g).map (testOperand 1 n)))

/-- Some pattern's result, or its overflow flag, differs in cell (row, col). -/
def cellFails (ups : List Upset) (row col : Nat) : Bool :=
  (List.range (1 + Config.testPatterns)).any (fun n => upsetAcc ups row col (testExpected n) != testExpected n)

/-- The cells of a site that fail the comparison. Only a cell with an upset can. -/
def failingCells (ups : List Upset) (site : Nat → Nat → Bool) : List CellAt :=
  ups.filterMap (fun u =>
    if h : u.row < 512 ∧ u.col < 512 then
      if site u.row u.col && cellFails ups u.row u.col then some { row := ⟨u.row, h.1⟩, col := ⟨u.col, h.2⟩ } else none
    else none)

/-- The cells of a test's location: a 32 x 32 region, or a whole partition. -/
def siteCells (loc row col : Nat) : Bool := inRegions loc (row / 32 * 16 + col / 32)

/-! The recovery recomputation (R395). -/

/-- A captured tile in weight-stationary mode: its values in row-major order, and the recirculation buffer. -/
def wsRecompute (c : Capture) (ups : List Upset) : List (Nat × Nat × Acc) × List (List Acc) :=
  let g := groupSize (classOf (mAFmt c.desc.toNat))
  let inc := c.rows.map (fun r => c.cols.map (fun k => SMap.get c.cIn (ckey r k) Acc.zero))
  let x := wsTile ups g (c.cols.zip c.bStrip |>.map (fun k => (k.1 % 512, k.2))) (c.rows.length + 1) c.aStrip inc
  ((c.rows.zip x.1).flatMap (fun r => (c.cols.zip r.2).map (fun k => (r.1, k.1, k.2))), x.2)

end Sys2Proof.Machine
end

