-- ==== Sys2Proof/Machine/Retire.lean ====
section
/-! DEFINITION. Retirement of blocks, arrays and engines (R89, R393, Table 18.6) with the operations they stop (R106),
and the choice of array repairs (R86). -/

namespace Sys2Proof.Machine

/-- Matrix operations of array a in partitions that satisfy `bad` stop with HW_FAULT (R89, R106). -/
def faultParts (s : State) (a : Nat) (bad : Nat → Bool) : State :=
  announceStops (((s.ops.filter (fun o => o.kind == .matrix && mArray o.desc.toNat == a && bad (mPart o.desc.toNat)
    && !o.ended)).map Op.tag).foldl (fun t tag => stopMatrixGo t tag stHwFault) s)

/-- Programs that run or wait on engine n stop with HW_FAULT, and its staging is dropped. -/
def faultEngine (s : State) (n : Nat) : State :=
  let e := engineOf s n
  let tags := (e.run.toList ++ e.queue).filterMap Prog.tag
  let s1 := match e.epi with
    | some p => stopProg s n .epilogue p stHwFault
    | none => s
  let s2 := match e.run with
    | some p => stopProg s1 n p.cls p stHwFault
    | none => s1
  let s3 := setEngine s2 n { engineOf s2 n with queue := [] }
  tags.foldl (fun t tag => endOp t tag stHwFault) s3

/-- Block b of array a is out of use: partitions that hold it stop (R89). -/
def dropBlock (s : State) (a b : Nat) : State :=
  let hit (ii : Nat) : Bool := (blocksOf (partMode s a) ii).contains b
  faultParts (stopBound (setReg s (0x2200 + a) 0x0A (setBit (retiredBlocks s a) b true)) a 4 hit) a hit

def retireBlock (s : State) (a b : Nat) : State :=
  if (retiredBlocks s a).testBit b then s else recordRetired (dropBlock s a b) 3 a b [src 4 (8 * a + 3)]

/-- The whole array is out of use (R89 as for P1). -/
def dropArray (s : State) (a : Nat) : State :=
  faultParts (stopBound (setReg s (0x2200 + a) 0x0A 0xFFFF) a 4 (fun _ => true)) a (fun _ => true)

def retireArray (s : State) (a : Nat) : State :=
  recordRetired (nextFree (dropArray s a)) 4 a (openLoc s) [src 4 (8 * a + 3)]

/-- Vn is out of use. -/
def dropEngine (s : State) (n : Nat) : State :=
  faultEngine { s with rel := { s.rel with engines := setBit s.rel.engines n true } } n

/-- Vn retired, An with it (Table 18.6). -/
def retireEngine (s : State) (n : Nat) : State :=
  retireArray (recordRetired (nextFree (dropEngine s n)) 5 (4 + n) (openLoc s) []) n

/-! R86. -/

/-- One failing cell. -/
def repairCell (s : State) (a : Nat) (row col : Nat) : State :=
  if rowReplaced s a row || colReplaced s a col then s
  else if spareRowFree s a (row / 32) then
    raise (setRecords s a (recordsOf s a ++ [repairWord true false row col])) (src 4 (8 * a + 2))
  else if spareColFree s a (col / 32) then
    raise (setRecords s a (recordsOf s a ++ [repairWord true true col row])) (src 4 (8 * a + 2))
  else retireBlock s a (4 * (row / 128) + col / 128)

/-- Ascending row, then ascending column. -/
def cellBefore (x y : CellAt) : Bool := decide (x.row < y.row) || (x.row == y.row && decide (x.col ≤ y.col))

def insertCell (c : CellAt) : List CellAt → List CellAt
  | [] => [c]
  | d :: l => if cellBefore c d then c :: d :: l else d :: insertCell c l

def sortCells : List CellAt → List CellAt
  | [] => []
  | c :: l => insertCell c (sortCells l)

/-- Failing spare lines of array a are marked and not used (R86): a record that uses one is dropped, so that the line it
replaced is tested and repaired again. -/
def failSpares (s : State) (a : Nat) (rows cols : List (Fin 16)) : State :=
  let l := (recordsOf s a).filter (fun w =>
    !(if recCol w then cols else rows).any (fun g => g.val == recLine w / 32))
  let s1 := setArray s a { arrayOf s a with
    badRows := rows.foldl (fun m g => setBit m g.val true) (arrayOf s a).badRows
    badCols := cols.foldl (fun m g => setBit m g.val true) (arrayOf s a).badCols }
  if l = recordsOf s a then s1 else setRecords s1 a l

def repairCells (s : State) (a : Nat) (cells : List CellAt) : State :=
  (sortCells cells).foldl (fun t c => repairCell t a c.row.val c.col.val) s

end Sys2Proof.Machine
end

