-- ==== Sys2Proof/Machine/Contexts.lean ====
section
/-! DEFINITION. Contexts (R192 to R202, R429), the owner-change scrub (R203) and the patrol scrub (R396). -/

namespace Sys2Proof.Machine

/-! The record (Table 10.5). -/

def cBuddyAddr (r : Nat) : Nat := qf r 13 43 0
def cBuddyDev (r : Nat) : Nat := qf r 13 59 44

/-- Reserved values of a record (R192). -/
def recordBad (r : Nat) : Bool :=
  qf r 2 63 44 != 0 || qf r 7 63 44 != 0 || qf r 8 63 44 != 0 || qf r 11 63 25 != 0 || qf r 13 63 60 != 0
    || fld r 1023 (64 * 14) != 0 || (List.range 4).any (fun n => decide (768 < qf r (3 + n) 63 44))
    || decide (4096 < syncBase r + syncCount r)

/-- Windows of a record: base, size and offset in the image (Table 10.6). -/
def winList (r : Nat) : List (Nat × Nat × Nat) :=
  (List.range 4).map (fun n => (winBase r n, winSize r n, ((List.range n).map (winSize r)).sum))
    |>.filter (fun w => w.2.1 != 0)

/-- Image size: the windows and 320 KiB (R194). -/
def imageSize (r : Nat) : Nat := winTotal r + 0x50000

/-- The rules of Table 10.5, R193, R194 and R210 that LOAD checks. -/
def recordAddressBad (r : Nat) : Bool :=
  hbmWinBase r % 0x4000000 != 0 || decide (gweviBase < hbmWinBase r + hbmWinSize r)
    || (List.range 4).any (fun n => winSize r n != 0 && (winBase r n % 0x200000 != 0
        || !within (winBase r n) (winSize r n) (loamBase + 0x60000000 * n) 0x60000000))
    || cImage r % 0x10000 != 0 || !inHbmWin r (cImage r) (imageSize r) || cBuddyAddr r % 0x10000 != 0
    || (recEpi r != 0 && !inLoamWin r (recEpi r) 64)
    || (recUpd r != 0 && !inLoamWin r (recUpd r) 64)
    || (recSieveMib r != 0 && (recSieve r % 64 != 0 || !inLoamWin r (recSieve r) (recSieveMib r * 0x100000)))
    || (recSrcN r != 0 && !inLoamWin r (recSrc r) (32 * recSrcN r))

def overlaps (a n b m : Nat) : Bool := decide (a < b + m) && decide (b < a + n) && n != 0 && m != 0

/-- Do two records share a window, part of a sync range or a queue (Table 10.8, OVERLAP). -/
def recordsOverlap (x y : Nat) : Bool :=
  (ctxQueues x &&& ctxQueues y) != 0 || overlaps (syncBase x) (syncCount x) (syncBase y) (syncCount y)
    || (winList x).any (fun w => (winList y).any (fun v => overlaps w.1 w.2.1 v.1 v.2.1))

/-- Contexts that hold their windows, sync ranges and queues (4000h:01). -/
def heldContexts (s : State) : List Nat := (List.range 64).filter (ctxHolds s)

/-- The checks of R196 on a LOAD, in order. -/
def loadCheck (s : State) (c : Nat) (fresh remote : Bool) : Nat :=
  let r := ctxRec s c
  if 16 ≤ (heldContexts s).length then 2
  else if (heldContexts s).any (fun d => recordsOverlap r (ctxRec s d)) then 3
  else if recordAddressBad r then 4
  else if !fresh && !remote && reg s (0x4100 + c) 5 != 1 then 6
  else 0

/-! Definition. -/

/-- Entries cleared when a context is defined (R181, R370, R382). -/
def clearCtxEntries (s : State) (c : Nat) : State :=
  { s with
    dict := SMap.dropRange (SMap.dropRange s.dict (dkey (0x6140 + c) 0) (dkey (0x6141 + c) 0))
      (dkey (0x3100 + c) 0) (dkey (0x3101 + c) 0)
    domains := SMap.dropRange s.domains (domKey 0x3081 1 (learnedOff c 0)) (domKey 0x3081 1 (learnedOff (c + 1) 0))
    fidWin := SMap.drop s.fidWin c }

/-- Only while FREE or DEFINED (R192, R343); a reserved value fails with RANGE. -/
def preContextRecord (c v : Nat) (s : State) : Nat :=
  if 2 ≤ ctxState s c then dQuiesce else if recordBad v then dRange else dOk

/-- A valid write defines the context (R192). -/
def effContextRecord (c v : Nat) (s : State) : State :=
  setReg (setReg (setReg (clearCtxEntries s c) (0x4100 + c) 1 v) (0x4100 + c) 2 1) (0x4100 + c) 5 0

def execContextRecordWrite (p : Path) (c : CtxId) (v : BitVec 1024) (s : State) : Out :=
  guarded s p (0x4100 + c.val) 1 128 v.toNat (preContextRecord c.val v.toNat) (effContextRecord c.val v.toNat)

/-! Commands (R195). -/

def ctxRun (s : State) (c : Nat) : Option CtxRun := SMap.find s.ctxs c

def setRunning (s : State) (c : Nat) (r : CtxRun) : State := { s with ctxs := SMap.put s.ctxs c r }

/-- A command begins, under a number of its own. -/
def beginCmd (s : State) (c cmd phase : Nat) (fresh : Bool) : State :=
  setRunning { s with ctxRuns := s.ctxRuns + 1 } c
    { cmd := cmd, fresh := fresh, phase := phase, slot := 0, remote := [], left := 0, bad := none, id := s.ctxRuns, next := none }

/-- A code of Table 10.8, announced. -/
def announceCmd (s : State) (c st : Nat) : State :=
  notify (raise (setReg s (0x4100 + c) 3 st) (src 6 6)) 0 (0x4100 + c) 3 [BitVec.ofNat 8 st]

/-- A command ends. -/
def endCmd (s : State) (c st : Nat) : State := announceCmd { s with ctxs := SMap.drop s.ctxs c } c st

def setCtxState (s : State) (c st : Nat) : State := setReg s (0x4100 + c) 2 st

def queuesOf (s : State) (c : Nat) : List Nat := bitsOf (ctxQueues (ctxRec s c)) 64

/-- Queues that run become HELD (R198). -/
def holdQueues (s : State) (c : Nat) : State :=
  ((queuesOf s c).filter (fun q => qState s q == 1)).foldl (fun t q => setQState t q 2) s

/-- A queue runs (R317). -/
def runQueue (s : State) (q : Nat) : State := setQState s q 1

def runQueues (s : State) (c : Nat) : State :=
  ((queuesOf s c).filter (fun q => qState s q == 2)).foldl runQueue s

/-- Windows, sync range and queues are released, and the context is DEFINED. -/
def releaseCtx (s : State) (c : Nat) : State :=
  setCtxState ((queuesOf s c).foldl (fun t q => setQState t q 0) s) c 1

/-! Sync-object state in an image (Table 12.5). -/

/-- A reserved TYPE or a reserved field that is not zero (R197). -/
def objWordBad (w : Nat) : Bool :=
  decide (5 ≤ fld w 2 0) || fld w 31 26 != 0 || fld w 127 71 != 0 || fld w 511 144 != 0

/-- Restore the objects of a context from their 64-byte words. -/
def restoreObjs (s : State) (c : Nat) (word : Nat → Nat) : State :=
  let r := ctxRec s c
  (List.range (syncCount r)).foldl (fun t i => setObj t (syncBase r + i) (objFromWord (word i))) s

def freshObjs (s : State) (c : Nat) : State :=
  let r := ctxRec s c
  (List.range (syncCount r)).foldl (fun t i => setObj t (syncBase r + i) SyncObj.initial) s

/-- Steps of an earlier life of the context are forgotten: the image loaded does not hold them (R197). -/
def dropSteps (s : State) (c : Nat) : State := { s with upd := s.upd.filter (fun e => e.1 / 2 ^ 72 != c) }

/-- The update state of a context as an image's Gwevi area holds it: its steps, and the shards that wait (R165). -/
def noteImage (s : State) (c : Nat) (gwevi : List Byte) : State :=
  { s with images := { ctx := c, gwevi := padTo 0x8000 gwevi, upd := s.upd.filter (fun e => e.1 / 2 ^ 72 == c)
                       buckets := s.buckets.filter (fun b => b.ctx == c && updatePending s b) : SavedImage } :: s.images }

/-- A step from an image, with the bucket norms that have come since it was saved. -/
def rejoin (s : State) (e : Nat × UpdRun) : Nat × UpdRun :=
  (e.1, { e.2 with norms := (updOf s e.1).norms.foldl (fun m x => SMap.put m x.1 x.2) e.2.norms })

/-- Restore the update state that a Gwevi area stands for (R197, R201). A local image is the context's last save, so a step
still in State is that of the image; `all` takes the image's for every step. The operation of a restored shard has ended. An
area that this device has not written restores nothing (log 58). -/
def restoreGwevi (s : State) (c : Nat) (gwevi : List Byte) (all : Bool) : State :=
  match s.images.find? (fun x => x.ctx == c && x.gwevi == gwevi) with
  | none => dropSteps s c
  | some im =>
    let es := if all then im.upd.map (rejoin s) else im.upd.filter (fun e => !SMap.has s.upd e.1)
    let s1 := if all then dropSteps s c else s
    { s1 with
      upd := es.foldl (fun m e => SMap.put m e.1 e.2) s1.upd
      buckets := s1.buckets ++ (im.buckets.filter (fun b =>
        !s1.buckets.any (fun x => x.comm == b.comm && x.seq == b.seq && x.number == b.number))).map
          (fun b => { b with finished := true, areaNum := none, needsArea := false }) }

/-- The context is RESIDENT: its waits are re-evaluated and sync operations that waited for it take effect (R254). -/
def becomeResident (s : State) (c : Nat) : State :=
  let r := ctxRec s c
  let s1 := runQueues (setCtxState { s with syncPoison := setBit s.syncPoison c false } c 3) c
  let s2 := (List.range (syncCount r)).foldl (fun t i => wakeLock (wakeWaits t c (syncBase r + i)) c (syncBase r + i))
    ((s1.waits.filter (fun w => w.owner == c)).foldl recheckWait s1)
  ((s2.ops.filter (fun o => o.kind == .sync && !o.ended && yOwner o.desc.toNat == c)).map Op.tag).foldl trySync s2

/-! LOAD and LOAD_REMOTE. -/

/-- Read from the buddy's slots: an offset from BUDDY_ADDR and a number of lines. -/
def buddyRead (s : State) (c off lines : Nat) : State :=
  let r := ctxRec s c
  match ctxRun s c with
  | none => s
  | some u =>
    request (setRunning s c { u with left := u.left + 1 }) true 0 (cBuddyDev r * 2 ^ 44 + cBuddyAddr r + off) lines ones64 []
      (.ctxImage c u.id off)

/-- A LOAD or LOAD_REMOTE is accepted: everything is held from now on (R196). -/
def acceptLoad (s : State) (c : Nat) (fresh remote : Bool) : State :=
  let r := ctxRec s c
  let s1 := (queuesOf s c).foldl (fun t q => setQState t q 2) (setCtxState s c 2)
  let s2 := beginCmd s1 c (if remote then 6 else 1) (if remote then 2 else 1) fresh
  if remote then buddyRead (buddyRead s2 c (winTotal r) 1) c (imageSize r + winTotal r) 1 else s2

/-- Bytes of the slots as read from the buddy. -/
def buddyByte (u : CtxRun) (off : Nat) : Byte := SMap.get u.remote off 0
def buddyVal (u : CtxRun) (off n : Nat) : Nat := leVal ((List.range n).map (fun j => buddyByte u (off + j)))

/-- Is a slot's commit line valid for context c (R201). -/
def buddyValid (u : CtxRun) (c off : Nat) : Bool := buddyVal u off 4 == 0x4C4F414D && fld (buddyVal u off 8) 37 32 == c

/-- The slot to load: valid, and the higher SEQUENCE when both are. -/
def chooseSlot (u : CtxRun) (r c : Nat) : Option Nat :=
  let c0 := winTotal r
  let c1 := imageSize r + winTotal r
  if buddyValid u c c0 && buddyValid u c c1 then
    some (if buddyVal u (c0 + 8) 8 < buddyVal u (c1 + 8) 8 then 1 else 0)
  else if buddyValid u c c0 then some 0
  else if buddyValid u c c1 then some 1
  else none

/-- Both commit lines have been read: choose a slot and read all of it. -/
def readSlot (s : State) (c : Nat) (u : CtxRun) : State :=
  let r := ctxRec s c
  match chooseSlot u r c with
  | none => endCmd (releaseCtx s c) c 6
  | some k =>
    (linePieces (imageSize r / 64)).foldl (fun t p => buddyRead t c (k * imageSize r + p.1) p.2)
      (setRunning s c { u with slot := k, phase := 3 })

/-- Lines of a slot have come (R201). -/
def ctxImageData (s : State) (c run off : Nat) (body : List Line) : State :=
  match (ctxRun s c).filter (fun u => u.id == run) with
  | none => s
  | some u =>
    let bytes := body.flatMap (fun l => leBytes 64 l.toNat)
    let u1 := { u with left := u.left - 1, remote := putBytes u.remote off bytes }
    let s1 := setRunning s c u1
    if u1.left = 0 then
      (if u.phase = 2 then readSlot s1 c u1 else setRunning s1 c { u1 with phase := 4 })
    else s1

/-- The chunk table of a slot (Table 10.6): CRC of chunk i of the windows. -/
def slotCrcOk (u : CtxRun) (r i : Nat) : Bool :=
  let b := u.slot * imageSize r
  crc64 ((List.range 0x200000).map (fun j => buddyByte u (b + 0x200000 * i + j))) == buddyVal u (b + winTotal r + 0x1000 + 8 * i) 8

/-- The bytes of a slot's chunk go to its window. -/
def placeChunk (s : State) (u : CtxRun) (r i : Nat) : State :=
  match (winList r).find? (fun w => decide (w.2.2 ≤ 0x200000 * i) && decide (0x200000 * i < w.2.2 + w.2.1)) with
  | none => s
  | some w =>
    memWrite s (w.1 + (0x200000 * i - w.2.2)) ((List.range 0x200000).map (fun j => buddyByte u (u.slot * imageSize r + 0x200000 * i + j)))

/-- The end of LOAD_REMOTE: chunks that agree with the slot's table go to the windows; one that does not ends the command
with IMAGE (R201). -/
def finishRemote (s : State) (c : Nat) (u : CtxRun) : State :=
  let r := ctxRec s c
  let chunks := List.range (winTotal r / 0x200000)
  let s1 := (chunks.filter (slotCrcOk u r)).foldl (fun t i => placeChunk t u r i) s
  let word (i : Nat) : Nat := buddyVal u (u.slot * imageSize r + winTotal r + 0x10000 + 64 * i) 64
  if !chunks.all (slotCrcOk u r) || (List.range (syncCount r)).any (fun i => objWordBad (word i)) then
    endCmd (releaseCtx s1 c) c 6
  else
    let area := (List.range 0x8000).map (fun j => buddyByte u (u.slot * imageSize r + winTotal r + 0x8000 + j))
    endCmd (becomeResident (restoreObjs (restoreGwevi s1 c area true) c word) c) c 0

/-- Window bytes of an image whose read met poison: which of the other lines were copied is not stated (R429; log 3). -/
def copySome (s : State) (r : Nat) : State :=
  let l := (winList r).flatMap (fun w => (List.range (w.2.1 / 64)).map (fun j => (cImage r + w.2.2 + 64 * j, w.1 + 64 * j)))
  nextFree (((List.range l.length).zip l).foldl (fun t e =>
    if rangePoisoned s e.2.1 64 || !dmaChoice s e.1 then t else memWriteVal t e.2.2 64 (memVal s e.2.1 64)) s)

/-- The end of LOAD (R197, R429). -/
def finishLoad (s : State) (c : Nat) (fresh : Bool) : State :=
  let r := ctxRec s c
  let word (i : Nat) : Nat := memVal s (syncArea r + 64 * i) 64
  if rangePoisoned s (cImage r) (winTotal r) then endCmd (releaseCtx (copySome s r) c) c 7
  else
    let s1 := (winList r).foldl (fun t w => memCopy t w.1 (cImage r + w.2.2) w.2.1) s
    if fresh then endCmd (becomeResident (freshObjs (dropSteps s1 c) c) c) c 0
    else if rangePoisoned s (ctlArea r) 0x50000 then endCmd (releaseCtx s1 c) c 7
    else if (List.range (syncCount r)).any (fun i => objWordBad (word i)) then endCmd (releaseCtx s1 c) c 6
    else
      let area := memRead s (ctlArea r + 0x8000) 0x8000
      endCmd (becomeResident (restoreObjs (restoreGwevi s1 c area false) c word) c) c 0

/-- LOAD_COMPLETE: the copy ends (R197, R201). Copies are frozen in a stop (R202). -/
def execLoadComplete (c : CtxId) (s : State) : Out :=
  .next (match ctxRun s c.val with
    | none => s
    | some u =>
      if stopped s || !clockOn s then s
      else if u.cmd = 1 then finishLoad s c.val u.fresh
      else if u.cmd = 6 && u.phase = 4 then finishRemote s c.val u
      else s)

/-! PREEMPT and CHECKPOINT. -/

/-- An own WAIT or ACQUIRE that has not completed is withdrawn: it stands at the head of its queue again (R254). -/
def withdraw (s : State) (w : WaitReq) : State :=
  match w.engine, findOp s w.tag with
  | none, some o =>
    let n := qSize (qCfg s o.queue)
    let s1 := { dropWait s w with ops := s.ops.filter (fun x => x.tag != w.tag) }
    bset s1 (qHeadOff o.queue) ((qHead s1 o.queue + n - 1) % n)
  | _, _ => s

def withdrawAll (s : State) (c : Nat) : State := (s.waits.filter (fun w => w.ctx == c)).foldl withdraw s

/-- PREEMPT or CHECKPOINT is accepted: the queues are held, and the context leaves RESIDENT, so its pending checks are dropped
(R198, R200, R202). -/
def acceptSave (s : State) (c cmd : Nat) : State :=
  let s1 := holdQueues s c
  let s2 := discardChecks (if cmd = 2 then withdrawAll s1 c else s1) c
  beginCmd (setCtxState s2 c (if cmd = 2 then 4 else 5)) c cmd 0 false

/-- The remote copy of a checkpoint ends: the context is RESIDENT again, and a save that waited for it begins (R202). -/
def endCopy (s : State) (c st : Nat) : State :=
  let waiting := (ctxRun s c).bind CtxRun.next
  let s1 := endCmd (setCtxState s c 3) c st
  match waiting with
  | none => s1
  | some cmd => acceptSave s1 c cmd

/-- No operation of the context is in flight. -/
def workEnded (s : State) (c : Nat) : Bool := s.ops.all (fun o => o.ctx != c || o.ended)

/-- Nothing of the context is in flight but RSUG buckets whose shard is reduced: the rest of their update is saved with the
context and goes on after its load (R165). -/
def onlyUpdatesLeft (s : State) (c : Nat) : Bool :=
  s.ops.all (fun o => o.ctx != c || o.ended ||
    (match bucketOf s o.tag with
      | none => false
      | some b => dOpcode o.desc.toNat == 0x23 && !b.updated && shardDone (commRec s b.comm) b))

/-- Write the image (Table 10.6): windows, control area, sync-object state. -/
def writeImage (s : State) (c : Nat) (gwevi : List Byte) : State :=
  let r := ctxRec s c
  let s1 := (winList r).foldl (fun t w => memCopy t (cImage r + w.2.2) w.1 w.2.1) s
  let s2 := memZero s1 (ctlArea r) 0x50000
  let s3 := (List.range (winTotal r / 0x200000)).foldl (fun t i =>
    memWriteVal t (ctlArea r + 0x1000 + 8 * i) 8 (crc64 (memRead s1 (cImage r + 0x200000 * i) 0x200000))) s2
  let s4 := memWrite s3 (ctlArea r + 0x8000) (padTo 0x8000 gwevi)
  (List.range (syncCount r)).foldl (fun t i => memWriteVal t (syncArea r + 64 * i) 64 (objWord s (syncBase r + i)).toNat) s4

/-- Address of the buddy's slot in use by a checkpoint. -/
def slotAddrOf (s : State) (c slot : Nat) : Nat :=
  let r := ctxRec s c
  cBuddyDev r * 2 ^ 44 + cBuddyAddr r + slot * imageSize r

/-- A write of the remote copy. -/
def buddyWrite (s : State) (c addr : Nat) (body : List Line) (p : Purpose) : State :=
  match ctxRun s c with
  | none => s
  | some u => request (setRunning s c { u with left := u.left + 1 }) false 0 addr body.length ones64 body p

/-- The hold is released and the remote copy begins: the commit line of the slot not used last is cleared first (R200). -/
def startRemoteCopy (s : State) (c : Nat) : State :=
  let r := ctxRec s c
  let k := reg s (0x4100 + c) 4 % 2
  match ctxRun s c with
  | none => s
  | some u =>
    let s1 := runQueues s c
    buddyWrite (setRunning s1 c { u with phase := 2, slot := k }) c (slotAddrOf s1 c k + winTotal r) [0] (.ckptClear c u.id)

/-- Every line of the image but the commit line goes to the slot, control area last. -/
def sendImage (s : State) (c run slot : Nat) : State :=
  let r := ctxRec s c
  let body := winTotal r / 64
  let parts := (linePieces body).map (fun p => (p.1, p.2))
    ++ (linePieces (0x40000 / 64)).map (fun p => (winTotal r + 0x10000 + p.1, p.2))
    ++ [(winTotal r + 64, 63)]
    ++ (linePieces (0x10000 / 64 - 64)).map (fun p => (winTotal r + 4096 + p.1, p.2))
  parts.foldl (fun t p =>
    buddyWrite t c (slotAddrOf t c slot + p.1) (linesAt t (cImage r + p.1) p.2) (.ckptImage c run)) s

/-- The commit line (Table 10.9). -/
def commitLine (s : State) (c : Nat) : Line :=
  BitVec.ofNat 512 (0x4C4F414D + c * 2 ^ 32 + (reg s (0x4100 + c) 4 + 1) % 2 ^ 64 * 2 ^ 64 + devNum s * 2 ^ 128)

/-- A write of the remote copy has been acknowledged (R200). A poisoned or lost line of the image stops the copy (R429). -/
def ckptAcked (s : State) (c run : Nat) : State :=
  match (ctxRun s c).filter (fun u => u.id == run) with
  | none => s
  | some u =>
    let u1 := { u with left := u.left - 1 }
    let s1 := setRunning s c u1
    if u.cmd != 3 || u1.left != 0 then s1
    else if u.phase = 2 then
      (if rangePoisoned s (cImage (ctxRec s c)) (imageSize (ctxRec s c)) then endCopy s1 c 7
       else sendImage (setRunning s1 c { u1 with phase := 3 }) c run u.slot)
    else if u.phase = 3 then
      buddyWrite (setRunning s1 c { u1 with phase := 4 }) c (slotAddrOf s c u.slot + winTotal (ctxRec s c)) [commitLine s c]
        (.ckptCommit c run)
    else setRunning s1 c { u1 with phase := 5 }

/-- IMAGE_SAVED: the image write of a PREEMPT or CHECKPOINT ends (R198, R200, R429). -/
def execImageSaved (c : CtxId) (gwevi : List Byte) (s : State) : Out :=
  .next (match ctxRun s c.val with
    | none => s
    | some u =>
      let r := ctxRec s c.val
      if stopped s || !clockOn s || !(u.cmd == 2 || u.cmd == 3) || u.phase != 0 || !onlyUpdatesLeft s c.val then s
      else
        let bad := (winList r).any (fun w => rangePoisoned s w.1 w.2.1) || rangeLost s (cImage r) (imageSize r)
        let s1 := if bad then setReg s (0x4100 + c.val) 5 0 else setReg (noteImage (writeImage s c.val gwevi) c.val gwevi) (0x4100 + c.val) 5 1
        if u.cmd = 2 then
          endCmd (releaseCtx (discardChecks s1 c.val) c.val) c.val (if bad then 7 else 0)
        else if bad then endCmd (setCtxState (runQueues s1 c.val) c.val 3) c.val 7
        else startRemoteCopy s1 c.val)

/-- CHECKPOINT_COMMITTED: the commit line has been acknowledged (R200). -/
def execCheckpointCommitted (c : CtxId) (s : State) : Out :=
  .next (match ctxRun s c.val with
    | none => s
    | some u =>
      if clockOn s && u.cmd == 3 && u.phase == 5 then endCopy (bump s (0x4100 + c.val) 4) c.val 0 else s)

/-- A remote request of a context command ended by NAK or TIMEOUT: FABRIC (Table 10.8). -/
def ctxFailed (s : State) (c run : Nat) : State :=
  match (ctxRun s c).filter (fun u => u.id == run) with
  | none => s
  | some u =>
    if u.cmd = 6 then endCmd (releaseCtx s c) c 5
    else if u.cmd = 3 then endCopy s c 5
    else s

/-- A hardware error stops a context command (R429): which lines a LOAD had copied, and what a save had written of the image,
is not stated (log 3, log 39). -/
def faultCmd (s : State) (c : Nat) : State :=
  let r := ctxRec s c
  match ctxRun s c with
  | none => s
  | some u =>
    if u.cmd = 1 then endCmd (releaseCtx (copySome s r) c) c 7
    else if u.cmd = 6 then endCmd (releaseCtx s c) c 7
    else if u.phase != 0 then endCopy s c 7
    else
      let s1 := setReg (leaveOpen s (cImage r) (imageSize r)) (0x4100 + c) 5 0
      if u.cmd = 2 then endCmd (releaseCtx (discardChecks s1 c) c) c 7
      else endCmd (setCtxState (runQueues s1 c) c 3) c 7

/-! RESET (R199, R253, R318). -/

/-- Requests on the context's objects end with ABANDONED, its own with CONTEXT_RESET (R253). -/
def resetWaits (s : State) (c : Nat) : State :=
  let s1 := (s.waits.filter (fun w => w.ctx == c)).foldl (fun t w => endWait t w stContextReset) s
  (s1.waits.filter (fun w => w.owner == c)).foldl (fun t w => countAbandoned (endWait t w stAbandoned)) s1

/-- An operation in flight stops with a status. -/
def stopWork (st : Nat) (s : State) (tag : Nat) : State :=
  match findOp s tag with
  | none => s
  | some o =>
    if o.ended then s
    else match o.kind with
      | .matrix | .vector | .dma => stopOp s o st
      | .sync => endSync s tag st
      | .coll =>
        match bucketOf s tag with
        | none => endOp s tag st
        | some b => finishBucket s b st

def poisonObjs (s : State) (c : Nat) : State :=
  let r := ctxRec s c
  (List.range (syncCount r)).foldl (fun t i =>
    setObj t (syncBase r + i) { objOf t (syncBase r + i) with poisoned := true }) s

/-- Is a purpose that of a context's command. -/
def ofContext (c : Nat) : Purpose → Bool
  | .ctxImage d _ _ => d == c
  | .ckptClear d _ => d == c
  | .ckptImage d _ => d == c
  | .ckptCommit d _ => d == c
  | .dmaRead .. | .dmaWrite _ | .portRead _ | .portWrite _ | .hostDma _ | .lineRead .. | .lineWrite _ => false

/-- Stop a context: operations, sync objects, queues, copies and holdings (R199). -/
def resetContext (s : State) (c : Nat) : State :=
  let saving := match ctxRun s c with
    | none => false
    | some u => (u.cmd == 2 || u.cmd == 3) && u.phase == 0
  let held := ctxHolds s c
  let s1 := resetWaits s c
  let s2 := announceStops (((s1.ops.filter (fun o => o.ctx == c)).map Op.tag).foldl (stopWork stContextReset) s1)
  let s3 := (stepsOf (discardChecks s2 c) c).foldl (fun t k => writeNorm t k stContextReset) (discardChecks s2 c)
  let s4 := if held then poisonObjs s3 c else s3
  let s5 := if held then returnQueues s4 c else s4
  let s6 := dropUnsent { s5 with ctxs := SMap.drop s5.ctxs c, syncPoison := setBit s5.syncPoison c true } (ofContext c)
  let s7 := if saving then setReg s6 (0x4100 + c) 5 0 else s6
  setCtxState s7 c 1

/-- A PREEMPT or CHECKPOINT that R202 accepts while a checkpoint's remote copy still runs. -/
def savesBehind (s : State) (c op : Nat) : Bool :=
  (op == 2 || op == 3) && (match ctxRun s c with
    | none => false
    | some u => u.cmd == 3 && u.phase != 0 && u.next.isNone)

/-- One context command (R195, R196); BUSY during the scrub, and in BRINGUP and FAILED (R414). -/
def contextCmd (s : State) (c op : Nat) (fresh : Bool) : State :=
  let st := ctxState s c
  if scrubbing s || startState s == 4 || startState s == 5 then announceCmd s c 1
  else if op = 4 then (if st = 0 then announceCmd s c 1 else announceCmd (resetContext s c) c 0)
  else if savesBehind s c op then
    { holdQueues s c with ctxs := mapIf (fun e => e.1 == c) (fun e => (e.1, { e.2 with next := some op })) s.ctxs }
  else if SMap.has s.ctxs c then announceCmd s c 1
  else if op = 1 || op = 6 then
    (if st != 1 then announceCmd s c 1
     else if loadCheck s c fresh (op == 6) ≠ 0 then announceCmd s c (loadCheck s c fresh (op == 6))
     else acceptLoad s c fresh (op == 6))
  else if op = 5 then (if st != 1 then announceCmd s c 1 else announceCmd (setCtxState s c 0) c 0)
  else if st != 3 then announceCmd s c 1
  else acceptSave s c op

/-- The value of CONTEXT_CMD. -/
def cmdValue (c op : Nat) (fresh : Bool) : Nat := c + op * 2 ^ 8 + b2n fresh * 2 ^ 12

/-- A write that is no command fails with RANGE (R195). -/
def cmdBad (v : Nat) : Bool :=
  fld v 11 8 == 0 || decide (7 ≤ fld v 11 8) || fld v 7 6 != 0 || fld v 31 13 != 0 || (v.testBit 12 && fld v 11 8 != 1)

def preContextCmd (v : Nat) (_ : State) : Nat := if cmdBad v then dRange else dOk

def effContextCmd (v : Nat) (s : State) : State := contextCmd s (fld v 5 0) (fld v 11 8) (v.testBit 12)

/-- A write of CONTEXT_CMD. -/
def writeCmd (s : State) (p : Path) (v : Nat) : Out := guarded s p 0x4010 1 4 v (preContextCmd v) (effContextCmd v)

def execLoad (p : Path) (c : CtxId) (fresh : Bool) (s : State) : Out := writeCmd s p (cmdValue c.val 1 fresh)
def execPreempt (p : Path) (c : CtxId) (s : State) : Out := writeCmd s p (cmdValue c.val 2 false)
def execCheckpoint (p : Path) (c : CtxId) (s : State) : Out := writeCmd s p (cmdValue c.val 3 false)
def execReset (p : Path) (c : CtxId) (s : State) : Out := writeCmd s p (cmdValue c.val 4 false)
def execDelete (p : Path) (c : CtxId) (s : State) : Out := writeCmd s p (cmdValue c.val 5 false)
def execLoadRemote (p : Path) (c : CtxId) (s : State) : Out := writeCmd s p (cmdValue c.val 6 false)

/-! The owner-change scrub (R203). -/

/-- Steps 1 to 3 at the start: contexts reset and freed, communicators and staged values dropped, and every slotted area released
(R222). -/
def startScrub (s : State) : State :=
  let s1 := ((List.range 64).filter (fun c => ctxState s c != 0)).foldl resetContext s
  let s2 := (List.range 64).foldl (fun t c => setReg (setCtxState t c 0) (0x4100 + c) 1 0) s1
  let s3 := ((List.range 256).filter (commActive s2)).foldl (fun t c => setReg (dropComm t c) (0x7100 + c) 2 0) s2
  let s4 := (s3.hbm.areas.map Prod.fst).foldl releaseArea s3
  setReg (discardStaged s4) 0x4002 2 1

def effScrubStart (v : Nat) (s : State) : State := if v = 1 && !scrubbing s then startScrub s else s

def execScrubStart (p : Path) (v : Byte) (s : State) : Out :=
  guarded s p 0x4002 1 1 v.toNat freely (effScrubStart v.toNat)

/-- Steps 4 to 6: memory, sync objects, the sieve's entries, learned powers and the caches. -/
def endScrub (s : State) : State :=
  let s1 := memZero (memZero s loamBase (loamEnd - loamBase)) 0 gweviBase
  let s2 := (List.range 64).foldl clearCtxEntries s1
  let s3 := { s2 with sync := [], syncPoison := 0, rtCache := [], rrCache := [], reservations := [],
                      fab := { s2.fab with reqs := s2.fab.reqs.map noFill } }
  notify (raise (setReg s3 0x4002 2 2) (src 6 7)) 3 0x4002 2 [2]

def execScrubDone (s : State) : Out := .next (if clockOn s && scrubbing s && !stopped s then endScrub s else s)

/-! The patrol scrub (R396). -/

def scrubPaused (s : State) (hbm : Bool) : Bool :=
  stopped s || reg s 0x3300 1 == 3 || (!hbm && reg s 0x3300 1 == 2) || (if hbm then reg s 0x8000 7 == 0 else reg s 0x8000 6 == 0)

def execPatrolScrubRead (hbm : Bool) (e0 e1 : EccResult) (s : State) : Out :=
  .next (if !clockOn s || startState s != 3 || scrubPaused s hbm then s
    else if hbm then
      let a := s.rel.hbmScrubAt
      let s1 := lineChecks s (64 * a) e0 e1
      { s1 with rel := { s1.rel with hbmScrubAt := (a + 1) % (hbmEnd / 64) } }
    else
      let a := s.rel.loamScrubAt
      let s1 := lineChecks s (loamBase + 64 * a) e0 e1
      { s1 with rel := { s1.rel with loamScrubAt := (a + 1) % (0x180000000 / 64) } })

end Sys2Proof.Machine
end

