-- ==== Sys2Proof/Machine/Hbm.lean ====
section
/-! DEFINITION. HBM (ch. 11): stack links, slot tables, adds and slotted areas, refresh, repair, calibration, margining
and the traffic generators. -/

namespace Sys2Proof.Machine

/-! Stack links (R207). -/

/-- The request that a link fault concerns ends with HW_FAULT. -/
def faultUser (s : State) : LinkUser → State
  | .operation tag => stopWork stHwFault s tag.val
  | .command c => faultCmd s c.val
  | .access ag addr => emit s (.hwFault ag addr.toNat)

/-- A transfer fails its CRC and is replayed; the sixteenth failure of one transfer in a row is a link fault, and ends the
request concerned. -/
def execStackLinkReplay (k : StackId) (x : Transfer) (wire : BitVec 11) (s : State) : Out :=
  .next (if clockOn s then
    let s1 := bump s 0x5000 6
    let n := if SMap.get s.hbm.replayOf k.val 0 = x.number + 1 then SMap.get s.hbm.replayCount k.val 0 + 1 else 1
    let s2 := { s1 with hbm := { s1.hbm with
      replayOf := SMap.set s1.hbm.replayOf k.val (if n = 16 then 0 else x.number + 1) 0
      replayCount := SMap.set s1.hbm.replayCount k.val (if n = 16 then 0 else n) 0 } }
    if n = 16 then
      faultUser (logEvent s2 { Event.plain 5 1 (12 + k.val) wire.toNat with
        srcs := [src 8 k.val], tests := [(.stackLink, 12 + k.val, wire.toNat)] }) x.user
    else s2
  else s)

/-! Slot tables (R213 to R215). -/

/-- A channel group adopts a committed bandwidth mode; with the last of the 80 the unit's mode is APPLIED (R215). -/
def adoptMode (s : State) (cg : Nat) : State :=
  let v := SMap.get s.frames.staged (dkey 0x5000 1) 0
  if modeState s 0 = 2 && v != 0 && !s.hbm.wrapped.contains cg then
    let s1 := { s with hbm := { s.hbm with
      freeMode := SMap.set s.hbm.freeMode cg (v == 2) false
      wrapped := cg :: s.hbm.wrapped } }
    if s1.hbm.wrapped.length = 80 then
      let s2 := setReg { s1 with
        hbm := { s1.hbm with wrapped := [] }
        frames := { s1.frames with staged := SMap.set s1.frames.staged (dkey 0x5000 1) 0 0 } } 0x5000 1 (v - 1)
      returnApplied s2 0
    else s1
  else s

/-- A group's table wraps from slot 63 to slot 0 (R214). -/
def execSlotTableWrap (cg : GroupId) (s : State) : Out :=
  .next (if clockOn s then
    let i := 0x5100 + cg.val
    let s1 := { s with hbm := { s.hbm with slotIdx := SMap.set s.hbm.slotIdx cg.val 0 0 } }
    let s2 := if reg s1 i 3 = 1 then setReg (setReg s1 i 2 (reg s1 i 1)) i 3 0 else s1
    adoptMode s2 cg.val
  else s)

/-- Which classes have a request ready at a channel group. -/
structure HbmReady where
  lcRead  : Bool
  lcWrite : Bool
  reduce  : Bool
  bulk    : Bool
  test    : Bool

/-- The class of a request (Table 11.2): 1 LC read, 2 LC write, 3 REDUCE, 4 BULK, 5 TEST. -/
def requestClass : HbmRequest → Nat
  | .cacheMiss => 1
  | .loamDma lc write => if lc then (if write then 2 else 1) else 4
  | .bar4 write => if write then 2 else 1
  | .inboundRead lc => if lc then 1 else 4
  | .inboundWrite | .contextCopy | .hostDataPort | .hostDma => 4
  | .arrivalAdd | .slotWrite | .slottedFold => 3
  | .trafficGenerator | .margining | .patrolScrub => 5

/-- The HBM request rate of a channel group, in 1/64: the device's, multiplied by the stack's limit (R216, R379). -/
def hbmRateOf (s : State) (cg : Nat) : Nat := s.power.hbmRate * SMap.get s.power.stackLimit (cg / 4) 64 / 64

/-- Does slot i of a table serve the paced classes (R216). Of the slots with one code every class keeps the paced share, so
that a class keeps its floor as a share of the paced rate; how the slots are spread is not stated (log 20). -/
def slotServes (table rate i : Nat) : Bool :=
  let j := ((List.range i).filter (fun k => fld table (2 * k + 1) (2 * k) == fld table (2 * i + 1) (2 * i))).length
  decide (j * rate / 64 < (j + 1) * rate / 64)

/-- The classes that have a request ready in slot i; LC, BULK and TEST wait while they are paced, REDUCE never does. -/
def classesReady (s : State) (cg i : Nat) (l : List HbmRequest) : HbmReady :=
  let any := fun (k : Nat) => l.any (fun r => requestClass r == k)
  let table := if SMap.get s.hbm.freeMode cg false then 0 else reg s (0x5100 + cg) 2
  let open_ := slotServes table (hbmRateOf s cg) i
  { lcRead := open_ && any 1, lcWrite := open_ && any 2, reduce := any 3, bulk := open_ && any 4, test := open_ && any 5 }

/-- The class a slot grants in priority mode: 1 LC read, 2 LC write, 3 REDUCE, 4 BULK, 5 TEST, 0 none (R213). -/
def priorityGrant (code : Nat) (r : HbmReady) : Nat :=
  if code = 1 && r.bulk then 4
  else if code = 2 && r.reduce then 3
  else if code = 3 && r.test then 5
  else if r.lcRead then 1
  else if r.lcWrite then 2
  else if r.reduce then 3
  else if r.bulk then 4
  else if r.test then 5
  else 0

/-- Has a class of the free mode's turn (LC, BULK, REDUCE, TEST) work ready. -/
def turnReady (r : HbmReady) (k : Nat) : Bool :=
  if k = 0 then r.lcRead || r.lcWrite else if k = 1 then r.bulk else if k = 2 then r.reduce else r.test

/-- What the class of a turn grants; LC reads come before LC writes. -/
def turnGrant (r : HbmReady) (k : Nat) : Nat :=
  if k = 0 then (if r.lcRead then 1 else 2) else if k = 1 then 4 else if k = 2 then 3 else 5

/-- One slot of 16 ns grants a request (R213). The slot after number 63 is slot 0, once the table has wrapped. -/
def execHbmSlotGrant (cg : GroupId) (ready : List HbmRequest) (s : State) : Out :=
  .next (
    let i := SMap.get s.hbm.slotIdx cg.val 0
    let r := classesReady s cg.val i ready
    if clockOn s && !s.hbm.selfRefresh && decide (i < 64) then
      let t := SMap.get s.hbm.turn cg.val 0
      let next := ((List.range 4).map (fun j => (t + j) % 4)).find? (turnReady r)
      let free := SMap.get s.hbm.freeMode cg.val false
      let g := if free then (match next with
          | none => 0
          | some k => turnGrant r k)
        else priorityGrant (fld (reg s (0x5100 + cg.val) 2) (2 * i + 1) (2 * i)) r
      let t' := if free then (match next with
          | none => t
          | some k => (k + 1) % 4)
        else t
      { s with hbm := { s.hbm with
        slotIdx := SMap.set s.hbm.slotIdx cg.val (i + 1) 0
        turn := SMap.set s.hbm.turn cg.val t' 0
        lastGrant := SMap.set s.hbm.lastGrant cg.val g 0 } }
    else s)

/-- The shadow changes and a swap is pending (R214). -/
def effSlotShadow (cg v : Nat) (s : State) : State := setReg (setReg s (0x5100 + cg) 1 v) (0x5100 + cg) 3 1

def execSlotShadow (p : Path) (cg : GroupId) (v : BitVec 128) (s : State) : Out :=
  guarded s p (0x5100 + cg.val) 1 16 v.toNat freely (effSlotShadow cg.val v.toNat)

def effSlotAll (v : Nat) (s : State) : State := (List.range 80).foldl (fun t cg => effSlotShadow cg v t) s

def execSlotAll (p : Path) (v : BitVec 128) (s : State) : Out :=
  guarded s p 0x5000 0x0B 16 v.toNat freely (effSlotAll v.toNat)

/-! Adds (R218 to R222). -/

/-- May an add of this agent reach the address: HBM, and the Gwevi region for the control cores alone (R210, R219). -/
def addReaches (ag : Agent) (a : Nat) : Bool := inHbm a && lineReaches ag a

/-- An arrival add: one of the five formats of Table 11.4 at an HBM line. -/
def execArrivalAdd (ag : Agent) (addr : LocalAddr) (fmt : Fin 8) (data : Line) (mask : BitVec 64) (s : State) : Out :=
  let a := addr.toNat
  .next (if !clockOn s || 5 ≤ fmt.val || memHeld s a then s
    else if !addReaches ag a then emit (logUnassigned s a none 0) (.addressError ag a)
    else if rangeLost s a 1 then emit s (.hwFault ag a)
    else arrivalLine s a fmt.val data mask)

/-- A slot write: into the slots of a registered area, in the area's format. -/
def execSlotWrite (ag : Agent) (addr : LocalAddr) (fmt : Fin 8) (data : Line) (mask : BitVec 64) (s : State) : Out :=
  let a := addr.toNat
  .next (if !clockOn s || 5 ≤ fmt.val || memHeld s a then s
    else if !addReaches ag a then emit (logUnassigned s a none 0) (.addressError ag a)
    else if rangeLost s a 1 then emit s (.hwFault ag a)
    else match areaAt s a with
      | none => emit s (.addressError ag a)
      | some n => if aFmt (areaOf s n).reg.toNat = fmt.val then slotLine s n a data mask else emit s (.addressError ag a))

/-- The collective engine registers an area on all twenty base dies, or on none (R220). -/
def execAreaRegistration (r : BitVec 512) (s : State) : Out := .next (if clockOn s then registerArea s r else s)

/-- Folded target lines of an area. -/
def foldedLines (s : State) (n : Nat) : Nat :=
  (s.hbm.folded.filter (fun e => decide (akey n 0 ≤ e.1) && decide (e.1 < akey (n + 1) 0))).length

/-- AREA_DONE: every target line of the area is complete on every base die, and the collective engine receives the area's
number with the summed counts (R222). -/
def execAreaDone (n : Fin 16) (s : State) : Out :=
  .next (
    let ar := areaOf s n.val
    if clockOn s && SMap.has s.hbm.areas n.val && !ar.doneReported
        && foldedLines s n.val == 80 * aLength ar.reg.toNat then
      { s with hbm := { s.hbm with
        areas := SMap.put s.hbm.areas n.val { ar with doneReported := true }
        areaReports := SMap.put s.hbm.areaReports n.val (ar.ovfl, ar.nan) } }
    else s)

def execAreaRelease (n : Fin 16) (s : State) : Out := .next (if clockOn s then releaseArea s n.val else s)

/-! Refresh and repair (R224, R225). -/

/-- A per-bank refresh; none comes from the base die in self-refresh. -/
def execRefresh (k : StackId) (pc bank : Fin 64) (s : State) : Out :=
  .next (if clockOn s && !s.hbm.selfRefresh then
    { s with hbm := { s.hbm with
      lastRefresh := SMap.set s.hbm.lastRefresh ((k.val * 64 + pc.val) * 64 + bank.val) (now s + 1) 0 } }
  else s)

/-- Key of the bank group a row lies in: its bank modulo 4 (R206). -/
def bankGroupKey (r : HbmRow) : Nat := r.stack.val * 256 + r.pc.val * 4 + r.bank.val % 4

/-- Free hard-repair resources of a bank group. -/
def hpprFree (s : State) (k : Nat) : Nat := Config.hpprFused k - SMap.get s.fuses.hpprUsed k 0

/-- HPPR_FREE of a stack. -/
def hpprFreeOf (s : State) (st : Nat) : Nat := ((List.range 256).map (fun j => hpprFree s (st * 256 + j))).sum

/-- Has a bank group too few resources for the soft repairs in effect. -/
def hpprLacking (s : State) : Bool :=
  s.hbm.sppr.any (fun r => decide (hpprFree s (bankGroupKey r)
    < (s.hbm.sppr.filter (fun x => bankGroupKey x == bankGroupKey r)).length))

/-- Not while a context holds its windows; with a resource missing the write fails (R225; the code is a choice, log 41). -/
def prePprBurn (v : Nat) (s : State) : Nat :=
  if v != 1 then dOk
  else if heldContexts s != [] then dQuiesce
  else if hpprLacking s then dConflict
  else dOk

/-- Every active soft repair is being burnt. -/
def effPprBurn (v : Nat) (s : State) : State :=
  if v = 1 then { s with hbm := { s.hbm with burning := s.hbm.sppr } } else s

def execPprBurn (p : Path) (v : Byte) (s : State) : Out :=
  guarded s p 0x5000 0x0A 1 v.toNat (prePprBurn v.toNat) (effPprBurn v.toNat)

/-- The number a row has in the list of hard repairs. -/
def rowNumber (r : HbmRow) : Nat := ((r.stack.val * 64 + r.pc.val) * 64 + r.bank.val) * 16384 + r.row.val

/-- The burns end: each repair is fused and frees its bank's soft-repair resource. -/
def execPprBurnComplete (s : State) : Out :=
  .next (if clockOn s then
    let l := s.hbm.burning
    let used := l.foldl (fun m r => SMap.upd m (bankGroupKey r) 0 (· + 1)) s.fuses.hpprUsed
    let s1 := { s with
      fuses := { s.fuses with hpprUsed := used, hardRows := s.fuses.hardRows ++ l.map rowNumber }
      hbm := { s.hbm with sppr := s.hbm.sppr.filter (fun r => !l.contains r), burning := [] } }
    (List.range 20).foldl showSppr s1
  else s)

/-! Calibration (R226). -/

/-- Has the stack been trained, and does it take requests. -/
def stackLive (s : State) (k : Nat) : Bool := clockOn s && reg s (0x5020 + k) 5 == 1 && !s.hbm.selfRefresh

/-- A read-phase update, at most once in 10 us for a pseudo-channel. -/
def execReadPhaseUpdate (k : StackId) (pc : Fin 64) (s : State) : Out :=
  .next (
    let last := SMap.get s.hbm.lastPhase (k.val * 64 + pc.val) 0
    if stackLive s k.val && (last == 0 || decide (last - 1 + 10000 ≤ now s)) then
      { s with hbm := { s.hbm with lastPhase := SMap.set s.hbm.lastPhase (k.val * 64 + pc.val) (now s + 1) 0 } }
    else s)

/-- A write retrain, once in every 1 ms for a channel. -/
def execWritePathRetrain (k : StackId) (ch : Fin 32) (s : State) : Out :=
  .next (
    let last := SMap.get s.hbm.lastRetrain (k.val * 32 + ch.val) 0
    if stackLive s k.val && (last == 0 || decide (last - 1 + 1000000 ≤ now s)) then
      { s with hbm := { s.hbm with lastRetrain := SMap.set s.hbm.lastRetrain (k.val * 32 + ch.val) (now s + 1) 0 } }
    else s)

/-! Margining (R228, R230). -/

/-- The owner of a stack's pattern checker (2030h:2B on): 3 MARGIN, 4 TGEN. -/
def checkerOwner (s : State) (k : Nat) : Nat := reg s 0x2030 (0x2B + k)

/-- On channel group 0 the checker must be free or held by MARGIN; a refused start changes no state. -/
def preMargin (cg v : Nat) (s : State) : Nat :=
  if v % 16 != 0 && cg % 4 == 0 && checkerOwner s (cg / 4) == 4 then dConflict else dOk

/-- A run of the ways in `v` starts; a start while one runs adds its ways to it. -/
def effMargin (cg v : Nat) (s : State) : State :=
  if v % 16 = 0 then s
  else
    let s1 := { s with hbm := { s.hbm with
      marginWhat := SMap.set s.hbm.marginWhat cg (SMap.get s.hbm.marginWhat cg 0 ||| v % 16) 0 } }
    let s2 := setReg s1 (0x5300 + cg) 2 1
    if cg % 4 = 0 then setReg s2 0x2030 (0x2B + cg / 4) 3 else s2

def marginStart (s : State) (p : Path) (cg : GroupId) (v : Nat) : Out :=
  guarded s p (0x5300 + cg.val) 1 4 v (preMargin cg.val v) (effMargin cg.val v)

def execMarginReadTiming (p : Path) (cg : GroupId) (s : State) : Out := marginStart s p cg 1
def execMarginReadVoltage (p : Path) (cg : GroupId) (s : State) : Out := marginStart s p cg 2
def execMarginWriteTiming (p : Path) (cg : GroupId) (s : State) : Out := marginStart s p cg 4
def execMarginWriteVoltage (p : Path) (cg : GroupId) (s : State) : Out := marginStart s p cg 8

/-- Line k, in ascending address, of the lines of a channel group (R209): 64 of them in each 1,280 granules. -/
def groupLine (cg k : Nat) : Nat :=
  let w := k / 64
  let u := 16 * (cg % 4 ^^^ w % 64 / 16) + k % 64 / 4
  ((w * 64 + u) * 20 + cg / 4) * 256 + 64 * (k % 4)

/-- How many lines of the group lie below an address. -/
def linesBelow (cg a : Nat) : Nat :=
  a / 327680 * 64 + ((List.range 64).filter (fun i => decide (groupLine cg (a / 327680 * 64 + i) < a))).length

/-- Test patterns written to lines: what the lines hold afterwards is not stated (log 3). -/
def scribble (s : State) (lines : List Nat) : State :=
  nextFree (((List.range lines.length).zip lines).foldl (fun t e =>
    writeLine t e.2 (BitVec.ofNat 512 (Config.freeValue s.freeCtr / 2 ^ (512 * e.1))) (BitVec.allOnes 128)) s)

/-- The lines of a group in the Gwevi region that a write-margin run wrote: which is not stated (log 3). -/
def marginLines (s : State) (cg : Nat) : List Nat :=
  let k0 := linesBelow cg gweviBase
  ((List.range (linesBelow cg hbmEnd - k0)).filter (fun i => (Config.freeValue s.freeCtr).testBit i)).map
    (fun i => groupLine cg (k0 + i))

/-- One field of a result: the smaller of the two sides when both were margined in the run, the side margined, or what the
field held. -/
def marginField (read write : Bool) (old r w : Nat) : Nat :=
  if read && write then min r w else if read then r else if write then w else old

/-- A MARGIN_RESULT after a run of the ways `w` (Table 11.6): timing fields by ways 0 and 2, voltage fields by 1 and 3. -/
def marginResult (w old r x : Nat) : Nat :=
  let f := fun (hi lo : Nat) (t v : Bool) => marginField t v (fld old hi lo) (fld r hi lo) (fld x hi lo)
  f 7 0 (w.testBit 0) (w.testBit 2) + f 15 8 (w.testBit 0) (w.testBit 2) * 2 ^ 8
    + f 23 16 (w.testBit 1) (w.testBit 3) * 2 ^ 16 + f 31 24 (w.testBit 1) (w.testBit 3) * 2 ^ 24

/-- A run ends: its sixteen results, DONE, and the checker free (R228, Table 11.6). -/
def execMarginRunDone (cg : GroupId) (sides : MarginSides) (s : State) : Out :=
  .next (if clockOn s && reg s (0x5300 + cg.val) 2 == 1 then
    let w := SMap.get s.hbm.marginWhat cg.val 0
    let s0 := if 4 ≤ w then scribble (nextFree s) (marginLines s cg.val) else s
    let s1 := (List.range 16).foldl (fun t i => setReg t (0x5300 + cg.val) (3 + i)
      (marginResult w (reg s (0x5300 + cg.val) (3 + i)) (sides.read.getD i 0).toNat (sides.write.getD i 0).toNat)) s0
    let s2 := setReg { s1 with hbm := { s1.hbm with marginWhat := SMap.set s1.hbm.marginWhat cg.val 0 0 } }
      (0x5300 + cg.val) 2 2
    let s3 := if cg.val % 4 = 0 then setReg s2 0x2030 (0x2B + cg.val / 4) 0 else s2
    raise s3 (src 9 20)
  else s)

/-! Traffic generators (R229, R230). -/

/-- Number of the first line of a run in its channel group, and the lines it covers; a run with TGEN_LINES 0 is held to
one line when its range is judged. -/
def tgenFirst (s : State) (k : Nat) : Nat := linesBelow (4 * k) (reg s (0x5200 + k) 3)
def tgenLines (s : State) (k : Nat) : Nat := reg s (0x5200 + k) 4

/-- The run of a stack's generator, as it started: first line, lines, reads in every 16 requests. -/
def tgenRunOf (s : State) (k : Nat) : Nat × Nat × Nat := SMap.get s.hbm.tgenRun k (0, 0, 0)

/-- Does the range leave what the boot mode allows: the Gwevi region, or all of HBM in bring-up. -/
def tgenOutside (s : State) (k : Nat) : Bool :=
  let low := if startState s = 4 then 0 else gweviBase
  decide (reg s (0x5200 + k) 3 < low)
    || decide (hbmEnd < groupLine (4 * k) (tgenFirst s k + (max 1 (tgenLines s k) - 1)) + 64)

def preTgen (k v : Nat) (s : State) : Nat :=
  if v = 1 && (tgenOutside s k || checkerOwner s k == 3) then dConflict else dOk

/-- The lines `n` of a run have been written and checked. With 16 reads in 16 requests nothing is written, with none nothing
is checked. -/
def tgenWrote (s : State) (k n : Nat) : State :=
  let run := tgenRunOf s k
  let s1 := if run.2.2 = 16 then s
    else scribble s ((List.range n).map (fun i => groupLine (4 * k) (run.1 + i)))
  if run.2.2 = 0 then s1 else bumpBy s1 (0x5200 + k) 8 n

/-- The checker's mismatches, and the end of the run. -/
def tgenFinish (s : State) (k found : Nat) : State :=
  let errors := if (tgenRunOf s k).2.2 = 0 then 0 else found
  let s1 := setReg (setReg (bumpBy s (0x5200 + k) 7 errors) (0x5200 + k) 1 0) 0x2030 (0x2B + k) 0
  let s2 := { s1 with hbm := { s1.hbm with tgenRun := SMap.drop s1.hbm.tgenRun k } }
  if errors = 0 then s2 else raise s2 (src 9 21)

/-- How far a run that is disabled has come, and what it found, is not stated (log 3). -/
def tgenStop (s : State) (k : Nat) : State :=
  let run := tgenRunOf s k
  let n := Config.freeValue s.freeCtr % ((if run.2.1 = 0 then linesBelow (4 * k) hbmEnd - run.1 else run.2.1) + 1)
  let e := Config.freeValue (s.freeCtr + 1) % (n + 1)
  tgenFinish (tgenWrote (nextFree (nextFree s)) k n) k e

/-- A write of 1 starts a run over the range that the entries name then, and claims the checker; a write of 0 ends it. A run
that goes on is left alone. -/
def effTgen (k v : Nat) (s : State) : State :=
  if v = 1 then
    (if reg s (0x5200 + k) 1 = 1 then s else setReg (setReg { s with hbm := { s.hbm with
       tgenRun := SMap.put s.hbm.tgenRun k (tgenFirst s k, tgenLines s k, reg s (0x5200 + k) 5) } } (0x5200 + k) 1 1) 0x2030 (0x2B + k) 4)
  else if reg s (0x5200 + k) 1 = 1 then tgenStop s k
  else s

def execTgenEnable (p : Path) (k : StackId) (v : Byte) (s : State) : Out :=
  guarded s p (0x5200 + k.val) 1 1 v.toNat (preTgen k.val v.toNat) (effTgen k.val v.toNat)

/-- A run reaches TGEN_LINES. -/
def execTgenRunEnd (k : StackId) (errors : BitVec 64) (s : State) : Out :=
  .next (if clockOn s && reg s (0x5200 + k.val) 1 == 1 && (tgenRunOf s k.val).2.1 != 0 then
    tgenFinish (tgenWrote s k.val (tgenRunOf s k.val).2.1) k.val errors.toNat
  else s)

end Sys2Proof.Machine
end

