-- ==== Sys2Proof/Machine/HostIf.lean ====
section
/-! DEFINITION. The host's data paths: the data port (R323, R324), BAR4 (R325) and the host DMA channels (R326, R327). -/

namespace Sys2Proof.Machine

/-! Registers of Table 15.8. -/
abbrev dpAddrOff : Nat := 0x10000
abbrev dpErrOff : Nat := 0x10008
abbrev dpErrAddrOff : Nat := 0x10010
abbrev bar4Off : Nat := 0x10020

/-- DP_ADDR with FABRIC. -/
def dpWord (s : State) : Nat := bget s dpAddrOff

/-- FABRIC of a word encoded as DP_ADDR. -/
def wFabric (w : Nat) : Bool := w.testBit 63

/-- The encoding names an address: bits above the address are 0. -/
def wAddrOk (w : Nat) : Bool := if wFabric w then fld w 62 60 == 0 else fld w 62 44 == 0

def wAddr (w : Nat) : Nat := if wFabric w then fld w 59 0 else fld w 43 0

/-- DP_ADDR advances within its own address field (R323). -/
def wNext (w n : Nat) : Nat := if wFabric w then setFld w 59 0 (fld w 59 0 + n) else setFld w 43 0 (fld w 43 0 + n)

/-- A failed data-port access (R324): kind and address of the first failure. -/
def dpFail (s : State) (kind word : Nat) : State :=
  let s1 := if (bget s dpErrOff).testBit 0 then s else bset (bset s dpErrOff (1 + 2 * kind)) dpErrAddrOff word
  raise s1 (src 17 9)

def isPortWrite : Purpose → Bool
  | .portWrite _ => true
  | .dmaRead .. | .dmaWrite _ | .portRead _ | .hostDma _ | .ctxImage .. | .ckptClear .. | .ckptImage .. | .ckptCommit ..
  | .lineRead .. | .lineWrite _ => false

/-- DP_PENDING: remote data-port writes not yet acknowledged. -/
def dpPending (s : State) : Nat :=
  min 65535 ((s.fab.reqs.filter (fun r => isPortWrite r.purpose)).length
    + (s.fab.unsent.filter (fun e => isPortWrite e.1.purpose)).length)

/-- The link serves memory requests. -/
def hostReaches (s : State) : Bool := clockOn s && s.aon.pcieUp

/-- In BRINGUP and FAILED BAR2 and BAR4 move no data (R418). -/
def barsDead (s : State) : Bool := startState s == 4 || startState s == 5

/-! Lines of an access. -/

/-- The lines a byte range touches: line address, offset of its first byte in the access, and bytes. -/
def touched (a len : Nat) : List (Nat × Nat × Nat) :=
  if len = 0 then []
  else (List.range ((a % 64 + len + 63) / 64)).map (fun k =>
    let l := a / 64 * 64 + 64 * k
    let lo := if k = 0 then 0 else 64 * k - a % 64
    (l, lo, min len (64 * (k + 1) - a % 64) - lo))

/-- A local line the host's paths reach (R324, R210). -/
def hostLineOk (a : Nat) : Bool := !unassigned a && !inCtl a && !inGwevi a

/-- An access to a range waits for one of its lines. -/
def rangeHeld (s : State) (a len : Nat) : Bool := (touched a len).any (fun x => memHeld s x.1)

/-- Log a refused line that counts as unassigned (R6, R210). -/
def logRefused (s : State) (a : Nat) : State := if unassigned a || inGwevi a then logUnassigned s a none 0 else s

/-- The first refused line of a range. -/
def firstBad (a len : Nat) : Option Nat := ((touched a len).map Prod.fst).find? (fun l => !hostLineOk l)

/-- The line and byte mask of the part of `data` that lies in a touched line; `on` enables its bytes. -/
def partLine (a : Nat) (data : List Byte) (on : Nat → Bool) (t : Nat × Nat × Nat) : Line × Nat :=
  let sh := (a + t.2.1) % 64
  (BitVec.ofNat 512 (leVal ((data.drop t.2.1).take t.2.2) * 2 ^ (8 * sh)),
   (List.range t.2.2).foldl (fun m i => if on (t.2.1 + i) then m + 2 ^ (sh + i) else m) 0)

/-- Write the reachable lines of a local range (R234); a line of an unusable stack takes no data (R211). -/
def hostWriteLines (s : State) (a : Nat) (data : List Byte) (on : Nat → Bool) : State :=
  (touched a data.length).foldl (fun t x =>
    if !hostLineOk x.1 then t
    else if rangeLost t x.1 64 then emit t (.hwFault .host x.1)
    else
      let p := partLine a data on x
      writeLine t x.1 p.1 (nibbles p.2)) s

/-- Bytes of `n` ones. -/
def allOnes (n : Nat) : List Byte := List.replicate n 0xFF

/-- The bytes of a local range, all ones where a line is refused; a poisoned line's bytes are not stated (log 3). -/
def hostReadBytes (s : State) (a len : Nat) : List Byte :=
  (touched a len).flatMap (fun x =>
    if !hostLineOk x.1 then allOnes x.2.2
    else if rangePoisoned s x.1 64 then leBytes x.2.2 (Config.freeValue s.freeCtr / 2 ^ (8 * x.2.1))
    else memRead s (a + x.2.1) x.2.2)

/-- Does a local range meet a poisoned line. -/
def hostPoison (s : State) (a len : Nat) : Bool :=
  (touched a len).any (fun x => hostLineOk x.1 && rangePoisoned s x.1 64)

/-! The data port (R323, R324). -/

/-- Byte enables of a TLP: the first and last DW have their own. -/
def beOn (n : Nat) (first last : BitVec 4) (i : Nat) : Bool :=
  if i < 4 then first.getLsbD i else if n ≤ i + 4 then last.getLsbD (i + 4 - n) else true

/-- Group enabled lines into writes of at most 64 whole lines or one masked line. -/
def writeGroups (l : List (Nat × Line × Nat)) : List (Nat × List Line × Nat) :=
  (l.foldl (fun g x =>
    match g with
    | (b, ls, m) :: rest =>
      if m = ones64 && x.2.2 = ones64 && ls.length < 64 && x.1 = b + 64 * ls.length then (b, ls ++ [x.2.1], m) :: rest
      else (x.1, [x.2.1], x.2.2) :: g
    | [] => [(x.1, [x.2.1], x.2.2)]) []).reverse

/-- A remote data-port write: fabric WRITEs, acknowledged later (R324). -/
def portWriteRemote (s : State) (w : Nat) (data : List Byte) (on : Nat → Bool) : State :=
  let a := wAddr w
  let ls := ((touched a data.length).map (fun x => (x.1, partLine a data on x))).filter (fun x => x.2.2 != 0)
  (writeGroups ls).foldl (fun t g => request t false 0 g.1 g.2.1.length g.2.2 g.2.1 (.portWrite w)) s

def portWriteLocal (s : State) (w : Nat) (data : List Byte) (on : Nat → Bool) : State :=
  let a := wAddr w
  match firstBad a data.length with
  | none => hostWriteLines s a data on
  | some l => dpFail (logRefused (hostWriteLines s a data on) l) 1 w

/-- A local data-port access waits for its memory; one that moves no data does not. -/
def portHeld (s : State) (w n : Nat) : Bool :=
  wAddrOk w && !wFabric w && !stopped s && !barsDead s && rangeHeld s (wAddr w) n

/-- A memory write TLP in BAR2. -/
def execDataPortWrite (data : List Byte) (firstBE lastBE : BitVec 4) (s : State) : Out :=
  .next (
    let n := data.length
    let w := dpWord s
    let on := beOn n firstBE lastBE
    if !hostReaches s || barsDead s || n = 0 || n % 4 != 0 || decide (4096 < n) || portHeld s w n then s
    else
      let s1 := bset s dpAddrOff (wNext w n)
      if !wAddrOk w then dpFail s1 1 w
      else if wFabric w then portWriteRemote s1 w data on
      else if stopped s then dpFail s1 1 w
      else portWriteLocal s1 w data on)

/-- A local data-port read: the failures it reports, in the order of its lines, and its completion. -/
def portReadLocal (s : State) (w n : Nat) : State :=
  let a := wAddr w
  let bad := firstBad a n
  let pois := hostPoison s a n
  let e := emit (nextFree s) (.hostData (hostReadBytes s a n) pois)
  let kind := ((touched a n).find? (fun x => !hostLineOk x.1 || rangePoisoned s x.1 64)).map
    (fun x => if hostLineOk x.1 then 4 else 1)
  let e1 := match bad with
    | none => e
    | some l => logRefused e l
  match kind with
  | none => e1
  | some k => dpFail e1 k w

/-- A remote read holds its completion (R324). -/
def portReadRemote (s : State) (w n : Nat) : State :=
  let a := wAddr w
  let id := s.hostIf.nextRead
  let base := a / 64 * 64
  let ps := linePieces ((a % 64 + n + 63) / 64)
  let s1 := { s with hostIf := { s.hostIf with
    nextRead := id + 1
    reads := s.hostIf.reads ++ [{ id := id, word := w, addr := a, len := n, got := [], poison := false, left := ps.length }] } }
  ps.foldl (fun t p => request t true 0 (base + p.1) p.2 ones64 [] (.portRead id)) s1

/-- A memory read TLP in BAR2 of `dw` DWs. -/
def execDataPortRead (dw : Nat) (s : State) : Out :=
  .next (
    let n := 4 * dw
    let w := dpWord s
    if !hostReaches s || n = 0 || decide (4096 < n) || portHeld s w n then s
    else if barsDead s then emit s (.hostData (allOnes n) false)
    else
      let s1 := bset s dpAddrOff (wNext w n)
      if !wAddrOk w || (stopped s && !wFabric w) then dpFail (emit s1 (.hostData (allOnes n) false)) 1 w
      else if wFabric w then portReadRemote s1 w n
      else portReadLocal s1 w n)

/-- A piece of a remote data-port read ends: `kind` 0 brings its lines, else they read as all ones. -/
def portReadEnds (s : State) (id addr : Nat) (body : List Line) (kind : Nat) : State :=
  match s.hostIf.reads.find? (fun x => x.id == id) with
  | none => s
  | some x =>
    let bytes := body.flatMap (fun l => leBytes 64 l.toNat)
    let put := ((List.range bytes.length).zip bytes).foldl (fun m e =>
      if x.addr ≤ addr + e.1 && addr + e.1 < x.addr + x.len then SMap.set m (addr + e.1 - x.addr) e.2 0xFF else m) x.got
    let x1 : PortRead := { x with got := put, poison := x.poison || kind == 4, left := x.left - 1 }
    let rest := s.hostIf.reads.filter (fun y => y.id != id)
    let s1 := if kind = 0 then s else dpFail s kind x.word
    if x1.left = 0 then
      emit { s1 with hostIf := { s1.hostIf with reads := rest } }
        (.hostData ((List.range x1.len).map (fun i => SMap.get x1.got i 0xFF)) x1.poison)
    else { s1 with hostIf := { s1.hostIf with reads := mapIf (fun y => y.id == id) (fun _ => x1) s1.hostIf.reads } }

/-- DP_ADDR, DP_ERROR and BAR4_BASE (Table 15.8, R325). -/
def execDataPortRegisterWrite (offset : BitVec 8) (v : BitVec 64) (s : State) : Out :=
  .next (if !hostReaches s then s
    else if offset = 0 then bset s dpAddrOff (v.toNat / 4 * 4)
    else if offset = 8 then (if v.getLsbD 0 then bset s dpErrOff 0 else s)
    else if offset = 0x20 then
      (if fld v.toNat 43 30 ≤ 1216 then bset s bar4Off (fld v.toNat 43 30 * 2 ^ 30) else s)
    else s)

/-! BAR4 (R325). -/
def execBar4Access (op : Bar4Op) (s : State) : Out :=
  .next (if !hostReaches s then s
    else match op with
      | .write o data =>
        let a := bget s bar4Off + o.toNat
        if barsDead s || stopped s || rangeHeld s a data.length then s
        else match firstBad a data.length with
          | none => hostWriteLines s a data (fun _ => true)
          | some l => logRefused (hostWriteLines s a data (fun _ => true)) l
      | .read o n =>
        let a := bget s bar4Off + o.toNat
        if barsDead s || stopped s then emit s (.hostData (allOnes n) false)
        else if rangeHeld s a n then s
        else
          let e := emit (nextFree s) (.hostData (hostReadBytes s a n) (hostPoison s a n))
          match firstBad a n with
          | none => e
          | some l => logRefused e l)

/-! Host DMA (R326, R327). -/
abbrev chOff (ch r : Nat) : Nat := 0x20000 + 0x100 * ch + r
def chBaseOf (s : State) (ch : Nat) : Nat := bget s (chOff ch 0)
def chSizeOf (s : State) (ch : Nat) : Nat := bget s (chOff ch 8)
def chTailOf (s : State) (ch : Nat) : Nat := bget s (chOff ch 0x10)
def chHeadOf (s : State) (ch : Nat) : Nat := bget s (chOff ch 0x18)
def chStateOf (s : State) (ch : Nat) : Nat := bget s (chOff ch 0x20)

/-- CH_STATE, with the level source of a STOPPED channel. -/
def setChState (s : State) (ch st : Nat) : State := setCond (bset s (chOff ch 0x20) st) (src 17 (5 + ch)) (st == 2)

/-- Ask the host for the descriptor at the head of a running channel that has none. -/
def askDescriptor (s : State) (ch : Nat) : State :=
  if chStateOf s ch = 1 && chHeadOf s ch != chTailOf s ch && s.aon.pcieUp && !SMap.has s.hostIf.dmaDesc ch then
    emit s (.hostRead (.dmaDescriptor (Fin.ofNat 4 ch)) (chBaseOf s ch + 64 * chHeadOf s ch) 64)
  else s

/-- The doorbell of a channel. A tail that CH_SIZE does not reach is ignored; doorbells are ignored in BRINGUP and FAILED
(R418). -/
def execChTail (ch : Fin 4) (v : BitVec 64) (s : State) : Out :=
  .next (if !clockOn s || barsDead s || chSizeOf s ch.val ≤ v.toNat then s
    else
      let s1 := bset s (chOff ch.val 0x10) v.toNat
      if chStateOf s1 ch.val = 2 || chHeadOf s1 ch.val = v.toNat then s1
      else askDescriptor (setChState s1 ch.val 1) ch.val)

/-- CH_BASE or CH_SIZE, only while head and tail agree; the channel is IDLE again. -/
def execChBase (ch : Fin 4) (size : Bool) (v : BitVec 64) (s : State) : Out :=
  .next (if !clockOn s || chHeadOf s ch.val != chTailOf s ch.val then s
    else if size then
      (if 1 ≤ v.toNat && v.toNat ≤ 4096 then setChState (bset s (chOff ch.val 8) v.toNat) ch.val 0 else s)
    else setChState (bset s (chOff ch.val 0) (v.toNat / 64 * 64)) ch.val 0)

/-! The descriptor (Table 15.9). -/
def hHost (d : Nat) : Nat := qf d 0 63 0
def hDev (d : Nat) : Nat := qf d 1 63 0
def hLen (d : Nat) : Nat := qf d 2 31 0
def hOut (d : Nat) : Bool := qf d 2 32 32 == 1
def hIrq (d : Nat) : Bool := qf d 2 33 33 == 1

/-- DESCRIPTOR: a reserved bit or a bad LENGTH. -/
def hBad (d : Nat) : Bool :=
  qf d 2 63 34 != 0 || d / 2 ^ 256 != 0 || hLen d % 4 != 0 || hLen d == 0 || hHost d % 4 != 0 || hDev d % 4 != 0

/-- The descriptor of a channel ends with a status: Q3 is written, the head advances, and the next one is asked for. -/
def finishHostDma (s : State) (ch st : Nat) : State :=
  let d := ((SMap.find s.hostIf.dmaDesc ch).getD 0).toNat
  let s1 := emit s (.hostWrite (chBaseOf s ch + 64 * chHeadOf s ch + 24) (leBytes 8 (st + 2 ^ 63)))
  let s2 := bset s1 (chOff ch 0x18) ((chHeadOf s ch + 1) % chSizeOf s ch)
  let s3 := { s2 with hostIf := { s2.hostIf with
    dmaDesc := SMap.drop s2.hostIf.dmaDesc ch
    dmaBusy := SMap.drop s2.hostIf.dmaBusy ch
    dmaErr := SMap.drop s2.hostIf.dmaErr ch } }
  askDescriptor (if hIrq d then raise s3 (src 17 (1 + ch)) else s3) ch

/-- The first line of a local range that ends a transfer, with its status: refused, or poisoned for a read. -/
def hostStop (s : State) (a len : Nat) (isRead : Bool) : Option (Nat × Nat) :=
  ((touched a len).find? (fun x => !hostLineOk x.1 || (isRead && rangePoisoned s x.1 64))).map
    (fun x => (x.2.1, if hostLineOk x.1 then 4 else 1))

/-- Device to host from local memory: the bytes before the failing line go out. -/
def hostOutLocal (s : State) (ch d : Nat) : State :=
  let a := wAddr (hDev d)
  match hostStop s a (hLen d) true with
  | none => finishHostDma (emit s (.hostWrite (hHost d) (memRead s a (hLen d)))) ch 0
  | some (n, st) =>
    let s1 := if n = 0 then s else emit s (.hostWrite (hHost d) (memRead s a n))
    finishHostDma (if st = 1 then logRefused s1 (lineAddr (a + n)) else s1) ch st

/-- Remote requests of a channel; `dmaBusy` holds 1 and those outstanding. -/
def hostRemote (s : State) (ch : Nat) (reqs : List (Nat × Nat × List Line × Nat)) (isRead : Bool) : State :=
  let s1 := { s with hostIf := { s.hostIf with dmaBusy := SMap.put s.hostIf.dmaBusy ch (1 + reqs.length) } }
  reqs.foldl (fun t r => request t isRead 0 r.1 r.2.1 r.2.2.2 r.2.2.1 (.hostDma ch)) s1

/-- HOST_DMA_DESCRIPTOR: the channel runs the descriptor it has read (R326, R327). Local memory moves no data in a
stop. -/
def execHostDmaDescriptor (ch : Fin 4) (s : State) : Out :=
  .next (match SMap.find s.hostIf.dmaDesc ch.val with
    | none => s
    | some dd =>
      let d := dd.toNat
      let w := hDev d
      if !clockOn s || chStateOf s ch.val != 1 || SMap.has s.hostIf.dmaBusy ch.val || (!wFabric w && (stopped s || memHeld s (wAddr w))) then s
      else if hBad d then finishHostDma s ch.val 6
      else if !wAddrOk w then finishHostDma s ch.val 1
      else if !hOut d then
        emit { s with hostIf := { s.hostIf with dmaBusy := SMap.put s.hostIf.dmaBusy ch.val 1 } }
          (.hostRead (.dmaData ch) (hHost d) (hLen d))
      else if wFabric w then
        let a := wAddr w
        hostRemote s ch.val ((linePieces ((a % 64 + hLen d + 63) / 64)).map (fun p => (a / 64 * 64 + p.1, p.2, [], ones64))) true
      else hostOutLocal s ch.val d)

/-- Data from the host for a channel (R327): written up to the first refused line. -/
def hostInData (s : State) (ch : Nat) (d : Nat) (data : List Byte) : State :=
  let w := hDev d
  let a := wAddr w
  let l := padTo (hLen d) data
  if wFabric w then
    let ls := (touched a l.length).map (fun x => (x.1, partLine a l (fun _ => true) x))
    hostRemote s ch ((writeGroups ls).map (fun g => (g.1, g.2.1.length, g.2.1, g.2.2))) false
  else match hostStop s a l.length false with
    | none => finishHostDma (hostWriteLines s a l (fun _ => true)) ch 0
    | some (n, st) => finishHostDma (logRefused (hostWriteLines s a (l.take n) (fun _ => true)) (lineAddr (a + n))) ch st

/-- A remote request of a channel ends: with data to pass on, or with a status that the descriptor keeps. -/
def hostDmaEnds (s : State) (ch addr : Nat) (body : List Line) (st : Nat) : State :=
  let d := ((SMap.find s.hostIf.dmaDesc ch).getD 0).toNat
  let a := wAddr (hDev d)
  let err := SMap.get s.hostIf.dmaErr ch 0
  let bytes := body.flatMap (fun l => leBytes 64 l.toNat)
  let lo := a - addr
  let out := (bytes.drop lo).take (a + hLen d - (addr + lo))
  let s1 := if hOut d && st = 0 && err = 0 then emit s (.hostWrite (hHost d + (addr + lo - a)) out) else s
  let e' := if err = 0 then st else err
  let n := SMap.get s1.hostIf.dmaBusy ch 1 - 1
  let s2 := { s1 with hostIf := { s1.hostIf with
    dmaErr := SMap.set s1.hostIf.dmaErr ch e' 0
    dmaBusy := SMap.put s1.hostIf.dmaBusy ch n } }
  if n = 1 then finishHostDma s2 ch e' else s2

/-- A return of slots goes on with what has been read (R317, R318). -/
def goOnFlushing (s : State) (q : Nat) : State :=
  match SMap.find s.hostIf.flushing q with
  | none => s
  | some c1 =>
    let s1 := flushSlots s (c1 - 1) q 4096 (freeTags s)
    if qAvail s1 q = 0 && qState s1 q == 3 then runQueue s1 q else s1

/-- A read of a slot in host memory has failed (R317, R420): a return of slots skips the slot, and else the queue stops. -/
def slotFailed (s : State) (q : Nat) : State :=
  if SMap.has s.hostIf.flushing q then
    goOnFlushing (bump (bset s (qHeadOff q) ((qHead s q + 1) % qSize (qCfg s q))) 0x2020 5) q
  else stopQueue s q 2

/-- HOST_COMPLETION: data or an error for a read the device made (R321, R326, R327). -/
def execHostCompletion (r : HostRead) (data : List Byte) (ok : Bool) (s : State) : Out :=
  .next (if !clockOn s then s
    else match r with
      | .dmaDescriptor ch =>
        if chStateOf s ch.val != 1 || SMap.has s.hostIf.dmaDesc ch.val then s
        else if ok then
          { s with hostIf := { s.hostIf with dmaDesc := SMap.put s.hostIf.dmaDesc ch.val (BitVec.ofNat 512 (leVal (padTo 64 data))) } }
        else setChState s ch.val 2
      | .dmaData ch =>
        match SMap.find s.hostIf.dmaDesc ch.val with
        | none => s
        | some d =>
          if SMap.get s.hostIf.dmaBusy ch.val 0 != 1 || hOut d.toNat then s
          else if ok then hostInData s ch.val d.toNat data
          else finishHostDma s ch.val 5
      | .queueSlot q =>
        let wanted := s.hostIf.asked.contains q.val
        let s := slotAnswered s q.val
        if !wanted || !qHost (qCfg s q.val) || SMap.has s.hostIf.slotData q.val || qAvail s q.val = 0 then s
        else if ok then goOnFlushing
          { s with hostIf := { s.hostIf with slotData := SMap.put s.hostIf.slotData q.val (BitVec.ofNat 1024 (leVal (padTo 128 data))) } }
          q.val
        else slotFailed s q.val)

end Sys2Proof.Machine
end

