-- ==== Sys2Proof/Machine/Fabric.lean ====
section
/-! DEFINITION. The Fraty fabric (ch. 13): ports and the link layer, inbound requests and their checks, responses,
transit, notices, and remote timeouts. -/

namespace Sys2Proof.Machine

/-! Ports (R257 to R259). -/

/-- LINK_STATE of a port changes: its source and NOTIFY bit 4 (Tables 15.10, 16.7). -/
def setLinkState (s : State) (p st : Nat) : State :=
  if reg s (0x7020 + p) 1 = st then s
  else notify (raise (setReg s (0x7020 + p) 1 st) (src 11 p)) 4 (0x7020 + p) 1 [BitVec.ofNat 8 st]

def portEnabled (s : State) (p : Nat) : Bool := reg s (0x7020 + p) 2 == 1

/-- The lanes a training result leaves, without a half that is out of use (R258, Table 18.6). -/
def lanesOf (l : Link) (r : TrainResult) : Nat :=
  let low := !l.badLow && (match r with
    | .up => true
    | .lowHalf => true
    | .highHalf => false
    | .down => false)
  let high := !l.badHigh && (match r with
    | .up => true
    | .highHalf => true
    | .lowHalf => false
    | .down => false)
  (if low then 0x0F else 0) + (if high then 0xF0 else 0)

/-- A link begins again: nothing is kept of its cells, and the credits are the partner's buffers (R261, R263). -/
def freshLink (s : State) (p : Nat) : State :=
  setLink s p { Link.fresh with badLow := (linkOf s p).badLow, badHigh := (linkOf s p).badHigh }

/-- Link training ends (R259); the partner's numbers come with it. -/
def execLinkTrained (p : PortId) (r : TrainResult) (dev : BitVec 16) (port : Byte) (s : State) : Out :=
  .next (if clockOn s && portEnabled s p.val && !portUp s p.val then
    let lanes := lanesOf (linkOf s p.val) r
    let s1 := setReg (freshLink s p.val) (0x7020 + p.val) 5 lanes
    if lanes = 0 then setLinkState s1 p.val 0
    else
      let s2 := setReg (setReg s1 (0x7020 + p.val) 3 dev.toNat) (0x7020 + p.val) 4 port.toNat
      setLinkState s2 p.val (if lanes = 0xFF then 2 else 3)
  else s)

/-- Retraining starts while the port is enabled (R259). -/
def retrain (s : State) (p : Nat) : State :=
  if portEnabled s p then
    emit (bumpSat32 (freshLink s p) (0x7020 + p) 0x0A 1) (.linkTraining p)
  else s

/-- The messages queued at a port of which no byte has been sent, lane by lane. -/
def queuedMsgs (l : Link) : List TxMsg := (List.range 4).flatMap (fun v => (laneMsgs l v).filter (fun x => x.sent == 0))

/-- A message that was queued for a link that is gone (R277): an adaptive one takes another port of its set, a pinned one is
answered with NAK UNREACHABLE, and a link-local one has nowhere to go. -/
def requeue (s : State) (x : TxMsg) : State :=
  if x.msg.linkLocal then s
  else if x.msg.pinned || fld (routeEntry s x.msg.dest) 30 29 == 1 then unroutable s x.msg
  else match routePort s x.msg with
    | none => unroutable s x.msg
    | some p => sendOn s p x.req x.msg

/-- A link leaves UP (R277): a message partly sent on it is lost (R263), and those queued for its port go elsewhere. -/
def leaveUp (s : State) (p st : Nat) : State :=
  let q := queuedMsgs (linkOf s p)
  q.foldl requeue (retrain (setLinkState (setReg (freshLink s p) (0x7020 + p) 5 0) p st) p)

def execLinkLeavesUp (p : PortId) (s : State) : Out :=
  .next (if clockOn s && portUp s p.val then leaveUp s p.val 1 else s)

/-- A link fault (R263): the link is FAULTED and retrained. -/
def faultLink (s : State) (p : Nat) : State :=
  let s1 := logEvent s { Event.plain 0x0A 1 (32 + p) p with srcs := [src 12 24], tests := [(.lane, 32 + p, p)] }
  leaveUp s1 p 4

/-! Received cells (R260 to R262). -/

/-- The credits of a header come back. -/
def takeCredits (l : Link) (h : Nat) : Link :=
  { l with credits := (List.range 4).foldl (fun m v =>
      SMap.set m v (min (laneBuffer v) (SMap.get m v (laneBuffer v) + cCredits h v)) (laneBuffer v)) l.credits }

/-- The sequence number of a cell that was sent. -/
def TxCell.seq (c : TxCell) : Nat := cSeq c.hdr.toNat

/-- What a header acknowledges leaves the replay buffer, and its credits come back. -/
def takeHeader (l : Link) (h : Nat) : Link :=
  takeCredits (if cAckValid h && l.replay.any (fun c => c.seq == cAck h) then
      { l with replay := (l.replay.dropWhile (fun c => c.seq != cAck h)).drop 1 } else l) h

/-- The first whole message of a lane's bytes, and the bytes after it. -/
def firstMsg (l : List Byte) : Option (Msg × List Byte) :=
  if l.length < 32 then none
  else
    let h : BitVec 256 := BitVec.ofNat 256 (leVal (l.take 32))
    let m0 : Msg := { hdr := h, body := [] }
    let n := if carriesBody m0.opcode then m0.linesM1 + 1 else 0
    if l.length < 32 + 64 * n then none
    else some ({ m0 with body := (List.range n).map (fun i => BitVec.ofNat 512 (leVal ((l.drop (32 + 64 * i)).take 64))) },
      l.drop (32 + 64 * n))

/-- Every whole message of a lane's bytes. -/
def takeMsgs : Nat → List Byte → List Msg × List Byte
  | 0, l => ([], l)
  | k + 1, l =>
    match firstMsg l with
    | none => ([], l)
    | some (m, rest) => let r := takeMsgs k rest; (m :: r.1, r.2)

/-! Inbound requests (R273 to R275). -/

def isRequest (op : Nat) : Bool := decide (1 ≤ op) && decide (op ≤ 5)
def isResponse (op : Nat) : Bool := op == 0x81 || op == 0x82 || op == 0x83

/-- Reserved header fields, and fields of other opcodes (Table 13.3). -/
def reqHeaderBad (m : Msg) : Bool :=
  let op := m.opcode
  m.q 0 11 11 != 0 || m.q 0 15 15 != 0 || m.q 0 23 22 != 0 || m.q 0 31 31 != 0 || m.q 1 63 60 != 0
    || m.q 2 15 0 != 0 || m.q 2 31 22 != 0 || m.q 2 63 48 != 0 || m.linkLocal
    || (op != 1 && m.q 0 8 8 != 0)
    || (op != 5 && (m.q 2 21 16 != 0 || m.q 2 47 32 != 0))
    || (if op = 3 || op = 4 then decide (5 ≤ m.fmt) else m.fmt != 0)

/-- The mask rules of R265: more than one line needs every byte, of any request; a reduction's mask goes by elements. -/
def maskBad (m : Msg) : Bool :=
  (m.linesM1 != 0 && m.mask != ones64)
    || ((m.opcode == 3 || m.opcode == 4) && ((List.range (addElems m.fmt)).any (fun i =>
            !elemOn m.fmt (BitVec.ofNat 64 m.mask) i && fld m.mask (addBits m.fmt / 8 * i + addBits m.fmt / 8 - 1) (addBits m.fmt / 8 * i) != 0)))

/-- A body of another length than LINES_M1 gives. -/
def bodyBad (m : Msg) : Bool := m.body.length != (if carriesBody m.opcode then m.linesM1 + 1 else 0)

/-- Bytes a request covers: a SIGNAL covers its object's line. -/
def reqBytes (m : Msg) : Nat := if m.opcode = 5 then 64 else 64 * (m.linesM1 + 1)

/-- The right bit of Q2 of a window entry (Table 13.7a). -/
def rightBit (op : Nat) : Nat := if op = 1 then 0 else if op = 2 then 1 else if op = 5 then 3 else 2

/-- Does some entry permit the request (R273). -/
def windowPermits (s : State) (m : Msg) : Bool :=
  (List.range 256).any (fun w =>
    let e := reg s (0x1100 + w) 1
    qf e 1 31 0 != 0 && within m.offset (reqBytes m) (qf e 0 43 0) (4096 * qf e 1 31 0)
      && decide (qf e 1 47 32 ≤ m.source) && decide (m.source ≤ qf e 1 63 48) && (qf e 2 63 0).testBit (rightBit m.opcode))

/-- The line addresses of a request. -/
def reqLines (m : Msg) : List Nat := (List.range (m.linesM1 + 1)).map (fun i => m.offset + 64 * i)

/-- ADDRESS of Table 13.7. -/
def addressBad (s : State) (m : Msg) : Bool :=
  let a := m.offset
  let n := reqBytes m
  if m.opcode = 5 then !inSyncWin a || a % 64 != 0
  else a % 64 != 0 || (if m.opcode = 3 || m.opcode = 4 then decide (gweviBase < a + n) else !userRange a n)
    || (m.opcode == 4 && (reqLines m).any (fun x => match areaAt s x with
        | none => true
        | some k => aFmt (areaOf s k).reg.toNat != m.fmt))

/-- Does the request touch an unassigned address or the Gwevi region, which is logged (R6, R210). -/
def unassignedAt (m : Msg) : Option Nat :=
  [m.offset, m.offset + reqBytes m - 1].find? (fun a => unassigned a || inGwevi a)

/-- SYNC of Table 13.7: the object takes no SIGNAL of this owner and increment. -/
def signalRefused (s : State) (m : Msg) : Bool :=
  let n := (m.offset - 0xF0000100000) / 64
  let inc := m.q 2 47 32
  inc == 0 || syncStatus s 0x10 (m.q 2 21 16) n 127 != stOk
    || !syncLive s (m.q 2 21 16)

/-- The first failing check of Table 13.7, or 0. -/
def refusal (s : State) (m : Msg) : Nat :=
  if reg s 0x7000 2 = 0 then nakDisabled
  else if scrubbing s then nakScrubbing
  else if halted s then nakHalted
  else if reqHeaderBad m || maskBad m || bodyBad m then nakFormat
  else if !windowPermits s m then nakWindow
  else if addressBad s m then nakAddress
  else if m.opcode = 5 && signalRefused s m then nakSync
  else if m.opcode = 1 && rangePoisoned s m.offset (reqBytes m) then nakPoisoned
  else 0

/-- A refused request (R274): counted, and a violation recorded and logged. -/
def refuseReq (s : State) (m : Msg) (r : Nat) : State :=
  let s1 := bump s 0x7000 5
  let s2 := if r = nakWindow then
      logEvent (setReg (bump s1 0x7000 6) 0x7000 7 (m.hdr.toNat % 2 ^ 128))
        { Event.plain 0x16 2 0xFF m.source with srcs := [src 11 24] }
    else if r = nakAddress then
      (match unassignedAt m with
        | none => s1
        | some a => logUnassigned s1 a none 0)
    else s1
  sendOrDrop s2 (nakFor s2 m r)

/-- The response header of a request (Table 13.3). -/
def responseTo (s : State) (m : Msg) (op lm1 : Nat) (body : List Line) : Msg :=
  mkMsg op 0 lm1 (devNum s) m.tag (m.source * 2 ^ 44 + m.offset) 0 ones64 body

/-- What a permitted request does (R275). -/
def performReq (s : State) (m : Msg) : State :=
  let mask := BitVec.ofNat 64 m.mask
  let each (f : State → Nat → Line → State) : State :=
    ((reqLines m).zip m.body).foldl (fun t e => if rangeLost t e.1 64 then t else f t e.1 e.2) s
  if m.opcode = 2 then each (fun t a l => writeLine t a l (nibbles m.mask))
  else if m.opcode = 3 then each (fun t a l => arrivalLine t a m.fmt l mask)
  else if m.opcode = 4 then each (fun t a l => match areaAt t a with
    | none => t
    | some k => slotLine t k a l mask)
  else if m.opcode = 5 then signalObj s (m.q 2 21 16) ((m.offset - 0xF0000100000) / 64) (m.q 2 47 32)
  else s

/-- Does a write or a reduction meet an unusable stack: the request stops there with HW_FAULT (R211). Table 13.7 has no
reason for it, so no response is formed and its requester's time-out ends it (DESIGN CHOICE, log 63). -/
def reqLost (s : State) (m : Msg) : Bool :=
  (m.opcode == 2 || m.opcode == 3 || m.opcode == 4) && rangeLost s m.offset (reqBytes m)

/-- Serve an inbound request addressed to this device. -/
def serve (s : State) (m : Msg) : State :=
  let r := refusal s m
  if r ≠ 0 then refuseReq s m r
  else
    let s1 := performReq s m
    if reqLost s m then emit s1 (.hwFault (.inbound (BitVec.ofNat 16 m.source)) m.offset)
    else if m.opcode = 1 then sendOrDrop s1 (responseTo s1 m 0x81 m.linesM1 (linesAt s1 m.offset (m.linesM1 + 1)))
    else sendOrDrop s1 (responseTo s1 m 0x82 0 [])

/-! Responses (R276). -/

/-- What a NAK reason means to the data port and host DMA (Table 15.8): 2 NAK, 3 TIMEOUT, 4 POISONED. -/
def hostKind (reason : Nat) : Nat :=
  if reason = 0 then 0 else if reason = 10 then 3 else if reason = nakPoisoned then 4 else 2

/-- A request ends: with lines (reason 0), a NAK reason, or TIMEOUT (10). Each requester acts as its chapter states. -/
def endRequest (s : State) (r : RemoteReq) (reason : Nat) (body : List Line) : State :=
  let s1 := { s with fab := { s.fab with reqs := s.fab.reqs.filter (fun x => x.tag != r.tag) } }
  let bad := if reason = 0 then 0 else if reason = 10 then dmaTimeoutStatus s1 else stAddress
  let s2 := match r.purpose with
    | .dmaRead tag dst dstRemote =>
      if reason = 0 then dmaData s1 tag dst dstRemote body
      else dmaAnswered (if reason = 10 then nextFree s1 else s1) tag 0 bad
    | .dmaWrite tag => dmaAnswered (if reason = 10 then nextFree s1 else s1) tag r.lines bad
    | .portRead id => portReadEnds s1 id r.addr body (hostKind reason)
    | .portWrite w => if reason = 0 then s1 else dpFail s1 (hostKind reason) w
    | .hostDma ch => hostDmaEnds s1 ch r.addr body (hostKind reason)
    | .ctxImage c n off => if reason = 0 then ctxImageData s1 c n off body else ctxFailed s1 c n
    | .ckptClear c n => if reason = 0 then ckptAcked s1 c n else ctxFailed s1 c n
    | .ckptImage c n => if reason = 0 then ckptAcked s1 c n else ctxFailed s1 c n
    | .ckptCommit c n => if reason = 0 then ckptAcked s1 c n else ctxFailed s1 c n
    | .lineRead ag fill => if reason = 0 then lineReadEnds s1 ag fill r.addr (body.headD 0) else lineFails s1 ag r.addr
    | .lineWrite ag => if reason = 0 then s1 else lineFails s1 ag r.addr
  sendWaiting s2

/-- A response that comes after its request has ended (R276). -/
def lateResponse (s : State) : State := raise (bump s 0x7000 8) (src 11 27)

/-- The request a response belongs to: a READ by READ_DATA of its lines, another by ACK, either by NAK. -/
def answers (m : Msg) (r : RemoteReq) : Bool :=
  r.tag == m.tag
    && (m.opcode == 0x83 || (m.opcode == 0x81 && r.isRead && r.lines == m.body.length) || (m.opcode == 0x82 && !r.isRead))

def takeResponse (s : State) (m : Msg) : State :=
  match s.fab.reqs.find? (answers m) with
  | none => lateResponse s
  | some r => endRequest s r (if m.opcode = 0x83 then m.q 2 7 0 else 0) (if m.opcode = 0x81 then m.body else [])

/-- In a coolant stop responses are kept in the return buffer (R277). -/
def response (s : State) (v : Via) (m : Msg) : State :=
  if stopped s then { s with fab := { s.fab with kept := s.fab.kept ++ [(v, m)] } } else takeResponse s m

/-! Transit (R268, R269, R277). -/

/-- The same message one hop on. -/
def hop (m : Msg) : Msg := { m with hdr := m.hdr + BitVec.ofNat 256 (2 ^ 16) }

/-- The input port a message in transit comes by: its index among the requesters of Table 13.5. -/
def inPort : Via → Nat
  | .loopback => 24
  | .port p => p.val

/-- A message for another device. While FABRIC_ENABLE is 0 the ports carry only notices (R259). -/
def transit (s : State) (v : Via) (m : Msg) : State :=
  if reg s 0x7000 2 = 0 && m.opcode != 8 then
    (if isRequest m.opcode then sendOrDrop s (nakFor s m nakDisabled) else discardMsg s)
  else if halted s && isRequest m.opcode then sendOrDrop s (nakFor s m nakHalted)
  else match routePort s m with
    | some p => sendOn s p (3 * 256 + inPort v) (hop m)
    | none => unroutable s m

/-! Notices (R264, R389). -/

/-- A FAULT notice writes a code 18h entry; a HALTED notice asks nothing of its receiver; other types are reserved. -/
def noticeIn (s : State) (m : Msg) : State :=
  let t := m.q 2 15 8
  if t = 1 then
    logEvent s { Event.plain 0x18 2 0xFF (((m.body.headD 0).toNat) % 65536) with srcs := [src 18 4] }
  else if t = 2 then s
  else discardMsg s

/-! Delivery. -/

/-- Is the lane a message comes by held back, behind a collective message for a bucket not yet posted (R283). -/
def laneHeld (s : State) (v : Via) (m : Msg) : Bool := s.fab.held.any (fun x => x.1 == v && vlOf x.2.opcode == vlOf m.opcode)

/-- A message handed to the marl die: a link-local notice, a message of this device, or transit; one behind a held message
waits in its lane (R283). One that has passed 63 devices is discarded (R269). While FABRIC_ENABLE is 0 no collective message
comes by a port (R259). -/
def deliverMsg (s : State) (v : Via) (m : Msg) : State :=
  if !clockOn s then s
  else if laneHeld s v m then { s with fab := { s.fab with held := s.fab.held ++ [(v, m)] } }
  else if m.hops = 63 then discardMsg s
  else if m.opcode = 8 && m.linkLocal then noticeIn s m
  else if !(isRequest m.opcode || isResponse m.opcode || m.opcode == 6 || m.opcode == 7 || m.opcode == 8) then discardMsg s
  else if m.dest ≠ devNum s then transit s v m
  else if isRequest m.opcode then serve s m
  else if isResponse m.opcode then response s v m
  else if m.opcode = 8 then noticeIn s m
  else if !fabricOn s && v != .loopback then s
  else collIn s v m

/-- Can a message come this way: by a port that is up (R258), or as the first of its lane that loops back (R272). -/
def viaUp (s : State) (v : Via) (m : Msg) : Bool :=
  match v with
  | .loopback => s.fab.loop.find? (fun x => vlOf x.opcode == vlOf m.opcode) == some m
  | .port p => portUp s p.val

/-- A message that has come by loopback loops no more. -/
def unloop (s : State) (v : Via) (m : Msg) : State :=
  match v with
  | .loopback => { s with fab := { s.fab with loop := s.fab.loop.erase m } }
  | .port _ => s

/-- A message of one opcode arrives whole. -/
def arrive (op : Nat) (v : Via) (m : Msg) (s : State) : Out :=
  .next (if m.opcode = op && viaUp s v m && clockOn s then deliverMsg (unloop s v m) v m else s)

def execRead (v : Via) (m : Msg) (s : State) : Out := arrive 1 v m s
def execWrite (v : Via) (m : Msg) (s : State) : Out := arrive 2 v m s
def execRedAdd (v : Via) (m : Msg) (s : State) : Out := arrive 3 v m s
def execRedSlot (v : Via) (m : Msg) (s : State) : Out := arrive 4 v m s
def execFabricSignal (v : Via) (m : Msg) (s : State) : Out := arrive 5 v m s
def execNotice (v : Via) (m : Msg) (s : State) : Out := arrive 8 v m s
def execReadData (v : Via) (m : Msg) (s : State) : Out := arrive 0x81 v m s
def execAck (v : Via) (m : Msg) (s : State) : Out := arrive 0x82 v m s
def execNak (v : Via) (m : Msg) (s : State) : Out := arrive 0x83 v m s

/-- A message for another device arrives whole. -/
def execTransitForward (p : PortId) (m : Msg) (s : State) : Out :=
  .next (if portUp s p.val && m.dest != devNum s && !(m.opcode == 8 && m.linkLocal) then deliverMsg s (.port p) m else s)

/-- FEC_CORRECTED counts the symbols corrected in the codewords of a cell: how many is not this model's to say, so a free
number of them, at most 15 in each of two codewords (Table 13.1; log 3). -/
def corrected (s : State) (p : Nat) : State := bumpBy (nextFree s) (0x7020 + p) 6 (Config.freeValue s.freeCtr % 31)

/-- The cell just taken is freed, or stays in the receive buffer while its lane is held back (R261, R283). -/
def freeOrHold (s : State) (p : PortId) (v : Nat) : State :=
  let l := linkOf s p.val
  setLink s p.val (if s.fab.held.any (fun x => x.1 == .port p && vlOf x.2.opcode == v) then
    { l with heldCells := SMap.set l.heldCells v (SMap.get l.heldCells v 0 + 1) 0 }
  else { l with freed := SMap.set l.freed v (SMap.get l.freed v 0 + 1) 0 })

/-- DATA_CELL: accepted in order; its bytes join the lane's stream, and each message they complete is delivered. -/
def execDataCell (p : PortId) (hdr : BitVec 128) (payload : List Byte) (s : State) : Out :=
  .next (
    let h := hdr.toNat
    let l := linkOf s p.val
    if !clockOn s || !portUp s p.val || cType h != 0 || cSeq h != l.rxExpect then s
    else
      let v := cVl h
      let bytes := SMap.get l.rx v [] ++ padTo (min 240 (cFill h)) payload
      let r := takeMsgs (bytes.length / 32 + 1) bytes
      let l1 := takeHeader l h
      let l2 := { l1 with
        rxExpect := (l.rxExpect + 1) % 4096
        rxSeen := true
        dropping := false
        rx := SMap.set l1.rx v r.2 [] }
      let s1 := r.1.foldl (fun t m => deliverMsg t (.port p) m) (bump (setLink s p.val l2) (0x7020 + p.val) 0x0C)
      pumpPort (corrected (freeOrHold s1 p v) p.val) p.val)

/-- IDLE cells carry acknowledgements and credits. -/
def execIdleCell (p : PortId) (hdr : BitVec 128) (s : State) : Out :=
  .next (if clockOn s && portUp s p.val && cType hdr.toNat == 1 then
    pumpPort (corrected (setLink s p.val (takeHeader (linkOf s p.val) hdr.toNat)) p.val) p.val else s)

/-- FEC fails a codeword: cells are discarded until the expected one comes again, which is asked for (R262). -/
def execUncorrectableCodeword (p : PortId) (s : State) : Out :=
  .next (if clockOn s && portUp s p.val then
    let s1 := setLink s p.val { linkOf s p.val with dropping := true }
    let l := linkOf s p.val
    let s2 := emit (emit (setLink s1 p.val { l with dropping := true, freed := [] }) (.replayReq p.val l.rxExpect))
      (.cell p.val (cellHdr l 2 0 0 l.rxExpect 0 true) [])
    logEvent (bump s2 (0x7020 + p.val) 7)
      { Event.plain 9 0 (32 + p.val) p.val with srcs := [src 12 p.val], tests := [(.lane, 32 + p.val, p.val)] }
  else s)

/-- REPLAY_REQ: cells go again from the named one; the sixteenth request in a row for one faults the link (R262, R263). -/
def execReplayReq (p : PortId) (hdr : BitVec 128) (s : State) : Out :=
  .next (
    let h := hdr.toNat
    let l := linkOf s p.val
    if clockOn s && portUp s p.val && cType h == 2 then
      let n := if l.reqCount != 0 && l.reqSeq == cAck h then l.reqCount + 1 else 1
      if n = 16 then faultLink s p.val
      else
        let s1 := setLink s p.val (takeCredits { l with reqSeq := cAck h, reqCount := n } h)
        let s2 := emit (bump s1 (0x7020 + p.val) 8) (.replay p.val (cAck h))
        pumpPort ((l.replay.dropWhile (fun c => c.seq != cAck h)).foldl (fun t c => emit t (.cell p.val c.hdr c.payload)) s2) p.val
    else s)

/-- A request's time is over: TIMEOUT, counted and reported (R276). -/
def execRemoteTimeout (tag : BitVec 16) (s : State) : Out :=
  .next (match s.fab.reqs.find? (fun r => r.tag == tag.toNat) with
    | none => s
    | some r =>
      if clockOn s && !stopped s && r.sentAt.isSome && decide (r.deadline ≤ now s) then
        endRequest (logEvent (bump s 0x7000 9) { Event.plain 0x12 2 0xFF r.addr with srcs := [src 11 26] }) r 10 []
      else s)

/-- FABRIC_ENABLE (R259): what waits goes out when it is set, and no new request while it is clear (R277). -/
def effFabricEnable (v : Nat) (s : State) : State := (upPorts s).foldl pumpPort (sendWaiting (setReg s 0x7000 2 v))

def execFabricEnable (p : Path) (v : Byte) (s : State) : Out := guarded s p 0x7000 2 1 v.toNat freely (effFabricEnable v.toNat)

/-! Windows (R273, R347). -/

/-- BASE is 4 KiB aligned and reserved bits are 0. -/
def windowBad (e : Nat) : Bool :=
  qf e 0 11 0 != 0 || qf e 0 63 44 != 0 || qf e 2 63 4 != 0 || qf e 3 63 0 != 0

def preWindow (v : Nat) (_ : State) : Nat := if windowBad v then dRange else dOk

/-- In effect at once; the OK follows with WINDOW_WRITE_OK (R347). -/
def effWindow (w v : Nat) (s : State) : State :=
  let s1 := setReg s (0x1100 + w) 1 v
  { s1 with fab := { s1.fab with windowOk := s1.fab.windowOk ++ [w] } }

def execWindow (p : Path) (w : Fin 256) (v : BitVec 256) (s : State) : Out :=
  .next (if dictLive s then
    let r := tryWrite s p (0x1100 + w.val) 1 32 v.toNat (preWindow v.toNat) (effWindow w.val v.toNat)
    if r.1 = 0 then r.2 else answerTo p r
  else s)

/-- Every request checked against the old contents has finished: the writer, at level L0, receives OK. -/
def execWindowWriteOk (w : Fin 256) (s : State) : Out :=
  .next (if clockOn s && s.fab.windowOk.contains w.val then
    emit { s with fab := { s.fab with windowOk := s.fab.windowOk.erase w.val } } (.dictAnswer .sec dOk [])
  else s)

/-! The end of a coolant stop. -/

/-- The resume is complete: the core runs, suspended times go on, responses kept in the return buffer are handled, and the
ramp applies without skew (R277, R378); a line that has been low for 1 us starts a new stop at once (R377). -/
def execResumeComplete (s : State) : Out :=
  .next (if s.power.stopPhase = 3 then
    let s1 := setReg { s with power := { s.power with stopPhase := 0 } } 0x3040 1 0
    let s2 := shiftTimes s1 (now s1 - s1.power.stopAt)
    let s3 := s2.fab.kept.foldl (fun t e => takeResponse t e.2) { s2 with fab := { s2.fab with kept := [] } }
    let s4 := rampTrigger s3 0
    if lowFor1us s4 then startStop s4 1 else s4
  else s)

end Sys2Proof.Machine
end

