-- ==== Sys2Proof/Machine/CollMsgs.lean ====
section
/-! DEFINITION. The rows of collective messages (R283, R289 to R306): what each does stands in Collect.lean. -/

namespace Sys2Proof.Machine

/-- Lanes that are held back no longer free their cells (R261). -/
def freeLanes (s : State) (p : PortId) : State :=
  let l := linkOf s p.val
  let go := (List.range 4).filter (fun v => !s.fab.held.any (fun x => x.1 == .port p && vlOf x.2.opcode == v))
  if l.heldCells.isEmpty then s
  else setLink s p.val (go.foldl (fun m v => { m with
    freed := SMap.set m.freed v (SMap.get m.freed v 0 + SMap.get m.heldCells v 0) 0
    heldCells := SMap.drop m.heldCells v }) l)

/-- What stands in the receive buffers is looked at again, in its order (R283): messages of a bucket that is now posted are
delivered with those behind them, and one that meets the conditions no longer is discarded. -/
def releaseLanes (s : State) : State :=
  if s.fab.held.isEmpty || !clockOn s then s
  else
    let t := s.fab.held.foldl (fun t x => deliverMsg t x.1 x.2) { s with fab := { s.fab with held := [] } }
    ((List.range 24).map (Fin.ofNat 24)).foldl freeLanes t

/-- RS, and every opcode a COLLECTIVE queue refuses (R284, R305, R313). -/
def execRs (q : QueueId) (tag : TagId) (s : State) : Out :=
  .next (releaseLanes (dispatchColl (fun op => !isSyncOp op && !(decide (0x21 ≤ op) && decide (op ≤ 0x23))) q tag s))

/-- AG (R305). -/
def execAg (q : QueueId) (tag : TagId) (s : State) : Out := .next (releaseLanes (dispatchColl (· == 0x21) q tag s))

/-- AR (R305). -/
def execAr (q : QueueId) (tag : TagId) (s : State) : Out := .next (releaseLanes (dispatchColl (· == 0x22) q tag s))

/-- RSUG (R305). -/
def execRsug (q : QueueId) (tag : TagId) (s : State) : Out := .next (releaseLanes (dispatchColl (· == 0x23) q tag s))

/-- SLICE_TAKEN (R102, R285). -/
def execSliceTaken (a : ArrayId) (ii : PartId) (s : State) : Out := .next (releaseLanes (sliceTake s a.val ii.val))

/-- COMM_STATE (R282); messages held for a communicator no longer ACTIVE are let go (R283). -/
def effCommState (c v : Nat) (s : State) : State := releaseLanes (setCommState c v s)

/-- An activation that reads its rank table at an unassigned address is logged (R6); it fails. -/
def noteTable (p : Path) (c v : Nat) (s : State) : State :=
  match if dictLive s && checkAccess s p (0x7100 + c) 2 true false 0 1 == 0 && v == 1 && !commActive s c
      && !activationBad s (commRec s c) then tableHole (commRec s c) else none with
  | none => s
  | some a => logUnassigned s a (some (cOwner (commRec s c))) 0

/-- COMM_STATE. -/
def execCommState (p : Path) (c : CommId) (v : Byte) (s : State) : Out :=
  guarded (noteTable p c.val v.toNat s) p (0x7100 + c.val) 2 1 v.toNat (preCommState c.val v.toNat) (effCommState c.val v.toNat)

/-- A message of one opcode and kind arrives whole: for another device it passes on, for this one it meets R283. -/
def collKind (op k : Nat) (s : State) (v : Via) (m : Msg) : Out :=
  if gKind m = k then arrive op v m s else .next s

/-- COLL_DATA (R283). -/
def execCollData (v : Via) (m : Msg) (s : State) : Out := arrive 6 v m s

/-- COLL_CTRL (R283). -/
def execCollCtrl (v : Via) (m : Msg) (s : State) : Out := arrive 7 v m s

/-- CONTRIB (R289). -/
def execContrib (v : Via) (m : Msg) (s : State) : Out := collKind 6 1 s v m

/-- PARTIAL_ACC (R289). -/
def execPartialAcc (v : Via) (m : Msg) (s : State) : Out := collKind 6 2 s v m

/-- PARTIAL_BLOCK (R301). -/
def execPartialBlock (v : Via) (m : Msg) (s : State) : Out := collKind 6 3 s v m

/-- COMPRESSED (R298, R299). -/
def execCompressed (v : Via) (m : Msg) (s : State) : Out := collKind 6 4 s v m

/-- GATHER (R305). -/
def execGather (v : Via) (m : Msg) (s : State) : Out := collKind 6 5 s v m

/-- REPAIR_DATA (R302). -/
def execRepairData (v : Via) (m : Msg) (s : State) : Out := collKind 6 6 s v m

/-- SCALES (R300). -/
def execScales (v : Via) (m : Msg) (s : State) : Out := collKind 7 0x10 s v m

/-- SHADOW_DIGEST (R297). -/
def execShadowDigest (v : Via) (m : Msg) (s : State) : Out := collKind 7 0x11 s v m

/-- SUBSTITUTE (R296). -/
def execSubstitute (v : Via) (m : Msg) (s : State) : Out := collKind 7 0x12 s v m

/-- STOPPED (R295). -/
def execStopped (v : Via) (m : Msg) (s : State) : Out := collKind 7 0x13 s v m

/-- DONE (R296, R302). -/
def execDone (v : Via) (m : Msg) (s : State) : Out := collKind 7 0x14 s v m

/-- ABORT (R295). -/
def execAbort (v : Via) (m : Msg) (s : State) : Out := collKind 7 0x15 s v m

/-- NORM (R303). -/
def execNorm (v : Via) (m : Msg) (s : State) : Out := collKind 7 0x16 s v m

/-- REPAIR_REQ (R302). -/
def execRepairReq (v : Via) (m : Msg) (s : State) : Out := collKind 7 0x17 s v m

/-- BARRIER_ARRIVE (R304). -/
def execBarrierArrive (v : Via) (m : Msg) (s : State) : Out := collKind 7 0x18 s v m

/-- BARRIER_RELEASE (R304). -/
def execBarrierRelease (v : Via) (m : Msg) (s : State) : Out := collKind 7 0x19 s v m

end Sys2Proof.Machine
end

