-- ==== Sys2Proof/Machine/Control.lean ====
section
/-! DEFINITION. The control plane (ch. 15): doorbells, queue and ring configuration, the interrupt controller's registers,
and the arbiter. -/

namespace Sys2Proof.Machine

/-! Doorbells (R314, R320); they are ignored in BRINGUP and FAILED (R418). -/

def doorbellError (s : State) : State := bump s 0x2020 3

/-- A new tail; a value of SIZE or more is ignored and counted. -/
def execTail (q : QueueId) (v : BitVec 64) (s : State) : Out :=
  .next (if !clockOn s || barsDead s then s
    else if qSize (qCfg s q.val) ≤ v.toNat then doorbellError s
    else bset s (qTailOff q.val) v.toNat)

/-- The consumer's head of a ring. -/
def execRingHead (r : RingId) (v : BitVec 64) (s : State) : Out :=
  .next (if !clockOn s || barsDead s then s
    else if rSize (rCfg s r.val) ≤ v.toNat then doorbellError s
    else bset s (rHeadOff r.val) v.toNat)

/-! Queue configuration (R312, Table 15.1). -/

/-- The stream a configuration names: none with SIZE 0. -/
def streamOf (c : Nat) : Option (Nat × Nat × Nat) :=
  if qSize c = 0 then none
  else if qKind c = 3 then some (3, 0, 0)
  else if qKind c = 0 then some (0, qUnit c, qPart c)
  else some (qKind c, qUnit c, 0)

/-- Another queue names the same stream. -/
def streamTaken (s : State) (q c : Nat) : Bool :=
  (List.range 64).any (fun x => x != q && (streamOf c).isSome && streamOf (qCfg s x) == streamOf c)

/-- Reserved bits and values outside a field's range. -/
def queueConfigBad (c : Nat) : Bool :=
  qf c 1 15 13 != 0 || qf c 1 63 35 != 0 || decide (4 ≤ qKind c) || decide (4096 < qSize c) || qTagLimit c == 0
    || decide (512 < qTagLimit c) || qBase c % 128 != 0 || (!qHost c && qf c 0 62 44 != 0)

def preQueueConfig (q v : Nat) (s : State) : Nat :=
  if qState s q = 1 || qState s q = 2 then dQuiesce
  else if streamTaken s q v then dConflict
  else if queueConfigBad v then dRange
  else dOk

/-- Head and tail stay when BASE, HOST and SIZE do. -/
def effQueueConfig (q v : Nat) (s : State) : State :=
  let old := qCfg s q
  let s1 := setReg s (0x2100 + q) 1 v
  if qf old 0 63 0 = qf v 0 63 0 && qSize old = qSize v then s1
  else
    let s2 := bset (bset s1 (qHeadOff q) 0) (qTailOff q) 0
    let s3 := slotAnswered s2 q
    { s3 with hostIf := { s3.hostIf with
      slotData := SMap.drop s2.hostIf.slotData q
      flushing := SMap.drop s2.hostIf.flushing q } }

def execQueueConfig (p : Path) (q : QueueId) (v : BitVec 128) (s : State) : Out :=
  guarded s p (0x2100 + q.val) 1 16 v.toNat (preQueueConfig q.val v.toNat) (effQueueConfig q.val v.toNat)

/-! QUEUE_CMD (R317). -/

/-- RESUME makes a STOPPED queue RUNNING. -/
def resumeQueue (s : State) (q : Nat) : State := if qState s q = 3 then runQueue s q else s

/-- FLUSH returns every queued descriptor of a STOPPED queue, which then runs. -/
def flushQueue (s : State) (q : Nat) (tags : List Nat) : State :=
  if qState s q = 3 then
    match queueCtx s q with
    | none => s
    | some c =>
      let s1 := flushSlots s c q 4096 tags
      if qAvail s1 q = 0 then runQueue s1 q else s1
  else s

/-- The free tags a flush uses: those named, then the others. -/
def pickTags (s : State) (l : List TagId) : List Nat :=
  let a := ((l.map Fin.val).filter (tagFree s)).eraseDups
  a ++ (freeTags s).filter (fun t => !a.contains t)

def effQueueCmd (q v : Nat) (s : State) : State :=
  if v = 1 then resumeQueue s q else flushQueue s q (freeTags s)

def execResume (p : Path) (q : QueueId) (s : State) : Out :=
  guarded s p (0x2100 + q.val) 3 1 1 freely (effQueueCmd q.val 1)

def execFlush (p : Path) (q : QueueId) (tags : List TagId) (s : State) : Out :=
  guarded s p (0x2100 + q.val) 3 1 2 freely (fun t => flushQueue t q.val (pickTags t tags))

/-! Completion rings (R319, Table 15.4). -/

def ringSizeOk (n : Nat) : Bool := n == 0 || (decide (16 ≤ n) && decide (n ≤ 65536) && 2 ^ n.log2 == n)

def ringConfigBad (c : Nat) : Bool :=
  qf c 1 63 18 != 0 || !ringSizeOk (rSize c) || qBase c % 32 != 0
    || (!qHost c && rSize c != 0 && !userRange (qBase c) (32 * rSize c))

/-- Only while the ring is empty and no record waits for it. -/
def ringBusy (s : State) (r : Nat) : Bool :=
  bget s (rHeadOff r) != bget s (rTailOff r) || s.ready.any (fun x => x.ring == r)

def preRingConfig (r v : Nat) (s : State) : Nat :=
  if ringBusy s r then dQuiesce else if ringConfigBad v then dRange else dOk

def effRingConfig (r v : Nat) (s : State) : State :=
  let s1 := bset (bset (setReg s (0x2140 + r) 1 v) (rHeadOff r) 0) (rTailOff r) 0
  { s1 with ringPass := SMap.set s1.ringPass r true true }

def execRingConfig (p : Path) (r : RingId) (v : BitVec 128) (s : State) : Out :=
  guarded s p (0x2140 + r.val) 1 16 v.toNat (preRingConfig r.val v.toNat) (effRingConfig r.val v.toNat)

/-! The interrupt controller (R328 to R334). -/

/-- An occurrence of an event source, or the present condition of a level source. The software sources are set through
RAISE alone. -/
def execInterruptSource (n : SourceId) (condition : Bool) (s : State) : Out :=
  .next (if !s.aon.up || inIdx (n.val / 32) 20 4 then s
    else if isLevelSrc n.val then setCond s n.val condition
    else raise s n.val)

/-- The controller's registers are served: its clock runs and it is not in retention. -/
def irqServes (s : State) : Bool := clockOn s && !s.irq.saved

/-- A read of CLAIM (R331); the host's reads 0. -/
def execClaim (p : Fin 6) (s : State) : Out :=
  .next (if !irqServes s then s
    else if p.val != 5 && line s p.val then
      emit { s with irq := { s.irq with levels := SMap.set s.irq.levels p.val (winLevel s p.val :: levelStack s p.val) [] } }
        (.claimed p.val (winLevel s p.val))
    else emit s (.claimed p.val 0))

/-- A write of EOI pops the stack (R331). -/
def execEoi (p : Fin 6) (s : State) : Out :=
  .next (if !irqServes s || p.val = 5 then s
    else linesRose s { s with irq := { s.irq with levels := SMap.set s.irq.levels p.val ((levelStack s p.val).drop 1) [] } })

/-- May this writer change the bits of a source (R329). -/
def mayWrite (s : State) (w : IrqWriter) (n : Nat) : Bool := srcTarget s n != 4 || w == .sec

/-- A write of 1s to PENDING clears bits. -/
def execPending (w : IrqWriter) (g : Fin 32) (v : BitVec 32) (s : State) : Out :=
  .next (if !irqServes s then s
    else (((bitsOf v.toNat 32).map (fun i => 32 * g.val + i)).filter (fun n => mayWrite s w n && isPending s n)).foldl clearPending s)

/-- A write of 1s to RAISE sets bits. -/
def execRaise (w : IrqWriter) (g : Fin 32) (v : BitVec 32) (s : State) : Out :=
  .next (if !irqServes s then s
    else raiseAll s (((bitsOf v.toNat 32).map (fun i => 32 * g.val + i)).filter (mayWrite s w)))

/-- Sources of a group that the host is told of: pending, with PRIO above its THRESHOLD. -/
def hostSources (s : State) (g : Nat) : List Nat :=
  ((bitsOf (pendWord s g) 32).map (fun i => 32 * g + i)).filter (fun n => srcTarget s n == 5 && decide (threshold s 5 < srcPrio s n))

/-- A hold-off timer expires: held sources count again, lines are asserted and messages sent (R332, R333). -/
def execHoldoffExpiry (g : Fin 32) (s : State) : Out :=
  .next (match SMap.find s.irq.timers g.val with
    | none => s
    | some t =>
      if clockOn s && decide (t ≤ now s) then
        let s1 := { s with irq := { s.irq with
          timers := SMap.drop s.irq.timers g.val
          held := SMap.set s.irq.held g.val 0 0 } }
        (hostSources s1 g.val).foldl sendMsix (linesRose s s1)
      else s)

/-- A held timer is claimed or released by its holder alone (R332, R360). -/
def preHoldoff (p : Path) (g : Nat) (s : State) : Nat :=
  if reg s 0x2030 (9 + g) != 0 && reg s 0x2030 (9 + g) != claimantOf p then dConflict else dOk

def effHoldoff (p : Path) (g v : Nat) (s : State) : State :=
  setReg (setReg s (0x2180 + g) 1 v) 0x2030 (9 + g) (if v = 0 then 0 else claimantOf p)

def execHoldoffNs (p : Path) (g : Fin 32) (v : BitVec 32) (s : State) : Out :=
  guarded s p (0x2180 + g.val) 1 4 v.toNat (preHoldoff p g.val) (effHoldoff p g.val v.toNat)

/-- An edge on a GPIO that is an interrupt input. -/
def execGpioEdge (n : Fin 8) (s : State) : Out :=
  .next (if clockOn s && reg s 0x2040 (1 + n.val) == 2 then raise s (src 24 n.val) else s)

/-- The host unmasks a vector: a message that waits is sent (R333). -/
def execMsiXUnmask (v : Fin 64) (s : State) : Out :=
  .next (if !clockOn s then s
    else
      let s1 := bset s (msixCtl v.val) (setBit (bget s (msixCtl v.val)) 0 false)
      if (bget s1 pbaOff).testBit v.val then
        let g := SMap.get s1.irq.pba v.val 0
        let s2 := emit (bset s1 pbaOff (setBit (bget s1 pbaOff) v.val false)) (.msix v.val)
        let s3 := { s2 with irq := { s2.irq with pba := SMap.set s2.irq.pba v.val 0 0 } }
        if g = 0 then s3 else startTimer s3 (g - 1)
      else s1)

/-- SRC_CFG: PRIO, TARGET and VECTOR; TARGET 6 or 7 is ignored whole, and a source of the security core is its own
(R329). -/
def execSrcCfg (w : IrqWriter) (n : SourceId) (v : BitVec 32) (s : State) : Out :=
  .next (if !irqServes s || 6 ≤ fld v.toNat 6 4 || !mayWrite s w n.val then s
    else linesRose s (bset s (srcCfgOff n.val) (fld v.toNat 6 0 + fld v.toNat 13 8 * 2 ^ 8)))

def execThreshold (_w : IrqWriter) (p : Fin 6) (v : BitVec 32) (s : State) : Out :=
  .next (if !irqServes s then s else linesRose s (bset s (thrOff p.val) (v.toNat % 16)))

/-! The arbiter (R335 to R338). -/

/-- Key of a resource. -/
def resKey : Resource → Nat
  | .loamBank t b => t.val * 4096 + b.val
  | .stackLink k => 2 ^ 20 + k.val
  | .fratyOut p vl => 2 ^ 21 + 4 * p.val + vl.val
  | .noc t => 2 ^ 22 + t.val

/-- Kind of a resource: 0 loam, 1 stack link, 2 Fraty port, 3 NOC. -/
def resKind : Resource → Nat
  | .loamBank .. => 0
  | .stackLink _ => 1
  | .fratyOut .. => 2
  | .noc _ => 3

/-- Pending-queue depth of a requester (Table 15.14). -/
def resDepth : Resource → Nat
  | .loamBank .. => 4
  | .stackLink _ => 8
  | .fratyOut .. => 16
  | .noc _ => 8

def ArbUnit.idle : ArbUnit := { queue := [], waits := [], holder := none, since := 0 }

def arbOf (s : State) (r : Resource) : ArbUnit := SMap.get s.arb (resKey r) ArbUnit.idle

def setArb (s : State) (r : Resource) (u : ArbUnit) : State := { s with arb := SMap.set s.arb (resKey r) u ArbUnit.idle }

/-- A requester's order and index as one number, in the order the arbiter prefers them. -/
def who (x : ArbReq) : Nat := x.order * 256 + x.index % 256

/-- Park requests; one whose requester's pending queue is full waits outside (R336). -/
def park (depth : Nat) (q : List ArbReq) (l : List ArbReq) : List ArbReq :=
  l.foldl (fun t x => if (t.filter (fun y => who y == who x)).length < depth then t ++ [x] else t) q

/-- The requesters with parked requests. -/
def requesters (q : List ArbReq) : List Nat := (q.map who).eraseDups

/-- GRANT: a grant point, with requests that have come since the last one. -/
def execGrant (r : Resource) (arrivals : List ArbReq) (s : State) : Out :=
  .next (
    let u := arbOf s r
    let q := park (resDepth r) u.queue arrivals
    let c := requesters q
    if !clockOn s then s
    else match winner (waitLimit s (resKind r)) (fun w => SMap.get u.waits w 0) c with
      | none => setArb s r { u with queue := q, holder := none }
      | some w =>
        match q.find? (fun x => who x == w) with
        | none => s
        | some x =>
          let waits := c.foldl (fun m y => if y = w then SMap.set m y 0 0 else SMap.set m y (SMap.get m y 0 + 1) 0) u.waits
          emit (setArb s r { queue := q.erase x, waits := waits, holder := some x, since := now s }) (.arbGranted r x))

/-- Unit, DETAIL and tests of a resource-watchdog event (R337, R390). -/
def resEvent (r : Resource) : Event :=
  match r with
  | .loamBank t b =>
    let line := loamLineAt t.val b.val 0
    let n := regionOf line
    { Event.plain 0x13 1 (60 + n) (t.val * 4096 + b.val) with srcs := [src 18 2], tests := [(.line, 60 + n, line)] }
  | .stackLink k => { Event.plain 0x13 1 (12 + k.val) k.val with srcs := [src 18 2], tests := [(.stackLink, 12 + k.val, 0)] }
  | .fratyOut p vl =>
    { Event.plain 0x13 1 (32 + p.val) (4 * p.val + vl.val) with srcs := [src 18 2], tests := [(.lane, 32 + p.val, p.val)] }
  | .noc t => { Event.plain 0x13 1 57 t.val with srcs := [src 18 2] }

/-- The operation of a stuck transfer stops with HW_FAULT (R106); `id` is its tag. -/
def faultHolder (s : State) (x : ArbReq) : State :=
  match findOp s x.id with
  | none => s
  | some o => if o.ended then s else announceStops (stopOp s o stHwFault)

/-- How the stuck transfer ends (R337). -/
def endStuck (s : State) (r : Resource) (x : ArbReq) : State :=
  match r with
  | .loamBank .. => faultHolder s x
  | .stackLink _ => faultHolder s x
  | .fratyOut p _ => leaveUp s p.val 4
  | .noc _ =>
    if x.order = 7 then emit s (.accessFault x.index)
    else if x.order = 6 then emit s (.hostData (allOnes 64) false)
    else faultHolder s x

/-- The watchdog of a granted resource expires; it is suspended in a coolant stop. -/
def execResourceWatchdogExpiry (r : Resource) (s : State) : Out :=
  .next (
    let u := arbOf s r
    match u.holder with
    | none => s
    | some x =>
      if clockOn s && !stopped s && decide (u.since + reg s 0x2700 (1 + resKind r) ≤ now s) then
        endStuck (logEvent (bump (setArb s r { u with holder := none }) 0x2700 5) (resEvent r)) r x
      else s)

/-- WAIT_LIMIT: takes effect at the next grant point. -/
def effWaitLimit (k sub v : Nat) (s : State) : State := setReg s (0x2710 + k) sub v

def execWaitLimit (p : Path) (k : Fin 4) (sub : Fin 7) (v : BitVec 16) (s : State) : Out :=
  guarded s p (0x2710 + k.val) (1 + sub.val) 2 v.toNat freely (effWaitLimit k.val (1 + sub.val) v.toNat)

end Sys2Proof.Machine
end

