-- ==== Sys2Proof/Machine/Rely.lean ====
section
/-! DEFINITION. Reliability (ch. 18): FAULT_N, targeted self-tests with their outcomes and repairs, lane checks, and writes
to the retired list. -/

namespace Sys2Proof.Machine

/-! FAULT_N (R388). -/

/-- A write of 1 releases the drive; source 18:1 stays pending while another device holds the line low. -/
def effFaultAck (v : Nat) (s : State) : State :=
  if v = 1 then setCond { s with rel := { s.rel with faultDrive := false } } (src 18 1) s.pins.faultNLow else s

def execFaultAck (p : Path) (v : Byte) (s : State) : Out :=
  guarded s p 0x8000 2 1 v.toNat freely (effFaultAck v.toNat)

/-- Another device pulls FAULT_N low or lets it go. -/
def execFaultNChange (low : Bool) (s : State) : Out :=
  .next (
    let s1 := { s with pins := { s.pins with faultNLow := low } }
    if s.aon.up then setCond s1 (src 18 1) (low || s.rel.faultDrive) else s1)

/-! Lanes and wires (Table 18.6). -/

/-- Halves of a port go out of use: it runs on the healthy half (R258), or is DOWN. -/
def dropLanes (s : State) (p : Nat) (low high : Bool) : State :=
  let l := linkOf s p
  let l1 := { l with badLow := l.badLow || low, badHigh := l.badHigh || high }
  let s1 := setLink s p l1
  if !portUp s p then s1
  else if l1.badLow && l1.badHigh then leaveUp s1 p 0
  else if l1.badLow || l1.badHigh then setLinkState (setReg s1 (0x7020 + p) 5 (if l1.badLow then 0xF0 else 0x0F)) p 3
  else s1

def lanesLost (s : State) (p : Nat) : Bool := (linkOf s p).badLow && (linkOf s p).badHigh

/-- The same with the retirement recorded when no half is left; which lane is named is not stated (log 3). -/
def retireLanes (s : State) (p : Nat) (low high : Bool) : State :=
  let s1 := dropLanes s p low high
  if lanesLost s1 p && !lanesLost s p then
    recordRetired (nextFree s1) 6 (32 + p) (Config.freeValue s1.freeCtr % 8) []
  else s1

def spareWiresUsed (s : State) (k : Nat) : Nat := SMap.get s.hbm.spareWires k 0

/-- A wire is replaced by a free spare, or the stack is unusable (R207, R211). -/
def dropWire (s : State) (k : Nat) : State :=
  if spareWiresUsed s k < 16 then
    { s with hbm := { s.hbm with spareWires := SMap.set s.hbm.spareWires k (spareWiresUsed s k + 1) 0 } }
  else { s with hbm := { s.hbm with unusable := SMap.set s.hbm.unusable k true false } }

def retireWire (s : State) (k wire : Nat) : State :=
  let s1 := dropWire s k
  if stackLost s1 k && !stackLost s k then recordRetired s1 7 (12 + k) wire [] else s1

/-! Targeted self-tests (R390 to R393). -/

/-- The unit of a test has already been retired (R391). -/
def siteRetired (s : State) (t : Test) : Bool :=
  let arr := retiredBlocks s t.unit == 0xFFFF
  let eng := engineRetired s (t.unit - 4)
  match t.kind with
  | .line => isRetired s t.loc
  | .loamMarch => isRetired s t.loc
  | .hbmRow => isRetired s t.loc
  | .arrayRegion => arr
  | .outputStage => arr
  | .engine => eng
  | .fullUnit => if t.unit < 4 then arr else eng
  | .stackLink => stackLost s (t.unit - 12)
  | .lane => lanesLost s (t.unit - 32)

/-- Outcome of a test that has run: 1 TRANSIENT, 2 INTERMITTENT, 3 LASTING (R392). -/
def outcomeOf (s : State) (t : Test) (pass : Bool) : Nat :=
  let times := match s.rel.locs.find? (fun l => l.code == t.code && l.unit == t.unit && l.loc == t.loc) with
    | none => []
    | some l => l.times
  let recent := (times.filter (fun x => decide (now s ≤ x + reg s 0x8000 4 * 1000000000))).length
  if !pass then 3 else if reg s 0x8000 5 < recent then 2 else 1

/-- The code 20h entry of an outcome, and an array's source 4:(8n + 1). -/
def logOutcome (s : State) (t : Test) (o : Nat) : State :=
  let e := Event.plain 0x20 (if o = 1 then 0 else 3) t.unit t.detail
  let s1 := if suppressed s e then bump s 0x8100 3 else writeEntryOf (countMs s e) e o
  if t.unit < 4 then raise s1 (src 4 (8 * t.unit + 1)) else s1

/-- The cells that an array test identifies as failing (R83). -/
def testFailures (t : Test) (r : TestResult) : List CellAt :=
  match t.kind with
  | .arrayRegion => failingCells r.upsets (siteCells t.loc)
  | .fullUnit => if t.unit < 4 then failingCells r.upsets (fun _ _ => true) else []
  | _ => []

/-- PASS or FAIL (Table 18.5): an array test by its comparison, and the output stage's tile; the others by the march,
program or check of the unit. -/
def testPasses (t : Test) (r : TestResult) : Bool :=
  (testFailures t r).isEmpty && (t.kind == .arrayRegion || r.pass)
    && (!(t.kind == .arrayRegion || t.kind == .fullUnit) || (r.badSpareRows.isEmpty && r.badSpareCols.isEmpty))

/-- Repairs of array cells (R86, R393). -/
def repairArray (s : State) (t : Test) (o : Nat) (cells : List CellAt) : State :=
  if o = 3 then repairCells s t.unit cells
  else match t.cell with
    | some c => repairCell s t.unit c.1 c.2
    | none => if t.code = 7 then backOff s t.unit else s

/-- A repair that changed the array's records is confirmed: the test runs again at once (R87). -/
def confirm (before s : State) (t : Test) : State :=
  if recordsOf before t.unit = recordsOf s t.unit then s
  else { s with rel := { s.rel with tests := { t with code := 0x20, running := true, cell := none, capture := none } :: s.rel.tests } }

/-- Repair or retirement after an INTERMITTENT or LASTING outcome (Table 18.6). -/
def repairSite (s : State) (t : Test) (o : Nat) (r : TestResult) : State :=
  let memory := if 60 ≤ t.unit then retireLoamLine s t.loc else softRepair s (hbmOf t.loc)
  let array := confirm s (repairArray (failSpares s t.unit r.badSpareRows r.badSpareCols) t o (testFailures t r)) t
  match t.kind with
  | .line => memory
  | .loamMarch => memory
  | .hbmRow => memory
  | .arrayRegion => array
  | .outputStage => retireArray s t.unit
  | .engine => retireEngine s (t.unit - 4)
  | .fullUnit =>
    if 4 ≤ t.unit then retireEngine s (t.unit - 4)
    else if o = 3 && !r.pass then retireArray s t.unit
    else array
  | .stackLink => retireWire s (t.unit - 12) (if o = 3 then r.wire.toNat else t.loc)
  | .lane =>
    if o = 3 then retireLanes s (t.unit - 32) (!r.lowHalfOk) (!r.highHalfOk)
    else
      let b := (Config.freeValue s.freeCtr).testBit 0
      retireLanes (nextFree s) (t.unit - 32) b (!b)

/-- Does the recomputation of R395 run: after a repair that follows an EXACT_MISMATCH, unless the partition is retired. -/
def recomputes (before s : State) (t : Test) : Bool :=
  t.code == 6 && recordsOf before t.unit != recordsOf s t.unit && retiredBlocks before t.unit == retiredBlocks s t.unit

/-- It fails when the repaired array's values of the captured tile are not those of the exact check. -/
def recomputeFails (before s : State) (t : Test) (r : TestResult) : Bool :=
  recomputes before s t && (match t.capture with
    | some c => (c.failed.map Prod.fst).any (fun v => (wsRecompute c r.recompute).1 != v)
    | none => false)

/-- The recirculation buffer after a recomputation (R82). -/
def keepRecirc (before s : State) (t : Test) (r : TestResult) : State :=
  match t.capture with
  | some c => if recomputes before s t then
      setArray s t.unit { arrayOf s t.unit with recirc := (wsRecompute c r.recompute).2 } else s
  | none => s

/-- A test has ended: counted, classified, logged, and the site repaired or retired. -/
def endTest (s : State) (t : Test) (r : TestResult) : State :=
  let s1 := bump { s with rel := { s.rel with tests := s.rel.tests.erase t } } 0x8000 8
  let o := outcomeOf s1 t (testPasses t r)
  if o = 1 then logOutcome s1 t 1
  else if recomputeFails s1 (repairSite s1 t o r) t r then
    let s2 := keepRecirc s1 (repairSite (logOutcome s1 t 3) t o r) t r
    match t.cell with
    | some c => retireBlock s2 t.unit (4 * (c.1 / 128) + c.2 / 128)
    | none => s2
  else keepRecirc s1 (repairSite (logOutcome s1 t o) t o r) t r

/-- Tests run: the clock runs, and the device is neither stopped nor in Hold (R391). -/
def testsRun (s : State) : Bool := clockOn s && !stopped s && reg s 0x3300 1 != 3

/-- May a pending test start: its unit runs no other; an array test needs the idle array (R83, R376). -/
def mayStartTest (s : State) (t : Test) : Bool :=
  !s.rel.tests.any (fun x => x.running && x.unit == t.unit)
    && (decide (4 ≤ t.unit) || (arrayIdle s t.unit && s.pins.paceHoldN))

/-- Mark the first pending test of a unit as running. -/
def startFirst (t : Test) : List Test → List Test
  | [] => []
  | x :: l => if x = t then { t with running := true } :: l else x :: startFirst t l

/-- The earliest pending test of a unit starts (R391); a retired unit's does not run and is LASTING. -/
def execTargetedSelfTestStart (unit : Fin 64) (s : State) : Out :=
  .next (match s.rel.tests.find? (fun t => t.unit == unit.val && !t.running) with
    | none => s
    | some t =>
      if !testsRun s || s.rel.tests.any (fun x => x.running && x.unit == t.unit) then s
      else if siteRetired s t then logOutcome { s with rel := { s.rel with tests := s.rel.tests.erase t } } t 3
      else if mayStartTest s t then { s with rel := { s.rel with tests := startFirst t s.rel.tests } }
      else s)

/-- A running test of a unit ends. Lane checks end with their own command. -/
def execTargetedSelfTestEnd (unit : Fin 64) (r : TestResult) (s : State) : Out :=
  .next (match s.rel.tests.find? (fun t => t.unit == unit.val && t.running && t.kind != .lane) with
    | none => s
    | some t => if testsRun s then endTest s t r else s)

/-- The lane error-rate check of a port ends; the measured ratio is 7020h + p:09 (R390). -/
def execLaneErrorRateCheckEnd (p : PortId) (ratio : BitVec 32) (lowOk highOk : Bool) (s : State) : Out :=
  .next (match s.rel.tests.find? (fun t => t.unit == 32 + p.val && t.running && t.kind == .lane) with
    | none => s
    | some t =>
      if testsRun s then
        endTest (setReg s (0x7020 + p.val) 9 ratio.toNat) t
          { pass := lowOk && highOk, upsets := [], badSpareRows := [], badSpareCols := [], wire := 0, lowHalfOk := lowOk,
            highHalfOk := highOk, recompute := [] }
      else s)

/-! The retired list (R394, Table 18.7). -/

def retiredEntry (s : State) (i : Nat) : Nat := domVal s 0x8200 1 (16 * i) 16

/-- The entry that `data`, written from entry i0 on, gives to entry i0 + j. -/
def newEntry (data : List Byte) (j : Nat) : Nat := leVal ((data.drop (16 * j)).take 16)

/-- A non-empty entry would change, or an empty one gets a reserved SITE or field. -/
def entryBad (old new : Nat) : Bool :=
  if old % 256 = 0 then decide (7 < new % 256) || fld new 63 16 != 0 else new != old

/-- Retire the site of a listed entry. A site that the part does not have has no effect. -/
def retireListed (s : State) (e : Nat) : State :=
  let site := e % 256
  let unit := fld e 15 8
  let loc := fld e 127 64
  if site = 1 then (if inLoam loc then markRetired s [lineAddr loc] else s)
  else if site = 2 then (if inHbm loc then markRetired s (rowLines (hbmOf loc)) else s)
  else if site = 3 then (if unit < 4 && decide (loc < 16) then dropBlock s unit loc else s)
  else if site = 4 then (if unit < 4 then dropArray s unit else s)
  else if site = 5 then (if 4 ≤ unit && decide (unit < 8) then retireArray (dropEngine s (unit - 4)) (unit - 4) else s)
  else if site = 6 then
    (if 32 ≤ unit && decide (unit < 56) && decide (loc < 8) then dropLanes s (unit - 32) (decide (loc < 4)) (decide (4 ≤ loc))
     else s)
  else if site = 7 then (if 12 ≤ unit && decide (unit < 32) then dropWire s (unit - 12) else s)
  else s

/-- Interrupt sources of a listed retirement: an array's 4:(8n + 3). -/
def listedSrcs (e : Nat) : List Nat :=
  if (e % 256 == 3 || e % 256 == 4) && decide (fld e 15 8 < 4) then [src 4 (8 * fld e 15 8 + 3)] else []

def preRetiredList (off : Nat) (data : List Byte) (s : State) : Nat :=
  if (List.range (data.length / 16)).any (fun j => entryBad (retiredEntry s (off / 16 + j)) (newEntry data j)) then dRange else dOk

/-- Each empty entry that is filled retires its site and is logged with its index. -/
def effRetiredList (off : Nat) (data : List Byte) (s : State) : State :=
  let filled := (List.range (data.length / 16)).filter (fun j =>
    retiredEntry s (off / 16 + j) % 256 == 0 && newEntry data j % 256 != 0)
  filled.foldl (fun t j =>
    let e := newEntry data j
    logRetired (retireListed t e) (fld e 15 8) (listedSrcs e) (some (off / 16 + j))) (domWrite s 0x8200 1 off data)

/-- A block write of `data` at `off`: the checks of R351 in order, then `pre`, then the effect. `unitLen` is the length
that offsets and lengths are multiples of. -/
def tryBlock (s : State) (p : Path) (i sub off : Nat) (data : List Byte) (unitLen : Nat) (pre : State → Nat)
    (eff : State → State) : Nat × State :=
  let c := checkAccess s p i sub true true off data.length
  if c = dNoEntry || c = dPrivilege || c = dAccess || c = dLength then (c, s)
  else if off % unitLen != 0 || data.length % unitLen != 0 then (dLength, s)
  else if c ≠ 0 then (c, s)
  else if pre s ≠ 0 then (pre s, s)
  else (dOk, eff s)

def execRetiredListWrite (p : Path) (offset : BitVec 32) (data : List Byte) (s : State) : Out :=
  .next (if dictLive s then
    answerTo p (tryBlock s p 0x8200 1 offset.toNat data 16 (preRetiredList offset.toNat data)
      (effRetiredList offset.toNat data))
  else s)

end Sys2Proof.Machine
end

