-- ==== Sys2Proof/Machine/Signed.lean ====
section
/-! DEFINITION. The signed-command buffer (R402, Table 18.11) and its acceptance. -/

namespace Sys2Proof.Machine

/-! Status codes of COMMAND_STATUS (R403). -/
abbrev cRunning : Nat := 1
abbrev cOk : Nat := 2
abbrev cFormat : Nat := 3
abbrev cSerial : Nat := 4
abbrev cNonce : Nat := 5
abbrev cKey : Nat := 6
abbrev cSignature : Nat := 7
abbrev cRefused : Nat := 8
abbrev cNoIdentity : Nat := 9

def cmdStatus (s : State) : Nat := reg s 0x9010 3

/-- Bytes of the command. -/
def cmdBytes (s : State) (off len : Nat) : List Byte := domRead s 0x9010 1 off len

def cmdVal (s : State) (off len : Nat) : Nat := leVal (cmdBytes s off len)

def cmdCode (s : State) : Nat := cmdVal s 5 1
def cmdKeySlot (s : State) : Nat := cmdVal s 6 1
def cmdPayloadLen (s : State) : Nat := cmdVal s 24 4

/-- The payload begins at byte 5,376. -/
def payVal (s : State) (off len : Nat) : Nat := cmdVal s (5376 + off) len

def zeroBytes (s : State) (off len : Nat) : Bool := (cmdBytes s off len).all (fun b => b == 0)

/-- MAGIC, VERSION, PAYLOAD_LEN and the reserved fields of Table 18.11. -/
def cmdHeaderOk (s : State) : Bool :=
  cmdVal s 0 4 == 0x444D4353 && cmdVal s 4 1 == 1 && zeroBytes s 7 1 && zeroBytes s 28 36 && zeroBytes s 5325 51
    && decide (cmdPayloadLen s ≤ 60160)
    && (decide (cmdKeySlot s < 3) || cmdKeySlot s == 0x80 || cmdKeySlot s == 0x81)

/-- While the status reads RUNNING, writes fail with BUSY. -/
def preSigned (s : State) : Nat := if cmdStatus s = cRunning then dBusy else dOk

/-- The bytes are stored; the write that covers offset 0 starts verification. -/
def effSigned (p : Path) (off : Nat) (data : List Byte) (s : State) : State :=
  let s1 := domWrite s 0x9010 1 off data
  if off = 0 && !data.isEmpty then
    { setReg s1 0x9010 3 cRunning with sec := { s1.sec with result := none, via := some p } }
  else s1

def execSignedCommand (p : Path) (offset : BitVec 32) (data : List Byte) (s : State) : Out :=
  .next (if dictLive s then
    answerTo p (tryBlock s p 0x9010 1 offset.toNat data 8 preSigned (effSigned p offset.toNat data))
  else s)

end Sys2Proof.Machine
end

