-- ==== Sys2Proof/Machine/Dictionary.lean ====
section
/-! DEFINITION. The object dictionary (ch. 16): what each entry reads as, what each write does, frames on the field network
and in the mailbox, two-phase mode changes and the owner table's pins. -/

namespace Sys2Proof.Machine

/-! Reads. -/

/-- Readings of a measurement whose value no rule states (log 3): the read rate of a trained stack over the last microsecond,
and the symbol error ratio of a port that has corrected symbols. -/
def freeReading (s : State) (i sub : Nat) : Bool :=
  (inIdx i 0x5020 20 && sub == 2 && reg s i 5 != 0) || (inIdx i 0x7020 24 && sub == 9 && reg s i 6 != 0)

/-- MODE_STATE_DEVICE: MIXED when any unit is, else STAGED when any is (Table 16.9). -/
def deviceMode (s : State) : Nat :=
  if mixed s then 2 else if (List.range 4).any (fun u => modeState s u == 1) then 1 else 0

/-- No wave or step is in flight (Table 17.6). -/
def nothingRuns (s : State) : Bool :=
  (List.range 4).all (arrayIdle s) && (List.range 4).all (fun n => (engineOf s n).epi.isNone && (engineOf s n).run.isNone)

/-- POWER_STATE: D0 shows as D0-Idle while nothing runs. -/
def powerState (s : State) : Nat := if reg s 0x3300 1 = 0 && nothingRuns s then 1 else reg s 0x3300 1

/-- Two bits for each owner slot. -/
def ownerStates (s : State) : Nat := (List.range 3).foldl (fun v n => v + SMap.get s.fuses.ownerState n 0 * 4 ^ n) 0

def retiredCount (s : State) : Nat := ((List.range 1024).filter (fun i => domByte s 0x8200 1 (16 * i) != 0)).length

/-- WAVE_RATE_NOW: waves of the busiest partition over the last 1 us, in M waves/s (Table 4.4). -/
def waveRateNow (s : State) (a : Nat) : Nat :=
  (arrayOf s a).recent.foldl (fun m e => max m (recentSum e.2 (now s))) 0

/-- STEP_RATE_NOW: steps over the last 1 us, in M steps/s (Table 6.7). -/
def stepRateNow (s : State) (n : Nat) : Nat := recentSum (engineOf s n).recent (now s)

/-- Entries of arrays, engines and stacks that show something held elsewhere. -/
def unitVal (s : State) (i sub : Nat) : Nat :=
  if inIdx i 0x2200 4 && sub = 3 then b2n (arrayIdle s (i - 0x2200))
  else if inIdx i 0x2200 4 && sub = 4 then ceilingFused s (i - 0x2200)
  else if inIdx i 0x2200 4 && sub = 5 then ceilingOf s (i - 0x2200)
  else if inIdx i 0x2200 4 && sub = 6 then waveRateNow s (i - 0x2200)
  else if inIdx i 0x2300 4 && sub = 1 then stepRateNow s (i - 0x2300)
  else if inIdx i 0x2200 4 && sub = 0x0B then 8 - SMap.get s.fuses.repairFree (i - 0x2200) 0
  else if inIdx i 0x3010 8 && sub = 2 then SMap.get s.fuses.marginFloor (i - 0x3010) 0
  else if inIdx i 0x3010 4 && sub = 5 then paceLimit s (i - 0x3010)
  else if inIdx i 0x3014 4 && sub = 5 then rateLimit s (i - 0x3014)
  else if inIdx i 0x5020 20 && sub = 4 then hpprFreeOf s (i - 0x5020)
  else reg s i sub

/-- The value of an entry that is no DOMAIN. Subindex 00h holds the highest subindex (R341). -/
def readVal (s : State) (i sub : Nat) : Nat :=
  if sub = 0 then highestSub i
  else if i = 0x1000 && sub = 3 then s.fuses.serial.toNat
  else if i = 0x1000 && sub = 6 then s.fuses.mac.toNat
  else if i = 0x2004 && sub = 1 then now s
  else if i = 0x2010 && sub = 1 then deviceMode s
  else if i = 0x2020 && sub = 2 then 512 - s.ops.length
  else if i = 0x2500 && sub = 5 then s.waits.length
  else if i = 0x3020 && sub = 5 then skewOf s
  else if i = 0x3300 && sub = 1 then powerState s
  else if i = 0x4000 && sub = 1 then ((List.range 64).filter (ctxHolds s)).length
  else if i = 0x8200 && sub = 2 then retiredCount s
  else if i = 0x9001 then SMap.get s.fuses.svn (sub - 1) 0
  else if i = 0x9002 && sub = 4 then ownerStates s
  else if i = 0x9002 then SMap.get s.fuses.ownerHash (sub - 1) 0
  else if i = 0x9003 then SMap.get s.fuses.lemundHash (sub - 1) 0
  else unitVal s i sub

/-- A byte of a DOMAIN. -/
def readByte (s : State) (i sub off : Nat) : Byte :=
  if i = 0x3200 then BitVec.ofNat 8 (Config.coefficientByte off) else domByte s i sub off

/-! Writes. -/

/-- The unit of a staged entry (R357): 0 HBM, 1 POWER. -/
def stagedUnit (i sub : Nat) : Option Nat :=
  if i = 0x5000 && sub = 1 then some 0 else if i = 0x3070 && sub = 1 then some 1 else none

/-- BUSY while any subentry reads MIXED (R359). -/
def preMode (s : State) : Nat := if mixed s then dBusy else dOk

/-- The value goes into the staging copy, and the unit is STAGED. -/
def effStage (i sub v unit : Nat) (s : State) : State :=
  setReg { s with frames := { s.frames with staged := SMap.set s.frames.staged (dkey i sub) (1 + v) 0 } } 0x2010 (2 + unit) 1

/-- COMMIT: every unit with staged values is MIXED, and dispatch takes no descriptor. -/
def commitModes (s : State) : State :=
  ((List.range 4).filter (fun u => modeState s u == 1)).foldl (fun t u => setReg t 0x2010 (2 + u) 2)
    { s with hbm := { s.hbm with wrapped := [] } }

/-- MODE_CMD (R358). -/
def effModeCmd (v : Nat) (s : State) : State := if v = 1 then commitModes s else discardStaged s

/-- A pin or timer is claimed and released by its holder alone (R360). -/
def preGpio (p : Path) (n : Nat) (s : State) : Nat :=
  if reg s 0x2030 (1 + n) != 0 && reg s 0x2030 (1 + n) != claimantOf p then dConflict else dOk

def effGpio (p : Path) (n v : Nat) (s : State) : State :=
  setReg (setReg s 0x2040 (1 + n) v) 0x2030 (1 + n) (if v = 0 then 0 else claimantOf p)

/-- DEVICE_NUMBER only while FABRIC_ENABLE is 0 (R259). -/
def preDeviceNumber (s : State) : Nat := if reg s 0x7000 2 = 1 then dQuiesce else dOk

/-- COMM_RECORD only while COMM_STATE is 0 (R282). -/
def preCommRecord (c : Nat) (s : State) : Nat := if commActive s c then dQuiesce else dOk

/-- PORT_ENABLE: 0 holds the port DISABLED; 1 trains it (R259, Table 13.9). -/
def effPortEnable (p v : Nat) (s : State) : State :=
  if v = reg s (0x7020 + p) 2 then s
  else
    let s1 := setReg s (0x7020 + p) 2 v
    if v = 0 then leaveUp s1 p 5
    else retrain (setLinkState s1 p 1) p

/-- CAP_SHORT_W is not below CAP_CONT_W (R384). -/
def preCapShort (v : Nat) (s : State) : Nat := if v < reg s 0x3000 1 then dRange else dOk

/-- BUSY, QUIESCE, CONFLICT and the ranges of the chapters: entries 1000h to 2FFFh. -/
def preLow (p : Path) (i sub v : Nat) (s : State) : Nat :=
  if inIdx i 0x1100 256 then preWindow v s
  else if i = 0x2011 then preMode s
  else if i = 0x2040 then preGpio p (sub - 1) s
  else if inIdx i 0x2100 64 && sub = 1 then preQueueConfig (i - 0x2100) v s
  else if inIdx i 0x2140 64 then preRingConfig (i - 0x2140) v s
  else if inIdx i 0x2180 32 then preHoldoff p (i - 0x2180) s
  else if inIdx i 0x2200 4 && sub = 1 then prePartitionMode (i - 0x2200) s
  else if inIdx i 0x2200 4 && sub = 0x0C then preRepairBurn (i - 0x2200) v s
  else dOk

/-- The same for 3000h up. -/
def preHigh (i sub v : Nat) (s : State) : Nat :=
  if (stagedUnit i sub).isSome then preMode s
  else if i = 0x3000 && sub = 2 then preCapShort v s
  else if i = 0x3040 then preCoolantResume v s
  else if i = 0x3300 then prePowerState v s
  else if i = 0x4010 then preContextCmd v s
  else if inIdx i 0x4100 64 then preContextRecord (i - 0x4100) v s
  else if i = 0x5000 && sub = 0x0A then prePprBurn v s
  else if inIdx i 0x5200 20 && sub = 1 then preTgen (i - 0x5200) v s
  else if inIdx i 0x5300 80 then preMargin (i - 0x5300) v s
  else if i = 0x6120 && sub = 1 then preSieveEnable v s
  else if i = 0x7000 && sub = 1 then preDeviceNumber s
  else if inIdx i 0x7100 256 && sub = 1 then preCommRecord (i - 0x7100) s
  else if inIdx i 0x7100 256 && sub = 2 then preCommState (i - 0x7100) v s
  else dOk

def preWrite (p : Path) (i sub v : Nat) (s : State) : Nat :=
  if i < 0x3000 then preLow p i sub v s else preHigh i sub v s

/-- What an accepted write does: entries 1000h to 2FFFh. -/
def effLow (p : Path) (i sub v : Nat) (s : State) : State :=
  if inIdx i 0x1100 256 then effWindow (i - 0x1100) v s
  else if i = 0x2011 then effModeCmd v s
  else if i = 0x2040 then effGpio p (sub - 1) v s
  else if inIdx i 0x2100 64 && sub = 1 then effQueueConfig (i - 0x2100) v s
  else if inIdx i 0x2100 64 then effQueueCmd (i - 0x2100) v s
  else if inIdx i 0x2140 64 then effRingConfig (i - 0x2140) v s
  else if inIdx i 0x2180 32 then effHoldoff p (i - 0x2180) v s
  else if inIdx i 0x2200 4 && sub = 1 then effPartitionMode (i - 0x2200) v s
  else if inIdx i 0x2200 4 && sub = 0x0C then effRepairBurn (i - 0x2200) v s
  else setReg s i sub v

/-- The same for 3000h up. -/
def effHigh (p : Path) (i sub v : Nat) (s : State) : State :=
  match stagedUnit i sub with
  | some u => effStage i sub v u s
  | none =>
    if i = 0x3040 then effCoolantResume v s
    else if i = 0x3082 then effShareShadow v s
    else if i = 0x3300 then effPowerState p v s
    else if i = 0x4002 then effScrubStart v s
    else if i = 0x4010 then effContextCmd v s
    else if inIdx i 0x4100 64 then effContextRecord (i - 0x4100) v s
    else if i = 0x5000 && sub = 0x0A then effPprBurn v s
    else if i = 0x5000 && sub = 0x0B then effSlotAll v s
    else if inIdx i 0x5100 80 then effSlotShadow (i - 0x5100) v s
    else if inIdx i 0x5200 20 && sub = 1 then effTgen (i - 0x5200) v s
    else if inIdx i 0x5300 80 then effMargin (i - 0x5300) v s
    else if i = 0x6120 && sub = 1 then effSieveEnable v s
    else if i = 0x7000 && sub = 2 then effFabricEnable v s
    else if inIdx i 0x7020 24 then effPortEnable (i - 0x7020) v s
    else if inIdx i 0x7100 256 && sub = 2 then effCommState (i - 0x7100) v s
    else if i = 0x8000 && sub = 2 then effFaultAck v s
    else setReg s i sub v

def effWrite (p : Path) (i sub v : Nat) (s : State) : State :=
  if i < 0x3000 then effLow p i sub v s else effHigh p i sub v s

/-- A whole write of an entry, by its bytes. -/
def writeEntryBytes (s : State) (p : Path) (i sub : Nat) (b : List Byte) : Nat × State :=
  tryWrite (if inIdx i 0x7100 256 && sub = 2 && b.length = 1 then noteTable p (i - 0x7100) (leVal b) s else s) p i sub b.length (leVal b) (preWrite p i sub (leVal b)) (effWrite p i sub (leVal b))

/-- A block write of a DOMAIN entry. -/
def writeDomain (s : State) (p : Path) (i sub off : Nat) (b : List Byte) : Nat × State :=
  if i = 0x8200 then tryBlock s p i sub off b 16 (preRetiredList off b) (effRetiredList off b)
  else if i = 0x9010 then tryBlock s p i sub off b 8 preSigned (effSigned p off b)
  else tryBlock s p i sub off b 8 freely (fun t => domWrite t i sub off b)

/-- Answer a direct write; the OK of a window write follows with WINDOW_WRITE_OK (R347). -/
def answerWrite (p : Path) (i : Nat) (r : Nat × State) : State :=
  if r.1 = 0 && inIdx i 0x1100 256 then r.2 else answerTo p r

/-- A write to an entry, by a path that reaches the dictionary directly. -/
def execEntryWrite (p : Path) (index : BitVec 16) (sub : BitVec 8) (value : List Byte) (s : State) : Out :=
  .next (if dictLive s then answerWrite p index.toNat (writeEntryBytes s p index.toNat sub.toNat value) else s)

/-! Two-phase mode changes (R357 to R359). -/

def execStagedWrite (p : Path) (index : BitVec 16) (sub : BitVec 8) (v : Byte) (s : State) : Out :=
  match stagedUnit index.toNat sub.toNat with
  | none => .next s
  | some u => guarded s p index.toNat sub.toNat 1 v.toNat preMode (effStage index.toNat sub.toNat v.toNat u)

def execCommit (p : Path) (s : State) : Out := guarded s p 0x2011 1 1 1 preMode (effModeCmd 1)

def execDiscard (p : Path) (s : State) : Out := guarded s p 0x2011 1 1 2 preMode (effModeCmd 2)

/-- A MIXED unit has adopted its new values. POWER adopts VOLTAGE_MODE; HBM is APPLIED when all 80 groups have wrapped
(R215). No entry of FABRIC or NUMERICS is staged. -/
def execModeApplied (unit : Fin 4) (s : State) : Out :=
  .next (
    let v := SMap.get s.frames.staged (dkey 0x3070 1) 0
    if clockOn s && unit.val == 1 && modeState s 1 == 2 && v != 0 then
      returnApplied (setReg
        { s with frames := { s.frames with staged := SMap.set s.frames.staged (dkey 0x3070 1) 0 0 } } 0x3070 1 (v - 1)) 1
    else s)

def execGpioFunction (p : Path) (n : Fin 8) (v : Byte) (s : State) : Out :=
  guarded s p 0x2040 (1 + n.val) 1 v.toNat (preGpio p n.val) (effGpio p n.val v.toNat)

/-! Frames (R348 to R351). -/

/-- The header of Table 16.4. -/
structure FrameHdr where
  version : Nat
  op      : Nat
  tid     : Nat
  index   : Nat
  sub     : Nat
  offset  : Nat
  len     : Nat
  rsvd    : Nat
deriving DecidableEq, Repr

def frameHdr (f : List Byte) : FrameHdr :=
  let v := beVal (padTo 16 f)
  { version := fld v 127 120, op := fld v 119 112, tid := fld v 111 96, index := fld v 95 80, sub := fld v 79 72,
    offset := fld v 63 32, len := fld v 31 16, rsvd := fld v 15 0 }

/-- Payload bytes a frame carries: a READ_BLOCK request carries none. -/
def carried (h : FrameHdr) : Nat := if h.op = 3 then 0 else h.len

def framePayload (f : List Byte) : List Byte := (f.drop 16).take (carried (frameHdr f))

/-- PROTOCOL and CRC of Table 16.5; 0 when the frame passes. -/
def frameStatus (f : List Byte) : Nat :=
  let h := frameHdr f
  if h.version != 1 || h.op = 0 || 4 < h.op || h.rsvd != 0 || f.length != 20 + carried h then dProtocol
  else if leVal ((f.drop (16 + carried h)).take 4) != crc32 (framePayload f) then dCrc
  else dOk

/-- A response: the request's header with bit 7 of the opcode set; a failure carries nothing. -/
def frameAnswer (h : FrameHdr) (status : Nat) (payload : List Byte) : List Byte :=
  let b := if status = 0 then payload else []
  mkFrame (h.op % 128 + 128) h.tid h.index h.sub status h.offset b.length b

/-- A request as the dictionary sees it, whatever its path. -/
structure Request where
  path    : Path
  op      : Nat
  index   : Nat
  sub     : Nat
  offset  : Nat
  len     : Nat
  payload : List Byte
  limit   : Nat
deriving DecidableEq, Repr

/-- The checks from NO_ENTRY to NOT_READY, with the path's limit on LENGTH (R349, R351). -/
def checkRequest (s : State) (q : Request) : Nat :=
  let wr := q.op == 2 || q.op == 4
  let block := q.op == 3 || q.op == 4
  let c := checkAccess s q.path q.index q.sub wr block q.offset (if q.op = 3 then q.len else q.payload.length)
  if c = dNoEntry || c = dPrivilege || c = dAccess || c = dLength then c
  else if q.limit < q.len || (q.op = 1 && q.len != 0) then dLength
  else c

/-- The bytes of a whole value. -/
def valueBytes (s : State) (i sub : Nat) : List Byte :=
  match lookupEntry i sub with
  | none => []
  | some r => leBytes r.ty.size (if freeReading s i sub then Config.freeValue s.freeCtr else readVal s i sub)

/-- Serve a request: status, payload of an OK response, and the state after it. -/
def serveRequest (s : State) (q : Request) : Nat × List Byte × State :=
  let c := checkRequest s q
  if c ≠ 0 then (c, [], s)
  else if q.op = 1 then
    (dOk, valueBytes s q.index q.sub, if freeReading s q.index q.sub then nextFree s else s)
  else if q.op = 2 then
    let r := writeEntryBytes s q.path q.index q.sub q.payload
    (r.1, [], r.2)
  else if q.op = 3 then
    (dOk, (List.range q.len).map (fun j => readByte s q.index q.sub (q.offset + j)), s)
  else
    let r := writeDomain s q.path q.index q.sub q.offset q.payload
    (r.1, [], r.2)

/-- The request of a frame. -/
def requestOf (p : Path) (limit : Nat) (f : List Byte) : Request :=
  let h := frameHdr f
  { path := p, op := h.op, index := h.index, sub := h.sub, offset := h.offset, len := h.len, payload := framePayload f,
    limit := limit }

/-! The mailbox (R354, R355). -/

def mailPath : MailSlot → Path
  | .a => .slotA
  | .b => .slotB

def mailState (s : State) : MailSlot → Nat
  | .a => s.frames.stA
  | .b => s.frames.stB

def mailRequest (s : State) : MailSlot → List Byte
  | .a => s.frames.reqA
  | .b => s.frames.reqB

def setMailRequest (s : State) (k : MailSlot) (f : List Byte) : State :=
  match k with
  | .a => { s with frames := { s.frames with reqA := f, stA := 1 } }
  | .b => { s with frames := { s.frames with reqB := f, stB := 1 } }

/-- RESPONSE is written and MB_STATE reads DONE. -/
def mailAnswer (s : State) (k : MailSlot) (f : List Byte) : State :=
  match k with
  | .a => { s with frames := { s.frames with respA := f, stA := 2 } }
  | .b => { s with frames := { s.frames with respB := f, stB := 2 } }

/-- A DOORBELL write: ignored while BUSY. A length outside 20 to 8,212 is answered with LENGTH, and a frame that fails
PROTOCOL or CRC with that status; any other waits to be served. -/
def execMailboxDoorbell (k : MailSlot) (request : List Byte) (len : BitVec 14) (s : State) : Out :=
  .next (if !hostReaches s || !dictLive s || mailState s k == 1 then s
    else
      let f := padTo len.toNat request
      let s1 := raise (setMailRequest s k f) (src 16 2)
      if len.toNat < 20 || 8212 < len.toNat then mailAnswer s1 k (frameAnswer (frameHdr (padTo 16 request)) dLength [])
      else if frameStatus f = 0 then s1
      else mailAnswer (bump s1 0x1010 6) k (frameAnswer (frameHdr f) (frameStatus f) []))

/-! The field network (R352, R353). -/

/-- fe80::/10. -/
def linkLocalAddr (a : BitVec 128) : Bool := fld a.toNat 127 118 == 0x3FA

/-- The interface has an address, and its receiver is clocked. -/
def fieldLive (s : State) : Bool := dictLive s && (s.frames.addrState == 1 || s.frames.addrState == 2)

/-- A kept response to this id that is less than one second old. -/
def keptFor (s : State) (a : FieldSrc) (tid : BitVec 16) : Option KeptResp :=
  s.frames.kept.find? (fun r => r.src == a && r.tid == tid && decide (now s < r.at_ + 1000000000))

def pendingFor (s : State) (a : FieldSrc) (tid : BitVec 16) : Bool :=
  s.frames.pending.any (fun t => t.src == a && t.tid == tid)

/-- Frame, repeat and capacity checks; a request that passes waits to be served. -/
def takeFrame (s : State) (a : FieldSrc) (f : List Byte) : State :=
  let h := frameHdr f
  let tid := BitVec.ofNat 16 h.tid
  if frameStatus f ≠ 0 then emit (bump s 0x1010 6) (.datagram a (frameAnswer h (frameStatus f) []))
  else if pendingFor s a tid then
    { s with frames := { s.frames with repeats := s.frames.repeats ++ [{ src := a, tid := tid, frame := f }] } }
  else match keptFor s a tid with
    | some r => emit s (.datagram a r.resp)
    | none =>
      if 16 ≤ s.frames.pending.length then emit s (.datagram a (frameAnswer h dBusy []))
      else { s with frames := { s.frames with pending := s.frames.pending ++ [{ src := a, tid := tid, frame := f }] } }

/-- A datagram at UDP_PORT. A bad checksum or a source outside fe80::/10 is discarded without reply, and so is a frame
without a whole header, which counts (R349, R352). -/
def execFieldFrame (a : FieldSrc) (frame : List Byte) (udpOk : Bool) (s : State) : Out :=
  .next (if !fieldLive s || !udpOk || !linkLocalAddr a.addr then s
    else if frame.length < 16 then bump (raise s (src 16 1)) 0x1010 6
    else takeFrame (raise s (src 16 1)) a frame)

/-- The response leaves: to every copy of the request, and into the 32 that are kept for its source. -/
def fieldAnswer (s : State) (a : FieldSrc) (tid : BitVec 16) (f : List Byte) : State :=
  let copies := s.frames.repeats.filter (fun t => t.src == a && t.tid == tid)
  let mine := s.frames.kept.filter (fun r => r.src == a && r.tid != tid)
  let s1 := { s with frames := { s.frames with
    pending := s.frames.pending.filter (fun t => !(t.src == a && t.tid == tid))
    repeats := s.frames.repeats.filter (fun t => !(t.src == a && t.tid == tid))
    kept := s.frames.kept.filter (fun r => r.src != a) ++ mine.drop (mine.length - 31)
      ++ [{ src := a, tid := tid, resp := f, at_ := now s }] } }
  (List.range (1 + copies.length)).foldl (fun t _ => emit t (.datagram a f)) s1

/-! Serving (R349). -/

/-- A path that reaches the dictionary without frames. -/
def directPath : Path → Bool
  | .cc _ => true
  | .sec => true
  | .tap => true
  | .signed => false
  | .slotA => false
  | .slotB => false
  | .field => false

/-- The effect and the answer of a request with this opcode; a request with another opcode is served by its own command. -/
def dictStep (s : State) (r : DictReq) (op : Nat) : State :=
  match r with
  | .mail k =>
    let f := mailRequest s k
    if mailState s k = 1 && (frameHdr f).op = op then
      let a := serveRequest s (requestOf (mailPath k) 8192 f)
      mailAnswer a.2.2 k (frameAnswer (frameHdr f) a.1 a.2.1)
    else s
  | .field x tid =>
    match s.frames.pending.find? (fun t => t.src == x && t.tid == tid) with
    | none => s
    | some t =>
      if (frameHdr t.frame).op = op then
        let a := serveRequest s (requestOf .field 1024 t.frame)
        fieldAnswer a.2.2 x tid (frameAnswer (frameHdr t.frame) a.1 a.2.1)
      else s
  | .direct p index sub offset len payload =>
    if directPath p then
      let a := serveRequest s { path := p, op := op, index := index.toNat, sub := sub.toNat, offset := offset.toNat,
                                len := if op = 1 then 0 else len.toNat, payload := payload, limit := 2 ^ 16 }
      if op = 2 && a.1 = 0 && inIdx index.toNat 0x1100 256 then a.2.2
      else emit a.2.2 (.dictAnswer p a.1 a.2.1)
    else s

def execDictRead (r : DictReq) (s : State) : Out := .next (if dictLive s then dictStep s r 1 else s)

def execDictWrite (r : DictReq) (s : State) : Out := .next (if dictLive s then dictStep s r 2 else s)

def execReadBlock (r : DictReq) (s : State) : Out := .next (if dictLive s then dictStep s r 3 else s)

def execWriteBlock (r : DictReq) (s : State) : Out := .next (if dictLive s then dictStep s r 4 else s)

/-! The address (R352, R416). -/

/-- fe80::/64 with a modified EUI-64 identifier: FFFEh in the middle of the MAC address, and bit 1 of its first byte
inverted. -/
def fieldAddr (s : State) : BitVec 128 :=
  let b := leBytes 6 s.fuses.mac.toNat
  BitVec.ofNat 128 (0xFE80 * 2 ^ 112
    + beVal ([(b.getD 0 0) ^^^ 2, b.getD 1 0, b.getD 2 0, 0xFF, 0xFE, b.getD 3 0, b.getD 4 0, b.getD 5 0]))

/-- A solicitation for the device's own address is answered. -/
def execNeighborSolicitation (source target : BitVec 128) (s : State) : Out :=
  .next (if fieldLive s && target == fieldAddr s then emit s (.neighborAdvert source) else s)

/-- An ICMPv6 echo request is answered. -/
def execEcho (source : BitVec 128) (data : List Byte) (s : State) : Out :=
  .next (if fieldLive s then emit s (.echoReply source data) else s)

/-- The one detection ends. On failure the address is withdrawn; "logs the event" names no code of Table 18.2, so no entry
is written (log 44). -/
def execDuplicateAddressDetectionEnd (unique : Bool) (s : State) : Out :=
  .next (if dictLive s && s.frames.addrState == 1 then
    { s with frames := { s.frames with addrState := if unique then 2 else 3 } }
  else s)

/-- Send what waits on the field network (R356). -/
def flushNotify (s : State) : State :=
  s.frames.notifyQ.foldl (fun t f => emit t (.datagram (notifyDest t) f)) { s with frames := { s.frames with notifyQ := [] } }

/-- The security core brings up the dictionary; the address is optimistic from now on (R416). -/
def execDictionaryAnswers (s : State) : Out :=
  .next (if clockOn s && !s.aon.dictUp then
    flushNotify { s with
      aon := { s.aon with dictUp := true }
      frames := { s.frames with addrState := 1 } }
  else s)

end Sys2Proof.Machine
end

