-- ==== Sys2Proof/Machine/Security.lean ====
section
/-! DEFINITION. Owner-signed commands (R402 to R404), attestation (R405), debug unlock and the TAP (R406). -/

namespace Sys2Proof.Machine

/-- The command is being verified, has this code, and has had no effect yet. -/
def cmdReady (s : State) (code : Nat) : Bool :=
  clockOn s && cmdStatus s == cRunning && s.sec.result.isNone && cmdCode s == code

/-- The result that SIGNED_COMMAND_ENDED will show. -/
def finish (s : State) (r : Nat) : State := { s with sec := { s.sec with result := some r } }

def ownerActive (s : State) (n : Nat) : Bool := SMap.get s.fuses.ownerState n 0 == 1

/-- The slot of the one ACTIVE owner key. -/
def activeSlot (s : State) : Option Nat := (List.range 3).find? (ownerActive s)

/-- SHA3-256 of the command's PUBLIC_KEY (Table 18.11). -/
def keyHash (s : State) : Nat := sha3Val (cmdBytes s 64 1952)

/-- The key's hash is that of an ACTIVE owner slot, the one KEY_SLOT names. -/
def ownerKeyOk (s : State) : Bool :=
  decide (cmdKeySlot s < 3) && ownerActive s (cmdKeySlot s) && SMap.get s.fuses.ownerHash (cmdKeySlot s) 0 == keyHash s

/-- The same for a Lemund slot. -/
def lemundKeyOk (s : State) : Bool :=
  decide (0x80 ≤ cmdKeySlot s) && SMap.get s.fuses.lemundHash (cmdKeySlot s - 0x80) 0 == keyHash s

/-- Fields, SERIAL and NONCE (R403), in the order of the status codes; 0 when they pass. -/
def checkFields (s : State) (payloadOk : Bool) : Nat :=
  if !cmdHeaderOk s || !payloadOk then cFormat
  else if cmdVal s 8 8 != s.fuses.serial.toNat then cSerial
  else if cmdVal s 16 8 != reg s 0x9010 2 then cNonce
  else 0

/-- The checks of R403 for a command that needs a key. -/
def checkCmd (s : State) (payloadOk keyOk : Bool) (c : SigCheck) : Nat :=
  if checkFields s payloadOk ≠ 0 then checkFields s payloadOk
  else if !keyOk then cKey
  else if !c.sigOk then cSignature
  else 0

/-- A verified command has its effect; a refused one changes nothing. -/
def runCmd (s : State) (code check : Nat) (eff : State → State) : State :=
  if !cmdReady s code then s else if check ≠ 0 then finish s check else finish (eff s) cOk

/-- WRITE_ENTRY: a dictionary write at L0, its status at 9010h:04. -/
def effWriteEntry (s : State) : State :=
  let r := writeEntryBytes s .signed (payVal s 0 2) (payVal s 2 1) (cmdBytes s 5384 (payVal s 4 4))
  setReg r.2 0x9010 4 r.1

def writeEntryPayloadOk (s : State) : Bool :=
  decide (8 ≤ cmdPayloadLen s) && payVal s 3 1 == 0 && payVal s 4 4 == cmdPayloadLen s - 8

def execWriteEntry (c : SigCheck) (s : State) : Out :=
  .next (runCmd s 2 (checkCmd s (writeEntryPayloadOk s) (ownerKeyOk s) c) effWriteEntry)

/-- SCRUB starts the owner-change scrub (R203). -/
def execScrub (c : SigCheck) (s : State) : Out :=
  .next (runCmd s 3 (checkCmd s (cmdPayloadLen s == 0) (ownerKeyOk s) c) (effScrubStart 1))

/-- ADVANCE_SVN: the fused SVN of a kind rises to that of the image running, and is never lowered (R400). -/
def effAdvance (k : Nat) (s : State) : State :=
  let v := max (SMap.get s.fuses.svn k 0) (SMap.get s.sec.svnRun k 0)
  { s with fuses := { s.fuses with svn := SMap.set s.fuses.svn k v 0 } }

def execAdvanceSvn (c : SigCheck) (s : State) : Out :=
  .next (
    let k := payVal s 0 1
    runCmd s 4 (checkCmd s (cmdPayloadLen s == 1 && decide (1 ≤ k) && decide (k ≤ 3)) (ownerKeyOk s) c) (effAdvance (k - 1)))

/-- The next UNUSED owner slot. -/
def unusedSlot (s : State) : Option Nat := (List.range 3).find? (fun n => SMap.get s.fuses.ownerState n 0 == 0)

/-- INSTALL_OWNER_KEY is refused without an UNUSED slot; unsigned, while no slot is ACTIVE, it comes through slot A
(R404). -/
def checkInstall (s : State) (c : SigCheck) : Nat :=
  let pl := cmdPayloadLen s == 32
  if (activeSlot s).isNone then
    (if checkFields s pl ≠ 0 then checkFields s pl
     else if s.sec.via ≠ some .slotA || (unusedSlot s).isNone then cRefused
     else 0)
  else if checkCmd s pl (ownerKeyOk s) c ≠ 0 then checkCmd s pl (ownerKeyOk s) c
  else if (unusedSlot s).isNone then cRefused
  else 0

/-- The scrub runs first; the hash is fused when it has ended. -/
def effInstall (s : State) : State :=
  let h := payVal s 0 32
  let s1 := effScrubStart 1 s
  { s1 with sec := { s1.sec with pendingHash := some h } }

def execInstallOwnerKey (c : SigCheck) (s : State) : Out := .next (runCmd s 5 (checkInstall s c) effInstall)

/-- DEBUG_STATE rises; each change makes source 19:3 pending (R406). -/
def setDebug (s : State) (level : Nat) : State :=
  if reg s 0x9030 2 < level then raise (setReg s 0x9030 2 level) (src 19 3) else s

/-- The token binds DEBUG_CHALLENGE. -/
def checkUnlock (s : State) (c : SigCheck) : Nat :=
  let l := payVal s 0 1
  let pl := cmdPayloadLen s == 33 && (l == 1 || l == 2)
  let k := checkCmd s pl (if l = 1 then ownerKeyOk s else lemundKeyOk s) c
  if k ≠ 0 then k else if payVal s 1 32 != reg s 0x9030 1 then cRefused else 0

/-- Level 1 opens at once; level 2 first scrubs and erases the identity key. The challenge is renewed. -/
def effUnlock (challenge : Nat) (s : State) : State :=
  if payVal s 0 1 = 1 then setReg (setDebug s 1) 0x9030 1 challenge
  else
    let s1 := effScrubStart 1 (setReg s 0x9030 1 challenge)
    { s1 with sec := { s1.sec with keyErased := true, pendingUnlock := true } }

def execDebugUnlock (c : SigCheck) (challenge : BitVec 256) (s : State) : Out :=
  .next (runCmd s 6 (checkUnlock s c) (effUnlock challenge.toNat))

/-! Attestation (R405). -/

/-- There is an identity to sign with: derived, not erased, and the debug level below 2. -/
def identityUsable (s : State) : Bool :=
  s.sec.identityDone && reg s 0x9000 1 == 0 && !s.sec.keyErased && reg s 0x9030 2 != 2

/-- ATTEST ignores SERIAL, NONCE, KEY_SLOT and the signature. -/
def attestFieldsOk (s : State) : Bool :=
  cmdVal s 0 4 == 0x444D4353 && cmdVal s 4 1 == 1 && zeroBytes s 7 1 && zeroBytes s 28 36 && cmdPayloadLen s == 32

def execAttest (s : State) : Out :=
  .next (runCmd s 1 (if !attestFieldsOk s then cFormat else if !identityUsable s then cNoIdentity else 0)
    (fun t => { t with sec := { t.sec with reportNonce := BitVec.ofNat 256 (payVal t 0 32), reportDue := true } }))

/-- The protection table's digest: 256 entries in ascending order. -/
def protectionDigest (s : State) : List Byte :=
  sha3 ((List.range 256).flatMap (fun w => leBytes 32 (reg s (0x1100 + w) 1)))

/-- Bytes 0 to 255 of the report (Table 18.13). -/
def reportBody (s : State) (fuseDigest : BitVec 256) : List Byte :=
  leBytes 8 (0x52505441 + 2 ^ 32 + reg s 0x9030 2 * 2 ^ 40) ++ leBytes 8 s.fuses.serial.toNat ++ leBytes 8 (now s)
    ++ leBytes 2 (SMap.get s.fuses.svn 0 0) ++ leBytes 2 (SMap.get s.fuses.svn 1 0) ++ leBytes 2 (SMap.get s.fuses.svn 2 0)
    ++ leBytes 2 ((activeSlot s).getD 0xFFFF) ++ leBytes 32 s.sec.reportNonce.toNat
    ++ leBytes 32 s.sec.mSec.toNat ++ leBytes 32 s.sec.mGwevi.toNat ++ leBytes 32 s.sec.mBase.toNat
    ++ leBytes 32 s.sec.mModules.toNat ++ leBytes 32 fuseDigest.toNat ++ protectionDigest s

/-- The signed report stands at 9020h:01, and source 19:2 is pending. -/
def execAttestationReportReady (signature : List Byte) (fuseDigest : BitVec 256) (s : State) : Out :=
  .next (if clockOn s && s.sec.reportDue then
    let s1 := domWrite s 0x9020 1 0 (padTo 4096 (reportBody s fuseDigest ++ padTo 3309 signature))
    raise { s1 with sec := { s1.sec with reportDue := false } } (src 19 2)
  else s)

/-! The end of a signed command (R403, R404, R406). -/

/-- The new key's hash is fused into the next UNUSED slot; a signing slot is REVOKED. -/
def fuseOwner (s : State) (h : Nat) : State :=
  match unusedSlot s with
  | none => s
  | some n =>
    let st := match activeSlot s with
      | none => s.fuses.ownerState
      | some k => SMap.set s.fuses.ownerState k 2 0
    { s with
      fuses := { s.fuses with ownerHash := SMap.set s.fuses.ownerHash n h 0, ownerState := SMap.set st n 1 0 }
      sec := { s.sec with pendingHash := none } }

/-- What waited for the scrub of R203 happens. -/
def afterScrub (s : State) : State :=
  let s1 := match s.sec.pendingHash with
    | none => s
    | some h => fuseOwner s h
  if s1.sec.pendingUnlock then setDebug { s1 with sec := { s1.sec with pendingUnlock := false } } 2 else s1

/-- The command still waits: for the scrub, or for the old rights of a window to end (R347). -/
def cmdWaits (s : State) : Bool :=
  ((s.sec.pendingHash.isSome || s.sec.pendingUnlock) && scrubbing s) || (cmdCode s == 2 && !s.fab.windowOk.isEmpty)

/-- COMMAND_STATUS, the nonce of an executed command, source 19:1, and event 1Ah of a refused one. -/
def showResult (s : State) (r : Nat) : State :=
  let s1 := setReg { s with sec := { s.sec with result := none, via := none } } 0x9010 3 r
  let s2 := if r = cOk && cmdCode s != 1 then setReg s1 0x9010 2 ((reg s1 0x9010 2 + 1) % 2 ^ 64) else s1
  let s3 := raise s2 (src 19 1)
  if r = cOk then s3 else logEvent s3 (Event.plain 0x1A 2 58 r)

/-- Verification and execution have ended. A code that Table 18.12 does not list is refused with FORMAT. -/
def execSignedCommandEnded (_c : SigCheck) (s : State) : Out :=
  .next (if clockOn s && cmdStatus s == cRunning then
    match s.sec.result with
    | none => if cmdCode s = 0 || 6 < cmdCode s then showResult s cFormat else s
    | some r => if cmdWaits s then s else showResult (afterScrub s) r
  else s)

/-! The TAP (R406). -/

/-- Is the instruction offered at the present debug level. -/
def tapOffers (s : State) : TapOp → Bool
  | .bypass => true
  | .samplePreload => true
  | .extest => true
  | .idcode => true
  | .coreDebug => decide (1 ≤ reg s 0x9030 2)
  | .secDebug => reg s 0x9030 2 == 2
  | .vendorAccess => reg s 0x9030 2 == 2

def execTapInstruction (op : TapOp) (s : State) : Out :=
  .next (if !s.aon.up then s
    else if tapOffers s op then emit { s with sec := { s.sec with tapIr := op } } (.tap op true)
    else emit s (.tap op false))

end Sys2Proof.Machine
end

