-- ==== Sys2Proof/Machine/Startup.lean ====
section
/-! DEFINITION. Start-up and resets (ch. 19), the loss of the reference clock (R15), and the PCIe link as software sees
it. -/

namespace Sys2Proof.Machine

/-! Bits of START_STEPS (Table 19.6). -/

def setStep (s : State) (b : Nat) : State := setReg s 0x2001 2 (setBit (reg s 0x2001 2) b true)

def setStart (s : State) (st : Nat) : State := setReg s 0x2001 1 st

/-- BOOT_MODE as sampled: bit 0 names the slot tried first, bit 1 a bring-up mode (Table 19.3). -/
def bringUp (s : State) : Bool := (reg s 0x2001 5).testBit 1

/-- The level sources that follow pins (Table 15.10). -/
def pinLevels (s : State) : State :=
  setCond (setCond (setCond s (src 15 1) (!s.pins.paceHoldN)) (src 16 0) (!s.pins.pmbAlertN)) (src 18 1) s.pins.faultNLow

/-- A part without supply or just supplied: nothing but fuses and pins is kept (Table 17.6). The queue of commands, the
outputs and the counter of free values are the model's. -/
def blankPart (s : State) : State :=
  { State.reset with pending := s.pending, pins := s.pins, fuses := s.fuses, out := s.out, freeCtr := s.freeCtr }

/-- COOLANT_OK as it stands when its times begin. -/
def coolantFrom (s : State) : State :=
  { s with power := { s.power with
      lowSince := if s.pins.coolantOk then none else some (now s)
      highSince := if s.pins.coolantOk then some (now s) else none } }

def execVddAonUp (s : State) : Out := .next (if s.aon.up then s else coolantFrom (pinLevels (blankPart s)))

/-- Everything but the fuses is lost; THERMTRIP_N is released and a running scrub abandoned (R203, R383). -/
def execVddAonRemoval (s : State) : Out :=
  .next (if s.aon.up then
    { blankPart s with aon := { Aon.reset with up := false } }
  else s)

/-- Sample the straps (R411). -/
def sampleStraps (s : State) : State :=
  let b := s.pins.pmbBase.toNat
  setReg (setReg (setReg (setReg (setReg s 0x1000 7 s.pins.slotId.toNat) 0x2001 5 s.pins.bootMode.toNat) 0x2001 6 b)
    0x3060 1 (0x40 + 2 * b)) 0x3061 1 (0x41 + 2 * b)

/-- The sequence starts from fuse sense (R412). -/
def beginSequence (s : State) : State := setStart (sampleStraps s) 1

/-- S0 (R410). -/
def execS0 (railsInRange : Bool) (s : State) : Out :=
  .next (if s.aon.up && !s.aon.s0 && railsInRange && s.pins.refclk && s.pins.coolantOk then
    beginSequence { s with aon := { s.aon with s0 := true, perstSeen := s.pins.perstN } }
  else s)

/-- A step of BOOT is due: the one before is done and it is not. -/
def bootDue (s : State) (done next : Nat) : Bool :=
  clockOn s && startState s == 1 && stepDone s done && !stepDone s next

/-- AGEING_REDUCTION from the ageing fuses, or the rise whose burn has not ended (R365, Table 19.5). -/
def loadAgeing (s : State) (a : Nat) : State :=
  setReg s (0x3010 + a) 6 (if SMap.get s.power.ageBurn a 0 = 0 then 10 * SMap.get s.fuses.ageing a 0
    else SMap.get s.power.ageBurn a 0)

/-- Every unit starts at step min(15, MARGIN_FLOOR + 4) (R366). -/
def loadMargin (s : State) (u : Nat) : State :=
  setReg s (0x3010 + u) 1 (min 15 (SMap.get s.fuses.marginFloor u 0 + 4))

def execFuseSenseComplete (s : State) : Out :=
  .next (if clockOn s && startState s == 1 && !stepDone s 0 then
    setStep ((List.range 8).foldl loadMargin ((List.range 4).foldl loadAgeing s)) 0
  else s)

/-! Boot images (R399). -/

def imgField (h : BitVec 512) (n hi lo : Nat) : Nat := fld h.toNat (64 * n + hi) (64 * n + lo)

/-- One image is accepted as kind k (1 SEC, 2 GWEVI, 3 BASE). -/
def imageOk (s : State) (k : Nat) (i : ImageCheck) : Bool :=
  imgField i.header 0 31 0 == 0x4D494C4E && imgField i.header 0 39 32 == 1 && imgField i.header 0 47 40 == k
    && i.keyOk && i.sigOk && i.digestOk && decide (SMap.get s.fuses.svn (k - 1) 0 ≤ imgField i.header 1 31 0)

/-- The kind of the first image of a slot that fails, in slot order. -/
def badKind (s : State) (c : SlotCheck) : Option Nat :=
  if !imageOk s 1 c.sec then some 1 else if !imageOk s 2 c.gwevi then some 2 else if !imageOk s 3 c.base then some 3 else none

/-- The measurement of an image: SHA3-256 of its bytes 0 to 63 (R400). -/
def measure (i : ImageCheck) : BitVec 256 := BitVec.ofNat 256 (sha3Val (leBytes 64 i.header.toNat))

/-- A slot is accepted: its measurements, its SVNs, and BOOT_SLOT. -/
def acceptSlot (s : State) (slot : Nat) (c : SlotCheck) : State :=
  let svn := SMap.set (SMap.set (SMap.set [] 0 (imgField c.sec.header 1 31 0) 0) 1 (imgField c.gwevi.header 1 31 0) 0)
    2 (imgField c.base.header 1 31 0) 0
  setStep (setReg { s with sec := { s.sec with
    mSec := measure c.sec, mGwevi := measure c.gwevi, mBase := measure c.base, svnRun := svn } } 0x9040 1 slot) 1

/-- Event 19h: the slot, and the kind that failed. -/
def rejectSlot (s : State) (slot kind sev : Nat) : State :=
  logEvent s { Event.plain 0x19 sev 58 (slot + kind * 2 ^ 8) with srcs := [src 19 0] }

/-- The slot the boot mode names is tried first, then the other; with both rejected the event is FATAL. -/
def execBootImagesVerified (a b : SlotCheck) (s : State) : Out :=
  .next (if bootDue s 0 1 then
    let first := reg s 0x2001 5 % 2
    let chk (k : Nat) : SlotCheck := if k = 0 then a else b
    match badKind s (chk first) with
    | none => acceptSlot s first (chk first)
    | some k =>
      let s1 := rejectSlot s first k 3
      match badKind s1 (chk (1 - first)) with
      | none => acceptSlot s1 (1 - first) (chk (1 - first))
      | some k2 => setReg (setStart (rejectSlot s1 (1 - first) k2 4) 5) 0x2001 3 1
  else s)

/-- Gwevi runs: the three tracks begin, and every enabled port trains (R259, R412). -/
def execGweviRunning (version : BitVec 32) (s : State) : Out :=
  .next (if bootDue s 1 2 then
    let s1 := setReg (setStart (setStep s 2) 2) 0x1000 4 version.toNat
    ((List.range 24).filter (portEnabled s1)).foldl (fun t p => emit (setLinkState t p 1) (.linkTraining p)) s1
  else s)

/-- The identity is derived, or is UNAVAILABLE (event 1Bh); the random values are there in either case (R401, R403,
R406). -/
def execIdentityDerived (r : IdentityResult) (s : State) : Out :=
  .next (if clockOn s && stepDone s 2 && !s.sec.identityDone then
    let s1 := setReg (setReg (setReg { s with sec := { s.sec with identityDone := true } } 0x6120 4 r.sieveSeed.toNat)
      0x9010 2 r.nonce.toNat) 0x9030 1 r.challenge.toNat
    if r.ok then domWrite (domWrite (setReg s1 0x9000 1 0) 0x9000 2 0 (padTo 1952 r.publicKey)) 0x9000 3 0 (padTo 8192 r.cert)
    else logEvent (setReg s1 0x9000 1 1) { Event.plain 0x1B 3 58 0 with srcs := [src 19 4] }
  else s)

/-- A step of a track is due. -/
def trackDue (s : State) (done next : Nat) : Bool :=
  clockOn s && startState s == 2 && stepDone s done && !stepDone s next

/-! The loam track. -/

/-- Every fused record goes into the soft-repair registers (R87). -/
def execSoftRepairRegistersLoaded (s : State) : Out :=
  .next (if trackDue s 2 3 then
    setStep ((List.range 4).foldl (fun t a => setRecords t a (SMap.get t.fuses.repairs a [])) s) 3
  else s)

/-- Every loam word is zero with valid check bits, and failing words' lines are retired. -/
def execLoamMarchComplete (failing : List LocalAddr) (s : State) : Out :=
  .next (if trackDue s 3 4 then
    let s1 := memZero s loamBase (loamEnd - loamBase)
    let lines := ((failing.map (fun x => lineAddr x.toNat)).filter inLoam).eraseDups
    setStep (lines.foldl retireLoamLine s1) 4
  else s)

/-- What the self-test of one array found (R86). -/
def takeArrayTest (s : State) (x : ArrayId × ArrayTest) : State :=
  let a := x.1.val
  let s1 := repairCells (failSpares s a x.2.badSpareRows x.2.badSpareCols) a (failingCells x.2.upsets (fun _ _ => true))
  if x.2.stageOk || retiredBlocks s1 a == 0xFFFF then s1 else retireArray s1 a

/-- The self-tests end; they need COOLANT_OK and PACE_HOLD_N high (R415). -/
def execArraySelfTestComplete (results : List (ArrayId × ArrayTest)) (badEngines : List EngineId) (s : State) : Out :=
  .next (if trackDue s 4 5 && s.pins.coolantOk && s.pins.paceHoldN then
    setStep ((badEngines.filter (fun n => !engineRetired s n.val)).eraseDups.foldl (fun t n => retireEngine t n.val)
      (results.foldl takeArrayTest s)) 5
  else s)

/-! The HBM track. -/

def execBaseDieFirmwareRunning (s : State) : Out := .next (if trackDue s 2 6 then setStep s 6 else s)

/-- TRAINED of a stack; one that has failed serves nothing. -/
def setTrained (failed : List StackId) (s : State) (k : Nat) : State :=
  if failed.any (fun f => f.val == k) then { s with hbm := { s.hbm with unusable := SMap.set s.hbm.unusable k true false } }
  else setReg s (0x5020 + k) 5 1

/-- Training ends. In a normal mode a failed stack ends the track with START_FAILURE 2 (R413, R414). -/
def execHbmTrainingComplete (failed : List StackId) (s : State) : Out :=
  .next (if trackDue s 6 7 && s.pins.coolantOk && reg s 0x2001 3 == 0 then
    let s1 := (List.range 20).foldl (setTrained failed) s
    if failed.isEmpty || bringUp s then setStep s1 7 else setReg s1 0x2001 3 2
  else s)

/-- Every line is zero and unpoisoned; failing rows take an sPPR or are retired (R225). A bring-up mode skips the
march. -/
def execHbmMarchComplete (rows : List HbmRow) (s : State) : Out :=
  .next (if trackDue s 7 8 && s.pins.coolantOk && !bringUp s then
    setStep (rows.eraseDups.foldl softRepair (memZero s 0 hbmEnd)) 8
  else s)

/-! The fabric track, and the end. -/

/-- No enabled port still trains. -/
def portsStill (s : State) : Bool := (List.range 24).all (fun p => !portEnabled s p || reg s (0x7020 + p) 1 != 1)

def execPortsSettled (s : State) : Out := .next (if trackDue s 2 9 && portsStill s then setStep s 9 else s)

/-- The three tracks have ended. -/
def tracksEnded (s : State) : Bool :=
  stepDone s 5 && stepDone s 9 && (stepDone s 8 || (bringUp s && stepDone s 7) || reg s 0x2001 3 == 2)

/-- READY, BRINGUP or FAILED (R413). -/
def execReady (s : State) : Out :=
  .next (if clockOn s && startState s == 2 && tracksEnded s then
    (if reg s 0x2001 3 = 2 then setStart s 5
     else if bringUp s then setReg (setStart s 4) 0x2001 4 (now s)
     else (List.range 4).foldl showIdle (setReg (setStart (setStep s 11) 3) 0x2001 4 (now s)))
  else s)

/-! PERST_N and the PCIe link (R417 to R420). -/

/-- PERST_N rises: link training may start; after a warm reset the sequence runs again, with the straps sampled again. -/
def execPerstNRise (s : State) : Out :=
  .next (
    let s1 := { s with pins := { s.pins with perstN := true } }
    if !s.aon.up || !s.aon.s0 then s1
    else
      let s2 := { s1 with aon := { s1.aon with perstSeen := true, waitPerst := false } }
      if s.aon.waitPerst then beginSequence s2 else s2)

/-- The link is up at 128 GT/s. -/
def execPcieLinkUp (s : State) : Out :=
  .next (if clockOn s && s.aon.s0 && s.pins.perstN && !s.aon.pcieUp then
    raise (setStep { s with aon := { s.aon with pcieUp := true } } 10) (src 17 0)
  else s)

/-- Retry status until START_STATE leaves BOOT and TEST (R417). -/
def execConfigurationRequest (s : State) : Out :=
  .next (if !hostReaches s then s
    else if startState s < 3 then emit s .retryStatus
    else emit { s with aon := { s.aon with pcieConfigured := true } } .configServed)

/-- A hot reset or link-down resets the link and its configuration space alone; slot reads under way fail (R420). -/
def execHotReset (s : State) : Out :=
  .next (if clockOn s && s.aon.pcieUp then
    s.hostIf.asked.foldl (fun t q => slotFailed (slotAnswered t q) q)
      (raise { s with aon := { s.aon with pcieUp := false, pcieConfigured := false } } (src 17 0))
  else s)

/-- Dictionary entries of Table 19.5 that a warm reset keeps, and the straps as sampled last (R411). -/
def keptEntry (k : Nat) : Bool :=
  let i := k / 256
  let sub := k % 256
  (inIdx i 0x2200 4 && sub == 7) || (inIdx i 0x2300 4 && sub == 5) || (i == 0x6400 && sub == 1) || (i == 0x3050 && sub == 2)
    || (i == 0x3040 && sub == 3) || (inIdx i 0x3010 4 && sub == 6) || (i == 0x8100 && sub != 1) || i == 0x8101
    || (i == 0x1000 && sub == 7) || (i == 0x2001 && (sub == 5 || sub == 6)) || (inIdx i 0x3060 2 && sub == 1)

/-- Bytes of ERROR_LOG. -/
def keptByte (k : Nat) : Bool := k / 2 ^ 20 == dkey 0x8100 1

/-- What survives a warm reset: Table 19.5, HBM until its march, and THERMTRIP_N. -/
def afterWarmReset (s : State) : State :=
  { blankPart s with
    aon := { Aon.reset with time := s.aon.time, s0 := true, perstSeen := true, waitPerst := true,
                            clockHeld := !s.pins.refclk, thermtrip := s.aon.thermtrip, frozen := s.aon.thermtrip }
    dict := s.dict.filter (fun e => keptEntry e.1)
    domains := s.domains.filter (fun e => keptByte e.1)
    mem := s.mem.filter (fun e => decide (e.1 < hbmEnd))
    power := { Power.reset with ageBurn := s.power.ageBurn }
    rel := { Rel.reset with poison := s.rel.poison.filter (fun e => decide (e.1 < hbmEnd)) } }

/-- A fall of PERST_N: a warm reset once PERST_N has been high since S0 (R419). -/
def execWarmReset (s : State) : Out :=
  .next (
    let s1 := { s with pins := { s.pins with perstN := false } }
    if s.pins.perstN && s.aon.up && s.aon.perstSeen then coolantFrom (pinLevels (afterWarmReset s1)) else s1)

/-! The reference clock (R15). -/

/-- The clock stops: every REF-derived domain is held, the self-timed region freezes, and the AON logic writes the FATAL
entry and drives FAULT_N; after S0 START_STATE is FAILED. -/
def execClockLoss (s : State) : Out :=
  .next (
    let s1 := { s with pins := { s.pins with refclk := false } }
    if s.aon.up && s.pins.refclk then
      let s2 := { s1 with aon := { s1.aon with clockHeld := true, clockLost := true, frozen := true } }
      let s3 := driveFaultN (logEvent s2 { Event.plain 0x0E 4 0xFF 0 with srcs := [src 15 7] })
      if s.aon.s0 then setReg (setStart s3 5) 0x2001 3 3 else s3
    else s1)

/-- Work that was in flight ends with HW_FAULT. -/
def endAllWork (s : State) : State :=
  let s1 := announceStops ((s.ops.map Op.tag).foldl (stopWork stHwFault) s)
  s1.waits.foldl (fun t w => endWait t w stHwFault) s1

/-- The clock returns: held domains restart, and the device stays FATAL. -/
def execClockReturn (s : State) : Out :=
  .next (
    let s1 := { s with pins := { s.pins with refclk := true } }
    if s.aon.up && !s.pins.refclk then
      let s2 := { s1 with aon := { s1.aon with clockHeld := false, frozen := s1.aon.thermtrip } }
      if s.aon.clockLost then endAllWork s2 else s2
    else s1)

end Sys2Proof.Machine
end

