-- ==== Sys2Proof/Machine/Dispatch.lean ====
section
/-! DEFINITION. One arm for each command, in the order of the command table. -/

namespace Sys2Proof.Machine

def exec (i : Instr) (s : State) : Host.Outcome State Fault Refusal :=
  match i with
  | .vddAonUp => Sys2Proof.Machine.execVddAonUp s
  | .s0 x0 => Sys2Proof.Machine.execS0 x0 s
  | .fuseSenseComplete => Sys2Proof.Machine.execFuseSenseComplete s
  | .bootImagesVerified x0 x1 => Sys2Proof.Machine.execBootImagesVerified x0 x1 s
  | .gweviRunning x0 => Sys2Proof.Machine.execGweviRunning x0 s
  | .identityDerived x0 => Sys2Proof.Machine.execIdentityDerived x0 s
  | .softRepairRegistersLoaded => Sys2Proof.Machine.execSoftRepairRegistersLoaded s
  | .loamMarchComplete x0 => Sys2Proof.Machine.execLoamMarchComplete x0 s
  | .arraySelfTestComplete x0 x1 => Sys2Proof.Machine.execArraySelfTestComplete x0 x1 s
  | .baseDieFirmwareRunning => Sys2Proof.Machine.execBaseDieFirmwareRunning s
  | .hbmTrainingComplete x0 => Sys2Proof.Machine.execHbmTrainingComplete x0 s
  | .hbmMarchComplete x0 => Sys2Proof.Machine.execHbmMarchComplete x0 s
  | .portsSettled => Sys2Proof.Machine.execPortsSettled s
  | .ready => Sys2Proof.Machine.execReady s
  | .perstNRise => Sys2Proof.Machine.execPerstNRise s
  | .pcieLinkUp => Sys2Proof.Machine.execPcieLinkUp s
  | .warmReset => Sys2Proof.Machine.execWarmReset s
  | .hotReset => Sys2Proof.Machine.execHotReset s
  | .clockLoss => Sys2Proof.Machine.execClockLoss s
  | .clockReturn => Sys2Proof.Machine.execClockReturn s
  | .paceHoldNFall => Sys2Proof.Machine.execPaceHoldNFall s
  | .paceHoldNRise => Sys2Proof.Machine.execPaceHoldNRise s
  | .skewExpiry x0 => Sys2Proof.Machine.execSkewExpiry x0 s
  | .rampIntervalEnd x0 => Sys2Proof.Machine.execRampIntervalEnd x0 s
  | .coolantOkFall => Sys2Proof.Machine.execCoolantOkFall s
  | .coolantOkRise => Sys2Proof.Machine.execCoolantOkRise s
  | .coolantStop => Sys2Proof.Machine.execCoolantStop s
  | .coolantResume x0 x1 => Sys2Proof.Machine.execCoolantResume x0 x1 s
  | .resumeComplete => Sys2Proof.Machine.execResumeComplete s
  | .thermtrip => Sys2Proof.Machine.execThermtrip s
  | .tjUpdate x0 => Sys2Proof.Machine.execTjUpdate x0 s
  | .thermalGridPoint => Sys2Proof.Machine.execThermalGridPoint s
  | .thermalStop => Sys2Proof.Machine.execThermalStop s
  | .stackTemperatureRead x0 x1 => Sys2Proof.Machine.execStackTemperatureRead x0 x1 s
  | .pmbAlert x0 => Sys2Proof.Machine.execPmbAlert x0 s
  | .railTelemetryPoll x0 => Sys2Proof.Machine.execRailTelemetryPoll x0 s
  | .voltageLoopUpdate x0 x1 x2 x3 => Sys2Proof.Machine.execVoltageLoopUpdate x0 x1 x2 x3 s
  | .ageingMeasurement x0 x1 => Sys2Proof.Machine.execAgeingMeasurement x0 x1 s
  | .ageingFuseBurnEnd x0 x1 => Sys2Proof.Machine.execAgeingFuseBurnEnd x0 x1 s
  | .canaryEvent x0 => Sys2Proof.Machine.execCanaryEvent x0 s
  | .marginWindowEnd x0 => Sys2Proof.Machine.execMarginWindowEnd x0 s
  | .railScaleUpdate x0 x1 x2 => Sys2Proof.Machine.execRailScaleUpdate x0 x1 x2 s
  | .phaseAnnouncement x0 x1 => Sys2Proof.Machine.execPhaseAnnouncement x0 x1 s
  | .powerShareEvaluation x0 x1 x2 x3 => Sys2Proof.Machine.execPowerShareEvaluation x0 x1 x2 x3 s
  | .phaseEnd x0 x1 x2 x3 x4 x5 x6 => Sys2Proof.Machine.execPhaseEnd x0 x1 x2 x3 x4 x5 x6 s
  | .shareTableWrap => Sys2Proof.Machine.execShareTableWrap s
  | .shareShadowWrite x0 x1 => Sys2Proof.Machine.execShareShadowWrite x0 x1 s
  | .d0Request x0 => Sys2Proof.Machine.execD0Request x0 s
  | .dozeRequest x0 => Sys2Proof.Machine.execDozeRequest x0 s
  | .holdRequest x0 => Sys2Proof.Machine.execHoldRequest x0 s
  | .dozeEntry => Sys2Proof.Machine.execDozeEntry s
  | .holdEntry => Sys2Proof.Machine.execHoldEntry s
  | .wakeEvent x0 => Sys2Proof.Machine.execWakeEvent x0 s
  | .pcieD0 => Sys2Proof.Machine.execPcieD0 s
  | .nop x0 x1 => Sys2Proof.Machine.execNop x0 x1 s
  | .matmul x0 x1 => Sys2Proof.Machine.execMatmul x0 x1 s
  | .wave x0 x1 => Sys2Proof.Machine.execWave x0 x1 s
  | .outputStageAccept x0 x1 x2 => Sys2Proof.Machine.execOutputStageAccept x0 x1 x2 s
  | .completionRecord x0 => Sys2Proof.Machine.execCompletionRecord x0 s
  | .recordWrite x0 => Sys2Proof.Machine.execRecordWrite x0 s
  | .operationDeadlineExpiry x0 => Sys2Proof.Machine.execOperationDeadlineExpiry x0 s
  | .arrayHold x0 x1 x2 => Sys2Proof.Machine.execArrayHold x0 x1 x2 s
  | .partitionMode x0 x1 x2 => Sys2Proof.Machine.execPartitionMode x0 x1 x2 s
  | .repairBurn x0 x1 x2 => Sys2Proof.Machine.execRepairBurn x0 x1 x2 s
  | .repairBurnComplete x0 => Sys2Proof.Machine.execRepairBurnComplete x0 s
  | .vprog x0 x1 => Sys2Proof.Machine.execVprog x0 x1 s
  | .vprogNop x0 x1 => Sys2Proof.Machine.execVprogNop x0 x1 s
  | .epilogue x0 x1 => Sys2Proof.Machine.execEpilogue x0 x1 s
  | .shareWindowEnd x0 => Sys2Proof.Machine.execShareWindowEnd x0 s
  | .vecNop x0 x1 => Sys2Proof.Machine.execVecNop x0 x1 s
  | .vecEnd x0 x1 => Sys2Proof.Machine.execVecEnd x0 x1 s
  | .shape x0 x1 => Sys2Proof.Machine.execShape x0 x1 s
  | .loop x0 x1 => Sys2Proof.Machine.execLoop x0 x1 s
  | .endloop x0 x1 => Sys2Proof.Machine.execEndloop x0 x1 s
  | .yield x0 x1 => Sys2Proof.Machine.execYield x0 x1 s
  | .vecWait x0 x1 => Sys2Proof.Machine.execVecWait x0 x1 s
  | .vecSignal x0 x1 => Sys2Proof.Machine.execVecSignal x0 x1 s
  | .sets x0 x1 => Sys2Proof.Machine.execSets x0 x1 s
  | .setar x0 x1 => Sys2Proof.Machine.execSetar x0 x1 s
  | .advar x0 x1 => Sys2Proof.Machine.execAdvar x0 x1 s
  | .add x0 x1 => Sys2Proof.Machine.execAdd x0 x1 s
  | .sub x0 x1 => Sys2Proof.Machine.execSub x0 x1 s
  | .mul x0 x1 => Sys2Proof.Machine.execMul x0 x1 s
  | .fma x0 x1 => Sys2Proof.Machine.execFma x0 x1 s
  | .min x0 x1 => Sys2Proof.Machine.execMin x0 x1 s
  | .max x0 x1 => Sys2Proof.Machine.execMax x0 x1 s
  | .abs x0 x1 => Sys2Proof.Machine.execAbs x0 x1 s
  | .neg x0 x1 => Sys2Proof.Machine.execNeg x0 x1 s
  | .select x0 x1 => Sys2Proof.Machine.execSelect x0 x1 s
  | .cmpeq x0 x1 => Sys2Proof.Machine.execCmpeq x0 x1 s
  | .cmplt x0 x1 => Sys2Proof.Machine.execCmplt x0 x1 s
  | .cmple x0 x1 => Sys2Proof.Machine.execCmple x0 x1 s
  | .mand x0 x1 => Sys2Proof.Machine.execMand x0 x1 s
  | .mor x0 x1 => Sys2Proof.Machine.execMor x0 x1 s
  | .mnot x0 x1 => Sys2Proof.Machine.execMnot x0 x1 s
  | .exp2 x0 x1 => Sys2Proof.Machine.execExp2 x0 x1 s
  | .log2 x0 x1 => Sys2Proof.Machine.execLog2 x0 x1 s
  | .rcp x0 x1 => Sys2Proof.Machine.execRcp x0 x1 s
  | .rsqrt x0 x1 => Sys2Proof.Machine.execRsqrt x0 x1 s
  | .rsum x0 x1 => Sys2Proof.Machine.execRsum x0 x1 s
  | .rsumsq x0 x1 => Sys2Proof.Machine.execRsumsq x0 x1 s
  | .rprod x0 x1 => Sys2Proof.Machine.execRprod x0 x1 s
  | .rmax x0 x1 => Sys2Proof.Machine.execRmax x0 x1 s
  | .rmin x0 x1 => Sys2Proof.Machine.execRmin x0 x1 s
  | .rargmax x0 x1 => Sys2Proof.Machine.execRargmax x0 x1 s
  | .rargmin x0 x1 => Sys2Proof.Machine.execRargmin x0 x1 s
  | .rcount x0 x1 => Sys2Proof.Machine.execRcount x0 x1 s
  | .slotArithmetic x0 x1 => Sys2Proof.Machine.execSlotArithmetic x0 x1 s
  | .cvt x0 x1 => Sys2Proof.Machine.execCvt x0 x1 s
  | .quant x0 x1 => Sys2Proof.Machine.execQuant x0 x1 s
  | .qdual x0 x1 => Sys2Proof.Machine.execQdual x0 x1 s
  | .compress x0 x1 => Sys2Proof.Machine.execCompress x0 x1 s
  | .expand x0 x1 => Sys2Proof.Machine.execExpand x0 x1 s
  | .topk x0 x1 => Sys2Proof.Machine.execTopk x0 x1 s
  | .maskgen x0 x1 => Sys2Proof.Machine.execMaskgen x0 x1 s
  | .vecLoad x0 x1 => Sys2Proof.Machine.execVecLoad x0 x1 s
  | .store x0 x1 => Sys2Proof.Machine.execStore x0 x1 s
  | .loadstat x0 x1 => Sys2Proof.Machine.execLoadstat x0 x1 s
  | .savestat x0 x1 => Sys2Proof.Machine.execSavestat x0 x1 s
  | .loadmask x0 x1 => Sys2Proof.Machine.execLoadmask x0 x1 s
  | .microcodeInstruction x0 x1 => Sys2Proof.Machine.execMicrocodeInstruction x0 x1 s
  | .captureComplete x0 x1 => Sys2Proof.Machine.execCaptureComplete x0 x1 s
  | .exactCheck x0 x1 => Sys2Proof.Machine.execExactCheck x0 x1 s
  | .sieveRecheck x0 x1 => Sys2Proof.Machine.execSieveRecheck x0 x1 s
  | .fidelityCheck x0 => Sys2Proof.Machine.execFidelityCheck x0 s
  | .sieveEnable x0 x1 => Sys2Proof.Machine.execSieveEnable x0 x1 s
  | .copy x0 x1 => Sys2Proof.Machine.execCopy x0 x1 s
  | .fill x0 x1 => Sys2Proof.Machine.execFill x0 x1 s
  | .dmaNop x0 x1 => Sys2Proof.Machine.execDmaNop x0 x1 s
  | .lineRead x0 x1 x2 x3 => Sys2Proof.Machine.execLineRead x0 x1 x2 x3 s
  | .lineWrite x0 x1 x2 x3 x4 x5 => Sys2Proof.Machine.execLineWrite x0 x1 x2 x3 x4 x5 s
  | .contextRecordWrite x0 x1 x2 => Sys2Proof.Machine.execContextRecordWrite x0 x1 x2 s
  | .load x0 x1 x2 => Sys2Proof.Machine.execLoad x0 x1 x2 s
  | .preempt x0 x1 => Sys2Proof.Machine.execPreempt x0 x1 s
  | .checkpoint x0 x1 => Sys2Proof.Machine.execCheckpoint x0 x1 s
  | .reset x0 x1 => Sys2Proof.Machine.execReset x0 x1 s
  | .delete x0 x1 => Sys2Proof.Machine.execDelete x0 x1 s
  | .loadRemote x0 x1 => Sys2Proof.Machine.execLoadRemote x0 x1 s
  | .loadComplete x0 => Sys2Proof.Machine.execLoadComplete x0 s
  | .imageSaved x0 x1 => Sys2Proof.Machine.execImageSaved x0 x1 s
  | .checkpointCommitted x0 => Sys2Proof.Machine.execCheckpointCommitted x0 s
  | .scrubStart x0 x1 => Sys2Proof.Machine.execScrubStart x0 x1 s
  | .scrubDone => Sys2Proof.Machine.execScrubDone s
  | .patrolScrubRead x0 x1 x2 => Sys2Proof.Machine.execPatrolScrubRead x0 x1 x2 s
  | .stackLinkReplay x0 x1 x2 => Sys2Proof.Machine.execStackLinkReplay x0 x1 x2 s
  | .slotTableWrap x0 => Sys2Proof.Machine.execSlotTableWrap x0 s
  | .hbmSlotGrant x0 x1 => Sys2Proof.Machine.execHbmSlotGrant x0 x1 s
  | .slotShadow x0 x1 x2 => Sys2Proof.Machine.execSlotShadow x0 x1 x2 s
  | .slotAll x0 x1 => Sys2Proof.Machine.execSlotAll x0 x1 s
  | .arrivalAdd x0 x1 x2 x3 x4 => Sys2Proof.Machine.execArrivalAdd x0 x1 x2 x3 x4 s
  | .slotWrite x0 x1 x2 x3 x4 => Sys2Proof.Machine.execSlotWrite x0 x1 x2 x3 x4 s
  | .areaRegistration x0 => Sys2Proof.Machine.execAreaRegistration x0 s
  | .areaDone x0 => Sys2Proof.Machine.execAreaDone x0 s
  | .areaRelease x0 => Sys2Proof.Machine.execAreaRelease x0 s
  | .refresh x0 x1 x2 => Sys2Proof.Machine.execRefresh x0 x1 x2 s
  | .pprBurn x0 x1 => Sys2Proof.Machine.execPprBurn x0 x1 s
  | .pprBurnComplete => Sys2Proof.Machine.execPprBurnComplete s
  | .readPhaseUpdate x0 x1 => Sys2Proof.Machine.execReadPhaseUpdate x0 x1 s
  | .writePathRetrain x0 x1 => Sys2Proof.Machine.execWritePathRetrain x0 x1 s
  | .marginReadTiming x0 x1 => Sys2Proof.Machine.execMarginReadTiming x0 x1 s
  | .marginReadVoltage x0 x1 => Sys2Proof.Machine.execMarginReadVoltage x0 x1 s
  | .marginWriteTiming x0 x1 => Sys2Proof.Machine.execMarginWriteTiming x0 x1 s
  | .marginWriteVoltage x0 x1 => Sys2Proof.Machine.execMarginWriteVoltage x0 x1 s
  | .marginRunDone x0 x1 => Sys2Proof.Machine.execMarginRunDone x0 x1 s
  | .tgenEnable x0 x1 x2 => Sys2Proof.Machine.execTgenEnable x0 x1 x2 s
  | .tgenRunEnd x0 x1 => Sys2Proof.Machine.execTgenRunEnd x0 x1 s
  | .signal x0 x1 => Sys2Proof.Machine.execSignal x0 x1 s
  | .wait x0 x1 => Sys2Proof.Machine.execWait x0 x1 s
  | .acquire x0 x1 => Sys2Proof.Machine.execAcquire x0 x1 s
  | .releaseLock x0 x1 => Sys2Proof.Machine.execReleaseLock x0 x1 s
  | .arrive x0 x1 => Sys2Proof.Machine.execArrive x0 x1 s
  | .clear x0 x1 => Sys2Proof.Machine.execClear x0 x1 s
  | .init x0 x1 => Sys2Proof.Machine.execInit x0 x1 s
  | .waitSatisfied x0 => Sys2Proof.Machine.execWaitSatisfied x0 s
  | .lockGrant x0 => Sys2Proof.Machine.execLockGrant x0 s
  | .syncTimeout x0 => Sys2Proof.Machine.execSyncTimeout x0 s
  | .compareAndSwap x0 x1 x2 x3 x4 x5 x6 => Sys2Proof.Machine.execCompareAndSwap x0 x1 x2 x3 x4 x5 x6 s
  | .swap x0 x1 x2 x3 x4 x5 => Sys2Proof.Machine.execSwap x0 x1 x2 x3 x4 x5 s
  | .fetchAdd x0 x1 x2 x3 x4 x5 => Sys2Proof.Machine.execFetchAdd x0 x1 x2 x3 x4 x5 s
  | .linkTrained x0 x1 x2 x3 => Sys2Proof.Machine.execLinkTrained x0 x1 x2 x3 s
  | .dataCell x0 x1 x2 => Sys2Proof.Machine.execDataCell x0 x1 x2 s
  | .uncorrectableCodeword x0 => Sys2Proof.Machine.execUncorrectableCodeword x0 s
  | .replayReq x0 x1 => Sys2Proof.Machine.execReplayReq x0 x1 s
  | .read x0 x1 => Sys2Proof.Machine.execRead x0 x1 s
  | .write x0 x1 => Sys2Proof.Machine.execWrite x0 x1 s
  | .redAdd x0 x1 => Sys2Proof.Machine.execRedAdd x0 x1 s
  | .redSlot x0 x1 => Sys2Proof.Machine.execRedSlot x0 x1 s
  | .fabricSignal x0 x1 => Sys2Proof.Machine.execFabricSignal x0 x1 s
  | .collData x0 x1 => Sys2Proof.Machine.execCollData x0 x1 s
  | .collCtrl x0 x1 => Sys2Proof.Machine.execCollCtrl x0 x1 s
  | .notice x0 x1 => Sys2Proof.Machine.execNotice x0 x1 s
  | .readData x0 x1 => Sys2Proof.Machine.execReadData x0 x1 s
  | .ack x0 x1 => Sys2Proof.Machine.execAck x0 x1 s
  | .nak x0 x1 => Sys2Proof.Machine.execNak x0 x1 s
  | .transitForward x0 x1 => Sys2Proof.Machine.execTransitForward x0 x1 s
  | .remoteTimeout x0 => Sys2Proof.Machine.execRemoteTimeout x0 s
  | .fabricEnable x0 x1 => Sys2Proof.Machine.execFabricEnable x0 x1 s
  | .window x0 x1 x2 => Sys2Proof.Machine.execWindow x0 x1 x2 s
  | .windowWriteOk x0 => Sys2Proof.Machine.execWindowWriteOk x0 s
  | .commState x0 x1 x2 => Sys2Proof.Machine.execCommState x0 x1 x2 s
  | .rs x0 x1 => Sys2Proof.Machine.execRs x0 x1 s
  | .ag x0 x1 => Sys2Proof.Machine.execAg x0 x1 s
  | .ar x0 x1 => Sys2Proof.Machine.execAr x0 x1 s
  | .rsug x0 x1 => Sys2Proof.Machine.execRsug x0 x1 s
  | .sliceTaken x0 x1 => Sys2Proof.Machine.execSliceTaken x0 x1 s
  | .contrib x0 x1 => Sys2Proof.Machine.execContrib x0 x1 s
  | .partialAcc x0 x1 => Sys2Proof.Machine.execPartialAcc x0 x1 s
  | .partialBlock x0 x1 => Sys2Proof.Machine.execPartialBlock x0 x1 s
  | .compressed x0 x1 => Sys2Proof.Machine.execCompressed x0 x1 s
  | .gather x0 x1 => Sys2Proof.Machine.execGather x0 x1 s
  | .repairData x0 x1 => Sys2Proof.Machine.execRepairData x0 x1 s
  | .scales x0 x1 => Sys2Proof.Machine.execScales x0 x1 s
  | .shadowDigest x0 x1 => Sys2Proof.Machine.execShadowDigest x0 x1 s
  | .substitute x0 x1 => Sys2Proof.Machine.execSubstitute x0 x1 s
  | .stopped x0 x1 => Sys2Proof.Machine.execStopped x0 x1 s
  | .done x0 x1 => Sys2Proof.Machine.execDone x0 x1 s
  | .abort x0 x1 => Sys2Proof.Machine.execAbort x0 x1 s
  | .norm x0 x1 => Sys2Proof.Machine.execNorm x0 x1 s
  | .repairReq x0 x1 => Sys2Proof.Machine.execRepairReq x0 x1 s
  | .barrierArrive x0 x1 => Sys2Proof.Machine.execBarrierArrive x0 x1 s
  | .barrierRelease x0 x1 => Sys2Proof.Machine.execBarrierRelease x0 x1 s
  | .streamDeadlineExpiry x0 x1 => Sys2Proof.Machine.execStreamDeadlineExpiry x0 x1 s
  | .collWatchdogExpiry x0 => Sys2Proof.Machine.execCollWatchdogExpiry x0 s
  | .resultChunkAccepted x0 x1 => Sys2Proof.Machine.execResultChunkAccepted x0 x1 s
  | .bucketEnd x0 => Sys2Proof.Machine.execBucketEnd x0 s
  | .updateSlice x0 x1 x2 x3 => Sys2Proof.Machine.execUpdateSlice x0 x1 x2 x3 s
  | .globalNormKnown x0 => Sys2Proof.Machine.execGlobalNormKnown x0 s
  | .normRecord x0 => Sys2Proof.Machine.execNormRecord x0 s
  | .tail x0 x1 => Sys2Proof.Machine.execTail x0 x1 s
  | .ringHead x0 x1 => Sys2Proof.Machine.execRingHead x0 x1 s
  | .queueConfig x0 x1 x2 => Sys2Proof.Machine.execQueueConfig x0 x1 x2 s
  | .resume x0 x1 => Sys2Proof.Machine.execResume x0 x1 s
  | .flush x0 x1 x2 => Sys2Proof.Machine.execFlush x0 x1 x2 s
  | .ringConfig x0 x1 x2 => Sys2Proof.Machine.execRingConfig x0 x1 x2 s
  | .dataPortWrite x0 x1 x2 => Sys2Proof.Machine.execDataPortWrite x0 x1 x2 s
  | .dataPortRead x0 => Sys2Proof.Machine.execDataPortRead x0 s
  | .bar4Access x0 => Sys2Proof.Machine.execBar4Access x0 s
  | .chTail x0 x1 => Sys2Proof.Machine.execChTail x0 x1 s
  | .hostDmaDescriptor x0 => Sys2Proof.Machine.execHostDmaDescriptor x0 s
  | .chBase x0 x1 x2 => Sys2Proof.Machine.execChBase x0 x1 x2 s
  | .interruptSource x0 x1 => Sys2Proof.Machine.execInterruptSource x0 x1 s
  | .claim x0 => Sys2Proof.Machine.execClaim x0 s
  | .eoi x0 => Sys2Proof.Machine.execEoi x0 s
  | .pending x0 x1 x2 => Sys2Proof.Machine.execPending x0 x1 x2 s
  | .raise x0 x1 x2 => Sys2Proof.Machine.execRaise x0 x1 x2 s
  | .holdoffExpiry x0 => Sys2Proof.Machine.execHoldoffExpiry x0 s
  | .holdoffNs x0 x1 x2 => Sys2Proof.Machine.execHoldoffNs x0 x1 x2 s
  | .gpioEdge x0 => Sys2Proof.Machine.execGpioEdge x0 s
  | .grant x0 x1 => Sys2Proof.Machine.execGrant x0 x1 s
  | .resourceWatchdogExpiry x0 => Sys2Proof.Machine.execResourceWatchdogExpiry x0 s
  | .waitLimit x0 x1 x2 x3 => Sys2Proof.Machine.execWaitLimit x0 x1 x2 x3 s
  | .fieldFrame x0 x1 x2 => Sys2Proof.Machine.execFieldFrame x0 x1 x2 s
  | .mailboxDoorbell x0 x1 x2 => Sys2Proof.Machine.execMailboxDoorbell x0 x1 x2 s
  | .dictRead x0 => Sys2Proof.Machine.execDictRead x0 s
  | .dictWrite x0 => Sys2Proof.Machine.execDictWrite x0 s
  | .readBlock x0 => Sys2Proof.Machine.execReadBlock x0 s
  | .writeBlock x0 => Sys2Proof.Machine.execWriteBlock x0 s
  | .entryWrite x0 x1 x2 x3 => Sys2Proof.Machine.execEntryWrite x0 x1 x2 x3 s
  | .neighborSolicitation x0 x1 => Sys2Proof.Machine.execNeighborSolicitation x0 x1 s
  | .echo x0 x1 => Sys2Proof.Machine.execEcho x0 x1 s
  | .duplicateAddressDetectionEnd x0 => Sys2Proof.Machine.execDuplicateAddressDetectionEnd x0 s
  | .stagedWrite x0 x1 x2 x3 => Sys2Proof.Machine.execStagedWrite x0 x1 x2 x3 s
  | .commit x0 => Sys2Proof.Machine.execCommit x0 s
  | .discard x0 => Sys2Proof.Machine.execDiscard x0 s
  | .modeApplied x0 => Sys2Proof.Machine.execModeApplied x0 s
  | .gpioFunction x0 x1 x2 => Sys2Proof.Machine.execGpioFunction x0 x1 x2 s
  | .signedCommand x0 x1 x2 => Sys2Proof.Machine.execSignedCommand x0 x1 x2 s
  | .attest => Sys2Proof.Machine.execAttest s
  | .attestationReportReady x0 x1 => Sys2Proof.Machine.execAttestationReportReady x0 x1 s
  | .writeEntry x0 => Sys2Proof.Machine.execWriteEntry x0 s
  | .scrub x0 => Sys2Proof.Machine.execScrub x0 s
  | .advanceSvn x0 => Sys2Proof.Machine.execAdvanceSvn x0 s
  | .installOwnerKey x0 => Sys2Proof.Machine.execInstallOwnerKey x0 s
  | .debugUnlock x0 x1 => Sys2Proof.Machine.execDebugUnlock x0 x1 s
  | .signedCommandEnded x0 => Sys2Proof.Machine.execSignedCommandEnded x0 s
  | .faultAck x0 x1 => Sys2Proof.Machine.execFaultAck x0 x1 s
  | .retiredListWrite x0 x1 x2 => Sys2Proof.Machine.execRetiredListWrite x0 x1 x2 s
  | .targetedSelfTestStart x0 => Sys2Proof.Machine.execTargetedSelfTestStart x0 s
  | .targetedSelfTestEnd x0 x1 => Sys2Proof.Machine.execTargetedSelfTestEnd x0 x1 s
  | .laneErrorRateCheckEnd x0 x1 x2 x3 => Sys2Proof.Machine.execLaneErrorRateCheckEnd x0 x1 x2 x3 s
  | .vddAonRemoval => Sys2Proof.Machine.execVddAonRemoval s
  | .linkLeavesUp x0 => Sys2Proof.Machine.execLinkLeavesUp x0 s
  | .idleCell x0 x1 => Sys2Proof.Machine.execIdleCell x0 x1 s
  | .coolantStopComplete => Sys2Proof.Machine.execCoolantStopComplete s
  | .returnToD0 => Sys2Proof.Machine.execReturnToD0 s
  | .faultNChange x0 => Sys2Proof.Machine.execFaultNChange x0 s
  | .pmbAlertNRise => Sys2Proof.Machine.execPmbAlertNRise s
  | .msiXUnmask x0 => Sys2Proof.Machine.execMsiXUnmask x0 s
  | .srcCfg x0 x1 x2 => Sys2Proof.Machine.execSrcCfg x0 x1 x2 s
  | .threshold x0 x1 x2 => Sys2Proof.Machine.execThreshold x0 x1 x2 s
  | .dataPortRegisterWrite x0 x1 => Sys2Proof.Machine.execDataPortRegisterWrite x0 x1 s
  | .configurationRequest => Sys2Proof.Machine.execConfigurationRequest s
  | .hostCompletion x0 x1 x2 => Sys2Proof.Machine.execHostCompletion x0 x1 x2 s
  | .tapInstruction x0 => Sys2Proof.Machine.execTapInstruction x0 s
  | .dictionaryAnswers => Sys2Proof.Machine.execDictionaryAnswers s

end Sys2Proof.Machine
end

