-- ==== Sys2Proof/Machine/Tick.lean ====
section
/-! DEFINITION. One cycle of REF without a command (log 8): the local time counter advances by 10 (R18), and the counters
of time with it. -/

namespace Sys2Proof.Machine

/-- LOCAL_TIME_STEP. -/
abbrev tickNs : Nat := 10

/-- The output stage of array n holds a row for which its vector engine has no room (2300h + n:0C). -/
def stagingHeld (s : State) (n : Nat) : Bool :=
  (List.range 16).any (fun ii => match (partOf s (pkey n ii)).stage with
    | [] => false
    | r :: _ => match findOp s r.tag with
      | none => false
      | some o => mDest o.desc.toNat == 1 && !o.epiStop && !r.vals.isEmpty && !stagingRoom s n ii o r)

/-- Add a cycle to a counter while its condition holds. -/
def countWhile (b : Bool) (i sub : Nat) (s : State) : State := if b then bumpBy s i sub tickNs else s

/-- PACE_HOLD_NS, THROTTLE_NS, CAPPED_NS and STAGING_HOLDS. -/
def countTimes (s : State) : State :=
  let s1 := countWhile (!s.pins.paceHoldN) 0x3030 2 s
  let s2 := countWhile (decide (reg s 0x3050 3 < 64)) 0x3050 4 s1
  let s3 := countWhile (reg s 0x3000 7 == 1) 0x3000 9 s2
  (List.range 4).foldl (fun t n => countWhile (stagingHeld s n) (0x2300 + n) 0x0C t) s3

/-- A cycle passes; without the clock nothing does (R15). -/
def tick (s : State) : State :=
  if clockOn s then countTimes { s with aon := { s.aon with time := s.aon.time + tickNs } } else s

end Sys2Proof.Machine
end

