-- ==== Sys2Proof/Safety.lean ====
section
/-! DEFINITION. What statements say of runs: a step that completes, memory and fuses kept in order, what two states
share, and the conditions under which a command acts. -/

namespace Sys2Proof.Machine

/-- A step or command that answers a next state. -/
def Completes (o : Out) : Prop := ∃ t, o = .next t

/-- Memory is in its canonical form: addresses rise, and no byte is listed that an unlisted one reads as. -/
abbrev MemWf (s : State) : Prop := SMap.wf s.mem 0 = true

/-- No fused SVN of `t` is below that of `s` (R400). -/
def SvnKept (s t : State) : Prop := ∀ k, SMap.get s.fuses.svn k 0 ≤ SMap.get t.fuses.svn k 0

/-- Every byte of memory reads in `t` as in `s`. -/
def SameMemory (s t : State) : Prop := ∀ a, memByte t a = memByte s a

/-- Every byte of memory outside the ranges (address, length) listed reads in `t` as in `s`. -/
def SameMemoryBut (l : List (Nat × Nat)) (s t : State) : Prop :=
  ∀ a, (∀ r ∈ l, a < r.1 ∨ r.1 + r.2 ≤ a) → memByte t a = memByte s a

/-- Every dictionary entry whose key is not listed is stored in `t` as in `s`. -/
def SameEntriesBut (l : List Nat) (s t : State) : Prop := ∀ i sub, dkey i sub ∉ l → reg t i sub = reg s i sub

/-- Every BAR0 register at an offset not listed holds in `t` what it holds in `s`. -/
def SameBarBut (l : List Nat) (s t : State) : Prop := ∀ off, off ∉ l → bget t off = bget s off

/-! Dispatch. -/

/-- Descriptor `d` of context `c` stands at the head of queue `q`, and `tag` and the turn are there to take it (R315). -/
structure Taken (s : State) (q tag c : Nat) (d : BitVec 1024) : Prop where
  turn : canTake s q tag = true
  ctx  : queueCtx s q = some c
  slot : readHead s c q = .desc d

/-- The head has passed the slot just read (R315). -/
def HeadPassed (s t : State) (q : Nat) : Prop := bget t (qHeadOff q) = (qHead s q + 1) % qSize (qCfg s q)

/-- A sync descriptor of opcode `op` whose own fields pass R430 is taken with nothing of its queue in flight before it; the
object's checks give `st`, and its context is live where they pass. -/
structure SyncTaken (s : State) (q tag c : Nat) (d : BitVec 1024) (op st : Nat) : Prop where
  taken  : Taken s q tag c d
  isOp   : dOpcode d.toNat = op
  fields : syncFieldsBad s q d.toNat = false
  first  : op = 0x11 ∨ op = 0x12 ∨ inFlight s q = []
  checks : syncStatus s op (yOwner d.toNat) (yObj d.toNat) ((queueAgent s q).getD 127) = st
  live   : st = stOk → syncLive s (yOwner d.toNat) = true

/-- The deadline of `o` has been tested, or is still to come (R108). -/
def DeadlineTested (s : State) (o : Op) : Prop :=
  ∀ t0, o.deadline = some t0 → now s < t0 ∨ o.dlHandled = true ∨ stopped s = true

/-! Dictionary writes by a row of their own. -/

/-- Path `p` may write `v` into the entry now: the dictionary answers, the checks of R351 pass, the entry's own condition
`pre` holds, and the value is in range. -/
structure WriteOk (s : State) (p : Path) (i sub len v pre : Nat) : Prop where
  live  : dictLive s = true
  passes : checkAccess s p i sub true false 0 len = 0
  free  : pre = 0
  range : rangeOk i sub v = true

/-- The answer OK of a direct access goes out. -/
abbrev answered (s : State) (p : Path) : State := emit s (.dictAnswer p dOk [])

/-- Every processor's stack of claimed levels rises strictly from bottom to top and holds levels 1 to 15 (R331). -/
def LevelsOrdered (s : State) : Prop :=
  ∀ p, (levelStack s p).Pairwise (fun a b => b < a) ∧ ∀ x ∈ levelStack s p, 1 ≤ x ∧ x ≤ 15

/-! Collective messages. -/

/-- Message `m` comes whole, for this device, and the marl die takes it up: its lane is not held back (R283), and it is not
worn out by hops (R269). A collective one comes by a port only while FABRIC_ENABLE is 1 (R259). -/
structure Arrives (s : State) (v : Via) (m : Msg) : Prop where
  clock : clockOn s = true
  port  : viaUp s v m = true
  here  : m.dest = devNum s
  free  : laneHeld s v m = false
  hops  : m.hops ≠ 63
  on    : m.opcode = 6 ∨ m.opcode = 7 → v = .loopback ∨ fabricOn s = true

/-- A collective message comes and meets R283. -/
structure CollAdmitted (s : State) (v : Via) (m : Msg) (seq : Nat) : Prop where
  comes  : Arrives s v m
  active : commActive s (gComm m) = true
  known  : knownSource s (gComm m) m.source = true
  kind   : kindListed m.opcode (gKind m) = true
  seq    : fullSeq s m = some seq

/-- The same, and it names the posted bucket `b` after its cap notice is taken. -/
structure CollFor (s : State) (v : Via) (m : Msg) (op kind : Nat) (b : Bucket) : Prop where
  op   : m.opcode = op
  kind : gKind m = kind
  ok   : ∃ seq, CollAdmitted s v m seq ∧ bucketNamed (capNotice (unloop s v m) (gComm m) seq (gCap m)) (gComm m) seq (gBucket m) = some b
  open_ : b.finished = false

/-- The state a collective message's effect starts from: it loops no more (R272), and its cap notice is taken (R294). -/
def notedCap (s : State) (v : Via) (m : Msg) : State :=
  match fullSeq s m with
  | none => unloop s v m
  | some seq => capNotice (unloop s v m) (gComm m) seq (gCap m)

/-- Elements of a message's body that lie in the owned range they start in. -/
def inRange (s : State) (b : Bucket) (m : Msg) : Nat := leftIn (commRec s b.comm) (kElems b.desc.toNat) (gIndex m)

/-- What a collective message, or a part of a bucket, never touches: sync objects and their waits, engines, partitions,
contexts and fuses. -/
structure CollFrame (s t : State) : Prop where
  sync    : t.sync = s.sync
  waits   : t.waits = s.waits
  engines : t.engines = s.engines
  parts   : t.parts = s.parts
  ctxs    : t.ctxs = s.ctxs
  fuses   : t.fuses = s.fuses

/-- The command completes and leaves bucket `b` in flight, as `P` says. -/
def BucketBecomes (i : Instr) (s : State) (b : Bucket) (P : State → Bucket → Prop) : Prop :=
  ∃ t b', exec i s = .next t ∧ CollFrame s t ∧ bucketNamed t b.comm b.seq b.number = some b' ∧ b'.finished = false ∧ P t b'

/-- The command completes and ends bucket `b` with status `st`: so does its operation. -/
def BucketEnds (i : Instr) (s : State) (b : Bucket) (st : Nat) : Prop :=
  ∃ t, exec i s = .next t ∧ CollFrame s t ∧
    (∀ b', bucketNamed t b.comm b.seq b.number = some b' → b'.finished = true ∧ b'.status = st) ∧
    ∀ o, findOp s b.tag = some o → o.ended = false → ∃ o', findOp t b.tag = some o' ∧ o'.ended = true ∧ o'.status = st

/-- The stream of a rank, or of a group, holds `vals` from index `i0` on: in the copy its backup sends, or in its own. -/
def StreamHolds (b : Bucket) (rank : Nat) (grp shadow : Bool) (i0 : Nat) (vals : List Nat) : Prop :=
  ∃ x, findStream b rank grp = some x ∧
    ∀ j, j < vals.length → SMap.get (if shadow then x.shadow else x.vals) (i0 + j) 0 = vals.getD j 0

/-- Nothing of a collective waits in the device, and no contribution has stopped. -/
structure CollQuiet (s : State) : Prop where
  held  : s.fab.held = []
  subs  : s.fab.subs = []
  stops : s.fab.stops = []
  tiles : ∀ b ∈ s.buckets, b.stopTile = none

/-- Index `i` of bucket `b` lies in this device's owned range (R286). -/
def inMyRange (s : State) (b : Bucket) (i : Nat) : Prop :=
  (myRange (commRec s b.comm) (kElems b.desc.toNat)).1 ≤ i ∧
    i < (myRange (commRec s b.comm) (kElems b.desc.toNat)).1 + (myRange (commRec s b.comm) (kElems b.desc.toNat)).2

/-! Vector instructions. -/

/-- Word `w` of program `p` of class `k` is the one engine `n` runs next (R116, R130, R131). -/
structure AtWord (s : State) (n : Nat) (k : WorkClass) (p : Prog) (w : Nat) : Prop where
  turn  : mayRun s n k = true
  cls   : k = .epilogue ∨ k = .program
  held  : progOf (engineOf s n) k = some p
  runs  : p.waiting = false
  place : p.pc < p.len
  word  : wordAt s p = w
  clean : rangePoisoned s (p.base + 8 * p.pc) 8 = false
  rect  : p.rows ≤ 1024 ∧ p.cols ≤ 1024

/-- What the instruction at word `w` sees. -/
abbrev ctxAt (s : State) (n : Nat) (k : WorkClass) (p : Prog) (w : Nat) : Ctx := ctxOf s n k p w

/-- The buffers, slots and masks a class may write (R126, R130). -/
def ownsTb (k : WorkClass) (b : Nat) : Bool := if k = .epilogue then decide (b < 3) else decide (3 ≤ b)
def ownsSlot (k : WorkClass) (sl : Nat) : Bool := if k = .epilogue then decide (sl < 32) else decide (32 ≤ sl)
def ownsMask (k : WorkClass) (m : Nat) : Bool := if k = .epilogue then decide (m < 2) else decide (2 ≤ m)

/-- The word is done: the program stands at `pc`, its steps are counted in STEPS and in the class's counter (Table 6.7), no
other engine and no byte of memory has changed, and no other dictionary entry but those listed. -/
structure WordDone (s t : State) (n : Nat) (k : WorkClass) (pc cost : Nat) (also : List Nat) : Prop where
  at_   : (progOf (engineOf t n) k).map Prog.pc = some pc
  steps : reg t (0x2300 + n) 5 = (reg s (0x2300 + n) 5 + cost) % 2 ^ 64
  byCls : reg t (0x2300 + n) (classSub k) = (reg s (0x2300 + n) (classSub k) + cost) % 2 ^ 64
  rest  : SameEntriesBut (dkey (0x2300 + n) 5 :: dkey (0x2300 + n) (classSub k) :: also) s t
  other : ∀ m, m ≠ n → engineOf t m = engineOf s m
  mem   : t.mem = s.mem

/-- Row `r` lies in the rectangle of a program: the descriptor does not mask it (R125). -/
def inRows (p : Prog) (r : Nat) : Bool := decide (r < p.rows) && !p.rowOff.testBit r

/-- Tile buffer `b` of engine `n` holds `f` in the rectangle, when class `k` may write it; everything else of the tile
buffers is as before. -/
def TbBecomes (s t : State) (n : Nat) (k : WorkClass) (p : Prog) (b : Nat) (f : Nat → Nat → Acc) : Prop :=
  ∀ b' r j, r < 2 ^ 22 → j < 2 ^ 22 → tbAt (engineOf t n) b' r j =
    if b' = b ∧ ownsTb k b = true ∧ inRows p r = true ∧ j < p.cols then f r j else tbAt (engineOf s n) b' r j

/-- The same for mask buffer `m`. -/
def MaskBecomes (s t : State) (n : Nat) (k : WorkClass) (p : Prog) (m : Nat) (f : Nat → Nat → Bool) : Prop :=
  ∀ m' r j, r < 2 ^ 22 → j < 2 ^ 22 → maskAt (engineOf t n) m' r j =
    if m' = m ∧ ownsMask k m = true ∧ inRows p r = true ∧ j < p.cols then f r j else maskAt (engineOf s n) m' r j

/-- The same for the entries `on` of statistics slot `sl`. -/
def SlotBecomes (s t : State) (n : Nat) (k : WorkClass) (sl : Nat) (on : Nat → Bool) (f : Nat → Option Acc) : Prop :=
  ∀ sl' r, r < 2 ^ 22 → slotAt (engineOf t n) sl' r =
    if sl' = sl ∧ ownsSlot k sl = true ∧ on r = true then f r else slotAt (engineOf s n) sl' r

/-- Tile buffers, slots, masks and register banks of an engine are as before. -/
def SameTb (e f : Engine) : Prop := ∀ b r j, tbAt f b r j = tbAt e b r j
def SameSlots (e f : Engine) : Prop := ∀ sl r, slotAt f sl r = slotAt e sl r
def SameMasks (e f : Engine) : Prop := ∀ m r j, maskAt f m r j = maskAt e m r j
def SameBuffers (e f : Engine) : Prop := SameTb e f ∧ SameSlots e f ∧ SameMasks e f ∧ f.shared = e.shared
def SameBanks (e f : Engine) : Prop := f.bankE = e.bankE ∧ f.bankP = e.bankP

/-- An element-wise command at word `w` writes `g` at the active positions of DST, keeps the others, and is done. -/
def MapsElements (i : Instr) (s : State) (n : Nat) (k : WorkClass) (p : Prog) (w cost : Nat) (g : Nat → Nat → Acc) : Prop :=
  ∃ t, exec i s = .next t ∧ WordDone s t n k (p.pc + 1) cost [] ∧
    TbBecomes s t n k p (iDst w) (fun r j =>
      if active (engineOf s n) (ctxAt s n k p w) r j then g r j else tbAt (engineOf s n) (iDst w) r j) ∧
    (ownsTb k (iDst w) = true → SMap.find (engineOf t n).tags (iDst w) = some (layoutOf w)) ∧
    SameSlots (engineOf s n) (engineOf t n) ∧ SameMasks (engineOf s n) (engineOf t n) ∧
    SameBanks (engineOf s n) (engineOf t n)

/-- A command at word `w` writes `g` at the active positions of mask buffer `m`, keeps the others, and is done. -/
def MapsMask (i : Instr) (s : State) (n : Nat) (k : WorkClass) (p : Prog) (w m cost : Nat) (g : Nat → Nat → Bool) : Prop :=
  ∃ t, exec i s = .next t ∧ WordDone s t n k (p.pc + 1) cost [] ∧
    MaskBecomes s t n k p m (fun r j =>
      if active (engineOf s n) (ctxAt s n k p w) r j then g r j else maskAt (engineOf s n) m r j) ∧
    SameTb (engineOf s n) (engineOf t n) ∧ SameSlots (engineOf s n) (engineOf t n) ∧
    SameBanks (engineOf s n) (engineOf t n)

/-- The values of row `r` of SRC1, none at an inactive position. -/
def rowValues (e : Engine) (c : Ctx) (r : Nat) : List (Option Acc) := rowVals e c r

/-- Rows without an active position. -/
def emptyRows (e : Engine) (c : Ctx) : Nat := (emptyRowsOf e c).length

/-- A row reduction at word `w` leaves `f` in SLOT for each row, counts the empty rows (R120), and is done. -/
def WritesRows (i : Instr) (s : State) (n : Nat) (k : WorkClass) (p : Prog) (w : Nat) (f : Nat → Option Acc) : Prop :=
  ∃ t, exec i s = .next t ∧
    WordDone s t n k (p.pc + 1) (costRow (ctxAt s n k p w)) [dkey (0x2300 + n) 0x0A] ∧
    SlotBecomes s t n k (iSlot w) (inRows p) f ∧
    reg t (0x2300 + n) 0x0A = (reg s (0x2300 + n) 0x0A + emptyRows (engineOf s n) (ctxAt s n k p w)) % 2 ^ 64 ∧
    SameTb (engineOf s n) (engineOf t n) ∧ SameMasks (engineOf s n) (engineOf t n) ∧
    SameBanks (engineOf s n) (engineOf t n)

/-- A row reduction that folds the parts of each row (R50, R51), behind the entry of SLOT when IMM bit 0 is set (R118). -/
def ReducesRows (i : Instr) (s : State) (n : Nat) (k : WorkClass) (p : Prog) (w : Nat)
    (parts : List (Option Acc) → List Acc) (join : Acc → Acc → Acc) : Prop :=
  WritesRows i s n k p w (fun r =>
    foldFrom join (if (iImm w).testBit 0 then slotAt (engineOf s n) (iSlot w) r else none)
      (parts (rowValues (engineOf s n) (ctxAt s n k p w) r)))

end Sys2Proof.Machine
end

