-- ==== Sys2Proof/Certificates/Slice0/Obligations.lean ====
section
/-! DEFINITION. The statements for the provers. -/

open Sys2Proof Sys2Proof.Machine

/-- First in, first out; the idle step is the model's choice (log 8) with the rate of R18. -/
def Obligations.AStepRunsTheCommandAtTheFront : Prop :=
  (∀ (s : State) (c : Instr) (rest : List Instr), step { s with pending := c :: rest } = exec c { s with pending := rest }) ∧
  (∀ (s : State), s.pending = [] → clockOn s = true → ∃ t, step s = .next t ∧ now t = now s + 10 ∧ t.mem = s.mem ∧ t.ops = s.ops ∧
    t.bar = s.bar ∧ t.pending = [] ∧ SameEntriesBut [dkey 0x3030 2, dkey 0x3050 4, dkey 0x3000 9, dkey 0x2300 0x0C, dkey 0x2301 0x0C,
      dkey 0x2302 0x0C, dkey 0x2303 0x0C] s t) ∧
  (∀ (s : State), s.pending = [] → clockOn s = false → step s = .next s) ∧
  (∀ (s : State) (c : Instr), Completes (exec c s))

/-- An invariant of every step; the levels by R331, the memory's form is the model's own. -/
def Obligations.EveryStepKeepsTheInvariants : Prop :=
  ∀ (s t : State), MemWf s → LevelsOrdered s → step s = .next t → MemWf t ∧ LevelsOrdered t

/-- R400: the SVN is never lowered; and the queue moves by one command a step. -/
def Obligations.NoStepLowersAFusedVersion : Prop :=
  ∀ (s t : State), step s = .next t → SvnKept s t ∧ t.pending = s.pending.tail

/-- Reset values of the entry tables; masked MSI-X vectors are the family's (log 6). -/
def Obligations.ResetLeavesTheValuesOfTheTables : Prop :=
  now State.reset = 0 ∧ startState State.reset = 0 ∧ State.reset.pending = [] ∧ State.reset.ops = [] ∧ State.reset.mem = [] ∧
  MemWf State.reset ∧ LevelsOrdered State.reset ∧
  (∀ x ∈ [(0x1010, 1, 4867), (0x1010, 4, 0x3F), (0x2020, 1, 65536), (0x2500, 1, 1000000000), (0x2700, 1, 1000), (0x2700, 2, 10000),
      (0x2700, 3, 100000), (0x2700, 4, 10000), (0x2710, 1, 1023), (0x2711, 1, 16), (0x2712, 3, 64), (0x2713, 7, 128),
      (0x3000, 1, 3200), (0x3000, 2, 3600), (0x3000, 3, 50), (0x3018, 1, 16), (0x3018, 2, 64), (0x3020, 1, 1000), (0x3020, 2, 16),
      (0x3020, 3, 500), (0x3050, 3, 64), (0x2300, 2, 2000), (0x5100, 1, slotTableDefault), (0x5100, 2, slotTableDefault)],
    reg State.reset x.1 x.2.1 = x.2.2) ∧
  (∀ q : QueueId, qSize (qCfg State.reset q) = 0 ∧ qState State.reset q = 0) ∧
  (∀ p, levelStack State.reset p = [] ∧ runLevel State.reset p = 0) ∧
  (∀ v : Fin 64, (bget State.reset (msixCtl v)).testBit 0 = true) ∧
  (∀ c, c < 64 → ctxState State.reset c = 0) ∧ (∀ o i, domByte State.reset 0x8100 1 o = 0 ∧ memByte State.reset i = 0)

/-- R410 to R415 with the images of R399 and R400, the identity of R401, repairs of R87 and R225, ports of R259. -/
def Obligations.StartUpStepsComeInOrder : Prop :=
  ∀ (s : State),
    (s.aon.up = false → ∃ t, exec .vddAonUp s = .next t ∧ t.aon.up = true ∧ now t = 0 ∧ startState t = 0 ∧ t.mem = [] ∧ t.dict = [] ∧
      t.ops = [] ∧ t.fuses = s.fuses ∧ t.pins = s.pins ∧ t.pending = s.pending) ∧
    (s.aon.up = true → exec .vddAonUp s = .next s ∧ exec (.s0 false) s = .next s ∧
      (s.aon.s0 = false → s.pins.refclk = true → s.pins.coolantOk = true → ∃ t, exec (.s0 true) s = .next t ∧ startState t = 1 ∧
        t.aon.s0 = true ∧ t.aon.perstSeen = s.pins.perstN ∧ reg t 0x1000 7 = s.pins.slotId.toNat ∧
        reg t 0x2001 5 = s.pins.bootMode.toNat ∧ reg t 0x2001 6 = s.pins.pmbBase.toNat ∧
        reg t 0x3060 1 = 0x40 + 2 * s.pins.pmbBase.toNat ∧ reg t 0x3061 1 = 0x41 + 2 * s.pins.pmbBase.toNat ∧ t.mem = s.mem)) ∧
    (clockOn s = true → startState s = 1 → stepDone s 0 = false → ∃ t, exec .fuseSenseComplete s = .next t ∧ stepDone t 0 = true ∧
      (∀ u, u < 8 → marginStep t u = min 15 (SMap.get s.fuses.marginFloor u 0 + 4)) ∧
      (∀ a, a < 4 → SMap.get s.power.ageBurn a 0 = 0 → reg t (0x3010 + a) 6 = 10 * SMap.get s.fuses.ageing a 0) ∧ t.mem = s.mem) ∧
    (bootDue s 0 1 = true → ∀ a b : SlotCheck,
      let first := reg s 0x2001 5 % 2
      let chk := fun k => if k = 0 then a else b
      let accepted := fun (t : State) (k : Nat) => reg t 0x9040 1 = k ∧ stepDone t 1 = true ∧ startState t = 1 ∧
        t.sec.mSec = measure (chk k).sec ∧ t.sec.mGwevi = measure (chk k).gwevi ∧ t.sec.mBase = measure (chk k).base ∧
        (∀ j h, (j, h) ∈ [(0, (chk k).sec.header), (1, (chk k).gwevi.header), (2, (chk k).base.header)] →
          SMap.get t.sec.svnRun j 0 = imgField h 1 31 0 ∧ SMap.get s.fuses.svn j 0 ≤ imgField h 1 31 0) ∧ t.fuses = s.fuses ∧ t.mem = s.mem
      (badKind s (chk first) = none → ∃ t, exec (.bootImagesVerified a b) s = .next t ∧ accepted t first ∧
        reg t 0x8100 2 = reg s 0x8100 2) ∧
      (badKind s (chk first) ≠ none → badKind s (chk (1 - first)) = none →
        ∃ t, exec (.bootImagesVerified a b) s = .next t ∧ accepted t (1 - first) ∧ reg t 0x8100 2 = reg s 0x8100 2 + 1) ∧
      (badKind s (chk first) ≠ none → badKind s (chk (1 - first)) ≠ none → ∃ t, exec (.bootImagesVerified a b) s = .next t ∧
        startState t = 5 ∧ reg t 0x2001 3 = 1 ∧ t.aon.fatal = true ∧ reg t 0x8100 2 = reg s 0x8100 2 + 2 ∧ t.fuses = s.fuses)) ∧
    (bootDue s 1 2 = true → ∀ v : BitVec 32, ∃ t, exec (.gweviRunning v) s = .next t ∧ startState t = 2 ∧ stepDone t 2 = true ∧
      reg t 0x1000 4 = v.toNat ∧ t.mem = s.mem ∧
      ∀ p, p < 24 → reg t (0x7020 + p) 1 = if portEnabled s p then 1 else reg s (0x7020 + p) 1) ∧
    (clockOn s = true → stepDone s 2 = true → s.sec.identityDone = false → ∀ r : IdentityResult,
      ∃ t, exec (.identityDerived r) s = .next t ∧ t.sec.identityDone = true ∧ reg t 0x9000 1 = (if r.ok then 0 else 1) ∧
        reg t 0x9010 2 = r.nonce.toNat ∧ reg t 0x9030 1 = r.challenge.toNat ∧ reg t 0x6120 4 = r.sieveSeed.toNat ∧
        reg t 0x8100 2 = (if r.ok then reg s 0x8100 2 else reg s 0x8100 2 + 1) ∧ t.mem = s.mem) ∧
    (trackDue s 2 3 = true → ∃ t, exec .softRepairRegistersLoaded s = .next t ∧ stepDone t 3 = true ∧ t.mem = s.mem ∧
      ∀ a i, a < 4 → i < 32 → reg t (0x2210 + a) (i + 1) = (SMap.get s.fuses.repairs a []).getD i 0) ∧
    (trackDue s 3 4 = true → ∀ l : List LocalAddr, ∃ t, exec (.loamMarchComplete l) s = .next t ∧ stepDone t 4 = true ∧
      (∀ a, memByte t a = if loamBase ≤ a ∧ a < loamEnd then 0 else memByte s a) ∧
      ∀ x ∈ l, inLoam (lineAddr x.toNat) = true → isRetired t x.toNat = true) ∧
    (trackDue s 4 5 = true → s.pins.coolantOk = true → s.pins.paceHoldN = true →
      exec (.arraySelfTestComplete [] []) s = .next (setStep s 5) ∧
      ∀ rs bad, ∃ t, exec (.arraySelfTestComplete rs bad) s = .next t ∧ stepDone t 5 = true ∧ t.mem = s.mem) ∧
    (trackDue s 2 6 = true → exec .baseDieFirmwareRunning s = .next (setStep s 6)) ∧
    (trackDue s 6 7 = true → s.pins.coolantOk = true → reg s 0x2001 3 = 0 → ∀ failed : List StackId,
      ∃ t, exec (.hbmTrainingComplete failed) s = .next t ∧ t.mem = s.mem ∧
        (∀ k : StackId, (k ∈ failed → stackLost t k = true) ∧ (k ∉ failed → reg t (0x5020 + k) 5 = 1)) ∧
        ((failed = [] ∨ bringUp s = true) → stepDone t 7 = true ∧ reg t 0x2001 3 = 0) ∧
        (failed ≠ [] → bringUp s = false → reg t 0x2001 3 = 2 ∧ stepDone t 7 = false)) ∧
    (trackDue s 7 8 = true → s.pins.coolantOk = true → bringUp s = false → ∀ rows : List HbmRow,
      ∃ t, exec (.hbmMarchComplete rows) s = .next t ∧ stepDone t 8 = true ∧
        ∀ a, memByte t a = if a < hbmEnd then 0 else memByte s a) ∧
    (trackDue s 2 9 = true → (portsStill s = true → exec .portsSettled s = .next (setStep s 9)) ∧
      (portsStill s = false → exec .portsSettled s = .next s)) ∧
    (clockOn s = true → startState s = 2 → tracksEnded s = true →
      (reg s 0x2001 3 = 2 → exec .ready s = .next (setStart s 5)) ∧
      (reg s 0x2001 3 ≠ 2 → bringUp s = true → ∃ t, exec .ready s = .next t ∧ startState t = 4 ∧ reg t 0x2001 4 = now s ∧ t.mem = s.mem) ∧
      (reg s 0x2001 3 ≠ 2 → bringUp s = false → ∃ t, exec .ready s = .next t ∧ startState t = 3 ∧ stepDone t 11 = true ∧
        reg t 0x2001 4 = now s ∧ t.mem = s.mem ∧ t.ops = s.ops)) ∧
    (startState s ≠ 1 → ∀ a b v, ∀ i ∈ [Instr.fuseSenseComplete, .bootImagesVerified a b, .gweviRunning v], exec i s = .next s) ∧
    (startState s ≠ 2 → ∀ l rs bad failed rows, ∀ i ∈ [Instr.softRepairRegistersLoaded, .loamMarchComplete l,
      .arraySelfTestComplete rs bad, .baseDieFirmwareRunning, .hbmTrainingComplete failed, .hbmMarchComplete rows, .portsSettled,
      .ready], exec i s = .next s)

/-- R15, R386 and R388 for the clock, R410, R411, R417, R419 and R420 for the resets. -/
def Obligations.ResetsAndTheClockKeepWhatTheySay : Prop :=
  ∀ (s : State),
    (s.pins.perstN = true → s.aon.up = true → s.aon.perstSeen = true → ∃ t, exec .warmReset s = .next t ∧ t.pins.perstN = false ∧
      (∀ i sub, sub < 256 → reg t i sub = if keptEntry (dkey i sub) then reg s i sub else resetVal i sub) ∧
      (∀ o, o < 2 ^ 20 → domByte t 0x8100 1 o = domByte s 0x8100 1 o) ∧
      (∀ a, memByte t a = if a < hbmEnd then memByte s a else 0) ∧
      now t = now s ∧ t.fuses = s.fuses ∧ t.ops = [] ∧ t.waits = [] ∧ t.parts = [] ∧ t.engines = [] ∧ t.ctxs = [] ∧ t.buckets = [] ∧
      t.fab = Fabric.reset ∧ t.frames = Frames.reset ∧ t.aon.waitPerst = true ∧ t.aon.dictUp = false ∧ t.aon.fatal = false ∧
      t.aon.thermtrip = s.aon.thermtrip ∧ t.pending = s.pending) ∧
    ((s.pins.perstN = false ∨ s.aon.up = false ∨ s.aon.perstSeen = false) →
      exec .warmReset s = .next { s with pins := { s.pins with perstN := false } }) ∧
    (s.aon.up = true → s.aon.s0 = true → ∃ t, exec .perstNRise s = .next t ∧ t.pins.perstN = true ∧ t.aon.perstSeen = true ∧
      t.aon.waitPerst = false ∧ t.mem = s.mem ∧ t.fuses = s.fuses ∧ (s.aon.waitPerst = true → startState t = 1 ∧
        reg t 0x1000 7 = s.pins.slotId.toNat ∧ reg t 0x2001 5 = s.pins.bootMode.toNat) ∧ (s.aon.waitPerst = false → t.dict = s.dict)) ∧
    ((s.aon.up = false ∨ s.aon.s0 = false) → exec .perstNRise s = .next { s with pins := { s.pins with perstN := true } }) ∧
    (clockOn s = true → s.aon.s0 = true → s.pins.perstN = true → s.aon.pcieUp = false → ∃ t, exec .pcieLinkUp s = .next t ∧
      t.aon.pcieUp = true ∧ stepDone t 10 = true ∧ SameEntriesBut [dkey 0x2001 2] s t ∧ t.mem = s.mem ∧ t.ops = s.ops) ∧
    (clockOn s = true → s.aon.pcieUp = true → ∃ t, exec .hotReset s = .next t ∧ t.aon.pcieUp = false ∧ t.aon.pcieConfigured = false ∧
      t.ops = s.ops ∧ t.ctxs = s.ctxs ∧ t.mem = s.mem ∧ (s.hostIf.asked = [] → t.dict = s.dict) ∧
      (s.hostIf.flushing = [] → ∀ q ∈ s.hostIf.asked, qState s q ≠ 0 → qState t q = 3 ∧ reg t (0x2100 + q) 4 = 2)) ∧
    (s.aon.up = true → s.pins.refclk = true → ∃ t, exec .clockLoss s = .next t ∧ clockOn t = false ∧ t.aon.frozen = true ∧
      t.aon.clockHeld = true ∧ t.aon.fatal = true ∧ t.rel.faultDrive = true ∧ reg t 0x8100 2 = reg s 0x8100 2 + 1 ∧ t.mem = s.mem ∧ t.ops = s.ops ∧
      (s.aon.s0 = true → startState t = 5 ∧ reg t 0x2001 3 = 3) ∧ (s.aon.s0 = false → startState t = startState s)) ∧
    (s.aon.up = true → s.pins.refclk = false → ∃ u, exec .clockReturn s = .next (if s.aon.clockLost then endAllWork u else u) ∧
      clockOn u = true ∧ u.aon.frozen = s.aon.thermtrip ∧ u.mem = s.mem ∧ u.ops = s.ops ∧ u.dict = s.dict ∧ u.aon.fatal = s.aon.fatal) ∧
    (s.aon.up = true → ∃ t, exec .vddAonRemoval s = .next t ∧ t.aon.up = false ∧ t.mem = [] ∧ t.dict = [] ∧ t.domains = [] ∧ t.ops = [] ∧
      t.fuses = s.fuses ∧ t.pins = s.pins ∧ t.aon.thermtrip = false) ∧
    (s.aon.up = false → exec .vddAonRemoval s = .next s ∧ exec .clockLoss s = .next { s with pins := { s.pins with refclk := false } })

/-- R374 to R380; deadlines by R277 and R378. -/
def Obligations.StopsRampsAndTemperaturesFollowTheirPins : Prop :=
  ∀ (s : State),
    let stops := fun (t : State) (reason : Nat) => t.power.stopPhase = 1 ∧ t.power.stopAt = now s ∧ stopped t = true ∧
      reg t 0x3040 1 = 1 ∧ reg t 0x3040 4 = reason ∧ reg t 0x3040 3 = (reg s 0x3040 3 + 1) % 2 ^ 64 ∧ t.hbm.selfRefresh = true ∧
      (∀ x ∈ t.rel.tests, x.running = false) ∧ t.mem = s.mem ∧ t.ops = s.ops
    (s.aon.up = true → s.pins.paceHoldN = true → ∃ t, exec .paceHoldNFall s = .next t ∧ t.pins.paceHoldN = false ∧
      stepsRun t = false ∧ reg t 0x3030 1 = (reg s 0x3030 1 + 1) % 2 ^ 64 ∧ SameEntriesBut [dkey 0x3030 1] s t ∧ t.mem = s.mem) ∧
    (s.aon.up = true → s.pins.paceHoldN = false → ∃ t, exec .paceHoldNRise s = .next t ∧ t.pins.paceHoldN = true ∧
      t.dict = s.dict ∧ t.mem = s.mem ∧ ∀ a, a < 4 →
        ((arrayOf s a).lastWave + reg s 0x3020 3 ≤ now s → (arrayOf t a).rampStep = 0 ∧
          (arrayOf t a).rampStart = (if reg s 0x3020 1 = 0 then none else some (now s + skewNow s)) ∧
          (arrayOf t a).skewUntil = (if skewNow s = 0 then none else some (now s + skewNow s))) ∧
        (now s < (arrayOf s a).lastWave + reg s 0x3020 3 → arrayOf t a = arrayOf s a)) ∧
    (s.aon.up = false → exec .paceHoldNFall s = .next { s with pins := { s.pins with paceHoldN := false } } ∧
      exec .paceHoldNRise s = .next { s with pins := { s.pins with paceHoldN := true } }) ∧
    (∀ (a : ArrayId) (t0 : Nat), (arrayOf s a).skewUntil = some t0 →
      (t0 ≤ now s → exec (.skewExpiry a) s = .next (setArray s a { arrayOf s a with skewUntil := none })) ∧
      (now s < t0 → exec (.skewExpiry a) s = .next s)) ∧
    (∀ (a : ArrayId) (t0 : Nat), (arrayOf s a).rampStart = some t0 →
      let n := reg s 0x3020 2
      let k := (arrayOf s a).rampStep
      let due := t0 * n + (k + 1) * reg s 0x3020 1 ≤ now s * n
      (due → k + 1 < n → exec (.rampIntervalEnd a) s = .next (setArray s a { arrayOf s a with rampStep := k + 1 })) ∧
      (due → n ≤ k + 1 → exec (.rampIntervalEnd a) s = .next (setArray s a { arrayOf s a with rampStart := none, rampStep := 0 })) ∧
      (¬ due → exec (.rampIntervalEnd a) s = .next s)) ∧
    (s.pins.coolantOk = true → ∃ t, exec .coolantOkFall s = .next t ∧ t.pins.coolantOk = false ∧ t.power.lowSince = some (now s) ∧
      t.power.highSince = none ∧ t.dict = s.dict ∧ t.mem = s.mem) ∧
    (s.pins.coolantOk = false → ∃ t, exec .coolantOkRise s = .next t ∧ t.pins.coolantOk = true ∧ t.power.lowSince = none ∧
      t.power.highSince = some (now s) ∧ t.dict = s.dict ∧ t.mem = s.mem) ∧
    (clockOn s = true → sequenceOver s = true → lowFor1us s = true → stopped s = false →
      ∃ t, exec .coolantStop s = .next t ∧ stops t 1) ∧
    ((clockOn s = false ∨ sequenceOver s = false ∨ lowFor1us s = false ∨ stopped s = true) → exec .coolantStop s = .next s) ∧
    (s.aon.up = true →
      exec .thermtrip s = .next { s with aon := { s.aon with thermtrip := true, frozen := true } }) ∧
    (s.power.stopPhase = 1 → exec .coolantStopComplete s = .next { s with power := { s.power with stopPhase := 2 } }) ∧
    (∀ p : Path, WriteOk s p 0x3040 2 1 1 (preCoolantResume 1 s) → mayResume s = true ∧
      ∃ t, exec (.coolantResume p 1) s = .next t ∧ t.power.stopPhase = 3 ∧ t.hbm.selfRefresh = false ∧ halted t = false ∧
        t.dict = s.dict ∧ t.mem = s.mem) ∧
    (∀ p : Path, dictLive s = true → checkAccess s p 0x3040 2 true false 0 1 = 0 → mayResume s = false →
      exec (.coolantResume p 1) s = .next (emit s (.dictAnswer p dQuiesce []))) ∧
    (s.power.stopPhase = 3 → s.fab.kept = [] → lowFor1us s = false → ∃ t, exec .resumeComplete s = .next t ∧
      stopped t = false ∧ reg t 0x3040 1 = 0 ∧ t.mem = s.mem ∧
      t.waits = s.waits.map (fun w => { w with deadline := w.deadline + (now s - s.power.stopAt) }) ∧
      t.fab.reqs = s.fab.reqs.map (fun r => { r with
        deadline := r.deadline + min (now s - s.power.stopAt) (now s - r.sentAt.getD (now s)) }) ∧
      t.ops = s.ops.map (fun o => { o with deadline := o.deadline.map (· + (now s - s.power.stopAt)) })) ∧
    (clockOn s = true → ∀ c : BitVec 32, ∃ t, exec (.tjUpdate c) s = .next t ∧ reg t 0x3050 1 = c.toNat ∧
      (i32 (reg s 0x3050 2) < c.toInt → reg t 0x3050 2 = c.toNat) ∧ (c.toInt ≤ i32 (reg s 0x3050 2) → reg t 0x3050 2 = reg s 0x3050 2) ∧
      condOf t (src 15 3) = decide (100 ≤ c.toInt) ∧ condOf t (src 15 4) = decide (105 ≤ c.toInt) ∧
      (c.toInt < 105 → t.power.tjHotSince = none) ∧ (105 ≤ c.toInt → s.power.tjHotSince = none → t.power.tjHotSince = some (now s)) ∧
      SameEntriesBut [dkey 0x3050 1, dkey 0x3050 2] s t ∧ t.mem = s.mem) ∧
    (clockOn s = true → now s % 100000 = 0 → s.power.lastGrid ≠ now s + 1 →
      let f := reg s 0x3050 3
      let tj := i32 (reg s 0x3050 1)
      ∃ t, exec .thermalGridPoint s = .next t ∧ SameEntriesBut [dkey 0x3050 3] s t ∧ t.power.lastGrid = now s + 1 ∧ t.mem = s.mem ∧
        reg t 0x3050 3 = (if 100 ≤ tj then max 16 (f - 1) else if tj ≤ 98 then min 64 (f + 1) else f)) ∧
    ((now s % 100000 ≠ 0 ∨ s.power.lastGrid = now s + 1) → exec .thermalGridPoint s = .next s) ∧
    (∀ t0, s.power.tjHotSince = some t0 → clockOn s = true → t0 + 10000 ≤ now s → sequenceOver s = true → stopped s = false →
      ∃ t, exec .thermalStop s = .next t ∧ stops t 2) ∧
    (clockOn s = true → ∀ (k : StackId) (c : BitVec 32), ∃ t, exec (.stackTemperatureRead k c) s = .next t ∧
      reg t (0x5020 + k) 1 = c.toNat ∧ condOf t (src 9 k) = decide (85 < c.toInt) ∧ t.mem = s.mem ∧
      SMap.get t.power.stackLimit k 64 = (if 100 ≤ c.toInt then 16 else if 95 ≤ c.toInt then 32 else 64) ∧
      (105 ≤ c.toInt → sequenceOver s = true → stopped s = false → stops t 3) ∧ (c.toInt < 105 → t.power.stopPhase = s.power.stopPhase))

/-- R364 to R369. The measured fractions of a die are DEDUCED (log 21). -/
def Obligations.RailsAgeingAndMarginsMoveInTheirRanges : Prop :=
  ∀ (s : State),
    (clockOn s = true → s.pins.pmbAlertN = true → ∀ l : List (Fin 10), ∃ t, exec (.pmbAlert l) s = .next t ∧
      t.pins.pmbAlertN = false ∧ Output.pmbusStatusRead ∈ t.out ∧ condOf t (src 16 0) = true ∧ t.mem = s.mem ∧
      reg t 0x8100 2 = reg s 0x8100 2 + (l.filter (fun k => pmbusAddr s k != 0)).length) ∧
    (∃ t, exec .pmbAlertNRise s = .next t ∧ t.pins.pmbAlertN = true ∧ condOf t (src 16 0) = false ∧ t.dict = s.dict ∧ t.mem = s.mem) ∧
    (clockOn s = true → ∀ x : RailReading, pmbusAddr s x.rail ≠ 0 → ∃ t, exec (.railTelemetryPoll [x]) s = .next t ∧
      reg t (0x3060 + x.rail) 2 = x.mv.toNat ∧ reg t (0x3060 + x.rail) 3 = x.ma.toNat ∧ reg t (0x3060 + x.rail) 4 = x.temp.toNat ∧
      SameEntriesBut [dkey (0x3060 + x.rail) 2, dkey (0x3060 + x.rail) 3, dkey (0x3060 + x.rail) 4] s t ∧ t.mem = s.mem) ∧
    (clockOn s = true → startState s = 3 → reg s 0x3300 1 ≤ 1 → ∀ (d : Fin 2) (ar er : BitVec 32 × BitVec 32),
      s.power.railStopped.testBit d = false → pmbusAddr s d ≠ 0 →
      let old := reg s (0x3060 + d) 5
      let step_ := railStep s d ar er
      let new := if reg s 0x3070 1 = 1 then (700 : Int) else max 550 (min 850 ((old : Int) + step_))
      step_ ∈ [-5, 0, 5, 20] ∧
      (∃ t, exec (.voltageLoopUpdate d ar er true) s = .next t ∧ (reg t (0x3060 + d) 5 : Int) = new ∧
        SameEntriesBut [dkey (0x3060 + d) 5] s t ∧ t.mem = s.mem) ∧
      (new ≠ old → ∃ t, exec (.voltageLoopUpdate d ar er false) s = .next t ∧ reg t (0x3060 + d) 5 = old ∧
        t.power.railStopped.testBit d = true ∧ reg t 0x8100 2 = reg s 0x8100 2 + 1)) ∧
    (clockOn s = true → ∀ (a : ArrayId) (rate : BitVec 32), rate.toNat < ceilingOf s a → 2000 ≤ ceilingFused s a →
      let want := (ceilingFused s a - rate.toNat + 9) / 10 * 10
      let r := max (reg s (0x3010 + a) 6) (min want (ceilingFused s a - 2000))
      ∃ t, exec (.ageingMeasurement a rate) s = .next t ∧ reg t (0x3010 + a) 6 = r ∧ 2000 ≤ ceilingOf t a ∧ t.fuses = s.fuses ∧
        t.mem = s.mem ∧ reg t 0x8100 2 = reg s 0x8100 2 + (if ceilingFused s a - 2000 < want then 1 else 0)) ∧
    (s.aon.up = true → ∀ a : ArrayId, SMap.get s.power.ageBurn a 0 ≠ 0 →
      (∃ t, exec (.ageingFuseBurnEnd a true) s = .next t ∧ SMap.get t.fuses.ageing a 0 = SMap.get s.power.ageBurn a 0 / 10 ∧
        SMap.get t.power.ageBurn a 0 = 0 ∧ t.dict = s.dict ∧ t.mem = s.mem) ∧
      (∃ t, exec (.ageingFuseBurnEnd a false) s = .next t ∧ t.fuses = s.fuses ∧ reg t 0x8100 2 = reg s 0x8100 2 + 1)) ∧
    (coreRuns s = true → ∀ u : Fin 8,
      let m := marginOf s u
      (m.canary + 1 ≤ reg s 0x3018 1 → ∃ t, exec (.canaryEvent u) s = .next t ∧ (marginOf t u).canary = m.canary + 1 ∧
        reg t (0x3010 + u) 4 = (reg s (0x3010 + u) 4 + 1) % 2 ^ 64 ∧ marginStep t u = marginStep s u ∧ t.mem = s.mem) ∧
      (reg s 0x3018 1 < m.canary + 1 → ∃ t, exec (.canaryEvent u) s = .next t ∧ (marginOf t u).backedOff = true ∧
        (marginOf t u).canary = 0 ∧ marginStep t u = (if marginStep s u < 15 then marginStep s u + 1 else marginStep s u) ∧
        t.mem = s.mem)) ∧
    (clockOn s = true → ∀ u : Fin 8,
      let m := marginOf s u
      let w := if !m.backedOff && m.active then m.cleanWindows + 1 else m.cleanWindows
      let creeps := reg s 0x3018 2 ≤ w ∧ reg s 0x3018 3 ≤ m.cleanChecks ∧ SMap.get s.fuses.marginFloor u 0 < marginStep s u
      ∃ t, exec (.marginWindowEnd u) s = .next t ∧ SameEntriesBut [dkey (0x3010 + u) 1] s t ∧ (marginOf t u).canary = 0 ∧
        (marginOf t u).backedOff = false ∧ t.mem = s.mem ∧
        (creeps → marginStep t u = marginStep s u - 1 ∧ (marginOf t u).cleanWindows = 0 ∧ SMap.get s.fuses.marginFloor u 0 ≤ marginStep t u) ∧
        (¬ creeps → marginStep t u = marginStep s u ∧ (marginOf t u).cleanWindows = w))

/-- R370 to R373 and R381 to R383; the interrupt controller across power states by R334. The rounding of RAIL_SCALE is
DEDUCED (log 22), that of an inexact quarter is left open (log 3). -/
def Obligations.SharesPhasesAndPowerStatesMove : Prop :=
  ∀ (s : State),
    (clockOn s = true → ∀ (k : Fin 10) (m tel : BitVec 64), ∃ t, exec (.railScaleUpdate k m tel) s = .next t ∧
      SameEntriesBut [dkey 0x3200 (2 + k)] s t ∧ t.mem = s.mem ∧
      (m ≠ 0 → reg t 0x3200 (2 + k) = railScale (reg s 0x3200 (2 + k)) m.toNat tel.toNat)) ∧
    (∀ (q : QueueId) (slot : Fin 33) (c : Nat), clockOn s = true → qState s q = 1 → qKind (qCfg s q) = 0 → slot.val < reg s 0x3080 1 →
      slot.val < qAvail s q → queueCtx s q = some c → qHost (qCfg s q) = false →
      slotReadable s c q ((qHead s q + slot) % qSize (qCfg s q)) = true →
      ∃ t, exec (.phaseAnnouncement q slot) s = .next t ∧ t.mem = s.mem ∧ t.ops = s.ops ∧
        SMap.get t.power.announced
          ((16 * qUnit (qCfg s q) + qPart (qCfg s q)) * 2 ^ 13 + (qHead s q + slot) % qSize (qCfg s q)) 0 =
          1 + dPhase (slotDesc s q ((qHead s q + slot) % qSize (qCfg s q))).toNat + 256 * c) ∧
    (clockOn s = true → ∀ p m10 m1 fx : BitVec 32, reg s 0x3050 3 ≤ 64 → ∃ t, exec (.powerShareEvaluation p m10 m1 fx) s = .next t ∧
      reg t 0x3000 8 = (reg s 0x3000 8 + p.toNat) % 2 ^ 64 ∧ reg t 0x3000 4 = p.toNat ∧ reg t 0x3000 5 = m10.toNat ∧
      reg t 0x3000 6 = m1.toNat ∧
      (let budget : Int := if reg s 0x3000 1 ≤ m1.toNat + reg s 0x3000 3 then (reg s 0x3000 1 : Int) - reg s 0x3000 3
        else (reg s 0x3000 2 : Int) - reg s 0x3000 3
      reg t 0x3000 7 = if (budget : Rat) - (fx.toNat : Rat) < demand s 0 + demand s 1 + demand s 2 then 1 else 0) ∧
      (∀ a, a < 4 → paceLimit t a ≤ ceilingOf s a ∧ reg t (0x2300 + a) 2 ≤ 2000) ∧ t.power.hbmRate ≤ 64 ∧ t.mem = s.mem) ∧
    (clockOn s = true → ∀ (a : ArrayId) (c : CtxId) (ph : Byte) (w0 w1 w2 w3 : BitVec 14),
      ∃ t, exec (.phaseEnd a c ph w0 w1 w2 w3) s = .next t ∧ t.mem = s.mem ∧ t.dict = s.dict ∧
        fld (learnedEntry t c ph.toNat) 57 56 = min 3 (fld (learnedEntry s c ph.toNat) 57 56 + 1) ∧
        (∀ x ∈ [(13, 0, w0), (27, 14, w1), (41, 28, w2), (55, 42, w3)],
          let old := fld (learnedEntry s c ph.toNat) x.1 x.2.1
          let new := fld (learnedEntry t c ph.toNat) x.1 x.2.1
          4 * new ≤ 3 * old + x.2.2.toNat + 3 ∧ 3 * old + x.2.2.toNat ≤ 4 * new + 3 ∧
          ((3 * old + x.2.2.toNat) % 4 = 0 → 4 * new = 3 * old + x.2.2.toNat)) ∧
        (∀ d x, d < 64 → x < 256 → (d ≠ c.val ∨ x ≠ ph.toNat) → learnedEntry t d x = learnedEntry s d x)) ∧
    (clockOn s = true → s.power.wrapAt + 64000 ≤ now s → ∃ t, exec .shareTableWrap s = .next t ∧ t.power.wrapAt = now s ∧
      (reg s 0x3082 3 = 1 → reg t 0x3082 2 = reg s 0x3082 1 ∧ reg t 0x3082 3 = 0) ∧ (reg s 0x3082 3 ≠ 1 → t.dict = s.dict) ∧ t.mem = s.mem) ∧
    (∀ (p : Path) (v : BitVec 512), WriteOk s p 0x3082 1 64 v.toNat 0 → ∃ t, exec (.shareShadowWrite p v) s = .next t ∧
      reg t 0x3082 1 = v.toNat ∧ reg t 0x3082 3 = 1 ∧ SameEntriesBut [dkey 0x3082 1, dkey 0x3082 3] s t ∧ t.mem = s.mem) ∧
    (∀ p : Path,
      (WriteOk s p 0x3300 2 1 0 (prePowerState 0 s) → ∃ t, exec (.d0Request p) s = .next t ∧
        (reg s 0x3300 1 = 2 → t.power.leaving = true) ∧ (reg s 0x3300 1 ≤ 1 → t = answered s p) ∧ t.dict = s.dict ∧ t.mem = s.mem) ∧
      (WriteOk s p 0x3300 2 1 2 (prePowerState 2 s) → reg s 0x3300 1 ≠ 2 → reg s 0x3300 1 ≠ 3 → ∃ t, exec (.dozeRequest p) s = .next t ∧ t.power.request = 2 ∧
        t.dict = s.dict ∧ t.mem = s.mem) ∧
      (WriteOk s p 0x3300 2 1 2 (prePowerState 2 s) → 2 ≤ reg s 0x3300 1 → reg s 0x3300 1 ≤ 3 →
        exec (.dozeRequest p) s = .next (answered s p)) ∧
      (WriteOk s p 0x3300 2 1 3 (prePowerState 3 s) → reg s 0x3300 1 ≠ 3 → ∃ t, exec (.holdRequest (.entry p)) s = .next t ∧
        t.power.request = 3 ∧ t.dict = s.dict ∧ t.mem = s.mem) ∧
      (dictLive s = true → checkAccess s p 0x3300 2 true false 0 1 = 0 → (s.power.request ≠ 0 ∨ s.power.leaving = true) →
        exec (.dozeRequest p) s = .next (emit s (.dictAnswer p dQuiesce [])))) ∧
    (hostReaches s = true → reg s 0x3300 1 ≠ 3 → exec (.holdRequest .d3hot) s = .next { s with power := { s.power with request := 3 } }) ∧
    (clockOn s = true → quiet s = true →
      (s.power.request = 2 → ∃ t, exec .dozeEntry s = .next t ∧ reg t 0x3300 1 = 2 ∧ t.power.request = 0 ∧ t.irq.saved = true ∧
        t.irq.held = [] ∧ SameEntriesBut [dkey 0x3300 1] s t ∧ t.mem = s.mem) ∧
      (s.power.request = 3 → scrubbing s = false → ∃ t, exec .holdEntry s = .next t ∧ reg t 0x3300 1 = 3 ∧ reg t 0x7000 2 = 0 ∧
        t.hbm.selfRefresh = true ∧ t.irq.saved = true ∧ SameEntriesBut [dkey 0x3300 1, dkey 0x7000 2] s t ∧ t.mem = s.mem)) ∧
    (quiet s = false → exec .dozeEntry s = .next s ∧ exec .holdEntry s = .next s) ∧
    (clockOn s = true →
      (reg s 0x3300 1 = 2 → ∀ c, c ≠ WakeCause.irq → exec (.wakeEvent c) s = .next { s with power := { s.power with leaving := true } }) ∧
      (reg s 0x3300 1 = 2 → (∀ p, p < 6 → line s p = false) → exec (.wakeEvent .irq) s = .next s) ∧
      (reg s 0x3300 1 = 3 → exec .pcieD0 s = .next { s with power := { s.power with leaving := true } }) ∧
      (s.power.leaving = true → ∃ t, exec .returnToD0 s = .next t ∧ reg t 0x3300 1 = 0 ∧ t.power.leaving = false ∧
        t.irq.saved = false ∧ t.irq.late = [] ∧ t.hbm.selfRefresh = stopped s ∧ SameEntriesBut [dkey 0x3300 1] s t ∧ t.mem = s.mem))

/-- MATMUL and NOP (R94, R105, R313, R315). -/
def Obligations.MatrixDescriptorsAreTakenOrRefused : Prop :=
  ∀ (s : State) (q : QueueId) (tag : TagId) (c : Nat) (d : BitVec 1024), Taken s q tag c d → qKind (qCfg s q) = 0 →
    let next := startMatrix (takeHead s q) (newOp s tag q c .matrix d)
    (dOpcode d.toNat = 0 → exec (.nop q tag) s = .next next) ∧
    (dOpcode d.toNat ≠ 0 → isSyncOp (dOpcode d.toNat) = false → exec (.matmul q tag) s = .next next) ∧
    (matCheck (takeHead s q) q c d.toNat ≠ stOk →
      HeadPassed s next q ∧ next.parts = s.parts ∧ next.mem = s.mem ∧ next.engines = s.engines ∧
      ∃ o, next.ops = s.ops ++ [o] ∧ o.tag = tag.val ∧ o.desc = d ∧ o.ended = true ∧
        o.status = matCheck (takeHead s q) q c d.toNat) ∧
    (matCheck (takeHead s q) q c d.toNat = stOk →
      ∃ u o, next = settlePart u (mArray d.toNat) (mPart d.toNat) ∧ HeadPassed s u q ∧ u.ops = s.ops ++ [o] ∧ o.tag = tag.val ∧
        o.desc = d ∧ o.ended = false ∧ u.mem = s.mem ∧
        (partOf u (pkey (mArray d.toNat) (mPart d.toNat))).ops = (partOf s (pkey (mArray d.toNat) (mPart d.toNat))).ops ++ [tag.val])

/-- A compute wave (R62 to R68), before what it stops is announced: every tile in the cells moves on by one wave, and the
oldest one that is complete swaps into the clear drain. R69 to R71. -/
def Obligations.WavesAccumulateAndTheOutputStageTakesRows : Prop :=
  (∀ (s : State) (a : ArrayId) (ii : PartId), waveReady s a ii = true → (partOf s (pkey a ii)).startup = 0 →
    poisonedTiles s (partOf s (pkey a ii)) = [] →
    let p := partOf s (pkey a ii)
    let moved := (numbered p).map (fun x => match findOp s x.2.tag with
      | some o => waveFlight s o (isFed p x.1) x.2
      | none => x.2)
    let feeds := p.begun = true ∧ ∀ f, p.flights.getLast? = some f → ∃ o, findOp s f.tag = some o ∧ f.fed + 1 < feedWaves o f
    let counted := fun (u : State) => (∀ k, k ≠ pkey a ii → partOf u k = partOf s k) ∧
      (partOf u (pkey a ii)).stage = (drainStep p).stage ∧ (partOf u (pkey a ii)).ops = p.ops ∧
      reg u (0x2200 + a) 7 = (reg s (0x2200 + a) 7 + 1) % 2 ^ 64 ∧ SameEntriesBut [dkey (0x2200 + a) 7] s u ∧ u.mem = s.mem
    (feeds → (p.flights.length = 1 ∨ (drainStep p).drain ≠ [] ∨ ∃ g ∈ moved.head?, g.slices ≠ [] ∨ g.cross ≠ 0) →
      ∃ u, exec (.wave a ii) s = .next (announceStops u) ∧ counted u ∧ (partOf u (pkey a ii)).flights = moved ∧
        (partOf u (pkey a ii)).drain = (drainStep p).drain) ∧
    (feeds → 1 < p.flights.length → (drainStep p).drain = [] → ∀ g l o, moved = g :: l → g.slices = [] → g.cross = 0 →
      findOp s g.tag = some o →
      ∃ u, exec (.wave a ii) s = .next (announceStops u) ∧ counted u ∧ (partOf u (pkey a ii)).flights = l ∧
        (partOf u (pkey a ii)).drain = drainRows o g.tile g.acc ++ marks o (g.tile + 1))) ∧
  (∀ (s : State) (a : ArrayId) (ii : PartId) (ups : List Upset) (r : OutRow) (l : List OutRow), coreRuns s = true →
    (partOf s (pkey a ii)).stage = r :: l →
    (∀ o, findOp s r.tag = some o →
      (mDest o.desc.toNat = 0 → exec (.outputStageAccept a ii ups) s = .next (announceStops (showIdle (stageLoam s a ii o ups r) a))) ∧
      (mDest o.desc.toNat = 1 → exec (.outputStageAccept a ii ups) s = .next (announceStops (showIdle (stageEngine s a ii o ups r) a)))) ∧
    (findOp s r.tag = none →
      ∃ u, exec (.outputStageAccept a ii ups) s = .next (announceStops u) ∧ (partOf u (pkey a ii)).stage = l ∧
        (∀ k, k ≠ pkey a ii → partOf u k = partOf s k) ∧ u.mem = s.mem ∧ u.dict = s.dict ∧ u.ops = s.ops))

/-- R320. Sync operations that the freed tag lets go on do so after. -/
def Obligations.RecordsGoToTheRingTailInOrderWithTheirPhase : Prop :=
  ∀ (s : State), clockOn s = true →
    (∀ (tag : TagId) (o : Op), findOp s tag = some o → recordReady o = true → DeadlineTested s o →
      ∃ t, exec (.completionRecord tag) s = .next t ∧
        t.ready = s.ready ++ [{ ring := ringOf o, word := recordOf o, tag := some o.tag }] ∧ t.mem = s.mem) ∧
    (∀ (r : RingId) (x : ReadyRec), firstReady s r = some x → rSize (rCfg s r) ≠ 0 → ringFull s r = false →
      (qHost (rCfg s r) = true → s.aon.pcieUp = true) →
      let slot := qBase (rCfg s r) + 32 * bget s (rTailOff r)
      let bytes := x.word.toNat % 2 ^ 255 + (if ringPassBit s r then 1 else 0) * 2 ^ 255
      ∃ u, (exec (.recordWrite r) s = .next u ∨ ∃ n, exec (.recordWrite r) s = .next (retryStream u n)) ∧
        u.ready = s.ready.eraseP (fun y => y.ring == r.val) ∧
        bget u (rTailOff r) = (bget s (rTailOff r) + 1) % rSize (rCfg s r) ∧
        ringPassBit u r = (if bget s (rTailOff r) + 1 = rSize (rCfg s r) then !ringPassBit s r else ringPassBit s r) ∧
        (∀ tg, x.tag = some tg → findOp u tg = none) ∧
        (qHost (rCfg s r) = false → SameMemoryBut [(slot, 32)] s u ∧ (retiredIn s slot 32 = [] → memVal u slot 32 = bytes)) ∧
        (qHost (rCfg s r) = true → u.mem = s.mem ∧ .hostWrite slot (leBytes 32 bytes) ∈ u.out)) ∧
    (∀ (p : Path) (r : RingId) (v : BitVec 128), WriteOk s p (0x2140 + r) 1 16 v.toNat (preRingConfig r v.toNat s) →
      ∃ t, exec (.ringConfig p r v) s = .next t ∧ ringPassBit t r = true) ∧
    (∀ (r : RingId) (v : BitVec 64), barsDead s = false →
      (v.toNat < rSize (rCfg s r) → ∃ t, exec (.ringHead r v) s = .next t ∧ bget t (rHeadOff r) = v.toNat) ∧
      (rSize (rCfg s r) ≤ v.toNat → exec (.ringHead r v) s = .next (bump s 0x2020 3)))

/-- R104, R317 (Table 15.3, reason 1) and R382. R107, R108 for deadlines, R74 and R88 for the array commands. -/
def Obligations.RecordsDeadlinesAndArrayCommandsTakeEffect : Prop :=
  (∀ (s : State) (tag : TagId) (o : Op), clockOn s = true → findOp s tag = some o → recordReady o = true →
    DeadlineTested s o → ∃ t o', exec (.completionRecord tag) s = .next t ∧ findOp t tag = some o' ∧ o'.recorded = true ∧ o'.status = o.status ∧
      reg t (0x3100 + o.ctx) 1 = (reg s (0x3100 + o.ctx) 1 + o.energy * 16 / 1000) % 2 ^ 64 ∧ t.mem = s.mem ∧ t.parts = s.parts ∧
      ((o.status = stTimeout ∨ o.status = stAbandoned ∨ o.status = stHwFault) → qState s o.queue ≠ 0 →
        qState t o.queue = 3 ∧ reg t (0x2100 + o.queue) 4 = 1) ∧
      ((o.status ≠ stTimeout ∧ o.status ≠ stAbandoned ∧ o.status ≠ stHwFault) → qState t o.queue = qState s o.queue)) ∧
  (∀ (s : State) (tag : TagId) (o : Op) (t0 : Nat), clockOn s = true → findOp s tag = some o → recordReady o = true →
    o.deadline = some t0 → t0 ≤ now s → o.dlHandled = false → stopped s = false → dAbort o.desc.toNat = false →
    ∃ t o', exec (.completionRecord tag) s = .next t ∧ findOp t tag = some o' ∧ o'.recorded = true ∧ o'.dlHandled = true ∧
      o'.missed = (o.missed || !metBy o t0) ∧ o'.status = o.status ∧ t.mem = s.mem ∧ t.parts = s.parts) ∧
  (∀ (s : State),
    (∀ (tag : TagId) (o : Op) (t0 : Nat), findOp s tag = some o → o.deadline = some t0 → t0 ≤ now s → o.dlHandled = false →
      o.recorded = false → stopped s = false → clockOn s = true →
      (metBy o t0 = true →
        exec (.operationDeadlineExpiry tag) s = .next (updOp s tag (fun x => { x with dlHandled := true }))) ∧
      (metBy o t0 = false → dAbort o.desc.toNat = false →
        ∃ t o', exec (.operationDeadlineExpiry tag) s = .next t ∧ findOp t tag = some o' ∧ o'.dlHandled = true ∧
          o'.missed = true ∧ o'.status = o.status ∧ o'.ended = o.ended ∧ t.mem = s.mem ∧ t.parts = s.parts)) ∧
    (∀ (p : Path) (a : ArrayId) (v : Byte), WriteOk s p (0x2200 + a) 2 1 v.toNat 0 →
      exec (.arrayHold p a v) s = .next (answered (setReg s (0x2200 + a) 2 v.toNat) p)) ∧
    (∀ (p : Path) (a : ArrayId) (v : Byte), WriteOk s p (0x2200 + a) 1 1 v.toNat (prePartitionMode a s) →
      ∃ t, exec (.partitionMode p a v) s = .next t ∧ partMode t a = v.toNat ∧ t.mem = s.mem ∧ t.ops = s.ops ∧ t.parts = s.parts) ∧
    (∀ (p : Path) (a : ArrayId), WriteOk s p (0x2200 + a) 0x0C 1 1 (preRepairBurn a 1 s) →
      ∃ t, exec (.repairBurn p a 1) s = .next t ∧ (arrayOf t a).burning = true ∧ t.dict = s.dict ∧ t.mem = s.mem ∧
        t.fuses = s.fuses) ∧
    (∀ a : ArrayId, s.aon.up = true → (arrayOf s a).burning = true →
      ∃ t, exec (.repairBurnComplete a) s = .next t ∧ (arrayOf t a).burning = false ∧ t.mem = s.mem ∧
        SMap.get t.fuses.repairs a [] = SMap.get s.fuses.repairs a [] ++ (softRecords s a).map (fun w => w - 2 ^ 30) ∧
        t.fuses.svn = s.fuses.svn))

/-- Element-wise instructions (R115, R117; arithmetic of R49, R51, R53). The numbers of a class's opcodes and FMA's addend are
the model's readings (log 40). -/
def Obligations.ElementwiseInstructionsMapTheRectangle : Prop :=
  ∀ (s : State) (e : EngineId) (k : WorkClass) (p : Prog) (w : Nat), AtWord s e k p w →
    (0x10 ≤ iOp w → iOp w ≤ 0x2F →
      MapsElements (.add e k) s e k p w (costElem (ctxAt s e k p w)) (fun r j => accAdd (src1 (engineOf s e) (ctxAt s e k p w) r j) (src2 (engineOf s e) (ctxAt s e k p w) r j)) ∧
      MapsElements (.sub e k) s e k p w (costElem (ctxAt s e k p w)) (fun r j => accSub (src1 (engineOf s e) (ctxAt s e k p w) r j) (src2 (engineOf s e) (ctxAt s e k p w) r j)) ∧
      MapsElements (.mul e k) s e k p w (costElem (ctxAt s e k p w)) (fun r j => accMul (src1 (engineOf s e) (ctxAt s e k p w) r j) (src2 (engineOf s e) (ctxAt s e k p w) r j)) ∧
      MapsElements (.fma e k) s e k p w (costElem (ctxAt s e k p w)) (fun r j => accFma (src1 (engineOf s e) (ctxAt s e k p w) r j) (src2 (engineOf s e) (ctxAt s e k p w) r j)
        (readTb (engineOf s e) (ctxAt s e k p w) (iDst w) r j)) ∧
      MapsElements (.min e k) s e k p w (costElem (ctxAt s e k p w)) (fun r j => accMin (src1 (engineOf s e) (ctxAt s e k p w) r j) (src2 (engineOf s e) (ctxAt s e k p w) r j)) ∧
      MapsElements (.max e k) s e k p w (costElem (ctxAt s e k p w)) (fun r j => accMax (src1 (engineOf s e) (ctxAt s e k p w) r j) (src2 (engineOf s e) (ctxAt s e k p w) r j)) ∧
      MapsElements (.abs e k) s e k p w (costElem (ctxAt s e k p w)) (fun r j => accAbs (src1 (engineOf s e) (ctxAt s e k p w) r j)) ∧
      MapsElements (.neg e k) s e k p w (costElem (ctxAt s e k p w)) (fun r j => accNeg (src1 (engineOf s e) (ctxAt s e k p w) r j))) ∧
    (0x30 ≤ iOp w → iOp w ≤ 0x3F →
      MapsElements (.exp2 e k) s e k p w (costTrans (ctxAt s e k p w)) (fun r j => accExp2 (src1 (engineOf s e) (ctxAt s e k p w) r j)) ∧
      MapsElements (.log2 e k) s e k p w (costTrans (ctxAt s e k p w)) (fun r j => accLog2 (src1 (engineOf s e) (ctxAt s e k p w) r j)) ∧
      MapsElements (.rcp e k) s e k p w (costTrans (ctxAt s e k p w)) (fun r j => accRcp (src1 (engineOf s e) (ctxAt s e k p w) r j)) ∧
      MapsElements (.rsqrt e k) s e k p w (costTrans (ctxAt s e k p w)) (fun r j => accRsqrt (src1 (engineOf s e) (ctxAt s e k p w) r j)))

/-- Comparisons (R117), mask operations and SELECT (R115, R116); operand places of the latter two are log 40's. -/
def Obligations.ComparisonsMasksAndSelectWriteTheirBuffers : Prop :=
  ∀ (s : State) (e : EngineId) (k : WorkClass) (p : Prog) (w : Nat), AtWord s e k p w → 0x10 ≤ iOp w → iOp w ≤ 0x2F →
    let c := ctxAt s e k p w
    let E := engineOf s e
    let cmp := fun (f : Acc → Acc → Bool) (r j : Nat) => f (src1 E c r j) (src2 E c r j)
    MapsMask (.cmpeq e k) s e k p w (iSreg w % 4) (costElem c) (cmp accEq) ∧
    MapsMask (.cmplt e k) s e k p w (iSreg w % 4) (costElem c) (cmp accLt) ∧
    MapsMask (.cmple e k) s e k p w (iSreg w % 4) (costElem c) (cmp accLe) ∧
    MapsMask (.mand e k) s e k p w (iDst w) (costElem c) (fun r j => maskAt E (iSrc1 w) r j && maskAt E (iSrc2 w) r j) ∧
    MapsMask (.mor e k) s e k p w (iDst w) (costElem c) (fun r j => maskAt E (iSrc1 w) r j || maskAt E (iSrc2 w) r j) ∧
    MapsMask (.mnot e k) s e k p w (iDst w) (costElem c) (fun r j => !maskAt E (iSrc1 w) r j) ∧
    MapsElements (.select e k) s e k p w (costElem c) (fun r j => if maskAt E (iMaskSel w) r j then src1 E c r j else src2 E c r j)

/-- Row reductions (R118, R120 with the shapes of R50 and R51); the carry bit and the source slots of slot arithmetic (R52,
Table 6.3) are log 40's. Table 6.4 for the reductions whose identity it gives. -/
def Obligations.RowReductionsFoldActivePositionsIntoASlot : Prop :=
  (∀ (s : State) (e : EngineId) (k : WorkClass) (p : Prog) (w : Nat), AtWord s e k p w →
    let E := engineOf s e
    let c := ctxAt s e k p w
    -- the lowest winning position of the row, behind the tiles before this one
    let place := fun (f : Acc → Acc → Acc) (r : Nat) =>
      let l := rowValues E c r
      let i := argInit E c r
      if (match i.1, foldFrom f i.1 (l.filterMap id) with
        | some y, some v => (y.isNan && v.isNan) || y.bits == v.bits
        | _, _ => false) = true then slotAt E (iSlot w) r else (argExt f l).map (fun x => accOfNat (i.2 + x))
    (0x40 ≤ iOp w → iOp w ≤ 0x4F →
      ReducesRows (.rsum e k) s e k p w (rowParts accAdd) accAdd ∧
      ReducesRows (.rsumsq e k) s e k p w squareParts accAdd ∧
      ReducesRows (.rprod e k) s e k p w (rowParts accMul) accMul ∧
      ReducesRows (.rmax e k) s e k p w (List.filterMap id) accMax ∧
      ReducesRows (.rmin e k) s e k p w (List.filterMap id) accMin ∧
      ReducesRows (.rcount e k) s e k p w countParts accAdd ∧
      WritesRows (.rargmax e k) s e k p w (place accMax) ∧
      WritesRows (.rargmin e k) s e k p w (place accMin)) ∧
    (0x50 ≤ iOp w → iOp w ≤ 0x5F → ∀ op : SlotOp,
      ∃ t, exec (.slotArithmetic e { cls := k, op := op }) s = .next t ∧ WordDone s t e k (p.pc + 1) (if slotTrans op then 4 else 1) [] ∧
        SlotBecomes s t e k (iSlot w) (fun r => decide (r < 512)) (slotEntry E c op) ∧
        SameTb E (engineOf t e) ∧ SameMasks E (engineOf t e) ∧ SameBanks E (engineOf t e))) ∧
  (∀ (s : State) (e : EngineId) (k : WorkClass) (p : Prog) (w r : Nat), AtWord s e k p w → 0x40 ≤ iOp w → iOp w ≤ 0x4F →
    (iImm w).testBit 0 = false → ownsSlot k (iSlot w) = true → inRows p r = true →
    (∀ j, j < p.cols → active (engineOf s e) (ctxAt s e k p w) r j = false) →
    let leaves := fun (i : Instr) (v : Nat) =>
      ∃ t, exec i s = .next t ∧ slotAt (engineOf t e) (iSlot w) r = none ∧ slotF32 (engineOf t e) (iSlot w) r = v ∧
        ∀ tg o, p.tag = some tg → findOp t tg = some o → o.empty = true
    leaves (.rsum e k) 0 ∧ leaves (.rsumsq e k) 0 ∧ leaves (.rprod e k) 0x3F800000 ∧ leaves (.rmax e k) 0xFF800000 ∧
    leaves (.rmin e k) 0x7F800000)

/-- Control instructions (R114 to R116); what SHAPE, SETAR and ADVAR take from their word is left open, and the fifth loop is the model's (log 3, log 40). -/
def Obligations.ControlInstructionsMoveTheProgram : Prop :=
  ∀ (s : State) (e : EngineId) (k : WorkClass) (p : Prog) (w : Nat), AtWord s e k p w → iOp w ≤ 15 →
    let E := engineOf s e
    let now_ := fun (t : State) => progOf (engineOf t e) k
    (∃ t, exec (.vecNop e k) s = .next t ∧ WordDone s t e k (p.pc + 1) 1 [] ∧ SameBuffers E (engineOf t e) ∧ SameBanks E (engineOf t e)) ∧
    ((shapeOf w).1 ≤ 512 ∧ (shapeOf w).2 ≤ (if iPacked w then 1024 else 512)) ∧
    (∃ t, exec (.shape e k) s = .next t ∧ WordDone s t e k (p.pc + 1) 1 [] ∧
      now_ t = some { p with pc := p.pc + 1, rows := (shapeOf w).1, cols := (shapeOf w).2, tileW := 0 } ∧ SameBuffers E (engineOf t e) ∧ SameBanks E (engineOf t e)) ∧
    (p.loops.length < 4 → iImm w ≠ 0 →
      ∃ t, exec (.loop e k) s = .next t ∧ WordDone s t e k (p.pc + 1) 1 [] ∧
        now_ t = some { p with pc := p.pc + 1, loops := (p.pc + 1, iImm w) :: p.loops } ∧
        SameBuffers E (engineOf t e) ∧ SameBanks E (engineOf t e)) ∧
    (p.loops = [] → ∃ t, exec (.endloop e k) s = .next t ∧ WordDone s t e k (p.pc + 1) 1 [] ∧ SameBuffers E (engineOf t e)) ∧
    (∀ first left l, p.loops = (first, left) :: l →
      ∃ t, exec (.endloop e k) s = .next t ∧ SameBuffers E (engineOf t e) ∧ SameBanks E (engineOf t e) ∧
        (1 < left → WordDone s t e k first 1 [] ∧ now_ t = some { p with pc := first, loops := (first, left - 1) :: l }) ∧
        (left ≤ 1 → WordDone s t e k (p.pc + 1) 1 [] ∧ now_ t = some { p with pc := p.pc + 1, loops := l })) ∧
    (∃ t, exec (.sets e k) s = .next t ∧ WordDone s t e k (p.pc + 2) 2 [] ∧ SameBuffers E (engineOf t e) ∧
      (∀ m, scAt (bankOf (engineOf t e) k) m = if m = iSreg w
        then widen (Fmt.decode .fp32 (memVal s (p.base + 8 * (p.pc + 1)) 4)) else scAt (bankOf E k) m) ∧
      (∀ m, arAt (bankOf (engineOf t e) k) m = arAt (bankOf E k) m)) ∧
    (∃ t, exec (.setar e k) s = .next t ∧ WordDone s t e k (p.pc + 1) 1 [] ∧ SameBuffers E (engineOf t e) ∧
      (∀ m, scAt (bankOf (engineOf t e) k) m = scAt (bankOf E k) m) ∧
      (∀ m, arAt (bankOf (engineOf t e) k) m = if m = iAr w then Config.setarValue w % 2 ^ 64 else arAt (bankOf E k) m)) ∧
    (∃ t, exec (.advar e k) s = .next t ∧ WordDone s t e k (p.pc + 1) 1 [] ∧ SameBuffers E (engineOf t e) ∧
      (∀ m, scAt (bankOf (engineOf t e) k) m = scAt (bankOf E k) m) ∧
      (∀ m, arAt (bankOf (engineOf t e) k) m = if m = iAr w
        then (arAt (bankOf E k) m + Config.advarAmount w (arAt (bankOf E k) m)) % 2 ^ 64 else arAt (bankOf E k) m))

/-- YIELD and END of a vector program (R130), and what its operation is left as (R128). -/
def Obligations.YieldAndEndFreeTheEngine : Prop :=
  ∀ (s : State) (e : EngineId) (p : Prog) (w : Nat),
    (AtWord s e .program p w → iOp w ≤ 15 →
      (∃ t, exec (.yield e .program) s = .next t ∧ (engineOf t e).run = none ∧
        (engineOf t e).queue = (engineOf s e).queue ++ [{ p with pc := p.pc + 1, saved := some (engineOf s e).bankP }] ∧
        (engineOf t e).bankE = (engineOf s e).bankE ∧ (engineOf t e).epi = (engineOf s e).epi ∧
        (∀ b r j, b < 3 → r < 2 ^ 22 → j < 2 ^ 22 → tbAt (engineOf t e) b r j = tbAt (engineOf s e) b r j) ∧
        (∀ m, m ≠ e.val → engineOf t m = engineOf s m) ∧ t.mem = s.mem) ∧
      (∀ tg o, p.tag = some tg → findOp s tg = some o → o.ended = false →
        ∃ t o', exec (.vecEnd e .program) s = .next t ∧ (engineOf t e).run = none ∧ findOp t tg = some o' ∧
          o'.ended = true ∧ o'.status = stOk ∧ SameTb (engineOf s e) (engineOf t e) ∧ (engineOf t e).queue = (engineOf s e).queue ∧
          SameBanks (engineOf s e) (engineOf t e) ∧ (∀ m, m ≠ e.val → engineOf t m = engineOf s m) ∧ t.mem = s.mem)) ∧
    (AtWord s e .epilogue p w → iOp w ≤ 15 →
      ∃ t, exec (.yield e .epilogue) s = .next t ∧ WordDone s t e .epilogue (p.pc + 1) 1 [] ∧
        SameBuffers (engineOf s e) (engineOf t e) ∧ SameBanks (engineOf s e) (engineOf t e))

/-- Memory instructions (R34, R115, R122); their address registers are log 40's. -/
def Obligations.MemoryInstructionsMoveTensorsAndRecords : Prop :=
  ∀ (s : State) (e : EngineId) (k : WorkClass) (p : Prog) (w : Nat), AtWord s e k p w → 0x90 ≤ iOp w → iOp w ≤ 0x9F →
    let c := ctxAt s e k p w
    let E := engineOf s e
    let T := vecTensor s c 0 (iAxis w)
    let T0 := vecTensor s c 0 0
    let T1 := vecTensor s c 2 1
    let a := fld (arReg s c (iAr w)) 43 0
    let pitch := 64 * fld (arReg s c (iAr w)) 63 44
    let len := if p.rows = 0 then 0 else (p.rows - 1) * pitch + ceilDiv p.cols 8
    let next_ := (iSlot w + 1) % 64
    let stores := fun (t : State) => (progOf (engineOf t e) k).map Prog.pc = some (p.pc + 1) ∧ SameBuffers E (engineOf t e) ∧
      SameBanks E (engineOf t e)
    (tensorInside s c T = true → tensorPoisoned s T = false →
      ∃ t, exec (.vecLoad e k) s = .next t ∧ WordDone s t e k (p.pc + 1) (costLoad c) [] ∧
        TbBecomes s t e k p (iDst w) (fun r j =>
          if active E c r j then widen (T.read s r j) else tbAt E (iDst w) r j) ∧
        (ownsTb k (iDst w) = true → SMap.find (engineOf t e).tags (iDst w) = some (tagOf w)) ∧
        SameSlots E (engineOf t e) ∧ SameMasks E (engineOf t e) ∧ SameBanks E (engineOf t e)) ∧
    (vecInside s c a (8 * p.rows) = true → (p.rows ≠ 0 → rangePoisoned s a (8 * p.rows) = false) →
      ∃ t, exec (.loadstat e k) s = .next t ∧ WordDone s t e k (p.pc + 1) (costStat c) [] ∧
        (ownsSlot k next_ = true → ∀ r, r < p.rows →
          slotAt (engineOf t e) next_ r = some (widen (Fmt.decode .fp32 (memVal s (a + 8 * r + 4) 4)))) ∧
        (ownsSlot k (iSlot w) = true → ∀ r, r < p.rows →
          slotAt (engineOf t e) (iSlot w) r = some (widen (Fmt.decode .fp32 (memVal s (a + 8 * r) 4)))) ∧
        (∀ sl r, ((sl ≠ iSlot w ∧ sl ≠ next_) ∨ ownsSlot k sl = false) → r < 2 ^ 22 → slotAt (engineOf t e) sl r = slotAt E sl r) ∧
        SameTb E (engineOf t e) ∧ SameMasks E (engineOf t e) ∧ SameBanks E (engineOf t e)) ∧
    (vecInside s c a len = true → (len ≠ 0 → rangePoisoned s a len = false) →
      ∃ t, exec (.loadmask e k) s = .next t ∧ WordDone s t e k (p.pc + 1) (costMask c) [] ∧
        MaskBecomes s t e k p (iDst w) (fun r j => (memByte s (a + r * pitch + j / 8)).toNat.testBit (j % 8)) ∧
        SameTb E (engineOf t e) ∧ SameSlots E (engineOf t e) ∧ SameBanks E (engineOf t e)) ∧
    (iDual w = false → tensorInside s c T = true →
      ∃ t, exec (.store e k) s = .next t ∧ t.mem = (storeConv s T (convert s c (iAxis w))).mem ∧
        SameMemoryBut [(T.addr, T.size), (T.scale, T.scaleSize)] s t ∧ stores t) ∧
    (iDual w = true → tensorInside s c T0 = true → tensorInside s c T1 = true →
      ∃ t, exec (.store e k) s = .next t ∧
        t.mem = (storeConv (storeConv s T0 (convert s c 0)) T1 (convert s c 1)).mem ∧
        SameMemoryBut [(T0.addr, T0.size), (T0.scale, T0.scaleSize), (T1.addr, T1.size), (T1.scale, T1.scaleSize)] s t ∧ stores t) ∧
    (vecInside s c a (8 * p.rows) = true →
      ∃ t, exec (.savestat e k) s = .next t ∧ SameMemoryBut [(a, 8 * p.rows)] s t ∧
        (∀ r, r < p.rows → retiredIn s a (8 * p.rows) = [] → memVal t (a + 8 * r) 8 =
          (match statRecord s c r with
            | some v => v % 2 ^ 64
            | none => memVal s (a + 8 * r) 8)) ∧ stores t)

/-- Conversions of a program, and the final write of an epilogue (R33, R34, R37, R42, R101), with log 40's places. A
microcode opcode stops a program of a context (R129); Gwevi's own leaves what its class holds open (log 40). -/
def Obligations.ConversionsWriteTheirTensors : Prop :=
  ∀ (s : State) (e : EngineId) (k : WorkClass) (p : Prog) (w : Nat),
    (AtWord s e k p w → 0x60 ≤ iOp w → iOp w ≤ 0x6F →
      let c := ctxAt s e k p w
      let T := vecTensor s c 0 (iAxis w)
      let T0 := vecTensor s c 0 0
      let T1 := vecTensor s c 2 1
      let done := fun (t : State) => (progOf (engineOf t e) k).map Prog.pc = some (p.pc + 1) ∧
        SameSlots (engineOf s e) (engineOf t e) ∧ SameMasks (engineOf s e) (engineOf t e)
      let back := fun (t : State) (v : Conv) => ∀ b r j, r < 2 ^ 22 → j < 2 ^ 22 → tbAt (engineOf t e) b r j =
        tbAt (if ownsTb k b = true then putTb (engineOf s e) (iDst w) v.back else engineOf s e) b r j
      let one := fun (i : Instr) => ∃ t, exec i s = .next t ∧ t.mem = (storeConv s T (convert s c (iAxis w))).mem ∧
        SameMemoryBut [(T.addr, T.size), (T.scale, T.scaleSize)] s t ∧ back t (convert s c (iAxis w)) ∧ done t
      let both := fun (i : Instr) => ∃ t, exec i s = .next t ∧
        t.mem = (storeConv (storeConv s T0 (convert s c 0)) T1 (convert s c 1)).mem ∧
        SameMemoryBut [(T0.addr, T0.size), (T0.scale, T0.scaleSize), (T1.addr, T1.size), (T1.scale, T1.scaleSize)] s t ∧
        back t (convert s c 0) ∧ done t
      (c.final = false →
        (iDual w = false → tensorInside s c T = true → one (.cvt e k) ∧ one (.quant e k)) ∧
        (tensorInside s c T0 = true → tensorInside s c T1 = true → both (.qdual e k) ∧
          (iDual w = true → both (.cvt e k) ∧ both (.quant e k)))) ∧
      (c.final = true → ∀ o, c.op = some o →
        ∀ i ∈ [Instr.cvt e k, Instr.quant e k, Instr.qdual e k], ∃ t, exec i s = .next t ∧ t.mem = (epiWrite s c o).mem ∧ done t)) ∧
    (AtWord s e .program p w → 0xF0 ≤ iOp w → iOp w ≤ 0xFF → ∀ tg o, p.tag = some tg → findOp s tg = some o → o.ended = false →
      ∃ t o', exec (.microcodeInstruction e .program) s = .next t ∧ (engineOf t e).run = none ∧ findOp t tg = some o' ∧
        o'.ended = true ∧ o'.status = stMode ∧ t.mem = s.mem) ∧
    ((k = .update ∨ k = .sieve) → mayRun s e k = true →
      ∃ t, exec (.microcodeInstruction e k) s = .next t ∧ t.mem = s.mem ∧ t.dict = s.dict ∧ t.ops = s.ops ∧
        (∀ b r j, b < 3 → r < 2 ^ 22 → j < 2 ^ 22 → tbAt (engineOf t e) b r j = tbAt (engineOf s e) b r j) ∧
        (∀ sl r, sl < 32 → r < 2 ^ 22 → slotAt (engineOf t e) sl r = slotAt (engineOf s e) sl r) ∧
        (∀ m r j, m < 2 → r < 2 ^ 22 → j < 2 ^ 22 → maskAt (engineOf t e) m r j = maskAt (engineOf s e) m r j) ∧
        SameBanks (engineOf s e) (engineOf t e) ∧ (∀ m, m ≠ e.val → engineOf t m = engineOf s m))

/-- COMPRESS and EXPAND (R123), TOPK (R124), MASKGEN (R140, R141). -/
def Obligations.CompressExpandTopkAndMaskgenFollowTheirRules : Prop :=
  ∀ (s : State) (e : EngineId) (k : WorkClass) (p : Prog) (w : Nat), AtWord s e k p w →
    let c := ctxAt s e k p w
    let E := engineOf s e
    (0x70 ≤ iOp w → iOp w ≤ 0x7F →
      ((iImm w).testBit 0 = false →
        ∃ t, exec (.compress e k) s = .next t ∧ WordDone s t e k (p.pc + 1) (2 * costRow c) [] ∧
          TbBecomes s t e k p (iDst w) (fun r j => ((activeCols E c r).map (src1 E c r)).getD j Acc.zero) ∧
          SlotBecomes s t e k (iSlot w) (inRows p) (fun r => some (accOfNat (activeCols E c r).length)) ∧
          SameMasks E (engineOf t e) ∧ SameBanks E (engineOf t e)) ∧
      ((iImm w).testBit 0 = true →
        ∃ t, exec (.compress e k) s = .next t ∧ WordDone s t e k (p.pc + 1) (2 * costRow c) [] ∧
          (ownsTb k (iDst w) = true → ∀ (i r j : Nat), (rowsOf p)[i]? = some r → j < p.cols → tbAt (engineOf t e) (iDst w) r j =
            (match (activeRows E c)[i]? with
              | some x => src1 E c x j
              | none => Acc.zero)) ∧
          (∀ b r j, b ≠ iDst w → r < 2 ^ 22 → j < 2 ^ 22 → tbAt (engineOf t e) b r j = tbAt E b r j) ∧
          SlotBecomes s t e k (iSlot w) (fun r => r == 0) (fun _ => some (accOfNat (activeRows E c).length)) ∧
          SameMasks E (engineOf t e) ∧ SameBanks E (engineOf t e)) ∧
      ((iImm w).testBit 0 = false → (iImm w).testBit 1 = false →
        ∃ t, exec (.expand e k) s = .next t ∧ WordDone s t e k (p.pc + 1) (2 * costRow c) [] ∧
          (ownsTb k (iDst w) = true → ∀ r i j, inRows p r = true → (activeCols E c r)[i]? = some j →
            tbAt (engineOf t e) (iDst w) r j = src1 E c r i) ∧
          (∀ r j, r < p.rows → j < p.cols → active E c r j = false → tbAt (engineOf t e) (iDst w) r j = tbAt E (iDst w) r j) ∧
          (∀ b r j, b ≠ iDst w → r < 2 ^ 22 → j < 2 ^ 22 → tbAt (engineOf t e) b r j = tbAt E b r j) ∧
          SameSlots E (engineOf t e) ∧ SameMasks E (engineOf t e) ∧ SameBanks E (engineOf t e)) ∧
      (1 ≤ iImm w → iImm w ≤ 16 → iSlot w + 2 * iImm w ≤ 64 →
        ∃ t, exec (.topk e k) s = .next t ∧ WordDone s t e k (p.pc + 1) ((iImm w + 1) * costRow c) [] ∧
          (∀ r i, inRows p r = true → i < iImm w →
            let top := topList (iImm w) ((activeCols E c r).map (fun j => (j, src1 E c r j)))
            (ownsSlot k (iSlot w + i) = true → slotAt (engineOf t e) (iSlot w + i) r = (top[i]?).map Prod.snd) ∧
            (ownsSlot k (iSlot w + iImm w + i) = true →
              slotAt (engineOf t e) (iSlot w + iImm w + i) r = (top[i]?).map (fun x => accOfNat x.1))) ∧
          (∀ sl r, r < 2 ^ 22 → (sl < iSlot w ∨ iSlot w + 2 * iImm w ≤ sl ∨ ownsSlot k sl = false) →
            slotAt (engineOf t e) sl r = slotAt E sl r) ∧
          SameTb E (engineOf t e) ∧ SameMasks E (engineOf t e) ∧ SameBanks E (engineOf t e))) ∧
    (0x80 ≤ iOp w → iOp w ≤ 0x8F →
      ∀ q16 r0 c0 n, accNat (scReg s c (iSreg w)) = some q16 → accNat (scReg s c 29) = some r0 →
        accNat (scReg s c 30) = some c0 → accNat (scReg s c 31) = some n → q16 ≤ 65536 →
        (∀ r j, r < p.rows → j < p.cols → (r0 + r) * n + (c0 + j) < 2 ^ 43) →
        ∃ t, exec (.maskgen e k) s = .next t ∧ WordDone s t e k (p.pc + 1) (costRow c) [] ∧
          MaskBecomes s t e k p (iDst w) (fun r j =>
            maskKept (ctxSeed s p.ctx) (arReg s c (iAr w)) (iImm w) q16 ((r0 + r) * n + (c0 + j))) ∧
          SameTb E (engineOf t e) ∧ SameSlots E (engineOf t e) ∧ SameBanks E (engineOf t e))

/-- VPROG and VPROG_NOP (R128, R129), taken by R315; a refused descriptor ends by R105. The start of an epilogue (R125, R126, R141) and the share window (R131). -/
def Obligations.VectorProgramsAndEpiloguesStartOnce : Prop :=
  (∀ (s : State) (q : QueueId) (tag : TagId) (c : Nat) (d : BitVec 1024), Taken s q tag c d → qKind (qCfg s q) = 1 →
    (dOpcode d.toNat = 1 → vecCheck (takeHead s q) q c d.toNat = stOk →
      ∃ t o p, exec (.vprog q tag) s = .next t ∧ HeadPassed s t q ∧ t.ops = s.ops ++ [o] ∧ o.tag = tag.val ∧ o.desc = d ∧
        o.ctx = c ∧ o.ended = false ∧ o.deadline = deadlineOf s (dBase d.toNat) (dWork d.toNat) (vSlope d.toNat) ∧
        (engineOf t (vEngine d.toNat)).queue = (engineOf s (vEngine d.toNat)).queue ++ [p] ∧
        p.base = vProg d.toNat ∧ p.len = vLen d.toNat ∧ p.pc = 0 ∧ p.tag = some tag.val ∧ p.ctx = c ∧
        (∀ m, m ≠ vEngine d.toNat → engineOf t m = engineOf s m) ∧ t.mem = s.mem) ∧
    (dOpcode d.toNat = 0 → vecCheck (takeHead s q) q c d.toNat = stOk →
      ∃ t o, exec (.vprogNop q tag) s = .next t ∧ HeadPassed s t q ∧ t.ops = s.ops ++ [o] ∧ o.tag = tag.val ∧ o.ended = true ∧
        o.status = stOk ∧ t.engines = s.engines ∧ t.mem = s.mem) ∧
    (dOpcode d.toNat ≠ 0 → isSyncOp (dOpcode d.toNat) = false → vecCheck (takeHead s q) q c d.toNat ≠ stOk →
      ∃ t o, exec (.vprog q tag) s = .next t ∧ HeadPassed s t q ∧ t.ops = s.ops ++ [o] ∧ o.tag = tag.val ∧ o.ended = true ∧
        o.status = vecCheck (takeHead s q) q c d.toNat ∧ t.engines = s.engines ∧ t.mem = s.mem)) ∧
  ((∀ (s : State) (a : ArrayId) (ii : PartId) (o : Op) (x : Nat), stepsRun s = true → engineRetired s a = false →
    engineHeld s a = false → (engineOf s a).epi = none → stagedRun s a ii = some (o, x) →
    let u := spillRun s a o x
    rangePoisoned u (eProg o.epi.toNat) (8 * eLen o.epi.toNat) = false →
    wordsStatus (mStream o.desc.toNat) (programWords u (eProg o.epi.toNat) (eLen o.epi.toNat)) = stOk →
    ∃ t p, exec (.epilogue a ii) s = .next t ∧ (engineOf t a).epi = some p ∧ p.pc = 0 ∧ p.base = eProg o.epi.toNat ∧
      p.len = eLen o.epi.toNat ∧ p.tag = some o.tag ∧ p.part = pkey a ii ∧
      (p.rows, p.cols) = (runShape o x).2 ∧ (p.row0, p.col0) = (runShape o x).1 ∧
      scAt (engineOf t a).bankE 29 = accOfNat p.row0 ∧ scAt (engineOf t a).bankE 30 = accOfNat p.col0 ∧
      scAt (engineOf t a).bankE 31 = accOfNat (mN o.desc.toNat) ∧
      (engineOf t a).bankP = (engineOf s a).bankP ∧ (engineOf t a).run = (engineOf s a).run ∧
      (∀ m, m ≠ a.val → engineOf t m = engineOf s m) ∧ (spillBytes o x = 0 → t.mem = s.mem ∧ t.dict = s.dict) ∧
      SameMemoryBut [(eSpill o.epi.toNat, spillBytes o x)] s t) ∧
  (∀ (s : State) (e : EngineId), 4096 ≤ (engineOf s e).winSteps →
    ∃ t, exec (.shareWindowEnd e) s = .next t ∧ (engineOf t e).winSteps = (engineOf s e).winSteps - 4096 ∧
      (engineOf t e).winSieve = 0 ∧ (engineOf t e).winUpdate = 0 ∧ (engineOf t e).missed = false ∧ SameBuffers (engineOf s e) (engineOf t e) ∧
      (∀ m, m ≠ e.val → engineOf t m = engineOf s m) ∧ t.mem = s.mem ∧
      reg t (0x2300 + e) 0x0B = (if (engineOf s e).missed || shareMissed s e then satAdd 32 (reg s (0x2300 + e) 0x0B) 1 else reg s (0x2300 + e) 0x0B)))

/-- Captures and their checks (R171 to R173, R175, R178). -/
def Obligations.SieveChecksCompareAndClassify : Prop :=
  ∀ (s : State),
    (∀ (a : ArrayId) (ii : PartId) (c : Capture), coreRuns s = true →
      s.caps.find? (fun c => c.array == a.val && c.part == ii.val && !c.complete && c.rows_left == 0) = some c →
      exec (.captureComplete a ii) s = .next (leaveOpen (updOp (updCap s c.tag c.tile (fun x => { x with complete := true })) c.tag
        (fun o => { o with capsOut := o.capsOut - 1, sampled := true })) (slotBase s c.ctx c.slot) c.size)) ∧
    (∀ (e : EngineId) (ups : List Upset) (c : Capture), sieveTurn s e = some c → c.exactDone = false → c.failed = none →
      let v := recompute c ups
      let sent := sentOf s c v ups
      (capAgrees c v sent = true →
        ∃ t, exec (.exactCheck e ups) s = .next t ∧ reg t 0x6125 (c.array + 1) = (reg s 0x6125 (c.array + 1) + 1) % 2 ^ 64 ∧
          t.mem = s.mem ∧ t.ops = s.ops ∧
          (c.fidelity = false → ∀ x ∈ t.caps, ¬ (x.ctx = c.ctx ∧ x.slot = c.slot)) ∧
          (c.fidelity = true → ∀ x ∈ t.caps, x.ctx = c.ctx → x.slot = c.slot → x.exactDone = true)) ∧
      (capAgrees c v sent = false →
        ∃ t, exec (.exactCheck e ups) s = .next t ∧ (∀ x ∈ t.caps, x.ctx = c.ctx → x.slot = c.slot →
            x.failed = some (v, sent) ∧ x.firstEngine = e.val) ∧
          reg t 0x6125 (c.array + 1) = reg s 0x6125 (c.array + 1) ∧ t.mem = s.mem ∧ t.ops = s.ops)) ∧
    (∀ (e : EngineId) (ups : List Upset) (c : Capture) (v1 : List (Nat × Nat × Acc)) (s1 : SMap Nat), sieveTurn s e = some c →
      c.failed = some (v1, s1) → c.array < 4 → c.firstEngine < 4 →
      let v2 := recompute c ups
      let s2 := sentOf s c v2 ups
      let k := culprit c v1 v2 s1 s2
      let l := mismatches c v1 v2 s1 s2
      let u := setReg (bump (mismatchBackOff (countSteps s e .sieve (exactSteps c)) c k) 0x6126 (c.array + 1)) 0x6128 1
        (lastMismatch c k (max 1 l.length) (cellOf c (l.headD (c.rows.headD 0, c.cols.headD 0))))
      exec (.sieveRecheck e ups) s = .next (afterExact (mismatchEvents u c k l v2) c) ∧
      reg u 0x6126 (c.array + 1) = (reg s 0x6126 (c.array + 1) + 1) % 2 ^ 64) ∧
    (∀ (e : EngineId) (c : Capture), sieveTurn s e = some c → c.exactDone = true → c.fidelity = true → c.failed = none →
      ∃ t, exec (.fidelityCheck e) s = .next t ∧ (∀ x ∈ t.caps, ¬ (x.ctx = c.ctx ∧ x.slot = c.slot)) ∧
        (c.ctx < 64 → reg t (0x6140 + c.ctx) (fidelityBin (fidelityError c) + 1) =
          satAdd 32 (reg s (0x6140 + c.ctx) (fidelityBin (fidelityError c) + 1)) 1) ∧ t.mem = s.mem ∧ t.ops = s.ops)

/-- R180 with the taps of R360. -/
def Obligations.SieveEnableClaimsTheTapsOfItsDies : Prop :=
  ∀ (s : State) (p : Path) (v : BitVec 32),
    (WriteOk s p 0x6120 1 4 v.toNat (preSieveEnable v.toNat s) →
      ∃ t, exec (.sieveEnable p v) s = .next t ∧ reg t 0x6120 1 = v.toNat ∧
        (∀ d, d < 2 → v.toNat.testBit d = true → reg t 0x2030 (0x29 + d) = 1) ∧
        (∀ d, d < 2 → v.toNat.testBit d = false → reg s 0x2030 (0x29 + d) = 1 → s.caps.any (fun c => c.array / 2 == d) = false →
          reg t 0x2030 (0x29 + d) = 0) ∧
        SameEntriesBut [dkey 0x6120 1, dkey 0x2030 0x29, dkey 0x2030 0x2A] s t ∧ t.caps = s.caps ∧ t.mem = s.mem) ∧
    (∀ d, d < 2 → v.toNat.testBit d = true → 1 < reg s 0x2030 (0x29 + d) → dictLive s = true →
      checkAccess s p 0x6120 1 true false 0 4 = 0 →
      exec (.sieveEnable p v) s = .next (emit s (.dictAnswer p dConflict [])))

/-- R189 to R191; a refused descriptor by R105. -/
def Obligations.CopiesMoveRowsAndFillsWriteZeros : Prop :=
  ∀ (s : State) (q : QueueId) (tag : TagId) (c : Nat) (d : BitVec 1024), Taken s q tag c d → qKind (qCfg s q) = 2 →
    stopped s = false →
    let D := d.toNat
    let ok := dmaCheck (takeHead s q) q c D = stOk
    let local_ := zDstRemote D = false ∧ (dOpcode D = 1 → zSrcRemote D = false)
    let clean := (dmaRows D).any (fun e => rangePoisoned s e.1 (zRowBytes D) || rangeLost s e.2 (zRowBytes D)) = false
    let ends := fun (t : State) (st : Nat) => HeadPassed s t q ∧ ∃ o, o ∈ t.ops ∧ o.tag = tag.val ∧ o.ended = true ∧ o.status = st
    (ok → dOpcode D = 1 → local_ → clean → dmaOverlap D = false →
      ∃ t, exec (.copy q tag) s = .next t ∧ ends t stOk ∧
        SameMemoryBut ((dmaRows D).map (fun e => (e.2, zRowBytes D))) s t ∧
        ((zRows D = 1 ∨ zRowBytes D ≤ zDstStride D) → ∀ i j, i < zRows D → j < zRowBytes D →
          memByte t (zDst D + i * zDstStride D + j) = memByte s (zSrc D + i * zSrcStride D + j)) ∧
        ∃ o ∈ t.ops, o.tag = tag.val ∧ o.waves = zRows D * (zRowBytes D / 64)) ∧
    (ok → dOpcode D = 2 → local_ → (dmaRows D).any (fun e => rangeLost s e.2 (zRowBytes D)) = false →
      ∃ t, exec (.fill q tag) s = .next t ∧ ends t stOk ∧
        SameMemoryBut ((dmaRows D).map (fun e => (e.2, zRowBytes D))) s t ∧
        ∀ i j, i < zRows D → j < zRowBytes D → memByte t (zDst D + i * zDstStride D + j) = 0) ∧
    (ok → dOpcode D = 0 → ∃ t, exec (.dmaNop q tag) s = .next t ∧ ends t stOk ∧ t.mem = s.mem ∧ t.rel = s.rel) ∧
    (¬ ok → dOpcode D ≠ 0 → dOpcode D ≠ 2 → isSyncOp (dOpcode D) = false → ∃ t, exec (.copy q tag) s = .next t ∧ ends t (dmaCheck (takeHead s q) q c D) ∧ t.mem = s.mem) ∧
    (¬ ok → dOpcode D = 2 → ∃ t, exec (.fill q tag) s = .next t ∧ ends t (dmaCheck (takeHead s q) q c D) ∧ t.mem = s.mem) ∧
    (ok → dOpcode D = 1 → zSrcRemote D = true →
      ∃ o, exec (.copy q tag) s = .next (dmaRemote (addOp (takeHead s q) o) o) ∧ o.tag = tag.val ∧ o.desc = d ∧ o.ended = false)

/-- R234 with the ECC rules of R184 and R223, retired lines (R394), the Gwevi region (R210), unassigned space (R6), lost
stacks (R211), the caches of R240, sync objects (R246) and remote lines (R275). What a full cache gives up is log 60's. -/
def Obligations.LinesAreReadAndWrittenUnderTheirNibbleMask : Prop :=
  ∀ (s : State) (ag : Agent) (addr : LocalAddr) (data : Line) (mask : BitVec 128), clockOn s = true →
    let a := addr.toNat
    (memHeld s a = false → inCtl a = false →
      (lineReaches ag a = true → (readsCached ag = false ∨ inHbm a = false ∨ SMap.find s.rtCache (rtKey a) = none) →
        ∃ t, exec (.lineRead ag (.own addr) .clean .clean) s = .next t ∧
          t.out = s.out ++ [.lineData ag (lineAddr a) (lineAt s a) (linePoisoned s a)] ∧ t.mem = s.mem ∧ t.dict = s.dict ∧
          (readsCached ag = true → inHbm a = true → linePoisoned s a = false →
            SMap.find t.rtCache (rtKey a) = some (lineAt s a)) ∧
          ((readsCached ag = false ∨ inHbm a = false) → t.rtCache = s.rtCache)) ∧
      (lineReaches ag a = true → readsCached ag = true → inHbm a = true → ∀ l, SMap.find s.rtCache (rtKey a) = some l → ∀ e0 e1,
        exec (.lineRead ag (.own addr) e0 e1) s = .next (emit s (.lineData ag (lineAddr a) l false))) ∧
      (lineReaches ag a = true → rangeLost s a 1 = true → ∀ e0 e1,
        exec (.lineWrite ag (.own addr) data mask e0 e1) s = .next (emit s (.hwFault ag a))) ∧
      (lineReaches ag a = true → rangeLost s a 1 = false →
        ∃ t, exec (.lineWrite ag (.own addr) data mask .clean .clean) s = .next t ∧ SameMemoryBut [(lineAddr a, 64)] s t ∧
          (isRetired s a = false → lineAt t a = mergeLine (lineAt s a) data mask ∧ t.dict = s.dict) ∧
          (isRetired s a = true → t.mem = s.mem ∧ reg t 0x8000 9 = (reg s 0x8000 9 + 1) % 2 ^ 64) ∧
          (readsCached ag = false → t.rtCache = s.rtCache) ∧
          (readsCached ag = true → inHbm a = true → ∀ l, SMap.find s.rtCache (rtKey a) = some l →
            SMap.find t.rtCache (rtKey a) = some (mergeLine l data mask)) ∧ t.ops = s.ops ∧ t.bar = s.bar) ∧
      (lineReaches ag a = false → ∀ e0 e1,
        exec (.lineRead ag (.own addr) e0 e1) s = .next (emit (logUnassigned s a none 0) (.addressError ag a)) ∧
        exec (.lineWrite ag (.own addr) data mask e0 e1) s = .next (emit (logUnassigned s a none 0) (.addressError ag a)) ∧
        (logUnassigned s a none 0).mem = s.mem)) ∧
    (memHeld s a = false → inCtl a = true → ∀ e0 e1,
      exec (.lineRead ag (.own addr) e0 e1) s = .next (emit s (if isCore ag = true ∧ inSyncWin a = true
        then .lineData ag (lineAddr a) (objWord s ((a - 0xF0000100000) / 64)) false else .addressError ag a)) ∧
      exec (.lineWrite ag (.own addr) data mask e0 e1) s =
        .next (emit (if inSyncWin a then logUnassigned s a none 0 else s) (.addressError ag a))) ∧
    (memHeld s a = true → ∀ e0 e1, exec (.lineRead ag (.own addr) e0 e1) s = .next s ∧
      exec (.lineWrite ag (.own addr) data mask e0 e1) s = .next s) ∧
    (∀ (dev : BitVec 16) (e0 e1 : EccResult),
      let x := dev.toNat * 2 ^ 44 + lineAddr a
      (readsCached ag = false → exec (.lineRead ag (.peer dev addr) e0 e1) s = .next (emit s (.addressError ag a)) ∧
        exec (.lineWrite ag (.peer dev addr) data mask e0 e1) s = .next (emit s (.addressError ag a))) ∧
      (readsCached ag = true →
        (∀ l, SMap.find s.rrCache x = some l → exec (.lineRead ag (.peer dev addr) e0 e1) s = .next (emit s (.lineData ag x l false))) ∧
        (SMap.find s.rrCache x = none →
          exec (.lineRead ag (.peer dev addr) e0 e1) s = .next (request s true 1 x 1 ones64 [] (.lineRead ag true))) ∧
        exec (.lineWrite ag (.peer dev addr) data (BitVec.allOnes 128) e0 e1) s =
          .next (request s false 0 x 1 ones64 [data] (.lineWrite ag))))

/-- R192, R195 to R200 and R202: the record and the commands of Table 10.7. -/
def Obligations.ContextRecordsAndCommandsMoveTheContext : Prop :=
  ∀ (s : State) (p : Path) (c : CtxId),
    let cmds := [(1, Instr.load p c false), (1, .load p c true), (2, .preempt p c), (3, .checkpoint p c), (4, .reset p c),
      (5, .delete p c), (6, .loadRemote p c)]
    let only := fun (t : State) (st code : Nat) => ctxState t c = st ∧ reg t (0x4100 + c) 3 = code ∧ t.mem = s.mem ∧
      SameEntriesBut [dkey (0x4100 + c) 2, dkey (0x4100 + c) 3, dkey 0x1010 5] s t
    (∀ v : BitVec 1024,
      (WriteOk s p (0x4100 + c) 1 128 v.toNat (preContextRecord c v.toNat s) →
        ∃ t, exec (.contextRecordWrite p c v) s = .next t ∧ ctxRec t c = v.toNat ∧ ctxState t c = 1 ∧ reg t (0x4100 + c) 5 = 0 ∧
          (∀ d, d < 64 → d ≠ c.val → ctxRec t d = ctxRec s d ∧ ctxState t d = ctxState s d) ∧ t.mem = s.mem ∧ t.sync = s.sync) ∧
      (dictLive s = true → checkAccess s p (0x4100 + c) 1 true false 0 128 = 0 → 2 ≤ ctxState s c →
        exec (.contextRecordWrite p c v) s = .next (emit s (.dictAnswer p dQuiesce [])))) ∧
    (∀ op fresh, WriteOk s p 0x4010 1 4 (cmdValue c op fresh) 0 →
      ((scrubbing s || startState s == 4 || startState s == 5) = true →
        ∀ i, (op, i) ∈ cmds → (op = 1 → i = .load p c fresh) → ∃ t, exec i s = .next t ∧ only t (ctxState s c) 1) ∧
      ((scrubbing s || startState s == 4 || startState s == 5) = false →
        (op = 4 → (ctxState s c = 0 → ∃ t, exec (.reset p c) s = .next t ∧ only t 0 1) ∧
          (ctxState s c ≠ 0 → ∃ t, exec (.reset p c) s = .next t ∧ ctxState t c = 1 ∧ reg t (0x4100 + c) 3 = 0 ∧
            ctxRun t c = none ∧ ∀ d, d < 64 → d ≠ c.val → ctxState t d = ctxState s d)) ∧
        (savesBehind s c op = true → ∀ i, (op, i) ∈ [(2, Instr.preempt p c), (3, .checkpoint p c)] →
          ∃ t, exec i s = .next t ∧ (ctxRun t c).bind CtxRun.next = some op ∧ ctxState t c = ctxState s c ∧ t.mem = s.mem ∧
            ∀ q, q < 64 → qState t q = if q ∈ queuesOf s c ∧ qState s q = 1 then 2 else qState s q) ∧
        (SMap.has s.ctxs c = true → savesBehind s c op = false → ∀ i, op ≠ 4 → (op, i) ∈ cmds → (op = 1 → i = .load p c fresh) →
          ∃ t, exec i s = .next t ∧ only t (ctxState s c) 1) ∧
        (SMap.has s.ctxs c = false →
          (∀ i, (op, i) ∈ cmds → (op = 1 → i = .load p c fresh) → op ≠ 4 →
            ((op = 1 ∨ op = 5 ∨ op = 6) → ctxState s c ≠ 1) → ((op = 2 ∨ op = 3) → ctxState s c ≠ 3) →
            ∃ t, exec i s = .next t ∧ only t (ctxState s c) 1) ∧
          (op = 5 → ctxState s c = 1 → ∃ t, exec (.delete p c) s = .next t ∧ only t 0 0) ∧
          (∀ i, (op, i) ∈ [(1, Instr.load p c fresh), (6, .loadRemote p c)] → ctxState s c = 1 →
            (loadCheck s c fresh (op == 6) ≠ 0 →
              ∃ t, exec i s = .next t ∧ only t 1 (loadCheck s c fresh (op == 6))) ∧
            (loadCheck s c fresh (op == 6) = 0 →
              ∃ t, exec i s = .next t ∧ ctxState t c = 2 ∧ (ctxRun t c).map CtxRun.cmd = some op ∧ t.mem = s.mem ∧
                ∀ q, q < 64 → qState t q = if q ∈ queuesOf s c then 2 else qState s q)) ∧
          (∀ i, (op, i) ∈ [(2, Instr.preempt p c), (3, .checkpoint p c)] → ctxState s c = 3 →
            ∃ t, exec i s = .next t ∧ ctxState t c = op + 2 ∧ (ctxRun t c).map CtxRun.cmd = some op ∧ t.mem = s.mem ∧
              ∀ q, q < 64 → qState t q = if q ∈ queuesOf s c ∧ qState s q = 1 then 2 else qState s q))))

/-- R194, R197, R198, R200, R201 and R429; that copies are frozen in a stop, and a save that waits for a remote copy, are R202. -/
def Obligations.ImagesAreCopiedToAndFromTheWindows : Prop :=
  ∀ (s : State) (c : CtxId) (u : CtxRun), clockOn s = true → ctxRun s c = some u → recordAddressBad (ctxRec s c) = false →
    let r := ctxRec s c
    let ended := fun (t : State) (st code : Nat) => ctxState t c = st ∧ reg t (0x4100 + c) 3 = code ∧ ctxRun t c = none
    let word := fun i => memVal s (syncArea r + 64 * i) 64
    let slotWord := fun i => buddyVal u (u.slot * imageSize r + winTotal r + 0x10000 + 64 * i) 64
    let slotBad := !((List.range (winTotal r / 0x200000)).all (slotCrcOk u r)) ||
      (List.range (syncCount r)).any (fun i => objWordBad (slotWord i))
    let badWindow := (winList r).any (fun w => rangePoisoned s w.1 w.2.1) || rangeLost s (cImage r) (imageSize r)
    (stopped s = true → ∀ g, exec (.loadComplete c) s = .next s ∧ exec (.imageSaved c g) s = .next s) ∧
    (stopped s = false → u.cmd = 1 →
      (rangePoisoned s (cImage r) (winTotal r) = true → ∃ t, exec (.loadComplete c) s = .next t ∧ ended t 1 7) ∧
      (rangePoisoned s (cImage r) (winTotal r) = false →
        (∃ t, exec (.loadComplete c) s = .next t ∧ ∀ w ∈ winList r, ∀ j, j < w.2.1 →
          memByte t (w.1 + j) = memByte s (cImage r + w.2.2 + j)) ∧
        (u.fresh = true → ∃ t, exec (.loadComplete c) s = .next t ∧ ended t 3 0) ∧
        (u.fresh = false → rangePoisoned s (ctlArea r) 0x50000 = true → ∃ t, exec (.loadComplete c) s = .next t ∧ ended t 1 7) ∧
        (u.fresh = false → rangePoisoned s (ctlArea r) 0x50000 = false →
          ((List.range (syncCount r)).any (fun i => objWordBad (word i)) = true →
            ∃ t, exec (.loadComplete c) s = .next t ∧ ended t 1 6) ∧
          ((List.range (syncCount r)).any (fun i => objWordBad (word i)) = false →
            ∃ t, exec (.loadComplete c) s = .next t ∧ ended t 3 0)))) ∧
    (stopped s = false → u.cmd = 6 → u.phase = 4 →
      (slotBad = false → ∃ t, exec (.loadComplete c) s = .next t ∧ ended t 3 0 ∧ ∀ w ∈ winList r, ∀ j, j < w.2.1 →
        isRetired s (w.1 + j) = false → memByte t (w.1 + j) = buddyByte u (u.slot * imageSize r + w.2.2 + j)) ∧
      (slotBad = true → ∃ t, exec (.loadComplete c) s = .next t ∧ ended t 1 6)) ∧
    (∀ g, stopped s = false → (u.cmd = 2 ∨ u.cmd = 3) → u.phase = 0 → onlyUpdatesLeft s c = true →
      (badWindow = true → ∃ t, exec (.imageSaved c g) s = .next t ∧ t.mem = s.mem ∧ reg t (0x4100 + c) 5 = 0 ∧
        ended t (if u.cmd = 2 then 1 else 3) 7) ∧
      (badWindow = false → ∃ t, exec (.imageSaved c g) s = .next t ∧ reg t (0x4100 + c) 5 = 1 ∧
        (∀ w ∈ winList r, ∀ j, j < w.2.1 → memByte t (cImage r + w.2.2 + j) = memByte s (w.1 + j)) ∧
        (∀ i, i < syncCount r → isRetired s (syncArea r + 64 * i) = false →
          memVal t (syncArea r + 64 * i) 64 = (objWord s (syncBase r + i)).toNat) ∧
        (u.cmd = 2 → ended t 1 0) ∧
        (u.cmd ≠ 2 → ctxState t c = ctxState s c ∧ ∃ v, ctxRun t c = some v ∧ v.phase = 2 ∧ v.slot = reg s (0x4100 + c) 4 % 2))) ∧
    (u.cmd = 3 → u.phase = 5 → ∃ t, exec (.checkpointCommitted c) s = .next t ∧ (u.next = none → ended t 3 0) ∧
      (∀ k, u.next = some k → ctxState t c = (if k = 2 then 4 else 5) ∧ (ctxRun t c).map CtxRun.cmd = some k) ∧
      reg t (0x4100 + c) 4 = (reg s (0x4100 + c) 4 + 1) % 2 ^ 64 ∧ t.mem = s.mem)

/-- R203 and R396; areas by R222. -/
def Obligations.ScrubsClearTheDeviceAndPatrolReadsMoveOn : Prop :=
  ∀ (s : State),
    (∀ (p : Path) (v : Byte), WriteOk s p 0x4002 1 1 v.toNat 0 →
      (v = 1 → scrubbing s = false → ∃ t, exec (.scrubStart p v) s = .next t ∧ reg t 0x4002 2 = 1 ∧ t.hbm.areas = [] ∧
        t.frames.staged = [] ∧ (∀ c, c < 64 → ctxState t c = 0 ∧ ctxRec t c = 0) ∧ (∀ c, c < 256 → commActive t c = false)) ∧
      ((v ≠ 1 ∨ scrubbing s = true) → exec (.scrubStart p v) s = .next (answered s p))) ∧
    (clockOn s = true → stopped s = false → scrubbing s = true →
      ∃ t, exec .scrubDone s = .next t ∧ (∀ a, memByte t a =
          if a < gweviBase ∨ (loamBase ≤ a ∧ a < loamEnd) then 0 else memByte s a) ∧
        t.sync = [] ∧ t.rtCache = [] ∧ t.rrCache = [] ∧ reg t 0x4002 2 = 2 ∧ t.ops = s.ops) ∧
    (clockOn s = true → startState s = 3 →
      (scrubPaused s false = false → exec (.patrolScrubRead false .clean .clean) s =
        .next { s with rel := { s.rel with loamScrubAt := (s.rel.loamScrubAt + 1) % (0x180000000 / 64) } }) ∧
      (scrubPaused s true = false → exec (.patrolScrubRead true .clean .clean) s =
        .next { s with rel := { s.rel with hbmScrubAt := (s.rel.hbmScrubAt + 1) % (hbmEnd / 64) } }) ∧
      ∀ h e0 e1, ∃ t, exec (.patrolScrubRead h e0 e1) s = .next t ∧ t.mem = s.mem ∧ t.ops = s.ops)

/-- R218 to R222; what only the control cores reach is R210. -/
def Obligations.AddsAndSlotWritesFoldIntoHbm : Prop :=
  ∀ (s : State), clockOn s = true →
    (∀ (ag : Agent) (addr : LocalAddr) (fmt : Fin 8) (data : Line) (mask : BitVec 64),
      let a := addr.toNat
      let both := [Instr.arrivalAdd ag addr fmt data mask, .slotWrite ag addr fmt data mask]
      let on := (List.range (addElems fmt)).filter (elemOn fmt mask)
      let res := fun i => addOne fmt (elemAt fmt (lineAt s a) i) (elemAt fmt data i)
      let cnt := fun k => countOf k (on.map (fun i => (res i).2))
      (5 ≤ fmt.val → ∀ i ∈ both, exec i s = .next s) ∧
      (memHeld s a = true → ∀ i ∈ both, exec i s = .next s) ∧
      (fmt.val < 5 → memHeld s a = false → addReaches ag a = true → rangeLost s a 1 = true →
        ∀ i ∈ both, exec i s = .next (emit s (.hwFault ag a))) ∧
      (fmt.val < 5 → memHeld s a = false → addReaches ag a = false →
        ∀ i ∈ both, exec i s = .next (emit (logUnassigned s a none 0) (.addressError ag a))) ∧
      (fmt.val < 5 → memHeld s a = false → addReaches ag a = true → rangeLost s a 1 = false →
        (isPoisoned s a = false → ∃ t, exec (.arrivalAdd ag addr fmt data mask) s = .next t ∧
          SameMemoryBut [(lineAddr a, 64)] s t ∧
          (∀ i, i < addElems fmt → elemAt fmt (lineAt t a) i =
            if elemOn fmt mask i then (res i).1 % 2 ^ addBits fmt else elemAt fmt (lineAt s a) i) ∧
          SameEntriesBut [dkey 0x5000 8, dkey 0x5000 9] s t ∧
          (cnt .ovf + cnt .nan ≠ 0 → reg t 0x5000 8 = (reg s 0x5000 8 + cnt .ovf) % 2 ^ 64 ∧
            reg t 0x5000 9 = (reg s 0x5000 9 + cnt .nan) % 2 ^ 64)) ∧
        (isPoisoned s a = true → ∃ t, exec (.arrivalAdd ag addr fmt data mask) s = .next t ∧ t.mem = s.mem ∧
          (on ≠ [] → reg t 0x5000 9 = (reg s 0x5000 9 + on.length) % 2 ^ 64) ∧
          (isRetired s a = true → reg t 0x8000 9 = (reg s 0x8000 9 + 1) % 2 ^ 64)) ∧
        (areaAt s a = none → exec (.slotWrite ag addr fmt data mask) s = .next (emit s (.addressError ag a))) ∧
        (∀ n, areaAt s a = some n →
          let r := (areaOf s n).reg.toNat
          let k := (a - aBase r) / aBytes r
          let j := (a - aBase r) % aBytes r / 64
          let m := SMap.get s.hbm.arrived (akey n j) 0
          let again := m.testBit k || SMap.get s.hbm.folded (akey n j) false
          let w := writeLine s a (mergeLine 0 data (nibbles mask.toNat)) (BitVec.allOnes 128)
          let t0 := { w with hbm := { w.hbm with arrived := SMap.set w.hbm.arrived (akey n j) (setBit m k true) 0 } }
          let full := setBit m k true = 2 ^ aSlots r - 1
          (aFmt r ≠ fmt.val → exec (.slotWrite ag addr fmt data mask) s = .next (emit s (.addressError ag a))) ∧
          (aFmt r = fmt.val → again = true →
            exec (.slotWrite ag addr fmt data mask) s = .next (raise (bump s 0x5000 7) (src 8 21))) ∧
          (aFmt r = fmt.val → again = false → ¬ full → exec (.slotWrite ag addr fmt data mask) s = .next t0 ∧
            SameMemoryBut [(lineAddr a, 64)] s t0 ∧
            (isRetired s a = false → lineAt t0 a = mergeLine 0 data (nibbles mask.toNat))) ∧
          (aFmt r = fmt.val → again = false → full → ∃ t, exec (.slotWrite ag addr fmt data mask) s = .next t ∧
            SMap.get t.hbm.folded (akey n j) false = true ∧
            SameMemoryBut [(lineAddr a, 64), (lineAddr (aTarget r + 64 * j), 64)] s t ∧
            ((List.range (aSlots r)).any (fun x => isPoisoned t0 (aBase r + x * aBytes r + 64 * j)) = true →
              isPoisoned t (aTarget r + 64 * j) = true) ∧
            ((List.range (aSlots r)).any (fun x => isPoisoned t0 (aBase r + x * aBytes r + 64 * j)) = false →
              isRetired s (aTarget r + 64 * j) = false → rangeLost s (aTarget r + 64 * j) 1 = false → ∀ i, i < addElems fmt →
              elemAt fmt (lineAt t (aTarget r + 64 * j)) i = (foldOne fmt (aGroups r) ((List.range (aSlots r)).map (fun x =>
                elemAt fmt (lineAt t0 (aBase r + x * aBytes r + 64 * j)) i))).1 % 2 ^ addBits fmt))))) ∧
    (∀ r : BitVec 512, (regRefused s r.toNat = true → exec (.areaRegistration r) s = .next s) ∧
      (regRefused s r.toNat = false → ∃ t, exec (.areaRegistration r) s = .next t ∧
        (areaOf t (aNumber r.toNat)).reg = r ∧ (∀ n, n ≠ aNumber r.toNat → areaOf t n = areaOf s n) ∧ t.mem = s.mem)) ∧
    (∀ n : Fin 16,
      (SMap.has s.hbm.areas n = true → foldedLines s n = 80 * aLength (areaOf s n).reg.toNat →
        (areaOf s n).doneReported = false →
        ∃ t, exec (.areaDone n) s = .next t ∧ (areaOf t n).doneReported = true ∧
          SMap.find t.hbm.areaReports n = some ((areaOf s n).ovfl, (areaOf s n).nan) ∧ t.mem = s.mem) ∧
      (∃ t, exec (.areaRelease n) s = .next t ∧ SMap.has t.hbm.areas n = false ∧ foldedLines t n = 0 ∧ t.mem = s.mem ∧
        ∀ m, m ≠ n.val → SMap.find t.hbm.areas m = SMap.find s.hbm.areas m))

/-- R207, R213 to R215 and R224 to R226; the code of a refused PPR_BURN is log 41's choice and is not stated here. -/
def Obligations.SlotTablesCalibrationAndRepairsMoveOn : Prop :=
  ∀ (s : State), clockOn s = true →
    (∀ (cg : GroupId) (l : List HbmRequest),
      let i := SMap.get s.hbm.slotIdx cg 0
      let r := classesReady s cg i l
      let turn := SMap.get s.hbm.turn cg 0
      s.hbm.selfRefresh = false → i < 64 → ∃ t, exec (.hbmSlotGrant cg l) s = .next t ∧ t = { s with hbm := t.hbm } ∧
        SMap.get t.hbm.slotIdx cg 0 = i + 1 ∧
        (SMap.get s.hbm.freeMode cg false = false → SMap.get t.hbm.lastGrant cg 0 =
          priorityGrant (fld (reg s (0x5100 + cg) 2) (2 * i + 1) (2 * i)) r ∧ SMap.get t.hbm.turn cg 0 = turn) ∧
        (SMap.get s.hbm.freeMode cg false = true →
          ((∀ k, k < 4 → turnReady r k = false) → SMap.get t.hbm.lastGrant cg 0 = 0 ∧ SMap.get t.hbm.turn cg 0 = turn) ∧
          ∀ j, j < 4 → turnReady r ((turn + j) % 4) = true → (∀ x, x < j → turnReady r ((turn + x) % 4) = false) →
            SMap.get t.hbm.lastGrant cg 0 = turnGrant r ((turn + j) % 4) ∧
            SMap.get t.hbm.turn cg 0 = ((turn + j) % 4 + 1) % 4)) ∧
    (∀ cg : GroupId,
      let v := SMap.get s.frames.staged (dkey 0x5000 1) 0
      let adopts := modeState s 0 = 2 ∧ v ≠ 0 ∧ s.hbm.wrapped.contains cg.val = false
      ∃ t, exec (.slotTableWrap cg) s = .next t ∧ SMap.get t.hbm.slotIdx cg 0 = 0 ∧ t.mem = s.mem ∧
        (reg s (0x5100 + cg) 3 = 1 → reg t (0x5100 + cg) 2 = reg s (0x5100 + cg) 1 ∧ reg t (0x5100 + cg) 3 = 0) ∧
        (reg s (0x5100 + cg) 3 ≠ 1 → reg t (0x5100 + cg) 2 = reg s (0x5100 + cg) 2) ∧
        (adopts → SMap.get t.hbm.freeMode cg false = (v == 2)) ∧
        (adopts → s.hbm.wrapped.length = 79 → modeState t 0 = 0 ∧ reg t 0x5000 1 = v - 1 ∧ t.hbm.wrapped = []) ∧
        (¬ adopts → t.hbm.freeMode = s.hbm.freeMode ∧ t.hbm.wrapped = s.hbm.wrapped)) ∧
    (∀ (p : Path) (v : BitVec 128),
      (∀ cg : GroupId, WriteOk s p (0x5100 + cg) 1 16 v.toNat 0 → ∃ t, exec (.slotShadow p cg v) s = .next t ∧
        reg t (0x5100 + cg) 1 = v.toNat ∧ reg t (0x5100 + cg) 3 = 1 ∧
        SameEntriesBut [dkey (0x5100 + cg) 1, dkey (0x5100 + cg) 3] s t ∧ t.mem = s.mem) ∧
      (WriteOk s p 0x5000 0x0B 16 v.toNat 0 → ∃ t, exec (.slotAll p v) s = .next t ∧ t.mem = s.mem ∧
        ∀ cg : GroupId, reg t (0x5100 + cg) 1 = v.toNat ∧ reg t (0x5100 + cg) 3 = 1 ∧
          reg t (0x5100 + cg) 2 = reg s (0x5100 + cg) 2)) ∧
    (∀ (k : StackId) (x : Nat) (w : BitVec 11) (user : LinkUser),
      let n := if SMap.get s.hbm.replayOf k 0 = x + 1 then SMap.get s.hbm.replayCount k 0 + 1 else 1
      (∀ (tag : TagId) (o : Op), n = 16 → user = .operation tag → findOp s tag = some o → o.ended = false → o.kind = .dma →
        o.status = stOk → ∃ t o', exec (.stackLinkReplay k { number := x, user := user } w) s = .next t ∧ findOp t tag = some o' ∧ o'.ended = true ∧
          o'.status = stHwFault) ∧
      ∃ t, exec (.stackLinkReplay k { number := x, user := user } w) s = .next (if n = 16 then faultUser t user else t) ∧
        reg t 0x5000 6 = (reg s 0x5000 6 + 1) % 2 ^ 64 ∧ t.mem = s.mem ∧
        SMap.get t.hbm.replayCount k 0 = (if n = 16 then 0 else n) ∧
        reg t 0x8100 2 = (if n = 16 then reg s 0x8100 2 + 1 else reg s 0x8100 2)) ∧
    (∀ (k : StackId) (pc bank : Fin 64), s.hbm.selfRefresh = false → ∃ t, exec (.refresh k pc bank) s = .next t ∧
      SMap.get t.hbm.lastRefresh ((k * 64 + pc) * 64 + bank) 0 = now s + 1 ∧ t = { s with hbm := t.hbm }) ∧
    (∀ (k : StackId) (pc : Fin 64) (ch : Fin 32), stackLive s k = true →
      let phase := SMap.get s.hbm.lastPhase (k * 64 + pc) 0
      let train := SMap.get s.hbm.lastRetrain (k * 32 + ch) 0
      ((phase = 0 ∨ phase - 1 + 10000 ≤ now s) → ∃ t, exec (.readPhaseUpdate k pc) s = .next t ∧
        SMap.get t.hbm.lastPhase (k * 64 + pc) 0 = now s + 1 ∧ t = { s with hbm := t.hbm }) ∧
      (phase ≠ 0 → now s < phase - 1 + 10000 → exec (.readPhaseUpdate k pc) s = .next s) ∧
      ((train = 0 ∨ train - 1 + 1000000 ≤ now s) → ∃ t, exec (.writePathRetrain k ch) s = .next t ∧
        SMap.get t.hbm.lastRetrain (k * 32 + ch) 0 = now s + 1 ∧ t = { s with hbm := t.hbm }) ∧
      (train ≠ 0 → now s < train - 1 + 1000000 → exec (.writePathRetrain k ch) s = .next s)) ∧
    (∀ p : Path, WriteOk s p 0x5000 0x0A 1 1 (prePprBurn 1 s) → ∃ t, exec (.pprBurn p 1) s = .next t ∧
      t.hbm.burning = s.hbm.sppr ∧ t.fuses = s.fuses ∧ t.mem = s.mem ∧ t.dict = s.dict) ∧
    (∃ t, exec .pprBurnComplete s = .next t ∧ t.hbm.burning = [] ∧ (∀ r, r ∈ t.hbm.sppr ↔ r ∈ s.hbm.sppr ∧ r ∉ s.hbm.burning) ∧
      t.fuses.hardRows = s.fuses.hardRows ++ s.hbm.burning.map rowNumber ∧
      (∀ k, SMap.get t.fuses.hpprUsed k 0 = SMap.get s.fuses.hpprUsed k 0 +
        (s.hbm.burning.filter (fun r => bankGroupKey r == k)).length) ∧ t.mem = s.mem)

/-- R228 to R230; what margin and generator writes leave in their lines is open (log 3). -/
def Obligations.MarginAndTrafficRunsOwnTheChecker : Prop :=
  ∀ (s : State) (p : Path),
    (∀ (cg : GroupId) (w : Nat) (i : Instr), (w, i) ∈ [(1, Instr.marginReadTiming p cg), (2, .marginReadVoltage p cg),
        (4, .marginWriteTiming p cg), (8, .marginWriteVoltage p cg)] →
      (WriteOk s p (0x5300 + cg) 1 4 w (preMargin cg w s) → ∃ t, exec i s = .next t ∧ reg t (0x5300 + cg) 2 = 1 ∧
        SMap.get t.hbm.marginWhat cg 0 = SMap.get s.hbm.marginWhat cg 0 ||| w ∧
        (cg.val % 4 = 0 → checkerOwner t (cg / 4) = 3) ∧
        SameEntriesBut [dkey (0x5300 + cg) 2, dkey 0x2030 (0x2B + cg / 4)] s t ∧ t.mem = s.mem) ∧
      (dictLive s = true → checkAccess s p (0x5300 + cg) 1 true false 0 4 = 0 → cg.val % 4 = 0 → checkerOwner s (cg / 4) = 4 →
        exec i s = .next (emit s (.dictAnswer p dConflict [])))) ∧
    (∀ (cg : GroupId) (l m : List (BitVec 32)), clockOn s = true → reg s (0x5300 + cg) 2 = 1 →
      ∃ t, exec (.marginRunDone cg { read := l, write := m }) s = .next t ∧ reg t (0x5300 + cg) 2 = 2 ∧
        (∀ i, i < 16 → reg t (0x5300 + cg) (3 + i) = marginResult (SMap.get s.hbm.marginWhat cg 0)
          (reg s (0x5300 + cg) (3 + i)) (l.getD i 0).toNat (m.getD i 0).toNat) ∧ SMap.get t.hbm.marginWhat cg 0 = 0 ∧
        (cg.val % 4 = 0 → checkerOwner t (cg / 4) = 0) ∧
        (SMap.get s.hbm.marginWhat cg 0 < 4 → t.mem = s.mem) ∧
        SameMemoryBut [(gweviBase, hbmEnd - gweviBase)] s t ∧ t.ops = s.ops) ∧
    (∀ k : StackId,
      (WriteOk s p (0x5200 + k) 1 1 1 (preTgen k 1 s) →
        (reg s (0x5200 + k) 1 ≠ 1 → ∃ t, exec (.tgenEnable p k 1) s = .next t ∧ reg t (0x5200 + k) 1 = 1 ∧
          checkerOwner t k = 4 ∧ t.mem = s.mem ∧
          tgenRunOf t k = (tgenFirst s k, tgenLines s k, reg s (0x5200 + k) 5) ∧ SameEntriesBut [dkey (0x5200 + k) 1, dkey 0x2030 (0x2B + k)] s t) ∧
        (reg s (0x5200 + k) 1 = 1 → exec (.tgenEnable p k 1) s = .next (answered s p))) ∧
      (dictLive s = true → checkAccess s p (0x5200 + k) 1 true false 0 1 = 0 →
        (tgenOutside s k || checkerOwner s k == 3) = true →
        exec (.tgenEnable p k 1) s = .next (emit s (.dictAnswer p dConflict []))) ∧
      (WriteOk s p (0x5200 + k) 1 1 0 0 →
        (reg s (0x5200 + k) 1 = 1 → ∃ t, exec (.tgenEnable p k 0) s = .next t ∧ reg t (0x5200 + k) 1 = 0 ∧
          checkerOwner t k = 0 ∧ t.ops = s.ops) ∧
        (reg s (0x5200 + k) 1 ≠ 1 → exec (.tgenEnable p k 0) s = .next (answered s p))) ∧
      (∀ (e : BitVec 64) (first n mix : Nat), clockOn s = true → reg s (0x5200 + k) 1 = 1 → tgenRunOf s k = (first, n, mix) → n ≠ 0 →
        ∃ t, exec (.tgenRunEnd k e) s = .next t ∧ reg t (0x5200 + k) 1 = 0 ∧ checkerOwner t k = 0 ∧
          reg t (0x5200 + k) 8 = (reg s (0x5200 + k) 8 + if mix = 0 then 0 else n) % 2 ^ 64 ∧
          reg t (0x5200 + k) 7 = (reg s (0x5200 + k) 7 + if mix = 0 then 0 else e.toNat) % 2 ^ 64 ∧ t.ops = s.ops ∧
          (mix = 16 → t.mem = s.mem) ∧
          SameMemoryBut ((List.range n).map (fun i => (groupLine (4 * k) (first + i), 64))) s t))

/-- R249, R250 and Table 12.4, for operations R430 accepts; R253 and R430 for the others. -/
def Obligations.SyncOperationsChangeTheirObject : Prop :=
  ∀ (s : State) (q : QueueId) (tag : TagId) (c : Nat) (d : BitVec 1024),
    let n := yObj d.toNat
    let o := objOf s n
    let arg := yArg d.toNat
    let done := fun (t : State) => HeadPassed s t q ∧ t.mem = s.mem ∧ (∀ m, m ≠ n → objOf t m = objOf s m) ∧
      ∃ x ∈ t.ops, x.tag = tag.val ∧ x.ended = true ∧ x.status = stOk ∧ x.epochSeen = (objOf t n).epoch
    (SyncTaken s q tag c d 0x10 stOk → ∃ t, exec (.signal q tag) s = .next t ∧ done t ∧
      objOf t n = (if o.type = 1 then advance o arg else if o.set then o else { advance o 1 with set := true }) ∧
      t.waits = mapIf (fun w => w.owner == yOwner d.toNat && w.obj == n && !w.acquire && w.satisfied.isNone &&
        waitOk (objOf t n) w.target) (fun w => { w with satisfied := some (now s) }) s.waits) ∧
    (SyncTaken s q tag c d 0x13 stOk → ∃ t, exec (.releaseLock q tag) s = .next t ∧ done t ∧
      objOf t n = { o with held := false, holder := 0 } ∧ t.waits.length = s.waits.length ∧
      ∀ w, firstAcquire s (yOwner d.toNat) n = some w → { w with satisfied := some (now s) } ∈ t.waits) ∧
    (SyncTaken s q tag c d 0x14 stOk → o.localArrived + 1 ≠ o.localCount → ∃ t, exec (.arrive q tag) s = .next t ∧ done t ∧
      objOf t n = { o with localArrived := (o.localArrived + 1) % 64 } ∧ t.waits = s.waits ∧ t.fab = s.fab) ∧
    (SyncTaken s q tag c d 0x14 stOk → o.localArrived + 1 = o.localCount → ∃ x, x.tag = tag.val ∧ x.desc = d ∧
      exec (.arrive q tag) s = .next (endSync (sendArrival
        (setObj (addOp (takeHead s q) x) n { o with localArrived := (o.localArrived + 1) % 64 }) n) tag stOk)) ∧
    (SyncTaken s q tag c d 0x15 stOk → ∃ t, exec (.clear q tag) s = .next t ∧ done t ∧
      objOf t n = { o with set := false } ∧ t.waits = s.waits) ∧
    (SyncTaken s q tag c d 0x16 stOk → ∃ t, exec (.init q tag) s = .next t ∧ done t ∧ t.waits = s.waits ∧
      (objOf t n).type = yType d.toNat ∧ (objOf t n).epoch = arg ∧ (objOf t n).poisoned = false ∧ (objOf t n).set = false ∧
      (objOf t n).held = false ∧ (objOf t n).localArrived = 0 ∧
      (yType d.toNat = 4 → (objOf t n).comm = yComm d.toNat ∧ (objOf t n).localCount = yLocal d.toNat)) ∧
    (∀ op i st, (op, i) ∈ [(0x10, Instr.signal q tag), (0x11, .wait q tag), (0x12, .acquire q tag), (0x13, .releaseLock q tag),
        (0x14, .arrive q tag), (0x15, .clear q tag), (0x16, .init q tag)] → st ≠ stOk → SyncTaken s q tag c d op st →
      ∃ t, exec i s = .next t ∧ HeadPassed s t q ∧ t.mem = s.mem ∧ t.sync = s.sync ∧ t.waits = s.waits ∧
        ∃ x ∈ t.ops, x.tag = tag.val ∧ x.ended = true ∧ x.status = st) ∧
    (∀ op i, (op, i) ∈ [(0x10, Instr.signal q tag), (0x13, .releaseLock q tag), (0x14, .arrive q tag), (0x15, .clear q tag),
        (0x16, .init q tag)] → Taken s q tag c d → dOpcode d.toNat = op →
      inFlight s q ≠ [] → ∃ t, exec i s = .next t ∧ HeadPassed s t q ∧ t.mem = s.mem ∧ t.sync = s.sync ∧ t.waits = s.waits ∧
        ∃ x ∈ t.ops, x.tag = tag.val ∧ x.ended = false) ∧
    (∀ op i, (op, i) ∈ [(0x10, Instr.signal q tag), (0x11, .wait q tag), (0x12, .acquire q tag), (0x13, .releaseLock q tag),
        (0x14, .arrive q tag), (0x15, .clear q tag), (0x16, .init q tag)] → Taken s q tag c d → dOpcode d.toNat = op →
      syncFieldsBad s q d.toNat = true → (op = 0x11 ∨ op = 0x12 ∨ inFlight s q = []) →
      ∃ t, exec i s = .next t ∧ HeadPassed s t q ∧ t.mem = s.mem ∧ t.sync = s.sync ∧ t.waits = s.waits ∧
        ∃ x ∈ t.ops, x.tag = tag.val ∧ x.ended = true ∧ x.status = stDescriptor)

/-- R241 and R249 to R252. -/
def Obligations.WaitsAndLocksAreGrantedOrQueued : Prop :=
  ∀ (s : State),
    (∀ (q : QueueId) (tag : TagId) (c : Nat) (d : BitVec 1024),
      let n := yObj d.toNat
      let o := objOf s n
      let dl := now s + (if yTimeout d.toNat = 0 then reg s 0x2500 1 else yTimeout d.toNat)
      let pends := fun (t : State) (acq : Bool) => HeadPassed s t q ∧ t.mem = s.mem ∧ t.sync = s.sync ∧
        (∃ w, t.waits = s.waits ++ [w] ∧ w.tag = tag.val ∧ w.owner = yOwner d.toNat ∧ w.obj = n ∧ w.target = yArg d.toNat ∧
          w.acquire = acq ∧ w.deadline = dl ∧ w.satisfied = none ∧ w.scope = yScope d.toNat ∧ w.engine = none) ∧
        ∃ x ∈ t.ops, x.tag = tag.val ∧ x.ended = false
      let ends := fun (t : State) => HeadPassed s t q ∧ t.mem = s.mem ∧ (∀ x, x ∈ t.waits ↔ x ∈ s.waits) ∧
        t.rrCache = (if yScope d.toNat = 3 then [] else s.rrCache) ∧
        ∃ x ∈ t.ops, x.tag = tag.val ∧ x.ended = true ∧ x.status = stOk
      (SyncTaken s q tag c d 0x11 stOk → waitOk o (yArg d.toNat) = true →
        ∃ t, exec (.wait q tag) s = .next t ∧ ends t ∧ t.sync = s.sync) ∧
      (SyncTaken s q tag c d 0x11 stOk → waitOk o (yArg d.toNat) = false → ∃ t, exec (.wait q tag) s = .next t ∧ pends t false) ∧
      (SyncTaken s q tag c d 0x12 stOk → o.held = false → firstAcquire s (yOwner d.toNat) n = none →
        ∃ t, exec (.acquire q tag) s = .next t ∧ ends t ∧
          objOf t n = { advance o 1 with held := true, holder := (queueAgent s q).getD 127 } ∧
          ∀ m, m ≠ n → objOf t m = objOf s m) ∧
      (SyncTaken s q tag c d 0x12 stOk → (o.held = true ∨ firstAcquire s (yOwner d.toNat) n ≠ none) →
        ∃ t, exec (.acquire q tag) s = .next t ∧ pends t true)) ∧
    (∀ (tag : TagId) (w : WaitReq), clockOn s = true → waitOf s tag = some w → w.acquire = false → w.satisfied.isSome = true →
      let group := fun (x : WaitReq) => !x.acquire && x.owner == w.owner && x.obj == w.obj && x.satisfied.isSome
      ∃ t, exec (.waitSatisfied tag) s = .next t ∧ t.waits = s.waits.filter (fun x => !group x) ∧ t.sync = s.sync ∧
        t.mem = s.mem ∧ ∀ x ∈ s.waits, group x = true → x.engine = none → ∀ o, findOp s x.tag = some o → o.ended = false →
          ∃ o', findOp t x.tag = some o' ∧ o'.ended = true ∧ o'.status = stOk ∧
            ((∃ a, x.satisfied = some a ∧ x.deadline ≤ a) → o'.late = true)) ∧
    (∀ (obj : Fin 4096) (w : WaitReq), clockOn s = true →
      s.waits.find? (fun x => x.acquire && x.obj == obj.val && syncLive s x.owner) = some w → (objOf s obj).type = 3 →
      (objOf s obj).held = false → (s.waits.map (fun x => (x.tag, x.engine))).Nodup →
      ∃ t, exec (.lockGrant obj) s = .next t ∧ t.waits = s.waits.erase w ∧ t.mem = s.mem ∧
        objOf t obj = { advance (objOf s obj) 1 with held := true, holder := w.agent } ∧
        (∀ m, m ≠ obj.val → objOf t m = objOf s m) ∧
        (w.engine = none → ∀ o, findOp s w.tag = some o → o.ended = false →
          ∃ o', findOp t w.tag = some o' ∧ o'.ended = true ∧ o'.status = stOk)) ∧
    (∀ (tag : TagId) (w : WaitReq), clockOn s = true → stopped s = false → waitOf s tag = some w → w.satisfied = none →
      w.deadline ≤ now s → w.engine = none →
      ∃ t, exec (.syncTimeout tag) s = .next t ∧ t.waits = s.waits.erase w ∧ t.sync = s.sync ∧ t.mem = s.mem ∧
        reg t 0x2500 2 = (reg s 0x2500 2 + 1) % 2 ^ 64 ∧
        ∀ o, findOp s w.tag = some o → o.ended = false → ∃ o', findOp t w.tag = some o' ∧ o'.ended = true ∧ o'.status = stTimeout)

/-- R116, R249 and R251 for vector programs. -/
def Obligations.VectorProgramsWaitAndSignal : Prop :=
  ∀ (s : State) (e : EngineId) (k : WorkClass) (p : Prog) (w : Nat), AtWord s e k p w → iOp w ≤ 15 →
    let c := ctxAt s e k p w
    let n := vecObj c
    (∀ target, accNat (scReg s c (iSreg w)) = some target → target < 2 ^ 32 →
      syncStatus s 0x11 p.ctx n (vecAgent c) = stOk →
      (syncLive s p.ctx = true → waitOk (objOf s n) target = true →
        ∃ t, exec (.vecWait e k) s = .next t ∧ WordDone s t e k (p.pc + 1) 1 [dkey 0x2500 6] ∧ t.waits = s.waits ∧ t.sync = s.sync) ∧
      ((syncLive s p.ctx = false ∨ waitOk (objOf s n) target = false) →
        ∃ t, exec (.vecWait e k) s = .next t ∧ WordDone s t e k p.pc 1 [] ∧ t.sync = s.sync ∧
          (progOf (engineOf t e) k).map Prog.waiting = some true ∧
          ∃ x, t.waits = s.waits ++ [x] ∧ x.engine = some e.val ∧ x.owner = p.ctx ∧ x.obj = n ∧ x.target = target ∧
            x.deadline = now s + reg s 0x2500 1 ∧ x.satisfied = none ∧ x.acquire = false)) ∧
    (syncStatus s 0x10 p.ctx n (vecAgent c) = stOk →
      ∃ t, exec (.vecSignal e k) s = .next t ∧ WordDone s t e k (p.pc + 1) 1 [] ∧
        objOf t n = (if (objOf s n).type = 1 then advance (objOf s n) 1 else if (objOf s n).set then objOf s n
          else { advance (objOf s n) 1 with set := true }) ∧
        (∀ m, m ≠ n → objOf t m = objOf s m) ∧
        t.waits = mapIf (fun x => x.owner == p.ctx && x.obj == n && !x.acquire && x.satisfied.isNone &&
          waitOk (objOf t n) x.target) (fun x => { x with satisfied := some (now s) }) s.waits)

/-- R243 and R244; an LR and SC pair by the reservation of its line. -/
def Obligations.AtomicsReadModifyWriteOneWord : Prop :=
  ∀ (s : State) (n : Fin 4) (wide : Bool) (addr : FabricAddr) (x y : BitVec 64) (aq rl : Bool) (a : Nat), coresRun s = true →
    stopped s = false → ownAddr s addr = some a → memHeld s a = false →
    let len := if wide then 8 else 4
    let old := memVal s a len
    let lr := Instr.compareAndSwap n wide addr .loadReserved y aq rl
    let sc := Instr.compareAndSwap n wide addr .storeConditional y aq rl
    let all := [Instr.compareAndSwap n wide addr (.whole x) y aq rl, .swap n wide addr x aq rl, .fetchAdd n wide addr x aq rl]
    let quiet := fun (t : State) => SameEntriesBut [dkey 0x2500 6] s t ∧ t.ops = s.ops ∧ t.bar = s.bar ∧ (aq = true → t.rtCache = [])
    (unassigned a = true → ∀ i ∈ lr :: all, exec i s = .next (emit (logUnassigned s a none 0) (.accessFault n))) ∧
    (unassigned a = false → (inCtl a || a % len != 0 || isPoisoned s a) = true →
      ∀ i ∈ lr :: all, exec i s = .next (emit s (.accessFault n))) ∧
    (unassigned a = false → (inCtl a || a % len != 0 || isPoisoned s a) = false →
      (∀ i ∈ all, ∃ t, exec i s = .next t ∧ t.out = s.out ++ [.atomicOld n (BitVec.ofNat 64 old)] ∧
        SameMemoryBut [(a, len)] s t ∧ quiet t) ∧
      (∃ t, exec (.compareAndSwap n wide addr (.whole x) y aq rl) s = .next t ∧
        memVal t a len = if old = x.toNat % 2 ^ (8 * len) then y.toNat % 2 ^ (8 * len) else old) ∧
      (∃ t, exec (.swap n wide addr x aq rl) s = .next t ∧ memVal t a len = x.toNat % 2 ^ (8 * len)) ∧
      (∃ t, exec (.fetchAdd n wide addr x aq rl) s = .next t ∧ memVal t a len = (old + x.toNat) % 2 ^ (8 * len)) ∧
      (∃ t, exec lr s = .next t ∧ t.out = s.out ++ [.atomicOld n (BitVec.ofNat 64 old)] ∧ t.mem = s.mem ∧ quiet t ∧
        SMap.get t.reservations n 0 = lineAddr a + 1) ∧
      ∃ t, exec sc s = .next t ∧ SMap.get t.reservations n 0 = 0 ∧ SameMemoryBut [(a, len)] s t ∧ quiet t ∧
        (SMap.get s.reservations n 0 = lineAddr a + 1 → memVal t a len = y.toNat % 2 ^ (8 * len) ∧ t.out = s.out ++ [.scDone n true]) ∧
        (SMap.get s.reservations n 0 ≠ lineAddr a + 1 → t.mem = s.mem ∧ t.out = s.out ++ [.scDone n false]))

/-- R264, R265 and R273 to R275 for inbound requests; adds by R218 and R221, lost stacks by R211 (log 63), loopback by R272. -/
def Obligations.PermittedRequestsActAndAreAnswered : Prop :=
  ∀ (s0 : State) (v : Via) (m : Msg), Arrives s0 v m →
    let s := unloop s0 v m
    let rows := [(1, Instr.read v m), (2, .write v m), (3, .redAdd v m), (4, .redSlot v m), (5, .fabricSignal v m)]
    let pairs := (reqLines m).zip m.body
    let acked := fun (i : Instr) (u : State) => exec i s0 = .next (sendOrDrop u (responseTo u m 0x82 0 []))
    let obj := (m.offset - 0xF0000100000) / 64
    let o := objOf s obj
    (refusal s m = 0 → reqLost s m = false →
      (m.opcode = 1 → exec (.read v m) s0 =
        .next (sendOrDrop s (responseTo s m 0x81 m.linesM1 (linesAt s m.offset (m.linesM1 + 1))))) ∧
      (m.opcode = 2 → ∃ u, acked (.write v m) u ∧ SameMemoryBut [(m.offset, 64 * (m.linesM1 + 1))] s u ∧
        (∀ i, i ≤ m.linesM1 → isRetired s (m.offset + 64 * i) = false → rangeLost s (m.offset + 64 * i) 64 = false →
          lineAt u (m.offset + 64 * i) = mergeLine (lineAt s (m.offset + 64 * i)) (m.body.getD i 0) (nibbles m.mask)) ∧
        SameEntriesBut [dkey 0x8000 9] s u ∧ u.ops = s.ops ∧ u.bar = s.bar) ∧
      (m.opcode = 3 → ∃ u, acked (.redAdd v m) u ∧ SameMemoryBut [(m.offset, 64 * (m.linesM1 + 1))] s u ∧
        u = pairs.foldl (fun t e => if rangeLost t e.1 64 then t else arrivalLine t e.1 m.fmt e.2 (BitVec.ofNat 64 m.mask)) s) ∧
      (m.opcode = 4 → ∃ u, acked (.redSlot v m) u ∧ u.ops = s.ops ∧ (∀ e ∈ pairs, (areaAt s e.1).isSome = true) ∧
        u = pairs.foldl (fun t e => if rangeLost t e.1 64 then t
          else slotLine t ((areaAt t e.1).getD 16) e.1 e.2 (BitVec.ofNat 64 m.mask)) s) ∧
      (m.opcode = 5 → ∃ u, acked (.fabricSignal v m) u ∧ u.mem = s.mem ∧ u.dict = s.dict ∧
        objOf u obj = (if o.type = 1 then advance o (m.q 2 47 32) else if o.set then o else { advance o 1 with set := true }) ∧
        ∀ n, n ≠ obj → objOf u n = objOf s n)) ∧
    (∀ op i, (op, i) ∈ rows → m.opcode = op → refusal s m = 0 → reqLost s m = true →
      exec i s0 = .next (emit (performReq s m) (.hwFault (.inbound (BitVec.ofNat 16 m.source)) m.offset))) ∧
    (∀ op i, (op, i) ∈ rows → m.opcode = op → refusal s m ≠ 0 → ∃ u,
      exec i s0 = .next (sendOrDrop u (nakFor u m (refusal s m))) ∧ u.mem = s.mem ∧ u.sync = s.sync ∧ u.hbm = s.hbm ∧ u.ops = s.ops ∧
      reg u 0x7000 5 = (reg s 0x7000 5 + 1) % 2 ^ 64 ∧
      (refusal s m = nakWindow → reg u 0x7000 6 = (reg s 0x7000 6 + 1) % 2 ^ 64 ∧ reg u 0x7000 7 = m.hdr.toNat % 2 ^ 128)) ∧
    (reg s 0x7000 2 = 0 → refusal s m = nakDisabled) ∧
    (reg s 0x7000 2 ≠ 0 → scrubbing s = true → refusal s m = nakScrubbing) ∧
    (reg s 0x7000 2 ≠ 0 → scrubbing s = false → halted s = true → refusal s m = nakHalted) ∧
    (∀ (u : State) (x : Msg) (p : PortId), x.dest ≠ devNum u → routePort u x = some p →
      Output.msg (.port p) x ∈ (sendOrDrop u x).out)

/-- R268, R269, R276 and R277; notices by R264 and R389. That other notice types and messages under FABRIC_ENABLE 0 are treated
so is the model's reading of R264 and R259. -/
def Obligations.ResponsesNoticesAndTransitTakeTheirWay : Prop :=
  ∀ (s0 : State), clockOn s0 = true →
    (∀ (v : Via) (m : Msg) (op : Nat) (i : Instr), Arrives s0 v m →
      (op, i) ∈ [(0x81, Instr.readData v m), (0x82, .ack v m), (0x83, .nak v m)] → m.opcode = op →
      let s := unloop s0 v m
      (stopped s = true → exec i s0 = .next { s with fab := { s.fab with kept := s.fab.kept ++ [(v, m)] } }) ∧
      (stopped s = false → s.fab.reqs.find? (answers m) = none → ∃ t, exec i s0 = .next t ∧
        reg t 0x7000 8 = (reg s 0x7000 8 + 1) % 2 ^ 64 ∧ SameEntriesBut [dkey 0x7000 8] s t ∧ t.mem = s.mem ∧ t.fab = s.fab) ∧
      (stopped s = false → ∀ r, s.fab.reqs.find? (answers m) = some r →
        exec i s0 = .next (endRequest s r (if op = 0x83 then m.q 2 7 0 else 0) (if op = 0x81 then m.body else [])) ∧
        (∀ w, op = 0x82 → r.purpose = .portWrite w → s.fab.unsent = [] →
          exec i s0 = .next { s with fab := { s.fab with reqs := s.fab.reqs.filter (fun x => x.tag != r.tag) } }) ∧
        (∀ ag, r.purpose = .lineRead ag false → s.fab.unsent = [] →
          let u := { s with fab := { s.fab with reqs := s.fab.reqs.filter (fun x => x.tag != r.tag) } }
          (op = 0x81 → exec i s0 = .next (emit u (.lineData ag r.addr (m.body.headD 0) false))) ∧
          (∀ n, op = 0x83 → m.q 2 7 0 ≠ 0 → ag = .cc n → exec i s0 = .next (emit u (.accessFault n.val)))))) ∧
    (∀ (v : Via) (m : Msg), viaUp s0 v m = true → laneHeld s0 v m = false → m.hops ≠ 63 → m.opcode = 8 →
      (m.linkLocal = true ∨ m.dest = devNum s0) →
      let s := unloop s0 v m
      (m.q 2 15 8 = 1 → ∃ t, exec (.notice v m) s0 = .next t ∧ reg t 0x8100 2 = reg s 0x8100 2 + 1 ∧ t.mem = s.mem ∧ t.ops = s.ops) ∧
      (m.q 2 15 8 = 2 → exec (.notice v m) s0 = .next s) ∧
      (m.q 2 15 8 ≠ 1 → m.q 2 15 8 ≠ 2 → exec (.notice v m) s0 = .next (discardMsg s))) ∧
    (∀ (p : PortId) (m : Msg), portUp s0 p = true → laneHeld s0 (.port p) m = false → m.dest ≠ devNum s0 →
      (m.opcode = 8 → m.linkLocal = false) → m.opcode ∈ [1, 2, 3, 4, 5, 6, 7, 8, 0x81, 0x82, 0x83] →
      let s := s0
      let out := exec (.transitForward p m) s
      let open_ := reg s 0x7000 2 ≠ 0 ∨ m.opcode = 8
      (m.hops = 63 → out = .next (discardMsg s)) ∧
      (m.hops ≠ 63 → ¬ open_ → isRequest m.opcode = true → out = .next (sendOrDrop s (nakFor s m nakDisabled))) ∧
      (m.hops ≠ 63 → ¬ open_ → isRequest m.opcode = false → out = .next (discardMsg s)) ∧
      (m.hops ≠ 63 → open_ → halted s = true → isRequest m.opcode = true → out = .next (sendOrDrop s (nakFor s m nakHalted))) ∧
      (m.hops ≠ 63 → open_ → (halted s = false ∨ isRequest m.opcode = false) →
        (∀ to_ : PortId, routePort s m = some to_ → ∃ t, out = .next t ∧ Output.msg (.port to_) (hop m) ∈ t.out ∧ t.mem = s.mem ∧
          t = sendOn s to_ (3 * 256 + p) (hop m) ∧ (hop m).hops = m.hops + 1 ∧
          (hop m).opcode = m.opcode ∧ (hop m).addr = m.addr ∧ (hop m).source = m.source) ∧
        (routePort s m = none → (m.opcode = 0x83 ∨ (m.source = devNum s ∧ m.opcode ≠ 1 ∧ m.opcode ≠ 2)) →
          out = .next (discardMsg s)) ∧
        (routePort s m = none → ¬ (m.opcode = 0x83 ∨ (m.source = devNum s ∧ m.opcode ≠ 1 ∧ m.opcode ≠ 2)) →
          out = .next (sendOrDrop s (nakFor s m nakUnreachable))))) ∧
    (∀ (tag : BitVec 16) (r : RemoteReq), stopped s0 = false → s0.fab.reqs.find? (fun x => x.tag == tag.toNat) = some r →
      let s := s0
      (r.sentAt.isSome = true → r.deadline ≤ now s → ∃ u, exec (.remoteTimeout tag) s = .next (endRequest u r 10 []) ∧
        reg u 0x7000 9 = (reg s 0x7000 9 + 1) % 2 ^ 64 ∧ reg u 0x8100 2 = reg s 0x8100 2 + 1 ∧ u.mem = s.mem ∧ u.ops = s.ops) ∧
      ((r.sentAt = none ∨ now s < r.deadline) → exec (.remoteTimeout tag) s = .next s))

/-- R258 to R263 and R266; windows by R273 and R347, FABRIC_ENABLE by R259 and R277. -/
def Obligations.LinksCarryCellsInOrder : Prop :=
  ∀ (s : State), clockOn s = true →
    (∀ (p : PortId) (r : TrainResult) (dev : BitVec 16) (port : Byte), portEnabled s p = true → portUp s p = false →
      let lanes := lanesOf (linkOf s p) r
      ∃ t, exec (.linkTrained p r dev port) s = .next t ∧ reg t (0x7020 + p) 5 = lanes ∧ t.mem = s.mem ∧ t.ops = s.ops ∧
        (linkOf t p).rxExpect = 0 ∧ (linkOf t p).replay = [] ∧
        (lanes = 0 → reg t (0x7020 + p) 1 = 0) ∧
        (lanes ≠ 0 → reg t (0x7020 + p) 1 = (if lanes = 0xFF then 2 else 3) ∧ reg t (0x7020 + p) 3 = dev.toNat ∧
          reg t (0x7020 + p) 4 = port.toNat) ∧ (∀ q, q < 24 → q ≠ p.val → reg t (0x7020 + q) 1 = reg s (0x7020 + q) 1)) ∧
    (∀ p : PortId, portUp s p = true →
      let l := linkOf s p
      (∃ t, exec (.linkLeavesUp p) s = .next t ∧ reg t (0x7020 + p) 1 = 1 ∧ reg t (0x7020 + p) 5 = 0 ∧
        (linkOf t p).rx = [] ∧ t.mem = s.mem ∧ (portEnabled s p = true → Output.linkTraining p ∈ t.out)) ∧
      (∀ (h : BitVec 128) (payload : List Byte), cType h.toNat = 0 →
        (cSeq h.toNat ≠ l.rxExpect → exec (.dataCell p h payload) s = .next s) ∧
        (cSeq h.toNat = l.rxExpect →
          let bytes := SMap.get l.rx (cVl h.toNat) [] ++ padTo (min 240 (cFill h.toNat)) payload
          let r := takeMsgs (bytes.length / 32 + 1) bytes
          ∃ u, (linkOf u p).rxExpect = (l.rxExpect + 1) % 4096 ∧ (linkOf u p).dropping = false ∧
            SMap.get (linkOf u p).rx (cVl h.toNat) [] = r.2 ∧
            reg u (0x7020 + p) 0x0C = (reg s (0x7020 + p) 0x0C + 1) % 2 ^ 64 ∧ u.mem = s.mem ∧ u.ops = s.ops ∧
            let w := r.1.foldl (fun t m => deliverMsg t (.port p) m) u
            let back := w.fab.held.any (fun x => x.1 == .port p && vlOf x.2.opcode == cVl h.toNat)
            ∃ x, exec (.dataCell p h payload) s = .next (pumpPort x p) ∧ x.mem = w.mem ∧
              SMap.get (linkOf x p).freed (cVl h.toNat) 0 = SMap.get (linkOf w p).freed (cVl h.toNat) 0 + (if back then 0 else 1) ∧
              SMap.get (linkOf x p).heldCells (cVl h.toNat) 0 =
                SMap.get (linkOf w p).heldCells (cVl h.toNat) 0 + (if back then 1 else 0))) ∧
      (∀ h : BitVec 128, cType h.toNat = 1 → ∃ t, exec (.idleCell p h) s = .next (pumpPort t p) ∧ SameEntriesBut [dkey (0x7020 + p) 6] s t ∧
        t.mem = s.mem ∧ linkOf t p = takeHeader l h.toNat ∧ (linkOf t p).rxExpect = l.rxExpect ∧
        ∀ q, q ≠ p.val → linkOf t q = linkOf s q) ∧
      (∃ t, exec (.uncorrectableCodeword p) s = .next t ∧ (linkOf t p).dropping = true ∧
        Output.replayReq p l.rxExpect ∈ t.out ∧ reg t (0x7020 + p) 7 = (reg s (0x7020 + p) 7 + 1) % 2 ^ 64 ∧ t.mem = s.mem) ∧
      (∀ h : BitVec 128, cType h.toNat = 2 →
        let n := if l.reqCount != 0 && l.reqSeq == cAck h.toNat then l.reqCount + 1 else 1
        (n ≠ 16 → ∃ t, exec (.replayReq p h) s = .next (pumpPort t p) ∧ (linkOf t p).reqCount = n ∧
          (linkOf t p).reqSeq = cAck h.toNat ∧ t.out = s.out ++ .replay p (cAck h.toNat) ::
            (l.replay.dropWhile (fun c => c.seq != cAck h.toNat)).map (fun c => Output.cell p c.hdr c.payload) ∧ reg t (0x7020 + p) 8 = (reg s (0x7020 + p) 8 + 1) % 2 ^ 64 ∧
          reg t (0x7020 + p) 1 = reg s (0x7020 + p) 1 ∧ t.mem = s.mem) ∧
        (n = 16 → ∃ t, exec (.replayReq p h) s = .next t ∧ reg t (0x7020 + p) 1 = 4 ∧
          reg t 0x8100 2 = reg s 0x8100 2 + 1 ∧ t.mem = s.mem))) ∧
    (∀ p : PortId,
      sendCell (pumpPort s p) p = none ∧
      ∀ t, sendCell s p = some t → portUp s p = true ∧ (linkOf s p).replay.length < 1024 ∧ ∃ (lane : Nat) (c : TxCell),
        lane < 4 ∧ 0 < creditsOf s p lane ∧ creditsOf t p lane = creditsOf s p lane - 1 ∧
        (linkOf t p).replay = (linkOf s p).replay ++ [c] ∧ (linkOf t p).txNext = ((linkOf s p).txNext + 1) % 4096 ∧
        t.out = s.out ++ [.cell p c.hdr c.payload] ∧ c.payload.length = 240 ∧
        ((linkOf s p).txNext < 4096 → cType c.hdr.toNat = 0 ∧ cVl c.hdr.toNat = lane ∧ c.seq = (linkOf s p).txNext) ∧
        reg t (0x7020 + p) 0x0B = (reg s (0x7020 + p) 0x0B + 1) % 2 ^ 64 ∧ t.mem = s.mem) ∧
    (∀ (q : Path) (v : Byte), WriteOk s q 0x7000 2 1 v.toNat 0 → ∃ t, exec (.fabricEnable q v) s = .next t ∧
      reg t 0x7000 2 = v.toNat ∧ t.mem = s.mem ∧ t.ops = s.ops) ∧
    (∀ (q : Path) (w : Fin 256) (v : BitVec 256), WriteOk s q (0x1100 + w) 1 32 v.toNat (preWindow v.toNat s) →
      ∃ t, exec (.window q w v) s = .next t ∧ reg t (0x1100 + w) 1 = v.toNat ∧ t.fab.windowOk = s.fab.windowOk ++ [w.val] ∧
        SameEntriesBut [dkey (0x1100 + w) 1] s t ∧ t.out = s.out ∧ t.mem = s.mem) ∧
    (∀ (q : Path) (w : Fin 256) (v : BitVec 256), dictLive s = true → checkAccess s q (0x1100 + w) 1 true false 0 32 = 0 →
      windowBad v.toNat = true → exec (.window q w v) s = .next (emit s (.dictAnswer q dRange []))) ∧
    (∀ w : Fin 256, w.val ∈ s.fab.windowOk → ∃ t, exec (.windowWriteOk w) s = .next t ∧
      t.fab.windowOk = s.fab.windowOk.erase w.val ∧ t.out = s.out ++ [.dictAnswer .sec dOk []] ∧ t.dict = s.dict ∧ t.mem = s.mem)

/-- RS, AG, AR and RSUG (R284 to R287, R305), refused by R105; messages held for the bucket by R283. -/
def Obligations.CollectiveDescriptorsArePostedOrRefused : Prop :=
  ∀ (s : State) (q : QueueId) (tag : TagId) (c : Nat) (d : BitVec 1024), Taken s q tag c d → qKind (qCfg s q) = 3 →
    let rows := [(0x20, Instr.rs q tag), (0x21, .ag q tag), (0x22, .ar q tag), (0x23, .rsug q tag)]
    let o := newOp s tag q c .coll d
    let D := d.toNat
    let comm := kComm D
    let seq := postSeq (s.colls.length + 1) s comm (collSeq s comm)
    let mine := kElems D * kBytes D
    let shard := (myRange (commRec s comm) (kElems D)).2 * kBytes D
    ∀ op i, (op, i) ∈ rows → dOpcode D = op →
      exec i s = .next (releaseLanes (startColl (takeHead s q) o)) ∧
      (collCheck (takeHead s q) c D ≠ stOk → s.fab.held = [] →
        ∃ t o', exec i s = .next t ∧ HeadPassed s t q ∧ t.buckets = s.buckets ∧ t.colls = s.colls ∧ t.mem = s.mem ∧
          t.ops = s.ops ++ [o'] ∧ o'.tag = tag.val ∧ o'.ended = true ∧ o'.status = collCheck (takeHead s q) c D) ∧
      (collCheck (takeHead s q) c D = stOk → CollQuiet s →
        ((op ≠ 0x21 ∧ kLoam D = true ∧ rangePoisoned s (kSrc D) mine = true) ∨
            (op = 0x21 ∧ shard ≠ 0 ∧ rangePoisoned s (kSrc D) shard = true) →
          ∃ t, exec i s = .next t ∧ HeadPassed s t q ∧ ∃ o' ∈ t.ops, o'.tag = tag.val ∧ o'.desc = d ∧ o'.ended = true ∧
            o'.status = stHwFault) ∧
        ((op ≠ 0x21 → kLoam D = true → rangePoisoned s (kSrc D) mine = false) →
          (op = 0x21 → shard ≠ 0 → rangePoisoned s (kSrc D) shard = false) →
          ∃ t, exec i s = .next t ∧ HeadPassed s t q ∧ CollFrame s t ∧
            (∃ o' ∈ t.ops, o'.tag = tag.val ∧ o'.queue = q.val ∧ o'.ctx = c ∧ o'.kind = .coll ∧ o'.desc = d ∧ o'.ended = false) ∧
            (runOf t comm seq).posted = setBit (runOf s comm seq).posted (kBucket D) true ∧
            (runOf t comm seq).lastSeen = (if kLast D then some (kBucket D) else (runOf s comm seq).lastSeen) ∧
            (bucketNamed s comm seq (kBucket D) = none → ∃ b, bucketNamed t comm seq (kBucket D) = some b ∧ b.tag = tag.val ∧
              b.desc = d ∧ b.ctx = c ∧ b.taken = now s ∧ b.finished = false ∧
              (op ≠ 0x21 → kLoam D = true → ∀ j, j < kElems D → SMap.get b.own j 0 = memVal s (kSrc D + kBytes D * j) (kBytes D)))))

/-- R286 in full, and that the ranges share the bucket out. -/
def Obligations.OwnedRangesShareTheBucketOut : Prop :=
  ∀ (r n : Nat), 0 < n →
    let chunk := 32 * ((n + 32 * cRanks r - 1) / (32 * cRanks r))
    (∀ k i, k < cRanks r → ((ownedRange r n k).1 ≤ i ∧ i < (ownedRange r n k).1 + (ownedRange r n k).2 ↔
      k * chunk ≤ i ∧ i < min ((k + 1) * chunk) n)) ∧
    (∀ k, n ≤ k * chunk → (ownedRange r n k).2 = 0) ∧
    (cBackup r = true → (myRange r n).2 = 0) ∧
    (∀ i, i < n → ownerOf r n i < cRanks r ∧ ∀ k, k < cRanks r →
      ((ownedRange r n k).1 ≤ i ∧ i < (ownedRange r n k).1 + (ownedRange r n k).2 ↔ k = ownerOf r n i))

/-- Admission of collective messages (R283); FABRIC_ENABLE by R259, loopback by R272. -/
def Obligations.UnadmittedCollectiveMessagesAreDiscardedAndCounted : Prop :=
  ∀ (s0 : State) (v : Via) (m : Msg), clockOn s0 = true → viaUp s0 v m = true → m.dest = devNum s0 → m.hops ≠ 63 →
    let s := unloop s0 v m
    let row := fun (t : State) => (m.opcode = 6 → exec (.collData v m) s0 = .next t) ∧ (m.opcode = 7 → exec (.collCtrl v m) s0 = .next t)
    (m.opcode = 6 ∨ m.opcode = 7) →
    (Arrives s0 v m → (commActive s (gComm m) = false ∨ knownSource s (gComm m) m.source = false ∨
        kindListed m.opcode (gKind m) = false ∨ fullSeq s m = none) →
      ∃ t, row t ∧ reg t 0x7080 8 = (reg s 0x7080 8 + 1) % 2 ^ 64 ∧ isPending t (src 13 6) = true ∧
        SameEntriesBut [dkey 0x7080 8] s t ∧ t.mem = s.mem ∧ t.buckets = s.buckets ∧ t.colls = s.colls ∧ t.fab = s.fab ∧
        (∀ o, o ∈ t.out → o ∉ s.out → ∃ n, o = .msix n)) ∧
    (∀ seq, CollAdmitted s0 v m seq → gCap m = 0 → gKind m ≠ 0x18 → gKind m ≠ 0x19 →
      bucketNamed s (gComm m) seq (gBucket m) = none → (runOf s (gComm m) seq).posted.testBit (gBucket m) = false →
      row { s with fab := { s.fab with held := s.fab.held ++ [(v, m)] } }) ∧
    (laneHeld s0 v m = true → row { s with fab := { s.fab with held := s.fab.held ++ [(v, m)] } }) ∧
    (laneHeld s0 v m = false → v ≠ .loopback → fabricOn s0 = false → row s)

/-- The COLL_DATA kinds (R289, R299, R301, R302, R305). -/
def Obligations.CollectiveDataMessagesFeedTheirBucket : Prop :=
  ∀ (s : State) (v : Via) (m : Msg) (b : Bucket),
    let u := notedCap s v m
    let d := b.desc.toNat
    let n := inRange u b m
    let l := bodyBytes m
    let k := gRank m
    let i0 := gIndex m
    let grp := !fromPrevious u b m
    let rv := SMap.put b.repairVals k (putVals (SMap.get b.repairVals k []) i0 ((fieldsOf (kBytes d) l).take n))
    let feeds := fun (i : Instr) (grp shadow : Bool) (vals : List Nat) => BucketBecomes i s b (fun _ b' =>
      (findStream b k grp).isSome = true → StreamHolds b' k grp shadow i0 vals)
    let part := (fieldsOf (kBytes d) l).take n
    let gath := (fieldsOf (if dOpcode d = 0x23 then 2 else kBytes d) l).take n
    let rg := myRange (commRec s b.comm) (kElems d)
    (CollFor s v m 6 1 b → exec (.contrib v m) s = .next (advanceBucket (takeContrib u b m part) b.tag) ∧
      feeds (.contrib v m) false (gShadow m) part) ∧
    (CollFor s v m 6 2 b → exec (.partialAcc v m) s =
        .next (advanceBucket (feedStream u b k grp false i0 ((fieldsOf 8 l).take n)) b.tag) ∧
      feeds (.partialAcc v m) grp false ((fieldsOf 8 l).take n)) ∧
    (CollFor s v m 6 3 b → exec (.partialBlock v m) s =
        .next (advanceBucket (feedStream (updBucket u (takeFlags b i0 (l.drop 2048))) (takeFlags b i0 (l.drop 2048))
          k grp false i0 (((l.take 2048).map BitVec.toNat).take n)) b.tag) ∧
      feeds (.partialBlock v m) grp false (((l.take 2048).map BitVec.toNat).take n)) ∧
    (CollFor s v m 6 4 b → exec (.compressed v m) s = .next (advanceBucket (takeContrib u b m (unitElems l i0 n)) b.tag) ∧
      feeds (.compressed v m) false (gShadow m) (unitElems l i0 n)) ∧
    (CollFor s v m 6 5 b → exec (.gather v m) s = .next (advanceBucket (takeGather u b k i0 gath) b.tag) ∧
      BucketBecomes (.gather v m) s b (fun t b' =>
        (∀ j, j < gath.length → ¬ inMyRange s b (i0 + j) → SMap.get b'.gathered (i0 + j) 0 = gath.getD j 0) ∧
        ((findStream b (gatherRank k) false).isSome = true → StreamHolds b' (gatherRank k) false false i0 gath) ∧
        (dOpcode d = 0x21 → (∀ x ∈ u.buckets, x.tag = b.tag → x = b) →
          SameMemoryBut [(kResult d + kBytes d * i0, kBytes d * gath.length), (kResult d + kBytes d * rg.1, kBytes d * rg.2)] s t ∧
          ∀ j, j < gath.length → ¬ inMyRange s b (i0 + j) →
            (∀ x, x < kBytes d → isRetired s (kResult d + kBytes d * (i0 + j) + x) = false) →
            memVal t (kResult d + kBytes d * (i0 + j)) (kBytes d) = gath.getD j 0))) ∧
    (CollFor s v m 6 6 b → exec (.repairData v m) s = .next (advanceBucket (updBucket u { b with repairVals := rv }) b.tag) ∧
      BucketBecomes (.repairData v m) s b (fun _ b' =>
        b.repairing = true → (∃ x ∈ blocksIn rg.1 rg.2, SMap.has b.flags x = true ∧ ∃ y ∈ otherRanks (commRec s b.comm),
          covers (SMap.get rv y []) (32 * x) (min 32 (rg.1 + rg.2 - 32 * x)) = false) →
        ∀ j, j < part.length → SMap.get (SMap.get b'.repairVals k []) (i0 + j) 0 = part.getD j 0))

/-- The COLL_CTRL kinds (R295 to R297, R300, R302 to R304). -/
def Obligations.CollectiveControlMessagesActOnTheirBucket : Prop :=
  ∀ (s : State) (v : Via) (m : Msg),
    let u := notedCap s v m
    let k := gRank m
    let i0 := gIndex m
    let l := bodyBytes m
    let nv := entryAcc (leVal (l.take 8))
    (∀ b, CollFor s v m 7 0x10 b →
      let bytes := l.take (ceilDiv (inRange u b m) 32)
      exec (.scales v m) s = .next (advanceBucket (takeScales u b m) b.tag) ∧
      BucketBecomes (.scales v m) s b (fun _ b' =>
        (inMyRange s b i0 →
          let mark := scaleMark k ((i0 - (myRange (commRec s b.comm) (kElems b.desc.toNat)).1) / (32 * 4096))
          mark ∈ b'.scaleFrom ∧ (mark ∉ b.scaleFrom → ∀ j, j < bytes.length →
            (bytes.getD j 0).toNat ≤ SMap.get b'.scaleIn (i0 / 32 + j) 0)) ∧
        (¬ inMyRange s b i0 → ∀ j, j < bytes.length → SMap.find b'.scaleTab (i0 / 32 + j) = some (bytes.getD j 0)))) ∧
    (∀ b, CollFor s v m 7 0x11 b → exec (.shadowDigest v m) s =
        .next (advanceBucket (compareCrcs (updBucket u (editStream b k false
          (fun x => { x with crcShadow := some (leVal (l.take 8)) }))) b.comm b.seq b.number k) b.tag) ∧
      BucketBecomes (.shadowDigest v m) s b (fun _ b' =>
        (findStream b k false).isSome = true → ∃ x, findStream b' k false = some x ∧ x.crcShadow = some (leVal (l.take 8)))) ∧
    (∀ b, CollFor s v m 7 0x12 b → exec (.substitute v m) s = .next (advanceBucket (takeSubstitute u v b m) b.tag) ∧
      BucketBecomes (.substitute v m) s b (fun t b' =>
        let r := commRec s b.comm
        let ks := if cTransport r = 2 then owners r (kElems b.desc.toNat)
          else (List.range (cRanks r)).filter (fun x => deviceOf s b.comm x == m.source)
        let rgs := ks.map (ownedRange r (kElems b.desc.toNat))
        cBackup r = true →
          (rgs.all (fun g => covers b.own g.1 g.2) = false → (v, m) ∈ t.fab.subs) ∧
          (rgs.all (fun g => covers b.own g.1 g.2) = true → cMode r ≠ 2 →
            b.sent + unitsLen (rgs.flatMap (fun g => contribUnits r b g.1 g.2)) ≤ b'.sent))) ∧
    (∀ b x, CollFor s v m 7 0x13 b → findStream b k false = some x → x.done = false →
      exec (.stopped v m) s = .next (advanceBucket (match backupOf u b.comm k with
        | none => endIncomplete u b
        | some dev => if x.substituted then u else askBackup u b k dev) b.tag) ∧
      (backupOf s b.comm k = none → BucketEnds (.stopped v m) s b stIncomplete) ∧
      ((backupOf s b.comm k).isSome = true → BucketBecomes (.stopped v m) s b (fun _ b' =>
        ∃ y, findStream b' k false = some y ∧ y.substituted = true))) ∧
    (∀ b, CollFor s v m 7 0x14 b → exec (.done v m) s = .next (advanceBucket (takeDone u b m) b.tag) ∧
      BucketBecomes (.done v m) s b (fun t b' =>
        let r := commRec s b.comm
        let bytes := l.take (ceilDiv (inRange u b m) 32)
        (blockMode r = false → (i0 - (ownedRange r (kElems b.desc.toNat) k).1) < 32 * 4096 → k ∈ b'.doneFrom) ∧
        (blockMode r = true → cBackup r = false → ¬ inMyRange s b i0 → (∀ x ∈ u.buckets, x.tag = b.tag → x = b) → ∀ j, j < bytes.length →
          SMap.find (SMap.get t.tables b.comm []) (b.number * 2 ^ 34 + i0 / 32 + j) =
            (if bytes.getD j 0 = 255 then none else some (bytes.getD j 0))))) ∧
    (∀ b, CollFor s v m 7 0x15 b → exec (.abort v m) s = .next (advanceBucket (finishBucket u b stIncomplete) b.tag) ∧
      BucketEnds (.abort v m) s b stIncomplete) ∧
    (∀ b, CollFor s v m 7 0x16 b → exec (.norm v m) s = .next (advanceBucket (takeNorm u b m) b.tag) ∧
      BucketBecomes (.norm v m) s b (fun t b' =>
        let r := commRec s b.comm
        let me := cMyRank r
        let mate := leaderOf r (groupOfRank r me) = me ∧ k ≠ me ∧ k ∈ membersOf r (groupOfRank r me) ∧ deviceOf s b.comm k = m.source
        (mate → SMap.find b'.norms k = some nv) ∧
        (¬ mate → me = 0 → SMap.find b'.norms (gkey k) = some nv) ∧
        (¬ mate → me ≠ 0 → b'.normOut = some nv ∧ SMap.find (updOf t (stepKey b)).norms b.number = some nv))) ∧
    (∀ b, CollFor s v m 7 0x17 b → exec (.repairReq v m) s = .next (advanceBucket (takeRepair u b m) b.tag) ∧
      BucketBecomes (.repairReq v m) s b (fun _ b' =>
        let d := b.desc.toNat
        let blocks := ((fieldsOf 6 l).filter (fun e => e / 2 ^ 40 != 0)).map (fun e => e % 2 ^ 40)
        b.sent + (blocks.map (fun x => (fmtBytes d (valsIn b.own (32 * x) (min 32 (kElems d - 32 * x)))).length)).sum ≤ b'.sent)) ∧
    (∀ seq, m.opcode = 7 → gKind m = 0x18 → CollAdmitted s v m seq →
      exec (.barrierArrive v m) s = .next (barrierArrival u (gComm m) m)) ∧
    (∀ seq, m.opcode = 7 → gKind m = 0x19 → CollAdmitted s v m seq →
      let obj := leVal (l.take 4) % 4096
      let o := objOf s obj
      let releases := o.type = 4 ∧ o.comm = gComm m ∧ o.epoch = leVal ((l.drop 4).take 4) ∧
        cBackup (commRec s (gComm m)) = false ∧ ∃ x, x < 64 ∧ syncLive s x = true ∧ inSyncRange s x obj = true
      exec (.barrierRelease v m) s = .next (barrierReleased u (gComm m) m) ∧
      (releases → ∃ t, exec (.barrierRelease v m) s = .next t ∧
        objOf t obj = { advance o 1 with localArrived := 0 } ∧ (∀ n, n ≠ obj → objOf t n = objOf s n) ∧ t.mem = s.mem ∧
        t.buckets = u.buckets) ∧
      (¬ releases → exec (.barrierRelease v m) s = .next u))

/-- Arrival at rank 0 (R304). -/
def Obligations.BarriersReleaseWhenTheLastRankArrives : Prop :=
  ∀ (s : State) (v : Via) (m : Msg) (seq : Nat), m.opcode = 7 → gKind m = 0x18 → CollAdmitted s v m seq → gCap m = 0 →
    cBackup (commRec s (gComm m)) = false → cMyRank (commRec s (gComm m)) = 0 →
    let key := gComm m * 2 ^ 48 + leVal ((bodyBytes m).take 4) % 4096 * 2 ^ 32 + leVal (((bodyBytes m).drop 4).take 4)
    let seen := SMap.get s.barriers key []
    let after_ := if seen.contains m.source then seen else m.source :: seen
    ∃ t, exec (.barrierArrive v m) s = .next t ∧ t.mem = s.mem ∧ t.buckets = s.buckets ∧ t.sync = s.sync ∧
      (after_.length ≠ cRanks (commRec s (gComm m)) →
        SMap.find t.barriers key = some after_ ∧ t.out = s.out ∧ t.fab = (unloop s v m).fab ∧ t.dict = s.dict) ∧
      (after_.length = cRanks (commRec s (gComm m)) → SMap.find t.barriers key = none)

/-- Activation and its end (R281, R282), with the rank table's address error (R6); held messages by R283. -/
def Obligations.CommunicatorsActivateAndAreTakenOutOfUse : Prop :=
  ∀ (s : State) (p : Path) (c : CommId),
    (∀ v : Byte, WriteOk s p (0x7100 + c) 2 1 v.toNat (preCommState c v.toNat s) →
      exec (.commState p c v) s = .next (answered (releaseLanes (setCommState c v.toNat s)) p)) ∧
    (s.fab.held = [] → WriteOk s p (0x7100 + c) 2 1 1 (preCommState c 1 s) → commActive s c = false →
      ∃ t, exec (.commState p c 1) s = .next t ∧ commActive t c = true ∧ collSeq t c = 1 ∧
        (ranksOf t c).map Rank.device = (List.range (cRanks (commRec s c))).map (fun k => fld (rankWord s (commRec s c) k) 15 0) ∧
        (ranksOf t c).map Rank.backup = (List.range (cRanks (commRec s c))).map (fun k =>
          if (rankWord s (commRec s c) k).testBit 32 then some (fld (rankWord s (commRec s c) k) 31 16) else none) ∧
        SameEntriesBut [dkey (0x7100 + c) 2, dkey (0x7100 + c) 3] s t ∧ t.mem = s.mem) ∧
    (s.fab.held = [] → WriteOk s p (0x7100 + c) 2 1 0 (preCommState c 0 s) →
      ∃ t, exec (.commState p c 0) s = .next t ∧ commActive t c = false ∧ ranksOf t c = [] ∧
        (∀ b ∈ t.buckets, b.comm ≠ c.val) ∧ SameEntriesBut [dkey (0x7100 + c) 2] s t ∧ t.mem = s.mem) ∧
    (dictLive s = true → checkAccess s p (0x7100 + c) 2 true false 0 1 = 0 → commActive s c = false →
      (activationBad s (commRec s c) = true → exec (.commState p c 1) s = .next (emit s (.dictAnswer p dRange []))) ∧
      (activationBad s (commRec s c) = false → (tableHole (commRec s c)).isSome = true →
        ∃ t, exec (.commState p c 1) s = .next t ∧ commActive t c = false ∧ reg t 0x8100 2 = reg s 0x8100 2 + 1 ∧ t.mem = s.mem))

/-- R285, R287, R289, R291 to R293, R305. -/
def Obligations.StreamsBucketsAndChunksEndAsTheirRulesSay : Prop :=
  (∀ (s : State) (tag : TagId) (b : Bucket) (n t0 : Nat) (x : Stream), clockOn s = true → stopped s = false →
    bucketOf s tag = some b → b.streams[n]? = some x → x.handled = false → x.deadline = some t0 → t0 ≤ now s →
    let b1 := editStream b x.rank x.isGroup (fun y => { y with handled := true, missed := !x.done })
    (x.done = true → exec (.streamDeadlineExpiry tag n) s = .next (updBucket s b1)) ∧
    (x.done = false → exec (.streamDeadlineExpiry tag n) s = .next (streamMissed (updBucket s b1) b1 x) ∧
      ∃ t, exec (.streamDeadlineExpiry tag n) s = .next t ∧ CollFrame s t ∧ t.mem = s.mem ∧
        reg t 0x7080 3 = (reg s 0x7080 3 + 1) % 2 ^ 64 ∧ reg t 0x8100 2 = reg s 0x8100 2 + 1 ∧
        (∀ o, findOp s b.tag = some o → ∃ o', findOp t b.tag = some o' ∧ o'.missed = true) ∧
        (kAbort b.desc.toNat = true → (x.isGroup = true ∨ 2 ^ 20 ≤ x.rank ∨ cTransport (commRec s b.comm) = 1 ∨
            backupOf s b.comm x.rank = none) → BucketEnds (.streamDeadlineExpiry tag n) s b stAborted))) ∧
  (∀ (s : State) (tag : TagId) (b : Bucket), clockOn s = true → stopped s = false → bucketOf s tag = some b →
    (b.taken + reg s 0x7080 1 ≤ now s → exec (.collWatchdogExpiry tag) s = .next (finishBucket s b stTimeout) ∧
      BucketEnds (.collWatchdogExpiry tag) s b stTimeout) ∧
    (bucketDone s b = true → exec (.bucketEnd tag) s = .next (pumpAll (finishBucket s b stOk)) ∧
      BucketEnds (.bucketEnd tag) s b stOk) ∧
    (∀ chunk : Nat,
      let r := commRec s b.comm
      let rg := myRange r (kElems b.desc.toNat)
      let lo := rg.1 + 32768 * chunk
      let n := min 32768 (rg.1 + rg.2 - lo)
      let vs := (chunkVals s r b rg lo n).map Prod.fst
      chunkReady r b lo n = true →
      (∃ u, exec (.resultChunkAccepted tag chunk) s = .next (pumpAll (advanceBucket u b.tag)) ∧
        (dOpcode b.desc.toNat ≠ 0x23 →
          u.mem = (memWrite s (resultAddr b.desc.toNat rg lo) (fmtBytes b.desc.toNat vs)).mem)) ∧
      ∃ t b', exec (.resultChunkAccepted tag chunk) s = .next t ∧ bucketNamed t b.comm b.seq b.number = some b' ∧
        b'.finished = false ∧ t.sync = s.sync ∧ t.parts = s.parts ∧
        ∀ j, j < n → SMap.get b'.result (lo + j) 0 = vs.getD j 0)) ∧
  (∀ (s : State) (a : ArrayId) (ii : PartId) (r : OutRow) (l : List OutRow) (o : Op) (b : Bucket), coreRuns s = true →
    (partOf s (pkey a ii)).stage = r :: l → findOp s r.tag = some o → mDest o.desc.toNat = 2 → sliceTarget s o = some b →
    exec (.sliceTaken a ii) s = .next (releaseLanes (showIdle (takeSlice s a ii o r b) a)) ∧
    (CollQuiet s → feederFits o b = true → b.finished = false →
      let w := if r.vals.isEmpty then ([], []) else rowPieces s o (tileCols o.desc.toNat (sideOf (mMode o.desc.toNat)) r.tile) r.row r.vals
      let zs := if r.last then maskedPieces s o r.tile else []
      ∃ t b', exec (.sliceTaken a ii) s = .next t ∧ (partOf t (pkey a ii)).stage = l ∧
        bucketNamed t b.comm b.seq b.number = some b' ∧ b'.finished = false ∧ b'.feeder = some o.tag ∧
        b'.own = pieceVals (mN o.desc.toNat) b.own (w.1 ++ zs) ∧ t.sync = s.sync ∧ t.engines = s.engines) ∧
    (CollQuiet s → feederFits o b = false → b.finished = false →
      ∃ t, exec (.sliceTaken a ii) s = .next t ∧ (partOf t (pkey a ii)).stage = l ∧ t.sync = s.sync ∧ t.engines = s.engines ∧
        ∀ x, findOp s b.tag = some x → x.ended = false → ∃ x', findOp t b.tag = some x' ∧ x'.ended = true ∧ x'.status = stFormat))

/-- R154 to R158 with R161, R162, R164, R165 and R168; R305 for the gather that may follow. -/
def Obligations.UpdateStepsFormTheirNormAndRecord : Prop :=
  ∀ (s : State) (c : CtxId),
    (∀ (n : EngineId) (entry first : Nat) (b : Bucket), sliceBucket s n c entry first = some b → mayRun s n .update = true →
      (engineOf s n).run = none → updatesRun s c = true →
      let u := updOf s (stepKey b)
      let e := entryNow s b.ctx u entry
      let len := sliceLen (ownedPart s b e) first
      let f := (factorOf u).getD (accOfNat 1)
      let cost := sliceSteps e len (kBytes b.desc.toNat)
      let w := writeSlice (countSteps s n .update cost) b e first len f
      let el := fun (i : Nat) => newElem s b.ctx e i f (widen ((kFmt b.desc.toNat).decode (SMap.get b.result (uOffset e + i) 0)))
        (readMoment s .e4m3 (uM e) (uMs e) i) (if uOpt e = 1 then readMoment s .e5m2 (uV e) (uVs e) i else Acc.zero)
      let moments := [(uM e + first / 32 * 32, 32 * ceilDiv len 32), (uMs e + first / 32, ceilDiv len 32),
        (uV e + first / 32 * 32, 32 * ceilDiv len 32), (uVs e + first / 32, ceilDiv len 32)]
      let clear := fun (a k : Nat) => (∀ x ∈ moments, a + k ≤ x.1 ∨ x.1 + x.2 ≤ a) ∧ ∀ j, j < k → isRetired s (a + j) = false
      exec (.updateSlice n c entry first) s = .next (runSlice s n b entry first) ∧
      (slicePoison s e first len = false → ∃ t, exec (.updateSlice n c entry first) s = .next t ∧ t.mem = w.1.mem ∧
        reg t 0x6400 1 = (reg s 0x6400 1 + 1) % 2 ^ 64 ∧ reg t 0x6400 2 = (reg s 0x6400 2 + w.2.2) % 2 ^ 64 ∧
        reg t (0x2300 + n) 5 = (reg s (0x2300 + n) 5 + cost) % 2 ^ 64 ∧
        (entry, first) ∈ (updOf t (stepKey b)).doneSlices ∧ t.sync = s.sync ∧ t.parts = s.parts ∧ t.waits = s.waits ∧
        (uSr e = true → ∀ j, j < len → clear (uW e + 2 * (first + j)) 2 →
          memVal t (uW e + 2 * (first + j)) 2 = (el (first + j)).w) ∧
        (uSr e = false → (uSilt e + first + len ≤ uW e + 2 * first ∨ uW e + 2 * (first + len) ≤ uSilt e + first) → ∀ j, j < len →
          (clear (uW e + 2 * (first + j)) 2 → memVal t (uW e + 2 * (first + j)) 2 = (el (first + j)).w) ∧
          (clear (uSilt e + first + j) 1 → (memByte t (uSilt e + first + j)).toNat = (el (first + j)).silt))) ∧
      (slicePoison s e first len = true → ∃ t, exec (.updateSlice n c entry first) s = .next t ∧ t.mem = s.mem ∧
        entry ∈ (updOf t (stepKey b)).failed ∧ (u.status = 0 → (updOf t (stepKey b)).status = stHwFault) ∧ t.sync = s.sync ∧
        t.parts = s.parts)) ∧
    (∀ key h, clockOn s = true → (stepsOf s c).find? (qReady s) = some key → headerNow s key = some h →
      let l := (List.range (hBuckets h)).map (fun k => SMap.get (updOf s key).norms k Acc.zero)
      let q := (foldPart accAdd l).getD Acc.zero
      let bad := q.isNan || q.ovf || l.any Acc.ovf
      let cc := f32 (hC h)
      let clip := hClip h = 1 ∧ bad = false ∧ accLe q (accMul cc cc) = false
      ∃ t, exec (.globalNormKnown c) s = .next t ∧ (updOf t key).known = true ∧ (updOf t key).q = q ∧
        (updOf t key).nonfinite = bad ∧ ((updOf t key).clipped = true ↔ clip) ∧
        (updOf t key).skipped = ((updOf s key).skipped || (hClip h == 1 && bad)) ∧
        (clip → (updOf t key).factor = accMul cc (accRsqrt q)) ∧ (¬ clip → (updOf t key).factor = accOfNat 1) ∧
        t.mem = s.mem ∧ CollFrame s t) ∧
    (∀ key h, clockOn s = true → (stepsOf s c).find? (fun k => recordDue s k || stepLost s k) = some key →
      headerNow s key = some h →
      let u := updOf s key
      let skip := u.skipped || (u.status != 0 && !u.headerRead && hClip h == 1)
      ∃ t, exec (.normRecord c) s = .next t ∧ SMap.find t.upd key = none ∧ reg t 0x6400 5 = normOf u ∧
        reg t 0x6400 3 = (if skip then (reg s 0x6400 3 + 1) % 2 ^ 64 else reg s 0x6400 3) ∧
        reg t 0x6400 4 = (if u.clipped then (reg s 0x6400 4 + 1) % 2 ^ 64 else reg s 0x6400 4) ∧
        SameMemoryBut [(hNorm h, 32)] s t ∧ isPending t (src 14 0) = true ∧ t.buckets = s.buckets ∧ t.engines = s.engines ∧
        (inLoamWin (ctxRec s (key / 2 ^ 72)) (hNorm h) 32 = false → t.mem = s.mem) ∧
        (inLoamWin (ctxRec s (key / 2 ^ 72)) (hNorm h) 32 = true → (∀ j, j < 32 → isRetired s (hNorm h + j) = false) →
          memVal t (hNorm h) 32 = normRecord { u with skipped := skip } u.status % 2 ^ 256))

/-- R314 and R320 for the two doorbells. -/
def Obligations.DoorbellsSetTheirIndexOrAreCounted : Prop :=
  ∀ (s : State) (v : BitVec 64), clockOn s = true → barsDead s = false →
    (∀ q : QueueId, (v.toNat < qSize (qCfg s q) →
        ∃ t, exec (.tail q v) s = .next t ∧ bget t (qTailOff q) = v.toNat ∧ SameBarBut [qTailOff q] s t ∧ t.dict = s.dict ∧
          t.mem = s.mem ∧ t.ops = s.ops ∧ t.irq = s.irq) ∧
      (qSize (qCfg s q) ≤ v.toNat → exec (.tail q v) s = .next (bump s 0x2020 3))) ∧
    (∀ r : RingId, (v.toNat < rSize (rCfg s r) →
        ∃ t, exec (.ringHead r v) s = .next t ∧ bget t (rHeadOff r) = v.toNat ∧ SameBarBut [rHeadOff r] s t ∧ t = { s with bar := t.bar }) ∧
      (rSize (rCfg s r) ≤ v.toNat → exec (.ringHead r v) s = .next (bump s 0x2020 3)))

/-- R312, R317 and R319. -/
def Obligations.QueuesAndRingsAreConfigured : Prop :=
  ∀ (s : State) (p : Path),
    (∀ (q : QueueId) (v : BitVec 128), WriteOk s p (0x2100 + q) 1 16 v.toNat (preQueueConfig q v.toNat s) →
      ∃ t, exec (.queueConfig p q v) s = .next t ∧ qCfg t q = v.toNat ∧
        ((qBase (qCfg s q) = qBase v.toNat ∧ qHost (qCfg s q) = qHost v.toNat ∧ qSize (qCfg s q) = qSize v.toNat) →
          qHead t q = qHead s q ∧ qTail t q = qTail s q) ∧
        ((qBase (qCfg s q) ≠ qBase v.toNat ∨ qHost (qCfg s q) ≠ qHost v.toNat ∨ qSize (qCfg s q) ≠ qSize v.toNat) →
          qHead t q = 0 ∧ qTail t q = 0) ∧
        SameEntriesBut [dkey (0x2100 + q) 1] s t ∧ SameBarBut [qHeadOff q, qTailOff q] s t ∧ t.mem = s.mem ∧ t.ops = s.ops) ∧
    (∀ (q : QueueId) (v : BitVec 128), dictLive s = true → checkAccess s p (0x2100 + q) 1 true false 0 16 = 0 →
      (qState s q = 0 ∨ qState s q = 3) → streamTaken s q v.toNat = true →
      exec (.queueConfig p q v) s = .next (emit s (.dictAnswer p dConflict []))) ∧
    (∀ (r : RingId) (v : BitVec 128), WriteOk s p (0x2140 + r) 1 16 v.toNat (preRingConfig r v.toNat s) →
      ∃ t, exec (.ringConfig p r v) s = .next t ∧ rCfg t r = v.toNat ∧ bget t (rHeadOff r) = 0 ∧ bget t (rTailOff r) = 0 ∧
        ringPassBit t r = true ∧ SameEntriesBut [dkey (0x2140 + r) 1] s t ∧ SameBarBut [rHeadOff r, rTailOff r] s t ∧
        t.mem = s.mem ∧ t.ready = s.ready) ∧
    (∀ q : QueueId, WriteOk s p (0x2100 + q) 3 1 1 0 → qState s q = 3 →
      ∃ t, exec (.resume p q) s = .next t ∧ qState t q = 1 ∧ SameEntriesBut [dkey (0x2100 + q) 2] s t ∧ t.mem = s.mem ∧
        t.ops = s.ops ∧ t.bar = s.bar) ∧
    (∀ (q : QueueId) (tags : List TagId) (c : Nat), WriteOk s p (0x2100 + q) 3 1 2 0 → qState s q = 3 → queueCtx s q = some c →
      exec (.flush p q tags) s = .next (answered (let u := flushSlots s c q 4096 (pickTags s tags)
        if qAvail u q = 0 then runQueue u q else u) p) ∧
      (qAvail s q = 0 → ∃ t, exec (.flush p q tags) s = .next t ∧ qState t q = 1 ∧ t.ops = s.ops ∧ t.mem = s.mem) ∧
      (qHost (qCfg s q) = false → qAvail s q < 4096 → qAvail s q ≤ (pickTags s tags).length →
        ∃ t l, exec (.flush p q tags) s = .next t ∧ qAvail t q = 0 ∧ qState t q = 1 ∧ t.mem = s.mem ∧ t.ops = s.ops ++ l ∧
          (∀ o ∈ l, o.queue = q.val ∧ o.ended = true ∧ o.recorded = true ∧ o.status = stFlushed) ∧
          t.ready.length = s.ready.length + l.length ∧
          ((∀ j, j < qAvail s q → slotReadable s c q ((qHead s q + j) % qSize (qCfg s q)) = true) →
            qHead s q < qSize (qCfg s q) → l.length = qAvail s q)))

/-- R331. -/
def Obligations.ClaimPushesAndEoiPops : Prop :=
  ∀ (s : State), irqServes s = true →
    (∀ p : Fin 6, p ≠ 5 →
      (line s p = true → ∃ t, exec (.claim p) s = .next t ∧ levelStack t p = winLevel s p :: levelStack s p ∧
        runLevel t p = winLevel s p ∧ line t p = false ∧ t.out = s.out ++ [.claimed p (winLevel s p)] ∧
        (∀ q, q ≠ p.val → levelStack t q = levelStack s q) ∧ t.bar = s.bar ∧ t.dict = s.dict ∧ t.mem = s.mem) ∧
      (line s p = false → exec (.claim p) s = .next (emit s (.claimed p 0))) ∧
      (∃ t, exec (.eoi p) s = .next t ∧ levelStack t p = (levelStack s p).drop 1 ∧
        (∀ q, q ≠ p.val → levelStack t q = levelStack s q) ∧ t.bar = s.bar ∧ t.dict = s.dict ∧ t.mem = s.mem) ∧
      (∀ i, i ∈ [Instr.claim p, Instr.eoi p] → LevelsOrdered s → ∃ t, exec i s = .next t ∧ LevelsOrdered t ∧
        (levelStack t p).length ≤ 15) ∧
      (line s p = true → runLevel s p < winLevel s p)) ∧
    (exec (.claim 5) s = .next (emit s (.claimed 5 0)) ∧ exec (.eoi 5) s = .next s) ∧
    (levelStack s 5 = [] → runLevel s 5 = 0) ∧
    (line s 5 = true ↔ ∃ n ∈ pendingSources s, isCounted s n = true ∧ srcTarget s n = 5 ∧ threshold s 5 < srcPrio s n)

/-- R328 and R329 for the rows that set and clear pending bits. -/
def Obligations.SourcesPendAndAreCleared : Prop :=
  ∀ (s : State),
    (∀ (n : SourceId) (c : Bool), s.aon.up = true → inIdx (n.val / 32) 20 4 = false →
      ∃ t, exec (.interruptSource n c) s = .next t ∧ t.mem = s.mem ∧ t.dict = s.dict ∧
        (∀ m, m < 1024 → isPending t m = (isPending s m || (m == n.val && srcListed n && (c || !isLevelSrc n)))) ∧
        (isLevelSrc n = true → condOf t n = c)) ∧
    (∀ (w : IrqWriter) (g : Fin 32) (v : BitVec 32), irqServes s = true →
      (∃ t, exec (.raise w g v) s = .next t ∧ t.mem = s.mem ∧ t.dict = s.dict ∧
        ∀ m, m < 1024 → isPending t m = (isPending s m ||
          (m / 32 == g.val && v.getLsbD (m % 32) && mayWrite s w m && srcListed m))) ∧
      (∃ t, exec (.pending w g v) s = .next t ∧ t.mem = s.mem ∧ t.dict = s.dict ∧
        ∀ m, m < 1024 → isPending t m = (isPending s m &&
          !(m / 32 == g.val && v.getLsbD (m % 32) && mayWrite s w m && !(isLevelSrc m && condOf s m))))) ∧
    (∀ n : Fin 8, clockOn s = true → reg s 0x2040 (1 + n) = 2 →
      ∃ t, exec (.gpioEdge n) s = .next t ∧ t.mem = s.mem ∧ t.dict = s.dict ∧
        ∀ m, m < 1024 → isPending t m = (isPending s m || m == src 24 n))

/-- R329, R332, R333; the owner of a hold-off timer by R360. -/
def Obligations.InterruptSettingsAndHoldoff : Prop :=
  ∀ (s : State),
    (irqServes s = true →
      (∀ (w : IrqWriter) (n : SourceId) (v : BitVec 32), mayWrite s w n = true →
        (fld v.toNat 6 4 < 6 → ∃ t, exec (.srcCfg w n v) s = .next t ∧ srcPrio t n = fld v.toNat 3 0 ∧
          srcTarget t n = fld v.toNat 6 4 ∧ srcVector t n = fld v.toNat 13 8 ∧ SameBarBut [srcCfgOff n] s t ∧ t.dict = s.dict ∧
          t.mem = s.mem) ∧
        (6 ≤ fld v.toNat 6 4 → exec (.srcCfg w n v) s = .next s)) ∧
      (∀ (w : IrqWriter) (p : Fin 6) (v : BitVec 32),
        ∃ t, exec (.threshold w p v) s = .next t ∧ threshold t p = v.toNat % 16 ∧ SameBarBut [thrOff p] s t ∧ t.dict = s.dict ∧
          t.mem = s.mem)) ∧
    (∀ (p : Path) (g : Fin 32) (v : BitVec 32), WriteOk s p (0x2180 + g) 1 4 v.toNat (preHoldoff p g s) →
      ∃ t, exec (.holdoffNs p g v) s = .next t ∧ holdoffNs t g = v.toNat ∧
        reg t 0x2030 (9 + g) = (if v = 0 then 0 else claimantOf p) ∧
        SameEntriesBut [dkey (0x2180 + g) 1, dkey 0x2030 (9 + g)] s t ∧ t.bar = s.bar ∧ t.mem = s.mem) ∧
    (∀ (g : Fin 32) (t0 : Nat), clockOn s = true → SMap.find s.irq.timers g = some t0 → t0 ≤ now s →
      ∃ t, exec (.holdoffExpiry g) s = .next t ∧ SMap.get t.irq.held g 0 = 0 ∧ (∀ m, m < 1024 → isPending t m = isPending s m) ∧
        t.dict = s.dict ∧ t.mem = s.mem) ∧
    (∀ v : Fin 64, clockOn s = true →
      ∃ t, exec (.msiXUnmask v) s = .next t ∧ (bget t (msixCtl v)).testBit 0 = false ∧ (bget t pbaOff).testBit v = false ∧
        t.dict = s.dict ∧ t.mem = s.mem ∧
        t.out = (if (bget s pbaOff).testBit v then s.out ++ [.msix v] else s.out))

/-- R335, R336, R337 and R338. -/
def Obligations.ArbiterGrantsTheLowestOrderOrTheForced : Prop :=
  ∀ (s : State) (r : Resource), clockOn s = true →
    (∀ arrivals,
      let q := park (resDepth r) (arbOf s r).queue arrivals
      let forced := (requesters q).filter (fun w => decide (waitLimit s (resKind r) (w / 256) ≤ SMap.get (arbOf s r).waits w 0))
      let pool := if forced = [] then requesters q else forced
      (q = [] → ∃ t, exec (.grant r arrivals) s = .next t ∧ (arbOf t r).holder = none ∧ t.out = s.out ∧ t.dict = s.dict) ∧
      (∀ w x, w ∈ pool → (∀ y ∈ pool, w ≤ y) → q.find? (fun z => who z == w) = some x →
        ∃ t, exec (.grant r arrivals) s = .next t ∧ (arbOf t r).holder = some x ∧ (arbOf t r).queue = q.erase x ∧
          (arbOf t r).since = now s ∧ SMap.get (arbOf t r).waits w 0 = 0 ∧
          (∀ y ∈ requesters q, y ≠ w → SMap.get (arbOf t r).waits y 0 = SMap.get (arbOf s r).waits y 0 + 1) ∧
          t = { s with arb := t.arb, out := s.out ++ [.arbGranted r x] })) ∧
    (∀ x, (arbOf s r).holder = some x → stopped s = false → (arbOf s r).since + reg s 0x2700 (1 + resKind r) ≤ now s →
      exec (.resourceWatchdogExpiry r) s =
        .next (endStuck (logEvent (bump (setArb s r { arbOf s r with holder := none }) 0x2700 5) (resEvent r)) r x) ∧
      ∃ t, exec (.resourceWatchdogExpiry r) s = .next t ∧ reg t 0x2700 5 = (reg s 0x2700 5 + 1) % 2 ^ 64 ∧
        (arbOf t r).holder = none) ∧
    (∀ (p : Path) (k : Fin 4) (sub : Fin 7) (v : BitVec 16), WriteOk s p (0x2710 + k) (1 + sub) 2 v.toNat 0 →
      ∃ t, exec (.waitLimit p k sub v) s = .next t ∧ waitLimit t k (1 + sub) = v.toNat ∧
        SameEntriesBut [dkey (0x2710 + k) (1 + sub)] s t ∧ t.mem = s.mem ∧ t.arb = s.arb)

/-- R323 to R325; retired lines by R394, lost stacks by R211, waits by R224, dead BARs by R418. -/
def Obligations.HostAccessesMoveBytesOfLocalLines : Prop :=
  ∀ (s : State), hostReaches s = true →
    let w := dpWord s
    let a := wAddr w
    let base := bget s bar4Off
    let stored := fun (t : State) (x : Nat) (data : List Byte) (on : Nat → Bool) => (∀ i, i < data.length → on i = true →
        isRetired s (x + i) = false → rangeLost s (x + i) 1 = false → memByte t (x + i) = data.getD i 0) ∧
      ∀ y, (∀ i, i < data.length → on i = true → y ≠ x + i) → memByte t y = memByte s y
    let failed := fun (t : State) (k : Nat) => (bget s dpErrOff).testBit 0 = false →
      bget t dpErrOff = 1 + 2 * k ∧ bget t dpErrAddrOff = w
    (∀ (data : List Byte) (f l : BitVec 4), data.length ≠ 0 → data.length % 4 = 0 → data.length ≤ 4096 →
      ((barsDead s = true ∨ portHeld s w data.length = true) → exec (.dataPortWrite data f l) s = .next s) ∧
      (barsDead s = false → portHeld s w data.length = false →
        (wAddrOk w = true → wFabric w = false → stopped s = false → firstBad a data.length = none →
          ∃ t, exec (.dataPortWrite data f l) s = .next t ∧ bget t dpAddrOff = wNext w data.length ∧
            stored t a data (beOn data.length f l) ∧ SameBarBut [dpAddrOff] s t ∧ SameEntriesBut [dkey 0x8000 9] s t ∧ t.ops = s.ops) ∧
        (wAddrOk w = true → wFabric w = false → stopped s = false → firstBad a data.length ≠ none →
          ∃ t, exec (.dataPortWrite data f l) s = .next t ∧ bget t dpAddrOff = wNext w data.length ∧
            SameMemoryBut [(a, data.length)] s t ∧ failed t 1) ∧
        ((wAddrOk w = false ∨ (wFabric w = false ∧ stopped s = true)) →
          ∃ t, exec (.dataPortWrite data f l) s = .next t ∧ bget t dpAddrOff = wNext w data.length ∧ t.mem = s.mem ∧
            t.dict = s.dict ∧ failed t 1) ∧
        (wAddrOk w = true → wFabric w = true →
          ∃ t, exec (.dataPortWrite data f l) s = .next t ∧ bget t dpAddrOff = wNext w data.length ∧ t.mem = s.mem ∧
            SameBarBut [dpAddrOff] s t))) ∧
    (∀ dw : Nat, 0 < dw → dw ≤ 1024 →
      let n := 4 * dw
      (barsDead s = true → exec (.dataPortRead dw) s = .next (emit s (.hostData (allOnes n) false))) ∧
      (barsDead s = false → portHeld s w n = true → exec (.dataPortRead dw) s = .next s) ∧
      (barsDead s = false → portHeld s w n = false →
        ((wAddrOk w = false ∨ (wFabric w = false ∧ stopped s = true)) →
          ∃ t, exec (.dataPortRead dw) s = .next t ∧ bget t dpAddrOff = wNext w n ∧ Output.hostData (allOnes n) false ∈ t.out ∧
            t.mem = s.mem ∧ failed t 1) ∧
        (wAddrOk w = true → wFabric w = false → stopped s = false → firstBad a n = none → hostPoison s a n = false →
          ∃ t, exec (.dataPortRead dw) s = .next t ∧ bget t dpAddrOff = wNext w n ∧
            t.out = s.out ++ [.hostData (memRead s a n) false] ∧ SameBarBut [dpAddrOff] s t ∧ t.mem = s.mem ∧ t.dict = s.dict) ∧
        (wAddrOk w = true → wFabric w = false → stopped s = false →
          ∃ t, exec (.dataPortRead dw) s = .next t ∧ bget t dpAddrOff = wNext w n ∧ t.mem = s.mem ∧
            (firstBad a n ≠ none → hostPoison s a n = false → failed t 1)) ∧
        (wAddrOk w = true → wFabric w = false → stopped s = false → hostPoison s a n = true → firstBad a n = none →
          ∃ t, exec (.dataPortRead dw) s = .next t ∧ bget t dpAddrOff = wNext w n ∧ t.mem = s.mem ∧ failed t 4) ∧
        (wAddrOk w = true → wFabric w = true → ∃ t, exec (.dataPortRead dw) s = .next t ∧ bget t dpAddrOff = wNext w n ∧
          t.mem = s.mem ∧ ∃ x, t.hostIf.reads = s.hostIf.reads ++ [x] ∧ x.addr = a ∧ x.len = n ∧ x.word = w))) ∧
    (∀ (o : BitVec 36) (data : List Byte),
      ((barsDead s || stopped s || rangeHeld s (base + o.toNat) data.length) = true →
        exec (.bar4Access (.write o data)) s = .next s) ∧
      ((barsDead s || stopped s || rangeHeld s (base + o.toNat) data.length) = false →
        (firstBad (base + o.toNat) data.length = none → ∃ t, exec (.bar4Access (.write o data)) s = .next t ∧
          stored t (base + o.toNat) data (fun _ => true) ∧ t.bar = s.bar ∧ SameEntriesBut [dkey 0x8000 9] s t) ∧
        (firstBad (base + o.toNat) data.length ≠ none → ∃ t, exec (.bar4Access (.write o data)) s = .next t ∧
          SameMemoryBut [(base + o.toNat, data.length)] s t))) ∧
    (∀ (o : BitVec 36) (n : Nat),
      ((barsDead s || stopped s) = true →
        exec (.bar4Access (.read o n)) s = .next (emit s (.hostData (allOnes n) false))) ∧
      ((barsDead s || stopped s) = false → rangeHeld s (base + o.toNat) n = true → exec (.bar4Access (.read o n)) s = .next s) ∧
      ((barsDead s || stopped s || rangeHeld s (base + o.toNat) n) = false →
        (∃ t, exec (.bar4Access (.read o n)) s = .next t ∧ t.mem = s.mem) ∧
        (firstBad (base + o.toNat) n = none → hostPoison s (base + o.toNat) n = false →
          ∃ t, exec (.bar4Access (.read o n)) s = .next t ∧
            t.out = s.out ++ [.hostData (memRead s (base + o.toNat) n) false] ∧ t.bar = s.bar ∧ t.dict = s.dict))) ∧
    (∀ v : BitVec 64,
      (∃ t, exec (.dataPortRegisterWrite 0 v) s = .next t ∧ dpWord t = v.toNat / 4 * 4 ∧ SameBarBut [dpAddrOff] s t ∧ t = { s with bar := t.bar }) ∧
      (∃ t, exec (.dataPortRegisterWrite 8 v) s = .next t ∧ (v.getLsbD 0 = true → bget t dpErrOff = 0) ∧ (v.getLsbD 0 = false → t = s) ∧
        SameBarBut [dpErrOff] s t ∧ t = { s with bar := t.bar }) ∧
      (∃ t, exec (.dataPortRegisterWrite 0x20 v) s = .next t ∧ SameBarBut [bar4Off] s t ∧ t = { s with bar := t.bar } ∧
        bget t bar4Off = if fld v.toNat 43 30 ≤ 1216 then fld v.toNat 43 30 * 2 ^ 30 else base) ∧
      (∀ o : BitVec 8, o ≠ 0 → o ≠ 8 → o ≠ 0x20 → exec (.dataPortRegisterWrite o v) s = .next s))

/-- R326 and R327, host-memory queues by R321 and R317, configuration requests by R417. -/
def Obligations.HostDmaChannelsRunTheirDescriptors : Prop :=
  ∀ (s : State), clockOn s = true →
    (∀ (ch : Fin 4) (v : BitVec 64),
      ((barsDead s = true ∨ chSizeOf s ch ≤ v.toNat) → exec (.chTail ch v) s = .next s) ∧
      (barsDead s = false → v.toNat < chSizeOf s ch →
        ((chStateOf s ch = 2 ∨ chHeadOf s ch = v.toNat) → exec (.chTail ch v) s = .next (bset s (chOff ch 0x10) v.toNat)) ∧
        (chStateOf s ch ≠ 2 → chHeadOf s ch ≠ v.toNat → ∃ t, exec (.chTail ch v) s = .next t ∧ chTailOf t ch = v.toNat ∧
          chStateOf t ch = 1 ∧ t.mem = s.mem ∧ t.dict = s.dict ∧
          (s.aon.pcieUp = true → SMap.has s.hostIf.dmaDesc ch = false →
            Output.hostRead (.dmaDescriptor ch) (chBaseOf s ch + 64 * chHeadOf s ch) 64 ∈ t.out))) ∧
      (∀ size, chHeadOf s ch ≠ chTailOf s ch → exec (.chBase ch size v) s = .next s) ∧
      (chHeadOf s ch = chTailOf s ch →
        (1 ≤ v.toNat → v.toNat ≤ 4096 → ∃ t, exec (.chBase ch true v) s = .next t ∧ chSizeOf t ch = v.toNat ∧ chStateOf t ch = 0 ∧
          t.mem = s.mem ∧ t.dict = s.dict) ∧
        ((v.toNat = 0 ∨ 4096 < v.toNat) → exec (.chBase ch true v) s = .next s) ∧
        (∃ t, exec (.chBase ch false v) s = .next t ∧ chBaseOf t ch = v.toNat / 64 * 64 ∧ chStateOf t ch = 0 ∧
          t.mem = s.mem ∧ t.dict = s.dict))) ∧
    (∀ (ch : Fin 4) (dd : BitVec 512), SMap.find s.hostIf.dmaDesc ch = some dd → chStateOf s ch = 1 →
      let d := dd.toNat
      let w := hDev d
      let a := wAddr w
      let ended := fun (t : State) (st : Nat) => SMap.has t.hostIf.dmaDesc ch = false ∧
        chHeadOf t ch = (chHeadOf s ch + 1) % chSizeOf s ch ∧
        Output.hostWrite (chBaseOf s ch + 64 * chHeadOf s ch + 24) (leBytes 8 (st + 2 ^ 63)) ∈ t.out
      (SMap.has s.hostIf.dmaBusy ch = false → ((stopped s = false ∧ memHeld s a = false) ∨ wFabric w = true) →
        (hBad d = true → ∃ t, exec (.hostDmaDescriptor ch) s = .next t ∧ ended t 6 ∧ t.mem = s.mem) ∧
        (hBad d = false → wAddrOk w = false → ∃ t, exec (.hostDmaDescriptor ch) s = .next t ∧ ended t 1 ∧ t.mem = s.mem) ∧
        (hBad d = false → wAddrOk w = true →
          (hOut d = false → ∃ t, exec (.hostDmaDescriptor ch) s = .next t ∧ t.out = s.out ++ [.hostRead (.dmaData ch) (hHost d) (hLen d)] ∧
            SMap.find t.hostIf.dmaBusy ch = some 1 ∧ t.mem = s.mem) ∧
          (hOut d = true → wFabric w = false →
            (hostStop s a (hLen d) true = none → ∃ t, exec (.hostDmaDescriptor ch) s = .next t ∧ ended t 0 ∧
              Output.hostWrite (hHost d) (memRead s a (hLen d)) ∈ t.out ∧ t.mem = s.mem) ∧
            (∀ n st, hostStop s a (hLen d) true = some (n, st) → ∃ t, exec (.hostDmaDescriptor ch) s = .next t ∧ ended t st ∧
              t.mem = s.mem)) ∧
          (hOut d = true → wFabric w = true → ∃ t, exec (.hostDmaDescriptor ch) s = .next t ∧ t.mem = s.mem ∧
            SMap.find t.hostIf.dmaBusy ch = some (1 + (linePieces ((a % 64 + hLen d + 63) / 64)).length)))) ∧
      (SMap.find s.hostIf.dmaBusy ch = some 1 → hOut d = false → ∀ data : List Byte,
        (∃ t, exec (.hostCompletion (.dmaData ch) data false) s = .next t ∧ ended t 5 ∧ t.mem = s.mem) ∧
        (wFabric w = false → hostStop s a (hLen d) false = none → ∃ t, exec (.hostCompletion (.dmaData ch) data true) s = .next t ∧
          ended t 0 ∧ SameMemoryBut [(a, hLen d)] s t ∧
          ∀ i, i < hLen d → isRetired s (a + i) = false → rangeLost s (a + i) 1 = false → memByte t (a + i) = data.getD i 0) ∧
        (wFabric w = false → ∀ n st, hostStop s a (hLen d) false = some (n, st) →
          ∃ t, exec (.hostCompletion (.dmaData ch) data true) s = .next t ∧ ended t st ∧ SameMemoryBut [(a, n)] s t))) ∧
    (∀ (ch : Fin 4) (data : List Byte), chStateOf s ch = 1 → SMap.has s.hostIf.dmaDesc ch = false →
      (∃ t, exec (.hostCompletion (.dmaDescriptor ch) data true) s = .next t ∧ t.mem = s.mem ∧
        SMap.find t.hostIf.dmaDesc ch = some (BitVec.ofNat 512 (leVal (padTo 64 data)))) ∧
      (∃ t, exec (.hostCompletion (.dmaDescriptor ch) data false) s = .next t ∧ chStateOf t ch = 2 ∧ t.mem = s.mem)) ∧
    (∀ (q : QueueId) (data : List Byte), qHost (qCfg s q) = true → SMap.has s.hostIf.slotData q = false → qAvail s q ≠ 0 →
      s.hostIf.asked.contains q.val = true →
      (SMap.find s.hostIf.flushing q = none →
        (∃ t, exec (.hostCompletion (.queueSlot q) data true) s = .next t ∧ t.mem = s.mem ∧
          SMap.find t.hostIf.slotData q = some (BitVec.ofNat 1024 (leVal (padTo 128 data)))) ∧
        (qState s q ≠ 0 → ∃ t, exec (.hostCompletion (.queueSlot q) data false) s = .next t ∧ qState t q = 3 ∧
          reg t (0x2100 + q) 4 = 2 ∧ t.mem = s.mem)) ∧
      ∀ ok, ∃ t, exec (.hostCompletion (.queueSlot q) data ok) s = .next t ∧ t.mem = s.mem ∧ t.sync = s.sync) ∧
    (hostReaches s = true →
      (startState s < 3 → exec .configurationRequest s = .next (emit s .retryStatus)) ∧
      (3 ≤ startState s → ∃ t, exec .configurationRequest s = .next t ∧ t.aon.pcieConfigured = true ∧
        t.out = s.out ++ [.configServed] ∧ t.mem = s.mem ∧ t.dict = s.dict))

/-- R341, R343, R345 to R347, R349, R351 and R416. -/
def Obligations.DictionaryAccessesAreCheckedThenServed : Prop :=
  ∀ (s : State) (p : Path) (i : BitVec 16) (sub : BitVec 8), dictLive s = true →
    let I := i.toNat
    let S := sub.toNat
    let answer := fun (c : Nat) => Host.Outcome.next (emit s (.dictAnswer p c []))
    (∀ (b : List Byte) (off : BitVec 32) (len : BitVec 16),
      let c := checkAccess s p I S true false 0 b.length
      let out := exec (.entryWrite p i sub b) s
      (directPath p = true → exec (.dictWrite (.direct p i sub off len b)) s = out) ∧
      (lookupEntry I S = none → out = answer dNoEntry) ∧
      (∀ r, lookupEntry I S = some r →
        (permitted s p I S true = false → out = answer dPrivilege) ∧
        (permitted s p I S true = true → r.acc.writable = false → out = answer dAccess) ∧
        (permitted s p I S true = true → r.acc.writable = true → (r.ty.isDomain = true ∨ b.length ≠ r.ty.size) →
          out = answer dLength) ∧
        (permitted s p I S true = true → r.acc.writable = true → r.ty.isDomain = false → b.length = r.ty.size →
          broughtUp s I true = false → out = answer dNotReady)) ∧
      (c = 0 → preWrite p I S (leVal b) s ≠ 0 → (inIdx I 0x7100 256 = false ∨ S ≠ 2) → out = answer (preWrite p I S (leVal b) s)) ∧
      (c = 0 → preWrite p I S (leVal b) s = 0 → rangeOk I S (leVal b) = false → out = answer dRange) ∧
      (WriteOk s p I S b.length (leVal b) (preWrite p I S (leVal b) s) →
        (inIdx I 0x1100 256 = false → out = .next (answered (effWrite p I S (leVal b) s) p)) ∧
        ((I, S) ∈ [(0x1010, 2), (0x1010, 3), (0x1010, 4), (0x2500, 1), (0x2700, 1), (0x2700, 2), (0x2700, 3), (0x2700, 4),
            (0x3000, 1), (0x3000, 2), (0x7000, 1), (0x7000, 3), (0x7000, 4), (0x8000, 1), (0x8000, 3), (0x8000, 6)] →
          ∃ t, out = .next t ∧ reg t I S = leVal b ∧ SameEntriesBut [dkey I S] s t ∧ t.mem = s.mem ∧ t.ops = s.ops ∧ t.bar = s.bar))) ∧
    (directPath p = true → ∀ (off : BitVec 32) (len : BitVec 16) (b : List Byte),
      (∀ r, lookupEntry I S = some r → permitted s p I S false = true → r.acc.readable = true → broughtUp s I false = true →
        (r.ty.isDomain = false →
          (freeReading s I S = false → exec (.dictRead (.direct p i sub off len b)) s =
            .next (emit s (.dictAnswer p dOk (leBytes r.ty.size (readVal s I S))))) ∧
          (freeReading s I S = true → ∃ t v, exec (.dictRead (.direct p i sub off len b)) s = .next t ∧
            t.out = s.out ++ [.dictAnswer p dOk v] ∧ v.length = r.ty.size ∧ t.dict = s.dict ∧ t.mem = s.mem)) ∧
        (r.ty.isDomain = true → off.toNat % 8 = 0 → len.toNat % 8 = 0 → off.toNat + len.toNat ≤ r.ty.size →
          exec (.readBlock (.direct p i sub off len b)) s =
            .next (emit s (.dictAnswer p dOk ((List.range len.toNat).map (fun j => readByte s I S (off.toNat + j))))))) ∧
      (I ≠ 0x8200 → I ≠ 0x9010 → b.length ≤ len.toNat → checkAccess s p I S true true off.toNat b.length = 0 →
        off.toNat + b.length ≤ 2 ^ 20 →
        ∃ t, exec (.writeBlock (.direct p i sub off len b)) s = .next t ∧
          (∀ j, j < b.length → domByte t I S (off.toNat + j) = b.getD j 0) ∧
          (∀ o, o < off.toNat ∨ off.toNat + b.length ≤ o → o < 2 ^ 20 → domByte t I S o = domByte s I S o) ∧
          t.dict = s.dict ∧ t.mem = s.mem) ∧
      (I = 0x8200 ∨ I = 0x9010 → checkAccess s p I S true true off.toNat b.length ≠ 0 →
        ∃ c, c ≠ dOk ∧ exec (.writeBlock (.direct p i sub off len b)) s = answer c)) ∧
    (∀ (op : Nat) (mk : DictReq → Instr), (op, mk) ∈ [(1, Instr.dictRead), (2, .dictWrite), (3, .readBlock), (4, .writeBlock)] →
      (∀ k : MailSlot, mailState s k = 1 → (frameHdr (mailRequest s k)).op = op →
        let a := serveRequest s (requestOf (mailPath k) 8192 (mailRequest s k))
        ∃ t, exec (mk (.mail k)) s = .next t ∧ mailState t k = 2 ∧
          t = mailAnswer a.2.2 k (frameAnswer (frameHdr (mailRequest s k)) a.1 a.2.1)) ∧
      (∀ (x : FieldSrc) (tid : BitVec 16) (f : FieldTx), s.frames.pending.find? (fun t => t.src == x && t.tid == tid) = some f →
        (frameHdr f.frame).op = op →
        let a := serveRequest s (requestOf .field 1024 f.frame)
        let resp := frameAnswer (frameHdr f.frame) a.1 a.2.1
        ∃ t, exec (mk (.field x tid)) s = .next t ∧ Output.datagram x resp ∈ t.out ∧
          (∀ y ∈ t.frames.pending, ¬ (y.src = x ∧ y.tid = tid)) ∧ ∃ y ∈ t.frames.kept, y.src = x ∧ y.tid = tid ∧ y.resp = resp))

/-- R348 to R350, R352 to R355, R357 to R360 and R416. -/
def Obligations.FramesAddressesAndModesFollowChapter16 : Prop :=
  ∀ (s : State),
    (∀ (k : MailSlot) (req : List Byte) (len : BitVec 14), hostReaches s = true → dictLive s = true →
      let f := padTo len.toNat req
      (mailState s k = 1 → exec (.mailboxDoorbell k req len) s = .next s) ∧
      (mailState s k ≠ 1 → 20 ≤ len.toNat → len.toNat ≤ 8212 → frameStatus f = 0 →
        ∃ t, exec (.mailboxDoorbell k req len) s = .next t ∧ mailState t k = 1 ∧ mailRequest t k = f ∧ t.dict = s.dict ∧ t.mem = s.mem) ∧
      (mailState s k ≠ 1 → 20 ≤ len.toNat → len.toNat ≤ 8212 → frameStatus f ≠ 0 →
        ∃ t, exec (.mailboxDoorbell k req len) s = .next t ∧ mailState t k = 2 ∧
          reg t 0x1010 6 = (reg s 0x1010 6 + 1) % 2 ^ 64 ∧ SameEntriesBut [dkey 0x1010 6] s t ∧ t.mem = s.mem) ∧
      (mailState s k ≠ 1 → (len.toNat < 20 ∨ 8212 < len.toNat) →
        ∃ t, exec (.mailboxDoorbell k req len) s = .next t ∧ mailState t k = 2 ∧ t.dict = s.dict ∧ t.mem = s.mem)) ∧
    (∀ (a : FieldSrc) (f : List Byte) (ok : Bool),
      let tid := BitVec.ofNat 16 (frameHdr f).tid
      let here := fieldLive s = true ∧ ok = true ∧ linkLocalAddr a.addr = true
      (¬ here → exec (.fieldFrame a f ok) s = .next s) ∧
      (here → f.length < 16 → ∃ t, exec (.fieldFrame a f ok) s = .next t ∧ t.frames = s.frames ∧
        reg t 0x1010 6 = (reg s 0x1010 6 + 1) % 2 ^ 64 ∧ t.mem = s.mem) ∧
      (here → 16 ≤ f.length → frameStatus f ≠ 0 → ∃ t, exec (.fieldFrame a f ok) s = .next t ∧ t.frames = s.frames ∧
        Output.datagram a (frameAnswer (frameHdr f) (frameStatus f) []) ∈ t.out ∧ t.mem = s.mem) ∧
      (here → 16 ≤ f.length → frameStatus f = 0 →
        (pendingFor s a tid = true → ∃ t, exec (.fieldFrame a f ok) s = .next t ∧
          t.frames = { s.frames with repeats := s.frames.repeats ++ [{ src := a, tid := tid, frame := f }] } ∧ t.dict = s.dict) ∧
        (pendingFor s a tid = false → ∀ r, keptFor s a tid = some r → ∃ t, exec (.fieldFrame a f ok) s = .next t ∧
          t.frames = s.frames ∧ Output.datagram a r.resp ∈ t.out ∧ t.dict = s.dict) ∧
        (pendingFor s a tid = false → keptFor s a tid = none →
          (16 ≤ s.frames.pending.length → ∃ t, exec (.fieldFrame a f ok) s = .next t ∧ t.frames = s.frames ∧
            Output.datagram a (frameAnswer (frameHdr f) dBusy []) ∈ t.out ∧ t.dict = s.dict) ∧
          (s.frames.pending.length < 16 → ∃ t, exec (.fieldFrame a f ok) s = .next t ∧ t.dict = s.dict ∧
            t.frames = { s.frames with pending := s.frames.pending ++ [{ src := a, tid := tid, frame := f }] })))) ∧
    (fieldLive s = true → ∀ (x : BitVec 128) (data : List Byte),
      exec (.neighborSolicitation x (fieldAddr s)) s = .next (emit s (.neighborAdvert x)) ∧
      (∀ y, y ≠ fieldAddr s → exec (.neighborSolicitation x y) s = .next s) ∧
      exec (.echo x data) s = .next (emit s (.echoReply x data))) ∧
    (dictLive s = true → s.frames.addrState = 1 → ∀ u, exec (.duplicateAddressDetectionEnd u) s =
      .next { s with frames := { s.frames with addrState := if u then 2 else 3 } }) ∧
    (clockOn s = true → s.aon.dictUp = false → ∃ t, exec .dictionaryAnswers s = .next t ∧ dictLive t = true ∧
      t.frames.addrState = 1 ∧ t.frames.notifyQ = [] ∧ t.dict = s.dict ∧ t.mem = s.mem) ∧
    (∀ p : Path,
      (∀ (n : Fin 8) (v : Byte),
        (WriteOk s p 0x2040 (1 + n) 1 v.toNat (preGpio p n s) → ∃ t, exec (.gpioFunction p n v) s = .next t ∧
          reg t 0x2040 (1 + n) = v.toNat ∧ reg t 0x2030 (1 + n) = (if v = 0 then 0 else claimantOf p) ∧
          SameEntriesBut [dkey 0x2040 (1 + n), dkey 0x2030 (1 + n)] s t ∧ t.mem = s.mem) ∧
        (dictLive s = true → checkAccess s p 0x2040 (1 + n) true false 0 1 = 0 → reg s 0x2030 (1 + n) ≠ 0 →
          reg s 0x2030 (1 + n) ≠ claimantOf p →
          exec (.gpioFunction p n v) s = .next (emit s (.dictAnswer p dConflict [])))) ∧
      (∀ (i : BitVec 16) (sub : BitVec 8) (v : Byte) (u : Nat), stagedUnit i.toNat sub.toNat = some u →
        (WriteOk s p i.toNat sub.toNat 1 v.toNat (preMode s) → ∃ t, exec (.stagedWrite p i sub v) s = .next t ∧
          SMap.get t.frames.staged (dkey i.toNat sub.toNat) 0 = 1 + v.toNat ∧ modeState t u = 1 ∧
          SameEntriesBut [dkey 0x2010 (2 + u)] s t ∧ t.hbm = s.hbm ∧ t.mem = s.mem) ∧
        (dictLive s = true → checkAccess s p i.toNat sub.toNat true false 0 1 = 0 → mixed s = true →
          exec (.stagedWrite p i sub v) s = .next (emit s (.dictAnswer p dBusy [])))) ∧
      (WriteOk s p 0x2011 1 1 1 (preMode s) → ∃ t, exec (.commit p) s = .next t ∧ t.frames.staged = s.frames.staged ∧
        (∀ u, u < 4 → modeState t u = if modeState s u = 1 then 2 else modeState s u) ∧
        SameEntriesBut ((List.range 4).map (fun u => dkey 0x2010 (2 + u))) s t ∧ t.mem = s.mem) ∧
      (WriteOk s p 0x2011 1 1 2 (preMode s) → ∃ t, exec (.discard p) s = .next t ∧ t.frames.staged = [] ∧
        (∀ u, u < 4 → modeState t u = if modeState s u = 1 then 0 else modeState s u) ∧ t.mem = s.mem)) ∧
    (clockOn s = true → modeState s 1 = 2 → ∀ v, SMap.get s.frames.staged (dkey 0x3070 1) 0 = v + 1 →
      ∃ t, exec (.modeApplied 1) s = .next t ∧ reg t 0x3070 1 = v ∧ modeState t 1 = 0 ∧
        SMap.get t.frames.staged (dkey 0x3070 1) 0 = 0 ∧ t.mem = s.mem) ∧
    (∀ u : Fin 4, u ≠ 1 → exec (.modeApplied u) s = .next s)

/-- R402 to R406, ADVANCE_SVN by R400, waiting windows by R347. That ATTEST leaves the nonce is the model's reading of R403. -/
def Obligations.SignedCommandsRunOnlyWhenTheyPass : Prop :=
  ∀ (s : State),
    let refused := fun (i : Instr) (r : Nat) => exec i s = .next { s with sec := { s.sec with result := some r } }
    (∀ (p : Path) (off : BitVec 32) (b : List Byte), dictLive s = true → checkAccess s p 0x9010 1 true true off.toNat b.length = 0 →
      (cmdStatus s = cRunning → exec (.signedCommand p off b) s = .next (emit s (.dictAnswer p dBusy []))) ∧
      (cmdStatus s ≠ cRunning → ∃ t, exec (.signedCommand p off b) s = .next t ∧
        (∀ j, j < b.length → domByte t 0x9010 1 (off.toNat + j) = b.getD j 0) ∧ t.mem = s.mem ∧ t.fuses = s.fuses ∧
        (off = 0 → b ≠ [] → cmdStatus t = cRunning ∧ t.sec.result = none ∧ t.sec.via = some p ∧
          SameEntriesBut [dkey 0x9010 3] s t) ∧
        (off ≠ 0 → t.dict = s.dict ∧ t.sec = s.sec))) ∧
    (∀ (c : SigCheck) (ch : BitVec 256) (code : Nat) (i : Instr),
      (code, i) ∈ [(1, Instr.attest), (2, .writeEntry c), (3, .scrub c), (4, .advanceSvn c), (5, .installOwnerKey c),
        (6, .debugUnlock c ch)] →
      (cmdReady s code = false → exec i s = .next s) ∧
      (cmdReady s code = true → code ≠ 1 →
        (cmdHeaderOk s = false → refused i cFormat) ∧
        (code = 3 → cmdPayloadLen s ≠ 0 → refused i cFormat) ∧
        (checkFields s true = cSerial → (refused i cFormat ∨ refused i cSerial)) ∧
        (checkFields s true = cNonce → (refused i cFormat ∨ refused i cNonce)))) ∧
    (∀ c : SigCheck, cmdReady s 3 = true → cmdPayloadLen s = 0 →
      (checkFields s true ≠ 0 → refused (.scrub c) (checkFields s true)) ∧
      (checkFields s true = 0 → ownerKeyOk s = false → refused (.scrub c) cKey) ∧
      (checkFields s true = 0 → ownerKeyOk s = true → c.sigOk = false → refused (.scrub c) cSignature) ∧
      (checkFields s true = 0 → ownerKeyOk s = true → c.sigOk = true → ∃ t, exec (.scrub c) s = .next t ∧
        t.sec.result = some cOk ∧ scrubbing t = true)) ∧
    (∀ c : SigCheck, cmdReady s 4 = true → checkFields s true = 0 → ownerKeyOk s = true → c.sigOk = true →
      cmdPayloadLen s = 1 → 1 ≤ payVal s 0 1 → payVal s 0 1 ≤ 3 →
      let k := payVal s 0 1 - 1
      ∃ t, exec (.advanceSvn c) s = .next t ∧
        SMap.get t.fuses.svn k 0 = max (SMap.get s.fuses.svn k 0) (SMap.get s.sec.svnRun k 0) ∧
        (∀ j, j ≠ k → SMap.get t.fuses.svn j 0 = SMap.get s.fuses.svn j 0) ∧ t.sec.result = some cOk ∧ t.dict = s.dict ∧ t.mem = s.mem) ∧
    (∀ c : SigCheck, cmdReady s 2 = true → checkFields s (writeEntryPayloadOk s) = 0 → ownerKeyOk s = true → c.sigOk = true →
      let r := writeEntryBytes s .signed (payVal s 0 2) (payVal s 2 1) (cmdBytes s 5384 (payVal s 4 4))
      ∃ t, exec (.writeEntry c) s = .next t ∧ t.sec.result = some cOk ∧ reg t 0x9010 4 = r.1 ∧
        SameEntriesBut [dkey 0x9010 4] r.2 t ∧ t.mem = r.2.mem ∧ (r.1 ≠ 0 → SameEntriesBut [dkey 0x9010 4] s t)) ∧
    (∀ c : SigCheck, cmdReady s 5 = true → checkFields s (cmdPayloadLen s == 32) = 0 →
      ((activeSlot s).isNone = true → (s.sec.via ≠ some .slotA ∨ (unusedSlot s).isNone = true) →
        refused (.installOwnerKey c) cRefused) ∧
      ((activeSlot s).isSome = true → ownerKeyOk s = true → c.sigOk = true → (unusedSlot s).isNone = true →
        refused (.installOwnerKey c) cRefused) ∧
      (checkInstall s c = 0 → ∃ t, exec (.installOwnerKey c) s = .next t ∧ t.sec.pendingHash = some (payVal s 0 32) ∧
        scrubbing t = true ∧ t.sec.result = some cOk ∧ t.fuses = s.fuses)) ∧
    (∀ (c : SigCheck) (ch : BitVec 256), cmdReady s 6 = true → checkUnlock s c = 0 → ∃ t, exec (.debugUnlock c ch) s = .next t ∧
      t.sec.result = some cOk ∧ reg t 0x9030 1 = ch.toNat ∧
      (payVal s 0 1 = 1 → reg t 0x9030 2 = max 1 (reg s 0x9030 2) ∧ t.sec.keyErased = s.sec.keyErased) ∧
      (payVal s 0 1 ≠ 1 → t.sec.keyErased = true ∧ t.sec.pendingUnlock = true ∧ scrubbing t = true ∧
        reg t 0x9030 2 = reg s 0x9030 2)) ∧
    (cmdReady s 1 = true →
      (attestFieldsOk s = false → refused .attest cFormat) ∧
      (attestFieldsOk s = true → identityUsable s = false → refused .attest cNoIdentity) ∧
      (attestFieldsOk s = true → identityUsable s = true → ∃ t, exec .attest s = .next t ∧ t.sec.reportDue = true ∧
        t.sec.reportNonce = BitVec.ofNat 256 (payVal s 0 32) ∧ t.sec.result = some cOk ∧ t = { s with sec := t.sec })) ∧
    (∀ (sig : List Byte) (dg : BitVec 256), clockOn s = true → s.sec.reportDue = true →
      let rep := padTo 4096 (reportBody s dg ++ padTo 3309 sig)
      ∃ t, exec (.attestationReportReady sig dg) s = .next t ∧ (∀ j, j < 4096 → domByte t 0x9020 1 j = rep.getD j 0) ∧
        t.sec.reportDue = false ∧ t.dict = s.dict ∧ t.mem = s.mem) ∧
    (∀ (c : SigCheck) (r : Nat), clockOn s = true → cmdStatus s = cRunning → s.sec.result = some r →
      (cmdWaits s = true → exec (.signedCommandEnded c) s = .next s) ∧
      (cmdWaits s = false → ∃ t, exec (.signedCommandEnded c) s = .next t ∧ cmdStatus t = r ∧ t.sec.result = none ∧
        reg t 0x9010 2 = (if r = cOk ∧ cmdCode s ≠ 1 then (reg s 0x9010 2 + 1) % 2 ^ 64 else reg s 0x9010 2) ∧
        reg t 0x8100 2 = (if r = cOk then reg s 0x8100 2 else reg s 0x8100 2 + 1) ∧ t.mem = s.mem ∧
        (s.sec.pendingUnlock = true → reg t 0x9030 2 = max 2 (reg s 0x9030 2)) ∧
        (∀ h n, s.sec.pendingHash = some h → unusedSlot s = some n → SMap.get t.fuses.ownerHash n 0 = h ∧
          SMap.get t.fuses.ownerState n 0 = 1 ∧ ∀ k, activeSlot s = some k → k ≠ n → SMap.get t.fuses.ownerState k 0 = 2))) ∧
    (∀ c : SigCheck, clockOn s = true → cmdStatus s = cRunning → s.sec.result = none → (cmdCode s = 0 ∨ 6 < cmdCode s) →
      ∃ t, exec (.signedCommandEnded c) s = .next t ∧ cmdStatus t = cFormat ∧ t.mem = s.mem ∧ t.fuses = s.fuses) ∧
    (∀ op : TapOp, s.aon.up = true →
      (tapOffers s op = true → exec (.tapInstruction op) s =
        .next { s with sec := { s.sec with tapIr := op }, out := s.out ++ [.tap op true] }) ∧
      (tapOffers s op = false → exec (.tapInstruction op) s = .next (emit s (.tap op false))))

/-- R388 and R390 to R394. -/
def Obligations.SelfTestsClassifyRepairAndRetire : Prop :=
  ∀ (s : State),
    (∀ (p : Path) (v : Byte), WriteOk s p 0x8000 2 1 v.toNat 0 →
      (v = 1 → ∃ t, exec (.faultAck p v) s = .next t ∧ t.rel.faultDrive = false ∧ condOf t (src 18 1) = s.pins.faultNLow ∧
        t.dict = s.dict ∧ t.mem = s.mem) ∧
      (v ≠ 1 → exec (.faultAck p v) s = .next (answered s p))) ∧
    (∀ low : Bool, ∃ t, exec (.faultNChange low) s = .next t ∧ t.pins = { s.pins with faultNLow := low } ∧
      (s.aon.up = true → condOf t (src 18 1) = (low || s.rel.faultDrive)) ∧ t.dict = s.dict ∧ t.mem = s.mem ∧ t.rel = s.rel) ∧
    (∀ (unit : Fin 64) (x : Test), s.rel.tests.find? (fun t => t.unit == unit.val && !t.running) = some x →
      (testsRun s = false → exec (.targetedSelfTestStart unit) s = .next s) ∧
      (testsRun s = true → s.rel.tests.any (fun y => y.running && y.unit == x.unit) = false →
        (siteRetired s x = true → ∃ t, exec (.targetedSelfTestStart unit) s = .next t ∧ t.rel.tests = s.rel.tests.erase x ∧
          t.mem = s.mem ∧ t.ops = s.ops) ∧
        (siteRetired s x = false → mayStartTest s x = true → ∃ t, exec (.targetedSelfTestStart unit) s = .next t ∧
          t.rel.tests.length = s.rel.tests.length ∧ { x with running := true } ∈ t.rel.tests ∧ t = { s with rel := { s.rel with tests := t.rel.tests } }) ∧
        (siteRetired s x = false → mayStartTest s x = false → exec (.targetedSelfTestStart unit) s = .next s))) ∧
    (∀ (unit : Fin 64) (r : TestResult) (x : Test), testsRun s = true →
      s.rel.tests.find? (fun t => t.unit == unit.val && t.running && t.kind != .lane) = some x →
      (∃ t, exec (.targetedSelfTestEnd unit r) s = .next t ∧ reg t 0x8000 8 = (reg s 0x8000 8 + 1) % 2 ^ 64 ∧ t.mem = s.mem) ∧
      (outcomeOf s x (testPasses x r) = 1 → ∃ t, exec (.targetedSelfTestEnd unit r) s = .next t ∧ t.rel.tests = s.rel.tests.erase x ∧
        t.rel.retired = s.rel.retired ∧ (∀ a, a < 4 → recordsOf t a = recordsOf s a) ∧ t.hbm = s.hbm ∧ t.ops = s.ops) ∧
      (r.pass = false → x.kind = .loamMarch → 60 ≤ x.unit → ∃ t, exec (.targetedSelfTestEnd unit r) s = .next t ∧
        isRetired t x.loc = true)) ∧
    (∀ (p : PortId) (ratio : BitVec 32) (lo hi : Bool) (x : Test), testsRun s = true →
      s.rel.tests.find? (fun t => t.unit == 32 + p.val && t.running && t.kind == .lane) = some x →
      ∃ t, exec (.laneErrorRateCheckEnd p ratio lo hi) s = .next t ∧ reg t (0x7020 + p) 9 = ratio.toNat ∧
        reg t 0x8000 8 = (reg s 0x8000 8 + 1) % 2 ^ 64 ∧ t.mem = s.mem ∧
        ((lo && hi) = false → (lo = false → (linkOf t p).badLow = true) ∧ (hi = false → (linkOf t p).badHigh = true))) ∧
    (∀ (p : Path) (off : BitVec 32) (b : List Byte), dictLive s = true →
      checkAccess s p 0x8200 1 true true off.toNat b.length = 0 → off.toNat % 16 = 0 → b.length % 16 = 0 →
      off.toNat + b.length ≤ 16384 →
      let bad := (List.range (b.length / 16)).any (fun j => entryBad (retiredEntry s (off.toNat / 16 + j)) (newEntry b j))
      (bad = true → exec (.retiredListWrite p off b) s = .next (emit s (.dictAnswer p dRange []))) ∧
      (bad = false → ∃ t, exec (.retiredListWrite p off b) s = .next t ∧ t.mem = s.mem ∧
        ∀ j, j < b.length / 16 → retiredEntry s (off.toNat / 16 + j) % 256 = 0 →
          let e := newEntry b j
          (e % 256 = 1 → inLoam (fld e 127 64) = true → isRetired t (fld e 127 64) = true) ∧
          (e % 256 = 2 → inHbm (fld e 127 64) = true → ∀ a ∈ rowLines (hbmOf (fld e 127 64)), isRetired t a = true))) ∧
    (∀ (p : Path) (off : BitVec 32) (b : List Byte), dictLive s = true → checkAccess s p 0x8200 1 true true off.toNat b.length = 0 →
      (off.toNat % 16 ≠ 0 ∨ b.length % 16 ≠ 0) →
      exec (.retiredListWrite p off b) s = .next (emit s (.dictAnswer p dLength [])))
end

