-- ==== Sys2Proof/Laws/Store.lean ====
section
/-! SUPPORT. Sparse maps: reading after a write, and the canonical form kept by every operation. -/

namespace Sys2Proof.Machine

variable {α : Type}

@[simp] theorem SMap.has_nil (k : Nat) : SMap.has ([] : SMap α) k = false := rfl

@[simp] theorem SMap.has_cons (j : Nat) (v : α) (m : SMap α) (k : Nat) :
    SMap.has ((j, v) :: m) k = (j == k || SMap.has m k) := rfl

theorem SMap.get_append (a b : SMap α) (k : Nat) (d : α) :
    SMap.get (a ++ b) k d = if SMap.has a k then SMap.get a k d else SMap.get b k d := by
  induction a with
  | nil => simp
  | cons e a ih =>
    obtain ⟨j, v⟩ := e
    by_cases h : j = k
    · simp [SMap.get, h]
    · have hb : (j == k) = false := by simpa using h
      simp [SMap.get, h, hb, ih]

theorem SMap.get_of_not_has {m : SMap α} {k : Nat} (d : α) (h : SMap.has m k = false) : SMap.get m k d = d := by
  induction m with
  | nil => rfl
  | cons e m ih =>
    obtain ⟨j, v⟩ := e
    simp at h
    simp [SMap.get, h.1, ih h.2]

theorem SMap.get_filter (m : SMap α) (k : Nat) (d : α) (p : Nat → Bool) :
    SMap.get (m.filter (fun e => p e.1)) k d = if p k then SMap.get m k d else d := by
  induction m with
  | nil => simp [SMap.get]
  | cons e m ih =>
    obtain ⟨j, v⟩ := e
    rw [List.filter_cons]
    by_cases hj : j = k
    · subst hj
      by_cases hp : p j
      · simp [SMap.get, hp]
      · simp [hp, ih]
    · by_cases hp : p j <;> simp [SMap.get, hp, hj, ih]

theorem SMap.has_filter (m : SMap α) (k : Nat) (p : Nat → Bool) :
    SMap.has (m.filter (fun e => p e.1)) k = (p k && SMap.has m k) := by
  induction m with
  | nil => simp
  | cons e m ih =>
    obtain ⟨j, v⟩ := e
    rw [List.filter_cons]
    by_cases hj : j = k
    · subst hj; by_cases hp : p j <;> simp [hp, ih]
    · have hb : (j == k) = false := by simpa using hj
      by_cases hp : p j <;> simp [hp, ih, hb]

/-- What a key reads as after a write. -/
theorem SMap.get_set [DecidableEq α] (m : SMap α) (k j : Nat) (v d : α) :
    SMap.get (SMap.set m k v d) j d = if j = k then v else SMap.get m j d := by
  have h1 := SMap.has_filter m j (fun x => decide (x < k))
  have h2 := SMap.get_filter m j d (fun x => decide (x < k))
  have h3 := SMap.get_filter m j d (fun x => decide (k < x))
  unfold SMap.set
  rw [SMap.get_append, SMap.get_append, h1, h2, h3]
  by_cases hjk : j = k
  · subst hjk
    by_cases hv : v = d <;> simp [hv, SMap.get, SMap.has]
  · have hh : SMap.has (if v = d then ([] : SMap α) else [(k, v)]) j = false := by
      by_cases hv : v = d <;> simp [hv, SMap.has]; omega
    rw [hh]
    by_cases hm : SMap.has m j
    · by_cases hlt : j < k
      · simp [hlt, hm, hjk]
      · have : k < j := by omega
        simp [hlt, this, hjk]
    · have hn := SMap.get_of_not_has d (by simpa using hm)
      simp [hm, hjk, hn]

@[simp] theorem SMap.get_set_same [DecidableEq α] (m : SMap α) (k : Nat) (v d : α) :
    SMap.get (SMap.set m k v d) k d = v := by simp [SMap.get_set]

theorem SMap.get_set_ne [DecidableEq α] (m : SMap α) {k j : Nat} (v d : α) (h : j ≠ k) :
    SMap.get (SMap.set m k v d) j d = SMap.get m j d := by simp [SMap.get_set, h]

/-- A write leaves every other key, whatever an unlisted one reads as. -/
theorem SMap.get_set_other [DecidableEq α] (m : SMap α) {k j : Nat} (v d : α) (h : j ≠ k) (d' : α) :
    SMap.get (SMap.set m k v d) j d' = SMap.get m j d' := by
  have h1 := SMap.has_filter m j (fun x => decide (x < k))
  have h2 := SMap.get_filter m j d' (fun x => decide (x < k))
  have h3 := SMap.get_filter m j d' (fun x => decide (k < x))
  unfold SMap.set
  rw [SMap.get_append, SMap.get_append, h1, h2, h3]
  have hh : SMap.has (if v = d then ([] : SMap α) else [(k, v)]) j = false := by
    by_cases hv : v = d <;> simp [hv]; omega
  rw [hh]
  by_cases hlt : j < k
  · by_cases hm : SMap.has m j
    · simp [hlt, hm]
    · have hn := SMap.get_of_not_has d' (by simpa using hm)
      have : ¬ k < j := by omega
      simp [hm, this, hn]
  · have : k < j := by omega
    simp [hlt, this]

theorem SMap.find_append (a b : SMap α) (k : Nat) : SMap.find (a ++ b) k = (SMap.find a k).or (SMap.find b k) := by
  induction a with
  | nil => simp [SMap.find]
  | cons e a ih =>
    obtain ⟨j, v⟩ := e
    by_cases h : j = k <;> simp [SMap.find, h, ih]

theorem SMap.find_filter (m : SMap α) (k : Nat) (p : Nat → Bool) :
    SMap.find (m.filter (fun e => p e.1)) k = if p k then SMap.find m k else none := by
  induction m with
  | nil => simp [SMap.find]
  | cons e m ih =>
    obtain ⟨j, v⟩ := e
    rw [List.filter_cons]
    by_cases hj : j = k
    · subst hj
      by_cases hp : p j <;> simp [SMap.find, hp, ih]
    · by_cases hp : p j <;> simp [SMap.find, hp, hj, ih]

/-- What is listed at a key after an entry is put. -/
theorem SMap.find_put (m : SMap α) (k j : Nat) (v : α) :
    SMap.find (SMap.put m k v) j = if j = k then some v else SMap.find m j := by
  have h2 := SMap.find_filter m j (fun x => decide (x < k))
  have h3 := SMap.find_filter m j (fun x => decide (k < x))
  unfold SMap.put
  rw [SMap.find_append, h2]
  by_cases hjk : j = k
  · subst hjk; simp [SMap.find]
  · have hkj : ¬ k = j := fun h => hjk h.symm
    simp only [SMap.find, hkj, if_false, h3, hjk]
    rcases Nat.lt_or_gt_of_ne hjk with h | h
    · have : ¬ k < j := by omega
      simp [h, this]
    · have : ¬ j < k := by omega
      simp [h, this]

theorem SMap.find_drop (m : SMap α) (k j : Nat) : SMap.find (SMap.drop m k) j = if j = k then none else SMap.find m j := by
  have h := SMap.find_filter m j (fun x => x != k)
  unfold SMap.drop
  rw [h]
  by_cases hjk : j = k <;> simp [hjk]

theorem SMap.wf_iff [DecidableEq α] (m : SMap α) (d : α) :
    SMap.wf m d = true ↔ m.Pairwise (fun a b => a.1 < b.1) ∧ ∀ e ∈ m, e.2 ≠ d := by
  simp [SMap.wf]

/-- Removing entries keeps the canonical form. -/
theorem SMap.wf_filter [DecidableEq α] {m : SMap α} {d : α} (p : Nat × α → Bool) (h : SMap.wf m d = true) :
    SMap.wf (m.filter p) d = true := by
  rw [SMap.wf_iff] at *
  refine ⟨h.1.filter p, fun e he => h.2 e (List.mem_filter.mp he).1⟩

/-- A write keeps the canonical form. -/
theorem SMap.wf_set [DecidableEq α] {m : SMap α} {d : α} (k : Nat) (v : α) (h : SMap.wf m d = true) :
    SMap.wf (SMap.set m k v d) d = true := by
  rw [SMap.wf_iff] at *
  obtain ⟨hp, hd⟩ := h
  unfold SMap.set
  refine ⟨?_, ?_⟩
  · rw [List.pairwise_append, List.pairwise_append]
    refine ⟨hp.filter _, ⟨?_, hp.filter _, ?_⟩, ?_⟩
    · by_cases hv : v = d <;> simp [hv]
    · intro a ha b hb
      by_cases hv : v = d <;> simp [hv] at ha hb
      subst ha; simpa using hb.2
    · intro a ha b hb
      simp at ha hb
      rcases hb with hb | hb
      · by_cases hv : v = d <;> simp [hv] at hb
        subst hb; exact ha.2
      · exact Nat.lt_trans ha.2 hb.2
  · intro e he
    simp at he
    rcases he with he | he | he
    · exact hd _ he.1
    · by_cases hv : v = d <;> simp [hv] at he
      subst he; exact hv
    · exact hd _ he.1

theorem SMap.wf_dropRange [DecidableEq α] {m : SMap α} {d : α} (lo hi : Nat) (h : SMap.wf m d = true) :
    SMap.wf (SMap.dropRange m lo hi) d = true := SMap.wf_filter _ h

theorem SMap.wf_drop [DecidableEq α] {m : SMap α} {d : α} (k : Nat) (h : SMap.wf m d = true) :
    SMap.wf (SMap.drop m k) d = true := SMap.wf_filter _ h

end Sys2Proof.Machine
end

