-- ==== Sys2Proof/Laws/State.lean ====
section
/-! SUPPORT. What the plain updates of the state leave alone: one lemma for each field and update, and what an accessor
reads after each. -/

namespace Sys2Proof.Machine

variable (s : State)

@[simp] theorem setReg_pending (i sub v : Nat) : (setReg s i sub v).pending = s.pending := rfl
@[simp] theorem setReg_pins (i sub v : Nat) : (setReg s i sub v).pins = s.pins := rfl
@[simp] theorem setReg_aon (i sub v : Nat) : (setReg s i sub v).aon = s.aon := rfl
@[simp] theorem setReg_bar (i sub v : Nat) : (setReg s i sub v).bar = s.bar := rfl
@[simp] theorem setReg_domains (i sub v : Nat) : (setReg s i sub v).domains = s.domains := rfl
@[simp] theorem setReg_mem (i sub v : Nat) : (setReg s i sub v).mem = s.mem := rfl
@[simp] theorem setReg_fuses (i sub v : Nat) : (setReg s i sub v).fuses = s.fuses := rfl
@[simp] theorem setReg_ops (i sub v : Nat) : (setReg s i sub v).ops = s.ops := rfl
@[simp] theorem setReg_ready (i sub v : Nat) : (setReg s i sub v).ready = s.ready := rfl
@[simp] theorem setReg_rrLast (i sub v : Nat) : (setReg s i sub v).rrLast = s.rrLast := rfl
@[simp] theorem setReg_ringPass (i sub v : Nat) : (setReg s i sub v).ringPass = s.ringPass := rfl
@[simp] theorem setReg_parts (i sub v : Nat) : (setReg s i sub v).parts = s.parts := rfl
@[simp] theorem setReg_arrays (i sub v : Nat) : (setReg s i sub v).arrays = s.arrays := rfl
@[simp] theorem setReg_engines (i sub v : Nat) : (setReg s i sub v).engines = s.engines := rfl
@[simp] theorem setReg_caps (i sub v : Nat) : (setReg s i sub v).caps = s.caps := rfl
@[simp] theorem setReg_fidWin (i sub v : Nat) : (setReg s i sub v).fidWin = s.fidWin := rfl
@[simp] theorem setReg_ctxs (i sub v : Nat) : (setReg s i sub v).ctxs = s.ctxs := rfl
@[simp] theorem setReg_hbm (i sub v : Nat) : (setReg s i sub v).hbm = s.hbm := rfl
@[simp] theorem setReg_sync (i sub v : Nat) : (setReg s i sub v).sync = s.sync := rfl
@[simp] theorem setReg_syncPoison (i sub v : Nat) : (setReg s i sub v).syncPoison = s.syncPoison := rfl
@[simp] theorem setReg_waits (i sub v : Nat) : (setReg s i sub v).waits = s.waits := rfl
@[simp] theorem setReg_rtCache (i sub v : Nat) : (setReg s i sub v).rtCache = s.rtCache := rfl
@[simp] theorem setReg_rrCache (i sub v : Nat) : (setReg s i sub v).rrCache = s.rrCache := rfl
@[simp] theorem setReg_reservations (i sub v : Nat) : (setReg s i sub v).reservations = s.reservations := rfl
@[simp] theorem setReg_fab (i sub v : Nat) : (setReg s i sub v).fab = s.fab := rfl
@[simp] theorem setReg_ranks (i sub v : Nat) : (setReg s i sub v).ranks = s.ranks := rfl
@[simp] theorem setReg_tables (i sub v : Nat) : (setReg s i sub v).tables = s.tables := rfl
@[simp] theorem setReg_buckets (i sub v : Nat) : (setReg s i sub v).buckets = s.buckets := rfl
@[simp] theorem setReg_colls (i sub v : Nat) : (setReg s i sub v).colls = s.colls := rfl
@[simp] theorem setReg_barriers (i sub v : Nat) : (setReg s i sub v).barriers = s.barriers := rfl
@[simp] theorem setReg_upd (i sub v : Nat) : (setReg s i sub v).upd = s.upd := rfl
@[simp] theorem setReg_images (i sub v : Nat) : (setReg s i sub v).images = s.images := rfl
@[simp] theorem setReg_ctxRuns (i sub v : Nat) : (setReg s i sub v).ctxRuns = s.ctxRuns := rfl
@[simp] theorem setReg_irq (i sub v : Nat) : (setReg s i sub v).irq = s.irq := rfl
@[simp] theorem setReg_arb (i sub v : Nat) : (setReg s i sub v).arb = s.arb := rfl
@[simp] theorem setReg_frames (i sub v : Nat) : (setReg s i sub v).frames = s.frames := rfl
@[simp] theorem setReg_power (i sub v : Nat) : (setReg s i sub v).power = s.power := rfl
@[simp] theorem setReg_rel (i sub v : Nat) : (setReg s i sub v).rel = s.rel := rfl
@[simp] theorem setReg_sec (i sub v : Nat) : (setReg s i sub v).sec = s.sec := rfl
@[simp] theorem setReg_hostIf (i sub v : Nat) : (setReg s i sub v).hostIf = s.hostIf := rfl
@[simp] theorem setReg_out (i sub v : Nat) : (setReg s i sub v).out = s.out := rfl
@[simp] theorem setReg_freeCtr (i sub v : Nat) : (setReg s i sub v).freeCtr = s.freeCtr := rfl
@[simp] theorem bget_setReg (i sub v : Nat) (off' : Nat) : bget (setReg s i sub v) off' = bget s off' := rfl
@[simp] theorem memByte_setReg (i sub v : Nat) (a' : Nat) : memByte (setReg s i sub v) a' = memByte s a' := rfl
@[simp] theorem engineOf_setReg (i sub v : Nat) (n' : Nat) : engineOf (setReg s i sub v) n' = engineOf s n' := rfl
@[simp] theorem findOp_setReg (i sub v : Nat) (tag' : Nat) : findOp (setReg s i sub v) tag' = findOp s tag' := rfl

@[simp] theorem bset_pending (off v : Nat) : (bset s off v).pending = s.pending := rfl
@[simp] theorem bset_pins (off v : Nat) : (bset s off v).pins = s.pins := rfl
@[simp] theorem bset_aon (off v : Nat) : (bset s off v).aon = s.aon := rfl
@[simp] theorem bset_dict (off v : Nat) : (bset s off v).dict = s.dict := rfl
@[simp] theorem bset_domains (off v : Nat) : (bset s off v).domains = s.domains := rfl
@[simp] theorem bset_mem (off v : Nat) : (bset s off v).mem = s.mem := rfl
@[simp] theorem bset_fuses (off v : Nat) : (bset s off v).fuses = s.fuses := rfl
@[simp] theorem bset_ops (off v : Nat) : (bset s off v).ops = s.ops := rfl
@[simp] theorem bset_ready (off v : Nat) : (bset s off v).ready = s.ready := rfl
@[simp] theorem bset_rrLast (off v : Nat) : (bset s off v).rrLast = s.rrLast := rfl
@[simp] theorem bset_ringPass (off v : Nat) : (bset s off v).ringPass = s.ringPass := rfl
@[simp] theorem bset_parts (off v : Nat) : (bset s off v).parts = s.parts := rfl
@[simp] theorem bset_arrays (off v : Nat) : (bset s off v).arrays = s.arrays := rfl
@[simp] theorem bset_engines (off v : Nat) : (bset s off v).engines = s.engines := rfl
@[simp] theorem bset_caps (off v : Nat) : (bset s off v).caps = s.caps := rfl
@[simp] theorem bset_fidWin (off v : Nat) : (bset s off v).fidWin = s.fidWin := rfl
@[simp] theorem bset_ctxs (off v : Nat) : (bset s off v).ctxs = s.ctxs := rfl
@[simp] theorem bset_hbm (off v : Nat) : (bset s off v).hbm = s.hbm := rfl
@[simp] theorem bset_sync (off v : Nat) : (bset s off v).sync = s.sync := rfl
@[simp] theorem bset_syncPoison (off v : Nat) : (bset s off v).syncPoison = s.syncPoison := rfl
@[simp] theorem bset_waits (off v : Nat) : (bset s off v).waits = s.waits := rfl
@[simp] theorem bset_rtCache (off v : Nat) : (bset s off v).rtCache = s.rtCache := rfl
@[simp] theorem bset_rrCache (off v : Nat) : (bset s off v).rrCache = s.rrCache := rfl
@[simp] theorem bset_reservations (off v : Nat) : (bset s off v).reservations = s.reservations := rfl
@[simp] theorem bset_fab (off v : Nat) : (bset s off v).fab = s.fab := rfl
@[simp] theorem bset_ranks (off v : Nat) : (bset s off v).ranks = s.ranks := rfl
@[simp] theorem bset_tables (off v : Nat) : (bset s off v).tables = s.tables := rfl
@[simp] theorem bset_buckets (off v : Nat) : (bset s off v).buckets = s.buckets := rfl
@[simp] theorem bset_colls (off v : Nat) : (bset s off v).colls = s.colls := rfl
@[simp] theorem bset_barriers (off v : Nat) : (bset s off v).barriers = s.barriers := rfl
@[simp] theorem bset_upd (off v : Nat) : (bset s off v).upd = s.upd := rfl
@[simp] theorem bset_images (off v : Nat) : (bset s off v).images = s.images := rfl
@[simp] theorem bset_ctxRuns (off v : Nat) : (bset s off v).ctxRuns = s.ctxRuns := rfl
@[simp] theorem bset_irq (off v : Nat) : (bset s off v).irq = s.irq := rfl
@[simp] theorem bset_arb (off v : Nat) : (bset s off v).arb = s.arb := rfl
@[simp] theorem bset_frames (off v : Nat) : (bset s off v).frames = s.frames := rfl
@[simp] theorem bset_power (off v : Nat) : (bset s off v).power = s.power := rfl
@[simp] theorem bset_rel (off v : Nat) : (bset s off v).rel = s.rel := rfl
@[simp] theorem bset_sec (off v : Nat) : (bset s off v).sec = s.sec := rfl
@[simp] theorem bset_hostIf (off v : Nat) : (bset s off v).hostIf = s.hostIf := rfl
@[simp] theorem bset_out (off v : Nat) : (bset s off v).out = s.out := rfl
@[simp] theorem bset_freeCtr (off v : Nat) : (bset s off v).freeCtr = s.freeCtr := rfl
@[simp] theorem reg_bset (off v : Nat) (i' sub' : Nat) : reg (bset s off v) i' sub' = reg s i' sub' := rfl
@[simp] theorem memByte_bset (off v : Nat) (a' : Nat) : memByte (bset s off v) a' = memByte s a' := rfl
@[simp] theorem engineOf_bset (off v : Nat) (n' : Nat) : engineOf (bset s off v) n' = engineOf s n' := rfl
@[simp] theorem findOp_bset (off v : Nat) (tag' : Nat) : findOp (bset s off v) tag' = findOp s tag' := rfl

@[simp] theorem emit_pending (o : Output) : (emit s o).pending = s.pending := rfl
@[simp] theorem emit_pins (o : Output) : (emit s o).pins = s.pins := rfl
@[simp] theorem emit_aon (o : Output) : (emit s o).aon = s.aon := rfl
@[simp] theorem emit_dict (o : Output) : (emit s o).dict = s.dict := rfl
@[simp] theorem emit_bar (o : Output) : (emit s o).bar = s.bar := rfl
@[simp] theorem emit_domains (o : Output) : (emit s o).domains = s.domains := rfl
@[simp] theorem emit_mem (o : Output) : (emit s o).mem = s.mem := rfl
@[simp] theorem emit_fuses (o : Output) : (emit s o).fuses = s.fuses := rfl
@[simp] theorem emit_ops (o : Output) : (emit s o).ops = s.ops := rfl
@[simp] theorem emit_ready (o : Output) : (emit s o).ready = s.ready := rfl
@[simp] theorem emit_rrLast (o : Output) : (emit s o).rrLast = s.rrLast := rfl
@[simp] theorem emit_ringPass (o : Output) : (emit s o).ringPass = s.ringPass := rfl
@[simp] theorem emit_parts (o : Output) : (emit s o).parts = s.parts := rfl
@[simp] theorem emit_arrays (o : Output) : (emit s o).arrays = s.arrays := rfl
@[simp] theorem emit_engines (o : Output) : (emit s o).engines = s.engines := rfl
@[simp] theorem emit_caps (o : Output) : (emit s o).caps = s.caps := rfl
@[simp] theorem emit_fidWin (o : Output) : (emit s o).fidWin = s.fidWin := rfl
@[simp] theorem emit_ctxs (o : Output) : (emit s o).ctxs = s.ctxs := rfl
@[simp] theorem emit_hbm (o : Output) : (emit s o).hbm = s.hbm := rfl
@[simp] theorem emit_sync (o : Output) : (emit s o).sync = s.sync := rfl
@[simp] theorem emit_syncPoison (o : Output) : (emit s o).syncPoison = s.syncPoison := rfl
@[simp] theorem emit_waits (o : Output) : (emit s o).waits = s.waits := rfl
@[simp] theorem emit_rtCache (o : Output) : (emit s o).rtCache = s.rtCache := rfl
@[simp] theorem emit_rrCache (o : Output) : (emit s o).rrCache = s.rrCache := rfl
@[simp] theorem emit_reservations (o : Output) : (emit s o).reservations = s.reservations := rfl
@[simp] theorem emit_fab (o : Output) : (emit s o).fab = s.fab := rfl
@[simp] theorem emit_ranks (o : Output) : (emit s o).ranks = s.ranks := rfl
@[simp] theorem emit_tables (o : Output) : (emit s o).tables = s.tables := rfl
@[simp] theorem emit_buckets (o : Output) : (emit s o).buckets = s.buckets := rfl
@[simp] theorem emit_colls (o : Output) : (emit s o).colls = s.colls := rfl
@[simp] theorem emit_barriers (o : Output) : (emit s o).barriers = s.barriers := rfl
@[simp] theorem emit_upd (o : Output) : (emit s o).upd = s.upd := rfl
@[simp] theorem emit_images (o : Output) : (emit s o).images = s.images := rfl
@[simp] theorem emit_ctxRuns (o : Output) : (emit s o).ctxRuns = s.ctxRuns := rfl
@[simp] theorem emit_irq (o : Output) : (emit s o).irq = s.irq := rfl
@[simp] theorem emit_arb (o : Output) : (emit s o).arb = s.arb := rfl
@[simp] theorem emit_frames (o : Output) : (emit s o).frames = s.frames := rfl
@[simp] theorem emit_power (o : Output) : (emit s o).power = s.power := rfl
@[simp] theorem emit_rel (o : Output) : (emit s o).rel = s.rel := rfl
@[simp] theorem emit_sec (o : Output) : (emit s o).sec = s.sec := rfl
@[simp] theorem emit_hostIf (o : Output) : (emit s o).hostIf = s.hostIf := rfl
@[simp] theorem emit_freeCtr (o : Output) : (emit s o).freeCtr = s.freeCtr := rfl
@[simp] theorem reg_emit (o : Output) (i' sub' : Nat) : reg (emit s o) i' sub' = reg s i' sub' := rfl
@[simp] theorem bget_emit (o : Output) (off' : Nat) : bget (emit s o) off' = bget s off' := rfl
@[simp] theorem memByte_emit (o : Output) (a' : Nat) : memByte (emit s o) a' = memByte s a' := rfl
@[simp] theorem engineOf_emit (o : Output) (n' : Nat) : engineOf (emit s o) n' = engineOf s n' := rfl
@[simp] theorem findOp_emit (o : Output) (tag' : Nat) : findOp (emit s o) tag' = findOp s tag' := rfl

@[simp] theorem domWrite_pending (i sub off : Nat) (l : List Byte) : (domWrite s i sub off l).pending = s.pending := rfl
@[simp] theorem domWrite_pins (i sub off : Nat) (l : List Byte) : (domWrite s i sub off l).pins = s.pins := rfl
@[simp] theorem domWrite_aon (i sub off : Nat) (l : List Byte) : (domWrite s i sub off l).aon = s.aon := rfl
@[simp] theorem domWrite_dict (i sub off : Nat) (l : List Byte) : (domWrite s i sub off l).dict = s.dict := rfl
@[simp] theorem domWrite_bar (i sub off : Nat) (l : List Byte) : (domWrite s i sub off l).bar = s.bar := rfl
@[simp] theorem domWrite_mem (i sub off : Nat) (l : List Byte) : (domWrite s i sub off l).mem = s.mem := rfl
@[simp] theorem domWrite_fuses (i sub off : Nat) (l : List Byte) : (domWrite s i sub off l).fuses = s.fuses := rfl
@[simp] theorem domWrite_ops (i sub off : Nat) (l : List Byte) : (domWrite s i sub off l).ops = s.ops := rfl
@[simp] theorem domWrite_ready (i sub off : Nat) (l : List Byte) : (domWrite s i sub off l).ready = s.ready := rfl
@[simp] theorem domWrite_rrLast (i sub off : Nat) (l : List Byte) : (domWrite s i sub off l).rrLast = s.rrLast := rfl
@[simp] theorem domWrite_ringPass (i sub off : Nat) (l : List Byte) : (domWrite s i sub off l).ringPass = s.ringPass := rfl
@[simp] theorem domWrite_parts (i sub off : Nat) (l : List Byte) : (domWrite s i sub off l).parts = s.parts := rfl
@[simp] theorem domWrite_arrays (i sub off : Nat) (l : List Byte) : (domWrite s i sub off l).arrays = s.arrays := rfl
@[simp] theorem domWrite_engines (i sub off : Nat) (l : List Byte) : (domWrite s i sub off l).engines = s.engines := rfl
@[simp] theorem domWrite_caps (i sub off : Nat) (l : List Byte) : (domWrite s i sub off l).caps = s.caps := rfl
@[simp] theorem domWrite_fidWin (i sub off : Nat) (l : List Byte) : (domWrite s i sub off l).fidWin = s.fidWin := rfl
@[simp] theorem domWrite_ctxs (i sub off : Nat) (l : List Byte) : (domWrite s i sub off l).ctxs = s.ctxs := rfl
@[simp] theorem domWrite_hbm (i sub off : Nat) (l : List Byte) : (domWrite s i sub off l).hbm = s.hbm := rfl
@[simp] theorem domWrite_sync (i sub off : Nat) (l : List Byte) : (domWrite s i sub off l).sync = s.sync := rfl
@[simp] theorem domWrite_syncPoison (i sub off : Nat) (l : List Byte) : (domWrite s i sub off l).syncPoison = s.syncPoison := rfl
@[simp] theorem domWrite_waits (i sub off : Nat) (l : List Byte) : (domWrite s i sub off l).waits = s.waits := rfl
@[simp] theorem domWrite_rtCache (i sub off : Nat) (l : List Byte) : (domWrite s i sub off l).rtCache = s.rtCache := rfl
@[simp] theorem domWrite_rrCache (i sub off : Nat) (l : List Byte) : (domWrite s i sub off l).rrCache = s.rrCache := rfl
@[simp] theorem domWrite_reservations (i sub off : Nat) (l : List Byte) : (domWrite s i sub off l).reservations = s.reservations := rfl
@[simp] theorem domWrite_fab (i sub off : Nat) (l : List Byte) : (domWrite s i sub off l).fab = s.fab := rfl
@[simp] theorem domWrite_ranks (i sub off : Nat) (l : List Byte) : (domWrite s i sub off l).ranks = s.ranks := rfl
@[simp] theorem domWrite_tables (i sub off : Nat) (l : List Byte) : (domWrite s i sub off l).tables = s.tables := rfl
@[simp] theorem domWrite_buckets (i sub off : Nat) (l : List Byte) : (domWrite s i sub off l).buckets = s.buckets := rfl
@[simp] theorem domWrite_colls (i sub off : Nat) (l : List Byte) : (domWrite s i sub off l).colls = s.colls := rfl
@[simp] theorem domWrite_barriers (i sub off : Nat) (l : List Byte) : (domWrite s i sub off l).barriers = s.barriers := rfl
@[simp] theorem domWrite_upd (i sub off : Nat) (l : List Byte) : (domWrite s i sub off l).upd = s.upd := rfl
@[simp] theorem domWrite_images (i sub off : Nat) (l : List Byte) : (domWrite s i sub off l).images = s.images := rfl
@[simp] theorem domWrite_ctxRuns (i sub off : Nat) (l : List Byte) : (domWrite s i sub off l).ctxRuns = s.ctxRuns := rfl
@[simp] theorem domWrite_irq (i sub off : Nat) (l : List Byte) : (domWrite s i sub off l).irq = s.irq := rfl
@[simp] theorem domWrite_arb (i sub off : Nat) (l : List Byte) : (domWrite s i sub off l).arb = s.arb := rfl
@[simp] theorem domWrite_frames (i sub off : Nat) (l : List Byte) : (domWrite s i sub off l).frames = s.frames := rfl
@[simp] theorem domWrite_power (i sub off : Nat) (l : List Byte) : (domWrite s i sub off l).power = s.power := rfl
@[simp] theorem domWrite_rel (i sub off : Nat) (l : List Byte) : (domWrite s i sub off l).rel = s.rel := rfl
@[simp] theorem domWrite_sec (i sub off : Nat) (l : List Byte) : (domWrite s i sub off l).sec = s.sec := rfl
@[simp] theorem domWrite_hostIf (i sub off : Nat) (l : List Byte) : (domWrite s i sub off l).hostIf = s.hostIf := rfl
@[simp] theorem domWrite_out (i sub off : Nat) (l : List Byte) : (domWrite s i sub off l).out = s.out := rfl
@[simp] theorem domWrite_freeCtr (i sub off : Nat) (l : List Byte) : (domWrite s i sub off l).freeCtr = s.freeCtr := rfl
@[simp] theorem reg_domWrite (i sub off : Nat) (l : List Byte) (i' sub' : Nat) : reg (domWrite s i sub off l) i' sub' = reg s i' sub' := rfl
@[simp] theorem bget_domWrite (i sub off : Nat) (l : List Byte) (off' : Nat) : bget (domWrite s i sub off l) off' = bget s off' := rfl
@[simp] theorem memByte_domWrite (i sub off : Nat) (l : List Byte) (a' : Nat) : memByte (domWrite s i sub off l) a' = memByte s a' := rfl
@[simp] theorem engineOf_domWrite (i sub off : Nat) (l : List Byte) (n' : Nat) : engineOf (domWrite s i sub off l) n' = engineOf s n' := rfl
@[simp] theorem findOp_domWrite (i sub off : Nat) (l : List Byte) (tag' : Nat) : findOp (domWrite s i sub off l) tag' = findOp s tag' := rfl

@[simp] theorem nextFree_pending : (nextFree s).pending = s.pending := rfl
@[simp] theorem nextFree_pins : (nextFree s).pins = s.pins := rfl
@[simp] theorem nextFree_aon : (nextFree s).aon = s.aon := rfl
@[simp] theorem nextFree_dict : (nextFree s).dict = s.dict := rfl
@[simp] theorem nextFree_bar : (nextFree s).bar = s.bar := rfl
@[simp] theorem nextFree_domains : (nextFree s).domains = s.domains := rfl
@[simp] theorem nextFree_mem : (nextFree s).mem = s.mem := rfl
@[simp] theorem nextFree_fuses : (nextFree s).fuses = s.fuses := rfl
@[simp] theorem nextFree_ops : (nextFree s).ops = s.ops := rfl
@[simp] theorem nextFree_ready : (nextFree s).ready = s.ready := rfl
@[simp] theorem nextFree_rrLast : (nextFree s).rrLast = s.rrLast := rfl
@[simp] theorem nextFree_ringPass : (nextFree s).ringPass = s.ringPass := rfl
@[simp] theorem nextFree_parts : (nextFree s).parts = s.parts := rfl
@[simp] theorem nextFree_arrays : (nextFree s).arrays = s.arrays := rfl
@[simp] theorem nextFree_engines : (nextFree s).engines = s.engines := rfl
@[simp] theorem nextFree_caps : (nextFree s).caps = s.caps := rfl
@[simp] theorem nextFree_fidWin : (nextFree s).fidWin = s.fidWin := rfl
@[simp] theorem nextFree_ctxs : (nextFree s).ctxs = s.ctxs := rfl
@[simp] theorem nextFree_hbm : (nextFree s).hbm = s.hbm := rfl
@[simp] theorem nextFree_sync : (nextFree s).sync = s.sync := rfl
@[simp] theorem nextFree_syncPoison : (nextFree s).syncPoison = s.syncPoison := rfl
@[simp] theorem nextFree_waits : (nextFree s).waits = s.waits := rfl
@[simp] theorem nextFree_rtCache : (nextFree s).rtCache = s.rtCache := rfl
@[simp] theorem nextFree_rrCache : (nextFree s).rrCache = s.rrCache := rfl
@[simp] theorem nextFree_reservations : (nextFree s).reservations = s.reservations := rfl
@[simp] theorem nextFree_fab : (nextFree s).fab = s.fab := rfl
@[simp] theorem nextFree_ranks : (nextFree s).ranks = s.ranks := rfl
@[simp] theorem nextFree_tables : (nextFree s).tables = s.tables := rfl
@[simp] theorem nextFree_buckets : (nextFree s).buckets = s.buckets := rfl
@[simp] theorem nextFree_colls : (nextFree s).colls = s.colls := rfl
@[simp] theorem nextFree_barriers : (nextFree s).barriers = s.barriers := rfl
@[simp] theorem nextFree_upd : (nextFree s).upd = s.upd := rfl
@[simp] theorem nextFree_images : (nextFree s).images = s.images := rfl
@[simp] theorem nextFree_ctxRuns : (nextFree s).ctxRuns = s.ctxRuns := rfl
@[simp] theorem nextFree_irq : (nextFree s).irq = s.irq := rfl
@[simp] theorem nextFree_arb : (nextFree s).arb = s.arb := rfl
@[simp] theorem nextFree_frames : (nextFree s).frames = s.frames := rfl
@[simp] theorem nextFree_power : (nextFree s).power = s.power := rfl
@[simp] theorem nextFree_rel : (nextFree s).rel = s.rel := rfl
@[simp] theorem nextFree_sec : (nextFree s).sec = s.sec := rfl
@[simp] theorem nextFree_hostIf : (nextFree s).hostIf = s.hostIf := rfl
@[simp] theorem nextFree_out : (nextFree s).out = s.out := rfl
@[simp] theorem reg_nextFree (i' sub' : Nat) : reg (nextFree s) i' sub' = reg s i' sub' := rfl
@[simp] theorem bget_nextFree (off' : Nat) : bget (nextFree s) off' = bget s off' := rfl
@[simp] theorem memByte_nextFree (a' : Nat) : memByte (nextFree s) a' = memByte s a' := rfl
@[simp] theorem engineOf_nextFree (n' : Nat) : engineOf (nextFree s) n' = engineOf s n' := rfl
@[simp] theorem findOp_nextFree (tag' : Nat) : findOp (nextFree s) tag' = findOp s tag' := rfl

@[simp] theorem setEngine_pending (n : Nat) (e : Engine) : (setEngine s n e).pending = s.pending := rfl
@[simp] theorem setEngine_pins (n : Nat) (e : Engine) : (setEngine s n e).pins = s.pins := rfl
@[simp] theorem setEngine_aon (n : Nat) (e : Engine) : (setEngine s n e).aon = s.aon := rfl
@[simp] theorem setEngine_dict (n : Nat) (e : Engine) : (setEngine s n e).dict = s.dict := rfl
@[simp] theorem setEngine_bar (n : Nat) (e : Engine) : (setEngine s n e).bar = s.bar := rfl
@[simp] theorem setEngine_domains (n : Nat) (e : Engine) : (setEngine s n e).domains = s.domains := rfl
@[simp] theorem setEngine_mem (n : Nat) (e : Engine) : (setEngine s n e).mem = s.mem := rfl
@[simp] theorem setEngine_fuses (n : Nat) (e : Engine) : (setEngine s n e).fuses = s.fuses := rfl
@[simp] theorem setEngine_ops (n : Nat) (e : Engine) : (setEngine s n e).ops = s.ops := rfl
@[simp] theorem setEngine_ready (n : Nat) (e : Engine) : (setEngine s n e).ready = s.ready := rfl
@[simp] theorem setEngine_rrLast (n : Nat) (e : Engine) : (setEngine s n e).rrLast = s.rrLast := rfl
@[simp] theorem setEngine_ringPass (n : Nat) (e : Engine) : (setEngine s n e).ringPass = s.ringPass := rfl
@[simp] theorem setEngine_parts (n : Nat) (e : Engine) : (setEngine s n e).parts = s.parts := rfl
@[simp] theorem setEngine_arrays (n : Nat) (e : Engine) : (setEngine s n e).arrays = s.arrays := rfl
@[simp] theorem setEngine_caps (n : Nat) (e : Engine) : (setEngine s n e).caps = s.caps := rfl
@[simp] theorem setEngine_fidWin (n : Nat) (e : Engine) : (setEngine s n e).fidWin = s.fidWin := rfl
@[simp] theorem setEngine_ctxs (n : Nat) (e : Engine) : (setEngine s n e).ctxs = s.ctxs := rfl
@[simp] theorem setEngine_hbm (n : Nat) (e : Engine) : (setEngine s n e).hbm = s.hbm := rfl
@[simp] theorem setEngine_sync (n : Nat) (e : Engine) : (setEngine s n e).sync = s.sync := rfl
@[simp] theorem setEngine_syncPoison (n : Nat) (e : Engine) : (setEngine s n e).syncPoison = s.syncPoison := rfl
@[simp] theorem setEngine_waits (n : Nat) (e : Engine) : (setEngine s n e).waits = s.waits := rfl
@[simp] theorem setEngine_rtCache (n : Nat) (e : Engine) : (setEngine s n e).rtCache = s.rtCache := rfl
@[simp] theorem setEngine_rrCache (n : Nat) (e : Engine) : (setEngine s n e).rrCache = s.rrCache := rfl
@[simp] theorem setEngine_reservations (n : Nat) (e : Engine) : (setEngine s n e).reservations = s.reservations := rfl
@[simp] theorem setEngine_fab (n : Nat) (e : Engine) : (setEngine s n e).fab = s.fab := rfl
@[simp] theorem setEngine_ranks (n : Nat) (e : Engine) : (setEngine s n e).ranks = s.ranks := rfl
@[simp] theorem setEngine_tables (n : Nat) (e : Engine) : (setEngine s n e).tables = s.tables := rfl
@[simp] theorem setEngine_buckets (n : Nat) (e : Engine) : (setEngine s n e).buckets = s.buckets := rfl
@[simp] theorem setEngine_colls (n : Nat) (e : Engine) : (setEngine s n e).colls = s.colls := rfl
@[simp] theorem setEngine_barriers (n : Nat) (e : Engine) : (setEngine s n e).barriers = s.barriers := rfl
@[simp] theorem setEngine_upd (n : Nat) (e : Engine) : (setEngine s n e).upd = s.upd := rfl
@[simp] theorem setEngine_images (n : Nat) (e : Engine) : (setEngine s n e).images = s.images := rfl
@[simp] theorem setEngine_ctxRuns (n : Nat) (e : Engine) : (setEngine s n e).ctxRuns = s.ctxRuns := rfl
@[simp] theorem setEngine_irq (n : Nat) (e : Engine) : (setEngine s n e).irq = s.irq := rfl
@[simp] theorem setEngine_arb (n : Nat) (e : Engine) : (setEngine s n e).arb = s.arb := rfl
@[simp] theorem setEngine_frames (n : Nat) (e : Engine) : (setEngine s n e).frames = s.frames := rfl
@[simp] theorem setEngine_power (n : Nat) (e : Engine) : (setEngine s n e).power = s.power := rfl
@[simp] theorem setEngine_rel (n : Nat) (e : Engine) : (setEngine s n e).rel = s.rel := rfl
@[simp] theorem setEngine_sec (n : Nat) (e : Engine) : (setEngine s n e).sec = s.sec := rfl
@[simp] theorem setEngine_hostIf (n : Nat) (e : Engine) : (setEngine s n e).hostIf = s.hostIf := rfl
@[simp] theorem setEngine_out (n : Nat) (e : Engine) : (setEngine s n e).out = s.out := rfl
@[simp] theorem setEngine_freeCtr (n : Nat) (e : Engine) : (setEngine s n e).freeCtr = s.freeCtr := rfl
@[simp] theorem reg_setEngine (n : Nat) (e : Engine) (i' sub' : Nat) : reg (setEngine s n e) i' sub' = reg s i' sub' := rfl
@[simp] theorem bget_setEngine (n : Nat) (e : Engine) (off' : Nat) : bget (setEngine s n e) off' = bget s off' := rfl
@[simp] theorem memByte_setEngine (n : Nat) (e : Engine) (a' : Nat) : memByte (setEngine s n e) a' = memByte s a' := rfl
@[simp] theorem findOp_setEngine (n : Nat) (e : Engine) (tag' : Nat) : findOp (setEngine s n e) tag' = findOp s tag' := rfl

@[simp] theorem setPart_pending (k : Nat) (p : Partition) : (setPart s k p).pending = s.pending := rfl
@[simp] theorem setPart_pins (k : Nat) (p : Partition) : (setPart s k p).pins = s.pins := rfl
@[simp] theorem setPart_aon (k : Nat) (p : Partition) : (setPart s k p).aon = s.aon := rfl
@[simp] theorem setPart_dict (k : Nat) (p : Partition) : (setPart s k p).dict = s.dict := rfl
@[simp] theorem setPart_bar (k : Nat) (p : Partition) : (setPart s k p).bar = s.bar := rfl
@[simp] theorem setPart_domains (k : Nat) (p : Partition) : (setPart s k p).domains = s.domains := rfl
@[simp] theorem setPart_mem (k : Nat) (p : Partition) : (setPart s k p).mem = s.mem := rfl
@[simp] theorem setPart_fuses (k : Nat) (p : Partition) : (setPart s k p).fuses = s.fuses := rfl
@[simp] theorem setPart_ops (k : Nat) (p : Partition) : (setPart s k p).ops = s.ops := rfl
@[simp] theorem setPart_ready (k : Nat) (p : Partition) : (setPart s k p).ready = s.ready := rfl
@[simp] theorem setPart_rrLast (k : Nat) (p : Partition) : (setPart s k p).rrLast = s.rrLast := rfl
@[simp] theorem setPart_ringPass (k : Nat) (p : Partition) : (setPart s k p).ringPass = s.ringPass := rfl
@[simp] theorem setPart_arrays (k : Nat) (p : Partition) : (setPart s k p).arrays = s.arrays := rfl
@[simp] theorem setPart_engines (k : Nat) (p : Partition) : (setPart s k p).engines = s.engines := rfl
@[simp] theorem setPart_caps (k : Nat) (p : Partition) : (setPart s k p).caps = s.caps := rfl
@[simp] theorem setPart_fidWin (k : Nat) (p : Partition) : (setPart s k p).fidWin = s.fidWin := rfl
@[simp] theorem setPart_ctxs (k : Nat) (p : Partition) : (setPart s k p).ctxs = s.ctxs := rfl
@[simp] theorem setPart_hbm (k : Nat) (p : Partition) : (setPart s k p).hbm = s.hbm := rfl
@[simp] theorem setPart_sync (k : Nat) (p : Partition) : (setPart s k p).sync = s.sync := rfl
@[simp] theorem setPart_syncPoison (k : Nat) (p : Partition) : (setPart s k p).syncPoison = s.syncPoison := rfl
@[simp] theorem setPart_waits (k : Nat) (p : Partition) : (setPart s k p).waits = s.waits := rfl
@[simp] theorem setPart_rtCache (k : Nat) (p : Partition) : (setPart s k p).rtCache = s.rtCache := rfl
@[simp] theorem setPart_rrCache (k : Nat) (p : Partition) : (setPart s k p).rrCache = s.rrCache := rfl
@[simp] theorem setPart_reservations (k : Nat) (p : Partition) : (setPart s k p).reservations = s.reservations := rfl
@[simp] theorem setPart_fab (k : Nat) (p : Partition) : (setPart s k p).fab = s.fab := rfl
@[simp] theorem setPart_ranks (k : Nat) (p : Partition) : (setPart s k p).ranks = s.ranks := rfl
@[simp] theorem setPart_tables (k : Nat) (p : Partition) : (setPart s k p).tables = s.tables := rfl
@[simp] theorem setPart_buckets (k : Nat) (p : Partition) : (setPart s k p).buckets = s.buckets := rfl
@[simp] theorem setPart_colls (k : Nat) (p : Partition) : (setPart s k p).colls = s.colls := rfl
@[simp] theorem setPart_barriers (k : Nat) (p : Partition) : (setPart s k p).barriers = s.barriers := rfl
@[simp] theorem setPart_upd (k : Nat) (p : Partition) : (setPart s k p).upd = s.upd := rfl
@[simp] theorem setPart_images (k : Nat) (p : Partition) : (setPart s k p).images = s.images := rfl
@[simp] theorem setPart_ctxRuns (k : Nat) (p : Partition) : (setPart s k p).ctxRuns = s.ctxRuns := rfl
@[simp] theorem setPart_irq (k : Nat) (p : Partition) : (setPart s k p).irq = s.irq := rfl
@[simp] theorem setPart_arb (k : Nat) (p : Partition) : (setPart s k p).arb = s.arb := rfl
@[simp] theorem setPart_frames (k : Nat) (p : Partition) : (setPart s k p).frames = s.frames := rfl
@[simp] theorem setPart_power (k : Nat) (p : Partition) : (setPart s k p).power = s.power := rfl
@[simp] theorem setPart_rel (k : Nat) (p : Partition) : (setPart s k p).rel = s.rel := rfl
@[simp] theorem setPart_sec (k : Nat) (p : Partition) : (setPart s k p).sec = s.sec := rfl
@[simp] theorem setPart_hostIf (k : Nat) (p : Partition) : (setPart s k p).hostIf = s.hostIf := rfl
@[simp] theorem setPart_out (k : Nat) (p : Partition) : (setPart s k p).out = s.out := rfl
@[simp] theorem setPart_freeCtr (k : Nat) (p : Partition) : (setPart s k p).freeCtr = s.freeCtr := rfl
@[simp] theorem reg_setPart (k : Nat) (p : Partition) (i' sub' : Nat) : reg (setPart s k p) i' sub' = reg s i' sub' := rfl
@[simp] theorem bget_setPart (k : Nat) (p : Partition) (off' : Nat) : bget (setPart s k p) off' = bget s off' := rfl
@[simp] theorem memByte_setPart (k : Nat) (p : Partition) (a' : Nat) : memByte (setPart s k p) a' = memByte s a' := rfl
@[simp] theorem engineOf_setPart (k : Nat) (p : Partition) (n' : Nat) : engineOf (setPart s k p) n' = engineOf s n' := rfl
@[simp] theorem findOp_setPart (k : Nat) (p : Partition) (tag' : Nat) : findOp (setPart s k p) tag' = findOp s tag' := rfl

@[simp] theorem setArray_pending (a : Nat) (u : ArrayUnit) : (setArray s a u).pending = s.pending := rfl
@[simp] theorem setArray_pins (a : Nat) (u : ArrayUnit) : (setArray s a u).pins = s.pins := rfl
@[simp] theorem setArray_aon (a : Nat) (u : ArrayUnit) : (setArray s a u).aon = s.aon := rfl
@[simp] theorem setArray_dict (a : Nat) (u : ArrayUnit) : (setArray s a u).dict = s.dict := rfl
@[simp] theorem setArray_bar (a : Nat) (u : ArrayUnit) : (setArray s a u).bar = s.bar := rfl
@[simp] theorem setArray_domains (a : Nat) (u : ArrayUnit) : (setArray s a u).domains = s.domains := rfl
@[simp] theorem setArray_mem (a : Nat) (u : ArrayUnit) : (setArray s a u).mem = s.mem := rfl
@[simp] theorem setArray_fuses (a : Nat) (u : ArrayUnit) : (setArray s a u).fuses = s.fuses := rfl
@[simp] theorem setArray_ops (a : Nat) (u : ArrayUnit) : (setArray s a u).ops = s.ops := rfl
@[simp] theorem setArray_ready (a : Nat) (u : ArrayUnit) : (setArray s a u).ready = s.ready := rfl
@[simp] theorem setArray_rrLast (a : Nat) (u : ArrayUnit) : (setArray s a u).rrLast = s.rrLast := rfl
@[simp] theorem setArray_ringPass (a : Nat) (u : ArrayUnit) : (setArray s a u).ringPass = s.ringPass := rfl
@[simp] theorem setArray_parts (a : Nat) (u : ArrayUnit) : (setArray s a u).parts = s.parts := rfl
@[simp] theorem setArray_engines (a : Nat) (u : ArrayUnit) : (setArray s a u).engines = s.engines := rfl
@[simp] theorem setArray_caps (a : Nat) (u : ArrayUnit) : (setArray s a u).caps = s.caps := rfl
@[simp] theorem setArray_fidWin (a : Nat) (u : ArrayUnit) : (setArray s a u).fidWin = s.fidWin := rfl
@[simp] theorem setArray_ctxs (a : Nat) (u : ArrayUnit) : (setArray s a u).ctxs = s.ctxs := rfl
@[simp] theorem setArray_hbm (a : Nat) (u : ArrayUnit) : (setArray s a u).hbm = s.hbm := rfl
@[simp] theorem setArray_sync (a : Nat) (u : ArrayUnit) : (setArray s a u).sync = s.sync := rfl
@[simp] theorem setArray_syncPoison (a : Nat) (u : ArrayUnit) : (setArray s a u).syncPoison = s.syncPoison := rfl
@[simp] theorem setArray_waits (a : Nat) (u : ArrayUnit) : (setArray s a u).waits = s.waits := rfl
@[simp] theorem setArray_rtCache (a : Nat) (u : ArrayUnit) : (setArray s a u).rtCache = s.rtCache := rfl
@[simp] theorem setArray_rrCache (a : Nat) (u : ArrayUnit) : (setArray s a u).rrCache = s.rrCache := rfl
@[simp] theorem setArray_reservations (a : Nat) (u : ArrayUnit) : (setArray s a u).reservations = s.reservations := rfl
@[simp] theorem setArray_fab (a : Nat) (u : ArrayUnit) : (setArray s a u).fab = s.fab := rfl
@[simp] theorem setArray_ranks (a : Nat) (u : ArrayUnit) : (setArray s a u).ranks = s.ranks := rfl
@[simp] theorem setArray_tables (a : Nat) (u : ArrayUnit) : (setArray s a u).tables = s.tables := rfl
@[simp] theorem setArray_buckets (a : Nat) (u : ArrayUnit) : (setArray s a u).buckets = s.buckets := rfl
@[simp] theorem setArray_colls (a : Nat) (u : ArrayUnit) : (setArray s a u).colls = s.colls := rfl
@[simp] theorem setArray_barriers (a : Nat) (u : ArrayUnit) : (setArray s a u).barriers = s.barriers := rfl
@[simp] theorem setArray_upd (a : Nat) (u : ArrayUnit) : (setArray s a u).upd = s.upd := rfl
@[simp] theorem setArray_images (a : Nat) (u : ArrayUnit) : (setArray s a u).images = s.images := rfl
@[simp] theorem setArray_ctxRuns (a : Nat) (u : ArrayUnit) : (setArray s a u).ctxRuns = s.ctxRuns := rfl
@[simp] theorem setArray_irq (a : Nat) (u : ArrayUnit) : (setArray s a u).irq = s.irq := rfl
@[simp] theorem setArray_arb (a : Nat) (u : ArrayUnit) : (setArray s a u).arb = s.arb := rfl
@[simp] theorem setArray_frames (a : Nat) (u : ArrayUnit) : (setArray s a u).frames = s.frames := rfl
@[simp] theorem setArray_power (a : Nat) (u : ArrayUnit) : (setArray s a u).power = s.power := rfl
@[simp] theorem setArray_rel (a : Nat) (u : ArrayUnit) : (setArray s a u).rel = s.rel := rfl
@[simp] theorem setArray_sec (a : Nat) (u : ArrayUnit) : (setArray s a u).sec = s.sec := rfl
@[simp] theorem setArray_hostIf (a : Nat) (u : ArrayUnit) : (setArray s a u).hostIf = s.hostIf := rfl
@[simp] theorem setArray_out (a : Nat) (u : ArrayUnit) : (setArray s a u).out = s.out := rfl
@[simp] theorem setArray_freeCtr (a : Nat) (u : ArrayUnit) : (setArray s a u).freeCtr = s.freeCtr := rfl
@[simp] theorem reg_setArray (a : Nat) (u : ArrayUnit) (i' sub' : Nat) : reg (setArray s a u) i' sub' = reg s i' sub' := rfl
@[simp] theorem bget_setArray (a : Nat) (u : ArrayUnit) (off' : Nat) : bget (setArray s a u) off' = bget s off' := rfl
@[simp] theorem memByte_setArray (a : Nat) (u : ArrayUnit) (a' : Nat) : memByte (setArray s a u) a' = memByte s a' := rfl
@[simp] theorem engineOf_setArray (a : Nat) (u : ArrayUnit) (n' : Nat) : engineOf (setArray s a u) n' = engineOf s n' := rfl
@[simp] theorem findOp_setArray (a : Nat) (u : ArrayUnit) (tag' : Nat) : findOp (setArray s a u) tag' = findOp s tag' := rfl

@[simp] theorem addOp_pending (o : Op) : (addOp s o).pending = s.pending := rfl
@[simp] theorem addOp_pins (o : Op) : (addOp s o).pins = s.pins := rfl
@[simp] theorem addOp_aon (o : Op) : (addOp s o).aon = s.aon := rfl
@[simp] theorem addOp_dict (o : Op) : (addOp s o).dict = s.dict := rfl
@[simp] theorem addOp_bar (o : Op) : (addOp s o).bar = s.bar := rfl
@[simp] theorem addOp_domains (o : Op) : (addOp s o).domains = s.domains := rfl
@[simp] theorem addOp_mem (o : Op) : (addOp s o).mem = s.mem := rfl
@[simp] theorem addOp_fuses (o : Op) : (addOp s o).fuses = s.fuses := rfl
@[simp] theorem addOp_ready (o : Op) : (addOp s o).ready = s.ready := rfl
@[simp] theorem addOp_rrLast (o : Op) : (addOp s o).rrLast = s.rrLast := rfl
@[simp] theorem addOp_ringPass (o : Op) : (addOp s o).ringPass = s.ringPass := rfl
@[simp] theorem addOp_parts (o : Op) : (addOp s o).parts = s.parts := rfl
@[simp] theorem addOp_arrays (o : Op) : (addOp s o).arrays = s.arrays := rfl
@[simp] theorem addOp_engines (o : Op) : (addOp s o).engines = s.engines := rfl
@[simp] theorem addOp_caps (o : Op) : (addOp s o).caps = s.caps := rfl
@[simp] theorem addOp_fidWin (o : Op) : (addOp s o).fidWin = s.fidWin := rfl
@[simp] theorem addOp_ctxs (o : Op) : (addOp s o).ctxs = s.ctxs := rfl
@[simp] theorem addOp_hbm (o : Op) : (addOp s o).hbm = s.hbm := rfl
@[simp] theorem addOp_sync (o : Op) : (addOp s o).sync = s.sync := rfl
@[simp] theorem addOp_syncPoison (o : Op) : (addOp s o).syncPoison = s.syncPoison := rfl
@[simp] theorem addOp_waits (o : Op) : (addOp s o).waits = s.waits := rfl
@[simp] theorem addOp_rtCache (o : Op) : (addOp s o).rtCache = s.rtCache := rfl
@[simp] theorem addOp_rrCache (o : Op) : (addOp s o).rrCache = s.rrCache := rfl
@[simp] theorem addOp_reservations (o : Op) : (addOp s o).reservations = s.reservations := rfl
@[simp] theorem addOp_fab (o : Op) : (addOp s o).fab = s.fab := rfl
@[simp] theorem addOp_ranks (o : Op) : (addOp s o).ranks = s.ranks := rfl
@[simp] theorem addOp_tables (o : Op) : (addOp s o).tables = s.tables := rfl
@[simp] theorem addOp_buckets (o : Op) : (addOp s o).buckets = s.buckets := rfl
@[simp] theorem addOp_colls (o : Op) : (addOp s o).colls = s.colls := rfl
@[simp] theorem addOp_barriers (o : Op) : (addOp s o).barriers = s.barriers := rfl
@[simp] theorem addOp_upd (o : Op) : (addOp s o).upd = s.upd := rfl
@[simp] theorem addOp_images (o : Op) : (addOp s o).images = s.images := rfl
@[simp] theorem addOp_ctxRuns (o : Op) : (addOp s o).ctxRuns = s.ctxRuns := rfl
@[simp] theorem addOp_irq (o : Op) : (addOp s o).irq = s.irq := rfl
@[simp] theorem addOp_arb (o : Op) : (addOp s o).arb = s.arb := rfl
@[simp] theorem addOp_frames (o : Op) : (addOp s o).frames = s.frames := rfl
@[simp] theorem addOp_power (o : Op) : (addOp s o).power = s.power := rfl
@[simp] theorem addOp_rel (o : Op) : (addOp s o).rel = s.rel := rfl
@[simp] theorem addOp_sec (o : Op) : (addOp s o).sec = s.sec := rfl
@[simp] theorem addOp_hostIf (o : Op) : (addOp s o).hostIf = s.hostIf := rfl
@[simp] theorem addOp_out (o : Op) : (addOp s o).out = s.out := rfl
@[simp] theorem addOp_freeCtr (o : Op) : (addOp s o).freeCtr = s.freeCtr := rfl
@[simp] theorem reg_addOp (o : Op) (i' sub' : Nat) : reg (addOp s o) i' sub' = reg s i' sub' := rfl
@[simp] theorem bget_addOp (o : Op) (off' : Nat) : bget (addOp s o) off' = bget s off' := rfl
@[simp] theorem memByte_addOp (o : Op) (a' : Nat) : memByte (addOp s o) a' = memByte s a' := rfl
@[simp] theorem engineOf_addOp (o : Op) (n' : Nat) : engineOf (addOp s o) n' = engineOf s n' := rfl

@[simp] theorem updOp_pending (tag : Nat) (f : Op → Op) : (updOp s tag f).pending = s.pending := rfl
@[simp] theorem updOp_pins (tag : Nat) (f : Op → Op) : (updOp s tag f).pins = s.pins := rfl
@[simp] theorem updOp_aon (tag : Nat) (f : Op → Op) : (updOp s tag f).aon = s.aon := rfl
@[simp] theorem updOp_dict (tag : Nat) (f : Op → Op) : (updOp s tag f).dict = s.dict := rfl
@[simp] theorem updOp_bar (tag : Nat) (f : Op → Op) : (updOp s tag f).bar = s.bar := rfl
@[simp] theorem updOp_domains (tag : Nat) (f : Op → Op) : (updOp s tag f).domains = s.domains := rfl
@[simp] theorem updOp_mem (tag : Nat) (f : Op → Op) : (updOp s tag f).mem = s.mem := rfl
@[simp] theorem updOp_fuses (tag : Nat) (f : Op → Op) : (updOp s tag f).fuses = s.fuses := rfl
@[simp] theorem updOp_ready (tag : Nat) (f : Op → Op) : (updOp s tag f).ready = s.ready := rfl
@[simp] theorem updOp_rrLast (tag : Nat) (f : Op → Op) : (updOp s tag f).rrLast = s.rrLast := rfl
@[simp] theorem updOp_ringPass (tag : Nat) (f : Op → Op) : (updOp s tag f).ringPass = s.ringPass := rfl
@[simp] theorem updOp_parts (tag : Nat) (f : Op → Op) : (updOp s tag f).parts = s.parts := rfl
@[simp] theorem updOp_arrays (tag : Nat) (f : Op → Op) : (updOp s tag f).arrays = s.arrays := rfl
@[simp] theorem updOp_engines (tag : Nat) (f : Op → Op) : (updOp s tag f).engines = s.engines := rfl
@[simp] theorem updOp_caps (tag : Nat) (f : Op → Op) : (updOp s tag f).caps = s.caps := rfl
@[simp] theorem updOp_fidWin (tag : Nat) (f : Op → Op) : (updOp s tag f).fidWin = s.fidWin := rfl
@[simp] theorem updOp_ctxs (tag : Nat) (f : Op → Op) : (updOp s tag f).ctxs = s.ctxs := rfl
@[simp] theorem updOp_hbm (tag : Nat) (f : Op → Op) : (updOp s tag f).hbm = s.hbm := rfl
@[simp] theorem updOp_sync (tag : Nat) (f : Op → Op) : (updOp s tag f).sync = s.sync := rfl
@[simp] theorem updOp_syncPoison (tag : Nat) (f : Op → Op) : (updOp s tag f).syncPoison = s.syncPoison := rfl
@[simp] theorem updOp_waits (tag : Nat) (f : Op → Op) : (updOp s tag f).waits = s.waits := rfl
@[simp] theorem updOp_rtCache (tag : Nat) (f : Op → Op) : (updOp s tag f).rtCache = s.rtCache := rfl
@[simp] theorem updOp_rrCache (tag : Nat) (f : Op → Op) : (updOp s tag f).rrCache = s.rrCache := rfl
@[simp] theorem updOp_reservations (tag : Nat) (f : Op → Op) : (updOp s tag f).reservations = s.reservations := rfl
@[simp] theorem updOp_fab (tag : Nat) (f : Op → Op) : (updOp s tag f).fab = s.fab := rfl
@[simp] theorem updOp_ranks (tag : Nat) (f : Op → Op) : (updOp s tag f).ranks = s.ranks := rfl
@[simp] theorem updOp_tables (tag : Nat) (f : Op → Op) : (updOp s tag f).tables = s.tables := rfl
@[simp] theorem updOp_buckets (tag : Nat) (f : Op → Op) : (updOp s tag f).buckets = s.buckets := rfl
@[simp] theorem updOp_colls (tag : Nat) (f : Op → Op) : (updOp s tag f).colls = s.colls := rfl
@[simp] theorem updOp_barriers (tag : Nat) (f : Op → Op) : (updOp s tag f).barriers = s.barriers := rfl
@[simp] theorem updOp_upd (tag : Nat) (f : Op → Op) : (updOp s tag f).upd = s.upd := rfl
@[simp] theorem updOp_images (tag : Nat) (f : Op → Op) : (updOp s tag f).images = s.images := rfl
@[simp] theorem updOp_ctxRuns (tag : Nat) (f : Op → Op) : (updOp s tag f).ctxRuns = s.ctxRuns := rfl
@[simp] theorem updOp_irq (tag : Nat) (f : Op → Op) : (updOp s tag f).irq = s.irq := rfl
@[simp] theorem updOp_arb (tag : Nat) (f : Op → Op) : (updOp s tag f).arb = s.arb := rfl
@[simp] theorem updOp_frames (tag : Nat) (f : Op → Op) : (updOp s tag f).frames = s.frames := rfl
@[simp] theorem updOp_power (tag : Nat) (f : Op → Op) : (updOp s tag f).power = s.power := rfl
@[simp] theorem updOp_rel (tag : Nat) (f : Op → Op) : (updOp s tag f).rel = s.rel := rfl
@[simp] theorem updOp_sec (tag : Nat) (f : Op → Op) : (updOp s tag f).sec = s.sec := rfl
@[simp] theorem updOp_hostIf (tag : Nat) (f : Op → Op) : (updOp s tag f).hostIf = s.hostIf := rfl
@[simp] theorem updOp_out (tag : Nat) (f : Op → Op) : (updOp s tag f).out = s.out := rfl
@[simp] theorem updOp_freeCtr (tag : Nat) (f : Op → Op) : (updOp s tag f).freeCtr = s.freeCtr := rfl
@[simp] theorem reg_updOp (tag : Nat) (f : Op → Op) (i' sub' : Nat) : reg (updOp s tag f) i' sub' = reg s i' sub' := rfl
@[simp] theorem bget_updOp (tag : Nat) (f : Op → Op) (off' : Nat) : bget (updOp s tag f) off' = bget s off' := rfl
@[simp] theorem memByte_updOp (tag : Nat) (f : Op → Op) (a' : Nat) : memByte (updOp s tag f) a' = memByte s a' := rfl
@[simp] theorem engineOf_updOp (tag : Nat) (f : Op → Op) (n' : Nat) : engineOf (updOp s tag f) n' = engineOf s n' := rfl

@[simp] theorem setObj_pending (n : Nat) (o : SyncObj) : (setObj s n o).pending = s.pending := rfl
@[simp] theorem setObj_pins (n : Nat) (o : SyncObj) : (setObj s n o).pins = s.pins := rfl
@[simp] theorem setObj_aon (n : Nat) (o : SyncObj) : (setObj s n o).aon = s.aon := rfl
@[simp] theorem setObj_dict (n : Nat) (o : SyncObj) : (setObj s n o).dict = s.dict := rfl
@[simp] theorem setObj_bar (n : Nat) (o : SyncObj) : (setObj s n o).bar = s.bar := rfl
@[simp] theorem setObj_domains (n : Nat) (o : SyncObj) : (setObj s n o).domains = s.domains := rfl
@[simp] theorem setObj_mem (n : Nat) (o : SyncObj) : (setObj s n o).mem = s.mem := rfl
@[simp] theorem setObj_fuses (n : Nat) (o : SyncObj) : (setObj s n o).fuses = s.fuses := rfl
@[simp] theorem setObj_ops (n : Nat) (o : SyncObj) : (setObj s n o).ops = s.ops := rfl
@[simp] theorem setObj_ready (n : Nat) (o : SyncObj) : (setObj s n o).ready = s.ready := rfl
@[simp] theorem setObj_rrLast (n : Nat) (o : SyncObj) : (setObj s n o).rrLast = s.rrLast := rfl
@[simp] theorem setObj_ringPass (n : Nat) (o : SyncObj) : (setObj s n o).ringPass = s.ringPass := rfl
@[simp] theorem setObj_parts (n : Nat) (o : SyncObj) : (setObj s n o).parts = s.parts := rfl
@[simp] theorem setObj_arrays (n : Nat) (o : SyncObj) : (setObj s n o).arrays = s.arrays := rfl
@[simp] theorem setObj_engines (n : Nat) (o : SyncObj) : (setObj s n o).engines = s.engines := rfl
@[simp] theorem setObj_caps (n : Nat) (o : SyncObj) : (setObj s n o).caps = s.caps := rfl
@[simp] theorem setObj_fidWin (n : Nat) (o : SyncObj) : (setObj s n o).fidWin = s.fidWin := rfl
@[simp] theorem setObj_ctxs (n : Nat) (o : SyncObj) : (setObj s n o).ctxs = s.ctxs := rfl
@[simp] theorem setObj_hbm (n : Nat) (o : SyncObj) : (setObj s n o).hbm = s.hbm := rfl
@[simp] theorem setObj_syncPoison (n : Nat) (o : SyncObj) : (setObj s n o).syncPoison = s.syncPoison := rfl
@[simp] theorem setObj_waits (n : Nat) (o : SyncObj) : (setObj s n o).waits = s.waits := rfl
@[simp] theorem setObj_rtCache (n : Nat) (o : SyncObj) : (setObj s n o).rtCache = s.rtCache := rfl
@[simp] theorem setObj_rrCache (n : Nat) (o : SyncObj) : (setObj s n o).rrCache = s.rrCache := rfl
@[simp] theorem setObj_reservations (n : Nat) (o : SyncObj) : (setObj s n o).reservations = s.reservations := rfl
@[simp] theorem setObj_fab (n : Nat) (o : SyncObj) : (setObj s n o).fab = s.fab := rfl
@[simp] theorem setObj_ranks (n : Nat) (o : SyncObj) : (setObj s n o).ranks = s.ranks := rfl
@[simp] theorem setObj_tables (n : Nat) (o : SyncObj) : (setObj s n o).tables = s.tables := rfl
@[simp] theorem setObj_buckets (n : Nat) (o : SyncObj) : (setObj s n o).buckets = s.buckets := rfl
@[simp] theorem setObj_colls (n : Nat) (o : SyncObj) : (setObj s n o).colls = s.colls := rfl
@[simp] theorem setObj_barriers (n : Nat) (o : SyncObj) : (setObj s n o).barriers = s.barriers := rfl
@[simp] theorem setObj_upd (n : Nat) (o : SyncObj) : (setObj s n o).upd = s.upd := rfl
@[simp] theorem setObj_images (n : Nat) (o : SyncObj) : (setObj s n o).images = s.images := rfl
@[simp] theorem setObj_ctxRuns (n : Nat) (o : SyncObj) : (setObj s n o).ctxRuns = s.ctxRuns := rfl
@[simp] theorem setObj_irq (n : Nat) (o : SyncObj) : (setObj s n o).irq = s.irq := rfl
@[simp] theorem setObj_arb (n : Nat) (o : SyncObj) : (setObj s n o).arb = s.arb := rfl
@[simp] theorem setObj_frames (n : Nat) (o : SyncObj) : (setObj s n o).frames = s.frames := rfl
@[simp] theorem setObj_power (n : Nat) (o : SyncObj) : (setObj s n o).power = s.power := rfl
@[simp] theorem setObj_rel (n : Nat) (o : SyncObj) : (setObj s n o).rel = s.rel := rfl
@[simp] theorem setObj_sec (n : Nat) (o : SyncObj) : (setObj s n o).sec = s.sec := rfl
@[simp] theorem setObj_hostIf (n : Nat) (o : SyncObj) : (setObj s n o).hostIf = s.hostIf := rfl
@[simp] theorem setObj_out (n : Nat) (o : SyncObj) : (setObj s n o).out = s.out := rfl
@[simp] theorem setObj_freeCtr (n : Nat) (o : SyncObj) : (setObj s n o).freeCtr = s.freeCtr := rfl
@[simp] theorem reg_setObj (n : Nat) (o : SyncObj) (i' sub' : Nat) : reg (setObj s n o) i' sub' = reg s i' sub' := rfl
@[simp] theorem bget_setObj (n : Nat) (o : SyncObj) (off' : Nat) : bget (setObj s n o) off' = bget s off' := rfl
@[simp] theorem memByte_setObj (n : Nat) (o : SyncObj) (a' : Nat) : memByte (setObj s n o) a' = memByte s a' := rfl
@[simp] theorem engineOf_setObj (n : Nat) (o : SyncObj) (n' : Nat) : engineOf (setObj s n o) n' = engineOf s n' := rfl
@[simp] theorem findOp_setObj (n : Nat) (o : SyncObj) (tag' : Nat) : findOp (setObj s n o) tag' = findOp s tag' := rfl

@[simp] theorem setLink_pending (p : Nat) (l : Link) : (setLink s p l).pending = s.pending := rfl
@[simp] theorem setLink_pins (p : Nat) (l : Link) : (setLink s p l).pins = s.pins := rfl
@[simp] theorem setLink_aon (p : Nat) (l : Link) : (setLink s p l).aon = s.aon := rfl
@[simp] theorem setLink_dict (p : Nat) (l : Link) : (setLink s p l).dict = s.dict := rfl
@[simp] theorem setLink_bar (p : Nat) (l : Link) : (setLink s p l).bar = s.bar := rfl
@[simp] theorem setLink_domains (p : Nat) (l : Link) : (setLink s p l).domains = s.domains := rfl
@[simp] theorem setLink_mem (p : Nat) (l : Link) : (setLink s p l).mem = s.mem := rfl
@[simp] theorem setLink_fuses (p : Nat) (l : Link) : (setLink s p l).fuses = s.fuses := rfl
@[simp] theorem setLink_ops (p : Nat) (l : Link) : (setLink s p l).ops = s.ops := rfl
@[simp] theorem setLink_ready (p : Nat) (l : Link) : (setLink s p l).ready = s.ready := rfl
@[simp] theorem setLink_rrLast (p : Nat) (l : Link) : (setLink s p l).rrLast = s.rrLast := rfl
@[simp] theorem setLink_ringPass (p : Nat) (l : Link) : (setLink s p l).ringPass = s.ringPass := rfl
@[simp] theorem setLink_parts (p : Nat) (l : Link) : (setLink s p l).parts = s.parts := rfl
@[simp] theorem setLink_arrays (p : Nat) (l : Link) : (setLink s p l).arrays = s.arrays := rfl
@[simp] theorem setLink_engines (p : Nat) (l : Link) : (setLink s p l).engines = s.engines := rfl
@[simp] theorem setLink_caps (p : Nat) (l : Link) : (setLink s p l).caps = s.caps := rfl
@[simp] theorem setLink_fidWin (p : Nat) (l : Link) : (setLink s p l).fidWin = s.fidWin := rfl
@[simp] theorem setLink_ctxs (p : Nat) (l : Link) : (setLink s p l).ctxs = s.ctxs := rfl
@[simp] theorem setLink_hbm (p : Nat) (l : Link) : (setLink s p l).hbm = s.hbm := rfl
@[simp] theorem setLink_sync (p : Nat) (l : Link) : (setLink s p l).sync = s.sync := rfl
@[simp] theorem setLink_syncPoison (p : Nat) (l : Link) : (setLink s p l).syncPoison = s.syncPoison := rfl
@[simp] theorem setLink_waits (p : Nat) (l : Link) : (setLink s p l).waits = s.waits := rfl
@[simp] theorem setLink_rtCache (p : Nat) (l : Link) : (setLink s p l).rtCache = s.rtCache := rfl
@[simp] theorem setLink_rrCache (p : Nat) (l : Link) : (setLink s p l).rrCache = s.rrCache := rfl
@[simp] theorem setLink_reservations (p : Nat) (l : Link) : (setLink s p l).reservations = s.reservations := rfl
@[simp] theorem setLink_ranks (p : Nat) (l : Link) : (setLink s p l).ranks = s.ranks := rfl
@[simp] theorem setLink_tables (p : Nat) (l : Link) : (setLink s p l).tables = s.tables := rfl
@[simp] theorem setLink_buckets (p : Nat) (l : Link) : (setLink s p l).buckets = s.buckets := rfl
@[simp] theorem setLink_colls (p : Nat) (l : Link) : (setLink s p l).colls = s.colls := rfl
@[simp] theorem setLink_barriers (p : Nat) (l : Link) : (setLink s p l).barriers = s.barriers := rfl
@[simp] theorem setLink_upd (p : Nat) (l : Link) : (setLink s p l).upd = s.upd := rfl
@[simp] theorem setLink_images (p : Nat) (l : Link) : (setLink s p l).images = s.images := rfl
@[simp] theorem setLink_ctxRuns (p : Nat) (l : Link) : (setLink s p l).ctxRuns = s.ctxRuns := rfl
@[simp] theorem setLink_irq (p : Nat) (l : Link) : (setLink s p l).irq = s.irq := rfl
@[simp] theorem setLink_arb (p : Nat) (l : Link) : (setLink s p l).arb = s.arb := rfl
@[simp] theorem setLink_frames (p : Nat) (l : Link) : (setLink s p l).frames = s.frames := rfl
@[simp] theorem setLink_power (p : Nat) (l : Link) : (setLink s p l).power = s.power := rfl
@[simp] theorem setLink_rel (p : Nat) (l : Link) : (setLink s p l).rel = s.rel := rfl
@[simp] theorem setLink_sec (p : Nat) (l : Link) : (setLink s p l).sec = s.sec := rfl
@[simp] theorem setLink_hostIf (p : Nat) (l : Link) : (setLink s p l).hostIf = s.hostIf := rfl
@[simp] theorem setLink_out (p : Nat) (l : Link) : (setLink s p l).out = s.out := rfl
@[simp] theorem setLink_freeCtr (p : Nat) (l : Link) : (setLink s p l).freeCtr = s.freeCtr := rfl
@[simp] theorem reg_setLink (p : Nat) (l : Link) (i' sub' : Nat) : reg (setLink s p l) i' sub' = reg s i' sub' := rfl
@[simp] theorem bget_setLink (p : Nat) (l : Link) (off' : Nat) : bget (setLink s p l) off' = bget s off' := rfl
@[simp] theorem memByte_setLink (p : Nat) (l : Link) (a' : Nat) : memByte (setLink s p l) a' = memByte s a' := rfl
@[simp] theorem engineOf_setLink (p : Nat) (l : Link) (n' : Nat) : engineOf (setLink s p l) n' = engineOf s n' := rfl
@[simp] theorem findOp_setLink (p : Nat) (l : Link) (tag' : Nat) : findOp (setLink s p l) tag' = findOp s tag' := rfl

@[simp] theorem setArb_pending (r : Resource) (u : ArbUnit) : (setArb s r u).pending = s.pending := rfl
@[simp] theorem setArb_pins (r : Resource) (u : ArbUnit) : (setArb s r u).pins = s.pins := rfl
@[simp] theorem setArb_aon (r : Resource) (u : ArbUnit) : (setArb s r u).aon = s.aon := rfl
@[simp] theorem setArb_dict (r : Resource) (u : ArbUnit) : (setArb s r u).dict = s.dict := rfl
@[simp] theorem setArb_bar (r : Resource) (u : ArbUnit) : (setArb s r u).bar = s.bar := rfl
@[simp] theorem setArb_domains (r : Resource) (u : ArbUnit) : (setArb s r u).domains = s.domains := rfl
@[simp] theorem setArb_mem (r : Resource) (u : ArbUnit) : (setArb s r u).mem = s.mem := rfl
@[simp] theorem setArb_fuses (r : Resource) (u : ArbUnit) : (setArb s r u).fuses = s.fuses := rfl
@[simp] theorem setArb_ops (r : Resource) (u : ArbUnit) : (setArb s r u).ops = s.ops := rfl
@[simp] theorem setArb_ready (r : Resource) (u : ArbUnit) : (setArb s r u).ready = s.ready := rfl
@[simp] theorem setArb_rrLast (r : Resource) (u : ArbUnit) : (setArb s r u).rrLast = s.rrLast := rfl
@[simp] theorem setArb_ringPass (r : Resource) (u : ArbUnit) : (setArb s r u).ringPass = s.ringPass := rfl
@[simp] theorem setArb_parts (r : Resource) (u : ArbUnit) : (setArb s r u).parts = s.parts := rfl
@[simp] theorem setArb_arrays (r : Resource) (u : ArbUnit) : (setArb s r u).arrays = s.arrays := rfl
@[simp] theorem setArb_engines (r : Resource) (u : ArbUnit) : (setArb s r u).engines = s.engines := rfl
@[simp] theorem setArb_caps (r : Resource) (u : ArbUnit) : (setArb s r u).caps = s.caps := rfl
@[simp] theorem setArb_fidWin (r : Resource) (u : ArbUnit) : (setArb s r u).fidWin = s.fidWin := rfl
@[simp] theorem setArb_ctxs (r : Resource) (u : ArbUnit) : (setArb s r u).ctxs = s.ctxs := rfl
@[simp] theorem setArb_hbm (r : Resource) (u : ArbUnit) : (setArb s r u).hbm = s.hbm := rfl
@[simp] theorem setArb_sync (r : Resource) (u : ArbUnit) : (setArb s r u).sync = s.sync := rfl
@[simp] theorem setArb_syncPoison (r : Resource) (u : ArbUnit) : (setArb s r u).syncPoison = s.syncPoison := rfl
@[simp] theorem setArb_waits (r : Resource) (u : ArbUnit) : (setArb s r u).waits = s.waits := rfl
@[simp] theorem setArb_rtCache (r : Resource) (u : ArbUnit) : (setArb s r u).rtCache = s.rtCache := rfl
@[simp] theorem setArb_rrCache (r : Resource) (u : ArbUnit) : (setArb s r u).rrCache = s.rrCache := rfl
@[simp] theorem setArb_reservations (r : Resource) (u : ArbUnit) : (setArb s r u).reservations = s.reservations := rfl
@[simp] theorem setArb_fab (r : Resource) (u : ArbUnit) : (setArb s r u).fab = s.fab := rfl
@[simp] theorem setArb_ranks (r : Resource) (u : ArbUnit) : (setArb s r u).ranks = s.ranks := rfl
@[simp] theorem setArb_tables (r : Resource) (u : ArbUnit) : (setArb s r u).tables = s.tables := rfl
@[simp] theorem setArb_buckets (r : Resource) (u : ArbUnit) : (setArb s r u).buckets = s.buckets := rfl
@[simp] theorem setArb_colls (r : Resource) (u : ArbUnit) : (setArb s r u).colls = s.colls := rfl
@[simp] theorem setArb_barriers (r : Resource) (u : ArbUnit) : (setArb s r u).barriers = s.barriers := rfl
@[simp] theorem setArb_upd (r : Resource) (u : ArbUnit) : (setArb s r u).upd = s.upd := rfl
@[simp] theorem setArb_images (r : Resource) (u : ArbUnit) : (setArb s r u).images = s.images := rfl
@[simp] theorem setArb_ctxRuns (r : Resource) (u : ArbUnit) : (setArb s r u).ctxRuns = s.ctxRuns := rfl
@[simp] theorem setArb_irq (r : Resource) (u : ArbUnit) : (setArb s r u).irq = s.irq := rfl
@[simp] theorem setArb_frames (r : Resource) (u : ArbUnit) : (setArb s r u).frames = s.frames := rfl
@[simp] theorem setArb_power (r : Resource) (u : ArbUnit) : (setArb s r u).power = s.power := rfl
@[simp] theorem setArb_rel (r : Resource) (u : ArbUnit) : (setArb s r u).rel = s.rel := rfl
@[simp] theorem setArb_sec (r : Resource) (u : ArbUnit) : (setArb s r u).sec = s.sec := rfl
@[simp] theorem setArb_hostIf (r : Resource) (u : ArbUnit) : (setArb s r u).hostIf = s.hostIf := rfl
@[simp] theorem setArb_out (r : Resource) (u : ArbUnit) : (setArb s r u).out = s.out := rfl
@[simp] theorem setArb_freeCtr (r : Resource) (u : ArbUnit) : (setArb s r u).freeCtr = s.freeCtr := rfl
@[simp] theorem reg_setArb (r : Resource) (u : ArbUnit) (i' sub' : Nat) : reg (setArb s r u) i' sub' = reg s i' sub' := rfl
@[simp] theorem bget_setArb (r : Resource) (u : ArbUnit) (off' : Nat) : bget (setArb s r u) off' = bget s off' := rfl
@[simp] theorem memByte_setArb (r : Resource) (u : ArbUnit) (a' : Nat) : memByte (setArb s r u) a' = memByte s a' := rfl
@[simp] theorem engineOf_setArb (r : Resource) (u : ArbUnit) (n' : Nat) : engineOf (setArb s r u) n' = engineOf s n' := rfl
@[simp] theorem findOp_setArb (r : Resource) (u : ArbUnit) (tag' : Nat) : findOp (setArb s r u) tag' = findOp s tag' := rfl

@[simp] theorem setMargin_pending (u : Nat) (m : Margin) : (setMargin s u m).pending = s.pending := rfl
@[simp] theorem setMargin_pins (u : Nat) (m : Margin) : (setMargin s u m).pins = s.pins := rfl
@[simp] theorem setMargin_aon (u : Nat) (m : Margin) : (setMargin s u m).aon = s.aon := rfl
@[simp] theorem setMargin_dict (u : Nat) (m : Margin) : (setMargin s u m).dict = s.dict := rfl
@[simp] theorem setMargin_bar (u : Nat) (m : Margin) : (setMargin s u m).bar = s.bar := rfl
@[simp] theorem setMargin_domains (u : Nat) (m : Margin) : (setMargin s u m).domains = s.domains := rfl
@[simp] theorem setMargin_mem (u : Nat) (m : Margin) : (setMargin s u m).mem = s.mem := rfl
@[simp] theorem setMargin_fuses (u : Nat) (m : Margin) : (setMargin s u m).fuses = s.fuses := rfl
@[simp] theorem setMargin_ops (u : Nat) (m : Margin) : (setMargin s u m).ops = s.ops := rfl
@[simp] theorem setMargin_ready (u : Nat) (m : Margin) : (setMargin s u m).ready = s.ready := rfl
@[simp] theorem setMargin_rrLast (u : Nat) (m : Margin) : (setMargin s u m).rrLast = s.rrLast := rfl
@[simp] theorem setMargin_ringPass (u : Nat) (m : Margin) : (setMargin s u m).ringPass = s.ringPass := rfl
@[simp] theorem setMargin_parts (u : Nat) (m : Margin) : (setMargin s u m).parts = s.parts := rfl
@[simp] theorem setMargin_arrays (u : Nat) (m : Margin) : (setMargin s u m).arrays = s.arrays := rfl
@[simp] theorem setMargin_engines (u : Nat) (m : Margin) : (setMargin s u m).engines = s.engines := rfl
@[simp] theorem setMargin_caps (u : Nat) (m : Margin) : (setMargin s u m).caps = s.caps := rfl
@[simp] theorem setMargin_fidWin (u : Nat) (m : Margin) : (setMargin s u m).fidWin = s.fidWin := rfl
@[simp] theorem setMargin_ctxs (u : Nat) (m : Margin) : (setMargin s u m).ctxs = s.ctxs := rfl
@[simp] theorem setMargin_hbm (u : Nat) (m : Margin) : (setMargin s u m).hbm = s.hbm := rfl
@[simp] theorem setMargin_sync (u : Nat) (m : Margin) : (setMargin s u m).sync = s.sync := rfl
@[simp] theorem setMargin_syncPoison (u : Nat) (m : Margin) : (setMargin s u m).syncPoison = s.syncPoison := rfl
@[simp] theorem setMargin_waits (u : Nat) (m : Margin) : (setMargin s u m).waits = s.waits := rfl
@[simp] theorem setMargin_rtCache (u : Nat) (m : Margin) : (setMargin s u m).rtCache = s.rtCache := rfl
@[simp] theorem setMargin_rrCache (u : Nat) (m : Margin) : (setMargin s u m).rrCache = s.rrCache := rfl
@[simp] theorem setMargin_reservations (u : Nat) (m : Margin) : (setMargin s u m).reservations = s.reservations := rfl
@[simp] theorem setMargin_fab (u : Nat) (m : Margin) : (setMargin s u m).fab = s.fab := rfl
@[simp] theorem setMargin_ranks (u : Nat) (m : Margin) : (setMargin s u m).ranks = s.ranks := rfl
@[simp] theorem setMargin_tables (u : Nat) (m : Margin) : (setMargin s u m).tables = s.tables := rfl
@[simp] theorem setMargin_buckets (u : Nat) (m : Margin) : (setMargin s u m).buckets = s.buckets := rfl
@[simp] theorem setMargin_colls (u : Nat) (m : Margin) : (setMargin s u m).colls = s.colls := rfl
@[simp] theorem setMargin_barriers (u : Nat) (m : Margin) : (setMargin s u m).barriers = s.barriers := rfl
@[simp] theorem setMargin_upd (u : Nat) (m : Margin) : (setMargin s u m).upd = s.upd := rfl
@[simp] theorem setMargin_images (u : Nat) (m : Margin) : (setMargin s u m).images = s.images := rfl
@[simp] theorem setMargin_ctxRuns (u : Nat) (m : Margin) : (setMargin s u m).ctxRuns = s.ctxRuns := rfl
@[simp] theorem setMargin_irq (u : Nat) (m : Margin) : (setMargin s u m).irq = s.irq := rfl
@[simp] theorem setMargin_arb (u : Nat) (m : Margin) : (setMargin s u m).arb = s.arb := rfl
@[simp] theorem setMargin_frames (u : Nat) (m : Margin) : (setMargin s u m).frames = s.frames := rfl
@[simp] theorem setMargin_rel (u : Nat) (m : Margin) : (setMargin s u m).rel = s.rel := rfl
@[simp] theorem setMargin_sec (u : Nat) (m : Margin) : (setMargin s u m).sec = s.sec := rfl
@[simp] theorem setMargin_hostIf (u : Nat) (m : Margin) : (setMargin s u m).hostIf = s.hostIf := rfl
@[simp] theorem setMargin_out (u : Nat) (m : Margin) : (setMargin s u m).out = s.out := rfl
@[simp] theorem setMargin_freeCtr (u : Nat) (m : Margin) : (setMargin s u m).freeCtr = s.freeCtr := rfl
@[simp] theorem reg_setMargin (u : Nat) (m : Margin) (i' sub' : Nat) : reg (setMargin s u m) i' sub' = reg s i' sub' := rfl
@[simp] theorem bget_setMargin (u : Nat) (m : Margin) (off' : Nat) : bget (setMargin s u m) off' = bget s off' := rfl
@[simp] theorem memByte_setMargin (u : Nat) (m : Margin) (a' : Nat) : memByte (setMargin s u m) a' = memByte s a' := rfl
@[simp] theorem engineOf_setMargin (u : Nat) (m : Margin) (n' : Nat) : engineOf (setMargin s u m) n' = engineOf s n' := rfl
@[simp] theorem findOp_setMargin (u : Nat) (m : Margin) (tag' : Nat) : findOp (setMargin s u m) tag' = findOp s tag' := rfl

@[simp] theorem updBucket_pending (b : Bucket) : (updBucket s b).pending = s.pending := rfl
@[simp] theorem updBucket_pins (b : Bucket) : (updBucket s b).pins = s.pins := rfl
@[simp] theorem updBucket_aon (b : Bucket) : (updBucket s b).aon = s.aon := rfl
@[simp] theorem updBucket_dict (b : Bucket) : (updBucket s b).dict = s.dict := rfl
@[simp] theorem updBucket_bar (b : Bucket) : (updBucket s b).bar = s.bar := rfl
@[simp] theorem updBucket_domains (b : Bucket) : (updBucket s b).domains = s.domains := rfl
@[simp] theorem updBucket_mem (b : Bucket) : (updBucket s b).mem = s.mem := rfl
@[simp] theorem updBucket_fuses (b : Bucket) : (updBucket s b).fuses = s.fuses := rfl
@[simp] theorem updBucket_ops (b : Bucket) : (updBucket s b).ops = s.ops := rfl
@[simp] theorem updBucket_ready (b : Bucket) : (updBucket s b).ready = s.ready := rfl
@[simp] theorem updBucket_rrLast (b : Bucket) : (updBucket s b).rrLast = s.rrLast := rfl
@[simp] theorem updBucket_ringPass (b : Bucket) : (updBucket s b).ringPass = s.ringPass := rfl
@[simp] theorem updBucket_parts (b : Bucket) : (updBucket s b).parts = s.parts := rfl
@[simp] theorem updBucket_arrays (b : Bucket) : (updBucket s b).arrays = s.arrays := rfl
@[simp] theorem updBucket_engines (b : Bucket) : (updBucket s b).engines = s.engines := rfl
@[simp] theorem updBucket_caps (b : Bucket) : (updBucket s b).caps = s.caps := rfl
@[simp] theorem updBucket_fidWin (b : Bucket) : (updBucket s b).fidWin = s.fidWin := rfl
@[simp] theorem updBucket_ctxs (b : Bucket) : (updBucket s b).ctxs = s.ctxs := rfl
@[simp] theorem updBucket_hbm (b : Bucket) : (updBucket s b).hbm = s.hbm := rfl
@[simp] theorem updBucket_sync (b : Bucket) : (updBucket s b).sync = s.sync := rfl
@[simp] theorem updBucket_syncPoison (b : Bucket) : (updBucket s b).syncPoison = s.syncPoison := rfl
@[simp] theorem updBucket_waits (b : Bucket) : (updBucket s b).waits = s.waits := rfl
@[simp] theorem updBucket_rtCache (b : Bucket) : (updBucket s b).rtCache = s.rtCache := rfl
@[simp] theorem updBucket_rrCache (b : Bucket) : (updBucket s b).rrCache = s.rrCache := rfl
@[simp] theorem updBucket_reservations (b : Bucket) : (updBucket s b).reservations = s.reservations := rfl
@[simp] theorem updBucket_fab (b : Bucket) : (updBucket s b).fab = s.fab := rfl
@[simp] theorem updBucket_ranks (b : Bucket) : (updBucket s b).ranks = s.ranks := rfl
@[simp] theorem updBucket_tables (b : Bucket) : (updBucket s b).tables = s.tables := rfl
@[simp] theorem updBucket_colls (b : Bucket) : (updBucket s b).colls = s.colls := rfl
@[simp] theorem updBucket_barriers (b : Bucket) : (updBucket s b).barriers = s.barriers := rfl
@[simp] theorem updBucket_upd (b : Bucket) : (updBucket s b).upd = s.upd := rfl
@[simp] theorem updBucket_images (b : Bucket) : (updBucket s b).images = s.images := rfl
@[simp] theorem updBucket_ctxRuns (b : Bucket) : (updBucket s b).ctxRuns = s.ctxRuns := rfl
@[simp] theorem updBucket_irq (b : Bucket) : (updBucket s b).irq = s.irq := rfl
@[simp] theorem updBucket_arb (b : Bucket) : (updBucket s b).arb = s.arb := rfl
@[simp] theorem updBucket_frames (b : Bucket) : (updBucket s b).frames = s.frames := rfl
@[simp] theorem updBucket_power (b : Bucket) : (updBucket s b).power = s.power := rfl
@[simp] theorem updBucket_rel (b : Bucket) : (updBucket s b).rel = s.rel := rfl
@[simp] theorem updBucket_sec (b : Bucket) : (updBucket s b).sec = s.sec := rfl
@[simp] theorem updBucket_hostIf (b : Bucket) : (updBucket s b).hostIf = s.hostIf := rfl
@[simp] theorem updBucket_out (b : Bucket) : (updBucket s b).out = s.out := rfl
@[simp] theorem updBucket_freeCtr (b : Bucket) : (updBucket s b).freeCtr = s.freeCtr := rfl
@[simp] theorem reg_updBucket (b : Bucket) (i' sub' : Nat) : reg (updBucket s b) i' sub' = reg s i' sub' := rfl
@[simp] theorem bget_updBucket (b : Bucket) (off' : Nat) : bget (updBucket s b) off' = bget s off' := rfl
@[simp] theorem memByte_updBucket (b : Bucket) (a' : Nat) : memByte (updBucket s b) a' = memByte s a' := rfl
@[simp] theorem engineOf_updBucket (b : Bucket) (n' : Nat) : engineOf (updBucket s b) n' = engineOf s n' := rfl
@[simp] theorem findOp_updBucket (b : Bucket) (tag' : Nat) : findOp (updBucket s b) tag' = findOp s tag' := rfl

@[simp] theorem setRun_pending (c seq : Nat) (r : CollRun) : (setRun s c seq r).pending = s.pending := rfl
@[simp] theorem setRun_pins (c seq : Nat) (r : CollRun) : (setRun s c seq r).pins = s.pins := rfl
@[simp] theorem setRun_aon (c seq : Nat) (r : CollRun) : (setRun s c seq r).aon = s.aon := rfl
@[simp] theorem setRun_dict (c seq : Nat) (r : CollRun) : (setRun s c seq r).dict = s.dict := rfl
@[simp] theorem setRun_bar (c seq : Nat) (r : CollRun) : (setRun s c seq r).bar = s.bar := rfl
@[simp] theorem setRun_domains (c seq : Nat) (r : CollRun) : (setRun s c seq r).domains = s.domains := rfl
@[simp] theorem setRun_mem (c seq : Nat) (r : CollRun) : (setRun s c seq r).mem = s.mem := rfl
@[simp] theorem setRun_fuses (c seq : Nat) (r : CollRun) : (setRun s c seq r).fuses = s.fuses := rfl
@[simp] theorem setRun_ops (c seq : Nat) (r : CollRun) : (setRun s c seq r).ops = s.ops := rfl
@[simp] theorem setRun_ready (c seq : Nat) (r : CollRun) : (setRun s c seq r).ready = s.ready := rfl
@[simp] theorem setRun_rrLast (c seq : Nat) (r : CollRun) : (setRun s c seq r).rrLast = s.rrLast := rfl
@[simp] theorem setRun_ringPass (c seq : Nat) (r : CollRun) : (setRun s c seq r).ringPass = s.ringPass := rfl
@[simp] theorem setRun_parts (c seq : Nat) (r : CollRun) : (setRun s c seq r).parts = s.parts := rfl
@[simp] theorem setRun_arrays (c seq : Nat) (r : CollRun) : (setRun s c seq r).arrays = s.arrays := rfl
@[simp] theorem setRun_engines (c seq : Nat) (r : CollRun) : (setRun s c seq r).engines = s.engines := rfl
@[simp] theorem setRun_caps (c seq : Nat) (r : CollRun) : (setRun s c seq r).caps = s.caps := rfl
@[simp] theorem setRun_fidWin (c seq : Nat) (r : CollRun) : (setRun s c seq r).fidWin = s.fidWin := rfl
@[simp] theorem setRun_ctxs (c seq : Nat) (r : CollRun) : (setRun s c seq r).ctxs = s.ctxs := rfl
@[simp] theorem setRun_hbm (c seq : Nat) (r : CollRun) : (setRun s c seq r).hbm = s.hbm := rfl
@[simp] theorem setRun_sync (c seq : Nat) (r : CollRun) : (setRun s c seq r).sync = s.sync := rfl
@[simp] theorem setRun_syncPoison (c seq : Nat) (r : CollRun) : (setRun s c seq r).syncPoison = s.syncPoison := rfl
@[simp] theorem setRun_waits (c seq : Nat) (r : CollRun) : (setRun s c seq r).waits = s.waits := rfl
@[simp] theorem setRun_rtCache (c seq : Nat) (r : CollRun) : (setRun s c seq r).rtCache = s.rtCache := rfl
@[simp] theorem setRun_rrCache (c seq : Nat) (r : CollRun) : (setRun s c seq r).rrCache = s.rrCache := rfl
@[simp] theorem setRun_reservations (c seq : Nat) (r : CollRun) : (setRun s c seq r).reservations = s.reservations := rfl
@[simp] theorem setRun_fab (c seq : Nat) (r : CollRun) : (setRun s c seq r).fab = s.fab := rfl
@[simp] theorem setRun_ranks (c seq : Nat) (r : CollRun) : (setRun s c seq r).ranks = s.ranks := rfl
@[simp] theorem setRun_tables (c seq : Nat) (r : CollRun) : (setRun s c seq r).tables = s.tables := rfl
@[simp] theorem setRun_buckets (c seq : Nat) (r : CollRun) : (setRun s c seq r).buckets = s.buckets := rfl
@[simp] theorem setRun_barriers (c seq : Nat) (r : CollRun) : (setRun s c seq r).barriers = s.barriers := rfl
@[simp] theorem setRun_upd (c seq : Nat) (r : CollRun) : (setRun s c seq r).upd = s.upd := rfl
@[simp] theorem setRun_images (c seq : Nat) (r : CollRun) : (setRun s c seq r).images = s.images := rfl
@[simp] theorem setRun_ctxRuns (c seq : Nat) (r : CollRun) : (setRun s c seq r).ctxRuns = s.ctxRuns := rfl
@[simp] theorem setRun_irq (c seq : Nat) (r : CollRun) : (setRun s c seq r).irq = s.irq := rfl
@[simp] theorem setRun_arb (c seq : Nat) (r : CollRun) : (setRun s c seq r).arb = s.arb := rfl
@[simp] theorem setRun_frames (c seq : Nat) (r : CollRun) : (setRun s c seq r).frames = s.frames := rfl
@[simp] theorem setRun_power (c seq : Nat) (r : CollRun) : (setRun s c seq r).power = s.power := rfl
@[simp] theorem setRun_rel (c seq : Nat) (r : CollRun) : (setRun s c seq r).rel = s.rel := rfl
@[simp] theorem setRun_sec (c seq : Nat) (r : CollRun) : (setRun s c seq r).sec = s.sec := rfl
@[simp] theorem setRun_hostIf (c seq : Nat) (r : CollRun) : (setRun s c seq r).hostIf = s.hostIf := rfl
@[simp] theorem setRun_out (c seq : Nat) (r : CollRun) : (setRun s c seq r).out = s.out := rfl
@[simp] theorem setRun_freeCtr (c seq : Nat) (r : CollRun) : (setRun s c seq r).freeCtr = s.freeCtr := rfl
@[simp] theorem reg_setRun (c seq : Nat) (r : CollRun) (i' sub' : Nat) : reg (setRun s c seq r) i' sub' = reg s i' sub' := rfl
@[simp] theorem bget_setRun (c seq : Nat) (r : CollRun) (off' : Nat) : bget (setRun s c seq r) off' = bget s off' := rfl
@[simp] theorem memByte_setRun (c seq : Nat) (r : CollRun) (a' : Nat) : memByte (setRun s c seq r) a' = memByte s a' := rfl
@[simp] theorem engineOf_setRun (c seq : Nat) (r : CollRun) (n' : Nat) : engineOf (setRun s c seq r) n' = engineOf s n' := rfl
@[simp] theorem findOp_setRun (c seq : Nat) (r : CollRun) (tag' : Nat) : findOp (setRun s c seq r) tag' = findOp s tag' := rfl

@[simp] theorem setUpd_pending (k : Nat) (u : UpdRun) : (setUpd s k u).pending = s.pending := rfl
@[simp] theorem setUpd_pins (k : Nat) (u : UpdRun) : (setUpd s k u).pins = s.pins := rfl
@[simp] theorem setUpd_aon (k : Nat) (u : UpdRun) : (setUpd s k u).aon = s.aon := rfl
@[simp] theorem setUpd_dict (k : Nat) (u : UpdRun) : (setUpd s k u).dict = s.dict := rfl
@[simp] theorem setUpd_bar (k : Nat) (u : UpdRun) : (setUpd s k u).bar = s.bar := rfl
@[simp] theorem setUpd_domains (k : Nat) (u : UpdRun) : (setUpd s k u).domains = s.domains := rfl
@[simp] theorem setUpd_mem (k : Nat) (u : UpdRun) : (setUpd s k u).mem = s.mem := rfl
@[simp] theorem setUpd_fuses (k : Nat) (u : UpdRun) : (setUpd s k u).fuses = s.fuses := rfl
@[simp] theorem setUpd_ops (k : Nat) (u : UpdRun) : (setUpd s k u).ops = s.ops := rfl
@[simp] theorem setUpd_ready (k : Nat) (u : UpdRun) : (setUpd s k u).ready = s.ready := rfl
@[simp] theorem setUpd_rrLast (k : Nat) (u : UpdRun) : (setUpd s k u).rrLast = s.rrLast := rfl
@[simp] theorem setUpd_ringPass (k : Nat) (u : UpdRun) : (setUpd s k u).ringPass = s.ringPass := rfl
@[simp] theorem setUpd_parts (k : Nat) (u : UpdRun) : (setUpd s k u).parts = s.parts := rfl
@[simp] theorem setUpd_arrays (k : Nat) (u : UpdRun) : (setUpd s k u).arrays = s.arrays := rfl
@[simp] theorem setUpd_engines (k : Nat) (u : UpdRun) : (setUpd s k u).engines = s.engines := rfl
@[simp] theorem setUpd_caps (k : Nat) (u : UpdRun) : (setUpd s k u).caps = s.caps := rfl
@[simp] theorem setUpd_fidWin (k : Nat) (u : UpdRun) : (setUpd s k u).fidWin = s.fidWin := rfl
@[simp] theorem setUpd_ctxs (k : Nat) (u : UpdRun) : (setUpd s k u).ctxs = s.ctxs := rfl
@[simp] theorem setUpd_hbm (k : Nat) (u : UpdRun) : (setUpd s k u).hbm = s.hbm := rfl
@[simp] theorem setUpd_sync (k : Nat) (u : UpdRun) : (setUpd s k u).sync = s.sync := rfl
@[simp] theorem setUpd_syncPoison (k : Nat) (u : UpdRun) : (setUpd s k u).syncPoison = s.syncPoison := rfl
@[simp] theorem setUpd_waits (k : Nat) (u : UpdRun) : (setUpd s k u).waits = s.waits := rfl
@[simp] theorem setUpd_rtCache (k : Nat) (u : UpdRun) : (setUpd s k u).rtCache = s.rtCache := rfl
@[simp] theorem setUpd_rrCache (k : Nat) (u : UpdRun) : (setUpd s k u).rrCache = s.rrCache := rfl
@[simp] theorem setUpd_reservations (k : Nat) (u : UpdRun) : (setUpd s k u).reservations = s.reservations := rfl
@[simp] theorem setUpd_fab (k : Nat) (u : UpdRun) : (setUpd s k u).fab = s.fab := rfl
@[simp] theorem setUpd_ranks (k : Nat) (u : UpdRun) : (setUpd s k u).ranks = s.ranks := rfl
@[simp] theorem setUpd_tables (k : Nat) (u : UpdRun) : (setUpd s k u).tables = s.tables := rfl
@[simp] theorem setUpd_buckets (k : Nat) (u : UpdRun) : (setUpd s k u).buckets = s.buckets := rfl
@[simp] theorem setUpd_colls (k : Nat) (u : UpdRun) : (setUpd s k u).colls = s.colls := rfl
@[simp] theorem setUpd_barriers (k : Nat) (u : UpdRun) : (setUpd s k u).barriers = s.barriers := rfl
@[simp] theorem setUpd_images (k : Nat) (u : UpdRun) : (setUpd s k u).images = s.images := rfl
@[simp] theorem setUpd_ctxRuns (k : Nat) (u : UpdRun) : (setUpd s k u).ctxRuns = s.ctxRuns := rfl
@[simp] theorem setUpd_irq (k : Nat) (u : UpdRun) : (setUpd s k u).irq = s.irq := rfl
@[simp] theorem setUpd_arb (k : Nat) (u : UpdRun) : (setUpd s k u).arb = s.arb := rfl
@[simp] theorem setUpd_frames (k : Nat) (u : UpdRun) : (setUpd s k u).frames = s.frames := rfl
@[simp] theorem setUpd_power (k : Nat) (u : UpdRun) : (setUpd s k u).power = s.power := rfl
@[simp] theorem setUpd_rel (k : Nat) (u : UpdRun) : (setUpd s k u).rel = s.rel := rfl
@[simp] theorem setUpd_sec (k : Nat) (u : UpdRun) : (setUpd s k u).sec = s.sec := rfl
@[simp] theorem setUpd_hostIf (k : Nat) (u : UpdRun) : (setUpd s k u).hostIf = s.hostIf := rfl
@[simp] theorem setUpd_out (k : Nat) (u : UpdRun) : (setUpd s k u).out = s.out := rfl
@[simp] theorem setUpd_freeCtr (k : Nat) (u : UpdRun) : (setUpd s k u).freeCtr = s.freeCtr := rfl
@[simp] theorem reg_setUpd (k : Nat) (u : UpdRun) (i' sub' : Nat) : reg (setUpd s k u) i' sub' = reg s i' sub' := rfl
@[simp] theorem bget_setUpd (k : Nat) (u : UpdRun) (off' : Nat) : bget (setUpd s k u) off' = bget s off' := rfl
@[simp] theorem memByte_setUpd (k : Nat) (u : UpdRun) (a' : Nat) : memByte (setUpd s k u) a' = memByte s a' := rfl
@[simp] theorem engineOf_setUpd (k : Nat) (u : UpdRun) (n' : Nat) : engineOf (setUpd s k u) n' = engineOf s n' := rfl
@[simp] theorem findOp_setUpd (k : Nat) (u : UpdRun) (tag' : Nat) : findOp (setUpd s k u) tag' = findOp s tag' := rfl

/-- A store into one entry leaves every entry of another key. -/
theorem reg_setReg_ne {i sub i' sub' : Nat} (v : Nat) (h : dkey i' sub' ≠ dkey i sub) :
    reg (setReg s i sub v) i' sub' = reg s i' sub' := by
  simp only [reg, setReg]
  rw [SMap.get_set_other _ _ _ h]

@[simp] theorem reg_setReg_same (i sub v : Nat) : reg (setReg s i sub v) i sub = v := by
  simp [reg, setReg]

@[simp] theorem bget_bset_same (off v : Nat) : bget (bset s off v) off = v := by simp [bget, bset]

theorem bget_bset_ne {off off' : Nat} (v : Nat) (h : off' ≠ off) : bget (bset s off v) off' = bget s off' := by
  simp only [bget, bset]
  rw [SMap.get_set_other _ _ _ h]

@[simp] theorem engineOf_setEngine_same (n : Nat) (e : Engine) : engineOf (setEngine s n e) n = e := by
  simp [engineOf, setEngine]

theorem engineOf_setEngine_ne {n n' : Nat} (e : Engine) (h : n' ≠ n) : engineOf (setEngine s n e) n' = engineOf s n' := by
  simp [engineOf, setEngine, SMap.get_set_ne _ _ _ h]

end Sys2Proof.Machine
end

