-- ==== Sys2Proof/Laws/Memory.lean ====
section
/-! SUPPORT. Memory: every operation over it keeps the canonical form, and what a byte reads as after each. -/

namespace Sys2Proof.Machine

/-! The canonical form. -/

theorem putBytes_wf {m : List Host.Cell} (k : Nat) (l : List Byte) (h : SMap.wf m 0 = true) :
    SMap.wf (putBytes m k l) 0 = true := by
  induction l generalizing m k with
  | nil => exact h
  | cons b l ih => exact ih (k + 1) (SMap.wf_set k b h)

theorem putBytesSkip_wf {m : List Host.Cell} (skip : List Nat) (k : Nat) (l : List Byte) (h : SMap.wf m 0 = true) :
    SMap.wf (putBytesSkip m skip k l) 0 = true := by
  induction l generalizing m k with
  | nil => exact h
  | cons b l ih =>
    unfold putBytesSkip
    refine ih (k + 1) ?_
    split
    · exact h
    · exact SMap.wf_set k b h

theorem setEach_wf {m : List Host.Cell} (f : Host.Cell → Nat) (l : List Host.Cell) (h : SMap.wf m 0 = true) :
    SMap.wf (l.foldl (fun t e => SMap.set t (f e) e.2 0) m) 0 = true := by
  induction l generalizing m with
  | nil => exact h
  | cons e l ih => exact ih (SMap.wf_set _ _ h)

theorem moveCells_wf {m : List Host.Cell} (dst src len : Nat) (h : SMap.wf m 0 = true) :
    SMap.wf (moveCells m dst src len) 0 = true :=
  setEach_wf _ _ (SMap.wf_dropRange _ _ h)

theorem clearPoison_mem (s : State) (a len : Nat) : (clearPoison s a len).mem = s.mem := rfl
theorem setPoison_mem (s : State) (a : Nat) : (setPoison s a).mem = s.mem := rfl
theorem bumpBy_mem (s : State) (i sub n : Nat) : (bumpBy s i sub n).mem = s.mem := rfl
theorem bump_mem (s : State) (i sub : Nat) : (bump s i sub).mem = s.mem := rfl

theorem memWrite_mem (s : State) (a : Nat) (l : List Byte) :
    (memWrite s a l).mem = putBytesSkip s.mem (retiredIn s a l.length) a l := rfl

theorem memCopy_mem (s : State) (dst src len : Nat) : (memCopy s dst src len).mem = moveCells s.mem dst src len := rfl

theorem memZero_mem (s : State) (a len : Nat) : (memZero s a len).mem = SMap.dropRange s.mem a (a + len) := rfl

theorem putLine_mem (s : State) (a : Nat) (v : Line) :
    (putLine s a v).mem = putBytes s.mem (lineAddr a) (leBytes 64 v.toNat) := rfl

theorem memWrite_wf {s : State} (a : Nat) (l : List Byte) (h : MemWf s) : MemWf (memWrite s a l) :=
  putBytesSkip_wf _ _ _ h

theorem memWriteVal_wf {s : State} (a n v : Nat) (h : MemWf s) : MemWf (memWriteVal s a n v) := memWrite_wf _ _ h

theorem memCopy_wf {s : State} (dst src len : Nat) (h : MemWf s) : MemWf (memCopy s dst src len) := moveCells_wf _ _ _ h

theorem memZero_wf {s : State} (a len : Nat) (h : MemWf s) : MemWf (memZero s a len) := SMap.wf_dropRange _ _ h

theorem putLine_wf {s : State} (a : Nat) (v : Line) (h : MemWf s) : MemWf (putLine s a v) := putBytes_wf _ _ h

/-- A line write stores at most the merged line. -/
theorem writeLine_mem (s : State) (a : Nat) (v : Line) (mask : BitVec 128) :
    (writeLine s a v mask).mem =
      if isRetired s a || rangeLost s a 1 then s.mem else putBytes s.mem (lineAddr a) (leBytes 64 (mergeLine (lineAt s a) v mask).toNat) := by
  unfold writeLine
  by_cases h1 : isRetired s a <;> by_cases h0 : rangeLost s a 1 <;> by_cases h2 : inLoam a <;> by_cases h3 : maskCovers mask 0 64 <;>
    by_cases h4 : maskCovers mask 64 64 <;> by_cases h5 : maskCovers mask 0 128 <;> simp [h1, h0, h2, h3, h4, h5, putLine_mem, clearPoison_mem, bump_mem]

theorem writeLine_wf {s : State} (a : Nat) (v : Line) (mask : BitVec 128) (h : MemWf s) : MemWf (writeLine s a v mask) := by
  unfold MemWf
  rw [writeLine_mem]
  split
  · exact h
  · exact putBytes_wf _ _ h

theorem leaveOpen_wf {s : State} (a len : Nat) (h : MemWf s) : MemWf (leaveOpen s a len) := by
  unfold MemWf leaveOpen at *
  rw [SMap.wf_iff] at *
  obtain ⟨hp, hd⟩ := h
  have hmid : ∀ (g : Nat × Byte → Byte) (l : List Byte) (n : Nat),
      (((List.range' n l.length).zip l).map (fun e => (a + e.1, g e))).Pairwise (fun x y => x.1 < y.1) ∧
      ∀ e ∈ ((List.range' n l.length).zip l).map (fun e => (a + e.1, g e)), a + n ≤ e.1 ∧ e.1 < a + n + l.length := by
    intro g l
    induction l with
    | nil => intro n; simp
    | cons b l ih =>
      intro n
      obtain ⟨h1, h2⟩ := ih (n + 1)
      simp only [List.length_cons, List.range'_succ, List.zip_cons_cons, List.map_cons, List.pairwise_cons, List.mem_cons]
      refine ⟨⟨fun e he => ?_, h1⟩, ?_⟩
      · have := h2 e he; show a + n < e.1; omega
      · rintro e (rfl | he)
        · simp
        · have := h2 e he; omega
  have hlen : ∀ n v, (leBytes n v).length = n := by
    intro n
    induction n with
    | zero => intro v; rfl
    | succ n ih => intro v; simp [leBytes, ih]
  have hm := hmid (fun e => if (retiredIn s a len).contains (lineAddr (a + e.1)) then memByte s (a + e.1) else e.2)
    (leBytes len (Config.freeValue s.freeCtr)) 0
  rw [hlen, ← List.range_eq_range'] at hm
  obtain ⟨h1, h2⟩ := hm
  refine ⟨?_, ?_⟩
  · rw [List.pairwise_append, List.pairwise_append]
    refine ⟨hp.filter _, ⟨h1.filter _, hp.filter _, ?_⟩, ?_⟩
    · intro x hx y hy
      have hx' := h2 x (List.mem_filter.mp hx).1
      have hy' := (List.mem_filter.mp hy).2
      simp at hy'
      omega
    · intro x hx y hy
      have hx' := (List.mem_filter.mp hx).2
      simp at hx'
      rcases List.mem_append.mp hy with hy | hy
      · have := h2 y (List.mem_filter.mp hy).1; omega
      · have hy' := (List.mem_filter.mp hy).2
        simp at hy'
        omega
  · intro e he
    rcases List.mem_append.mp he with he | he
    · exact hd _ (List.mem_filter.mp he).1
    · rcases List.mem_append.mp he with he | he
      · have := (List.mem_filter.mp he).2
        simpa using this
      · exact hd _ (List.mem_filter.mp he).1

/-! Reading after a write. -/

theorem leBytes_length (n v : Nat) : (leBytes n v).length = n := by
  induction n generalizing v with
  | zero => rfl
  | succ n ih => simp [leBytes, ih]

/-- Bytes stored from key `k` read back; every other key is as before. -/
theorem get_putBytes (m : List Host.Cell) (k a : Nat) (l : List Byte) :
    SMap.get (putBytes m k l) a 0 = if k ≤ a ∧ a < k + l.length then l.getD (a - k) 0 else SMap.get m a 0 := by
  induction l generalizing m k with
  | nil => simp [putBytes]
  | cons b l ih =>
    rw [putBytes, ih, SMap.get_set]
    simp only [List.length_cons]
    by_cases h : a = k
    · subst h
      simp
    · by_cases h2 : k + 1 ≤ a ∧ a < k + 1 + l.length
      · have h3 : k ≤ a ∧ a < k + (l.length + 1) := by omega
        have h4 : a - k = (a - (k + 1)) + 1 := by omega
        rw [if_pos h2, if_pos h3, h4]
        simp
      · have h3 : ¬ (k ≤ a ∧ a < k + (l.length + 1)) := by omega
        rw [if_neg h2, if_neg h3, if_neg h]

/-- The same, but a byte of a skipped line stays. -/
theorem get_putBytesSkip (m : List Host.Cell) (skip : List Nat) (k a : Nat) (l : List Byte) :
    SMap.get (putBytesSkip m skip k l) a 0 =
      if k ≤ a ∧ a < k + l.length ∧ skip.contains (lineAddr a) = false then l.getD (a - k) 0 else SMap.get m a 0 := by
  induction l generalizing m k with
  | nil =>
    have : ¬ (k ≤ a ∧ a < k + ([] : List Byte).length ∧ skip.contains (lineAddr a) = false) := by
      simp only [List.length_nil]; omega
    rw [if_neg this, putBytesSkip]
  | cons b l ih =>
    rw [putBytesSkip, ih]
    simp only [List.length_cons]
    by_cases hs : skip.contains (lineAddr a) = true
    · have hn : ∀ p q : Prop, ¬ (p ∧ q ∧ skip.contains (lineAddr a) = false) := fun p q h => by rw [h.2.2] at hs; cases hs
      rw [if_neg (hn _ _), if_neg (hn _ _)]
      by_cases hk : lineAddr k ∈ skip
      · simp [hk]
      · have hne : a ≠ k := fun e => hk (by subst e; simpa using hs)
        simp [hk, SMap.get_set_ne _ _ _ hne]
    · have hs' : skip.contains (lineAddr a) = false := by simpa using hs
      simp only [hs', and_true]
      by_cases h : a = k
      · subst h
        rw [if_neg hs]
        simp
      · have hg : SMap.get (if skip.contains (lineAddr k) = true then m else SMap.set m k b 0) a 0 = SMap.get m a 0 := by
          split
          · rfl
          · rw [SMap.get_set, if_neg h]
        rw [hg]
        by_cases h2 : k + 1 ≤ a ∧ a < k + 1 + l.length
        · have h3 : k ≤ a ∧ a < k + (l.length + 1) := by omega
          have h4 : a - k = (a - (k + 1)) + 1 := by omega
          rw [if_pos h2, if_pos h3, h4]
          simp
        · have h3 : ¬ (k ≤ a ∧ a < k + (l.length + 1)) := by omega
          rw [if_neg h2, if_neg h3]

/-- A byte after a write: the byte written, unless its line is retired (R394). -/
theorem memByte_memWrite (s : State) (a x : Nat) (l : List Byte) :
    memByte (memWrite s a l) x =
      if a ≤ x ∧ x < a + l.length ∧ (retiredIn s a l.length).contains (lineAddr x) = false then l.getD (x - a) 0
      else memByte s x := by
  simp only [memByte, memWrite_mem, get_putBytesSkip]

theorem memByte_memWrite_outside {s : State} {a x : Nat} {l : List Byte} (h : x < a ∨ a + l.length ≤ x) :
    memByte (memWrite s a l) x = memByte s x := by
  rw [memByte_memWrite, if_neg]
  omega

theorem memByte_memWriteVal_outside {s : State} {a n v x : Nat} (h : x < a ∨ a + n ≤ x) :
    memByte (memWriteVal s a n v) x = memByte s x :=
  memByte_memWrite_outside (by rw [leBytes_length]; exact h)

/-- A byte after zeros are written. -/
theorem memByte_memZero (s : State) (a len x : Nat) :
    memByte (memZero s a len) x = if a ≤ x ∧ x < a + len then 0 else memByte s x := by
  have h := SMap.get_filter s.mem x 0 (fun j => !(decide (a ≤ j) && decide (j < a + len)))
  simp only [memByte, memZero_mem, SMap.dropRange, h]
  by_cases hx : a ≤ x ∧ x < a + len
  · simp [hx]
  · rw [if_neg hx, if_pos]
    simp only [Bool.not_eq_true', Bool.and_eq_false_iff, decide_eq_false_iff_not]
    omega

/-- A byte outside a line write's line is as before. -/
theorem memByte_writeLine_outside {s : State} {a x : Nat} {v : Line} {mask : BitVec 128}
    (h : x < lineAddr a ∨ lineAddr a + 64 ≤ x) : memByte (writeLine s a v mask) x = memByte s x := by
  simp only [memByte, writeLine_mem]
  split
  · rfl
  · rw [get_putBytes, leBytes_length, if_neg]
    omega

theorem get_setEach_outside {m : List Host.Cell} (f : Host.Cell → Nat) (l : List Host.Cell) (x : Nat)
    (h : ∀ e ∈ l, x ≠ f e) :
    SMap.get (l.foldl (fun t e => SMap.set t (f e) e.2 0) m) x 0 = SMap.get m x 0 := by
  induction l generalizing m with
  | nil => rfl
  | cons e l ih =>
    simp only [List.foldl_cons]
    rw [ih (fun e he => h e (List.mem_cons_of_mem _ he)), SMap.get_set_ne _ _ _ (h e List.mem_cons_self)]

/-- A byte outside a copy's destination is as before. -/
theorem memByte_memCopy_outside {s : State} {dst src len x : Nat} (h : x < dst ∨ dst + len ≤ x) :
    memByte (memCopy s dst src len) x = memByte s x := by
  simp only [memByte, memCopy_mem, moveCells]
  rw [get_setEach_outside]
  · have hg := SMap.get_filter s.mem x 0 (fun j => !(decide (dst ≤ j) && decide (j < dst + len)))
    simp only [SMap.dropRange, hg]
    rw [if_pos]
    simp only [Bool.not_eq_true', Bool.and_eq_false_iff, decide_eq_false_iff_not]
    omega
  · intro e he
    have := (List.mem_filter.mp he).2
    simp at this
    omega

end Sys2Proof.Machine
end

