-- ==== Sys2Proof/Laws/Keeps.lean ====
section
/-! SUPPORT. What no operation disturbs: the queue, the canonical form of memory, the order of the level stacks and the fused
versions. One lemma for each operation. -/

namespace Sys2Proof.Machine

/-- A state with this queue, memory, level stacks and versions keeps what the statements about every step ask of `s0`. -/
def Keeping (s0 : State) (p : List Instr) (m : List Host.Cell) (l : SMap (List Nat)) (v : SMap Nat) : Prop :=
  p = s0.pending ∧ (MemWf s0 → SMap.wf m 0 = true) ∧
  (LevelsOrdered s0 → ∀ q, (SMap.get l q []).Pairwise (fun a b => b < a) ∧ ∀ x ∈ SMap.get l q [], 1 ≤ x ∧ x ≤ 15) ∧
  ∀ k, SMap.get s0.fuses.svn k 0 ≤ SMap.get v k 0

/-- State `t` keeps it. -/
def Keeps (s0 t : State) : Prop := Keeping s0 t.pending t.mem t.irq.levels t.fuses.svn

/-- Whatever next state the outcome has keeps it. -/
def OutKeeps (s0 : State) (o : Out) : Prop := ∀ t, o = .next t → Keeps s0 t

@[simp] theorem OutKeeps.next (s0 t : State) : OutKeeps s0 (.next t) ↔ Keeps s0 t := by simp [OutKeeps]

@[simp] theorem Keeping.fold (s0 t : State) : Keeping s0 t.pending t.mem t.irq.levels t.fuses.svn ↔ Keeps s0 t := Iff.rfl

@[simp] theorem Keeps.mk_iff (s0 : State) (x0 : List Instr) (x1 : Pins) (x2 : Aon) (x3 : SMap Nat) (x4 : SMap Nat) (x5 : List Host.Cell) (x6 : List Host.Cell) (x7 : Fuses) (x8 : List Op) (x9 : List ReadyRec) (x10 : SMap Nat) (x11 : SMap Bool) (x12 : SMap Partition) (x13 : SMap ArrayUnit) (x14 : SMap Engine) (x15 : List Capture) (x16 : SMap (Nat × Nat × Bool)) (x17 : SMap CtxRun) (x18 : Hbm) (x19 : SMap SyncObj) (x20 : Nat) (x21 : List WaitReq) (x22 : SMap Line) (x23 : SMap Line) (x24 : SMap Nat) (x25 : Fabric) (x26 : SMap (List Rank)) (x27 : SMap (SMap Byte)) (x28 : List Bucket) (x29 : SMap CollRun) (x30 : SMap (List Nat)) (x31 : SMap UpdRun) (x32 : List SavedImage) (x33 : Nat) (x34 : Irq) (x35 : SMap ArbUnit) (x36 : Frames) (x37 : Power) (x38 : Rel) (x39 : Sec) (x40 : HostIf) (x41 : List Output) (x42 : Nat) :
    Keeps s0 (State.mk x0 x1 x2 x3 x4 x5 x6 x7 x8 x9 x10 x11 x12 x13 x14 x15 x16 x17 x18 x19 x20 x21 x22 x23 x24 x25 x26 x27 x28 x29 x30 x31 x32 x33 x34 x35 x36 x37 x38 x39 x40 x41 x42) ↔ Keeping s0 x0 x6 x34.levels x7.svn := Iff.rfl

@[simp] theorem Keeps.refl (s : State) : Keeps s s := ⟨rfl, id, id, fun _ => Nat.le_refl _⟩

theorem Keeps.trans {s t u : State} (h1 : Keeps s t) (h2 : Keeps t u) : Keeps s u :=
  ⟨h2.1.trans h1.1, fun h => h2.2.1 (h1.2.1 h), fun h => h2.2.2.1 (h1.2.2.1 h), fun k => Nat.le_trans (h1.2.2.2 k) (h2.2.2.2 k)⟩

@[simp] theorem Keeps.ite (s0 a b : State) (c : Prop) [Decidable c] :
    Keeps s0 (if c then a else b) ↔ (c → Keeps s0 a) ∧ (¬ c → Keeps s0 b) := by
  by_cases h : c <;> simp [h]

@[simp] theorem OutKeeps.ite (s0 : State) (a b : Out) (c : Prop) [Decidable c] :
    OutKeeps s0 (if c then a else b) ↔ (c → OutKeeps s0 a) ∧ (¬ c → OutKeeps s0 b) := by
  by_cases h : c <;> simp [h]

variable {s0 s : State} {p : List Instr} {m : List Host.Cell} {l : SMap (List Nat)} {v : SMap Nat}

/-- Any memory in canonical form will do. -/
theorem Keeping.mem (h : Keeping s0 p m l v) {m' : List Host.Cell} (hm : SMap.wf m 0 = true → SMap.wf m' 0 = true) :
    Keeping s0 p m' l v := ⟨h.1, fun w => hm (h.2.1 w), h.2.2⟩

theorem Keeping.noMem (h : Keeping s0 p m l v) : Keeping s0 p [] l v := ⟨h.1, fun _ => rfl, h.2.2⟩

theorem Keeping.noLevels (h : Keeping s0 p m l v) : Keeping s0 p m [] v := ⟨h.1, h.2.1, fun _ _ => by simp [SMap.get], h.2.2.2⟩

@[simp] theorem foldl_keeps {α : Type} {f : State → α → State} (hf : ∀ t x, Keeps s0 t → Keeps s0 (f t x)) (xs : List α)
    (h : Keeps s0 s) : Keeps s0 (xs.foldl f s) := by
  induction xs generalizing s with
  | nil => exact h
  | cons x xs ih => exact ih (hf _ _ h)

end Sys2Proof.Machine
end

