-- ==== Sys2Proof/Laws/KeepsCore.lean ====
section
/-! SUPPORT. What no operation disturbs: registers, interrupts, messages, events, memory, queues and power. One lemma for each operation. -/

namespace Sys2Proof.Machine

/-! Machine/Regs.lean. -/

@[simp] theorem setReg_keeps {s0 : State} (s : State) (i : Nat) (sub : Nat) (v : Nat) (hs : Keeps s0 s) : Keeps s0 (setReg s i sub v) := by
  unfold setReg
  simp +contextual (maxDischargeDepth := 30) [hs]

@[simp] theorem bumpBy_keeps {s0 : State} (s : State) (i : Nat) (sub : Nat) (n : Nat) (hs : Keeps s0 s) : Keeps s0 (bumpBy s i sub n) := by
  unfold bumpBy
  simp +contextual (maxDischargeDepth := 30) [hs]

@[simp] theorem bump_keeps {s0 : State} (s : State) (i : Nat) (sub : Nat) (hs : Keeps s0 s) : Keeps s0 (bump s i sub) := by
  unfold bump
  simp +contextual (maxDischargeDepth := 30) [hs]

@[simp] theorem bumpSat32_keeps {s0 : State} (s : State) (i : Nat) (sub : Nat) (n : Nat) (hs : Keeps s0 s) : Keeps s0 (bumpSat32 s i sub n) := by
  unfold bumpSat32
  simp +contextual (maxDischargeDepth := 30) [hs]

@[simp] theorem emit_keeps {s0 : State} (s : State) (o : Output) (hs : Keeps s0 s) : Keeps s0 (emit s o) := by
  unfold emit
  simp +contextual (maxDischargeDepth := 30) [hs]

@[simp] theorem bset_keeps {s0 : State} (s : State) (off : Nat) (v : Nat) (hs : Keeps s0 s) : Keeps s0 (bset s off v) := by
  unfold bset
  simp +contextual (maxDischargeDepth := 30) [hs]

@[simp] theorem domWrite_keeps {s0 : State} (s : State) (i : Nat) (sub : Nat) (off : Nat) (l : List Byte) (hs : Keeps s0 s) : Keeps s0 (domWrite s i sub off l) := by
  unfold domWrite
  simp +contextual (maxDischargeDepth := 30) [hs]

@[simp] theorem nextFree_keeps {s0 : State} (s : State) (hs : Keeps s0 s) : Keeps s0 (nextFree s) := by
  unfold nextFree
  simp +contextual (maxDischargeDepth := 30) [hs]

/-! Machine/Interrupts.lean. -/

@[simp] theorem startTimer_keeps {s0 : State} (s : State) (g : Nat) (hs : Keeps s0 s) : Keeps s0 (startTimer s g) := by
  unfold startTimer
  simp +contextual (maxDischargeDepth := 30) [hs]

@[simp] theorem sendMsix_keeps {s0 : State} (s : State) (n : Nat) (hs : Keeps s0 s) : Keeps s0 (sendMsix s n) := by
  unfold sendMsix
  simp +contextual (maxDischargeDepth := 30) [hs]

@[simp] theorem msixOnRise_keeps {s0 : State} (s : State) (n : Nat) (hs : Keeps s0 s) : Keeps s0 (msixOnRise s n) := by
  unfold msixOnRise
  simp +contextual (maxDischargeDepth := 30) [hs]

@[simp] theorem linesRose_keeps {s0 : State} (before : State) (s : State) (hs : Keeps s0 s) : Keeps s0 (linesRose before s) := by
  unfold linesRose
  simp +contextual (maxDischargeDepth := 30) [hs]

@[simp] theorem raise_keeps {s0 : State} (s : State) (n : Nat) (hs : Keeps s0 s) : Keeps s0 (raise s n) := by
  unfold raise
  simp +contextual (maxDischargeDepth := 30) [hs]

@[simp] theorem raiseAll_keeps {s0 : State} (s : State) (l : List Nat) (hs : Keeps s0 s) : Keeps s0 (raiseAll s l) := by
  unfold raiseAll
  simp +contextual (maxDischargeDepth := 30) [hs]

@[simp] theorem setCond_keeps {s0 : State} (s : State) (n : Nat) (b : Bool) (hs : Keeps s0 s) : Keeps s0 (setCond s n b) := by
  unfold setCond
  simp +contextual (maxDischargeDepth := 30) [hs]

@[simp] theorem clearPending_keeps {s0 : State} (s : State) (n : Nat) (hs : Keeps s0 s) : Keeps s0 (clearPending s n) := by
  unfold clearPending
  simp +contextual (maxDischargeDepth := 30) [hs]

/-! Machine/Messages.lean. -/

@[simp] theorem setLink_keeps {s0 : State} (s : State) (p : Nat) (l : Link) (hs : Keeps s0 s) : Keeps s0 (setLink s p l) := by
  unfold setLink
  simp +contextual (maxDischargeDepth := 30) [hs]

@[simp] theorem discardMsg_keeps {s0 : State} (s : State) (hs : Keeps s0 s) : Keeps s0 (discardMsg s) := by
  unfold discardMsg
  simp +contextual (maxDischargeDepth := 30) [hs]

@[simp] theorem beginReq_keeps {s0 : State} (s : State) (m : Msg) (hs : Keeps s0 s) : Keeps s0 (beginReq s m) := by
  unfold beginReq
  simp +contextual (maxDischargeDepth := 30) [hs]

theorem sendCell_keeps {s0 : State} (s : State) (p : Nat) (hs : Keeps s0 s) {t : State} (ht : sendCell s p = some t) : Keeps s0 t := by
  unfold sendCell at ht
  dsimp only at ht
  split at ht
  · cases ht
  · split at ht
    · cases ht
    · refine Option.some.inj ht ▸ bump_keeps _ _ _ (emit_keeps _ _ (foldl_keeps (fun t x h => beginReq_keeps _ _ h) _ ?_))
      exact setLink_keeps _ _ _ hs

@[simp] theorem sendCells_keeps {s0 : State} (x0 : Nat) (x1 : State) (x2 : Nat) (hs : Keeps s0 x1) : Keeps s0 (sendCells x0 x1 x2) := by
  induction x0 generalizing x1 with
  | zero => exact hs
  | succ n ih =>
    unfold sendCells
    split
    · exact hs
    · exact ih _ (sendCell_keeps _ _ hs ‹_›)

@[simp] theorem pumpPort_keeps {s0 : State} (s : State) (p : Nat) (hs : Keeps s0 s) : Keeps s0 (pumpPort s p) := by
  unfold pumpPort
  simp +contextual (maxDischargeDepth := 30) [hs]

@[simp] theorem sendOn_keeps {s0 : State} (s : State) (p : Nat) (w : Nat) (m : Msg) (hs : Keeps s0 s) : Keeps s0 (sendOn s p w m) := by
  unfold sendOn
  simp +contextual (maxDischargeDepth := 30) [hs]

@[simp] theorem loopSend_keeps {s0 : State} (s : State) (m : Msg) (hs : Keeps s0 s) : Keeps s0 (loopSend s m) := by
  unfold loopSend
  simp +contextual (maxDischargeDepth := 30) [hs]

theorem trySend_keeps {s0 : State} (s : State) (m : Msg) (hs : Keeps s0 s) {t : State} (ht : trySend s m = some t) : Keeps s0 t := by
  unfold trySend at ht
  split at ht
  · cases ht; simp [hs]
  · split at ht
    · cases ht
    · cases ht; simp [hs]

@[simp] theorem sendOrDrop_keeps {s0 : State} (s : State) (m : Msg) (hs : Keeps s0 s) : Keeps s0 (sendOrDrop s m) := by
  unfold sendOrDrop
  split
  · exact trySend_keeps _ _ hs ‹_›
  · simp [hs]

@[simp] theorem unroutable_keeps {s0 : State} (s : State) (m : Msg) (hs : Keeps s0 s) : Keeps s0 (unroutable s m) := by
  unfold unroutable
  simp +contextual (maxDischargeDepth := 30) [hs]

@[simp] theorem noticeAll_keeps {s0 : State} (s : State) (type : Nat) (body : Line) (hs : Keeps s0 s) : Keeps s0 (noticeAll s type body) := by
  unfold noticeAll
  simp +contextual (maxDischargeDepth := 30) [hs]

/-! Machine/Events.lean. -/

@[simp] theorem fieldNotify_keeps {s0 : State} (s : State) (f : List Byte) (hs : Keeps s0 s) : Keeps s0 (fieldNotify s f) := by
  unfold fieldNotify
  simp +contextual (maxDischargeDepth := 30) [hs]

@[simp] theorem notify_keeps {s0 : State} (s : State) (bit : Nat) (index : Nat) (sub : Nat) (payload : List Byte) (hs : Keeps s0 s) : Keeps s0 (notify s bit index sub payload) := by
  unfold notify
  simp +contextual (maxDischargeDepth := 30) [hs]

@[simp] theorem countMs_keeps {s0 : State} (s : State) (e : Event) (hs : Keeps s0 s) : Keeps s0 (countMs s e) := by
  unfold countMs
  simp +contextual (maxDischargeDepth := 30) [hs]

@[simp] theorem faultNotice_keeps {s0 : State} (s : State) (entry : List Byte) (hs : Keeps s0 s) : Keeps s0 (faultNotice s entry) := by
  unfold faultNotice
  simp +contextual (maxDischargeDepth := 30) [hs]

@[simp] theorem driveFaultN_keeps {s0 : State} (s : State) (hs : Keeps s0 s) : Keeps s0 (driveFaultN s) := by
  unfold driveFaultN
  simp +contextual (maxDischargeDepth := 30) [hs]

@[simp] theorem report_keeps {s0 : State} (s : State) (e : Event) (entry : List Byte) (hs : Keeps s0 s) : Keeps s0 (report s e entry) := by
  unfold report
  simp +contextual (maxDischargeDepth := 30) [hs]

@[simp] theorem writeEntryOf_keeps {s0 : State} (s : State) (e : Event) (outcome : Nat) (hs : Keeps s0 s) : Keeps s0 (writeEntryOf s e outcome) := by
  unfold writeEntryOf
  simp +contextual (maxDischargeDepth := 30) [hs]

@[simp] theorem noteLoc_keeps {s0 : State} (s : State) (code : Nat) (unit : Nat) (loc : Nat) (hs : Keeps s0 s) : Keeps s0 (noteLoc s code unit loc) := by
  unfold noteLoc
  simp +contextual (maxDischargeDepth := 30) [hs]

@[simp] theorem addTest_keeps {s0 : State} (s : State) (e : Event) (detail : Nat) (t : TestKind × Nat × Nat) (hs : Keeps s0 s) : Keeps s0 (addTest s e detail t) := by
  unfold addTest
  simp +contextual (maxDischargeDepth := 30) [hs]

@[simp] theorem logEvent_keeps {s0 : State} (s : State) (e : Event) (hs : Keeps s0 s) : Keeps s0 (logEvent s e) := by
  unfold logEvent
  simp +contextual (maxDischargeDepth := 30) [hs]

/-! Machine/Ops.lean. -/

@[simp] theorem clearPoison_keeps {s0 : State} (s : State) (a : Nat) (len : Nat) (hs : Keeps s0 s) : Keeps s0 (clearPoison s a len) := by
  unfold clearPoison
  simp +contextual (maxDischargeDepth := 30) [hs]

@[simp] theorem memWrite_keeps {s0 : State} (s : State) (a : Nat) (l : List Byte) (hs : Keeps s0 s) : Keeps s0 (memWrite s a l) := by
  exact hs.mem fun w => putBytesSkip_wf _ _ _ w

@[simp] theorem memWriteVal_keeps {s0 : State} (s : State) (a : Nat) (n : Nat) (v : Nat) (hs : Keeps s0 s) : Keeps s0 (memWriteVal s a n v) := by
  unfold memWriteVal
  simp +contextual (maxDischargeDepth := 30) [hs]

@[simp] theorem memCopy_keeps {s0 : State} (s : State) (dst : Nat) (src : Nat) (len : Nat) (hs : Keeps s0 s) : Keeps s0 (memCopy s dst src len) := by
  exact hs.mem fun w => moveCells_wf _ _ _ w

@[simp] theorem leaveOpen_keeps {s0 : State} (s : State) (a : Nat) (len : Nat) (hs : Keeps s0 s) : Keeps s0 (leaveOpen s a len) := by
  exact hs.mem fun w => leaveOpen_wf (s := s) _ _ w

@[simp] theorem memZero_keeps {s0 : State} (s : State) (a : Nat) (len : Nat) (hs : Keeps s0 s) : Keeps s0 (memZero s a len) := by
  exact hs.mem fun w => SMap.wf_dropRange _ _ w

@[simp] theorem putLine_keeps {s0 : State} (s : State) (a : Nat) (v : Line) (hs : Keeps s0 s) : Keeps s0 (putLine s a v) := by
  unfold putLine
  rw [Keeps.mk_iff]
  exact hs.mem fun w => putBytes_wf (lineAddr a) (leBytes 64 v.toNat) w

@[simp] theorem writeLine_keeps {s0 : State} (s : State) (a : Nat) (v : Line) (mask : BitVec 128) (hs : Keeps s0 s) : Keeps s0 (writeLine s a v mask) := by
  unfold writeLine
  simp +contextual (maxDischargeDepth := 30) [hs]

@[simp] theorem setPoison_keeps {s0 : State} (s : State) (a : Nat) (hs : Keeps s0 s) : Keeps s0 (setPoison s a) := by
  unfold setPoison
  simp +contextual (maxDischargeDepth := 30) [hs]

@[simp] theorem eccFind_keeps {s0 : State} (s : State) (a : Nat) (r : EccResult) (ctx : Option Nat) (opId : Nat) (hs : Keeps s0 s) : Keeps s0 (eccFind s a r ctx opId) := by
  unfold eccFind
  repeat' (first | (simp +contextual (maxDischargeDepth := 30) [hs]; done) | (refine (OutKeeps.next _ _).2 ?_) | dsimp only | split)

@[simp] theorem logUnassigned_keeps {s0 : State} (s : State) (a : Nat) (ctx : Option Nat) (opId : Nat) (hs : Keeps s0 s) : Keeps s0 (logUnassigned s a ctx opId) := by
  unfold logUnassigned
  simp +contextual (maxDischargeDepth := 30) [hs]

@[simp] theorem updOp_keeps {s0 : State} (s : State) (tag : Nat) (f : Op → Op) (hs : Keeps s0 s) : Keeps s0 (updOp s tag f) := by
  unfold updOp
  simp +contextual (maxDischargeDepth := 30) [hs]

@[simp] theorem endOp_keeps {s0 : State} (s : State) (tag : Nat) (st : Nat) (hs : Keeps s0 s) : Keeps s0 (endOp s tag st) := by
  unfold endOp
  simp +contextual (maxDischargeDepth := 30) [hs]

/-! Machine/Operands.lean. -/

@[simp] theorem Tensor.store_keeps {s0 : State} (t : Tensor) (s : State) (r : Nat) (c : Nat) (v : Nat) (hs : Keeps s0 s) : Keeps s0 (Tensor.store t s r c v) := by
  unfold Tensor.store
  simp +contextual (maxDischargeDepth := 30) [hs]

@[simp] theorem Tensor.storeBlock_keeps {s0 : State} (t : Tensor) (s : State) (r : Nat) (c : Nat) (scale : Nat) (elems : List Nat) (hs : Keeps s0 s) : Keeps s0 (Tensor.storeBlock t s r c scale elems) := by
  unfold Tensor.storeBlock
  simp +contextual (maxDischargeDepth := 30) [hs]

/-! Machine/Queues.lean. -/

@[simp] theorem setQState_keeps {s0 : State} (s : State) (q : Nat) (st : Nat) (hs : Keeps s0 s) : Keeps s0 (setQState s q st) := by
  unfold setQState
  simp +contextual (maxDischargeDepth := 30) [hs]

@[simp] theorem stopQueue_keeps {s0 : State} (s : State) (q : Nat) (reason : Nat) (hs : Keeps s0 s) : Keeps s0 (stopQueue s q reason) := by
  unfold stopQueue
  simp +contextual (maxDischargeDepth := 30) [hs]

@[simp] theorem askHostSlot_keeps {s0 : State} (s : State) (q : Nat) (hs : Keeps s0 s) : Keeps s0 (askHostSlot s q) := by
  unfold askHostSlot
  simp +contextual (maxDischargeDepth := 30) [hs]

@[simp] theorem slotAnswered_keeps {s0 : State} (s : State) (q : Nat) (hs : Keeps s0 s) : Keeps s0 (slotAnswered s q) := by
  unfold slotAnswered
  simp +contextual (maxDischargeDepth := 30) [hs]

@[simp] theorem setArray_keeps {s0 : State} (s : State) (a : Nat) (u : ArrayUnit) (hs : Keeps s0 s) : Keeps s0 (setArray s a u) := by
  unfold setArray
  simp +contextual (maxDischargeDepth := 30) [hs]

@[simp] theorem takeHead_keeps {s0 : State} (s : State) (q : Nat) (hs : Keeps s0 s) : Keeps s0 (takeHead s q) := by
  unfold takeHead
  simp +contextual (maxDischargeDepth := 30) [hs]

@[simp] theorem addOp_keeps {s0 : State} (s : State) (o : Op) (hs : Keeps s0 s) : Keeps s0 (addOp s o) := by
  unfold addOp
  simp +contextual (maxDischargeDepth := 30) [hs]

@[simp] theorem dispatch_keeps {s0 : State} (s : State) (q : Nat) (tag : Nat) (accept : Nat → Bool) (kind : OpKind) (k : State → Op → State) (hk : ∀ t o, Keeps s0 t → Keeps s0 (k t o)) (hs : Keeps s0 s) : Keeps s0 (dispatch s q tag accept kind k) := by
  unfold dispatch
  repeat' (first | (simp +contextual (maxDischargeDepth := 30) [hs, hk]; done) | (refine (OutKeeps.next _ _).2 ?_) | dsimp only | split)

@[simp] theorem refuse_keeps {s0 : State} (s : State) (o : Op) (st : Nat) (hs : Keeps s0 s) : Keeps s0 (refuse s o st) := by
  unfold refuse
  simp +contextual (maxDischargeDepth := 30) [hs]

@[simp] theorem pushRecord_keeps {s0 : State} (s : State) (r : Nat) (w : BitVec 256) (tag : Option Nat) (hs : Keeps s0 s) : Keeps s0 (pushRecord s r w tag) := by
  unfold pushRecord
  simp +contextual (maxDischargeDepth := 30) [hs]

@[simp] theorem putRecord_keeps {s0 : State} (s : State) (r : Nat) (w : BitVec 256) (hs : Keeps s0 s) : Keeps s0 (putRecord s r w) := by
  unfold putRecord
  simp +contextual (maxDischargeDepth := 30) [hs]

@[simp] theorem freeTag_keeps {s0 : State} (s : State) (tag : Option Nat) (hs : Keeps s0 s) : Keeps s0 (freeTag s tag) := by
  unfold freeTag
  repeat' (first | (simp +contextual (maxDischargeDepth := 30) [hs]; done) | (refine (OutKeeps.next _ _).2 ?_) | dsimp only | split)

@[simp] theorem dropReady_keeps {s0 : State} (s : State) (r : Nat) (hs : Keeps s0 s) : Keeps s0 (dropReady s r) := by
  unfold dropReady
  simp +contextual (maxDischargeDepth := 30) [hs]

@[simp] theorem flushSlots_keeps {s0 : State} (s : State) (c : Nat) (q : Nat) (x3 : Nat) (x4 : List Nat) (hs : Keeps s0 s) : Keeps s0 (flushSlots s c q x3 x4) := by
  induction x3 generalizing s x4 with
  | zero => exact hs
  | succ n ih =>
    unfold flushSlots
    repeat' (first | (simp +contextual (maxDischargeDepth := 30) [hs, ih, flushSlots.flushOne]; done) | dsimp only | split)

@[simp] theorem flushSlots.flushOne_keeps {s0 : State} (s : State) (c : Nat) (q : Nat) (t : Nat) (d : BitVec 1024) (hs : Keeps s0 s) : Keeps s0 (flushSlots.flushOne s c q t d) := by
  unfold flushSlots.flushOne
  simp +contextual (maxDischargeDepth := 30) [hs]

@[simp] theorem returnQueues_keeps {s0 : State} (s : State) (c : Nat) (hs : Keeps s0 s) : Keeps s0 (returnQueues s c) := by
  unfold returnQueues
  simp +contextual (maxDischargeDepth := 30) [hs]

/-! Machine/DictTable.lean. -/

@[simp] theorem tryWrite_keeps {s0 : State} (s : State) (p : Path) (i : Nat) (sub : Nat) (len : Nat) (v : Nat) (pre : State → Nat) (eff : State → State) (he : ∀ t, Keeps s0 t → Keeps s0 (eff t)) (hs : Keeps s0 s) : Keeps s0 (tryWrite s p i sub len v pre eff).2 := by
  unfold tryWrite
  repeat' (first | (simp +contextual (maxDischargeDepth := 30) [hs, he]; done) | (refine (OutKeeps.next _ _).2 ?_) | dsimp only | split)

@[simp] theorem answerTo_keeps {s0 : State} (p : Path) (r : Nat × State) (hs : Keeps s0 r.2) : Keeps s0 (answerTo p r) := by
  unfold answerTo
  simp +contextual (maxDischargeDepth := 30) [hs]

@[simp] theorem guarded_keeps {s0 : State} (s : State) (p : Path) (i : Nat) (sub : Nat) (len : Nat) (v : Nat) (pre : State → Nat) (eff : State → State) (he : ∀ t, Keeps s0 t → Keeps s0 (eff t)) (hs : Keeps s0 s) : OutKeeps s0 (guarded s p i sub len v pre eff) := by
  unfold guarded
  simp +contextual (maxDischargeDepth := 30) [hs, he]

/-! Machine/Repairs.lean. -/

@[simp] theorem setRecords_keeps {s0 : State} (s : State) (a : Nat) (l : List Nat) (hs : Keeps s0 s) : Keeps s0 (setRecords s a l) := by
  unfold setRecords
  simp +contextual (maxDischargeDepth := 30) [hs]

@[simp] theorem logRetired_keeps {s0 : State} (s : State) (unit : Nat) (srcs : List Nat) (idx : Option Nat) (hs : Keeps s0 s) : Keeps s0 (logRetired s unit srcs idx) := by
  unfold logRetired
  simp +contextual (maxDischargeDepth := 30) [hs]

@[simp] theorem recordRetired_keeps {s0 : State} (s : State) (site : Nat) (unit : Nat) (loc : Nat) (srcs : List Nat) (hs : Keeps s0 s) : Keeps s0 (recordRetired s site unit loc srcs) := by
  unfold recordRetired
  repeat' (first | (simp +contextual (maxDischargeDepth := 30) [hs]; done) | (refine (OutKeeps.next _ _).2 ?_) | dsimp only | split)

@[simp] theorem markRetired_keeps {s0 : State} (s : State) (lines : List Nat) (hs : Keeps s0 s) : Keeps s0 (markRetired s lines) := by
  unfold markRetired
  simp +contextual (maxDischargeDepth := 30) [hs]

@[simp] theorem retireLoamLine_keeps {s0 : State} (s : State) (a : Nat) (hs : Keeps s0 s) : Keeps s0 (retireLoamLine s a) := by
  unfold retireLoamLine
  simp +contextual (maxDischargeDepth := 30) [hs]

@[simp] theorem retireRow_keeps {s0 : State} (s : State) (r : HbmRow) (hs : Keeps s0 s) : Keeps s0 (retireRow s r) := by
  unfold retireRow
  simp +contextual (maxDischargeDepth := 30) [hs]

@[simp] theorem stopBound_keeps {s0 : State} (s : State) (a : Nat) (reason : Nat) (bad : Nat → Bool) (hs : Keeps s0 s) : Keeps s0 (stopBound s a reason bad) := by
  unfold stopBound
  simp +contextual (maxDischargeDepth := 30) [hs]

@[simp] theorem showSppr_keeps {s0 : State} (s : State) (st : Nat) (hs : Keeps s0 s) : Keeps s0 (showSppr s st) := by
  unfold showSppr
  simp +contextual (maxDischargeDepth := 30) [hs]

@[simp] theorem softRepair_keeps {s0 : State} (s : State) (r : HbmRow) (hs : Keeps s0 s) : Keeps s0 (softRepair s r) := by
  unfold softRepair
  simp +contextual (maxDischargeDepth := 30) [hs]

/-! Machine/Pace.lean. -/

@[simp] theorem setMargin_keeps {s0 : State} (s : State) (u : Nat) (m : Margin) (hs : Keeps s0 s) : Keeps s0 (setMargin s u m) := by
  unfold setMargin
  simp +contextual (maxDischargeDepth := 30) [hs]

@[simp] theorem backOff_keeps {s0 : State} (s : State) (u : Nat) (hs : Keeps s0 s) : Keeps s0 (backOff s u) := by
  unfold backOff
  simp +contextual (maxDischargeDepth := 30) [hs]

@[simp] theorem cleanCheck_keeps {s0 : State} (s : State) (u : Nat) (hs : Keeps s0 s) : Keeps s0 (cleanCheck s u) := by
  unfold cleanCheck
  simp +contextual (maxDischargeDepth := 30) [hs]

@[simp] theorem markActive_keeps {s0 : State} (s : State) (u : Nat) (hs : Keeps s0 s) : Keeps s0 (markActive s u) := by
  unfold markActive
  simp +contextual (maxDischargeDepth := 30) [hs]

@[simp] theorem rampArray_keeps {s0 : State} (s : State) (skew : Nat) (a : Nat) (hs : Keeps s0 s) : Keeps s0 (rampArray s skew a) := by
  unfold rampArray
  simp +contextual (maxDischargeDepth := 30) [hs]

@[simp] theorem rampTrigger_keeps {s0 : State} (s : State) (skew : Nat) (hs : Keeps s0 s) : Keeps s0 (rampTrigger s skew) := by
  unfold rampTrigger
  simp +contextual (maxDischargeDepth := 30) [hs]

@[simp] theorem startStop_keeps {s0 : State} (s : State) (reason : Nat) (hs : Keeps s0 s) : Keeps s0 (startStop s reason) := by
  unfold startStop
  simp +contextual (maxDischargeDepth := 30) [hs]

@[simp] theorem shiftTimes_keeps {s0 : State} (s : State) (d : Nat) (hs : Keeps s0 s) : Keeps s0 (shiftTimes s d) := by
  unfold shiftTimes
  simp +contextual (maxDischargeDepth := 30) [hs]

/-! Machine/Power.lean. -/

@[simp] theorem effCoolantResume_keeps {s0 : State} (v : Nat) (s : State) (hs : Keeps s0 s) : Keeps s0 (effCoolantResume v s) := by
  unfold effCoolantResume
  simp +contextual (maxDischargeDepth := 30) [hs]

@[simp] theorem noteLimits_keeps {s0 : State} (s : State) (d : Nat) (hs : Keeps s0 s) : Keeps s0 (noteLimits s d) := by
  unfold noteLimits
  simp +contextual (maxDischargeDepth := 30) [hs]

@[simp] theorem ageingFault_keeps {s0 : State} (s : State) (a : Nat) (hs : Keeps s0 s) : Keeps s0 (ageingFault s a) := by
  unfold ageingFault
  simp +contextual (maxDischargeDepth := 30) [hs]

@[simp] theorem evaluate_keeps {s0 : State} (s : State) (hs : Keeps s0 s) : Keeps s0 (evaluate s) := by
  delta evaluate
  dsimp only
  refine setCond_keeps _ _ _ (setReg_keeps _ _ _ _ ?_)
  rw [Keeps.mk_iff]
  rw [nextFree_pending, nextFree_mem, nextFree_irq, nextFree_fuses, Keeping.fold]
  apply foldl_keeps
  · intro t a ht
    exact setReg_keeps _ _ _ _ ht
  · apply foldl_keeps
    · intro t a ht
      exact setReg_keeps _ _ _ _ ht
    · exact hs

@[simp] theorem effShareShadow_keeps {s0 : State} (v : Nat) (s : State) (hs : Keeps s0 s) : Keeps s0 (effShareShadow v s) := by
  unfold effShareShadow
  simp +contextual (maxDischargeDepth := 30) [hs]

@[simp] theorem effPowerState_keeps {s0 : State} (p : Path) (v : Nat) (s : State) (hs : Keeps s0 s) : Keeps s0 (effPowerState p v s) := by
  unfold effPowerState
  simp +contextual (maxDischargeDepth := 30) [hs]

@[simp] theorem saveIrq_keeps {s0 : State} (s : State) (hs : Keeps s0 s) : Keeps s0 (saveIrq s) := by
  unfold saveIrq
  simp +contextual (maxDischargeDepth := 30) [hs]

@[simp] theorem linesStart_keeps {s0 : State} (s : State) (hs : Keeps s0 s) : Keeps s0 (linesStart s) := by
  unfold linesStart
  simp +contextual (maxDischargeDepth := 30) [hs]

end Sys2Proof.Machine
end

