-- ==== Sys2Proof/Laws/KeepsCompute.lean ====
section
/-! SUPPORT. What no operation disturbs: matrix and vector units, sync objects, buckets and the update. One lemma for each operation. -/

namespace Sys2Proof.Machine

/-! Machine/Capture.lean. -/

@[simp] theorem operandView_keeps {s0 : State} (s : State) (o : Op) (hs : Keeps s0 s) : Keeps s0 (operandView s o) := by
  unfold operandView
  simp +contextual (maxDischargeDepth := 30) [hs]

@[simp] theorem applyPiece_keeps {s0 : State} (d : Nat) (s : State) (x2 : Piece) (hs : Keeps s0 s) : Keeps s0 (applyPiece d s x2) := by
  unfold applyPiece
  repeat' (first | (simp +contextual (maxDischargeDepth := 30) [hs]; done) | (refine (OutKeeps.next _ _).2 ?_) | dsimp only | split)

@[simp] theorem dropSample_keeps {s0 : State} (s : State) (a : Nat) (hs : Keeps s0 s) : Keeps s0 (dropSample s a) := by
  unfold dropSample
  simp +contextual (maxDischargeDepth := 30) [hs]

@[simp] theorem noteWide_keeps {s0 : State} (s : State) (o : Op) (addr : Nat) (outer : Nat) (hs : Keeps s0 s) : Keeps s0 (noteWide s o addr outer) := by
  unfold noteWide
  repeat' (first | (simp +contextual (maxDischargeDepth := 30) [hs]; done) | (refine (OutKeeps.next _ _).2 ?_) | dsimp only | split)

@[simp] theorem captureTile_keeps {s0 : State} (s : State) (a : Nat) (ii : Nat) (tile : Nat) (o : Op) (rows : List Nat) (cols : List Nat) (cIn : SMap Acc) (hs : Keeps s0 s) : Keeps s0 (captureTile s a ii tile o rows cols cIn) := by
  unfold captureTile
  repeat' (first | (simp +contextual (maxDischargeDepth := 30) [hs]; done) | (refine (OutKeeps.next _ _).2 ?_) | dsimp only | split)

@[simp] theorem offerTile_keeps {s0 : State} (s : State) (a : Nat) (ii : Nat) (tile : Nat) (o : Op) (rows : List Nat) (cols : List Nat) (cIn : SMap Acc) (hs : Keeps s0 s) : Keeps s0 (offerTile s a ii tile o rows cols cIn) := by
  unfold offerTile
  simp +contextual (maxDischargeDepth := 30) [hs]

@[simp] theorem updCap_keeps {s0 : State} (s : State) (tag : Nat) (tile : Nat) (f : Capture → Capture) (hs : Keeps s0 s) : Keeps s0 (updCap s tag tile f) := by
  unfold updCap
  simp +contextual (maxDischargeDepth := 30) [hs]

@[simp] theorem releaseTaps_keeps {s0 : State} (s : State) (hs : Keeps s0 s) : Keeps s0 (releaseTaps s) := by
  unfold releaseTaps
  simp +contextual (maxDischargeDepth := 30) [hs]

@[simp] theorem discardCaps_keeps {s0 : State} (s : State) (tag : Nat) (p : Capture → Bool) (hs : Keeps s0 s) : Keeps s0 (discardCaps s tag p) := by
  unfold discardCaps
  simp +contextual (maxDischargeDepth := 30) [hs]

/-! Machine/Matrix.lean. -/

@[simp] theorem setPart_keeps {s0 : State} (s : State) (k : Nat) (p : Partition) (hs : Keeps s0 s) : Keeps s0 (setPart s k p) := by
  unfold setPart
  simp +contextual (maxDischargeDepth := 30) [hs]

@[simp] theorem showIdle_keeps {s0 : State} (s : State) (a : Nat) (hs : Keeps s0 s) : Keeps s0 (showIdle s a) := by
  unfold showIdle
  simp +contextual (maxDischargeDepth := 30) [hs]

@[simp] theorem finishIfDone_keeps {s0 : State} (s : State) (tag : Nat) (hs : Keeps s0 s) : Keeps s0 (finishIfDone s tag) := by
  unfold finishIfDone
  simp +contextual (maxDischargeDepth := 30) [hs]

@[simp] theorem noteStop_keeps {s0 : State} (s : State) (comm : Nat) (num : Nat) (t : Nat) (hs : Keeps s0 s) : Keeps s0 (noteStop s comm num t) := by
  unfold noteStop
  simp +contextual (maxDischargeDepth := 30) [hs]

@[simp] theorem stopAt_keeps {s0 : State} (s : State) (tag : Nat) (st : Nat) (t : Nat) (hs : Keeps s0 s) : Keeps s0 (stopAt s tag st t) := by
  unfold stopAt
  repeat' (first | (simp +contextual (maxDischargeDepth := 30) [hs]; done) | (refine (OutKeeps.next _ _).2 ?_) | dsimp only | split)

@[simp] theorem stopMatrix_keeps {s0 : State} (s : State) (tag : Nat) (st : Nat) (hs : Keeps s0 s) : Keeps s0 (stopMatrix s tag st) := by
  unfold stopMatrix
  repeat' (first | (simp +contextual (maxDischargeDepth := 30) [hs]; done) | (refine (OutKeeps.next _ _).2 ?_) | dsimp only | split)

@[simp] theorem beginTile_keeps {s0 : State} (s : State) (a : Nat) (ii : Nat) (t : Nat) (o : Op) (hs : Keeps s0 s) : Keeps s0 (beginTile s a ii t o) := by
  unfold beginTile
  simp +contextual (maxDischargeDepth := 30) [hs]

@[simp] theorem beginOp_keeps {s0 : State} (s : State) (a : Nat) (ii : Nat) (hs : Keeps s0 s) : Keeps s0 (beginOp s a ii) := by
  unfold beginOp
  extract_lets
  repeat' (first | exact hs | split | (extract_lets; fail_if_success done))
  all_goals first
    | exact setPart_keeps _ _ _ hs
    | exact finishIfDone_keeps _ _ (setPart_keeps _ _ _ hs)
    | exact finishIfDone_keeps _ _ (setPart_keeps _ _ _ (updOp_keeps _ _ _ hs))
    | exact beginTile_keeps _ _ _ _ _ (setPart_keeps _ _ _ (updOp_keeps _ _ _ hs))

@[simp] theorem settle_keeps {s0 : State} (x0 : Nat) (x1 : State) (x2 : Nat) (x3 : Nat) (hs : Keeps s0 x1) : Keeps s0 (settle x0 x1 x2 x3) := by
  induction x0 generalizing x1 with
  | zero => exact hs
  | succ n ih => unfold settle; simp [ih, hs]

@[simp] theorem settlePart_keeps {s0 : State} (s : State) (a : Nat) (ii : Nat) (hs : Keeps s0 s) : Keeps s0 (settlePart s a ii) := by
  unfold settlePart
  simp +contextual (maxDischargeDepth := 30) [hs]

@[simp] theorem stopMatrixGo_keeps {s0 : State} (s : State) (tag : Nat) (st : Nat) (hs : Keeps s0 s) : Keeps s0 (stopMatrixGo s tag st) := by
  unfold stopMatrixGo
  repeat' (first | (simp +contextual (maxDischargeDepth := 30) [hs]; done) | (refine (OutKeeps.next _ _).2 ?_) | dsimp only | split)

@[simp] theorem captureFeed_keeps {s0 : State} (s : State) (o : Op) (feed : Bool) (f : Flight) (hs : Keeps s0 s) : Keeps s0 (captureFeed s o feed f) := by
  unfold captureFeed
  simp +contextual (maxDischargeDepth := 30) [hs]

@[simp] theorem moveFlights_keeps {s0 : State} (s : State) (k : Nat) (hs : Keeps s0 s) : Keeps s0 (moveFlights s k) := by
  unfold moveFlights
  dsimp only
  refine setPart_keeps _ _ _ (foldl_keeps (fun t x ht => ?_) _ hs)
  split
  · exact captureFeed_keeps _ _ _ _ ht
  · exact ht

@[simp] theorem nextTile_keeps {s0 : State} (s : State) (a : Nat) (ii : Nat) (hs : Keeps s0 s) : Keeps s0 (nextTile s a ii) := by
  unfold nextTile
  repeat' (first | (simp +contextual (maxDischargeDepth := 30) [hs]; done) | (refine (OutKeeps.next _ _).2 ?_) | dsimp only | split)

@[simp] theorem swapTile_keeps {s0 : State} (s : State) (a : Nat) (ii : Nat) (hs : Keeps s0 s) : Keeps s0 (swapTile s a ii) := by
  unfold swapTile
  repeat' (first | (simp +contextual (maxDischargeDepth := 30) [hs]; done) | (refine (OutKeeps.next _ _).2 ?_) | dsimp only | split)

@[simp] theorem computeWave_keeps {s0 : State} (s : State) (a : Nat) (ii : Nat) (hs : Keeps s0 s) : Keeps s0 (computeWave s a ii) := by
  unfold computeWave
  dsimp only
  split
  · exact setPart_keeps _ _ _ hs
  · split
    · exact swapTile_keeps _ _ _ (nextTile_keeps _ _ _ (moveFlights_keeps _ _ hs))
    · refine settlePart_keeps _ _ _ ?_
      generalize poisonedTiles s (partOf s (pkey a ii)) = l
      induction l with
      | nil => exact hs
      | cons x xs ih => exact stopAt_keeps _ _ _ _ ih

@[simp] theorem endRun_keeps {s0 : State} (s : State) (k : Nat) (hs : Keeps s0 s) : Keeps s0 (endRun s k) := by
  unfold endRun
  simp +contextual (maxDischargeDepth := 30) [hs]

@[simp] theorem countWave_keeps {s0 : State} (s : State) (a : Nat) (ii : Nat) (hs : Keeps s0 s) : Keeps s0 (countWave s a ii) := by
  unfold countWave
  repeat' (first | (simp +contextual (maxDischargeDepth := 30) [hs]; done) | (refine (OutKeeps.next _ _).2 ?_) | dsimp only | split)

@[simp] theorem waveEffect_keeps {s0 : State} (s : State) (a : Nat) (ii : Nat) (hs : Keeps s0 s) : Keeps s0 (waveEffect s a ii) := by
  unfold waveEffect
  simp +contextual (maxDischargeDepth := 30) [hs]

@[simp] theorem noteCapture_keeps {s0 : State} (s : State) (r : OutRow) (ps : List Piece) (f : Fmt) (cs : List Count) (hs : Keeps s0 s) : Keeps s0 (noteCapture s r ps f cs) := by
  unfold noteCapture
  simp +contextual (maxDischargeDepth := 30) [hs]

@[simp] theorem setEngine_keeps {s0 : State} (s : State) (n : Nat) (e : Engine) (hs : Keeps s0 s) : Keeps s0 (setEngine s n e) := by
  unfold setEngine
  simp +contextual (maxDischargeDepth := 30) [hs]

@[simp] theorem takeStage_keeps {s0 : State} (s : State) (k : Nat) (hs : Keeps s0 s) : Keeps s0 (takeStage s k) := by
  unfold takeStage
  simp +contextual (maxDischargeDepth := 30) [hs]

@[simp] theorem stageLoam_keeps {s0 : State} (s : State) (a : Nat) (ii : Nat) (o : Op) (ups : List Upset) (r0 : OutRow) (hs : Keeps s0 s) : Keeps s0 (stageLoam s a ii o ups r0) := by
  unfold stageLoam
  simp +contextual (maxDischargeDepth := 30) [hs]

@[simp] theorem stageEngine_keeps {s0 : State} (s : State) (a : Nat) (ii : Nat) (o : Op) (ups : List Upset) (r0 : OutRow) (hs : Keeps s0 s) : Keeps s0 (stageEngine s a ii o ups r0) := by
  unfold stageEngine
  simp +contextual (maxDischargeDepth := 30) [hs]

@[simp] theorem outputEffect_keeps {s0 : State} (s : State) (a : Nat) (ii : Nat) (ups : List Upset) (hs : Keeps s0 s) : Keeps s0 (outputEffect s a ii ups) := by
  unfold outputEffect
  repeat' (first | (simp +contextual (maxDischargeDepth := 30) [hs]; done) | (refine (OutKeeps.next _ _).2 ?_) | dsimp only | split)

@[simp] theorem startMatrix_keeps {s0 : State} (s : State) (o : Op) (hs : Keeps s0 s) : Keeps s0 (startMatrix s o) := by
  unfold startMatrix
  simp +contextual (maxDischargeDepth := 30) [hs]

/-! Machine/Comm.lean. -/

@[simp] theorem sendColl_keeps {s0 : State} (s : State) (op : Nat) (kind : Nat) (c : Nat) (rank : Nat) (bucket : Nat) (shadow : Bool) (seq : Nat) (target : Nat) (idx : Nat) (per : Nat) (body : List Byte) (hs : Keeps s0 s) : Keeps s0 (sendColl s op kind c rank bucket shadow seq target idx per body) := by
  unfold sendColl
  simp +contextual (maxDischargeDepth := 30) [hs]

/-! Machine/SyncObj.lean. -/

@[simp] theorem setObj_keeps {s0 : State} (s : State) (n : Nat) (o : SyncObj) (hs : Keeps s0 s) : Keeps s0 (setObj s n o) := by
  unfold setObj
  simp +contextual (maxDischargeDepth := 30) [hs]

@[simp] theorem wakeWaits_keeps {s0 : State} (s : State) (c : Nat) (n : Nat) (hs : Keeps s0 s) : Keeps s0 (wakeWaits s c n) := by
  unfold wakeWaits
  simp +contextual (maxDischargeDepth := 30) [hs]

@[simp] theorem signalObj_keeps {s0 : State} (s : State) (c : Nat) (n : Nat) (inc : Nat) (hs : Keeps s0 s) : Keeps s0 (signalObj s c n inc) := by
  unfold signalObj
  simp +contextual (maxDischargeDepth := 30) [hs]

@[simp] theorem grantLock_keeps {s0 : State} (s : State) (n : Nat) (agent : Nat) (hs : Keeps s0 s) : Keeps s0 (grantLock s n agent) := by
  unfold grantLock
  simp +contextual (maxDischargeDepth := 30) [hs]

@[simp] theorem sendArrival_keeps {s0 : State} (s : State) (n : Nat) (hs : Keeps s0 s) : Keeps s0 (sendArrival s n) := by
  unfold sendArrival
  simp +contextual (maxDischargeDepth := 30) [hs]

@[simp] theorem arriveObj_keeps {s0 : State} (s : State) (n : Nat) (hs : Keeps s0 s) : Keeps s0 (arriveObj s n) := by
  unfold arriveObj
  simp +contextual (maxDischargeDepth := 30) [hs]

@[simp] theorem releaseBarrier_keeps {s0 : State} (s : State) (c : Nat) (n : Nat) (hs : Keeps s0 s) : Keeps s0 (releaseBarrier s c n) := by
  unfold releaseBarrier
  simp +contextual (maxDischargeDepth := 30) [hs]

@[simp] theorem rtFill_keeps {s0 : State} (s : State) (a : Nat) (l : Line) (hs : Keeps s0 s) : Keeps s0 (rtFill s a l) := by
  unfold rtFill
  simp +contextual (maxDischargeDepth := 30) [hs]

@[simp] theorem rrFill_keeps {s0 : State} (s : State) (x : Nat) (l : Line) (hs : Keeps s0 s) : Keeps s0 (rrFill s x l) := by
  unfold rrFill
  simp +contextual (maxDischargeDepth := 30) [hs]

@[simp] theorem coreWrite_keeps {s0 : State} (s : State) (a : Nat) (data : Line) (mask : BitVec 128) (hs : Keeps s0 s) : Keeps s0 (coreWrite s a data mask) := by
  unfold coreWrite
  repeat' (first | (simp +contextual (maxDischargeDepth := 30) [hs]; done) | (refine (OutKeeps.next _ _).2 ?_) | dsimp only | split)

@[simp] theorem acquireEffect_keeps {s0 : State} (s : State) (scope : Nat) (prog : Bool) (hs : Keeps s0 s) : Keeps s0 (acquireEffect s scope prog) := by
  unfold acquireEffect
  simp +contextual (maxDischargeDepth := 30) [hs]

@[simp] theorem endSync_keeps {s0 : State} (s : State) (tag : Nat) (st : Nat) (hs : Keeps s0 s) : Keeps s0 (endSync s tag st) := by
  unfold endSync
  simp +contextual (maxDischargeDepth := 30) [hs]

@[simp] theorem dropWait_keeps {s0 : State} (s : State) (w : WaitReq) (hs : Keeps s0 s) : Keeps s0 (dropWait s w) := by
  unfold dropWait
  simp +contextual (maxDischargeDepth := 30) [hs]

@[simp] theorem countAbandoned_keeps {s0 : State} (s : State) (hs : Keeps s0 s) : Keeps s0 (countAbandoned s) := by
  unfold countAbandoned
  simp +contextual (maxDischargeDepth := 30) [hs]

/-! Machine/Adds.lean. -/

@[simp] theorem countAdds_keeps {s0 : State} (s : State) (ovf : Nat) (nan : Nat) (hs : Keeps s0 s) : Keeps s0 (countAdds s ovf nan) := by
  unfold countAdds
  simp +contextual (maxDischargeDepth := 30) [hs]

@[simp] theorem arrivalLine_keeps {s0 : State} (s : State) (a : Nat) (c : Nat) (data : Line) (mask : BitVec 64) (hs : Keeps s0 s) : Keeps s0 (arrivalLine s a c data mask) := by
  unfold arrivalLine
  simp +contextual (maxDischargeDepth := 30) [hs]

@[simp] theorem foldLine_keeps {s0 : State} (s : State) (n : Nat) (j : Nat) (hs : Keeps s0 s) : Keeps s0 (foldLine s n j) := by
  unfold foldLine
  simp +contextual (maxDischargeDepth := 30) [hs]

@[simp] theorem slotLine_keeps {s0 : State} (s : State) (n : Nat) (a : Nat) (data : Line) (mask : BitVec 64) (hs : Keeps s0 s) : Keeps s0 (slotLine s n a data mask) := by
  unfold slotLine
  simp +contextual (maxDischargeDepth := 30) [hs]

@[simp] theorem registerArea_keeps {s0 : State} (s : State) (r : BitVec 512) (hs : Keeps s0 s) : Keeps s0 (registerArea s r) := by
  unfold registerArea
  simp +contextual (maxDischargeDepth := 30) [hs]

@[simp] theorem releaseArea_keeps {s0 : State} (s : State) (n : Nat) (hs : Keeps s0 s) : Keeps s0 (releaseArea s n) := by
  unfold releaseArea
  simp +contextual (maxDischargeDepth := 30) [hs]

/-! Machine/CollBase.lean. -/

@[simp] theorem updBucket_keeps {s0 : State} (s : State) (b : Bucket) (hs : Keeps s0 s) : Keeps s0 (updBucket s b) := by
  unfold updBucket
  simp +contextual (maxDischargeDepth := 30) [hs]

@[simp] theorem setRun_keeps {s0 : State} (s : State) (c : Nat) (seq : Nat) (r : CollRun) (hs : Keeps s0 s) : Keeps s0 (setRun s c seq r) := by
  unfold setRun
  simp +contextual (maxDischargeDepth := 30) [hs]

@[simp] theorem compress_keeps {s0 : State} (s : State) (b : Bucket) (hs : Keeps s0 s) : Keeps s0 (compress s b).1 := by
  unfold compress
  dsimp only
  generalize List.range (ceilDiv (kElems b.desc.toNat) 256) = xs
  have key : ∀ (ys : List Nat) (u : State × Bucket), Keeps s0 u.1 → ∀ g : State × Bucket → Nat → State × Bucket,
      (∀ u k, Keeps s0 u.1 → Keeps s0 (g u k).1) → Keeps s0 (ys.foldl g u).1 := by
    intro ys
    induction ys with
    | nil => intro u hu g _; exact hu
    | cons y ys ih => intro u hu g hg; exact ih (g u y) (hg u y hu) g hg
  exact key xs (s, b) hs _ fun u k hu => memWrite_keeps _ _ _ hu

/-! Machine/CollRun.lean. -/

@[simp] theorem ctrlTo_keeps {s0 : State} (s : State) (b : Bucket) (kind : Nat) (rank : Nat) (target : Nat) (idx : Nat) (body : List Byte) (hs : Keeps s0 s) : Keeps s0 (ctrlTo s b kind rank target idx body) := by
  unfold ctrlTo
  simp +contextual (maxDischargeDepth := 30) [hs]

@[simp] theorem ctrlAll_keeps {s0 : State} (s : State) (b : Bucket) (kind : Nat) (idx : Nat) (body : List Byte) (hs : Keeps s0 s) : Keeps s0 (ctrlAll s b kind idx body) := by
  unfold ctrlAll
  simp +contextual (maxDischargeDepth := 30) [hs]

@[simp] theorem sendUnits_keeps {s0 : State} (s : State) (b : Bucket) (kind : Nat) (rank : Nat) (shadow : Bool) (target : Nat) (us : List (Nat × List Byte)) (hs : Keeps s0 s) : Keeps s0 (sendUnits s b kind rank shadow target us) := by
  unfold sendUnits
  simp +contextual (maxDischargeDepth := 30) [hs]

@[simp] theorem sendPartial_keeps {s0 : State} (s : State) (r : Nat) (b : Bucket) (k : Nat) (hs : Keeps s0 s) : Keeps s0 (sendPartial s r b k) := by
  unfold sendPartial
  simp +contextual (maxDischargeDepth := 30) [hs]

@[simp] theorem addPart_keeps {s0 : State} (s : State) (b : Bucket) (i0 : Nat) (ls : List Line) (n : Nat) (hs : Keeps s0 s) : Keeps s0 (addPart s b i0 ls n) := by
  unfold addPart
  simp +contextual (maxDischargeDepth := 30) [hs]

@[simp] theorem sendPart_keeps {s0 : State} (s : State) (b : Bucket) (k : Nat) (hs : Keeps s0 s) : Keeps s0 (sendPart s b k) := by
  unfold sendPart
  simp +contextual (maxDischargeDepth := 30) [hs]

@[simp] theorem withBucket_keeps {s0 : State} (s : State) (tag : Nat) (f : State → Bucket → State) (hf : ∀ t b, Keeps s0 t → Keeps s0 (f t b)) (hs : Keeps s0 s) : Keeps s0 (withBucket s tag f) := by
  unfold withBucket
  repeat' (first | (simp +contextual (maxDischargeDepth := 30) [hs, hf]; done) | (refine (OutKeeps.next _ _).2 ?_) | dsimp only | split)

@[simp] theorem sendParts_keeps {s0 : State} (s : State) (tag : Nat) (hs : Keeps s0 s) : Keeps s0 (sendParts s tag) := by
  unfold sendParts
  simp +contextual (maxDischargeDepth := 30) [hs]

@[simp] theorem sendScale_keeps {s0 : State} (s : State) (b : Bucket) (k : Nat) (hs : Keeps s0 s) : Keeps s0 (sendScale s b k) := by
  unfold sendScale
  simp +contextual (maxDischargeDepth := 30) [hs]

@[simp] theorem agreeScales_keeps {s0 : State} (s : State) (b : Bucket) (hs : Keeps s0 s) : Keeps s0 (agreeScales s b) := by
  unfold agreeScales
  simp +contextual (maxDischargeDepth := 30) [hs]

@[simp] theorem scalePass_keeps {s0 : State} (s : State) (tag : Nat) (hs : Keeps s0 s) : Keeps s0 (scalePass s tag) := by
  unfold scalePass
  simp +contextual (maxDischargeDepth := 30) [hs]

@[simp] theorem nextPass_keeps {s0 : State} (s : State) (b : Bucket) (hs : Keeps s0 s) : Keeps s0 (nextPass s b) := by
  unfold nextPass
  simp +contextual (maxDischargeDepth := 30) [hs]

@[simp] theorem foldBlocks_keeps {s0 : State} (s : State) (tag : Nat) (hs : Keeps s0 s) : Keeps s0 (foldBlocks s tag) := by
  unfold foldBlocks
  simp +contextual (maxDischargeDepth := 30) [hs]

@[simp] theorem sendDone_keeps {s0 : State} (s : State) (tag : Nat) (hs : Keeps s0 s) : Keeps s0 (sendDone s tag) := by
  unfold sendDone
  simp +contextual (maxDischargeDepth := 30) [hs]

@[simp] theorem gatherOut_keeps {s0 : State} (s : State) (b : Bucket) (vals : List Nat) (hs : Keeps s0 s) : Keeps s0 (gatherOut s b vals) := by
  unfold gatherOut
  simp +contextual (maxDischargeDepth := 30) [hs]

@[simp] theorem digestEntry_keeps {s0 : State} (s : State) (c : Nat) (seq : Nat) (u : CollRun) (hs : Keeps s0 s) : Keeps s0 (digestEntry s c seq u) := by
  unfold digestEntry
  simp +contextual (maxDischargeDepth := 30) [hs]

@[simp] theorem setUpd_keeps {s0 : State} (s : State) (k : Nat) (u : UpdRun) (hs : Keeps s0 s) : Keeps s0 (setUpd s k u) := by
  unfold setUpd
  simp +contextual (maxDischargeDepth := 30) [hs]

@[simp] theorem endCollective_keeps {s0 : State} (s : State) (c : Nat) (seq : Nat) (hs : Keeps s0 s) : Keeps s0 (endCollective s c seq) := by
  unfold endCollective
  repeat' (first | (simp +contextual (maxDischargeDepth := 30) [hs]; done) | (refine (OutKeeps.next _ _).2 ?_) | dsimp only | split)

@[simp] theorem sendAbort_keeps {s0 : State} (s : State) (b : Bucket) (st : Nat) (hs : Keeps s0 s) : Keeps s0 (sendAbort s b st) := by
  unfold sendAbort
  simp +contextual (maxDischargeDepth := 30) [hs]

@[simp] theorem failStep_keeps {s0 : State} (s : State) (b : Bucket) (st : Nat) (hs : Keeps s0 s) : Keeps s0 (failStep s b st) := by
  unfold failStep
  simp +contextual (maxDischargeDepth := 30) [hs]

@[simp] theorem finishBucket_keeps {s0 : State} (s : State) (b : Bucket) (st : Nat) (hs : Keeps s0 s) : Keeps s0 (finishBucket s b st) := by
  unfold finishBucket
  repeat' (first | (simp +contextual (maxDischargeDepth := 30) [hs]; done) | (refine (OutKeeps.next _ _).2 ?_) | dsimp only | split)

@[simp] theorem claimArea_keeps {s0 : State} (s : State) (tag : Nat) (hs : Keeps s0 s) : Keeps s0 (claimArea s tag) := by
  unfold claimArea
  refine withBucket_keeps _ _ _ (fun t b ht => ?_) hs
  repeat' (first | (simp +contextual (maxDischargeDepth := 30) [ht]; done) | dsimp only | split)

@[simp] theorem pump_keeps {s0 : State} (s : State) (tag : Nat) (hs : Keeps s0 s) : Keeps s0 (pump s tag) := by
  unfold pump
  simp +contextual (maxDischargeDepth := 30) [hs]

@[simp] theorem pumpAll_keeps {s0 : State} (s : State) (hs : Keeps s0 s) : Keeps s0 (pumpAll s) := by
  unfold pumpAll
  simp +contextual (maxDischargeDepth := 30) [hs]

/-! Machine/Update.lean. -/

@[simp] theorem readHeader_keeps {s0 : State} (s : State) (key : Nat) (hs : Keeps s0 s) : Keeps s0 (readHeader s key) := by
  unfold readHeader
  repeat' (first | (simp +contextual (maxDischargeDepth := 30) [hs]; done) | (refine (OutKeeps.next _ _).2 ?_) | dsimp only | split)

@[simp] theorem readEntry_keeps {s0 : State} (s : State) (c : Nat) (key : Nat) (rg : Nat × Nat) (n : Nat) (hs : Keeps s0 s) : Keeps s0 (readEntry s c key rg n) := by
  unfold readEntry
  simp +contextual (maxDischargeDepth := 30) [hs]

@[simp] theorem setNorm_keeps {s0 : State} (s : State) (b : Bucket) (v : Acc) (hs : Keeps s0 s) : Keeps s0 (setNorm s b v) := by
  unfold setNorm
  simp +contextual (maxDischargeDepth := 30) [hs]

@[simp] theorem foldNorms_keeps {s0 : State} (s : State) (b : Bucket) (hs : Keeps s0 s) : Keeps s0 (foldNorms s b) := by
  unfold foldNorms
  simp +contextual (maxDischargeDepth := 30) [hs]

@[simp] theorem sendNorm_keeps {s0 : State} (s : State) (tag : Nat) (hs : Keeps s0 s) : Keeps s0 (sendNorm s tag) := by
  unfold sendNorm
  simp +contextual (maxDischargeDepth := 30) [hs]

@[simp] theorem writeMoment_keeps {s0 : State} (s : State) (c : Nat) (e : Nat) (f : Fmt) (id : Nat) (a : Nat) (sc : Nat) (blk : Nat) (l : List Acc) (hs : Keeps s0 s) : Keeps s0 (writeMoment s c e f id a sc blk l).1 := by
  unfold writeMoment
  simp +contextual (maxDischargeDepth := 30) [hs]

@[simp] theorem writeMoments_keeps {s0 : State} (t : State × List Count) (c e i0 : Nat) (fm : Fmt) (id a sc : Nat) (vals : List Acc)
    (hs : Keeps s0 t.1) : Keeps s0 (writeMoments t c e i0 fm id a sc vals).1 := by
  have key : ∀ (ys : List Nat) (u : State × List Count), Keeps s0 u.1 → ∀ g : State × List Count → Nat → State × List Count,
      (∀ u k, Keeps s0 u.1 → Keeps s0 (g u k).1) → Keeps s0 (ys.foldl g u).1 := by
    intro ys
    induction ys with
    | nil => intro u hu g _; exact hu
    | cons y ys ih => intro u hu g hg; exact ih (g u y) (hg u y hu) g hg
  exact key _ t hs _ fun u k hu => writeMoment_keeps _ _ _ _ _ _ _ _ _ hu

@[simp] theorem writeSlice_keeps {s0 : State} (s : State) (b : Bucket) (e : Nat) (i0 : Nat) (n : Nat) (f : Acc) (hs : Keeps s0 s) : Keeps s0 (writeSlice s b e i0 n f).1 := by
  unfold writeSlice
  dsimp only
  split <;> split <;> simp +contextual (maxDischargeDepth := 30) [hs]

@[simp] theorem settleShard_keeps {s0 : State} (s : State) (tag : Nat) (hs : Keeps s0 s) : Keeps s0 (settleShard s tag) := by
  unfold settleShard
  repeat' (first | (simp +contextual (maxDischargeDepth := 30) [hs]; done) | (refine (OutKeeps.next _ _).2 ?_) | dsimp only | split)

/-! Machine/Vector.lean. -/

@[simp] theorem countSteps_keeps {s0 : State} (s : State) (n : Nat) (k : WorkClass) (steps : Nat) (hs : Keeps s0 s) : Keeps s0 (countSteps s n k steps) := by
  unfold countSteps
  simp +contextual (maxDischargeDepth := 30) [hs]

@[simp] theorem ready_keeps {s0 : State} (s : State) (n : Nat) (k : WorkClass) (hs : Keeps s0 s) : Keeps s0 (ready s n k).1 := by
  unfold ready
  repeat' (first | (simp +contextual (maxDischargeDepth := 30) [hs]; done) | (refine (OutKeeps.next _ _).2 ?_) | dsimp only | split)

@[simp] theorem dropWaits_keeps {s0 : State} (s : State) (n : Nat) (p : Prog) (hs : Keeps s0 s) : Keeps s0 (dropWaits s n p) := by
  unfold dropWaits
  simp +contextual (maxDischargeDepth := 30) [hs]

@[simp] theorem stopProg_keeps {s0 : State} (y : State) (n : Nat) (k : WorkClass) (p : Prog) (st : Nat) (hs : Keeps s0 y) : Keeps s0 (stopProg y n k p st) := by
  unfold stopProg
  repeat' (first | (simp +contextual (maxDischargeDepth := 30) [hs]; done) | (refine (OutKeeps.next _ _).2 ?_) | dsimp only | split)

@[simp] theorem keepProg_keeps {s0 : State} (s : State) (n : Nat) (k : WorkClass) (p : Prog) (hs : Keeps s0 s) : Keeps s0 (keepProg s n k p) := by
  unfold keepProg
  simp +contextual (maxDischargeDepth := 30) [hs]

@[simp] theorem opSteps_keeps {s0 : State} (s : State) (p : Prog) (k : WorkClass) (steps : Nat) (hs : Keeps s0 s) : Keeps s0 (opSteps s p k steps) := by
  unfold opSteps
  repeat' (first | (simp +contextual (maxDischargeDepth := 30) [hs]; done) | (refine (OutKeeps.next _ _).2 ?_) | dsimp only | split)

@[simp] theorem noteEmpty_keeps {s0 : State} (s : State) (c : Ctx) (hs : Keeps s0 s) : Keeps s0 (noteEmpty s c) := by
  unfold noteEmpty
  repeat' (first | (simp +contextual (maxDischargeDepth := 30) [hs]; done) | (refine (OutKeeps.next _ _).2 ?_) | dsimp only | split)

@[simp] theorem instrStep_keeps {s0 : State} (s : State) (n : Nat) (k : WorkClass) (lo : Nat) (hi : Nat) (cost : Ctx → Nat) (f : State → Ctx → State × Next) (hf : ∀ t c, Keeps s0 t → Keeps s0 (f t c).1) (hs : Keeps s0 s) : Keeps s0 (instrStep s n k lo hi cost f) := by
  unfold instrStep
  repeat' (first | (simp +contextual (maxDischargeDepth := 30) [hs, hf]; done) | (refine (OutKeeps.next _ _).2 ?_) | dsimp only | split)

@[simp] theorem mapInstr_keeps {s0 : State} (f : Engine → Ctx → Nat → Nat → Acc) (s : State) (c : Ctx) (hs : Keeps s0 s) : Keeps s0 (mapInstr f s c).1 := by
  unfold mapInstr
  simp +contextual (maxDischargeDepth := 30) [hs]

@[simp] theorem cmpInstr_keeps {s0 : State} (f : Acc → Acc → Bool) (s : State) (c : Ctx) (hs : Keeps s0 s) : Keeps s0 (cmpInstr f s c).1 := by
  unfold cmpInstr
  simp +contextual (maxDischargeDepth := 30) [hs]

@[simp] theorem maskInstr_keeps {s0 : State} (f : Bool → Bool → Bool) (s : State) (c : Ctx) (hs : Keeps s0 s) : Keeps s0 (maskInstr f s c).1 := by
  unfold maskInstr
  simp +contextual (maxDischargeDepth := 30) [hs]

@[simp] theorem countEmpty_keeps {s0 : State} (s : State) (c : Ctx) (hs : Keeps s0 s) : Keeps s0 (countEmpty s c) := by
  unfold countEmpty
  simp +contextual (maxDischargeDepth := 30) [hs]

@[simp] theorem rowInstr_keeps {s0 : State} (kind : Nat) (parts : List (Option Acc) → List Acc) (join : Acc → Acc → Acc) (s : State) (c : Ctx) (hs : Keeps s0 s) : Keeps s0 (rowInstr kind parts join s c).1 := by
  unfold rowInstr
  simp +contextual (maxDischargeDepth := 30) [hs]

@[simp] theorem argInstr_keeps {s0 : State} (f : Acc → Acc → Acc) (s : State) (c : Ctx) (hs : Keeps s0 s) : Keeps s0 (argInstr f s c).1 := by
  unfold argInstr
  simp +contextual (maxDischargeDepth := 30) [hs]

/-! Machine/Sync.lean. -/

@[simp] theorem newRun_keeps {s0 : State} (s : State) (tag : Nat) (hs : Keeps s0 s) : Keeps s0 (newRun s tag) := by
  unfold newRun
  repeat' (first | (simp +contextual (maxDischargeDepth := 30) [hs]; done) | (refine (OutKeeps.next _ _).2 ?_) | dsimp only | split)

@[simp] theorem endWait_keeps {s0 : State} (s : State) (w : WaitReq) (st : Nat) (hs : Keeps s0 s) : Keeps s0 (endWait s w st) := by
  unfold endWait
  repeat' (first | (simp +contextual (maxDischargeDepth := 30) [hs]; done) | (refine (OutKeeps.next _ _).2 ?_) | dsimp only | split)

@[simp] theorem wakeLock_keeps {s0 : State} (s : State) (c : Nat) (n : Nat) (hs : Keeps s0 s) : Keeps s0 (wakeLock s c n) := by
  unfold wakeLock
  repeat' (first | (simp +contextual (maxDischargeDepth := 30) [hs]; done) | (refine (OutKeeps.next _ _).2 ?_) | dsimp only | split)

@[simp] theorem releaseObj_keeps {s0 : State} (s : State) (c : Nat) (n : Nat) (hs : Keeps s0 s) : Keeps s0 (releaseObj s c n) := by
  unfold releaseObj
  simp +contextual (maxDischargeDepth := 30) [hs]

@[simp] theorem initObj_keeps {s0 : State} (s : State) (d : Nat) (hs : Keeps s0 s) : Keeps s0 (initObj s d) := by
  unfold initObj
  simp +contextual (maxDischargeDepth := 30) [hs]

@[simp] theorem syncEffect_keeps {s0 : State} (s : State) (d : Nat) (hs : Keeps s0 s) : Keeps s0 (syncEffect s d) := by
  unfold syncEffect
  simp +contextual (maxDischargeDepth := 30) [hs]

@[simp] theorem trySync_keeps {s0 : State} (s : State) (tag : Nat) (hs : Keeps s0 s) : Keeps s0 (trySync s tag) := by
  unfold trySync
  repeat' (first | (simp +contextual (maxDischargeDepth := 30) [hs]; done) | (refine (OutKeeps.next _ _).2 ?_) | dsimp only | split)

@[simp] theorem retryStream_keeps {s0 : State} (s : State) (q : Nat) (hs : Keeps s0 s) : Keeps s0 (retryStream s q) := by
  unfold retryStream
  simp +contextual (maxDischargeDepth := 30) [hs]

@[simp] theorem startWait_keeps {s0 : State} (s : State) (o : Op) (hs : Keeps s0 s) : Keeps s0 (startWait s o) := by
  unfold startWait
  simp +contextual (maxDischargeDepth := 30) [hs]

@[simp] theorem recheckWait_keeps {s0 : State} (s : State) (w : WaitReq) (hs : Keeps s0 s) : Keeps s0 (recheckWait s w) := by
  unfold recheckWait
  simp +contextual (maxDischargeDepth := 30) [hs]

@[simp] theorem startSync_keeps {s0 : State} (s : State) (o : Op) (hs : Keeps s0 s) : Keeps s0 (startSync s o) := by
  unfold startSync
  simp +contextual (maxDischargeDepth := 30) [hs]

@[simp] theorem dispatchSync_keeps {s0 : State} (op : Nat) (q : QueueId) (tag : TagId) (s : State) (hs : Keeps s0 s) : OutKeeps s0 (dispatchSync op q tag s) := by
  unfold dispatchSync
  simp +contextual (maxDischargeDepth := 30) [hs]

@[simp] theorem atomicFault_keeps {s0 : State} (s : State) (n : Nat) (addr : FabricAddr) (hs : Keeps s0 s) : Keeps s0 (atomicFault s n addr) := by
  unfold atomicFault
  repeat' (first | (simp +contextual (maxDischargeDepth := 30) [hs]; done) | (refine (OutKeeps.next _ _).2 ?_) | dsimp only | split)

@[simp] theorem writeWord_keeps {s0 : State} (s : State) (a : Nat) (wide : Bool) (v : Nat) (hs : Keeps s0 s) : Keeps s0 (writeWord s a wide v) := by
  unfold writeWord
  simp +contextual (maxDischargeDepth := 30) [hs]

@[simp] theorem atomic_keeps {s0 : State} (n : Fin 4) (wide : Bool) (addr : FabricAddr) (aq : Bool) (s : State) (f : Nat → Option Nat) (hs : Keeps s0 s) : Keeps s0 (atomic n wide addr aq s f) := by
  unfold atomic
  repeat' (first | (simp +contextual (maxDischargeDepth := 30) [hs]; done) | (refine (OutKeeps.next _ _).2 ?_) | dsimp only | split)

@[simp] theorem loadReserved_keeps {s0 : State} (n : Fin 4) (wide : Bool) (addr : FabricAddr) (aq : Bool) (s : State) (hs : Keeps s0 s) : Keeps s0 (loadReserved n wide addr aq s) := by
  unfold loadReserved
  repeat' (first | (simp +contextual (maxDischargeDepth := 30) [hs]; done) | (refine (OutKeeps.next _ _).2 ?_) | dsimp only | split)

@[simp] theorem storeConditional_keeps {s0 : State} (n : Fin 4) (wide : Bool) (addr : FabricAddr) (new : BitVec 64) (aq : Bool) (s : State) (hs : Keeps s0 s) : Keeps s0 (storeConditional n wide addr new aq s) := by
  unfold storeConditional
  repeat' (first | (simp +contextual (maxDischargeDepth := 30) [hs]; done) | (refine (OutKeeps.next _ _).2 ?_) | dsimp only | split)

/-! Machine/VecOps.lean. -/

@[simp] theorem startVector_keeps {s0 : State} (s : State) (o : Op) (hs : Keeps s0 s) : Keeps s0 (startVector s o) := by
  unfold startVector
  simp +contextual (maxDischargeDepth := 30) [hs]

@[simp] theorem spillRun_keeps {s0 : State} (s : State) (a : Nat) (o : Op) (t : Nat) (hs : Keeps s0 s) : Keeps s0 (spillRun s a o t) := by
  unfold spillRun
  simp +contextual (maxDischargeDepth := 30) [hs]

@[simp] theorem startEpilogue_keeps {s0 : State} (y : State) (a : Nat) (ii : Nat) (o : Op) (t : Nat) (hs : Keeps s0 y) : Keeps s0 (startEpilogue y a ii o t) := by
  unfold startEpilogue
  simp +contextual (maxDischargeDepth := 30) [hs]

@[simp] theorem dropStripes_keeps {s0 : State} (s : State) (a : Nat) (hs : Keeps s0 s) : Keeps s0 (dropStripes s a) := by
  unfold dropStripes
  simp +contextual (maxDischargeDepth := 30) [hs]

@[simp] theorem editProg_keeps {s0 : State} (s : State) (c : Ctx) (f : Prog → Prog) (hs : Keeps s0 s) : Keeps s0 (editProg s c f) := by
  unfold editProg
  repeat' (first | (simp +contextual (maxDischargeDepth := 30) [hs]; done) | (refine (OutKeeps.next _ _).2 ?_) | dsimp only | split)

@[simp] theorem editBank_keeps {s0 : State} (s : State) (c : Ctx) (f : Bank → Bank) (hs : Keeps s0 s) : Keeps s0 (editBank s c f) := by
  unfold editBank
  simp +contextual (maxDischargeDepth := 30) [hs]

@[simp] theorem endEpilogue_keeps {s0 : State} (s : State) (n : Nat) (p : Prog) (hs : Keeps s0 s) : Keeps s0 (endEpilogue s n p) := by
  unfold endEpilogue
  repeat' (first | (simp +contextual (maxDischargeDepth := 30) [hs]; done) | (refine (OutKeeps.next _ _).2 ?_) | dsimp only | split)

@[simp] theorem vecWaitStep_keeps {s0 : State} (s : State) (c : Ctx) (hs : Keeps s0 s) : Keeps s0 (vecWaitStep s c).1 := by
  unfold vecWaitStep
  repeat' (first | (simp +contextual (maxDischargeDepth := 30) [hs]; done) | (refine (OutKeeps.next _ _).2 ?_) | dsimp only | split)

@[simp] theorem vecSignalStep_keeps {s0 : State} (s : State) (c : Ctx) (hs : Keeps s0 s) : Keeps s0 (vecSignalStep s c).1 := by
  unfold vecSignalStep
  repeat' (first | (simp +contextual (maxDischargeDepth := 30) [hs]; done) | (refine (OutKeeps.next _ _).2 ?_) | dsimp only | split)

@[simp] theorem binary_keeps {s0 : State} (f : Acc → Acc → Acc) (e : EngineId) (k : WorkClass) (lo : Nat) (hi : Nat) (s : State) (hs : Keeps s0 s) : OutKeeps s0 (binary f e k lo hi s) := by
  unfold binary
  simp +contextual (maxDischargeDepth := 30) [hs]

@[simp] theorem unary_keeps {s0 : State} (f : Acc → Acc) (e : EngineId) (k : WorkClass) (lo : Nat) (hi : Nat) (cost : Ctx → Nat) (s : State) (hs : Keeps s0 s) : OutKeeps s0 (unary f e k lo hi cost s) := by
  unfold unary
  simp +contextual (maxDischargeDepth := 30) [hs]

@[simp] theorem slotStep_keeps {s0 : State} (op : SlotOp) (s : State) (c : Ctx) (hs : Keeps s0 s) : Keeps s0 (slotStep op s c).1 := by
  unfold slotStep
  simp +contextual (maxDischargeDepth := 30) [hs]

@[simp] theorem compressStep_keeps {s0 : State} (s : State) (c : Ctx) (hs : Keeps s0 s) : Keeps s0 (compressStep s c).1 := by
  unfold compressStep
  simp +contextual (maxDischargeDepth := 30) [hs]

@[simp] theorem expandStep_keeps {s0 : State} (s : State) (c : Ctx) (hs : Keeps s0 s) : Keeps s0 (expandStep s c).1 := by
  unfold expandStep
  simp +contextual (maxDischargeDepth := 30) [hs]

@[simp] theorem topkStep_keeps {s0 : State} (s : State) (c : Ctx) (hs : Keeps s0 s) : Keeps s0 (topkStep s c).1 := by
  unfold topkStep
  repeat' (first | (simp +contextual (maxDischargeDepth := 30) [hs]; done) | (refine (OutKeeps.next _ _).2 ?_) | dsimp only | split)

@[simp] theorem maskgenStep_keeps {s0 : State} (s : State) (c : Ctx) (hs : Keeps s0 s) : Keeps s0 (maskgenStep s c).1 := by
  unfold maskgenStep
  repeat' (first | (simp +contextual (maxDischargeDepth := 30) [hs]; done) | (refine (OutKeeps.next _ _).2 ?_) | dsimp only | split)

@[simp] theorem loadStep_keeps {s0 : State} (s : State) (c : Ctx) (hs : Keeps s0 s) : Keeps s0 (loadStep s c).1 := by
  unfold loadStep
  repeat' (first | (simp +contextual (maxDischargeDepth := 30) [hs]; done) | (refine (OutKeeps.next _ _).2 ?_) | dsimp only | split)

@[simp] theorem storeConv_keeps {s0 : State} (s : State) (t : Tensor) (v : Conv) (hs : Keeps s0 s) : Keeps s0 (storeConv s t v) := by
  unfold storeConv
  simp +contextual (maxDischargeDepth := 30) [hs]

theorem writeCopies_keeps {s0 : State} (dual : Bool) (s : State) (c : Ctx) (hs : Keeps s0 s) (x : Conv × Conv × State)
    (hx : writeCopies dual s c = some x) : Keeps s0 x.2.2 := by
  unfold writeCopies at hx
  dsimp only at hx
  generalize (if dual then 0 else iAxis c.word) = ax at hx
  split at hx
  · cases hx
  · rw [← Option.some.inj hx]; simp [hs]

@[simp] theorem storeStep_keeps {s0 : State} (s : State) (c : Ctx) (hs : Keeps s0 s) : Keeps s0 (storeStep s c).1 := by
  unfold storeStep
  split
  · exact hs
  · exact writeCopies_keeps _ _ _ hs _ ‹_›

@[simp] theorem loadstatStep_keeps {s0 : State} (s : State) (c : Ctx) (hs : Keeps s0 s) : Keeps s0 (loadstatStep s c).1 := by
  unfold loadstatStep
  repeat' (first | (simp +contextual (maxDischargeDepth := 30) [hs]; done) | (refine (OutKeeps.next _ _).2 ?_) | dsimp only | split)

@[simp] theorem savestatStep_keeps {s0 : State} (s : State) (c : Ctx) (hs : Keeps s0 s) : Keeps s0 (savestatStep s c).1 := by
  unfold savestatStep
  dsimp only
  split
  · exact hs
  · refine foldl_keeps (fun t x ht => ?_) _ hs
    split
    · exact ht
    · simp [ht]

@[simp] theorem loadmaskStep_keeps {s0 : State} (s : State) (c : Ctx) (hs : Keeps s0 s) : Keeps s0 (loadmaskStep s c).1 := by
  unfold loadmaskStep
  repeat' (first | (simp +contextual (maxDischargeDepth := 30) [hs]; done) | (refine (OutKeeps.next _ _).2 ?_) | dsimp only | split)

@[simp] theorem epiWrite_keeps {s0 : State} (s : State) (c : Ctx) (o : Op) (hs : Keeps s0 s) : Keeps s0 (epiWrite s c o) := by
  unfold epiWrite
  simp +contextual (maxDischargeDepth := 30) [hs]

@[simp] theorem noteCounts_keeps {s0 : State} (s : State) (c : Ctx) (l : List Count) (hs : Keeps s0 s) : Keeps s0 (noteCounts s c l) := by
  unfold noteCounts
  repeat' (first | (simp +contextual (maxDischargeDepth := 30) [hs]; done) | (refine (OutKeeps.next _ _).2 ?_) | dsimp only | split)

@[simp] theorem convStep_keeps {s0 : State} (both : Bool) (s : State) (c : Ctx) (hs : Keeps s0 s) : Keeps s0 (convStep both s c).1 := by
  unfold convStep
  dsimp only
  split
  · simp [hs]
  · split
    · exact hs
    · simp [writeCopies_keeps _ _ _ hs _ ‹_›]

/-! Machine/Sieve.lean. -/

@[simp] theorem editCap_keeps {s0 : State} (s : State) (c : Capture) (f : Capture → Capture) (hs : Keeps s0 s) : Keeps s0 (editCap s c f) := by
  unfold editCap
  simp +contextual (maxDischargeDepth := 30) [hs]

@[simp] theorem dropCap_keeps {s0 : State} (s : State) (c : Capture) (hs : Keeps s0 s) : Keeps s0 (dropCap s c) := by
  unfold dropCap
  simp +contextual (maxDischargeDepth := 30) [hs]

@[simp] theorem afterExact_keeps {s0 : State} (s : State) (c : Capture) (hs : Keeps s0 s) : Keeps s0 (afterExact s c) := by
  unfold afterExact
  simp +contextual (maxDischargeDepth := 30) [hs]

@[simp] theorem mismatchEvents_keeps {s0 : State} (s : State) (c : Capture) (k : Nat) (l : List (Nat × Nat)) (v : List (Nat × Nat × Acc)) (hs : Keeps s0 s) : Keeps s0 (mismatchEvents s c k l v) := by
  unfold mismatchEvents
  simp +contextual (maxDischargeDepth := 30) [hs]

@[simp] theorem mismatchBackOff_keeps {s0 : State} (s : State) (c : Capture) (k : Nat) (hs : Keeps s0 s) : Keeps s0 (mismatchBackOff s c k) := by
  unfold mismatchBackOff
  simp +contextual (maxDischargeDepth := 30) [hs]

@[simp] theorem fidelityWindow_keeps {s0 : State} (s : State) (c : Nat) (bin : Nat) (hs : Keeps s0 s) : Keeps s0 (fidelityWindow s c bin) := by
  unfold fidelityWindow
  simp +contextual (maxDischargeDepth := 30) [hs]

@[simp] theorem effSieveEnable_keeps {s0 : State} (v : Nat) (s : State) (hs : Keeps s0 s) : Keeps s0 (effSieveEnable v s) := by
  unfold effSieveEnable
  simp +contextual (maxDischargeDepth := 30) [hs]

@[simp] theorem discardChecks_keeps {s0 : State} (s : State) (c : Nat) (hs : Keeps s0 s) : Keeps s0 (discardChecks s c) := by
  unfold discardChecks
  simp +contextual (maxDischargeDepth := 30) [hs]

/-! Machine/UpdateOps.lean. -/

@[simp] theorem arrivalPass_keeps {s0 : State} (s : State) (b : Bucket) (u : UpdRun) (lo : Nat) (n : Nat) (k : Nat) (hs : Keeps s0 s) : Keeps s0 (arrivalPass s b u lo n k) := by
  unfold arrivalPass
  simp +contextual (maxDischargeDepth := 30) [hs]

@[simp] theorem openWork_keeps {s0 : State} (s : State) (key : Nat) (hs : Keeps s0 s) : Keeps s0 (openWork s key) := by
  unfold openWork
  repeat' (first | (simp +contextual (maxDischargeDepth := 30) [hs]; done) | (refine (OutKeeps.next _ _).2 ?_) | dsimp only | split)

@[simp] theorem checkWork_keeps {s0 : State} (s : State) (key : Nat) (hs : Keeps s0 s) : Keeps s0 (checkWork s key) := by
  unfold checkWork
  repeat' (first | (simp +contextual (maxDischargeDepth := 30) [hs]; done) | (refine (OutKeeps.next _ _).2 ?_) | dsimp only | split)

@[simp] theorem onReduced_keeps {s0 : State} (s : State) (b : Bucket) (lo : Nat) (n : Nat) (hs : Keeps s0 s) : Keeps s0 (onReduced s b lo n) := by
  unfold onReduced
  simp +contextual (maxDischargeDepth := 30) [hs]

@[simp] theorem runSlice_keeps {s0 : State} (s : State) (k : Nat) (b : Bucket) (n : Nat) (first : Nat) (hs : Keeps s0 s) : Keeps s0 (runSlice s k b n first) := by
  unfold runSlice
  simp +contextual (maxDischargeDepth := 30) [hs]

@[simp] theorem settleStep_keeps {s0 : State} (s : State) (key : Nat) (hs : Keeps s0 s) : Keeps s0 (settleStep s key) := by
  unfold settleStep
  simp +contextual (maxDischargeDepth := 30) [hs]

@[simp] theorem writeNorm_keeps {s0 : State} (s : State) (key : Nat) (status : Nat) (hs : Keeps s0 s) : Keeps s0 (writeNorm s key status) := by
  unfold writeNorm
  repeat' (first | (simp +contextual (maxDischargeDepth := 30) [hs]; done) | (refine (OutKeeps.next _ _).2 ?_) | dsimp only | split)

end Sys2Proof.Machine
end

