-- ==== Sys2Proof/Laws/KeepsMovement.lean ====
section
/-! SUPPORT. What no operation disturbs: collectives, remote requests, DMA, contexts, HBM and the host's data paths. One lemma for each operation. -/

namespace Sys2Proof.Machine

/-! Machine/Collect.lean. -/

@[simp] theorem openStage_keeps {s0 : State} (s : State) (tag : Nat) (hs : Keeps s0 s) : Keeps s0 (openStage s tag) := by
  unfold openStage
  simp +contextual (maxDischargeDepth := 30) [hs]

@[simp] theorem advanceBucket_keeps {s0 : State} (s : State) (tag : Nat) (hs : Keeps s0 s) : Keeps s0 (advanceBucket s tag) := by
  unfold advanceBucket
  simp +contextual (maxDischargeDepth := 30) [hs]

@[simp] theorem ownComplete_keeps {s0 : State} (s : State) (b : Bucket) (hs : Keeps s0 s) : Keeps s0 (ownComplete s b) := by
  unfold ownComplete
  simp +contextual (maxDischargeDepth := 30) [hs]

@[simp] theorem askBackup_keeps {s0 : State} (s : State) (b : Bucket) (rank : Nat) (v : Nat) (hs : Keeps s0 s) : Keeps s0 (askBackup s b rank v) := by
  unfold askBackup
  simp +contextual (maxDischargeDepth := 30) [hs]

@[simp] theorem endIncomplete_keeps {s0 : State} (s : State) (b : Bucket) (hs : Keeps s0 s) : Keeps s0 (endIncomplete s b) := by
  unfold endIncomplete
  simp +contextual (maxDischargeDepth := 30) [hs]

@[simp] theorem compareCrcs_keeps {s0 : State} (s : State) (c : Nat) (seq : Nat) (num : Nat) (rank : Nat) (hs : Keeps s0 s) : Keeps s0 (compareCrcs s c seq num rank) := by
  unfold compareCrcs
  repeat' (first | (simp +contextual (maxDischargeDepth := 30) [hs]; done) | (refine (OutKeeps.next _ _).2 ?_) | dsimp only | split)

@[simp] theorem feedStream_keeps {s0 : State} (s : State) (b : Bucket) (rank : Nat) (grp : Bool) (shadow : Bool) (i0 : Nat) (vals : List Nat) (hs : Keeps s0 s) : Keeps s0 (feedStream s b rank grp shadow i0 vals) := by
  unfold feedStream
  split
  · exact hs
  · extract_lets was y wins late s1 s2 u s3
    have h1 : Keeps s0 s1 := updBucket_keeps _ _ hs
    have h2 : Keeps s0 s2 := by
      show Keeps s0 (ite _ _ _)
      rw [Keeps.ite]
      exact ⟨fun _ => by simp [h1], fun _ => h1⟩
    have h3 : Keeps s0 s3 := by
      show Keeps s0 (ite _ _ _)
      rw [Keeps.ite]
      exact ⟨fun _ => updOp_keeps _ _ _ (raise_keeps _ _ (bump_keeps _ _ _ (setRun_keeps _ _ _ _ h2))), fun _ => h2⟩
    rw [Keeps.ite]
    exact ⟨fun _ => h3, fun _ => compareCrcs_keeps _ _ _ _ _ h3⟩

@[simp] theorem missStream_keeps {s0 : State} (s : State) (b : Bucket) (rank : Nat) (orElse : State → Bucket → State) (hf : ∀ t b, Keeps s0 t → Keeps s0 (orElse t b)) (hs : Keeps s0 s) : Keeps s0 (missStream s b rank orElse) := by
  unfold missStream
  repeat' (first | (simp +contextual (maxDischargeDepth := 30) [hs, hf]; done) | (refine (OutKeeps.next _ _).2 ?_) | dsimp only | split)

@[simp] theorem announceStop_keeps {s0 : State} (s : State) (b : Bucket) (hs : Keeps s0 s) : Keeps s0 (announceStop s b) := by
  unfold announceStop
  simp +contextual (maxDischargeDepth := 30) [hs]

@[simp] theorem announceStops_keeps {s0 : State} (s : State) (hs : Keeps s0 s) : Keeps s0 (announceStops s) := by
  unfold announceStops
  simp +contextual (maxDischargeDepth := 30) [hs]

@[simp] theorem capNotice_keeps {s0 : State} (s : State) (c : Nat) (seq : Nat) (us : Nat) (hs : Keeps s0 s) : Keeps s0 (capNotice s c seq us) := by
  unfold capNotice
  simp +contextual (maxDischargeDepth := 30) [hs]

@[simp] theorem takeGather_keeps {s0 : State} (s : State) (b : Bucket) (k : Nat) (i0 : Nat) (vals : List Nat) (hs : Keeps s0 s) : Keeps s0 (takeGather s b k i0 vals) := by
  unfold takeGather
  refine feedStream_keeps _ _ _ _ _ _ _ (updBucket_keeps _ _ ?_)
  dsimp only
  split
  · refine foldl_keeps (fun t x ht => ?_) _ hs
    split
    · exact ht
    · split
      · simp [ht]
      · exact ht
  · simp [hs]

@[simp] theorem takeScales_keeps {s0 : State} (s : State) (b : Bucket) (m : Msg) (hs : Keeps s0 s) : Keeps s0 (takeScales s b m) := by
  unfold takeScales
  simp +contextual (maxDischargeDepth := 30) [hs]

@[simp] theorem takeDone_keeps {s0 : State} (s : State) (b : Bucket) (m : Msg) (hs : Keeps s0 s) : Keeps s0 (takeDone s b m) := by
  unfold takeDone
  simp +contextual (maxDischargeDepth := 30) [hs]

@[simp] theorem takeNorm_keeps {s0 : State} (s : State) (b : Bucket) (m : Msg) (hs : Keeps s0 s) : Keeps s0 (takeNorm s b m) := by
  unfold takeNorm
  simp +contextual (maxDischargeDepth := 30) [hs]

@[simp] theorem takeRepair_keeps {s0 : State} (s : State) (b : Bucket) (m : Msg) (hs : Keeps s0 s) : Keeps s0 (takeRepair s b m) := by
  unfold takeRepair
  simp +contextual (maxDischargeDepth := 30) [hs]

@[simp] theorem takeSubstitute_keeps {s0 : State} (s : State) (v : Via) (b : Bucket) (m : Msg) (hs : Keeps s0 s) : Keeps s0 (takeSubstitute s v b m) := by
  unfold takeSubstitute
  repeat' (first | (simp +contextual (maxDischargeDepth := 30) [hs]; done) | (refine (OutKeeps.next _ _).2 ?_) | dsimp only | split)

@[simp] theorem takeContrib_keeps {s0 : State} (s : State) (b : Bucket) (m : Msg) (vals : List Nat) (hs : Keeps s0 s) : Keeps s0 (takeContrib s b m vals) := by
  unfold takeContrib
  simp +contextual (maxDischargeDepth := 30) [hs]

@[simp] theorem deliver_keeps {s0 : State} (s : State) (v : Via) (b : Bucket) (m : Msg) (hs : Keeps s0 s) : Keeps s0 (deliver s v b m) := by
  delta deliver
  dsimp only
  rw [Keeps.ite]; refine ⟨fun _ => takeContrib_keeps _ _ _ _ hs, fun _ => ?_⟩
  rw [Keeps.ite]; refine ⟨fun _ => takeContrib_keeps _ _ _ _ hs, fun _ => ?_⟩
  rw [Keeps.ite]; refine ⟨fun _ => compareCrcs_keeps _ _ _ _ _ (updBucket_keeps _ _ hs), fun _ => ?_⟩
  rw [Keeps.ite]; refine ⟨fun _ => hs, fun _ => ?_⟩
  rw [Keeps.ite]; refine ⟨fun _ => feedStream_keeps _ _ _ _ _ _ _ hs, fun _ => ?_⟩
  rw [Keeps.ite]; refine ⟨fun _ => feedStream_keeps _ _ _ _ _ _ _ (updBucket_keeps _ _ hs), fun _ => ?_⟩
  rw [Keeps.ite]; refine ⟨fun _ => takeGather_keeps _ _ _ _ _ hs, fun _ => ?_⟩
  rw [Keeps.ite]; refine ⟨fun _ => updBucket_keeps _ _ hs, fun _ => ?_⟩
  rw [Keeps.ite]; refine ⟨fun _ => takeScales_keeps _ _ _ hs, fun _ => ?_⟩
  rw [Keeps.ite]; refine ⟨fun _ => takeSubstitute_keeps _ _ _ _ hs, fun _ => ?_⟩
  rw [Keeps.ite]
  refine ⟨fun _ => ?_, fun _ => ?_⟩
  · split
    · rw [Keeps.ite]; exact ⟨fun _ => hs, fun _ => endIncomplete_keeps _ _ hs⟩
    · rw [Keeps.ite]; exact ⟨fun _ => hs, fun _ => missStream_keeps _ _ _ _ (fun t b ht => endIncomplete_keeps _ _ ht) hs⟩
  rw [Keeps.ite]; refine ⟨fun _ => takeDone_keeps _ _ _ hs, fun _ => ?_⟩
  rw [Keeps.ite]; refine ⟨fun _ => finishBucket_keeps _ _ _ hs, fun _ => ?_⟩
  rw [Keeps.ite]; refine ⟨fun _ => takeNorm_keeps _ _ _ hs, fun _ => ?_⟩
  rw [Keeps.ite]; exact ⟨fun _ => takeRepair_keeps _ _ _ hs, fun _ => hs⟩

@[simp] theorem barrierArrival_keeps {s0 : State} (s : State) (c : Nat) (m : Msg) (hs : Keeps s0 s) : Keeps s0 (barrierArrival s c m) := by
  unfold barrierArrival
  simp +contextual (maxDischargeDepth := 30) [hs]

@[simp] theorem barrierReleased_keeps {s0 : State} (s : State) (c : Nat) (m : Msg) (hs : Keeps s0 s) : Keeps s0 (barrierReleased s c m) := by
  unfold barrierReleased
  repeat' (first | (simp +contextual (maxDischargeDepth := 30) [hs]; done) | (refine (OutKeeps.next _ _).2 ?_) | dsimp only | split)

@[simp] theorem discardColl_keeps {s0 : State} (s : State) (hs : Keeps s0 s) : Keeps s0 (discardColl s) := by
  unfold discardColl
  simp +contextual (maxDischargeDepth := 30) [hs]

@[simp] theorem afterDelivery_keeps {s0 : State} (s : State) (b : Bucket) (hs : Keeps s0 s) : Keeps s0 (afterDelivery s b) := by
  unfold afterDelivery
  simp +contextual (maxDischargeDepth := 30) [hs]

@[simp] theorem collIn_keeps {s0 : State} (s : State) (v : Via) (m : Msg) (hs : Keeps s0 s) : Keeps s0 (collIn s v m) := by
  unfold collIn
  repeat' (first | (simp +contextual (maxDischargeDepth := 30) [hs]; done) | (refine (OutKeeps.next _ _).2 ?_) | dsimp only | split)

@[simp] theorem replaySubs_keeps {s0 : State} (s : State) (b : Bucket) (hs : Keeps s0 s) : Keeps s0 (replaySubs s b) := by
  unfold replaySubs
  simp +contextual (maxDischargeDepth := 30) [hs]

@[simp] theorem startColl_keeps {s0 : State} (s : State) (o : Op) (hs : Keeps s0 s) : Keeps s0 (startColl s o) := by
  unfold startColl
  simp +contextual (maxDischargeDepth := 30) [hs]

@[simp] theorem dispatchColl_keeps {s0 : State} (op : Nat → Bool) (q : QueueId) (tag : TagId) (s : State) (hs : Keeps s0 s) : Keeps s0 (dispatchColl op q tag s) := by
  unfold dispatchColl
  simp +contextual (maxDischargeDepth := 30) [hs]

@[simp] theorem takeSlice_keeps {s0 : State} (s : State) (a : Nat) (ii : Nat) (o : Op) (r : OutRow) (b : Bucket) (hs : Keeps s0 s) : Keeps s0 (takeSlice s a ii o r b) := by
  unfold takeSlice
  simp +contextual (maxDischargeDepth := 30) [hs]

@[simp] theorem sliceTake_keeps {s0 : State} (s : State) (a : Nat) (ii : Nat) (hs : Keeps s0 s) : Keeps s0 (sliceTake s a ii) := by
  unfold sliceTake
  repeat' (first | (simp +contextual (maxDischargeDepth := 30) [hs]; done) | (refine (OutKeeps.next _ _).2 ?_) | dsimp only | split)

@[simp] theorem streamMissed_keeps {s0 : State} (s : State) (b : Bucket) (x : Stream) (hs : Keeps s0 s) : Keeps s0 (streamMissed s b x) := by
  unfold streamMissed
  simp +contextual (maxDischargeDepth := 30) [hs]

@[simp] theorem dropComm_keeps {s0 : State} (s : State) (c : Nat) (hs : Keeps s0 s) : Keeps s0 (dropComm s c) := by
  unfold dropComm
  simp +contextual (maxDischargeDepth := 30) [hs]

@[simp] theorem setCommState_keeps {s0 : State} (c : Nat) (v : Nat) (s : State) (hs : Keeps s0 s) : Keeps s0 (setCommState c v s) := by
  unfold setCommState
  simp +contextual (maxDischargeDepth := 30) [hs]

/-! Machine/Remote.lean. -/

@[simp] theorem sendNow_keeps {s0 : State} (s : State) (r : RemoteReq) (m : Msg) (hs : Keeps s0 s) : Keeps s0 (sendNow s r m) := by
  have key : ∀ (t : State) (m1 : Msg), Keeps s0 t → Keeps s0 (match trySend t m1 with
      | some s2 => s2
      | none => unroutable t m1) := by
    intro t m1 ht
    split
    · exact trySend_keeps _ _ ht ‹_›
    · exact unroutable_keeps _ _ ht
  exact key _ _ (by exact hs)

@[simp] theorem sendWaiting_keeps {s0 : State} (s : State) (hs : Keeps s0 s) : Keeps s0 (sendWaiting s) := by
  unfold sendWaiting
  simp +contextual (maxDischargeDepth := 30) [hs]

@[simp] theorem dropRemoteLines_keeps {s0 : State} (s : State) (addr : Nat) (lines : Nat) (hs : Keeps s0 s) : Keeps s0 (dropRemoteLines s addr lines) := by
  unfold dropRemoteLines
  simp +contextual (maxDischargeDepth := 30) [hs]

@[simp] theorem request_keeps {s0 : State} (s : State) (isRead : Bool) (cls : Nat) (addr : Nat) (lines : Nat) (mask : Nat) (body : List Line) (p : Purpose) (hs : Keeps s0 s) : Keeps s0 (request s isRead cls addr lines mask body p) := by
  unfold request
  simp +contextual (maxDischargeDepth := 30) [hs]

@[simp] theorem dropUnsent_keeps {s0 : State} (s : State) (p : Purpose → Bool) (hs : Keeps s0 s) : Keeps s0 (dropUnsent s p) := by
  unfold dropUnsent
  simp +contextual (maxDischargeDepth := 30) [hs]

/-! Machine/Dma.lean. -/

@[simp] theorem copyOverlap_keeps {s0 : State} (s : State) (d : Nat) (hs : Keeps s0 s) : Keeps s0 (copyOverlap s d) := by
  unfold copyOverlap
  simp +contextual (maxDischargeDepth := 30) [hs]

@[simp] theorem copyPoisoned_keeps {s0 : State} (s : State) (d : Nat) (hs : Keeps s0 s) : Keeps s0 (copyPoisoned s d).1 := by
  unfold copyPoisoned
  simp +contextual (maxDischargeDepth := 30) [hs]

@[simp] theorem copyLocal_keeps {s0 : State} (s : State) (d : Nat) (hs : Keeps s0 s) : Keeps s0 (copyLocal s d).1 := by
  unfold copyLocal
  repeat' (first | (simp +contextual (maxDischargeDepth := 30) [hs]; done) | (refine (OutKeeps.next _ _).2 ?_) | dsimp only | split)

@[simp] theorem fillRow_keeps {s0 : State} (s : State) (a : Nat) (len : Nat) (hs : Keeps s0 s) : Keeps s0 (fillRow s a len) := by
  unfold fillRow
  simp +contextual (maxDischargeDepth := 30) [hs]

@[simp] theorem dmaError_keeps {s0 : State} (s : State) (d : Nat) (st : Nat) (hs : Keeps s0 s) : Keeps s0 (dmaError s d st) := by
  unfold dmaError
  simp +contextual (maxDischargeDepth := 30) [hs]

@[simp] theorem finishDma_keeps {s0 : State} (s : State) (tag : Nat) (hs : Keeps s0 s) : Keeps s0 (finishDma s tag) := by
  unfold finishDma
  repeat' (first | (simp +contextual (maxDischargeDepth := 30) [hs]; done) | (refine (OutKeeps.next _ _).2 ?_) | dsimp only | split)

@[simp] theorem dmaRequest_keeps {s0 : State} (s : State) (tag : Nat) (isRead : Bool) (cls : Nat) (addr : Nat) (lines : Nat) (body : List Line) (p : Purpose) (hs : Keeps s0 s) : Keeps s0 (dmaRequest s tag isRead cls addr lines body p) := by
  unfold dmaRequest
  simp +contextual (maxDischargeDepth := 30) [hs]

@[simp] theorem dmaRemote_keeps {s0 : State} (s : State) (o : Op) (hs : Keeps s0 s) : Keeps s0 (dmaRemote s o) := by
  unfold dmaRemote
  simp +contextual (maxDischargeDepth := 30) [hs]

@[simp] theorem noteHole_keeps {s0 : State} (s : State) (o : Op) (st : Nat) (hs : Keeps s0 s) : Keeps s0 (noteHole s o st) := by
  unfold noteHole
  repeat' (first | (simp +contextual (maxDischargeDepth := 30) [hs]; done) | (refine (OutKeeps.next _ _).2 ?_) | dsimp only | split)

@[simp] theorem startDma_keeps {s0 : State} (s : State) (o : Op) (hs : Keeps s0 s) : Keeps s0 (startDma s o) := by
  unfold startDma
  simp +contextual (maxDischargeDepth := 30) [hs]

@[simp] theorem dispatchDma_keeps {s0 : State} (q : QueueId) (tag : TagId) (s : State) (accept : Nat → Bool) (hs : Keeps s0 s) : OutKeeps s0 (dispatchDma q tag s accept) := by
  unfold dispatchDma
  simp +contextual (maxDischargeDepth := 30) [hs]

@[simp] theorem stopDma_keeps {s0 : State} (s : State) (tag : Nat) (st : Nat) (hs : Keeps s0 s) : Keeps s0 (stopDma s tag st) := by
  unfold stopDma
  simp +contextual (maxDischargeDepth := 30) [hs]

@[simp] theorem dmaAnswered_keeps {s0 : State} (s : State) (tag : Nat) (lines : Nat) (bad : Nat) (hs : Keeps s0 s) : Keeps s0 (dmaAnswered s tag lines bad) := by
  unfold dmaAnswered
  repeat' (first | (simp +contextual (maxDischargeDepth := 30) [hs]; done) | (refine (OutKeeps.next _ _).2 ?_) | dsimp only | split)

@[simp] theorem dmaData_keeps {s0 : State} (s : State) (tag : Nat) (dst : Nat) (dstRemote : Bool) (body : List Line) (hs : Keeps s0 s) : Keeps s0 (dmaData s tag dst dstRemote body) := by
  unfold dmaData
  repeat' (first | (simp +contextual (maxDischargeDepth := 30) [hs]; done) | (refine (OutKeeps.next _ _).2 ?_) | dsimp only | split)

@[simp] theorem lineChecks_keeps {s0 : State} (s : State) (a : Nat) (e0 : EccResult) (e1 : EccResult) (hs : Keeps s0 s) : Keeps s0 (lineChecks s a e0 e1) := by
  unfold lineChecks
  simp +contextual (maxDischargeDepth := 30) [hs]

@[simp] theorem peerRead_keeps {s0 : State} (s : State) (ag : Agent) (dev : Nat) (a : Nat) (hs : Keeps s0 s) : Keeps s0 (peerRead s ag dev a) := by
  unfold peerRead
  repeat' (first | (simp +contextual (maxDischargeDepth := 30) [hs]; done) | (refine (OutKeeps.next _ _).2 ?_) | dsimp only | split)

@[simp] theorem lineReadEnds_keeps {s0 : State} (s : State) (ag : Agent) (fill : Bool) (x : Nat) (l : Line) (hs : Keeps s0 s) : Keeps s0 (lineReadEnds s ag fill x l) := by
  unfold lineReadEnds
  simp +contextual (maxDischargeDepth := 30) [hs]

@[simp] theorem lineFails_keeps {s0 : State} (s : State) (ag : Agent) (x : Nat) (hs : Keeps s0 s) : Keeps s0 (lineFails s ag x) := by
  unfold lineFails
  repeat' (first | (simp +contextual (maxDischargeDepth := 30) [hs]; done) | (refine (OutKeeps.next _ _).2 ?_) | dsimp only | split)

@[simp] theorem peerWrite_keeps {s0 : State} (s : State) (ag : Agent) (dev : Nat) (a : Nat) (data : Line) (mask : BitVec 128) (hs : Keeps s0 s) : Keeps s0 (peerWrite s ag dev a data mask) := by
  unfold peerWrite
  simp +contextual (maxDischargeDepth := 30) [hs]

/-! Machine/Operations.lean. -/

@[simp] theorem readyRecord_keeps {s0 : State} (s : State) (o : Op) (hs : Keeps s0 s) : Keeps s0 (readyRecord s o) := by
  unfold readyRecord
  simp +contextual (maxDischargeDepth := 30) [hs]

@[simp] theorem writeRecord_keeps {s0 : State} (s : State) (r : Nat) (x : ReadyRec) (hs : Keeps s0 s) : Keeps s0 (writeRecord s r x) := by
  have key : ∀ (o : Option State), (∀ t, o = some t → Keeps s0 t) → ∀ q : Option Nat, Keeps s0 (match o with
      | none => s
      | some t => match q with
        | none => freeTag t x.tag
        | some n => retryStream (freeTag t x.tag) n) := by
    intro o ho q
    cases o with
    | none => exact hs
    | some t => cases q <;> simp [ho t rfl]
  unfold writeRecord
  refine key _ (fun t ht => ?_) _
  split at ht
  · cases ht; simp [hs]
  · split at ht
    · cases ht
    · cases ht; simp [hs]

@[simp] theorem stopQueued_keeps {s0 : State} (s : State) (n : Nat) (tag : Nat) (st : Nat) (hs : Keeps s0 s) : Keeps s0 (stopQueued s n tag st) := by
  unfold stopQueued
  simp +contextual (maxDischargeDepth := 30) [hs]

@[simp] theorem stopOp_keeps {s0 : State} (s : State) (o : Op) (st : Nat) (hs : Keeps s0 s) : Keeps s0 (stopOp s o st) := by
  unfold stopOp
  repeat' (first | (simp +contextual (maxDischargeDepth := 30) [hs]; done) | (refine (OutKeeps.next _ _).2 ?_) | dsimp only | split)

@[simp] theorem abortOp_keeps {s0 : State} (s : State) (o : Op) (hs : Keeps s0 s) : Keeps s0 (abortOp s o) := by
  unfold abortOp
  simp +contextual (maxDischargeDepth := 30) [hs]

@[simp] theorem deadlineTest_keeps {s0 : State} (s : State) (o : Op) (t : Nat) (hs : Keeps s0 s) : Keeps s0 (deadlineTest s o t) := by
  unfold deadlineTest
  simp +contextual (maxDischargeDepth := 30) [hs]

@[simp] theorem testExpired_keeps {s0 : State} (s : State) (o : Op) (hs : Keeps s0 s) : Keeps s0 (testExpired s o) := by
  unfold testExpired
  repeat' (first | (simp +contextual (maxDischargeDepth := 30) [hs]; done) | (refine (OutKeeps.next _ _).2 ?_) | dsimp only | split)

@[simp] theorem effArrayHold_keeps {s0 : State} (a : Nat) (v : Nat) (s : State) (hs : Keeps s0 s) : Keeps s0 (effArrayHold a v s) := by
  unfold effArrayHold
  simp +contextual (maxDischargeDepth := 30) [hs]

@[simp] theorem effPartitionMode_keeps {s0 : State} (a : Nat) (v : Nat) (s : State) (hs : Keeps s0 s) : Keeps s0 (effPartitionMode a v s) := by
  unfold effPartitionMode
  simp +contextual (maxDischargeDepth := 30) [hs]

@[simp] theorem effRepairBurn_keeps {s0 : State} (a : Nat) (v : Nat) (s : State) (hs : Keeps s0 s) : Keeps s0 (effRepairBurn a v s) := by
  unfold effRepairBurn
  simp +contextual (maxDischargeDepth := 30) [hs]

@[simp] theorem burnRecords_keeps {s0 : State} (s : State) (a : Nat) (hs : Keeps s0 s) : Keeps s0 (burnRecords s a) := by
  unfold burnRecords
  simp +contextual (maxDischargeDepth := 30) [hs]

/-! Machine/Retire.lean. -/

@[simp] theorem faultParts_keeps {s0 : State} (s : State) (a : Nat) (bad : Nat → Bool) (hs : Keeps s0 s) : Keeps s0 (faultParts s a bad) := by
  unfold faultParts
  simp +contextual (maxDischargeDepth := 30) [hs]

@[simp] theorem faultEngine_keeps {s0 : State} (s : State) (n : Nat) (hs : Keeps s0 s) : Keeps s0 (faultEngine s n) := by
  unfold faultEngine
  repeat' (first | (simp +contextual (maxDischargeDepth := 30) [hs]; done) | (refine (OutKeeps.next _ _).2 ?_) | dsimp only | split)

@[simp] theorem dropBlock_keeps {s0 : State} (s : State) (a : Nat) (b : Nat) (hs : Keeps s0 s) : Keeps s0 (dropBlock s a b) := by
  unfold dropBlock
  simp +contextual (maxDischargeDepth := 30) [hs]

@[simp] theorem retireBlock_keeps {s0 : State} (s : State) (a : Nat) (b : Nat) (hs : Keeps s0 s) : Keeps s0 (retireBlock s a b) := by
  unfold retireBlock
  simp +contextual (maxDischargeDepth := 30) [hs]

@[simp] theorem dropArray_keeps {s0 : State} (s : State) (a : Nat) (hs : Keeps s0 s) : Keeps s0 (dropArray s a) := by
  unfold dropArray
  simp +contextual (maxDischargeDepth := 30) [hs]

@[simp] theorem retireArray_keeps {s0 : State} (s : State) (a : Nat) (hs : Keeps s0 s) : Keeps s0 (retireArray s a) := by
  unfold retireArray
  simp +contextual (maxDischargeDepth := 30) [hs]

@[simp] theorem dropEngine_keeps {s0 : State} (s : State) (n : Nat) (hs : Keeps s0 s) : Keeps s0 (dropEngine s n) := by
  unfold dropEngine
  simp +contextual (maxDischargeDepth := 30) [hs]

@[simp] theorem retireEngine_keeps {s0 : State} (s : State) (n : Nat) (hs : Keeps s0 s) : Keeps s0 (retireEngine s n) := by
  unfold retireEngine
  simp +contextual (maxDischargeDepth := 30) [hs]

@[simp] theorem repairCell_keeps {s0 : State} (s : State) (a : Nat) (row : Nat) (col : Nat) (hs : Keeps s0 s) : Keeps s0 (repairCell s a row col) := by
  unfold repairCell
  simp +contextual (maxDischargeDepth := 30) [hs]

@[simp] theorem failSpares_keeps {s0 : State} (s : State) (a : Nat) (rows : List (Fin 16)) (cols : List (Fin 16)) (hs : Keeps s0 s) : Keeps s0 (failSpares s a rows cols) := by
  unfold failSpares
  simp +contextual (maxDischargeDepth := 30) [hs]

@[simp] theorem repairCells_keeps {s0 : State} (s : State) (a : Nat) (cells : List CellAt) (hs : Keeps s0 s) : Keeps s0 (repairCells s a cells) := by
  unfold repairCells
  simp +contextual (maxDischargeDepth := 30) [hs]

/-! Machine/Modes.lean. -/

@[simp] theorem returnApplied_keeps {s0 : State} (s : State) (u : Nat) (hs : Keeps s0 s) : Keeps s0 (returnApplied s u) := by
  unfold returnApplied
  simp +contextual (maxDischargeDepth := 30) [hs]

@[simp] theorem discardStaged_keeps {s0 : State} (s : State) (hs : Keeps s0 s) : Keeps s0 (discardStaged s) := by
  unfold discardStaged
  simp +contextual (maxDischargeDepth := 30) [hs]

/-! Machine/Contexts.lean. -/

@[simp] theorem clearCtxEntries_keeps {s0 : State} (s : State) (c : Nat) (hs : Keeps s0 s) : Keeps s0 (clearCtxEntries s c) := by
  unfold clearCtxEntries
  simp +contextual (maxDischargeDepth := 30) [hs]

@[simp] theorem effContextRecord_keeps {s0 : State} (c : Nat) (v : Nat) (s : State) (hs : Keeps s0 s) : Keeps s0 (effContextRecord c v s) := by
  unfold effContextRecord
  simp +contextual (maxDischargeDepth := 30) [hs]

@[simp] theorem setRunning_keeps {s0 : State} (s : State) (c : Nat) (r : CtxRun) (hs : Keeps s0 s) : Keeps s0 (setRunning s c r) := by
  unfold setRunning
  simp +contextual (maxDischargeDepth := 30) [hs]

@[simp] theorem beginCmd_keeps {s0 : State} (s : State) (c : Nat) (cmd : Nat) (phase : Nat) (fresh : Bool) (hs : Keeps s0 s) : Keeps s0 (beginCmd s c cmd phase fresh) := by
  unfold beginCmd
  simp +contextual (maxDischargeDepth := 30) [hs]

@[simp] theorem announceCmd_keeps {s0 : State} (s : State) (c : Nat) (st : Nat) (hs : Keeps s0 s) : Keeps s0 (announceCmd s c st) := by
  unfold announceCmd
  simp +contextual (maxDischargeDepth := 30) [hs]

@[simp] theorem endCmd_keeps {s0 : State} (s : State) (c : Nat) (st : Nat) (hs : Keeps s0 s) : Keeps s0 (endCmd s c st) := by
  unfold endCmd
  simp +contextual (maxDischargeDepth := 30) [hs]

@[simp] theorem setCtxState_keeps {s0 : State} (s : State) (c : Nat) (st : Nat) (hs : Keeps s0 s) : Keeps s0 (setCtxState s c st) := by
  unfold setCtxState
  simp +contextual (maxDischargeDepth := 30) [hs]

@[simp] theorem holdQueues_keeps {s0 : State} (s : State) (c : Nat) (hs : Keeps s0 s) : Keeps s0 (holdQueues s c) := by
  unfold holdQueues
  simp +contextual (maxDischargeDepth := 30) [hs]

@[simp] theorem runQueue_keeps {s0 : State} (s : State) (q : Nat) (hs : Keeps s0 s) : Keeps s0 (runQueue s q) := by
  unfold runQueue
  simp +contextual (maxDischargeDepth := 30) [hs]

@[simp] theorem runQueues_keeps {s0 : State} (s : State) (c : Nat) (hs : Keeps s0 s) : Keeps s0 (runQueues s c) := by
  unfold runQueues
  simp +contextual (maxDischargeDepth := 30) [hs]

@[simp] theorem releaseCtx_keeps {s0 : State} (s : State) (c : Nat) (hs : Keeps s0 s) : Keeps s0 (releaseCtx s c) := by
  unfold releaseCtx
  simp +contextual (maxDischargeDepth := 30) [hs]

@[simp] theorem restoreObjs_keeps {s0 : State} (s : State) (c : Nat) (word : Nat → Nat) (hs : Keeps s0 s) : Keeps s0 (restoreObjs s c word) := by
  unfold restoreObjs
  simp +contextual (maxDischargeDepth := 30) [hs]

@[simp] theorem freshObjs_keeps {s0 : State} (s : State) (c : Nat) (hs : Keeps s0 s) : Keeps s0 (freshObjs s c) := by
  unfold freshObjs
  simp +contextual (maxDischargeDepth := 30) [hs]

@[simp] theorem dropSteps_keeps {s0 : State} (s : State) (c : Nat) (hs : Keeps s0 s) : Keeps s0 (dropSteps s c) := by
  unfold dropSteps
  simp +contextual (maxDischargeDepth := 30) [hs]

@[simp] theorem noteImage_keeps {s0 : State} (s : State) (c : Nat) (gwevi : List Byte) (hs : Keeps s0 s) : Keeps s0 (noteImage s c gwevi) := by
  unfold noteImage
  simp +contextual (maxDischargeDepth := 30) [hs]

@[simp] theorem restoreGwevi_keeps {s0 : State} (s : State) (c : Nat) (gwevi : List Byte) (all : Bool) (hs : Keeps s0 s) : Keeps s0 (restoreGwevi s c gwevi all) := by
  unfold restoreGwevi
  repeat' (first | (simp +contextual (maxDischargeDepth := 30) [hs]; done) | (refine (OutKeeps.next _ _).2 ?_) | dsimp only | split)

@[simp] theorem becomeResident_keeps {s0 : State} (s : State) (c : Nat) (hs : Keeps s0 s) : Keeps s0 (becomeResident s c) := by
  unfold becomeResident
  simp +contextual (maxDischargeDepth := 30) [hs]

@[simp] theorem buddyRead_keeps {s0 : State} (s : State) (c : Nat) (off : Nat) (lines : Nat) (hs : Keeps s0 s) : Keeps s0 (buddyRead s c off lines) := by
  unfold buddyRead
  repeat' (first | (simp +contextual (maxDischargeDepth := 30) [hs]; done) | (refine (OutKeeps.next _ _).2 ?_) | dsimp only | split)

@[simp] theorem acceptLoad_keeps {s0 : State} (s : State) (c : Nat) (fresh : Bool) (remote : Bool) (hs : Keeps s0 s) : Keeps s0 (acceptLoad s c fresh remote) := by
  unfold acceptLoad
  simp +contextual (maxDischargeDepth := 30) [hs]

@[simp] theorem readSlot_keeps {s0 : State} (s : State) (c : Nat) (u : CtxRun) (hs : Keeps s0 s) : Keeps s0 (readSlot s c u) := by
  unfold readSlot
  repeat' (first | (simp +contextual (maxDischargeDepth := 30) [hs]; done) | (refine (OutKeeps.next _ _).2 ?_) | dsimp only | split)

@[simp] theorem ctxImageData_keeps {s0 : State} (s : State) (c : Nat) (run : Nat) (off : Nat) (body : List Line) (hs : Keeps s0 s) : Keeps s0 (ctxImageData s c run off body) := by
  unfold ctxImageData
  repeat' (first | (simp +contextual (maxDischargeDepth := 30) [hs]; done) | (refine (OutKeeps.next _ _).2 ?_) | dsimp only | split)

@[simp] theorem placeChunk_keeps {s0 : State} (s : State) (u : CtxRun) (r : Nat) (i : Nat) (hs : Keeps s0 s) : Keeps s0 (placeChunk s u r i) := by
  unfold placeChunk
  split
  · exact hs
  · exact memWrite_keeps _ _ _ hs

@[simp] theorem finishRemote_keeps {s0 : State} (s : State) (c : Nat) (u : CtxRun) (hs : Keeps s0 s) : Keeps s0 (finishRemote s c u) := by
  unfold finishRemote
  simp +contextual (maxDischargeDepth := 30) [hs]

@[simp] theorem copySome_keeps {s0 : State} (s : State) (r : Nat) (hs : Keeps s0 s) : Keeps s0 (copySome s r) := by
  unfold copySome
  simp +contextual (maxDischargeDepth := 30) [hs]

@[simp] theorem finishLoad_keeps {s0 : State} (s : State) (c : Nat) (fresh : Bool) (hs : Keeps s0 s) : Keeps s0 (finishLoad s c fresh) := by
  unfold finishLoad
  simp +contextual (maxDischargeDepth := 30) [hs]

@[simp] theorem withdraw_keeps {s0 : State} (s : State) (w : WaitReq) (hs : Keeps s0 s) : Keeps s0 (withdraw s w) := by
  unfold withdraw
  repeat' (first | (simp +contextual (maxDischargeDepth := 30) [hs]; done) | (refine (OutKeeps.next _ _).2 ?_) | dsimp only | split)

@[simp] theorem withdrawAll_keeps {s0 : State} (s : State) (c : Nat) (hs : Keeps s0 s) : Keeps s0 (withdrawAll s c) := by
  unfold withdrawAll
  simp +contextual (maxDischargeDepth := 30) [hs]

@[simp] theorem acceptSave_keeps {s0 : State} (s : State) (c : Nat) (cmd : Nat) (hs : Keeps s0 s) : Keeps s0 (acceptSave s c cmd) := by
  unfold acceptSave
  simp +contextual (maxDischargeDepth := 30) [hs]

@[simp] theorem endCopy_keeps {s0 : State} (s : State) (c : Nat) (st : Nat) (hs : Keeps s0 s) : Keeps s0 (endCopy s c st) := by
  unfold endCopy
  repeat' (first | (simp +contextual (maxDischargeDepth := 30) [hs]; done) | (refine (OutKeeps.next _ _).2 ?_) | dsimp only | split)

@[simp] theorem writeImage_keeps {s0 : State} (s : State) (c : Nat) (gwevi : List Byte) (hs : Keeps s0 s) : Keeps s0 (writeImage s c gwevi) := by
  unfold writeImage
  simp +contextual (maxDischargeDepth := 30) [hs]

@[simp] theorem buddyWrite_keeps {s0 : State} (s : State) (c : Nat) (addr : Nat) (body : List Line) (p : Purpose) (hs : Keeps s0 s) : Keeps s0 (buddyWrite s c addr body p) := by
  unfold buddyWrite
  repeat' (first | (simp +contextual (maxDischargeDepth := 30) [hs]; done) | (refine (OutKeeps.next _ _).2 ?_) | dsimp only | split)

@[simp] theorem startRemoteCopy_keeps {s0 : State} (s : State) (c : Nat) (hs : Keeps s0 s) : Keeps s0 (startRemoteCopy s c) := by
  unfold startRemoteCopy
  repeat' (first | (simp +contextual (maxDischargeDepth := 30) [hs]; done) | (refine (OutKeeps.next _ _).2 ?_) | dsimp only | split)

@[simp] theorem sendImage_keeps {s0 : State} (s : State) (c : Nat) (run : Nat) (slot : Nat) (hs : Keeps s0 s) : Keeps s0 (sendImage s c run slot) := by
  unfold sendImage
  dsimp only
  exact foldl_keeps (fun t x ht => buddyWrite_keeps _ _ _ _ _ ht) _ hs

@[simp] theorem ckptAcked_keeps {s0 : State} (s : State) (c : Nat) (run : Nat) (hs : Keeps s0 s) : Keeps s0 (ckptAcked s c run) := by
  unfold ckptAcked
  repeat' (first | (simp +contextual (maxDischargeDepth := 30) [hs]; done) | (refine (OutKeeps.next _ _).2 ?_) | dsimp only | split)

@[simp] theorem ctxFailed_keeps {s0 : State} (s : State) (c : Nat) (run : Nat) (hs : Keeps s0 s) : Keeps s0 (ctxFailed s c run) := by
  unfold ctxFailed
  repeat' (first | (simp +contextual (maxDischargeDepth := 30) [hs]; done) | (refine (OutKeeps.next _ _).2 ?_) | dsimp only | split)

@[simp] theorem faultCmd_keeps {s0 : State} (s : State) (c : Nat) (hs : Keeps s0 s) : Keeps s0 (faultCmd s c) := by
  unfold faultCmd
  repeat' (first | (simp +contextual (maxDischargeDepth := 30) [hs]; done) | (refine (OutKeeps.next _ _).2 ?_) | dsimp only | split)

@[simp] theorem resetWaits_keeps {s0 : State} (s : State) (c : Nat) (hs : Keeps s0 s) : Keeps s0 (resetWaits s c) := by
  unfold resetWaits
  simp +contextual (maxDischargeDepth := 30) [hs]

@[simp] theorem stopWork_keeps {s0 : State} (st : Nat) (s : State) (tag : Nat) (hs : Keeps s0 s) : Keeps s0 (stopWork st s tag) := by
  unfold stopWork
  repeat' (first | (simp +contextual (maxDischargeDepth := 30) [hs]; done) | (refine (OutKeeps.next _ _).2 ?_) | dsimp only | split)

@[simp] theorem poisonObjs_keeps {s0 : State} (s : State) (c : Nat) (hs : Keeps s0 s) : Keeps s0 (poisonObjs s c) := by
  unfold poisonObjs
  simp +contextual (maxDischargeDepth := 30) [hs]

@[simp] theorem resetContext_keeps {s0 : State} (s : State) (c : Nat) (hs : Keeps s0 s) : Keeps s0 (resetContext s c) := by
  unfold resetContext
  simp +contextual (maxDischargeDepth := 30) [hs]

@[simp] theorem contextCmd_keeps {s0 : State} (s : State) (c : Nat) (op : Nat) (fresh : Bool) (hs : Keeps s0 s) : Keeps s0 (contextCmd s c op fresh) := by
  unfold contextCmd
  simp +contextual (maxDischargeDepth := 30) [hs]

@[simp] theorem effContextCmd_keeps {s0 : State} (v : Nat) (s : State) (hs : Keeps s0 s) : Keeps s0 (effContextCmd v s) := by
  unfold effContextCmd
  simp +contextual (maxDischargeDepth := 30) [hs]

@[simp] theorem writeCmd_keeps {s0 : State} (s : State) (p : Path) (v : Nat) (hs : Keeps s0 s) : OutKeeps s0 (writeCmd s p v) := by
  unfold writeCmd
  simp +contextual (maxDischargeDepth := 30) [hs]

@[simp] theorem startScrub_keeps {s0 : State} (s : State) (hs : Keeps s0 s) : Keeps s0 (startScrub s) := by
  unfold startScrub
  simp +contextual (maxDischargeDepth := 30) [hs]

@[simp] theorem effScrubStart_keeps {s0 : State} (v : Nat) (s : State) (hs : Keeps s0 s) : Keeps s0 (effScrubStart v s) := by
  unfold effScrubStart
  simp +contextual (maxDischargeDepth := 30) [hs]

@[simp] theorem endScrub_keeps {s0 : State} (s : State) (hs : Keeps s0 s) : Keeps s0 (endScrub s) := by
  unfold endScrub
  simp +contextual (maxDischargeDepth := 30) [hs]

/-! Machine/Hbm.lean. -/

@[simp] theorem faultUser_keeps {s0 : State} (s : State) (x1 : LinkUser) (hs : Keeps s0 s) : Keeps s0 (faultUser s x1) := by
  unfold faultUser
  repeat' (first | (simp +contextual (maxDischargeDepth := 30) [hs]; done) | (refine (OutKeeps.next _ _).2 ?_) | dsimp only | split)

@[simp] theorem adoptMode_keeps {s0 : State} (s : State) (cg : Nat) (hs : Keeps s0 s) : Keeps s0 (adoptMode s cg) := by
  unfold adoptMode
  simp +contextual (maxDischargeDepth := 30) [hs]

@[simp] theorem effSlotShadow_keeps {s0 : State} (cg : Nat) (v : Nat) (s : State) (hs : Keeps s0 s) : Keeps s0 (effSlotShadow cg v s) := by
  unfold effSlotShadow
  simp +contextual (maxDischargeDepth := 30) [hs]

@[simp] theorem effSlotAll_keeps {s0 : State} (v : Nat) (s : State) (hs : Keeps s0 s) : Keeps s0 (effSlotAll v s) := by
  unfold effSlotAll
  simp +contextual (maxDischargeDepth := 30) [hs]

@[simp] theorem effPprBurn_keeps {s0 : State} (v : Nat) (s : State) (hs : Keeps s0 s) : Keeps s0 (effPprBurn v s) := by
  unfold effPprBurn
  simp +contextual (maxDischargeDepth := 30) [hs]

@[simp] theorem effMargin_keeps {s0 : State} (cg : Nat) (v : Nat) (s : State) (hs : Keeps s0 s) : Keeps s0 (effMargin cg v s) := by
  unfold effMargin
  simp +contextual (maxDischargeDepth := 30) [hs]

@[simp] theorem marginStart_keeps {s0 : State} (s : State) (p : Path) (cg : GroupId) (v : Nat) (hs : Keeps s0 s) : OutKeeps s0 (marginStart s p cg v) := by
  unfold marginStart
  simp +contextual (maxDischargeDepth := 30) [hs]

@[simp] theorem scribble_keeps {s0 : State} (s : State) (lines : List Nat) (hs : Keeps s0 s) : Keeps s0 (scribble s lines) := by
  unfold scribble
  simp +contextual (maxDischargeDepth := 30) [hs]

@[simp] theorem tgenWrote_keeps {s0 : State} (s : State) (k : Nat) (n : Nat) (hs : Keeps s0 s) : Keeps s0 (tgenWrote s k n) := by
  unfold tgenWrote
  simp +contextual (maxDischargeDepth := 30) [hs]

@[simp] theorem tgenFinish_keeps {s0 : State} (s : State) (k : Nat) (found : Nat) (hs : Keeps s0 s) : Keeps s0 (tgenFinish s k found) := by
  unfold tgenFinish
  simp +contextual (maxDischargeDepth := 30) [hs]

@[simp] theorem tgenStop_keeps {s0 : State} (s : State) (k : Nat) (hs : Keeps s0 s) : Keeps s0 (tgenStop s k) := by
  unfold tgenStop
  simp +contextual (maxDischargeDepth := 30) [hs]

@[simp] theorem effTgen_keeps {s0 : State} (k : Nat) (v : Nat) (s : State) (hs : Keeps s0 s) : Keeps s0 (effTgen k v s) := by
  unfold effTgen
  simp +contextual (maxDischargeDepth := 30) [hs]

/-! Machine/HostIf.lean. -/

@[simp] theorem dpFail_keeps {s0 : State} (s : State) (kind : Nat) (word : Nat) (hs : Keeps s0 s) : Keeps s0 (dpFail s kind word) := by
  unfold dpFail
  simp +contextual (maxDischargeDepth := 30) [hs]

@[simp] theorem logRefused_keeps {s0 : State} (s : State) (a : Nat) (hs : Keeps s0 s) : Keeps s0 (logRefused s a) := by
  unfold logRefused
  simp +contextual (maxDischargeDepth := 30) [hs]

@[simp] theorem hostWriteLines_keeps {s0 : State} (s : State) (a : Nat) (data : List Byte) (on : Nat → Bool) (hs : Keeps s0 s) : Keeps s0 (hostWriteLines s a data on) := by
  unfold hostWriteLines
  simp +contextual (maxDischargeDepth := 30) [hs]

@[simp] theorem portWriteRemote_keeps {s0 : State} (s : State) (w : Nat) (data : List Byte) (on : Nat → Bool) (hs : Keeps s0 s) : Keeps s0 (portWriteRemote s w data on) := by
  unfold portWriteRemote
  simp +contextual (maxDischargeDepth := 30) [hs]

@[simp] theorem portWriteLocal_keeps {s0 : State} (s : State) (w : Nat) (data : List Byte) (on : Nat → Bool) (hs : Keeps s0 s) : Keeps s0 (portWriteLocal s w data on) := by
  unfold portWriteLocal
  repeat' (first | (simp +contextual (maxDischargeDepth := 30) [hs]; done) | (refine (OutKeeps.next _ _).2 ?_) | dsimp only | split)

@[simp] theorem portReadLocal_keeps {s0 : State} (s : State) (w : Nat) (n : Nat) (hs : Keeps s0 s) : Keeps s0 (portReadLocal s w n) := by
  unfold portReadLocal
  repeat' (first | (simp +contextual (maxDischargeDepth := 30) [hs]; done) | (refine (OutKeeps.next _ _).2 ?_) | dsimp only | split)

@[simp] theorem portReadRemote_keeps {s0 : State} (s : State) (w : Nat) (n : Nat) (hs : Keeps s0 s) : Keeps s0 (portReadRemote s w n) := by
  unfold portReadRemote
  simp +contextual (maxDischargeDepth := 30) [hs]

@[simp] theorem portReadEnds_keeps {s0 : State} (s : State) (id : Nat) (addr : Nat) (body : List Line) (kind : Nat) (hs : Keeps s0 s) : Keeps s0 (portReadEnds s id addr body kind) := by
  unfold portReadEnds
  repeat' (first | (simp +contextual (maxDischargeDepth := 30) [hs]; done) | (refine (OutKeeps.next _ _).2 ?_) | dsimp only | split)

@[simp] theorem setChState_keeps {s0 : State} (s : State) (ch : Nat) (st : Nat) (hs : Keeps s0 s) : Keeps s0 (setChState s ch st) := by
  unfold setChState
  simp +contextual (maxDischargeDepth := 30) [hs]

@[simp] theorem askDescriptor_keeps {s0 : State} (s : State) (ch : Nat) (hs : Keeps s0 s) : Keeps s0 (askDescriptor s ch) := by
  unfold askDescriptor
  simp +contextual (maxDischargeDepth := 30) [hs]

@[simp] theorem finishHostDma_keeps {s0 : State} (s : State) (ch : Nat) (st : Nat) (hs : Keeps s0 s) : Keeps s0 (finishHostDma s ch st) := by
  unfold finishHostDma
  simp +contextual (maxDischargeDepth := 30) [hs]

@[simp] theorem hostOutLocal_keeps {s0 : State} (s : State) (ch : Nat) (d : Nat) (hs : Keeps s0 s) : Keeps s0 (hostOutLocal s ch d) := by
  unfold hostOutLocal
  repeat' (first | (simp +contextual (maxDischargeDepth := 30) [hs]; done) | (refine (OutKeeps.next _ _).2 ?_) | dsimp only | split)

@[simp] theorem hostRemote_keeps {s0 : State} (s : State) (ch : Nat) (reqs : List (Nat × Nat × List Line × Nat)) (isRead : Bool) (hs : Keeps s0 s) : Keeps s0 (hostRemote s ch reqs isRead) := by
  unfold hostRemote
  simp +contextual (maxDischargeDepth := 30) [hs]

@[simp] theorem hostInData_keeps {s0 : State} (s : State) (ch : Nat) (d : Nat) (data : List Byte) (hs : Keeps s0 s) : Keeps s0 (hostInData s ch d data) := by
  unfold hostInData
  repeat' (first | (simp +contextual (maxDischargeDepth := 30) [hs]; done) | (refine (OutKeeps.next _ _).2 ?_) | dsimp only | split)

@[simp] theorem hostDmaEnds_keeps {s0 : State} (s : State) (ch : Nat) (addr : Nat) (body : List Line) (st : Nat) (hs : Keeps s0 s) : Keeps s0 (hostDmaEnds s ch addr body st) := by
  unfold hostDmaEnds
  simp +contextual (maxDischargeDepth := 30) [hs]

@[simp] theorem goOnFlushing_keeps {s0 : State} (s : State) (q : Nat) (hs : Keeps s0 s) : Keeps s0 (goOnFlushing s q) := by
  unfold goOnFlushing
  repeat' (first | (simp +contextual (maxDischargeDepth := 30) [hs]; done) | (refine (OutKeeps.next _ _).2 ?_) | dsimp only | split)

@[simp] theorem slotFailed_keeps {s0 : State} (s : State) (q : Nat) (hs : Keeps s0 s) : Keeps s0 (slotFailed s q) := by
  unfold slotFailed
  simp +contextual (maxDischargeDepth := 30) [hs]

end Sys2Proof.Machine
end

