-- ==== Sys2Proof/Laws/KeepsControl.lean ====
section
/-! SUPPORT. What no operation disturbs: the fabric, the control plane, the dictionary, reliability, security and start-up. One lemma for each operation. -/

namespace Sys2Proof.Machine

/-! Machine/Fabric.lean. -/

@[simp] theorem setLinkState_keeps {s0 : State} (s : State) (p : Nat) (st : Nat) (hs : Keeps s0 s) : Keeps s0 (setLinkState s p st) := by
  unfold setLinkState
  simp +contextual (maxDischargeDepth := 30) [hs]

@[simp] theorem freshLink_keeps {s0 : State} (s : State) (p : Nat) (hs : Keeps s0 s) : Keeps s0 (freshLink s p) := by
  unfold freshLink
  simp +contextual (maxDischargeDepth := 30) [hs]

@[simp] theorem retrain_keeps {s0 : State} (s : State) (p : Nat) (hs : Keeps s0 s) : Keeps s0 (retrain s p) := by
  unfold retrain
  simp +contextual (maxDischargeDepth := 30) [hs]

@[simp] theorem requeue_keeps {s0 : State} (s : State) (x : TxMsg) (hs : Keeps s0 s) : Keeps s0 (requeue s x) := by
  unfold requeue
  repeat' (first | (simp +contextual (maxDischargeDepth := 30) [hs]; done) | (refine (OutKeeps.next _ _).2 ?_) | dsimp only | split)

@[simp] theorem leaveUp_keeps {s0 : State} (s : State) (p : Nat) (st : Nat) (hs : Keeps s0 s) : Keeps s0 (leaveUp s p st) := by
  unfold leaveUp
  simp +contextual (maxDischargeDepth := 30) [hs]

@[simp] theorem faultLink_keeps {s0 : State} (s : State) (p : Nat) (hs : Keeps s0 s) : Keeps s0 (faultLink s p) := by
  unfold faultLink
  simp +contextual (maxDischargeDepth := 30) [hs]

@[simp] theorem refuseReq_keeps {s0 : State} (s : State) (m : Msg) (r : Nat) (hs : Keeps s0 s) : Keeps s0 (refuseReq s m r) := by
  unfold refuseReq
  repeat' (first | (simp +contextual (maxDischargeDepth := 30) [hs]; done) | (refine (OutKeeps.next _ _).2 ?_) | dsimp only | split)

theorem eachLine_keeps {s0 s : State} {f : State → Nat → Line → State} (hf : ∀ t a l, Keeps s0 t → Keeps s0 (f t a l))
    (hs : Keeps s0 s) (xs : List (Nat × Line)) :
    Keeps s0 (xs.foldl (fun t e => if rangeLost t e.1 64 then t else f t e.1 e.2) s) := by
  refine foldl_keeps (fun t x ht => ?_) _ hs
  split
  · exact ht
  · exact hf _ _ _ ht

theorem slotAdd_keeps {s0 t : State} (a : Nat) (l : Line) (mask : BitVec 64) (ht : Keeps s0 t) :
    Keeps s0 (match areaAt t a with
      | none => t
      | some k => slotLine t k a l mask) := by
  split
  · exact ht
  · exact slotLine_keeps _ _ _ _ _ ht

@[simp] theorem performReq_keeps {s0 : State} (s : State) (m : Msg) (hs : Keeps s0 s) : Keeps s0 (performReq s m) := by
  unfold performReq
  dsimp only
  generalize BitVec.ofNat 64 m.mask = mask
  generalize (reqLines m).zip m.body = xs
  split
  · exact eachLine_keeps (f := fun t a l => writeLine t a l (nibbles m.mask)) (fun t a l ht => writeLine_keeps _ _ _ _ ht) hs _
  · split
    · exact eachLine_keeps (f := fun t a l => arrivalLine t a m.fmt l mask)
        (fun t a l ht => arrivalLine_keeps _ _ _ _ _ ht) hs _
    · split
      · exact eachLine_keeps (f := fun t a l => match areaAt t a with
          | none => t
          | some k => slotLine t k a l mask) (fun t a l ht => slotAdd_keeps a l mask ht) hs _
      · split
        · exact signalObj_keeps _ _ _ _ hs
        · exact hs

@[simp] theorem serve_keeps {s0 : State} (s : State) (m : Msg) (hs : Keeps s0 s) : Keeps s0 (serve s m) := by
  unfold serve
  simp +contextual (maxDischargeDepth := 30) [hs]

@[simp] theorem endRequest_keeps {s0 : State} (s : State) (r : RemoteReq) (reason : Nat) (body : List Line) (hs : Keeps s0 s) : Keeps s0 (endRequest s r reason body) := by
  unfold endRequest
  repeat' (first | (simp +contextual (maxDischargeDepth := 30) [hs]; done) | (refine (OutKeeps.next _ _).2 ?_) | dsimp only | split)

@[simp] theorem lateResponse_keeps {s0 : State} (s : State) (hs : Keeps s0 s) : Keeps s0 (lateResponse s) := by
  unfold lateResponse
  simp +contextual (maxDischargeDepth := 30) [hs]

@[simp] theorem takeResponse_keeps {s0 : State} (s : State) (m : Msg) (hs : Keeps s0 s) : Keeps s0 (takeResponse s m) := by
  unfold takeResponse
  repeat' (first | (simp +contextual (maxDischargeDepth := 30) [hs]; done) | (refine (OutKeeps.next _ _).2 ?_) | dsimp only | split)

@[simp] theorem response_keeps {s0 : State} (s : State) (v : Via) (m : Msg) (hs : Keeps s0 s) : Keeps s0 (response s v m) := by
  unfold response
  simp +contextual (maxDischargeDepth := 30) [hs]

@[simp] theorem transit_keeps {s0 : State} (s : State) (v : Via) (m : Msg) (hs : Keeps s0 s) : Keeps s0 (transit s v m) := by
  unfold transit
  repeat' (first | (simp +contextual (maxDischargeDepth := 30) [hs]; done) | (refine (OutKeeps.next _ _).2 ?_) | dsimp only | split)

@[simp] theorem noticeIn_keeps {s0 : State} (s : State) (m : Msg) (hs : Keeps s0 s) : Keeps s0 (noticeIn s m) := by
  unfold noticeIn
  simp +contextual (maxDischargeDepth := 30) [hs]

@[simp] theorem deliverMsg_keeps {s0 : State} (s : State) (v : Via) (m : Msg) (hs : Keeps s0 s) : Keeps s0 (deliverMsg s v m) := by
  unfold deliverMsg
  rw [Keeps.ite]; refine ⟨fun _ => hs, fun _ => ?_⟩
  rw [Keeps.ite]; refine ⟨fun _ => hs, fun _ => ?_⟩
  rw [Keeps.ite]; refine ⟨fun _ => discardMsg_keeps _ hs, fun _ => ?_⟩
  rw [Keeps.ite]; refine ⟨fun _ => noticeIn_keeps _ _ hs, fun _ => ?_⟩
  rw [Keeps.ite]; refine ⟨fun _ => discardMsg_keeps _ hs, fun _ => ?_⟩
  rw [Keeps.ite]; refine ⟨fun _ => transit_keeps _ _ _ hs, fun _ => ?_⟩
  rw [Keeps.ite]; refine ⟨fun _ => serve_keeps _ _ hs, fun _ => ?_⟩
  rw [Keeps.ite]; refine ⟨fun _ => response_keeps _ _ _ hs, fun _ => ?_⟩
  rw [Keeps.ite]; refine ⟨fun _ => noticeIn_keeps _ _ hs, fun _ => ?_⟩
  rw [Keeps.ite]; exact ⟨fun _ => hs, fun _ => collIn_keeps _ _ _ hs⟩

@[simp] theorem unloop_keeps {s0 : State} (s : State) (v : Via) (m : Msg) (hs : Keeps s0 s) : Keeps s0 (unloop s v m) := by
  unfold unloop
  repeat' (first | (simp +contextual (maxDischargeDepth := 30) [hs]; done) | (refine (OutKeeps.next _ _).2 ?_) | dsimp only | split)

@[simp] theorem arrive_keeps {s0 : State} (op : Nat) (v : Via) (m : Msg) (s : State) (hs : Keeps s0 s) : OutKeeps s0 (arrive op v m s) := by
  unfold arrive
  simp +contextual (maxDischargeDepth := 30) [hs]

@[simp] theorem corrected_keeps {s0 : State} (s : State) (p : Nat) (hs : Keeps s0 s) : Keeps s0 (corrected s p) := by
  unfold corrected
  simp +contextual (maxDischargeDepth := 30) [hs]

@[simp] theorem freeOrHold_keeps {s0 : State} (s : State) (p : PortId) (v : Nat) (hs : Keeps s0 s) : Keeps s0 (freeOrHold s p v) := by
  unfold freeOrHold
  simp +contextual (maxDischargeDepth := 30) [hs]

@[simp] theorem effFabricEnable_keeps {s0 : State} (v : Nat) (s : State) (hs : Keeps s0 s) : Keeps s0 (effFabricEnable v s) := by
  unfold effFabricEnable
  simp +contextual (maxDischargeDepth := 30) [hs]

@[simp] theorem effWindow_keeps {s0 : State} (w : Nat) (v : Nat) (s : State) (hs : Keeps s0 s) : Keeps s0 (effWindow w v s) := by
  unfold effWindow
  simp +contextual (maxDischargeDepth := 30) [hs]

/-! Machine/CollMsgs.lean. -/

@[simp] theorem freeLanes_keeps {s0 : State} (s : State) (p : PortId) (hs : Keeps s0 s) : Keeps s0 (freeLanes s p) := by
  unfold freeLanes
  simp +contextual (maxDischargeDepth := 30) [hs]

@[simp] theorem releaseLanes_keeps {s0 : State} (s : State) (hs : Keeps s0 s) : Keeps s0 (releaseLanes s) := by
  unfold releaseLanes
  simp +contextual (maxDischargeDepth := 30) [hs]

@[simp] theorem effCommState_keeps {s0 : State} (c : Nat) (v : Nat) (s : State) (hs : Keeps s0 s) : Keeps s0 (effCommState c v s) := by
  unfold effCommState
  simp +contextual (maxDischargeDepth := 30) [hs]

@[simp] theorem noteTable_keeps {s0 : State} (p : Path) (c : Nat) (v : Nat) (s : State) (hs : Keeps s0 s) : Keeps s0 (noteTable p c v s) := by
  unfold noteTable
  repeat' (first | (simp +contextual (maxDischargeDepth := 30) [hs]; done) | (refine (OutKeeps.next _ _).2 ?_) | dsimp only | split)

@[simp] theorem collKind_keeps {s0 : State} (op : Nat) (k : Nat) (s : State) (v : Via) (m : Msg) (hs : Keeps s0 s) : OutKeeps s0 (collKind op k s v m) := by
  unfold collKind
  simp +contextual (maxDischargeDepth := 30) [hs]

/-! Machine/Control.lean. -/

@[simp] theorem doorbellError_keeps {s0 : State} (s : State) (hs : Keeps s0 s) : Keeps s0 (doorbellError s) := by
  unfold doorbellError
  simp +contextual (maxDischargeDepth := 30) [hs]

@[simp] theorem effQueueConfig_keeps {s0 : State} (q : Nat) (v : Nat) (s : State) (hs : Keeps s0 s) : Keeps s0 (effQueueConfig q v s) := by
  unfold effQueueConfig
  simp +contextual (maxDischargeDepth := 30) [hs]

@[simp] theorem resumeQueue_keeps {s0 : State} (s : State) (q : Nat) (hs : Keeps s0 s) : Keeps s0 (resumeQueue s q) := by
  unfold resumeQueue
  simp +contextual (maxDischargeDepth := 30) [hs]

@[simp] theorem flushQueue_keeps {s0 : State} (s : State) (q : Nat) (tags : List Nat) (hs : Keeps s0 s) : Keeps s0 (flushQueue s q tags) := by
  unfold flushQueue
  repeat' (first | (simp +contextual (maxDischargeDepth := 30) [hs]; done) | (refine (OutKeeps.next _ _).2 ?_) | dsimp only | split)

@[simp] theorem effQueueCmd_keeps {s0 : State} (q : Nat) (v : Nat) (s : State) (hs : Keeps s0 s) : Keeps s0 (effQueueCmd q v s) := by
  unfold effQueueCmd
  simp +contextual (maxDischargeDepth := 30) [hs]

@[simp] theorem effRingConfig_keeps {s0 : State} (r : Nat) (v : Nat) (s : State) (hs : Keeps s0 s) : Keeps s0 (effRingConfig r v s) := by
  unfold effRingConfig
  simp +contextual (maxDischargeDepth := 30) [hs]

@[simp] theorem effHoldoff_keeps {s0 : State} (p : Path) (g : Nat) (v : Nat) (s : State) (hs : Keeps s0 s) : Keeps s0 (effHoldoff p g v s) := by
  unfold effHoldoff
  simp +contextual (maxDischargeDepth := 30) [hs]

@[simp] theorem setArb_keeps {s0 : State} (s : State) (r : Resource) (u : ArbUnit) (hs : Keeps s0 s) : Keeps s0 (setArb s r u) := by
  unfold setArb
  simp +contextual (maxDischargeDepth := 30) [hs]

@[simp] theorem faultHolder_keeps {s0 : State} (s : State) (x : ArbReq) (hs : Keeps s0 s) : Keeps s0 (faultHolder s x) := by
  unfold faultHolder
  repeat' (first | (simp +contextual (maxDischargeDepth := 30) [hs]; done) | (refine (OutKeeps.next _ _).2 ?_) | dsimp only | split)

@[simp] theorem endStuck_keeps {s0 : State} (s : State) (r : Resource) (x : ArbReq) (hs : Keeps s0 s) : Keeps s0 (endStuck s r x) := by
  unfold endStuck
  repeat' (first | (simp +contextual (maxDischargeDepth := 30) [hs]; done) | (refine (OutKeeps.next _ _).2 ?_) | dsimp only | split)

@[simp] theorem effWaitLimit_keeps {s0 : State} (k : Nat) (sub : Nat) (v : Nat) (s : State) (hs : Keeps s0 s) : Keeps s0 (effWaitLimit k sub v s) := by
  unfold effWaitLimit
  simp +contextual (maxDischargeDepth := 30) [hs]

/-! Machine/Rely.lean. -/

@[simp] theorem effFaultAck_keeps {s0 : State} (v : Nat) (s : State) (hs : Keeps s0 s) : Keeps s0 (effFaultAck v s) := by
  unfold effFaultAck
  simp +contextual (maxDischargeDepth := 30) [hs]

@[simp] theorem dropLanes_keeps {s0 : State} (s : State) (p : Nat) (low : Bool) (high : Bool) (hs : Keeps s0 s) : Keeps s0 (dropLanes s p low high) := by
  unfold dropLanes
  simp +contextual (maxDischargeDepth := 30) [hs]

@[simp] theorem retireLanes_keeps {s0 : State} (s : State) (p : Nat) (low : Bool) (high : Bool) (hs : Keeps s0 s) : Keeps s0 (retireLanes s p low high) := by
  unfold retireLanes
  simp +contextual (maxDischargeDepth := 30) [hs]

@[simp] theorem dropWire_keeps {s0 : State} (s : State) (k : Nat) (hs : Keeps s0 s) : Keeps s0 (dropWire s k) := by
  unfold dropWire
  simp +contextual (maxDischargeDepth := 30) [hs]

@[simp] theorem retireWire_keeps {s0 : State} (s : State) (k : Nat) (wire : Nat) (hs : Keeps s0 s) : Keeps s0 (retireWire s k wire) := by
  unfold retireWire
  simp +contextual (maxDischargeDepth := 30) [hs]

@[simp] theorem logOutcome_keeps {s0 : State} (s : State) (t : Test) (o : Nat) (hs : Keeps s0 s) : Keeps s0 (logOutcome s t o) := by
  unfold logOutcome
  simp +contextual (maxDischargeDepth := 30) [hs]

@[simp] theorem repairArray_keeps {s0 : State} (s : State) (t : Test) (o : Nat) (cells : List CellAt) (hs : Keeps s0 s) : Keeps s0 (repairArray s t o cells) := by
  unfold repairArray
  repeat' (first | (simp +contextual (maxDischargeDepth := 30) [hs]; done) | (refine (OutKeeps.next _ _).2 ?_) | dsimp only | split)

@[simp] theorem confirm_keeps {s0 : State} (before : State) (s : State) (t : Test) (hs : Keeps s0 s) : Keeps s0 (confirm before s t) := by
  unfold confirm
  simp +contextual (maxDischargeDepth := 30) [hs]

@[simp] theorem repairSite_keeps {s0 : State} (s : State) (t : Test) (o : Nat) (r : TestResult) (hs : Keeps s0 s) : Keeps s0 (repairSite s t o r) := by
  unfold repairSite
  repeat' (first | (simp +contextual (maxDischargeDepth := 30) [hs]; done) | (refine (OutKeeps.next _ _).2 ?_) | dsimp only | split)

@[simp] theorem keepRecirc_keeps {s0 : State} (before : State) (s : State) (t : Test) (r : TestResult) (hs : Keeps s0 s) : Keeps s0 (keepRecirc before s t r) := by
  unfold keepRecirc
  repeat' (first | (simp +contextual (maxDischargeDepth := 30) [hs]; done) | (refine (OutKeeps.next _ _).2 ?_) | dsimp only | split)

@[simp] theorem endTest_keeps {s0 : State} (s : State) (t : Test) (r : TestResult) (hs : Keeps s0 s) : Keeps s0 (endTest s t r) := by
  unfold endTest
  repeat' (first | (simp +contextual (maxDischargeDepth := 30) [hs]; done) | (refine (OutKeeps.next _ _).2 ?_) | dsimp only | split)

@[simp] theorem retireListed_keeps {s0 : State} (s : State) (e : Nat) (hs : Keeps s0 s) : Keeps s0 (retireListed s e) := by
  unfold retireListed
  extract_lets
  repeat' (first | with_reducible exact hs | split)
  all_goals first
    | with_reducible exact markRetired_keeps _ _ hs
    | with_reducible exact dropBlock_keeps _ _ _ hs
    | with_reducible exact dropArray_keeps _ _ hs
    | with_reducible exact retireArray_keeps _ _ (dropEngine_keeps _ _ hs)
    | with_reducible exact dropLanes_keeps _ _ _ _ hs
    | with_reducible exact dropWire_keeps _ _ hs

@[simp] theorem effRetiredList_keeps {s0 : State} (off : Nat) (data : List Byte) (s : State) (hs : Keeps s0 s) : Keeps s0 (effRetiredList off data s) := by
  unfold effRetiredList
  simp +contextual (maxDischargeDepth := 30) [hs]

@[simp] theorem tryBlock_keeps {s0 : State} (s : State) (p : Path) (i : Nat) (sub : Nat) (off : Nat) (data : List Byte) (unitLen : Nat) (pre : State → Nat) (eff : State → State) (he : ∀ t, Keeps s0 t → Keeps s0 (eff t)) (hs : Keeps s0 s) : Keeps s0 (tryBlock s p i sub off data unitLen pre eff).2 := by
  unfold tryBlock
  repeat' (first | (simp +contextual (maxDischargeDepth := 30) [hs, he]; done) | (refine (OutKeeps.next _ _).2 ?_) | dsimp only | split)

/-! Machine/Signed.lean. -/

@[simp] theorem effSigned_keeps {s0 : State} (p : Path) (off : Nat) (data : List Byte) (s : State) (hs : Keeps s0 s) : Keeps s0 (effSigned p off data s) := by
  unfold effSigned
  simp +contextual (maxDischargeDepth := 30) [hs]

/-! Machine/Dictionary.lean. -/

@[simp] theorem effStage_keeps {s0 : State} (i : Nat) (sub : Nat) (v : Nat) (unit : Nat) (s : State) (hs : Keeps s0 s) : Keeps s0 (effStage i sub v unit s) := by
  unfold effStage
  simp +contextual (maxDischargeDepth := 30) [hs]

@[simp] theorem commitModes_keeps {s0 : State} (s : State) (hs : Keeps s0 s) : Keeps s0 (commitModes s) := by
  unfold commitModes
  simp +contextual (maxDischargeDepth := 30) [hs]

@[simp] theorem effModeCmd_keeps {s0 : State} (v : Nat) (s : State) (hs : Keeps s0 s) : Keeps s0 (effModeCmd v s) := by
  unfold effModeCmd
  simp +contextual (maxDischargeDepth := 30) [hs]

@[simp] theorem effGpio_keeps {s0 : State} (p : Path) (n : Nat) (v : Nat) (s : State) (hs : Keeps s0 s) : Keeps s0 (effGpio p n v s) := by
  unfold effGpio
  simp +contextual (maxDischargeDepth := 30) [hs]

@[simp] theorem effPortEnable_keeps {s0 : State} (p : Nat) (v : Nat) (s : State) (hs : Keeps s0 s) : Keeps s0 (effPortEnable p v s) := by
  unfold effPortEnable
  simp +contextual (maxDischargeDepth := 30) [hs]

@[simp] theorem effLow_keeps {s0 : State} (p : Path) (i : Nat) (sub : Nat) (v : Nat) (s : State) (hs : Keeps s0 s) : Keeps s0 (effLow p i sub v s) := by
  unfold effLow
  repeat' (first | exact hs | split)
  all_goals simp +contextual (maxDischargeDepth := 30) [hs]

@[simp] theorem effHigh_keeps {s0 : State} (p : Path) (i : Nat) (sub : Nat) (v : Nat) (s : State) (hs : Keeps s0 s) : Keeps s0 (effHigh p i sub v s) := by
  unfold effHigh
  split
  · simp [hs]
  · repeat' (first | (split; (simp [hs]; done)) | (simp [hs]; done))

@[simp] theorem effWrite_keeps {s0 : State} (p : Path) (i : Nat) (sub : Nat) (v : Nat) (s : State) (hs : Keeps s0 s) : Keeps s0 (effWrite p i sub v s) := by
  unfold effWrite
  simp +contextual (maxDischargeDepth := 30) [hs]

@[simp] theorem writeEntryBytes_keeps {s0 : State} (s : State) (p : Path) (i : Nat) (sub : Nat) (b : List Byte) (hs : Keeps s0 s) : Keeps s0 (writeEntryBytes s p i sub b).2 := by
  unfold writeEntryBytes
  simp +contextual (maxDischargeDepth := 30) [hs]

@[simp] theorem writeDomain_keeps {s0 : State} (s : State) (p : Path) (i : Nat) (sub : Nat) (off : Nat) (b : List Byte) (hs : Keeps s0 s) : Keeps s0 (writeDomain s p i sub off b).2 := by
  unfold writeDomain
  repeat' (first | (simp +contextual (maxDischargeDepth := 30) [hs]; done) | (refine (OutKeeps.next _ _).2 ?_) | dsimp only | split)

@[simp] theorem answerWrite_keeps {s0 : State} (p : Path) (i : Nat) (r : Nat × State) (hs : Keeps s0 r.2) : Keeps s0 (answerWrite p i r) := by
  unfold answerWrite
  simp +contextual (maxDischargeDepth := 30) [hs]

@[simp] theorem setMailRequest_keeps {s0 : State} (s : State) (k : MailSlot) (f : List Byte) (hs : Keeps s0 s) : Keeps s0 (setMailRequest s k f) := by
  unfold setMailRequest
  repeat' (first | (simp +contextual (maxDischargeDepth := 30) [hs]; done) | (refine (OutKeeps.next _ _).2 ?_) | dsimp only | split)

@[simp] theorem mailAnswer_keeps {s0 : State} (s : State) (k : MailSlot) (f : List Byte) (hs : Keeps s0 s) : Keeps s0 (mailAnswer s k f) := by
  unfold mailAnswer
  repeat' (first | (simp +contextual (maxDischargeDepth := 30) [hs]; done) | (refine (OutKeeps.next _ _).2 ?_) | dsimp only | split)

@[simp] theorem takeFrame_keeps {s0 : State} (s : State) (a : FieldSrc) (f : List Byte) (hs : Keeps s0 s) : Keeps s0 (takeFrame s a f) := by
  unfold takeFrame
  repeat' (first | (simp +contextual (maxDischargeDepth := 30) [hs]; done) | (refine (OutKeeps.next _ _).2 ?_) | dsimp only | split)

@[simp] theorem fieldAnswer_keeps {s0 : State} (s : State) (a : FieldSrc) (tid : BitVec 16) (f : List Byte) (hs : Keeps s0 s) : Keeps s0 (fieldAnswer s a tid f) := by
  unfold fieldAnswer
  simp +contextual (maxDischargeDepth := 30) [hs]

@[simp] theorem serveRequest_keeps {s0 : State} (s : State) (r : Request) (hs : Keeps s0 s) : Keeps s0 (serveRequest s r).2.2 := by
  unfold serveRequest
  repeat' (first | (simp +contextual (maxDischargeDepth := 30) [hs]; done) | dsimp only | split)
@[simp] theorem dictStep_keeps {s0 : State} (s : State) (r : DictReq) (op : Nat) (hs : Keeps s0 s) : Keeps s0 (dictStep s r op) := by
  unfold dictStep
  repeat' (first | (simp +contextual (maxDischargeDepth := 30) [hs]; done) | (refine (OutKeeps.next _ _).2 ?_) | dsimp only | split)

@[simp] theorem flushNotify_keeps {s0 : State} (s : State) (hs : Keeps s0 s) : Keeps s0 (flushNotify s) := by
  unfold flushNotify
  simp +contextual (maxDischargeDepth := 30) [hs]

/-! Machine/Security.lean. -/

@[simp] theorem finish_keeps {s0 : State} (s : State) (r : Nat) (hs : Keeps s0 s) : Keeps s0 (finish s r) := by
  unfold finish
  simp +contextual (maxDischargeDepth := 30) [hs]

@[simp] theorem runCmd_keeps {s0 : State} (s : State) (code : Nat) (check : Nat) (eff : State → State) (he : ∀ t, Keeps s0 t → Keeps s0 (eff t)) (hs : Keeps s0 s) : Keeps s0 (runCmd s code check eff) := by
  unfold runCmd
  simp +contextual (maxDischargeDepth := 30) [hs, he]

@[simp] theorem effWriteEntry_keeps {s0 : State} (s : State) (hs : Keeps s0 s) : Keeps s0 (effWriteEntry s) := by
  unfold effWriteEntry
  simp +contextual (maxDischargeDepth := 30) [hs]

@[simp] theorem effAdvance_keeps {s0 : State} (k : Nat) (s : State) (hs : Keeps s0 s) : Keeps s0 (effAdvance k s) := by
  refine ⟨hs.1, hs.2.1, hs.2.2.1, fun j => Nat.le_trans (hs.2.2.2 j) ?_⟩
  show _ ≤ SMap.get (SMap.set s.fuses.svn k _ 0) j 0
  rw [SMap.get_set]
  split
  · rename_i e; subst e; exact Nat.le_max_left _ _
  · exact Nat.le_refl _

@[simp] theorem effInstall_keeps {s0 : State} (s : State) (hs : Keeps s0 s) : Keeps s0 (effInstall s) := by
  unfold effInstall
  simp +contextual (maxDischargeDepth := 30) [hs]

@[simp] theorem setDebug_keeps {s0 : State} (s : State) (level : Nat) (hs : Keeps s0 s) : Keeps s0 (setDebug s level) := by
  unfold setDebug
  simp +contextual (maxDischargeDepth := 30) [hs]

@[simp] theorem effUnlock_keeps {s0 : State} (challenge : Nat) (s : State) (hs : Keeps s0 s) : Keeps s0 (effUnlock challenge s) := by
  unfold effUnlock
  simp +contextual (maxDischargeDepth := 30) [hs]

@[simp] theorem fuseOwner_keeps {s0 : State} (s : State) (h : Nat) (hs : Keeps s0 s) : Keeps s0 (fuseOwner s h) := by
  unfold fuseOwner
  repeat' (first | (simp +contextual (maxDischargeDepth := 30) [hs]; done) | (refine (OutKeeps.next _ _).2 ?_) | dsimp only | split)

@[simp] theorem afterScrub_keeps {s0 : State} (s : State) (hs : Keeps s0 s) : Keeps s0 (afterScrub s) := by
  unfold afterScrub
  repeat' (first | (simp +contextual (maxDischargeDepth := 30) [hs]; done) | (refine (OutKeeps.next _ _).2 ?_) | dsimp only | split)

@[simp] theorem showResult_keeps {s0 : State} (s : State) (r : Nat) (hs : Keeps s0 s) : Keeps s0 (showResult s r) := by
  unfold showResult
  simp +contextual (maxDischargeDepth := 30) [hs]

/-! Machine/Startup.lean. -/

@[simp] theorem setStep_keeps {s0 : State} (s : State) (b : Nat) (hs : Keeps s0 s) : Keeps s0 (setStep s b) := by
  unfold setStep
  simp +contextual (maxDischargeDepth := 30) [hs]

@[simp] theorem setStart_keeps {s0 : State} (s : State) (st : Nat) (hs : Keeps s0 s) : Keeps s0 (setStart s st) := by
  unfold setStart
  simp +contextual (maxDischargeDepth := 30) [hs]

@[simp] theorem pinLevels_keeps {s0 : State} (s : State) (hs : Keeps s0 s) : Keeps s0 (pinLevels s) := by
  unfold pinLevels
  simp +contextual (maxDischargeDepth := 30) [hs]

@[simp] theorem blankPart_keeps {s0 : State} (s : State) (hs : Keeps s0 s) : Keeps s0 (blankPart s) := by
  exact ⟨hs.1, fun _ => rfl, fun _ _ => by simp [SMap.get, blankPart, State.reset, Irq.reset], hs.2.2.2⟩

@[simp] theorem coolantFrom_keeps {s0 : State} (s : State) (hs : Keeps s0 s) : Keeps s0 (coolantFrom s) := by
  unfold coolantFrom
  simp +contextual (maxDischargeDepth := 30) [hs]

@[simp] theorem sampleStraps_keeps {s0 : State} (s : State) (hs : Keeps s0 s) : Keeps s0 (sampleStraps s) := by
  unfold sampleStraps
  simp +contextual (maxDischargeDepth := 30) [hs]

@[simp] theorem beginSequence_keeps {s0 : State} (s : State) (hs : Keeps s0 s) : Keeps s0 (beginSequence s) := by
  unfold beginSequence
  simp +contextual (maxDischargeDepth := 30) [hs]

@[simp] theorem loadAgeing_keeps {s0 : State} (s : State) (a : Nat) (hs : Keeps s0 s) : Keeps s0 (loadAgeing s a) := by
  unfold loadAgeing
  simp +contextual (maxDischargeDepth := 30) [hs]

@[simp] theorem loadMargin_keeps {s0 : State} (s : State) (u : Nat) (hs : Keeps s0 s) : Keeps s0 (loadMargin s u) := by
  unfold loadMargin
  simp +contextual (maxDischargeDepth := 30) [hs]

@[simp] theorem acceptSlot_keeps {s0 : State} (s : State) (slot : Nat) (c : SlotCheck) (hs : Keeps s0 s) : Keeps s0 (acceptSlot s slot c) := by
  unfold acceptSlot
  simp +contextual (maxDischargeDepth := 30) [hs]

@[simp] theorem rejectSlot_keeps {s0 : State} (s : State) (slot : Nat) (kind : Nat) (sev : Nat) (hs : Keeps s0 s) : Keeps s0 (rejectSlot s slot kind sev) := by
  unfold rejectSlot
  simp +contextual (maxDischargeDepth := 30) [hs]

@[simp] theorem takeArrayTest_keeps {s0 : State} (s : State) (x : ArrayId × ArrayTest) (hs : Keeps s0 s) : Keeps s0 (takeArrayTest s x) := by
  unfold takeArrayTest
  simp +contextual (maxDischargeDepth := 30) [hs]

@[simp] theorem setTrained_keeps {s0 : State} (failed : List StackId) (s : State) (k : Nat) (hs : Keeps s0 s) : Keeps s0 (setTrained failed s k) := by
  unfold setTrained
  simp +contextual (maxDischargeDepth := 30) [hs]

@[simp] theorem afterWarmReset_keeps {s0 : State} (s : State) (hs : Keeps s0 s) : Keeps s0 (afterWarmReset s) := by
  have hb := blankPart_keeps s hs
  exact ⟨hs.1, fun w => SMap.wf_filter _ (hs.2.1 w), hb.2.2⟩

@[simp] theorem endAllWork_keeps {s0 : State} (s : State) (hs : Keeps s0 s) : Keeps s0 (endAllWork s) := by
  unfold endAllWork
  simp +contextual (maxDischargeDepth := 30) [hs]

/-! Machine/Tick.lean. -/

@[simp] theorem countWhile_keeps {s0 : State} (b : Bool) (i : Nat) (sub : Nat) (s : State) (hs : Keeps s0 s) : Keeps s0 (countWhile b i sub s) := by
  unfold countWhile
  simp +contextual (maxDischargeDepth := 30) [hs]

@[simp] theorem countTimes_keeps {s0 : State} (s : State) (hs : Keeps s0 s) : Keeps s0 (countTimes s) := by
  unfold countTimes
  simp +contextual (maxDischargeDepth := 30) [hs]

@[simp] theorem tick_keeps {s0 : State} (s : State) (hs : Keeps s0 s) : Keeps s0 (tick s) := by
  unfold tick
  simp +contextual (maxDischargeDepth := 30) [hs]

end Sys2Proof.Machine
end

