-- ==== Sys2Proof/WellFormed.lean ====
section
/-! DEFINITION. What a command's operands satisfy beyond their types: the opcode and the class of a message match its row
(Tables 13.3, 13.4), and byte strings have the length of what carries them. -/

namespace Sys2Proof

/-- OPCODE of a message's header. -/
def opcodeOf (m : Msg) : Nat := m.hdr.toNat % 256

/-- A message of this opcode with at most 128 lines. -/
def messageOk (op : Nat) (m : Msg) : Bool := opcodeOf m == op && decide (m.body.length ≤ 128)

/-- A message of the collective engine. -/
def collectiveOk (m : Msg) : Bool := (opcodeOf m == 6 || opcodeOf m == 7) && decide (m.body.length ≤ 128)

/-- Is a command well formed. A command that is not may still be run: its meaning is total. -/
def Instr.wf : Instr → Bool
  | .read _ m => messageOk 0x01 m
  | .write _ m => messageOk 0x02 m
  | .redAdd _ m => messageOk 0x03 m
  | .redSlot _ m => messageOk 0x04 m
  | .fabricSignal _ m => messageOk 0x05 m
  | .collData _ m => messageOk 0x06 m
  | .collCtrl _ m => messageOk 0x07 m
  | .notice _ m => messageOk 0x08 m
  | .readData _ m => messageOk 0x81 m
  | .ack _ m => messageOk 0x82 m
  | .nak _ m => messageOk 0x83 m
  | .transitForward _ m => decide (m.body.length ≤ 128)
  | .contrib _ m => collectiveOk m
  | .partialAcc _ m => collectiveOk m
  | .partialBlock _ m => collectiveOk m
  | .compressed _ m => collectiveOk m
  | .gather _ m => collectiveOk m
  | .repairData _ m => collectiveOk m
  | .scales _ m => collectiveOk m
  | .shadowDigest _ m => collectiveOk m
  | .substitute _ m => collectiveOk m
  | .stopped _ m => collectiveOk m
  | .done _ m => collectiveOk m
  | .abort _ m => collectiveOk m
  | .norm _ m => collectiveOk m
  | .repairReq _ m => collectiveOk m
  | .barrierArrive _ m => collectiveOk m
  | .barrierRelease _ m => collectiveOk m
  | .dataCell _ _ payload => payload.length == 240
  | .marginRunDone _ x => x.read.length == 16 && x.write.length == 16
  | .mailboxDoorbell _ request _ => decide (request.length ≤ 0x3000)
  | .imageSaved _ gweviState => decide (gweviState.length ≤ 0x8000)
  | .attestationReportReady signature _ => signature.length == 3309
  | .identityDerived r => !r.ok || (r.publicKey.length == 1952 && decide (r.cert.length ≤ 8192))
  | .railTelemetryPoll r => (r.map RailReading.rail).eraseDups.length == r.length
  | .arraySelfTestComplete results _ => (results.map Prod.fst).eraseDups.length == results.length
  | .hbmTrainingComplete failed => failed.eraseDups.length == failed.length
  | .hbmMarchComplete rows => rows.eraseDups.length == rows.length
  | .dataPortRead dwords => decide (1 ≤ dwords) && decide (dwords ≤ 1024)
  | .dataPortWrite data _ _ => data.length % 4 == 0 && decide (4 ≤ data.length) && decide (data.length ≤ 4096)
  | .bar4Access op => match op with
    | .write _ data => decide (1 ≤ data.length) && decide (data.length ≤ 4096)
    | .read _ len => decide (1 ≤ len) && decide (len ≤ 4096)
  | .vddAonUp .. => true
  | .s0 .. => true
  | .fuseSenseComplete .. => true
  | .bootImagesVerified .. => true
  | .gweviRunning .. => true
  | .softRepairRegistersLoaded .. => true
  | .loamMarchComplete .. => true
  | .baseDieFirmwareRunning .. => true
  | .portsSettled .. => true
  | .ready .. => true
  | .perstNRise .. => true
  | .pcieLinkUp .. => true
  | .warmReset .. => true
  | .hotReset .. => true
  | .clockLoss .. => true
  | .clockReturn .. => true
  | .paceHoldNFall .. => true
  | .paceHoldNRise .. => true
  | .skewExpiry .. => true
  | .rampIntervalEnd .. => true
  | .coolantOkFall .. => true
  | .coolantOkRise .. => true
  | .coolantStop .. => true
  | .coolantResume .. => true
  | .resumeComplete .. => true
  | .thermtrip .. => true
  | .tjUpdate .. => true
  | .thermalGridPoint .. => true
  | .thermalStop .. => true
  | .stackTemperatureRead .. => true
  | .pmbAlert .. => true
  | .voltageLoopUpdate .. => true
  | .ageingMeasurement .. => true
  | .ageingFuseBurnEnd .. => true
  | .canaryEvent .. => true
  | .marginWindowEnd .. => true
  | .railScaleUpdate .. => true
  | .phaseAnnouncement .. => true
  | .powerShareEvaluation .. => true
  | .phaseEnd .. => true
  | .shareTableWrap .. => true
  | .shareShadowWrite .. => true
  | .d0Request .. => true
  | .dozeRequest .. => true
  | .holdRequest .. => true
  | .dozeEntry .. => true
  | .holdEntry .. => true
  | .wakeEvent .. => true
  | .pcieD0 .. => true
  | .nop .. => true
  | .matmul .. => true
  | .wave .. => true
  | .outputStageAccept .. => true
  | .completionRecord .. => true
  | .recordWrite .. => true
  | .operationDeadlineExpiry .. => true
  | .arrayHold .. => true
  | .partitionMode .. => true
  | .repairBurn .. => true
  | .repairBurnComplete .. => true
  | .vprog .. => true
  | .vprogNop .. => true
  | .epilogue .. => true
  | .shareWindowEnd .. => true
  | .vecNop .. => true
  | .vecEnd .. => true
  | .shape .. => true
  | .loop .. => true
  | .endloop .. => true
  | .yield .. => true
  | .vecWait .. => true
  | .vecSignal .. => true
  | .sets .. => true
  | .setar .. => true
  | .advar .. => true
  | .add .. => true
  | .sub .. => true
  | .mul .. => true
  | .fma .. => true
  | .min .. => true
  | .max .. => true
  | .abs .. => true
  | .neg .. => true
  | .select .. => true
  | .cmpeq .. => true
  | .cmplt .. => true
  | .cmple .. => true
  | .mand .. => true
  | .mor .. => true
  | .mnot .. => true
  | .exp2 .. => true
  | .log2 .. => true
  | .rcp .. => true
  | .rsqrt .. => true
  | .rsum .. => true
  | .rsumsq .. => true
  | .rprod .. => true
  | .rmax .. => true
  | .rmin .. => true
  | .rargmax .. => true
  | .rargmin .. => true
  | .rcount .. => true
  | .slotArithmetic .. => true
  | .cvt .. => true
  | .quant .. => true
  | .qdual .. => true
  | .compress .. => true
  | .expand .. => true
  | .topk .. => true
  | .maskgen .. => true
  | .vecLoad .. => true
  | .store .. => true
  | .loadstat .. => true
  | .savestat .. => true
  | .loadmask .. => true
  | .microcodeInstruction .. => true
  | .captureComplete .. => true
  | .exactCheck .. => true
  | .sieveRecheck .. => true
  | .fidelityCheck .. => true
  | .sieveEnable .. => true
  | .copy .. => true
  | .fill .. => true
  | .dmaNop .. => true
  | .lineRead .. => true
  | .lineWrite .. => true
  | .contextRecordWrite .. => true
  | .load .. => true
  | .preempt .. => true
  | .checkpoint .. => true
  | .reset .. => true
  | .delete .. => true
  | .loadRemote .. => true
  | .loadComplete .. => true
  | .checkpointCommitted .. => true
  | .scrubStart .. => true
  | .scrubDone .. => true
  | .patrolScrubRead .. => true
  | .stackLinkReplay .. => true
  | .slotTableWrap .. => true
  | .hbmSlotGrant .. => true
  | .slotShadow .. => true
  | .slotAll .. => true
  | .arrivalAdd .. => true
  | .slotWrite .. => true
  | .areaRegistration .. => true
  | .areaDone .. => true
  | .areaRelease .. => true
  | .refresh .. => true
  | .pprBurn .. => true
  | .pprBurnComplete .. => true
  | .readPhaseUpdate .. => true
  | .writePathRetrain .. => true
  | .marginReadTiming .. => true
  | .marginReadVoltage .. => true
  | .marginWriteTiming .. => true
  | .marginWriteVoltage .. => true
  | .tgenEnable .. => true
  | .tgenRunEnd .. => true
  | .signal .. => true
  | .wait .. => true
  | .acquire .. => true
  | .releaseLock .. => true
  | .arrive .. => true
  | .clear .. => true
  | .init .. => true
  | .waitSatisfied .. => true
  | .lockGrant .. => true
  | .syncTimeout .. => true
  | .compareAndSwap .. => true
  | .swap .. => true
  | .fetchAdd .. => true
  | .linkTrained .. => true
  | .uncorrectableCodeword .. => true
  | .replayReq .. => true
  | .remoteTimeout .. => true
  | .fabricEnable .. => true
  | .window .. => true
  | .windowWriteOk .. => true
  | .commState .. => true
  | .rs .. => true
  | .ag .. => true
  | .ar .. => true
  | .rsug .. => true
  | .sliceTaken .. => true
  | .streamDeadlineExpiry .. => true
  | .collWatchdogExpiry .. => true
  | .resultChunkAccepted .. => true
  | .bucketEnd .. => true
  | .updateSlice .. => true
  | .globalNormKnown .. => true
  | .normRecord .. => true
  | .tail .. => true
  | .ringHead .. => true
  | .queueConfig .. => true
  | .resume .. => true
  | .flush .. => true
  | .ringConfig .. => true
  | .chTail .. => true
  | .hostDmaDescriptor .. => true
  | .chBase .. => true
  | .interruptSource .. => true
  | .claim .. => true
  | .eoi .. => true
  | .pending .. => true
  | .raise .. => true
  | .holdoffExpiry .. => true
  | .holdoffNs .. => true
  | .gpioEdge .. => true
  | .grant .. => true
  | .resourceWatchdogExpiry .. => true
  | .waitLimit .. => true
  | .fieldFrame .. => true
  | .dictRead .. => true
  | .dictWrite .. => true
  | .readBlock .. => true
  | .writeBlock .. => true
  | .entryWrite .. => true
  | .neighborSolicitation .. => true
  | .echo .. => true
  | .duplicateAddressDetectionEnd .. => true
  | .stagedWrite .. => true
  | .commit .. => true
  | .discard .. => true
  | .modeApplied .. => true
  | .gpioFunction .. => true
  | .signedCommand .. => true
  | .attest .. => true
  | .writeEntry .. => true
  | .scrub .. => true
  | .advanceSvn .. => true
  | .installOwnerKey .. => true
  | .debugUnlock .. => true
  | .signedCommandEnded .. => true
  | .faultAck .. => true
  | .retiredListWrite .. => true
  | .targetedSelfTestStart .. => true
  | .targetedSelfTestEnd .. => true
  | .laneErrorRateCheckEnd .. => true
  | .vddAonRemoval .. => true
  | .linkLeavesUp .. => true
  | .idleCell .. => true
  | .coolantStopComplete .. => true
  | .returnToD0 .. => true
  | .faultNChange .. => true
  | .pmbAlertNRise .. => true
  | .msiXUnmask .. => true
  | .srcCfg .. => true
  | .threshold .. => true
  | .dataPortRegisterWrite .. => true
  | .configurationRequest .. => true
  | .hostCompletion .. => true
  | .tapInstruction .. => true
  | .dictionaryAnswers .. => true

end Sys2Proof
end

