-- ==== Sys2Proof/Tests/Slice0.lean ====
section
/-! SUPPORT. Checks of WellFormed, one step or one function against the worked examples of the spec, and witnesses that the
hypotheses of the statements can be met. Every expected number is the spec's. -/

namespace Sys2Proof.Tests

-- One theorem at a time: kernel evaluations that run side by side would each hold a thread.
set_option Elab.async false

open Sys2Proof.Machine

/-! Well-formed and ill-formed commands: one ill-formed term for each check. -/

def msgOf (op lines : Nat) : Msg := { hdr := BitVec.ofNat 256 op, body := List.replicate lines 0 }

theorem test_wf_fabric_rows :
    (Instr.read .loopback (msgOf 0x01 0)).wf = true ∧ (Instr.read .loopback (msgOf 0x02 0)).wf = false ∧
    (Instr.write .loopback (msgOf 0x03 1)).wf = false ∧ (Instr.redAdd .loopback (msgOf 0x02 1)).wf = false ∧
    (Instr.redSlot .loopback (msgOf 0x03 1)).wf = false ∧ (Instr.fabricSignal .loopback (msgOf 0x01 0)).wf = false ∧
    (Instr.collData .loopback (msgOf 0x07 1)).wf = false ∧ (Instr.collCtrl .loopback (msgOf 0x06 1)).wf = false ∧
    (Instr.notice .loopback (msgOf 0x07 1)).wf = false ∧ (Instr.readData .loopback (msgOf 0x82 1)).wf = false ∧
    (Instr.ack .loopback (msgOf 0x81 0)).wf = false ∧ (Instr.nak .loopback (msgOf 0x82 0)).wf = false := by decide

theorem test_wf_message_length :
    (Instr.write .loopback (msgOf 0x02 128)).wf = true ∧ (Instr.write .loopback (msgOf 0x02 129)).wf = false ∧
    (Instr.transitForward 0 (msgOf 0x02 129)).wf = false ∧ (Instr.contrib .loopback (msgOf 0x06 129)).wf = false := by
  decide +kernel

theorem test_wf_collective_rows :
    (Instr.contrib .loopback (msgOf 0x06 1)).wf = true ∧ (Instr.contrib .loopback (msgOf 0x05 1)).wf = false ∧
    (Instr.partialAcc .loopback (msgOf 0x05 1)).wf = false ∧ (Instr.partialBlock .loopback (msgOf 0x05 1)).wf = false ∧
    (Instr.compressed .loopback (msgOf 0x05 1)).wf = false ∧ (Instr.gather .loopback (msgOf 0x05 1)).wf = false ∧
    (Instr.repairData .loopback (msgOf 0x05 1)).wf = false ∧ (Instr.scales .loopback (msgOf 0x05 1)).wf = false ∧
    (Instr.shadowDigest .loopback (msgOf 0x05 1)).wf = false ∧ (Instr.substitute .loopback (msgOf 0x05 1)).wf = false ∧
    (Instr.stopped .loopback (msgOf 0x05 1)).wf = false ∧ (Instr.done .loopback (msgOf 0x05 1)).wf = false ∧
    (Instr.abort .loopback (msgOf 0x05 1)).wf = false ∧ (Instr.norm .loopback (msgOf 0x05 1)).wf = false ∧
    (Instr.repairReq .loopback (msgOf 0x05 1)).wf = false ∧ (Instr.barrierArrive .loopback (msgOf 0x05 1)).wf = false ∧
    (Instr.barrierRelease .loopback (msgOf 0x05 1)).wf = false := by decide

def badIdentity : IdentityResult :=
  { ok := true, publicKey := [], cert := [], sieveSeed := 0, nonce := 0, challenge := 0 }

def rail0 : RailReading := { rail := 0, mv := 0, ma := 0, temp := 0 }
def testPasses : ArrayTest := { upsets := [], badSpareRows := [], badSpareCols := [], stageOk := true }
def row0 : HbmRow := { stack := 0, pc := 0, bank := 0, row := 0 }

theorem test_wf_lengths :
    (Instr.dataCell 0 0 [0]).wf = false ∧ (Instr.marginRunDone 0 { read := [], write := [] }).wf = false ∧
    (Instr.attestationReportReady [] 0).wf = false ∧ (Instr.identityDerived badIdentity).wf = false ∧
    (Instr.dataPortRead 0).wf = false ∧ (Instr.dataPortRead 1025).wf = false ∧ (Instr.dataPortWrite [0] 0 0).wf = false ∧
    (Instr.bar4Access (.write 0 [])).wf = false ∧ (Instr.bar4Access (.read 0 4097)).wf = false := by decide

theorem test_wf_buffers :
    (Instr.mailboxDoorbell .a (List.replicate 0x3001 0) 0).wf = false ∧ (Instr.imageSaved 0 (List.replicate 0x8001 0)).wf = false ∧
    (Instr.mailboxDoorbell .a (List.replicate 0x3000 0) 0).wf = true := by decide +kernel

theorem test_wf_no_repeats :
    (Instr.railTelemetryPoll [rail0, rail0]).wf = false ∧
    (Instr.arraySelfTestComplete [(0, testPasses), (0, testPasses)] []).wf = false ∧
    (Instr.hbmTrainingComplete [3, 3]).wf = false ∧ (Instr.hbmMarchComplete [row0, row0]).wf = false ∧
    (Instr.hbmMarchComplete [row0]).wf = true := by decide

/-! Arithmetic (chapters 2, 3, 7, 8, 14). -/

/-- An acc48 value by its 48 bits. -/
def acc (w : Nat) : Acc := { bits := BitVec.ofNat 48 w, ovf := false }

/-- R38's example: 1.0625 is a tie in E4M3, 38h under RNE and 39h under SR with r = 1234h. -/
theorem test_narrow_tie :
    (Fmt.e4m3.narrow (acc 0x3FF100000000) 0 .rne false).1 = 0x38 ∧
    (Fmt.e4m3.narrow (acc 0x3FF100000000) 0 (.sr 0x1234) false).1 = 0x39 ∧
    (Fmt.e4m3.narrow (acc 0x3FF100000000) 0 (.sr 32768) false).1 = 0x38 := by decide +kernel

/-- R39's example: 3.4028236e38 overflows BF16 to infinity in IEEE mode and to 7F7Fh in saturate mode. -/
theorem test_narrow_overflow :
    Fmt.bf16.narrow (rnd (34028236 * 10 ^ 31, 0) false false) 0 .rne true = (0x7F80, .ovf) ∧
    Fmt.bf16.narrow (rnd (34028236 * 10 ^ 31, 0) false false) 0 .rne false = (0x7F7F, .ovf) := by decide +kernel

/-- Table 3.3: two reference groups of FP8 E5M2. -/
theorem test_dot_fp8 :
    dot 4 Acc.zero ([0x5C, 0x01, 0xDC, 0x00].map Fmt.e5m2.decode) ([0x5C, 0x01, 0x5C, 0x3C].map Fmt.e5m2.decode)
      = acc 0x3DF000000000 ∧
    dot 4 Acc.zero ([0x5C, 0x01, 0xDC, 0x00, 0x5A, 0x01, 0x01, 0x80].map Fmt.e5m2.decode)
      ([0x5C, 0x01, 0x5C, 0x3C, 0x58, 0x01, 0x01, 0x3C].map Fmt.e5m2.decode) = acc 0x40D800000000 := by decide +kernel

/-- R47's example: MXFP4 with scales 81h and 7Ch gives 5.25; a NaN scale gives a NaN. -/
theorem test_dot_mxfp4 :
    dot 4 Acc.zero ([7, 3, 0xE, 1, 5, 2, 0, 0xF].map (fun w => (Fmt.e2m1.decode w).scale 0x81))
      ([4, 4, 2, 6, 2, 1, 7, 2].map (fun w => (Fmt.e2m1.decode w).scale 0x7C)) = acc 0x401500000000 ∧
    dot 4 Acc.zero ([7, 3, 0xE, 1, 5, 2, 0, 0xF].map (fun w => (Fmt.e2m1.decode w).scale 0x81))
      ([4, 4, 2, 6, 2, 1, 7, 2].map (fun w => (Fmt.e2m1.decode w).scale 0xFF)) = acc 0x7FF800000000 := by decide +kernel

/-- Table 3.9 and the round keys of R58's example. -/
theorem test_grain :
    grain 0 0 0 0 = 0x7D588FBA51B810B2BC0ACFA3AFDE7E8F ∧
    (List.range 4).map (grainKey 0x0123456789ABCDEF 5) = [0x27E347A8, 0x3D9238D9, 0xDAA66D30, 0x0289B4D3] := by decide +kernel

/-- R157's examples: 43 steps of 3/256 ulp move the weight once, and a tie saturates silt. -/
theorem test_silt :
    siltRule 0x3F80 0x7E (acc 0x3F1800000000) = (0x3F81, 0x81, false, .none) ∧
    siltRule 0x3F81 0x81 (acc 0x3F1800000000) = (0x3F81, 0x84, false, .none) ∧
    siltRule 0x3F80 0 (acc 0x3F7000000000) = (0x3F80, 0x7F, true, .none) ∧
    siltRule 0x3F80 0x7F (acc 0x3F7000000000) = (0x3F81, 0xFF, false, .none) := by decide +kernel

/-- R302's example: 300, 400 and 420 on the grids 7Fh, 80h and 81h. -/
theorem test_block_fold :
    (gridFold 0x7F [[accOfNat 300, accOfNat 400, accOfNat 420]]).2 = some 1 ∧
    (gridFold 0x80 [[accOfNat 300, accOfNat 400, accOfNat 420]]).2 = some 1 ∧
    (gridFold 0x81 [[accOfNat 300, accOfNat 400, accOfNat 420]]).2 = none := by decide +kernel

/-! Layouts and frames (chapters 4, 10, 11, 16, 17). -/

/-- R209's example address. -/
theorem test_hbm_address : hbmOf 0x00123456780 = { stack := 3, pc := 4, bank := 16, row := 58 } := by decide +kernel

/-- The repair records of R88's example. -/
theorem test_repair_records :
    repairWord true false 70 300 = 0xC4696000 ∧ repairWord true true 300 75 = 0xF2C25800 := by decide

/-- Table 10.5's example record: two windows of 256 MiB and an image of 512 MiB and 320 KiB. -/
theorem test_context_record :
    let r := 0x0008080020000000 * 2 ^ 192 + 0x00080800E0000000 * 2 ^ 320
    winBase r 0 = 0x80020000000 ∧ winSize r 0 = 2 ^ 28 ∧ winBase r 2 = 0x800E0000000 ∧ imageSize r = 537198592 := by
  decide +kernel

/-- R351's example: the request is well formed, and the response is the frame given. -/
theorem test_frame :
    frameStatus [1, 1, 1, 2, 0x70, 0, 2, 0, 0, 0, 0, 0, 0, 0, 0, 0, 0, 0, 0, 0] = 0 ∧
    mkFrame 0x81 0x0102 0x7000 2 0 0 1 [0] =
      [1, 0x81, 1, 2, 0x70, 0, 2, 0, 0, 0, 0, 0, 0, 1, 0, 0, 0, 0x8D, 0xEF, 2, 0xD2] := by decide +kernel

/-- R247's example: FFFF_FFFDh is before FFFF_FFFEh, and FFFF_FFFDh + 3 = 0 is after it. -/
theorem test_epochs : atOrAfter 0xFFFFFFFD 0xFFFFFFFE = false ∧ atOrAfter 0 0xFFFFFFFE = true := by decide

/-- The floor of a rational between two neighbours. -/
theorem floor_is {x : Rat} {n : Int} (h1 : (n : Rat) ≤ x) (h2 : x < n + 1) : x.floor = n :=
  Int.floor_eq_iff.mpr ⟨h1, h2⟩

/-- R372's example: 40 W too much, shared under the default slot, and borne by HBM first. -/
theorem test_power_share :
    floorTo 10 ((keeps 0 [1 / 4, 1 / 8, 1 / 4] [1780, 160, 800] 2700).1.getD 0 0 * 2100) = 2060 ∧
    floorTo 10 ((keeps 0 [1 / 4, 1 / 8, 1 / 4] [1780, 160, 800] 2700).1.getD 1 0 * 2000) = 1960 ∧
    floorTo 1 ((keeps 0 [1 / 4, 1 / 8, 1 / 4] [1780, 160, 800] 2700).1.getD 2 0 * 64) = 63 ∧
    floorTo 1 ((keeps 3 [1 / 4, 1 / 8, 1 / 4] [1780, 160, 800] 2700).1.getD 2 0 * 64) = 60 := by
  have h1 : (17178 / 83 : Rat).floor = 206 := floor_is (by norm_num) (by norm_num)
  have h2 : (16320 / 83 : Rat).floor = 196 := floor_is (by norm_num) (by norm_num)
  have h3 : (26176 / 415 : Rat).floor = 63 := floor_is (by norm_num) (by norm_num)
  have h4 : (304 / 5 : Rat).floor = 60 := floor_is (by norm_num) (by norm_num)
  norm_num [keeps, floorTo, List.range, List.range.loop, h1, h2, h3, h4]
  decide

/-- The empty message's SHA3-256 (FIPS 202). -/
theorem test_sha3 : sha3Val [] = 0x4a43f8804b0ad882fa493be44dff80f562d661a05647c15166d71ebff8c6ffa7 := by decide +kernel

/-! States for single steps: a part after reset with some entries, one that is READY, and what stands around them. -/

/-- `s` with entries (index, subindex, value) stored. -/
def withRegs (s : State) (l : List (Nat × Nat × Nat)) : State := l.foldl (fun t x => setReg t x.1 x.2.1 x.2.2) s

/-- `s` with BAR0 registers (offset, value) stored. -/
def withBar (s : State) (l : List (Nat × Nat)) : State := l.foldl (fun t x => bset t x.1 x.2) s

/-- A part in state START_STATE with the START_STEPS given, PERST_N high. -/
def started (state steps : Nat) : State :=
  withRegs { State.reset with
    pins := { Pins.reset with perstN := true }
    aon := { Aon.reset with s0 := true, perstSeen := true, dictUp := true, time := 1000000 } }
    [(0x2001, 1, state), (0x2001, 2, steps)]

/-- A part that is READY with its PCIe link up. -/
def running : State :=
  let s := started 3 0xFFF
  { s with aon := { s.aon with pcieUp := true } }

/-- The next state of an outcome. -/
def after (o : Out) : State :=
  match o with
  | .next t => t
  | _ => State.reset

/-- Local time `n`. -/
def atTime (s : State) (n : Nat) : State := { s with aon := { s.aon with time := n } }

/-! Start-up, resets and the clock (chapter 19). -/

def goodImage (k : Nat) : ImageCheck :=
  { header := BitVec.ofNat 512 (0x4D494C4E + 2 ^ 32 + k * 2 ^ 40 + 3 * 2 ^ 64), keyOk := true, sigOk := true, digestOk := true }
def goodSlot : SlotCheck := { sec := goodImage 1, gwevi := goodImage 2, base := goodImage 3 }
def badSlot : SlotCheck := { goodSlot with gwevi := { goodImage 2 with sigOk := false } }

theorem witness_FrontCommand :
    clockOn running = true ∧ running.pending = [] ∧
    clockOn { running with pins := { running.pins with refclk := false } } = false := by decide +kernel

theorem witness_Invariants :
    MemWf running ∧ ∃ t, step running = .next t := by
  exact ⟨by decide +kernel, _, rfl⟩

theorem witness_LevelsOrdered : LevelsOrdered { running with irq := { Irq.reset with levels := [(2, [15, 7, 1])] } } := by
  intro p
  by_cases h : p = 2
  · subst h; decide +kernel
  · have e : levelStack { running with irq := { Irq.reset with levels := [(2, [15, 7, 1])] } } p = [] := by
      simp [levelStack, SMap.get]; omega
    rw [e]; simp

theorem witness_StartUp :
    (let s := { State.reset with aon := { Aon.reset with up := false } }
     s.aon.up = false) ∧
    (State.reset.aon.up = true ∧ State.reset.aon.s0 = false ∧ State.reset.pins.refclk = true ∧ State.reset.pins.coolantOk = true) ∧
    (let s := started 1 0
     clockOn s = true ∧ startState s = 1 ∧ stepDone s 0 = false ∧ SMap.get s.power.ageBurn 3 0 = 0) ∧
    (let s := started 1 1
     bootDue s 0 1 = true ∧ badKind s goodSlot = none ∧ badKind s badSlot = some 2 ∧
     badKind { s with fuses := { s.fuses with svn := [(0, 3)] } } goodSlot = none ∧
     badKind { s with fuses := { s.fuses with svn := [(0, 4)] } } goodSlot = some 1) ∧
    bootDue (started 1 3) 1 2 = true ∧
    (let s := started 2 7
     clockOn s = true ∧ stepDone s 2 = true ∧ s.sec.identityDone = false ∧ trackDue s 2 3 = true ∧ trackDue s 2 6 = true ∧
     trackDue s 2 9 = true ∧ portsStill s = true ∧
     portsStill (withRegs s [(0x7000, 2, 1), (0x7020, 1, 1), (0x7020, 2, 1)]) = false) ∧
    (trackDue (started 2 0xF) 3 4 = true ∧ inLoam (lineAddr 0x8017FFFFFFF) = true) ∧
    (let s := started 2 0x1F
     trackDue s 4 5 = true ∧ s.pins.coolantOk = true ∧ s.pins.paceHoldN = true) ∧
    (let s := started 2 0x47
     trackDue s 6 7 = true ∧ s.pins.coolantOk = true ∧ reg s 0x2001 3 = 0 ∧ bringUp s = false ∧
     bringUp (withRegs s [(0x2001, 5, 2)]) = true) ∧
    (let s := started 2 0xC7
     trackDue s 7 8 = true ∧ s.pins.coolantOk = true ∧ bringUp s = false) ∧
    (let s := started 2 0x7FF
     clockOn s = true ∧ startState s = 2 ∧ tracksEnded s = true ∧ reg s 0x2001 3 ≠ 2 ∧ bringUp s = false ∧
     bringUp (withRegs s [(0x2001, 5, 2)]) = true ∧ tracksEnded (withRegs (started 2 0x63F) [(0x2001, 3, 2)]) = true) ∧
    startState running ≠ 1 ∧ startState running ≠ 2 := by decide +kernel

theorem witness_Resets :
    (running.pins.perstN = true ∧ running.aon.up = true ∧ running.aon.perstSeen = true ∧ running.aon.s0 = true ∧
      running.aon.waitPerst = false ∧ clockOn running = true ∧ running.aon.pcieUp = true ∧ running.pins.refclk = true) ∧
    (let s := { started 1 0 with aon := { Aon.reset with s0 := true, waitPerst := true } }
     s.aon.up = true ∧ s.aon.s0 = true ∧ s.aon.waitPerst = true) ∧
    (let s := started 1 1
     clockOn s = true ∧ s.aon.s0 = true ∧ s.pins.perstN = true ∧ s.aon.pcieUp = false) ∧
    (let s := { running with pins := { running.pins with refclk := false } }
     s.aon.up = true ∧ s.pins.refclk = false) ∧
    (State.reset.aon.s0 = false ∧ State.reset.pins.perstN = false) ∧
    ({ State.reset with aon := { Aon.reset with up := false } } : State).aon.up = false := by decide +kernel

/-- R411: a warm reset clears loam and keeps HBM and the total of vector steps. -/
theorem test_warm_reset :
    let t := after (step { withRegs running [(0x2300, 5, 77), (0x4010, 1, 5)] with
      pending := [.warmReset], mem := [(64, 1), (loamBase, 2)] })
    memByte t 64 = 1 ∧ memByte t loamBase = 0 ∧ reg t 0x2300 5 = 77 ∧ reg t 0x4010 1 = 0 := by decide +kernel

/-! Power and temperature (chapter 17). -/

theorem writeOk_iff (s : State) (p : Path) (i sub len v pre : Nat) : WriteOk s p i sub len v pre ↔
    dictLive s = true ∧ checkAccess s p i sub true false 0 len = 0 ∧ pre = 0 ∧ rangeOk i sub v = true :=
  ⟨fun h => ⟨h.live, h.passes, h.free, h.range⟩, fun h => ⟨h.1, h.2.1, h.2.2.1, h.2.2.2⟩⟩

/-- An array unit with the ramp and skew fields given. -/
def ramping (lastWave : Nat) (skew start : Option Nat) (step : Nat) : ArrayUnit :=
  { ArrayUnit.idle with lastWave := lastWave, skewUntil := skew, rampStart := start, rampStep := step }

/-- COOLANT_OK low since `t`. -/
def coolantLow (t : Nat) (s : State) : State :=
  { s with pins := { s.pins with coolantOk := false }, power := { s.power with lowSince := some t, highSince := none } }

/-- The stop in force, with COOLANT_OK high again for 10 us and every temperature below its limit. -/
def mayGoOn (phase : Nat) : State :=
  { withRegs running [(0x3040, 1, 1)] with aon := { running.aon with time := 1000000000 }, power := { Power.reset with stopPhase := phase, stopAt := 500, highSince := some 0 } }

theorem witness_StopsAndRamps :
    (running.aon.up = true ∧ running.pins.paceHoldN = true) ∧
    (let s := { setArray running 0 (ramping 999500 none none 0) with pins := { running.pins with paceHoldN := false } }
     s.aon.up = true ∧ s.pins.paceHoldN = false ∧ (arrayOf s 0).lastWave + reg s 0x3020 3 = now s ∧
     now (atTime s 999999) < (arrayOf s 0).lastWave + reg s 0x3020 3 ∧ skewNow s = 0 ∧ reg s 0x3020 1 ≠ 0) ∧
    (let s := setArray running 0 (ramping 0 (some 1000000) none 0)
     (arrayOf s 0).skewUntil = some 1000000 ∧ 1000000 ≤ now s ∧ now (atTime s 999999) < 1000000) ∧
    (let s := setArray running 0 (ramping 0 none (some 999000) 14)
     let due := fun (s : State) (k : Nat) => decide (999000 * reg s 0x3020 2 + (k + 1) * reg s 0x3020 1 ≤ now s * reg s 0x3020 2)
     (arrayOf s 0).rampStart = some 999000 ∧ due s 14 = true ∧ 14 + 1 < reg s 0x3020 2 ∧ due s 15 = true ∧
     reg s 0x3020 2 ≤ 15 + 1 ∧ due (atTime s 999900) 14 = false) ∧
    (let s := coolantLow 999000 running
     running.pins.coolantOk = true ∧ s.pins.coolantOk = false ∧ sequenceOver s = true ∧ lowFor1us s = true ∧ stopped s = false ∧
     lowFor1us (coolantLow 999001 running) = false) ∧
    ((mayGoOn 1).power.stopPhase = 1 ∧ mayResume (mayGoOn 1) = false ∧ checkAccess (mayGoOn 1) (.cc 0) 0x3040 2 true false 0 1 = 0) ∧
    (let s := mayGoOn 2
     mayResume s = true ∧ dictLive s = true ∧ checkAccess s (.cc 3) 0x3040 2 true false 0 1 = 0 ∧ preCoolantResume 1 s = 0 ∧
     rangeOk 0x3040 2 1 = true) ∧
    (let s := mayGoOn 3
     s.power.stopPhase = 3 ∧ s.fab.kept = [] ∧ lowFor1us s = false) ∧
    (let s := withRegs running [(0x3050, 1, 99), (0x3050, 2, 98)]
     clockOn s = true ∧ i32 (reg s 0x3050 2) < (99 : BitVec 32).toInt ∧ (98 : BitVec 32).toInt ≤ i32 (reg s 0x3050 2) ∧
     (104 : BitVec 32).toInt < 105 ∧ (105 : BitVec 32).toInt = 105 ∧ s.power.tjHotSince = none ∧ now s % 100000 = 0 ∧
     s.power.lastGrid ≠ now s + 1 ∧ now (atTime s 1000001) % 100000 ≠ 0) ∧
    (let s := { running with power := { Power.reset with tjHotSince := some 990000 } }
     s.power.tjHotSince = some 990000 ∧ clockOn s = true ∧ 990000 + 10000 ≤ now s ∧ sequenceOver s = true ∧ stopped s = false) := by
  decide +kernel

/-- R379: at 100 degrees the factor falls by 1/64 at a grid point, and not below 16/64; at 98 it rises. -/
theorem test_thermal_factor :
    (match exec .thermalGridPoint (withRegs running [(0x3050, 1, 100), (0x3050, 3, 17)]) with
      | .next t => reg t 0x3050 3
      | _ => 0) = 16 ∧
    (match exec .thermalGridPoint (withRegs running [(0x3050, 1, 98), (0x3050, 3, 17)]) with
      | .next t => reg t 0x3050 3
      | _ => 0) = 18 := by decide +kernel

/-- Margins of unit 0: `c` canary events, `w` clean windows with `k` checks. -/
def margined (c w k : Nat) (off on : Bool) : State :=
  setMargin running 0 { canary := c, cleanWindows := w, cleanChecks := k, backedOff := off, active := on }

theorem witness_Rails :
    (clockOn running = true ∧ ({ running.pins with pmbAlertN := true } : Pins).pmbAlertN = true) ∧
    (let s := withRegs running [(0x3060, 1, 0x40), (0x3061, 1, 0x41)]
     clockOn s = true ∧ startState s = 3 ∧ reg s 0x3300 1 ≤ 1 ∧ s.power.railStopped.testBit 0 = false ∧ pmbusAddr s 0 ≠ 0 ∧
     pmbusAddr s 1 ≠ 0 ∧ reg s 0x3060 5 = 700 ∧ reg (withRegs s [(0x3070, 1, 1), (0x3060, 5, 705)]) 0x3070 1 = 1) ∧
    (let s := { running with fuses := { running.fuses with ceiling := [(1, 2100)] } }
     (1995 : Nat) < ceilingOf s 1 ∧ 2000 ≤ ceilingFused s 1 ∧ 2000 ≤ ceilingFused s 0 ∧ (1999 : Nat) < ceilingOf s 0) ∧
    (let s := { running with power := { Power.reset with ageBurn := [(2, 30)] } }
     s.aon.up = true ∧ SMap.get s.power.ageBurn 2 0 ≠ 0) ∧
    (let s := margined 15 63 16 false true
     coreRuns s = true ∧ (marginOf s 0).canary + 1 ≤ reg s 0x3018 1 ∧
     reg s 0x3018 1 < (marginOf (margined 16 0 0 false false) 0).canary + 1 ∧ clockOn s = true ∧
     reg s 0x3018 2 ≤ (marginOf s 0).cleanWindows + 1 ∧ reg s 0x3018 3 ≤ (marginOf s 0).cleanChecks ∧
     SMap.get s.fuses.marginFloor 0 0 < marginStep (withRegs s [(0x3010, 1, 1)]) 0 ∧
     (marginOf (margined 0 62 16 false true) 0).cleanWindows + 1 < reg s 0x3018 2) := by
  decide +kernel

theorem witness_Shares :
    (clockOn running = true ∧ reg running 0x3050 3 ≤ 64 ∧ (1 : BitVec 64) ≠ 0) ∧
    (let s := atTime running 64000
     s.power.wrapAt + 64000 ≤ now s ∧ reg (withRegs s [(0x3082, 3, 1)]) 0x3082 3 = 1 ∧ reg s 0x3082 3 ≠ 1) ∧
    (dictLive running = true ∧ checkAccess running (.cc 0) 0x3082 1 true false 0 64 = 0 ∧ rangeOk 0x3082 1 (2 ^ 512 - 1) = true) ∧
    (checkAccess running (.cc 0) 0x3300 2 true false 0 1 = 0 ∧ rangeOk 0x3300 2 0 = true ∧ rangeOk 0x3300 2 2 = true ∧
      rangeOk 0x3300 2 3 = true ∧ prePowerState 0 running = 0 ∧ prePowerState 2 running = 0 ∧ prePowerState 3 running = 0 ∧
      reg running 0x3300 1 = 0 ∧ hostReaches running = true) ∧
    (let s := withRegs running [(0x3300, 1, 2)]
     prePowerState 0 s = 0 ∧ checkAccess s (.cc 0) 0x3300 2 true false 0 1 = 0 ∧ reg s 0x3300 1 = 2 ∧ line s 5 = false) ∧
    (let s := { running with power := { Power.reset with request := 2 } }
     clockOn s = true ∧ quiet s = true ∧ s.power.request = 2 ∧ dictLive s = true ∧
     checkAccess s (.cc 0) 0x3300 2 true false 0 1 = 0) ∧
    (let s := { running with power := { Power.reset with request := 3 } }
     quiet s = true ∧ s.power.request = 3 ∧ scrubbing s = false) ∧
    (∀ st ∈ [2, 3], let s := withRegs running [(0x3300, 1, st)]
     prePowerState 2 s = 0 ∧ checkAccess s (.cc 0) 0x3300 2 true false 0 1 = 0 ∧ rangeOk 0x3300 2 2 = true ∧ dictLive s = true) ∧
    (let s := { withRegs running [(0x3300, 1, 3)] with power := { Power.reset with leaving := true } }
     reg s 0x3300 1 = 3 ∧ s.power.leaving = true) ∧
    quiet { running with ready := [{ ring := 0, word := 0, tag := none }] } = false := by decide +kernel

/-! Contexts with queues, and descriptors at their heads. -/

/-- A value with fields (word Qn, lowest bit, value). -/
def word (l : List (Nat × Nat × Nat)) : Nat := l.foldl (fun v x => v + x.2.2 * 2 ^ (64 * x.1 + x.2.1)) 0

/-- The bytes of `v` as memory lists them from address `a`. -/
def cells (a n v : Nat) : List Host.Cell :=
  ((List.range n).zip (leBytes n v)).filterMap (fun e => if e.2 = 0 then none else some (a + e.1, e.2))

/-- The record of a context with 2 MiB of loam from the start of loam, 64 MiB of HBM from address 0, 64 sync objects and every
queue. -/
def ctxWord : Nat := word [(0, 0, 0x0123456789ABCDEF), (1, 44, 1), (2, 0, 0x2000000), (3, 0, loamBase), (3, 44, 1), (11, 12, 64), (12, 0, 2 ^ 64 - 1)]

/-- Context 0 RESIDENT with the queue `q` of a kind (unit 0, partition 0) that holds one descriptor at slot 0. -/
def withDesc (q kind : Nat) (d : Nat) : State :=
  { withBar (withRegs running [(0x4100, 1, ctxWord), (0x4100, 2, 3), (0x2140, 1, word [(0, 0, loamBase + 0x8000), (1, 0, 16)]),
      (0x2100 + q, 1, word [(0, 0, loamBase), (1, 0, 16), (1, 16, kind), (1, 25, 512)]), (0x2100 + q, 2, 1)]) [(qTailOff q, 1)] with
    mem := cells loamBase 128 d }

theorem taken_iff (s : State) (q tag c : Nat) (d : BitVec 1024) : Taken s q tag c d ↔
    canTake s q tag = true ∧ queueCtx s q = some c ∧ readHead s c q = .desc d :=
  ⟨fun h => ⟨h.turn, h.ctx, h.slot⟩, fun h => ⟨h.1, h.2.1, h.2.2⟩⟩

/-! Matrix operations (chapters 4 and 5). -/

/-- MATMUL of 2 x 2 by K = 4 in FP16, A and B stored along K, D in FP32. -/
def matDesc : Nat := word [(0, 0, 1), (0, 8, 1), (0, 24, 7), (3, 0, 2), (3, 20, 2), (3, 40, 4), (4, 0, loamBase + 0x1000), (4, 44, 1),
  (5, 44, 1), (6, 0, loamBase + 0x2000), (6, 44, 1), (7, 44, 1), (8, 0, loamBase + 0x3000), (9, 44, 1)]

/-- The same with its operands in memory: A[i,k] = 1.0, B[k,j] = 1.5. -/
def matState : State :=
  let s := withDesc 0 0 matDesc
  { s with mem := s.mem ++ (cells (loamBase + 0x1000) 8 0x3C003C003C003C00 ++ (cells (loamBase + 0x1040) 8 0x3C003C003C003C00
      ++ (cells (loamBase + 0x2000) 8 0x3E003E003E003E00 ++ cells (loamBase + 0x2040) 8 0x3E003E003E003E00))) }

/-- The operation in flight with waves begun. -/
def matBegun : State :=
  let s := { matState with ops := [newOp matState 9 0 0 .matrix (BitVec.ofNat 1024 matDesc)] }
  let f : Flight := { tag := 9, tile := 0, fed := 0, rows := [0, 1], cols := [0, 1], acc := [], slices := [], cross := 2 }
  setPart s (pkey 0 0) { Partition.idle with ops := [9], inRun := true, begun := true, flights := [f], cross := 2 }

/-- All of the tile's groups met in every cell but the last, the drain clear, and the next operation's tile behind it. -/
def matSwaps : State :=
  let o := newOp matState 9 0 0 .matrix (BitVec.ofNat 1024 matDesc)
  let f : Flight := { tag := 9, tile := 0, fed := 2, rows := [0, 1], cols := [0, 1], acc := [], slices := [], cross := 1 }
  let g : Flight := { tag := 10, tile := 0, fed := 0, rows := [0, 1], cols := [0, 1], acc := [], slices := [], cross := 2 }
  setPart { matState with ops := [o, { o with tag := 10 }] } (pkey 0 0)
    { Partition.idle with ops := [9, 10], inRun := true, begun := true, flights := [f, g], cross := 2 }

def rowOut : OutRow := { tag := 9, tile := 0, row := 1, last := false, vals := [(0, Acc.zero)] }

theorem witness_Matrix :
    (Taken matState 0 9 0 (BitVec.ofNat 1024 matDesc) ∧ qKind (qCfg matState 0) = 0 ∧ dOpcode matDesc ≠ 0 ∧
      isSyncOp (dOpcode matDesc) = false ∧ matCheck (takeHead matState 0) 0 0 matDesc = stOk) ∧
    (let d := word [(0, 8, 2)]
     let s := withDesc 0 0 d
     Taken s 0 511 0 (BitVec.ofNat 1024 d) ∧ dOpcode d = 0 ∧ matCheck (takeHead s 0) 0 0 d ≠ stOk) := by
  simp only [taken_iff]
  decide +kernel

theorem witness_Waves :
    (let s := matBegun
     waveReady s 0 0 = true ∧ (frontOp s (pkey 0 0)).map Op.tag = some 9 ∧ (partOf s (pkey 0 0)).startup = 0 ∧
     poisonedTiles s (partOf s (pkey 0 0)) = [] ∧ (partOf s (pkey 0 0)).flights.length = 1 ∧
     ∀ f, (partOf s (pkey 0 0)).flights.getLast? = some f → (findOp s f.tag).map (fun o => decide (f.fed + 1 < feedWaves o f)) = some true) ∧
    (let s := matSwaps
     let p := partOf s (pkey 0 0)
     waveReady s 0 0 = true ∧ p.startup = 0 ∧ poisonedTiles s p = [] ∧ p.begun = true ∧ 1 < p.flights.length ∧
     (drainStep p).drain = [] ∧
     (p.flights.getLast?.bind (fun f => (findOp s f.tag).map (fun o => decide (f.fed + 1 < feedWaves o f)))) = some true ∧
     (p.flights.head?.bind (fun f => (findOp s f.tag).map (fun o => waveFlight s o (isFed p 0) f))).map
       (fun g => (g.slices.isEmpty, g.cross)) = some (true, 0)) ∧
    (let s := setPart matBegun (pkey 0 0) { Partition.idle with ops := [9], begun := true, stage := [rowOut] }
     coreRuns s = true ∧ (partOf s (pkey 0 0)).stage = [rowOut] ∧ (findOp s 9).map (fun o => mDest o.desc.toNat) = some 0 ∧
     findOp { s with ops := [] } 9 = none) := by decide +kernel

/-- R62, R63: the first wave of FP16 folds two products in cell (0, 0), 1.0 * 1.5 + 1.0 * 1.5 = 3, and reaches no other cell;
the second folds the next two there and the first two in its neighbours. -/
theorem test_wave :
    let at_ := fun (s : State) (i j : Nat) => ((partOf s (pkey 0 0)).flights.map (fun f => SMap.get f.acc (ckey i j) Acc.zero))
    let t := after (exec (.wave 0 0) matBegun)
    at_ t 0 0 = [accOfNat 3] ∧ at_ t 0 1 = [Acc.zero] ∧ at_ t 1 1 = [Acc.zero] := by decide +kernel

/-- An operation that has ended with `st`, its record not yet handed on. -/
def endedOp (st : Nat) : Op :=
  { newOp matState 9 0 0 .matrix (BitVec.ofNat 1024 matDesc) with ended := true, status := st, deadline := some 1000000 }

def readyRec (host : Bool) : State :=
  let s := { matState with ready := [{ ring := 0, word := 5, tag := some 9 }], ops := [{ endedOp 0 with recorded := true }] }
  if host then withRegs s [(0x2140, 1, word [(0, 0, 2 ^ 63), (1, 0, 16)])] else s

theorem witness_Records :
    (let s := { matState with ops := [endedOp 0] }
     clockOn s = true ∧ findOp s 9 = some (endedOp 0) ∧ recordReady (endedOp 0) = true ∧ metBy { endedOp 0 with doneAt := some 1000000 } 1000000 = true ∧
     dAbort (endedOp 0).desc.toNat = false ∧ metBy (endedOp 0) 1000000 = false) ∧
    ({ endedOp 0 with dlHandled := true } : Op).dlHandled = true ∧
    (let s := readyRec false
     (firstReady s 0).map ReadyRec.tag = some (some 9) ∧ rSize (rCfg s 0) ≠ 0 ∧ ringFull s 0 = false ∧ qHost (rCfg s 0) = false ∧
     retiredIn s (qBase (rCfg s 0)) 32 = []) ∧
    (let s := withBar (readyRec true) [(rTailOff 0, 15), (rHeadOff 0, 3)]
     qHost (rCfg s 0) = true ∧ s.aon.pcieUp = true ∧ ringFull s 0 = false ∧ bget s (rTailOff 0) + 1 = rSize (rCfg s 0)) ∧
    (let v := word [(0, 0, 0), (1, 0, 16)]
     WriteOk running (.cc 0) 0x2140 1 16 v (preRingConfig 0 v running)) ∧
    (barsDead matState = false ∧ (15 : BitVec 64).toNat < rSize (rCfg matState 0) ∧ rSize (rCfg matState 0) ≤ (16 : BitVec 64).toNat) := by
  simp only [writeOk_iff]
  decide +kernel

theorem witness_Deadlines :
    (∀ st ∈ [stTimeout, stAbandoned, stHwFault, stOk],
      findOp { matState with ops := [endedOp st] } 9 = some (endedOp st) ∧ recordReady (endedOp st) = true ∧ qState matState 0 ≠ 0) ∧
    (let o := { endedOp 0 with ended := false }
     let s := { matState with ops := [o] }
     findOp s 9 = some o ∧ o.deadline = some 1000000 ∧ 1000000 ≤ now s ∧ o.dlHandled = false ∧ stopped s = false ∧ clockOn s = true ∧
     o.ended = false ∧ dAbort o.desc.toNat = false) ∧
    ((endedOp 0).ended = true ∧ (endedOp 0).capsOut = 0) ∧
    WriteOk running (.cc 0) 0x2200 2 1 1 0 ∧ WriteOk running .sec 0x2203 1 1 2 (prePartitionMode 3 running) ∧
    (let s := withRegs running [(0x2201, 2, 1)]
     WriteOk s .sec 0x2201 0x0C 1 1 (preRepairBurn 1 1 s)) ∧
    (let s := setArray running 2 { ArrayUnit.idle with burning := true }
     clockOn s = true ∧ (arrayOf s 2).burning = true) := by
  simp only [writeOk_iff]
  decide +kernel

/-! Vector instructions (chapter 6). -/

/-- A program of one word at the start of loam, its rectangle `rows` x `cols`. -/
def vecProg (k : WorkClass) (rows cols : Nat) : Prog :=
  { cls := k, ctx := 0, tag := some 9, base := loamBase + 0x1000, len := 3, pc := 0, rows := rows, cols := cols, loops := [], saved := none,
    waiting := false, empty := false, part := 0, row0 := 0, col0 := 0, rowOff := 0, colOff := 0, tileW := 0 }

/-- Engine 0 with values in TB0, address register 0 at loamBase + 2000h with a pitch of 64, and the program of class `k` at word `w`. -/
def atWord (k : WorkClass) (w : Nat) (p : Prog) : State :=
  let s := withDesc 0 1 0
  let e := putTb Engine.fresh 0 [(0, 0, accOfNat 3), (0, 1, accOfNat 5), (1, 0, accOfNat 7), (1, 1, accNeg (accOfNat 2))]
  let b : Bank := { sc := [(0, accOfNat 2), (31, accOfNat 2)], ar := [(0, loamBase + 0x2000 + 2 ^ 44), (1, loamBase + 0x3000 + 2 ^ 44), (2, loamBase + 0x4000 + 2 ^ 44), (3, loamBase + 0x5000 + 2 ^ 44)] }
  { setEngine s 0 (setProg { e with bankE := b, bankP := b } k (some p)) with
    mem := cells (loamBase + 0x1000) 8 w
    ops := [newOp s 9 0 0 .vector 0] }

/-- A matrix operation whose results go through an epilogue. -/
def epiFor : Op := newOp matState 9 0 0 .matrix (BitVec.ofNat 1024 (matDesc + 2 ^ 72))

theorem atWord_iff (s : State) (n : Nat) (k : WorkClass) (p : Prog) (w : Nat) : AtWord s n k p w ↔
    mayRun s n k = true ∧ (k = .epilogue ∨ k = .program) ∧ progOf (engineOf s n) k = some p ∧ p.waiting = false ∧ p.pc < p.len ∧
    wordAt s p = w ∧ rangePoisoned s (p.base + 8 * p.pc) 8 = false ∧ p.rows ≤ 1024 ∧ p.cols ≤ 1024 :=
  ⟨fun h => ⟨h.turn, h.cls, h.held, h.runs, h.place, h.word, h.clean, h.rect⟩,
   fun h => ⟨h.1, h.2.1, h.2.2.1, h.2.2.2.1, h.2.2.2.2.1, h.2.2.2.2.2.1, h.2.2.2.2.2.2.1, h.2.2.2.2.2.2.2⟩⟩

/-- The opcode of each group of Table 6.3 at both ends, in an epilogue and in a program, with the largest rectangle. -/
theorem witness_VectorWords :
    (∀ w ∈ [0x00, 0x0F, 0x10, 0x2F, 0x30, 0x3F, 0x40, 0x4F, 0x50, 0x5F, 0x60, 0x6F, 0x70, 0x7F, 0x80, 0x8F, 0x90, 0x9F, 0xF0, 0xFF],
      AtWord (atWord .epilogue w (vecProg .epilogue 1024 1024)) 0 .epilogue (vecProg .epilogue 1024 1024) w ∧
      AtWord (atWord .program w (vecProg .program 2 2)) 0 .program (vecProg .program 2 2) w ∧ iOp w = w) := by
  simp only [atWord_iff]
  decide +kernel

theorem witness_RowWithoutActivePositions :
    let w := 0x40 + 2 ^ 21 + 2 ^ 27
    let p := vecProg .program 2 2
    let s := atWord .program w p
    AtWord s 0 .program p w ∧ 0x40 ≤ iOp w ∧ iOp w ≤ 0x4F ∧ (iImm w).testBit 0 = false ∧
      ownsSlot .program (iSlot w) = true ∧ inRows p 1 = true ∧
      ∀ j, j < p.cols → active (engineOf s 0) (ctxAt s 0 .program p w) 1 j = false := by
  simp only [atWord_iff]
  decide +kernel

theorem witness_Loops :
    let p := { vecProg .program 2 2 with pc := 2, loops := [(1, 2), (0, 1)] }
    let w := 2 ^ 48 * 65535
    AtWord (atWord .program w (vecProg .program 2 2)) 0 .program (vecProg .program 2 2) w ∧ iImm w ≠ 0 ∧ (vecProg .program 2 2).loops = [] ∧
    (vecProg .program 2 2).loops.length < 4 ∧ AtWord (atWord .program 0 p) 0 .program p 0 ∧ p.loops = (1, 2) :: [(0, 1)] ∧
    (findOp (atWord .program 0 p) 9).map Op.ended = some false ∧ p.tag = some 9 := by
  simp only [atWord_iff]
  decide +kernel

theorem witness_MemoryInstructions :
    let p := vecProg .program 2 2
    let w := 0x90
    let s := atWord .program w p
    let c := ctxAt s 0 .program p w
    let a := fld (arReg s c (iAr w)) 43 0
    AtWord s 0 .program p w ∧ tensorInside s c (vecTensor s c 0 (iAxis w)) = true ∧ tensorPoisoned s (vecTensor s c 0 (iAxis w)) = false ∧
    vecInside s c a 16 = true ∧ rangePoisoned s a 16 = false ∧ vecInside s c a 65 = true ∧ rangePoisoned s a 65 = false ∧
    retiredIn s a 16 = [] ∧ tensorInside s c (vecTensor s c 0 0) = true ∧ tensorInside s c (vecTensor s c 2 1) = true := by
  simp only [atWord_iff]
  decide +kernel

/-- An epilogue at its final write, Gwevi's own classes ready, a program at a microcode word, and DUAL and IMM bit 0 set. -/
theorem witness_ConversionForms :
    (let p := { vecProg .epilogue 2 2 with len := 1, tag := some 9 }
     let w := 0x60
     let s := { atWord .epilogue w p with ops := [epiFor] }
     AtWord s 0 .epilogue p w ∧ (ctxAt s 0 .epilogue p w).final = true ∧ (ctxAt s 0 .epilogue p w).op = some epiFor) ∧
    (let p := vecProg .program 2 2
     ∀ w ∈ [0x60 + 2 ^ 38, 0x90 + 2 ^ 38, 0x70 + 2 ^ 48], let s := atWord .program w p
     let c := ctxAt s 0 .program p w
     AtWord s 0 .program p w ∧ c.final = false ∧ tensorInside s c (vecTensor s c 0 0) = true ∧
     tensorInside s c (vecTensor s c 2 1) = true ∧ (iDual w = true ∨ (iImm w).testBit 0 = true)) := by
  simp only [atWord_iff]
  decide +kernel

theorem witness_CompressAndMaskgen :
    (let w := 0x70 + 2 ^ 48 * 16
     (iImm w).testBit 0 = false ∧ (iImm w).testBit 1 = false ∧ 1 ≤ iImm w ∧ iImm w ≤ 16 ∧ iSlot w + 2 * iImm w ≤ 64) ∧
    (let w := 0x80
     let p := vecProg .program 2 2
     let s := atWord .program w p
     let c := ctxAt s 0 .program p w
     AtWord s 0 .program p w ∧ accNat (scReg s c (iSreg w)) = some 2 ∧ accNat (scReg s c 29) = some 0 ∧ accNat (scReg s c 30) = some 0 ∧
     accNat (scReg s c 31) = some 2 ∧ ∀ r j, r < 2 → j < 2 → (0 + r) * 2 + (0 + j) < 2 ^ 43) := by
  simp only [atWord_iff]
  refine ⟨by decide +kernel, by decide +kernel, by decide +kernel, by decide +kernel, by decide +kernel, by decide +kernel, ?_⟩
  intro r j hr hj
  omega

/-- R82: the weight-stationary order gives the dot product of R44, 4 x 1.0 x 1.5, in groups of two. -/
theorem test_stationary :
    (wsTile [] 2 [(0, List.replicate 4 (Fmt.fp16.decode 0x3E00))] 2 [List.replicate 4 (Fmt.fp16.decode 0x3C00)] [[Acc.zero]]).1 =
      [[accOfNat 6]] := by decide +kernel

/-- R115: ADD of TB0 and TB0 leaves 2 * 5 in TB1, and RSUM of TB0 the sum of its row in SL0. -/
theorem test_add_rsum :
    tbAt (engineOf (after (exec (.add 0 .epilogue) (atWord .epilogue (0x10 + 2 ^ 8) (vecProg .epilogue 2 2)))) 0) 1 0 1 = accOfNat 10 ∧
    slotAt (engineOf (after (exec (.rsum 0 .epilogue) (atWord .epilogue 0x40 (vecProg .epilogue 2 2)))) 0) 0 1 = some (accOfNat 5) := by decide +kernel

/-- VPROG of one word at loamBase + 1000h. -/
def vecDesc (op : Nat) : Nat := word [(0, 0, op), (0, 8, 1), (0, 24, 7), (3, 0, loamBase + 0x1000), (3, 44, 1)]

def vecState (op first : Nat) : State :=
  let s := withDesc 0 1 (vecDesc op)
  { s with mem := s.mem ++ cells (loamBase + 0x1000) 8 first }

/-- An epilogue of one word whose tile is complete in staging. -/
def epiOp : Op :=
  { newOp matState 9 0 0 .matrix (BitVec.ofNat 1024 (matDesc + 2 ^ 72)) with
    epi := BitVec.ofNat 512 (loamBase + 0x4000 + 2 ^ 44) }

def epiState : State :=
  setEngine { matState with ops := [epiOp], mem := matState.mem ++ cells (loamBase + 0x4000) 8 0x10 } 0
    { Engine.fresh with staging := [{ part := pkey 0 0, tag := 9, tile := 0, row := 0, last := true, vals := [] }] }

theorem witness_VectorStarts :
    (let s := vecState 1 0x10
     Taken s 0 9 0 (BitVec.ofNat 1024 (vecDesc 1)) ∧ qKind (qCfg s 0) = 1 ∧ dOpcode (vecDesc 1) = 1 ∧
     vecCheck (takeHead s 0) 0 0 (vecDesc 1) = stOk) ∧
    (let s := vecState 0 0x10
     Taken s 0 9 0 (BitVec.ofNat 1024 (vecDesc 0)) ∧ vecCheck (takeHead s 0) 0 0 (vecDesc 0) = stOk) ∧
    (let s := vecState 1 0xF0
     Taken s 0 9 0 (BitVec.ofNat 1024 (vecDesc 1)) ∧ vecCheck (takeHead s 0) 0 0 (vecDesc 1) = stMode) ∧
    (let s := epiState
     stepsRun s = true ∧ engineRetired s 0 = false ∧ engineHeld s 0 = false ∧ (engineOf s 0).epi = none ∧
     stagedRun s 0 0 = some (epiOp, 0) ∧ rangePoisoned s (eProg epiOp.epi.toNat) (8 * eLen epiOp.epi.toNat) = false ∧
     wordsStatus (mStream epiOp.desc.toNat) (programWords s (eProg epiOp.epi.toNat) (eLen epiOp.epi.toNat)) = stOk ∧
     spillBytes epiOp 0 = 0) ∧
    4096 ≤ (engineOf (setEngine running 1 { Engine.fresh with winSteps := 4096 }) 1).winSteps := by
  simp only [taken_iff]
  decide +kernel

theorem witness_PhaseAnnouncement :
    let s := matState
    clockOn s = true ∧ qState s 0 = 1 ∧ qKind (qCfg s 0) = 0 ∧ (0 : Fin 33).val < reg s 0x3080 1 ∧ (0 : Fin 33).val < qAvail s 0 ∧
    queueCtx s 0 = some 0 ∧ qHost (qCfg s 0) = false ∧ slotReadable s 0 0 ((qHead s 0 + 0) % qSize (qCfg s 0)) = true := by
  decide +kernel

/-! The sieve (chapter 9). -/

/-- A complete capture of one element: 1.0 * 1.5 from one FP16 product with K = 1, drained as `v`, slot 0. -/
def capOf (v : Acc) (sent : SMap Nat) (fid done : Bool) : Capture :=
  { array := 1, part := 0, ctx := 0, slot := 0, tag := 9, opId := 7, desc := BitVec.ofNat 1024 matDesc, tile := 0, rows := [0],
    cols := [0], aStrip := [[Fmt.fp16.decode 0x3C00]], bStrip := [[Fmt.fp16.decode 0x3E00]], aWide := none, bWide := none, cIn := [],
    drained := [(ckey 0 0, v)], sent := sent, fidelity := fid, rows_left := 0, size := 64, complete := true, exactDone := done,
    failed := none, firstEngine := 1 }

def sieveState (c : Capture) : State :=
  { matState with caps := [c] }

theorem witness_Sieve :
    (let c := { capOf Acc.zero [] false false with complete := false }
     let s := sieveState c
     coreRuns s = true ∧ s.caps.find? (fun c => c.array == 1 && c.part == 0 && !c.complete && c.rows_left == 0) = some c) ∧
    (let c0 := capOf (accOfNat 1) [] false false
     let sent := sentOf (sieveState c0) c0 (recompute c0 []) []
     let good := capOf (recompute c0 [] |>.headD (0, 0, Acc.zero)).2.2 sent false false
     sieveTurn (sieveState good) 1 = some good ∧ good.exactDone = false ∧ good.failed = none ∧
     capAgrees good (recompute good []) (sentOf (sieveState good) good (recompute good []) []) = true ∧
     capAgrees c0 (recompute c0 []) sent = false ∧ sieveTurn (sieveState c0) 1 = some c0 ∧
     (let f := { good with failed := some (recompute c0 [], sent) }
      sieveTurn (sieveState f) 0 = some f ∧ f.array < 4 ∧ f.firstEngine < 4) ∧
     (let d := { good with fidelity := true, exactDone := true }
      sieveTurn (sieveState d) 1 = some d ∧ d.ctx < 64)) ∧
    mayRun (sieveState (capOf (accOfNat 1) [] false false)) 1 .sieve = true := by decide +kernel

theorem witness_SieveEnable :
    WriteOk running (.cc 0) 0x6120 1 4 3 (preSieveEnable 3 running) ∧ (3 : BitVec 32).toNat.testBit 1 = true ∧
    (let s := withRegs running [(0x2030, 0x2A, 2)]
     1 < reg s 0x2030 0x2A ∧ dictLive s = true ∧ checkAccess s (.cc 0) 0x6120 1 true false 0 4 = 0) ∧
    reg running 0x2030 0x29 = 1 ∧ running.caps.any (fun c => c.array / 2 == 0) = false := by
  simp only [writeOk_iff]
  decide +kernel

/-! DMA and lines (chapters 10 and 12). -/

/-- A copy of two rows of 64 bytes in loam, rows 128 bytes apart, or a fill of its destination. -/
def dmaDesc (op flags : Nat) : Nat := word [(0, 0, op), (0, 8, 1), (1, 6, flags), (2, 0, loamBase + 0x1000), (3, 0, loamBase + 0x2000), (4, 0, 64),
  (4, 32, 2), (5, 0, 128), (5, 32, 128)]

def dmaState (d : Nat) : State :=
  let s := withDesc 0 2 d
  { s with mem := s.mem ++ cells (loamBase + 0x1000) 2 0x2211 }

theorem witness_Dma :
    (let d := dmaDesc 1 0
     let s := dmaState d
     Taken s 0 9 0 (BitVec.ofNat 1024 d) ∧ qKind (qCfg s 0) = 2 ∧ stopped s = false ∧ dmaCheck (takeHead s 0) 0 0 d = stOk ∧
     dOpcode d = 1 ∧ zDstRemote d = false ∧ zSrcRemote d = false ∧
     (dmaRows d).any (fun e => rangePoisoned s e.1 (zRowBytes d) || rangeLost s e.2 (zRowBytes d)) = false ∧ dmaOverlap d = false ∧
     zRowBytes d ≤ zDstStride d) ∧
    (let d := dmaDesc 2 0
     let s := dmaState d
     Taken s 0 9 0 (BitVec.ofNat 1024 d) ∧ dmaCheck (takeHead s 0) 0 0 d = stOk ∧ dOpcode d = 2 ∧ zDstRemote d = false ∧
     (dmaRows d).any (fun e => rangeLost s e.2 (zRowBytes d)) = false) ∧
    (let d := dmaDesc 0 0
     Taken (dmaState d) 0 9 0 (BitVec.ofNat 1024 d) ∧ dmaCheck (takeHead (dmaState d) 0) 0 0 d = stOk ∧ dOpcode d = 0) ∧
    (∀ op ∈ [1, 2], let d := dmaDesc op 0 + 2 ^ 320
     Taken (dmaState d) 0 9 0 (BitVec.ofNat 1024 d) ∧ dmaCheck (takeHead (dmaState d) 0) 0 0 d ≠ stOk ∧ dOpcode d = op) ∧
    (let d := dmaDesc 1 1
     Taken (dmaState d) 0 9 0 (BitVec.ofNat 1024 d) ∧ dmaCheck (takeHead (dmaState d) 0) 0 0 d = stOk ∧ zSrcRemote d = true) := by
  simp only [taken_iff]
  decide +kernel

/-- R191: a copy moves its rows. -/
theorem test_copy :
    let t := after (exec (.copy 0 9) (dmaState (dmaDesc 1 0)))
    memByte t (loamBase + 0x2001) = 0x22 ∧ (findOp t 9).map Op.ended = some true := by decide +kernel

theorem witness_Lines :
    (memHeld running 64 = false ∧ inCtl 64 = false ∧ lineReaches (.cc 2) 64 = true ∧ readsCached (.cc 2) = true ∧ inHbm 64 = true ∧
      SMap.find running.rtCache (rtKey 64) = none ∧ linePoisoned running 64 = false ∧ rangeLost running 64 1 = false ∧
      readsCached (.dma 3) = false ∧ SMap.find running.rrCache 64 = none ∧
      (let s := { running with rtCache := [(rtKey 64, 5)], rrCache := [(2 ^ 44 + 64, 7)] }
       SMap.find s.rtCache (rtKey 64) = some 5 ∧ SMap.find s.rrCache (2 ^ 44 + 64) = some 7) ∧
      rangeLost { running with hbm := { Hbm.reset with unusable := [(0, true)] } } 64 1 = true ∧
      memHeld { running with hbm := { Hbm.reset with selfRefresh := true } } 64 = true ∧
      inCtl 0xF0000100040 = true ∧ inSyncWin 0xF0000100040 = true ∧ memHeld running 0xF0000100040 = false ∧
      inCtl 0xF0000140000 = true ∧ inSyncWin 0xF0000140000 = false) ∧
    clockOn running = true ∧ isCore .coll = false ∧ inCtl 0x13EFFFFFFC0 = false ∧ lineReaches .coll 0x13EFFFFFFC0 = true ∧
    isRetired running 0x13EFFFFFFC0 = false ∧
    isRetired { running with rel := { Rel.reset with retired := [(lineAddr loamBase, true)] } } loamBase = true ∧
    lineReaches (.dma 3) loamBase = true ∧ inCtl gweviBase = false ∧ lineReaches .coll gweviBase = false ∧
    lineReaches .host (loamEnd - 1) = true ∧ lineReaches .host loamEnd = false ∧ inCtl loamEnd = false := by decide +kernel

/-! Contexts (chapter 10). -/

/-- Context 0 in state `st` with the record above. -/
def ctxIn (st : Nat) : State := withRegs running [(0x4100, 1, ctxWord), (0x4100, 2, st)]

/-- The same under a command. -/
def ctxUnder (st : Nat) (u : CtxRun) (more : List (Nat × Nat × Nat)) : State :=
  { withRegs (ctxIn st) more with ctxs := [(0, u)] }

def runAs (cmd phase : Nat) (fresh : Bool) : CtxRun :=
  { cmd := cmd, fresh := fresh, phase := phase, slot := 0, remote := [], left := 0, bad := none, id := 0, next := none }

theorem witness_ContextCommands :
    WriteOk (ctxIn 1) (.cc 0) 0x4100 1 128 ctxWord (preContextRecord 0 ctxWord (ctxIn 1)) ∧
    (dictLive (ctxIn 2) = true ∧ checkAccess (ctxIn 2) (.cc 0) 0x4100 1 true false 0 128 = 0 ∧ 2 ≤ ctxState (ctxIn 2) 0) ∧
    (∀ op ∈ [1, 2, 3, 4, 5, 6], WriteOk (ctxIn 1) (.cc 0) 0x4010 1 4 (cmdValue 0 op false) 0 ∧
      WriteOk (ctxIn 3) (.cc 0) 0x4010 1 4 (cmdValue 0 op false) 0) ∧
    WriteOk (ctxIn 1) (.cc 0) 0x4010 1 4 (cmdValue 0 1 true) 0 ∧
    (let s := withRegs (ctxIn 1) [(0x4002, 2, 1)]
     WriteOk s (.cc 0) 0x4010 1 4 (cmdValue 0 5 false) 0 ∧ (scrubbing s || startState s == 4 || startState s == 5) = true) ∧
    (let s := ctxIn 1
     (scrubbing s || startState s == 4 || startState s == 5) = false ∧ ctxState s 0 = 1 ∧ SMap.has s.ctxs 0 = false ∧
     loadCheck s 0 true false = 0 ∧ loadCheck s 0 false true = 0 ∧ loadCheck s 0 false false = 6 ∧
     loadCheck (withRegs s [(0x4100, 5, 1)]) 0 false false = 0) ∧
    ctxState (ctxIn 0) 0 = 0 ∧ ctxState (ctxIn 3) 0 = 3 ∧ SMap.has (ctxUnder 2 (runAs 1 1 true) []).ctxs 0 = true ∧
    savesBehind (ctxUnder 2 (runAs 1 1 true) []) 0 2 = false ∧
    (∀ op ∈ [2, 3], savesBehind (ctxUnder 5 (runAs 3 2 false) []) 0 op = true ∧
      WriteOk (ctxUnder 5 (runAs 3 2 false) []) (.cc 0) 0x4010 1 4 (cmdValue 0 op false) 0) := by
  simp only [writeOk_iff]
  decide +kernel

theorem witness_Images :
    (∀ fresh ∈ [true, false], let s := ctxUnder 2 (runAs 1 1 fresh) []
     clockOn s = true ∧ ctxRun s 0 = some (runAs 1 1 fresh) ∧ recordAddressBad (ctxRec s 0) = false ∧ stopped s = false ∧
     rangePoisoned s (cImage ctxWord) (winTotal ctxWord) = false ∧ rangePoisoned s (ctlArea ctxWord) 0x50000 = false ∧
     (List.range (syncCount ctxWord)).any (fun i => objWordBad (memVal s (syncArea ctxWord + 64 * i) 64)) = false ∧
     (List.range (syncCount ctxWord)).any (fun i =>
       objWordBad (memVal { s with mem := [(syncArea ctxWord + 64, 5)] } (syncArea ctxWord + 64 * i) 64)) = true ∧
     rangePoisoned { s with rel := { Rel.reset with poison := [(cImage ctxWord, true)] } } (cImage ctxWord) (winTotal ctxWord) = true ∧
     rangePoisoned { s with rel := { Rel.reset with poison := [(ctlArea ctxWord, true)] } } (ctlArea ctxWord) 0x50000 = true) ∧
    stopped { ctxUnder 2 (runAs 1 1 true) [] with power := { Power.reset with stopPhase := 1 } } = true ∧
    (let r := word [(1, 44, 1), (11, 12, 2)]
     let u := runAs 6 4 false
     let s := ctxUnder 2 u [(0x4100, 1, r)]
     ctxRun s 0 = some u ∧ recordAddressBad (ctxRec s 0) = false ∧ winTotal r / 0x200000 = 0 ∧
     (List.range (syncCount r)).any (fun i => objWordBad (buddyVal u (u.slot * imageSize r + winTotal r + 0x10000 + 64 * i) 64)) = false ∧
     (List.range (syncCount r)).any (fun i =>
       objWordBad (buddyVal { u with remote := [(0x10040, 7)] } (u.slot * imageSize r + winTotal r + 0x10000 + 64 * i) 64)) = true) ∧
    (∀ cmd ∈ [2, 3], let s := ctxUnder (cmd + 2) (runAs cmd 0 false) []
     onlyUpdatesLeft s 0 = true ∧ (rangeLost s (cImage (ctxRec s 0)) (imageSize (ctxRec s 0))) = false ∧ (winList ctxWord).any (fun w => rangePoisoned s w.1 w.2.1) = false ∧
     (winList ctxWord).any (fun w => rangePoisoned { s with rel := { Rel.reset with retired := [(loamBase, true)] } } w.1 w.2.1) = true) ∧
    (runAs 3 5 false).phase = 5 ∧ (runAs 3 5 false).next = none ∧ ({ runAs 3 5 false with next := some 2 } : CtxRun).next = some 2 ∧
    (ctxUnder 5 { runAs 3 5 false with next := some 3 } []).ctxs = [(0, { runAs 3 5 false with next := some 3 })] := by decide +kernel

theorem witness_Scrubs :
    WriteOk running .sec 0x4002 1 1 1 0 ∧ WriteOk running .sec 0x4002 1 1 0 0 ∧ scrubbing running = false ∧
    (let s := withRegs running [(0x4002, 2, 1)]
     clockOn s = true ∧ stopped s = false ∧ scrubbing s = true ∧ startState s = 3) ∧
    scrubPaused running false = false ∧ scrubPaused running true = false := by
  simp only [writeOk_iff]
  decide +kernel

/-! HBM (chapter 11). -/

/-- A slotted area of two FP32 slots of 5,120 bytes at 1 MiB, its target at 0, number 3. -/
def areaReg : Nat := word [(0, 44, 0), (0, 48, 1), (0, 54, 3), (1, 0, 5120 * 200), (2, 0, 1)]

/-- The area registered, with the contributors `m` arrived at line 0. -/
def areaState (m : Nat) (folded : Bool) : State :=
  { running with hbm := { Hbm.reset with
      areas := [(3, { reg := BitVec.ofNat 512 areaReg, ovfl := 0, nan := 0, under := 0, doneReported := false })]
      arrived := SMap.set [] (akey 3 0) m 0
      folded := if folded then [(akey 3 0, true)] else [] } }

theorem witness_Adds :
    (4 < 5 ∧ addReaches .coll 0x13EFFFFFFC0 = true ∧ addReaches .coll loamBase = false ∧ isPoisoned running 64 = false ∧
      memHeld running 64 = false ∧ rangeLost running 64 1 = false ∧
      rangeLost { running with hbm := { Hbm.reset with unusable := [(0, true)] } } 64 1 = true ∧
      memHeld { running with hbm := { Hbm.reset with selfRefresh := true } } 64 = true ∧
      isPoisoned { running with rel := { Rel.reset with poison := [(64, true)] } } 64 = true ∧ areaAt running 64 = none) ∧
    (let s := areaState 1 false
     let a := 5120 * 201
     areaAt s a = some 3 ∧ aFmt areaReg = 0 ∧ (a - aBase areaReg) / aBytes areaReg = 1 ∧ aFmt areaReg ≠ 1 ∧
     setBit 1 1 true = 2 ^ aSlots areaReg - 1 ∧ (SMap.get s.hbm.arrived (akey 3 0) 0).testBit 0 = true ∧
     (SMap.get s.hbm.arrived (akey 3 0) 0).testBit 1 = false ∧ SMap.get s.hbm.folded (akey 3 0) false = false ∧
     SMap.get (areaState 3 true).hbm.folded (akey 3 0) false = true ∧ setBit 0 1 true ≠ 2 ^ aSlots areaReg - 1 ∧
     areaAt s (a + 5119) = some 3 ∧ areaAt s (a + 5120) = none) ∧
    (regRefused running areaReg = false ∧ regRefused (areaState 0 false) areaReg = true) ∧
    (let s := areaState 1 false
     let t := { s with rel := { Rel.reset with poison := [(5120 * 200, true)] } }
     (List.range (aSlots areaReg)).any (fun x => isPoisoned t (aBase areaReg + x * aBytes areaReg)) = true ∧
     (List.range (aSlots areaReg)).any (fun x => isPoisoned s (aBase areaReg + x * aBytes areaReg)) = false ∧
     isRetired s (aTarget areaReg) = false ∧ (areaOf s 3).doneReported = false) ∧
    (let all : SMap Bool := (List.range 80).map (fun j => (akey 3 j, true))
     let s := { areaState 0 false with hbm := { (areaState 0 false).hbm with folded := all } }
     SMap.has s.hbm.areas 3 = true ∧ foldedLines s 3 = 80 * aLength (areaOf s 3).reg.toNat) := by decide +kernel

theorem witness_SlotTables :
    (clockOn running = true ∧ running.hbm.selfRefresh = false ∧ SMap.get running.hbm.slotIdx 7 0 < 64 ∧
      SMap.get running.hbm.freeMode 7 false = false) ∧
    (let s := { running with hbm := { Hbm.reset with freeMode := [(7, true)], turn := [(7, 3)], slotIdx := [(7, 63)] } }
     let r := classesReady s 7 63 [.loamDma true true]
     SMap.get s.hbm.slotIdx 7 0 < 64 ∧ SMap.get s.hbm.freeMode 7 false = true ∧ turnReady r ((3 + 1) % 4) = true ∧
     (∀ x, x < 1 → turnReady r ((3 + x) % 4) = false) ∧
     ∀ k, k < 4 → turnReady (classesReady s 7 63 []) k = false) ∧
    (let s := { running with
       hbm := { Hbm.reset with replayOf := [(3, 8)], replayCount := [(3, 15)] }
       ops := [newOp running 9 0 0 .dma 0] }
     SMap.get s.hbm.replayOf 3 0 = 7 + 1 ∧ SMap.get s.hbm.replayCount 3 0 + 1 = 16 ∧
     (findOp s 9).map (fun o => (o.ended, o.kind, o.status)) = some (false, .dma, stOk)) ∧
    (let s := withRegs { running with frames := { Frames.reset with staged := [(dkey 0x5000 1, 2)] } } [(0x2010, 2, 2), (0x5107, 3, 1)]
     modeState s 0 = 2 ∧ SMap.get s.frames.staged (dkey 0x5000 1) 0 ≠ 0 ∧ s.hbm.wrapped.contains 7 = false ∧ reg s 0x5107 3 = 1 ∧
     reg s 0x5106 3 ≠ 1 ∧ ((List.range 80).filter (· != 7)).length = 79) ∧
    WriteOk running (.cc 0) 0x5107 1 16 slotTableDefault 0 ∧ WriteOk running (.cc 0) 0x5000 0x0B 16 slotTableDefault 0 ∧
    (let s := withRegs running [(0x5020, 5, 1)]
     stackLive s 0 = true ∧ SMap.get s.hbm.lastPhase 0 0 = 0 ∧
     (let u := { s with hbm := { Hbm.reset with lastPhase := [(0, 990001)], lastRetrain := [(0, 1)] } }
      990001 - 1 + 10000 ≤ now u ∧ now (atTime u 999999) < 990001 - 1 + 10000 ∧ 1 - 1 + 1000000 ≤ now u ∧
      now (atTime u 999999) < 1 - 1 + 1000000)) ∧
    WriteOk running .sec 0x5000 0x0A 1 1 (prePprBurn 1 running) := by
  simp only [writeOk_iff]
  decide +kernel

theorem witness_Margins :
    (∀ w ∈ [1, 2, 4, 8], WriteOk running .sec 0x5304 1 4 w (preMargin 4 w running)) ∧ 4 % 4 = 0 ∧
    (let s := withRegs running [(0x2030, 0x2C, 4)]
     dictLive s = true ∧ checkAccess s .sec 0x5304 1 true false 0 4 = 0 ∧ checkerOwner s 1 = 4) ∧
    (let s := withRegs running [(0x5304, 2, 1)]
     clockOn s = true ∧ reg s 0x5304 2 = 1 ∧ SMap.get s.hbm.marginWhat 4 0 < 4) ∧
    (WriteOk running .sec 0x5201 1 1 1 (preTgen 1 1 running) ∧ reg running 0x5201 1 ≠ 1 ∧ WriteOk running .sec 0x5201 1 1 0 0) ∧
    (let s := withRegs running [(0x2030, 0x2C, 3)]
     dictLive s = true ∧ checkAccess s .sec 0x5201 1 true false 0 1 = 0 ∧ (tgenOutside s 1 || checkerOwner s 1 == 3) = true) ∧
    (let s := { withRegs running [(0x5201, 1, 1), (0x5201, 4, 2), (0x5201, 5, 16)] with hbm := { Hbm.reset with tgenRun := [(1, 5, 2, 16)] } }
     WriteOk s .sec 0x5201 1 1 1 (preTgen 1 1 s) ∧ reg s 0x5201 1 = 1 ∧ tgenRunOf s 1 = (5, 2, 16)) := by
  simp only [writeOk_iff]
  decide +kernel

/-! Synchronisation (chapter 12). -/

theorem syncTaken_iff (s : State) (q tag c : Nat) (d : BitVec 1024) (op st : Nat) : SyncTaken s q tag c d op st ↔
    Taken s q tag c d ∧ dOpcode d.toNat = op ∧ syncFieldsBad s q d.toNat = false ∧ (op = 0x11 ∨ op = 0x12 ∨ inFlight s q = []) ∧
    syncStatus s op (yOwner d.toNat) (yObj d.toNat) ((queueAgent s q).getD 127) = st ∧
    (st = stOk → syncLive s (yOwner d.toNat) = true) :=
  ⟨fun h => ⟨h.taken, h.isOp, h.fields, h.first, h.checks, h.live⟩,
   fun h => ⟨h.1, h.2.1, h.2.2.1, h.2.2.2.1, h.2.2.2.2.1, h.2.2.2.2.2⟩⟩

/-- Operation `op` on object 5 of context 0 with ARG and, for INIT, the type. -/
def syncDesc (op arg type : Nat) : Nat := word [(0, 0, op), (0, 8, 1), (1, 32, 5), (1, 50, type), (2, 0, arg), (2, 40, if type = 4 then 2 else 0)]

/-- DMA stream 0's queue holds it, and object 5 is `o`. -/
def syncState (op arg type : Nat) (o : SyncObj) : State :=
  { withDesc 0 2 (syncDesc op arg type) with sync := [(5, o)] }

def objType (t : Nat) : SyncObj := { SyncObj.initial with type := t }

/-- A wait or lock request of the operation 30 on object 5. -/
def request (acquire : Bool) (satisfied : Option Nat) : WaitReq :=
  { tag := 30, engine := none, owner := 0, obj := 5, target := 9, acquire := acquire, agent := 68, ctx := 0, scope := 0,
    deadline := 1000000, satisfied := satisfied }

/-- The operation `op` of queue 0 with ARG and type, on object 5 as `o`, ends its checks with `st`. -/
abbrev Checked (op arg type : Nat) (o : SyncObj) (st : Nat) : Prop :=
  SyncTaken (syncState op arg type o) 0 9 0 (BitVec.ofNat 1024 (syncDesc op arg type)) op st

theorem witness_SyncOperations :
    (∀ x ∈ [(0x10, 65535, 0, objType 1), (0x10, 0, 0, objType 2), (0x10, 0, 0, { objType 2 with set := true }),
        (0x13, 0, 0, { objType 3 with held := true, holder := 68 }), (0x14, 0, 0, { objType 4 with localCount := 3, localArrived := 1 }),
        (0x14, 0, 0, { objType 4 with localCount := 3, localArrived := 2 }), (0x15, 0, 0, { objType 2 with set := true }),
        (0x16, 7, 4, objType 0), (0x16, 7, 3, objType 1), (0x16, 0, 1, { objType 1 with poisoned := true })],
      Checked x.1 x.2.1 x.2.2.1 x.2.2.2 stOk) := by
  simp only [syncTaken_iff, taken_iff]
  decide +kernel

theorem witness_SyncRefusals :
    (∀ x ∈ [(0x13, { objType 3 with held := true, holder := 69 }, stNotHolder), (0x11, { objType 1 with poisoned := true }, stAbandoned),
        (0x12, { objType 3 with held := true, holder := 68 }, stAlreadyHeld)], Checked x.1 0 0 x.2.1 x.2.2) ∧
    (∀ op ∈ [0x10, 0x11, 0x12, 0x13, 0x14, 0x15], Checked op 0 0 (objType 0) stDescriptor) ∧
    SyncTaken { syncState 0x16 0 1 (objType 1) with waits := [request false none] } 0 9 0 (BitVec.ofNat 1024 (syncDesc 0x16 0 1)) 0x16
      stDescriptor ∧
    (let s := { syncState 0x10 1 0 (objType 1) with ops := [newOp running 8 0 0 .dma 0] }
     Taken s 0 9 0 (BitVec.ofNat 1024 (syncDesc 0x10 1 0)) ∧ syncFieldsBad s 0 (syncDesc 0x10 1 0) = false ∧ inFlight s 0 ≠ [] ∧
     dOpcode (syncDesc 0x10 1 0) = 0x10) ∧
    (∀ op ∈ [0x10, 0x11, 0x12, 0x13, 0x14, 0x15, 0x16], let d := syncDesc op 0 0 + 2 ^ (64 * 15)
     let s := { syncState op 0 0 (objType 1) with mem := cells loamBase 128 d }
     Taken s 0 9 0 (BitVec.ofNat 1024 d) ∧ dOpcode d = op ∧ syncFieldsBad s 0 d = true ∧ inFlight s 0 = []) ∧
    firstAcquire { syncState 0x13 0 0 (objType 3) with waits := [request true none] } 0 5 = some (request true none) := by
  simp only [syncTaken_iff, taken_iff]
  decide +kernel

theorem witness_Waits :
    (∀ x ∈ [(0x11, 9, { objType 1 with epoch := 9 }), (0x11, 9, { objType 1 with epoch := 8 }), (0x12, 0, objType 3),
        (0x12, 0, { objType 3 with held := true, holder := 69 })], Checked x.1 x.2.1 0 x.2.2 stOk) ∧
    waitOk { objType 1 with epoch := 9 } 9 = true ∧ waitOk { objType 1 with epoch := 8 } 9 = false ∧
    firstAcquire (syncState 0x12 0 0 (objType 3)) 0 5 = none ∧
    (let s := { running with waits := [request false (some 1000000)] }
     waitOf s 30 = some (request false (some 1000000)) ∧ (request false (some 1000000)).deadline ≤ 1000000) ∧
    (let s := { syncState 0 0 0 (objType 3) with waits := [request true none] }
     clockOn s = true ∧ s.waits.find? (fun x => x.acquire && x.obj == 5 && syncLive s x.owner) = some (request true none) ∧
     (objOf s 5).type = 3 ∧ (objOf s 5).held = false ∧ (s.waits.map (fun x => (x.tag, x.engine))).Nodup) ∧
    (let s := { running with waits := [request false none] }
     waitOf s 30 = some (request false none) ∧ 1000000 ≤ now s ∧ stopped s = false ∧ clockOn s = true) := by
  simp only [syncTaken_iff, taken_iff]
  decide +kernel

theorem witness_VectorSync :
    let w := 2 ^ 48 * 5
    let p := vecProg .program 2 2
    let s := fun (o : SyncObj) => { atWord .program w p with sync := [(5, o)] }
    let c := fun (o : SyncObj) => ctxAt (s o) 0 .program p w
    (∀ e ∈ [1, 2], let o := { objType 1 with epoch := e }
      AtWord (s o) 0 .program p w ∧ iOp w ≤ 15 ∧ accNat (scReg (s o) (c o) (iSreg w)) = some 2 ∧ vecObj (c o) = 5 ∧
      syncStatus (s o) 0x11 p.ctx 5 (vecAgent (c o)) = stOk ∧ syncLive (s o) p.ctx = true ∧
      syncStatus (s o) 0x10 p.ctx 5 (vecAgent (c o)) = stOk) ∧
    waitOk { objType 1 with epoch := 2 } 2 = true ∧ waitOk { objType 1 with epoch := 1 } 2 = false ∧
    syncStatus (s (objType 2)) 0x10 p.ctx 5 (vecAgent (c (objType 2))) = stOk ∧
    (let t := withRegs (s (objType 1)) [(0x4100, 2, 2)]
     syncLive t p.ctx = false ∧ syncStatus t 0x11 p.ctx 5 (vecAgent (c (objType 1))) = stOk) := by
  simp only [atWord_iff]
  decide +kernel

theorem witness_Atomics :
    coresRun running = true ∧ stopped running = false ∧ memHeld running 68 = false ∧
    SMap.get { running with reservations := [(2, lineAddr 68 + 1)] }.reservations 2 0 = lineAddr 68 + 1 ∧
    SMap.get running.reservations 2 0 ≠ lineAddr 68 + 1 ∧
    (∀ a ∈ [64, loamBase, 68, loamEnd, ctlBase, 65], ownAddr running (BitVec.ofNat 60 a) = some a) ∧
    unassigned loamEnd = true ∧ unassigned 68 = false ∧ (inCtl 68 || 68 % 4 != 0 || isPoisoned running 68) = false ∧
    (inCtl 68 || 68 % 8 != 0 || isPoisoned running 68) = true ∧ unassigned ctlBase = false ∧ inCtl ctlBase = true ∧
    (65 : Nat) % 4 ≠ 0 := by decide +kernel

/-- R249: SIGNAL advances a COUNTER by its ARG, modulo 2^32. -/
theorem test_signal :
    (objOf (after (exec (.signal 0 9) (syncState 0x10 3 0 { objType 1 with epoch := 2 ^ 32 - 1 }))) 5).epoch = 2 := by decide +kernel

/-- R243: a store-conditional stores while its line is reserved, and not after a write of another core to the same line. -/
theorem test_reservation :
    let lr := after (exec (.compareAndSwap 1 false 68 .loadReserved 0 false false) running)
    let other := after (exec (.swap 2 false 64 1 false false) lr)
    memVal (after (exec (.compareAndSwap 1 false 68 .storeConditional 5 false false) lr)) 68 4 = 5 ∧
    memVal (after (exec (.compareAndSwap 1 false 68 .storeConditional 5 false false) other)) 68 4 = 0 := by decide +kernel

/-- R243: FETCH_ADD answers the old word and leaves the sum, modulo 2^32. -/
theorem test_fetch_add :
    let s := { running with mem := cells 68 4 0xFFFFFFFF }
    memVal (after (exec (.fetchAdd 1 false 68 3 false false) s)) 68 4 = 2 ∧
    (after (exec (.fetchAdd 1 false 68 3 false false) s)).out = [.atomicOld 1 0xFFFFFFFF] := by decide +kernel

/-! The fabric (chapter 13). -/

/-- FABRIC_ENABLE 1, and one window over every address for every device and every request. -/
def fabOn : State := withRegs running [(0x7000, 2, 1), (0x1100, 1, word [(1, 0, 2 ^ 32 - 1), (1, 48, 65535), (2, 0, 15)])]

/-- Port 3 up with both halves as well. -/
def linked : State := withRegs fabOn [(0x7020 + 3, 1, 2), (0x7020 + 3, 2, 1)]

/-- A message from device 9 with tag 77 to this device. -/
def inMsg (op fmt addr q2 mask : Nat) (body : List Line) : Msg := mkMsg op (16 * fmt) (body.length - 1) 9 77 addr q2 mask body

/-- SIGNAL of object 5, owner 0, increment 2. -/
def sigMsg : Msg := inMsg 5 0 (0xF0000100000 + 64 * 5) (2 ^ 32 * 2) ones64 []

theorem witness_Requests :
    clockOn linked = true ∧ (∀ m ∈ [inMsg 1 0 64 0 ones64 []], viaUp linked (.port 3) m = true ∧ viaUp linked (.port 4) m = false ∧
      viaUp linked .loopback m = false ∧ viaUp { linked with fab := { linked.fab with loop := [m] } } .loopback m = true ∧
      laneHeld linked (.port 3) m = false ∧ m.hops ≠ 63 ∧ fabricOn linked = true) ∧
    (∀ m ∈ [inMsg 1 0 64 0 ones64 [], inMsg 2 0 64 0 1 [7], inMsg 2 0 loamBase 0 ones64 [7, 8], inMsg 3 0 64 0 ones64 [7],
        inMsg 3 1 (gweviBase - 64) 0 ones64 [7]],
      m.dest = devNum linked ∧ refusal linked m = 0) ∧
    (let m := inMsg 1 0 64 0 ones64 [0]
     ({ m with body := [] } : Msg).opcode = 1 ∧ refusal linked { m with body := [] } = 0) ∧
    (let s := { linked with hbm := (areaState 0 false).hbm }
     let m := inMsg 4 0 (5120 * 201) 0 ones64 [7]
     refusal s m = 0 ∧ m.opcode = 4) ∧
    (let s := { withRegs linked [(0x4100, 1, ctxWord), (0x4100, 2, 3)] with sync := [(5, objType 1)] }
     sigMsg.opcode = 5 ∧ refusal s sigMsg = 0 ∧ (sigMsg.offset - 0xF0000100000) / 64 = 5 ∧ sigMsg.q 2 47 32 = 2 ∧
     refusal linked sigMsg = nakSync) ∧
    (∀ x ∈ [(1, [], nakPoisoned), (2, [7], nakFormat), (3, [7], nakFormat), (4, [7], nakAddress), (5, [], nakAddress)],
      let s := { linked with rel := { Rel.reset with poison := [(64, true)] } }
      let m := inMsg x.1 (if x.1 = 2 ∨ x.1 = 3 then 5 else 0) 64 0 ones64 x.2.1
      m.opcode = x.1 ∧ refusal s m = x.2.2) ∧
    refusal (withRegs linked [(0x1100, 1, 0)]) (inMsg 1 0 64 0 ones64 []) = nakWindow ∧
    refusal (withRegs linked [(0x7000, 2, 0)]) (inMsg 1 0 64 0 ones64 []) = nakDisabled ∧
    refusal (withRegs linked [(0x4002, 2, 1)]) (inMsg 1 0 64 0 ones64 []) = nakScrubbing ∧
    refusal { linked with power := { Power.reset with stopPhase := 2 } } (inMsg 1 0 64 0 ones64 []) = nakHalted ∧
    (∀ m ∈ [inMsg 2 0 64 0 1 [7], inMsg 3 0 64 0 ones64 [7]],
      reqLost { linked with hbm := { Hbm.reset with unusable := [(0, true)] } } m = true ∧ reqLost linked m = false ∧
      refusal { linked with hbm := { Hbm.reset with unusable := [(0, true)] } } m = 0) ∧
    (let t := domWrite linked 0x7010 1 (8 * 300) (leBytes 8 (2 ^ 29 + 2 ^ 24 * 3))
     let m := mkMsg 0x82 0 0 0 77 (2 ^ 44 * 300) 0 ones64 []
     m.dest ≠ devNum t ∧ routePort t m = some 3) := by decide +kernel

/-- R264: a WRITE of one line with the low byte of each enabled nibble masked in. -/
theorem test_write_request :
    let t := after (exec (.write (.port 3) (inMsg 2 0 64 0 2 [0xBBAA])) linked)
    memByte t 65 = 0xBB ∧ memByte t 64 = 0 := by decide +kernel

def remoteReq (read : Bool) (p : Purpose) : RemoteReq :=
  { tag := 77, addr := 0, lines := 1, isRead := read, deadline := 1000000, sentAt := some 5, purpose := p }

def awaiting (r : RemoteReq) : State := { linked with fab := { linked.fab with reqs := [r] } }

theorem witness_ResponsesAndTransit :
    (let m := inMsg 0x81 0 0 0 ones64 [7]
     (awaiting (remoteReq true (.dmaRead 1 64 false))).fab.reqs.find? (answers m) = some (remoteReq true (.dmaRead 1 64 false)) ∧
     m.opcode = 0x81 ∧ linked.fab.reqs.find? (answers m) = none ∧ stopped linked = false) ∧
    (∀ op ∈ [0x82, 0x83], let m := inMsg op 0 0 3 ones64 []
     (awaiting (remoteReq false (.portWrite 5))).fab.reqs.find? (answers m) = some (remoteReq false (.portWrite 5)) ∧ m.opcode = op ∧
     m.dest = devNum linked) ∧
    (awaiting (remoteReq false (.portWrite 5))).fab.unsent = [] ∧
    (let m := inMsg 0x83 0 0 3 ones64 []
     (awaiting (remoteReq true (.lineRead (.cc 2) false))).fab.reqs.find? (answers m) = some (remoteReq true (.lineRead (.cc 2) false)) ∧
     m.q 2 7 0 ≠ 0 ∧ laneHeld linked (.port 3) m = false ∧ viaUp linked (.port 3) m = true) ∧
    ({ remoteReq true (.portRead 0) with sentAt := none } : RemoteReq).sentAt = none ∧ (remoteReq true (.portRead 0)).sentAt.isSome = true ∧
    (∀ n ∈ [0, 1, 2, 3, 255], (mkMsg 8 4 0 9 0 0 (2 ^ 8 * n) 0 [0]).q 2 15 8 = n ∧ (mkMsg 8 4 0 9 0 0 (2 ^ 8 * n) 0 [0]).linkLocal = true) ∧
    stopped { linked with power := { Power.reset with stopPhase := 1 } } = true ∧
    (let far := 2 ^ 44 * 300
     let m := fun (op hops : Nat) => mkMsg op (256 * hops) 0 9 77 far 0 ones64 []
     portUp linked (3 : PortId) = true ∧ (m 1 0).dest ≠ devNum linked ∧ (m 1 63).hops = 63 ∧ (m 1 62).hops = 62 ∧
     isRequest (m 5 0).opcode = true ∧ isRequest (m 6 0).opcode = false ∧ routePort linked (m 1 0) = none ∧ (m 8 0).linkLocal = false ∧
     halted { linked with power := { Power.reset with stopPhase := 1 } } = true ∧ reg running 0x7000 2 = 0 ∧
     (let t := domWrite linked 0x7010 1 (8 * 300) (leBytes 8 (2 ^ 29 + 2 ^ 24 * 3))
      routePort t (m 1 0) = some 3)) ∧
    (let s := awaiting (remoteReq true (.portRead 0))
     s.fab.reqs.find? (fun x => x.tag == (77 : BitVec 16).toNat) = some (remoteReq true (.portRead 0)) ∧ 1000000 ≤ now s ∧
     now (atTime s 999999) < 1000000) := by decide +kernel

/-- A cell header: lane, type, SEQ, ACK and FILL. -/
def cellHdr (vl type seq ack fill : Nat) : BitVec 128 :=
  BitVec.ofNat 128 (vl + 4 * type + 16 * seq + 2 ^ 16 * ack + 2 ^ 96 * fill)

theorem witness_Links :
    (let s := withRegs running [(0x7020 + 3, 2, 1)]
     clockOn s = true ∧ portEnabled s (3 : PortId) = true ∧ portUp s (3 : PortId) = false ∧ lanesOf (linkOf s 3) .up = 0xFF ∧
     lanesOf (linkOf s 3) .down = 0 ∧ lanesOf (linkOf s 3) .highHalf ≠ 0xFF ∧ lanesOf (linkOf s 3) .highHalf ≠ 0) ∧
    (portUp linked (3 : PortId) = true ∧ portEnabled linked 3 = true ∧ cType (cellHdr 3 0 0 0 240).toNat = 0 ∧
     cSeq (cellHdr 3 0 0 0 240).toNat = (linkOf linked 3).rxExpect ∧ cSeq (cellHdr 3 0 4095 0 240).toNat ≠ (linkOf linked 3).rxExpect ∧
     cType (cellHdr 0 1 0 0 0).toNat = 1 ∧ cType (cellHdr 0 2 0 7 0).toNat = 2 ∧ cAck (cellHdr 0 2 0 7 0).toNat = 7) ∧
    (let m := inMsg 1 0 64 0 ones64 []
     let s := setLink linked 3 { Link.fresh with tx := [(0, [{ msg := m, req := 0, sent := 0 }])] }
     (sendCell s 3).isSome = true ∧ (linkOf s 3).txNext < 4096 ∧ (sendCell linked 3).isNone = true) ∧
    (let s := setLink linked 3 { Link.fresh with reqSeq := 7, reqCount := 15 }
     portUp s (3 : PortId) = true ∧ (linkOf s 3).reqCount + 1 = 16 ∧ (linkOf s 3).reqSeq = 7) ∧
    (WriteOk running (.cc 0) 0x7000 2 1 1 0 ∧
     (let v := word [(0, 12, 1), (1, 0, 1), (2, 0, 15)]
      WriteOk running .sec 0x11FF 1 32 v (preWindow v running) ∧ windowBad v = false) ∧
     checkAccess running .sec 0x11FF 1 true false 0 32 = 0 ∧ windowBad 1 = true) ∧
    (let s := { running with fab := { Fabric.reset with windowOk := [255] } }
     (255 : Fin 256).val ∈ s.fab.windowOk) := by
  simp only [writeOk_iff]
  decide +kernel

/-! Collectives and update steps (chapters 8 and 14). -/

theorem collAdmitted_iff (s : State) (v : Via) (m : Msg) (seq : Nat) : CollAdmitted s v m seq ↔
    Arrives s v m ∧ commActive s (gComm m) = true ∧
    knownSource s (gComm m) m.source = true ∧ kindListed m.opcode (gKind m) = true ∧ fullSeq s m = some seq :=
  ⟨fun h => ⟨h.comes, h.active, h.known, h.kind, h.seq⟩, fun h => ⟨h.1, h.2.1, h.2.2.1, h.2.2.2.1, h.2.2.2.2⟩⟩

theorem arrives_iff (s : State) (v : Via) (m : Msg) : Arrives s v m ↔
    clockOn s = true ∧ viaUp s v m = true ∧ m.dest = devNum s ∧ laneHeld s v m = false ∧ m.hops ≠ 63 ∧
    (m.opcode = 6 ∨ m.opcode = 7 → v = .loopback ∨ fabricOn s = true) :=
  ⟨fun h => ⟨h.clock, h.port, h.here, h.free, h.hops, h.on⟩, fun h => ⟨h.1, h.2.1, h.2.2.1, h.2.2.2.1, h.2.2.2.2.1, h.2.2.2.2.2⟩⟩

theorem collQuiet_iff (s : State) : CollQuiet s ↔
    s.fab.held = [] ∧ s.fab.subs = [] ∧ s.fab.stops = [] ∧ ∀ b ∈ s.buckets, b.stopTile = none :=
  ⟨fun h => ⟨h.held, h.subs, h.stops, h.tiles⟩, fun h => ⟨h.1, h.2.1, h.2.2.1, h.2.2.2⟩⟩

theorem collFor_of {s : State} {v : Via} {m : Msg} {op kind : Nat} {b : Bucket} (seq : Nat) (h1 : m.opcode = op) (h2 : gKind m = kind)
    (h3 : CollAdmitted s v m seq)
    (h4 : bucketNamed (capNotice (unloop s v m) (gComm m) seq (gCap m)) (gComm m) seq (gBucket m) = some b) (h5 : b.finished = false) :
    CollFor s v m op kind b := ⟨h1, h2, ⟨seq, h3, h4⟩, h5⟩

/-- Two ranks, this device rank 0 and device 9 rank 1, one fold group, rank table at 1000h, owner context 0. -/
def commWord : Nat := word [(0, 0, 1), (0, 32, 1), (1, 0, 0x1000)]

/-- A bucket of 64 FP32 elements in loam, with staging at 0. -/
def collDesc (op : Nat) : Nat :=
  word [(0, 0, op), (0, 8, 1), (1, 22, 1), (2, 0, 64), (4, 0, loamBase + 0x1000), (5, 0, loamBase + 0x2000), (6, 44, 1), (14, 0, 1000)]

/-- Communicator 0 inactive, with its rank table in memory: rank 1 has the backup 12. -/
def commOff : State :=
  let s := withRegs (withDesc 0 3 (collDesc 0x20)) [(0x7100, 1, commWord), (0x7000, 2, 1), (0x7020 + 3, 1, 2), (0x7020 + 3, 2, 1)]
  { s with mem := cells 0x1000 16 ((9 + 2 ^ 16 * 12 + 2 ^ 32) * 2 ^ 64) ++ s.mem }

/-- The same active. -/
def commOn : State :=
  { withRegs commOff [(0x7100, 2, 1), (0x7100, 3, 1)] with ranks := [(0, [⟨0, none⟩, ⟨9, some 12⟩])] }

/-- Its bucket 0 as posted by operation 7. -/
def bucket0 (op : Nat) : Bucket :=
  newBucket commOn (newOp commOn 7 0 0 .coll (BitVec.ofNat 1024 (collDesc op))) 1 [] none

def posted (op : Nat) : State := { commOn with buckets := [bucket0 op] }

/-- A collective message of rank 1 for bucket 0. -/
def collMsgOf (op kind : Nat) : Msg := mkMsg op 0 0 9 0 0 (2 ^ 8 * kind + 2 ^ 16) 1 [0]

theorem witness_CollectivesPosted :
    (∀ op ∈ [0x20, 0x21, 0x22, 0x23], let s := { commOn with mem := cells loamBase 128 (collDesc op) }
     Taken s 0 9 0 (BitVec.ofNat 1024 (collDesc op)) ∧ qKind (qCfg s 0) = 3 ∧ dOpcode (collDesc op) = op ∧
     collCheck (takeHead s 0) 0 (collDesc op) = stOk ∧ CollQuiet s ∧ bucketNamed s 0 1 0 = none ∧ kLoam (collDesc op) = true ∧
     rangePoisoned s (kSrc (collDesc op)) 256 = false ∧
     rangePoisoned { s with rel := { Rel.reset with retired := [(loamBase + 0x1000, true)] } } (kSrc (collDesc op)) 128 = true) ∧
    (myRange commWord 64).2 = 32 ∧ collSeq commOn 0 = 1 ∧
    (let s := { commOn with mem := cells loamBase 128 (collDesc 0x24) }
     Taken s 0 9 0 (BitVec.ofNat 1024 (collDesc 0x24)) ∧ collCheck (takeHead s 0) 0 (collDesc 0x24) ≠ stOk) := by
  simp only [taken_iff, collQuiet_iff]
  decide +kernel

/-- R286's ranges of 100 elements over three ranks: 64, 36 and 0. -/
theorem witness_OwnedRanges :
    0 < 100 ∧ (List.range 3).map (ownedRange 2 100) = [(0, 64), (64, 36), (100, 0)] ∧ 100 ≤ 2 * (32 * ((100 + 32 * 3 - 1) / (32 * 3))) ∧
    cBackup (2 ^ 48) = true ∧ ownerOf 2 100 99 = 1 := by decide +kernel

theorem witness_CollectiveAdmission :
    (∀ op ∈ [6, 7], let m := collMsgOf op 5
     Arrives commOff (.port 3) m ∧ m.opcode = op ∧
     commActive commOff (gComm m) = false) ∧
    knownSource commOn 0 13 = false ∧ knownSource commOn 0 12 = true ∧ kindListed 6 7 = false ∧ kindListed 7 0x1A = false ∧
    kindListed 7 6 = false ∧ fullSeq commOn (mkMsg 6 0 0 9 0 0 0x100 3 [0]) = none ∧
    fullSeq commOn (mkMsg 6 0 0 9 0 0 0x100 2 [0]) = some 2 ∧
    (let m := collMsgOf 6 1
     laneHeld { commOn with fab := { commOn.fab with held := [(.port 3, m)] } } (.port 3) m = true ∧ viaUp commOn (.port 3) m = true ∧
     fabricOn (withRegs commOn [(0x7000, 2, 0)]) = false ∧ laneHeld (withRegs commOn [(0x7000, 2, 0)]) (.port 3) m = false) ∧
    (CollAdmitted commOn (.port 3) (collMsgOf 6 1) 1 ∧ gCap (collMsgOf 6 1) = 0 ∧ gKind (collMsgOf 6 1) = 1 ∧
     bucketNamed commOn 0 1 (gBucket (collMsgOf 6 1)) = none ∧ (runOf commOn 0 1).posted.testBit 0 = false) := by
  simp only [collAdmitted_iff, arrives_iff]
  decide +kernel

theorem witness_CollectiveData : ∀ kind ∈ [1, 2, 3, 4, 5, 6], CollFor (posted 0x22) (.port 3) (collMsgOf 6 kind) 6 kind (bucket0 0x22) := by
  have h : ∀ kind ∈ [1, 2, 3, 4, 5, 6], (collMsgOf 6 kind).opcode = 6 ∧ gKind (collMsgOf 6 kind) = kind ∧
      CollAdmitted (posted 0x22) (.port 3) (collMsgOf 6 kind) 1 ∧
      bucketNamed (capNotice (posted 0x22) (gComm (collMsgOf 6 kind)) 1 (gCap (collMsgOf 6 kind))) (gComm (collMsgOf 6 kind)) 1
        (gBucket (collMsgOf 6 kind)) = some (bucket0 0x22) := by
    simp only [collAdmitted_iff, arrives_iff]
    decide +kernel
  exact fun k hk => collFor_of 1 (h k hk).1 (h k hk).2.1 (h k hk).2.2.1 (h k hk).2.2.2 (by decide +kernel)

/-- What the kinds' own clauses ask of the bucket and its communicator. -/
theorem witness_CollectiveClauses :
    (findStream (bucket0 0x22) 1 false).isSome = true ∧
    (let s := { posted 0x22 with ranks := [(0, [⟨0, none⟩, ⟨9, none⟩])] }
     backupOf s 0 1 = none ∧ (backupOf (posted 0x22) 0 1).isSome = true) ∧
    (let r := commWord + 2 ^ 48
     let rgs := [ownedRange r 64 1]
     cBackup r = true ∧ rgs.all (fun g => covers (bucket0 0x20).own g.1 g.2) = false ∧
     rgs.all (fun g => covers [(32, 1), (33, 1)] g.1 2) = true) ∧
    blockMode (commWord + 2 ^ 44) = true ∧ blockMode commWord = false ∧ kElems (collDesc 0x21) = 64 ∧
    (let o : SyncObj := { objType 4 with comm := 0, epoch := 0 }
     let s := { commOn with sync := [(0, o)] }
     (objOf s 0).type = 4 ∧ (objOf s 0).comm = gComm (collMsgOf 7 0x19) ∧
     (objOf s 0).epoch = leVal (((bodyBytes (collMsgOf 7 0x19)).drop 4).take 4) ∧ cBackup (commRec s 0) = false ∧
     syncLive s 0 = true ∧ inSyncRange s 0 0 = true) := by decide +kernel

theorem witness_CollectiveControl :
    (∀ kind ∈ [0x10, 0x11, 0x12, 0x13, 0x14, 0x15, 0x16, 0x17],
      CollFor (posted 0x22) (.port 3) (collMsgOf 7 kind) 7 kind (bucket0 0x22)) ∧
    ((findStream (bucket0 0x22) (gRank (collMsgOf 7 0x13)) false).map Stream.done = some false) ∧
    (∀ kind ∈ [0x18, 0x19], CollAdmitted commOn (.port 3) (collMsgOf 7 kind) 1 ∧ gKind (collMsgOf 7 kind) = kind) := by
  have h : ∀ kind ∈ [0x10, 0x11, 0x12, 0x13, 0x14, 0x15, 0x16, 0x17], (collMsgOf 7 kind).opcode = 7 ∧ gKind (collMsgOf 7 kind) = kind ∧
      CollAdmitted (posted 0x22) (.port 3) (collMsgOf 7 kind) 1 ∧
      bucketNamed (capNotice (posted 0x22) (gComm (collMsgOf 7 kind)) 1 (gCap (collMsgOf 7 kind))) (gComm (collMsgOf 7 kind)) 1
        (gBucket (collMsgOf 7 kind)) = some (bucket0 0x22) := by
    simp only [collAdmitted_iff, arrives_iff]
    decide +kernel
  refine ⟨fun k hk => collFor_of 1 (h k hk).1 (h k hk).2.1 (h k hk).2.2.1 (h k hk).2.2.2 (by decide +kernel), by decide +kernel, ?_⟩
  simp only [collAdmitted_iff, arrives_iff]
  decide +kernel

theorem witness_Barriers :
    let m := collMsgOf 7 0x18
    m.opcode = 7 ∧ gKind m = 0x18 ∧ CollAdmitted commOn (.port 3) m 1 ∧ gCap m = 0 ∧ cBackup (commRec commOn (gComm m)) = false ∧
    cMyRank (commRec commOn (gComm m)) = 0 ∧ [m.source].length ≠ cRanks (commRec commOn 0) ∧ [m.source, 0].length = cRanks (commRec commOn 0) := by
  simp only [collAdmitted_iff, arrives_iff]
  decide +kernel

theorem witness_Communicators :
    (WriteOk commOff (.cc 0) 0x7100 2 1 1 (preCommState 0 1 commOff) ∧ commActive commOff 0 = false) ∧
    WriteOk commOn (.cc 0) 0x7100 2 1 0 (preCommState 0 0 commOn) ∧
    (let s := withRegs commOff [(0x7100, 1, commWord + 2 ^ 42 * 3)]
     dictLive s = true ∧ checkAccess s (.cc 0) 0x7100 2 true false 0 1 = 0 ∧ commActive s 0 = false ∧ activationBad s (commRec s 0) = true) ∧
    (let s := withRegs commOff [(0x7100, 1, commWord - 2 ^ 76 + word [(1, 0, hbmEnd)])]
     dictLive s = true ∧ checkAccess s (.cc 0) 0x7100 2 true false 0 1 = 0 ∧ commActive s 0 = false ∧
     activationBad s (commRec s 0) = false ∧ (tableHole (commRec s 0)).isSome = true) := by
  simp only [writeOk_iff]
  decide +kernel

/-- The stream of rank 1 with every element of this device's range, its deadline passed. -/
def fullStream : Stream :=
  { mkStream (bucket0 0x20) none 1 false 32 with vals := (List.range 32).map (fun i => (i, 0x3F800000)), deadline := some 1000000 }

/-- The bucket with both contributions of this device's range. -/
def fullBucket : Bucket :=
  { bucket0 0x20 with own := (List.range 64).map (fun i => (i, 0x40000000)), streams := [fullStream], areaNum := some 0 }

/-- A matrix operation whose slices feed bucket 0. -/
def sliceOp : Op := newOp commOn 9 0 0 .matrix (BitVec.ofNat 1024 (matDesc + 2 ^ 72 * 2))

theorem witness_Buckets :
    (let b := { bucket0 0x20 with streams := [{ fullStream with vals := [] }] }
     let s := { commOn with buckets := [b] }
     clockOn s = true ∧ stopped s = false ∧ bucketOf s 7 = some b ∧ b.streams[0]? = some { fullStream with vals := [] } ∧ 1000000 ≤ now s ∧
     ({ fullStream with vals := [] } : Stream).done = false ∧ fullStream.handled = false ∧ kAbort (collDesc 0x20 + 2 ^ 85) = true ∧
     backupOf { s with ranks := [(0, [⟨0, none⟩, ⟨9, none⟩])] } 0 1 = none) ∧
    (let s := { atTime commOn (2000000 + reg commOn 0x7080 1) with buckets := [fullBucket] }
     bucketOf s 7 = some fullBucket ∧ fullBucket.taken + reg s 0x7080 1 ≤ now s ∧ fullStream.done = true ∧
     chunkReady (commRec s 0) fullBucket 0 32 = true ∧ (myRange (commRec s 0) 64) = (0, 32)) ∧
    (let b := { bucket0 0x21 with gatherSent := true, gathered := (List.range 64).map (fun i => (i, 1)) }
     bucketDone { commOn with buckets := [b] } b = true) ∧
    (let b := { bucket0 0x20 with desc := BitVec.ofNat 1024 (collDesc 0x20 - 2 ^ 86) }
     let s := setPart { commOn with buckets := [b], ops := [sliceOp] } (pkey 0 0) { Partition.idle with ops := [9], begun := true, stage := [rowOut] }
     coreRuns s = true ∧ (partOf s (pkey 0 0)).stage = [rowOut] ∧ findOp s 9 = some sliceOp ∧ mDest sliceOp.desc.toNat = 2 ∧
     sliceTarget s sliceOp = some b ∧ b.finished = false ∧ feederFits sliceOp b = false ∧
     feederFits sliceOp { b with desc := BitVec.ofNat 1024 (collDesc 0x20 + word [(8, 0, 2), (8, 20, 2)]) } = true ∧ CollQuiet s) := by
  simp only [collQuiet_iff]
  decide +kernel

/-- Update entry 0: bucket 0, 64 elements, weights at loamBase + 4000h. -/
def updWord : Nat := word [(1, 0, loamBase + 0x4000), (7, 0, 64)]

/-- A header with one bucket and one entry, its norm record at loamBase + 5000h. -/
def updHeader (clip : Nat) : BitVec 512 := BitVec.ofNat 512 (word [(0, 0, clip), (0, 24, 1), (0, 44, 1), (4, 0, loamBase + 0x5000)])

def stepOf (clip buckets : Nat) (known : Bool) : UpdRun :=
  { UpdRun.fresh with header := some (updHeader clip), headerRead := true, entries := [(0, BitVec.ofNat 1024 updWord)], norms := [(0, accOfNat 9)], buckets := buckets,
                      known := known }

/-- The key of its step. -/
def stepAt : Nat := stepKey (bucket0 0x23)

/-- RSUG bucket 0 with its range's result, and its update step. -/
def updState (u : UpdRun) (have_ : Bool) : State :=
  let b := { bucket0 0x23 with result := if have_ then (List.range 32).map (fun i => (i, 0x3F800000)) else [] }
  { commOn with buckets := [b], upd := [(stepKey b, u)] }

theorem witness_Updates :
    (let s := updState (stepOf 0 0 false) true
     (sliceBucket s 0 0 0 0).isSome = true ∧ mayRun s 0 .update = true ∧ (engineOf s 0).run = none ∧ ctxState s 0 = 3 ∧ updatesRun s 0 = true ∧
     slicePoison s updWord 0 32 = false ∧
     slicePoison { s with rel := { Rel.reset with retired := [(loamBase + 0x4000, true)] } } updWord 0 32 = true) ∧
    (let s := updState (stepOf 1 0 false) false
     clockOn s = true ∧ (stepsOf s 0).find? (qReady s) = some stepAt ∧ headerNow s stepAt = some (updHeader 1).toNat ∧
     hClip (updHeader 1).toNat = 1 ∧ hClip (updHeader 0).toNat ≠ 1) ∧
    (let s := updState (stepOf 0 1 true) false
     clockOn s = true ∧ (stepsOf s 0).find? (fun k => recordDue s k || stepLost s k) = some stepAt ∧
     headerNow s stepAt = some (updHeader 0).toNat ∧ inLoamWin (ctxRec s 0) (hNorm (updHeader 0).toNat) 32 = true ∧
     inLoamWin (ctxRec s 0) 64 32 = false ∧ isRetired s (hNorm (updHeader 0).toNat + 31) = false) := by decide +kernel

/-- R161: Q is the sum of the squared norms of the buckets. -/
theorem test_global_norm :
    (updOf (after (exec (.globalNormKnown 0) (updState (stepOf 0 0 false) false))) stepAt).q = accOfNat 9 := by decide +kernel

/-! Queues, interrupts and arbitration (chapter 15). -/

theorem witness_Doorbells :
    clockOn matState = true ∧ barsDead matState = false ∧ (15 : BitVec 64).toNat < qSize (qCfg matState 0) ∧
    qSize (qCfg matState 0) ≤ (16 : BitVec 64).toNat ∧ (15 : BitVec 64).toNat < rSize (rCfg matState 0) ∧
    rSize (rCfg matState 0) ≤ (16 : BitVec 64).toNat := by decide +kernel

theorem witness_QueueConfigurations :
    (let v := word [(0, 0, loamBase), (1, 0, 4096), (1, 16, 1), (1, 25, 512)]
     WriteOk running (.cc 0) 0x213F 1 16 v (preQueueConfig 63 v running) ∧ qBase (qCfg running 63) ≠ qBase v) ∧
    (let v := qCfg matState 0 + 2 ^ 85
     let s := withRegs matState [(0x2100, 2, 3)]
     WriteOk s (.cc 0) 0x2100 1 16 v (preQueueConfig 0 v s) ∧ qBase (qCfg s 0) = qBase v ∧ qHost (qCfg s 0) = qHost v ∧
     qSize (qCfg s 0) = qSize v) ∧
    (let v := qCfg matState 0
     dictLive matState = true ∧ checkAccess matState (.cc 0) 0x2101 1 true false 0 16 = 0 ∧ qState matState 1 = 0 ∧
     streamTaken matState 1 v = true) ∧
    (let s := withRegs matState [(0x2100, 2, 3)]
     WriteOk s (.cc 0) 0x2100 3 1 1 0 ∧ WriteOk s (.cc 0) 0x2100 3 1 2 0 ∧ qState s 0 = 3 ∧ queueCtx s 0 = some 0 ∧ qAvail s 0 ≠ 0 ∧
     qAvail (withBar s [(qTailOff 0, 0)]) 0 = 0 ∧ qHost (qCfg s 0) = false ∧ qAvail s 0 < 4096 ∧
     qAvail s 0 ≤ (pickTags s [9]).length ∧ slotReadable s 0 0 ((qHead s 0 + 0) % qSize (qCfg s 0)) = true ∧
     qHead s 0 < qSize (qCfg s 0)) := by
  simp only [writeOk_iff]
  decide +kernel

/-- Source `n` pending with the priority and target given. -/
def pendingSrc (n prio target : Nat) : State :=
  withBar running [(pendOff (n / 32), 2 ^ (n % 32)), (srcCfgOff n, prio + 16 * target)]

/-- Source 130 pending at level 15 for processor 0, whose stack holds 7 and 1. -/
def claimable : State := { pendingSrc 130 15 0 with irq := { Irq.reset with levels := [(0, [7, 1])] } }

theorem witness_Claims :
    (irqServes claimable = true ∧ line claimable 0 = true ∧ runLevel claimable 0 = 7 ∧ winLevel claimable 0 = 15) ∧
    line claimable 1 = false ∧ levelStack claimable 5 = [] ∧ line (pendingSrc 130 1 5) 5 = true ∧ line (pendingSrc 130 0 5) 5 = false := by
  decide +kernel

theorem witness_LevelsOrderedClaimable : LevelsOrdered claimable := by
  intro p
  by_cases h : p = 0
  · subst h; decide +kernel
  · have e : levelStack claimable p = [] := by
      simp [levelStack, SMap.get, claimable]; omega
    rw [e]; simp

/-- R331: CLAIM answers 15, pushes it, and the line drops; EOI pops it. -/
theorem test_claim :
    let t := after (exec (.claim 0) claimable)
    t.out = [.claimed 0 15] ∧ levelStack t 0 = [15, 7, 1] ∧ line t 0 = false ∧ line (after (exec (.eoi 0) t)) 0 = true := by
  decide +kernel

theorem witness_Sources :
    (running.aon.up = true ∧ inIdx (130 / 32) 20 4 = false ∧ srcListed 130 = true ∧ isLevelSrc 130 = false ∧ isLevelSrc 64 = true ∧
      inIdx (64 / 32) 20 4 = false ∧ srcListed 1023 = false ∧ inIdx (1023 / 32) 20 4 = false) ∧
    (irqServes running = true ∧ mayWrite (pendingSrc 130 1 4) .host 130 = false ∧ mayWrite (pendingSrc 130 1 4) .sec 130 = true ∧
      mayWrite (pendingSrc 130 1 5) .host 130 = true) ∧
    (let s := withRegs running [(0x2040, 8, 2)]
     clockOn s = true ∧ reg s 0x2040 (1 + (7 : Fin 8)) = 2) := by decide +kernel

theorem witness_Settings :
    irqServes running = true ∧ mayWrite running .host 1023 = true ∧ fld (0x50 : BitVec 32).toNat 6 4 < 6 ∧ 6 ≤ fld (0x60 : BitVec 32).toNat 6 4 ∧
    (∀ v ∈ [0, 1, 2 ^ 20 - 1], WriteOk running (.cc 2) 0x219F 1 4 v (preHoldoff (.cc 2) 31 running)) ∧
    (let s := { running with irq := { Irq.reset with timers := [(31, 1000000)], held := [(31, 1)] } }
     clockOn s = true ∧ SMap.find s.irq.timers 31 = some 1000000 ∧ 1000000 ≤ now s) ∧
    (bget (withBar running [(pbaOff, 2 ^ 63)]) pbaOff).testBit 63 = true ∧ (bget running pbaOff).testBit 63 = false := by
  simp only [writeOk_iff]
  decide +kernel

def bank : Resource := .loamBank 3 4095

/-- Two requests of order 2 wait at the bank; the second requester has waited `n` grants. -/
def arbitrated (n : Nat) (h : Option ArbReq) : State :=
  setArb running bank { queue := [⟨2, 0, 1⟩, ⟨2, 1, 2⟩], waits := if n = 0 then [] else [(513, n)], holder := h, since := 5 }

theorem witness_Grants :
    clockOn running = true ∧ park 4 (arbOf running bank).queue [] = [] ∧
    (let s := arbitrated 0 none
     let q := park (resDepth bank) (arbOf s bank).queue [⟨1, 7, 3⟩]
     q = [⟨2, 0, 1⟩, ⟨2, 1, 2⟩, ⟨1, 7, 3⟩] ∧
     (requesters q).filter (fun w => decide (waitLimit s (resKind bank) (w / 256) ≤ SMap.get (arbOf s bank).waits w 0)) = [] ∧
     requesters q = [512, 513, 263] ∧ q.find? (fun z => who z == 263) = some ⟨1, 7, 3⟩) ∧
    (let s := arbitrated (waitLimit running 0 2) none
     let q := park (resDepth bank) (arbOf s bank).queue []
     (requesters q).filter (fun w => decide (waitLimit s (resKind bank) (w / 256) ≤ SMap.get (arbOf s bank).waits w 0)) = [513] ∧
     q.find? (fun z => who z == 513) = some ⟨2, 1, 2⟩) ∧
    (let s := atTime (arbitrated 0 (some ⟨2, 0, 9⟩)) (5 + reg running 0x2700 1)
     (arbOf s bank).holder = some ⟨2, 0, 9⟩ ∧ stopped s = false ∧ (arbOf s bank).since + reg s 0x2700 (1 + resKind bank) ≤ now s) ∧
    WriteOk running (.cc 0) 0x2713 7 2 1023 0 := by
  simp only [writeOk_iff]
  decide +kernel

/-- R335 and R337: the lowest order is granted, and a requester at its limit comes before it. -/
theorem test_grant :
    (arbOf (after (exec (.grant bank [⟨1, 7, 3⟩]) (arbitrated 0 none))) bank).holder = some ⟨1, 7, 3⟩ ∧
    (arbOf (after (exec (.grant bank [⟨1, 7, 3⟩]) (arbitrated (waitLimit running 0 2) none))) bank).holder = some ⟨2, 1, 2⟩ := by decide +kernel

/-! The host's accesses and its DMA channels (chapters 15 and 19). -/

/-- DP_ADDR `w`. -/
def atPort (w : Nat) : State := withBar running [(dpAddrOff, w)]

theorem witness_HostAccesses :
    (∀ w ∈ [64, 66, loamEnd - 4, loamEnd, 2 ^ 63 + 64, 2 ^ 44], hostReaches (atPort w) = true ∧ barsDead (atPort w) = false ∧ dpWord (atPort w) = w) ∧
    barsDead (withRegs (atPort 64) [(0x2001, 1, 4)]) = true ∧ stopped { atPort 64 with power := { Power.reset with stopPhase := 1 } } = true ∧
    wAddrOk (2 ^ 44) = false ∧ wAddrOk (2 ^ 63 + 2 ^ 60) = false ∧ wFabric (2 ^ 63 + 64) = true ∧ wAddrOk (2 ^ 63 + 64) = true ∧
    portHeld (atPort 64) 64 8 = false ∧ rangeHeld (atPort 64) 64 8 = false ∧
    (let s := { atPort 64 with hbm := { Hbm.reset with selfRefresh := true } }
     portHeld s 64 8 = true ∧ rangeHeld s 64 8 = true) ∧
    firstBad 64 4096 = none ∧ firstBad (loamEnd - 4) 8 ≠ none ∧ firstBad (loamEnd - 4) 4 = none ∧
    hostPoison (atPort 64) 64 128 = false ∧
    hostPoison { atPort 64 with rel := { Rel.reset with poison := [(128, true)] } } 64 128 = true ∧
    (bget (atPort 64) dpErrOff).testBit 0 = false ∧ bget (atPort 64) bar4Off = 0 := by decide +kernel

/-- R323: a write of two DWs moves the enabled bytes, and DP_ADDR advances by eight. -/
theorem test_data_port :
    let t := after (exec (.dataPortWrite [1, 2, 3, 4, 5, 6, 7, 8] 0xC 0x1) (atPort 64))
    memRead t 64 8 = [0, 0, 3, 4, 5, 0, 0, 0] ∧ dpWord t = 72 := by decide +kernel

/-- Channel 2 with 16 descriptors at 1000h of host memory, head and tail as given, RUNNING. -/
def channel (head tail st : Nat) : State :=
  withBar running [(chOff 2 0, 0x1000), (chOff 2 8, 16), (chOff 2 0x10, tail), (chOff 2 0x18, head), (chOff 2 0x20, st)]

/-- The same with a descriptor of 128 bytes: out of device address `w`, or into it. -/
def channelWith (w : Nat) (out : Bool) (extra : Nat) (busy : SMap Nat) : State :=
  { channel 15 1 1 with hostIf := { HostIf.reset with
      dmaDesc := [(2, BitVec.ofNat 512 (word [(0, 0, 0x8000), (1, 0, w), (2, 0, 128), (2, 32, if out then 1 else 0)] + extra))], dmaBusy := busy } }

theorem witness_HostDma :
    (let s := channel 0 0 0
     clockOn s = true ∧ barsDead s = false ∧ chSizeOf s 2 = 16 ∧ (15 : BitVec 64).toNat < chSizeOf s 2 ∧ chSizeOf s 2 ≤ (16 : BitVec 64).toNat ∧
     chStateOf s 2 ≠ 2 ∧ chHeadOf s 2 ≠ (15 : BitVec 64).toNat ∧ chHeadOf s 2 = (0 : BitVec 64).toNat ∧ chHeadOf s 2 = chTailOf s 2 ∧
     s.aon.pcieUp = true ∧ SMap.has s.hostIf.dmaDesc 2 = false) ∧
    chStateOf (channel 0 0 2) 2 = 2 ∧ chHeadOf (channel 0 1 1) 2 ≠ chTailOf (channel 0 1 1) 2 ∧
    (∀ x ∈ [(64, true), (64, false), (2 ^ 63 + 64, true), (2 ^ 44, true), (loamEnd - 64, true)], let s := channelWith x.1 x.2 0 []
     let d := ((SMap.find s.hostIf.dmaDesc 2).getD 0).toNat
     chStateOf s 2 = 1 ∧ SMap.has s.hostIf.dmaBusy 2 = false ∧ stopped s = false ∧ hBad d = false ∧ hOut d = x.2 ∧ hDev d = x.1) ∧
    memHeld running 64 = false ∧ memHeld running (2 ^ 44) = false ∧
    hBad (((SMap.find (channelWith 64 true (2 ^ 162) []).hostIf.dmaDesc 2).getD 0).toNat) = true ∧
    wAddrOk (2 ^ 44) = false ∧ hostStop running 64 128 true = none ∧ hostStop running (loamEnd - 64) 128 true = some (64, 1) ∧
    hostStop { running with rel := { Rel.reset with poison := [(128, true)] } } 64 128 true = some (64, 4) ∧
    hostStop { running with rel := { Rel.reset with poison := [(128, true)] } } 64 128 false = none ∧
    (let s := channelWith 64 false 0 [(2, 1)]
     SMap.find s.hostIf.dmaBusy 2 = some 1) ∧
    (chStateOf (channel 0 1 1) 2 = 1 ∧ SMap.has (channel 0 1 1).hostIf.dmaDesc 2 = false) ∧
    (let s := { withRegs matState [(0x2100, 1, word [(0, 0, 2 ^ 63 + 0x4000), (1, 0, 16), (1, 25, 512)])] with hostIf := { HostIf.reset with asked := [0] } }
     s.hostIf.asked.contains 0 = true ∧ clockOn s = true ∧ qHost (qCfg s 0) = true ∧ SMap.has s.hostIf.slotData 0 = false ∧ qAvail s 0 ≠ 0 ∧
     SMap.find s.hostIf.flushing 0 = none ∧ qState s 0 ≠ 0) ∧
    (hostReaches running = true ∧ 3 ≤ startState running) ∧
    (let s := { started 2 0x7FF with aon := { (started 2 0x7FF).aon with pcieUp := true } }
     hostReaches s = true ∧ startState s < 3) := by decide +kernel

/-! The object dictionary and its paths (chapter 16). -/

theorem witness_DictionaryAccesses :
    dictLive running = true ∧ lookupEntry 0x0FFF 1 = none ∧ lookupEntry 0x7000 0x55 = none ∧
    (lookupEntry 0x4002 1).isSome = true ∧ permitted running (.cc 0) 0x4002 1 true = false ∧ permitted running .field 0x2500 1 true = false ∧
    ((lookupEntry 0x1000 1).map (fun r => r.acc.writable) = some false ∧ permitted running .sec 0x1000 1 true = true) ∧
    ((lookupEntry 0x9010 1).map (fun r => r.ty.isDomain) = some true ∧ permitted running .sec 0x9010 1 true = true) ∧
    (let s := started 2 0
     dictLive s = true ∧ broughtUp s 0x7000 true = false ∧ permitted s .sec 0x7000 2 true = true) ∧
    (checkAccess running .slotB 0x2500 1 true false 0 4 = 0 ∧ checkAccess running .slotB 0x2500 1 true false 0 8 = dLength) ∧
    (∀ x ∈ [(0x1010, 2, 1, 1), (0x1010, 4, 4, 1), (0x2500, 1, 4, 1000), (0x7000, 1, 2, 300), (0x8000, 1, 1, 1)],
      checkAccess running .sec x.1 x.2.1 true false 0 x.2.2.1 = 0 ∧ rangeOk x.1 x.2.1 x.2.2.2 = true) ∧
    preWrite .sec 0x7000 1 300 (withRegs running [(0x7000, 2, 1)]) = dQuiesce ∧ rangeOk 0x1010 2 200 = false ∧
    (directPath .sec = true ∧ directPath .slotA = false) ∧
    ((lookupEntry 0x7000 1).map (fun r => r.acc.readable) = some true ∧ permitted running (.cc 0) 0x7000 1 false = true ∧
      broughtUp running 0x7000 false = true ∧ freeReading running 0x7000 1 = false ∧ freeReading running 0x5020 2 = false ∧
      (let s := withRegs running [(0x5020, 5, 1), (0x7020, 6, 4)]
       freeReading s 0x5020 2 = true ∧ freeReading s 0x7020 9 = true)) ∧
    ((lookupEntry 0x7010 1).map (fun r => r.ty.isDomain) = some true ∧ checkAccess running (.cc 0) 0x7010 1 true true 64 16 = 0) ∧
    (checkAccess running (.cc 0) 0x8200 1 true true 16384 16 ≠ 0 ∧ checkAccess running (.cc 0) 0x9010 1 true true 4 16 ≠ 0) := by decide +kernel

def src1 : FieldSrc := { addr := BitVec.ofNat 128 (0xFE80 * 2 ^ 112 + 5), port := 40000 }

/-- R351's example request (WRITE DICT of 7000h:02). -/
def reqFrame (op : Nat) (payload : List Byte) : List Byte := mkFrame op 0x0102 0x7000 2 0 0 payload.length payload

/-- The field network with a valid address. -/
def onField (f : Frames) : State := { running with frames := { f with addrState := 2 } }

theorem witness_Requests_Served :
    (∀ x ∈ [(1, []), (2, [1]), (3, []), (4, [1])],
      let s := { running with frames := { Frames.reset with reqA := reqFrame x.1 x.2, stA := 1 } }
      mailState s .a = 1 ∧ (frameHdr (mailRequest s .a)).op = x.1) ∧
    (∀ x ∈ [(1, []), (2, [1]), (3, []), (4, [1])],
      let f : FieldTx := { src := src1, tid := 0x0102, frame := reqFrame x.1 x.2 }
      let s := onField { Frames.reset with pending := [f] }
      s.frames.pending.find? (fun t => t.src == src1 && t.tid == 0x0102) = some f ∧ (frameHdr f.frame).op = x.1) := by decide +kernel

theorem witness_Frames :
    (hostReaches running = true ∧ dictLive running = true ∧ mailState running .b = 0 ∧
      mailState { running with frames := { Frames.reset with stB := 1 } } .b = 1 ∧
      frameStatus (padTo 20 (reqFrame 1 [])) = 0 ∧ frameStatus (padTo 21 (reqFrame 1 [])) = dProtocol ∧
      frameStatus (padTo 21 ((reqFrame 2 [1]).set 16 2)) = dCrc ∧ (20 : BitVec 14).toNat = 20 ∧ (19 : BitVec 14).toNat < 20 ∧
      8212 < (8213 : BitVec 14).toNat) ∧
    (fieldLive (onField Frames.reset) = true ∧ linkLocalAddr src1.addr = true ∧ linkLocalAddr 5 = false ∧ (reqFrame 1 []).length = 20 ∧
      ([1, 1] : List Byte).length < 16 ∧ (frameHdr (reqFrame 1 [])).tid = 0x0102) ∧
    (let s := onField { Frames.reset with pending := [{ src := src1, tid := 0x0102, frame := [] }] }
     pendingFor s src1 0x0102 = true ∧ pendingFor s src1 0x0103 = false ∧ keptFor s src1 0x0103 = none ∧ s.frames.pending.length < 16) ∧
    (let k : KeptResp := { src := src1, tid := 0x0102, resp := [1], at_ := 1000000 }
     keptFor (onField { Frames.reset with kept := [k] }) src1 0x0102 = some k ∧
     keptFor (atTime (onField { Frames.reset with kept := [k] }) 1001000000) src1 0x0102 = none) ∧
    16 ≤ (onField { Frames.reset with pending := List.replicate 16 { src := src1, tid := 1, frame := [] } }).frames.pending.length ∧
    (let s := { running with frames := { Frames.reset with addrState := 1 } }
     dictLive s = true ∧ s.frames.addrState = 1) ∧
    (let s := { running with aon := { running.aon with dictUp := false } }
     clockOn s = true ∧ s.aon.dictUp = false) := by decide +kernel

theorem witness_PinsAndModes :
    (∀ v ∈ [0, 1, 2], WriteOk running (.cc 0) 0x2040 8 1 v (preGpio (.cc 0) 7 running)) ∧
    (let s := withRegs running [(0x2030, 8, 0x11)]
     dictLive s = true ∧ checkAccess s (.cc 0) 0x2040 8 true false 0 1 = 0 ∧ reg s 0x2030 8 ≠ 0 ∧ reg s 0x2030 8 ≠ claimantOf (.cc 0)) ∧
    (stagedUnit 0x5000 1 = some 0 ∧ stagedUnit 0x3070 1 = some 1 ∧ WriteOk running (.cc 0) 0x5000 1 1 1 (preMode running) ∧
      WriteOk running (.cc 0) 0x3070 1 1 1 (preMode running)) ∧
    (let s := withRegs running [(0x2010, 2, 2)]
     dictLive s = true ∧ checkAccess s (.cc 0) 0x5000 1 true false 0 1 = 0 ∧ mixed s = true) ∧
    (let s := withRegs { running with frames := { Frames.reset with staged := [(dkey 0x3070 1, 2)] } } [(0x2010, 3, 1)]
     WriteOk s (.cc 0) 0x2011 1 1 1 (preMode s) ∧ WriteOk s (.cc 0) 0x2011 1 1 2 (preMode s) ∧ modeState s 1 = 1) ∧
    (let s := withRegs { running with frames := { Frames.reset with staged := [(dkey 0x3070 1, 2)] } } [(0x2010, 3, 2)]
     clockOn s = true ∧ modeState s 1 = 2 ∧ SMap.get s.frames.staged (dkey 0x3070 1) 0 = 1 + 1) := by
  simp only [writeOk_iff]
  decide +kernel

/-! Reliability and security (chapter 18). -/

/-- The buffer with a command of code `c` RUNNING: its header with a key slot, and its payload. -/
def commandIn (c slot : Nat) (payload : List Byte) : State :=
  let h := leBytes 64 (word [(0, 0, 0x444D4353), (0, 32, 1), (0, 40, c), (0, 48, slot), (3, 0, payload.length)])
  domWrite (domWrite (withRegs running [(0x9010, 3, 1)]) 0x9010 1 0 h) 0x9010 1 5376 payload

/-- The same, its key in owner slot 1, ACTIVE, and in Lemund slot 1. -/
def commanded (c slot : Nat) (payload : List Byte) : State :=
  let s := commandIn c slot payload
  { s with
    fuses := { Fuses.blank with ownerHash := [(1, keyHash s)], ownerState := [(1, 1)], lemundHash := [(1, keyHash s)] }
    sec := { Sec.reset with via := some .slotA } }

def goodKey : SigCheck := { sigOk := true }

theorem keyHash_of_domains {s t : State} (h : s.domains = t.domains) : keyHash s = keyHash t := by
  simp only [keyHash, cmdBytes, domRead, domByte, h]

/-- Its key passes, whatever the key's bytes hash to. -/
theorem owner_ok {c : Nat} {p : List Byte} (h : cmdKeySlot (commanded c 1 p) = 1) : ownerKeyOk (commanded c 1 p) = true := by
  have hk : keyHash (commanded c 1 p) = keyHash (commandIn c 1 p) := keyHash_of_domains rfl
  simp only [ownerKeyOk, h, ownerActive, hk]
  simp [commanded, SMap.get]

theorem lemund_ok {c : Nat} {p : List Byte} (h : cmdKeySlot (commanded c 0x81 p) = 0x81) : lemundKeyOk (commanded c 0x81 p) = true := by
  have hk : keyHash (commanded c 0x81 p) = keyHash (commandIn c 0x81 p) := keyHash_of_domains rfl
  simp only [lemundKeyOk, h, hk]
  simp [commanded, SMap.get]

theorem check_ok {s : State} {pl key : Bool} (h : checkFields s pl = 0) (hk : key = true) : checkCmd s pl key goodKey = 0 := by
  simp [checkCmd, h, hk, goodKey]

theorem witness_OwnerKeys :
    ownerKeyOk (commanded 3 1 []) = true ∧ (∀ k ∈ [1, 2, 3], ownerKeyOk (commanded 4 1 [BitVec.ofNat 8 k]) = true) ∧
    ownerKeyOk (commanded 2 1 [0x10, 0x10, 2, 0, 1, 0, 0, 0, 1]) = true ∧
    ownerKeyOk { commanded 3 1 [] with fuses := Fuses.blank } = false ∧
    checkInstall (commanded 5 1 (List.replicate 32 7)) goodKey = 0 ∧
    checkUnlock (commanded 6 1 (1 :: List.replicate 32 0)) goodKey = 0 ∧
    checkUnlock (commanded 6 0x81 (2 :: List.replicate 32 0)) goodKey = 0 := by
  refine ⟨owner_ok (by decide +kernel), ?_, owner_ok (by decide +kernel), by decide +kernel, ?_, ?_, ?_⟩
  · have h : ∀ k ∈ [1, 2, 3], cmdKeySlot (commanded 4 1 [BitVec.ofNat 8 k]) = 1 := by decide +kernel
    exact fun k hk => owner_ok (h k hk)
  · have h0 : (activeSlot (commanded 5 1 (List.replicate 32 7))).isNone = false := by decide +kernel
    have h1 := check_ok (s := commanded 5 1 (List.replicate 32 7)) (pl := cmdPayloadLen (commanded 5 1 (List.replicate 32 7)) == 32)
      (by decide +kernel) (owner_ok (c := 5) (p := List.replicate 32 7) (by decide +kernel))
    have h2 : (unusedSlot (commanded 5 1 (List.replicate 32 7))).isNone = false := by decide +kernel
    simp only [checkInstall, h0, h1, h2]
    decide
  · have h := owner_ok (c := 6) (p := 1 :: List.replicate 32 0) (by decide +kernel)
    have hl : payVal (commanded 6 1 (1 :: List.replicate 32 0)) 0 1 = 1 := by decide +kernel
    have hf : checkFields (commanded 6 1 (1 :: List.replicate 32 0)) (cmdPayloadLen (commanded 6 1 (1 :: List.replicate 32 0)) == 33 && (1 == 1 || 1 == 2)) = 0 := by
      decide +kernel
    have hc : (payVal (commanded 6 1 (1 :: List.replicate 32 0)) 1 32 != reg (commanded 6 1 (1 :: List.replicate 32 0)) 0x9030 1) = false := by
      decide +kernel
    simp only [checkUnlock, hl, if_true, check_ok hf h, hc]
    decide
  · have h := lemund_ok (c := 6) (p := 2 :: List.replicate 32 0) (by decide +kernel)
    have hl : payVal (commanded 6 0x81 (2 :: List.replicate 32 0)) 0 1 = 2 := by decide +kernel
    have hf : checkFields (commanded 6 0x81 (2 :: List.replicate 32 0)) (cmdPayloadLen (commanded 6 0x81 (2 :: List.replicate 32 0)) == 33 && (2 == 1 || 2 == 2)) = 0 := by
      decide +kernel
    have hc : (payVal (commanded 6 0x81 (2 :: List.replicate 32 0)) 1 32 != reg (commanded 6 0x81 (2 :: List.replicate 32 0)) 0x9030 1) = false := by
      decide +kernel
    simp only [checkUnlock, hl, show (2 : Nat) ≠ 1 from by decide, if_false, check_ok hf h, hc]
    decide

theorem witness_SignedCommands :
    (dictLive running = true ∧ checkAccess running .slotA 0x9010 1 true true 0 64 = 0 ∧ cmdStatus running ≠ cRunning ∧
      checkAccess (commanded 3 1 []) .slotA 0x9010 1 true true 64 8 = 0 ∧ cmdStatus (commanded 3 1 []) = cRunning) ∧
    (∀ c ∈ [1, 2, 3, 4, 5, 6], cmdReady (commanded c 1 []) c = true ∧ cmdReady (commanded c 1 []) 7 = false) ∧
    (cmdHeaderOk (commanded 4 3 []) = false ∧ cmdPayloadLen (commanded 3 1 [0]) ≠ 0 ∧
      (let s := { commanded 4 1 [1] with fuses := { Fuses.blank with serial := 9 } }
       checkFields s true = cSerial) ∧
      checkFields (withRegs (commanded 4 1 [1]) [(0x9010, 2, 7)]) true = cNonce) ∧
    (let s := commanded 3 1 []
     checkFields s true = 0 ∧ cmdPayloadLen s = 0) ∧
    (∀ k ∈ [1, 2, 3], let s := commanded 4 1 [BitVec.ofNat 8 k]
     checkFields s true = 0 ∧ cmdPayloadLen s = 1 ∧ payVal s 0 1 = k) ∧
    (let s := commanded 2 1 [0x10, 0x10, 2, 0, 1, 0, 0, 0, 1]
     checkFields s (writeEntryPayloadOk s) = 0 ∧ payVal s 0 2 = 0x1010 ∧ payVal s 2 1 = 2) := by decide +kernel

theorem witness_KeysAndDebug :
    (let s := commanded 5 1 (List.replicate 32 7)
     cmdReady s 5 = true ∧ checkFields s (cmdPayloadLen s == 32) = 0 ∧ (activeSlot s).isSome = true ∧
     (unusedSlot { s with fuses := { s.fuses with ownerState := [(0, 2), (1, 1), (2, 2)] } }).isNone = true) ∧
    (let s := { commanded 5 0 (List.replicate 32 7) with fuses := Fuses.blank, sec := { Sec.reset with via := some .slotB } }
     checkFields s (cmdPayloadLen s == 32) = 0 ∧ (activeSlot s).isNone = true ∧ s.sec.via ≠ some .slotA ∧
     checkInstall { s with sec := { Sec.reset with via := some .slotA } } goodKey = 0) ∧
    (let s := commanded 6 1 (1 :: List.replicate 32 0)
     cmdReady s 6 = true ∧ payVal s 0 1 = 1) ∧
    (let s := commanded 6 0x81 (2 :: List.replicate 32 0)
     cmdReady s 6 = true ∧ payVal s 0 1 ≠ 1) ∧
    (let s := commanded 1 0 (List.replicate 32 3)
     cmdReady s 1 = true ∧ attestFieldsOk s = true ∧ identityUsable s = false ∧ attestFieldsOk (commanded 1 0 []) = false ∧
     identityUsable { s with sec := { s.sec with identityDone := true } } = true) ∧
    (let s := { running with sec := { Sec.reset with reportDue := true } }
     clockOn s = true ∧ s.sec.reportDue = true) ∧
    (∀ r ∈ [cOk, cKey], let s := { commanded 4 1 [1] with sec := { Sec.reset with result := some r } }
     clockOn s = true ∧ cmdStatus s = cRunning ∧ s.sec.result = some r ∧ cmdWaits s = false) ∧
    (let s := { commanded 2 1 [] with sec := { Sec.reset with result := some cOk }, fab := { Fabric.reset with windowOk := [1] } }
     cmdWaits s = true) ∧
    (let s := { commanded 5 1 [] with sec := { Sec.reset with result := some cOk, pendingHash := some 8, pendingUnlock := true } }
     cmdWaits s = false ∧ s.sec.pendingHash = some 8 ∧ unusedSlot s = some 0 ∧ activeSlot s = some 1) ∧
    (let s := commanded 9 1 []
     s.sec.result = none ∧ 6 < cmdCode s ∧ cmdStatus s = cRunning) ∧
    running.aon.up = true ∧ tapOffers running .idcode = true ∧ tapOffers running .coreDebug = false ∧
    tapOffers (withRegs running [(0x9030, 2, 1)]) .coreDebug = true := by decide +kernel

/-- R400: ADVANCE_SVN raises the fused version to the running image's. -/
theorem test_advance_svn :
    let s := { commanded 4 1 [2] with sec := { Sec.reset with svnRun := [(1, 6)] } }
    SMap.get (effAdvance 1 s).fuses.svn 1 0 = 6 := by decide +kernel

/-- A pending or running test of a unit. -/
def testOf (kind : TestKind) (unit loc : Nat) (on : Bool) : Test :=
  { unit := unit, kind := kind, code := 1, loc := loc, detail := 0, running := on, cell := none, capture := none }

def testing (x : Test) : State := { running with rel := { Rel.reset with tests := [x] } }

def failing : TestResult := 
  { pass := false, upsets := [], badSpareRows := [], badSpareCols := [], wire := 0, lowHalfOk := false, highHalfOk := true, recompute := [] }

theorem witness_SelfTests :
    WriteOk running (.cc 0) 0x8000 2 1 1 0 ∧ WriteOk running (.cc 0) 0x8000 2 1 0 0 ∧
    (let x := testOf .loamMarch 60 loamBase false
     let s := testing x
     s.rel.tests.find? (fun t => t.unit == (60 : Fin 64).val && !t.running) = some x ∧ testsRun s = true ∧ siteRetired s x = false ∧
     mayStartTest s x = true ∧ siteRetired { s with rel := { s.rel with retired := [(loamBase, true)] } } x = true ∧
     testsRun { s with power := { Power.reset with stopPhase := 1 } } = false ∧ s.rel.tests.any (fun y => y.running && y.unit == x.unit) = false) ∧
    (let x := testOf .outputStage 0 0 false
     let s := { testing x with pins := { running.pins with paceHoldN := false } }
     mayStartTest s x = false ∧ siteRetired s x = false ∧ testsRun s = true) ∧
    (let x := testOf .loamMarch 60 loamBase true
     let s := testing x
     s.rel.tests.find? (fun t => t.unit == (60 : Fin 64).val && t.running && t.kind != .lane) = some x ∧ outcomeOf s x true = 1 ∧
     outcomeOf s x false = 3 ∧ x.kind = .loamMarch ∧ 60 ≤ x.unit) ∧
    (let x := testOf .lane 35 0 true
     (testing x).rel.tests.find? (fun t => t.unit == 32 + (3 : PortId).val && t.running && t.kind == .lane) = some x) ∧
    (checkAccess running (.cc 0) 0x8200 1 true true 16 32 = 0 ∧ checkAccess running (.cc 0) 0x8200 1 true true 8 8 = 0 ∧
      checkAccess running (.cc 0) 0x8200 1 true true 16368 16 = 0 ∧
      (let b := leBytes 16 (1 + loamBase * 2 ^ 64) ++ leBytes 16 (2 + 64 * 2 ^ 64)
       entryBad (retiredEntry running 1) (newEntry b 0) = false ∧ entryBad (retiredEntry running 2) (newEntry b 1) = false ∧
       newEntry b 0 % 256 = 1 ∧ inLoam (fld (newEntry b 0) 127 64) = true ∧ newEntry b 1 % 256 = 2 ∧
       inHbm (fld (newEntry b 1) 127 64) = true ∧ entryBad (retiredEntry running 0) 8 = true)) := by
  simp only [writeOk_iff]
  decide +kernel

/-- R391: a failed loam march retires its line. -/
theorem test_retired :
    isRetired (after (exec (.targetedSelfTestEnd 60 failing) (testing (testOf .loamMarch 60 loamBase true)))) loamBase = true := by decide +kernel

end Sys2Proof.Tests
end

section
/-! SUPPORT. The statements of the architecture chapter: a step and the idle cycle of REF, the state after reset, and the
resets. -/

namespace Sys2Proof.Machine

/-! A step, and the cycle of REF on an empty queue. -/

/-- A collective message completes, whether its kind is the row's or not. -/
theorem collKind_completes (op k : Nat) (s : State) (v : Via) (m : Msg) : Completes (collKind op k s v m) := by
  unfold collKind
  split
  · exact ⟨_, rfl⟩
  · exact ⟨_, rfl⟩

theorem execHoldRequest_completes (h : HoldSource) (s : State) : Completes (execHoldRequest h s) := by
  cases h with
  | entry p => exact ⟨_, rfl⟩
  | d3hot => exact ⟨_, rfl⟩

theorem execStagedWrite_completes (p : Path) (index : BitVec 16) (sub : BitVec 8) (v : Byte) (s : State) :
    Completes (execStagedWrite p index sub v s) := by
  unfold execStagedWrite
  split
  · exact ⟨_, rfl⟩
  · exact ⟨_, rfl⟩

/-- Every command answers a next state. -/
theorem exec_completes (c : Instr) (s : State) : Completes (exec c s) := by
  cases c with
  | holdRequest h => exact execHoldRequest_completes h s
  | stagedWrite p index sub v => exact execStagedWrite_completes p index sub v s
  | contrib v m => exact collKind_completes _ _ s v m
  | partialAcc v m => exact collKind_completes _ _ s v m
  | partialBlock v m => exact collKind_completes _ _ s v m
  | compressed v m => exact collKind_completes _ _ s v m
  | gather v m => exact collKind_completes _ _ s v m
  | repairData v m => exact collKind_completes _ _ s v m
  | scales v m => exact collKind_completes _ _ s v m
  | shadowDigest v m => exact collKind_completes _ _ s v m
  | substitute v m => exact collKind_completes _ _ s v m
  | stopped v m => exact collKind_completes _ _ s v m
  | done v m => exact collKind_completes _ _ s v m
  | abort v m => exact collKind_completes _ _ s v m
  | norm v m => exact collKind_completes _ _ s v m
  | repairReq v m => exact collKind_completes _ _ s v m
  | barrierArrive v m => exact collKind_completes _ _ s v m
  | barrierRelease v m => exact collKind_completes _ _ s v m
  | _ => exact ⟨_, rfl⟩

/-- `t` differs from `s` in no more than the dictionary entries whose keys are listed, as far as memory, operations, BAR0
registers, the queue and the AON domain go. -/
structure CountersOnly (l : List Nat) (s t : State) : Prop where
  aon     : t.aon = s.aon
  mem     : t.mem = s.mem
  ops     : t.ops = s.ops
  bar     : t.bar = s.bar
  pending : t.pending = s.pending
  entries : SameEntriesBut l s t

theorem CountersOnly.refl (l : List Nat) (s : State) : CountersOnly l s s := ⟨rfl, rfl, rfl, rfl, rfl, fun _ _ _ => rfl⟩

theorem CountersOnly.trans {l : List Nat} {s t u : State} (h : CountersOnly l s t) (k : CountersOnly l t u) :
    CountersOnly l s u where
  aon := k.aon.trans h.aon
  mem := k.mem.trans h.mem
  ops := k.ops.trans h.ops
  bar := k.bar.trans h.bar
  pending := k.pending.trans h.pending
  entries := fun i sub hl => (k.entries i sub hl).trans (h.entries i sub hl)

/-- One counter of time changes only its own entry. -/
theorem countWhile_countersOnly {l : List Nat} (b : Bool) {i sub : Nat} (s : State) (hl : dkey i sub ∈ l) :
    CountersOnly l s (countWhile b i sub s) := by
  cases b with
  | false => exact CountersOnly.refl l s
  | true =>
    refine ⟨rfl, rfl, rfl, rfl, rfl, fun i' sub' h => ?_⟩
    exact reg_setReg_ne s _ (ne_of_mem_of_not_mem hl h).symm

/-- Steps that each change counters alone do so together. -/
theorem foldl_countersOnly {α : Type} {l : List Nat} {f : State → α → State} (xs : List α) (s : State)
    (hf : ∀ x ∈ xs, ∀ t, CountersOnly l t (f t x)) : CountersOnly l s (xs.foldl f s) := by
  induction xs generalizing s with
  | nil => exact CountersOnly.refl l s
  | cons x xs ih =>
    exact (hf x List.mem_cons_self s).trans (ih (f s x) (fun y hy => hf y (List.mem_cons_of_mem x hy)))

/-- PACE_HOLD_NS, THROTTLE_NS, CAPPED_NS and STAGING_HOLDS of the four vector engines. -/
def timeCounters : List Nat :=
  [dkey 0x3030 2, dkey 0x3050 4, dkey 0x3000 9, dkey 0x2300 0x0C, dkey 0x2301 0x0C, dkey 0x2302 0x0C, dkey 0x2303 0x0C]

theorem stagingHolds_mem_timeCounters {n : Nat} (hn : n ∈ List.range 4) : dkey (0x2300 + n) 0x0C ∈ timeCounters := by
  revert n
  decide

theorem countTimes_countersOnly (s : State) : CountersOnly timeCounters s (countTimes s) := by
  have pace := countWhile_countersOnly (!s.pins.paceHoldN) s (show dkey 0x3030 2 ∈ timeCounters by decide)
  have throttle := fun t => countWhile_countersOnly (decide (reg s 0x3050 3 < 64)) t (show dkey 0x3050 4 ∈ timeCounters by decide)
  have capped := fun t => countWhile_countersOnly (reg s 0x3000 7 == 1) t (show dkey 0x3000 9 ∈ timeCounters by decide)
  have staging := fun t => foldl_countersOnly (f := fun t n => countWhile (stagingHeld s n) (0x2300 + n) 0x0C t)
    (List.range 4) t (fun n hn u => countWhile_countersOnly _ u (stagingHolds_mem_timeCounters hn))
  exact ((pace.trans (throttle _)).trans (capped _)).trans (staging _)

/-- A cycle of REF: 10 ns pass, and only counters of time move. -/
theorem tick_countersOnly {s : State} (hc : clockOn s = true) :
    CountersOnly timeCounters { s with aon := { s.aon with time := s.aon.time + tickNs } } (tick s) := by
  rw [tick, if_pos hc]
  exact countTimes_countersOnly _

theorem tick_without_clock {s : State} (hc : clockOn s = false) : tick s = s := by simp [tick, hc]

theorem step_of_empty {s : State} (hp : s.pending = []) : step s = .next (tick s) := by simp [step, hp]

/-- Settles O1: each command's outcome is a next state by its arm, and on an empty queue the step is one `tick`. -/
theorem aStepRunsTheCommandAtTheFront : Obligations.AStepRunsTheCommandAtTheFront := by
  refine ⟨fun _ _ _ => rfl, fun s hp hc => ?_, fun s hp hc => ?_, fun s c => exec_completes c s⟩
  · obtain ⟨haon, hmem, hops, hbar, hpending, hentries⟩ := tick_countersOnly hc
    exact ⟨tick s, step_of_empty hp, congrArg Aon.time haon, hmem, hops, hbar, hpending.trans hp, hentries⟩
  · rw [step_of_empty hp, tick_without_clock hc]

/-! The state after reset. -/

/-- With nothing stored every dictionary entry reads its table's reset value. -/
@[simp] theorem reg_reset (i sub : Nat) : reg State.reset i sub = resetVal i sub := rfl

@[simp] theorem levelStack_reset (p : Nat) : levelStack State.reset p = [] := rfl

theorem levelsOrdered_reset : LevelsOrdered State.reset := fun p => by simp

/-- Queues have SIZE 0 and are IDLE. -/
theorem queue_reset (q : QueueId) : qSize (qCfg State.reset q) = 0 ∧ qState State.reset q = 0 := by
  have tables : ∀ q : QueueId, qSize (resetVal (0x2100 + q) 1) = 0 ∧ resetVal (0x2100 + q) 2 = 0 := by decide
  rw [qCfg, qState, reg_reset, reg_reset]
  exact tables q

/-- Every MSI-X vector is masked. -/
theorem msixCtl_reset (v : Fin 64) : (bget State.reset (msixCtl v)).testBit 0 = true := by
  have masked : ∀ v : Fin 64, barDefault (msixCtl v) = 1 := by decide
  rw [show bget State.reset (msixCtl v) = barDefault (msixCtl v) from rfl, masked v]
  rfl

theorem ctxState_reset {c : Nat} (hc : c < 64) : ctxState State.reset c = 0 := by
  have tables : ∀ c < 64, resetVal (0x4100 + c) 2 = 0 := by decide
  rw [ctxState, reg_reset]
  exact tables c hc

/-- Settles O4: nothing is stored after reset, so every read falls through to its table. -/
theorem resetLeavesTheValuesOfTheTables : Obligations.ResetLeavesTheValuesOfTheTables := by
  refine ⟨rfl, rfl, rfl, rfl, rfl, rfl, levelsOrdered_reset, ?_, queue_reset, fun p => ⟨levelStack_reset p, rfl⟩,
    msixCtl_reset, fun c hc => ctxState_reset hc, fun o i => ⟨rfl, rfl⟩⟩
  simp only [reg_reset]
  decide

/-! Hot reset while slots are returned. -/

/-- Queue 0 in host memory with 16 slots, two of them queued, whose slots are being returned for context 0; the read of its
head slot is under way, and a descriptor is in hand. -/
def returningSlots : State :=
  { State.reset with
    aon := { Aon.reset with pcieUp := true }
    dict := [(dkey 0x2100 1, 2 ^ 63 + 16 * 2 ^ 64)]
    bar := [(qTailOff 0, 2)]
    hostIf := { HostIf.reset with asked := [0], flushing := [(0, 1)], slotData := [(0, 0)] } }

/-- A hot reset there fails the read and skips its slot; the return goes on with the descriptor in hand, which takes tag 0
as a FLUSHED operation (R317). -/
theorem hotReset_returningSlots :
    ∃ t, exec .hotReset returningSlots = .next t ∧ t.ops.map (fun o => (o.tag, o.status)) = [(0, stFlushed)] :=
  ⟨_, rfl, by decide +kernel⟩

/-- Refutes O6: its hot-reset clause says of every state that no operation changes, and a hot reset in `returningSlots` adds
one. The clause lacks a premise that keeps apart a slot's read under way and its descriptor in hand while a queue's slots are
returned. -/
theorem not_resetsAndTheClockKeepWhatTheySay : ¬ Obligations.ResetsAndTheClockKeepWhatTheySay := by
  intro h
  obtain ⟨-, -, -, -, -, hotReset, -⟩ := h returningSlots
  obtain ⟨t, ht, -, -, hops, -⟩ := hotReset (by decide) (by decide)
  obtain ⟨u, hu, hflushed⟩ := hotReset_returningSlots
  have same : t = u := Host.Outcome.next.inj (ht.symm.trans hu)
  have unchanged : u.ops = [] := same ▸ hops
  rw [unchanged] at hflushed
  cases hflushed

end Sys2Proof.Machine
end

section
/-! SUPPORT. A vector instruction at its word (R116): the state it sees, what of that is the state before, and what its
class leaves of the engine (R126, R130). -/

namespace Sys2Proof.Machine

/-! Sparse maps. -/

section
variable {α : Type}

theorem SMap.find_graft (k : Nat) (lo hi : SMap α) (j : Nat) :
    SMap.find (SMap.graft k lo hi) j = if j < k then SMap.find lo j else SMap.find hi j := by
  have hlo := SMap.find_filter lo j (fun x => decide (x < k))
  have hhi := SMap.find_filter hi j (fun x => decide (k ≤ x))
  rw [SMap.graft, SMap.find_append, hlo, hhi]
  by_cases h : j < k
  · simp [h, Nat.not_le.mpr h]
  · simp [h, Nat.not_lt.mp h]

@[simp] theorem SMap.find_graft_self (k : Nat) (m : SMap α) (j : Nat) : SMap.find (SMap.graft k m m) j = SMap.find m j := by
  simp [SMap.find_graft]

theorem SMap.find_dropRange_outside {lo hi j : Nat} (m : SMap α) (h : j < lo ∨ hi ≤ j) :
    SMap.find (SMap.dropRange m lo hi) j = SMap.find m j := by
  rw [SMap.dropRange, SMap.find_filter m j (fun x => !(decide (lo ≤ x) && decide (x < hi))), if_pos]
  simp only [Bool.not_eq_true', Bool.and_eq_false_iff, decide_eq_false_iff_not]
  omega

end

/-! Operations. -/

@[simp] theorem Op.stamp_status (t : Nat) (o : Op) : (o.stamp t).status = o.status := by unfold Op.stamp; split <;> rfl
@[simp] theorem Op.stamp_ended (t : Nat) (o : Op) : (o.stamp t).ended = o.ended := by unfold Op.stamp; split <;> rfl
@[simp] theorem Op.stamp_tag (t : Nat) (o : Op) : (o.stamp t).tag = o.tag := by unfold Op.stamp; split <;> rfl

/-- A change that keeps tags is made to the operation of its tag alone. -/
theorem findOp_updOp {f : Op → Op} (hf : ∀ o, (f o).tag = o.tag) (s : State) (tag tag' : Nat) :
    findOp (updOp s tag f) tag' =
      (findOp s tag').map (fun o => if o.tag == tag then (f o).stamp s.aon.time else o) := by
  unfold findOp updOp mapIf
  rw [List.find?_map]
  congr 2
  funext o
  simp only [Function.comp]
  split <;> simp [hf]

theorem findOp_tag {s : State} {tag : Nat} {o : Op} (h : findOp s tag = some o) : o.tag = tag := by
  simpa using List.find?_some h

theorem findOp_updOp_same {f : Op → Op} (hf : ∀ o, (f o).tag = o.tag) {s : State} {tag : Nat} {o : Op}
    (h : findOp s tag = some o) : findOp (updOp s tag f) tag = some ((f o).stamp s.aon.time) := by
  simp [findOp_updOp hf, h, findOp_tag h]

/-- An operation but for what the steps of its program leave on it: its waves, EMPTY, and the time it is done. -/
def Op.asTaken (o : Op) : Op := { o with waves := 0, empty := false, doneAt := none }

/-- What of an operation its steps leave alone. -/
theorem asTaken_fields {o o' : Op} (h : o'.asTaken = o.asTaken) :
    o'.tag = o.tag ∧ o'.ctx = o.ctx ∧ o'.desc = o.desc ∧ o'.zeroK = o.zeroK ∧ o'.rowMask = o.rowMask ∧
      o'.colMask = o.colMask ∧ o'.before = o.before ∧ o'.ended = o.ended := by
  cases o
  cases o'
  simp only [Op.asTaken, Op.mk.injEq] at h
  simp only [h, and_self]

@[simp] theorem Op.asTaken_stamp (t : Nat) (o : Op) : (o.stamp t).asTaken = o.asTaken := by unfold Op.stamp; split <;> rfl

theorem findOp_updOp_asTaken {f : Op → Op} (hf : ∀ o, (f o).asTaken = o.asTaken) (s : State) (tag tag' : Nat) :
    (findOp (updOp s tag f) tag').map Op.asTaken = (findOp s tag').map Op.asTaken := by
  have htag : ∀ o, (f o).tag = o.tag := fun o => (asTaken_fields (hf o)).1
  rw [findOp_updOp htag, Option.map_map]
  congr 1
  funext o
  simp only [Function.comp]
  split <;> simp [hf]

/-! What an instruction sees of the state before its word. -/

/-- An engine but for its counts of steps (R112, R131). -/
def Engine.contents (e : Engine) : Engine :=
  { e with winSteps := 0, winSieve := 0, winUpdate := 0, missed := false, recent := [] }

/-- What a function reads of the contents is the same for engines of the same contents. -/
theorem Engine.eq_of_contents {α : Type} {e e' : Engine} (h : e.contents = e'.contents) (f : Engine → α)
    (hf : ∀ e, f e.contents = f e) : f e = f e' := by rw [← hf e, h, hf]

/-- State `u` is `s` as far as an instruction of engine `n` reads it. -/
structure SeenAs (s u : State) (n : Nat) : Prop where
  mem      : u.mem = s.mem
  rel      : u.rel = s.rel
  records  : ∀ c, ctxRec u c = ctxRec s c
  contents : (engineOf u n).contents = (engineOf s n).contents
  ops      : ∀ tag, (findOp u tag).map Op.asTaken = (findOp s tag).map Op.asTaken

namespace SeenAs

variable {s u v : State} {n : Nat}

theorem refl (s : State) (n : Nat) : SeenAs s s n := ⟨rfl, rfl, fun _ => rfl, rfl, fun _ => rfl⟩

theorem trans (h : SeenAs s u n) (k : SeenAs u v n) : SeenAs s v n :=
  ⟨k.mem.trans h.mem, k.rel.trans h.rel, fun c => (k.records c).trans (h.records c), k.contents.trans h.contents,
    fun tag => (k.ops tag).trans (h.ops tag)⟩

theorem engine {α : Type} (h : SeenAs s u n) (f : Engine → α) (hf : ∀ e, f e.contents = f e) :
    f (engineOf u n) = f (engineOf s n) := Engine.eq_of_contents h.contents f hf

theorem tb (h : SeenAs s u n) : (engineOf u n).tb = (engineOf s n).tb := h.engine Engine.tb fun _ => rfl
theorem shared (h : SeenAs s u n) : (engineOf u n).shared = (engineOf s n).shared := h.engine Engine.shared fun _ => rfl

theorem progOp_asTaken (h : SeenAs s u n) (p : Prog) : (progOp u p).map Op.asTaken = (progOp s p).map Op.asTaken := by
  unfold progOp
  cases p.tag with
  | none => rfl
  | some t => exact h.ops t

theorem src1_eq (h : SeenAs s u n) (c : Ctx) : src1 (engineOf u n) c = src1 (engineOf s n) c :=
  h.engine (fun e => src1 e c) fun _ => rfl

theorem active_eq (h : SeenAs s u n) (c : Ctx) : active (engineOf u n) c = active (engineOf s n) c :=
  h.engine (fun e => active e c) fun _ => rfl

theorem tbAt_eq (h : SeenAs s u n) : tbAt (engineOf u n) = tbAt (engineOf s n) := h.engine tbAt fun _ => rfl
theorem slotAt_eq (h : SeenAs s u n) : slotAt (engineOf u n) = slotAt (engineOf s n) := h.engine slotAt fun _ => rfl
theorem maskAt_eq (h : SeenAs s u n) : maskAt (engineOf u n) = maskAt (engineOf s n) := h.engine maskAt fun _ => rfl

theorem ctxSeed_eq (h : SeenAs s u n) (c : Nat) : ctxSeed u c = ctxSeed s c := by unfold ctxSeed; rw [h.records]

end SeenAs

/-- The free program of a held engine is the one that holds it. -/
theorem takeProg_of_held {e : Engine} {p : Prog} (h : e.run = some p) : takeProg e = e := by
  unfold takeProg
  rw [h]

theorem ready_of_held {s : State} {n : Nat} {k : WorkClass} {p : Prog} (hk : k = .epilogue ∨ k = .program)
    (h : progOf (engineOf s n) k = some p) :
    SeenAs s (ready s n k).1 n ∧ (ready s n k).1.freeCtr = s.freeCtr ∧ (ready s n k).2 = some p := by
  rcases hk with rfl | rfl
  · exact ⟨SeenAs.refl s n, rfl, h⟩
  · have hrun : (engineOf s n).run = some p := h
    have hready : ready s n .program = (setEngine s n (engineOf s n), (engineOf s n).run) := by
      simp [ready, takeProg_of_held hrun]
    rw [hready]
    exact ⟨⟨rfl, rfl, fun _ => rfl, by simp, fun _ => rfl⟩, rfl, hrun⟩

/-- The counters of an engine's steps are no context record. -/
theorem ctxRec_countSteps (s : State) {n : Nat} (hn : n < 4) (k : WorkClass) (steps c : Nat) :
    ctxRec (countSteps s n k steps) c = ctxRec s c := by
  have away : ∀ (t : State) (sub m : Nat), sub < 256 → ctxRec (bumpBy t (0x2300 + n) sub m) c = ctxRec t c := by
    intro t sub m hsub
    exact reg_setReg_ne t _ (by simp only [dkey]; omega)
  have hsub : classSub k < 256 := by cases k <;> decide
  exact (away _ _ _ hsub).trans (away _ _ _ (by decide))

theorem countSteps_seenAs (s : State) {n : Nat} (hn : n < 4) (k : WorkClass) (steps : Nat) :
    SeenAs s (countSteps s n k steps) n := by
  refine ⟨rfl, rfl, ctxRec_countSteps s hn k steps, ?_, fun _ => rfl⟩
  unfold countSteps markActive setMargin
  simp only [engineOf, setEngine, SMap.get_set_same]
  rfl

/-- A change to what an operation's steps leave on it. -/
theorem updOp_seenAs {f : Op → Op} (hf : ∀ o, (f o).asTaken = o.asTaken) (s : State) (n tag : Nat) :
    SeenAs s (updOp s tag f) n := ⟨rfl, rfl, fun _ => rfl, rfl, findOp_updOp_asTaken hf s tag⟩

theorem opSteps_seenAs (s : State) (n : Nat) (p : Prog) (k : WorkClass) (steps : Nat) : SeenAs s (opSteps s p k steps) n := by
  unfold opSteps
  split
  · split
    · exact SeenAs.refl s n
    · exact updOp_seenAs (by intro o; rfl) s n _
  · exact SeenAs.refl s n

theorem noteEmpty_seenAs (s : State) (n : Nat) (c : Ctx) : SeenAs s (noteEmpty s c) n := by
  unfold noteEmpty
  split
  · exact SeenAs.refl s n
  · split
    · exact updOp_seenAs (by intro o; rfl) s n _
    · exact SeenAs.refl s n

/-- The state in which the word of `c` takes effect: its steps are counted, an empty row is noted (R120). -/
def issued (s : State) (c : Ctx) (steps : Nat) : State :=
  noteEmpty (opSteps (countSteps { (ready s c.eng c.cls).1 with freeCtr := (ready s c.eng c.cls).1.freeCtr + 2 ^ 50 }
    c.eng c.cls steps) c.prog c.cls steps) c

/-- The same of the word `w` that engine `n` runs next. -/
abbrev issuedAt (s : State) (n : Nat) (k : WorkClass) (p : Prog) (w : Nat) (cost : Ctx → Nat) : State :=
  issued s (ctxAt s n k p w) (cost (ctxAt s n k p w))

theorem noteEmpty_freeCtr (s : State) (c : Ctx) : (noteEmpty s c).freeCtr = s.freeCtr := by
  unfold noteEmpty
  split
  · rfl
  · split <;> rfl

theorem opSteps_freeCtr (s : State) (p : Prog) (k : WorkClass) (steps : Nat) : (opSteps s p k steps).freeCtr = s.freeCtr := by
  unfold opSteps
  split
  · split <;> rfl
  · rfl

section
variable {s : State} {n : Nat} {k : WorkClass} {p : Prog} {w : Nat}

theorem AtWord.issued_seenAs (h : AtWord s n k p w) (hn : n < 4) (cost : Ctx → Nat) :
    SeenAs s (issuedAt s n k p w cost) n := by
  obtain ⟨hready, -, -⟩ := ready_of_held h.cls h.held
  have hfree : SeenAs (ready s n k).1 { (ready s n k).1 with freeCtr := (ready s n k).1.freeCtr + 2 ^ 50 } n :=
    ⟨rfl, rfl, fun _ => rfl, rfl, fun _ => rfl⟩
  exact (((hready.trans hfree).trans (countSteps_seenAs _ hn k _)).trans (opSteps_seenAs _ n p k _)).trans
    (noteEmpty_seenAs _ n _)

/-- Each word has free values of its own. -/
theorem AtWord.issued_freeCtr (h : AtWord s n k p w) (cost : Ctx → Nat) :
    (issuedAt s n k p w cost).freeCtr = s.freeCtr + 2 ^ 50 := by
  obtain ⟨-, hctr, -⟩ := ready_of_held h.cls h.held
  rw [issuedAt, issued, noteEmpty_freeCtr, opSteps_freeCtr]
  exact congrArg (· + 2 ^ 50) hctr

/-- The state after an instruction's effect `u`, of which the class keeps what it may write. -/
def confined (s u : State) (n : Nat) (k : WorkClass) : State :=
  setEngine u n (confine k (engineOf s n) (engineOf u n))

/-- The program of class `k` moves on as the effect answered. -/
def moveOn (s : State) (n : Nat) (k : WorkClass) (p : Prog) : Next → State
  | .go => keepProg s n k { (progOf (engineOf s n) k).getD p with pc := p.pc + 1 }
  | .skip => keepProg s n k { (progOf (engineOf s n) k).getD p with pc := p.pc + 2 }
  | .jump t => keepProg s n k { (progOf (engineOf s n) k).getD p with pc := t }
  | .stall => keepProg s n k { (progOf (engineOf s n) k).getD p with waiting := true }
  | .done => s
  | .stop st => stopProg s n k p st

theorem ctxOf_seenAs {u : State} (h : u.mem = s.mem) (hop : progOp u p = progOp s p) (hctr : u.freeCtr = s.freeCtr) :
    ctxOf u n k p w = ctxOf s n k p w := by
  unfold ctxOf programWords memVal memRead memByte
  rw [h, hop, hctr]

/-- A word of the class [lo, hi] at its turn: its effect `f` on the state issued, confined, and the program moved on. -/
theorem AtWord.instrStep_eq (h : AtWord s n k p w) {lo hi : Nat} (hlo : lo ≤ iOp w) (hhi : iOp w ≤ hi)
    (cost : Ctx → Nat) (f : State → Ctx → State × Next) :
    instrStep s n k lo hi cost f =
      let s1 := issuedAt s n k p w cost
      let r := f s1 (ctxAt s n k p w)
      moveOn (confined s1 r.1 n k) n k p r.2 := by
  obtain ⟨hseen, hctr, hprog⟩ := ready_of_held h.cls h.held
  have hop : progOp (ready s n k).1 p = progOp s p := by
    rcases h.cls with hk | hk <;> rw [hk] <;> rfl
  have hword : wordAt (ready s n k).1 p = w := by
    rw [← h.word]
    unfold wordAt memVal memRead memByte
    rw [hseen.mem]
  have hclean : rangePoisoned (ready s n k).1 (p.base + 8 * p.pc) 8 = false := by
    rw [← h.clean]
    rcases h.cls with hk | hk <;> rw [hk] <;> rfl
  have hctx : ctxOf (ready s n k).1 n k p w = ctxAt s n k p w := ctxOf_seenAs hseen.mem hop hctr
  have hplace : decide (p.len ≤ p.pc) = false := by simpa using h.place
  unfold instrStep
  simp only [h.turn, if_true, hprog, hplace, Bool.false_eq_true, if_false, hword, h.runs, Bool.false_and, Bool.or_false,
    hlo, hhi, decide_true, Bool.true_or, Bool.and_true, Bool.not_true, Bool.not_false, hclean, hctx]
  rfl

end

/-! What a class leaves of the engine. -/

theorem tbAt_confine {k : WorkClass} {old new : Engine} (hshared : new.shared = old.shared) (b : Nat) {r j : Nat}
    (hr : r < 2 ^ 22) (hj : j < 2 ^ 22) :
    tbAt (confine k old new) b r j = if ownsTb k b = true then tbAt new b r j else tbAt old b r j := by
  have hkey : tkey b r j < 3 * 2 ^ 44 ↔ b < 3 := by simp only [tkey]; omega
  unfold tbAt confine ownsTb
  simp only [SMap.find_graft, hkey, hshared]
  by_cases hb : b < 3
  · by_cases hk : k = .epilogue <;> simp [hk, hb, Nat.not_le.mpr hb]
  · by_cases hk : k = .epilogue <;> simp [hk, hb, Nat.not_lt.mp hb]

/-- Slots that the effect left are left. -/
theorem slotAt_confine {k : WorkClass} {old new : Engine} (hslots : new.slots = old.slots)
    (hshared : new.shared = old.shared) : slotAt (confine k old new) = slotAt old := by
  funext sl r
  unfold slotAt confine
  by_cases hk : k = .epilogue <;> simp [hk, hslots, hshared]

/-- Masks that the effect left are left. -/
theorem maskAt_confine {k : WorkClass} {old new : Engine} (hmasks : new.masks = old.masks)
    (hshared : new.shared = old.shared) : maskAt (confine k old new) = maskAt old := by
  funext m r j
  unfold maskAt confine
  by_cases hk : k = .epilogue <;> simp [hk, hmasks, hshared]

@[simp] theorem progOf_setProg (e : Engine) (k : WorkClass) (q : Option Prog) : progOf (setProg e k q) k = q := by
  unfold progOf setProg
  split <;> rfl

@[simp] theorem tbAt_setProg (e : Engine) (k : WorkClass) (q : Option Prog) : tbAt (setProg e k q) = tbAt e := by
  unfold setProg
  split <;> rfl

@[simp] theorem slotAt_setProg (e : Engine) (k : WorkClass) (q : Option Prog) : slotAt (setProg e k q) = slotAt e := by
  unfold setProg
  split <;> rfl

@[simp] theorem maskAt_setProg (e : Engine) (k : WorkClass) (q : Option Prog) : maskAt (setProg e k q) = maskAt e := by
  unfold setProg
  split <;> rfl

@[simp] theorem engineOf_keepProg (s : State) (n : Nat) (k : WorkClass) (q : Prog) :
    engineOf (keepProg s n k q) n = setProg (engineOf s n) k (some q) := engineOf_setEngine_same s n _

@[simp] theorem engineOf_confined (s u : State) (n : Nat) (k : WorkClass) :
    engineOf (confined s u n k) n = confine k (engineOf s n) (engineOf u n) := engineOf_setEngine_same u n _

theorem moveOn_go_pc (s : State) (n : Nat) (k : WorkClass) (p : Prog) :
    (progOf (engineOf (moveOn s n k p .go) n) k).map Prog.pc = some (p.pc + 1) := by simp [moveOn]

@[simp] theorem tbAt_moveOn_go (s : State) (n : Nat) (k : WorkClass) (p : Prog) :
    tbAt (engineOf (moveOn s n k p .go) n) = tbAt (engineOf s n) := by simp [moveOn]

@[simp] theorem slotAt_moveOn_go (s : State) (n : Nat) (k : WorkClass) (p : Prog) :
    slotAt (engineOf (moveOn s n k p .go) n) = slotAt (engineOf s n) := by simp [moveOn]

@[simp] theorem maskAt_moveOn_go (s : State) (n : Nat) (k : WorkClass) (p : Prog) :
    maskAt (engineOf (moveOn s n k p .go) n) = maskAt (engineOf s n) := by simp [moveOn]

end Sys2Proof.Machine
end

section
/-! SUPPORT. Conversions (R33, R34, R37, R42): what they write to memory and to DST, and where. -/

namespace Sys2Proof.Machine

/-! Stores read no more of a state than its bytes and its retired lines. -/

/-- The two states hold the same bytes and the same retired lines. -/
structure SameBytes (s u : State) : Prop where
  mem     : u.mem = s.mem
  retired : u.rel.retired = s.rel.retired

theorem SeenAs.sameBytes {s u : State} {n : Nat} (h : SeenAs s u n) : SameBytes s u := ⟨h.mem, congrArg Rel.retired h.rel⟩

namespace SameBytes

variable {s u : State}

theorem memByte_eq (h : SameBytes s u) : memByte u = memByte s := by funext a; unfold memByte; rw [h.mem]

theorem memWrite (h : SameBytes s u) (a : Nat) (l : List Byte) : SameBytes (memWrite s a l) (memWrite u a l) := by
  refine ⟨?_, h.retired⟩
  rw [memWrite_mem, memWrite_mem, h.mem, retiredIn, retiredIn, h.retired]

theorem foldl {α : Type} {f g : State → α → State} (hfg : ∀ x s u, SameBytes s u → SameBytes (f s x) (g u x)) (xs : List α)
    (h : SameBytes s u) : SameBytes (xs.foldl f s) (xs.foldl g u) := by
  induction xs generalizing s u with
  | nil => exact h
  | cons x xs ih => exact ih (hfg x _ _ h)

theorem store (h : SameBytes s u) (t : Tensor) (r c v : Nat) : SameBytes (t.store s r c v) (t.store u r c v) := by
  unfold Tensor.store
  dsimp only
  rw [h.memByte_eq]
  split
  · exact h.memWrite _ _
  · exact h.memWrite _ _

theorem storeBlock (h : SameBytes s u) (t : Tensor) (r c scale : Nat) (l : List Nat) :
    SameBytes (t.storeBlock s r c scale l) (t.storeBlock u r c scale l) := (h.memWrite _ _).memWrite _ _

theorem storeConv (h : SameBytes s u) (t : Tensor) (v : Conv) : SameBytes (storeConv s t v) (storeConv u t v) := by
  unfold Machine.storeConv
  refine foldl (fun x s u h => ?_) _ (foldl (fun x s u h => ?_) _ h)
  · exact h.storeBlock t x.1 x.2.1 x.2.2.1 x.2.2.2
  · exact h.store t x.1 x.2.1 x.2.2

end SameBytes

/-! Stores leave everything but memory and its marks. -/

@[simp] theorem engineOf_store (t : Tensor) (s : State) (r c v n : Nat) : engineOf (t.store s r c v) n = engineOf s n := by
  unfold Tensor.store
  dsimp only
  split <;> rfl

@[simp] theorem engineOf_storeBlock (t : Tensor) (s : State) (r c scale : Nat) (l : List Nat) (n : Nat) :
    engineOf (t.storeBlock s r c scale l) n = engineOf s n := rfl

/-- Steps that each leave an engine do so together. -/
theorem engineOf_foldl {α : Type} {f : State → α → State} {n : Nat} (hf : ∀ s x, engineOf (f s x) n = engineOf s n)
    (xs : List α) (s : State) : engineOf (xs.foldl f s) n = engineOf s n := by
  induction xs generalizing s with
  | nil => rfl
  | cons x xs ih => exact (ih (f s x)).trans (hf s x)

@[simp] theorem engineOf_storeConv (s : State) (t : Tensor) (v : Conv) (n : Nat) : engineOf (storeConv s t v) n = engineOf s n := by
  have blocks := engineOf_foldl (n := n) (f := fun u (x : Nat × Nat × Nat × List Nat) => t.storeBlock u x.1 x.2.1 x.2.2.1 x.2.2.2)
    fun u x => engineOf_storeBlock t u x.1 x.2.1 x.2.2.1 x.2.2.2 n
  have elems := engineOf_foldl (n := n) (f := fun u (x : Nat × Nat × Nat) => t.store u x.1 x.2.1 x.2.2)
    fun u x => engineOf_store t u x.1 x.2.1 x.2.2 n
  rw [storeConv, blocks, elems]

/-! The bytes a tensor's stores change. -/

theorem SameMemoryBut.refl (l : List (Nat × Nat)) (s : State) : SameMemoryBut l s s := fun _ _ => rfl

theorem SameMemoryBut.trans {l : List (Nat × Nat)} {s t u : State} (h : SameMemoryBut l s t) (k : SameMemoryBut l t u) :
    SameMemoryBut l s u := fun a ha => (k a ha).trans (h a ha)

theorem SameMemoryBut.mono {l m : List (Nat × Nat)} {s t : State} (h : SameMemoryBut l s t) (hlm : l ⊆ m) :
    SameMemoryBut m s t := fun a ha => h a fun r hr => ha r (hlm hr)

theorem SameMemoryBut.foldl {α : Type} {l : List (Nat × Nat)} {f : State → α → State} (xs : List α) (s : State)
    (hf : ∀ x ∈ xs, ∀ t, SameMemoryBut l t (f t x)) : SameMemoryBut l s (xs.foldl f s) := by
  induction xs generalizing s with
  | nil => exact SameMemoryBut.refl l s
  | cons x xs ih =>
    exact (hf x List.mem_cons_self s).trans (ih (f s x) fun y hy => hf y (List.mem_cons_of_mem x hy))

theorem SameMemoryBut.of_memByte_eq {l : List (Nat × Nat)} {s t u : State} (h : SameMemoryBut l s t) (hu : u.mem = t.mem) :
    SameMemoryBut l s u := fun a ha => by
  rw [← h a ha]
  unfold memByte
  rw [hu]

/-- A write inside a listed range. -/
theorem memWrite_sameMemoryBut {l : List (Nat × Nat)} {r : Nat × Nat} (hr : r ∈ l) (s : State) {a : Nat} {b : List Byte}
    (hlo : r.1 ≤ a) (hhi : a + b.length ≤ r.1 + r.2) : SameMemoryBut l s (memWrite s a b) := by
  intro x hx
  have := hx r hr
  exact memByte_memWrite_outside (by omega)

namespace Tensor

/-- Line `i` of an element array begins inside it, with room for the whole line. -/
theorem line_in_size (t : Tensor) {i o : Nat} (hi : i < t.lines) (ho : 0 < o) (hline : o ≤ t.lineBytes) :
    i * (64 * t.pitch) + o ≤ t.size := by
  have hmul : i * (64 * t.pitch) ≤ (t.lines - 1) * (64 * t.pitch) := Nat.mul_le_mul_right _ (by omega)
  have hne : (decide (t.lines = 0) || decide (t.lineBytes = 0)) = false := by
    simp only [Bool.or_eq_false_iff, decide_eq_false_iff_not]
    omega
  rw [Tensor.size, hne]
  simp only [Bool.false_eq_true, if_false]
  omega

/-- An unscaled element lies in the element array. -/
theorem store_sameMemoryBut (t : Tensor) (hs : t.scaled = false) (s : State) {r c : Nat} (hr : r < t.rows) (hc : c < t.cols)
    (v : Nat) : SameMemoryBut t.ranges s (t.store s r c v) := by
  have hloc : (t.loc r c).1 = t.addr + r * (64 * t.pitch) + c * t.fmt.bits / 8 := by simp [Tensor.loc, Tensor.place, hs]
  have hlines : r < t.lines := by simpa [Tensor.lines, hs] using hr
  have hline : t.lineBytes = ceilDiv (t.cols * t.fmt.bits) 8 := by simp [Tensor.lineBytes, hs]
  unfold Tensor.store
  dsimp only
  split
  next hbits =>
    have hin := t.line_in_size (o := c * t.fmt.bits / 8 + 1) hlines (by omega) (by
      rw [hline, ceilDiv]
      cases hf : t.fmt <;> simp only [Fmt.bits, hf] at hbits ⊢ <;> omega)
    refine memWrite_sameMemoryBut List.mem_cons_self s ?_ ?_
    · rw [hloc]
      dsimp only
      omega
    · rw [hloc]
      simp only [List.length_singleton]
      omega
  next hbits =>
    have hin := t.line_in_size (o := c * t.fmt.bits / 8 + t.fmt.bits / 8) hlines
      (by cases hf : t.fmt <;> simp only [Fmt.bits, hf] at hbits ⊢ <;> omega) (by
      rw [hline, ceilDiv]
      cases hf : t.fmt <;> simp only [Fmt.bits, hf] at hbits ⊢ <;> omega)
    refine memWrite_sameMemoryBut List.mem_cons_self s ?_ ?_
    · rw [hloc]
      dsimp only
      omega
    · rw [hloc, leBytes_length]
      dsimp only
      omega

/-- A block and its scale byte, written at places of the two arrays. -/
theorem storeBlock_sameMemoryBut_of (t : Tensor) (s : State) {r c line off : Nat}
    (hloc : (t.loc r c).1 = t.addr + line * (64 * t.pitch) + off) (hline : line < t.lines)
    (hoff : off + 4 * t.fmt.bits ≤ t.lineBytes) (hlo : t.scale ≤ t.scaleLoc r c)
    (hhi : t.scaleLoc r c < t.scale + t.scaleSize) (scale : Nat) (l : List Nat) :
    SameMemoryBut t.ranges s (t.storeBlock s r c scale l) := by
  have hpos : 0 < 4 * t.fmt.bits := by cases t.fmt <;> decide
  have hin := t.line_in_size (o := off + 4 * t.fmt.bits) hline (by omega) hoff
  have helems : SameMemoryBut t.ranges s (memWrite s (t.loc r c).1 (packBlock t.fmt l)) := by
    refine memWrite_sameMemoryBut List.mem_cons_self s ?_ ?_
    · rw [hloc]
      dsimp only
      omega
    · rw [hloc, packBlock, leBytes_length]
      dsimp only
      omega
  refine helems.trans (memWrite_sameMemoryBut (List.mem_cons_of_mem _ List.mem_cons_self) _ hlo ?_)
  simp only [List.length_singleton]
  omega

/-- A block along a row: block `b` of row `r`. -/
theorem storeBlock_row_sameMemoryBut (t : Tensor) (hs : t.scaled = true) (ha : t.axis = 0) (s : State) {r b : Nat}
    (hr : r < t.rows) (hb : b < ceilDiv t.cols 32) (scale : Nat) (l : List Nat) :
    SameMemoryBut t.ranges s (t.storeBlock s r (32 * b) scale l) := by
  have hloc : (t.loc r (32 * b)).1 = t.addr + r * (64 * t.pitch) + b * (4 * t.fmt.bits) := by
    have : 32 * b * t.fmt.bits / 8 = b * (4 * t.fmt.bits) := by cases t.fmt <;> simp only [Fmt.bits] <;> omega
    simp [Tensor.loc, Tensor.place, ha, this]
  have hscale : t.scaleLoc r (32 * b) = t.scale + r * ceilDiv t.cols 32 + b := by
    rw [Tensor.scaleLoc, if_neg (by omega)]
    omega
  have hsize : t.scaleSize = t.rows * ceilDiv t.cols 32 := by simp [Tensor.scaleSize, hs, ha]
  have hrows : (r + 1) * ceilDiv t.cols 32 ≤ t.rows * ceilDiv t.cols 32 := Nat.mul_le_mul_right _ hr
  rw [Nat.succ_mul] at hrows
  refine t.storeBlock_sameMemoryBut_of s hloc (by simpa [Tensor.lines, ha] using hr) ?_ (by omega) (by omega) scale l
  have hmul : (b + 1) * (4 * t.fmt.bits) ≤ ceilDiv t.cols 32 * (4 * t.fmt.bits) := Nat.mul_le_mul_right _ hb
  rw [Nat.succ_mul] at hmul
  simpa [Tensor.lineBytes, hs, ha] using hmul

/-- A block along a column: block `b` of column `k`. -/
theorem storeBlock_column_sameMemoryBut (t : Tensor) (hs : t.scaled = true) (ha : t.axis = 1) (s : State) {b k : Nat}
    (hb : b < ceilDiv t.rows 32) (hk : k < t.cols) (scale : Nat) (l : List Nat) :
    SameMemoryBut t.ranges s (t.storeBlock s (32 * b) k scale l) := by
  have hloc : (t.loc (32 * b) k).1 = t.addr + b * (64 * t.pitch) + k * (4 * t.fmt.bits) := by
    have : k * 32 * t.fmt.bits / 8 = k * (4 * t.fmt.bits) := by cases t.fmt <;> simp only [Fmt.bits] <;> omega
    simp [Tensor.loc, Tensor.place, hs, ha, this]
  have hscale : t.scaleLoc (32 * b) k = t.scale + b * t.cols + k := by
    rw [Tensor.scaleLoc, if_pos ha, Nat.mul_div_cancel_left b (by decide)]
  have hsize : t.scaleSize = ceilDiv t.rows 32 * t.cols := by simp [Tensor.scaleSize, hs, ha]
  have hrows : (b + 1) * t.cols ≤ ceilDiv t.rows 32 * t.cols := Nat.mul_le_mul_right _ hb
  rw [Nat.succ_mul] at hrows
  refine t.storeBlock_sameMemoryBut_of s hloc (by simpa [Tensor.lines, hs, ha] using hb) ?_ (by omega) (by omega) scale l
  have hmul : (k + 1) * (4 * t.fmt.bits) ≤ t.cols * (4 * t.fmt.bits) := Nat.mul_le_mul_right _ hk
  rw [Nat.succ_mul] at hmul
  have hlineBytes : t.lineBytes = t.cols * (4 * t.fmt.bits) := by simp [Tensor.lineBytes, hs, ha, Nat.mul_assoc]
  omega

end Tensor

/-- The elements of a conversion lie in the rectangle of its program. -/
theorem convert_elems {s : State} {c : Ctx} {axis : Nat} {x : Nat × Nat × Nat} (hx : x ∈ (convert s c axis).elems) :
    iScaled c.word = false ∧ x.1 < c.prog.rows ∧ x.2.1 < c.prog.cols := by
  unfold convert at hx
  dsimp only at hx
  split at hx
  · cases hx
  next hscaled =>
    simp only [List.mem_map, List.mem_filter, Bool.and_eq_true, decide_eq_true_eq] at hx
    obtain ⟨-, ⟨y, ⟨-, ⟨⟨hr, -⟩, hc⟩, -⟩, rfl⟩, rfl⟩ := hx
    exact ⟨by simpa using hscaled, hr, hc⟩

/-- Its blocks begin at the origins of the rectangle's blocks. -/
theorem convert_blocks {s : State} {c : Ctx} {axis : Nat} {x : Nat × Nat × Nat × List Nat}
    (hx : x ∈ (convert s c axis).blocks) : iScaled c.word = true ∧ (x.1, x.2.1) ∈ blockOrigins c.prog axis := by
  unfold convert at hx
  dsimp only at hx
  split at hx
  next hscaled =>
    simp only [List.mem_map, List.mem_filterMap] at hx
    obtain ⟨y, ⟨o, ho, hy⟩, rfl⟩ := hx
    simp only [Option.ite_none_left_eq_some, Option.some.injEq] at hy
    obtain ⟨-, rfl⟩ := hy
    exact ⟨hscaled, ho⟩
  · cases hx

theorem mem_blockOrigins_row {p : Prog} {o : Nat × Nat} (h : o ∈ blockOrigins p 0) :
    ∃ b, o.2 = 32 * b ∧ o.1 < p.rows ∧ b < ceilDiv p.cols 32 := by
  simp only [blockOrigins, if_true, List.mem_flatMap, List.mem_map, List.mem_range] at h
  obtain ⟨r, hr, b, hb, rfl⟩ := h
  exact ⟨b, rfl, hr, hb⟩

theorem mem_blockOrigins_column {p : Prog} {o : Nat × Nat} (h : o ∈ blockOrigins p 1) :
    ∃ b, o.1 = 32 * b ∧ b < ceilDiv p.rows 32 ∧ o.2 < p.cols := by
  simp only [blockOrigins, one_ne_zero, if_false, colsOf, List.mem_flatMap, List.mem_map, List.mem_range] at h
  obtain ⟨b, hb, k, hk, rfl⟩ := h
  exact ⟨b, rfl, hb, hk⟩

/-- A conversion writes no byte outside its tensor and the tensor's scales. -/
theorem storeConv_sameMemoryBut (s u : State) (c : Ctx) (i : Nat) {axis : Nat} (ha : axis < 2) :
    SameMemoryBut (vecTensor s c i axis).ranges u (storeConv u (vecTensor s c i axis) (convert s c axis)) := by
  refine (SameMemoryBut.foldl _ u fun x hx v => ?_).trans (SameMemoryBut.foldl _ _ fun x hx v => ?_)
  · obtain ⟨hscaled, hr, hc⟩ := convert_elems hx
    exact Tensor.store_sameMemoryBut _ hscaled v hr hc _
  · obtain ⟨hscaled, horigin⟩ := convert_blocks hx
    obtain ⟨r, k, scale, l⟩ := x
    rcases (show axis = 0 ∨ axis = 1 by omega) with rfl | rfl
    · obtain ⟨b, hb, hr, hlt⟩ := mem_blockOrigins_row horigin
      dsimp only at hb hr ⊢
      exact hb ▸ Tensor.storeBlock_row_sameMemoryBut _ hscaled rfl v hr hlt scale l
    · obtain ⟨b, hb, hlt, hk⟩ := mem_blockOrigins_column horigin
      dsimp only at hb hk ⊢
      exact hb ▸ Tensor.storeBlock_column_sameMemoryBut _ hscaled rfl v hlt hk scale l

/-! A conversion reads no more than what an instruction sees. -/

section
variable {s u : State} {c : Ctx}

theorem SeenAs.arReg_eq (h : SeenAs s u c.eng) : arReg u c = arReg s c :=
  h.engine (fun e x => arAt (bankOf e c.cls) (x % 8)) fun _ => rfl

theorem SeenAs.vecTensor_eq (h : SeenAs s u c.eng) (i axis : Nat) : vecTensor u c i axis = vecTensor s c i axis := by
  unfold vecTensor
  rw [h.arReg_eq]

theorem SeenAs.tensorInside_eq (h : SeenAs s u c.eng) (t : Tensor) : tensorInside u c t = tensorInside s c t := by
  unfold tensorInside vecInside
  rw [h.records]

/-- Of its operation a rounding reads the descriptor and the context. -/
theorem SeenAs.vecRound_eq (h : SeenAs s u c.eng) : vecRound u c = vecRound s c := by
  funext r j
  have hop := h.progOp_asTaken c.prog
  unfold vecRound
  cases hs : progOp s c.prog with
  | none =>
    have hu : progOp u c.prog = none := by simpa [hs] using hop
    rw [hu]
  | some o =>
    obtain ⟨o', ho', htaken⟩ : ∃ o', progOp u c.prog = some o' ∧ o'.asTaken = o.asTaken := by simpa [hs] using hop
    obtain ⟨-, hctx, hdesc, -⟩ := asTaken_fields htaken
    rw [ho']
    dsimp only
    rw [hdesc, hctx, h.ctxSeed_eq]

theorem SeenAs.vecIeee_eq (h : SeenAs s u c.eng) : vecIeee u c = vecIeee s c := by
  have hop := h.progOp_asTaken c.prog
  unfold vecIeee
  cases hs : progOp s c.prog with
  | none =>
    have hu : progOp u c.prog = none := by simpa [hs] using hop
    rw [hu]
  | some o =>
    obtain ⟨o', ho', htaken⟩ : ∃ o', progOp u c.prog = some o' ∧ o'.asTaken = o.asTaken := by simpa [hs] using hop
    obtain ⟨-, -, hdesc, -⟩ := asTaken_fields htaken
    rw [ho']
    dsimp only
    rw [hdesc]

theorem SeenAs.convert_eq (h : SeenAs s u c.eng) (axis : Nat) : convert u c axis = convert s c axis := by
  unfold convert
  dsimp only
  rw [h.src1_eq, h.active_eq, h.vecRound_eq, h.vecIeee_eq]

end

/-! A conversion that is no final write. -/

theorem writeCopies_one {s : State} {c : Ctx} (h : tensorInside s c (vecTensor s c 0 (iAxis c.word)) = true) :
    writeCopies false s c = some (convert s c (iAxis c.word), .nothing,
      storeConv s (vecTensor s c 0 (iAxis c.word)) (convert s c (iAxis c.word))) := by
  unfold writeCopies
  simp only [Bool.false_eq_true, if_false, h, Bool.not_true, Bool.false_and, Bool.or_self]
  rfl

theorem writeCopies_both {s : State} {c : Ctx} (h0 : tensorInside s c (vecTensor s c 0 0) = true)
    (h1 : tensorInside s c (vecTensor s c 2 1) = true) :
    writeCopies true s c = some (convert s c 0, convert s c 1,
      storeConv (storeConv s (vecTensor s c 0 0) (convert s c 0)) (vecTensor s c 2 1) (convert s c 1)) := by
  unfold writeCopies
  simp only [if_true, h0, h1, Bool.not_true, Bool.and_false, Bool.or_self, Bool.false_eq_true, if_false]
  rfl

/-- DST takes what the first copy holds; the counts go to the operation alone. -/
theorem convStep_of_copies {both : Bool} {s u : State} {c : Ctx} {v v2 : Conv} (hfinal : c.final = false)
    (h : writeCopies (both || iDual c.word) s c = some (v, v2, u)) :
    ∃ t, convStep both s c = (t, .go) ∧ t.mem = u.mem ∧
      engineOf t c.eng = tagBuf (putTb (engineOf u c.eng) (iDst c.word) v.back) (iDst c.word) (tagOf c.word) := by
  refine ⟨_, by unfold convStep; rw [hfinal, h], ?_, ?_⟩
  · unfold noteCounts
    split <;> rfl
  · unfold noteCounts
    split
    · simp
    · exact engineOf_setEngine_same ..

/-- The buffers, slots, masks and place of a program whose word has put `l` into DST. -/
def PutsDst (s t : State) (n : Nat) (k : WorkClass) (p : Prog) (w : Nat) (l : List (Nat × Nat × Acc)) : Prop :=
  (∀ b r j, r < 2 ^ 22 → j < 2 ^ 22 → tbAt (engineOf t n) b r j =
    tbAt (if ownsTb k b = true then putTb (engineOf s n) (iDst w) l else engineOf s n) b r j) ∧
  (progOf (engineOf t n) k).map Prog.pc = some (p.pc + 1) ∧
  SameSlots (engineOf s n) (engineOf t n) ∧ SameMasks (engineOf s n) (engineOf t n)

section
variable {s : State} {n : Nat} {k : WorkClass} {p : Prog} {w : Nat}

/-- An effect that changes no more of its engine than a tile buffer, at its word. -/
theorem AtWord.putsDst (h : AtWord s n k p w) (hn : n < 4) {lo hi : Nat} (hlo : lo ≤ iOp w) (hhi : iOp w ≤ hi)
    (cost : Ctx → Nat) {f : State → Ctx → State × Next} {u : State} {l : List (Nat × Nat × Acc)} {lay : Layout}
    (hf : f (issuedAt s n k p w cost) (ctxAt s n k p w) = (u, .go))
    (hu : engineOf u n = tagBuf (putTb (engineOf (issuedAt s n k p w cost) n) (iDst w) l)
      (iDst w) lay) :
    (instrStep s n k lo hi cost f).mem = u.mem ∧ PutsDst s (instrStep s n k lo hi cost f) n k p w l := by
  have hseen := h.issued_seenAs hn cost
  rw [h.instrStep_eq hlo hhi cost f]
  dsimp only
  rw [hf]
  generalize issuedAt s n k p w cost = s1 at hu hseen ⊢
  obtain ⟨hshared, hslots, hmasks⟩ : (engineOf u n).shared = (engineOf s1 n).shared ∧
      (engineOf u n).slots = (engineOf s1 n).slots ∧ (engineOf u n).masks = (engineOf s1 n).masks := by
    rw [hu]
    exact ⟨rfl, rfl, rfl⟩
  refine ⟨rfl, fun b r j hr hj => ?_, moveOn_go_pc _ n k p, fun sl r => ?_, fun m r j => ?_⟩
  · rw [tbAt_moveOn_go, engineOf_confined, tbAt_confine hshared b hr hj, hseen.tbAt_eq, hu]
    split
    · unfold tbAt tagBuf putTb
      rw [hseen.tb, hseen.shared]
    · rfl
  · rw [slotAt_moveOn_go, engineOf_confined, slotAt_confine hslots hshared, hseen.slotAt_eq]
  · rw [maskAt_moveOn_go, engineOf_confined, maskAt_confine hmasks hshared, hseen.maskAt_eq]

/-- One copy: to the tensor at AR, along AXIS. -/
theorem AtWord.converts_one (h : AtWord s n k p w) (hn : n < 4) (hlo : 0x60 ≤ iOp w) (hhi : iOp w ≤ 0x6F)
    (hfinal : (ctxAt s n k p w).final = false) (hdual : iDual w = false) (cost : Ctx → Nat) :
    let c := ctxAt s n k p w
    let T := vecTensor s c 0 (iAxis w)
    tensorInside s c T = true → ∃ t, instrStep s n k 0x60 0x6F cost (convStep false) = t ∧
      t.mem = (storeConv s T (convert s c (iAxis w))).mem ∧
      SameMemoryBut T.ranges s t ∧ PutsDst s t n k p w (convert s c (iAxis w)).back := by
  intro c T hinside
  have hseen : SeenAs s (issuedAt s n k p w cost) c.eng := h.issued_seenAs hn cost
  have hcopies := writeCopies_one (s := issuedAt s n k p w cost) (c := c) (by rw [hseen.vecTensor_eq, hseen.tensorInside_eq]; exact hinside)
  rw [hseen.vecTensor_eq, hseen.convert_eq] at hcopies
  obtain ⟨u, hu, hmem, hengine⟩ := convStep_of_copies (both := false) hfinal (by rw [show iDual c.word = false from hdual]; exact hcopies)
  rw [engineOf_storeConv] at hengine
  obtain ⟨htmem, hput⟩ := h.putsDst hn hlo hhi cost hu hengine
  have hbytes : u.mem = (storeConv s T (convert s c (iAxis w))).mem := hmem.trans (hseen.sameBytes.storeConv _ _).mem
  have haxis : iAxis w < 2 := Nat.mod_lt _ (by decide)
  exact ⟨_, rfl, htmem.trans hbytes,
    (storeConv_sameMemoryBut s s c 0 haxis).of_memByte_eq (htmem.trans hbytes), hput⟩

/-- Both copies (R34): along rows to the tensor at AR, along columns to the one at AR + 2; DST takes the first. -/
theorem AtWord.converts_both (h : AtWord s n k p w) (hn : n < 4) (hlo : 0x60 ≤ iOp w) (hhi : iOp w ≤ 0x6F)
    (hfinal : (ctxAt s n k p w).final = false) {both : Bool} (hdual : (both || iDual w) = true) (cost : Ctx → Nat) :
    let c := ctxAt s n k p w
    let T0 := vecTensor s c 0 0
    let T1 := vecTensor s c 2 1
    tensorInside s c T0 = true → tensorInside s c T1 = true →
    ∃ t, instrStep s n k 0x60 0x6F cost (convStep both) = t ∧
      t.mem = (storeConv (storeConv s T0 (convert s c 0)) T1 (convert s c 1)).mem ∧
      SameMemoryBut (T0.ranges ++ T1.ranges) s t ∧
      PutsDst s t n k p w (convert s c 0).back := by
  intro c T0 T1 h0 h1
  have hseen : SeenAs s (issuedAt s n k p w cost) c.eng := h.issued_seenAs hn cost
  have hcopies := writeCopies_both (s := issuedAt s n k p w cost) (c := c)
    (by rw [hseen.vecTensor_eq, hseen.tensorInside_eq]; exact h0) (by rw [hseen.vecTensor_eq, hseen.tensorInside_eq]; exact h1)
  rw [hseen.vecTensor_eq, hseen.vecTensor_eq, hseen.convert_eq, hseen.convert_eq] at hcopies
  obtain ⟨u, hu, hmem, hengine⟩ := convStep_of_copies (both := both) hfinal
    (by rw [show iDual c.word = iDual w from rfl, hdual]; exact hcopies)
  rw [engineOf_storeConv, engineOf_storeConv] at hengine
  obtain ⟨htmem, hput⟩ := h.putsDst hn hlo hhi cost hu hengine
  have hbytes := hmem.trans ((hseen.sameBytes.storeConv T0 (convert s c 0)).storeConv T1 (convert s c 1)).mem
  have hfirst := storeConv_sameMemoryBut s s c 0 (axis := 0) (by decide)
  have hsecond := storeConv_sameMemoryBut s (storeConv s T0 (convert s c 0)) c 2 (axis := 1) (by decide)
  exact ⟨_, rfl, htmem.trans hbytes, ((hfirst.mono (List.subset_append_left ..)).trans
    (hsecond.mono (List.subset_append_right ..))).of_memByte_eq (htmem.trans hbytes),
    hput⟩

end

end Sys2Proof.Machine
end

section
/-! SUPPORT. The final write of an epilogue (R101), microcode (R129), and what the statement of conversions comes to. -/

namespace Sys2Proof.Machine

/-! The final write of an epilogue (R101). Under R81 it reads the accumulate-in tile, and of a byte that the destination
shares the value before the write or after it, by a free choice (R97, log 118). -/

/-- Writing operation `o` from `s` and `o'` from `u` goes alike: the same descriptor, masks and seed, and memory as the
operand reads see it. -/
structure WritesAlike (s u : State) (o o' : Op) : Prop where
  desc    : o'.desc = o.desc
  zeroK   : o'.zeroK = o.zeroK
  rowMask : o'.rowMask = o.rowMask
  colMask : o'.colMask = o.colMask
  seed    : ctxSeed u o'.ctx = ctxSeed s o.ctx
  view    : (operandView u o').mem = (operandView s o).mem

theorem raw_congr {s u : State} (h : u.mem = s.mem) (t : Tensor) : t.raw u = t.raw s := by
  funext r c
  unfold Tensor.raw memVal memRead memByte
  rw [h]

theorem accClean_congr {s u : State} (h : u.mem = s.mem) (d : Nat) : accClean u d = accClean s d := by
  funext i j
  unfold accClean memByte
  rw [raw_congr h, h]

theorem keptBlock_congr {s u : State} (h : u.mem = s.mem) (d : Nat) : keptBlock u d = keptBlock s d := by
  funext at_ l
  unfold keptBlock memByte
  rw [raw_congr h, h]

namespace WritesAlike

variable {s u : State} {o o' : Op}

theorem roundMode_eq (h : WritesAlike s u o o') : roundMode u o' = roundMode s o := by
  funext row col
  unfold roundMode
  rw [h.desc, h.seed]

theorem keepsBits_eq (h : WritesAlike s u o o') : keepsBits (operandView u o') o' = keepsBits (operandView s o) o := by
  funext i cols
  unfold keepsBits
  dsimp only
  rw [h.desc, h.zeroK, h.rowMask, h.colMask, accClean_congr h.view]

theorem destBlock_eq (h : WritesAlike s u o o') : destBlock u o' = destBlock s o := by
  funext kept at_ l
  unfold destBlock
  dsimp only
  rw [h.desc, keptBlock_congr h.view]

theorem rowPieces_eq (h : WritesAlike s u o o') : rowPieces u o' = rowPieces s o := by
  funext cols row vals
  unfold rowPieces
  rw [h.desc, h.roundMode_eq, h.keepsBits_eq, h.destBlock_eq]

theorem groupPieces_eq (h : WritesAlike s u o o') : groupPieces u o' = groupPieces s o := by
  funext copy2 cols g rows
  unfold groupPieces
  rw [h.desc, h.roundMode_eq, h.keepsBits_eq, h.destBlock_eq]

theorem tilePieces_eq (h : WritesAlike s u o o') : tilePieces u o' = tilePieces s o := by
  funext cols rows
  unfold tilePieces
  rw [h.desc, h.rowPieces_eq, h.groupPieces_eq]

theorem maskedPieces_eq (h : WritesAlike s u o o') : maskedPieces u o' = maskedPieces s o := by
  funext t
  unfold maskedPieces tileActive actRows actCols
  rw [h.desc, h.rowMask, h.colMask, h.rowPieces_eq, h.groupPieces_eq]

end WritesAlike

theorem SameBytes.applyPiece {s u : State} (h : SameBytes s u) (d : Nat) (x : Piece) :
    SameBytes (applyPiece d s x) (applyPiece d u x) := by
  cases x with
  | elem c2 r c v => exact h.store _ r c v
  | block c2 r c sc l => exact h.storeBlock _ r c sc l

/-- The pieces of an epilogue's final write: the run's values, and the zeros of its masked positions. -/
def finalPieces (s : State) (c : Ctx) (o : Op) : List Piece :=
  (tilePieces s o ((colsOf c.prog).map (· + c.prog.col0)) (epiRows s c o)).1 ++
    (tilesOfRun o c.prog).flatMap (maskedPieces s o)

theorem WritesAlike.finalPieces_eq {s u : State} {o o' : Op} {c : Ctx} (hw : WritesAlike s u o o')
    (hengine : (engineOf u c.eng).contents = (engineOf s c.eng).contents) (htag : o'.tag = o.tag) :
    finalPieces u c o' = finalPieces s c o := by
  have hsrc : src1 (engineOf u c.eng) c = src1 (engineOf s c.eng) c :=
    Engine.eq_of_contents hengine (fun e => src1 e c) fun _ => rfl
  have hactive : active (engineOf u c.eng) c = active (engineOf s c.eng) c :=
    Engine.eq_of_contents hengine (fun e => active e c) fun _ => rfl
  have hrows : epiRows u c o' = epiRows s c o := by
    unfold epiRows
    dsimp only
    rw [hsrc, hactive, htag]
  unfold finalPieces tilesOfRun opTiles
  dsimp only
  rw [hw.desc, hw.tilePieces_eq, hw.maskedPieces_eq, hrows]

/-- What a final write leaves in memory are its pieces. -/
theorem epiWrite_mem {s u : State} (h : SameBytes s u) (c : Ctx) (o : Op) :
    (epiWrite u c o).mem = ((finalPieces u c o).foldl (applyPiece o.desc.toNat) s).mem := by
  have hpieces := fun (l : List Piece) (e : Engine) =>
    SameBytes.foldl (f := applyPiece o.desc.toNat) (fun x _ _ h => h.applyPiece _ x) l
      (show SameBytes s (setEngine u c.eng e) from ⟨h.mem, h.retired⟩)
  unfold epiWrite
  dsimp only
  rw [updOp_mem]
  exact (hpieces _ _).mem

theorem engineOf_applyPiece (d : Nat) (s : State) (x : Piece) (n : Nat) : engineOf (applyPiece d s x) n = engineOf s n := by
  cases x with
  | elem c2 r c v => exact engineOf_store _ s r c v n
  | block c2 r c sc l => rfl

/-- Of its engine a final write changes no more than DST. -/
theorem engineOf_epiWrite (s : State) (c : Ctx) (o : Op) :
    ∃ l lay, engineOf (epiWrite s c o) c.eng = tagBuf (putTb (engineOf s c.eng) (iDst c.word) l) (iDst c.word) lay := by
  refine ⟨_, _, (engineOf_foldl (f := applyPiece o.desc.toNat) (fun s x => engineOf_applyPiece _ s x c.eng) _ _).trans
    (engineOf_setEngine_same ..)⟩

theorem SameBytes.operandView {s u : State} (h : SameBytes s u) {o o' : Op} (hb : o'.before = o.before)
    (hc : ∀ a, (Config.freeValue (u.freeCtr + a)).testBit 0 = (Config.freeValue (s.freeCtr + a)).testBit 0) :
    SameBytes (operandView s o) (operandView u o') := by
  unfold Machine.operandView
  rw [hb]
  refine SameBytes.foldl (fun e s' u' h' => ?_) _ h
  rw [hc]
  split
  · exact h'.memWrite _ _
  · exact h'

/-- An operation that has not ended ends with the status. -/
theorem findOp_endOp {s : State} {tag : Nat} {o : Op} (st : Nat) (ho : findOp s tag = some o) (hended : o.ended = false) :
    ∃ o', findOp (endOp s tag st) tag = some o' ∧ o'.ended = true ∧ o'.status = st := by
  refine ⟨_, findOp_updOp_same (fun o => ?_) ho, ?_, ?_⟩
  · split <;> rfl
  · simp [hended]
  · simp [hended]

/-- A program of a context that is stopped frees its engine, and its operation ends with the status. -/
theorem stopProg_program {s : State} {p : Prog} {tg : Nat} {o : Op} (n st : Nat) (htg : p.tag = some tg)
    (ho : findOp s tg = some o) (hended : o.ended = false) :
    (engineOf (stopProg s n .program p st) n).run = none ∧ (stopProg s n .program p st).mem = s.mem ∧
      ∃ o', findOp (stopProg s n .program p st) tg = some o' ∧ o'.ended = true ∧ o'.status = st := by
  have hstop : stopProg s n .program p st =
      nextFree (updOp (endOp (setEngine (dropWaits s n p) n { engineOf s n with run := none }) tg st) tg
        (fun o => { o with energy := Config.energyEstimate s.freeCtr })) := by
    unfold stopProg
    simp only [htg]
    rfl
  obtain ⟨o', ho', hend', hst'⟩ := findOp_endOp
    (s := setEngine (dropWaits s n p) n { engineOf s n with run := none }) st ho hended
  have henergy := findOp_updOp_same (f := fun o => { o with energy := Config.energyEstimate s.freeCtr }) (fun _ => rfl) ho'
  rw [hstop]
  refine ⟨?_, rfl, _, henergy, ?_, ?_⟩
  · exact congrArg Engine.run (engineOf_setEngine_same (dropWaits s n p) n _)
  · rw [Op.stamp_ended]
    exact hend'
  · rw [Op.stamp_status]
    exact hst'

/-- States that an instruction sees alike, with like free choices, leave the same bytes of a final write. -/
theorem SeenAs.epiWrite_mem_eq {s u : State} {c : Ctx} {o o' : Op} (h : SeenAs s u c.eng) (htaken : o'.asTaken = o.asTaken)
    (hc : ∀ a, (Config.freeValue (u.freeCtr + a)).testBit 0 = (Config.freeValue (s.freeCtr + a)).testBit 0) :
    (epiWrite u c o').mem = (epiWrite s c o).mem := by
  obtain ⟨htag, hctx, hdesc, hzero, hrow, hcol, hbefore, -⟩ := asTaken_fields htaken
  have halike : WritesAlike s u o o' := ⟨hdesc, hzero, hrow, hcol, by rw [hctx, h.ctxSeed_eq],
    (h.sameBytes.operandView hbefore hc).mem⟩
  rw [epiWrite_mem h.sameBytes, epiWrite_mem ⟨rfl, rfl⟩, halike.finalPieces_eq h.contents htag, hdesc]

section
variable {s : State} {n : Nat} {k : WorkClass} {p : Prog} {w : Nat}

/-- An epilogue's last conversion is its final write, with the free choices of its own word. -/
theorem AtWord.writes_final (h : AtWord s n k p w) (hn : n < 4) (hlo : 0x60 ≤ iOp w) (hhi : iOp w ≤ 0x6F)
    (hfinal : (ctxAt s n k p w).final = true) {o : Op} (ho : (ctxAt s n k p w).op = some o) (both : Bool) (cost : Ctx → Nat) :
    ∃ t u o' l, instrStep s n k 0x60 0x6F cost (convStep both) = t ∧ SeenAs s u n ∧ u.freeCtr = s.freeCtr + 2 ^ 50 ∧
      o'.asTaken = o.asTaken ∧ t.mem = (epiWrite u (ctxAt s n k p w) o').mem ∧ PutsDst s t n k p w l := by
  have hseen : SeenAs s (issuedAt s n k p w cost) n := h.issued_seenAs hn cost
  obtain ⟨o', ho', htaken⟩ : ∃ o', progOp (issuedAt s n k p w cost) p = some o' ∧ o'.asTaken = o.asTaken := by
    have hop := hseen.progOp_asTaken p
    rw [show progOp s p = some o from ho] at hop
    simpa using hop
  have hstep : convStep both (issuedAt s n k p w cost) (ctxAt s n k p w) =
      (epiWrite (issuedAt s n k p w cost) (ctxAt s n k p w) o', .go) := by
    unfold convStep
    rw [hfinal, show progOp _ (ctxAt s n k p w).prog = some o' from ho']
  obtain ⟨l, lay, hengine⟩ := engineOf_epiWrite (issuedAt s n k p w cost) (ctxAt s n k p w) o'
  obtain ⟨hmem, hput⟩ := h.putsDst hn hlo hhi cost hstep hengine
  exact ⟨_, _, o', l, rfl, hseen, h.issued_freeCtr _, htaken, hmem, hput⟩

/-! Microcode. -/

/-- A microcode word stops a program of a context with MODE_ERROR (R129). -/
theorem AtWord.microcode_stops (h : AtWord s n .program p w) (hlo : 0xF0 ≤ iOp w) (hhi : iOp w ≤ 0xFF) (cost : Ctx → Nat)
    {tg : Nat} {o : Op} (htg : p.tag = some tg) (ho : findOp s tg = some o) (hended : o.ended = false) (hn : n < 4) :
    ∃ t o', instrStep s n .program 0xF0 0xFF cost (fun s _ => (s, .stop stMode)) = t ∧ (engineOf t n).run = none ∧
      findOp t tg = some o' ∧ o'.ended = true ∧ o'.status = stMode ∧ t.mem = s.mem := by
  have hseen : SeenAs s (issuedAt s n .program p w cost) n := h.issued_seenAs hn cost
  obtain ⟨o1, ho1, htaken⟩ : ∃ o1, findOp (issuedAt s n .program p w cost) tg = some o1 ∧
      o1.asTaken = o.asTaken := by
    have hop := hseen.ops tg
    rw [ho] at hop
    simpa using hop
  obtain ⟨-, -, -, -, -, -, -, hended1⟩ := asTaken_fields htaken
  obtain ⟨hrun, hmem, o', ho', hend', hst'⟩ := stopProg_program
    (s := confined (issuedAt s n .program p w cost) (issuedAt s n .program p w cost) n .program) n stMode htg ho1 (hended1.trans hended)
  exact ⟨_, o', h.instrStep_eq hlo hhi cost _, hrun, ho', hend', hst', hmem.trans hseen.mem⟩

end

theorem tbAt_forgetShared (e : Engine) (base : Nat) {b r j : Nat} (hb : b < 3) (hr : r < 2 ^ 22) (hj : j < 2 ^ 22) :
    tbAt (forgetShared e base) b r j = tbAt e b r j := by
  have hkey : tkey b r j < 3 * 2 ^ 44 := by simp only [tkey]; omega
  unfold tbAt forgetShared
  dsimp only
  rw [SMap.find_dropRange_outside _ (.inl hkey)]
  congr 1
  cases e.shared <;> simp [Nat.ne_of_lt hb]

theorem slotAt_forgetShared (e : Engine) (base : Nat) {sl r : Nat} (hsl : sl < 32) (hr : r < 2 ^ 22) :
    slotAt (forgetShared e base) sl r = slotAt e sl r := by
  have hkey : skey sl r < 32 * 2 ^ 22 := by simp only [skey]; omega
  unfold slotAt forgetShared
  dsimp only
  rw [SMap.find_dropRange_outside _ (.inl hkey)]
  congr 1
  cases e.shared <;> simp [Nat.not_le.mpr hsl]

theorem maskAt_forgetShared (e : Engine) (base : Nat) {m r j : Nat} (hm : m < 2) (hr : r < 2 ^ 22) (hj : j < 2 ^ 22) :
    maskAt (forgetShared e base) m r j = maskAt e m r j := by
  have hkey : tkey m r j < 2 * 2 ^ 44 := by simp only [tkey]; omega
  unfold maskAt forgetShared
  dsimp only
  rw [SMap.find_dropRange_outside _ (.inl hkey)]
  congr 1
  cases e.shared <;> simp [Nat.not_le.mpr hm]

/-- A microcode word of Gwevi's own classes leaves what programs and epilogues hold (log 40). -/
theorem microcode_of_gwevi {s : State} {e : EngineId} {k : WorkClass} (hk : k = .update ∨ k = .sieve)
    (hrun : mayRun s e k = true) :
    exec (.microcodeInstruction e k) s = .next { setEngine s e (forgetShared (engineOf s e) s.freeCtr) with
      freeCtr := s.freeCtr + 2 ^ 50 } := by
  have hclass : ¬ (k = .epilogue ∨ k = .program) := by rcases hk with rfl | rfl <;> decide
  show execMicrocodeInstruction e k s = _
  unfold execMicrocodeInstruction
  simp [hclass, hrun]

/-- The free choices of a word, drawn 2^50 further on, go as those drawn in the state before it. -/
def ChoicesRepeat : Prop := ∀ x, (Config.freeValue (x + 2 ^ 50)).testBit 0 = (Config.freeValue x).testBit 0

theorem AtWord.writes_final_of_choicesRepeat {s : State} {n : Nat} {k : WorkClass} {p : Prog} {w : Nat}
    (h : AtWord s n k p w) (hrep : ChoicesRepeat) (hn : n < 4) (hlo : 0x60 ≤ iOp w) (hhi : iOp w ≤ 0x6F)
    (hfinal : (ctxAt s n k p w).final = true) {o : Op} (ho : (ctxAt s n k p w).op = some o) (both : Bool) (cost : Ctx → Nat) :
    (instrStep s n k 0x60 0x6F cost (convStep both)).mem = (epiWrite s (ctxAt s n k p w) o).mem ∧
      ∃ l, PutsDst s (instrStep s n k 0x60 0x6F cost (convStep both)) n k p w l := by
  obtain ⟨t, u, o', l, rfl, hseen, hctr, htaken, hmem, hput⟩ := h.writes_final hn hlo hhi hfinal ho both cost
  refine ⟨hmem.trans (SeenAs.epiWrite_mem_eq (c := ctxAt s n k p w) hseen htaken fun a => ?_), l, hput⟩
  rw [hctr, Nat.add_right_comm]
  exact hrep _

theorem conversionsWriteTheirTensors_of_choicesRepeat (hrep : ChoicesRepeat) : Obligations.ConversionsWriteTheirTensors := by
  intro s e k p w
  refine ⟨fun h hlo hhi => ⟨fun hfinal => ⟨fun hdual hin => ?_, fun h0 h1 => ?_⟩, fun hfinal o ho i hi => ?_⟩,
    fun h hlo hhi tg o htg ho hended => ?_, fun hk hrun => ?_⟩
  · obtain ⟨t, rfl, hmem, hbut, htb, hpc, hslots, hmasks⟩ := h.converts_one e.isLt hlo hhi hfinal hdual costConv hin
    exact ⟨⟨_, rfl, hmem, hbut, htb, hpc, hslots, hmasks⟩, ⟨_, rfl, hmem, hbut, htb, hpc, hslots, hmasks⟩⟩
  · have both := fun (b : Bool) hb cost => h.converts_both e.isLt hlo hhi hfinal (both := b) hb cost h0 h1
    obtain ⟨t, rfl, hmem, hbut, htb, hpc, hslots, hmasks⟩ := both true rfl costDual
    refine ⟨⟨_, rfl, hmem, hbut, htb, hpc, hslots, hmasks⟩, fun hdual => ?_⟩
    obtain ⟨t, rfl, hmem, hbut, htb, hpc, hslots, hmasks⟩ := both false hdual costConv
    exact ⟨⟨_, rfl, hmem, hbut, htb, hpc, hslots, hmasks⟩, ⟨_, rfl, hmem, hbut, htb, hpc, hslots, hmasks⟩⟩
  · have final := fun both cost => h.writes_final_of_choicesRepeat hrep e.isLt hlo hhi hfinal ho both cost
    simp only [List.mem_cons, List.not_mem_nil, or_false] at hi
    rcases hi with rfl | rfl | rfl
    · obtain ⟨hmem, l, -, hdone⟩ := final false costConv
      exact ⟨_, rfl, hmem, hdone⟩
    · obtain ⟨hmem, l, -, hdone⟩ := final false costConv
      exact ⟨_, rfl, hmem, hdone⟩
    · obtain ⟨hmem, l, -, hdone⟩ := final true costDual
      exact ⟨_, rfl, hmem, hdone⟩
  · obtain ⟨t, o', rfl, hstop⟩ := h.microcode_stops hlo hhi cost1 htg ho hended e.isLt
    exact ⟨_, o', rfl, hstop⟩
  · refine ⟨_, microcode_of_gwevi hk hrun, rfl, rfl, rfl, fun b r j hb hr hj => ?_, fun sl r hsl hr => ?_,
      fun m r j hm hr hj => ?_, ?_, fun m hm => ?_⟩
    · exact (congrArg (tbAt · b r j) (engineOf_setEngine_same s e _)).trans (tbAt_forgetShared _ _ hb hr hj)
    · exact (congrArg (slotAt · sl r) (engineOf_setEngine_same s e _)).trans (slotAt_forgetShared _ _ hsl hr)
    · exact (congrArg (maskAt · m r j) (engineOf_setEngine_same s e _)).trans (maskAt_forgetShared _ _ hm hr hj)
    · have hset := engineOf_setEngine_same s e (forgetShared (engineOf s e) s.freeCtr)
      have hbankE := congrArg Engine.bankE hset
      have hbankP := congrArg Engine.bankP hset
      exact ⟨hbankE, hbankP⟩
    · exact engineOf_setEngine_ne s _ hm

/-! The choice of one byte seen in the bytes of a final write. -/

/-- An epilogue of one word over one position, at its only conversion. -/
def finalWord : Prog :=
  { cls := .epilogue, ctx := 0, tag := some 0, base := 0x1000, len := 1, pc := 0, rows := 1, cols := 1, loops := [],
    saved := none, waiting := false, empty := false, part := 0, row0 := 0, col0 := 0, rowOff := 0, colOff := 0, tileW := 0 }

/-- M = N = 1 and K = 0 with an accumulate-in tile, in E4M3 with scales: the destination's scale lies at 4000h, the
tile's at 0. -/
def keepingDesc : Nat :=
  2 ^ (64 + 7) + 2 ^ (64 * 3) + 2 ^ (64 * 3 + 20) + (0x3000 + 3 * 2 ^ 44 + 2 ^ 48) * 2 ^ (64 * 8) + 0x4000 * 2 ^ (64 * 9) +
    0x5000 * 2 ^ (64 * 12)

/-- Its operation, which shares the tile's scale byte: it was 1 when the operation began, and is 0 now (R97). -/
def keepingOp : Op :=
  { newOp State.reset 0 0 0 .matrix (BitVec.ofNat 1024 keepingDesc) with zeroK := true, before := [(0, 1)] }

/-- The epilogue at that word on engine 0. -/
def atFinalWord : State :=
  { State.reset with mem := [(0x1000, 0x60)], ops := [keepingOp], engines := [(0, { Engine.fresh with epi := some finalWord })] }

/-- The same where the free values stand at `x`. -/
def atFinalWordFrom (x : Nat) : State := { atFinalWord with freeCtr := x }

theorem atFinalWordFrom_seenAs (x : Nat) : SeenAs atFinalWord (atFinalWordFrom x) 0 :=
  ⟨rfl, rfl, fun _ => rfl, rfl, fun _ => rfl⟩

theorem atFinalWordFrom_atWord (x : Nat) : AtWord (atFinalWordFrom x) 0 .epilogue finalWord 0x60 where
  turn := show mayRun atFinalWord 0 .epilogue = true by decide +kernel
  cls := .inl rfl
  held := rfl
  runs := rfl
  place := by decide
  word := show wordAt atFinalWord finalWord = 0x60 by decide +kernel
  clean := show rangePoisoned atFinalWord 0x1000 8 = false by decide +kernel
  rect := by decide

/-- What the instruction at that word sees. -/
def finalCtx : Ctx := ctxAt atFinalWord 0 .epilogue finalWord 0x60

/-- Memory as the operand reads of that write see it, the shared byte before the write (`true`) or after it. -/
def keepingView (before : Bool) : State :=
  { atFinalWord with mem := if before then (memWrite atFinalWord 0 [1]).mem else atFinalWord.mem }

/-- The scale byte that the write leaves by each choice. -/
theorem scale_of_keepingView (before : Bool) :
    memByte ((finalPieces (keepingView before) finalCtx { keepingOp with before := [] }).foldl (applyPiece keepingDesc)
      atFinalWord) 0x4000 = if before then 1 else 0 := by
  revert before
  decide +kernel

/-- The scale byte of the destination tells the choice of the shared byte. -/
theorem scale_of_finalWrite {u : State} {o : Op} (h : SeenAs atFinalWord u 0) (ho : o.asTaken = keepingOp.asTaken) (b : Nat) :
    memByte (epiWrite u { finalCtx with base := b } o) 0x4000 = if (Config.freeValue u.freeCtr).testBit 0 then 1 else 0 := by
  obtain ⟨htag, hctx, hdesc, hzero, hrow, hcol, hbefore, -⟩ := asTaken_fields ho
  have hview : (operandView u o).mem = (keepingView ((Config.freeValue u.freeCtr).testBit 0)).mem := by
    unfold operandView keepingView
    rw [hbefore]
    show State.mem (if (Config.freeValue u.freeCtr).testBit 0 then memWrite u 0 [1] else u) = _
    dsimp only
    split
    · exact (h.sameBytes.memWrite 0 [1]).mem
    · exact h.mem
  have halike : WritesAlike (keepingView ((Config.freeValue u.freeCtr).testBit 0)) u { keepingOp with before := [] } o :=
    ⟨hdesc, hzero, hrow, hcol, by rw [hctx, h.ctxSeed_eq]; rfl, hview⟩
  have hpieces : finalPieces u { finalCtx with base := b } o = finalPieces u finalCtx o := rfl
  have hkeep : o.desc.toNat = keepingDesc := by
    rw [hdesc]
    decide +kernel
  rw [← scale_of_keepingView, ← halike.finalPieces_eq (c := finalCtx) h.contents htag]
  unfold memByte
  rw [epiWrite_mem h.sameBytes, hpieces, hkeep]

/-- Choices that give the same byte are the same. -/
theorem choice_iff {p q : Prop} [Decidable p] [Decidable q]
    (h : (if p then (1 : Byte) else 0) = if q then 1 else 0) : p ↔ q := by
  by_cases hp : p <;> by_cases hq : q <;> simp_all

/-- The statement asks of the free values that their choices repeat: a final write draws its own, and the statement names
those of the state before it. -/
theorem choicesRepeat_of_conversionsWriteTheirTensors (h : Obligations.ConversionsWriteTheirTensors) : ChoicesRepeat := by
  intro x
  have hat := atFinalWordFrom_atWord x
  have hfinal : (ctxAt (atFinalWordFrom x) 0 .epilogue finalWord 0x60).final = true :=
    show finalCtx.final = true by decide +kernel
  obtain ⟨t, ht, hnamed, -⟩ := ((h (atFinalWordFrom x) 0 .epilogue finalWord 0x60).1 hat (by decide) (by decide)).2
    hfinal keepingOp rfl (.cvt 0 .epilogue) List.mem_cons_self
  obtain ⟨t', u, o, l, ht', hseen, hctr, htaken, hown, -⟩ := hat.writes_final (by decide) (by decide) (by decide)
    hfinal (o := keepingOp) rfl false costConv
  have hsame : t = t' := (Host.Outcome.next.inj ht).symm.trans ht'
  have hmem : (epiWrite u { finalCtx with base := x } o).mem =
      (epiWrite (atFinalWordFrom x) { finalCtx with base := x } keepingOp).mem :=
    hown.symm.trans ((congrArg State.mem hsame.symm).trans hnamed)
  have hbytes := congrArg (SMap.get · 0x4000 0) hmem
  have own := scale_of_finalWrite ((atFinalWordFrom_seenAs x).trans hseen) htaken x
  have named := scale_of_finalWrite (atFinalWordFrom_seenAs x) (o := keepingOp) rfl x
  rw [hctr] at own
  exact Bool.eq_iff_iff.mpr (choice_iff (own.symm.trans (hbytes.trans named)))

/-- O20 comes to a claim about the free values (log 3), which have no body, so that no proof can see whether it is so. Its
clause of the final write names the choices of R97 (log 118) as drawn in the state before the word, and the word draws its
own, 2^50 further on. Every other clause holds: `AtWord.converts_one`, `AtWord.converts_both`, `AtWord.microcode_stops`,
`microcode_of_gwevi`. -/
theorem conversionsWriteTheirTensors_iff_choicesRepeat : Obligations.ConversionsWriteTheirTensors ↔ ChoicesRepeat :=
  ⟨choicesRepeat_of_conversionsWriteTheirTensors, conversionsWriteTheirTensors_of_choicesRepeat⟩

end Sys2Proof.Machine
end

section
/-! SUPPORT. A wave inside a tile (R62 to R68), and the row that the output stage takes (R69 to R71). -/

namespace Sys2Proof.Machine

/-! Partitions. -/

@[simp] theorem partOf_setPart_same (s : State) (k : Nat) (p : Partition) : partOf (setPart s k p) k = p := by
  simp [partOf, setPart]

theorem partOf_setPart_ne (s : State) {k j : Nat} (p : Partition) (h : j ≠ k) : partOf (setPart s k p) j = partOf s j := by
  simp [partOf, setPart, SMap.get_set_ne _ _ _ h]

/-- A drain step moves rows from the drain to the stage, and leaves the cells and the stream. -/
theorem drainStep_fields (p : Partition) : (drainStep p).ops = p.ops ∧ (drainStep p).begun = p.begun ∧
    (drainStep p).startup = p.startup ∧ (drainStep p).flights = p.flights := by
  unfold drainStep
  split
  · exact ⟨rfl, rfl, rfl, rfl⟩
  · exact ⟨rfl, rfl, rfl, rfl⟩

/-! Interrupt sources: what raising one leaves alone. -/

/-- `t` is `s` but for BAR0 registers, the interrupt controller and what the device puts out. -/
def SignalsOnly (s t : State) : Prop := ∃ bar irq out, t = { s with bar := bar, irq := irq, out := out }

theorem SignalsOnly.refl (s : State) : SignalsOnly s s := ⟨s.bar, s.irq, s.out, rfl⟩

theorem SignalsOnly.trans {s t u : State} (h : SignalsOnly s t) (k : SignalsOnly t u) : SignalsOnly s u := by
  obtain ⟨_, _, _, rfl⟩ := h
  obtain ⟨_, _, _, rfl⟩ := k
  exact ⟨_, _, _, rfl⟩

theorem SignalsOnly.foldl {α : Type} {f : State → α → State} (hf : ∀ s x, SignalsOnly s (f s x)) (xs : List α) (s : State) :
    SignalsOnly s (xs.foldl f s) := by
  induction xs generalizing s with
  | nil => exact .refl s
  | cons x xs ih => exact (hf s x).trans (ih (f s x))

theorem startTimer_signalsOnly (s : State) (g : Nat) : SignalsOnly s (startTimer s g) := by
  unfold startTimer
  split
  · exact .refl s
  · exact ⟨_, _, _, rfl⟩

theorem sendMsix_signalsOnly (s : State) (n : Nat) : SignalsOnly s (sendMsix s n) := by
  unfold sendMsix
  dsimp only
  split
  · exact ⟨_, _, _, rfl⟩
  · exact SignalsOnly.trans ⟨_, _, _, rfl⟩ (startTimer_signalsOnly _ _)

theorem linesRose_signalsOnly (before s : State) : SignalsOnly s (linesRose before s) := by
  unfold linesRose
  split
  · refine SignalsOnly.foldl (fun t p => ?_) _ s
    split
    · exact SignalsOnly.foldl startTimer_signalsOnly _ t
    · exact .refl t
  · exact .refl s

theorem raise_signalsOnly (s : State) (n : Nat) : SignalsOnly s (raise s n) := by
  unfold raise
  dsimp only
  split
  · exact .refl s
  · split
    · exact ⟨_, _, _, rfl⟩
    · split
      · exact ⟨_, _, _, rfl⟩
      · refine SignalsOnly.trans ?_ (linesRose_signalsOnly s _)
        unfold msixOnRise
        split
        · exact SignalsOnly.trans ⟨_, _, _, rfl⟩ (sendMsix_signalsOnly _ n)
        · exact ⟨_, _, _, rfl⟩

theorem setCond_signalsOnly (s : State) (n : Nat) (b : Bool) : SignalsOnly s (setCond s n b) := by
  unfold setCond
  dsimp only
  split
  · exact SignalsOnly.trans ⟨_, _, _, rfl⟩ (raise_signalsOnly _ n)
  · exact ⟨_, _, _, rfl⟩

theorem showIdle_signalsOnly (s : State) (a : Nat) : SignalsOnly s (showIdle s a) := setCond_signalsOnly s _ _

/-! What a wave reads of a state: the operand bytes with their poison, and the operations. -/

theorem read_congr {s u : State} (h : u.mem = s.mem) (t : Tensor) : t.read u = t.read s := by
  funext r c
  unfold Tensor.read memByte
  rw [raw_congr h, h]

/-- Waves of operation `o` in `s` and of `o'` in `u` read alike: the same descriptor, and memory and poison as the operand
reads see them. -/
structure ReadsAlike (s u : State) (o o' : Op) : Prop where
  desc   : o'.desc = o.desc
  view   : (operandView u o').mem = (operandView s o).mem
  poison : isPoisoned u = isPoisoned s

namespace ReadsAlike

variable {s u : State} {o o' : Op}

theorem rowGroup_eq (h : ReadsAlike s u o o') : rowGroup u o' = rowGroup s o := by
  funext w i
  unfold rowGroup readA
  rw [h.desc, read_congr h.view]

theorem colGroup_eq (h : ReadsAlike s u o o') : colGroup u o' = colGroup s o := by
  funext w j
  unfold colGroup readB
  rw [h.desc, read_congr h.view]

theorem nextSlices_eq (h : ReadsAlike s u o o') : nextSlices o' = nextSlices o := by
  funext feed f
  unfold nextSlices
  rw [h.desc]

theorem enter_eq (h : ReadsAlike s u o o') : Slice.enter u o' = Slice.enter s o := by
  funext f x
  unfold Slice.enter
  rw [h.rowGroup_eq, h.colGroup_eq]

theorem slicePoisoned_eq (h : ReadsAlike s u o o') : Slice.poisoned u o' = Slice.poisoned s o := by
  funext f x
  unfold Slice.poisoned poisonA poisonB Tensor.poisonAt
  rw [h.desc, h.poison]

theorem flightPoisoned_eq (h : ReadsAlike s u o o') : flightPoisoned u o' = flightPoisoned s o := by
  funext feed f
  unfold flightPoisoned
  rw [h.nextSlices_eq, h.slicePoisoned_eq]

theorem waveFlight_eq (h : ReadsAlike s u o o') : waveFlight u o' = waveFlight s o := by
  funext feed f
  unfold waveFlight
  rw [h.nextSlices_eq, h.enter_eq, h.desc]

end ReadsAlike

/-- A wave finds in `u` what it finds in `s`; operations may have counted waves in between. -/
structure WavesAlike (s u : State) : Prop where
  mem    : u.mem = s.mem
  rel    : u.rel = s.rel
  lost   : u.hbm.unusable = s.hbm.unusable
  free   : u.freeCtr = s.freeCtr
  ops    : ∀ tag, (findOp u tag).map Op.asTaken = (findOp s tag).map Op.asTaken

namespace WavesAlike

variable {s u v : State}

theorem trans (h : WavesAlike s u) (k : WavesAlike u v) : WavesAlike s v :=
  ⟨k.mem.trans h.mem, k.rel.trans h.rel, k.lost.trans h.lost, k.free.trans h.free, fun tag => (k.ops tag).trans (h.ops tag)⟩

theorem setPart (h : WavesAlike s u) (k : Nat) (p : Partition) : WavesAlike s (setPart u k p) :=
  ⟨h.mem, h.rel, h.lost, h.free, h.ops⟩

theorem caps (h : WavesAlike s u) (l : List Capture) : WavesAlike s { u with caps := l } :=
  ⟨h.mem, h.rel, h.lost, h.free, h.ops⟩

theorem isPoisoned_eq (h : WavesAlike s u) : isPoisoned u = isPoisoned s := by
  funext a
  unfold isPoisoned isRetired rangeLost stackLost
  rw [h.rel, h.lost]

theorem readsAlike (h : WavesAlike s u) {o o' : Op} (ho : o'.asTaken = o.asTaken) : ReadsAlike s u o o' := by
  obtain ⟨-, -, hdesc, -, -, -, hbefore, -⟩ := asTaken_fields ho
  have hbytes : SameBytes s u := ⟨h.mem, congrArg Rel.retired h.rel⟩
  exact ⟨hdesc, (hbytes.operandView hbefore fun _ => by rw [h.free]).mem, h.isPoisoned_eq⟩

/-- An operation is in flight in `u` as in `s`. -/
theorem findOp_cases (h : WavesAlike s u) (tag : Nat) : (findOp s tag = none ∧ findOp u tag = none) ∨
    ∃ o o', findOp s tag = some o ∧ findOp u tag = some o' ∧ o'.asTaken = o.asTaken := by
  have hops := h.ops tag
  cases hs : findOp s tag with
  | none =>
    rw [hs] at hops
    exact .inl ⟨rfl, Option.map_eq_none_iff.mp hops⟩
  | some o =>
    rw [hs] at hops
    obtain ⟨o', hu, ho⟩ := Option.map_eq_some_iff.mp hops
    exact .inr ⟨o, o', rfl, hu, ho⟩

theorem findOp_some (h : WavesAlike s u) {tag : Nat} {o : Op} (hs : findOp s tag = some o) :
    ∃ o', findOp u tag = some o' ∧ o'.asTaken = o.asTaken := by
  rcases h.findOp_cases tag with ⟨hnone, -⟩ | ⟨o1, o', hs1, hu, ho⟩
  · rw [hs] at hnone
    cases hnone
  · rw [hs] at hs1
    cases hs1
    exact ⟨o', hu, ho⟩

end WavesAlike

/-- Every tile in the cells of a partition one wave on. -/
def movedFlights (s : State) (p : Partition) : List Flight :=
  (numbered p).map (fun x => match findOp s x.2.tag with
    | some o => waveFlight s o (isFed p x.1) x.2
    | none => x.2)

theorem WavesAlike.movedFlights_eq {s u : State} (h : WavesAlike s u) (p : Partition) : movedFlights u p = movedFlights s p := by
  unfold movedFlights
  refine List.map_congr_left fun x _ => ?_
  rcases h.findOp_cases x.2.tag with ⟨hs, hu⟩ | ⟨o, o', hs, hu, ho⟩
  · rw [hs, hu]
  · rw [hs, hu]
    dsimp only
    rw [(h.readsAlike ho).waveFlight_eq]

theorem WavesAlike.poisonedTiles_eq {s u : State} (h : WavesAlike s u) (p : Partition) :
    poisonedTiles u p = poisonedTiles s p := by
  unfold poisonedTiles
  refine List.filterMap_congr fun x _ => ?_
  rcases h.findOp_cases x.2.tag with ⟨hs, hu⟩ | ⟨o, o', hs, hu, ho⟩
  · rw [hs, hu]
  · rw [hs, hu]
    dsimp only
    rw [(h.readsAlike ho).flightPoisoned_eq]

/-- The tiles in the cells do not hang on the drain. -/
theorem movedFlights_drainStep (s : State) (p : Partition) : movedFlights s (drainStep p) = movedFlights s p := by
  obtain ⟨-, hbegun, -, hflights⟩ := drainStep_fields p
  unfold movedFlights numbered isFed
  rw [hbegun, hflights]

theorem poisonedTiles_drainStep (s : State) (p : Partition) : poisonedTiles s (drainStep p) = poisonedTiles s p := by
  obtain ⟨-, hbegun, -, hflights⟩ := drainStep_fields p
  unfold poisonedTiles numbered isFed
  rw [hbegun, hflights]

theorem length_movedFlights (s : State) (p : Partition) : (movedFlights s p).length = p.flights.length := by
  simp [movedFlights, numbered]

/-- The tile being fed gains a wave. -/
theorem getLast?_movedFlights {s : State} {p : Partition} {f : Flight} {o : Op} (hb : p.begun = true)
    (hf : p.flights.getLast? = some f) (ho : findOp s f.tag = some o) :
    (movedFlights s p).getLast? = some (waveFlight s o true f) := by
  rw [List.getLast?_eq_getElem?] at hf
  obtain ⟨hlen, hget⟩ := List.getElem?_eq_some_iff.mp hf
  have hfed : isFed p (p.flights.length - 1) = true := by simp [isFed, hb]; omega
  rw [List.getLast?_eq_getElem?, length_movedFlights]
  simp [movedFlights, numbered, hlen, hget, ho, hfed]

/-! What a wave counts (R67, R90, R371). -/

/-- `u` is `s` with a wave of array `a` counted: what the next waves read, the partitions and memory are as before. -/
structure WaveCounted (s u : State) (a : Nat) : Prop where
  alike : WavesAlike s u
  parts : u.parts = s.parts
  dict  : u.dict = (bump s (0x2200 + a) 7).dict

theorem updOp_wavesAlike {f : Op → Op} (hf : ∀ o, (f o).asTaken = o.asTaken) (s : State) (tag : Nat) :
    WavesAlike s (updOp s tag f) := ⟨rfl, rfl, rfl, rfl, findOp_updOp_asTaken hf s tag⟩

/-- The operations in the cells or the drain have a wave more. -/
def countWaves (tags : List Nat) (s : State) : State :=
  tags.foldl (fun t x => updOp t x (fun o => { o with waves := o.waves + 1 })) s

theorem WaveCounted.countWaves {s u : State} {a : Nat} (h : WaveCounted s u a) (tags : List Nat) :
    WaveCounted s (countWaves tags u) a := by
  induction tags generalizing u with
  | nil => exact h
  | cons tag tags ih => exact ih ⟨h.alike.trans (updOp_wavesAlike (by intro o; rfl) u tag), h.parts, h.dict⟩

theorem countWave_counted (s : State) (a ii : Nat) : WaveCounted s (countWave s a ii) a := by
  have hcount := fun (u : State) (h : WaveCounted s u a) => h.countWaves (waveTags (partOf s (pkey a ii)))
  unfold countWave
  dsimp only
  split
  · exact hcount _ ⟨⟨rfl, rfl, rfl, rfl, fun _ => rfl⟩, rfl, rfl⟩
  · have h := hcount (markActive (bump (setArray s a { arrayOf s a with
      lastWave := now s
      recent := SMap.set (arrayOf s a).recent ii (addRecent (SMap.get (arrayOf s a).recent ii []) (now s) 1) [] })
      (0x2200 + a) 7) a) ⟨⟨rfl, rfl, rfl, rfl, fun _ => rfl⟩, rfl, rfl⟩
    exact ⟨h.alike.trans ⟨rfl, rfl, rfl, rfl, fun _ => rfl⟩, h.parts, h.dict⟩

/-! The compute part of a wave. -/

theorem computeWave_of_clean {s : State} {a ii : Nat} (hstart : (partOf s (pkey a ii)).startup = 0)
    (hclean : poisonedTiles s (partOf s (pkey a ii)) = []) :
    computeWave s a ii = swapTile (nextTile (moveFlights s (pkey a ii)) a ii) a ii := by
  simp [computeWave, hstart, hclean]

/-- Moving the tiles on, the captured ones note their operand groups. -/
theorem moveFlights_eq (s : State) (k : Nat) :
    ∃ caps, moveFlights s k =
      setPart { s with caps := caps } k { partOf s k with flights := movedFlights s (partOf s k) } := by
  have hcaps : ∀ {α : Type} (f : State → α → State) (_ : ∀ t x, ∃ caps, f t x = { t with caps := caps }) (l : List α)
      (t : State), ∃ caps, l.foldl f t = { t with caps := caps } := by
    intro α f hf l
    induction l with
    | nil => exact fun t => ⟨t.caps, rfl⟩
    | cons x l ih =>
      intro t
      obtain ⟨c1, h1⟩ := hf t x
      obtain ⟨c2, h2⟩ := ih (f t x)
      exact ⟨c2, by rw [List.foldl_cons, h2, h1]⟩
  have hfeed : ∀ (t : State) (o : Op) (b : Bool) (f : Flight), ∃ caps, captureFeed t o b f = { t with caps := caps } :=
    fun t o b f => hcaps _ (fun _ _ => ⟨_, rfl⟩) _ t
  unfold moveFlights
  dsimp only
  obtain ⟨caps, h⟩ := hcaps (fun t x => match findOp s x.2.tag with
    | some o => captureFeed t o (isFed (partOf s k) x.1) x.2
    | none => t) (fun t x => by
      split
      · exact hfeed t _ _ _
      · exact ⟨t.caps, rfl⟩) (numbered (partOf s k)) s
  exact ⟨caps, congrArg (fun t => setPart t k { partOf s k with flights := movedFlights s (partOf s k) }) h⟩

/-- A tile that has still waves to come goes on being fed. -/
theorem nextTile_of_feeding {s : State} {a ii : Nat}
    (hfeed : ∀ f, (partOf s (pkey a ii)).flights.getLast? = some f → ∃ o, findOp s f.tag = some o ∧ f.fed < feedWaves o f) :
    nextTile s a ii = s := by
  unfold nextTile
  dsimp only
  split
  next f hb hlast =>
    obtain ⟨o, ho, hfed⟩ := hfeed f hlast
    rw [ho]
    dsimp only
    rw [if_pos hfed]
  · rfl

/-- The oldest tile does not swap while it is fed, while the drain is taken, or before it is complete. -/
theorem swapTile_stays {s : State} {a ii : Nat} (h : isFed (partOf s (pkey a ii)) 0 = true ∨ (partOf s (pkey a ii)).drain ≠ [] ∨
      ∀ g ∈ (partOf s (pkey a ii)).flights.head?, g.slices ≠ [] ∨ g.cross ≠ 0) : swapTile s a ii = s := by
  unfold swapTile
  dsimp only
  split
  · rfl
  next f l hfl =>
    have hoff : ¬ ((partOf s (pkey a ii)).drain.isEmpty && f.slices.isEmpty && f.cross == 0
        && !isFed (partOf s (pkey a ii)) 0) = true := by
      simp only [Bool.and_eq_true, List.isEmpty_iff, beq_iff_eq, Bool.not_eq_true']
      rintro ⟨⟨⟨hdrain, hslices⟩, hcross⟩, hfed⟩
      rcases h with h | h | h
      · rw [hfed] at h
        cases h
      · exact h hdrain
      · rcases h f (by rw [hfl]; rfl) with h | h
        · exact h hslices
        · exact h hcross
    rw [if_neg hoff]

/-- A complete oldest tile leaves the cells for the clear drain (R66). -/
theorem swapTile_swaps {s : State} {a ii : Nat} {g : Flight} {l : List Flight} {o : Op}
    (hfl : (partOf s (pkey a ii)).flights = g :: l) (hfed : isFed (partOf s (pkey a ii)) 0 = false)
    (hdrain : (partOf s (pkey a ii)).drain = []) (hslices : g.slices = []) (hcross : g.cross = 0)
    (ho : findOp s g.tag = some o) :
    swapTile s a ii = setPart s (pkey a ii) { partOf s (pkey a ii) with
      flights := l, drain := drainRows o g.tile g.acc ++ marks o (g.tile + 1) } := by
  simp [swapTile, hfl, hfed, hdrain, hslices, hcross, ho]

/-- A run's end is noted in its partition alone. -/
theorem endRun_cases (s : State) (k : Nat) :
    endRun s k = s ∨ endRun s k = setPart s k { partOf s k with inRun := false } := by
  unfold endRun
  dsimp only
  split
  · exact .inr rfl
  · exact .inl rfl

/-! A wave inside a tile. -/

/-- State `t`, inside a wave of An.ii from `s`: the wave is counted, and `p` stands in the partition. -/
structure InWave (s t : State) (a ii : Nat) (p : Partition) : Prop where
  counted : t.dict = (bump s (0x2200 + a) 7).dict
  mem     : t.mem = s.mem
  others  : ∀ k, k ≠ pkey a ii → partOf t k = partOf s k
  part    : partOf t (pkey a ii) = p

theorem InWave.setPart {s t : State} {a ii : Nat} {p : Partition} (h : InWave s t a ii p) (q : Partition) :
    InWave s (setPart t (pkey a ii) q) a ii q :=
  ⟨h.counted, h.mem, fun k hk => (partOf_setPart_ne t q hk).trans (h.others k hk), partOf_setPart_same t _ q⟩

theorem InWave.congr {s t u : State} {a ii : Nat} {p : Partition} (h : InWave s t a ii p) (hdict : u.dict = t.dict)
    (hmem : u.mem = t.mem) (hparts : u.parts = t.parts) : InWave s u a ii p := by
  have hpart : ∀ k, partOf u k = partOf t k := fun k => by rw [partOf, partOf, hparts]
  exact ⟨hdict.trans h.counted, hmem.trans h.mem, fun k hk => (hpart k).trans (h.others k hk), (hpart _).trans h.part⟩

theorem InWave.signals {s t u : State} {a ii : Nat} {p : Partition} (h : InWave s t a ii p) (k : SignalsOnly t u) :
    InWave s u a ii p := by
  obtain ⟨_, _, _, rfl⟩ := k
  exact h.congr rfl rfl rfl

theorem InWave.runEnded {s t : State} {a ii : Nat} {p : Partition} (h : InWave s t a ii p) :
    ∃ r, InWave s (endRun t (pkey a ii)) a ii { p with inRun := r } := by
  rcases endRun_cases t (pkey a ii) with he | he
  · exact ⟨p.inRun, by rw [he]; exact h⟩
  · refine ⟨false, ?_⟩
    rw [he, h.part]
    exact h.setPart _

/-- What every wave inside a tile comes to, but for the cells and the drain. -/
def CountsWave (s u : State) (a : ArrayId) (ii : PartId) : Prop :=
  (∀ k, k ≠ pkey a ii → partOf u k = partOf s k) ∧
    (partOf u (pkey a ii)).stage = (drainStep (partOf s (pkey a ii))).stage ∧
    (partOf u (pkey a ii)).ops = (partOf s (pkey a ii)).ops ∧
    reg u (0x2200 + a) 7 = (reg s (0x2200 + a) 7 + 1) % 2 ^ 64 ∧ SameEntriesBut [dkey (0x2200 + a) 7] s u ∧ u.mem = s.mem

theorem InWave.countsWave {s t : State} {a : ArrayId} {ii : PartId} {p : Partition} (h : InWave s t a ii p)
    (hstage : p.stage = (drainStep (partOf s (pkey a ii))).stage) (hops : p.ops = (partOf s (pkey a ii)).ops) :
    CountsWave s t a ii := by
  have hreg : ∀ i sub, reg t i sub = reg (bump s (0x2200 + a) 7) i sub := fun i sub => by rw [reg, reg, h.counted]
  refine ⟨h.others, by rw [h.part, hstage], by rw [h.part, hops], ?_, fun i sub hk => ?_, h.mem⟩
  · rw [hreg, bump, bumpBy, reg_setReg_same]
  · rw [hreg, bump, bumpBy, reg_setReg_ne s _ (by simpa using hk)]

/-- The tile being fed, if any, has waves to come after this one. -/
def Feeds (s : State) (p : Partition) : Prop :=
  p.begun = true ∧ ∀ f, p.flights.getLast? = some f → ∃ o, findOp s f.tag = some o ∧ f.fed + 1 < feedWaves o f

/-- The wave is counted, and the next row has entered the output stage. -/
def drained (s : State) (a ii : Nat) : State := setPart (countWave s a ii) (pkey a ii) (drainStep (partOf s (pkey a ii)))

theorem drained_wavesAlike (s : State) (a ii : Nat) : WavesAlike s (drained s a ii) :=
  (countWave_counted s a ii).alike.setPart _ _

theorem partOf_countWave (s : State) (a ii k : Nat) : partOf (countWave s a ii) k = partOf s k := by
  rw [partOf, partOf, (countWave_counted s a ii).parts]

theorem drained_inWave (s : State) (a ii : Nat) : InWave s (drained s a ii) a ii (drainStep (partOf s (pkey a ii))) := by
  obtain ⟨halike, -, hdict⟩ := countWave_counted s a ii
  exact InWave.setPart (p := partOf s (pkey a ii))
    ⟨hdict, halike.mem, fun k _ => partOf_countWave s a ii k, partOf_countWave s a ii _⟩ _

/-- The partition with its tiles one wave on. -/
def movedPart (s : State) (p : Partition) : Partition := { drainStep p with flights := movedFlights s p }

/-- After the drain step every tile has moved on. -/
def wavedOn (s : State) (a ii : Nat) : State := moveFlights (drained s a ii) (pkey a ii)

theorem wavedOn_eq (s : State) (a ii : Nat) :
    ∃ caps, wavedOn s a ii = setPart { drained s a ii with caps := caps } (pkey a ii) (movedPart s (partOf s (pkey a ii))) := by
  obtain ⟨caps, h⟩ := moveFlights_eq (drained s a ii) (pkey a ii)
  refine ⟨caps, h.trans ?_⟩
  rw [(drained_inWave s a ii).part, (drained_wavesAlike s a ii).movedFlights_eq, movedFlights_drainStep]
  rfl

theorem wavedOn_inWave (s : State) (a ii : Nat) :
    InWave s (wavedOn s a ii) a ii (movedPart s (partOf s (pkey a ii))) := by
  obtain ⟨caps, h⟩ := wavedOn_eq s a ii
  rw [h]
  exact ((drained_inWave s a ii).congr (u := { drained s a ii with caps := caps }) rfl rfl rfl).setPart _

theorem wavedOn_wavesAlike (s : State) (a ii : Nat) : WavesAlike s (wavedOn s a ii) := by
  obtain ⟨caps, h⟩ := wavedOn_eq s a ii
  rw [h]
  exact ((drained_wavesAlike s a ii).caps caps).setPart _ _

/-- No tile begins behind one that is still fed. -/
theorem nextTile_wavedOn {s : State} {a ii : Nat} (hfeeds : Feeds s (partOf s (pkey a ii))) :
    nextTile (wavedOn s a ii) a ii = wavedOn s a ii := by
  obtain ⟨hbegun, hlast⟩ := hfeeds
  refine nextTile_of_feeding fun f hf => ?_
  rw [(wavedOn_inWave s a ii).part] at hf
  change (movedFlights s (partOf s (pkey a ii))).getLast? = some f at hf
  have hne : (partOf s (pkey a ii)).flights ≠ [] := by
    intro hnil
    have hlen := length_movedFlights s (partOf s (pkey a ii))
    rw [hnil, List.length_nil, List.length_eq_zero_iff] at hlen
    rw [hlen] at hf
    cases hf
  obtain ⟨f0, hf0⟩ := Option.isSome_iff_exists.mp (List.getLast?_isSome.mpr hne)
  obtain ⟨o, ho, hfed⟩ := hlast f0 hf0
  rw [getLast?_movedFlights hbegun hf0 ho] at hf
  cases hf
  obtain ⟨o', ho', htaken⟩ := (wavedOn_wavesAlike s a ii).findOp_some ho
  obtain ⟨-, -, hdesc, -⟩ := asTaken_fields htaken
  refine ⟨o', ho', ?_⟩
  unfold feedWaves at hfed ⊢
  rw [hdesc]
  exact hfed

/-- The compute part of a wave inside a tile: the tiles move on, and the oldest one may swap. -/
theorem computeWave_drained {s : State} {a ii : Nat} (hstart : (partOf s (pkey a ii)).startup = 0)
    (hclean : poisonedTiles s (partOf s (pkey a ii)) = []) (hfeeds : Feeds s (partOf s (pkey a ii))) :
    computeWave (drained s a ii) a ii = swapTile (wavedOn s a ii) a ii := by
  obtain ⟨-, -, dstartup, -⟩ := drainStep_fields (partOf s (pkey a ii))
  have hpart := (drained_inWave s a ii).part
  rw [computeWave_of_clean (by rw [hpart, dstartup, hstart])
    (by rw [hpart, (drained_wavesAlike s a ii).poisonedTiles_eq, poisonedTiles_drainStep, hclean])]
  exact congrArg (swapTile · a ii) (nextTile_wavedOn hfeeds)

/-- What follows the compute part while an operation is fed leaves the partition but for its run. -/
theorem waveEffect_inWave {s : State} {a ii : Nat} {q : Partition} (hready : waveReady s a ii = true)
    (hq : InWave s (computeWave (drained s a ii) a ii) a ii q) (hbegun : q.begun = true) :
    ∃ r, InWave s (waveEffect s a ii) a ii { q with inRun := r } := by
  have heffect : waveEffect s a ii = showIdle (endRun
      (let t := if (partOf (computeWave (drained s a ii) a ii) (pkey a ii)).begun then computeWave (drained s a ii) a ii
        else settlePart (computeWave (drained s a ii) a ii) a ii
      { t with freeCtr := t.freeCtr + 2 ^ 50 }) (pkey a ii)) a := by
    unfold waveEffect drained
    rw [if_pos hready]
    dsimp only
    rw [partOf_countWave]
  rw [hq.part, if_pos hbegun] at heffect
  obtain ⟨r, hr⟩ := (hq.congr (u := { computeWave (drained s a ii) a ii with
      freeCtr := (computeWave (drained s a ii) a ii).freeCtr + 2 ^ 50 }) rfl rfl rfl).runEnded
  refine ⟨r, ?_⟩
  rw [heffect]
  exact hr.signals (showIdle_signalsOnly _ a)

section
variable {s : State} {a : ArrayId} {ii : PartId} (hready : waveReady s a ii = true)
  (hstart : (partOf s (pkey a ii)).startup = 0) (hclean : poisonedTiles s (partOf s (pkey a ii)) = [])
  (hfeeds : Feeds s (partOf s (pkey a ii)))
include hready hstart hclean hfeeds

/-- What the swap leaves in the partition is what the whole wave leaves there. -/
theorem waveEffect_countsWave {l : List Flight} {d : List OutRow}
    (h : InWave s (swapTile (wavedOn s a ii) a ii) a ii
      { movedPart s (partOf s (pkey a ii)) with flights := l, drain := d }) :
    CountsWave s (waveEffect s a ii) a ii ∧ (partOf (waveEffect s a ii) (pkey a ii)).flights = l ∧
      (partOf (waveEffect s a ii) (pkey a ii)).drain = d := by
  obtain ⟨dops, dbegun, -, -⟩ := drainStep_fields (partOf s (pkey a ii))
  rw [← computeWave_drained hstart hclean hfeeds] at h
  obtain ⟨r, hr⟩ := waveEffect_inWave hready h (dbegun.trans hfeeds.1)
  exact ⟨hr.countsWave rfl dops, by rw [hr.part], by rw [hr.part]⟩

/-- The oldest tile stays in the cells (R66). -/
theorem waveEffect_stays (hstay : (partOf s (pkey a ii)).flights.length = 1 ∨ (drainStep (partOf s (pkey a ii))).drain ≠ [] ∨
      ∃ g ∈ (movedFlights s (partOf s (pkey a ii))).head?, g.slices ≠ [] ∨ g.cross ≠ 0) :
    CountsWave s (waveEffect s a ii) a ii ∧
      (partOf (waveEffect s a ii) (pkey a ii)).flights = movedFlights s (partOf s (pkey a ii)) ∧
      (partOf (waveEffect s a ii) (pkey a ii)).drain = (drainStep (partOf s (pkey a ii))).drain := by
  obtain ⟨-, dbegun, -, -⟩ := drainStep_fields (partOf s (pkey a ii))
  have hin := wavedOn_inWave s a ii
  have hsame : swapTile (wavedOn s a ii) a ii = wavedOn s a ii := by
    refine swapTile_stays ?_
    rw [hin.part]
    rcases hstay with hone | hdrain | ⟨g, hg, hbusy⟩
    · refine .inl ?_
      have hbegun : (movedPart s (partOf s (pkey a ii))).begun = true := dbegun.trans hfeeds.1
      have hlen : (movedPart s (partOf s (pkey a ii))).flights.length = 1 := (length_movedFlights s _).trans hone
      simp [isFed, hbegun, hlen]
    · exact .inr (.inl hdrain)
    · refine .inr (.inr fun g' hg' => ?_)
      cases (Option.mem_unique hg hg' : g = g')
      exact hbusy
  exact waveEffect_countsWave hready hstart hclean hfeeds (hsame.symm ▸ hin)

/-- The oldest tile is complete and the drain clear: the tile's rows stand in the drain, marks after them (R66). -/
theorem waveEffect_swaps {g : Flight} {l : List Flight} {o : Op} (hmore : 1 < (partOf s (pkey a ii)).flights.length)
    (hdrain : (drainStep (partOf s (pkey a ii))).drain = []) (hg : movedFlights s (partOf s (pkey a ii)) = g :: l)
    (hslices : g.slices = []) (hcross : g.cross = 0) (ho : findOp s g.tag = some o) :
    CountsWave s (waveEffect s a ii) a ii ∧ (partOf (waveEffect s a ii) (pkey a ii)).flights = l ∧
      (partOf (waveEffect s a ii) (pkey a ii)).drain = drainRows o g.tile g.acc ++ marks o (g.tile + 1) := by
  have hin := wavedOn_inWave s a ii
  have hlen : (movedPart s (partOf s (pkey a ii))).flights.length = (partOf s (pkey a ii)).flights.length :=
    length_movedFlights s _
  obtain ⟨o', ho', htaken⟩ := (wavedOn_wavesAlike s a ii).findOp_some ho
  obtain ⟨htag, -, hdesc, -, hrow, hcol, -, -⟩ := asTaken_fields htaken
  have hrows : drainRows o' g.tile g.acc ++ marks o' (g.tile + 1) = drainRows o g.tile g.acc ++ marks o (g.tile + 1) := by
    unfold drainRows marks passedTiles markRow opTiles tileActive actRows actCols
    rw [htag, hdesc, hrow, hcol]
  have hswap := swapTile_swaps (s := wavedOn s a ii) (a := a) (ii := ii) (g := g) (l := l) (by rw [hin.part]; exact hg)
    (by rw [hin.part]; simp [isFed, hlen]; omega) (by rw [hin.part]; exact hdrain) hslices hcross ho'
  rw [hin.part, hrows] at hswap
  exact waveEffect_countsWave hready hstart hclean hfeeds (hswap ▸ hin.setPart _)

end

/-! The output stage (R69, R70). -/

/-- A row of an operation that is no longer in flight is dropped. -/
theorem outputEffect_of_gone {s : State} {a ii : Nat} {ups : List Upset} {r : OutRow} {l : List OutRow}
    (hcore : coreRuns s = true) (hstage : (partOf s (pkey a ii)).stage = r :: l) (hgone : findOp s r.tag = none) :
    outputEffect s a ii ups = takeStage s (pkey a ii) := by
  simp [outputEffect, hcore, hstage, hgone]

theorem outputEffect_of_op {s : State} {a ii : Nat} {ups : List Upset} {r : OutRow} {l : List OutRow} {o : Op}
    (hcore : coreRuns s = true) (hstage : (partOf s (pkey a ii)).stage = r :: l) (ho : findOp s r.tag = some o) :
    outputEffect s a ii ups =
      if mDest o.desc.toNat = 0 then showIdle (stageLoam s a ii o ups r) a
      else if mDest o.desc.toNat = 1 then showIdle (stageEngine s a ii o ups r) a else s := by
  simp [outputEffect, hcore, hstage, ho]

theorem partOf_takeStage_stage {s : State} {k : Nat} {r : OutRow} {l : List OutRow} (h : (partOf s k).stage = r :: l) :
    (partOf (takeStage s k) k).stage = l := by
  rw [takeStage, partOf_setPart_same, h]
  rfl

/-- Settles O11. A wave reads operand bytes, poison and operations, none of which its counting changes (`WavesAlike`), and a
tile with waves to come keeps the next one out; then the two cases of the swap. -/
theorem wavesAccumulateAndTheOutputStageTakesRows : Obligations.WavesAccumulateAndTheOutputStageTakesRows := by
  refine ⟨fun s a ii hready hstart hclean => ⟨fun hfeeds hstay => ?_, fun hfeeds hmore hdrain g l o hg hslices hcross ho => ?_⟩,
    fun s a ii ups r l hcore hstage => ⟨fun o ho => ⟨fun hdest => ?_, fun hdest => ?_⟩, fun hgone => ?_⟩⟩
  · exact ⟨waveEffect s a ii, rfl, waveEffect_stays hready hstart hclean hfeeds hstay⟩
  · exact ⟨waveEffect s a ii, rfl, waveEffect_swaps hready hstart hclean hfeeds hmore hdrain hg hslices hcross ho⟩
  · show Host.Outcome.next (announceStops (outputEffect s a ii ups)) = _
    rw [outputEffect_of_op hcore hstage ho, if_pos hdest]
  · show Host.Outcome.next (announceStops (outputEffect s a ii ups)) = _
    rw [outputEffect_of_op hcore hstage ho, if_neg (by omega), if_pos hdest]
  · refine ⟨takeStage s (pkey a ii), ?_, partOf_takeStage_stage hstage, fun k hk => partOf_setPart_ne s _ hk, rfl, rfl, rfl⟩
    show Host.Outcome.next (announceStops (outputEffect s a ii ups)) = _
    rw [outputEffect_of_gone hcore hstage hgone]

end Sys2Proof.Machine
end

section
/-! SUPPORT. Reports and stops leave memory as it is (R386 to R389, R106, R317); a tile that the sieve captures does not
(R169 to R171). -/

namespace Sys2Proof.Machine

/-! Interrupts, messages and the error log. -/

/-- Steps that each leave memory do so together. -/
theorem foldl_mem {α : Type} {f : State → α → State} (hf : ∀ t x, (f t x).mem = t.mem) (xs : List α) (s : State) :
    (xs.foldl f s).mem = s.mem := by
  induction xs generalizing s with
  | nil => rfl
  | cons x xs ih => exact (ih (f s x)).trans (hf s x)

theorem SignalsOnly.mem_eq {s t : State} (h : SignalsOnly s t) : t.mem = s.mem := by
  obtain ⟨_, _, _, rfl⟩ := h
  rfl

theorem SignalsOnly.caps_eq {s t : State} (h : SignalsOnly s t) : t.caps = s.caps := by
  obtain ⟨_, _, _, rfl⟩ := h
  rfl

@[simp] theorem raise_mem (s : State) (n : Nat) : (raise s n).mem = s.mem := (raise_signalsOnly s n).mem_eq
@[simp] theorem setCond_mem (s : State) (n : Nat) (b : Bool) : (setCond s n b).mem = s.mem := (setCond_signalsOnly s n b).mem_eq
@[simp] theorem showIdle_mem (s : State) (a : Nat) : (showIdle s a).mem = s.mem := (showIdle_signalsOnly s a).mem_eq

@[simp] theorem raiseAll_mem (s : State) (l : List Nat) : (raiseAll s l).mem = s.mem := foldl_mem raise_mem l s

@[simp] theorem discardMsg_mem (s : State) : (discardMsg s).mem = s.mem := raise_mem _ _

theorem beginReq_mem (s : State) (m : Msg) : (beginReq s m).mem = s.mem := by
  unfold beginReq
  split <;> rfl

theorem sendCell_mem {s t : State} {p : Nat} (h : sendCell s p = some t) : t.mem = s.mem := by
  unfold sendCell at h
  dsimp only at h
  split at h
  · cases h
  · split at h
    · cases h
    · cases h
      exact foldl_mem beginReq_mem _ _

theorem sendCells_mem (k : Nat) (s : State) (p : Nat) : (sendCells k s p).mem = s.mem := by
  induction k generalizing s with
  | zero => rfl
  | succ k ih =>
    unfold sendCells
    split
    · rfl
    next t ht => exact (ih t).trans (sendCell_mem ht)

theorem pumpPort_mem (s : State) (p : Nat) : (pumpPort s p).mem = s.mem := by
  unfold pumpPort
  exact sendCells_mem 1024 s p

theorem sendOn_mem (s : State) (p w : Nat) (m : Msg) : (sendOn s p w m).mem = s.mem := by
  unfold sendOn
  dsimp only
  rw [pumpPort_mem, emit_mem, setLink_mem]

theorem loopSend_mem (s : State) (m : Msg) : (loopSend s m).mem = s.mem := beginReq_mem _ m

theorem sendOrDrop_mem (s : State) (m : Msg) : (sendOrDrop s m).mem = s.mem := by
  unfold sendOrDrop
  split
  next t ht =>
    unfold trySend at ht
    split at ht
    · cases ht
      exact loopSend_mem s m
    · split at ht
      · cases ht
      · cases ht
        exact sendOn_mem s _ _ m
  · exact discardMsg_mem s

theorem noticeAll_mem (s : State) (type : Nat) (body : Line) : (noticeAll s type body).mem = s.mem :=
  foldl_mem (fun t p => sendOn_mem t p _ _) _ s

theorem sendEach_mem (f : State → Nat → Msg) (l : List Nat) (s : State) :
    (l.foldl (fun t i => sendOrDrop t (f t i)) s).mem = s.mem :=
  foldl_mem (fun t _ => sendOrDrop_mem t _) l s

theorem faultNotice_mem (s : State) (entry : List Byte) : (faultNotice s entry).mem = s.mem := by
  unfold faultNotice
  extract_lets body s1
  exact (sendEach_mem _ _ s1).trans (noticeAll_mem s 1 body)

theorem fieldNotify_mem (s : State) (f : List Byte) : (fieldNotify s f).mem = s.mem := by
  unfold fieldNotify
  dsimp only
  split
  · rfl
  · split
    · rfl
    · split <;> rfl

@[simp] theorem notify_mem (s : State) (bit index sub : Nat) (payload : List Byte) :
    (notify s bit index sub payload).mem = s.mem := by
  unfold notify
  split
  · exact (fieldNotify_mem _ _).trans (raise_mem _ _)
  · rfl

theorem countMs_mem (s : State) (e : Event) : (countMs s e).mem = s.mem := by
  unfold countMs
  split <;> rfl

theorem driveFaultN_mem (s : State) : (driveFaultN s).mem = s.mem := setCond_mem _ _ _

/-- A step that is taken or not leaves memory when the step does. -/
theorem ite_mem {b : Prop} [Decidable b] {s t : State} (h : t.mem = s.mem) : (if b then t else s).mem = s.mem := by
  split
  · exact h
  · rfl

/-- Each path of R388 is taken or not. -/
theorem report_mem (s : State) (e : Event) (entry : List Byte) : (report s e entry).mem = s.mem := by
  unfold report
  dsimp only
  rw [ite_mem (by rfl), ite_mem (driveFaultN_mem _), ite_mem (faultNotice_mem _ _), notify_mem, raiseAll_mem]

theorem writeEntryOf_mem (s : State) (e : Event) (outcome : Nat) : (writeEntryOf s e outcome).mem = s.mem := by
  unfold writeEntryOf
  dsimp only
  rw [report_mem, setReg_mem, setReg_mem, domWrite_mem]

theorem addTest_mem (s : State) (e : Event) (detail : Nat) (t : TestKind × Nat × Nat) : (addTest s e detail t).mem = s.mem := by
  unfold addTest
  dsimp only
  split <;> rfl

@[simp] theorem logEvent_mem (s : State) (e : Event) : (logEvent s e).mem = s.mem := by
  unfold logEvent
  dsimp only
  split
  · exact foldl_mem (fun t x => addTest_mem t e _ x) _ _
  · rw [foldl_mem (fun t x => addTest_mem t e _ x), writeEntryOf_mem, countMs_mem]

theorem logRetired_mem (s : State) (unit : Nat) (srcs : List Nat) (idx : Option Nat) :
    (logRetired s unit srcs idx).mem = s.mem := logEvent_mem s _

@[simp] theorem recordRetired_mem (s : State) (site unit loc : Nat) (srcs : List Nat) :
    (recordRetired s site unit loc srcs).mem = s.mem := by
  unfold recordRetired
  split
  · exact logRetired_mem s _ _ _
  · rw [logRetired_mem, domWrite_mem]

/-! The stop of a matrix operation (R106). -/

/-- `t` has the memory of `s`, and no captures that `s` has not. -/
structure KeepsCaptures (s t : State) : Prop where
  mem  : t.mem = s.mem
  caps : t.caps.length ≤ s.caps.length

theorem KeepsCaptures.refl (s : State) : KeepsCaptures s s := ⟨rfl, Nat.le_refl _⟩

theorem KeepsCaptures.trans {s t u : State} (h : KeepsCaptures s t) (k : KeepsCaptures t u) : KeepsCaptures s u :=
  ⟨k.mem.trans h.mem, k.caps.trans h.caps⟩

theorem KeepsCaptures.of_eq {s t : State} (hmem : t.mem = s.mem) (hcaps : t.caps = s.caps) : KeepsCaptures s t :=
  ⟨hmem, hcaps ▸ Nat.le_refl _⟩

theorem releaseTaps_keepsCaptures (s : State) : KeepsCaptures s (releaseTaps s) := by
  have hfold : ∀ (l : List Nat) (t : State), KeepsCaptures t (l.foldl (fun t d =>
      if !(reg t 0x6120 1).testBit d && reg t 0x2030 (0x29 + d) == 1 && !t.caps.any (fun c => c.array / 2 == d) then
        setReg t 0x2030 (0x29 + d) 0 else t) t) := by
    intro l
    induction l with
    | nil => exact KeepsCaptures.refl
    | cons d l ih =>
      refine fun t => KeepsCaptures.trans ?_ (ih _)
      dsimp only
      split
      · exact .of_eq rfl rfl
      · exact .refl t
  exact hfold _ s

theorem updOp_keepsCaptures (s : State) (tag : Nat) (f : Op → Op) : KeepsCaptures s (updOp s tag f) :=
  .of_eq (updOp_mem ..) (updOp_caps ..)

theorem setPart_keepsCaptures (s : State) (k : Nat) (p : Partition) : KeepsCaptures s (setPart s k p) :=
  .of_eq (setPart_mem ..) (setPart_caps ..)

theorem filterCaps_keepsCaptures (s : State) (p : Capture → Bool) : KeepsCaptures s { s with caps := s.caps.filter p } :=
  ⟨rfl, List.length_filter_le ..⟩

theorem discardCaps_keepsCaptures (s : State) (tag : Nat) (p : Capture → Bool) : KeepsCaptures s (discardCaps s tag p) := by
  unfold discardCaps
  exact ((filterCaps_keepsCaptures s _).trans (updOp_keepsCaptures _ tag _)).trans (releaseTaps_keepsCaptures _)

theorem finishIfDone_keepsCaptures (s : State) (tag : Nat) : KeepsCaptures s (finishIfDone s tag) := by
  unfold finishIfDone
  split
  · exact .refl s
  · exact .of_eq rfl rfl

theorem noteStop_keepsCaptures (s : State) (comm num t : Nat) : KeepsCaptures s (noteStop s comm num t) := by
  unfold noteStop
  split
  · exact .of_eq rfl rfl
  · exact .of_eq rfl rfl

theorem stopAt_keepsCaptures (s : State) (tag st t : Nat) : KeepsCaptures s (stopAt s tag st t) := by
  unfold stopAt
  split
  · exact .refl s
  next o _ =>
    dsimp only
    split
    · split
      · exact .refl s
      · exact (updOp_keepsCaptures s tag _).trans (discardCaps_keepsCaptures _ tag _)
    · refine KeepsCaptures.trans ?_ (finishIfDone_keepsCaptures _ tag)
      have hstop : ∀ k p f, KeepsCaptures s (updOp (setPart (discardCaps s tag (fun c => decide (t ≤ c.tile))) k p) tag f) :=
        fun k p f => ((discardCaps_keepsCaptures s tag _).trans (setPart_keepsCaptures _ k p)).trans (updOp_keepsCaptures _ tag f)
      split
      · exact (hstop _ _ _).trans (noteStop_keepsCaptures _ _ _ _)
      · exact hstop _ _ _

theorem stopMatrix_keepsCaptures (s : State) (tag st : Nat) : KeepsCaptures s (stopMatrix s tag st) := by
  unfold stopMatrix
  split
  · exact .refl s
  · exact stopAt_keepsCaptures s tag st _

/-! A captured tile (R169 to R171). How the slot's bytes are laid out is left open (log 39). -/

/-- The bytes of a range at `a` that is left open: the first one is the free value's. -/
theorem memByte_leaveOpen_first {s : State} {a len : Nat} (hret : retiredIn s a (len + 1) = []) :
    memByte (leaveOpen s a (len + 1)) a = BitVec.ofNat 8 (Config.freeValue s.freeCtr) := by
  have hbelow : SMap.has (s.mem.filter (fun e => decide (e.1 < a))) a = false := by
    rw [SMap.has_filter s.mem a (fun k => decide (k < a))]
    simp
  have habove : SMap.get (s.mem.filter (fun e => decide (a + (len + 1) ≤ e.1))) a (0 : Byte) = 0 := by
    rw [SMap.get_filter s.mem a 0 (fun k => decide (a + (len + 1) ≤ k))]
    simp
  unfold leaveOpen memByte
  simp only [hret, leBytes, List.range_succ_eq_map, List.zip_cons_cons, List.map_cons, List.contains_nil,
    Bool.false_eq_true, if_false, Nat.add_zero]
  rw [SMap.get_append, hbelow, if_neg Bool.false_ne_true, List.filter_cons]
  split
  · simp [SMap.get]
  next hzero =>
    rw [SMap.get_append, SMap.get_of_not_has, habove, ite_self]
    · exact (not_not.mp (decide_eq_true_iff.not.mp hzero)).symm
    · refine List.any_eq_false.mpr fun e he => ?_
      obtain ⟨⟨i, b⟩, hi, rfl⟩ := List.mem_map.mp (List.mem_filter.mp he).1
      obtain ⟨j, -, rfl⟩ := List.mem_map.mp (List.of_mem_zip hi).1
      simp

theorem leaveOpen_mem_congr {s u : State} (hmem : u.mem = s.mem) (hrel : u.rel = s.rel)
    (hfree : u.freeCtr = s.freeCtr) (a len : Nat) : (leaveOpen u a len).mem = (leaveOpen s a len).mem := by
  unfold leaveOpen retiredIn memByte
  dsimp only
  rw [hmem, hrel, hfree]

/-- Going from `s` to `t`, memory stays and nothing is captured, or one tile is captured, and its slot left open. -/
def CapturesOne (s t : State) : Prop :=
  KeepsCaptures s t ∨ ∃ c, t.caps = s.caps ++ [c] ∧ t.mem = (leaveOpen s (slotBase s c.ctx c.slot) c.size).mem

theorem CapturesOne.refl (s : State) : CapturesOne s s := .inl (.refl s)

/-- What a capture sees of a state. -/
structure CapturesAlike (s u : State) : Prop where
  mem     : u.mem = s.mem
  rel     : u.rel = s.rel
  free    : u.freeCtr = s.freeCtr
  dict    : u.dict = s.dict
  caps    : u.caps = s.caps

theorem updOp_capturesAlike (s : State) (tag : Nat) (f : Op → Op) : CapturesAlike s (updOp s tag f) :=
  ⟨updOp_mem .., updOp_rel .., updOp_freeCtr .., updOp_dict .., updOp_caps ..⟩

theorem setPart_capturesAlike (s : State) (k : Nat) (p : Partition) : CapturesAlike s (setPart s k p) :=
  ⟨setPart_mem .., setPart_rel .., setPart_freeCtr .., setPart_dict .., setPart_caps ..⟩

theorem CapturesAlike.fidelity {s u : State} (h : CapturesAlike s u) {a : Nat} : sieveFidelity u a = sieveFidelity s a := by
  unfold sieveFidelity sieveDraw reg
  rw [h.dict]

theorem CapturesOne.of_alike {s u t : State} (h : CapturesAlike s u) (k : CapturesOne u t) : CapturesOne s t := by
  rcases k with ⟨hmem, hcaps⟩ | ⟨c, hcaps, hmem⟩
  · exact .inl ⟨hmem.trans h.mem, h.caps ▸ hcaps⟩
  · refine .inr ⟨c, h.caps ▸ hcaps, hmem.trans ?_⟩
    have hslot : slotBase u c.ctx c.slot = slotBase s c.ctx c.slot := by
      unfold slotBase ctxRec reg
      rw [h.dict]
    rw [hslot, leaveOpen_mem_congr h.mem h.rel h.free]

theorem CapturesOne.congr {s t u : State} (h : CapturesOne s t) (hmem : u.mem = t.mem) (hcaps : u.caps = t.caps) :
    CapturesOne s u := by
  rcases h with ⟨hmem', hcaps'⟩ | ⟨c, hcaps', hmem'⟩
  · exact .inl ⟨hmem.trans hmem', hcaps ▸ hcaps'⟩
  · exact .inr ⟨c, hcaps.trans hcaps', hmem.trans hmem'⟩

theorem dropSample_capturesOne (s : State) (a : Nat) : CapturesOne s (dropSample s a) :=
  .inl (.of_eq (raise_mem _ _) (raise_signalsOnly _ _).caps_eq)

/-- A tile that is not selected for fidelity is captured, or its sample is dropped. -/
theorem captureTile_capturesOne {s : State} {a : Nat} (hfid : sieveFidelity s a = false) (ii tile : Nat) (o : Op)
    (rows cols : List Nat) (cIn : SMap Acc) : CapturesOne s (captureTile s a ii tile o rows cols cIn) := by
  unfold captureTile
  dsimp only
  split
  · exact dropSample_capturesOne s a
  · simp only [hfid, Bool.false_and, Bool.false_eq_true, if_false]
    split
    · exact dropSample_capturesOne s a
    · exact .inr ⟨_, updOp_caps .., updOp_mem ..⟩

theorem bump_caps (s : State) (i sub : Nat) : (bump s i sub).caps = s.caps := rfl

theorem offerTile_capturesOne {s : State} {a : Nat} (hfid : sieveFidelity s a = false) (ii tile : Nat) (o : Op)
    (rows cols : List Nat) (cIn : SMap Acc) : CapturesOne s (offerTile s a ii tile o rows cols cIn) := by
  unfold offerTile
  split
  · dsimp only
    refine CapturesOne.congr ?_ (bump_mem ..) (bump_caps ..)
    split
    · exact captureTile_capturesOne hfid ii tile o rows cols cIn
    · exact .refl s
  · exact .refl s

theorem beginTile_capturesOne {s : State} {a : Nat} (hfid : sieveFidelity s a = false) (ii t : Nat) (o : Op) :
    CapturesOne s (beginTile s a ii t o) := by
  unfold beginTile
  dsimp only
  split
  · exact .inl (stopAt_keepsCaptures s _ _ t)
  · have hset := setPart_capturesAlike s
    exact .of_alike (hset _ _) (offerTile_capturesOne ((hset _ _).fidelity.trans hfid) ii t o _ _ _)

theorem setPart_finish_keepsCaptures (s : State) (k : Nat) (p : Partition) (tag : Nat) :
    KeepsCaptures s (finishIfDone (setPart s k p) tag) :=
  (setPart_keepsCaptures s k p).trans (finishIfDone_keepsCaptures _ tag)

/-- An operation that begins has at most its first tile captured. -/
theorem beginOp_capturesOne {s : State} {a : Nat} (hfid : sieveFidelity s a = false) (ii : Nat) :
    CapturesOne s (beginOp s a ii) := by
  unfold beginOp
  dsimp only
  split
  · exact .refl s
  next tag _ =>
    split
    · exact .inl (setPart_keepsCaptures s _ _)
    · split
      · exact .refl s
      · split
        · exact .inl (setPart_finish_keepsCaptures s _ _ _)
        · split
          · split
            · exact .refl s
            · exact .inl ((updOp_keepsCaptures s tag _).trans (setPart_finish_keepsCaptures _ _ _ _))
          · have hupd := updOp_capturesAlike s tag
            have hset := fun f => setPart_capturesAlike (updOp s tag f)
            refine .of_alike (hupd _) (.of_alike (hset _ _ _) (beginTile_capturesOne ?_ ii _ _))
            exact (hset _ _ _).fidelity.trans ((hupd _).fidelity.trans hfid)

end Sys2Proof.Machine
end

section
/-! SUPPORT. A stop lets the operation behind begin (R106), and the sieve may capture its first tile (R169, R170): the
memory of the slot is then another one, although the stop goes on to that operation. -/

namespace Sys2Proof.Machine

/-- Once an operation computes, no other one begins. -/
theorem settle_of_begun {s : State} {a ii : Nat} (h : (partOf s (pkey a ii)).begun = true) (n : Nat) : settle n s a ii = s := by
  cases n with
  | zero => rfl
  | succ n => simp [settle, h]

/-- The operation at the front begins and computes. -/
theorem settlePart_mem_of_begins {s : State} {a ii : Nat} (hops : (partOf s (pkey a ii)).ops.isEmpty = false)
    (hidle : (partOf s (pkey a ii)).begun = false) (hbegun : (partOf (beginOp s a ii) (pkey a ii)).begun = true) :
    (settlePart s a ii).mem = (beginOp s a ii).mem := by
  unfold settlePart
  rw [showIdle_mem, settle]
  simp [hops, hidle, settle_of_begun hbegun]

theorem settlePart_mem_of_empty {s : State} {a ii : Nat} (hops : (partOf s (pkey a ii)).ops.isEmpty = true) :
    (settlePart s a ii).mem = s.mem := by
  unfold settlePart
  rw [showIdle_mem, settle]
  simp [hops]

/-- Where a capture stands, and its bytes. -/
def capPlace (c : Capture) : Nat × Nat × Nat := (c.ctx, c.slot, c.size)

/-- An operation whose first tile is captured leaves a free value in the first byte of the slot. -/
theorem memByte_beginOp_captured {s : State} {a ii ctx slot len : Nat} (hfid : sieveFidelity s a = false)
    (hcaps : (beginOp s a ii).caps.map capPlace = s.caps.map capPlace ++ [(ctx, slot, len + 1)])
    (hret : retiredIn s (slotBase s ctx slot) (len + 1) = []) :
    memByte (beginOp s a ii) (slotBase s ctx slot) = BitVec.ofNat 8 (Config.freeValue s.freeCtr) := by
  rcases beginOp_capturesOne hfid ii with ⟨-, hle⟩ | ⟨c, happ, hmem⟩
  · have hlen := congrArg List.length hcaps
    simp only [List.length_map, List.length_append, List.length_singleton] at hlen
    omega
  · have hplace : capPlace c = (ctx, slot, len + 1) := by simpa [happ] using hcaps
    obtain ⟨rfl, rfl, hsize⟩ : c.ctx = ctx ∧ c.slot = slot ∧ c.size = len + 1 := by simpa [capPlace] using hplace
    rw [hsize] at hmem
    rw [← memByte_leaveOpen_first hret]
    unfold memByte
    rw [hmem]

theorem announceStops_of_no_buckets {s : State} (h : s.buckets = []) : announceStops s = s := by
  unfold announceStops
  rw [h]
  rfl

/-- Tags of the operations that a retirement in array `a` stops. -/
def tagsStopped (s : State) (a : Nat) (bad : Nat → Bool) : List Nat :=
  (s.ops.filter (fun o => o.kind == .matrix && mArray o.desc.toNat == a && bad (mPart o.desc.toNat) && !o.ended)).map Op.tag

/-- The partition an operation runs in. -/
def opPlace (s : State) (tag : Nat) : Option (Nat × Nat) :=
  (findOp s tag).map (fun o => (mArray o.desc.toNat, mPart o.desc.toNat))

theorem stopMatrixGo_of_place {s : State} {tag a ii : Nat} (h : opPlace s tag = some (a, ii)) (st : Nat) :
    stopMatrixGo s tag st = settlePart (stopMatrix s tag st) a ii := by
  unfold opPlace at h
  unfold stopMatrixGo
  cases ho : findOp s tag with
  | none => simp [ho] at h
  | some o =>
    obtain ⟨rfl, rfl⟩ : mArray o.desc.toNat = a ∧ mPart o.desc.toNat = ii := by simpa [ho] using h
    rfl

/-- Two operations stand in partition `ii` of array `a` and in no other: the first computes, and the sieve would capture
the first tile of the second at `addr`, where free value number `ctr` is the next. -/
structure CaptureBehind (s : State) (a ii first second ctx slot len addr ctr : Nat) (bad : Nat → Bool) : Prop where
  tags     : tagsStopped s a bad = [first, second]
  place    : opPlace s first = some (a, ii)
  waits    : (partOf (stopMatrix s first stHwFault) (pkey a ii)).ops.isEmpty = false
  idle     : (partOf (stopMatrix s first stHwFault) (pkey a ii)).begun = false
  computes : (partOf (beginOp (stopMatrix s first stHwFault) a ii) (pkey a ii)).begun = true
  fidelity : sieveFidelity (stopMatrix s first stHwFault) a = false
  captured : (beginOp (stopMatrix s first stHwFault) a ii).caps.map capPlace =
    (stopMatrix s first stHwFault).caps.map capPlace ++ [(ctx, slot, len + 1)]
  address  : slotBase (stopMatrix s first stHwFault) ctx slot = addr
  usable   : retiredIn (stopMatrix s first stHwFault) addr (len + 1) = []
  counter  : (stopMatrix s first stHwFault).freeCtr = ctr
  place'   : opPlace (stopMatrixGo s first stHwFault) second = some (a, ii)
  last     : (partOf (stopMatrix (stopMatrixGo s first stHwFault) second stHwFault) (pkey a ii)).ops.isEmpty = true
  buckets  : (stopMatrixGo (stopMatrixGo s first stHwFault) second stHwFault).buckets = []

/-- The stop of the first operation stands in memory after both have stopped. -/
theorem memByte_faultParts {s : State} {a ii first second ctx slot len addr ctr : Nat} {bad : Nat → Bool}
    (h : CaptureBehind s a ii first second ctx slot len addr ctr bad) :
    memByte (faultParts s a bad) addr = BitVec.ofNat 8 (Config.freeValue ctr) := by
  have hparts : faultParts s a bad = stopMatrixGo (stopMatrixGo s first stHwFault) second stHwFault := by
    unfold faultParts
    rw [show (s.ops.filter _).map Op.tag = [first, second] from h.tags]
    exact announceStops_of_no_buckets h.buckets
  have hsecond : (stopMatrixGo (stopMatrixGo s first stHwFault) second stHwFault).mem = (stopMatrixGo s first stHwFault).mem := by
    rw [stopMatrixGo_of_place h.place', settlePart_mem_of_empty h.last, (stopMatrix_keepsCaptures _ _ _).mem]
  have hfirst : (stopMatrixGo s first stHwFault).mem = (beginOp (stopMatrix s first stHwFault) a ii).mem := by
    rw [stopMatrixGo_of_place h.place, settlePart_mem_of_begins h.waits h.idle h.computes]
  have hbyte := memByte_beginOp_captured h.fidelity h.captured (h.address ▸ h.usable)
  rw [h.address, h.counter] at hbyte
  rw [hparts, ← hbyte]
  unfold memByte
  rw [hsecond, hfirst]

/-- The state in which a retirement of engine `n` stops the operations of array `n`. -/
def beforeArrayStop (s : State) (n : Nat) : State :=
  stopBound (setReg (recordRetired (nextFree (dropEngine s n)) 5 (4 + n) (openLoc s) []) (0x2200 + n) 0x0A 0xFFFF) n 4
    (fun _ => true)

theorem retireEngine_mem (s : State) (n : Nat) :
    (retireEngine s n).mem = (faultParts (beforeArrayStop s n) n (fun _ => true)).mem := by
  unfold retireEngine retireArray
  rw [recordRetired_mem, nextFree_mem]
  rfl

end Sys2Proof.Machine
end

section
/-! REFUTATIONS of O5 and O60. Engine 0 is retired while a matrix operation computes in array 0 and a second one waits
behind it. The array goes with the engine (Table 18.6), so both are stopped, the first one first; the second begins, its
first tile is sampled, and its capture slot is overwritten before it is stopped too. -/

namespace Sys2Proof.Machine

/-- The first capture slot of context 0, in loam. -/
def sieveSlot : Nat := loamBase + 0x100000

/-- A MATMUL of one tile on array 0. -/
def oneTile : Nat :=
  (1 + 2 ^ 8) + 2 ^ 192 * (1 + 2 ^ 20 + 2 ^ 40) + 2 ^ 256 * (loamBase + 0x1000 + 2 ^ 44 * 3) + 2 ^ 320 * 2 ^ 44
    + 2 ^ 384 * (loamBase + 0x2000 + 2 ^ 44 * 3) + 2 ^ 448 * 2 ^ 44 + 2 ^ 512 * (loamBase + 0x3000) + 2 ^ 576 * 2 ^ 44

/-- A context record with its memory and its sieve area. -/
def sieveCtx : Nat := 2 ^ 192 * (loamBase + 2 ^ 44) + 2 ^ 576 * (sieveSlot + 2 ^ 44)

def oneTileOp (tag : Nat) : Op := newOp State.reset tag 0 0 .matrix (BitVec.ofNat 1024 oneTile)

/-- A byte that is not the free value's. -/
def otherByte : Byte := if BitVec.ofNat 8 (Config.freeValue 2) = 1 then 2 else 1

theorem otherByte_ne : otherByte ≠ BitVec.ofNat 8 (Config.freeValue 2) := by
  unfold otherByte
  split
  next h => rw [h]; decide
  next h => exact Ne.symm h

/-- Partition 0 of array 0 computes operation 0, and operation 1 stands behind it; every tile is sampled. -/
def twoOps (startState steps : Nat) (tests : List Test) : State :=
  { State.reset with
    mem := [(sieveSlot, otherByte)]
    dict := [(dkey 0x2001 1, startState), (dkey 0x2001 2, steps), (dkey 0x4100 1, sieveCtx), (dkey 0x6120 2, 0)]
    rel := { State.reset.rel with tests := tests }
    ops := [oneTileOp 0, oneTileOp 1]
    parts := [(0, { Partition.idle with
      ops := [0, 1], inRun := true, begun := true
      flights := [{ tag := 0, tile := 0, fed := 0, rows := [0], cols := [0], acc := [], slices := [], cross := 0 }] })] }

/-- Such a retirement does not leave memory as it was. -/
theorem retireEngine_changes_mem {s : State} {first second len : Nat}
    (h : CaptureBehind (beforeArrayStop s 0) 0 0 first second 0 0 len sieveSlot 2 (fun _ => true)) :
    (retireEngine s 0).mem ≠ [(sieveSlot, otherByte)] := by
  intro hmem
  have hbyte := memByte_faultParts h
  unfold memByte at hbyte
  rw [← retireEngine_mem, hmem] at hbyte
  exact otherByte_ne (by simpa [SMap.get] using hbyte)

/-! O5: the array self-test of TEST finds engine 0 bad. -/

def arrayTestDue : State := twoOps 2 (2 ^ 4) []

theorem arrayTestDue_captures :
    CaptureBehind (beforeArrayStop arrayTestDue 0) 0 0 0 1 0 0 13 sieveSlot 2 (fun _ => true) := by
  constructor <;> decide +kernel

theorem setStep_mem (s : State) (n : Nat) : (setStep s n).mem = s.mem := rfl

/-- A row that is due with one bad engine: its retirement, and the mark of the step. -/
theorem exec_arraySelfTest_badEngine {s : State} (hdue : trackDue s 4 5 = true) (hcool : s.pins.coolantOk = true)
    (hpace : s.pins.paceHoldN = true) {n : EngineId} (hlive : engineRetired s n.val = false) :
    exec (.arraySelfTestComplete [] [n]) s = .next (setStep (retireEngine s n.val) 5) := by
  show execArraySelfTestComplete [] [n] s = _
  simp [execArraySelfTestComplete, hdue, hcool, hpace, hlive, List.eraseDups_cons]

/-- Refutes O5: a bad engine of the array self-test takes its array with it; the stop of the array's first operation lets the
next one begin, whose captured tile overwrites its sieve slot. -/
theorem not_startUpStepsComeInOrder : ¬ Obligations.StartUpStepsComeInOrder := by
  unfold Obligations.StartUpStepsComeInOrder
  intro h
  obtain ⟨-, -, -, -, -, -, -, -, hselfTest, -⟩ := h arrayTestDue
  have hdue : trackDue arrayTestDue 4 5 = true := by decide +kernel
  have hcool : arrayTestDue.pins.coolantOk = true := by decide +kernel
  have hpace : arrayTestDue.pins.paceHoldN = true := by decide +kernel
  obtain ⟨-, hbad⟩ := hselfTest hdue hcool hpace
  obtain ⟨t, ht, -, hmem⟩ := hbad [] [0]
  have hexec := exec_arraySelfTest_badEngine (n := 0) hdue hcool hpace (by decide +kernel)
  rw [← Host.Outcome.next.inj (hexec.symm.trans ht), setStep_mem] at hmem
  exact retireEngine_changes_mem arrayTestDue_captures hmem

/-! O60: a test of engine 0 runs and fails. -/

def engineTest : Test :=
  { unit := 4, kind := .engine, code := 5, loc := 0, detail := 0, running := true, cell := none, capture := none }

def engineTestRuns : State := twoOps 3 0xFFF [engineTest]

/-- The unit failed its program. -/
def engineFails : TestResult :=
  { pass := false, upsets := [], badSpareRows := [], badSpareCols := [], wire := 0, lowHalfOk := true, highHalfOk := true,
    recompute := [] }

/-- A test has been taken off the list, counted and logged as LASTING. -/
def testLogged (s : State) (x : Test) : State :=
  logOutcome (bump { s with rel := { s.rel with tests := s.rel.tests.erase x } } 0x8000 8) x 3

def engineTestLogged : State := testLogged engineTestRuns engineTest

theorem engineTestLogged_captures :
    CaptureBehind (beforeArrayStop engineTestLogged 0) 0 0 0 1 0 0 13 sieveSlot 2 (fun _ => true) := by
  constructor <;> decide +kernel

/-- A failing engine test is LASTING, and its engine is retired. -/
theorem endTest_engine_failed {s : State} {x : Test} {r : TestResult} (hkind : x.kind = .engine) (hpass : r.pass = false)
    (hcell : x.capture = none) :
    endTest s x r = retireEngine (testLogged s x) (x.unit - 4) := by
  have hfails : testPasses x r = false := by simp [testPasses, hkind, hpass]
  have hlasting : ∀ u, outcomeOf u x false = 3 := fun u => by simp [outcomeOf]
  have hkeeps : ∀ u v, recomputeFails u v x r = false := fun u v => by simp [recomputeFails, hcell]
  simp [endTest, testLogged, hfails, hlasting, hkeeps, keepRecirc, hcell, repairSite, hkind]

theorem exec_targetedSelfTestEnd_runs {s : State} {unit : Fin 64} {r : TestResult} {x : Test}
    (hfind : s.rel.tests.find? (fun t => t.unit == unit.val && t.running && t.kind != .lane) = some x)
    (hruns : testsRun s = true) : exec (.targetedSelfTestEnd unit r) s = .next (endTest s x r) := by
  show execTargetedSelfTestEnd unit r s = _
  unfold execTargetedSelfTestEnd
  rw [hfind]
  dsimp only
  rw [if_pos hruns]

/-- Refutes O60: an engine that fails its test is retired with its array; the stop of the array's first operation lets the
next one begin, whose captured tile overwrites its sieve slot. -/
theorem not_selfTestsClassifyRepairAndRetire : ¬ Obligations.SelfTestsClassifyRepairAndRetire := by
  unfold Obligations.SelfTestsClassifyRepairAndRetire
  intro h
  obtain ⟨-, -, -, hend, -⟩ := h engineTestRuns
  have hruns : testsRun engineTestRuns = true := by decide +kernel
  have hfind : engineTestRuns.rel.tests.find? (fun t => t.unit == (4 : Fin 64).val && t.running && t.kind != .lane) =
    some engineTest := by decide +kernel
  obtain ⟨⟨t, ht, -, hmem⟩, -⟩ := hend 4 engineFails engineTest hruns hfind
  have hexec := exec_targetedSelfTestEnd_runs (r := engineFails) hfind hruns
  rw [endTest_engine_failed rfl rfl rfl] at hexec
  rw [← Host.Outcome.next.inj (hexec.symm.trans ht)] at hmem
  exact retireEngine_changes_mem engineTestLogged_captures hmem

end Sys2Proof.Machine
end

section
/-! SUPPORT. What a report leaves alone (R386 to R389): all but the registers, the dictionary and the units that report. And the
stop of a queue (R317). -/

namespace Sys2Proof.Machine

/-! Reports. -/

/-- `t` is `s` but for what an event's reports may change: BAR0, the dictionary, the interrupt controller, the fabric, frames,
the reliability unit, the AON domain and what the device puts out. -/
def ReportsOnly (s t : State) : Prop :=
  ∃ aon bar dict domains fab frames irq out rel, t = { s with
    aon := aon, bar := bar, dict := dict, domains := domains, fab := fab, frames := frames, irq := irq, out := out, rel := rel }

namespace ReportsOnly

variable {s t u : State}

/-- An update of no other fields. -/
theorem of_update (s : State) (aon : Aon) (bar : SMap Nat) (dict : SMap Nat) (domains : List Host.Cell) (fab : Fabric)
    (frames : Frames) (irq : Irq) (out : List Output) (rel : Rel) : ReportsOnly s { s with
      aon := aon, bar := bar, dict := dict, domains := domains, fab := fab, frames := frames, irq := irq, out := out,
      rel := rel } := ⟨_, _, _, _, _, _, _, _, _, rfl⟩

theorem refl (s : State) : ReportsOnly s s := ⟨_, _, _, _, _, _, _, _, _, rfl⟩

theorem trans (h : ReportsOnly s t) (k : ReportsOnly t u) : ReportsOnly s u := by
  obtain ⟨_, _, _, _, _, _, _, _, _, rfl⟩ := h
  obtain ⟨_, _, _, _, _, _, _, _, _, rfl⟩ := k
  exact ⟨_, _, _, _, _, _, _, _, _, rfl⟩

theorem foldl {α : Type} {f : State → α → State} (hf : ∀ s x, ReportsOnly s (f s x)) (xs : List α) (s : State) :
    ReportsOnly s (xs.foldl f s) := by
  induction xs generalizing s with
  | nil => exact refl s
  | cons x xs ih => exact (hf s x).trans (ih (f s x))

/-- A report that is made or not. -/
theorem ite {b : Prop} [Decidable b] (h : ReportsOnly s t) : ReportsOnly s (if b then t else s) := by
  split
  · exact h
  · exact refl s

theorem mem_eq (h : ReportsOnly s t) : t.mem = s.mem := by
  obtain ⟨_, _, _, _, _, _, _, _, _, rfl⟩ := h
  rfl

theorem ops_eq (h : ReportsOnly s t) : t.ops = s.ops := by
  obtain ⟨_, _, _, _, _, _, _, _, _, rfl⟩ := h
  rfl

theorem parts_eq (h : ReportsOnly s t) : t.parts = s.parts := by
  obtain ⟨_, _, _, _, _, _, _, _, _, rfl⟩ := h
  rfl

theorem arrays_eq (h : ReportsOnly s t) : t.arrays = s.arrays := by
  obtain ⟨_, _, _, _, _, _, _, _, _, rfl⟩ := h
  rfl

theorem fuses_eq (h : ReportsOnly s t) : t.fuses = s.fuses := by
  obtain ⟨_, _, _, _, _, _, _, _, _, rfl⟩ := h
  rfl

theorem findOp_eq (h : ReportsOnly s t) (tag : Nat) : findOp t tag = findOp s tag := by
  unfold findOp
  rw [h.ops_eq]

end ReportsOnly

theorem SignalsOnly.reportsOnly {s t : State} (h : SignalsOnly s t) : ReportsOnly s t := by
  obtain ⟨_, _, _, rfl⟩ := h
  exact .of_update ..

theorem SignalsOnly.reg_eq {s t : State} (h : SignalsOnly s t) (i sub : Nat) : reg t i sub = reg s i sub := by
  obtain ⟨_, _, _, rfl⟩ := h
  rfl

theorem setReg_reportsOnly (s : State) (i sub v : Nat) : ReportsOnly s (setReg s i sub v) := .of_update ..

theorem raise_reportsOnly (s : State) (n : Nat) : ReportsOnly s (raise s n) := (raise_signalsOnly s n).reportsOnly

/-! Messages (R259 to R269). -/

theorem beginReq_reportsOnly (s : State) (m : Msg) : ReportsOnly s (beginReq s m) := by
  unfold beginReq
  exact .ite (.of_update ..)

theorem sendCell_reportsOnly {s t : State} {p : Nat} (h : sendCell s p = some t) : ReportsOnly s t := by
  unfold sendCell at h
  dsimp only at h
  split at h
  · cases h
  · split at h
    · cases h
    · cases h
      refine ReportsOnly.trans ?_ ((ReportsOnly.foldl beginReq_reportsOnly _ _).trans (.of_update ..))
      exact .of_update ..

theorem sendCells_reportsOnly (k : Nat) (s : State) (p : Nat) : ReportsOnly s (sendCells k s p) := by
  induction k generalizing s with
  | zero => exact .refl s
  | succ k ih =>
    unfold sendCells
    split
    · exact .refl s
    next t ht => exact (sendCell_reportsOnly ht).trans (ih t)

theorem sendOn_reportsOnly (s : State) (p w : Nat) (m : Msg) : ReportsOnly s (sendOn s p w m) := by
  unfold sendOn pumpPort
  exact (ReportsOnly.of_update ..).trans (sendCells_reportsOnly _ _ _)

theorem trySend_reportsOnly {s t : State} {m : Msg} (h : trySend s m = some t) : ReportsOnly s t := by
  unfold trySend at h
  split at h
  · cases h
    exact (ReportsOnly.of_update ..).trans (beginReq_reportsOnly _ m)
  · split at h
    · cases h
    · cases h
      exact sendOn_reportsOnly s _ _ m

theorem sendOrDrop_reportsOnly (s : State) (m : Msg) : ReportsOnly s (sendOrDrop s m) := by
  unfold sendOrDrop
  split
  next ht => exact trySend_reportsOnly ht
  · exact (setReg_reportsOnly s _ _ _).trans (raise_reportsOnly _ _)

theorem noticeAll_reportsOnly (s : State) (type : Nat) (body : Line) : ReportsOnly s (noticeAll s type body) :=
  .foldl (fun t p => sendOn_reportsOnly t p _ _) _ s

/-! Events. -/

theorem faultNotice_reportsOnly (s : State) (entry : List Byte) : ReportsOnly s (faultNotice s entry) := by
  unfold faultNotice
  exact (noticeAll_reportsOnly s 1 _).trans (.foldl (fun t _ => sendOrDrop_reportsOnly t _) _ _)

theorem fieldNotify_reportsOnly (s : State) (f : List Byte) : ReportsOnly s (fieldNotify s f) := by
  unfold fieldNotify
  dsimp only
  split
  · exact .refl s
  · split
    · exact .of_update ..
    · split
      · exact .of_update ..
      · exact .of_update ..

theorem notify_reportsOnly (s : State) (bit index sub : Nat) (payload : List Byte) :
    ReportsOnly s (notify s bit index sub payload) := by
  unfold notify
  refine .ite (ReportsOnly.trans ?_ ((raise_reportsOnly _ _).trans (fieldNotify_reportsOnly _ _)))
  exact .of_update ..

theorem driveFaultN_reportsOnly (s : State) : ReportsOnly s (driveFaultN s) :=
  (ReportsOnly.of_update ..).trans (setCond_signalsOnly _ _ _).reportsOnly

/-- Each path of R388 is taken or not. -/
theorem report_reportsOnly (s : State) (e : Event) (entry : List Byte) : ReportsOnly s (report s e entry) := by
  unfold report
  extract_lets s1 s2 s3 s4
  have h1 : ReportsOnly s s1 := .foldl raise_reportsOnly _ s
  have h2 : ReportsOnly s1 s2 := notify_reportsOnly s1 _ _ _ _
  have h3 : ReportsOnly s2 s3 := .ite (faultNotice_reportsOnly s2 entry)
  have h4 : ReportsOnly s3 s4 := .ite (driveFaultN_reportsOnly s3)
  exact h1.trans (h2.trans (h3.trans (h4.trans (.ite (.of_update ..)))))

theorem writeEntryOf_reportsOnly (s : State) (e : Event) (outcome : Nat) : ReportsOnly s (writeEntryOf s e outcome) := by
  unfold writeEntryOf
  extract_lets n entry s1 s2
  have h1 : ReportsOnly s s1 := .of_update ..
  have h2 : ReportsOnly s1 s2 := (setReg_reportsOnly s1 _ _ _).trans (setReg_reportsOnly _ _ _ _)
  exact h1.trans (h2.trans (report_reportsOnly s2 e entry))

theorem addTest_reportsOnly (s : State) (e : Event) (detail : Nat) (t : TestKind × Nat × Nat) :
    ReportsOnly s (addTest s e detail t) := by
  unfold addTest
  dsimp only
  split
  · exact .of_update ..
  · exact .of_update ..

theorem logEvent_reportsOnly (s : State) (e : Event) : ReportsOnly s (logEvent s e) := by
  have hcount : ReportsOnly s (countMs s e) := .ite (.of_update ..)
  have htests : ∀ n t, ReportsOnly t (e.tests.foldl (fun t x => addTest t e n x) t) :=
    fun n t => .foldl (fun t x => addTest_reportsOnly t e n x) _ t
  unfold logEvent
  dsimp only
  split
  · exact (setReg_reportsOnly s _ _ _).trans (htests _ _)
  · exact (hcount.trans (writeEntryOf_reportsOnly _ e 0)).trans (htests _ _)

/-! The stop of a queue (R317). -/

/-- A queue's state is one entry; the rest of the dictionary stays. -/
theorem reg_setQState (s : State) (q st i sub : Nat) :
    reg (setQState s q st) i sub = reg (setReg s (0x2100 + q) 2 st) i sub := (setCond_signalsOnly _ _ _).reg_eq i sub

theorem stopQueue_reportsOnly (s : State) (q reason : Nat) : ReportsOnly s (stopQueue s q reason) := by
  unfold stopQueue
  split
  · exact .refl s
  · exact ((setReg_reportsOnly s _ _ _).trans (setCond_signalsOnly _ _ _).reportsOnly).trans (setReg_reportsOnly _ _ _ _)

theorem reg_stopQueue_ne {s : State} {q i sub : Nat} (reason : Nat) (hstate : dkey i sub ≠ dkey (0x2100 + q) 2)
    (hreason : dkey i sub ≠ dkey (0x2100 + q) 4) : reg (stopQueue s q reason) i sub = reg s i sub := by
  unfold stopQueue
  split
  · rfl
  · rw [reg_setReg_ne _ _ hreason, reg_setQState, reg_setReg_ne _ _ hstate]

/-- A queue that is held is STOPPED with the reason. -/
theorem stopQueue_of_held {s : State} {q : Nat} (reason : Nat) (h : qState s q ≠ 0) :
    qState (stopQueue s q reason) q = 3 ∧ reg (stopQueue s q reason) (0x2100 + q) 4 = reason := by
  unfold stopQueue
  rw [if_neg h]
  refine ⟨?_, reg_setReg_same _ _ _ _⟩
  rw [qState, reg_setReg_ne _ _ (by unfold dkey; omega), reg_setQState, reg_setReg_same]

/-- PARTITION_MODE of an array stands apart from the entries that a stop of queues writes. -/
theorem partMode_stopBound (s : State) (a b reason : Nat) (bad : Nat → Bool) :
    partMode (stopBound s b reason bad) a = partMode s a := by
  have hfold : ∀ (l : List Nat) (t : State), partMode (l.foldl (fun t q => stopQueue t q reason) t) a = partMode t a := by
    intro l
    induction l with
    | nil => exact fun _ => rfl
    | cons q l ih =>
      refine fun t => (ih _).trans (reg_stopQueue_ne reason ?_ ?_)
      · unfold dkey; omega
      · unfold dkey; omega
  exact hfold _ s

theorem stopBound_reportsOnly (s : State) (a reason : Nat) (bad : Nat → Bool) : ReportsOnly s (stopBound s a reason bad) :=
  .foldl (fun t q => stopQueue_reportsOnly t q reason) _ s

end Sys2Proof.Machine
end

section
/-! SUPPORT. The record of an operation (R104, R382), its deadline (R108), and the array commands (R74, R88). -/

namespace Sys2Proof.Machine

/-! Deadlines (R107, R108). -/

@[simp] theorem Op.stamp_recorded (t : Nat) (o : Op) : (o.stamp t).recorded = o.recorded := by unfold Op.stamp; split <;> rfl
@[simp] theorem Op.stamp_dlHandled (t : Nat) (o : Op) : (o.stamp t).dlHandled = o.dlHandled := by unfold Op.stamp; split <;> rfl
@[simp] theorem Op.stamp_missed (t : Nat) (o : Op) : (o.stamp t).missed = o.missed := by unfold Op.stamp; split <;> rfl

/-- A deadline that has been tested, or is still to come, is not tested now. -/
theorem testExpired_of_tested {s : State} {o : Op} (h : DeadlineTested s o) : testExpired s o = s := by
  unfold testExpired
  split
  · rfl
  next t0 ht0 =>
    refine if_neg ?_
    rcases h t0 ht0 with hlater | hhandled | hstopped
    · simp [Nat.not_le.mpr hlater]
    · simp [hhandled]
    · simp [hstopped]

/-- The deadline `t0` of `o` has come and is to be tested. -/
structure DeadlineDue (s : State) (o : Op) (t0 : Nat) : Prop where
  given    : o.deadline = some t0
  come     : t0 ≤ now s
  untested : o.dlHandled = false
  noRecord : o.recorded = false
  noStop   : stopped s = false
  clock    : clockOn s = true

theorem testExpired_of_due {s : State} {o : Op} {t0 : Nat} (h : DeadlineDue s o t0) : testExpired s o = deadlineTest s o t0 := by
  obtain ⟨given, come, untested, noRecord, noStop, clock⟩ := h
  simp [testExpired, given, come, untested, noRecord, noStop, clock]

theorem deadlineTest_of_met {s : State} {o : Op} {t0 : Nat} (h : metBy o t0 = true) :
    deadlineTest s o t0 = updOp s o.tag (fun x => { x with dlHandled := true }) := by simp [deadlineTest, h]

/-- A deadline missed by an operation that goes on: it is handled and missed, and the fault is logged. -/
theorem deadlineTest_of_late {s : State} {o : Op} {t0 : Nat} (h : metBy o t0 = false) (hgoes : dAbort o.desc.toNat = false) :
    ∃ e, deadlineTest s o t0 =
      logEvent (updOp (updOp s o.tag (fun x => { x with dlHandled := true })) o.tag (fun x => { x with missed := true })) e := by
  simp only [deadlineTest, h, hgoes, Bool.false_eq_true, if_false]
  exact ⟨_, rfl⟩

/-- The test of a deadline at which operations go on: the operation is handled, and missed unless it was complete in time. -/
theorem deadlineTest_handles {s : State} {tag t0 : Nat} {o : Op} (ho : findOp s tag = some o)
    (hgoes : dAbort o.desc.toNat = false) :
    ∃ o', findOp (deadlineTest s o t0) tag = some o' ∧ o'.dlHandled = true ∧ o'.missed = (o.missed || !metBy o t0) ∧
      o'.status = o.status ∧ o'.ended = o.ended := by
  obtain rfl := findOp_tag ho
  have hhandled := findOp_updOp_same (f := fun x => { x with dlHandled := true }) (fun _ => rfl) ho
  cases hmet : metBy o t0 with
  | true =>
    rw [deadlineTest_of_met hmet]
    exact ⟨_, hhandled, by simp⟩
  | false =>
    have hmissed := findOp_updOp_same (f := fun x => { x with missed := true }) (fun _ => rfl) hhandled
    obtain ⟨e, he⟩ := deadlineTest_of_late hmet hgoes
    rw [he, (logEvent_reportsOnly _ e).findOp_eq]
    exact ⟨_, hmissed, by simp⟩

/-- Such a test changes neither memory nor partitions. -/
theorem deadlineTest_frame {s : State} {o : Op} (t0 : Nat) (hgoes : dAbort o.desc.toNat = false) :
    (deadlineTest s o t0).mem = s.mem ∧ (deadlineTest s o t0).parts = s.parts := by
  cases hmet : metBy o t0 with
  | true =>
    rw [deadlineTest_of_met hmet]
    exact ⟨updOp_mem .., updOp_parts ..⟩
  | false =>
    obtain ⟨e, he⟩ := deadlineTest_of_late hmet hgoes
    rw [he]
    exact ⟨(logEvent_reportsOnly _ e).mem_eq, (logEvent_reportsOnly _ e).parts_eq⟩

theorem exec_operationDeadlineExpiry {s : State} {tag : TagId} {o : Op} (ho : findOp s tag = some o) :
    exec (.operationDeadlineExpiry tag) s = .next (testExpired s o) := by
  show execOperationDeadlineExpiry tag s = _
  simp [execOperationDeadlineExpiry, ho]

/-! The completion record (R104). -/

/-- The record of `o` stands ready and its energy is counted; its queue goes on. -/
def recordCounted (s : State) (o : Op) : State :=
  bumpBy (updOp (pushRecord s (ringOf o) (recordOf o) (some o.tag)) o.tag (fun x => { x with recorded := true }))
    (0x3100 + o.ctx) 1 (o.energy * 16 / 1000)

theorem readyRecord_eq (s : State) (o : Op) :
    readyRecord s o = if stopsQueue o.status then stopQueue (recordCounted s o) o.queue 1 else recordCounted s o := rfl

theorem readyRecord_reportsOnly (s : State) (o : Op) : ReportsOnly (recordCounted s o) (readyRecord s o) := by
  rw [readyRecord_eq]
  exact .ite (stopQueue_reportsOnly _ _ _)

theorem readyRecord_mem (s : State) (o : Op) : (readyRecord s o).mem = s.mem := (readyRecord_reportsOnly s o).mem_eq

theorem readyRecord_parts (s : State) (o : Op) : (readyRecord s o).parts = s.parts := (readyRecord_reportsOnly s o).parts_eq

theorem findOp_readyRecord {s : State} {tag : Nat} {o : Op} (ho : findOp s tag = some o) :
    findOp (readyRecord s o) tag = some ({ o with recorded := true }.stamp s.aon.time) := by
  obtain rfl := findOp_tag ho
  rw [(readyRecord_reportsOnly s o).findOp_eq]
  exact findOp_updOp_same (s := pushRecord s (ringOf o) (recordOf o) (some o.tag)) (f := fun x => { x with recorded := true })
    (fun _ => rfl) ho

/-- The entry of a context's energy is not one that the stop of a queue writes. -/
theorem reg_energy_readyRecord (s : State) (o : Op) :
    reg (readyRecord s o) (0x3100 + o.ctx) 1 = (reg s (0x3100 + o.ctx) 1 + o.energy * 16 / 1000) % 2 ^ 64 := by
  have hcounted : reg (recordCounted s o) (0x3100 + o.ctx) 1 = (reg s (0x3100 + o.ctx) 1 + o.energy * 16 / 1000) % 2 ^ 64 :=
    reg_setReg_same _ _ _ _
  rw [readyRecord_eq]
  split
  · rw [reg_stopQueue_ne 1 (by unfold dkey; omega) (by unfold dkey; omega), hcounted]
  · exact hcounted

theorem qState_recordCounted (s : State) (o : Op) (q : Nat) : qState (recordCounted s o) q = qState s q :=
  reg_setReg_ne _ _ (by unfold dkey; omega)

theorem stopsQueue_iff (st : Nat) : stopsQueue st = true ↔ st = stTimeout ∨ st = stAbandoned ∨ st = stHwFault := by
  simp [stopsQueue, or_assoc]

theorem readyRecord_stops {s : State} {o : Op} (hstops : stopsQueue o.status = true) (hheld : qState s o.queue ≠ 0) :
    qState (readyRecord s o) o.queue = 3 ∧ reg (readyRecord s o) (0x2100 + o.queue) 4 = 1 := by
  rw [readyRecord_eq, if_pos hstops]
  exact stopQueue_of_held 1 (qState_recordCounted s o _ ▸ hheld)

theorem readyRecord_keepsQueue {s : State} {o : Op} (hgoes : ¬ stopsQueue o.status = true) :
    qState (readyRecord s o) o.queue = qState s o.queue := by
  rw [readyRecord_eq, if_neg hgoes, qState_recordCounted]

theorem exec_completionRecord {s : State} {tag : TagId} {o o' : Op} (hclock : clockOn s = true) (ho : findOp s tag = some o)
    (hready : recordReady o = true) (ho' : findOp (testExpired s o) tag = some o') :
    exec (.completionRecord tag) s = .next (readyRecord (testExpired s o) o') := by
  show execCompletionRecord tag s = _
  simp [execCompletionRecord, ho, hclock, hready, ho']

theorem recordReady_not_recorded {o : Op} (h : recordReady o = true) : o.recorded = false := by
  simp only [recordReady, Bool.and_eq_true, Bool.not_eq_true'] at h
  exact h.1.1.2

/-! Array commands (R74, R88). -/

/-- A write that may be made has its effect, and the answer OK (R351). -/
theorem guarded_of_writeOk {s : State} {p : Path} {i sub len v : Nat} {pre : State → Nat} (eff : State → State)
    (h : WriteOk s p i sub len v (pre s)) : guarded s p i sub len v pre eff = .next (answered (eff s) p) := by
  obtain ⟨live, passes, free, range⟩ := h
  simp [guarded, answerTo, tryWrite, live, passes, free, range]

@[simp] theorem arrayOf_setArray_same (s : State) (a : Nat) (u : ArrayUnit) : arrayOf (setArray s a u) a = u := by
  simp [arrayOf, setArray]

/-- The records and the spares they use are entries. -/
theorem setRecords_reportsOnly (s : State) (a : Nat) (l : List Nat) : ReportsOnly s (setRecords s a l) := by
  have hlist : ReportsOnly s ((List.range 32).foldl (fun t i => setReg t (0x2210 + a) (i + 1) (l.getD i 0)) s) :=
    .foldl (fun t i => setReg_reportsOnly t _ _ _) _ s
  exact hlist.trans ((setReg_reportsOnly _ _ _ _).trans (setReg_reportsOnly _ _ _ _))

/-- The end of a burn: the records are entries no longer SOFT, the fuses hold them, and the array burns no longer. -/
theorem burnRecords_eq (s : State) (a : Nat) : ∃ u, ReportsOnly s u ∧
    burnRecords s a = setArray { u with fuses := { u.fuses with
      repairs := SMap.set u.fuses.repairs a
        (SMap.get u.fuses.repairs a [] ++ (softRecords s a).map (fun w => w - 2 ^ 30)) []
      repairFree := SMap.set u.fuses.repairFree a (SMap.get u.fuses.repairFree a 0 + (softRecords s a).length) 0 } } a
      { arrayOf u a with burning := false } := ⟨_, setRecords_reportsOnly s a _, rfl⟩

/-- A burn that ends leaves the SOFT records in the fuses, the versions as they were, and the array free. -/
theorem burnRecords_effect (s : State) (a : Nat) :
    (arrayOf (burnRecords s a) a).burning = false ∧ (burnRecords s a).mem = s.mem ∧
      SMap.get (burnRecords s a).fuses.repairs a [] =
        SMap.get s.fuses.repairs a [] ++ (softRecords s a).map (fun w => w - 2 ^ 30) ∧
      (burnRecords s a).fuses.svn = s.fuses.svn := by
  obtain ⟨u, hu, hburn⟩ := burnRecords_eq s a
  rw [hburn]
  refine ⟨?_, hu.mem_eq, ?_, ?_⟩
  · rw [arrayOf_setArray_same]
  · rw [setArray_fuses, SMap.get_set_same, hu.fuses_eq]
  · rw [setArray_fuses, hu.fuses_eq]

theorem exec_repairBurnComplete {s : State} {a : ArrayId} (hup : s.aon.up = true) (hburns : (arrayOf s a).burning = true) :
    exec (.repairBurnComplete a) s = .next (burnRecords s a) := by
  show execRepairBurnComplete a s = _
  simp [execRepairBurnComplete, hup, hburns]

/-- Settles O13. A record first tests a deadline that is due (`testExpired`), then stands ready (`readyRecord`); a report
leaves operations, partitions and memory (`ReportsOnly`). The array commands are dictionary writes with their effects. -/
theorem recordsDeadlinesAndArrayCommandsTakeEffect : Obligations.RecordsDeadlinesAndArrayCommandsTakeEffect := by
  refine ⟨fun s tag o hclock ho hready htested => ?_,
    fun s tag o t0 hclock ho hready hgiven hcome huntested hnoStop hgoes => ?_,
    fun s => ⟨fun tag o t0 ho hgiven hcome huntested hnoRecord hnoStop hclock => ?_, fun p a v hok => ?_, fun p a v hok => ?_,
      fun p a hok => ?_, fun a hup hburns => ?_⟩⟩
  · have hsame := testExpired_of_tested htested
    have hexec := exec_completionRecord hclock ho hready (by rw [hsame]; exact ho)
    rw [hsame] at hexec
    refine ⟨_, _, hexec, findOp_readyRecord ho, by simp, by simp, reg_energy_readyRecord s o, readyRecord_mem s o,
      readyRecord_parts s o, fun hfails hheld => ?_, fun hgoes => ?_⟩
    · exact readyRecord_stops ((stopsQueue_iff _).mpr hfails) hheld
    · refine readyRecord_keepsQueue ?_
      rw [stopsQueue_iff, not_or, not_or]
      exact hgoes
  · have hdue := testExpired_of_due ⟨hgiven, hcome, huntested, recordReady_not_recorded hready, hnoStop, hclock⟩
    obtain ⟨o', ho', hhandled, hmissed, hstatus, -⟩ := deadlineTest_handles (t0 := t0) ho hgoes
    obtain ⟨hmem, hparts⟩ := deadlineTest_frame (s := s) t0 hgoes
    have hexec := exec_completionRecord hclock ho hready (by rw [hdue]; exact ho')
    rw [hdue] at hexec
    exact ⟨_, _, hexec, findOp_readyRecord ho', by simp, by simpa using hhandled, by simpa using hmissed,
      by simpa using hstatus, (readyRecord_mem _ _).trans hmem, (readyRecord_parts _ _).trans hparts⟩
  · have hdue := testExpired_of_due ⟨hgiven, hcome, huntested, hnoRecord, hnoStop, hclock⟩
    refine ⟨fun hmet => ?_, fun hlate hgoes => ?_⟩
    · rw [exec_operationDeadlineExpiry ho, hdue, deadlineTest_of_met hmet, findOp_tag ho]
    · obtain ⟨o', ho', hhandled, hmissed, hstatus, hended⟩ := deadlineTest_handles (t0 := t0) ho hgoes
      obtain ⟨hmem, hparts⟩ := deadlineTest_frame (s := s) t0 hgoes
      exact ⟨_, o', hdue ▸ exec_operationDeadlineExpiry ho, ho', hhandled, by simpa [hlate] using hmissed, hstatus, hended,
        hmem, hparts⟩
  · exact guarded_of_writeOk (pre := freely) (effArrayHold a v.toNat) hok
  · have hstops := stopBound_reportsOnly (setReg s (0x2200 + a) 1 v.toNat) a 3 (fun ii => !decide (ii < partsOf v.toNat))
    refine ⟨_, guarded_of_writeOk (effPartitionMode a v.toNat) hok, ?_, hstops.mem_eq, hstops.ops_eq, hstops.parts_eq⟩
    exact (partMode_stopBound _ a a 3 _).trans (reg_setReg_same _ _ _ _)
  · refine ⟨_, guarded_of_writeOk (effRepairBurn a 1) hok, ?_, rfl, rfl, rfl⟩
    show (arrayOf (setArray s a _) a).burning = true
    rw [arrayOf_setArray_same]
  · exact ⟨_, exec_repairBurnComplete hup hburns, burnRecords_effect s a⟩

end Sys2Proof.Machine
end

section
/-! SUPPORT. The dispatch of a matrix descriptor (R105, R313, R315). -/

namespace Sys2Proof.Machine

/-- The descriptor at the head goes to the command that its opcode names. -/
theorem dispatch_of_taken {s : State} {q tag c : Nat} {d : BitVec 1024} (h : Taken s q tag c d) {accept : Nat → Bool}
    (haccept : accept d.toNat = true) (kind : OpKind) (k : State → Op → State) :
    dispatch s q tag accept kind k = k (takeHead s q) (newOp s tag q c kind d) := by
  obtain ⟨turn, ctx, slot⟩ := h
  simp [dispatch, turn, ctx, slot, haccept]

theorem headPassed_takeHead (s : State) (q : Nat) : HeadPassed s (takeHead s q) q := bget_bset_same _ _ _

/-- A failed check ends the operation before it reaches a partition. -/
theorem startMatrix_of_failed {s : State} {o : Op} (h : matCheck s o.queue o.ctx o.desc.toNat ≠ stOk) :
    startMatrix s o = refuse s o (matCheck s o.queue o.ctx o.desc.toNat) := if_pos h

/-- An operation that passes its checks, with its deadline and its epilogue. -/
def matrixOp (s : State) (o : Op) : Op :=
  { o with
    deadline := deadlineOf s (dBase o.desc.toNat) (dWork o.desc.toNat) (mSlope o.desc.toNat)
    epi := if mDest o.desc.toNat = 1 then BitVec.ofNat 512 (epiEntry s (ctxRec s o.ctx) o.desc.toNat) else 0 }

/-- It is in flight and last in the order of its partition. -/
def matrixQueued (s : State) (o : Op) : State :=
  let k := pkey (mArray o.desc.toNat) (mPart o.desc.toNat)
  setPart (addOp s (matrixOp s o)) k { partOf s k with ops := (partOf s k).ops ++ [o.tag] }

theorem startMatrix_of_passed {s : State} {o : Op} (h : matCheck s o.queue o.ctx o.desc.toNat = stOk) :
    startMatrix s o = settlePart (matrixQueued s o) (mArray o.desc.toNat) (mPart o.desc.toNat) := if_neg (not_not.mpr h)

theorem partOf_matrixQueued_ops (s : State) (o : Op) :
    (partOf (matrixQueued s o) (pkey (mArray o.desc.toNat) (mPart o.desc.toNat))).ops =
      (partOf s (pkey (mArray o.desc.toNat) (mPart o.desc.toNat))).ops ++ [o.tag] := by
  rw [matrixQueued, partOf_setPart_same]

/-- Settles O10: dispatch of a taken descriptor is `startMatrix`, which refuses it or queues it. -/
theorem matrixDescriptorsAreTakenOrRefused : Obligations.MatrixDescriptorsAreTakenOrRefused := by
  intro s q tag c d htaken hkind
  extract_lets next
  let o := newOp s tag q c .matrix d
  refine ⟨fun hnop => ?_, fun hop hsync => ?_, fun hfails => ?_, fun hpasses => ?_⟩
  · exact congrArg Host.Outcome.next (dispatch_of_taken htaken (by simp [hkind, hnop]) .matrix startMatrix)
  · exact congrArg Host.Outcome.next (dispatch_of_taken htaken (by simp [hkind, hop, hsync]) .matrix startMatrix)
  · have hnext : next = refuse (takeHead s q) o _ := startMatrix_of_failed (o := o) hfails
    rw [hnext]
    exact ⟨headPassed_takeHead s q, rfl, rfl, rfl, _, rfl, rfl, rfl, rfl, rfl⟩
  · have hnext : next = settlePart (matrixQueued (takeHead s q) o) _ _ := startMatrix_of_passed (o := o) hpasses
    refine ⟨_, matrixOp (takeHead s q) o, hnext, headPassed_takeHead s q, rfl, rfl, rfl, rfl, rfl,
      partOf_matrixQueued_ops (takeHead s q) o⟩

end Sys2Proof.Machine
end

section
/-! SUPPORT. The word of a vector program that leaves its engine to it (R115, R116): what the state after it holds, and what
its steps count (R112, R128). -/

namespace Sys2Proof.Machine

/-! Entries of maps. -/

section
variable {α β : Type}

theorem SMap.get_eq_find (m : SMap α) (k : Nat) (d : α) : SMap.get m k d = (SMap.find m k).getD d := by
  induction m with
  | nil => rfl
  | cons e m ih =>
    obtain ⟨j, v⟩ := e
    by_cases h : j = k <;> simp [SMap.get, SMap.find, h, ih]

theorem SMap.get_graft (k : Nat) (lo hi : SMap α) (j : Nat) (d : α) :
    SMap.get (SMap.graft k lo hi) j d = if j < k then SMap.get lo j d else SMap.get hi j d := by
  simp only [SMap.get_eq_find, SMap.find_graft]
  split <;> rfl

/-- Entries put in turn, none of them at key `j`. -/
theorem SMap.find_foldl_put_of_not_mem (key : β → Nat) (val : β → α) {l : List β} {j : Nat} (h : ∀ x ∈ l, key x ≠ j)
    (m : SMap α) : SMap.find (l.foldl (fun m x => SMap.put m (key x) (val x)) m) j = SMap.find m j := by
  induction l generalizing m with
  | nil => rfl
  | cons x l ih =>
    rw [List.foldl_cons, ih (fun y hy => h y (List.mem_cons_of_mem x hy)), SMap.find_put,
      if_neg (h x List.mem_cons_self).symm]

/-- Entries put in turn, those at key `j` with one value. -/
theorem SMap.find_foldl_put_of_mem (key : β → Nat) (val : β → α) {l : List β} {j : Nat} {v : α}
    (hval : ∀ x ∈ l, key x = j → val x = v) (hmem : ∃ x ∈ l, key x = j) (m : SMap α) :
    SMap.find (l.foldl (fun m x => SMap.put m (key x) (val x)) m) j = some v := by
  induction l generalizing m with
  | nil => simp at hmem
  | cons x l ih =>
    rw [List.foldl_cons]
    by_cases hl : ∃ y ∈ l, key y = j
    · exact ih (fun y hy => hval y (List.mem_cons_of_mem x hy)) hl _
    · have hx : key x = j := by
        obtain ⟨y, hy, hkey⟩ := hmem
        rcases List.mem_cons.mp hy with rfl | hy
        · exact hkey
        · exact absurd ⟨y, hy, hkey⟩ hl
      rw [SMap.find_foldl_put_of_not_mem key val (fun y hy hkey => hl ⟨y, hy, hkey⟩), SMap.find_put, if_pos hx.symm,
        hval x List.mem_cons_self hx]

/-- Entries put in turn: key `j` holds `v` after them when one stands there, as `Q` tells. -/
theorem SMap.find_foldl_put_iff (key : β → Nat) (val : β → α) {l : List β} {j : Nat} {v : α} {Q : Prop} [Decidable Q]
    (hput : ∀ x ∈ l, key x = j → Q ∧ val x = v) (hmem : Q → ∃ x ∈ l, key x = j) (m : SMap α) :
    SMap.find (l.foldl (fun m x => SMap.put m (key x) (val x)) m) j = if Q then some v else SMap.find m j := by
  split
  next h => exact SMap.find_foldl_put_of_mem key val (fun x hx hk => (hput x hx hk).2) (hmem h) m
  next h => exact SMap.find_foldl_put_of_not_mem key val (fun x hx hk => h (hput x hx hk).1) m

end

/-! Buffers, masks and slots after a list of positions is put into one of them. -/

/-- The list holds `g` at the positions `P`, and nothing else. -/
def Graph2 {α : Type} (l : List (Nat × Nat × α)) (P : Nat → Nat → Prop) (g : Nat → Nat → α) : Prop :=
  ∀ r j v, (r, j, v) ∈ l ↔ P r j ∧ v = g r j

/-- The same for entries of a slot. -/
def Graph1 {α : Type} (l : List (Nat × α)) (P : Nat → Prop) (g : Nat → α) : Prop :=
  ∀ r v, (r, v) ∈ l ↔ P r ∧ v = g r

theorem graph2_map {α : Type} {l : List (Nat × Nat)} {P : Nat → Nat → Prop} (h : ∀ r j, (r, j) ∈ l ↔ P r j)
    (g : Nat → Nat → α) : Graph2 (l.map (fun x => (x.1, x.2, g x.1 x.2))) P g := by
  intro r j v
  simp only [List.mem_map, Prod.mk.injEq, Prod.exists]
  constructor
  · rintro ⟨a, b, hab, rfl, rfl, rfl⟩
    exact ⟨(h a b).mp hab, rfl⟩
  · rintro ⟨hP, rfl⟩
    exact ⟨r, j, (h r j).mpr hP, rfl, rfl, rfl⟩

theorem graph1_map {α : Type} {l : List Nat} {P : Nat → Prop} (h : ∀ r, r ∈ l ↔ P r) (g : Nat → α) :
    Graph1 (l.map (fun r => (r, g r))) P g := by
  intro r v
  simp only [List.mem_map, Prod.mk.injEq]
  constructor
  · rintro ⟨a, ha, rfl, rfl⟩
    exact ⟨(h a).mp ha, rfl⟩
  · rintro ⟨hP, rfl⟩
    exact ⟨r, (h r).mpr hP, rfl, rfl⟩

/-- A position of a buffer: no two share a key. -/
theorem tkey_inj {b r j b' r' j' : Nat} (hr : r < 2 ^ 22) (hj : j < 2 ^ 22) (hr' : r' < 2 ^ 22) (hj' : j' < 2 ^ 22) :
    tkey b r j = tkey b' r' j' ↔ b = b' ∧ r = r' ∧ j = j' := by
  simp only [tkey]
  omega

theorem skey_inj {sl r sl' r' : Nat} (hr : r < 2 ^ 22) (hr' : r' < 2 ^ 22) :
    skey sl r = skey sl' r' ↔ sl = sl' ∧ r = r' := by
  simp only [skey]
  omega

/-- What stands at a position after `g` is put at the positions `P` of buffer `b`. -/
theorem find_putGraph2 {α : Type} {l : List (Nat × Nat × α)} {P : Nat → Nat → Prop} {g : Nat → Nat → α} (hl : Graph2 l P g)
    (hP : ∀ r j, P r j → r < 2 ^ 22 ∧ j < 2 ^ 22) (m : SMap α) (b b' : Nat) {r j : Nat} (hr : r < 2 ^ 22) (hj : j < 2 ^ 22)
    [Decidable (P r j)] :
    SMap.find (l.foldl (fun m x => SMap.put m (tkey b x.1 x.2.1) x.2.2) m) (tkey b' r j) =
      if b' = b ∧ P r j then some (g r j) else SMap.find m (tkey b' r j) := by
  refine SMap.find_foldl_put_iff (fun x : Nat × Nat × α => tkey b x.1 x.2.1) (fun x => x.2.2) (j := tkey b' r j)
    (Q := b' = b ∧ P r j) ?_ ?_ m
  · rintro ⟨r', j', v⟩ hx hk
    obtain ⟨hP', rfl⟩ := (hl r' j' v).mp hx
    obtain ⟨hr', hj'⟩ := hP r' j' hP'
    obtain ⟨rfl, rfl, rfl⟩ := (tkey_inj hr' hj' hr hj).mp hk
    exact ⟨⟨rfl, hP'⟩, by dsimp only⟩
  · rintro ⟨rfl, hPr⟩
    exact ⟨(r, j, g r j), (hl r j _).mpr ⟨hPr, by dsimp only⟩, by dsimp only⟩

theorem tbAt_putTb {l : List (Nat × Nat × Acc)} {P : Nat → Nat → Prop} {g : Nat → Nat → Acc} (hl : Graph2 l P g)
    (hP : ∀ r j, P r j → r < 2 ^ 22 ∧ j < 2 ^ 22) (e : Engine) (b b' : Nat) {r j : Nat} (hr : r < 2 ^ 22) (hj : j < 2 ^ 22)
    [Decidable (P r j)] : tbAt (putTb e b l) b' r j = if b' = b ∧ P r j then g r j else tbAt e b' r j := by
  unfold tbAt putTb
  dsimp only
  rw [find_putGraph2 hl hP e.tb b b' hr hj]
  split <;> rfl

theorem maskAt_putMask {l : List (Nat × Nat × Bool)} {P : Nat → Nat → Prop} {g : Nat → Nat → Bool} (hl : Graph2 l P g)
    (hP : ∀ r j, P r j → r < 2 ^ 22 ∧ j < 2 ^ 22) (e : Engine) (m m' : Nat) {r j : Nat} (hr : r < 2 ^ 22) (hj : j < 2 ^ 22)
    [Decidable (P r j)] : maskAt (putMask e m l) m' r j = if m' = m ∧ P r j then g r j else maskAt e m' r j := by
  unfold maskAt putMask
  dsimp only
  rw [find_putGraph2 hl hP e.masks m m' hr hj]
  split <;> rfl

theorem slotAt_putSlot {l : List (Nat × Option Acc)} {P : Nat → Prop} {g : Nat → Option Acc} (hl : Graph1 l P g)
    (hP : ∀ r, P r → r < 2 ^ 22) (e : Engine) (sl kind sl' : Nat) {r : Nat} (hr : r < 2 ^ 22) [Decidable (P r)] :
    slotAt (putSlot e sl kind l) sl' r = if sl' = sl ∧ P r then g r else slotAt e sl' r := by
  have hfind : SMap.find (putSlot e sl kind l).slots (skey sl' r) =
      if sl' = sl ∧ P r then some (g r) else SMap.find e.slots (skey sl' r) := by
    refine SMap.find_foldl_put_iff (fun x => skey sl x.1) Prod.snd (Q := sl' = sl ∧ P r) ?_ ?_ e.slots
    · rintro ⟨r', v⟩ hx hk
      obtain ⟨hP', rfl⟩ := (hl r' v).mp hx
      obtain ⟨rfl, rfl⟩ := (skey_inj (hP r' hP') hr).mp hk
      exact ⟨⟨rfl, hP'⟩, by dsimp only⟩
    · rintro ⟨rfl, hPr⟩
      exact ⟨(r, g r), (hl r _).mpr ⟨hPr, by dsimp only⟩, by dsimp only⟩
  have hshared : (putSlot e sl kind l).shared = e.shared := rfl
  unfold slotAt
  rw [hfind, hshared]
  split <;> rfl

@[simp] theorem tbAt_tagBuf (e : Engine) (b : Nat) (t : Layout) : tbAt (tagBuf e b t) = tbAt e := rfl
@[simp] theorem slotAt_tagBuf (e : Engine) (b : Nat) (t : Layout) : slotAt (tagBuf e b t) = slotAt e := rfl
@[simp] theorem slotAt_putTb (e : Engine) (b : Nat) (l : List (Nat × Nat × Acc)) : slotAt (putTb e b l) = slotAt e := rfl
@[simp] theorem tbAt_putSlot (e : Engine) (sl kind : Nat) (l : List (Nat × Option Acc)) :
    tbAt (putSlot e sl kind l) = tbAt e := rfl

/-! Positions of the rectangle (R114, R125). -/

theorem mem_rowsOf {p : Prog} {r : Nat} : r ∈ rowsOf p ↔ inRows p r = true := by simp [rowsOf, inRows]

theorem mem_colsOf {p : Prog} {j : Nat} : j ∈ colsOf p ↔ j < p.cols := by simp [colsOf]

theorem mem_rect {p : Prog} {r j : Nat} : (r, j) ∈ rect p ↔ inRows p r = true ∧ j < p.cols := by
  simp [rect, mem_rowsOf, mem_colsOf]

theorem mem_activeRect {e : Engine} {c : Ctx} {r j : Nat} :
    (r, j) ∈ activeRect e c ↔ (inRows c.prog r = true ∧ j < c.prog.cols) ∧ active e c r j = true := by
  simp [activeRect, mem_rect]

theorem inRows_lt {p : Prog} {r : Nat} (h : inRows p r = true) : r < p.rows := by
  simp only [inRows, Bool.and_eq_true, decide_eq_true_eq] at h
  exact h.1

section
variable {s : State} {n : Nat} {k : WorkClass} {p : Prog} {w : Nat}

theorem AtWord.row_lt (h : AtWord s n k p w) {r : Nat} (hr : inRows p r = true) : r < 2 ^ 22 := by
  have := inRows_lt hr
  have := h.rect.1
  omega

theorem AtWord.col_lt (h : AtWord s n k p w) {j : Nat} (hj : j < p.cols) : j < 2 ^ 22 := by
  have := h.rect.2
  omega

/-! The state in which a word takes effect. -/

/-- What the steps of a word change: counters, engines, margins, operations and the free values. -/
def WordFrame (s u : State) : Prop := ∃ dict engines power ops freeCtr,
  u = { s with dict := dict, engines := engines, power := power, ops := ops, freeCtr := freeCtr }

theorem WordFrame.trans {s t u : State} (h : WordFrame s t) (k : WordFrame t u) : WordFrame s u := by
  obtain ⟨_, _, _, _, _, rfl⟩ := h
  obtain ⟨_, _, _, _, _, rfl⟩ := k
  exact ⟨_, _, _, _, _, rfl⟩

theorem WordFrame.mem {s u : State} (h : WordFrame s u) : u.mem = s.mem := by
  obtain ⟨_, _, _, _, _, rfl⟩ := h
  rfl

theorem ready_wordFrame (s : State) (n : Nat) (k : WorkClass) : WordFrame s (ready s n k).1 := by
  unfold ready
  split
  · exact ⟨_, _, _, _, _, rfl⟩
  · split <;> exact ⟨_, _, _, _, _, rfl⟩

theorem opSteps_wordFrame (s : State) (p : Prog) (k : WorkClass) (steps : Nat) : WordFrame s (opSteps s p k steps) := by
  unfold opSteps
  split
  · split <;> exact ⟨_, _, _, _, _, rfl⟩
  · exact ⟨_, _, _, _, _, rfl⟩

theorem noteEmpty_wordFrame (s : State) (c : Ctx) : WordFrame s (noteEmpty s c) := by
  unfold noteEmpty
  split
  · exact ⟨_, _, _, _, _, rfl⟩
  · split <;> exact ⟨_, _, _, _, _, rfl⟩

theorem issued_wordFrame (s : State) (c : Ctx) (steps : Nat) : WordFrame s (issued s c steps) := by
  have hcount : ∀ u : State, WordFrame u (countSteps { u with freeCtr := u.freeCtr + 2 ^ 50 } c.eng c.cls steps) :=
    fun u => ⟨_, _, _, _, _, rfl⟩
  exact (((ready_wordFrame s c.eng c.cls).trans (hcount _)).trans (opSteps_wordFrame _ _ _ _)).trans (noteEmpty_wordFrame _ _)

theorem reg_bumpBy_ne {s : State} {i sub i' sub' : Nat} (m : Nat) (h : dkey i' sub' ≠ dkey i sub) :
    reg (bumpBy s i sub m) i' sub' = reg s i' sub' := reg_setReg_ne s _ h

theorem ready_dict (s : State) (n : Nat) (k : WorkClass) : (ready s n k).1.dict = s.dict := by
  unfold ready
  split
  · rfl
  · split <;> rfl

theorem engineOf_ready_ne {s : State} {n m : Nat} (h : m ≠ n) (k : WorkClass) : engineOf (ready s n k).1 m = engineOf s m := by
  unfold ready
  split
  · rfl
  · split
    · exact engineOf_setEngine_ne s _ h
    · rfl

theorem opSteps_dict (s : State) (p : Prog) (k : WorkClass) (steps : Nat) : (opSteps s p k steps).dict = s.dict := by
  unfold opSteps
  split
  · split <;> rfl
  · rfl

theorem opSteps_engines (s : State) (p : Prog) (k : WorkClass) (steps : Nat) : (opSteps s p k steps).engines = s.engines := by
  unfold opSteps
  split
  · split <;> rfl
  · rfl

theorem noteEmpty_dict (s : State) (c : Ctx) : (noteEmpty s c).dict = s.dict := by
  unfold noteEmpty
  split
  · rfl
  · split <;> rfl

theorem noteEmpty_engines (s : State) (c : Ctx) : (noteEmpty s c).engines = s.engines := by
  unfold noteEmpty
  split
  · rfl
  · split <;> rfl

/-- The counters of a word's steps: STEPS and the one of its class. -/
theorem reg_issued (s : State) (c : Ctx) (steps i sub : Nat) :
    reg (issued s c steps) i sub =
      reg (bumpBy (bumpBy s (0x2300 + c.eng) 5 steps) (0x2300 + c.eng) (classSub c.cls) steps) i sub := by
  have hdict : (issued s c steps).dict = (bumpBy (bumpBy (ready s c.eng c.cls).1 (0x2300 + c.eng) 5 steps) (0x2300 + c.eng)
      (classSub c.cls) steps).dict := by
    rw [issued, noteEmpty_dict, opSteps_dict]
    rfl
  unfold reg
  rw [hdict]
  simp only [bumpBy, setReg, reg, ready_dict]

theorem engineOf_issued_ne (s : State) (c : Ctx) (steps : Nat) {m : Nat} (h : m ≠ c.eng) :
    engineOf (issued s c steps) m = engineOf s m := by
  have hengines : (issued s c steps).engines = (countSteps (ready s c.eng c.cls).1 c.eng c.cls steps).engines := by
    rw [issued, noteEmpty_engines, opSteps_engines]
    rfl
  rw [engineOf, hengines]
  exact (engineOf_setEngine_ne (ready s c.eng c.cls).1 _ h).trans (engineOf_ready_ne h c.cls)

/-! The state after a word whose program goes on. -/

/-- What the program of a class becomes by what the effect answered, when it is still there. -/
def Next.moved (p q : Prog) : Next → Option Prog
  | .go => some { q with pc := p.pc + 1 }
  | .skip => some { q with pc := p.pc + 2 }
  | .jump t => some { q with pc := t }
  | .stall => some { q with waiting := true }
  | .done | .stop _ => none

/-- The effect `u` of a word on the state `s`, of which the class keeps what it may write, with its program `q`. -/
abbrev keptState (s u : State) (n : Nat) (k : WorkClass) (q : Prog) : State := keepProg (confined s u n k) n k q

theorem progOf_confine (k : WorkClass) (old new : Engine) : progOf (confine k old new) k = progOf new k := rfl

theorem moveOn_of_moved {s u : State} {n : Nat} {k : WorkClass} {p q : Prog} {nx : Next}
    (h : nx.moved p ((progOf (engineOf u n) k).getD p) = some q) :
    moveOn (confined s u n k) n k p nx = keptState s u n k q := by
  have hprog : progOf (engineOf (confined s u n k) n) k = progOf (engineOf u n) k := by
    rw [engineOf_confined, progOf_confine]
  have hkeep : ∀ q', some q' = some q → keepProg (confined s u n k) n k q' = keptState s u n k q := fun q' hq =>
    congrArg (keepProg (confined s u n k) n k) (Option.some.inj hq)
  cases nx with
  | go | skip | jump | stall =>
    rw [← hprog] at h
    exact hkeep _ h
  | done | stop => cases h

/-- What a state holds of engine `n` after a word of class `k` whose effect made it `E`. -/
structure LeavesEngine (s t : State) (n : Nat) (k : WorkClass) (E : Engine) (q : Prog) : Prop where
  tb     : ∀ b r j, r < 2 ^ 22 → j < 2 ^ 22 →
    tbAt (engineOf t n) b r j = if ownsTb k b = true then tbAt E b r j else tbAt (engineOf s n) b r j
  slots  : ∀ sl r, r < 2 ^ 22 →
    slotAt (engineOf t n) sl r = if ownsSlot k sl = true then slotAt E sl r else slotAt (engineOf s n) sl r
  masks  : ∀ m r j, r < 2 ^ 22 → j < 2 ^ 22 →
    maskAt (engineOf t n) m r j = if ownsMask k m = true then maskAt E m r j else maskAt (engineOf s n) m r j
  tags   : ∀ b, ownsTb k b = true → SMap.find (engineOf t n).tags b = SMap.find E.tags b
  kinds  : ∀ sl, ownsSlot k sl = true → SMap.get (engineOf t n).slotKind sl 0 = SMap.get E.slotKind sl 0
  sameTb : E.tb = (engineOf s n).tb → SameTb (engineOf s n) (engineOf t n)
  sameSlots : E.slots = (engineOf s n).slots → SameSlots (engineOf s n) (engineOf t n)
  sameMasks : E.masks = (engineOf s n).masks → SameMasks (engineOf s n) (engineOf t n)
  shared : (engineOf t n).shared = (engineOf s n).shared
  bankE  : (engineOf t n).bankE = E.bankE
  bankP  : (engineOf t n).bankP = E.bankP
  prog   : progOf (engineOf t n) k = some q

/-- An effect that leaves memory, the other engines, and every entry but those of `also`. -/
structure WordEffect (s u : State) (n : Nat) (also : List Nat) : Prop where
  mem   : u.mem = s.mem
  rest  : SameEntriesBut also s u
  other : ∀ m, m ≠ n → engineOf u m = engineOf s m

theorem WordEffect.refl (s : State) (n : Nat) : WordEffect s s n [] := ⟨rfl, fun _ _ _ => rfl, fun _ _ => rfl⟩

theorem WordEffect.setEngine (s : State) (n : Nat) (E : Engine) : WordEffect s (setEngine s n E) n [] :=
  ⟨rfl, fun _ _ _ => rfl, fun _ hm => engineOf_setEngine_ne s E hm⟩

theorem slotAt_confine_of_owner {k : WorkClass} {old new : Engine} (hshared : new.shared = old.shared) (sl : Nat) {r : Nat}
    (hr : r < 2 ^ 22) :
    slotAt (confine k old new) sl r = if ownsSlot k sl = true then slotAt new sl r else slotAt old sl r := by
  have hkey : skey sl r < 32 * 2 ^ 22 ↔ sl < 32 := by simp only [skey]; omega
  unfold slotAt confine ownsSlot
  simp only [SMap.find_graft, hkey, hshared]
  by_cases hsl : sl < 32
  · by_cases hk : k = .epilogue <;> simp [hk, hsl, Nat.not_le.mpr hsl]
  · by_cases hk : k = .epilogue <;> simp [hk, hsl, Nat.not_lt.mp hsl]

theorem maskAt_confine_of_owner {k : WorkClass} {old new : Engine} (hshared : new.shared = old.shared) (m : Nat) {r j : Nat}
    (hr : r < 2 ^ 22) (hj : j < 2 ^ 22) :
    maskAt (confine k old new) m r j = if ownsMask k m = true then maskAt new m r j else maskAt old m r j := by
  have hkey : tkey m r j < 2 * 2 ^ 44 ↔ m < 2 := by simp only [tkey]; omega
  unfold maskAt confine ownsMask
  simp only [SMap.find_graft, hkey, hshared]
  by_cases hm : m < 2
  · by_cases hk : k = .epilogue <;> simp [hk, hm, Nat.not_le.mpr hm]
  · by_cases hk : k = .epilogue <;> simp [hk, hm, Nat.not_lt.mp hm]

/-- Tile buffers that the effect left are left. -/
theorem tbAt_confine_same {k : WorkClass} {old new : Engine} (htb : new.tb = old.tb) (hshared : new.shared = old.shared) :
    tbAt (confine k old new) = tbAt old := by
  funext b r j
  unfold tbAt confine
  by_cases hk : k = .epilogue <;> simp [hk, htb, hshared]

theorem tags_confine {k : WorkClass} (old new : Engine) {b : Nat} (h : ownsTb k b = true) :
    SMap.find (confine k old new).tags b = SMap.find new.tags b := by
  unfold confine
  unfold ownsTb at h
  rw [SMap.find_graft]
  by_cases hk : k = .epilogue <;> simp only [hk, if_true, if_false, decide_eq_true_eq] at h ⊢
  · rw [if_pos h]
  · rw [if_neg (Nat.not_lt.mpr h)]

theorem kinds_confine {k : WorkClass} (old new : Engine) {sl : Nat} (h : ownsSlot k sl = true) :
    SMap.get (confine k old new).slotKind sl 0 = SMap.get new.slotKind sl 0 := by
  unfold confine
  unfold ownsSlot at h
  rw [SMap.get_graft]
  by_cases hk : k = .epilogue <;> simp only [hk, if_true, if_false, decide_eq_true_eq] at h ⊢
  · rw [if_pos h]
  · rw [if_neg (Nat.not_lt.mpr h)]

theorem engineOf_keptState (s u : State) (n : Nat) (k : WorkClass) (q : Prog) :
    engineOf (keptState s u n k q) n = setProg (confine k (engineOf s n) (engineOf u n)) k (some q) := by
  rw [keptState, engineOf_keepProg, engineOf_confined]

theorem engineOf_keptState_ne (s u : State) {n m : Nat} (k : WorkClass) (q : Prog) (h : m ≠ n) :
    engineOf (keptState s u n k q) m = engineOf u m :=
  (engineOf_setEngine_ne _ _ h).trans (engineOf_setEngine_ne u _ h)

/-- What of an engine its programs are not. -/
theorem setProg_rest (e : Engine) (k : WorkClass) (q : Option Prog) :
    (setProg e k q).tags = e.tags ∧ (setProg e k q).slotKind = e.slotKind ∧ (setProg e k q).shared = e.shared ∧
      (setProg e k q).bankE = e.bankE ∧ (setProg e k q).bankP = e.bankP := by
  unfold setProg
  split <;> exact ⟨rfl, rfl, rfl, rfl, rfl⟩

section
variable {s : State} {n : Nat} {k : WorkClass} {p : Prog} {w : Nat}

/-- A word of the class [lo, hi] after which its program stands as `q`. -/
theorem AtWord.instrStep_kept (h : AtWord s n k p w) {lo hi : Nat} (hlo : lo ≤ iOp w) (hhi : iOp w ≤ hi) (cost : Ctx → Nat)
    {f : State → Ctx → State × Next} {u : State} {nx : Next} {q : Prog}
    (hf : f (issuedAt s n k p w cost) (ctxAt s n k p w) = (u, nx))
    (hq : nx.moved p ((progOf (engineOf u n) k).getD p) = some q) :
    instrStep s n k lo hi cost f = keptState (issuedAt s n k p w cost) u n k q := by
  rw [h.instrStep_eq hlo hhi cost f]
  dsimp only
  rw [hf]
  exact moveOn_of_moved hq

theorem AtWord.leavesEngine (h : AtWord s n k p w) (hn : n < 4) (cost : Ctx → Nat) {u : State} {E : Engine} (q : Prog)
    (hu : engineOf u n = E) (hshared : E.shared = (engineOf s n).shared) :
    LeavesEngine s (keptState (issuedAt s n k p w cost) u n k q) n k E q := by
  have hseen := h.issued_seenAs hn cost
  subst hu
  have hsh : (engineOf u n).shared = (engineOf (issuedAt s n k p w cost) n).shared := hshared.trans hseen.shared.symm
  have hslots := hseen.engine Engine.slots fun _ => rfl
  have hmasks := hseen.engine Engine.masks fun _ => rfl
  obtain ⟨htags, hkinds, hshd, hbankE, hbankP⟩ :=
    setProg_rest (confine k (engineOf (issuedAt s n k p w cost) n) (engineOf u n)) k (some q)
  have hengine := engineOf_keptState (issuedAt s n k p w cost) u n k q
  constructor
  case tb =>
    intro b r j hr hj
    rw [hengine, tbAt_setProg, tbAt_confine hsh b hr hj, hseen.tbAt_eq]
  case slots =>
    intro sl r hr
    rw [hengine, slotAt_setProg, slotAt_confine_of_owner hsh sl hr, hseen.slotAt_eq]
  case masks =>
    intro m r j hr hj
    rw [hengine, maskAt_setProg, maskAt_confine_of_owner hsh m hr hj, hseen.maskAt_eq]
  case tags =>
    intro b hb
    rw [hengine, htags, tags_confine _ _ hb]
  case kinds =>
    intro sl hsl
    rw [hengine, hkinds, kinds_confine _ _ hsl]
  case sameTb =>
    intro htb b r j
    rw [hengine, tbAt_setProg, tbAt_confine_same (htb.trans hseen.tb.symm) hsh, hseen.tbAt_eq]
  case sameSlots =>
    intro hs sl r
    rw [hengine, slotAt_setProg, slotAt_confine (hs.trans hslots.symm) hsh, hseen.slotAt_eq]
  case sameMasks =>
    intro hm m r j
    rw [hengine, maskAt_setProg, maskAt_confine (hm.trans hmasks.symm) hsh, hseen.maskAt_eq]
  case shared =>
    rw [hengine, hshd]
    exact hshared
  case bankE =>
    rw [hengine, hbankE]
    rfl
  case bankP =>
    rw [hengine, hbankP]
    rfl
  case prog =>
    rw [hengine, progOf_setProg]

/-- The word is done when its effect left the rest alone. -/
theorem AtWord.wordDone (h : AtWord s n k p w) (cost : Ctx → Nat) {u : State} (q : Prog) {also : List Nat}
    (heffect : WordEffect (issuedAt s n k p w cost) u n also)
    (hsteps : dkey (0x2300 + n) 5 ∉ also) (hcls : dkey (0x2300 + n) (classSub k) ∉ also) :
    WordDone s (keptState (issuedAt s n k p w cost) u n k q) n k q.pc (cost (ctxAt s n k p w)) also := by
  obtain ⟨hmem, hrest, hother⟩ := heffect
  have hne : dkey (0x2300 + n) 5 ≠ dkey (0x2300 + n) (classSub k) := by cases k <;> simp [classSub]
  have hreg : ∀ i sub, reg (keptState (issuedAt s n k p w cost) u n k q) i sub = reg u i sub := fun _ _ => rfl
  have hcount : ∀ i sub, reg (issuedAt s n k p w cost) i sub = reg (bumpBy (bumpBy s (0x2300 + n) 5 (cost (ctxAt s n k p w)))
      (0x2300 + n) (classSub k) (cost (ctxAt s n k p w))) i sub := reg_issued s _ _
  constructor
  case at_ => rw [engineOf_keptState, progOf_setProg]; rfl
  case steps =>
    rw [hreg, hrest _ _ hsteps, hcount]
    exact (reg_bumpBy_ne _ hne).trans (reg_setReg_same ..)
  case byCls =>
    rw [hreg, hrest _ _ hcls, hcount]
    refine (reg_setReg_same ..).trans ?_
    rw [reg_bumpBy_ne _ hne.symm]
  case rest =>
    intro i sub hi
    simp only [List.mem_cons, not_or] at hi
    obtain ⟨h5, hk, halso⟩ := hi
    rw [hreg, hrest _ _ halso, hcount]
    exact (reg_bumpBy_ne _ hk).trans (reg_bumpBy_ne _ h5)
  case other =>
    intro m hm
    rw [engineOf_keptState_ne _ _ _ _ hm, hother m hm]
    exact engineOf_issued_ne s _ _ hm
  case mem =>
    exact hmem.trans (issued_wordFrame s _ _).mem

/-- An effect on nothing but its engine. -/
theorem AtWord.wordDone_of_engine (h : AtWord s n k p w) (cost : Ctx → Nat) (E : Engine) (q : Prog) :
    WordDone s (keptState (issuedAt s n k p w cost) (setEngine (issuedAt s n k p w cost) n E) n k q) n k q.pc
      (cost (ctxAt s n k p w)) [] :=
  h.wordDone cost q (.setEngine _ n E) List.not_mem_nil List.not_mem_nil

theorem AtWord.issued_prog (h : AtWord s n k p w) (hn : n < 4) (cost : Ctx → Nat) :
    progOf (engineOf (issuedAt s n k p w cost) n) k = some p :=
  ((h.issued_seenAs hn cost).engine (fun e => progOf e k) fun _ => rfl).trans h.held

/-- The program after a word that goes on. -/
abbrev Prog.next (p : Prog) : Prog := { p with pc := p.pc + 1 }

/-- Engine `E` is `e` but for what its tile buffers, slots and masks hold. -/
def BuffersOnly (e E : Engine) : Prop := ∃ tb tags slots slotKind argRun masks,
  E = { e with tb := tb, tags := tags, slots := slots, slotKind := slotKind, argRun := argRun, masks := masks }

/-- A word that goes on, whose effect changed no more of its engine than buffers. -/
theorem AtWord.goesOn (h : AtWord s n k p w) (hn : n < 4) {lo hi : Nat} (hlo : lo ≤ iOp w) (hhi : iOp w ≤ hi)
    {cost : Ctx → Nat} {f : State → Ctx → State × Next} {u : State} {E : Engine}
    (hf : f (issuedAt s n k p w cost) (ctxAt s n k p w) = (u, .go)) (hu : engineOf u n = E)
    (hbuf : BuffersOnly (engineOf (issuedAt s n k p w cost) n) E) :
    instrStep s n k lo hi cost f = keptState (issuedAt s n k p w cost) u n k p.next ∧
      LeavesEngine s (instrStep s n k lo hi cost f) n k E p.next ∧
      SameBanks (engineOf s n) (engineOf (instrStep s n k lo hi cost f) n) := by
  have hseen := h.issued_seenAs hn cost
  obtain ⟨tb, tags, slots, slotKind, argRun, masks, hE⟩ := hbuf
  have hprog : progOf (engineOf u n) k = some p := by
    rw [hu, hE, ← h.issued_prog hn cost]
    rfl
  have hkept := h.instrStep_kept hlo hhi cost (q := p.next) hf (by rw [hprog]; rfl)
  have hle := h.leavesEngine hn cost p.next hu (by rw [hE]; exact hseen.shared)
  rw [hkept]
  refine ⟨rfl, hle, hle.bankE.trans ?_, hle.bankP.trans ?_⟩
  · rw [hE]
    exact hseen.engine Engine.bankE fun _ => rfl
  · rw [hE]
    exact hseen.engine Engine.bankP fun _ => rfl

/-- The same when the effect changed nothing else. -/
theorem AtWord.goesOn_of_engine (h : AtWord s n k p w) (hn : n < 4) {lo hi : Nat} (hlo : lo ≤ iOp w) (hhi : iOp w ≤ hi)
    {cost : Ctx → Nat} {f : State → Ctx → State × Next} {E : Engine}
    (hf : f (issuedAt s n k p w cost) (ctxAt s n k p w) = (setEngine (issuedAt s n k p w cost) n E, .go))
    (hbuf : BuffersOnly (engineOf (issuedAt s n k p w cost) n) E) :
    WordDone s (instrStep s n k lo hi cost f) n k (p.pc + 1) (cost (ctxAt s n k p w)) [] ∧
      LeavesEngine s (instrStep s n k lo hi cost f) n k E p.next ∧
      SameBanks (engineOf s n) (engineOf (instrStep s n k lo hi cost f) n) := by
  obtain ⟨hkept, hrest⟩ := h.goesOn hn hlo hhi hf (engineOf_setEngine_same _ _ _) hbuf
  refine ⟨?_, hrest⟩
  rw [hkept]
  exact h.wordDone_of_engine cost E p.next

end

end

end Sys2Proof.Machine
end

section
/-! SUPPORT. Element-wise instructions, comparisons and mask operations (R115 to R117). -/

namespace Sys2Proof.Machine

section
variable {s u : State} {n : Nat}

theorem SeenAs.slots (h : SeenAs s u n) : (engineOf u n).slots = (engineOf s n).slots := h.engine Engine.slots fun _ => rfl
theorem SeenAs.masks (h : SeenAs s u n) : (engineOf u n).masks = (engineOf s n).masks := h.engine Engine.masks fun _ => rfl

end

section
variable {s : State} {n : Nat} {k : WorkClass} {p : Prog} {w : Nat}

/-- A word whose effect puts `g` at positions `P` of the rectangle of its DST. -/
theorem AtWord.putsTile (h : AtWord s n k p w) (hn : n < 4) {lo hi : Nat} (hlo : lo ≤ iOp w) (hhi : iOp w ≤ hi) {cost : Ctx → Nat}
    {f : State → Ctx → State × Next} {l : List (Nat × Nat × Acc)} {lay : Layout} {P : Nat → Nat → Prop} {g : Nat → Nat → Acc}
    (hf : f (issuedAt s n k p w cost) (ctxAt s n k p w) = (setEngine (issuedAt s n k p w cost) n
      (tagBuf (putTb (engineOf (issuedAt s n k p w cost) n) (iDst w) l) (iDst w) lay), .go))
    (hl : Graph2 l P g) (hP : ∀ r j, P r j → inRows p r = true ∧ j < p.cols) [∀ r j, Decidable (P r j)] :
    ∃ t, instrStep s n k lo hi cost f = t ∧ WordDone s t n k (p.pc + 1) (cost (ctxAt s n k p w)) [] ∧
      (∀ b r j, r < 2 ^ 22 → j < 2 ^ 22 → tbAt (engineOf t n) b r j =
        if b = iDst w ∧ ownsTb k (iDst w) = true ∧ P r j then g r j else tbAt (engineOf s n) b r j) ∧
      (ownsTb k (iDst w) = true → SMap.find (engineOf t n).tags (iDst w) = some lay) ∧
      SameSlots (engineOf s n) (engineOf t n) ∧ SameMasks (engineOf s n) (engineOf t n) ∧
      SameBanks (engineOf s n) (engineOf t n) := by
  have hseen := h.issued_seenAs hn cost
  obtain ⟨hdone, hle, hbanks⟩ := h.goesOn_of_engine hn hlo hhi hf ⟨_, _, _, _, _, _, rfl⟩
  refine ⟨_, rfl, hdone, fun b r j hr hj => ?_, fun hown => ?_, hle.sameSlots hseen.slots, hle.sameMasks hseen.masks, hbanks⟩
  · rw [hle.tb b r j hr hj, tbAt_tagBuf,
      tbAt_putTb hl (fun r j hp => ⟨h.row_lt (hP r j hp).1, h.col_lt (hP r j hp).2⟩) _ _ _ hr hj, hseen.tbAt_eq]
    by_cases hb : b = iDst w
    · subst hb
      by_cases hown : ownsTb k (iDst w) = true <;> simp [hown]
    · simp [hb]
  · rw [hle.tags _ hown]
    exact (SMap.find_put _ _ _ _).trans (if_pos rfl)

/-- The same for masks. -/
theorem AtWord.putsMask (h : AtWord s n k p w) (hn : n < 4) {lo hi : Nat} (hlo : lo ≤ iOp w) (hhi : iOp w ≤ hi) {cost : Ctx → Nat}
    {f : State → Ctx → State × Next} {m : Nat} {l : List (Nat × Nat × Bool)} {P : Nat → Nat → Prop} {g : Nat → Nat → Bool}
    (hf : f (issuedAt s n k p w cost) (ctxAt s n k p w) = (setEngine (issuedAt s n k p w cost) n
      (putMask (engineOf (issuedAt s n k p w cost) n) m l), .go))
    (hl : Graph2 l P g) (hP : ∀ r j, P r j → inRows p r = true ∧ j < p.cols) [∀ r j, Decidable (P r j)] :
    ∃ t, instrStep s n k lo hi cost f = t ∧ WordDone s t n k (p.pc + 1) (cost (ctxAt s n k p w)) [] ∧
      (∀ m' r j, r < 2 ^ 22 → j < 2 ^ 22 → maskAt (engineOf t n) m' r j =
        if m' = m ∧ ownsMask k m = true ∧ P r j then g r j else maskAt (engineOf s n) m' r j) ∧
      SameTb (engineOf s n) (engineOf t n) ∧ SameSlots (engineOf s n) (engineOf t n) ∧
      SameBanks (engineOf s n) (engineOf t n) := by
  have hseen := h.issued_seenAs hn cost
  obtain ⟨hdone, hle, hbanks⟩ := h.goesOn_of_engine hn hlo hhi hf ⟨_, _, _, _, _, _, rfl⟩
  refine ⟨_, rfl, hdone, fun m' r j hr hj => ?_, hle.sameTb hseen.tb, hle.sameSlots hseen.slots, hbanks⟩
  rw [hle.masks m' r j hr hj,
    maskAt_putMask hl (fun r j hp => ⟨h.row_lt (hP r j hp).1, h.col_lt (hP r j hp).2⟩) _ _ _ hr hj, hseen.maskAt_eq]
  by_cases hm : m' = m
  · subst hm
    by_cases hown : ownsMask k m' = true <;> simp [hown]
  · simp [hm]

/-- A value at the active positions of the rectangle, the old one elsewhere. -/
theorem ite_active {α : Type} {b b' : Nat} {own act : Bool} {inRow inCol : Prop} [Decidable inRow] [Decidable inCol]
    {x y z : α} (hz : b' = b → z = y) :
    (if b' = b ∧ own = true ∧ (inRow ∧ inCol) ∧ act = true then x else z) =
      if b' = b ∧ own = true ∧ inRow ∧ inCol then (if act = true then x else y) else z := by
  by_cases hb : b' = b
  · rw [hz hb]
    cases act <;> simp
  · simp [hb]

/-- An element-wise instruction of the class [lo, hi], whose value `f` reads nothing of the engine but its contents. -/
theorem AtWord.mapsElements (h : AtWord s n k p w) (hn : n < 4) {i : Instr} {lo hi : Nat} (hlo : lo ≤ iOp w) (hhi : iOp w ≤ hi)
    {cost : Ctx → Nat} (f : Engine → Ctx → Nat → Nat → Acc) (hexec : exec i s = .next (instrStep s n k lo hi cost (mapInstr f)))
    (hf : ∀ e c, f e.contents c = f e c) :
    MapsElements i s n k p w (cost (ctxAt s n k p w)) (f (engineOf s n) (ctxAt s n k p w)) := by
  have hseen : SeenAs s (issuedAt s n k p w cost) (ctxAt s n k p w).eng := h.issued_seenAs hn cost
  have hvalue := hseen.engine (fun e => f e (ctxAt s n k p w)) fun e => hf e _
  have hactive := hseen.active_eq (ctxAt s n k p w)
  obtain ⟨t, ht, hdone, htb, hrest⟩ := h.putsTile hn hlo hhi (cost := cost) (f := mapInstr f) rfl
    (graph2_map (fun _ _ => mem_activeRect) _) fun _ _ hp => hp.1
  refine ⟨t, hexec.trans (congrArg _ ht), hdone, fun b r j hr hj => ?_, hrest⟩
  rw [htb b r j hr hj, hactive, hvalue]
  exact ite_active fun hb => by rw [hb]

/-- An instruction that writes a mask buffer at the active positions. -/
theorem AtWord.mapsMask (h : AtWord s n k p w) (hn : n < 4) {i : Instr} {lo hi m : Nat} (hlo : lo ≤ iOp w) (hhi : iOp w ≤ hi)
    {cost : Ctx → Nat} (f : Engine → Ctx → Nat → Nat → Bool) {step : State → Ctx → State × Next}
    (hexec : exec i s = .next (instrStep s n k lo hi cost step))
    (hstep : ∀ u, step u (ctxAt s n k p w) = (setEngine u n (putMask (engineOf u n) m
      ((activeRect (engineOf u n) (ctxAt s n k p w)).map fun x => (x.1, x.2, f (engineOf u n) (ctxAt s n k p w) x.1 x.2))), .go))
    (hf : ∀ e c, f e.contents c = f e c) :
    MapsMask i s n k p w m (cost (ctxAt s n k p w)) (f (engineOf s n) (ctxAt s n k p w)) := by
  have hseen := h.issued_seenAs hn cost
  have hvalue := hseen.engine (fun e => f e (ctxAt s n k p w)) fun e => hf e _
  have hactive := hseen.active_eq (ctxAt s n k p w)
  obtain ⟨t, ht, hdone, hmask, hrest⟩ := h.putsMask hn hlo hhi (cost := cost) (f := step) (hstep _)
    (graph2_map (fun _ _ => mem_activeRect) _) fun _ _ hp => hp.1
  refine ⟨t, hexec.trans (congrArg _ ht), hdone, fun m' r j hr hj => ?_, hrest⟩
  rw [hmask m' r j hr hj, hactive, hvalue]
  exact ite_active fun hm => by rw [hm]

/-- An instruction of two sources. -/
theorem AtWord.maps_binary (h : AtWord s n k p w) (hn : n < 4) {i : Instr} {lo hi : Nat} (hlo : lo ≤ iOp w) (hhi : iOp w ≤ hi)
    (f : Acc → Acc → Acc)
    (hexec : exec i s = .next (instrStep s n k lo hi costElem (mapInstr fun e c r j => f (src1 e c r j) (src2 e c r j)))) :
    MapsElements i s n k p w (costElem (ctxAt s n k p w)) fun r j =>
      f (src1 (engineOf s n) (ctxAt s n k p w) r j) (src2 (engineOf s n) (ctxAt s n k p w) r j) :=
  h.mapsElements hn hlo hhi (fun e c r j => f (src1 e c r j) (src2 e c r j)) hexec fun _ _ => rfl

/-- An instruction of one source. -/
theorem AtWord.maps_unary (h : AtWord s n k p w) (hn : n < 4) {i : Instr} {lo hi : Nat} (hlo : lo ≤ iOp w) (hhi : iOp w ≤ hi)
    {cost : Ctx → Nat} (f : Acc → Acc)
    (hexec : exec i s = .next (instrStep s n k lo hi cost (mapInstr fun e c r j => f (src1 e c r j)))) :
    MapsElements i s n k p w (cost (ctxAt s n k p w)) fun r j => f (src1 (engineOf s n) (ctxAt s n k p w) r j) :=
  h.mapsElements hn hlo hhi (fun e c r j => f (src1 e c r j)) hexec fun _ _ => rfl

end

/-- Settles O14: every instruction is `mapInstr` of its operation, read from the engine before the word. -/
theorem elementwiseInstructionsMapTheRectangle : Obligations.ElementwiseInstructionsMapTheRectangle := by
  intro s e k p w h
  refine ⟨fun hlo hhi => ?_, fun hlo hhi => ?_⟩
  · have binary := fun {i} => h.maps_binary e.isLt (i := i) hlo hhi
    have unary := fun {i} => h.maps_unary e.isLt (i := i) hlo hhi (cost := costElem)
    exact ⟨binary accAdd rfl, binary accSub rfl, binary accMul rfl,
      h.mapsElements e.isLt hlo hhi (fun e c r j => accFma (src1 e c r j) (src2 e c r j) (readTb e c (iDst c.word) r j)) rfl
        fun _ _ => rfl,
      binary accMin rfl, binary accMax rfl, unary accAbs rfl, unary accNeg rfl⟩
  · have unary := fun {i} => h.maps_unary e.isLt (i := i) hlo hhi (cost := costTrans)
    exact ⟨unary accExp2 rfl, unary accLog2 rfl, unary accRcp rfl, unary accRsqrt rfl⟩

/-- Settles O15: a comparison or mask operation puts its bits, SELECT its elements, at the active positions. -/
theorem comparisonsMasksAndSelectWriteTheirBuffers : Obligations.ComparisonsMasksAndSelectWriteTheirBuffers := by
  intro s e k p w h hlo hhi c E cmp
  have compares := fun {i} (f : Acc → Acc → Bool) (hexec : exec i s = .next (instrStep s e k 0x10 0x2F costElem (cmpInstr f))) =>
    h.mapsMask e.isLt hlo hhi (fun e c r j => f (src1 e c r j) (src2 e c r j)) hexec (fun _ => rfl) fun _ _ => rfl
  have masks := fun {i} (f : Bool → Bool → Bool) (hexec : exec i s = .next (instrStep s e k 0x10 0x2F costElem (maskInstr f))) =>
    h.mapsMask e.isLt hlo hhi (fun e c r j => f (maskAt e (iSrc1 c.word) r j) (maskAt e (iSrc2 c.word) r j)) hexec (fun _ => rfl)
      fun _ _ => rfl
  exact ⟨compares accEq rfl, compares accLt rfl, compares accLe rfl, masks and rfl, masks or rfl, masks (fun x _ => !x) rfl,
    h.mapsElements e.isLt hlo hhi (fun e c r j => if maskAt e (iMaskSel c.word) r j then src1 e c r j else src2 e c r j) rfl
      fun _ _ => rfl⟩

end Sys2Proof.Machine
end

section
/-! SUPPORT. Row reductions and slot arithmetic (R118 to R120). -/

namespace Sys2Proof.Machine

section
variable {s u : State} {n : Nat}

theorem SeenAs.emptyRowsOf_eq (h : SeenAs s u n) (c : Ctx) : emptyRowsOf (engineOf u n) c = emptyRowsOf (engineOf s n) c :=
  h.engine (fun e => emptyRowsOf e c) fun _ => rfl

theorem SeenAs.slotEntry_eq (h : SeenAs s u n) (c : Ctx) (op : SlotOp) :
    slotEntry (engineOf u n) c op = slotEntry (engineOf s n) c op := h.engine (fun e => slotEntry e c op) fun _ => rfl

end

theorem putSlot_tb (e : Engine) (sl kind : Nat) (l : List (Nat × Option Acc)) : (putSlot e sl kind l).tb = e.tb := rfl
theorem putSlot_masks (e : Engine) (sl kind : Nat) (l : List (Nat × Option Acc)) : (putSlot e sl kind l).masks = e.masks := rfl

/-- A slot that a class may write holds what the effect left there. -/
theorem LeavesEngine.slotBecomes {s t : State} {n : Nat} {k : WorkClass} {E : Engine} {q : Prog} (h : LeavesEngine s t n k E q)
    {sl : Nat} {on : Nat → Bool} {g : Nat → Option Acc}
    (hE : ∀ sl' r, r < 2 ^ 22 → slotAt E sl' r = if sl' = sl ∧ on r = true then g r else slotAt (engineOf s n) sl' r) :
    SlotBecomes s t n k sl on g := by
  intro sl' r hr
  rw [h.slots sl' r hr, hE sl' r hr]
  by_cases hsl : sl' = sl
  · subst hsl
    by_cases hown : ownsSlot k sl' = true <;> simp [hown]
  · simp [hsl]

section
variable {s : State} {n : Nat} {k : WorkClass} {p : Prog} {w : Nat}

/-- Where a word whose steps are counted left an entry that counts none. -/
theorem AtWord.reg_issued_ne (cost : Ctx → Nat) {i sub : Nat} (h5 : dkey i sub ≠ dkey (0x2300 + n) 5)
    (hk : dkey i sub ≠ dkey (0x2300 + n) (classSub k)) : reg (issuedAt s n k p w cost) i sub = reg s i sub :=
  (reg_issued s (ctxAt s n k p w) _ i sub).trans ((reg_bumpBy_ne _ hk).trans (reg_bumpBy_ne _ h5))

/-- The engine after a row reduction of program `p` has left `F` in SLOT; `A` are the running winners of position
reductions. -/
def rowPut (p : Prog) (w kind : Nat) (F : Nat → Option Acc) (A : SMap (Option Acc × Nat)) (e : Engine) : Engine :=
  { putSlot e (iSlot w) kind ((rowsOf p).map fun r => (r, F r)) with argRun := A }

/-- A row reduction, whose values `F` read nothing of the engine but its contents. -/
theorem AtWord.reducesRows (h : AtWord s n k p w) (hn : n < 4) (hlo : 0x40 ≤ iOp w) (hhi : iOp w ≤ 0x4F)
    {step : State → Ctx → State × Next} (F : Engine → Nat → Option Acc) (kind : Nat)
    (hstep : ∀ u, ∃ A, step u (ctxAt s n k p w) =
      (setEngine (countEmpty u (ctxAt s n k p w)) n (rowPut p w kind (F (engineOf u n)) A (engineOf u n)), .go))
    (hF : ∀ e, F e.contents = F e) :
    ∃ t, instrStep s n k 0x40 0x4F costRow step = t ∧
      (WordDone s t n k (p.pc + 1) (costRow (ctxAt s n k p w)) [dkey (0x2300 + n) 0x0A] ∧
        SlotBecomes s t n k (iSlot w) (inRows p) (F (engineOf s n)) ∧
        reg t (0x2300 + n) 0x0A = (reg s (0x2300 + n) 0x0A + emptyRows (engineOf s n) (ctxAt s n k p w)) % 2 ^ 64 ∧
        SameTb (engineOf s n) (engineOf t n) ∧ SameMasks (engineOf s n) (engineOf t n) ∧
        SameBanks (engineOf s n) (engineOf t n)) ∧
      (ownsSlot k (iSlot w) = true → SMap.get (engineOf t n).slotKind (iSlot w) 0 = kind) ∧
      t.ops = (issuedAt s n k p w costRow).ops := by
  have hseen := h.issued_seenAs hn costRow
  have hne5 : dkey (0x2300 + n) 0x0A ≠ dkey (0x2300 + n) 5 := by simp
  have hnek : dkey (0x2300 + n) 0x0A ≠ dkey (0x2300 + n) (classSub k) := by cases k <;> simp [classSub]
  have hempty : reg (countEmpty (issuedAt s n k p w costRow) (ctxAt s n k p w)) (0x2300 + n) 0x0A =
      (reg s (0x2300 + n) 0x0A + emptyRows (engineOf s n) (ctxAt s n k p w)) % 2 ^ 64 := by
    rw [← AtWord.reg_issued_ne (s := s) (p := p) (w := w) costRow hne5 hnek, emptyRows, ← hseen.emptyRowsOf_eq]
    exact reg_setReg_same _ _ _ _
  have hrest : SameEntriesBut [dkey (0x2300 + n) 0x0A] (issuedAt s n k p w costRow)
      (countEmpty (issuedAt s n k p w costRow) (ctxAt s n k p w)) :=
    fun i sub hi => reg_bumpBy_ne _ (List.ne_of_not_mem_cons hi)
  obtain ⟨A, hf⟩ := hstep (issuedAt s n k p w costRow)
  obtain ⟨hkept, hle, hbanks⟩ := h.goesOn hn hlo hhi hf (engineOf_setEngine_same _ _ _) ⟨_, _, _, _, _, _, rfl⟩
  refine ⟨_, rfl, ⟨?_, hle.slotBecomes fun sl r hr => ?_, ?_, hle.sameTb hseen.tb, hle.sameMasks hseen.masks, hbanks⟩,
    fun hown => ?_, ?_⟩
  · rw [hkept]
    exact h.wordDone costRow p.next ⟨rfl, hrest, fun m hm => engineOf_setEngine_ne (countEmpty _ _) _ hm⟩
      (List.not_mem_cons_of_ne_of_not_mem hne5.symm List.not_mem_nil)
      (List.not_mem_cons_of_ne_of_not_mem hnek.symm List.not_mem_nil)
  · rw [hseen.engine F hF, ← hseen.slotAt_eq]
    exact slotAt_putSlot (graph1_map (fun r => mem_rowsOf) _) (fun r => h.row_lt) _ (iSlot w) kind sl hr
  · rw [hkept]
    exact hempty
  · rw [hle.kinds _ hown]
    exact SMap.get_set_same ..
  · rw [hkept]
    rfl

/-- A reduction into a slot by the fold of its parts. -/
theorem AtWord.rowInstr_reducesRows (h : AtWord s n k p w) (hn : n < 4) (hlo : 0x40 ≤ iOp w) (hhi : iOp w ≤ 0x4F)
    {i : Instr} {kind : Nat} (parts : List (Option Acc) → List Acc) (join : Acc → Acc → Acc)
    (hexec : exec i s = .next (instrStep s n k 0x40 0x4F costRow (rowInstr kind parts join))) :
    ReducesRows i s n k p w parts join := by
  obtain ⟨t, ht, hrows, -⟩ := h.reducesRows hn hlo hhi (step := rowInstr kind parts join) (fun e r =>
    foldFrom join (if (iImm w).testBit 0 then slotAt e (iSlot w) r else none) (parts (rowVals e (ctxAt s n k p w) r))) kind
    (fun u => ⟨_, rfl⟩) fun _ => rfl
  exact ⟨t, hexec.trans (congrArg _ ht), hrows⟩

/-- The position a position reduction leaves for a row (R51, R118). -/
def argPlace (f : Acc → Acc → Acc) (e : Engine) (c : Ctx) (r : Nat) : Option Acc :=
  let l := rowVals e c r
  let i := argInit e c r
  let win := foldFrom f i.1 (l.filterMap id)
  let kept := match i.1, win with
    | some y, some v => (y.isNan && v.isNan) || y.bits == v.bits
    | _, _ => false
  if kept then slotAt e (iSlot c.word) r else (argExt f l).map (fun x => accOfNat (i.2 + x))

theorem argInstr_eq (f : Acc → Acc → Acc) (s : State) (c : Ctx) :
    ∃ A, argInstr f s c = (setEngine (countEmpty s c) c.eng
      (rowPut c.prog c.word 4 (argPlace f (engineOf s c.eng) c) A (engineOf s c.eng)), .go) := by
  unfold argInstr rowPut
  dsimp only
  rw [List.map_map]
  exact ⟨_, rfl⟩

theorem AtWord.argInstr_writesRows (h : AtWord s n k p w) (hn : n < 4) (hlo : 0x40 ≤ iOp w) (hhi : iOp w ≤ 0x4F)
    {i : Instr} (f : Acc → Acc → Acc) (hexec : exec i s = .next (instrStep s n k 0x40 0x4F costRow (argInstr f))) :
    WritesRows i s n k p w (argPlace f (engineOf s n) (ctxAt s n k p w)) := by
  obtain ⟨t, ht, hrows, -⟩ := h.reducesRows hn hlo hhi (step := argInstr f) (fun e => argPlace f e (ctxAt s n k p w)) 4
    (fun u => argInstr_eq f u _) fun _ => rfl
  exact ⟨t, hexec.trans (congrArg _ ht), hrows⟩

/-- Slot arithmetic. -/
theorem AtWord.slotStep_becomes (h : AtWord s n k p w) (hn : n < 4) (hlo : 0x50 ≤ iOp w) (hhi : iOp w ≤ 0x5F) (op : SlotOp)
    (cost : Ctx → Nat) :
    ∃ t, instrStep s n k 0x50 0x5F cost (slotStep op) = t ∧ WordDone s t n k (p.pc + 1) (cost (ctxAt s n k p w)) [] ∧
      SlotBecomes s t n k (iSlot w) (fun r => decide (r < 512)) (slotEntry (engineOf s n) (ctxAt s n k p w) op) ∧
      SameTb (engineOf s n) (engineOf t n) ∧ SameMasks (engineOf s n) (engineOf t n) ∧
      SameBanks (engineOf s n) (engineOf t n) := by
  have hseen : SeenAs s (issuedAt s n k p w cost) (ctxAt s n k p w).eng := h.issued_seenAs hn cost
  obtain ⟨hdone, hle, hbanks⟩ := h.goesOn_of_engine (cost := cost) (f := slotStep op) hn hlo hhi rfl ⟨_, _, _, _, _, _, rfl⟩
  refine ⟨_, rfl, hdone, hle.slotBecomes fun sl r hr => ?_, hle.sameTb ((putSlot_tb ..).trans hseen.tb),
    hle.sameMasks ((putSlot_masks ..).trans hseen.masks), hbanks⟩
  rw [slotAt_putSlot (P := fun r => decide (r < 512) = true) (graph1_map (by simp) _)
    (fun r hr => Nat.lt_trans (of_decide_eq_true hr) (by decide)) _ _ _ _ hr, hseen.slotAt_eq, hseen.slotEntry_eq]
  rfl

/-! Empty rows (R119, R120, Table 6.4). -/

/-- A row without an active position has no parts. -/
theorem chunks64_of_none (n : Nat) {l : List (Option Acc)} (h : ∀ x ∈ l, x = none) :
    ∀ y ∈ chunks64 n l, y = [] := by
  induction n generalizing l with
  | zero => simp [chunks64]
  | succ n ih =>
    unfold chunks64
    split
    · simp
    · intro y hy
      rcases List.mem_cons.mp hy with rfl | hy
      · exact List.filterMap_eq_nil_iff.mpr fun x hx => h x (List.mem_of_mem_take hx)
      · exact ih (fun x hx => h x (List.mem_of_mem_drop hx)) y hy

theorem rowParts_of_none (f : Acc → Acc → Acc) {l : List (Option Acc)} (h : ∀ x ∈ l, x = none) : rowParts f l = [] :=
  List.filterMap_eq_nil_iff.mpr fun y hy => by rw [chunks64_of_none _ h y hy]; rfl

theorem squareParts_of_none {l : List (Option Acc)} (h : ∀ x ∈ l, x = none) : squareParts l = [] :=
  List.filterMap_eq_nil_iff.mpr fun y hy => by rw [chunks64_of_none _ h y hy]

theorem filterMap_id_of_none {l : List (Option Acc)} (h : ∀ x ∈ l, x = none) : l.filterMap id = [] :=
  List.filterMap_eq_nil_iff.mpr h

theorem rowVals_of_inactive {e : Engine} {c : Ctx} {r : Nat} (h : ∀ j, j < c.prog.cols → active e c r j = false) :
    ∀ x ∈ rowVals e c r, x = none := by
  intro x hx
  obtain ⟨j, hj, rfl⟩ := List.mem_map.mp hx
  simp [h j (mem_colsOf.mp hj)]

@[simp] theorem Op.stamp_empty (t : Nat) (o : Op) : (o.stamp t).empty = o.empty := by unfold Op.stamp; split <;> rfl

/-- The operation of an instruction that meets an empty row is marked EMPTY (R120). -/
theorem noteEmpty_empty {s : State} {c : Ctx} (huses : usesRect c.word = true)
    (hrows : (emptyRowsOf (engineOf s c.eng) c).isEmpty = false) {tg : Nat} {o : Op} (htg : c.prog.tag = some tg)
    (ho : findOp (noteEmpty s c) tg = some o) : o.empty = true := by
  have hmark : noteEmpty s c = updOp s tg (fun o => { o with empty := true }) := by
    unfold noteEmpty
    simp only [htg, huses, hrows, Bool.not_false, Bool.and_self, if_true]
  rw [hmark, findOp_updOp (f := fun o => { o with empty := true }) (fun _ => rfl), Option.map_eq_some_iff] at ho
  obtain ⟨o', ho', rfl⟩ := ho
  simp [findOp_tag ho']

theorem AtWord.issued_empty (h : AtWord s n k p w) (hn : n < 4) (cost : Ctx → Nat) (huses : usesRect w = true) {r : Nat}
    (hr : inRows p r = true) (hnone : ∀ j, j < p.cols → active (engineOf s n) (ctxAt s n k p w) r j = false) {tg : Nat} {o : Op}
    (htg : p.tag = some tg) (ho : findOp (issuedAt s n k p w cost) tg = some o) : o.empty = true := by
  have hrows : r ∈ emptyRowsOf (engineOf s n) (ctxAt s n k p w) := by
    refine List.mem_filter.mpr ⟨mem_rowsOf.mpr hr, List.all_eq_true.mpr fun j hj => ?_⟩
    simp [hnone j (mem_colsOf.mp hj)]
  refine noteEmpty_empty (c := ctxAt s n k p w) huses ?_ htg ho
  rw [engineOf, ← noteEmpty_engines _ (ctxAt s n k p w)]
  have hseen := (h.issued_seenAs hn cost).emptyRowsOf_eq (ctxAt s n k p w)
  refine List.isEmpty_eq_false_iff.mpr (List.ne_nil_of_mem (a := r) ?_)
  exact hseen ▸ hrows

/-- A reduction of a row without an active position, no value carried: the entry holds none, and stands for what Table 6.4
gives the kind of reduction. -/
theorem AtWord.rowInstr_of_empty (h : AtWord s n k p w) (hn : n < 4) (hlo : 0x40 ≤ iOp w) (hhi : iOp w ≤ 0x4F)
    (hcarry : (iImm w).testBit 0 = false) (hown : ownsSlot k (iSlot w) = true) {r : Nat} (hr : inRows p r = true)
    (hnone : ∀ j, j < p.cols → active (engineOf s n) (ctxAt s n k p w) r j = false)
    {i : Instr} {kind : Nat} {parts : List (Option Acc) → List Acc} {join : Acc → Acc → Acc}
    (hparts : ∀ l : List (Option Acc), (∀ x ∈ l, x = none) → parts l = [])
    (hexec : exec i s = .next (instrStep s n k 0x40 0x4F costRow (rowInstr kind parts join))) :
    ∃ t, exec i s = .next t ∧ slotAt (engineOf t n) (iSlot w) r = none ∧ slotF32 (engineOf t n) (iSlot w) r = emptyF32 kind ∧
      ∀ tg o, p.tag = some tg → findOp t tg = some o → o.empty = true := by
  obtain ⟨t, ht, ⟨-, hslot, -⟩, hkind, hops⟩ := h.reducesRows hn hlo hhi (step := rowInstr kind parts join) (fun e r =>
    foldFrom join (if (iImm w).testBit 0 then slotAt e (iSlot w) r else none) (parts (rowVals e (ctxAt s n k p w) r))) kind
    (fun u => ⟨_, rfl⟩) fun _ => rfl
  have hval : slotAt (engineOf t n) (iSlot w) r = none := by
    rw [hslot _ _ (h.row_lt hr), if_pos ⟨rfl, hown, hr⟩]
    dsimp only
    rw [hcarry, hparts _ (rowVals_of_inactive (c := ctxAt s n k p w) hnone)]
    rfl
  refine ⟨t, hexec.trans (congrArg _ ht), hval, ?_, fun tg o htg ho => ?_⟩
  · unfold slotF32
    rw [hval, hkind hown]
  · have huses : usesRect w = true := by
      simp only [usesRect, Bool.and_eq_true, decide_eq_true_eq, Bool.not_eq_true', Bool.and_eq_false_iff, decide_eq_false_iff_not]
      omega
    rw [findOp, hops] at ho
    exact h.issued_empty hn costRow huses hr hnone htg ho

end

/-- Settles O16: a reduction leaves each row's fold (`reducesRows`), slot arithmetic its entries; a row without an active
position has no parts. -/
theorem rowReductionsFoldActivePositionsIntoASlot : Obligations.RowReductionsFoldActivePositionsIntoASlot := by
  constructor
  · intro s e k p w h E c place
    refine ⟨fun hlo hhi => ?_, fun hlo hhi op => ?_⟩
    · have fold := fun {i kind} => h.rowInstr_reducesRows e.isLt hlo hhi (i := i) (kind := kind)
      have places := fun {i} => h.argInstr_writesRows e.isLt hlo hhi (i := i)
      exact ⟨fold (rowParts accAdd) accAdd rfl, fold squareParts accAdd rfl, fold (rowParts accMul) accMul rfl,
        fold (List.filterMap id) accMax rfl, fold (List.filterMap id) accMin rfl, fold countParts accAdd rfl,
        places accMax rfl, places accMin rfl⟩
    · obtain ⟨t, ht, hbecomes⟩ := h.slotStep_becomes e.isLt hlo hhi op (fun _ => if slotTrans op then 4 else 1)
      exact ⟨t, congrArg _ ht, hbecomes⟩
  · intro s e k p w r h hlo hhi hcarry hown hr hnone leaves
    have empty := fun {i} kind {parts join} => h.rowInstr_of_empty e.isLt hlo hhi hcarry hown hr hnone (i := i) (kind := kind)
      (parts := parts) (join := join)
    exact ⟨empty 0 (fun _ => rowParts_of_none accAdd) rfl, empty 0 (fun _ => squareParts_of_none) rfl,
      empty 1 (fun _ => rowParts_of_none accMul) rfl, empty 2 (fun _ => filterMap_id_of_none) rfl,
      empty 3 (fun _ => filterMap_id_of_none) rfl⟩

end Sys2Proof.Machine
end

section
/-! SUPPORT. Control instructions (R114 to R116), YIELD and END (R130), and the sync operations of a program (R249, R251). -/

namespace Sys2Proof.Machine

section
variable {s : State} {n : Nat} {k : WorkClass} {p : Prog} {w : Nat}

/-! Control instructions. -/

/-- Engine `E` is `e` but for its programs and register banks. -/
def ProgramsOnly (e E : Engine) : Prop := ∃ bankE bankP epi run queue,
  E = { e with bankE := bankE, bankP := bankP, epi := epi, run := run, queue := queue }

/-- A control word that moves its program to `q`, whose effect changed no more of its engine than programs and banks. -/
theorem AtWord.control (h : AtWord s n k p w) (hn : n < 4) (hop : iOp w ≤ 15) {cost : Ctx → Nat}
    {f : State → Ctx → State × Next} {u : State} {nx : Next} {q : Prog} {also : List Nat}
    (hf : f (issuedAt s n k p w cost) (ctxAt s n k p w) = (u, nx))
    (hq : nx.moved p ((progOf (engineOf u n) k).getD p) = some q)
    (heffect : WordEffect (issuedAt s n k p w cost) u n also)
    (hsteps : dkey (0x2300 + n) 5 ∉ also) (hcls : dkey (0x2300 + n) (classSub k) ∉ also)
    (hengine : ProgramsOnly (engineOf (issuedAt s n k p w cost) n) (engineOf u n)) :
    instrStep s n k 0 15 cost f = keptState (issuedAt s n k p w cost) u n k q ∧
      WordDone s (instrStep s n k 0 15 cost f) n k q.pc (cost (ctxAt s n k p w)) also ∧
      progOf (engineOf (instrStep s n k 0 15 cost f) n) k = some q ∧
      SameBuffers (engineOf s n) (engineOf (instrStep s n k 0 15 cost f) n) ∧
      (engineOf (instrStep s n k 0 15 cost f) n).bankE = (engineOf u n).bankE ∧
      (engineOf (instrStep s n k 0 15 cost f) n).bankP = (engineOf u n).bankP := by
  have hseen := h.issued_seenAs hn cost
  obtain ⟨bankE, bankP, epi, run, queue, hE⟩ := hengine
  have hkept := h.instrStep_kept (Nat.zero_le _) hop cost hf hq
  have hle := h.leavesEngine hn cost (u := u) q rfl (by rw [hE]; exact hseen.shared)
  rw [hkept]
  exact ⟨rfl, h.wordDone cost q heffect hsteps hcls, hle.prog,
    ⟨hle.sameTb (by rw [hE]; exact hseen.tb), hle.sameSlots (by rw [hE]; exact hseen.slots),
      hle.sameMasks (by rw [hE]; exact hseen.masks), hle.shared⟩, hle.bankE, hle.bankP⟩

/-- The banks before the word are those before its steps were counted. -/
theorem AtWord.issued_banks (h : AtWord s n k p w) (hn : n < 4) (cost : Ctx → Nat) :
    (engineOf (issuedAt s n k p w cost) n).bankE = (engineOf s n).bankE ∧
      (engineOf (issuedAt s n k p w cost) n).bankP = (engineOf s n).bankP :=
  ⟨(h.issued_seenAs hn cost).engine Engine.bankE fun _ => rfl, (h.issued_seenAs hn cost).engine Engine.bankP fun _ => rfl⟩

/-- A control word without an effect of its own. -/
theorem AtWord.control_idle (h : AtWord s n k p w) (hn : n < 4) (hop : iOp w ≤ 15) {i : Instr} {cost : Ctx → Nat}
    {f : State → Ctx → State × Next} (hexec : exec i s = .next (instrStep s n k 0 15 cost f))
    (hf : ∀ u, f u (ctxAt s n k p w) = (u, .go)) :
    ∃ t, exec i s = .next t ∧ WordDone s t n k (p.pc + 1) (cost (ctxAt s n k p w)) [] ∧
      SameBuffers (engineOf s n) (engineOf t n) ∧ SameBanks (engineOf s n) (engineOf t n) := by
  obtain ⟨hbankE, hbankP⟩ := h.issued_banks hn cost
  obtain ⟨-, hdone, -, hbuffers, hE, hP⟩ := h.control hn hop (hf _) (q := p.next) (by rw [h.issued_prog hn cost]; rfl)
    (.refl _ n) List.not_mem_nil List.not_mem_nil ⟨_, _, _, _, _, rfl⟩
  exact ⟨_, hexec, hdone, hbuffers, hE.trans hbankE, hP.trans hbankP⟩

theorem setProg_programsOnly (e : Engine) (k : WorkClass) (q : Option Prog) : ProgramsOnly e (setProg e k q) := by
  unfold setProg
  split <;> exact ⟨_, _, _, _, _, rfl⟩

/-- A control word that edits its program by `g` and then moves it. -/
theorem AtWord.control_prog (h : AtWord s n k p w) (hn : n < 4) (hop : iOp w ≤ 15) {i : Instr} {cost : Ctx → Nat}
    {f : State → Ctx → State × Next} (hexec : exec i s = .next (instrStep s n k 0 15 cost f)) (g : Prog → Prog) {nx : Next} {q : Prog}
    (hf : ∀ u, f u (ctxAt s n k p w) = (editProg u (ctxAt s n k p w) g, nx)) (hq : nx.moved p (g p) = some q) :
    ∃ t, exec i s = .next t ∧ SameBuffers (engineOf s n) (engineOf t n) ∧ SameBanks (engineOf s n) (engineOf t n) ∧
      WordDone s t n k q.pc (cost (ctxAt s n k p w)) [] ∧ progOf (engineOf t n) k = some q := by
  obtain ⟨hbankE, hbankP⟩ := h.issued_banks hn cost
  have hprog := h.issued_prog hn cost
  have hedit : editProg (issuedAt s n k p w cost) (ctxAt s n k p w) g =
      keepProg (issuedAt s n k p w cost) n k (g p) := by
    unfold editProg
    rw [show progOf (engineOf _ (ctxAt s n k p w).eng) (ctxAt s n k p w).cls = some p from hprog]
    rfl
  obtain ⟨-, -, -, hrestE, hrestP⟩ := setProg_rest (engineOf (issuedAt s n k p w cost) n) k (some (g p))
  obtain ⟨-, hdone, hprog', hbuffers, hE, hP⟩ := h.control hn hop
    (u := keepProg (issuedAt s n k p w cost) n k (g p)) ((hf _).trans (by rw [hedit])) (q := q)
    (by rw [engineOf_keepProg, progOf_setProg]; exact hq) (.setEngine _ n _) List.not_mem_nil List.not_mem_nil
    (by rw [engineOf_keepProg]; exact setProg_programsOnly _ _ _)
  rw [engineOf_keepProg] at hE hP
  exact ⟨_, hexec, hbuffers, ⟨hE.trans (hrestE.trans hbankE), hP.trans (hrestP.trans hbankP)⟩, hdone, hprog'⟩

theorem bankOf_congr {e E : Engine} (hE : E.bankE = e.bankE) (hP : E.bankP = e.bankP) (k : WorkClass) : bankOf E k = bankOf e k := by
  unfold bankOf
  rw [hE, hP]

@[simp] theorem bankOf_setBank (e : Engine) (k : WorkClass) (b : Bank) : bankOf (setBank e k b) k = b := by
  unfold bankOf setBank
  split <;> rfl

theorem setBank_programsOnly (e : Engine) (k : WorkClass) (b : Bank) : ProgramsOnly e (setBank e k b) := by
  unfold setBank
  split <;> exact ⟨_, _, _, _, _, rfl⟩

theorem progOf_setBank (e : Engine) (k : WorkClass) (b : Bank) : progOf (setBank e k b) k = progOf e k := by
  unfold progOf setBank
  split <;> rfl

/-- A control word that edits the bank of its class by `g` and then moves the program. -/
theorem AtWord.control_bank (h : AtWord s n k p w) (hn : n < 4) (hop : iOp w ≤ 15) {i : Instr} {cost : Ctx → Nat}
    {f : State → Ctx → State × Next} (hexec : exec i s = .next (instrStep s n k 0 15 cost f)) (g : Bank → Bank) {nx : Next} {q : Prog}
    (hf : ∀ u, u.mem = s.mem → f u (ctxAt s n k p w) = (editBank u (ctxAt s n k p w) g, nx)) (hq : nx.moved p p = some q) :
    ∃ t, exec i s = .next t ∧ WordDone s t n k q.pc (cost (ctxAt s n k p w)) [] ∧
      SameBuffers (engineOf s n) (engineOf t n) ∧ bankOf (engineOf t n) k = g (bankOf (engineOf s n) k) := by
  obtain ⟨hbankE, hbankP⟩ := h.issued_banks hn cost
  have hseen := h.issued_seenAs hn cost
  have hengine : engineOf (editBank (issuedAt s n k p w cost) (ctxAt s n k p w) g) n =
      setBank (engineOf (issuedAt s n k p w cost) n) k (g (bankOf (engineOf (issuedAt s n k p w cost) n) k)) :=
    engineOf_setEngine_same ..
  obtain ⟨-, hdone, -, hbuffers, hE, hP⟩ := h.control hn hop (hf _ hseen.mem) (q := q)
    (by rw [hengine, progOf_setBank, h.issued_prog hn cost]; exact hq) (.setEngine _ n _) List.not_mem_nil List.not_mem_nil
    (by rw [hengine]; exact setBank_programsOnly _ _ _)
  refine ⟨_, hexec, hdone, hbuffers, (bankOf_congr hE hP k).trans ?_⟩
  rw [hengine, bankOf_setBank, bankOf_congr hbankE hbankP]

end

theorem scAt_setSc (b : Bank) (m : Nat) (a : Acc) (j : Nat) : scAt (setSc b m a) j = if j = m then a else scAt b j :=
  SMap.get_set ..

theorem arAt_setAr (b : Bank) (m v j : Nat) : arAt (setAr b m v) j = if j = m then v else arAt b j := SMap.get_set ..

theorem shapeOf_le (w : Nat) : (shapeOf w).1 ≤ 512 ∧ (shapeOf w).2 ≤ if iPacked w then 1024 else 512 := by
  constructor
  · exact Nat.le_of_lt_succ (Nat.mod_lt _ (by decide))
  · unfold shapeOf
    split
    · exact Nat.le_of_lt_succ (Nat.mod_lt _ (by decide))
    · exact Nat.le_of_lt_succ (Nat.mod_lt _ (by decide))

@[simp] theorem ctxOf_prog (s : State) (n : Nat) (k : WorkClass) (p : Prog) (w : Nat) : (ctxOf s n k p w).prog = p := rfl
@[simp] theorem ctxOf_word (s : State) (n : Nat) (k : WorkClass) (p : Prog) (w : Nat) : (ctxOf s n k p w).word = w := rfl

/-- Settles O17: each word edits its program, or the bank of its class, and no more of the engine. -/
theorem controlInstructionsMoveTheProgram : Obligations.ControlInstructionsMoveTheProgram := by
  intro s e k p w h hop E now_
  have hn : (e : Nat) < 4 := e.isLt
  refine ⟨?_, shapeOf_le w, ?_, fun hdepth himm => ?_, fun hloops => ?_, fun first left l hloops => ?_, ?_, ?_, ?_⟩
  · exact h.control_idle hn hop (i := .vecNop e k) rfl fun _ => rfl
  · obtain ⟨t, ht, hbuffers, hbanks, hdone, hprog⟩ := h.control_prog hn hop (i := .shape e k) rfl
      (fun p => { p with rows := (shapeOf w).1, cols := (shapeOf w).2, tileW := 0 }) (nx := .go) (fun _ => rfl) rfl
    exact ⟨t, ht, hdone, hprog, hbuffers, hbanks⟩
  · obtain ⟨t, ht, hbuffers, hbanks, hdone, hprog⟩ := h.control_prog hn hop (i := .loop e k) rfl
      (fun q => { q with loops := (p.pc + 1, iImm w) :: q.loops }) (nx := .go)
      (fun _ => by simp [Nat.not_le.mpr hdepth, himm]) rfl
    exact ⟨t, ht, hdone, hprog, hbuffers, hbanks⟩
  · obtain ⟨t, ht, hdone, hbuffers, -⟩ := h.control_idle hn hop (i := .endloop e k) rfl fun _ => by simp [hloops]
    exact ⟨t, ht, hdone, hbuffers⟩
  · by_cases hleft : 1 < left
    · obtain ⟨t, ht, hbuffers, hbanks, hdone, hprog⟩ := h.control_prog hn hop (i := .endloop e k) rfl
        (fun q => { q with loops := (first, left - 1) :: l }) (nx := .jump first) (fun _ => by simp [hloops, hleft]) rfl
      exact ⟨t, ht, hbuffers, hbanks, fun _ => ⟨hdone, hprog⟩, fun hle => absurd hleft (Nat.not_lt.mpr hle)⟩
    · obtain ⟨t, ht, hbuffers, hbanks, hdone, hprog⟩ := h.control_prog hn hop (i := .endloop e k) rfl
        (fun q => { q with loops := l }) (nx := .go) (fun _ => by simp [hloops, hleft]) rfl
      exact ⟨t, ht, hbuffers, hbanks, fun hlt => absurd hlt hleft, fun _ => ⟨hdone, hprog⟩⟩
  · obtain ⟨t, ht, hdone, hbuffers, hbank⟩ := h.control_bank hn hop (i := .sets e k) rfl
      (fun b => setSc b (iSreg w) (widen (Fmt.decode .fp32 (memVal s (p.base + 8 * (p.pc + 1)) 4)))) (nx := .skip)
      (fun u hu => by simp [memVal, memRead, memByte, hu]) rfl
    exact ⟨t, ht, hdone, hbuffers, fun m => by rw [hbank]; exact scAt_setSc .., fun m => by rw [hbank]; rfl⟩
  · obtain ⟨t, ht, hdone, hbuffers, hbank⟩ := h.control_bank hn hop (i := .setar e k) rfl
      (fun b => setAr b (iAr w) (Config.setarValue w % 2 ^ 64)) (nx := .go) (fun _ _ => rfl) rfl
    exact ⟨t, ht, hdone, hbuffers, fun m => by rw [hbank]; rfl, fun m => by rw [hbank]; exact arAt_setAr ..⟩
  · obtain ⟨t, ht, hdone, hbuffers, hbank⟩ := h.control_bank hn hop (i := .advar e k) rfl
      (fun b => setAr b (iAr w) ((arAt b (iAr w) + Config.advarAmount w (arAt b (iAr w))) % 2 ^ 64)) (nx := .go)
      (fun _ _ => rfl) rfl
    refine ⟨t, ht, hdone, hbuffers, fun m => by rw [hbank]; rfl, fun m => ?_⟩
    rw [hbank, arAt_setAr]
    by_cases hm : m = iAr w
    · rw [if_pos hm, if_pos hm, hm]
    · rw [if_neg hm, if_neg hm]

end Sys2Proof.Machine
end

section
/-! SUPPORT. YIELD and END of a vector program (R130). -/

namespace Sys2Proof.Machine

section
variable {s : State} {n : Nat} {k : WorkClass} {p : Prog} {w : Nat}

/-- END, which a program also runs past its last word, at a word of the control class. -/
theorem AtWord.instrStep_end (h : AtWord s n k p w) (hop : iOp w ≤ 15) (cost : Ctx → Nat) (f : State → Ctx → State × Next) :
    instrStep s n k 0 1 cost f = instrStep s n k 0 15 cost f := by
  obtain ⟨hseen, -, hprog⟩ := ready_of_held h.cls h.held
  have hword : wordAt (ready s n k).1 p = w := by
    rw [← h.word]
    unfold wordAt memVal memRead memByte
    rw [hseen.mem]
  have hplace : decide (p.len ≤ p.pc) = false := by simpa using h.place
  unfold instrStep
  simp only [h.turn, if_true, hprog, hplace, hword, hop, Bool.false_eq_true, if_false, decide_true, beq_self_eq_true,
    Bool.and_self, Bool.true_and, Bool.false_and, Bool.or_true, Bool.or_false]

/-- A word after which its program is no longer there. -/
theorem AtWord.instrStep_done (h : AtWord s n k p w) {lo hi : Nat} (hlo : lo ≤ iOp w) (hhi : iOp w ≤ hi) {cost : Ctx → Nat}
    {f : State → Ctx → State × Next} {u : State} (hf : f (issuedAt s n k p w cost) (ctxAt s n k p w) = (u, .done)) :
    instrStep s n k lo hi cost f = confined (issuedAt s n k p w cost) u n k := by
  rw [h.instrStep_eq hlo hhi cost f]
  dsimp only
  rw [hf]
  rfl

theorem engineOf_stopProg_program (s : State) (n : Nat) (p : Prog) (st : Nat) :
    engineOf (stopProg s n .program p st) n = { engineOf s n with run := none } := by
  unfold stopProg
  cases p.tag with
  | none => exact engineOf_setEngine_same (dropWaits s n p) n _
  | some t => exact engineOf_setEngine_same (dropWaits s n p) n _

theorem engineOf_stopProg_program_ne (s : State) {n m : Nat} (p : Prog) (st : Nat) (hm : m ≠ n) :
    engineOf (stopProg s n .program p st) m = engineOf s m := by
  unfold stopProg
  cases p.tag with
  | none => exact engineOf_setEngine_ne (dropWaits s n p) _ hm
  | some t => exact engineOf_setEngine_ne (dropWaits s n p) _ hm

/-- The buffers of epilogues, under whatever a class other than theirs does. -/
theorem tbAt_confine_epilogue {k : WorkClass} (hk : k ≠ .epilogue) (old new : Engine) {b r j : Nat} (hb : b < 3) (hr : r < 2 ^ 22)
    (hj : j < 2 ^ 22) : tbAt (confine k old new) b r j = tbAt old b r j := by
  have hkey : tkey b r j < 3 * 2 ^ 44 := by simp only [tkey]; omega
  unfold tbAt confine
  simp only [SMap.find_graft, if_pos hkey, if_neg hk, if_neg (Nat.ne_of_lt hb)]
  congr 1
  cases new.shared <;> cases old.shared <;> rfl

/-- What YIELD does at its word (R130). -/
def yieldStep (s : State) (c : Ctx) : State × Next :=
  if c.cls = .epilogue then (s, .go)
  else
    let e := forgetShared (engineOf s c.eng) c.base
    match e.run with
    | none => (s, .done)
    | some p => (setEngine s c.eng { e with run := none, queue := e.queue ++ [{ p with pc := c.prog.pc + 1, saved := some e.bankP }] },
        .done)

theorem exec_yield (s : State) (e : EngineId) (k : WorkClass) :
    exec (.yield e k) s = .next (instrStep s e k 0 15 cost1 yieldStep) := rfl

/-- What END does at its word, or behind the last one (R130). -/
def endStep (s : State) (c : Ctx) : State × Next :=
  (if c.cls = .epilogue then endEpilogue s c.eng c.prog else stopProg s c.eng c.cls c.prog stOk, .done)

theorem exec_vecEnd (s : State) (e : EngineId) (k : WorkClass) :
    exec (.vecEnd e k) s = .next (instrStep s e k 0 1 cost1 endStep) := rfl

/-- The engine of a program that yields: its shared buffers are given up, and the program waits behind the others with bank P
and its loops. -/
def yieldedEngine (e : Engine) (base : Nat) (p : Prog) : Engine :=
  { forgetShared e base with run := none, queue := e.queue ++ [{ p with pc := p.pc + 1, saved := some e.bankP }] }

theorem yieldStep_eq {c : Ctx} (hrun : progOf (engineOf s c.eng) .program = some p) (hcls : c.cls = .program) (hprog : c.prog = p) :
    yieldStep s c = (setEngine s c.eng (yieldedEngine (engineOf s c.eng) c.base p), .done) := by
  have hrun' : (forgetShared (engineOf s c.eng) c.base).run = some p := hrun
  unfold yieldStep
  simp only [hcls, hprog, hrun']
  rfl

theorem AtWord.yields (h : AtWord s n .program p w) (hn : n < 4) (hop : iOp w ≤ 15) :
    ∃ t, instrStep s n .program 0 15 cost1 yieldStep = t ∧ (engineOf t n).run = none ∧
      (engineOf t n).queue = (engineOf s n).queue ++ [{ p with pc := p.pc + 1, saved := some (engineOf s n).bankP }] ∧
      (engineOf t n).bankE = (engineOf s n).bankE ∧ (engineOf t n).epi = (engineOf s n).epi ∧
      (∀ b r j, b < 3 → r < 2 ^ 22 → j < 2 ^ 22 → tbAt (engineOf t n) b r j = tbAt (engineOf s n) b r j) ∧
      (∀ m, m ≠ n → engineOf t m = engineOf s m) ∧ t.mem = s.mem := by
  have hseen := h.issued_seenAs hn cost1
  have hstep : instrStep s n .program 0 15 cost1 yieldStep = confined (issuedAt s n .program p w cost1)
      (setEngine (issuedAt s n .program p w cost1) n
        (yieldedEngine (engineOf (issuedAt s n .program p w cost1) n) (ctxAt s n .program p w).base p)) n .program :=
    h.instrStep_done (Nat.zero_le _) hop (yieldStep_eq (h.issued_prog hn cost1) rfl rfl)
  have hengine := engineOf_confined (issuedAt s n .program p w cost1) (setEngine (issuedAt s n .program p w cost1) n
    (yieldedEngine (engineOf (issuedAt s n .program p w cost1) n) (ctxAt s n .program p w).base p)) n .program
  rw [engineOf_setEngine_same] at hengine
  rw [hstep]
  refine ⟨_, rfl, by rw [hengine]; rfl, ?_, ?_, ?_, fun b r j hb hr hj => ?_, fun m hm => ?_, hseen.mem⟩
  · rw [hengine]
    exact hseen.engine (fun e => e.queue ++ [{ p with pc := p.pc + 1, saved := some e.bankP }]) fun _ => rfl
  · rw [hengine]
    exact hseen.engine Engine.bankE fun _ => rfl
  · rw [hengine]
    exact hseen.engine Engine.epi fun _ => rfl
  · rw [hengine, tbAt_confine_epilogue (by decide) _ _ hb hr hj, hseen.tbAt_eq]
  · refine (engineOf_setEngine_ne (setEngine (issuedAt s n .program p w cost1) n _) _ hm).trans ?_
    exact (engineOf_setEngine_ne (issuedAt s n .program p w cost1) _ hm).trans (engineOf_issued_ne s _ _ hm)

/-- END of a program whose operation has not ended. -/
theorem AtWord.ends (h : AtWord s n .program p w) (hn : n < 4) (hop : iOp w ≤ 15) {tg : Nat} {o : Op} (htg : p.tag = some tg) (ho : findOp s tg = some o) (hended : o.ended = false) :
    ∃ t o', instrStep s n .program 0 1 cost1 endStep = t ∧ (engineOf t n).run = none ∧ findOp t tg = some o' ∧ o'.ended = true ∧
      o'.status = stOk ∧ SameTb (engineOf s n) (engineOf t n) ∧ (engineOf t n).queue = (engineOf s n).queue ∧
      SameBanks (engineOf s n) (engineOf t n) ∧ (∀ m, m ≠ n → engineOf t m = engineOf s m) ∧ t.mem = s.mem := by
  have hseen : SeenAs s (issuedAt s n .program p w cost1) n := h.issued_seenAs hn cost1
  have hstep : instrStep s n .program 0 1 cost1 endStep = confined (issuedAt s n .program p w cost1)
      (stopProg (issuedAt s n .program p w cost1) n .program p stOk) n .program := by
    rw [h.instrStep_end hop]
    exact h.instrStep_done (Nat.zero_le _) hop rfl
  obtain ⟨o1, ho1, htaken⟩ : ∃ o1, findOp (issuedAt s n .program p w cost1) tg = some o1 ∧ o1.asTaken = o.asTaken := by
    have hfound := hseen.ops tg
    rw [ho] at hfound
    simpa using hfound
  obtain ⟨-, -, -, -, -, -, -, hended1⟩ := asTaken_fields htaken
  obtain ⟨-, hmem, o', ho', hend', hst'⟩ := stopProg_program n stOk htg ho1 (hended1.trans hended)
  have hengine := engineOf_confined (issuedAt s n .program p w cost1)
    (stopProg (issuedAt s n .program p w cost1) n .program p stOk) n .program
  have htb := tbAt_confine_same (k := .program) (old := engineOf (issuedAt s n .program p w cost1) n)
    (new := engineOf (stopProg (issuedAt s n .program p w cost1) n .program p stOk) n)
    (by rw [engineOf_stopProg_program]) (by rw [engineOf_stopProg_program])
  rw [← hengine] at htb
  rw [engineOf_stopProg_program] at hengine
  rw [hstep]
  refine ⟨_, o', rfl, by rw [hengine]; rfl, ho', hend', hst', fun b r j => ?_, ?_, ⟨?_, ?_⟩, fun m hm => ?_,
    hmem.trans hseen.mem⟩
  · rw [htb, hseen.tbAt_eq]
  · rw [hengine]
    exact hseen.engine Engine.queue fun _ => rfl
  · rw [hengine]
    exact hseen.engine Engine.bankE fun _ => rfl
  · rw [hengine]
    exact hseen.engine Engine.bankP fun _ => rfl
  · refine (engineOf_setEngine_ne (stopProg (issuedAt s n .program p w cost1) n .program p stOk) _ hm).trans ?_
    rw [engineOf_stopProg_program_ne _ _ _ hm]
    exact engineOf_issued_ne s _ _ hm

end

/-- Settles O18: YIELD leaves `yieldedEngine`, END stops its program; to an epilogue YIELD is a word without effect. -/
theorem yieldAndEndFreeTheEngine : Obligations.YieldAndEndFreeTheEngine := by
  intro s e p w
  refine ⟨fun h hop => ⟨?_, fun tg o htg ho hended => ?_⟩, fun h hop => ?_⟩
  · obtain ⟨t, ht, hyield⟩ := h.yields e.isLt hop
    exact ⟨t, (exec_yield s e .program).trans (congrArg _ ht), hyield⟩
  · obtain ⟨t, o', ht, hend⟩ := h.ends e.isLt hop htg ho hended
    exact ⟨t, o', (exec_vecEnd s e .program).trans (congrArg _ ht), hend⟩
  · exact h.control_idle e.isLt hop (exec_yield s e .epilogue) fun _ => rfl

end Sys2Proof.Machine
end

section
/-! SUPPORT. Sync operations of a vector program (R116, R249, R251). -/

namespace Sys2Proof.Machine

section
variable {s u : State} {n : Nat} {k : WorkClass} {p : Prog} {w : Nat}

/-- What a program's sync operation reads of the state, but for its engine. -/
structure SyncAlike (s u : State) : Prop where
  sync    : u.sync = s.sync
  waits   : u.waits = s.waits
  now_    : now u = now s
  watch   : reg u 0x2500 1 = reg s 0x2500 1
  live    : ∀ c, syncLive u c = syncLive s c
  status  : ∀ op c m agent, syncStatus u op c m agent = syncStatus s op c m agent

theorem SyncAlike.objOf_eq (h : SyncAlike s u) (m : Nat) : objOf u m = objOf s m := by rw [objOf, objOf, h.sync]

theorem WordFrame.syncAlike (h : WordFrame s u) (hrec : ∀ c, ctxRec u c = ctxRec s c) (hstate : ∀ c, ctxState u c = ctxState s c)
    (hwatch : reg u 0x2500 1 = reg s 0x2500 1) : SyncAlike s u := by
  obtain ⟨dict, engines, power, ops, freeCtr, rfl⟩ := h
  refine ⟨rfl, rfl, rfl, hwatch, fun c => by rw [syncLive, syncLive, hstate], fun op c m agent => ?_⟩
  simp only [syncStatus, syncAddressBad, syncPoisoned, syncLive, syncStateBad, inSyncRange, hrec, hstate]
  rfl

theorem AtWord.syncAlike (h : AtWord s n k p w) (hn : n < 4) (cost : Ctx → Nat) : SyncAlike s (issuedAt s n k p w cost) := by
  have hentry : ∀ i sub, (0x4000 ≤ i ∨ i = 0x2500) → reg (issuedAt s n k p w cost) i sub = reg s i sub := by
    intro i sub hi
    refine AtWord.reg_issued_ne cost ?_ ?_
    · simp [dkey]; omega
    · cases k <;> simp [classSub, dkey] <;> omega
  exact (issued_wordFrame s _ _).syncAlike (h.issued_seenAs hn cost).records (fun c => hentry _ _ (.inl (by omega)))
    (hentry _ _ (.inr rfl))

/-- A sync operation of a program, whose effect `u` left every engine and all memory. -/
theorem AtWord.control_sync (h : AtWord s n k p w) (hn : n < 4) (hop : iOp w ≤ 15) {cost : Ctx → Nat}
    {f : State → Ctx → State × Next} {nx : Next} {q : Prog} {also : List Nat}
    (hf : f (issuedAt s n k p w cost) (ctxAt s n k p w) = (u, nx)) (hq : nx.moved p p = some q)
    (hmem : u.mem = (issuedAt s n k p w cost).mem) (hengines : u.engines = (issuedAt s n k p w cost).engines)
    (hrest : SameEntriesBut also (issuedAt s n k p w cost) u)
    (hsteps : dkey (0x2300 + n) 5 ∉ also) (hcls : dkey (0x2300 + n) (classSub k) ∉ also) :
    ∃ t, instrStep s n k 0 15 cost f = t ∧ WordDone s t n k q.pc (cost (ctxAt s n k p w)) also ∧
      progOf (engineOf t n) k = some q ∧ t.waits = u.waits ∧ t.sync = u.sync := by
  have hengine : ∀ m, engineOf u m = engineOf (issuedAt s n k p w cost) m := fun m => by rw [engineOf, engineOf, hengines]
  obtain ⟨hkept, hdone, hprog, -⟩ := h.control hn hop hf (q := q) (by rw [hengine, h.issued_prog hn cost]; exact hq)
    ⟨hmem, hrest, fun m _ => hengine m⟩ hsteps hcls (by rw [hengine]; exact ⟨_, _, _, _, _, rfl⟩)
  exact ⟨_, rfl, hdone, hprog, by rw [hkept]; rfl, by rw [hkept]; rfl⟩

/-- The caches an acquire empties are no engine's, and count INVALIDATES alone. -/
theorem acquireEffect_frame (s : State) (scope : Nat) (prog : Bool) :
    (acquireEffect s scope prog).mem = s.mem ∧ (acquireEffect s scope prog).engines = s.engines ∧
      (acquireEffect s scope prog).waits = s.waits ∧ (acquireEffect s scope prog).sync = s.sync ∧
      SameEntriesBut [dkey 0x2500 6] s (acquireEffect s scope prog) := by
  have hbump : ∀ (s : State) i sub, dkey i sub ∉ [dkey 0x2500 6] → reg (bump s 0x2500 6) i sub = reg s i sub :=
    fun s i sub hi => reg_bumpBy_ne 1 (List.ne_of_not_mem_cons hi)
  unfold acquireEffect
  dsimp only
  split <;> split
  · exact ⟨rfl, rfl, rfl, rfl, fun i sub hi => (hbump _ i sub hi).trans (hbump _ i sub hi)⟩
  · exact ⟨rfl, rfl, rfl, rfl, fun i sub hi => hbump _ i sub hi⟩
  · exact ⟨rfl, rfl, rfl, rfl, fun i sub hi => hbump _ i sub hi⟩
  · exact ⟨rfl, rfl, rfl, rfl, fun _ _ _ => rfl⟩

/-- No engine's counter of steps is INVALIDATES. -/
theorem steps_not_invalidates (hn : n < 4) (k : WorkClass) :
    dkey (0x2300 + n) 5 ∉ [dkey 0x2500 6] ∧ dkey (0x2300 + n) (classSub k) ∉ [dkey 0x2500 6] := by
  have hsub : classSub k < 256 := by cases k <;> decide
  constructor <;> simp only [List.mem_singleton, dkey] <;> omega

/-- The request a program's WAIT leaves. -/
def waitReqOf (s : State) (c : Ctx) (target : Nat) : WaitReq :=
  { tag := c.prog.tag.getD 0, engine := some c.eng, owner := c.prog.ctx, obj := vecObj c, target := target, acquire := false
    agent := vecAgent c, ctx := c.prog.ctx, scope := vecScope c, deadline := now s + reg s 0x2500 1, satisfied := none }

theorem vecWaitStep_eq {s : State} {c : Ctx} {target : Nat} (htarget : accNat (scReg s c (iSreg c.word)) = some target)
    (hlt : target < 2 ^ 32) (hok : syncStatus s 0x11 c.prog.ctx (vecObj c) (vecAgent c) = stOk) :
    vecWaitStep s c = if (syncLive s c.prog.ctx && waitOk (objOf s (vecObj c)) target) = true
      then (acquireEffect s (vecScope c) true, .go) else ({ s with waits := s.waits ++ [waitReqOf s c target] }, .stall) := by
  unfold vecWaitStep
  simp only [htarget, Nat.not_le.mpr hlt, if_false]
  rw [hok]
  rfl

theorem vecSignalStep_eq {s : State} {c : Ctx} (hok : syncStatus s 0x10 c.prog.ctx (vecObj c) (vecAgent c) = stOk) :
    vecSignalStep s c = (signalObj s c.prog.ctx (vecObj c) 1, .go) := by
  unfold vecSignalStep
  dsimp only
  rw [hok]
  rfl

/-- What SIGNAL leaves of its object (R249). -/
def signalled (o : SyncObj) : SyncObj :=
  if o.type = 1 then advance o 1 else if o.set then o else { advance o 1 with set := true }

theorem signalObj_eq (s : State) (c m : Nat) : signalObj s c m 1 = wakeWaits (setObj s m (signalled (objOf s m))) c m := rfl

theorem waits_signalObj (s : State) (c m : Nat) :
    (signalObj s c m 1).waits = mapIf (fun x => x.owner == c && x.obj == m && !x.acquire && x.satisfied.isNone &&
      waitOk (signalled (objOf s m)) x.target) (fun x => { x with satisfied := some (now s) }) s.waits := by
  have hobj : objOf (setObj s m (signalled (objOf s m))) m = signalled (objOf s m) := SMap.get_set_same ..
  rw [signalObj_eq, wakeWaits]
  dsimp only
  rw [hobj]
  rfl

theorem objOf_signalObj (s : State) (c m m' : Nat) :
    objOf (signalObj s c m 1) m' = if m' = m then signalled (objOf s m) else objOf s m' := SMap.get_set ..

end

/-- Settles O35: WAIT goes on with an acquire or leaves a request, SIGNAL changes its object and marks waits; what either reads
is the state before the word. -/
theorem vectorProgramsWaitAndSignal : Obligations.VectorProgramsWaitAndSignal := by
  intro s e k p w h hop c n
  have halike := h.syncAlike e.isLt cost1
  have hsc : scReg (issuedAt s e k p w cost1) c = scReg s c :=
    (h.issued_seenAs e.isLt cost1).engine (fun e => scAt (bankOf e k)) fun e => by cases k <;> rfl
  refine ⟨fun target htarget hlt hok => ?_, fun hok => ?_⟩
  · have hstep := vecWaitStep_eq (s := issuedAt s e k p w cost1) (c := c) (target := target) (by rw [hsc]; exact htarget) hlt
      ((halike.status ..).trans hok)
    rw [halike.live, halike.objOf_eq] at hstep
    refine ⟨fun hlive hsat => ?_, fun hpend => ?_⟩
    · obtain ⟨hmem, hengines, hwaits, hsync, hrest⟩ := acquireEffect_frame (issuedAt s e k p w cost1) (vecScope c) true
      obtain ⟨t, ht, hdone, -, hw, hs⟩ := h.control_sync e.isLt hop (q := p.next)
        (hstep.trans (if_pos (by rw [show c.prog = p from rfl, hlive, hsat]; rfl))) rfl hmem hengines hrest
        (steps_not_invalidates e.isLt k).1 (steps_not_invalidates e.isLt k).2
      exact ⟨t, congrArg _ ht, hdone, hw.trans (hwaits.trans halike.waits), hs.trans (hsync.trans halike.sync)⟩
    · obtain ⟨t, ht, hdone, hprog, hw, hs⟩ := h.control_sync e.isLt hop (q := { p with waiting := true }) (also := [])
        (hstep.trans (if_neg (by rw [show c.prog = p from rfl]; rcases hpend with hf | hf <;> simp [n, hf]))) rfl rfl rfl
        (fun _ _ _ => rfl) List.not_mem_nil List.not_mem_nil
      refine ⟨t, congrArg _ ht, hdone, hs.trans halike.sync, by rw [hprog]; rfl, waitReqOf (issuedAt s e k p w cost1) c target,
        ?_, rfl, rfl, rfl, rfl, ?_, rfl, rfl⟩
      · rw [hw, ← halike.waits]
      · show now _ + reg _ _ _ = _
        rw [halike.now_, halike.watch]
  · obtain ⟨t, ht, hdone, -, hw, hs⟩ := h.control_sync e.isLt hop (q := p.next) (also := [])
      (vecSignalStep_eq ((halike.status ..).trans hok)) rfl rfl rfl (fun _ _ _ => rfl) List.not_mem_nil List.not_mem_nil
    have hobj : ∀ m, objOf t m = if m = n then signalled (objOf s n) else objOf s m := fun m => by
      rw [objOf, hs, ← halike.objOf_eq, ← halike.objOf_eq]
      exact objOf_signalObj _ _ _ _
    refine ⟨t, congrArg _ ht, hdone, (hobj n).trans (if_pos rfl), fun m hm => (hobj m).trans (if_neg hm), ?_⟩
    rw [hw, ← halike.waits, ← halike.now_, hobj, if_pos rfl, ← halike.objOf_eq]
    exact waits_signalObj _ _ _

end Sys2Proof.Machine
end

section
/-! SUPPORT. Memory instructions of a vector program: loads, stores and statistics records (R34, R36, R115, R122). -/

namespace Sys2Proof.Machine

/-! Reading back what a write left. -/

theorem leVal_leBytes (n v : Nat) : leVal (leBytes n v) = v % 2 ^ (8 * n) := by
  induction n generalizing v with
  | zero => simp [leBytes, leVal, Nat.mod_one]
  | succ n ih =>
    rw [leBytes, leVal, ih, BitVec.toNat_ofNat, Nat.mul_succ, Nat.add_comm (8 * n) 8, Nat.pow_add]
    exact (Nat.mod_mul).symm

theorem memRead_memWrite {s : State} {a : Nat} {l : List Byte} (hret : retiredIn s a l.length = []) :
    memRead (memWrite s a l) a l.length = l := by
  refine List.ext_getElem (by simp [memRead]) fun i hi _ => ?_
  have hlt : i < l.length := by simpa [memRead] using hi
  simp [memRead, memByte_memWrite, hret, hlt]

theorem memVal_memWriteVal {s : State} {a n : Nat} (v : Nat) (hret : retiredIn s a n = []) :
    memVal (memWriteVal s a n v) a n = v % 2 ^ (8 * n) := by
  have hread := memRead_memWrite (s := s) (a := a) (l := leBytes n v) (by rw [leBytes_length]; exact hret)
  rw [leBytes_length] at hread
  rw [memVal, memWriteVal, hread, leVal_leBytes]

theorem memVal_congr {s u : State} {a n : Nat} (h : ∀ x, a ≤ x → x < a + n → memByte u x = memByte s x) :
    memVal u a n = memVal s a n := by
  unfold memVal memRead
  rw [List.map_congr_left]
  exact fun j hj => h _ (Nat.le_add_right a j) (Nat.add_lt_add_left (List.mem_range.mp hj) a)

theorem retiredIn_of_sub {s : State} {a len a' len' : Nat} (h : retiredIn s a len = []) (hlo : a ≤ a') (hhi : a' + len' ≤ a + len) :
    retiredIn s a' len' = [] := by
  simp only [retiredIn, List.map_eq_nil_iff, List.filter_eq_nil_iff, Bool.and_eq_true, decide_eq_true_eq] at h ⊢
  rintro e he ⟨⟨hset, hbefore⟩, hafter⟩
  exact h e he ⟨⟨hset, by omega⟩, by omega⟩

/-! Records written row by row. -/

/-- Row `r` of the records at `a` takes the value `v r`, where there is one. -/
def putStat (v : Nat → Option Nat) (a : Nat) (t : State) (r : Nat) : State :=
  match v r with
  | none => t
  | some x => memWriteVal t (a + 8 * r) 8 x

theorem putStat_outside {v : Nat → Option Nat} {a r x : Nat} (t : State) (h : x < a + 8 * r ∨ a + 8 * r + 8 ≤ x) :
    memByte (putStat v a t r) x = memByte t x := by
  unfold putStat
  split
  · rfl
  · exact memByte_memWriteVal_outside h

theorem putStat_rel (v : Nat → Option Nat) (a : Nat) (t : State) (r b n : Nat) :
    retiredIn (putStat v a t r) b n = retiredIn t b n := by
  unfold putStat
  split <;> rfl

theorem putStat_engines (v : Nat → Option Nat) (a : Nat) (t : State) (r m : Nat) :
    engineOf (putStat v a t r) m = engineOf t m := by
  unfold putStat
  split <;> rfl

theorem memVal_putStat {v : Nat → Option Nat} {a r : Nat} {t : State} (hret : retiredIn t (a + 8 * r) 8 = []) :
    memVal (putStat v a t r) (a + 8 * r) 8 = match v r with
      | some x => x % 2 ^ 64
      | none => memVal t (a + 8 * r) 8 := by
  unfold putStat
  split
  · next h => rw [h]
  · next h => rw [h]; exact memVal_memWriteVal _ hret

/-- The records of rows other than those written, or of bytes outside them all. -/
theorem putStats_outside {v : Nat → Option Nat} {a x : Nat} {l : List Nat} (h : ∀ r ∈ l, x < a + 8 * r ∨ a + 8 * r + 8 ≤ x)
    (t : State) : memByte (l.foldl (putStat v a) t) x = memByte t x := by
  induction l generalizing t with
  | nil => rfl
  | cons r l ih =>
    exact (ih (fun r' hr' => h r' (List.mem_cons_of_mem r hr')) _).trans (putStat_outside t (h r List.mem_cons_self))

theorem memVal_putStats {v : Nat → Option Nat} {a r : Nat} {l : List Nat} (hl : l.Nodup) (hr : r ∈ l) {t : State}
    (hret : retiredIn t (a + 8 * r) 8 = []) :
    memVal (l.foldl (putStat v a) t) (a + 8 * r) 8 = match v r with
      | some x => x % 2 ^ 64
      | none => memVal t (a + 8 * r) 8 := by
  induction l generalizing t with
  | nil => cases hr
  | cons r' l ih =>
    obtain ⟨hr', hl⟩ := List.nodup_cons.mp hl
    rw [List.foldl_cons]
    rcases List.mem_cons.mp hr with rfl | hmem
    · rw [← memVal_putStat hret]
      exact memVal_congr fun x hlo hhi => putStats_outside (fun q hq => by
        have : q ≠ r := fun h => hr' (h ▸ hq)
        omega) _
    · rw [ih hl hmem (by rw [putStat_rel]; exact hret)]
      have hne : r ≠ r' := fun h => hr' (h ▸ hmem)
      have hold : memVal (putStat v a t r') (a + 8 * r) 8 = memVal t (a + 8 * r) 8 :=
        memVal_congr fun x hlo hhi => putStat_outside t (by omega)
      rw [hold]

/-! What a memory instruction reads is as before its word. -/

theorem WordFrame.rangePoisoned_eq {s u : State} (h : WordFrame s u) : rangePoisoned u = rangePoisoned s := by
  obtain ⟨_, _, _, _, _, rfl⟩ := h
  rfl

theorem WordFrame.tensorPoisoned_eq {s u : State} (h : WordFrame s u) : tensorPoisoned u = tensorPoisoned s := by
  obtain ⟨_, _, _, _, _, rfl⟩ := h
  rfl

theorem memVal_of_mem_eq {s u : State} (h : u.mem = s.mem) : memVal u = memVal s := by
  funext a n
  unfold memVal memRead memByte
  rw [h]

theorem memByte_of_mem_eq {s u : State} (h : u.mem = s.mem) : memByte u = memByte s := by
  funext a
  unfold memByte
  rw [h]

theorem read_of_mem_eq {s u : State} (h : u.mem = s.mem) (t : Tensor) : t.read u = t.read s := by
  funext r c
  unfold Tensor.read
  rw [raw_congr h, memByte_of_mem_eq h]

theorem SeenAs.vecInside_eq {s u : State} {c : Ctx} (h : SeenAs s u c.eng) : vecInside u c = vecInside s c := by
  funext a len
  unfold vecInside
  rw [h.records]

/-- Of its operation a statistics record reads the rows masked and the descriptor. -/
theorem SeenAs.statRecord_eq {s u : State} {c : Ctx} (h : SeenAs s u c.eng) : statRecord u c = statRecord s c := by
  funext r
  have hslot := h.engine slotF32 fun _ => rfl
  have hkind := h.engine Engine.slotKind fun _ => rfl
  have hop := h.progOp_asTaken c.prog
  unfold statRecord
  dsimp only
  rw [hslot, hkind]
  cases hs : progOp s c.prog with
  | none =>
    have hu : progOp u c.prog = none := by simpa [hs] using hop
    rw [hu]
  | some o =>
    obtain ⟨o', ho', htaken⟩ : ∃ o', progOp u c.prog = some o' ∧ o'.asTaken = o.asTaken := by simpa [hs] using hop
    obtain ⟨-, -, hdesc, -, hrow, -⟩ := asTaken_fields htaken
    rw [ho']
    dsimp only
    rw [hdesc, hrow]

/-! The effect of each instruction once its checks have passed. -/

section
variable {s : State} {c : Ctx}

theorem loadStep_eq (hinside : tensorInside s c (vecTensor s c 0 (iAxis c.word)) = true)
    (hclean : tensorPoisoned s (vecTensor s c 0 (iAxis c.word)) = false) :
    loadStep s c = (setEngine s c.eng (tagBuf (putTb (engineOf s c.eng) (iDst c.word)
      ((activeRect (engineOf s c.eng) c).map fun x => (x.1, x.2, widen ((vecTensor s c 0 (iAxis c.word)).read s x.1 x.2))))
      (iDst c.word) (tagOf c.word)), .go) := by
  unfold loadStep
  simp only [hinside, hclean, Bool.not_true, Bool.false_eq_true, if_false]

/-- The entries of a column of records. -/
def statColumn (s : State) (a rows off : Nat) : List (Nat × Option Acc) :=
  (List.range rows).map fun r => (r, some (widen (Fmt.decode .fp32 (memVal s (a + 8 * r + off) 4))))

theorem loadstatStep_eq {a : Nat} (ha : a = fld (arReg s c (iAr c.word)) 43 0) (hinside : vecInside s c a (8 * c.prog.rows) = true)
    (hclean : c.prog.rows ≠ 0 → rangePoisoned s a (8 * c.prog.rows) = false) :
    loadstatStep s c = (setEngine s c.eng (putSlot (putSlot (engineOf s c.eng) (iSlot c.word) 0 (statColumn s a c.prog.rows 0))
      ((iSlot c.word + 1) % 64) 0 (statColumn s a c.prog.rows 4)), .go) := by
  have hpoison : (8 * c.prog.rows != 0 && rangePoisoned s a (8 * c.prog.rows)) = false := by
    by_cases h : c.prog.rows = 0
    · simp [h]
    · simp [hclean h]
  subst ha
  unfold loadstatStep
  simp only [hinside, hpoison, Bool.not_true, Bool.false_eq_true, if_false]
  rfl

/-- The bytes a mask of the rectangle spans. -/
def maskSpan (p : Prog) (pitch : Nat) : Nat := if p.rows = 0 then 0 else (p.rows - 1) * pitch + ceilDiv p.cols 8

theorem loadmaskStep_eq {a pitch : Nat} (ha : a = fld (arReg s c (iAr c.word)) 43 0)
    (hpitch : pitch = 64 * fld (arReg s c (iAr c.word)) 63 44) (hinside : vecInside s c a (maskSpan c.prog pitch) = true)
    (hclean : maskSpan c.prog pitch ≠ 0 → rangePoisoned s a (maskSpan c.prog pitch) = false) :
    loadmaskStep s c = (setEngine s c.eng (putMask (engineOf s c.eng) (iDst c.word) ((rect c.prog).map fun x =>
      (x.1, x.2, (memByte s (a + x.1 * pitch + x.2 / 8)).toNat.testBit (x.2 % 8)))), .go) := by
  have hpoison : (maskSpan c.prog pitch != 0 && rangePoisoned s a (maskSpan c.prog pitch)) = false := by
    by_cases h : maskSpan c.prog pitch = 0
    · simp [h]
    · simp [hclean h]
  subst ha hpitch
  unfold loadmaskStep
  unfold maskSpan at hinside hpoison
  simp only [hinside, hpoison, Bool.not_true, Bool.false_eq_true, if_false]

theorem storeStep_eq {x : Conv × Conv × State} (h : writeCopies (iDual c.word) s c = some x) : storeStep s c = (x.2.2, .go) := by
  unfold storeStep
  rw [h]

theorem savestatStep_eq {a : Nat} (ha : a = fld (arReg s c (iAr c.word)) 43 0) (hinside : vecInside s c a (8 * c.prog.rows) = true) :
    savestatStep s c = ((List.range c.prog.rows).foldl (putStat (statRecord s c) a) s, .go) := by
  subst ha
  unfold savestatStep
  simp only [hinside, Bool.not_true, Bool.false_eq_true, if_false]
  rfl

end

section
variable {s : State} {n : Nat} {k : WorkClass} {p : Prog} {w : Nat}

/-- A word whose effect `u` left its engine. -/
theorem AtWord.leavesEngineAlone (h : AtWord s n k p w) (hn : n < 4) {lo hi : Nat} (hlo : lo ≤ iOp w) (hhi : iOp w ≤ hi)
    {cost : Ctx → Nat} {f : State → Ctx → State × Next} {u : State}
    (hf : f (issuedAt s n k p w cost) (ctxAt s n k p w) = (u, .go)) (hu : engineOf u n = engineOf (issuedAt s n k p w cost) n) :
    (instrStep s n k lo hi cost f).mem = u.mem ∧
      (progOf (engineOf (instrStep s n k lo hi cost f) n) k).map Prog.pc = some (p.pc + 1) ∧
      SameBuffers (engineOf s n) (engineOf (instrStep s n k lo hi cost f) n) ∧
      SameBanks (engineOf s n) (engineOf (instrStep s n k lo hi cost f) n) := by
  have hseen := h.issued_seenAs hn cost
  obtain ⟨hkept, hle, hbanks⟩ := h.goesOn hn hlo hhi hf hu ⟨_, _, _, _, _, _, rfl⟩
  exact ⟨by rw [hkept]; rfl, by rw [hle.prog]; rfl,
    ⟨hle.sameTb hseen.tb, hle.sameSlots hseen.slots, hle.sameMasks hseen.masks, hle.shared⟩, hbanks⟩

end

end Sys2Proof.Machine
end

section
/-! SUPPORT. The memory instructions at their word (R122, R129). -/

namespace Sys2Proof.Machine

section
variable {s : State} {n : Nat} {k : WorkClass} {p : Prog} {w : Nat}

theorem AtWord.loads (h : AtWord s n k p w) (hn : n < 4) (hlo : 0x90 ≤ iOp w) (hhi : iOp w ≤ 0x9F) :
    let c := ctxAt s n k p w
    let T := vecTensor s c 0 (iAxis w)
    tensorInside s c T = true → tensorPoisoned s T = false →
    ∃ t, instrStep s n k 0x90 0x9F costLoad loadStep = t ∧ WordDone s t n k (p.pc + 1) (costLoad c) [] ∧
      TbBecomes s t n k p (iDst w) (fun r j =>
        if active (engineOf s n) c r j then widen (T.read s r j) else tbAt (engineOf s n) (iDst w) r j) ∧
      (ownsTb k (iDst w) = true → SMap.find (engineOf t n).tags (iDst w) = some (tagOf w)) ∧
      SameSlots (engineOf s n) (engineOf t n) ∧ SameMasks (engineOf s n) (engineOf t n) ∧
      SameBanks (engineOf s n) (engineOf t n) := by
  intro c T hinside hclean
  have hseen : SeenAs s (issuedAt s n k p w costLoad) c.eng := h.issued_seenAs hn costLoad
  have hT : vecTensor (issuedAt s n k p w costLoad) c 0 (iAxis c.word) = T := hseen.vecTensor_eq 0 _
  have hstep := loadStep_eq (s := issuedAt s n k p w costLoad) (c := c) (by rw [hT, hseen.tensorInside_eq]; exact hinside)
    (by rw [hT, (issued_wordFrame s _ _).tensorPoisoned_eq]; exact hclean)
  rw [hT, read_of_mem_eq hseen.mem] at hstep
  obtain ⟨t, ht, hdone, htb, hrest⟩ := h.putsTile hn hlo hhi hstep
    (graph2_map (fun _ _ => mem_activeRect) fun r j => widen (T.read s r j)) fun _ _ hp => hp.1
  refine ⟨t, ht, hdone, fun b r j hr hj => ?_, hrest⟩
  rw [htb b r j hr hj, hseen.active_eq]
  exact ite_active fun hb => by rw [hb]

theorem AtWord.loadsMask (h : AtWord s n k p w) (hn : n < 4) (hlo : 0x90 ≤ iOp w) (hhi : iOp w ≤ 0x9F) :
    let c := ctxAt s n k p w
    let a := fld (arReg s c (iAr w)) 43 0
    let pitch := 64 * fld (arReg s c (iAr w)) 63 44
    vecInside s c a (maskSpan p pitch) = true → (maskSpan p pitch ≠ 0 → rangePoisoned s a (maskSpan p pitch) = false) →
    ∃ t, instrStep s n k 0x90 0x9F costMask loadmaskStep = t ∧ WordDone s t n k (p.pc + 1) (costMask c) [] ∧
      MaskBecomes s t n k p (iDst w) (fun r j => (memByte s (a + r * pitch + j / 8)).toNat.testBit (j % 8)) ∧
      SameTb (engineOf s n) (engineOf t n) ∧ SameSlots (engineOf s n) (engineOf t n) ∧
      SameBanks (engineOf s n) (engineOf t n) := by
  intro c a pitch hinside hclean
  have hseen : SeenAs s (issuedAt s n k p w costMask) c.eng := h.issued_seenAs hn costMask
  have har : arReg (issuedAt s n k p w costMask) c (iAr c.word) = arReg s c (iAr w) := congrFun hseen.arReg_eq _
  obtain ⟨t, ht, hdone, hmask, hrest⟩ := h.putsMask hn hlo hhi (loadmaskStep_eq (c := c) (a := a) (pitch := pitch) (by rw [har])
    (by rw [har]) (by rw [hseen.vecInside_eq]; exact hinside)
    (by rw [(issued_wordFrame s _ _).rangePoisoned_eq]; exact hclean))
    (graph2_map (P := fun r j => inRows p r = true ∧ j < p.cols) (fun _ _ => mem_rect) fun r j =>
      (memByte (issuedAt s n k p w costMask) (a + r * pitch + j / 8)).toNat.testBit (j % 8)) fun _ _ hp => hp
  refine ⟨t, ht, hdone, fun m r j hr hj => ?_, hrest⟩
  rw [hmask m r j hr hj, memByte_of_mem_eq hseen.mem]
  rfl

theorem statColumn_graph (s : State) (a rows off : Nat) : Graph1 (statColumn s a rows off) (· < rows) fun r =>
    some (widen (Fmt.decode .fp32 (memVal s (a + 8 * r + off) 4))) := graph1_map (by simp) _

/-- Slots after a column of records is read into each of two of them. -/
theorem slotAt_two_columns {e : Engine} {sl sl' : Nat} {l l' : List (Nat × Option Acc)} {rows : Nat} {g g' : Nat → Option Acc}
    (hl : Graph1 l (· < rows) g) (hl' : Graph1 l' (· < rows) g') (hrows : rows ≤ 1024) (b : Nat) {r : Nat} (hr : r < 2 ^ 22) :
    slotAt (putSlot (putSlot e sl 0 l) sl' 0 l') b r =
      if b = sl' ∧ r < rows then g' r else if b = sl ∧ r < rows then g r else slotAt e b r := by
  have hbound : ∀ r, r < rows → r < 2 ^ 22 := fun r hr => by omega
  rw [slotAt_putSlot hl' hbound _ _ _ _ hr, slotAt_putSlot hl hbound _ _ _ _ hr]

theorem AtWord.loadsStatistics (h : AtWord s n k p w) (hn : n < 4) (hlo : 0x90 ≤ iOp w) (hhi : iOp w ≤ 0x9F) :
    let c := ctxAt s n k p w
    let a := fld (arReg s c (iAr w)) 43 0
    let next_ := (iSlot w + 1) % 64
    vecInside s c a (8 * p.rows) = true → (p.rows ≠ 0 → rangePoisoned s a (8 * p.rows) = false) →
    ∃ t, instrStep s n k 0x90 0x9F costStat loadstatStep = t ∧ WordDone s t n k (p.pc + 1) (costStat c) [] ∧
      (ownsSlot k next_ = true → ∀ r, r < p.rows →
        slotAt (engineOf t n) next_ r = some (widen (Fmt.decode .fp32 (memVal s (a + 8 * r + 4) 4)))) ∧
      (ownsSlot k (iSlot w) = true → ∀ r, r < p.rows →
        slotAt (engineOf t n) (iSlot w) r = some (widen (Fmt.decode .fp32 (memVal s (a + 8 * r) 4)))) ∧
      (∀ sl r, ((sl ≠ iSlot w ∧ sl ≠ next_) ∨ ownsSlot k sl = false) → r < 2 ^ 22 →
        slotAt (engineOf t n) sl r = slotAt (engineOf s n) sl r) ∧
      SameTb (engineOf s n) (engineOf t n) ∧ SameMasks (engineOf s n) (engineOf t n) ∧
      SameBanks (engineOf s n) (engineOf t n) := by
  intro c a next_ hinside hclean
  have hseen : SeenAs s (issuedAt s n k p w costStat) c.eng := h.issued_seenAs hn costStat
  have har : arReg (issuedAt s n k p w costStat) c (iAr c.word) = arReg s c (iAr w) := congrFun hseen.arReg_eq _
  obtain ⟨hdone, hle, hbanks⟩ := h.goesOn_of_engine hn hlo hhi (loadstatStep_eq (c := c) (a := a) (by rw [har])
    (by rw [hseen.vecInside_eq]; exact hinside) (by rw [(issued_wordFrame s _ _).rangePoisoned_eq]; exact hclean))
    ⟨_, _, _, _, _, _, rfl⟩
  have hslot := fun b {r} (hr : r < 2 ^ 22) => slotAt_two_columns (e := engineOf (issuedAt s n k p w costStat) n)
    (sl := iSlot w) (sl' := next_) (statColumn_graph (issuedAt s n k p w costStat) a p.rows 0)
    (statColumn_graph (issuedAt s n k p w costStat) a p.rows 4) h.rect.1 b hr
  have hrows : ∀ r, r < p.rows → r < 2 ^ 22 := fun r hr => Nat.lt_trans (Nat.lt_of_lt_of_le hr h.rect.1) (by decide)
  have hne : iSlot w ≠ next_ := by
    have : iSlot w < 64 := Nat.mod_lt _ (by decide)
    simp only [next_]
    omega
  refine ⟨_, rfl, hdone, fun hown r hr => ?_, fun hown r hr => ?_, fun sl r hsl hr => ?_,
    hle.sameTb ((putSlot_tb ..).trans hseen.tb), hle.sameMasks ((putSlot_masks ..).trans hseen.masks), hbanks⟩
  · rw [hle.slots _ _ (hrows r hr), if_pos hown, ← memVal_of_mem_eq hseen.mem]
    exact (hslot next_ (hrows r hr)).trans (if_pos ⟨rfl, hr⟩)
  · rw [hle.slots _ _ (hrows r hr), if_pos hown, ← memVal_of_mem_eq hseen.mem]
    exact (hslot (iSlot w) (hrows r hr)).trans ((if_neg fun h => hne h.1).trans (if_pos ⟨rfl, hr⟩))
  · rw [hle.slots _ _ hr]
    rcases hsl with ⟨hfirst, hsecond⟩ | hown
    · split
      · exact (hslot sl hr).trans ((if_neg fun h => hsecond h.1).trans ((if_neg fun h => hfirst h.1).trans
          (congrFun (congrFun hseen.slotAt_eq sl) r)))
      · rfl
    · rw [if_neg (by rw [hown]; decide)]

/-- What a store leaves of its engine. -/
def StoreDone (s t : State) (n : Nat) (k : WorkClass) (pc : Nat) : Prop :=
  (progOf (engineOf t n) k).map Prog.pc = some pc ∧ SameBuffers (engineOf s n) (engineOf t n) ∧
    SameBanks (engineOf s n) (engineOf t n)

theorem AtWord.storesOne (h : AtWord s n k p w) (hn : n < 4) (hlo : 0x90 ≤ iOp w) (hhi : iOp w ≤ 0x9F) (hdual : iDual w = false) :
    let c := ctxAt s n k p w
    let T := vecTensor s c 0 (iAxis w)
    tensorInside s c T = true →
    ∃ t, instrStep s n k 0x90 0x9F costConv storeStep = t ∧ t.mem = (storeConv s T (convert s c (iAxis w))).mem ∧
      SameMemoryBut T.ranges s t ∧ StoreDone s t n k (p.pc + 1) := by
  intro c T hinside
  have hseen : SeenAs s (issuedAt s n k p w costConv) c.eng := h.issued_seenAs hn costConv
  have hcopies := writeCopies_one (s := issuedAt s n k p w costConv) (c := c)
    (by rw [hseen.vecTensor_eq, hseen.tensorInside_eq]; exact hinside)
  rw [hseen.vecTensor_eq, hseen.convert_eq, ← show iDual c.word = false from hdual] at hcopies
  obtain ⟨hmem, hrest⟩ := h.leavesEngineAlone hn hlo hhi (storeStep_eq hcopies) (engineOf_storeConv ..)
  have hbytes := hmem.trans (hseen.sameBytes.storeConv T (convert s c (iAxis w))).mem
  exact ⟨_, rfl, hbytes, (storeConv_sameMemoryBut s s c 0 (Nat.mod_lt _ (by decide))).of_memByte_eq hbytes, hrest⟩

theorem AtWord.storesBoth (h : AtWord s n k p w) (hn : n < 4) (hlo : 0x90 ≤ iOp w) (hhi : iOp w ≤ 0x9F) (hdual : iDual w = true) :
    let c := ctxAt s n k p w
    let T0 := vecTensor s c 0 0
    let T1 := vecTensor s c 2 1
    tensorInside s c T0 = true → tensorInside s c T1 = true →
    ∃ t, instrStep s n k 0x90 0x9F costConv storeStep = t ∧
      t.mem = (storeConv (storeConv s T0 (convert s c 0)) T1 (convert s c 1)).mem ∧
      SameMemoryBut (T0.ranges ++ T1.ranges) s t ∧ StoreDone s t n k (p.pc + 1) := by
  intro c T0 T1 h0 h1
  have hseen : SeenAs s (issuedAt s n k p w costConv) c.eng := h.issued_seenAs hn costConv
  have hcopies := writeCopies_both (s := issuedAt s n k p w costConv) (c := c)
    (by rw [hseen.vecTensor_eq, hseen.tensorInside_eq]; exact h0) (by rw [hseen.vecTensor_eq, hseen.tensorInside_eq]; exact h1)
  rw [hseen.vecTensor_eq, hseen.vecTensor_eq, hseen.convert_eq, hseen.convert_eq, ← show iDual c.word = true from hdual] at hcopies
  obtain ⟨hmem, hrest⟩ := h.leavesEngineAlone hn hlo hhi (storeStep_eq hcopies)
    ((engineOf_storeConv ..).trans (engineOf_storeConv ..))
  have hbytes := hmem.trans ((hseen.sameBytes.storeConv T0 (convert s c 0)).storeConv T1 (convert s c 1)).mem
  have hfirst := storeConv_sameMemoryBut s s c 0 (axis := 0) (by decide)
  have hsecond := storeConv_sameMemoryBut s (storeConv s T0 (convert s c 0)) c 2 (axis := 1) (by decide)
  exact ⟨_, rfl, hbytes, ((hfirst.mono (List.subset_append_left ..)).trans
    (hsecond.mono (List.subset_append_right ..))).of_memByte_eq hbytes, hrest⟩

theorem AtWord.storesStatistics (h : AtWord s n k p w) (hn : n < 4) (hlo : 0x90 ≤ iOp w) (hhi : iOp w ≤ 0x9F) :
    let c := ctxAt s n k p w
    let a := fld (arReg s c (iAr w)) 43 0
    vecInside s c a (8 * p.rows) = true →
    ∃ t, instrStep s n k 0x90 0x9F costStat savestatStep = t ∧ SameMemoryBut [(a, 8 * p.rows)] s t ∧
      (∀ r, r < p.rows → retiredIn s a (8 * p.rows) = [] → memVal t (a + 8 * r) 8 =
        (match statRecord s c r with
          | some v => v % 2 ^ 64
          | none => memVal s (a + 8 * r) 8)) ∧ StoreDone s t n k (p.pc + 1) := by
  intro c a hinside
  have hseen : SeenAs s (issuedAt s n k p w costStat) c.eng := h.issued_seenAs hn costStat
  have har : arReg (issuedAt s n k p w costStat) c (iAr c.word) = arReg s c (iAr w) := congrFun hseen.arReg_eq _
  have hstep := savestatStep_eq (s := issuedAt s n k p w costStat) (c := c) (a := a) (by rw [har])
    (by rw [hseen.vecInside_eq]; exact hinside)
  rw [hseen.statRecord_eq] at hstep
  obtain ⟨hmem, hrest⟩ := h.leavesEngineAlone hn hlo hhi hstep (engineOf_foldl (fun t r => putStat_engines _ a t r n) _ _)
  have hbytes := memByte_of_mem_eq hmem
  refine ⟨_, rfl, fun x hx => ?_, fun r hr hret => ?_, hrest⟩
  · have hout := hx _ List.mem_cons_self
    rw [hbytes, ← memByte_of_mem_eq hseen.mem]
    refine putStats_outside (fun r hr => ?_) _
    have : r < p.rows := List.mem_range.mp hr
    dsimp only at hout
    omega
  · rw [memVal_of_mem_eq hmem, ← memVal_of_mem_eq hseen.mem]
    refine memVal_putStats List.nodup_range (List.mem_range.mpr hr) ?_
    refine retiredIn_of_sub (a := a) (len := 8 * p.rows) ?_ (by omega) (by omega)
    rw [← hret, retiredIn, retiredIn, hseen.sameBytes.retired]

end

/-- Settles O19: reads go to DST, MB or slots at the word (`loads`, `loadsStatistics`, `loadsMask`), writes to the tensors or
records they name (`storesOne`, `storesBoth`, `storesStatistics`). -/
theorem memoryInstructionsMoveTensorsAndRecords : Obligations.MemoryInstructionsMoveTensorsAndRecords := by
  intro s e k p w h hlo hhi c E T T0 T1 a pitch len next_ stores
  refine ⟨fun hinside hclean => ?_, fun hinside hclean => ?_, fun hinside hclean => ?_, fun hdual hinside => ?_,
    fun hdual h0 h1 => ?_, fun hinside => ?_⟩
  · obtain ⟨t, ht, hload⟩ := h.loads e.isLt hlo hhi hinside hclean
    exact ⟨t, congrArg _ ht, hload⟩
  · obtain ⟨t, ht, hload⟩ := h.loadsStatistics e.isLt hlo hhi hinside hclean
    exact ⟨t, congrArg _ ht, hload⟩
  · obtain ⟨t, ht, hload⟩ := h.loadsMask e.isLt hlo hhi hinside hclean
    exact ⟨t, congrArg _ ht, hload⟩
  · obtain ⟨t, ht, hstore⟩ := h.storesOne e.isLt hlo hhi hdual hinside
    exact ⟨t, congrArg _ ht, hstore⟩
  · obtain ⟨t, ht, hstore⟩ := h.storesBoth e.isLt hlo hhi hdual h0 h1
    exact ⟨t, congrArg _ ht, hstore⟩
  · obtain ⟨t, ht, hstore⟩ := h.storesStatistics e.isLt hlo hhi hinside
    exact ⟨t, congrArg _ ht, hstore⟩

end Sys2Proof.Machine
end

section
/-! SUPPORT. Compress, expand and select (R123, R124), and dropout masks (R140, R141). -/

namespace Sys2Proof.Machine

/-! Lists of rows and columns. -/

theorem nodup_rowsOf (p : Prog) : (rowsOf p).Nodup := List.nodup_range.filter _
theorem nodup_colsOf (p : Prog) : (colsOf p).Nodup := List.nodup_range
theorem nodup_activeCols (e : Engine) (c : Ctx) (r : Nat) : (activeCols e c r).Nodup := (nodup_colsOf c.prog).filter _

theorem idxOf_of_getElem? {l : List Nat} (hl : l.Nodup) {i x : Nat} (h : l[i]? = some x) : l.idxOf x = i := by
  obtain ⟨hi, rfl⟩ := List.getElem?_eq_some_iff.mp h
  exact hl.idxOf_getElem i hi

theorem findIdx?_eq_ite (l : List Nat) (x : Nat) : l.findIdx? (· == x) = if x ∈ l then some (l.idxOf x) else none := by
  rw [List.findIdx?_eq_guard_findIdx_lt, Option.guard]
  simp only [decide_eq_true_eq]
  exact if_congr List.idxOf_lt_length_iff rfl rfl

theorem mem_rowNumbers {p : Prog} {i r : Nat} : (i, r) ∈ rowNumbers p ↔ (rowsOf p)[i]? = some r := by
  have hlen : (rowsOf p).length ≤ p.rows := (List.length_filter_le ..).trans (by simp)
  rw [rowNumbers, List.mem_iff_getElem?]
  constructor
  · rintro ⟨m, hm⟩
    obtain ⟨hnumber, hrow⟩ := List.getElem?_zip_eq_some.mp hm
    obtain ⟨hlt, hi⟩ := List.getElem?_eq_some_iff.mp hnumber
    obtain rfl : m = i := (List.getElem_range hlt).symm.trans hi
    exact hrow
  · intro h
    obtain ⟨hi, -⟩ := List.getElem?_eq_some_iff.mp h
    exact ⟨i, List.getElem?_zip_eq_some.mpr ⟨List.getElem?_range (by omega), h⟩⟩

theorem mem_rowsOf_of_getElem? {p : Prog} {i r : Nat} (h : (rowsOf p)[i]? = some r) : inRows p r = true :=
  mem_rowsOf.mp (List.mem_of_getElem? h)

theorem mem_activeCols {e : Engine} {c : Ctx} {r j : Nat} : j ∈ activeCols e c r ↔ j < c.prog.cols ∧ active e c r j = true := by
  simp [activeCols, mem_colsOf]

/-- What packing leaves in the rectangle. -/
theorem graph2_packed (p : Prog) (xs : Nat → List Acc) :
    Graph2 ((rowsOf p).flatMap fun r => (packed p.cols (xs r)).map fun x => (r, x.1, x.2)) (fun r j => inRows p r = true ∧ j < p.cols)
      fun r j => (xs r).getD j Acc.zero := by
  intro r j v
  simp only [List.mem_flatMap, List.mem_map, packed, mem_rowsOf, List.mem_range, Prod.mk.injEq, Prod.exists]
  constructor
  · rintro ⟨r', hr, j', v', ⟨j'', hj, rfl, rfl⟩, rfl, rfl, rfl⟩
    exact ⟨⟨hr, hj⟩, rfl⟩
  · rintro ⟨⟨hr, hj⟩, rfl⟩
    exact ⟨r, hr, j, _, ⟨j, hj, rfl, rfl⟩, rfl, rfl, rfl⟩

/-- The same for values by the number of their row from the top. -/
theorem graph2_rowNumbers (p : Prog) (V : Nat → Nat → Acc) :
    Graph2 ((rowNumbers p).flatMap fun i => (colsOf p).map fun j => (i.2, j, V i.1 j)) (fun r j => inRows p r = true ∧ j < p.cols)
      fun r j => V ((rowsOf p).idxOf r) j := by
  intro r j v
  simp only [List.mem_flatMap, List.mem_map, mem_colsOf, Prod.mk.injEq, Prod.exists, mem_rowNumbers]
  constructor
  · rintro ⟨i, r', hr, j', hj, rfl, rfl, rfl⟩
    exact ⟨⟨mem_rowsOf_of_getElem? hr, hj⟩, by rw [idxOf_of_getElem? (nodup_rowsOf p) hr]⟩
  · rintro ⟨⟨hr, hj⟩, rfl⟩
    have hmem := mem_rowsOf.mpr hr
    exact ⟨_, r, by rw [List.getElem?_eq_getElem (List.idxOf_lt_length_of_mem hmem), List.getElem_idxOf], j, hj, rfl, rfl, rfl⟩

/-- The packed element an active position takes (R123). -/
def expanded (e : Engine) (c : Ctx) (r j : Nat) : Acc := src1 e c r ((activeCols e c r).idxOf j)

theorem graph2_expanded (e : Engine) (c : Ctx) :
    Graph2 ((rect c.prog).filterMap fun x => ((activeCols e c x.1).findIdx? (· == x.2)).map fun i => (x.1, x.2, src1 e c x.1 i))
      (fun r j => (inRows c.prog r = true ∧ j < c.prog.cols) ∧ active e c r j = true) (expanded e c) := by
  intro r j v
  simp only [List.mem_filterMap, findIdx?_eq_ite, Option.map_eq_some_iff, Prod.mk.injEq, Prod.exists, mem_rect]
  constructor
  · rintro ⟨r', j', hin, i, hi, rfl, rfl, rfl⟩
    obtain ⟨hmem, hidx⟩ := Option.ite_none_right_eq_some.mp hi
    obtain rfl := Option.some.inj hidx
    exact ⟨⟨hin, (mem_activeCols.mp hmem).2⟩, rfl⟩
  · rintro ⟨⟨hin, hact⟩, rfl⟩
    exact ⟨r, j, hin, _, if_pos (mem_activeCols.mpr ⟨hin.2, hact⟩), rfl, rfl, rfl⟩

end Sys2Proof.Machine
end

section
/-! SUPPORT. COMPRESS, EXPAND, TOPK and MASKGEN at their word. -/

namespace Sys2Proof.Machine

/-! The highest values of rows, put into slots rank by rank. -/

/-- Rank `i` of the lists `top` goes to slot `sl + i`, its position to slot `sl + m + i`. -/
def putRank (p : Prog) (sl m : Nat) (top : Nat → List (Nat × Acc)) (e : Engine) (i : Nat) : Engine :=
  putSlot (putSlot e (sl + i) 2 ((rowsOf p).map fun r => (r, ((top r)[i]?).map Prod.snd)))
    (sl + m + i) 4 ((rowsOf p).map fun r => (r, ((top r)[i]?).map fun x => accOfNat x.1))

/-- The first `i` ranks. -/
def putRanks (p : Prog) (sl m : Nat) (top : Nat → List (Nat × Acc)) (i : Nat) (e : Engine) : Engine :=
  (List.range i).foldl (putRank p sl m top) e

theorem putRanks_succ (p : Prog) (sl m : Nat) (top : Nat → List (Nat × Acc)) (i : Nat) (e : Engine) :
    putRanks p sl m top (i + 1) e = putRank p sl m top (putRanks p sl m top i e) i := by
  rw [putRanks, List.range_succ, List.foldl_append]
  rfl

/-- Ranks change slots alone. -/
theorem putRanks_frame (p : Prog) (sl m : Nat) (top : Nat → List (Nat × Acc)) (i : Nat) (e : Engine) :
    ∃ slots slotKind argRun, putRanks p sl m top i e = { e with slots := slots, slotKind := slotKind, argRun := argRun } := by
  induction i with
  | zero => exact ⟨_, _, _, rfl⟩
  | succ i ih =>
    obtain ⟨_, _, _, hi⟩ := ih
    rw [putRanks_succ, hi]
    exact ⟨_, _, _, rfl⟩

theorem slotAt_putRanks {p : Prog} (hrows : ∀ r, inRows p r = true → r < 2 ^ 22) (sl m : Nat) (top : Nat → List (Nat × Acc))
    {i : Nat} (hi : i ≤ m) (e : Engine) (b : Nat) {r : Nat} (hr : r < 2 ^ 22) :
    slotAt (putRanks p sl m top i e) b r =
      if (sl ≤ b ∧ b < sl + i) ∧ inRows p r = true then ((top r)[b - sl]?).map Prod.snd
      else if (sl + m ≤ b ∧ b < sl + m + i) ∧ inRows p r = true then ((top r)[b - (sl + m)]?).map fun x => accOfNat x.1
      else slotAt e b r := by
  induction i with
  | zero => rw [if_neg (by omega), if_neg (by omega)]; rfl
  | succ i ih =>
    rw [putRanks_succ, putRank, slotAt_putSlot (graph1_map (fun _ => mem_rowsOf) _) hrows _ _ _ _ hr,
      slotAt_putSlot (graph1_map (fun _ => mem_rowsOf) _) hrows _ _ _ _ hr, ih (by omega)]
    by_cases hin : inRows p r = true
    · simp only [hin, and_true]
      by_cases hpos : b = sl + m + i
      · subst hpos
        rw [if_pos rfl, if_neg (by omega), if_pos (by omega), Nat.add_sub_cancel_left]
      · rw [if_neg hpos]
        by_cases hval : b = sl + i
        · subst hval
          rw [if_pos rfl, if_pos (by omega), Nat.add_sub_cancel_left]
        · rw [if_neg hval]
          refine if_congr (by omega) rfl (if_congr (by omega) rfl rfl)
    · simp [hin]

theorem topkStep_eq {s : State} {c : Ctx} (hpos : 1 ≤ iImm c.word) (hle : iImm c.word ≤ 16)
    (hfit : iSlot c.word + 2 * iImm c.word ≤ 64) :
    topkStep s c = (setEngine s c.eng (putRanks c.prog (iSlot c.word) (iImm c.word) (fun r => topList (iImm c.word)
      ((activeCols (engineOf s c.eng) c r).map fun j => (j, src1 (engineOf s c.eng) c r j))) (iImm c.word)
      (engineOf s c.eng)), .go) := by
  have hok : (decide (iImm c.word = 0) || decide (16 < iImm c.word) || decide (64 < iSlot c.word + 2 * iImm c.word)) = false := by
    simp only [Bool.or_eq_false_iff, decide_eq_false_iff_not]
    omega
  unfold topkStep
  simp only [hok, Bool.false_eq_true, if_false, List.map_map]
  rfl

theorem expandStep_eq {s : State} {c : Ctx} (hby : (iImm c.word).testBit 0 = false) (hkeep : (iImm c.word).testBit 1 = false) :
    expandStep s c = (setEngine s c.eng (tagBuf (putTb (engineOf s c.eng) (iDst c.word) ((rect c.prog).filterMap fun x =>
      ((activeCols (engineOf s c.eng) c x.1).findIdx? (· == x.2)).map fun i => (x.1, x.2, src1 (engineOf s c.eng) c x.1 i)))
      (iDst c.word) (layoutOf c.word)), .go) := by
  unfold expandStep
  simp only [hby, hkeep, Bool.false_eq_true, if_false]
  congr 5
  funext x
  cases (activeCols (engineOf s c.eng) c x.1).findIdx? (· == x.2) <;> rfl

section
variable {s : State} {n : Nat} {k : WorkClass} {p : Prog} {w : Nat}

/-- A word whose effect puts `g` at positions of DST and `F` at the entries `on` of SLOT. -/
theorem AtWord.putsTileAndSlot (h : AtWord s n k p w) (hn : n < 4) {lo hi : Nat} (hlo : lo ≤ iOp w) (hhi : iOp w ≤ hi)
    {cost : Ctx → Nat} {f : State → Ctx → State × Next} {l : List (Nat × Nat × Acc)} {l' : List (Nat × Option Acc)} {lay : Layout}
    {g : Nat → Nat → Acc} {on : Nat → Bool} {F : Nat → Option Acc}
    (hf : f (issuedAt s n k p w cost) (ctxAt s n k p w) = (setEngine (issuedAt s n k p w cost) n
      (tagBuf (putSlot (putTb (engineOf (issuedAt s n k p w cost) n) (iDst w) l) (iSlot w) 0 l') (iDst w) lay), .go))
    (hl : Graph2 l (fun r j => inRows p r = true ∧ j < p.cols) g) (hl' : Graph1 l' (fun r => on r = true) F)
    (hon : ∀ r, on r = true → r < 2 ^ 22) :
    ∃ t, instrStep s n k lo hi cost f = t ∧ WordDone s t n k (p.pc + 1) (cost (ctxAt s n k p w)) [] ∧
      TbBecomes s t n k p (iDst w) g ∧ SlotBecomes s t n k (iSlot w) on F ∧
      SameMasks (engineOf s n) (engineOf t n) ∧ SameBanks (engineOf s n) (engineOf t n) := by
  have hseen := h.issued_seenAs hn cost
  obtain ⟨hdone, hle, hbanks⟩ := h.goesOn_of_engine hn hlo hhi hf ⟨_, _, _, _, _, _, rfl⟩
  refine ⟨_, rfl, hdone, fun b r j hr hj => ?_, hle.slotBecomes fun sl r hr => ?_, hle.sameMasks hseen.masks, hbanks⟩
  · rw [hle.tb b r j hr hj, tbAt_tagBuf, tbAt_putSlot,
      tbAt_putTb hl (fun r j hp => ⟨h.row_lt hp.1, h.col_lt hp.2⟩) _ _ _ hr hj, hseen.tbAt_eq]
    by_cases hb : b = iDst w
    · subst hb
      by_cases hown : ownsTb k (iDst w) = true <;> simp [hown]
    · simp [hb]
  · rw [slotAt_tagBuf, slotAt_putSlot hl' hon _ _ _ _ hr, slotAt_putTb, hseen.slotAt_eq]

theorem SeenAs.activeCols_eq {s u : State} {n : Nat} (h : SeenAs s u n) (c : Ctx) :
    activeCols (engineOf u n) c = activeCols (engineOf s n) c := h.engine (fun e => activeCols e c) fun _ => rfl

theorem SeenAs.activeRows_eq {s u : State} {n : Nat} (h : SeenAs s u n) (c : Ctx) :
    activeRows (engineOf u n) c = activeRows (engineOf s n) c := h.engine (fun e => activeRows e c) fun _ => rfl

/-- COMPRESS of each row's active positions. -/
theorem AtWord.compressesColumns (h : AtWord s n k p w) (hn : n < 4) (hlo : 0x70 ≤ iOp w) (hhi : iOp w ≤ 0x7F)
    (hby : (iImm w).testBit 0 = false) :
    let c := ctxAt s n k p w
    let E := engineOf s n
    ∃ t, instrStep s n k 0x70 0x7F costSelect compressStep = t ∧ WordDone s t n k (p.pc + 1) (costSelect c) [] ∧
      TbBecomes s t n k p (iDst w) (fun r j => ((activeCols E c r).map (src1 E c r)).getD j Acc.zero) ∧
      SlotBecomes s t n k (iSlot w) (inRows p) (fun r => some (accOfNat (activeCols E c r).length)) ∧
      SameMasks E (engineOf t n) ∧ SameBanks E (engineOf t n) := by
  intro c E
  have hseen : SeenAs s (issuedAt s n k p w costSelect) c.eng := h.issued_seenAs hn costSelect
  have hstep : compressStep (issuedAt s n k p w costSelect) c = (setEngine (issuedAt s n k p w costSelect) n
      (tagBuf (putSlot (putTb (engineOf (issuedAt s n k p w costSelect) n) (iDst w)
        ((rowsOf p).flatMap fun r => (packed p.cols ((activeCols E c r).map (src1 E c r))).map fun x => (r, x.1, x.2)))
        (iSlot w) 0 ((rowsOf p).map fun r => (r, some (accOfNat (activeCols E c r).length)))) (iDst w) (layoutOf w)), .go) := by
    unfold compressStep
    simp only [show c.word = w from rfl, hby, Bool.false_eq_true, if_false, hseen.activeCols_eq, hseen.src1_eq]
    rfl
  exact h.putsTileAndSlot hn hlo hhi hstep (graph2_packed p _) (graph1_map (fun _ => mem_rowsOf) _) fun _ => h.row_lt

/-- The element of column `j` of the `i`-th active row, +0 behind them. -/
def packedRow (e : Engine) (c : Ctx) (i j : Nat) : Acc :=
  match (activeRows e c)[i]? with
  | some x => src1 e c x j
  | none => Acc.zero

/-- COMPRESS of the active rows; row `r` takes the one that is as many rows down. -/
theorem AtWord.compressesRows (h : AtWord s n k p w) (hn : n < 4) (hlo : 0x70 ≤ iOp w) (hhi : iOp w ≤ 0x7F)
    (hby : (iImm w).testBit 0 = true) :
    let c := ctxAt s n k p w
    let E := engineOf s n
    ∃ t, instrStep s n k 0x70 0x7F costSelect compressStep = t ∧ WordDone s t n k (p.pc + 1) (costSelect c) [] ∧
      TbBecomes s t n k p (iDst w) (fun r j => packedRow E c ((rowsOf p).idxOf r) j) ∧
      SlotBecomes s t n k (iSlot w) (fun r => r == 0) (fun _ => some (accOfNat (activeRows E c).length)) ∧
      SameMasks E (engineOf t n) ∧ SameBanks E (engineOf t n) := by
  intro c E
  have hseen : SeenAs s (issuedAt s n k p w costSelect) c.eng := h.issued_seenAs hn costSelect
  have hstep : compressStep (issuedAt s n k p w costSelect) c = (setEngine (issuedAt s n k p w costSelect) n
      (tagBuf (putSlot (putTb (engineOf (issuedAt s n k p w costSelect) n) (iDst w)
        ((rowNumbers p).flatMap fun i => (colsOf p).map fun j => (i.2, j, packedRow E c i.1 j)))
        (iSlot w) 0 [(0, some (accOfNat (activeRows E c).length))]) (iDst w) (layoutOf w)), .go) := by
    unfold compressStep
    simp only [show c.word = w from rfl, hby, if_true, hseen.activeRows_eq, hseen.src1_eq]
    rfl
  exact h.putsTileAndSlot hn hlo hhi hstep (graph2_rowNumbers p (packedRow E c)) (fun r v => by simp) fun r hr => by rw [beq_iff_eq.mp hr]; decide

/-- EXPAND of each row, the inactive positions kept. -/
theorem AtWord.expandsColumns (h : AtWord s n k p w) (hn : n < 4) (hlo : 0x70 ≤ iOp w) (hhi : iOp w ≤ 0x7F)
    (hby : (iImm w).testBit 0 = false) (hkeep : (iImm w).testBit 1 = false) :
    let c := ctxAt s n k p w
    let E := engineOf s n
    ∃ t, instrStep s n k 0x70 0x7F costSelect expandStep = t ∧ WordDone s t n k (p.pc + 1) (costSelect c) [] ∧
      TbBecomes s t n k p (iDst w) (fun r j => if active E c r j then expanded E c r j else tbAt E (iDst w) r j) ∧
      SameSlots E (engineOf t n) ∧ SameMasks E (engineOf t n) ∧ SameBanks E (engineOf t n) := by
  intro c E
  have hseen : SeenAs s (issuedAt s n k p w costSelect) c.eng := h.issued_seenAs hn costSelect
  have hstep := expandStep_eq (s := issuedAt s n k p w costSelect) (c := c) hby hkeep
  rw [hseen.activeCols_eq, hseen.src1_eq] at hstep
  obtain ⟨t, ht, hdone, htb, -, hrest⟩ := h.putsTile hn hlo hhi hstep (graph2_expanded E c) fun _ _ hp => hp.1
  refine ⟨t, ht, hdone, fun b r j hr hj => ?_, hrest⟩
  rw [htb b r j hr hj]
  exact ite_active fun hb => by rw [hb]

/-- TOPK. -/
theorem AtWord.ranksRows (h : AtWord s n k p w) (hn : n < 4) (hlo : 0x70 ≤ iOp w) (hhi : iOp w ≤ 0x7F) (hpos : 1 ≤ iImm w)
    (hle : iImm w ≤ 16) (hfit : iSlot w + 2 * iImm w ≤ 64) (cost : Ctx → Nat) :
    let c := ctxAt s n k p w
    let E := engineOf s n
    let top := fun r => topList (iImm w) ((activeCols E c r).map (fun j => (j, src1 E c r j)))
    ∃ t, instrStep s n k 0x70 0x7F cost topkStep = t ∧ WordDone s t n k (p.pc + 1) (cost c) [] ∧
      (∀ sl r, r < 2 ^ 22 → slotAt (engineOf t n) sl r = if ownsSlot k sl = true
        then slotAt (putRanks p (iSlot w) (iImm w) top (iImm w) E) sl r else slotAt E sl r) ∧
      SameTb E (engineOf t n) ∧ SameMasks E (engineOf t n) ∧ SameBanks E (engineOf t n) := by
  intro c E top
  have hseen : SeenAs s (issuedAt s n k p w cost) c.eng := h.issued_seenAs hn cost
  have hstep := topkStep_eq (s := issuedAt s n k p w cost) (c := c) hpos hle hfit
  rw [hseen.activeCols_eq, hseen.src1_eq] at hstep
  obtain ⟨slots, slotKind, argRun, hframe⟩ := putRanks_frame p (iSlot w) (iImm w) top (iImm w) (engineOf (issuedAt s n k p w cost) n)
  obtain ⟨hdone, hleaves, hbanks⟩ := h.goesOn_of_engine hn hlo hhi hstep (hframe ▸ ⟨_, _, _, _, _, _, rfl⟩)
  refine ⟨_, rfl, hdone, fun sl r hr => ?_, hleaves.sameTb ?_, hleaves.sameMasks ?_, hbanks⟩
  · rw [hleaves.slots sl r hr]
    refine if_congr Iff.rfl ?_ rfl
    have hslots := slotAt_putRanks (p := p) (fun _ => h.row_lt) (iSlot w) (iImm w) top (Nat.le_refl _)
    exact (hslots (engineOf (issuedAt s n k p w cost) n) sl hr).trans (by rw [hslots E sl hr]; exact hseen.slotAt_eq ▸ rfl)
  · exact (congrArg Engine.tb hframe).trans hseen.tb
  · exact (congrArg Engine.masks hframe).trans hseen.masks

/-- MASKGEN with its operands in range. -/
theorem maskgenStep_eq {s : State} {c : Ctx} {q16 r0 c0 m : Nat} (hq : accNat (scReg s c (iSreg c.word)) = some q16)
    (hr0 : accNat (scReg s c 29) = some r0) (hc0 : accNat (scReg s c 30) = some c0) (hm : accNat (scReg s c 31) = some m)
    (hle : q16 ≤ 65536) (hidx : ∀ r j, r < c.prog.rows → j < c.prog.cols → (r0 + r) * m + (c0 + j) < 2 ^ 43) :
    maskgenStep s c = (setEngine s c.eng (putMask (engineOf s c.eng) (iDst c.word) ((rect c.prog).map fun x => (x.1, x.2,
      maskKept (ctxSeed s c.prog.ctx) (arReg s c (iAr c.word)) (iImm c.word) q16 ((r0 + x.1) * m + (c0 + x.2))))), .go) := by
  have hrect : (rect c.prog).any (fun x => decide (2 ^ 43 ≤ (r0 + x.1) * m + (c0 + x.2))) = false := by
    refine List.any_eq_false.mpr fun x hx => ?_
    obtain ⟨hrow, hcol⟩ := mem_rect.mp hx
    simpa using hidx x.1 x.2 (inRows_lt hrow) hcol
  have hok : (decide (65536 < q16) || (rect c.prog).any fun x => decide (2 ^ 43 ≤ (r0 + x.1) * m + (c0 + x.2))) = false := by
    rw [hrect, Bool.or_false]
    simpa using hle
  unfold maskgenStep
  simp only [hq, hr0, hc0, hm, hok, Bool.false_eq_true, if_false]

theorem AtWord.generatesMask (h : AtWord s n k p w) (hn : n < 4) (hlo : 0x80 ≤ iOp w) (hhi : iOp w ≤ 0x8F) {q16 r0 c0 m : Nat} :
    let c := ctxAt s n k p w
    accNat (scReg s c (iSreg w)) = some q16 → accNat (scReg s c 29) = some r0 → accNat (scReg s c 30) = some c0 →
    accNat (scReg s c 31) = some m → q16 ≤ 65536 →
    (∀ r j, r < p.rows → j < p.cols → (r0 + r) * m + (c0 + j) < 2 ^ 43) →
    ∃ t, instrStep s n k 0x80 0x8F costRow maskgenStep = t ∧ WordDone s t n k (p.pc + 1) (costRow c) [] ∧
      MaskBecomes s t n k p (iDst w) (fun r j =>
        maskKept (ctxSeed s p.ctx) (arReg s c (iAr w)) (iImm w) q16 ((r0 + r) * m + (c0 + j))) ∧
      SameTb (engineOf s n) (engineOf t n) ∧ SameSlots (engineOf s n) (engineOf t n) ∧
      SameBanks (engineOf s n) (engineOf t n) := by
  intro c hq hr0 hc0 hm hle hidx
  have hseen : SeenAs s (issuedAt s n k p w costRow) c.eng := h.issued_seenAs hn costRow
  have hsc : scReg (issuedAt s n k p w costRow) c = scReg s c := hseen.engine (fun e => scAt (bankOf e c.cls)) fun _ => rfl
  have hstep := maskgenStep_eq (s := issuedAt s n k p w costRow) (c := c) (by rw [hsc]; exact hq) (by rw [hsc]; exact hr0)
    (by rw [hsc]; exact hc0) (by rw [hsc]; exact hm) hle hidx
  rw [hseen.ctxSeed_eq, hseen.arReg_eq] at hstep
  obtain ⟨t, ht, hdone, hmask, hrest⟩ := h.putsMask hn hlo hhi hstep
    (graph2_map (P := fun r j => inRows p r = true ∧ j < p.cols) (fun _ _ => mem_rect) fun r j =>
      maskKept (ctxSeed s p.ctx) (arReg s c (iAr w)) (iImm w) q16 ((r0 + r) * m + (c0 + j))) fun _ _ hp => hp
  exact ⟨t, ht, hdone, hmask, hrest⟩

end

/-- Settles O21: what each word puts into DST, SLOT or MB is a graph over the rectangle, read from the engine before the word. -/
theorem compressExpandTopkAndMaskgenFollowTheirRules : Obligations.CompressExpandTopkAndMaskgenFollowTheirRules := by
  intro s e k p w h c E
  refine ⟨fun hlo hhi => ⟨fun hby => ?_, fun hby => ?_, fun hby hkeep => ?_, fun hpos hle hfit => ?_⟩,
    fun hlo hhi q16 r0 c0 m hq hr0 hc0 hm hle hidx => ?_⟩
  · obtain ⟨t, ht, hcompress⟩ := h.compressesColumns e.isLt hlo hhi hby
    exact ⟨t, congrArg _ ht, hcompress⟩
  · obtain ⟨t, ht, hdone, htb, hrest⟩ := h.compressesRows e.isLt hlo hhi hby
    refine ⟨t, congrArg _ ht, hdone, fun hown i r j hrow hj => ?_, fun b r j hb hr hj => ?_, hrest⟩
    · have hin := mem_rowsOf_of_getElem? hrow
      rw [htb _ r j (h.row_lt hin) (h.col_lt hj), if_pos ⟨rfl, hown, hin, hj⟩]
      exact congrArg (packedRow E c · j) (idxOf_of_getElem? (nodup_rowsOf p) hrow)
    · rw [htb b r j hr hj, if_neg fun hc => hb hc.1]
  · obtain ⟨t, ht, hdone, htb, hrest⟩ := h.expandsColumns e.isLt hlo hhi hby hkeep
    refine ⟨t, congrArg _ ht, hdone, fun hown r i j hin hcol => ?_, fun r j hr hj hact => ?_, fun b r j hb hr hj => ?_, hrest⟩
    · obtain ⟨hj, hact⟩ := mem_activeCols.mp (List.mem_of_getElem? hcol)
      rw [htb _ r j (h.row_lt hin) (h.col_lt hj), if_pos ⟨rfl, hown, hin, hj⟩]
      exact (if_pos hact).trans (congrArg (src1 E c r) (idxOf_of_getElem? (nodup_activeCols _ _ _) hcol))
    · have hrow : r < 2 ^ 22 := Nat.lt_trans (Nat.lt_of_lt_of_le hr h.rect.1) (by decide)
      rw [htb _ r j hrow (h.col_lt hj)]
      split
      · exact if_neg (show ¬ active E c r j = true by rw [hact]; decide)
      · rfl
    · rw [htb b r j hr hj, if_neg fun hc => hb hc.1]
  · obtain ⟨t, ht, hdone, hslots, hrest⟩ := h.ranksRows e.isLt hlo hhi hpos hle hfit fun c => (iImm c.word + 1) * costRow c
    have hranks := fun b {r} hr => slotAt_putRanks (p := p) (fun _ => h.row_lt) (iSlot w) (iImm w) (fun r => topList (iImm w)
      ((activeCols E c r).map fun j => (j, src1 E c r j))) (Nat.le_refl _) E b (r := r) hr
    refine ⟨t, congrArg _ ht, hdone, fun r i hin hi => ⟨fun hown => ?_, fun hown => ?_⟩, fun sl r hr hsl => ?_, hrest⟩
    · rw [hslots _ _ (h.row_lt hin), if_pos hown, hranks _ (h.row_lt hin), if_pos ⟨by omega, hin⟩, Nat.add_sub_cancel_left]
    · rw [hslots _ _ (h.row_lt hin), if_pos hown, hranks _ (h.row_lt hin), if_neg (by omega), if_pos ⟨by omega, hin⟩,
        Nat.add_sub_cancel_left]
    · rw [hslots _ _ hr]
      split
      · next hown =>
        have hout : sl < iSlot w ∨ iSlot w + 2 * iImm w ≤ sl := by simpa [hown] using hsl
        rw [hranks _ hr, if_neg (by omega), if_neg (by omega)]
      · rfl
  · obtain ⟨t, ht, hmask⟩ := h.generatesMask e.isLt hlo hhi hq hr0 hc0 hm hle hidx
    exact ⟨t, congrArg _ ht, hmask⟩

end Sys2Proof.Machine
end

section
/-! SUPPORT. Vector descriptors (R128, R129), the start of an epilogue (R125, R126, R141), and share windows (R131). -/

namespace Sys2Proof.Machine

/-! A vector descriptor taken. -/

theorem startVector_of_failed {s : State} {o : Op} (h : vecCheck s o.queue o.ctx o.desc.toNat ≠ stOk) :
    startVector s o = refuse s o (vecCheck s o.queue o.ctx o.desc.toNat) := if_pos h

theorem startVector_nop {s : State} {o : Op} (h : vecCheck s o.queue o.ctx o.desc.toNat = stOk)
    (hop : dOpcode o.desc.toNat = 0) : startVector s o = addOp s { o with ended := true } :=
  (if_neg (not_not.mpr h)).trans (if_pos hop)

/-- The program of a vector descriptor, at its first word (R128). -/
def vectorProg (o : Op) : Prog :=
  let d := o.desc.toNat
  { cls := .program, ctx := o.ctx, tag := some o.tag, base := vProg d, len := vLen d, pc := 0
    rows := Config.firstRows d % 513, cols := Config.firstCols d % 513, loops := [], saved := some (vecBank d), waiting := false
    empty := false, part := 0, row0 := 0, col0 := 0, rowOff := 0, colOff := 0, tileW := 0 }

theorem startVector_program {s : State} {o : Op} (h : vecCheck s o.queue o.ctx o.desc.toNat = stOk)
    (hop : dOpcode o.desc.toNat ≠ 0) :
    startVector s o = setEngine (addOp s { o with
        deadline := deadlineOf s (dBase o.desc.toNat) (dWork o.desc.toNat) (vSlope o.desc.toNat) }) (vEngine o.desc.toNat)
      { engineOf s (vEngine o.desc.toNat) with queue := (engineOf s (vEngine o.desc.toNat)).queue ++ [vectorProg o] } :=
  (if_neg (not_not.mpr h)).trans (if_neg hop)

theorem exec_vprog_of_taken {s : State} {q : QueueId} {tag : TagId} {c : Nat} {d : BitVec 1024} (htaken : Taken s q tag c d)
    (hkind : qKind (qCfg s q) = 1) (hop : dOpcode d.toNat ≠ 0) (hsync : isSyncOp (dOpcode d.toNat) = false) :
    exec (.vprog q tag) s = .next (startVector (takeHead s q) (newOp s tag q c .vector d)) :=
  congrArg Host.Outcome.next (dispatch_of_taken htaken (by simp [hkind, hop, hsync]) .vector startVector)

theorem exec_vprogNop_of_taken {s : State} {q : QueueId} {tag : TagId} {c : Nat} {d : BitVec 1024} (htaken : Taken s q tag c d)
    (hkind : qKind (qCfg s q) = 1) (hop : dOpcode d.toNat = 0) :
    exec (.vprogNop q tag) s = .next (startVector (takeHead s q) (newOp s tag q c .vector d)) :=
  congrArg Host.Outcome.next (dispatch_of_taken htaken (by simp [hkind, hop]) .vector startVector)

/-! The start of an epilogue. -/

theorem foldl_putTb_frame {α : Type} (l : List α) (g : α → List (Nat × Nat × Acc)) (e : Engine) :
    ∃ tb, l.foldl (fun e x => putTb e 0 (g x)) e = { e with tb := tb } := by
  induction l generalizing e with
  | nil => exact ⟨_, rfl⟩
  | cons x l ih => exact ih (putTb e 0 (g x))

/-- Buffers, tags and masks put into an engine leave the rest of it. -/
theorem loadRun_frame (e : Engine) (o : Op) (t base : Nat) :
    ∃ tb tags masks, loadRun e o t base = { e with tb := tb, tags := tags, masks := masks } := by
  unfold loadRun
  dsimp only
  obtain ⟨tb, htb⟩ := foldl_putTb_frame _ _ _
  rw [htb]
  exact ⟨_, _, _, rfl⟩

/-- The program of a run, at its first word (R125). -/
def epiProg (a ii : Nat) (o : Op) (t : Nat) : Prog :=
  let g := runShape o t
  let ent := o.epi.toNat
  { cls := .epilogue, ctx := o.ctx, tag := some o.tag, base := eProg ent, len := eLen ent, pc := 0, rows := g.2.1, cols := g.2.2
    loops := [], saved := none, waiting := false, empty := false, part := pkey a ii, row0 := g.1.1, col0 := g.1.2
    rowOff := o.rowMask / 2 ^ g.1.1 % 2 ^ g.2.1, colOff := o.colMask / 2 ^ g.1.2 % 2 ^ g.2.2
    tileW := if eRowWide ent then sideOf (mMode o.desc.toNat) else 0 }

/-- The engine with the run of tile `t` in it, its bank E set up, and its program. -/
def epiEngine (e : Engine) (a ii : Nat) (o : Op) (t base : Nat) : Engine :=
  { loadRun e o t base with
    bankE := epiBank (loadRun e o t base).bankE o (runShape o t).1.1 (runShape o t).1.2, epi := some (epiProg a ii o t) }

/-- The state with the run started. -/
def epiStarted (s : State) (a ii : Nat) (o : Op) (t : Nat) : State :=
  setEngine { s with freeCtr := s.freeCtr + 2 ^ 50 } a (epiEngine (engineOf s a) a ii o t s.freeCtr)

theorem rangePoisoned_setEngine_free (s : State) (x n : Nat) (e : Engine) :
    rangePoisoned (setEngine { s with freeCtr := x } n e) = rangePoisoned s := rfl

theorem programWords_setEngine_free (s : State) (x n : Nat) (e : Engine) :
    programWords (setEngine { s with freeCtr := x } n e) = programWords s := rfl

theorem startEpilogue_of_clean {s : State} {a ii : Nat} {o : Op} {t : Nat}
    (hclean : rangePoisoned (spillRun s a o t) (eProg o.epi.toNat) (8 * eLen o.epi.toNat) = false)
    (hwords : wordsStatus (mStream o.desc.toNat)
      (programWords (spillRun s a o t) (eProg o.epi.toNat) (eLen o.epi.toNat)) = stOk) :
    startEpilogue s a ii o t = epiStarted (spillRun s a o t) a ii o t := by
  unfold startEpilogue epiStarted epiEngine epiProg
  generalize spillRun s a o t = u at *
  dsimp only
  rw [rangePoisoned_setEngine_free, programWords_setEngine_free, hclean, hwords, if_neg Bool.false_ne_true,
    if_neg (not_not.mpr rfl)]

theorem epiEngine_bankE (e : Engine) (a ii : Nat) (o : Op) (t base : Nat) :
    scAt (epiEngine e a ii o t base).bankE 29 = accOfNat (runShape o t).1.1 ∧
      scAt (epiEngine e a ii o t base).bankE 30 = accOfNat (runShape o t).1.2 ∧
      scAt (epiEngine e a ii o t base).bankE 31 = accOfNat (mN o.desc.toNat) := by
  have har : ∀ (b : Bank) (m v : Nat), scAt (setAr b m v) = scAt b := fun _ _ _ => rfl
  simp [epiEngine, epiBank, har, scAt_setSc]

/-! Ranges left open (log 39). -/

theorem memByte_leaveOpen_outside {s : State} {a len x : Nat} (h : x < a ∨ a + len ≤ x) :
    memByte (leaveOpen s a len) x = memByte s x := by
  have hkeys : ∀ (l : List Byte) (f : Nat × Byte → Byte),
      SMap.has ((((List.range len).zip l).map fun e => (a + e.1, f e)).filter fun e => decide (e.2 ≠ 0)) x = false := by
    refine fun l f => List.any_eq_false.mpr fun e he => ?_
    obtain ⟨⟨i, b⟩, hi, rfl⟩ := List.mem_map.mp (List.mem_filter.mp he).1
    have hlt : i < len := List.mem_range.mp (List.of_mem_zip hi).1
    simp only [beq_iff_eq]
    omega
  have hbelow := SMap.has_filter s.mem x (fun j => decide (j < a))
  have hbelow' := SMap.get_filter s.mem x (0 : Byte) (fun j => decide (j < a))
  have habove := SMap.get_filter s.mem x (0 : Byte) (fun j => decide (a + len ≤ j))
  unfold memByte leaveOpen
  dsimp only
  rw [SMap.get_append, SMap.get_append, hkeys, if_neg Bool.false_ne_true, hbelow, hbelow', habove]
  rcases h with h | h
  · by_cases hhas : SMap.has s.mem x = true
    · simp [h, hhas]
    · simp [h, hhas, SMap.get_of_not_has]
  · simp [h, Nat.not_lt.mpr (Nat.le_of_add_right_le h)]

/-! What a spill leaves of the state, and of the engine. -/

theorem engineOf_countSteps_ne (s : State) {n m : Nat} (k : WorkClass) (steps : Nat) (h : m ≠ n) :
    engineOf (countSteps s n k steps) m = engineOf s m := engineOf_setEngine_ne (bumpBy (bumpBy s _ _ _) _ _ _) _ h

theorem engineOf_spillRun_ne (s : State) {a m : Nat} (o : Op) (t : Nat) (h : m ≠ a) :
    engineOf (spillRun s a o t) m = engineOf s m := by
  unfold spillRun
  split
  · rfl
  · exact engineOf_countSteps_ne _ _ _ h

theorem spillRun_contents (s : State) {a : Nat} (ha : a < 4) (o : Op) (t : Nat) :
    (engineOf (spillRun s a o t) a).contents = (engineOf s a).contents := by
  unfold spillRun
  split
  · rfl
  · exact (countSteps_seenAs (leaveOpen s _ _) ha .epilogue _).contents

theorem spillRun_sameMemoryBut (s : State) (a : Nat) (o : Op) (t : Nat) :
    SameMemoryBut [(eSpill o.epi.toNat, spillBytes o t)] s (spillRun s a o t) := by
  intro x hx
  unfold spillRun
  split
  · rfl
  · exact memByte_leaveOpen_outside (hx _ List.mem_cons_self)

/-! The end of a share window (R131). -/

/-- A window begins with `steps` steps used, and none of SIEVE and UPDATE. -/
def windowFrom (e : Engine) (steps : Nat) : Engine := { e with winSteps := steps, winSieve := 0, winUpdate := 0, missed := false }

/-- A window ends: the steps past it count for the next. -/
def windowEnded (e : Engine) : Engine := windowFrom e (e.winSteps - 4096)

theorem windowEnded_winSteps (e : Engine) : (windowEnded e).winSteps = e.winSteps - 4096 := rfl

theorem windowFrom_buffers (e : Engine) (steps : Nat) : SameBuffers e (windowFrom e steps) :=
  ⟨fun _ _ _ => rfl, fun _ _ => rfl, fun _ _ _ => rfl, rfl⟩

/-- A missed share is counted and raised. -/
def shareReported (s : State) (n : Nat) : State :=
  if ((engineOf s n).missed || shareMissed s n) = true then raise (bumpSat32 s (0x2300 + n) 0x0B 1) (src 5 (8 * n + 1)) else s

theorem shareReported_frame (s : State) (n : Nat) :
    (shareReported s n).engines = s.engines ∧ (shareReported s n).mem = s.mem ∧
      reg (shareReported s n) (0x2300 + n) 0x0B = if ((engineOf s n).missed || shareMissed s n) = true
        then satAdd 32 (reg s (0x2300 + n) 0x0B) 1 else reg s (0x2300 + n) 0x0B := by
  unfold shareReported
  split
  · have hsignals := raise_signalsOnly (bumpSat32 s (0x2300 + n) 0x0B 1) (src 5 (8 * n + 1))
    refine ⟨?_, hsignals.mem_eq, (hsignals.reg_eq _ _).trans (reg_setReg_same ..)⟩
    obtain ⟨_, _, _, h⟩ := hsignals
    rw [h]
    rfl
  · exact ⟨rfl, rfl, rfl⟩

theorem exec_shareWindowEnd {s : State} {e : EngineId} (h : 4096 ≤ (engineOf s e).winSteps) :
    exec (.shareWindowEnd e) s =
      .next (setEngine (shareReported s e) e (windowEnded (engineOf (shareReported s e) e))) :=
  congrArg Host.Outcome.next (if_pos h)

/-- Settles O22: a taken descriptor is `startVector`, a complete run `epiStarted` behind its spill, a window's end
`windowEnded`. -/
theorem vectorProgramsAndEpiloguesStartOnce : Obligations.VectorProgramsAndEpiloguesStartOnce := by
  refine ⟨fun s q tag c d htaken hkind => ?_, ?_, fun s e hwin => ?_⟩
  · let o := newOp s tag q c .vector d
    have hnext := fun hop hsync => exec_vprog_of_taken htaken hkind hop hsync
    refine ⟨fun hop hok => ?_, fun hop hok => ?_, fun hop hsync hfail => ?_⟩
    · have hne : dOpcode d.toNat ≠ 0 := by rw [hop]; decide
      have hstart := startVector_program (s := takeHead s q) (o := o) hok hne
      exact ⟨_, _, vectorProg o, (hnext hne (by rw [hop]; decide)).trans (congrArg _ hstart), headPassed_takeHead s q,
        rfl, rfl, rfl, rfl, rfl, rfl, congrArg Engine.queue (engineOf_setEngine_same ..), rfl, rfl, rfl, rfl, rfl,
        fun m hm => engineOf_setEngine_ne _ _ hm, rfl⟩
    · have hstart := startVector_nop (s := takeHead s q) (o := o) hok hop
      exact ⟨_, _, (exec_vprogNop_of_taken htaken hkind hop).trans (congrArg _ hstart), headPassed_takeHead s q,
        rfl, rfl, rfl, rfl, rfl, rfl⟩
    · have hstart := startVector_of_failed (s := takeHead s q) (o := o) hfail
      exact ⟨_, _, (hnext hop hsync).trans (congrArg _ hstart), headPassed_takeHead s q, rfl, rfl, rfl, rfl, rfl, rfl⟩
  · intro s a ii o x hsteps hret hheld hepi hstaged u hclean hwords
    have hexec : exec (.epilogue a ii) s = .next (epiStarted u a ii o x) := by
      rw [← startEpilogue_of_clean hclean hwords]
      show execEpilogue a ii s = _
      unfold execEpilogue
      rw [hsteps, hret, hheld, hepi, hstaged]
      rfl
    have hengine : engineOf (epiStarted u a ii o x) a = epiEngine (engineOf u a) a ii o x u.freeCtr := engineOf_setEngine_same ..
    have hcontents := spillRun_contents s a.isLt o x
    obtain ⟨tb, tags, masks, hload⟩ := loadRun_frame (engineOf u a) o x u.freeCtr
    obtain ⟨h29, h30, h31⟩ := epiEngine_bankE (engineOf u a) a ii o x u.freeCtr
    refine ⟨_, epiProg a ii o x, hexec, by rw [hengine]; rfl, rfl, rfl, rfl, rfl, rfl, rfl, rfl, ?_, ?_, ?_, ?_, ?_,
      fun m hm => ?_, fun hzero => ?_, ?_⟩
    · rw [hengine]
      exact h29
    · rw [hengine]
      exact h30
    · rw [hengine]
      exact h31
    · rw [hengine]
      exact (congrArg Engine.bankP hload).trans (Engine.eq_of_contents hcontents Engine.bankP fun _ => rfl)
    · rw [hengine]
      exact (congrArg Engine.run hload).trans (Engine.eq_of_contents hcontents Engine.run fun _ => rfl)
    · exact (engineOf_setEngine_ne _ _ hm).trans (engineOf_spillRun_ne s o x hm)
    · have hsame : u = s := if_pos hzero
      show u.mem = s.mem ∧ u.dict = s.dict
      rw [hsame]
      exact ⟨rfl, rfl⟩
    · exact spillRun_sameMemoryBut s a o x
  · obtain ⟨hengines, hmem, hreg⟩ := shareReported_frame s e
    have hsame : ∀ m, engineOf (shareReported s e) m = engineOf s m := fun m => by rw [engineOf, engineOf, hengines]
    have hengine : engineOf (setEngine (shareReported s e) e (windowEnded (engineOf (shareReported s e) e))) e =
        windowEnded (engineOf s e) := by rw [engineOf_setEngine_same, hsame]
    exact ⟨_, exec_shareWindowEnd hwin, (congrArg Engine.winSteps hengine).trans (windowEnded_winSteps _),
      congrArg Engine.winSieve hengine, congrArg Engine.winUpdate hengine, congrArg Engine.missed hengine, 
      by rw [hengine]; exact windowFrom_buffers _ _, fun m hm => (engineOf_setEngine_ne _ _ hm).trans (hsame m), hmem, hreg⟩

end Sys2Proof.Machine
end

section
/-! REFUTATION of O48. A write leaves out a line when any entry of the map of retired lines says so (`retiredIn`), whereas
`isRetired` reads the first entry. The two agree on a map in canonical form, the only kind that retirements build; the
statement is about every state and has no such premise. -/

namespace Sys2Proof.Machine

/-! What a write of the record leaves in memory. -/

/-- The step as its record tells it: one that failed before its header was read is skipped under CLIP_EXACT (R165). -/
def recordedRun (u : UpdRun) (h st : Nat) : UpdRun :=
  { u with skipped := u.skipped || (st != 0 && !u.headerRead && hClip h == 1) }

/-- Of what the end of a step does, only the record's write touches memory (R164). -/
theorem writeNorm_mem {s : State} {key h : Nat} (st : Nat) (hheader : headerNow s key = some h)
    (hwin : inLoamWin (ctxRec s (key / 2 ^ 72)) (hNorm h) 32 = true) :
    (writeNorm s key st).mem = (memWriteVal s (hNorm h) 32 (normRecord (recordedRun (updOf s key) h st) st)).mem := by
  unfold writeNorm recordedRun
  simp only [hheader, hwin, if_true]
  split <;> split <;> simp only [raise_mem, bump_mem, setReg_mem]

/-- Where no entry of a map is what an unlisted key reads as, a key that reads so has no entry. -/
theorem SMap.not_mem_of_get_eq {α : Type} {m : SMap α} {d : α} {k : Nat} (hentries : ∀ e ∈ m, e.2 ≠ d)
    (hget : SMap.get m k d = d) (v : α) : (k, v) ∉ m := by
  induction m with
  | nil => exact List.not_mem_nil
  | cons e m ih =>
    obtain ⟨j, w⟩ := e
    have hjk : j ≠ k := fun hjk => hentries (j, w) List.mem_cons_self (by simpa [SMap.get, hjk] using hget)
    have hrest : SMap.get m k d = d := by simpa [SMap.get, hjk] using hget
    rintro (_ | ⟨_, hmem⟩)
    · exact hjk rfl
    · exact ih (fun e he => hentries e (List.mem_cons_of_mem _ he)) hrest hmem

/-- In a canonical map a line that is not retired has no entry that says so. -/
theorem retiredIn_contains_of_wf {s : State} {x : Nat} (hwf : SMap.wf s.rel.retired false = true) (h : isRetired s x = false)
    (a len : Nat) : (retiredIn s a len).contains (lineAddr x) = false := by
  obtain ⟨-, hentries⟩ := (SMap.wf_iff _ _).mp hwf
  refine Bool.eq_false_iff.mpr fun hlisted => ?_
  obtain ⟨⟨line, set⟩, hentry, rfl⟩ := List.mem_map.mp (List.contains_iff_mem.mp hlisted)
  exact SMap.not_mem_of_get_eq hentries h set (List.mem_filter.mp hentry).1

/-- A value reads back where no line it lies in is listed as retired. -/
theorem memVal_memWriteVal_of_usable {s : State} {a n : Nat} (v : Nat)
    (h : ∀ j < n, (retiredIn s a n).contains (lineAddr (a + j)) = false) :
    memVal (memWriteVal s a n v) a n = v % 2 ^ (8 * n) := by
  have hread : memRead (memWriteVal s a n v) a n = leBytes n v := by
    refine List.ext_getElem (by simp [memRead, leBytes_length]) fun i hi hi' => ?_
    have hlt : i < n := by simpa [memRead] using hi
    have hline := h i hlt
    simp only [memRead, List.getElem_map, List.getElem_range, memWriteVal, memByte_memWrite, leBytes_length]
    rw [if_pos ⟨Nat.le_add_right a i, Nat.add_lt_add_left hlt a, hline⟩, Nat.add_sub_cancel_left]
    exact List.getD_eq_getElem _ _ hi'
  rw [memVal, hread, leVal_leBytes]

/-- The clause that fails, with the premise it lacks: over a canonical map of retired lines the record is in memory. -/
theorem memVal_writeNorm_of_wf {s : State} {key h : Nat} (st : Nat) (hwf : SMap.wf s.rel.retired false = true)
    (hheader : headerNow s key = some h) (hwin : inLoamWin (ctxRec s (key / 2 ^ 72)) (hNorm h) 32 = true)
    (husable : ∀ j < 32, isRetired s (hNorm h + j) = false) :
    memVal (writeNorm s key st) (hNorm h) 32 = normRecord (recordedRun (updOf s key) h st) st % 2 ^ 256 := by
  rw [memVal_of_mem_eq (writeNorm_mem st hheader hwin)]
  exact memVal_memWriteVal_of_usable _ fun j hj => retiredIn_contains_of_wf hwf (husable j hj) _ _

/-! The counterexample. -/

/-- A header with one bucket and one entry, its norm record at the start of loam (Table 8.1). -/
def loamHeader : Nat := 2 ^ 8 + 2 ^ 24 + 2 ^ 44 + 2 ^ 256 * loamBase

/-- A step of one bucket whose slices are written and whose norm is known. -/
def endedStep : UpdRun :=
  withQ { UpdRun.fresh with
    header := some (BitVec.ofNat 512 loamHeader), headerRead := true, norms := [(0, accOfNat 9)], buckets := 1 } loamHeader

/-- That step stands in context 0, whose first window holds the record. The first line of loam has two entries in the map of
retired lines: the first says that it is not retired, the second that it is. -/
def listedTwice : State :=
  { State.reset with
    dict := [(dkey 0x4100 1, 2 ^ 192 * (loamBase + 2 ^ 44))]
    upd := [(0, endedStep)]
    rel := { Rel.reset with retired := [(loamBase, false), (loamBase, true)] } }

/-- The record of the step is due, its place is in the window, and no byte of it reads as retired. -/
theorem listedTwice_recordDue :
    clockOn listedTwice = true ∧
      (stepsOf listedTwice 0).find? (fun k => recordDue listedTwice k || stepLost listedTwice k) = some 0 ∧
      headerNow listedTwice 0 = some loamHeader ∧ hNorm loamHeader = loamBase ∧
      inLoamWin (ctxRec listedTwice 0) loamBase 32 = true ∧ ∀ j < 32, isRetired listedTwice (loamBase + j) = false := by
  decide +kernel

/-- Its record is not zero: VALID is set (Table 8.5). -/
theorem listedTwice_record_ne_zero :
    let u := updOf listedTwice 0
    normRecord (recordedRun u loamHeader u.status) u.status % 2 ^ 256 ≠ 0 := by
  decide +kernel

/-- The second entry keeps the record out of memory. -/
theorem exec_normRecord_listedTwice : ∃ t, exec (.normRecord 0) listedTwice = .next t ∧ t.mem = [] :=
  ⟨_, rfl, by decide +kernel⟩

/-- Refutes O48: its last clause says of every state that the record of an ended step is in memory when no byte of its place
`isRetired`. In `listedTwice` none is, and the record is discarded. The clause lacks the premise of `memVal_writeNorm_of_wf`. -/
theorem not_updateStepsFormTheirNormAndRecord : ¬ Obligations.UpdateStepsFormTheirNormAndRecord := by
  intro h
  obtain ⟨-, -, hrecord⟩ := h listedTwice 0
  obtain ⟨hclock, hdue, hheader, hplace, hwin, husable⟩ := listedTwice_recordDue
  obtain ⟨t, ht, -, -, -, -, -, -, -, -, -, hstored⟩ := hrecord 0 loamHeader hclock hdue hheader
  rw [hplace] at hstored
  obtain ⟨u, hu, hmem⟩ := exec_normRecord_listedTwice
  obtain rfl := Host.Outcome.next.inj (ht.symm.trans hu)
  have hzero : memVal t loamBase 32 = 0 := by rw [memVal_of_mem_eq hmem (s := State.reset)]; decide
  have hnonzero := listedTwice_record_ne_zero
  unfold recordedRun at hnonzero
  exact hnonzero ((hstored hwin husable).symm.trans hzero)

end Sys2Proof.Machine
end

section
/-! SUPPORT. The taps of the clay dies: what claiming and releasing them leaves (R180, R360), and the write of SIEVE_ENABLE. -/

namespace Sys2Proof.Machine

/-- `t` is `s` but for dictionary entries. -/
def DictOnly (s t : State) : Prop := ∃ dict, t = { s with dict := dict }

namespace DictOnly

variable {s t u : State}

theorem refl (s : State) : DictOnly s s := ⟨s.dict, rfl⟩

theorem trans (h : DictOnly s t) (k : DictOnly t u) : DictOnly s u := by
  obtain ⟨_, rfl⟩ := h
  obtain ⟨_, rfl⟩ := k
  exact ⟨_, rfl⟩

theorem caps_eq (h : DictOnly s t) : t.caps = s.caps := by
  obtain ⟨_, rfl⟩ := h
  rfl

theorem mem_eq (h : DictOnly s t) : t.mem = s.mem := by
  obtain ⟨_, rfl⟩ := h
  rfl

theorem ops_eq (h : DictOnly s t) : t.ops = s.ops := by
  obtain ⟨_, rfl⟩ := h
  rfl

end DictOnly

theorem setReg_dictOnly (s : State) (i sub v : Nat) : DictOnly s (setReg s i sub v) := ⟨_, rfl⟩

/-- The owner of a die's tap is set, or not. -/
def tapIf (b : Bool) (d owner : Nat) (s : State) : State := if b then setReg s 0x2030 (0x29 + d) owner else s

theorem tapIf_dictOnly (b : Bool) (d owner : Nat) (s : State) : DictOnly s (tapIf b d owner s) := by
  unfold tapIf
  split
  · exact setReg_dictOnly ..
  · exact .refl s

theorem reg_tapIf_same (b : Bool) (d owner : Nat) (s : State) :
    reg (tapIf b d owner s) 0x2030 (0x29 + d) = if b then owner else reg s 0x2030 (0x29 + d) := by
  unfold tapIf
  split
  · exact reg_setReg_same ..
  · rfl

theorem reg_tapIf_ne {d i sub : Nat} (b : Bool) (owner : Nat) (s : State) (h : dkey i sub ≠ dkey 0x2030 (0x29 + d)) :
    reg (tapIf b d owner s) i sub = reg s i sub := by
  unfold tapIf
  split
  · exact reg_setReg_ne s _ h
  · rfl

/-- The sieve holds the tap of die `d` without need: the die's enable bit is clear and no check of it is pending. -/
def tapIdle (s : State) (d : Nat) : Bool :=
  !(reg s 0x6120 1).testBit d && reg s 0x2030 (0x29 + d) == 1 && !s.caps.any (fun c => c.array / 2 == d)

theorem releaseTaps_eq_tapIf (s : State) :
    releaseTaps s = tapIf (tapIdle (tapIf (tapIdle s 0) 0 0 s) 1) 1 0 (tapIf (tapIdle s 0) 0 0 s) := rfl

/-- A change to the tap of die 0 leaves die 1's idle or not. -/
theorem tapIdle_tapIf_zero (b : Bool) (owner : Nat) (s : State) : tapIdle (tapIf b 0 owner s) 1 = tapIdle s 1 := by
  unfold tapIdle
  rw [(tapIf_dictOnly b 0 owner s).caps_eq, reg_tapIf_ne b owner s (by decide), reg_tapIf_ne b owner s (by decide)]

theorem releaseTaps_dictOnly (s : State) : DictOnly s (releaseTaps s) := by
  rw [releaseTaps_eq_tapIf]
  exact (tapIf_dictOnly _ 0 0 s).trans (tapIf_dictOnly _ 1 0 _)

/-- The entries of the two taps' owners. -/
def tapKeys : List Nat := [dkey 0x2030 0x29, dkey 0x2030 0x2A]

theorem releaseTaps_sameEntriesBut (s : State) : SameEntriesBut tapKeys s (releaseTaps s) := by
  intro i sub h
  simp only [tapKeys, List.mem_cons, List.not_mem_nil, or_false, not_or] at h
  rw [releaseTaps_eq_tapIf, reg_tapIf_ne _ _ _ h.2, reg_tapIf_ne _ _ _ h.1]

/-- The tap of a die is free after the release when it was idle, and held by its claimant otherwise. -/
theorem reg_releaseTaps_tap (s : State) {d : Nat} (hd : d < 2) :
    reg (releaseTaps s) 0x2030 (0x29 + d) = if tapIdle s d then 0 else reg s 0x2030 (0x29 + d) := by
  rw [releaseTaps_eq_tapIf]
  obtain rfl | rfl : d = 0 ∨ d = 1 := by omega
  · rw [reg_tapIf_ne _ _ _ (by decide), reg_tapIf_same]
  · rw [reg_tapIf_same, tapIdle_tapIf_zero, reg_tapIf_ne _ _ _ (by decide)]

/-! SIEVE_ENABLE. -/

/-- SIEVE_ENABLE is stored, and the tap of each die whose bit is set has claimant 1. -/
def sieveClaimed (v : Nat) (s : State) : State :=
  tapIf (v.testBit 1) 1 1 (tapIf (v.testBit 0) 0 1 (setReg s 0x6120 1 v))

theorem effSieveEnable_eq (v : Nat) (s : State) : effSieveEnable v s = releaseTaps (sieveClaimed v s) := rfl

theorem sieveClaimed_dictOnly (v : Nat) (s : State) : DictOnly s (sieveClaimed v s) :=
  (setReg_dictOnly s 0x6120 1 v).trans ((tapIf_dictOnly _ 0 1 _).trans (tapIf_dictOnly _ 1 1 _))

theorem reg_sieveClaimed_enable (v : Nat) (s : State) : reg (sieveClaimed v s) 0x6120 1 = v := by
  unfold sieveClaimed
  rw [reg_tapIf_ne _ _ _ (by decide), reg_tapIf_ne _ _ _ (by decide), reg_setReg_same]

theorem reg_sieveClaimed_tap (v : Nat) (s : State) {d : Nat} (hd : d < 2) :
    reg (sieveClaimed v s) 0x2030 (0x29 + d) = if v.testBit d then 1 else reg s 0x2030 (0x29 + d) := by
  unfold sieveClaimed
  obtain rfl | rfl : d = 0 ∨ d = 1 := by omega
  · rw [reg_tapIf_ne _ _ _ (by decide), reg_tapIf_same, reg_setReg_ne _ _ (by decide)]
  · rw [reg_tapIf_same, reg_tapIf_ne _ _ _ (by decide), reg_setReg_ne _ _ (by decide)]

theorem sieveClaimed_sameEntriesBut (v : Nat) (s : State) : SameEntriesBut (dkey 0x6120 1 :: tapKeys) s (sieveClaimed v s) := by
  intro i sub h
  simp only [tapKeys, List.mem_cons, List.not_mem_nil, or_false, not_or] at h
  obtain ⟨henable, htap0, htap1⟩ := h
  unfold sieveClaimed
  rw [reg_tapIf_ne _ _ _ htap1, reg_tapIf_ne _ _ _ htap0, reg_setReg_ne _ _ henable]

theorem tapIdle_sieveClaimed (v : Nat) (s : State) {d : Nat} (hd : d < 2) :
    tapIdle (sieveClaimed v s) d =
      (!v.testBit d && reg s 0x2030 (0x29 + d) == 1 && !s.caps.any (fun c => c.array / 2 == d)) := by
  unfold tapIdle
  rw [reg_sieveClaimed_enable, reg_sieveClaimed_tap v s hd, (sieveClaimed_dictOnly v s).caps_eq]
  cases v.testBit d
  · rfl
  · rfl

/-- The tap of a die after the write: claimed when its bit is set; else free when the sieve held it and no check of the die
is pending. -/
theorem reg_effSieveEnable_tap (v : Nat) (s : State) {d : Nat} (hd : d < 2) :
    reg (effSieveEnable v s) 0x2030 (0x29 + d) =
      if v.testBit d then 1
      else if reg s 0x2030 (0x29 + d) == 1 && !s.caps.any (fun c => c.array / 2 == d) then 0
      else reg s 0x2030 (0x29 + d) := by
  rw [effSieveEnable_eq, reg_releaseTaps_tap _ hd, tapIdle_sieveClaimed v s hd, reg_sieveClaimed_tap v s hd]
  cases v.testBit d
  · rfl
  · rfl

theorem reg_effSieveEnable_enable (v : Nat) (s : State) : reg (effSieveEnable v s) 0x6120 1 = v := by
  rw [effSieveEnable_eq, releaseTaps_sameEntriesBut _ _ _ (by decide), reg_sieveClaimed_enable]

theorem effSieveEnable_sameEntriesBut (v : Nat) (s : State) :
    SameEntriesBut (dkey 0x6120 1 :: tapKeys) s (effSieveEnable v s) := by
  intro i sub h
  rw [effSieveEnable_eq, releaseTaps_sameEntriesBut _ _ _ (List.not_mem_of_not_mem_cons h), sieveClaimed_sameEntriesBut v s _ _ h]

theorem effSieveEnable_dictOnly (v : Nat) (s : State) : DictOnly s (effSieveEnable v s) :=
  (sieveClaimed_dictOnly v s).trans (releaseTaps_dictOnly _)

/-- Another claimant at the tap of a die to be enabled is a conflict. -/
theorem preSieveEnable_of_held {v d : Nat} {s : State} (hd : d < 2) (hbit : v.testBit d = true)
    (hheld : 1 < reg s 0x2030 (0x29 + d)) : preSieveEnable v s = dConflict :=
  if_pos (List.any_eq_true.mpr ⟨d, List.mem_range.mpr hd, by rw [hbit, decide_eq_true hheld]; rfl⟩)

/-- A write whose own condition fails answers its code and changes no entry (R351). -/
theorem guarded_of_refused {s : State} {p : Path} {i sub len v : Nat} {pre : State → Nat} (eff : State → State)
    (hlive : dictLive s = true) (hpasses : checkAccess s p i sub true false 0 len = 0) (hrefused : pre s ≠ 0) :
    guarded s p i sub len v pre eff = .next (emit s (.dictAnswer p (pre s) [])) := by
  simp [guarded, answerTo, tryWrite, hlive, hpasses, hrefused]

/-- Settles O24: an accepted write is `effSieveEnable`, a claim of the enabled dies' taps and then the release of the idle ones;
a tap held by another claimant refuses it. -/
theorem sieveEnableClaimsTheTapsOfItsDies : Obligations.SieveEnableClaimsTheTapsOfItsDies := by
  refine fun s p v => ⟨fun hok => ?_, fun d hd hbit hheld hlive hpasses => ?_⟩
  · have hdict := effSieveEnable_dictOnly v.toNat s
    refine ⟨_, guarded_of_writeOk (effSieveEnable v.toNat) hok, reg_effSieveEnable_enable _ s, fun d hd hbit => ?_,
      fun d hd hbit howned hnone => ?_, effSieveEnable_sameEntriesBut _ s, hdict.caps_eq, hdict.mem_eq⟩
    · rw [reg_emit, reg_effSieveEnable_tap _ s hd, if_pos hbit]
    · rw [reg_emit, reg_effSieveEnable_tap _ s hd, hbit, howned, hnone]
      rfl
  · have hconflict := preSieveEnable_of_held hd hbit hheld
    rw [← hconflict]
    exact guarded_of_refused (effSieveEnable v.toNat) hlive hpasses (by rw [hconflict]; decide)

end Sys2Proof.Machine
end

section
/-! SUPPORT. The sieve's entries (6120h to 61FFh) stand apart from what counts, reports and back-offs write (R367, R386 to R389). -/

namespace Sys2Proof.Machine

/-- The entries of indices 6120h to 61FFh, where the sieve counts, read in `t` as in `s`. -/
def SieveEntriesKept (s t : State) : Prop :=
  ∀ i sub, dkey 0x6120 0 ≤ dkey i sub → dkey i sub < dkey 0x6200 0 → reg t i sub = reg s i sub

namespace SieveEntriesKept

variable {s t u : State}

theorem refl (s : State) : SieveEntriesKept s s := fun _ _ _ _ => rfl

theorem trans (h : SieveEntriesKept s t) (k : SieveEntriesKept t u) : SieveEntriesKept s u :=
  fun i sub hlo hhi => (k i sub hlo hhi).trans (h i sub hlo hhi)

theorem of_dict_eq (h : t.dict = s.dict) : SieveEntriesKept s t := by
  intro i sub _ _
  unfold reg
  rw [h]

theorem foldl {α : Type} {f : State → α → State} (hf : ∀ s x, SieveEntriesKept s (f s x)) (xs : List α) (s : State) :
    SieveEntriesKept s (xs.foldl f s) := by
  induction xs generalizing s with
  | nil => exact refl s
  | cons x xs ih => exact (hf s x).trans (ih (f s x))

theorem ite {b : Prop} [Decidable b] (h : SieveEntriesKept s t) : SieveEntriesKept s (if b then t else s) := by
  split
  · exact h
  · exact refl s

/-- A store outside these entries. -/
theorem setReg_outside (s : State) {i sub : Nat} (v : Nat) (h : dkey i sub < dkey 0x6120 0 ∨ dkey 0x6200 0 ≤ dkey i sub) :
    SieveEntriesKept s (setReg s i sub v) :=
  fun _ _ hlo hhi => reg_setReg_ne s v (by omega)

end SieveEntriesKept

theorem SignalsOnly.sieveEntriesKept {s t : State} (h : SignalsOnly s t) : SieveEntriesKept s t :=
  fun i sub _ _ => h.reg_eq i sub

theorem raise_sieveEntriesKept (s : State) (n : Nat) : SieveEntriesKept s (raise s n) :=
  (raise_signalsOnly s n).sieveEntriesKept

theorem releaseTaps_sieveEntriesKept (s : State) : SieveEntriesKept s (releaseTaps s) := by
  refine fun i sub hlo _ => releaseTaps_sameEntriesBut s i sub ?_
  simp only [tapKeys, dkey, List.mem_cons, List.not_mem_nil, or_false, not_or] at hlo ⊢
  omega

/-- The counters of an engine's steps are entries of the engine. -/
theorem countSteps_sieveEntriesKept (s : State) {n : Nat} (hn : n < 4) (k : WorkClass) (steps : Nat) :
    SieveEntriesKept s (countSteps s n k steps) := by
  have hsub : classSub k < 256 := by cases k <;> decide
  have hsteps := SieveEntriesKept.setReg_outside s ((reg s (0x2300 + n) 5 + steps) % 2 ^ 64)
    (show dkey (0x2300 + n) 5 < dkey 0x6120 0 ∨ _ by unfold dkey; omega)
  refine hsteps.trans (SieveEntriesKept.trans (.setReg_outside _ _ (sub := classSub k) (i := 0x2300 + n) ?_) (.of_dict_eq rfl))
  unfold dkey
  omega

/-! Messages. -/

theorem beginReq_dict (s : State) (m : Msg) : (beginReq s m).dict = s.dict := by
  unfold beginReq
  split
  · rfl
  · rfl

theorem foldl_beginReq_dict (l : List Msg) (s : State) : (l.foldl beginReq s).dict = s.dict := by
  induction l generalizing s with
  | nil => rfl
  | cons m l ih => exact (ih (beginReq s m)).trans (beginReq_dict s m)

theorem sendCell_sieveEntriesKept {s t : State} {p : Nat} (h : sendCell s p = some t) : SieveEntriesKept s t := by
  unfold sendCell at h
  dsimp only at h
  split at h
  · cases h
  · split at h
    · cases h
    · cases h
      refine .trans ?_ (.setReg_outside (emit _ _) _ (by unfold dkey; omega))
      exact .of_dict_eq (foldl_beginReq_dict _ _)

theorem sendCells_sieveEntriesKept (k : Nat) (s : State) (p : Nat) : SieveEntriesKept s (sendCells k s p) := by
  induction k generalizing s with
  | zero => exact .refl s
  | succ k ih =>
    unfold sendCells
    split
    · exact .refl s
    next t ht => exact (sendCell_sieveEntriesKept ht).trans (ih t)

theorem sendOn_sieveEntriesKept (s : State) (p w : Nat) (m : Msg) : SieveEntriesKept s (sendOn s p w m) := by
  unfold sendOn pumpPort
  exact SieveEntriesKept.trans (.of_dict_eq rfl) (sendCells_sieveEntriesKept _ _ _)

theorem trySend_sieveEntriesKept {s t : State} {m : Msg} (h : trySend s m = some t) : SieveEntriesKept s t := by
  unfold trySend at h
  split at h
  · cases h
    exact .of_dict_eq (beginReq_dict _ m)
  · split at h
    · cases h
    · cases h
      exact sendOn_sieveEntriesKept s _ _ m

theorem sendOrDrop_sieveEntriesKept (s : State) (m : Msg) : SieveEntriesKept s (sendOrDrop s m) := by
  unfold sendOrDrop
  split
  next ht => exact trySend_sieveEntriesKept ht
  · exact .trans (.setReg_outside s _ (by decide)) (raise_sieveEntriesKept _ _)

/-! Reports of events. -/

theorem faultNotice_sieveEntriesKept (s : State) (entry : List Byte) : SieveEntriesKept s (faultNotice s entry) := by
  have hports : ∀ body, SieveEntriesKept s (noticeAll s 1 body) :=
    fun _ => .foldl (fun t p => sendOn_sieveEntriesKept t p _ _) _ s
  unfold faultNotice
  exact (hports _).trans (.foldl (fun t _ => sendOrDrop_sieveEntriesKept t _) _ _)

theorem fieldNotify_sieveEntriesKept (s : State) (f : List Byte) : SieveEntriesKept s (fieldNotify s f) := by
  unfold fieldNotify
  dsimp only
  split
  · exact .refl s
  · split
    · exact .of_dict_eq rfl
    · split
      · exact .trans (.of_dict_eq rfl) (.setReg_outside _ _ (by decide))
      · exact .of_dict_eq rfl

theorem notify_sieveEntriesKept (s : State) (bit index sub : Nat) (payload : List Byte) :
    SieveEntriesKept s (notify s bit index sub payload) := by
  unfold notify
  refine .ite (.trans ?_ ((raise_sieveEntriesKept _ _).trans (fieldNotify_sieveEntriesKept _ _)))
  exact .of_dict_eq rfl

theorem driveFaultN_sieveEntriesKept (s : State) : SieveEntriesKept s (driveFaultN s) :=
  .trans (.of_dict_eq rfl) (setCond_signalsOnly _ _ _).sieveEntriesKept

theorem report_sieveEntriesKept (s : State) (e : Event) (entry : List Byte) : SieveEntriesKept s (report s e entry) := by
  unfold report
  extract_lets s1 s2 s3 s4
  have h1 : SieveEntriesKept s s1 := .foldl raise_sieveEntriesKept _ s
  have h2 : SieveEntriesKept s1 s2 := notify_sieveEntriesKept s1 _ _ _ _
  have h3 : SieveEntriesKept s2 s3 := .ite (faultNotice_sieveEntriesKept s2 entry)
  have h4 : SieveEntriesKept s3 s4 := .ite (driveFaultN_sieveEntriesKept s3)
  exact h1.trans (h2.trans (h3.trans (h4.trans (.ite (.of_dict_eq rfl)))))

theorem writeEntryOf_sieveEntriesKept (s : State) (e : Event) (outcome : Nat) :
    SieveEntriesKept s (writeEntryOf s e outcome) := by
  unfold writeEntryOf
  extract_lets n entry s1 s2
  have h1 : SieveEntriesKept s s1 := .of_dict_eq (domWrite_dict ..)
  have h2 : SieveEntriesKept s1 s2 := .trans (.setReg_outside s1 _ (by decide)) (.setReg_outside _ _ (by decide))
  exact h1.trans (h2.trans (report_sieveEntriesKept s2 e entry))

theorem addTest_sieveEntriesKept (s : State) (e : Event) (detail : Nat) (t : TestKind × Nat × Nat) :
    SieveEntriesKept s (addTest s e detail t) := by
  unfold addTest
  dsimp only
  split
  · exact .of_dict_eq rfl
  · exact .of_dict_eq rfl

theorem logEvent_sieveEntriesKept (s : State) (e : Event) : SieveEntriesKept s (logEvent s e) := by
  have hcount : SieveEntriesKept s (countMs s e) := .ite (.of_dict_eq rfl)
  have htests : ∀ n t, SieveEntriesKept t (e.tests.foldl (fun t x => addTest t e n x) t) :=
    fun n t => .foldl (fun t x => addTest_sieveEntriesKept t e n x) _ t
  unfold logEvent
  dsimp only
  split
  · exact .trans (.setReg_outside s _ (by decide)) (htests _ _)
  · exact (hcount.trans (writeEntryOf_sieveEntriesKept _ e 0)).trans (htests _ _)

/-! Back-offs (R367). -/

/-- The margin entries of a unit stand below those of the sieve. -/
theorem backOff_sieveEntriesKept (s : State) {u : Nat} (hu : u < 8) : SieveEntriesKept s (backOff s u) := by
  have hmargin : ∀ t v sub, sub < 256 → SieveEntriesKept t (setReg t (0x3010 + u) sub v) :=
    fun t v sub hsub => .setReg_outside t v (by unfold dkey; omega)
  unfold backOff
  extract_lets e s1 m
  have hstep : SieveEntriesKept s s1 := by
    unfold s1
    split
    · exact hmargin _ _ _ (by decide)
    · exact logEvent_sieveEntriesKept s _
  refine hstep.trans (.trans (.trans ?_ (hmargin _ _ 3 (by decide))) (raise_sieveEntriesKept _ _))
  exact .of_dict_eq rfl

theorem mismatchBackOff_sieveEntriesKept (s : State) {c : Capture} (harray : c.array < 4) (hfirst : c.firstEngine < 4) (k : Nat) :
    SieveEntriesKept s (mismatchBackOff s c k) := by
  unfold mismatchBackOff
  extract_lets s1
  have h1 : SieveEntriesKept s s1 := by
    unfold s1
    split
    · exact .refl s
    · exact backOff_sieveEntriesKept s (by omega)
  exact h1.trans (.ite (backOff_sieveEntriesKept s1 (by omega)))

end Sys2Proof.Machine
end

section
/-! SUPPORT. The checks of the sieve (R171 to R179): whose turn it is, what becomes of the capture, and the histogram. -/

namespace Sys2Proof.Machine

/-! The turn. -/

theorem sieveJob_of_sieveTurn {s : State} {n : Nat} {c : Capture} (h : sieveTurn s n = some c) : sieveJob s n = some c := by
  unfold sieveTurn at h
  split at h
  · exact h
  · cases h

/-- A capture that has not failed is checked by the engine of its array (R172). -/
theorem array_of_sieveTurn {s : State} {n : Nat} {c : Capture} (h : sieveTurn s n = some c) (hfailed : c.failed = none) :
    c.array = n := by
  have hjob := sieveJob_of_sieveTurn h
  unfold sieveJob at hjob
  split at hjob
  next hfirst =>
    cases hjob
    simpa [hfailed] using List.find?_some hfirst
  · have hcheck := List.find?_some hjob
    simp only [Bool.and_eq_true, beq_iff_eq] at hcheck
    exact hcheck.2

/-! The capture after a check. -/

/-- What a change to one capture leaves at its slot is the changed one. -/
theorem exists_of_mem_editCap {s : State} {c x : Capture} {f : Capture → Capture} (hx : x ∈ (editCap s c f).caps)
    (hctx : x.ctx = c.ctx) (hslot : x.slot = c.slot) :
    ∃ y, x = f y := by
  obtain ⟨y, -, rfl⟩ := List.mem_map.mp hx
  dsimp only at hctx hslot ⊢
  split
  · exact ⟨y, rfl⟩
  next hother =>
    rw [if_neg hother] at hctx hslot
    simp [hctx, hslot] at hother

theorem not_mem_dropCap (s : State) (c : Capture) : ∀ x ∈ (dropCap s c).caps, ¬ (x.ctx = c.ctx ∧ x.slot = c.slot) := by
  intro x hx
  unfold dropCap at hx
  rw [(releaseTaps_dictOnly _).caps_eq] at hx
  simpa only [Bool.not_eq_true', ← Bool.not_eq_true, Bool.and_eq_true, beq_iff_eq] using (List.mem_filter.mp hx).2

theorem dropCap_mem (s : State) (c : Capture) : (dropCap s c).mem = s.mem := (releaseTaps_dictOnly _).mem_eq

theorem dropCap_ops (s : State) (c : Capture) : (dropCap s c).ops = s.ops := (releaseTaps_dictOnly _).ops_eq

theorem dropCap_sieveEntriesKept (s : State) (c : Capture) : SieveEntriesKept s (dropCap s c) :=
  .trans (.of_dict_eq rfl) (releaseTaps_sieveEntriesKept _)

theorem afterExact_of_fidelity {c : Capture} (s : State) (h : c.fidelity = true) :
    afterExact s c = editCap s c (fun x => { x with exactDone := true, failed := none }) := if_pos h

theorem afterExact_of_not_fidelity {c : Capture} (s : State) (h : c.fidelity = false) : afterExact s c = dropCap s c :=
  if_neg (by simp [h])

theorem afterExact_mem (s : State) (c : Capture) : (afterExact s c).mem = s.mem := by
  unfold afterExact
  split
  · rfl
  · exact dropCap_mem s c

theorem afterExact_ops (s : State) (c : Capture) : (afterExact s c).ops = s.ops := by
  unfold afterExact
  split
  · rfl
  · exact dropCap_ops s c

theorem afterExact_sieveEntriesKept (s : State) (c : Capture) : SieveEntriesKept s (afterExact s c) := by
  unfold afterExact
  split
  · exact .of_dict_eq rfl
  · exact dropCap_sieveEntriesKept s c

/-! The commands, by what they find. -/

theorem exec_captureComplete {s : State} {a : ArrayId} {ii : PartId} {c : Capture} (hruns : coreRuns s = true)
    (hc : s.caps.find? (fun c => c.array == a.val && c.part == ii.val && !c.complete && c.rows_left == 0) = some c) :
    exec (.captureComplete a ii) s = .next (leaveOpen (updOp (updCap s c.tag c.tile (fun x => { x with complete := true })) c.tag
      (fun o => { o with capsOut := o.capsOut - 1, sampled := true })) (slotBase s c.ctx c.slot) c.size) := by
  show execCaptureComplete a ii s = _
  unfold execCaptureComplete
  rw [hc, hruns]
  rfl

/-- The check passed is counted for the array, and the margin loop has a clean check. -/
def checkPassed (s : State) (e : EngineId) (c : Capture) : State :=
  cleanCheck (bump (countSteps s e .sieve (exactSteps c)) 0x6125 (c.array + 1)) c.array

/-- The capture holds what the check found, and by which engine. -/
def checkFailed (s : State) (e : EngineId) (c : Capture) (v : List (Nat × Nat × Acc)) (sent : SMap Nat) : State :=
  editCap (countSteps s e .sieve (exactSteps c)) c (fun x => { x with failed := some (v, sent), firstEngine := e.val })

theorem exec_exactCheck {s : State} {e : EngineId} {c : Capture} (ups : List Upset) (hturn : sieveTurn s e = some c)
    (hdone : c.exactDone = false) (hfailed : c.failed = none) :
    exec (.exactCheck e ups) s = .next (
      if capAgrees c (recompute c ups) (sentOf s c (recompute c ups) ups) then afterExact (checkPassed s e c) c
      else checkFailed s e c (recompute c ups) (sentOf s c (recompute c ups) ups)) := by
  show execExactCheck e ups s = _
  unfold execExactCheck
  rw [hturn]
  dsimp only
  rw [hdone, hfailed]
  rfl

/-- A recheck's verdict is counted for the array and stored in LAST_MISMATCH, with the back-offs of its culprit (R174, log 38). -/
def mismatchCounted (s : State) (e : EngineId) (c : Capture) (k : Nat) (l : List (Nat × Nat)) : State :=
  setReg (bump (mismatchBackOff (countSteps s e .sieve (exactSteps c)) c k) 0x6126 (c.array + 1)) 0x6128 1
    (lastMismatch c k (max 1 l.length) (cellOf c (l.headD (c.rows.headD 0, c.cols.headD 0))))

theorem exec_sieveRecheck {s : State} {e : EngineId} {c : Capture} {v1 : List (Nat × Nat × Acc)} {s1 : SMap Nat}
    (ups : List Upset) (hturn : sieveTurn s e = some c) (hfailed : c.failed = some (v1, s1)) :
    let v2 := recompute c ups
    let s2 := sentOf s c v2 ups
    let k := culprit c v1 v2 s1 s2
    let l := mismatches c v1 v2 s1 s2
    exec (.sieveRecheck e ups) s = .next (afterExact (mismatchEvents (mismatchCounted s e c k l) c k l v2) c) := by
  show execSieveRecheck e ups s = _
  unfold execSieveRecheck
  rw [hturn]
  dsimp only
  rw [hfailed]
  rfl

/-- LAST_MISMATCH and the counters of steps and margins are not the counter of mismatches. -/
theorem reg_mismatchCounted (s : State) (e : EngineId) {c : Capture} (harray : c.array < 4) (hfirst : c.firstEngine < 4)
    (k : Nat) (l : List (Nat × Nat)) :
    reg (mismatchCounted s e c k l) 0x6126 (c.array + 1) = (reg s 0x6126 (c.array + 1) + 1) % 2 ^ 64 := by
  have hkept := (countSteps_sieveEntriesKept s e.isLt .sieve (exactSteps c)).trans
    (mismatchBackOff_sieveEntriesKept _ harray hfirst k)
  unfold mismatchCounted
  rw [reg_setReg_ne _ _ (by unfold dkey; omega), bump, bumpBy, reg_setReg_same,
    hkept _ _ (by unfold dkey; omega) (by unfold dkey; omega)]

/-! The fidelity check (R176, R178). -/

/-- A result's bin is one of the 32. -/
theorem fidelityBin_le (r : Option Acc) : fidelityBin r ≤ 31 := by
  unfold fidelityBin
  split
  · exact Nat.le_refl _
  · split
    · split
      · exact Nat.zero_le _
      · split
        · exact Nat.le_refl _
        · omega
    · exact Nat.le_refl _

theorem fidelityWindow_frame (s : State) (c bin : Nat) :
    (fidelityWindow s c bin).mem = s.mem ∧ (fidelityWindow s c bin).ops = s.ops := by
  unfold fidelityWindow
  extract_lets w counted n low w' s1 s2
  split
  · have hreports : ReportsOnly s1 (notify s2 1 (0x6140 + c) 0x24 (leBytes 4 (reg s2 (0x6140 + c) 0x24))) :=
      ((setReg_reportsOnly s1 _ _ _).trans (raise_reportsOnly _ _)).trans (notify_reportsOnly _ _ _ _ _)
    exact ⟨hreports.mem_eq, hreports.ops_eq⟩
  · exact ⟨rfl, rfl⟩

/-- The window writes no entry of its context below the count of FIDELITY_LOW. -/
theorem reg_fidelityWindow (s : State) {c sub : Nat} (bin : Nat) (hc : c < 64) (hsub : sub < 0x24) :
    reg (fidelityWindow s c bin) (0x6140 + c) sub = reg s (0x6140 + c) sub := by
  unfold fidelityWindow
  extract_lets w counted n low w' s1 s2
  split
  · have hreport : ∀ l, SieveEntriesKept (bumpSat32 s1 (0x6140 + c) 0x24 1) (notify s2 1 (0x6140 + c) 0x24 l) :=
      fun l => (raise_sieveEntriesKept _ (src 7 4)).trans (notify_sieveEntriesKept s2 _ _ _ l)
    rw [hreport _ _ _ (by unfold dkey; omega) (by unfold dkey; omega)]
    exact reg_setReg_ne s1 _ (by unfold dkey; omega)
  · rfl

/-- The result of the fidelity check is counted in its bin and in the window of its context. -/
def fidelityCounted (s : State) (e : EngineId) (c : Capture) : State :=
  fidelityWindow (bumpSat32 (countSteps s e .sieve (fidelitySteps c)) (0x6140 + c.ctx) (fidelityBin (fidelityError c) + 1) 1)
    c.ctx (fidelityBin (fidelityError c))

theorem fidelityCounted_frame (s : State) (e : EngineId) (c : Capture) :
    (fidelityCounted s e c).mem = s.mem ∧ (fidelityCounted s e c).ops = s.ops := fidelityWindow_frame _ _ _

theorem reg_fidelityCounted (s : State) (e : EngineId) {c : Capture} (hctx : c.ctx < 64) :
    reg (fidelityCounted s e c) (0x6140 + c.ctx) (fidelityBin (fidelityError c) + 1) =
      satAdd 32 (reg s (0x6140 + c.ctx) (fidelityBin (fidelityError c) + 1)) 1 := by
  have hbin := fidelityBin_le (fidelityError c)
  unfold fidelityCounted
  rw [reg_fidelityWindow _ _ hctx (by omega), bumpSat32, reg_setReg_same,
    countSteps_sieveEntriesKept s e.isLt _ _ _ _ (by unfold dkey; omega) (by unfold dkey; omega)]

theorem exec_fidelityCheck {s : State} {e : EngineId} {c : Capture} (hturn : sieveTurn s e = some c)
    (hdone : c.exactDone = true) (hfidelity : c.fidelity = true) (hfailed : c.failed = none) :
    exec (.fidelityCheck e) s = .next (dropCap (fidelityCounted s e c) c) := by
  show execFidelityCheck e s = _
  unfold execFidelityCheck
  rw [hturn]
  dsimp only
  rw [hdone, hfidelity, hfailed]
  rfl

/-! The exact check (R172, R175). -/

/-- A check passed is counted once, whether the capture is kept or dropped. -/
theorem reg_checkPassed (s : State) (e : EngineId) {c : Capture} (harray : c.array = e.val) :
    reg (afterExact (checkPassed s e c) c) 0x6125 (c.array + 1) = (reg s 0x6125 (c.array + 1) + 1) % 2 ^ 64 := by
  have hlow : dkey 0x6120 0 ≤ dkey 0x6125 (c.array + 1) := by unfold dkey; omega
  have hhigh : dkey 0x6125 (c.array + 1) < dkey 0x6200 0 := by unfold dkey; omega
  rw [afterExact_sieveEntriesKept _ c _ _ hlow hhigh, checkPassed, cleanCheck, reg_setMargin, bump, bumpBy, reg_setReg_same,
    countSteps_sieveEntriesKept s e.isLt _ _ _ _ hlow hhigh]

/-- No check passed is counted for a capture that fails. -/
theorem checkFailed_sieveEntriesKept (s : State) (e : EngineId) (c : Capture) (v : List (Nat × Nat × Acc)) (sent : SMap Nat) :
    SieveEntriesKept s (checkFailed s e c v sent) :=
  (countSteps_sieveEntriesKept s e.isLt .sieve (exactSteps c)).trans (.of_dict_eq rfl)

/-- Settles O23: each command is an equation for its state, of which the clauses say what the capture, the counters, memory and
the operations are. -/
theorem sieveChecksCompareAndClassify : Obligations.SieveChecksCompareAndClassify := by
  refine fun s => ⟨fun a ii c hruns hc => exec_captureComplete hruns hc, fun e ups c hturn hdone hfailed => ?_,
    fun e ups c v1 s1 hturn hfailed harray hfirst => ?_, fun e c hturn hdone hfidelity hfailed => ?_⟩
  · have harray := array_of_sieveTurn hturn hfailed
    have hexec := exec_exactCheck ups hturn hdone hfailed
    refine ⟨fun hagrees => ?_, fun hdiffers => ?_⟩
    · refine ⟨_, hexec.trans (congrArg _ (if_pos hagrees)), reg_checkPassed s e harray, afterExact_mem _ c, afterExact_ops _ c,
        fun hnot => ?_, fun hfidelity x hx hctx hslot => ?_⟩
      · rw [afterExact_of_not_fidelity _ hnot]
        exact not_mem_dropCap _ c
      · rw [afterExact_of_fidelity _ hfidelity] at hx
        obtain ⟨y, rfl⟩ := exists_of_mem_editCap hx hctx hslot
        rfl
    · refine ⟨_, hexec.trans (congrArg _ (if_neg (Bool.eq_false_iff.mp hdiffers))), fun x hx hctx hslot => ?_, ?_, rfl, rfl⟩
      · obtain ⟨y, rfl⟩ := exists_of_mem_editCap hx hctx hslot
        exact ⟨rfl, rfl⟩
      · exact checkFailed_sieveEntriesKept s e c _ _ _ _ (by unfold dkey; omega) (by unfold dkey; omega)
  · exact ⟨exec_sieveRecheck ups hturn hfailed, reg_mismatchCounted s e harray hfirst _ _⟩
  · obtain ⟨hmem, hops⟩ := fidelityCounted_frame s e c
    refine ⟨_, exec_fidelityCheck hturn hdone hfidelity hfailed, not_mem_dropCap _ c, fun hctx => ?_,
      (dropCap_mem _ c).trans hmem, (dropCap_ops _ c).trans hops⟩
    have hbin := fidelityBin_le (fidelityError c)
    rw [dropCap_sieveEntriesKept _ c _ _ (by unfold dkey; omega) (by unfold dkey; omega), reg_fidelityCounted s e hctx]

end Sys2Proof.Machine
end

section
/-! SUPPORT. Ranges of dictionary entries, and those that messages and reports leave as they are (R269, R356, R386 to R389). -/

namespace Sys2Proof.Machine

/-- The entries with keys from `lo` on and below `hi` read in `t` as in `s`. -/
def EntriesKept (lo hi : Nat) (s t : State) : Prop :=
  ∀ i sub, lo ≤ dkey i sub → dkey i sub < hi → reg t i sub = reg s i sub

namespace EntriesKept

variable {lo hi : Nat} {s t u : State}

theorem refl (s : State) : EntriesKept lo hi s s := fun _ _ _ _ => rfl

theorem trans (h : EntriesKept lo hi s t) (k : EntriesKept lo hi t u) : EntriesKept lo hi s u :=
  fun i sub hlo hhi => (k i sub hlo hhi).trans (h i sub hlo hhi)

theorem of_dict_eq (h : t.dict = s.dict) : EntriesKept lo hi s t := by
  intro i sub _ _
  unfold reg
  rw [h]

/-- Before the step, an update of other fields. -/
theorem after_update (k : EntriesKept lo hi t u) (h : t.dict = s.dict := by rfl) : EntriesKept lo hi s u :=
  (of_dict_eq h).trans k

theorem of_sameEntriesBut {l : List Nat} (h : SameEntriesBut l s t) (hl : ∀ k ∈ l, k < lo ∨ hi ≤ k) :
    EntriesKept lo hi s t :=
  fun i sub h1 h2 => h i sub fun hmem => by have := hl _ hmem; omega

theorem foldl_mem {α : Type} {f : State → α → State} (xs : List α) (s : State)
    (hf : ∀ x ∈ xs, ∀ s, EntriesKept lo hi s (f s x)) : EntriesKept lo hi s (xs.foldl f s) := by
  induction xs generalizing s with
  | nil => exact refl s
  | cons x xs ih => exact (hf x List.mem_cons_self s).trans (ih (f s x) fun y hy => hf y (List.mem_cons_of_mem x hy))

theorem foldl {α : Type} {f : State → α → State} (hf : ∀ s x, EntriesKept lo hi s (f s x)) (xs : List α) (s : State) :
    EntriesKept lo hi s (xs.foldl f s) := foldl_mem xs s fun x _ s => hf s x

theorem ite {b : Prop} [Decidable b] (h : EntriesKept lo hi s t) : EntriesKept lo hi s (if b then t else s) := by
  split
  · exact h
  · exact refl s

theorem ite_both {b : Prop} [Decidable b] (h : EntriesKept lo hi s t) (k : EntriesKept lo hi s u) :
    EntriesKept lo hi s (if b then t else u) := by
  split
  · exact h
  · exact k

/-- A store outside the range. -/
theorem setReg_outside (s : State) {i sub : Nat} (v : Nat) (h : dkey i sub < lo ∨ hi ≤ dkey i sub) :
    EntriesKept lo hi s (setReg s i sub v) :=
  fun _ _ hlo hhi => reg_setReg_ne s v (by omega)

end EntriesKept

theorem SignalsOnly.entriesKept {lo hi : Nat} {s t : State} (h : SignalsOnly s t) : EntriesKept lo hi s t :=
  fun i sub _ _ => h.reg_eq i sub

theorem raise_entriesKept {lo hi : Nat} (s : State) (n : Nat) : EntriesKept lo hi s (raise s n) :=
  (raise_signalsOnly s n).entriesKept

/-! NOTIFY (R356) stores no more than its count of dropped frames. -/

theorem SameEntriesBut.refl (l : List Nat) (s : State) : SameEntriesBut l s s := fun _ _ _ => rfl

theorem SameEntriesBut.trans {l : List Nat} {s t u : State} (h : SameEntriesBut l s t) (k : SameEntriesBut l t u) :
    SameEntriesBut l s u := fun i sub hl => (k i sub hl).trans (h i sub hl)

theorem SameEntriesBut.mono {l m : List Nat} {s t : State} (h : SameEntriesBut l s t) (hlm : l ⊆ m) : SameEntriesBut m s t :=
  fun i sub hm => h i sub fun hl => hm (hlm hl)

theorem setReg_sameEntriesBut (s : State) {i sub : Nat} (v : Nat) {l : List Nat} (h : dkey i sub ∈ l) :
    SameEntriesBut l s (setReg s i sub v) := fun _ _ hl => reg_setReg_ne s v (ne_of_mem_of_not_mem h hl).symm

theorem SignalsOnly.sameEntriesBut {s t : State} (h : SignalsOnly s t) (l : List Nat) : SameEntriesBut l s t :=
  fun i sub _ => h.reg_eq i sub

theorem fieldNotify_sameEntriesBut (s : State) (f : List Byte) : SameEntriesBut [dkey 0x1010 5] s (fieldNotify s f) := by
  unfold fieldNotify
  dsimp only
  split
  · exact .refl _ s
  · split
    · exact fun _ _ _ => rfl
    · split
      · exact setReg_sameEntriesBut { s with frames := _ } _ List.mem_cons_self
      · exact fun _ _ _ => rfl

theorem notify_sameEntriesBut (s : State) (bit index sub : Nat) (payload : List Byte) :
    SameEntriesBut [dkey 0x1010 5] s (notify s bit index sub payload) := by
  unfold notify
  split
  · refine SameEntriesBut.trans ?_ (fieldNotify_sameEntriesBut _ _)
    exact (raise_signalsOnly { s with frames := _ } _).sameEntriesBut _
  · exact .refl _ s

/-! Messages store from 7000h on. -/

theorem sendCell_entriesKept {lo hi : Nat} (hhi : hi ≤ dkey 0x7000 0) {s t : State} {p : Nat} (h : sendCell s p = some t) :
    EntriesKept lo hi s t := by
  unfold sendCell at h
  dsimp only at h
  split at h
  · cases h
  · split at h
    · cases h
    · cases h
      refine .trans ?_ (.setReg_outside (emit _ _) _ (by unfold dkey at *; omega))
      exact .of_dict_eq (foldl_beginReq_dict _ _)

theorem sendCells_entriesKept {lo hi : Nat} (hhi : hi ≤ dkey 0x7000 0) (k : Nat) (s : State) (p : Nat) :
    EntriesKept lo hi s (sendCells k s p) := by
  induction k generalizing s with
  | zero => exact .refl s
  | succ k ih =>
    unfold sendCells
    split
    · exact .refl s
    next t ht => exact (sendCell_entriesKept hhi ht).trans (ih t)

theorem sendOn_entriesKept {lo hi : Nat} (hhi : hi ≤ dkey 0x7000 0) (s : State) (p w : Nat) (m : Msg) :
    EntriesKept lo hi s (sendOn s p w m) := by
  unfold sendOn pumpPort
  exact EntriesKept.trans (.of_dict_eq rfl) (sendCells_entriesKept hhi _ _ _)

theorem trySend_entriesKept {lo hi : Nat} (hhi : hi ≤ dkey 0x7000 0) {s t : State} {m : Msg} (h : trySend s m = some t) :
    EntriesKept lo hi s t := by
  unfold trySend at h
  split at h
  · cases h
    exact .of_dict_eq (beginReq_dict _ m)
  · split at h
    · cases h
    · cases h
      exact sendOn_entriesKept hhi s _ _ m

theorem discardMsg_entriesKept {lo hi : Nat} (hhi : hi ≤ dkey 0x7000 0) (s : State) : EntriesKept lo hi s (discardMsg s) :=
  .trans (.setReg_outside s _ (by unfold dkey at *; omega)) (raise_entriesKept _ _)

theorem sendOrDrop_entriesKept {lo hi : Nat} (hhi : hi ≤ dkey 0x7000 0) (s : State) (m : Msg) :
    EntriesKept lo hi s (sendOrDrop s m) := by
  unfold sendOrDrop
  split
  next ht => exact trySend_entriesKept hhi ht
  · exact discardMsg_entriesKept hhi s

/-! Reports of events store NOTIFY's count and entries from 7000h on. -/

theorem notify_entriesKept {lo hi : Nat} (hlo : dkey 0x1011 0 ≤ lo) (s : State) (bit index sub : Nat) (payload : List Byte) :
    EntriesKept lo hi s (notify s bit index sub payload) :=
  .of_sameEntriesBut (notify_sameEntriesBut s bit index sub payload) fun k hk => by
    rw [List.mem_singleton.mp hk]
    unfold dkey at *
    omega

theorem faultNotice_entriesKept {lo hi : Nat} (hhi : hi ≤ dkey 0x7000 0) (s : State) (entry : List Byte) :
    EntriesKept lo hi s (faultNotice s entry) := by
  have hports : ∀ body, EntriesKept lo hi s (noticeAll s 1 body) :=
    fun _ => .foldl (fun t p => sendOn_entriesKept hhi t p _ _) _ s
  unfold faultNotice
  exact (hports _).trans (.foldl (fun t _ => sendOrDrop_entriesKept hhi t _) _ _)

theorem driveFaultN_entriesKept {lo hi : Nat} (s : State) : EntriesKept lo hi s (driveFaultN s) :=
  .trans (.of_dict_eq rfl) (setCond_signalsOnly _ _ _).entriesKept

theorem report_entriesKept {lo hi : Nat} (hlo : dkey 0x1011 0 ≤ lo) (hhi : hi ≤ dkey 0x7000 0) (s : State) (e : Event)
    (entry : List Byte) : EntriesKept lo hi s (report s e entry) := by
  unfold report
  extract_lets s1 s2 s3 s4
  have h1 : EntriesKept lo hi s s1 := .foldl raise_entriesKept _ s
  have h2 : EntriesKept lo hi s1 s2 := notify_entriesKept hlo s1 _ _ _ _
  have h3 : EntriesKept lo hi s2 s3 := .ite (faultNotice_entriesKept hhi s2 entry)
  have h4 : EntriesKept lo hi s3 s4 := .ite (driveFaultN_entriesKept s3)
  exact h1.trans (h2.trans (h3.trans (h4.trans (.ite (.of_dict_eq rfl)))))

theorem logEvent_entriesKept {lo hi : Nat} (hlo : dkey 0x1011 0 ≤ lo) (hhi : hi ≤ dkey 0x7000 0) (s : State) (e : Event) :
    EntriesKept lo hi s (logEvent s e) := by
  have hstore : ∀ t i sub v, 0x7000 ≤ i → EntriesKept lo hi t (setReg t i sub v) :=
    fun t i sub v hi => .setReg_outside t v (by unfold dkey at *; omega)
  have htest : ∀ t d x, EntriesKept lo hi t (addTest t e d x) := fun t d x => by
    unfold addTest
    dsimp only
    split
    · exact .of_dict_eq rfl
    · exact .of_dict_eq rfl
  have hentry : ∀ t n, EntriesKept lo hi t (writeEntryOf t e n) := fun t n => by
    unfold writeEntryOf
    extract_lets k entry t1 t2
    have h1 : EntriesKept lo hi t t1 := .of_dict_eq (domWrite_dict ..)
    have h2 : EntriesKept lo hi t1 t2 := (hstore t1 0x8100 2 _ (by decide)).trans (hstore _ 0x8101 1 _ (by decide))
    exact h1.trans (h2.trans (report_entriesKept hlo hhi t2 e entry))
  have hcount : EntriesKept lo hi s (countMs s e) := .ite (.of_dict_eq rfl)
  unfold logEvent
  dsimp only
  split
  · exact (hstore s 0x8100 3 _ (by decide)).trans (.foldl (fun t x => htest t _ x) _ _)
  · exact (hcount.trans (hentry _ 0)).trans (.foldl (fun t x => htest t _ x) _ _)

end Sys2Proof.Machine
end

section
/-! SUPPORT. A reset of a context stops its work (R106, R199, R253, R318). The stops store outside 4000h to 4FFFh, where the
entries of the contexts and of the scrub stand. -/

namespace Sys2Proof.Machine

/-- The entries of 4000h to 4FFFh read in `t` as in `s`. -/
abbrev ContextEntriesKept (s t : State) : Prop := EntriesKept (dkey 0x4000 0) (dkey 0x5000 0) s t

/-- A counter of an entry outside them, and an interrupt. -/
theorem bump_raise_contextEntriesKept (s : State) {i sub : Nat} (n : Nat)
    (h : dkey i sub < dkey 0x4000 0 ∨ dkey 0x5000 0 ≤ dkey i sub) : ContextEntriesKept s (raise (bump s i sub) n) :=
  .trans (.setReg_outside s _ h) (raise_entriesKept _ n)

/-! Captures (R169 to R171, R180). -/

theorem releaseTaps_entriesKept {lo hi : Nat} (hlo : dkey 0x2031 0 ≤ lo) (s : State) : EntriesKept lo hi s (releaseTaps s) :=
  .of_sameEntriesBut (releaseTaps_sameEntriesBut s) fun k hk => by
    have htap : k < dkey 0x2031 0 := by revert k; decide
    omega

theorem dropSample_entriesKept {lo hi : Nat} (hhi : hi ≤ dkey 0x6120 0) (s : State) (a : Nat) :
    EntriesKept lo hi s (dropSample s a) :=
  .trans (.setReg_outside s _ (by unfold dkey at *; omega)) (raise_entriesKept _ _)

theorem discardChecks_entriesKept {lo hi : Nat} (hlo : dkey 0x2031 0 ≤ lo) (hhi : hi ≤ dkey 0x6120 0) (s : State)
    (c : Nat) : EntriesKept lo hi s (discardChecks s c) := by
  have hgone : ∀ (l : List Capture) t, EntriesKept lo hi t (l.foldl (fun t x => dropSample t x.array) t) :=
    fun l t => .foldl (fun t _ => dropSample_entriesKept hhi t _) l t
  unfold discardChecks
  extract_lets gone s1
  have h1 : EntriesKept lo hi s s1 := (hgone gone _).after_update
  exact h1.trans (releaseTaps_entriesKept hlo _).after_update

theorem discardCaps_contextEntriesKept (s : State) (tag : Nat) (p : Capture → Bool) :
    ContextEntriesKept s (discardCaps s tag p) := by
  unfold discardCaps
  exact (releaseTaps_entriesKept (by decide) _).after_update

theorem noteWide_contextEntriesKept (s : State) (o : Op) (addr outer : Nat) :
    ContextEntriesKept s (noteWide s o addr outer) := by
  unfold noteWide
  split
  · exact .refl s
  · exact logEvent_entriesKept (by decide) (by decide) s _

theorem captureTile_contextEntriesKept (s : State) (a ii tile : Nat) (o : Op) (rows cols : List Nat) (cIn : SMap Acc) :
    ContextEntriesKept s (captureTile s a ii tile o rows cols cIn) := by
  have hdrop := dropSample_entriesKept (lo := dkey 0x4000 0) (hi := dkey 0x5000 0) (by decide) s a
  unfold captureTile
  extract_lets d r k fid wa wb size skip s0 s1
  split
  · exact hdrop
  · split
    · exact hdrop
    · have h0 : ContextEntriesKept s s0 :=
        .ite ((noteWide_contextEntriesKept s o _ _).trans (noteWide_contextEntriesKept _ o _ _))
      have h1 : ContextEntriesKept s0 s1 := .ite (.setReg_outside s0 _ (by unfold dkey; omega))
      exact (h0.trans h1).trans (.of_dict_eq rfl)

theorem offerTile_contextEntriesKept (s : State) (a ii tile : Nat) (o : Op) (rows cols : List Nat) (cIn : SMap Acc) :
    ContextEntriesKept s (offerTile s a ii tile o rows cols cIn) := by
  unfold offerTile
  exact .ite (.trans (.ite (captureTile_contextEntriesKept s a ii tile o rows cols cIn))
    (.setReg_outside _ _ (by unfold dkey; omega)))

/-! Matrix operations: the one that stops, and what begins behind it (R106, R79 to R81). -/

theorem noteStop_dict (s : State) (comm num t : Nat) : (noteStop s comm num t).dict = s.dict := by
  unfold noteStop
  split
  · rfl
  · rfl

theorem finishIfDone_dict (s : State) (tag : Nat) : (finishIfDone s tag).dict = s.dict := by
  unfold finishIfDone
  split
  · rfl
  · rfl

theorem stopAt_contextEntriesKept (s : State) (tag st t : Nat) : ContextEntriesKept s (stopAt s tag st t) := by
  unfold stopAt
  split
  · exact .refl s
  next o _ =>
    split
    · split
      · exact .refl s
      · exact (discardCaps_contextEntriesKept _ tag _).after_update
    · extract_lets k p front s1 p1 s2 s3 s4
      have h1 : ContextEntriesKept s s1 := discardCaps_contextEntriesKept s tag _
      have h4 : ContextEntriesKept s3 s4 := .ite (.of_dict_eq (noteStop_dict s3 _ _ _))
      exact h1.trans ((h4.trans (.of_dict_eq (finishIfDone_dict s4 tag))).after_update)

theorem beginTile_contextEntriesKept (s : State) (a ii t : Nat) (o : Op) : ContextEntriesKept s (beginTile s a ii t o) := by
  unfold beginTile
  dsimp only
  split
  · exact stopAt_contextEntriesKept s _ _ t
  · exact (offerTile_contextEntriesKept _ a ii t o _ _ _).after_update

theorem beginOp_contextEntriesKept (s : State) (a ii : Nat) : ContextEntriesKept s (beginOp s a ii) := by
  unfold beginOp
  dsimp only
  split
  · exact .refl s
  · split
    · exact .of_dict_eq rfl
    · split
      · exact .refl s
      · split
        · exact .of_dict_eq (finishIfDone_dict _ _)
        · split
          · split
            · exact .refl s
            · exact .of_dict_eq (finishIfDone_dict _ _)
          · exact (beginTile_contextEntriesKept _ a ii _ _).after_update

theorem settle_contextEntriesKept (n : Nat) (s : State) (a ii : Nat) : ContextEntriesKept s (settle n s a ii) := by
  induction n generalizing s with
  | zero => exact .refl s
  | succ n ih =>
    unfold settle
    dsimp only
    split
    · exact .refl s
    · exact (beginOp_contextEntriesKept s a ii).trans (ih _)

theorem stopMatrixGo_contextEntriesKept (s : State) (tag st : Nat) : ContextEntriesKept s (stopMatrixGo s tag st) := by
  have hstop : ContextEntriesKept s (stopMatrix s tag st) := by
    unfold stopMatrix
    split
    · exact .refl s
    · exact stopAt_contextEntriesKept s tag st _
  unfold stopMatrixGo
  split
  · exact .refl s
  · exact hstop.trans ((settle_contextEntriesKept _ _ _ _).trans (showIdle_signalsOnly _ _).entriesKept)

/-! Programs and waits (R129, R250 to R253). -/

theorem stopProg_contextEntriesKept (s : State) (n : Nat) (k : WorkClass) (p : Prog) (st : Nat) :
    ContextEntriesKept s (stopProg s n k p st) := by
  unfold stopProg
  dsimp only
  split
  · split
    · exact .of_dict_eq rfl
    · exact (stopMatrixGo_contextEntriesKept _ _ st).after_update
  · split
    · exact .of_dict_eq rfl
    · exact .of_dict_eq rfl

theorem acquireEffect_contextEntriesKept (s : State) (scope : Nat) (prog : Bool) :
    ContextEntriesKept s (acquireEffect s scope prog) := by
  have hcount : ∀ t, ContextEntriesKept t (bump t 0x2500 6) := fun t => .setReg_outside t _ (by decide)
  unfold acquireEffect
  extract_lets s1
  have h1 : ContextEntriesKept s s1 := .ite (hcount _).after_update
  exact h1.trans (.ite (hcount _).after_update)

theorem newRun_dict (s : State) (tag : Nat) : (newRun s tag).dict = s.dict := by
  unfold newRun
  split
  · rfl
  · dsimp only
    split
    · rfl
    · rfl

theorem endWait_contextEntriesKept (s : State) (w : WaitReq) (st : Nat) : ContextEntriesKept s (endWait s w st) := by
  unfold endWait
  extract_lets s1 late s2 s3
  have h1 : ContextEntriesKept s s1 := .of_dict_eq rfl
  have h2 : ContextEntriesKept s1 s2 := .ite (bump_raise_contextEntriesKept s1 _ (by decide))
  have h3 : ContextEntriesKept s2 s3 := .ite (acquireEffect_contextEntriesKept s2 _ _)
  refine h1.trans (h2.trans (h3.trans ?_))
  split
  · exact .of_dict_eq (newRun_dict s3 w.tag)
  · split
    · exact .refl s3
    · split
      · exact .refl s3
      · split
        · exact .of_dict_eq rfl
        · exact stopProg_contextEntriesKept s3 _ _ _ st

theorem resetWaits_contextEntriesKept (s : State) (c : Nat) : ContextEntriesKept s (resetWaits s c) := by
  unfold resetWaits
  refine .trans (.foldl (fun t w => endWait_contextEntriesKept t w _) _ s) (.foldl (fun t w => ?_) _ _)
  exact (endWait_contextEntriesKept t w _).trans (bump_raise_contextEntriesKept _ _ (by decide))

/-! Buckets (R287, R295). -/

theorem sendColl_contextEntriesKept (s : State) (op kind c rank bucket : Nat) (shadow : Bool) (seq target idx per : Nat)
    (body : List Byte) : ContextEntriesKept s (sendColl s op kind c rank bucket shadow seq target idx per body) := by
  unfold sendColl
  exact .foldl (fun t _ => sendOrDrop_entriesKept (by decide) t _) _ s

theorem ctrlTo_contextEntriesKept (s : State) (b : Bucket) (kind rank target idx : Nat) (body : List Byte) :
    ContextEntriesKept s (ctrlTo s b kind rank target idx body) := sendColl_contextEntriesKept s _ _ _ _ _ _ _ _ _ _ _

theorem sendAbort_contextEntriesKept (s : State) (b : Bucket) (st : Nat) : ContextEntriesKept s (sendAbort s b st) :=
  .foldl (fun t _ => ctrlTo_contextEntriesKept t b _ _ _ _ _) _ s

theorem failStep_dict (s : State) (b : Bucket) (st : Nat) : (failStep s b st).dict = s.dict := by
  unfold failStep
  split
  · dsimp only
    split
    · rfl
    · rfl
  · rfl

theorem endCollective_contextEntriesKept (s : State) (c seq : Nat) : ContextEntriesKept s (endCollective s c seq) := by
  have hdigest : ∀ u, ContextEntriesKept s (digestEntry s c seq u) := fun u => by
    unfold digestEntry
    extract_lets crcs dig q1 n s1
    have h1 : ContextEntriesKept s s1 := .of_dict_eq (domWrite_dict ..)
    exact h1.trans (.trans (.setReg_outside s1 _ (by decide)) (raise_entriesKept _ _))
  unfold endCollective
  dsimp only
  split
  · exact .refl s
  · split
    · refine (hdigest _).trans ((EntriesKept.setReg_outside _ _ (i := 0x7100 + c) (sub := 3) ?_).trans (.of_dict_eq rfl))
      unfold dkey
      omega
    · exact .refl s

theorem finishBucket_contextEntriesKept (s : State) (b : Bucket) (st : Nat) : ContextEntriesKept s (finishBucket s b st) := by
  unfold finishBucket
  extract_lets r s0 s1 s2 u o s3 s4
  have h0 : ContextEntriesKept s s0 := by
    unfold s0
    split
    · exact .refl s
    · exact .of_dict_eq rfl
  have h4 : ContextEntriesKept s3 s4 := .of_dict_eq (failStep_dict s3 b st)
  exact h0.trans ((h4.trans (.trans (.ite (sendAbort_contextEntriesKept s4 b st))
    (endCollective_contextEntriesKept _ _ _))).after_update)

theorem announceStop_contextEntriesKept (s : State) (b : Bucket) : ContextEntriesKept s (announceStop s b) := by
  have hask : ∀ t x k v, ContextEntriesKept t (askBackup t x k v) := fun t x k v =>
    (ctrlTo_contextEntriesKept _ x _ _ _ _ _).after_update
  have hmiss : ∀ t x k, ContextEntriesKept t (missStream t x k endIncomplete) := fun t x k => by
    unfold missStream
    split
    · exact (sendAbort_contextEntriesKept t x _).trans (finishBucket_contextEntriesKept _ x _)
    · exact .ite_both (.refl t) (hask t x k _)
  unfold announceStop
  extract_lets r me b1 lost lead dst s1 b2
  have h1 : ContextEntriesKept s s1 :=
    (EntriesKept.foldl (fun t _ => ctrlTo_contextEntriesKept t b1 _ _ _ _ _) dst _).after_update
  exact h1.trans (.ite ((hmiss _ b2 me).after_update))

/-! Operations of the other kinds, steps and queues. -/

theorem stopDma_contextEntriesKept (s : State) (tag st : Nat) : ContextEntriesKept s (stopDma s tag st) := by
  have hfinish : ∀ t, ContextEntriesKept t (finishDma t tag) := fun t => by
    unfold finishDma dmaError
    split
    · exact .refl t
    · split
      · exact .refl t
      · split
        · exact .of_dict_eq rfl
        · exact (raise_entriesKept _ _).after_update
  unfold stopDma
  extract_lets mine n s1
  exact (hfinish s1).after_update

theorem stopOp_contextEntriesKept (s : State) (o : Op) (st : Nat) : ContextEntriesKept s (stopOp s o st) := by
  unfold stopOp
  split
  · exact stopMatrixGo_contextEntriesKept s _ st
  · split
    · dsimp only
      split
      · split
        · exact stopProg_contextEntriesKept s _ _ _ st
        · exact .of_dict_eq rfl
      · exact .of_dict_eq rfl
    · split
      · exact stopDma_contextEntriesKept s _ st
      · exact .refl s

theorem stopWork_contextEntriesKept (st : Nat) (s : State) (tag : Nat) : ContextEntriesKept s (stopWork st s tag) := by
  unfold stopWork
  split
  · exact .refl s
  next o _ =>
    split
    · exact .refl s
    · split
      · exact stopOp_contextEntriesKept s o st
      · exact stopOp_contextEntriesKept s o st
      · exact stopOp_contextEntriesKept s o st
      · exact .of_dict_eq rfl
      · split
        · exact .of_dict_eq rfl
        · exact finishBucket_contextEntriesKept s _ st

theorem writeNorm_contextEntriesKept (s : State) (key st : Nat) : ContextEntriesKept s (writeNorm s key st) := by
  have hcount : ∀ t sub n v, ContextEntriesKept t (raise (setReg t 0x6400 sub v) n) := fun t sub n v =>
    .trans (.setReg_outside t v (by unfold dkey; omega)) (raise_entriesKept _ n)
  unfold writeNorm
  extract_lets u0 c
  split
  · exact .of_dict_eq rfl
  · extract_lets a u s1 s2 s3 s4
    have h1 : ContextEntriesKept s s1 := .ite ((EntriesKept.setReg_outside _ _ (by decide)).after_update)
    have h2 : ContextEntriesKept s1 s2 := hcount s1 5 _ _
    have h3 : ContextEntriesKept s2 s3 := .ite (hcount s2 3 _ _)
    have h4 : ContextEntriesKept s3 s4 := .ite (hcount s3 4 _ _)
    exact h1.trans (h2.trans (h3.trans (h4.trans (.of_dict_eq rfl))))

theorem flushSlots_contextEntriesKept (n : Nat) (s : State) (c q : Nat) (tags : List Nat) :
    ContextEntriesKept s (flushSlots s c q n tags) := by
  have hskip : ∀ t, ContextEntriesKept t (bump t 0x2020 5) := fun t => .setReg_outside t _ (by decide)
  have hask : ∀ t, ContextEntriesKept t (askHostSlot t q) := fun t => by
    unfold askHostSlot
    exact .ite (.of_dict_eq rfl)
  induction n generalizing s tags with
  | zero => exact .refl s
  | succ n ih =>
    unfold flushSlots
    dsimp only
    split
    · exact .of_dict_eq rfl
    · split
      · split
        · split
          · exact (hask _).after_update
          · exact ((hskip _).trans (ih _ _)).after_update
        · split
          · exact .refl s
          · exact (ih _ _).after_update
      · split
        · split
          · exact .refl s
          · exact (ih _ _).after_update
        · exact ((hskip _).trans (ih _ _)).after_update

theorem setQState_entriesKept {lo hi : Nat} (hlo : dkey 0x2140 0 ≤ lo) (s : State) {q : Nat} (hq : q < 64) (st : Nat) :
    EntriesKept lo hi s (setQState s q st) :=
  .trans (.setReg_outside s st (by unfold dkey at *; omega)) (setCond_signalsOnly _ _ _).entriesKept

theorem lt_of_mem_bitsOf {w n i : Nat} (h : i ∈ bitsOf w n) : i < n := List.mem_range.mp (List.mem_filter.mp h).1

theorem returnQueues_contextEntriesKept (s : State) (c : Nat) : ContextEntriesKept s (returnQueues s c) :=
  .foldl_mem _ s fun q hq t => (flushSlots_contextEntriesKept _ t c q _).trans
    (setQState_entriesKept (by decide) _ (lt_of_mem_bitsOf hq) 0)

theorem poisonObjs_dict (s : State) (c : Nat) : (poisonObjs s c).dict = s.dict := by
  have hfold : ∀ (l : List Nat) (f : State → Nat → Nat) (g : State → Nat → SyncObj) (t : State),
      (l.foldl (fun t i => setObj t (f t i) (g t i)) t).dict = t.dict := by
    intro l f g
    induction l with
    | nil => exact fun _ => rfl
    | cons i l ih => exact fun t => ih _
  exact hfold _ _ _ s

/-- The state before its own entries are stored: everything of the context has stopped (R199). -/
def contextStopped (s : State) (c : Nat) : State :=
  let s1 := resetWaits s c
  let s2 := announceStops (((s1.ops.filter (fun o => o.ctx == c)).map Op.tag).foldl (stopWork stContextReset) s1)
  let s3 := (stepsOf (discardChecks s2 c) c).foldl (fun t k => writeNorm t k stContextReset) (discardChecks s2 c)
  let s4 := if ctxHolds s c then poisonObjs s3 c else s3
  if ctxHolds s c then returnQueues s4 c else s4

theorem contextStopped_contextEntriesKept (s : State) (c : Nat) : ContextEntriesKept s (contextStopped s c) := by
  unfold contextStopped
  extract_lets s1 s2 s3 s4
  have h1 : ContextEntriesKept s s1 := resetWaits_contextEntriesKept s c
  have h2 : ContextEntriesKept s1 s2 := .trans (.foldl (fun t tag => stopWork_contextEntriesKept _ t tag) _ s1)
    (.foldl announceStop_contextEntriesKept _ _)
  have h3 : ContextEntriesKept s2 s3 := .trans (discardChecks_entriesKept (by decide) (by decide) s2 c)
    (.foldl (fun t k => writeNorm_contextEntriesKept t k _) _ _)
  have h4 : ContextEntriesKept s3 s4 := .ite (.of_dict_eq (poisonObjs_dict s3 c))
  exact h1.trans (h2.trans (h3.trans (h4.trans (.ite (returnQueues_contextEntriesKept s4 c)))))

/-- A save that has not written its image. -/
def savingImage (s : State) (c : Nat) : Bool :=
  match ctxRun s c with
  | none => false
  | some u => (u.cmd == 2 || u.cmd == 3) && u.phase == 0

theorem resetContext_eq (s : State) (c : Nat) : resetContext s c =
    let t := dropUnsent { contextStopped s c with ctxs := SMap.drop (contextStopped s c).ctxs c,
                                                  syncPoison := setBit (contextStopped s c).syncPoison c true } (ofContext c)
    setCtxState (if savingImage s c then setReg t (0x4100 + c) 5 0 else t) c 1 := rfl

theorem ctxRun_resetContext (s : State) (c : Nat) : ctxRun (resetContext s c) c = none := by
  rw [resetContext_eq]
  have hdrop : SMap.find (SMap.drop (contextStopped s c).ctxs c) c = none := by rw [SMap.find_drop, if_pos rfl]
  dsimp only
  split
  · exact hdrop
  · exact hdrop

theorem ctxState_resetContext_same (s : State) (c : Nat) : ctxState (resetContext s c) c = 1 := reg_setReg_same ..

theorem ctxState_resetContext_ne (s : State) {c d : Nat} (hd : d < 64) (h : d ≠ c) :
    ctxState (resetContext s c) d = ctxState s d := by
  have hstopped := contextStopped_contextEntriesKept s c (0x4100 + d) 2 (by unfold dkey; omega) (by unfold dkey; omega)
  rw [resetContext_eq, ctxState, setCtxState, reg_setReg_ne _ _ (by unfold dkey; omega)]
  dsimp only
  split
  · rw [reg_setReg_ne _ _ (by unfold dkey; omega)]
    exact hstopped
  · exact hstopped

end Sys2Proof.Machine
end

section
/-! SUPPORT. The owner-change scrub (R203) and the patrol scrub (R396), and what both leave alone. -/

namespace Sys2Proof.Machine

/-! Reports leave these fields too. -/

namespace ReportsOnly

variable {s t : State}

theorem hbm_eq (h : ReportsOnly s t) : t.hbm = s.hbm := by
  obtain ⟨_, _, _, _, _, _, _, _, _, rfl⟩ := h
  rfl

theorem sync_eq (h : ReportsOnly s t) : t.sync = s.sync := by
  obtain ⟨_, _, _, _, _, _, _, _, _, rfl⟩ := h
  rfl

theorem caches_eq (h : ReportsOnly s t) : t.rtCache = s.rtCache ∧ t.rrCache = s.rrCache := by
  obtain ⟨_, _, _, _, _, _, _, _, _, rfl⟩ := h
  exact ⟨rfl, rfl⟩

end ReportsOnly

theorem fieldNotify_staged (s : State) (f : List Byte) : (fieldNotify s f).frames.staged = s.frames.staged := by
  unfold fieldNotify
  dsimp only
  split
  · rfl
  · split
    · rfl
    · split
      · rfl
      · rfl

theorem SignalsOnly.frames_eq {s t : State} (h : SignalsOnly s t) : t.frames = s.frames := by
  obtain ⟨_, _, _, rfl⟩ := h
  rfl

theorem notify_staged (s : State) (bit index sub : Nat) (payload : List Byte) :
    (notify s bit index sub payload).frames.staged = s.frames.staged := by
  unfold notify
  split
  · rw [fieldNotify_staged, (raise_signalsOnly _ _).frames_eq]
  · rfl

/-! The steps of the scrub's start, in their order. -/

/-- What every step of a fold keeps. -/
theorem foldl_invariant {α : Type} {P : State → Prop} {f : State → α → State} (hkeep : ∀ y t, P t → P (f t y)) (xs : List α)
    {s : State} (h : P s) : P (xs.foldl f s) := by
  induction xs generalizing s with
  | nil => exact h
  | cons y ys ih => exact ih (hkeep y s h)

/-- What the step of one element brings about, and the others keep. -/
theorem foldl_of_mem {α : Type} {P : State → Prop} {f : State → α → State} {xs : List α} {x : α} (hx : x ∈ xs)
    (hset : ∀ t, P (f t x)) (hkeep : ∀ y t, P t → P (f t y)) (s : State) : P (xs.foldl f s) := by
  induction xs generalizing s with
  | nil => cases hx
  | cons y ys ih =>
    rcases List.mem_cons.mp hx with rfl | hmem
    · exact foldl_invariant hkeep ys (hset s)
    · exact ih hmem _

def contextsFreed (s : State) : State :=
  (List.range 64).foldl (fun t c => setReg (setCtxState t c 0) (0x4100 + c) 1 0)
    (((List.range 64).filter (fun c => ctxState s c != 0)).foldl resetContext s)

def commsDropped (s : State) : State :=
  ((List.range 256).filter (commActive s)).foldl (fun t c => setReg (dropComm t c) (0x7100 + c) 2 0) s

def areasReleased (s : State) : State := (s.hbm.areas.map Prod.fst).foldl releaseArea s

theorem startScrub_eq (s : State) :
    startScrub s = setReg (discardStaged (areasReleased (commsDropped (contextsFreed s)))) 0x4002 2 1 := by
  unfold startScrub areasReleased commsDropped contextsFreed
  rfl

theorem contextsFreed_free (s : State) {c : Nat} (hc : c < 64) :
    ctxState (contextsFreed s) c = 0 ∧ ctxRec (contextsFreed s) c = 0 := by
  refine foldl_of_mem (P := fun t => ctxState t c = 0 ∧ ctxRec t c = 0) (List.mem_range.mpr hc) (fun t => ⟨?_, ?_⟩)
    (fun d t h => ?_) _
  · rw [ctxState, reg_setReg_ne _ _ (by unfold dkey; omega)]
    exact reg_setReg_same ..
  · exact reg_setReg_same ..
  · obtain ⟨hstate, hrec⟩ := h
    by_cases hd : d = c
    · subst hd
      exact ⟨(reg_setReg_ne _ _ (by unfold dkey; omega)).trans (reg_setReg_same ..), reg_setReg_same ..⟩
    · have hother : ∀ sub, sub < 256 →
          reg (setReg (setCtxState t d 0) (0x4100 + d) 1 0) (0x4100 + c) sub = reg t (0x4100 + c) sub := fun sub hsub => (reg_setReg_ne _ _ (by unfold dkey; omega)).trans (reg_setReg_ne _ _ (by unfold dkey; omega))
      exact ⟨(hother 2 (by decide)).trans hstate, (hother 1 (by decide)).trans hrec⟩

theorem commActive_commsDropped (s : State) {c : Nat} (hc : c < 256) : commActive (commsDropped s) c = false := by
  have hset : ∀ t, commActive (setReg (dropComm t c) (0x7100 + c) 2 0) c = false := fun t => by
    rw [commActive, reg_setReg_same]
    rfl
  have hkeep : ∀ d t, commActive t c = false → commActive (setReg (dropComm t d) (0x7100 + d) 2 0) c = false := by
    intro d t h
    by_cases hd : d = c
    · subst hd
      exact hset t
    · rw [commActive, reg_setReg_ne _ _ (by unfold dkey; omega)]
      exact h
  unfold commsDropped
  by_cases hactive : commActive s c = true
  · exact foldl_of_mem (List.mem_filter.mpr ⟨List.mem_range.mpr hc, hactive⟩) hset hkeep s
  · exact foldl_invariant hkeep _ (Bool.eq_false_iff.mpr hactive)

theorem commsDropped_contextsKept (s : State) : EntriesKept (dkey 0x4100 0) (dkey 0x4140 0) s (commsDropped s) :=
  .foldl (fun t c => (EntriesKept.setReg_outside _ _ (by unfold dkey; omega)).after_update) _ s

theorem areas_foldl_releaseArea (l : List Nat) (s : State) :
    ∀ e ∈ (l.foldl releaseArea s).hbm.areas, e ∈ s.hbm.areas ∧ e.1 ∉ l := by
  induction l generalizing s with
  | nil => exact fun e he => ⟨he, List.not_mem_nil⟩
  | cons n l ih =>
    intro e he
    obtain ⟨hmem, hl⟩ := ih (releaseArea s n) e he
    obtain ⟨hs, hn⟩ := List.mem_filter.mp hmem
    exact ⟨hs, List.not_mem_cons_of_ne_of_not_mem (by simpa using hn) hl⟩

theorem areasReleased_areas (s : State) : (areasReleased s).hbm.areas = [] :=
  List.eq_nil_iff_forall_not_mem.mpr fun e he =>
    have h := areas_foldl_releaseArea _ s e he
    h.2 (List.mem_map_of_mem h.1)

theorem areasReleased_dict (s : State) : (areasReleased s).dict = s.dict :=
  foldl_invariant (P := fun t => t.dict = s.dict) (f := releaseArea) (fun _ _ h => h) _ rfl

/-- R358: a unit returns to APPLIED by one entry, with a NOTIFY. -/
theorem returnApplied_entriesKept {lo hi : Nat} (hlo : dkey 0x2011 0 ≤ lo) (s : State) {u : Nat} (hu : u < 4) :
    EntriesKept lo hi s (returnApplied s u) :=
  .trans (.setReg_outside s _ (by unfold dkey at *; omega)) (notify_entriesKept (by unfold dkey at *; omega) _ _ _ _ _)

theorem discardStaged_entriesKept {lo hi : Nat} (hlo : dkey 0x2011 0 ≤ lo) (s : State) :
    EntriesKept lo hi s (discardStaged s) :=
  (EntriesKept.foldl_mem _ _ fun _ hu t =>
    returnApplied_entriesKept hlo t (List.mem_range.mp (List.mem_filter.mp hu).1)).after_update

theorem discardStaged_staged (s : State) : (discardStaged s).frames.staged = [] :=
  foldl_invariant (P := fun t => t.frames.staged = []) (f := returnApplied)
    (fun u t h => (notify_staged (setReg t 0x2010 (2 + u) 0) _ _ _ _).trans h) _ rfl

theorem discardStaged_reportsOnly (s : State) : ReportsOnly s (discardStaged s) := by
  refine ReportsOnly.trans ?_ (.foldl (fun t u => (setReg_reportsOnly t _ _ _).trans (notify_reportsOnly _ _ _ _ _)) _ _)
  exact .of_update ..

/-- The staged values and the areas go after the contexts and communicators, whose entries stay. -/
theorem startScrub_entriesKept {hi : Nat} (s : State) :
    EntriesKept (dkey 0x4003 0) hi (commsDropped (contextsFreed s)) (startScrub s) := by
  rw [startScrub_eq]
  exact .trans ((discardStaged_entriesKept (by decide) _).after_update (areasReleased_dict _))
    (.setReg_outside _ _ (.inl (by decide)))

theorem startScrub_contexts (s : State) {c : Nat} (hc : c < 64) :
    ctxState (startScrub s) c = 0 ∧ ctxRec (startScrub s) c = 0 := by
  obtain ⟨hstate, hrec⟩ := contextsFreed_free s hc
  have hkept : ∀ sub, sub < 256 → reg (startScrub s) (0x4100 + c) sub = reg (contextsFreed s) (0x4100 + c) sub :=
    fun sub hsub => (startScrub_entriesKept (hi := dkey 0x4140 0) s _ _ (by unfold dkey; omega) (by unfold dkey; omega)).trans
      (commsDropped_contextsKept _ _ _ (by unfold dkey; omega) (by unfold dkey; omega))
  exact ⟨(hkept 2 (by decide)).trans hstate, (hkept 1 (by decide)).trans hrec⟩

theorem startScrub_comms (s : State) {c : Nat} (hc : c < 256) : commActive (startScrub s) c = false := by
  rw [commActive, startScrub_entriesKept (hi := dkey 0x7200 0) s _ _ (by unfold dkey; omega) (by unfold dkey; omega)]
  exact commActive_commsDropped _ hc

theorem startScrub_staged (s : State) : (startScrub s).frames.staged = [] := by
  rw [startScrub_eq, setReg_frames]
  exact discardStaged_staged _

theorem reg_startScrub_state (s : State) : reg (startScrub s) 0x4002 2 = 1 := by
  rw [startScrub_eq, reg_setReg_same]

theorem startScrub_areas (s : State) : (startScrub s).hbm.areas = [] := by
  rw [startScrub_eq, setReg_hbm, (discardStaged_reportsOnly _).hbm_eq]
  exact areasReleased_areas _

/-! The end of the scrub. -/

/-- Memory, sync objects, the sieve's entries, learned powers and the caches are cleared; DONE is to be announced. -/
def scrubbed (s : State) : State :=
  let s1 := memZero (memZero s loamBase (loamEnd - loamBase)) 0 gweviBase
  let s2 := (List.range 64).foldl clearCtxEntries s1
  { s2 with sync := [], syncPoison := 0, rtCache := [], rrCache := [], reservations := [],
            fab := { s2.fab with reqs := s2.fab.reqs.map noFill } }

theorem endScrub_eq (s : State) :
    endScrub s = notify (raise (setReg (scrubbed s) 0x4002 2 2) (src 6 7)) 3 0x4002 2 [2] := rfl

theorem foldl_clearCtxEntries_frame (l : List Nat) (s : State) :
    (l.foldl clearCtxEntries s).mem = s.mem ∧ (l.foldl clearCtxEntries s).ops = s.ops :=
  foldl_invariant (P := fun t => t.mem = s.mem ∧ t.ops = s.ops) (f := clearCtxEntries) (fun _ _ h => h) l ⟨rfl, rfl⟩

theorem scrubbed_frame (s : State) :
    (scrubbed s).mem = (memZero (memZero s loamBase (loamEnd - loamBase)) 0 gweviBase).mem ∧ (scrubbed s).ops = s.ops := by
  obtain ⟨hmem, hops⟩ := foldl_clearCtxEntries_frame (List.range 64)
    (memZero (memZero s loamBase (loamEnd - loamBase)) 0 gweviBase)
  unfold scrubbed
  dsimp only
  exact ⟨hmem, hops⟩

theorem memByte_scrubbed (s : State) (a : Nat) :
    memByte (scrubbed s) a = if a < gweviBase ∨ (loamBase ≤ a ∧ a < loamEnd) then 0 else memByte s a := by
  have hbytes : memByte (scrubbed s) a = memByte (memZero (memZero s loamBase (loamEnd - loamBase)) 0 gweviBase) a := by
    unfold memByte
    rw [(scrubbed_frame s).1]
  have hend : loamBase + (loamEnd - loamBase) = loamEnd := by decide
  rw [hbytes, memByte_memZero, memByte_memZero, hend]
  by_cases hlow : a < gweviBase
  · simp [hlow]
  · simp [hlow]

theorem endScrub_reportsOnly (s : State) : ReportsOnly (scrubbed s) (endScrub s) := by
  rw [endScrub_eq]
  exact ((setReg_reportsOnly _ _ _ _).trans (raise_reportsOnly _ _)).trans (notify_reportsOnly _ _ _ _ _)

theorem reg_endScrub_state (s : State) : reg (endScrub s) 0x4002 2 = 2 := by
  rw [endScrub_eq, notify_sameEntriesBut _ _ _ _ _ _ _ (by decide), (raise_signalsOnly _ _).reg_eq, reg_setReg_same]

theorem exec_scrubDone {s : State} (hclock : clockOn s = true) (hstop : stopped s = false) (hscrub : scrubbing s = true) :
    exec .scrubDone s = .next (endScrub s) := by
  show execScrubDone s = _
  simp [execScrubDone, hclock, hstop, hscrub]

/-! The patrol scrub. -/

@[simp] theorem lineChecks_clean (s : State) (a : Nat) : lineChecks s a .clean .clean = s := by
  unfold lineChecks
  dsimp only
  split
  · rfl
  · rfl

/-- What a check finds is reported, and its unit may be poisoned. -/
theorem eccFind_reportsOnly (s : State) (a : Nat) (r : EccResult) (ctx : Option Nat) (opId : Nat) :
    ReportsOnly s (eccFind s a r ctx opId) := by
  unfold eccFind
  extract_lets base ic
  cases r with
  | clean => exact .refl s
  | corrected =>
    dsimp only
    split
    · exact .refl s
    · exact (setReg_reportsOnly s _ _ _).trans (logEvent_reportsOnly _ _)
  | uncorrectable =>
    dsimp only
    split
    · exact .refl s
    · refine ReportsOnly.trans ?_ (logEvent_reportsOnly _ _)
      exact .of_update ..

theorem lineChecks_reportsOnly (s : State) (a : Nat) (e0 e1 : EccResult) : ReportsOnly s (lineChecks s a e0 e1) := by
  unfold lineChecks
  dsimp only
  split
  · exact (eccFind_reportsOnly s _ _ _ _).trans (eccFind_reportsOnly _ _ _ _ _)
  · exact eccFind_reportsOnly s _ _ _ _

theorem patrolScrubRead_frame (h : Bool) (e0 e1 : EccResult) (s : State) :
    ∃ t, exec (.patrolScrubRead h e0 e1) s = .next t ∧ t.mem = s.mem ∧ t.ops = s.ops := by
  refine ⟨_, rfl, ?_⟩
  split
  · exact ⟨rfl, rfl⟩
  · split
    · have hchecks := lineChecks_reportsOnly s (64 * s.rel.hbmScrubAt) e0 e1
      exact ⟨hchecks.mem_eq, hchecks.ops_eq⟩
    · have hchecks := lineChecks_reportsOnly s (loamBase + 64 * s.rel.loamScrubAt) e0 e1
      exact ⟨hchecks.mem_eq, hchecks.ops_eq⟩

/-- Settles O29: an accepted START is `startScrub`, the end of the scrub `endScrub`, and a clean patrol read one step of its
address; what the reads of the scrub report stores no byte of memory. -/
theorem scrubsClearTheDeviceAndPatrolReadsMoveOn : Obligations.ScrubsClearTheDeviceAndPatrolReadsMoveOn := by
  refine fun s => ⟨fun p v hok => ?_, fun hclock hstop hscrub => ?_, fun hclock hstart =>
    ⟨fun hpaused => ?_, fun hpaused => ?_, fun h e0 e1 => patrolScrubRead_frame h e0 e1 s⟩⟩
  · have hexec : exec (.scrubStart p v) s = .next (answered (effScrubStart v.toNat s) p) :=
      guarded_of_writeOk (effScrubStart v.toNat) hok
    refine ⟨fun hv hscrub => ?_, fun hother => ?_⟩
    · have heff : effScrubStart v.toNat s = startScrub s := by simp [effScrubStart, hv, hscrub]
      rw [heff] at hexec
      have hstate := reg_startScrub_state s
      have hareas := startScrub_areas s
      have hstaged := startScrub_staged s
      have hcontexts := fun c (hc : c < 64) => startScrub_contexts s hc
      have hcomms := fun c (hc : c < 256) => startScrub_comms s hc
      generalize startScrub s = t at hexec hstate hareas hstaged hcontexts hcomms
      exact ⟨_, hexec, hstate, hareas, hstaged, hcontexts, hcomms⟩
    · rw [hexec, effScrubStart, if_neg]
      rcases hother with hv | hscrub
      · have hne : v.toNat ≠ 1 := fun h => hv (BitVec.eq_of_toNat_eq h)
        simp [hne]
      · simp [hscrub]
  · have hreports := endScrub_reportsOnly s
    obtain ⟨hrt, hrr⟩ := hreports.caches_eq
    refine ⟨_, exec_scrubDone hclock hstop hscrub, fun a => ?_, hreports.sync_eq, hrt, hrr, reg_endScrub_state s, ?_⟩
    · unfold memByte
      rw [hreports.mem_eq]
      exact memByte_scrubbed s a
    · exact hreports.ops_eq.trans (scrubbed_frame s).2
  · show execPatrolScrubRead false .clean .clean s = _
    simp [execPatrolScrubRead, hclock, hstart, hpaused]
  · show execPatrolScrubRead true .clean .clean s = _
    simp [execPatrolScrubRead, hclock, hstart, hpaused]

end Sys2Proof.Machine
end

section
/-! SUPPORT. The parts of the context commands (R195 to R202): the queues they hold, the requests and the answer they send. -/

namespace Sys2Proof.Machine

/-! Queues held (R198). -/

theorem qState_setQState (s : State) (q st r : Nat) : qState (setQState s q st) r = if r = q then st else qState s r := by
  rw [qState, reg_setQState]
  by_cases h : r = q
  · rw [if_pos h, h, reg_setReg_same]
  · rw [if_neg h, reg_setReg_ne _ _ (by unfold dkey; omega)]
    rfl

/-- Every queue of a list is put into a state. -/
def setQStates (s : State) (l : List Nat) (st : Nat) : State := l.foldl (fun t q => setQState t q st) s

theorem qState_setQStates (s : State) (l : List Nat) (st q : Nat) :
    qState (setQStates s l st) q = if q ∈ l then st else qState s q := by
  unfold setQStates
  induction l generalizing s with
  | nil => rfl
  | cons r l ih =>
    rw [List.foldl_cons, ih, qState_setQState]
    by_cases hl : q ∈ l
    · rw [if_pos hl, if_pos (List.mem_cons_of_mem r hl)]
    · simp [hl]

theorem setQStates_reportsOnly (s : State) (l : List Nat) (st : Nat) : ReportsOnly s (setQStates s l st) :=
  .foldl (fun t _ => (setReg_reportsOnly t _ _ _).trans (setCond_signalsOnly _ _ _).reportsOnly) l s

theorem setQStates_entriesKept {lo hi : Nat} (hlo : dkey 0x2140 0 ≤ lo) (s : State) {l : List Nat} (hl : ∀ q ∈ l, q < 64)
    (st : Nat) : EntriesKept lo hi s (setQStates s l st) :=
  .foldl_mem l s fun _ hq t => setQState_entriesKept hlo t (hl _ hq) st

theorem lt_of_mem_queuesOf {s : State} {c q : Nat} (h : q ∈ queuesOf s c) : q < 64 := lt_of_mem_bitsOf h

/-- The queues of a context that run. -/
def runningQueues (s : State) (c : Nat) : List Nat := (queuesOf s c).filter (fun q => qState s q == 1)

theorem holdQueues_eq (s : State) (c : Nat) : holdQueues s c = setQStates s (runningQueues s c) 2 := rfl

theorem lt_of_mem_runningQueues {s : State} {c q : Nat} (h : q ∈ runningQueues s c) : q < 64 :=
  lt_of_mem_queuesOf (List.mem_filter.mp h).1

theorem qState_holdQueues (s : State) (c q : Nat) :
    qState (holdQueues s c) q = if q ∈ queuesOf s c ∧ qState s q = 1 then 2 else qState s q := by
  simp [holdQueues_eq, qState_setQStates, runningQueues]

theorem holdQueues_reportsOnly (s : State) (c : Nat) : ReportsOnly s (holdQueues s c) := setQStates_reportsOnly s _ 2

theorem holdQueues_entriesKept {lo hi : Nat} (hlo : dkey 0x2140 0 ≤ lo) (s : State) (c : Nat) :
    EntriesKept lo hi s (holdQueues s c) :=
  setQStates_entriesKept hlo s (fun _ h => lt_of_mem_runningQueues h) 2

theorem ReportsOnly.ctxs_eq {s t : State} (h : ReportsOnly s t) : t.ctxs = s.ctxs := by
  obtain ⟨_, _, _, _, _, _, _, _, _, rfl⟩ := h
  rfl

theorem ReportsOnly.ctxRun_eq {s t : State} (h : ReportsOnly s t) (c : Nat) : ctxRun t c = ctxRun s c := by
  unfold ctxRun
  rw [h.ctxs_eq]

theorem ctxState_eq_of_kept {hi : Nat} {s t : State} (h : EntriesKept (dkey 0x4100 0) hi s t) {c : Nat}
    (hhi : dkey 0x4140 0 ≤ hi) (hc : c < 64) : ctxState t c = ctxState s c :=
  h _ _ (by unfold dkey; omega) (by unfold dkey at *; omega)

/-! Requests that read (R275, R276). -/

theorem discardMsg_reportsOnly (s : State) : ReportsOnly s (discardMsg s) :=
  (setReg_reportsOnly s _ _ _).trans (raise_reportsOnly _ _)

theorem unroutable_reportsOnly (s : State) (m : Msg) : ReportsOnly s (unroutable s m) := by
  unfold unroutable
  split
  · exact discardMsg_reportsOnly s
  · exact sendOrDrop_reportsOnly s _

theorem unroutable_entriesKept {lo hi : Nat} (hhi : hi ≤ dkey 0x7000 0) (s : State) (m : Msg) :
    EntriesKept lo hi s (unroutable s m) := by
  unfold unroutable
  exact .ite_both (discardMsg_entriesKept hhi s) (sendOrDrop_entriesKept hhi s _)

theorem sendNow_reportsOnly (s : State) (r : RemoteReq) (m : Msg) : ReportsOnly s (sendNow s r m) := by
  unfold sendNow
  extract_lets t m1 fab s1
  have h1 : ReportsOnly s s1 := .of_update ..
  split
  next ht => exact h1.trans (trySend_reportsOnly ht)
  · exact h1.trans (unroutable_reportsOnly s1 m1)

theorem sendNow_entriesKept {lo hi : Nat} (hhi : hi ≤ dkey 0x7000 0) (s : State) (r : RemoteReq) (m : Msg) :
    EntriesKept lo hi s (sendNow s r m) := by
  unfold sendNow
  extract_lets t m1 fab s1
  split
  next ht => exact (trySend_entriesKept hhi ht).after_update
  · exact (unroutable_entriesKept hhi s1 m1).after_update

theorem sendWaiting_reportsOnly (s : State) : ReportsOnly s (sendWaiting s) := by
  unfold sendWaiting
  refine ReportsOnly.trans ?_ (.foldl (fun t e => ?_) _ _)
  · exact .of_update ..
  · split
    · exact sendNow_reportsOnly t e.1 e.2
    · exact .of_update ..

theorem sendWaiting_entriesKept {lo hi : Nat} (hhi : hi ≤ dkey 0x7000 0) (s : State) : EntriesKept lo hi s (sendWaiting s) := by
  unfold sendWaiting
  refine EntriesKept.after_update (.foldl (fun t e => ?_) _ _)
  exact .ite_both (sendNow_entriesKept hhi t e.1 e.2) (.of_dict_eq rfl)

theorem readRequest_reportsOnly (s : State) (cls addr lines mask : Nat) (body : List Line) (p : Purpose) :
    ReportsOnly s (request s true cls addr lines mask body p) := by
  unfold request
  refine ReportsOnly.trans ?_ (sendWaiting_reportsOnly _)
  exact .of_update ..

theorem readRequest_entriesKept {lo hi : Nat} (hhi : hi ≤ dkey 0x7000 0) (s : State) (cls addr lines mask : Nat)
    (body : List Line) (p : Purpose) : EntriesKept lo hi s (request s true cls addr lines mask body p) := by
  unfold request
  exact (sendWaiting_entriesKept hhi _).after_update

/-! The runs of the commands. -/

theorem ctxRun_setRunning (s : State) (c : Nat) (u : CtxRun) : ctxRun (setRunning s c u) c = some u := by
  rw [ctxRun, setRunning, SMap.find_put, if_pos rfl]

/-- The command in progress in a context. -/
def cmdOf (s : State) (c : Nat) : Option Nat := (ctxRun s c).map CtxRun.cmd

theorem cmdOf_beginCmd (s : State) (c cmd phase : Nat) (fresh : Bool) : cmdOf (beginCmd s c cmd phase fresh) c = some cmd := by
  rw [cmdOf, beginCmd, ctxRun_setRunning]
  rfl

/-- A read from the buddy goes out and is counted in the command's run (R201). -/
theorem buddyRead_frame (s : State) (c off lines : Nat) :
    (buddyRead s c off lines).mem = s.mem ∧ cmdOf (buddyRead s c off lines) c = cmdOf s c ∧
      EntriesKept 0 (dkey 0x7000 0) s (buddyRead s c off lines) := by
  unfold buddyRead
  dsimp only
  split
  · exact ⟨rfl, rfl, .refl s⟩
  next u hrun =>
    have hreports := fun t => readRequest_reportsOnly t 0 (cBuddyDev (ctxRec s c) * 2 ^ 44 + cBuddyAddr (ctxRec s c) + off)
      lines ones64 [] (.ctxImage c u.id off)
    refine ⟨(hreports _).mem_eq, ?_, (readRequest_entriesKept (Nat.le_refl _) _ _ _ _ _ _ _).after_update⟩
    rw [cmdOf, cmdOf, (hreports _).ctxRun_eq, ctxRun_setRunning, hrun]
    rfl

/-! Saves (R198, R202). -/

theorem withdrawAll_frame (s : State) (c : Nat) : (withdrawAll s c).dict = s.dict ∧ (withdrawAll s c).mem = s.mem := by
  refine foldl_invariant (P := fun t => t.dict = s.dict ∧ t.mem = s.mem) (f := withdraw) (fun w t h => ?_) _ ⟨rfl, rfl⟩
  unfold withdraw
  split
  · exact h
  · exact h

theorem discardChecks_mem (s : State) (c : Nat) : (discardChecks s c).mem = s.mem := by
  have hgone : ∀ (l : List Capture) t, ReportsOnly t (l.foldl (fun t x => dropSample t x.array) t) :=
    fun l t => .foldl (fun t _ => (setReg_reportsOnly t _ _ _).trans (raise_reportsOnly _ _)) l t
  unfold discardChecks
  exact (releaseTaps_dictOnly _).mem_eq.trans (hgone _ _).mem_eq

/-- What a save leaves before it begins: its queues are held, its waits withdrawn, its checks dropped. -/
def saveHeld (s : State) (c cmd : Nat) : State :=
  discardChecks (if cmd = 2 then withdrawAll (holdQueues s c) c else holdQueues s c) c

theorem acceptSave_eq (s : State) (c cmd : Nat) :
    acceptSave s c cmd = beginCmd (setCtxState (saveHeld s c cmd) c (if cmd = 2 then 4 else 5)) c cmd 0 false := rfl

theorem saveHeld_frame (s : State) (c cmd : Nat) :
    (saveHeld s c cmd).mem = s.mem ∧ EntriesKept (dkey 0x2031 0) (dkey 0x6120 0) (holdQueues s c) (saveHeld s c cmd) := by
  obtain ⟨hdict, hmem⟩ := withdrawAll_frame (holdQueues s c) c
  have hheld := (holdQueues_reportsOnly s c).mem_eq
  have hchecks := fun t => discardChecks_entriesKept (lo := dkey 0x2031 0) (hi := dkey 0x6120 0) (by decide) (by decide) t c
  unfold saveHeld
  rw [discardChecks_mem]
  by_cases hcmd : cmd = 2
  · rw [if_pos hcmd]
    exact ⟨hmem.trans hheld, (hchecks _).after_update hdict⟩
  · rw [if_neg hcmd]
    exact ⟨hheld, hchecks _⟩

/-- A PREEMPT or CHECKPOINT begins: the context leaves RESIDENT with the queues that ran HELD (R198, R200). -/
theorem acceptSave_frame (s : State) {c : Nat} (hc : c < 64) (cmd : Nat) :
    ctxState (acceptSave s c cmd) c = (if cmd = 2 then 4 else 5) ∧ cmdOf (acceptSave s c cmd) c = some cmd ∧
      (acceptSave s c cmd).mem = s.mem ∧
      ∀ q, q < 64 → qState (acceptSave s c cmd) q = if q ∈ queuesOf s c ∧ qState s q = 1 then 2 else qState s q := by
  obtain ⟨hmem, hkept⟩ := saveHeld_frame s c cmd
  rw [acceptSave_eq]
  refine ⟨reg_setReg_same _ _ _ _, cmdOf_beginCmd .., hmem, fun q hq => ?_⟩
  rw [← qState_holdQueues, qState, qState, ← hkept _ _ (by unfold dkey; omega) (by unfold dkey; omega)]
  exact reg_setReg_ne _ _ (by unfold dkey; omega)

/-! Loads (R196). -/

/-- The context is LOADING with every queue of its record HELD. -/
def loadHeld (s : State) (c : Nat) : State := setQStates (setCtxState s c 2) (queuesOf s c) 2

theorem acceptLoad_local (s : State) (c : Nat) (fresh : Bool) :
    acceptLoad s c fresh false = beginCmd (loadHeld s c) c 1 1 fresh := rfl

theorem acceptLoad_remote (s : State) (c : Nat) (fresh : Bool) :
    acceptLoad s c fresh true = buddyRead (buddyRead (beginCmd (loadHeld s c) c 6 2 fresh) c (winTotal (ctxRec s c)) 1) c
      (imageSize (ctxRec s c) + winTotal (ctxRec s c)) 1 := rfl

theorem loadHeld_frame (s : State) {c : Nat} (hc : c < 64) :
    ctxState (loadHeld s c) c = 2 ∧ (loadHeld s c).mem = s.mem ∧
      ∀ q, q < 64 → qState (loadHeld s c) q = if q ∈ queuesOf s c then 2 else qState s q := by
  refine ⟨?_, (setQStates_reportsOnly _ _ _).mem_eq, fun q hq => ?_⟩
  · have hkept := setQStates_entriesKept (lo := dkey 0x4100 0) (hi := dkey 0x4140 0) (by decide) (setCtxState s c 2)
      (fun _ h => lt_of_mem_queuesOf (s := s) (c := c) h) 2
    exact (ctxState_eq_of_kept hkept (Nat.le_refl _) hc).trans (reg_setReg_same ..)
  · have hother : qState (setCtxState s c 2) q = qState s q := reg_setReg_ne _ _ (by unfold dkey; omega)
    rw [loadHeld, qState_setQStates, hother]

/-- A LOAD or LOAD_REMOTE begins; the reads of the commit lines leave all of this as it is (R196, R201). -/
theorem acceptLoad_frame (s : State) {c : Nat} (hc : c < 64) (fresh remote : Bool) :
    ctxState (acceptLoad s c fresh remote) c = 2 ∧
      cmdOf (acceptLoad s c fresh remote) c = some (if remote then 6 else 1) ∧ (acceptLoad s c fresh remote).mem = s.mem ∧
      ∀ q, q < 64 → qState (acceptLoad s c fresh remote) q = if q ∈ queuesOf s c then 2 else qState s q := by
  obtain ⟨hstate, hmem, hqueues⟩ := loadHeld_frame s hc
  cases remote with
  | false =>
    rw [acceptLoad_local]
    exact ⟨hstate, cmdOf_beginCmd .., hmem, hqueues⟩
  | true =>
    rw [acceptLoad_remote]
    obtain ⟨hmem1, hcmd1, hkept1⟩ := buddyRead_frame (beginCmd (loadHeld s c) c 6 2 fresh) c (winTotal (ctxRec s c)) 1
    generalize buddyRead (beginCmd (loadHeld s c) c 6 2 fresh) c (winTotal (ctxRec s c)) 1 = t at *
    obtain ⟨hmem2, hcmd2, hkept2⟩ := buddyRead_frame t c (imageSize (ctxRec s c) + winTotal (ctxRec s c)) 1
    have hkept := hkept1.trans hkept2
    refine ⟨?_, hcmd2.trans (hcmd1.trans (cmdOf_beginCmd ..)), hmem2.trans (hmem1.trans hmem), fun q hq => ?_⟩
    · exact (hkept _ _ (Nat.zero_le _) (by unfold dkey; omega)).trans hstate
    · exact (hkept _ _ (Nat.zero_le _) (by unfold dkey; omega)).trans (hqueues q hq)

/-! The answer in CMD_STATUS (Table 10.8). -/

theorem announceCmd_reportsOnly (s : State) (c st : Nat) : ReportsOnly s (announceCmd s c st) :=
  ((setReg_reportsOnly s _ _ _).trans (raise_reportsOnly _ _)).trans (notify_reportsOnly _ _ _ _ _)

theorem announceCmd_sameEntriesBut (s : State) (c st : Nat) :
    SameEntriesBut [dkey (0x4100 + c) 3, dkey 0x1010 5] s (announceCmd s c st) := by
  have hcode : SameEntriesBut [dkey (0x4100 + c) 3, dkey 0x1010 5] s (setReg s (0x4100 + c) 3 st) :=
    setReg_sameEntriesBut s st List.mem_cons_self
  have hraise := (raise_signalsOnly (setReg s (0x4100 + c) 3 st) (src 6 6)).sameEntriesBut [dkey (0x4100 + c) 3, dkey 0x1010 5]
  exact (hcode.trans hraise).trans ((notify_sameEntriesBut _ _ _ _ _).mono (List.subset_cons_self _ _))

theorem reg_announceCmd_code (s : State) (c st : Nat) : reg (announceCmd s c st) (0x4100 + c) 3 = st := by
  unfold announceCmd
  rw [notify_sameEntriesBut, (raise_signalsOnly _ _).reg_eq, reg_setReg_same]
  rw [List.mem_singleton]
  unfold dkey
  omega

theorem ctxState_announceCmd (s : State) (c st d : Nat) : ctxState (announceCmd s c st) d = ctxState s d := by
  refine announceCmd_sameEntriesBut s c st _ _ ?_
  simp only [List.mem_cons, List.not_mem_nil, or_false, not_or, dkey]
  omega

/-- CMD_STATUS of `c` holds a code and its state is `st`; memory and the other entries, NOTIFY's count apart, are as before. -/
def CommandAnswered (s : State) (c : Nat) (t : State) (st code : Nat) : Prop :=
  ctxState t c = st ∧ reg t (0x4100 + c) 3 = code ∧ t.mem = s.mem ∧
    SameEntriesBut [dkey (0x4100 + c) 2, dkey (0x4100 + c) 3, dkey 0x1010 5] s t

/-- The code is all that changes. -/
theorem announceCmd_answered (s : State) (c code : Nat) (p : Path) :
    CommandAnswered s c (answered (announceCmd s c code) p) (ctxState s c) code :=
  ⟨ctxState_announceCmd s c code c, reg_announceCmd_code s c code, (announceCmd_reportsOnly s c code).mem_eq,
    (announceCmd_sameEntriesBut s c code).mono (List.subset_cons_self _ _)⟩

/-- DELETE frees the context (R195). -/
theorem delete_answered (s : State) (c : Nat) (p : Path) :
    CommandAnswered s c (answered (announceCmd (setCtxState s c 0) c 0) p) 0 0 := by
  obtain ⟨hstate, hcode, hmem, hentries⟩ := announceCmd_answered (setCtxState s c 0) c 0 p
  exact ⟨hstate.trans (reg_setReg_same ..), hcode, hmem,
    (setReg_sameEntriesBut s 0 List.mem_cons_self).trans hentries⟩

end Sys2Proof.Machine
end

section
/-! SUPPORT. The record of a context and the commands of Table 10.8 (R192, R195 to R202). -/

namespace Sys2Proof.Machine

/-! The record (R192). -/

theorem SMap.get_dropRange_outside {α : Type} (m : SMap α) {lo hi k : Nat} (d : α) (h : k < lo ∨ hi ≤ k) :
    SMap.get (SMap.dropRange m lo hi) k d = SMap.get m k d := by
  have hget := SMap.get_filter m k d (fun j => !(decide (lo ≤ j) && decide (j < hi)))
  rw [SMap.dropRange, hget, if_pos]
  simp only [Bool.not_eq_true', Bool.and_eq_false_iff, decide_eq_false_iff_not]
  omega

/-- What a definition clears lies outside 4000h to 4FFFh (R181, R370, R382). -/
theorem clearCtxEntries_contextEntriesKept (s : State) {c : Nat} (hc : c < 64) :
    ContextEntriesKept s (clearCtxEntries s c) := by
  intro i sub hlo hhi
  show SMap.get (SMap.dropRange (SMap.dropRange s.dict _ _) _ _) _ _ = _
  rw [SMap.get_dropRange_outside _ _ (by unfold dkey at *; omega), SMap.get_dropRange_outside _ _ (by unfold dkey at *; omega)]
  rfl

theorem reg_effContextRecord (v : Nat) (s : State) (c : Nat) :
    ctxRec (effContextRecord c v s) c = v ∧ ctxState (effContextRecord c v s) c = 1 ∧
      reg (effContextRecord c v s) (0x4100 + c) 5 = 0 := by
  refine ⟨?_, ?_, reg_setReg_same _ _ _ _⟩
  · exact (reg_setReg_ne _ _ (by unfold dkey; omega)).trans
      ((reg_setReg_ne _ _ (by unfold dkey; omega)).trans (reg_setReg_same ..))
  · exact (reg_setReg_ne _ _ (by unfold dkey; omega)).trans (reg_setReg_same ..)

theorem effContextRecord_frame (c v : Nat) (s : State) :
    (effContextRecord c v s).mem = s.mem ∧ (effContextRecord c v s).sync = s.sync := ⟨rfl, rfl⟩

/-- The other contexts keep their entries. -/
theorem effContextRecord_other (v : Nat) (s : State) {c d sub : Nat} (hc : c < 64) (hd : d < 64) (hne : d ≠ c)
    (hsub : sub < 256) : reg (effContextRecord c v s) (0x4100 + d) sub = reg s (0x4100 + d) sub := by
  unfold effContextRecord
  rw [reg_setReg_ne _ _ (by unfold dkey; omega), reg_setReg_ne _ _ (by unfold dkey; omega),
    reg_setReg_ne _ _ (by unfold dkey; omega)]
  exact clearCtxEntries_contextEntriesKept s hc _ _ (by unfold dkey; omega) (by unfold dkey; omega)

theorem exec_contextRecordWrite_of_writeOk {s : State} {p : Path} {c : CtxId} {v : BitVec 1024}
    (hok : WriteOk s p (0x4100 + c) 1 128 v.toNat (preContextRecord c v.toNat s)) :
    exec (.contextRecordWrite p c v) s = .next (answered (effContextRecord c v.toNat s) p) :=
  guarded_of_writeOk (effContextRecord c v.toNat) hok

/-- A context that holds its windows keeps its record (R192, R343). -/
theorem exec_contextRecordWrite_of_held {s : State} {p : Path} {c : CtxId} (v : BitVec 1024) (hlive : dictLive s = true)
    (hpasses : checkAccess s p (0x4100 + c) 1 true false 0 128 = 0) (hheld : 2 ≤ ctxState s c) :
    exec (.contextRecordWrite p c v) s = .next (emit s (.dictAnswer p dQuiesce [])) := by
  have hpre : preContextRecord c v.toNat s = dQuiesce := if_pos hheld
  rw [← hpre]
  exact guarded_of_refused (effContextRecord c v.toNat) hlive hpasses (by rw [hpre]; decide)

/-! The commands' writes of CONTEXT_CMD (R195). -/

/-- The commands of Table 10.7 with their opcodes; only LOAD has FRESH. -/
inductive IsCommand (p : Path) (c : CtxId) (fresh : Bool) : Nat → Instr → Prop
  | load : IsCommand p c fresh 1 (.load p c fresh)
  | preempt : IsCommand p c fresh 2 (.preempt p c)
  | checkpoint : IsCommand p c fresh 3 (.checkpoint p c)
  | reset : IsCommand p c fresh 4 (.reset p c)
  | delete : IsCommand p c fresh 5 (.delete p c)
  | loadRemote : IsCommand p c fresh 6 (.loadRemote p c)

theorem isCommand_of_mem {p : Path} {c : CtxId} {fresh : Bool} {op : Nat} {i : Instr}
    (hmem : (op, i) ∈ [(1, Instr.load p c false), (1, .load p c true), (2, .preempt p c), (3, .checkpoint p c), (4, .reset p c),
      (5, .delete p c), (6, .loadRemote p c)]) (hload : op = 1 → i = .load p c fresh) : IsCommand p c fresh op i := by
  simp only [List.mem_cons, Prod.mk.injEq, List.not_mem_nil, or_false] at hmem
  rcases hmem with ⟨rfl, -⟩ | ⟨rfl, -⟩ | ⟨rfl, rfl⟩ | ⟨rfl, rfl⟩ | ⟨rfl, rfl⟩ | ⟨rfl, rfl⟩ | ⟨rfl, rfl⟩
  · exact hload rfl ▸ .load
  · exact hload rfl ▸ .load
  · exact .preempt
  · exact .checkpoint
  · exact .reset
  · exact .delete
  · exact .loadRemote

theorem isCommand_of_mem_saves {p : Path} {c : CtxId} {op : Nat} {i : Instr} (fresh : Bool)
    (hmem : (op, i) ∈ [(2, Instr.preempt p c), (3, .checkpoint p c)]) : IsCommand p c fresh op i ∧ (op = 2 ∨ op = 3) := by
  simp only [List.mem_cons, Prod.mk.injEq, List.not_mem_nil, or_false] at hmem
  rcases hmem with ⟨rfl, rfl⟩ | ⟨rfl, rfl⟩
  · exact ⟨.preempt, .inl rfl⟩
  · exact ⟨.checkpoint, .inr rfl⟩

theorem isCommand_of_mem_loads {p : Path} {c : CtxId} {fresh : Bool} {op : Nat} {i : Instr}
    (hmem : (op, i) ∈ [(1, Instr.load p c fresh), (6, .loadRemote p c)]) : IsCommand p c fresh op i ∧ (op = 1 ∨ op = 6) := by
  simp only [List.mem_cons, Prod.mk.injEq, List.not_mem_nil, or_false] at hmem
  rcases hmem with ⟨rfl, rfl⟩ | ⟨rfl, rfl⟩
  · exact ⟨.load, .inl rfl⟩
  · exact ⟨.loadRemote, .inr rfl⟩

/-- The fields of a command's value. -/
theorem cmdValue_fields {c op : Nat} (hc : c < 64) (hop : op < 7) (fresh : Bool) :
    fld (cmdValue c op fresh) 5 0 = c ∧ fld (cmdValue c op fresh) 11 8 = op ∧ (cmdValue c op fresh).testBit 12 = fresh ∧
      fld (cmdValue c op fresh) 7 6 = 0 ∧ fld (cmdValue c op fresh) 31 13 = 0 := by
  unfold fld cmdValue
  rw [Nat.testBit_eq_decide_div_mod_eq]
  cases fresh with
  | false =>
    simp only [b2n, Bool.false_eq_true, if_false]
    refine ⟨by omega, by omega, ?_, by omega, by omega⟩
    rw [decide_eq_false_iff_not]
    omega
  | true =>
    simp only [b2n, if_true]
    refine ⟨by omega, by omega, ?_, by omega, by omega⟩
    rw [decide_eq_true_iff]
    omega

/-- CONTEXT_CMD takes every value of 32 bits. -/
theorem rangeOk_contextCmd {v : Nat} (hv : v < 2 ^ 32) : rangeOk 0x4010 1 v = true := by
  have hentry : lookupEntry 0x4010 1 = some ⟨0x4010, 1, 0x01, 1, .wo, .uint 4 0 4294967295⟩ := by decide
  simp only [rangeOk, hentry, DictType.inRange, Bool.and_eq_true, decide_eq_true_eq]
  omega

/-- A permitted write of a command runs it. -/
theorem writeCmd_of_passes {s : State} {p : Path} {c op : Nat} {fresh : Bool} (hlive : dictLive s = true)
    (hpasses : checkAccess s p 0x4010 1 true false 0 4 = 0) (hc : c < 64) (hop : 1 ≤ op ∧ op < 7)
    (hfresh : fresh = true → op = 1) :
    writeCmd s p (cmdValue c op fresh) = .next (answered (contextCmd s c op fresh) p) := by
  obtain ⟨hctx, hcode, hbit, hlow, hhigh⟩ := cmdValue_fields hc hop.2 fresh
  have hgood : cmdBad (cmdValue c op fresh) = false := by
    unfold cmdBad
    rw [hcode, hbit, hlow, hhigh]
    cases fresh with
    | false => simp; omega
    | true => simp [hfresh rfl]
  have hsmall : cmdValue c op fresh < 2 ^ 32 := by
    unfold cmdValue b2n
    split <;> omega
  have hpre : preContextCmd (cmdValue c op fresh) s = 0 := by rw [preContextCmd, hgood]; rfl
  have heff : effContextCmd (cmdValue c op fresh) s = contextCmd s c op fresh := by rw [effContextCmd, hctx, hcode, hbit]
  rw [writeCmd, guarded_of_writeOk (effContextCmd _) ⟨hlive, hpasses, hpre, rangeOk_contextCmd hsmall⟩, heff]

/-- Each command runs with its opcode. -/
theorem exec_command {s : State} {p : Path} {c : CtxId} {op v pre : Nat} {fresh : Bool} {i : Instr}
    (hok : WriteOk s p 0x4010 1 4 v pre) (hcmd : IsCommand p c fresh op i) :
    exec i s = .next (answered (contextCmd s c op (op == 1 && fresh)) p) := by
  have hwrite := fun op' fresh' => writeCmd_of_passes (op := op') (fresh := fresh') hok.live hok.passes c.isLt
  cases hcmd with
  | load => exact hwrite 1 fresh (by decide) fun _ => rfl
  | preempt => exact hwrite 2 false (by decide) fun h => by cases h
  | checkpoint => exact hwrite 3 false (by decide) fun h => by cases h
  | reset => exact hwrite 4 false (by decide) fun h => by cases h
  | delete => exact hwrite 5 false (by decide) fun h => by cases h
  | loadRemote => exact hwrite 6 false (by decide) fun h => by cases h

/-! A command's outcomes, in the order in which they are decided (R195, R202, R414). -/

/-- No command runs during the scrub, a bring-up or a failed start. -/
def commandsShut (s : State) : Bool := scrubbing s || startState s == 4 || startState s == 5

theorem contextCmd_of_shut {s : State} (h : commandsShut s = true) (c op : Nat) (fresh : Bool) :
    contextCmd s c op fresh = announceCmd s c 1 := if_pos h

theorem contextCmd_reset {s : State} (hopen : commandsShut s = false) (c : Nat) (fresh : Bool) :
    contextCmd s c 4 fresh = if ctxState s c = 0 then announceCmd s c 1 else announceCmd (resetContext s c) c 0 := by
  have hnot : ¬ (scrubbing s || startState s == 4 || startState s == 5) = true := Bool.eq_false_iff.mp hopen
  unfold contextCmd
  dsimp only
  rw [if_neg hnot, if_pos rfl]

/-- The command waits as the next one of the run (R202). -/
theorem contextCmd_of_savesBehind {s : State} (hopen : commandsShut s = false) {c op : Nat} (fresh : Bool) (hop : op ≠ 4)
    (h : savesBehind s c op = true) : contextCmd s c op fresh =
      { holdQueues s c with ctxs := mapIf (fun e => e.1 == c) (fun e => (e.1, { e.2 with next := some op })) s.ctxs } := by
  have hnot : ¬ (scrubbing s || startState s == 4 || startState s == 5) = true := Bool.eq_false_iff.mp hopen
  unfold contextCmd
  dsimp only
  rw [if_neg hnot, if_neg hop, if_pos h]

theorem contextCmd_of_running {s : State} (hopen : commandsShut s = false) {c op : Nat} (fresh : Bool) (hop : op ≠ 4)
    (hbehind : savesBehind s c op = false) (h : SMap.has s.ctxs c = true) : contextCmd s c op fresh = announceCmd s c 1 := by
  have hnot : ¬ (scrubbing s || startState s == 4 || startState s == 5) = true := Bool.eq_false_iff.mp hopen
  unfold contextCmd
  dsimp only
  rw [if_neg hnot, if_neg hop, if_neg (Bool.eq_false_iff.mp hbehind), if_pos h]

theorem SMap.find_of_not_has {α : Type} {m : SMap α} {k : Nat} (h : SMap.has m k = false) : SMap.find m k = none := by
  induction m with
  | nil => rfl
  | cons e m ih =>
    obtain ⟨j, v⟩ := e
    rw [SMap.has_cons, Bool.or_eq_false_iff] at h
    rw [SMap.find, if_neg (by simpa using h.1), ih h.2]

/-- Without a command in progress the opcode and the state decide. -/
theorem contextCmd_of_idle {s : State} (hopen : commandsShut s = false) {c op : Nat} (fresh : Bool) (hop : op ≠ 4)
    (h : SMap.has s.ctxs c = false) : contextCmd s c op fresh =
      if op = 1 || op = 6 then
        (if ctxState s c != 1 then announceCmd s c 1
         else if loadCheck s c fresh (op == 6) ≠ 0 then announceCmd s c (loadCheck s c fresh (op == 6))
         else acceptLoad s c fresh (op == 6))
      else if op = 5 then (if ctxState s c != 1 then announceCmd s c 1 else announceCmd (setCtxState s c 0) c 0)
      else if ctxState s c != 3 then announceCmd s c 1
      else acceptSave s c op := by
  have hnot : ¬ (scrubbing s || startState s == 4 || startState s == 5) = true := Bool.eq_false_iff.mp hopen
  have hbehind : savesBehind s c op = false := by
    rw [savesBehind, ctxRun, SMap.find_of_not_has h, Bool.and_false]
  unfold contextCmd
  dsimp only
  rw [if_neg hnot, if_neg hop, if_neg (Bool.eq_false_iff.mp hbehind), if_neg (Bool.eq_false_iff.mp h)]

/-- A command in the wrong state is BUSY. -/
theorem contextCmd_of_wrongState {s : State} (hopen : commandsShut s = false) {p : Path} {c : CtxId} {op : Nat} {i : Instr}
    {fresh : Bool} (hcmd : IsCommand p c fresh op i) (f : Bool) (hop : op ≠ 4) (hrun : SMap.has s.ctxs c = false)
    (hdefined : op = 1 ∨ op = 5 ∨ op = 6 → ctxState s c ≠ 1) (hresident : op = 2 ∨ op = 3 → ctxState s c ≠ 3) :
    contextCmd s c op f = announceCmd s c 1 := by
  rw [contextCmd_of_idle hopen f hop hrun]
  cases hcmd with
  | load => simp [hdefined]
  | preempt => simp [hresident]
  | checkpoint => simp [hresident]
  | reset => exact absurd rfl hop
  | delete => simp [hdefined]
  | loadRemote => simp [hdefined]

/-- LOAD_REMOTE has no FRESH, and its checks do not ask for it. -/
theorem contextCmd_load {s : State} (hopen : commandsShut s = false) {c op : Nat} (fresh : Bool) (hop : op = 1 ∨ op = 6)
    (hrun : SMap.has s.ctxs c = false) (hstate : ctxState s c = 1) : contextCmd s c op (op == 1 && fresh) =
      if loadCheck s c fresh (op == 6) ≠ 0 then announceCmd s c (loadCheck s c fresh (op == 6))
      else acceptLoad s c (op == 1 && fresh) (op == 6) := by
  have hfresh : loadCheck s c (op == 1 && fresh) (op == 6) = loadCheck s c fresh (op == 6) := by
    rcases hop with rfl | rfl
    · rfl
    · simp [loadCheck]
  have hload : (decide (op = 1) || decide (op = 6)) = true := by simpa using hop
  rw [contextCmd_of_idle hopen _ (by omega) hrun, if_pos hload, if_neg (by simp [hstate]), hfresh]

theorem contextCmd_delete {s : State} (hopen : commandsShut s = false) {c : Nat} (fresh : Bool)
    (hrun : SMap.has s.ctxs c = false) (hstate : ctxState s c = 1) :
    contextCmd s c 5 fresh = announceCmd (setCtxState s c 0) c 0 := by
  rw [contextCmd_of_idle hopen fresh (by decide) hrun]
  simp [hstate]

theorem contextCmd_save {s : State} (hopen : commandsShut s = false) {c op : Nat} (fresh : Bool) (hop : op = 2 ∨ op = 3)
    (hrun : SMap.has s.ctxs c = false) (hstate : ctxState s c = 3) : contextCmd s c op fresh = acceptSave s c op := by
  rw [contextCmd_of_idle hopen fresh (by omega) hrun]
  rcases hop with rfl | rfl
  · simp [hstate]
  · simp [hstate]

/-! What the outcomes leave. -/

/-- A waiting save is the next command of the run, with the queues that ran HELD (R202). -/
theorem savesBehind_frame {s : State} {c op : Nat} (hc : c < 64) (h : savesBehind s c op = true) :
    let t := { holdQueues s c with ctxs := mapIf (fun e => e.1 == c) (fun e => (e.1, { e.2 with next := some op })) s.ctxs }
    (ctxRun t c).bind CtxRun.next = some op ∧ ctxState t c = ctxState s c ∧ t.mem = s.mem ∧
      ∀ q, q < 64 → qState t q = if q ∈ queuesOf s c ∧ qState s q = 1 then 2 else qState s q := by
  have hfind : ∀ m : SMap CtxRun, SMap.find (mapIf (fun e => e.1 == c) (fun e => (e.1, { e.2 with next := some op })) m) c =
      (SMap.find m c).map fun u => { u with next := some op } := by
    intro m
    induction m with
    | nil => rfl
    | cons e m ih =>
      obtain ⟨j, u⟩ := e
      by_cases hj : j = c
      · simp [mapIf, SMap.find, hj]
      · simpa [mapIf, SMap.find, hj] using ih
  have hrun : ∃ u, ctxRun s c = some u := by
    unfold savesBehind at h
    cases hu : ctxRun s c with
    | none => simp [hu] at h
    | some u => exact ⟨u, rfl⟩
  obtain ⟨u, hu⟩ := hrun
  have hkept := holdQueues_entriesKept (lo := dkey 0x4100 0) (hi := dkey 0x4140 0) (by decide) s c
  refine ⟨?_, ctxState_eq_of_kept hkept (Nat.le_refl _) hc, (holdQueues_reportsOnly s c).mem_eq,
    fun q _ => qState_holdQueues s c q⟩
  show Option.bind (SMap.find (mapIf _ _ s.ctxs) c) CtxRun.next = some op
  rw [hfind, show SMap.find s.ctxs c = some u from hu]
  rfl

/-- A reset leaves the context DEFINED without a command, and the states of the others (R199). -/
theorem resetAnswered_frame (s : State) (c : Nat) (p : Path) :
    let t := answered (announceCmd (resetContext s c) c 0) p
    ctxState t c = 1 ∧ reg t (0x4100 + c) 3 = 0 ∧ ctxRun t c = none ∧
      ∀ d, d < 64 → d ≠ c → ctxState t d = ctxState s d :=
  ⟨(ctxState_announceCmd _ c 0 c).trans (ctxState_resetContext_same s c), reg_announceCmd_code _ c 0,
    ((announceCmd_reportsOnly _ c 0).ctxRun_eq c).trans (ctxRun_resetContext s c),
    fun d hd hne => (ctxState_announceCmd _ c 0 d).trans (ctxState_resetContext_ne s hd hne)⟩

/-- A command that is BUSY moves nothing. -/
theorem exec_command_of_busy {s : State} {p : Path} {c : CtxId} {op v pre : Nat} {fresh : Bool} {i : Instr}
    (hok : WriteOk s p 0x4010 1 4 v pre) (hcmd : IsCommand p c fresh op i)
    (hbusy : contextCmd s c op (op == 1 && fresh) = announceCmd s c 1) :
    ∃ t, exec i s = .next t ∧ CommandAnswered s c t (ctxState s c) 1 :=
  ⟨_, hbusy ▸ exec_command hok hcmd, announceCmd_answered s c 1 p⟩

/-- Settles O27: a record is `effContextRecord`, a command `contextCmd`, whose outcomes are the cases above. -/
theorem contextRecordsAndCommandsMoveTheContext : Obligations.ContextRecordsAndCommandsMoveTheContext := by
  intro s p c
  have hc := c.isLt
  refine ⟨fun v => ⟨fun hok => ?record, fun hlive hpasses hheld => exec_contextRecordWrite_of_held v hlive hpasses hheld⟩,
    fun op fresh hok => ⟨fun hshut i hmem hload => exec_command_of_busy hok (isCommand_of_mem hmem hload)
      (contextCmd_of_shut hshut c op _), fun hopen => ⟨fun hop => ⟨fun hfree => ?resetFree, fun hused => ?reset⟩,
      fun hbehind i hmem => ?behind, fun hrun hbehind i hop hmem hload => ?running,
      fun hrun => ⟨fun i hmem hload hop hdef hres => ?wrongState, fun hop hdefined => ?delete,
        fun i hmem hdefined => ⟨fun hfails => ?refusedLoad, fun hpasses => ?load⟩, fun i hmem hresident => ?save⟩⟩⟩⟩
  case record =>
    obtain ⟨hrec, hstate, himage⟩ := reg_effContextRecord v.toNat s c
    have hexec := exec_contextRecordWrite_of_writeOk hok
    have hrecs := fun d hd hne => effContextRecord_other v.toNat s (d := d) (sub := 1) hc hd hne (by decide)
    have hstates := fun d hd hne => effContextRecord_other v.toNat s (d := d) (sub := 2) hc hd hne (by decide)
    obtain ⟨hmem, hsync⟩ := effContextRecord_frame c v.toNat s
    generalize effContextRecord c v.toNat s = t at hexec hrec hstate himage hrecs hstates hmem hsync
    exact ⟨_, hexec, hrec, hstate, himage, fun d hd hne => ⟨hrecs d hd hne, hstates d hd hne⟩, hmem, hsync⟩
  case resetFree =>
    have hbusy := exec_command_of_busy hok (.reset (fresh := fresh)) ((contextCmd_reset hopen c _).trans (if_pos hfree))
    rw [hfree] at hbusy
    exact hbusy
  case reset =>
    have hexec := exec_command hok (.reset (p := p) (c := c) (fresh := fresh))
    rw [contextCmd_reset hopen, if_neg hused] at hexec
    exact ⟨_, hexec, resetAnswered_frame s c p⟩
  case behind =>
    obtain ⟨hcmd, hop⟩ := isCommand_of_mem_saves fresh hmem
    have hexec := exec_command hok hcmd
    rw [contextCmd_of_savesBehind hopen _ (by omega) hbehind] at hexec
    exact ⟨_, hexec, savesBehind_frame hc hbehind⟩
  case running =>
    exact exec_command_of_busy hok (isCommand_of_mem hmem hload) (contextCmd_of_running hopen _ hop hbehind hrun)
  case wrongState =>
    have hcmd := isCommand_of_mem hmem hload
    exact exec_command_of_busy hok hcmd (contextCmd_of_wrongState hopen hcmd _ hop hrun hdef hres)
  case delete =>
    have hexec := exec_command hok (.delete (p := p) (c := c) (fresh := fresh))
    rw [contextCmd_delete hopen _ hrun hdefined] at hexec
    exact ⟨_, hexec, delete_answered s c p⟩
  case refusedLoad =>
    obtain ⟨hcmd, hop⟩ := isCommand_of_mem_loads hmem
    have hexec := exec_command hok hcmd
    rw [contextCmd_load hopen fresh hop hrun hdefined, if_pos hfails] at hexec
    exact ⟨_, hexec, hdefined ▸ announceCmd_answered s c _ p⟩
  case load =>
    obtain ⟨hcmd, hop⟩ := isCommand_of_mem_loads hmem
    have hexec := exec_command hok hcmd
    have hcode : some (if op == 6 then 6 else 1) = some op := by rcases hop with rfl | rfl <;> rfl
    rw [contextCmd_load hopen fresh hop hrun hdefined, if_neg (not_not.mpr hpasses)] at hexec
    exact ⟨_, hexec, hcode ▸ acceptLoad_frame s hc _ (op == 6)⟩
  case save =>
    obtain ⟨hcmd, hop⟩ := isCommand_of_mem_saves fresh hmem
    have hexec := exec_command hok hcmd
    have hstate : (if op = 2 then 4 else 5) = op + 2 := by rcases hop with rfl | rfl <;> rfl
    rw [contextCmd_save hopen _ hop hrun hresident] at hexec
    exact ⟨_, hexec, hstate ▸ acceptSave_frame s hc op⟩

end Sys2Proof.Machine
end

section
/-! SUPPORT. Lines of memory (R5, R184, R223, R234): a line as the number its digits make, what a line write leaves of the
state, and what the line reads as after it. -/

namespace Sys2Proof.Machine

/-! A number from its digits of `b` bits. -/

/-- The number with digit `f i` at place `i`, for the places below `n`. -/
def ofDigits (b : Nat) (f : Nat → Nat) (n : Nat) : Nat := (List.range n).foldl (fun v i => v + f i * 2 ^ (b * i)) 0

@[simp] theorem ofDigits_zero (b : Nat) (f : Nat → Nat) : ofDigits b f 0 = 0 := rfl

theorem ofDigits_succ (b : Nat) (f : Nat → Nat) (n : Nat) :
    ofDigits b f (n + 1) = ofDigits b f n + f n * 2 ^ (b * n) := by
  simp [ofDigits, List.range_succ]

theorem ofDigits_lt {b : Nat} {f : Nat → Nat} (hf : ∀ i, f i < 2 ^ b) (n : Nat) : ofDigits b f n < 2 ^ (b * n) := by
  induction n with
  | zero => simp
  | succ n ih =>
    have hdigit : (f n + 1) * 2 ^ (b * n) ≤ 2 ^ b * 2 ^ (b * n) := Nat.mul_le_mul_right _ (hf n)
    rw [ofDigits_succ, Nat.mul_succ, Nat.add_comm (b * n) b, Nat.pow_add]
    rw [Nat.add_mul, Nat.one_mul] at hdigit
    omega

theorem digit_ofDigits {b : Nat} {f : Nat → Nat} (hf : ∀ i, f i < 2 ^ b) {n i : Nat} (hi : i < n) :
    ofDigits b f n / 2 ^ (b * i) % 2 ^ b = f i := by
  induction n with
  | zero => omega
  | succ n ih =>
    rw [ofDigits_succ]
    rcases Nat.lt_succ_iff_lt_or_eq.mp hi with hlt | rfl
    · have hplace : 2 ^ (b * n) = 2 ^ (b * i) * (2 ^ b * 2 ^ (b * (n - i - 1))) := by
        rw [← Nat.pow_add, ← Nat.pow_add]
        congr 1
        obtain ⟨m, rfl⟩ := Nat.exists_eq_add_of_lt hlt
        rw [show i + m + 1 - i - 1 = m by omega]
        ring
      rw [hplace, Nat.mul_left_comm, Nat.add_mul_div_left _ _ (Nat.two_pow_pos _), Nat.mul_left_comm, Nat.add_mul_mod_self_left]
      exact ih hlt
    · rw [Nat.add_mul_div_right _ _ (Nat.two_pow_pos _), Nat.div_eq_of_lt (ofDigits_lt hf i), Nat.zero_add,
        Nat.mod_eq_of_lt (hf i)]

/-- A number is made of its digits. -/
theorem ofDigits_digits (b x n : Nat) : ofDigits b (fun i => x / 2 ^ (b * i) % 2 ^ b) n = x % 2 ^ (b * n) := by
  induction n with
  | zero => simp [Nat.mod_one]
  | succ n ih =>
    rw [ofDigits_succ, ih, Nat.mul_succ, Nat.pow_add, Nat.mod_mul]
    ring

theorem fld_digit (w : Nat) {b : Nat} (hb : 0 < b) (i : Nat) : fld w (b * i + b - 1) (b * i) = w / 2 ^ (b * i) % 2 ^ b := by
  unfold fld
  rw [show b * i + b - 1 + 1 - b * i = b by omega]

theorem toNat_ofNat_of_lt {w x : Nat} (h : x < 2 ^ w) : (BitVec.ofNat w x).toNat = x :=
  (BitVec.toNat_ofNat ..).trans (Nat.mod_eq_of_lt h)

/-- A merge under the full mask is the new line. -/
theorem mergeLine_allOnes (old new : Line) : mergeLine old new (BitVec.allOnes 128) = new := by
  have hdigits : (List.range 128).foldl (fun v j => v + (if (BitVec.allOnes 128).getLsbD j then fld new.toNat (4 * j + 3) (4 * j)
      else fld old.toNat (4 * j + 3) (4 * j)) * 2 ^ (4 * j)) 0 = ofDigits 4 (fun i => new.toNat / 2 ^ (4 * i) % 2 ^ 4) 128 := by
    unfold ofDigits
    refine List.foldl_ext _ _ _ fun v j hj => ?_
    have hon : (BitVec.allOnes 128).getLsbD j = true := by
      rw [BitVec.getLsbD_allOnes, decide_eq_true (List.mem_range.mp hj)]
    rw [if_pos hon]
    exact congrArg (fun d => v + d * 2 ^ (4 * j)) (fld_digit new.toNat (by decide) j)
  unfold mergeLine
  rw [hdigits, ofDigits_digits, Nat.mod_eq_of_lt new.isLt, BitVec.ofNat_toNat, BitVec.setWidth_eq]

/-! What a line write leaves of the state. -/

theorem clearPoison_dict (s : State) (a len : Nat) : (clearPoison s a len).dict = s.dict := rfl
theorem clearPoison_hbm (s : State) (a len : Nat) : (clearPoison s a len).hbm = s.hbm := rfl
theorem clearPoison_retired (s : State) (a len : Nat) : (clearPoison s a len).rel.retired = s.rel.retired := rfl
theorem putLine_dict (s : State) (a : Nat) (v : Line) : (putLine s a v).dict = s.dict := by unfold putLine; rfl
theorem putLine_hbm (s : State) (a : Nat) (v : Line) : (putLine s a v).hbm = s.hbm := by unfold putLine; rfl
theorem putLine_rel (s : State) (a : Nat) (v : Line) : (putLine s a v).rel = s.rel := by unfold putLine; rfl

/-- The state after the bytes of a line are stored, but for its poison: a write that covers a unit clears it (R184, R223). -/
def unitsCleared (mask : BitVec 128) (a : Nat) (s : State) : State :=
  if inLoam a then
    let t := if maskCovers mask 0 64 then clearPoison s (lineAddr a) 32 else s
    if maskCovers mask 64 64 then clearPoison t (lineAddr a + 32) 32 else t
  else if maskCovers mask 0 128 then clearPoison s (lineAddr a) 64 else s

/-- The three outcomes of a line write: discarded and counted, lost with its stack, or stored (R394, R211). -/
theorem writeLine_eq (s : State) (a : Nat) (v : Line) (mask : BitVec 128) : writeLine s a v mask =
    if isRetired s a then bump s 0x8000 9 else if rangeLost s a 1 then s
    else unitsCleared mask a (putLine s a (mergeLine (lineAt s a) v mask)) := rfl

/-- Clearing poison leaves what every clearing of a range leaves. -/
theorem unitsCleared_leaves {α : Type} (f : State → α) (hf : ∀ t a len, f (clearPoison t a len) = f t) (mask : BitVec 128) (a : Nat)
    (s : State) : f (unitsCleared mask a s) = f s := by
  unfold unitsCleared
  dsimp only
  split
  · split
    · rw [hf]
      split
      · rw [hf]
      · rfl
    · split
      · rw [hf]
      · rfl
  · split
    · rw [hf]
    · rfl

/-- A line write leaves what the count of discarded writes, a store of bytes and a clearing of poison all leave. -/
theorem writeLine_leaves {α : Type} (f : State → α) (hbump : ∀ t, f (bump t 0x8000 9) = f t)
    (hput : ∀ t a v, f (putLine t a v) = f t) (hclear : ∀ t a len, f (clearPoison t a len) = f t) (s : State) (a : Nat) (v : Line)
    (mask : BitVec 128) : f (writeLine s a v mask) = f s := by
  rw [writeLine_eq]
  split
  · exact hbump s
  · split
    · rfl
    · rw [unitsCleared_leaves f hclear, hput]

theorem writeLine_hbm (s : State) (a : Nat) (v : Line) (mask : BitVec 128) : (writeLine s a v mask).hbm = s.hbm :=
  writeLine_leaves State.hbm (fun _ => rfl) putLine_hbm clearPoison_hbm s a v mask

theorem writeLine_retired (s : State) (a : Nat) (v : Line) (mask : BitVec 128) :
    (writeLine s a v mask).rel.retired = s.rel.retired :=
  writeLine_leaves (fun t : State => t.rel.retired) (fun _ => rfl) (fun t a v => by rw [putLine_rel]) clearPoison_retired s a v mask

theorem reg_of_dict_eq {s t : State} (h : t.dict = s.dict) (i sub : Nat) : reg t i sub = reg s i sub := by
  unfold reg
  rw [h]

theorem SameEntriesBut.of_dict_eq {s t : State} (h : t.dict = s.dict) (l : List Nat) : SameEntriesBut l s t :=
  fun i sub _ => reg_of_dict_eq h i sub

/-- A line write stores no entry but the count of discarded writes (R394). -/
theorem writeLine_sameEntriesBut (s : State) (a : Nat) (v : Line) (mask : BitVec 128) :
    SameEntriesBut [dkey 0x8000 9] s (writeLine s a v mask) := by
  rw [writeLine_eq]
  split
  · exact setReg_sameEntriesBut s _ List.mem_cons_self
  · split
    · exact .refl _ s
    · exact .of_dict_eq ((unitsCleared_leaves State.dict clearPoison_dict _ _ _).trans (putLine_dict ..)) _

/-! The bytes of the line. -/

theorem memByte_putLine_outside {s : State} {a x : Nat} (v : Line) (h : x < lineAddr a ∨ lineAddr a + 64 ≤ x) :
    memByte (putLine s a v) x = memByte s x := by
  rw [memByte, putLine_mem, get_putBytes, leBytes_length, if_neg (by omega)]
  rfl

theorem putLine_sameMemoryBut (s : State) (a : Nat) (v : Line) : SameMemoryBut [(lineAddr a, 64)] s (putLine s a v) :=
  fun _ hx => memByte_putLine_outside v (hx _ List.mem_cons_self)

theorem writeLine_sameMemoryBut (s : State) (a : Nat) (v : Line) (mask : BitVec 128) :
    SameMemoryBut [(lineAddr a, 64)] s (writeLine s a v mask) :=
  fun _ hx => memByte_writeLine_outside (hx _ List.mem_cons_self)

theorem lineAt_of_mem_eq {s t : State} (h : t.mem = s.mem) (a : Nat) : lineAt t a = lineAt s a := by
  unfold lineAt
  rw [memVal_of_mem_eq h]

/-- A line stored reads back. -/
theorem lineAt_putLine (s : State) (a : Nat) (v : Line) : lineAt (putLine s a v) a = v := by
  have hread : memRead (putLine s a v) (lineAddr a) 64 = leBytes 64 v.toNat := by
    refine List.ext_getElem (by simp [memRead, leBytes_length]) fun i hi hi' => ?_
    have hlt : i < 64 := by simpa [memRead] using hi
    simp only [memRead, List.getElem_map, List.getElem_range, memByte, putLine_mem, get_putBytes, leBytes_length]
    rw [if_pos ⟨Nat.le_add_right _ i, Nat.add_lt_add_left hlt _⟩, Nat.add_sub_cancel_left]
    exact List.getD_eq_getElem _ _ hi'
  rw [lineAt, memVal, hread, leVal_leBytes, Nat.mod_eq_of_lt v.isLt, BitVec.ofNat_toNat, BitVec.setWidth_eq]

/-- A whole line written where the line is in use and its stack is not lost reads back. -/
theorem lineAt_writeLine {s : State} {a : Nat} (v : Line) (hret : isRetired s a = false) (hlost : rangeLost s a 1 = false) :
    lineAt (writeLine s a v (BitVec.allOnes 128)) a = v := by
  have hmem : (writeLine s a v (BitVec.allOnes 128)).mem = (putLine s a v).mem := by
    rw [writeLine_mem, hret, hlost, mergeLine_allOnes, putLine_mem]
    rfl
  rw [lineAt_of_mem_eq hmem, lineAt_putLine]

end Sys2Proof.Machine
end

section
/-! SUPPORT. Arrival adds, slot writes and their folds (R218 to R222): the elements of a line, what each leaves of memory and of
the counts, and the areas. -/

namespace Sys2Proof.Machine

/-! Elements of a line (Table 11.4). -/

theorem addBits_pos (c : Nat) : 0 < addBits c := by
  unfold addBits
  split
  · decide
  · split
    · decide
    · decide

/-- The elements of a format fill a line. -/
theorem addBits_mul_addElems (c : Nat) : addBits c * addElems c = 512 := by
  unfold addElems addBits
  split
  · decide
  · split
    · decide
    · decide

theorem elemAt_eq_digit (c : Nat) (l : Line) (i : Nat) : elemAt c l i = l.toNat / 2 ^ (addBits c * i) % 2 ^ addBits c :=
  fld_digit l.toNat (addBits_pos c) i

theorem elemAt_lt (c : Nat) (l : Line) (i : Nat) : elemAt c l i < 2 ^ addBits c := by
  rw [elemAt_eq_digit]
  exact Nat.mod_lt _ (Nat.two_pow_pos _)

/-- The number a line is made to by its elements. -/
theorem lineOf_map_range (c : Nat) (g : Nat → Nat) (n : Nat) :
    lineOf c ((List.range n).map g) = BitVec.ofNat 512 (ofDigits (addBits c) (fun i => g i % 2 ^ addBits c) n) := by
  have hzip : (List.range n).zip ((List.range n).map g) = (List.range n).map (fun i => (i, g i)) :=
    List.map_prod_left_eq_zip.symm
  unfold lineOf ofDigits
  rw [List.length_map, List.length_range, hzip, List.foldl_map]

/-- The elements of a line made from elements are these, cut to their size. -/
theorem elemAt_lineOf (c : Nat) (g : Nat → Nat) {i : Nat} (hi : i < addElems c) :
    elemAt c (lineOf c ((List.range (addElems c)).map g)) i = g i % 2 ^ addBits c := by
  have hdigit : ∀ j, g j % 2 ^ addBits c < 2 ^ addBits c := fun j => Nat.mod_lt _ (Nat.two_pow_pos _)
  have hlt := ofDigits_lt hdigit (addElems c)
  rw [addBits_mul_addElems] at hlt
  have hline : (lineOf c ((List.range (addElems c)).map g)).toNat =
      ofDigits (addBits c) (fun j => g j % 2 ^ addBits c) (addElems c) := by
    rw [lineOf_map_range]
    exact toNat_ofNat_of_lt hlt
  rw [elemAt_eq_digit, hline]
  exact digit_ofDigits hdigit hi

/-! Arrival adds (R218, R219). -/

/-- Counting over all elements, those that are not added as nothing, counts the added ones. -/
theorem countOf_map_ite {k : Count} (hk : k ≠ .none) (p : Nat → Bool) (f : Nat → Count) (l : List Nat) :
    countOf k (l.map (fun i => if p i then f i else .none)) = countOf k ((l.filter p).map f) := by
  unfold countOf
  induction l with
  | nil => rfl
  | cons i l ih =>
    by_cases hp : p i = true
    · simp only [List.map_cons, hp, if_true, List.filter_cons_of_pos, List.filter_cons]
      split
      · rw [List.length_cons, List.length_cons, ih]
      · exact ih
    · have hnone : (Count.none == k) = false := by simpa using hk.symm
      simp only [List.map_cons, hp, if_false, List.filter_cons, hnone, Bool.false_eq_true]
      exact ih

theorem countAdds_mem (s : State) (ovf nan : Nat) : (countAdds s ovf nan).mem = s.mem := by
  unfold countAdds
  split
  · rfl
  · rw [raise_mem, bumpBy_mem, bumpBy_mem]

theorem countAdds_sameEntriesBut (s : State) (ovf nan : Nat) :
    SameEntriesBut [dkey 0x5000 8, dkey 0x5000 9] s (countAdds s ovf nan) := by
  unfold countAdds
  split
  · exact .refl _ s
  · exact ((setReg_sameEntriesBut s _ (.head _)).trans (setReg_sameEntriesBut _ _ (.tail _ (.head _)))).trans
      ((raise_signalsOnly _ _).sameEntriesBut _)

theorem reg_countAdds {s : State} {ovf nan : Nat} (h : ovf + nan ≠ 0) :
    reg (countAdds s ovf nan) 0x5000 8 = (reg s 0x5000 8 + ovf) % 2 ^ 64 ∧
      reg (countAdds s ovf nan) 0x5000 9 = (reg s 0x5000 9 + nan) % 2 ^ 64 := by
  unfold countAdds
  rw [if_neg h, (raise_signalsOnly _ _).reg_eq, (raise_signalsOnly _ _).reg_eq, reg_bumpBy_ne nan (by decide)]
  refine ⟨reg_setReg_same .., ?_⟩
  rw [bumpBy, reg_setReg_same, reg_bumpBy_ne ovf (by decide)]

/-- The line that an add leaves where nothing is poisoned (R218). -/
def addedLine (s : State) (a c : Nat) (data : Line) (mask : BitVec 64) : Line :=
  lineOf c ((List.range (addElems c)).map (fun i =>
    if elemOn c mask i then (addOne c (elemAt c (lineAt s a) i) (elemAt c data i)).1 else elemAt c (lineAt s a) i))

/-- Elements added as `k`, of those the mask enables. -/
def addedAs (k : Count) (s : State) (a c : Nat) (data : Line) (mask : BitVec 64) : Nat :=
  countOf k (((List.range (addElems c)).filter (elemOn c mask)).map
    (fun i => (addOne c (elemAt c (lineAt s a) i) (elemAt c data i)).2))

theorem arrivalLine_of_clean {s : State} {a : Nat} (hclean : isPoisoned s a = false) (c : Nat) (data : Line) (mask : BitVec 64) :
    arrivalLine s a c data mask =
      countAdds (putLine s a (addedLine s a c data mask)) (addedAs .ovf s a c data mask) (addedAs .nan s a c data mask) := by
  unfold arrivalLine addedLine addedAs
  dsimp only
  rw [if_neg (by simp [hclean]), ← countOf_map_ite (by decide), ← countOf_map_ite (by decide), List.map_map, List.map_map]
  congr 3
  · congr 1
    exact funext fun i => apply_ite _ _ _ _
  · exact funext fun i => apply_ite _ _ _ _
  · exact funext fun i => apply_ite _ _ _ _

/-- What an add leaves at a line that is not poisoned: each enabled element its sum, the others as they were, and the counts. -/
theorem arrivalLine_clean_effect {s : State} {a : Nat} (hclean : isPoisoned s a = false) (c : Nat) (data : Line)
    (mask : BitVec 64) :
    let t := arrivalLine s a c data mask
    SameMemoryBut [(lineAddr a, 64)] s t ∧
      (∀ i, i < addElems c → elemAt c (lineAt t a) i =
        if elemOn c mask i then (addOne c (elemAt c (lineAt s a) i) (elemAt c data i)).1 % 2 ^ addBits c
        else elemAt c (lineAt s a) i) ∧
      SameEntriesBut [dkey 0x5000 8, dkey 0x5000 9] s t ∧
      (addedAs .ovf s a c data mask + addedAs .nan s a c data mask ≠ 0 →
        reg t 0x5000 8 = (reg s 0x5000 8 + addedAs .ovf s a c data mask) % 2 ^ 64 ∧
        reg t 0x5000 9 = (reg s 0x5000 9 + addedAs .nan s a c data mask) % 2 ^ 64) := by
  intro t
  have hdict : (putLine s a (addedLine s a c data mask)).dict = s.dict := putLine_dict ..
  dsimp only [t]
  rw [arrivalLine_of_clean hclean]
  refine ⟨(putLine_sameMemoryBut s a _).of_memByte_eq (countAdds_mem ..), fun i hi => ?_,
    (SameEntriesBut.of_dict_eq hdict _).trans (countAdds_sameEntriesBut _ _ _), fun hsome => ?_⟩
  · rw [lineAt_of_mem_eq (countAdds_mem ..), lineAt_putLine, addedLine, elemAt_lineOf c _ hi]
    split
    · rfl
    · exact Nat.mod_eq_of_lt (elemAt_lt ..)
  · rw [← reg_of_dict_eq hdict, ← reg_of_dict_eq hdict]
    exact reg_countAdds hsome

/-- What an add leaves at a poisoned line: it counts its elements as NaN, and one at a retired line is counted (R219, R394). -/
theorem arrivalLine_poisoned_effect {s : State} {a : Nat} (hpois : isPoisoned s a = true) (c : Nat) (data : Line)
    (mask : BitVec 64) :
    let t := arrivalLine s a c data mask
    let on := (List.range (addElems c)).filter (elemOn c mask)
    t.mem = s.mem ∧ (on ≠ [] → reg t 0x5000 9 = (reg s 0x5000 9 + on.length) % 2 ^ 64) ∧
      (isRetired s a = true → reg t 0x8000 9 = (reg s 0x8000 9 + 1) % 2 ^ 64) := by
  intro t on
  have hcounted : on ≠ [] → reg (countAdds s 0 on.length) 0x5000 9 = (reg s 0x5000 9 + on.length) % 2 ^ 64 :=
    fun hon => (reg_countAdds (by simpa using hon)).2
  have hdiscards : reg (countAdds s 0 on.length) 0x8000 9 = reg s 0x8000 9 :=
    countAdds_sameEntriesBut s 0 _ _ _ (by decide)
  dsimp only [t]
  unfold arrivalLine
  dsimp only
  rw [if_pos hpois]
  by_cases hret : isRetired s a = true
  · rw [if_pos hret]
    refine ⟨(bump_mem ..).trans (countAdds_mem ..), fun hon => ?_, fun _ => ?_⟩
    · exact (reg_bumpBy_ne 1 (by decide)).trans (hcounted hon)
    · rw [bump, bumpBy, reg_setReg_same, hdiscards]
  · rw [if_neg hret]
    exact ⟨countAdds_mem .., hcounted, fun h => absurd h hret⟩

end Sys2Proof.Machine
end

section
/-! SUPPORT. Slot writes, folds and areas (R220 to R222). -/

namespace Sys2Proof.Machine

/-! The fold of a target line (R221). -/

section
variable (s : State) (n j : Nat)

/-- The registration of an area. -/
abbrev areaReg (s : State) (n : Nat) : Nat := (areaOf s n).reg.toNat

/-- Line j of slot k of an area, and target line j. -/
abbrev areaSlotAddr (s : State) (n j k : Nat) : Nat := aBase (areaReg s n) + k * aBytes (areaReg s n) + 64 * j
abbrev areaTargetAddr (s : State) (n j : Nat) : Nat := aTarget (areaReg s n) + 64 * j

/-- Is line j of one of the slots poisoned. -/
def slotsPoisoned : Bool := (List.range (aSlots (areaReg s n))).any (fun k => isPoisoned s (areaSlotAddr s n j k))

/-- Element i of target line j, folded, with what it counts as. -/
def foldedElem (i : Nat) : Nat × Count :=
  let c := aFmt (areaReg s n)
  foldOne c (aGroups (areaReg s n)) ((List.range (aSlots (areaReg s n))).map (fun k => elemAt c (lineAt s (areaSlotAddr s n j k)) i))

/-- Target line j is complete. -/
def lineFolded : State := { s with hbm := { s.hbm with folded := SMap.set s.hbm.folded (akey n j) true false } }

/-- Area n with new counts. -/
def areaCounted (ar : Area) : State := { s with hbm := { s.hbm with areas := SMap.put s.hbm.areas n ar } }

/-- The counts of area n after target line j, with its elements folded, or with all of them NaN. -/
def countsFolded : Area :=
  let cs := ((List.range (addElems (aFmt (areaReg s n)))).map (foldedElem s n j)).map Prod.snd
  { areaOf s n with
    ovfl := (areaOf s n).ovfl + countOf .ovf cs
    nan := (areaOf s n).nan + countOf .nan cs
    under := (areaOf s n).under + countOf .under cs }

def countsPoisoned : Area := { areaOf s n with nan := (areaOf s n).nan + addElems (aFmt (areaReg s n)) }

/-- The two outcomes of a fold: poison, or the folded elements. -/
theorem foldLine_eq : foldLine s n j =
    if slotsPoisoned s n j then setPoison (areaCounted (lineFolded s n j) n (countsPoisoned s n)) (areaTargetAddr s n j)
    else writeLine (areaCounted (lineFolded s n j) n (countsFolded s n j)) (areaTargetAddr s n j)
      (lineOf (aFmt (areaReg s n)) (((List.range (addElems (aFmt (areaReg s n)))).map (foldedElem s n j)).map Prod.fst))
      (BitVec.allOnes 128) := rfl

theorem areaCounted_lineFolded (ar : Area) :
    SMap.get (areaCounted (lineFolded s n j) n ar).hbm.folded (akey n j) false = true ∧
      (areaCounted (lineFolded s n j) n ar).mem = s.mem := ⟨SMap.get_set_same .., rfl⟩

/-- A fold completes its target line, writes no other line, and leaves it poisoned when a slot's line is. -/
theorem foldLine_effect :
    SMap.get (foldLine s n j).hbm.folded (akey n j) false = true ∧
      SameMemoryBut [(lineAddr (areaTargetAddr s n j), 64)] s (foldLine s n j) ∧
      (slotsPoisoned s n j = true → isPoisoned (foldLine s n j) (areaTargetAddr s n j) = true) := by
  rw [foldLine_eq]
  split
  · obtain ⟨hfolded, hmem⟩ := areaCounted_lineFolded s n j (countsPoisoned s n)
    refine ⟨hfolded, SameMemoryBut.of_memByte_eq (.refl _ s) hmem, fun _ => ?_⟩
    have hset : ∀ t a, SMap.get (setPoison t a).rel.poison (eccUnit a) false = true := fun _ _ => SMap.get_set_same ..
    unfold isPoisoned
    rw [hset, Bool.true_or, Bool.true_or]
  next hclean =>
    obtain ⟨hfolded, hmem⟩ := areaCounted_lineFolded s n j (countsFolded s n j)
    rw [writeLine_hbm]
    refine ⟨hfolded, ?_, fun hpois => absurd hpois hclean⟩
    exact (SameMemoryBut.of_memByte_eq (.refl _ s) hmem).trans (writeLine_sameMemoryBut _ _ _ _)

/-- The elements of a folded line in use are the folds of the slots' elements. -/
theorem elemAt_foldLine (hclean : slotsPoisoned s n j = false) (hret : isRetired s (areaTargetAddr s n j) = false)
    (hlost : rangeLost s (areaTargetAddr s n j) 1 = false) {i : Nat} (hi : i < addElems (aFmt (areaReg s n))) :
    elemAt (aFmt (areaReg s n)) (lineAt (foldLine s n j) (areaTargetAddr s n j)) i =
      (foldedElem s n j i).1 % 2 ^ addBits (aFmt (areaReg s n)) := by
  have huse : ∀ ar, isRetired (areaCounted (lineFolded s n j) n ar) (areaTargetAddr s n j) = false ∧
      rangeLost (areaCounted (lineFolded s n j) n ar) (areaTargetAddr s n j) 1 = false := fun _ => ⟨hret, hlost⟩
  rw [foldLine_eq, if_neg (by simp [hclean]), lineAt_writeLine _ (huse _).1 (huse _).2, List.map_map]
  exact elemAt_lineOf _ _ hi

end

/-! Slot writes (R221). -/

/-- A first write of a slot's line: the line merged over zeros, and its arrival. -/
def slotArrived (s : State) (n a : Nat) (data : Line) (mask : BitVec 64) : State :=
  let r := areaReg s n
  let j := (a - aBase r) % aBytes r / 64
  let w := writeLine s a (mergeLine 0 data (nibbles mask.toNat)) (BitVec.allOnes 128)
  let m := setBit (SMap.get s.hbm.arrived (akey n j) 0) ((a - aBase r) / aBytes r) true
  { w with hbm := { w.hbm with arrived := SMap.set w.hbm.arrived (akey n j) m 0 } }

/-- The three outcomes of a slot write: counted as a second one, the last that completes the mask, or one that waits for others. -/
theorem slotLine_eq (s : State) (n a : Nat) (data : Line) (mask : BitVec 64) :
    let r := areaReg s n
    let k := (a - aBase r) / aBytes r
    let j := (a - aBase r) % aBytes r / 64
    let m := SMap.get s.hbm.arrived (akey n j) 0
    slotLine s n a data mask =
      if m.testBit k || SMap.get s.hbm.folded (akey n j) false then raise (bump s 0x5000 7) (src 8 21)
      else if setBit m k true = 2 ^ aSlots r - 1 then foldLine (slotArrived s n a data mask) n j
      else slotArrived s n a data mask := rfl

theorem slotArrived_sameMemoryBut (s : State) (n a : Nat) (data : Line) (mask : BitVec 64) :
    SameMemoryBut [(lineAddr a, 64)] s (slotArrived s n a data mask) :=
  (writeLine_sameMemoryBut s a _ _).of_memByte_eq rfl

theorem areaOf_slotArrived (s : State) (n a : Nat) (data : Line) (mask : BitVec 64) (m : Nat) :
    areaOf (slotArrived s n a data mask) m = areaOf s m := by
  have hareas : (slotArrived s n a data mask).hbm.areas = s.hbm.areas := by
    unfold slotArrived
    dsimp only
    rw [writeLine_hbm]
  unfold areaOf
  rw [hareas]

theorem isRetired_slotArrived (s : State) (n a : Nat) (data : Line) (mask : BitVec 64) (x : Nat) :
    isRetired (slotArrived s n a data mask) x = isRetired s x := by
  unfold isRetired slotArrived
  dsimp only
  rw [writeLine_retired]

theorem rangeLost_slotArrived (s : State) (n a : Nat) (data : Line) (mask : BitVec 64) (x len : Nat) :
    rangeLost (slotArrived s n a data mask) x len = rangeLost s x len := by
  unfold rangeLost stackLost slotArrived
  dsimp only
  rw [writeLine_hbm]

/-- A slot's line in use holds the data over zeros. -/
theorem lineAt_slotArrived {s : State} {a : Nat} (n : Nat) (data : Line) (mask : BitVec 64) (hret : isRetired s a = false)
    (hlost : rangeLost s a 1 = false) : lineAt (slotArrived s n a data mask) a = mergeLine 0 data (nibbles mask.toNat) :=
  lineAt_writeLine _ hret hlost

/-! The two requests, through the checks they share. -/

/-- What every add and slot write meets before its own effect `t`: the clock apart, a format of Table 11.4, memory that is not
held, an address the agent reaches, and a stack that is not lost. -/
def addChecked (s : State) (ag : Agent) (a fmt : Nat) (t : State) : State :=
  if 5 ≤ fmt || memHeld s a then s
  else if !addReaches ag a then emit (logUnassigned s a none 0) (.addressError ag a)
  else if rangeLost s a 1 then emit s (.hwFault ag a)
  else t

section
variable {s : State} {ag : Agent} {addr : LocalAddr} {fmt : Fin 8} {data : Line} {mask : BitVec 64}

theorem exec_arrivalAdd (hclock : clockOn s = true) : exec (.arrivalAdd ag addr fmt data mask) s =
    .next (addChecked s ag addr.toNat fmt (arrivalLine s addr.toNat fmt data mask)) := by
  show execArrivalAdd ag addr fmt data mask s = _
  simp [execArrivalAdd, addChecked, hclock]

/-- The effect of a slot write that the checks let pass. -/
def slotWritten (s : State) (ag : Agent) (a fmt : Nat) (data : Line) (mask : BitVec 64) : State :=
  match areaAt s a with
  | none => emit s (.addressError ag a)
  | some n => if aFmt (areaReg s n) = fmt then slotLine s n a data mask else emit s (.addressError ag a)

theorem exec_slotWrite (hclock : clockOn s = true) : exec (.slotWrite ag addr fmt data mask) s =
    .next (addChecked s ag addr.toNat fmt (slotWritten s ag addr.toNat fmt data mask)) := by
  have hchecks : (!clockOn s || decide (5 ≤ fmt.val) || memHeld s addr.toNat) = (decide (5 ≤ fmt.val) || memHeld s addr.toNat) := by
    simp [hclock]
  show execSlotWrite ag addr fmt data mask s = _
  unfold execSlotWrite
  dsimp only
  rw [hchecks]
  rfl

/-- Either request answers the outcome of the checks, with an effect of its own. -/
theorem exec_add_checked (hclock : clockOn s = true) {i : Instr}
    (hi : i ∈ [Instr.arrivalAdd ag addr fmt data mask, .slotWrite ag addr fmt data mask]) :
    ∃ t, exec i s = .next (addChecked s ag addr.toNat fmt t) := by
  rcases List.mem_pair.mp hi with rfl | rfl
  · exact ⟨_, exec_arrivalAdd hclock⟩
  · exact ⟨_, exec_slotWrite hclock⟩

end

section
variable {s : State} {ag : Agent} {a fmt : Nat} (t : State)

theorem addChecked_of_format (h : 5 ≤ fmt) : addChecked s ag a fmt t = s := by simp [addChecked, h]

theorem addChecked_of_held (h : memHeld s a = true) : addChecked s ag a fmt t = s := by simp [addChecked, h]

theorem addChecked_of_unreached (hfmt : fmt < 5) (hfree : memHeld s a = false) (h : addReaches ag a = false) :
    addChecked s ag a fmt t = emit (logUnassigned s a none 0) (.addressError ag a) := by
  simp [addChecked, Nat.not_le.mpr hfmt, hfree, h]

theorem addChecked_of_lost (hfmt : fmt < 5) (hfree : memHeld s a = false) (hreach : addReaches ag a = true)
    (h : rangeLost s a 1 = true) : addChecked s ag a fmt t = emit s (.hwFault ag a) := by
  simp [addChecked, Nat.not_le.mpr hfmt, hfree, hreach, h]

theorem addChecked_of_passed (hfmt : fmt < 5) (hfree : memHeld s a = false) (hreach : addReaches ag a = true)
    (h : rangeLost s a 1 = false) : addChecked s ag a fmt t = t := by
  simp [addChecked, Nat.not_le.mpr hfmt, hfree, hreach, h]

end

/-! Areas (R220, R222). -/

theorem areaOf_areas_put {s t : State} {n : Nat} {ar : Area} (h : t.hbm.areas = SMap.put s.hbm.areas n ar) (m : Nat) :
    areaOf t m = if m = n then ar else areaOf s m := by
  unfold areaOf
  rw [h, SMap.find_put]
  split
  · rfl
  · rfl

theorem exec_areaRegistration {s : State} (hclock : clockOn s = true) (r : BitVec 512) :
    exec (.areaRegistration r) s = .next (registerArea s r) := by
  show execAreaRegistration r s = _
  simp [execAreaRegistration, hclock]

/-- A registration that is not refused is the area of its number; the others and memory stay. -/
theorem registerArea_effect {s : State} {r : BitVec 512} (hfree : regRefused s r.toNat = false) :
    (areaOf (registerArea s r) (aNumber r.toNat)).reg = r ∧
      (∀ n, n ≠ aNumber r.toNat → areaOf (registerArea s r) n = areaOf s n) ∧ (registerArea s r).mem = s.mem := by
  unfold registerArea
  rw [if_neg (Bool.eq_false_iff.mp hfree)]
  refine ⟨?_, fun n hn => ?_, rfl⟩
  · rw [areaOf_areas_put (s := s) rfl, if_pos rfl]
  · rw [areaOf_areas_put (s := s) rfl, if_neg hn]

theorem exec_areaDone {s : State} {n : Fin 16} (hclock : clockOn s = true) (hreg : SMap.has s.hbm.areas n = true)
    (hall : foldedLines s n = 80 * aLength (areaReg s n)) (hfirst : (areaOf s n).doneReported = false) :
    exec (.areaDone n) s = .next { s with hbm := { s.hbm with
      areas := SMap.put s.hbm.areas n { areaOf s n with doneReported := true }
      areaReports := SMap.put s.hbm.areaReports n ((areaOf s n).ovfl, (areaOf s n).nan) } } := by
  show execAreaDone n s = _
  simp [execAreaDone, hclock, hreg, hall, hfirst]

theorem exec_areaRelease {s : State} (hclock : clockOn s = true) (n : Fin 16) :
    exec (.areaRelease n) s = .next (releaseArea s n) := by
  show execAreaRelease n s = _
  simp [execAreaRelease, hclock]

theorem foldedLines_releaseArea (s : State) (n : Nat) : foldedLines (releaseArea s n) n = 0 := by
  refine List.length_eq_zero_iff.mpr (List.filter_eq_nil_iff.mpr fun e he => ?_)
  have hout := (List.mem_filter.mp he).2
  simp only [Bool.not_eq_true', Bool.and_eq_false_iff, decide_eq_false_iff_not, Bool.and_eq_true, decide_eq_true_eq] at hout ⊢
  omega

theorem areas_releaseArea (s : State) (n : Nat) : SMap.has (releaseArea s n).hbm.areas n = false ∧
    ∀ m, m ≠ n → SMap.find (releaseArea s n).hbm.areas m = SMap.find s.hbm.areas m := by
  refine ⟨?_, fun m hm => ?_⟩
  · have hdrop := SMap.has_filter s.hbm.areas n (fun x => x != n)
    rw [bne_self_eq_false, Bool.false_and] at hdrop
    exact hdrop
  · exact (SMap.find_drop ..).trans (if_neg hm)

end Sys2Proof.Machine
end

section
/-! SUPPORT. The statement of adds, slot writes and areas (R218 to R222). -/

namespace Sys2Proof.Machine

/-- The write that completes the mask of target line j: the slot's line and the target line change, and the target holds the
folds of the slots as they are with this write, or poison. -/
theorem slotCompleted_effect (s : State) (n a : Nat) (data : Line) (mask : BitVec 64) (j : Nat) :
    let r := areaReg s n
    let t0 := slotArrived s n a data mask
    let t := foldLine t0 n j
    let poisoned := (List.range (aSlots r)).any (fun x => isPoisoned t0 (aBase r + x * aBytes r + 64 * j))
    SMap.get t.hbm.folded (akey n j) false = true ∧
      SameMemoryBut [(lineAddr a, 64), (lineAddr (aTarget r + 64 * j), 64)] s t ∧
      (poisoned = true → isPoisoned t (aTarget r + 64 * j) = true) ∧
      (poisoned = false → isRetired s (aTarget r + 64 * j) = false → rangeLost s (aTarget r + 64 * j) 1 = false →
        ∀ i, i < addElems (aFmt r) → elemAt (aFmt r) (lineAt t (aTarget r + 64 * j)) i =
          (foldOne (aFmt r) (aGroups r) ((List.range (aSlots r)).map (fun x =>
            elemAt (aFmt r) (lineAt t0 (aBase r + x * aBytes r + 64 * j)) i))).1 % 2 ^ addBits (aFmt r)) := by
  intro r t0 t poisoned
  have hreg : areaReg t0 n = r := congrArg (fun ar => ar.reg.toNat) (areaOf_slotArrived s n a data mask n)
  obtain ⟨hfolded, hmem, hpois⟩ := foldLine_effect t0 n j
  have helems := fun hclean hret hlost i => elemAt_foldLine t0 n j hclean hret hlost (i := i)
  simp only [slotsPoisoned, areaTargetAddr, areaSlotAddr, foldedElem, hreg, isRetired_slotArrived, rangeLost_slotArrived,
    t0] at hmem hpois helems
  refine ⟨hfolded, ?_, hpois, helems⟩
  exact ((slotArrived_sameMemoryBut s n a data mask).mono (by simp)).trans (hmem.mono (by simp))

/-- Settles O30. Both requests pass the same checks (`addChecked`). An add that passes them leaves the line of
`arrivalLine_clean_effect` or the counts of `arrivalLine_poisoned_effect`; a slot write has the outcomes of `slotLine_eq`, of
which the completing one is `slotCompleted_effect`. -/
theorem addsAndSlotWritesFoldIntoHbm : Obligations.AddsAndSlotWritesFoldIntoHbm := by
  refine fun s hclock => ⟨fun ag addr fmt data mask => ?_, fun r => ⟨fun hrefused => ?_, fun hfree => ?_⟩,
    fun n => ⟨fun hreg hall hfirst => ?_, ?_⟩⟩
  · intro a both on res cnt
    have hboth : ∀ i ∈ both, ∃ t, exec i s = .next (addChecked s ag a fmt t) := fun i hi => exec_add_checked hclock hi
    refine ⟨fun hfmt i hi => ?_, fun hheld i hi => ?_, fun hfmt hfree hreach hlost i hi => ?_, fun hfmt hfree hreach i hi => ?_,
      fun hfmt hfree hreach hlost => ?_⟩
    · obtain ⟨t, hexec⟩ := hboth i hi
      rw [hexec, addChecked_of_format t hfmt]
    · obtain ⟨t, hexec⟩ := hboth i hi
      rw [hexec, addChecked_of_held t hheld]
    · obtain ⟨t, hexec⟩ := hboth i hi
      rw [hexec, addChecked_of_lost t hfmt hfree hreach hlost]
    · obtain ⟨t, hexec⟩ := hboth i hi
      rw [hexec, addChecked_of_unreached t hfmt hfree hreach]
    · have hadd : exec (.arrivalAdd ag addr fmt data mask) s = .next (arrivalLine s a fmt data mask) := by
        rw [exec_arrivalAdd hclock, addChecked_of_passed _ hfmt hfree hreach hlost]
      have hslot : exec (.slotWrite ag addr fmt data mask) s = .next (slotWritten s ag a fmt data mask) := by
        rw [exec_slotWrite hclock, addChecked_of_passed _ hfmt hfree hreach hlost]
      refine ⟨fun hclean => ⟨_, hadd, arrivalLine_clean_effect hclean fmt data mask⟩,
        fun hpois => ⟨_, hadd, arrivalLine_poisoned_effect hpois fmt data mask⟩, fun hnone => ?_, fun n harea => ?_⟩
      · rw [hslot, slotWritten, hnone]
      · intro r k j m again w t0 full
        have hline : aFmt r = fmt.val → exec (.slotWrite ag addr fmt data mask) s = .next (slotLine s n a data mask) := by
          intro hsame
          rw [hslot, slotWritten, harea]
          exact congrArg _ (if_pos hsame)
        rw [slotLine_eq] at hline
        refine ⟨fun hother => ?_, fun hsame hagain => (hline hsame).trans (congrArg _ (if_pos hagain)),
          fun hsame hfirst hmore => ⟨?_, ?_, fun hret => ?_⟩, fun hsame hfirst hlast => ⟨foldLine t0 n j, ?_, ?_⟩⟩
        · rw [hslot, slotWritten, harea]
          exact congrArg _ (if_neg hother)
        · exact (hline hsame).trans (congrArg _ ((if_neg (Bool.eq_false_iff.mp hfirst)).trans (if_neg hmore)))
        · exact slotArrived_sameMemoryBut s n a data mask
        · exact lineAt_slotArrived n data mask hret hlost
        · exact (hline hsame).trans (congrArg _ ((if_neg (Bool.eq_false_iff.mp hfirst)).trans (if_pos hlast)))
        · rw [← hsame]
          exact slotCompleted_effect s n a data mask j
  · rw [exec_areaRegistration hclock, registerArea, if_pos hrefused]
  · obtain ⟨hnew, hothers, hmem⟩ := registerArea_effect hfree
    exact ⟨_, exec_areaRegistration hclock r, hnew, hothers, hmem⟩
  · refine ⟨_, exec_areaDone hclock hreg hall hfirst, ?_, ?_, rfl⟩
    · rw [areaOf_areas_put (s := s) rfl, if_pos rfl]
    · rw [SMap.find_put, if_pos rfl]
  · obtain ⟨hgone, hothers⟩ := areas_releaseArea s n
    exact ⟨_, exec_areaRelease hclock n, hgone, foldedLines_releaseArea s n, rfl, hothers⟩

end Sys2Proof.Machine
end

section
/-! SUPPORT. Messages and reports of events store between 7000h and 703Fh, and the count of dropped NOTIFY frames: the log's own
entries stay as the log writes them (R269, R356, R386 to R389). -/

namespace Sys2Proof.Machine

/-! Messages store below 7040h. -/

theorem sendCell_entriesKept_above {lo hi : Nat} (hlo : dkey 0x7040 0 ≤ lo) {s t : State} {p : Nat} (hp : p < 24)
    (h : sendCell s p = some t) : EntriesKept lo hi s t := by
  unfold sendCell at h
  dsimp only at h
  split at h
  · cases h
  · split at h
    · cases h
    · cases h
      refine .trans ?_ (.setReg_outside (emit _ _) _ (.inl (by unfold dkey at *; omega)))
      exact .of_dict_eq (foldl_beginReq_dict _ _)

theorem sendCells_entriesKept_above {lo hi : Nat} (hlo : dkey 0x7040 0 ≤ lo) (k : Nat) (s : State) {p : Nat} (hp : p < 24) :
    EntriesKept lo hi s (sendCells k s p) := by
  induction k generalizing s with
  | zero => exact .refl s
  | succ k ih =>
    unfold sendCells
    split
    · exact .refl s
    next t ht => exact (sendCell_entriesKept_above hlo hp ht).trans (ih t)

theorem sendOn_entriesKept_above {lo hi : Nat} (hlo : dkey 0x7040 0 ≤ lo) (s : State) {p : Nat} (hp : p < 24) (w : Nat) (m : Msg) :
    EntriesKept lo hi s (sendOn s p w m) := by
  unfold sendOn pumpPort
  exact EntriesKept.trans (.of_dict_eq rfl) (sendCells_entriesKept_above hlo _ _ hp)

/-- The port of a set with the most credits is one of the set (R268). -/
theorem bestPort_mem {s : State} {vl p : Nat} {l : List Nat} (h : bestPort s vl l = some p) : p ∈ l := by
  have hfold : ∀ (l : List Nat) (b : Option Nat), (l.foldl (fun b p => match b with
      | none => some p
      | some q => if creditsOf s q vl < creditsOf s p vl then some p else some q) b) = some p → p ∈ l ∨ b = some p := by
    intro l
    induction l with
    | nil => exact fun b hb => .inr hb
    | cons q l ih =>
      intro b hb
      rcases ih _ hb with hl | hq
      · exact .inl (List.mem_cons_of_mem q hl)
      · cases b with
        | none => exact .inl (Option.some.inj hq ▸ List.mem_cons_self)
        | some x =>
          dsimp only at hq
          split at hq
          · exact .inl (Option.some.inj hq ▸ List.mem_cons_self)
          · exact .inr hq
  exact (hfold l none h).resolve_right (by simp)

theorem routePort_lt {s : State} {m : Msg} {p : Nat} (h : routePort s m = some p) : p < 24 := by
  unfold routePort at h
  dsimp only at h
  split at h
  · split at h
    next hup =>
      rw [← Option.some.inj h]
      simpa using (Bool.and_eq_true_iff.mp hup).2
    · cases h
  · split at h
    · exact lt_of_mem_bitsOf (List.mem_filter.mp (bestPort_mem h)).1
    · cases h

theorem sendOrDrop_entriesKept_above {lo hi : Nat} (hlo : dkey 0x7040 0 ≤ lo) (s : State) (m : Msg) :
    EntriesKept lo hi s (sendOrDrop s m) := by
  unfold sendOrDrop
  split
  next t ht =>
    unfold trySend at ht
    split at ht
    · cases ht
      exact .of_dict_eq (beginReq_dict _ m)
    · split at ht
      · cases ht
      next p hp =>
        cases ht
        exact sendOn_entriesKept_above hlo s (routePort_lt hp) _ m
  · exact .trans (.setReg_outside s _ (.inl (by unfold dkey at *; omega))) (raise_entriesKept _ _)

theorem faultNotice_entriesKept_above {lo hi : Nat} (hlo : dkey 0x7040 0 ≤ lo) (s : State) (entry : List Byte) :
    EntriesKept lo hi s (faultNotice s entry) := by
  have hports : ∀ body, EntriesKept lo hi s (noticeAll s 1 body) := fun _ =>
    .foldl_mem _ s fun p hp t => sendOn_entriesKept_above hlo t (List.mem_range.mp (List.mem_filter.mp hp).1) _ _
  unfold faultNotice
  exact (hports _).trans (.foldl (fun t _ => sendOrDrop_entriesKept_above hlo t _) _ _)

/-! The entries of the log (R387). -/

theorem report_entriesKept_above {lo hi : Nat} (hlo : dkey 0x7040 0 ≤ lo) (s : State) (e : Event) (entry : List Byte) :
    EntriesKept lo hi s (report s e entry) := by
  unfold report
  extract_lets s1 s2 s3 s4
  have h1 : EntriesKept lo hi s s1 := .foldl raise_entriesKept _ s
  have h2 : EntriesKept lo hi s1 s2 := notify_entriesKept (by unfold dkey at *; omega) s1 _ _ _ _
  have h3 : EntriesKept lo hi s2 s3 := .ite (faultNotice_entriesKept_above hlo s2 entry)
  have h4 : EntriesKept lo hi s3 s4 := .ite (driveFaultN_entriesKept s3)
  exact h1.trans (h2.trans (h3.trans (h4.trans (.ite (.of_dict_eq rfl)))))

/-- Scheduling a test stores no entry. -/
theorem addTest_dict (s : State) (e : Event) (detail : Nat) (t : TestKind × Nat × Nat) : (addTest s e detail t).dict = s.dict := by
  unfold addTest
  dsimp only
  split
  · rfl
  · rfl

theorem reg_writeEntryOf_entries (s : State) (e : Event) (outcome : Nat) :
    reg (writeEntryOf s e outcome) 0x8100 2 = reg s 0x8100 2 + 1 := by
  unfold writeEntryOf
  extract_lets n entry s1 s2
  rw [report_entriesKept_above (lo := dkey 0x8100 0) (hi := dkey 0x8101 0) (by decide) s2 e entry _ _ (by decide) (by decide)]
  dsimp only [s2]
  rw [reg_setReg_ne _ _ (by decide), reg_setReg_same]

/-- An event of a severity above 0 is written: the number of entries goes up by one. -/
theorem reg_logEvent_entries {s : State} {e : Event} (hsev : e.sev ≠ 0) :
    reg (logEvent s e) 0x8100 2 = reg s 0x8100 2 + 1 := by
  have hwritten : suppressed s e = false := by simp [suppressed, hsev]
  have htests : ∀ n t, reg (e.tests.foldl (fun t x => addTest t e n x) t) 0x8100 2 = reg t 0x8100 2 := fun n t =>
    EntriesKept.foldl (lo := dkey 0x8100 2) (hi := dkey 0x8100 3) (fun t x => .of_dict_eq (addTest_dict t e n x)) _ t _ _
      (by decide) (by decide)
  have hcounted : reg (countMs s e) 0x8100 2 = reg s 0x8100 2 := by
    unfold countMs
    rw [if_neg hsev]
  unfold logEvent
  dsimp only
  rw [if_neg (by simp [hwritten]), htests]
  rw [reg_writeEntryOf_entries, hcounted]

end Sys2Proof.Machine
end

section
/-! SUPPORT. Slot tables (R213 to R215): the grant of a slot, the wrap of a table, and the writes of shadows. -/

namespace Sys2Proof.Machine

/-! Grants (R213, R215). -/

/-- The first class with work from turn `t` on. -/
def servedTurn (r : HbmReady) (t : Nat) : Option Nat := ((List.range 4).map (fun j => (t + j) % 4)).find? (turnReady r)

theorem servedTurn_eq_none {r : HbmReady} (h : ∀ k, k < 4 → turnReady r k = false) (t : Nat) : servedTurn r t = none := by
  refine List.find?_eq_none.mpr fun k hk => ?_
  obtain ⟨j, -, rfl⟩ := List.mem_map.mp hk
  simp [h _ (Nat.mod_lt (t + j) (by decide))]

theorem servedTurn_eq_some {r : HbmReady} {t j : Nat} (hj : j < 4) (hready : turnReady r ((t + j) % 4) = true)
    (hfirst : ∀ x, x < j → turnReady r ((t + x) % 4) = false) : servedTurn r t = some ((t + j) % 4) := by
  have hfind : (List.range 4).find? (turnReady r ∘ fun j => (t + j) % 4) = some j :=
    List.find?_range_eq_some.mpr ⟨hready, List.mem_range.mpr hj, fun x hx => by simp [hfirst x hx]⟩
  unfold servedTurn
  rw [List.find?_map, hfind]
  rfl

/-- What a slot grants, and whose turn comes after it. -/
def slotGrants (free : Bool) (code turn : Nat) (r : HbmReady) : Nat :=
  if free then (servedTurn r turn).elim 0 (turnGrant r) else priorityGrant code r

def turnAfter (free : Bool) (turn : Nat) (r : HbmReady) : Nat :=
  if free then (servedTurn r turn).elim turn (fun k => (k + 1) % 4) else turn

/-- The state after slot `i` of a group with the classes `r` ready. -/
def slotGranted (s : State) (cg i : Nat) (r : HbmReady) : State :=
  let turn := SMap.get s.hbm.turn cg 0
  let free := SMap.get s.hbm.freeMode cg false
  { s with hbm := { s.hbm with
    slotIdx := SMap.set s.hbm.slotIdx cg (i + 1) 0
    turn := SMap.set s.hbm.turn cg (turnAfter free turn r) 0
    lastGrant := SMap.set s.hbm.lastGrant cg (slotGrants free (fld (reg s (0x5100 + cg) 2) (2 * i + 1) (2 * i)) turn r) 0 } }

theorem exec_hbmSlotGrant {s : State} {cg : GroupId} (l : List HbmRequest) (hclock : clockOn s = true)
    (hawake : s.hbm.selfRefresh = false) (hslot : SMap.get s.hbm.slotIdx cg 0 < 64) :
    exec (.hbmSlotGrant cg l) s =
      .next (slotGranted s cg (SMap.get s.hbm.slotIdx cg 0) (classesReady s cg (SMap.get s.hbm.slotIdx cg 0) l)) := by
  show execHbmSlotGrant cg l s = _
  have hgo : (clockOn s && !s.hbm.selfRefresh && decide (SMap.get s.hbm.slotIdx cg 0 < 64)) = true := by simp [hclock, hawake, hslot]
  unfold execHbmSlotGrant slotGranted slotGrants turnAfter servedTurn
  dsimp only
  rw [if_pos hgo]
  cases ((List.range 4).map (fun j => (SMap.get s.hbm.turn cg 0 + j) % 4)).find?
    (turnReady (classesReady s cg (SMap.get s.hbm.slotIdx cg 0) l)) with
  | none => rfl
  | some k => rfl

/-! Wraps (R214, R215). -/

/-- Slot 0 comes next, and a pending shadow is in force. -/
def tableWrapped (s : State) (cg : Nat) : State :=
  let s1 := { s with hbm := { s.hbm with slotIdx := SMap.set s.hbm.slotIdx cg 0 0 } }
  if reg s1 (0x5100 + cg) 3 = 1 then setReg (setReg s1 (0x5100 + cg) 2 (reg s1 (0x5100 + cg) 1)) (0x5100 + cg) 3 0 else s1

theorem exec_slotTableWrap {s : State} {cg : GroupId} (hclock : clockOn s = true) :
    exec (.slotTableWrap cg) s = .next (adoptMode (tableWrapped s cg) cg) := by
  show execSlotTableWrap cg s = _
  unfold execSlotTableWrap
  rw [if_pos hclock]
  rfl

theorem tableWrapped_frame (s : State) (cg : Nat) :
    (tableWrapped s cg).hbm = { s.hbm with slotIdx := SMap.set s.hbm.slotIdx cg 0 0 } ∧
      (tableWrapped s cg).mem = s.mem ∧ (tableWrapped s cg).frames = s.frames ∧
      SameEntriesBut [dkey (0x5100 + cg) 2, dkey (0x5100 + cg) 3] s (tableWrapped s cg) := by
  unfold tableWrapped
  extract_lets hbm s1
  have h1 : SameEntriesBut [dkey (0x5100 + cg) 2, dkey (0x5100 + cg) 3] s s1 := .of_dict_eq (by dsimp only [s1]) _
  split
  · exact ⟨rfl, rfl, rfl, h1.trans ((setReg_sameEntriesBut _ _ (.head _)).trans (setReg_sameEntriesBut _ _ (.tail _ (.head _))))⟩
  · exact ⟨rfl, rfl, rfl, h1⟩

/-- A pending shadow is adopted at the wrap, and none stands pending then. -/
theorem reg_tableWrapped (s : State) (cg : Nat) :
    (reg s (0x5100 + cg) 3 = 1 →
      reg (tableWrapped s cg) (0x5100 + cg) 2 = reg s (0x5100 + cg) 1 ∧ reg (tableWrapped s cg) (0x5100 + cg) 3 = 0) ∧
    (reg s (0x5100 + cg) 3 ≠ 1 → reg (tableWrapped s cg) (0x5100 + cg) 2 = reg s (0x5100 + cg) 2) := by
  unfold tableWrapped
  extract_lets hbm s1
  have h1 : ∀ sub, reg s1 (0x5100 + cg) sub = reg s (0x5100 + cg) sub := reg_of_dict_eq (by dsimp only [s1]) _
  rw [h1, h1]
  refine ⟨fun hpending => ?_, fun hidle => ?_⟩
  · rw [if_pos hpending]
    exact ⟨(reg_setReg_ne _ _ (by unfold dkey; omega)).trans (reg_setReg_same ..), reg_setReg_same ..⟩
  · rw [if_neg hidle, h1]

/-- Group `cg` adopts the committed mode: it has the mode, and the last of the 80 returns the unit to APPLIED (R215). -/
def modeAdopted (s : State) (cg : Nat) : State :=
  { s with hbm := { s.hbm with
    freeMode := SMap.set s.hbm.freeMode cg (SMap.get s.frames.staged (dkey 0x5000 1) 0 == 2) false
    wrapped := cg :: s.hbm.wrapped } }

def adoptionEnded (s : State) : State :=
  { s with
    hbm := { s.hbm with wrapped := [] }
    frames := { s.frames with staged := SMap.set s.frames.staged (dkey 0x5000 1) 0 0 } }

/-- Does the group adopt a committed mode at a wrap. -/
def Adopts (s : State) (cg : Nat) : Prop :=
  modeState s 0 = 2 ∧ SMap.get s.frames.staged (dkey 0x5000 1) 0 ≠ 0 ∧ s.hbm.wrapped.contains cg = false

theorem adoptMode_of_not_adopts {s : State} {cg : Nat} (h : ¬ Adopts s cg) : adoptMode s cg = s := by
  unfold adoptMode
  exact if_neg (by simpa [Adopts] using h)

theorem adoptMode_of_adopts {s : State} {cg : Nat} (h : Adopts s cg) : adoptMode s cg =
    if s.hbm.wrapped.length = 79 then
      returnApplied (setReg (adoptionEnded (modeAdopted s cg)) 0x5000 1 (SMap.get s.frames.staged (dkey 0x5000 1) 0 - 1)) 0
    else modeAdopted s cg := by
  obtain ⟨hcommitted, hstaged, hfirst⟩ := h
  unfold adoptMode
  dsimp only
  rw [if_pos (by simpa using ⟨⟨hcommitted, hstaged⟩, by simpa using hfirst⟩)]
  simp only [List.length_cons, Nat.reduceEqDiff]
  rfl

/-- A unit that returns to APPLIED has that state (R358). -/
theorem modeState_returnApplied (s : State) {u : Nat} (hu : u < 4) : modeState (returnApplied s u) u = 0 := by
  unfold returnApplied modeState
  rw [notify_sameEntriesBut _ _ _ _ _ _ _ (by rw [List.mem_singleton]; unfold dkey; omega), reg_setReg_same]

theorem returnApplied_reportsOnly (s : State) (u : Nat) : ReportsOnly s (returnApplied s u) :=
  (setReg_reportsOnly s _ _ _).trans (notify_reportsOnly _ _ _ _ _)

/-- What the adoption of a mode leaves alone. -/
theorem adoptMode_frame (s : State) (cg : Nat) :
    (adoptMode s cg).hbm.slotIdx = s.hbm.slotIdx ∧ (adoptMode s cg).mem = s.mem ∧
      EntriesKept (dkey 0x5100 0) (dkey 0x5200 0) s (adoptMode s cg) := by
  by_cases h : Adopts s cg
  · rw [adoptMode_of_adopts h]
    split
    · have hreport := returnApplied_reportsOnly
        (setReg (adoptionEnded (modeAdopted s cg)) 0x5000 1 (SMap.get s.frames.staged (dkey 0x5000 1) 0 - 1)) 0
      refine ⟨by rw [hreport.hbm_eq]; rfl, hreport.mem_eq, ?_⟩
      have hmode : EntriesKept (dkey 0x5100 0) (dkey 0x5200 0) s (adoptionEnded (modeAdopted s cg)) := .of_dict_eq rfl
      exact hmode.trans ((EntriesKept.setReg_outside _ _ (.inl (by decide))).trans
        (returnApplied_entriesKept (by decide) _ (by decide)))
    · exact ⟨rfl, rfl, .of_dict_eq rfl⟩
  · rw [adoptMode_of_not_adopts h]
    exact ⟨rfl, rfl, .refl s⟩

theorem adoptMode_adopts {s : State} {cg : Nat} (h : Adopts s cg) :
    SMap.get (adoptMode s cg).hbm.freeMode cg false = (SMap.get s.frames.staged (dkey 0x5000 1) 0 == 2) ∧
      (s.hbm.wrapped.length = 79 → modeState (adoptMode s cg) 0 = 0 ∧
        reg (adoptMode s cg) 0x5000 1 = SMap.get s.frames.staged (dkey 0x5000 1) 0 - 1 ∧ (adoptMode s cg).hbm.wrapped = []) := by
  have hmode : SMap.get (modeAdopted s cg).hbm.freeMode cg false = (SMap.get s.frames.staged (dkey 0x5000 1) 0 == 2) :=
    SMap.get_set_same ..
  rw [adoptMode_of_adopts h]
  split
  · have hhbm := (returnApplied_reportsOnly
      (setReg (adoptionEnded (modeAdopted s cg)) 0x5000 1 (SMap.get s.frames.staged (dkey 0x5000 1) 0 - 1)) 0).hbm_eq
    rw [hhbm]
    refine ⟨hmode, fun _ => ⟨modeState_returnApplied _ (by decide), ?_, rfl⟩⟩
    rw [returnApplied_entriesKept (lo := dkey 0x5000 0) (hi := dkey 0x5001 0) (by decide) _ (by decide) _ _ (by decide) (by decide),
      reg_setReg_same]
  next hmore => exact ⟨hmode, fun hlast => absurd hlast hmore⟩

/-! Writes of shadows (R214). -/

theorem effSlotShadow_pending (s : State) (cg v : Nat) :
    reg (effSlotShadow cg v s) (0x5100 + cg) 1 = v ∧ reg (effSlotShadow cg v s) (0x5100 + cg) 3 = 1 := by
  unfold effSlotShadow
  exact ⟨(reg_setReg_ne _ _ (by unfold dkey; omega)).trans (reg_setReg_same ..), reg_setReg_same ..⟩

theorem effSlotShadow_sameEntriesBut (s : State) (cg v : Nat) :
    SameEntriesBut [dkey (0x5100 + cg) 1, dkey (0x5100 + cg) 3] s (effSlotShadow cg v s) :=
  (setReg_sameEntriesBut s _ (.head _)).trans (setReg_sameEntriesBut _ _ (.tail _ (.head _)))

/-- SLOT_ALL leaves every group with the shadow pending, and with the table it had. -/
theorem effSlotAll_pending (s : State) (v : Nat) {cg : Nat} (hcg : cg < 80) :
    reg (effSlotAll v s) (0x5100 + cg) 1 = v ∧ reg (effSlotAll v s) (0x5100 + cg) 3 = 1 ∧
      reg (effSlotAll v s) (0x5100 + cg) 2 = reg s (0x5100 + cg) 2 := by
  have hother : ∀ d t sub, sub < 256 → (d ≠ cg ∨ sub = 2) →
      reg (effSlotShadow d v t) (0x5100 + cg) sub = reg t (0x5100 + cg) sub := fun d t sub hsub hne =>
    effSlotShadow_sameEntriesBut t d v _ _ (by
      simp only [List.mem_cons, List.not_mem_nil, or_false, not_or]
      unfold dkey
      omega)
  have hpending : reg (effSlotAll v s) (0x5100 + cg) 1 = v ∧ reg (effSlotAll v s) (0x5100 + cg) 3 = 1 := by
    refine foldl_of_mem (P := fun t => reg t (0x5100 + cg) 1 = v ∧ reg t (0x5100 + cg) 3 = 1) (List.mem_range.mpr hcg)
      (fun t => effSlotShadow_pending t cg v) (fun d t h => ?_) s
    by_cases hd : d = cg
    · rw [hd]
      exact effSlotShadow_pending t cg v
    · rw [hother d t 1 (by decide) (.inl hd), hother d t 3 (by decide) (.inl hd)]
      exact h
  have htable : reg (effSlotAll v s) (0x5100 + cg) 2 = reg s (0x5100 + cg) 2 :=
    foldl_invariant (P := fun t => reg t (0x5100 + cg) 2 = reg s (0x5100 + cg) 2) (f := fun t cg => effSlotShadow cg v t)
      (fun d t h => (hother d t 2 (by decide) (.inr rfl)).trans h) _ rfl
  exact ⟨hpending.1, hpending.2, htable⟩

theorem exec_slotAll {s : State} {p : Path} {v : BitVec 128} (hok : WriteOk s p 0x5000 0x0B 16 v.toNat 0) :
    exec (.slotAll p v) s = .next (answered (effSlotAll v.toNat s) p) :=
  guarded_of_writeOk (pre := freely) (effSlotAll v.toNat) hok

theorem effSlotShadow_mem (s : State) (cg v : Nat) : (effSlotShadow cg v s).mem = s.mem := by
  unfold effSlotShadow
  rw [setReg_mem, setReg_mem]

theorem effSlotAll_mem (s : State) (v : Nat) : (effSlotAll v s).mem = s.mem := foldl_mem (fun t cg => effSlotShadow_mem t cg v) _ s

end Sys2Proof.Machine
end

section
/-! SUPPORT. Stack links (R207), calibration (R226) and burnt repairs (R225). -/

namespace Sys2Proof.Machine

/-! Stack links. -/

/-- How often in a row a link has now failed transfer `x`. -/
def failuresInRow (s : State) (k x : Nat) : Nat :=
  if SMap.get s.hbm.replayOf k 0 = x + 1 then SMap.get s.hbm.replayCount k 0 + 1 else 1

/-- A replay is counted, and noted for its link; the sixteenth ends the row. -/
def replayNoted (s : State) (k x : Nat) : State :=
  let n := failuresInRow s k x
  { bump s 0x5000 6 with hbm := { s.hbm with
    replayOf := SMap.set s.hbm.replayOf k (if n = 16 then 0 else x + 1) 0
    replayCount := SMap.set s.hbm.replayCount k (if n = 16 then 0 else n) 0 } }

/-- The link fault of Table 18.2. -/
def linkFault (k wire : Nat) : Event :=
  { Event.plain 5 1 (12 + k) wire with srcs := [src 8 k], tests := [(.stackLink, 12 + k, wire)] }

/-- The state before the fault's request ends. -/
def replayReported (s : State) (k x wire : Nat) : State :=
  if failuresInRow s k x = 16 then logEvent (replayNoted s k x) (linkFault k wire) else replayNoted s k x

theorem exec_stackLinkReplay {s : State} {k : StackId} {x : Nat} {w : BitVec 11} {user : LinkUser} (hclock : clockOn s = true) :
    exec (.stackLinkReplay k { number := x, user := user } w) s =
      .next (if failuresInRow s k x = 16 then faultUser (replayReported s k x w.toNat) user else replayReported s k x w.toNat) := by
  show execStackLinkReplay k { number := x, user := user } w s = _
  unfold execStackLinkReplay replayReported
  rw [if_pos hclock]
  by_cases hlast : failuresInRow s k x = 16
  · rw [if_pos hlast, if_pos hlast]
    exact congrArg _ (if_pos hlast)
  · rw [if_neg hlast, if_neg hlast]
    exact congrArg _ (if_neg hlast)

theorem replayNoted_frame (s : State) (k x : Nat) : (replayNoted s k x).mem = s.mem ∧ (replayNoted s k x).ops = s.ops ∧
    (∀ i sub, reg (replayNoted s k x) i sub = reg (bump s 0x5000 6) i sub) ∧
    SMap.get (replayNoted s k x).hbm.replayCount k 0 = if failuresInRow s k x = 16 then 0 else failuresInRow s k x :=
  ⟨rfl, rfl, reg_of_dict_eq rfl, SMap.get_set_same ..⟩

/-- A replay leaves its count, the row of its link, memory and the operations; the sixteenth writes one entry of the log. -/
theorem replayReported_effect (s : State) (k x wire : Nat) :
    let t := replayReported s k x wire
    reg t 0x5000 6 = (reg s 0x5000 6 + 1) % 2 ^ 64 ∧ t.mem = s.mem ∧ t.ops = s.ops ∧
      SMap.get t.hbm.replayCount k 0 = (if failuresInRow s k x = 16 then 0 else failuresInRow s k x) ∧
      reg t 0x8100 2 = if failuresInRow s k x = 16 then reg s 0x8100 2 + 1 else reg s 0x8100 2 := by
  intro t
  obtain ⟨hmem, hops, hreg, hrow⟩ := replayNoted_frame s k x
  have hcount : reg (replayNoted s k x) 0x5000 6 = (reg s 0x5000 6 + 1) % 2 ^ 64 := (hreg _ _).trans (reg_setReg_same ..)
  have hentries : reg (replayNoted s k x) 0x8100 2 = reg s 0x8100 2 := (hreg _ _).trans (reg_bumpBy_ne 1 (by decide))
  by_cases hlast : failuresInRow s k x = 16
  · have ht : t = logEvent (replayNoted s k x) (linkFault k wire) := if_pos hlast
    have hreport := logEvent_reportsOnly (replayNoted s k x) (linkFault k wire)
    rw [ht, hreport.hbm_eq, hreport.mem_eq, hreport.ops_eq, hrow, reg_logEvent_entries (Nat.one_ne_zero), hentries, if_pos hlast,
      logEvent_entriesKept (lo := dkey 0x5000 0) (hi := dkey 0x5001 0) (by decide) (by decide) _ _ _ _ (by decide) (by decide)]
    exact ⟨hcount, hmem, hops, rfl, (if_pos hlast).symm⟩
  · have ht : t = replayNoted s k x := if_neg hlast
    exact ht ▸ ⟨hcount, hmem, hops, hrow, hentries.trans (if_neg hlast).symm⟩

/-! The end of a copy. -/

theorem findOp_of_ops_eq {s t : State} (h : t.ops = s.ops) (tag : Nat) : findOp t tag = findOp s tag := by
  unfold findOp
  rw [h]

theorem dmaError_ops (s : State) (d st : Nat) : (dmaError s d st).ops = s.ops := by
  unfold dmaError
  split
  · rfl
  · exact (raise_reportsOnly s _).ops_eq

/-- The end of a copy in flight leaves its status. -/
theorem findOp_finishDma {s : State} {tag : Nat} {o : Op} (ho : findOp s tag = some o) (hflight : o.ended = false) :
    ∃ o', findOp (finishDma s tag) tag = some o' ∧ o'.ended = true ∧ o'.status = o.status := by
  have hend := findOp_updOp_same (s := s) (f := fun x => { x with ended := true, energy := Config.energyEstimate s.freeCtr })
    (fun _ => rfl) ho
  unfold finishDma
  rw [ho]
  dsimp only
  rw [if_neg (by simp [hflight]), findOp_of_ops_eq (dmaError_ops ..)]
  exact ⟨_, hend, by simp, by simp⟩

/-- A copy in flight that has failed nowhere is stopped with the status given. -/
theorem findOp_stopDma {s : State} {tag : Nat} {o : Op} (st : Nat) (ho : findOp s tag = some o) (hflight : o.ended = false)
    (hgood : o.status = stOk) : ∃ o', findOp (stopDma s tag st) tag = some o' ∧ o'.ended = true ∧ o'.status = st := by
  unfold stopDma
  extract_lets mine n s1
  have hstop : findOp s1 tag = some (Op.stamp s.aon.time { o with
      remoteOut := o.remoteOut - n, status := if o.ended || o.status != 0 then o.status else st }) :=
    findOp_updOp_same (s := dropUnsent s mine) (f := fun o => { o with
      remoteOut := o.remoteOut - n, status := if o.ended || o.status != 0 then o.status else st }) (fun _ => rfl) ho
  obtain ⟨o', ho', hended, hstatus⟩ := findOp_finishDma hstop (by rw [Op.stamp_ended]; exact hflight)
  refine ⟨o', ho', hended, hstatus.trans ?_⟩
  rw [Op.stamp_status]
  exact if_neg (by simp [hflight, hgood])

theorem findOp_stopWork_dma {s : State} {tag : Nat} {o : Op} (st : Nat) (ho : findOp s tag = some o) (hflight : o.ended = false)
    (hkind : o.kind = .dma) (hgood : o.status = stOk) :
    ∃ o', findOp (stopWork st s tag) tag = some o' ∧ o'.ended = true ∧ o'.status = st := by
  have hstop : stopWork st s tag = stopDma s tag st := by
    unfold stopWork stopOp
    simp [ho, hflight, hkind, findOp_tag ho]
  rw [hstop]
  exact findOp_stopDma st ho hflight hgood

/-! Refresh and calibration (R224, R226). -/

theorem exec_refresh {s : State} (k : StackId) (pc bank : Fin 64) (hclock : clockOn s = true) (hawake : s.hbm.selfRefresh = false) :
    exec (.refresh k pc bank) s = .next { s with hbm := { s.hbm with
      lastRefresh := SMap.set s.hbm.lastRefresh ((k * 64 + pc) * 64 + bank) (now s + 1) 0 } } := by
  show execRefresh k pc bank s = _
  simp [execRefresh, hclock, hawake]

/-- The time of a note, by the note before it: none yet, or one long enough ago. -/
theorem exec_readPhaseUpdate {s : State} {k : StackId} {pc : Fin 64} (hlive : stackLive s k = true) :
    exec (.readPhaseUpdate k pc) s = .next
      (if SMap.get s.hbm.lastPhase (k * 64 + pc) 0 = 0 ∨ SMap.get s.hbm.lastPhase (k * 64 + pc) 0 - 1 + 10000 ≤ now s then
        { s with hbm := { s.hbm with lastPhase := SMap.set s.hbm.lastPhase (k * 64 + pc) (now s + 1) 0 } }
      else s) := by
  show execReadPhaseUpdate k pc s = _
  simp [execReadPhaseUpdate, hlive]

theorem exec_writePathRetrain {s : State} {k : StackId} {ch : Fin 32} (hlive : stackLive s k = true) :
    exec (.writePathRetrain k ch) s = .next
      (if SMap.get s.hbm.lastRetrain (k * 32 + ch) 0 = 0 ∨ SMap.get s.hbm.lastRetrain (k * 32 + ch) 0 - 1 + 1000000 ≤ now s then
        { s with hbm := { s.hbm with lastRetrain := SMap.set s.hbm.lastRetrain (k * 32 + ch) (now s + 1) 0 } }
      else s) := by
  show execWritePathRetrain k ch s = _
  simp [execWritePathRetrain, hlive]

/-! Repairs burnt (R225). -/

/-- Each element of a list adds one to the entry of its key. -/
theorem get_foldl_count {α : Type} (key : α → Nat) (l : List α) (m : SMap Nat) (k : Nat) :
    SMap.get (l.foldl (fun m r => SMap.upd m (key r) 0 (· + 1)) m) k 0 = SMap.get m k 0 + (l.filter (fun r => key r == k)).length := by
  induction l generalizing m with
  | nil => rfl
  | cons r l ih =>
    rw [List.foldl_cons, ih, SMap.upd, SMap.get_set, List.filter_cons]
    by_cases hkey : key r = k
    · rw [if_pos hkey.symm, if_pos (by simpa using hkey), hkey, List.length_cons]
      omega
    · rw [if_neg (Ne.symm hkey), if_neg (by simpa using hkey)]

/-- The burns' end before the counts of the stacks are shown. -/
def repairsFused (s : State) : State :=
  { s with
    fuses := { s.fuses with
      hpprUsed := s.hbm.burning.foldl (fun m r => SMap.upd m (bankGroupKey r) 0 (· + 1)) s.fuses.hpprUsed
      hardRows := s.fuses.hardRows ++ s.hbm.burning.map rowNumber }
    hbm := { s.hbm with sppr := s.hbm.sppr.filter (fun r => !s.hbm.burning.contains r), burning := [] } }

theorem exec_pprBurnComplete {s : State} (hclock : clockOn s = true) :
    exec .pprBurnComplete s = .next ((List.range 20).foldl showSppr (repairsFused s)) := by
  show execPprBurnComplete s = _
  unfold execPprBurnComplete
  rw [if_pos hclock]
  rfl

/-- Showing the counts stores entries only. -/
theorem foldl_showSppr_reportsOnly (l : List Nat) (s : State) : ReportsOnly s (l.foldl showSppr s) :=
  .foldl (fun t _ => setReg_reportsOnly t _ _ _) l s

end Sys2Proof.Machine
end

section
/-! SUPPORT. The statement of slot tables, links, calibration and repairs (R207, R213 to R215, R224 to R226). -/

namespace Sys2Proof.Machine

/-- Settles O31, a clause at a time: each command does what its own equation says (`slotGranted`, `tableWrapped` and `adoptMode`,
`replayReported`, `repairsFused`), and reports change no entry of the tables. -/
theorem slotTablesCalibrationAndRepairsMoveOn : Obligations.SlotTablesCalibrationAndRepairsMoveOn := by
  refine fun s hclock => ⟨fun cg l => ?_, fun cg => ?_, fun p v => ⟨fun cg hok => ?_, fun hok => ?_⟩, fun k x w user => ?_,
    fun k pc bank hawake => ?_, fun k pc ch hlive => ?_, fun p hok => ?_, ?_⟩
  · intro i r turn hawake hslot
    have hgrant : SMap.get (slotGranted s cg i r).hbm.lastGrant cg 0 = slotGrants (SMap.get s.hbm.freeMode cg false)
        (fld (reg s (0x5100 + cg) 2) (2 * i + 1) (2 * i)) turn r := SMap.get_set_same ..
    have hturn : SMap.get (slotGranted s cg i r).hbm.turn cg 0 = turnAfter (SMap.get s.hbm.freeMode cg false) turn r :=
      SMap.get_set_same ..
    refine ⟨_, exec_hbmSlotGrant l hclock hawake hslot, rfl, SMap.get_set_same .., fun hprio => ?_,
      fun hfree => ⟨fun hnone => ?_, fun j hj hready hfirst => ?_⟩⟩
    · rw [hgrant, hturn, hprio]
      exact ⟨rfl, rfl⟩
    · rw [hgrant, hturn, hfree, slotGrants, turnAfter, if_pos rfl, if_pos rfl, servedTurn_eq_none hnone]
      exact ⟨rfl, rfl⟩
    · rw [hgrant, hturn, hfree, slotGrants, turnAfter, if_pos rfl, if_pos rfl, servedTurn_eq_some hj hready hfirst]
      exact ⟨rfl, rfl⟩
  · intro v adopts
    obtain ⟨hhbm, hmem, hframes, hentries⟩ := tableWrapped_frame s cg
    obtain ⟨hslot, hmem', hkept⟩ := adoptMode_frame (tableWrapped s cg) cg
    obtain ⟨hswap, hstay⟩ := reg_tableWrapped s cg
    have hreg : ∀ sub < 256, reg (adoptMode (tableWrapped s cg) cg) (0x5100 + cg) sub = reg (tableWrapped s cg) (0x5100 + cg) sub :=
      fun sub hsub => hkept _ _ (by unfold dkey; omega) (by unfold dkey; omega)
    have hmode : modeState (tableWrapped s cg) 0 = modeState s 0 := hentries _ _ (by
      simp only [List.mem_cons, List.not_mem_nil, or_false, not_or]
      unfold dkey
      omega)
    have hadopts : Adopts (tableWrapped s cg) cg ↔ adopts := by
      unfold Adopts
      rw [hmode, hframes, hhbm]
    refine ⟨_, exec_slotTableWrap hclock, ?_, hmem'.trans hmem, fun hpending => ?_, fun hidle => ?_, fun ha => ?_, fun ha => ?_,
      fun ha => ?_⟩
    · rw [hslot, hhbm]
      exact SMap.get_set_same ..
    · rw [hreg 2 (by decide), hreg 3 (by decide)]
      exact hswap hpending
    · rw [hreg 2 (by decide)]
      exact hstay hidle
    · rw [(adoptMode_adopts (hadopts.mpr ha)).1, hframes]
    · have hlast := (adoptMode_adopts (hadopts.mpr ha)).2
      rw [hframes, hhbm] at hlast
      exact hlast
    · rw [adoptMode_of_not_adopts (fun h => ha (hadopts.mp h)), hhbm]
      exact ⟨rfl, rfl⟩
  · refine ⟨_, guarded_of_writeOk (pre := freely) (effSlotShadow cg v.toNat) hok, ?_⟩
    obtain ⟨hshadow, hpending⟩ := effSlotShadow_pending s cg v.toNat
    exact ⟨hshadow, hpending, effSlotShadow_sameEntriesBut s cg v.toNat, effSlotShadow_mem s cg v.toNat⟩
  · refine ⟨_, exec_slotAll hok, ?_, fun cg => ?_⟩
    · rw [emit_mem, effSlotAll_mem]
    · rw [reg_emit, reg_emit, reg_emit]
      exact effSlotAll_pending s v.toNat cg.isLt
  · intro n
    obtain ⟨hcount, hmem, hops, hrow, hlog⟩ := replayReported_effect s k x w.toNat
    refine ⟨fun tag o hlast huser ho hflight hkind hgood => ?_, _, exec_stackLinkReplay hclock, hcount, hmem, hrow, hlog⟩
    obtain ⟨o', ho', hended, hstatus⟩ :=
      findOp_stopWork_dma stHwFault ((findOp_of_ops_eq hops tag).trans ho) hflight hkind hgood
    refine ⟨_, o', (exec_stackLinkReplay hclock).trans (congrArg _ (if_pos hlast)), ?_, hended, hstatus⟩
    rw [huser]
    exact ho'
  · exact ⟨_, exec_refresh k pc bank hclock hawake, SMap.get_set_same .., rfl⟩
  · intro phase train
    refine ⟨fun hdue => ?_, fun hnoted hsoon => ?_, fun hdue => ?_, fun hnoted hsoon => ?_⟩
    · exact ⟨_, (exec_readPhaseUpdate hlive).trans (congrArg _ (if_pos hdue)), SMap.get_set_same .., rfl⟩
    · exact (exec_readPhaseUpdate hlive).trans (congrArg _ (if_neg (by omega)))
    · exact ⟨_, (exec_writePathRetrain hlive).trans (congrArg _ (if_pos hdue)), SMap.get_set_same .., rfl⟩
    · exact (exec_writePathRetrain hlive).trans (congrArg _ (if_neg (by omega)))
  · exact ⟨_, guarded_of_writeOk (pre := prePprBurn 1) (effPprBurn 1) hok, rfl, rfl, rfl, rfl⟩
  · have hshown := foldl_showSppr_reportsOnly (List.range 20) (repairsFused s)
    refine ⟨_, exec_pprBurnComplete hclock, ?_, fun r => ?_, ?_, fun k => ?_, hshown.mem_eq⟩
    · rw [hshown.hbm_eq]
      rfl
    · rw [hshown.hbm_eq]
      simp [repairsFused]
    · rw [hshown.fuses_eq]
      rfl
    · rw [hshown.fuses_eq]
      exact get_foldl_count ..

end Sys2Proof.Machine
end

section
/-! REFUTATION of O32. A generator run without reads leaves TGEN_DONE as it stands (R229), where the statement has it
reduced modulo 2^64. The two agree while the count is below 2^64, as every count of the model is (`bumpBy`); the statement is
about every state and has no such premise. -/

namespace Sys2Proof.Machine

/-! What a run's patterns leave in the dictionary. -/

theorem scribble_sameEntriesBut (s : State) (lines : List Nat) : SameEntriesBut [dkey 0x8000 9] s (scribble s lines) := by
  have hfold : ∀ (l : List (Nat × Nat)) (v : Nat × Nat → Line) (t : State), SameEntriesBut [dkey 0x8000 9] t
      (l.foldl (fun t e => writeLine t e.2 (v e) (BitVec.allOnes 128)) t) := by
    intro l v
    induction l with
    | nil => exact fun t => .refl _ t
    | cons e l ih => exact fun t => (writeLine_sameEntriesBut t _ _ _).trans (ih _)
  exact (hfold _ _ s).trans (.of_dict_eq rfl _)

/-- The lines of a run that had reads are counted as read; no other count of the generator changes (R229). -/
theorem reg_tgenWrote_lines (s : State) (k n : Nat) : reg (tgenWrote s k n) (0x5200 + k) 8 =
    if (tgenRunOf s k).2.2 = 0 then reg s (0x5200 + k) 8 else (reg s (0x5200 + k) 8 + n) % 2 ^ 64 := by
  unfold tgenWrote
  extract_lets run s1
  have hlines : reg s1 (0x5200 + k) 8 = reg s (0x5200 + k) 8 := by
    dsimp only [s1]
    split
    · rfl
    · exact scribble_sameEntriesBut s _ _ _ (by rw [List.mem_singleton]; unfold dkey; omega)
  split
  · exact hlines
  · rw [← hlines]
    exact reg_setReg_same ..

/-- The end of a run leaves the count of lines read. -/
theorem reg_tgenFinish_lines (s : State) {k : Nat} (hk : k < 20) (found : Nat) :
    reg (tgenFinish s k found) (0x5200 + k) 8 = reg s (0x5200 + k) 8 := by
  unfold tgenFinish
  extract_lets errors s1 hbm s2
  have h1 : reg s1 (0x5200 + k) 8 = reg s (0x5200 + k) 8 := by
    dsimp only [s1]
    rw [reg_setReg_ne _ _ (by unfold dkey; omega), reg_setReg_ne _ _ (by unfold dkey; omega),
      reg_bumpBy_ne _ (by unfold dkey; omega)]
  have h2 : reg s2 (0x5200 + k) 8 = reg s1 (0x5200 + k) 8 := reg_of_dict_eq (by dsimp only [s2]) _ _
  split
  · exact h2.trans h1
  · exact ((raise_signalsOnly s2 _).reg_eq _ _).trans (h2.trans h1)

theorem exec_tgenRunEnd {s : State} {k : StackId} (errors : BitVec 64) (hclock : clockOn s = true)
    (hruns : reg s (0x5200 + k) 1 = 1) (hlines : (tgenRunOf s k).2.1 ≠ 0) : exec (.tgenRunEnd k errors) s =
      .next (tgenFinish (tgenWrote s k (tgenRunOf s k).2.1) k errors.toNat) := by
  show execTgenRunEnd k errors s = _
  simp [execTgenRunEnd, hclock, hruns, hlines]

/-- The clause that fails, with the premise it lacks: below 2^64 the count is the one stated, with reads or without. -/
theorem reg_tgenRunEnd_lines_of_lt {s : State} {k : StackId} (found : Nat) (hcount : reg s (0x5200 + k) 8 < 2 ^ 64) :
    reg (tgenFinish (tgenWrote s k (tgenRunOf s k).2.1) k found) (0x5200 + k) 8 =
      (reg s (0x5200 + k) 8 + if (tgenRunOf s k).2.2 = 0 then 0 else (tgenRunOf s k).2.1) % 2 ^ 64 := by
  rw [reg_tgenFinish_lines _ k.isLt, reg_tgenWrote_lines]
  split
  · rw [Nat.add_zero, Nat.mod_eq_of_lt hcount]
  · rfl

/-! The counterexample. -/

/-- The generator of stack 0 is in a run of one line without reads, and its count of lines read stands at 2^64. -/
def countFull : State :=
  { State.reset with
    dict := [(dkey 0x5200 1, 1), (dkey 0x5200 8, 2 ^ 64)]
    hbm := { Hbm.reset with tgenRun := [(0, (0, 1, 0))] } }

theorem countFull_runs : clockOn countFull = true ∧ reg countFull (0x5200 + (0 : StackId)) 1 = 1 ∧
    tgenRunOf countFull (0 : StackId) = (0, 1, 0) ∧ reg countFull (0x5200 + (0 : StackId)) 8 = 2 ^ 64 := by decide

/-- Refutes O32: its clause on the end of a generator run has the lines read at the old count plus the run's modulo 2^64. In
`countFull` the run has no reads and the count stays at 2^64, which is no such value. The clause lacks the premise of
`reg_tgenRunEnd_lines_of_lt`. -/
theorem not_marginAndTrafficRunsOwnTheChecker : ¬ Obligations.MarginAndTrafficRunsOwnTheChecker := by
  intro h
  obtain ⟨hclock, hruns, hrun, hcount⟩ := countFull_runs
  obtain ⟨-, -, hstacks⟩ := h countFull .sec
  obtain ⟨-, -, -, hend⟩ := hstacks 0
  obtain ⟨t, ht, -, -, hread, -⟩ := hend 0 0 1 0 hclock hruns hrun (by decide)
  obtain rfl := Host.Outcome.next.inj (ht.symm.trans (exec_tgenRunEnd 0 hclock hruns (by rw [hrun]; decide)))
  rw [reg_tgenFinish_lines _ (Fin.isLt _), reg_tgenWrote_lines, hrun, if_pos rfl, hcount] at hread
  exact absurd hread (by decide)

end Sys2Proof.Machine
end

section
/-! SUPPORT. The bits of a line (R5, R234): those of its bytes, of a merge under a nibble mask, and of the word that a control
core writes (R243). -/

namespace Sys2Proof.Machine

/-! Bits of digits and of bytes. -/

theorem testBit_ofDigits {b : Nat} {f : Nat → Nat} (hf : ∀ i, f i < 2 ^ b) {n i : Nat} (hi : i < b * n) :
    (ofDigits b f n).testBit i = (f (i / b)).testBit (i % b) := by
  have hb : 0 < b := Nat.pos_of_ne_zero fun h => by simp [h] at hi
  have hplace : b * (i / b) + i % b = i := Nat.div_add_mod i b
  rw [← digit_ofDigits hf (Nat.div_lt_of_lt_mul hi), Nat.testBit_mod_two_pow, Nat.testBit_div_two_pow,
    Nat.add_comm (i % b), hplace, decide_eq_true (Nat.mod_lt i hb), Bool.true_and]

theorem testBit_leVal (l : List Byte) (i : Nat) : (leVal l).testBit i = (l.getD (i / 8) 0).getLsbD (i % 8) := by
  induction l generalizing i with
  | nil => simp [leVal]
  | cons b l ih =>
    have hval : leVal (b :: l) = 2 ^ 8 * leVal l + b.toNat := Nat.add_comm _ _
    rw [hval, Nat.testBit_two_pow_mul_add _ b.isLt]
    split
    next hlt => rw [Nat.div_eq_of_lt hlt, Nat.mod_eq_of_lt hlt]; rfl
    next hge =>
      obtain ⟨j, rfl⟩ := Nat.exists_eq_add_of_le (Nat.le_of_not_lt hge)
      rw [ih, Nat.add_sub_cancel_left, Nat.add_div_left j (by decide), Nat.add_mod_left, List.getD_cons_succ]

theorem testBit_memVal (s : State) {a n i : Nat} (hi : i < 8 * n) :
    (memVal s a n).testBit i = (memByte s (a + i / 8)).getLsbD (i % 8) := by
  have hlt : i / 8 < n := Nat.div_lt_of_lt_mul hi
  rw [memVal, testBit_leVal, memRead, List.getD_eq_getElem _ _ (by simpa using hlt)]
  simp

theorem memVal_lt (s : State) (a n : Nat) : memVal s a n < 2 ^ (8 * n) := by
  refine Nat.lt_pow_two_of_testBit _ fun i hi => ?_
  have hlen : (memRead s a n).length ≤ i / 8 := by simp only [memRead, List.length_map, List.length_range]; omega
  rw [memVal, testBit_leVal, List.getD_eq_default _ _ hlen]
  simp

/-- A line holds the bits of its bytes. -/
theorem getLsbD_lineAt (s : State) (a : Nat) {i : Nat} (hi : i < 512) :
    (lineAt s a).getLsbD i = (memByte s (lineAddr a + i / 8)).getLsbD (i % 8) := by
  rw [lineAt, BitVec.getLsbD_ofNat, decide_eq_true hi, Bool.true_and, testBit_memVal s (by omega)]

/-- A value that lies inside one line, from the bits of the line. -/
theorem testBit_memVal_of_line (s : State) {a n i : Nat} (hin : a % 64 + n ≤ 64) (hi : i < 8 * n) :
    (memVal s a n).testBit i = (lineAt s a).getLsbD (8 * (a % 64) + i) := by
  have hbyte : lineAddr a + (8 * (a % 64) + i) / 8 = a + i / 8 := by
    unfold lineAddr
    omega
  rw [testBit_memVal s hi, getLsbD_lineAt s a (by omega), hbyte, show (8 * (a % 64) + i) % 8 = i % 8 by omega]

/-- Bit `i` of a byte of the line of `a`. -/
theorem getLsbD_memByte_of_line (s : State) {a x i : Nat} (hlo : lineAddr a ≤ x) (hhi : x < lineAddr a + 64) (hi : i < 8) :
    (memByte s x).getLsbD i = (lineAt s a).getLsbD (8 * (x - lineAddr a) + i) := by
  rw [getLsbD_lineAt s a (by omega), show lineAddr a + (8 * (x - lineAddr a) + i) / 8 = x by omega,
    show (8 * (x - lineAddr a) + i) % 8 = i by omega]

/-! Merging under a mask. -/

/-- A merge takes each bit from the new line where the nibble is enabled, and from the old one elsewhere (R234). -/
theorem getLsbD_mergeLine (old new : Line) (mask : BitVec 128) {i : Nat} (hi : i < 512) :
    (mergeLine old new mask).getLsbD i = if mask.getLsbD (i / 4) then new.getLsbD i else old.getLsbD i := by
  have hdigits : mergeLine old new mask = BitVec.ofNat 512 (ofDigits 4
      (fun j => (if mask.getLsbD j then new.toNat else old.toNat) / 2 ^ (4 * j) % 2 ^ 4) 128) := by
    refine congrArg (BitVec.ofNat 512) (List.foldl_ext _ _ _ fun v j _ => ?_)
    refine congrArg (fun x => v + x * 2 ^ (4 * j)) ?_
    dsimp only
    cases mask.getLsbD j
    · exact fld_digit (b := 4) old.toNat (by decide) j
    · exact fld_digit (b := 4) new.toNat (by decide) j
  have hplace : i % 4 + 4 * (i / 4) = i := Nat.mod_add_div i 4
  rw [hdigits, BitVec.getLsbD_ofNat, decide_eq_true hi, Bool.true_and,
    testBit_ofDigits (fun _ => Nat.mod_lt _ (by decide)) (by omega), Nat.testBit_mod_two_pow, Nat.testBit_div_two_pow, hplace,
    decide_eq_true (Nat.mod_lt i (by decide)), Bool.true_and]
  split
  · rfl
  · rfl

theorem getLsbD_nibbles (m : Nat) {i : Nat} (hi : i < 128) : (nibbles m).getLsbD i = m.testBit (i / 2) := by
  have hdigits : nibbles m = BitVec.ofNat 128 (ofDigits 2 (fun j => if m.testBit j then 3 else 0) 64) := by
    refine congrArg (BitVec.ofNat 128) (List.foldl_ext _ _ _ fun v j _ => ?_)
    dsimp only
    split
    · rfl
    · rw [Nat.zero_mul, Nat.add_zero]
  have hdigit : ∀ j, (if m.testBit j then 3 else 0) < 2 ^ 2 := fun j => by split <;> decide
  have hones : Nat.testBit 3 (i % 2) = true := by rcases Nat.mod_two_eq_zero_or_one i with h | h <;> rw [h] <;> decide
  rw [hdigits, BitVec.getLsbD_ofNat, decide_eq_true hi, Bool.true_and, testBit_ofDigits hdigit (by omega)]
  split
  next hset => rw [hset, hones]
  next hclear => rw [Nat.zero_testBit, Bool.eq_false_of_not_eq_true hclear]

/-- A line written where the line is in use and its stack is not lost reads as the merge. -/
theorem lineAt_writeLine_masked {s : State} {a : Nat} (v : Line) (mask : BitVec 128) (hret : isRetired s a = false)
    (hlost : rangeLost s a 1 = false) : lineAt (writeLine s a v mask) a = mergeLine (lineAt s a) v mask := by
  have hmem : (writeLine s a v mask).mem = (putLine s a (mergeLine (lineAt s a) v mask)).mem := by
    rw [writeLine_mem, hret, hlost, putLine_mem]
    rfl
  rw [lineAt_of_mem_eq hmem, lineAt_putLine]

/-! A write through the read-through cache (R240). -/

/-- It is a line write, and may change the cached line. -/
theorem coreWrite_eq (s : State) (a : Nat) (data : Line) (mask : BitVec 128) :
    ∃ rtCache, coreWrite s a data mask = { writeLine s a data mask with rtCache := rtCache } := by
  unfold coreWrite
  dsimp only
  split
  · exact ⟨_, rfl⟩
  · exact ⟨_, rfl⟩

/-- What a line write leaves and no cache holds. -/
theorem coreWrite_leaves {α : Type} (f : State → α) (hcache : ∀ t (c : SMap Line), f { t with rtCache := c } = f t) (s : State)
    (a : Nat) (data : Line) (mask : BitVec 128) : f (coreWrite s a data mask) = f (writeLine s a data mask) := by
  obtain ⟨_, h⟩ := coreWrite_eq s a data mask
  rw [h, hcache]

/-! The word of a control core (R243). -/

section
variable {s : State} {a : Nat} {wide : Bool} (v : Nat) (haligned : a % wordLen wide = 0)

include haligned in
theorem word_inLine : a % 64 + wordLen wide ≤ 64 := by
  cases wide <;> simp only [wordLen, Bool.false_eq_true, if_false, if_true] at * <;> omega

/-- The bits that the mask of a word enables are those of the word. -/
theorem getLsbD_wordMask {i : Nat} (hi : i < 512) :
    (nibbles ((2 ^ wordLen wide - 1) * 2 ^ (a % 64))).getLsbD (i / 4) =
      (decide (a % 64 ≤ i / 8) && decide (i / 8 < a % 64 + wordLen wide)) := by
  rw [getLsbD_nibbles _ (by omega), Nat.div_div_eq_div_mul, Nat.testBit_mul_two_pow, Nat.testBit_two_pow_sub_one, Bool.eq_iff_iff]
  simp only [Bool.and_eq_true, decide_eq_true_eq]
  omega

variable (hret : isRetired s a = false) (hlost : rangeLost s a 1 = false)
include hret hlost

theorem lineAt_writeWord : lineAt (writeWord s a wide v) a = mergeLine (lineAt s a)
    (BitVec.ofNat 512 (v % 2 ^ (8 * wordLen wide) * 2 ^ (8 * (a % 64)))) (nibbles ((2 ^ wordLen wide - 1) * 2 ^ (a % 64))) := by
  rw [← lineAt_writeLine_masked _ _ hret hlost]
  exact coreWrite_leaves (fun t => lineAt t a) (fun _ _ => rfl) ..

include haligned in
theorem memVal_writeWord : memVal (writeWord s a wide v) a (wordLen wide) = v % 2 ^ (8 * wordLen wide) := by
  have hin := word_inLine haligned
  refine Nat.eq_of_testBit_eq fun i => ?_
  by_cases hi : i < 8 * wordLen wide
  · rw [testBit_memVal_of_line _ hin hi, lineAt_writeWord v hret hlost, getLsbD_mergeLine _ _ _ (by omega),
      getLsbD_wordMask (by omega), if_pos (by simp only [Bool.and_eq_true, decide_eq_true_eq]; omega), BitVec.getLsbD_ofNat,
      Nat.testBit_mul_two_pow, decide_eq_true (by omega), decide_eq_true (Nat.le_add_right _ i), Nat.add_sub_cancel_left]
    rfl
  · rw [Nat.testBit_lt_two_pow, Nat.testBit_lt_two_pow]
    · exact lt_of_lt_of_le (Nat.mod_lt _ (Nat.two_pow_pos _)) (Nat.pow_le_pow_right (by decide) (Nat.le_of_not_lt hi))
    · exact lt_of_lt_of_le (memVal_lt _ _ _) (Nat.pow_le_pow_right (by decide) (Nat.le_of_not_lt hi))

/-- The bytes beside the word are as before, in its line and in others. -/
theorem writeWord_sameMemoryBut : SameMemoryBut [(a, wordLen wide)] s (writeWord s a wide v) := by
  intro x hx
  have hout : x < a ∨ a + wordLen wide ≤ x := hx _ List.mem_cons_self
  by_cases hline : lineAddr a ≤ x ∧ x < lineAddr a + 64
  · obtain ⟨hlo, hhi⟩ := hline
    refine BitVec.eq_of_getLsbD_eq fun i hi => ?_
    rw [getLsbD_memByte_of_line _ hlo hhi hi, getLsbD_memByte_of_line s hlo hhi hi, lineAt_writeWord v hret hlost,
      getLsbD_mergeLine _ _ _ (by omega), getLsbD_wordMask (by omega), if_neg]
    simp only [Bool.and_eq_true, decide_eq_true_eq]
    unfold lineAddr at *
    omega
  · refine (coreWrite_leaves (fun t => memByte t x) (fun _ _ => rfl) ..).trans (memByte_writeLine_outside ?_)
    omega

end

end Sys2Proof.Machine
end

section
/-! SUPPORT. Atomics of the control cores (R243, R244): where they fault, what they read and leave, and the reservation of an LR
and SC pair. -/

namespace Sys2Proof.Machine

/-! The outcomes of an atomic. -/

/-- With aq, an atomic acquires at DEVICE scope (R241). -/
def acquiredIf (aq : Bool) (s : State) : State := if aq then acquireEffect s 2 true else s

/-- The new word of an atomic is written, if it has one. -/
def wordStored (s : State) (a : Nat) (wide : Bool) (v : Option Nat) : State :=
  match v with
  | none => s
  | some v => writeWord s a wide v

/-- Core `n` reserves the line of `a`. -/
def reserving (s : State) (n a : Nat) : State := { s with reservations := SMap.put s.reservations n (lineAddr a + 1) }

/-- The state once an SC of core `n` has used its reservation up. -/
def unreserved (s : State) (n : Nat) : State := { s with reservations := SMap.drop s.reservations n }

section
variable {s : State} {addr : FabricAddr} {a : Nat} {wide : Bool}

theorem atomicServed_of_runs (hcores : coresRun s = true) (hstop : stopped s = false) (hown : ownAddr s addr = some a)
    (hheld : memHeld s a = false) : atomicServed s addr = true := by
  have haddr : fld addr.toNat 43 0 = a := by
    unfold ownAddr at hown
    split at hown
    · exact Option.some.inj hown
    · cases hown
  simp [atomicServed, hcores, hstop, haddr, hheld]

theorem atomicAt_of_bad (hown : ownAddr s addr = some a)
    (hbad : unassigned a = true ∨ (inCtl a || a % wordLen wide != 0 || isPoisoned s a) = true) : atomicAt s wide addr = none := by
  unfold atomicAt
  rw [hown]
  refine if_pos ?_
  rcases hbad with h | h
  · simp [h]
  · rw [Bool.or_assoc, Bool.or_assoc, ← Bool.or_assoc (inCtl a)]
    exact Bool.or_eq_true_iff.mpr (.inr h)

theorem atomicAt_of_good (hown : ownAddr s addr = some a) (hassigned : unassigned a = false)
    (hgood : (inCtl a || a % wordLen wide != 0 || isPoisoned s a) = false) : atomicAt s wide addr = some a := by
  unfold atomicAt
  rw [hown]
  refine if_neg ?_
  rw [Bool.or_assoc, Bool.or_assoc, ← Bool.or_assoc (inCtl a), hassigned]
  exact Bool.not_eq_true _ ▸ hgood

/-- A place of no fault is aligned, and its line is in use on a stack that is not lost. -/
theorem usable_of_good (hgood : (inCtl a || a % wordLen wide != 0 || isPoisoned s a) = false) :
    a % wordLen wide = 0 ∧ isRetired s a = false ∧ rangeLost s a 1 = false := by
  simp only [isPoisoned, Bool.or_eq_false_iff, bne_eq_false_iff_eq] at hgood
  obtain ⟨⟨-, haligned⟩, ⟨-, hret⟩, hlost⟩ := hgood
  exact ⟨haligned, hret, hlost⟩

variable (hserved : atomicServed s addr = true) (n : Fin 4) (aq : Bool) (f : Nat → Option Nat)
include hserved

theorem atomic_of_fault (hat : atomicAt s wide addr = none) : atomic n wide addr aq s f = atomicFault s n addr := by
  simp only [atomic, hserved, hat]
  rfl

theorem atomic_of_good (hat : atomicAt s wide addr = some a) : atomic n wide addr aq s f =
    emit (acquiredIf aq (wordStored s a wide (f (memVal s a (wordLen wide)))))
      (.atomicOld n (BitVec.ofNat 64 (memVal s a (wordLen wide)))) := by
  simp only [atomic, hserved, hat]
  rfl

theorem loadReserved_of_fault (hat : atomicAt s wide addr = none) : loadReserved n wide addr aq s = atomicFault s n addr := by
  simp only [loadReserved, hserved, hat, if_true]
  exact atomic_of_fault hserved n aq _ hat

theorem loadReserved_of_good (hat : atomicAt s wide addr = some a) : loadReserved n wide addr aq s =
    reserving (emit (acquiredIf aq s) (.atomicOld n (BitVec.ofNat 64 (memVal s a (wordLen wide))))) n a := by
  simp only [loadReserved, hserved, hat, if_true, atomic_of_good hserved n aq _ hat]
  rfl

theorem storeConditional_of_good (hat : atomicAt s wide addr = some a) (v : BitVec 64) : storeConditional n wide addr v aq s =
    emit (acquiredIf aq (wordStored (unreserved s n) a wide
      (if SMap.get s.reservations n 0 = lineAddr a + 1 then some v.toNat else none)))
      (.scDone n (SMap.get s.reservations n 0 == lineAddr a + 1)) := by
  simp only [storeConditional, hserved, hat]
  by_cases hholds : SMap.get s.reservations n 0 = lineAddr a + 1
  · simp only [hholds, beq_self_eq_true, if_true]
    rfl
  · simp only [beq_eq_false_iff_ne.mpr hholds, hholds, if_false]
    rfl

end

/-! What an atomic leaves. -/

/-- What an atomic leaves but for memory, reservations and its answer. -/
def AtomicQuiet (aq : Bool) (s t : State) : Prop :=
  SameEntriesBut [dkey 0x2500 6] s t ∧ t.ops = s.ops ∧ t.bar = s.bar ∧ (aq = true → t.rtCache = [])

/-- An acquire at DEVICE scope empties the read-through cache, and counts that. -/
theorem acquiredIf_quiet (aq : Bool) (s : State) : AtomicQuiet aq s (acquiredIf aq s) := by
  cases aq with
  | false => exact ⟨fun _ _ _ => rfl, rfl, rfl, fun h => nomatch h⟩
  | true => exact ⟨(acquireEffect_frame s 2 true).2.2.2.2, rfl, rfl, fun _ => rfl⟩

theorem acquiredIf_leaves {α : Type} (f : State → α) (hcache : ∀ t (c : SMap Line), f { t with rtCache := c } = f t)
    (hbump : ∀ t i sub, f (bump t i sub) = f t) (aq : Bool) (s : State) : f (acquiredIf aq s) = f s := by
  cases aq with
  | false => rfl
  | true => exact (hbump _ _ _).trans (hcache s [])

theorem mem_acquiredIf (aq : Bool) (s : State) : (acquiredIf aq s).mem = s.mem :=
  acquiredIf_leaves State.mem (fun _ _ => rfl) bump_mem aq s

theorem out_acquiredIf (aq : Bool) (s : State) (o : Output) : (emit (acquiredIf aq s) o).out = s.out ++ [o] :=
  congrArg (· ++ [o]) (acquiredIf_leaves State.out (fun _ _ => rfl) (fun _ _ _ => setReg_out ..) aq s)

section
variable {s : State} {a : Nat} {wide : Bool}

/-- A word written leaves what a change of the cached line, a store of bytes and a clearing of poison all leave. -/
theorem wordStored_leaves {α : Type} (f : State → α) (hcache : ∀ t (c : SMap Line), f { t with rtCache := c } = f t)
    (hstore : ∀ t m r, f { t with mem := m, reservations := r } = f t) (hclear : ∀ t a len, f (clearPoison t a len) = f t)
    (hret : isRetired s a = false) (hlost : rangeLost s a 1 = false) (v : Option Nat) : f (wordStored s a wide v) = f s := by
  cases v with
  | none => rfl
  | some v =>
    refine (coreWrite_leaves f hcache ..).trans ?_
    rw [writeLine_eq, hret, hlost]
    exact (unitsCleared_leaves f hclear ..).trans (hstore s _ _)

theorem wordStored_quiet (hret : isRetired s a = false) (hlost : rangeLost s a 1 = false) (aq : Bool) (v : Option Nat) :
    AtomicQuiet aq s (acquiredIf aq (wordStored s a wide v)) := by
  have hleaves := fun (α : Type) (f : State → α) hcache hstore hclear =>
    wordStored_leaves (wide := wide) f hcache hstore hclear hret hlost v
  obtain ⟨hentries, hops, hbar, hcache⟩ := acquiredIf_quiet aq (wordStored s a wide v)
  refine ⟨.trans (.of_dict_eq (hleaves _ State.dict (fun _ _ => rfl) (fun _ _ _ => rfl) clearPoison_dict) _) hentries,
    hops.trans (hleaves _ State.ops (fun _ _ => rfl) (fun _ _ _ => rfl) fun _ _ _ => rfl),
    hbar.trans (hleaves _ State.bar (fun _ _ => rfl) (fun _ _ _ => rfl) fun _ _ _ => rfl), hcache⟩

theorem out_wordStored (hret : isRetired s a = false) (hlost : rangeLost s a 1 = false) (aq : Bool) (v : Option Nat) (o : Output) :
    (emit (acquiredIf aq (wordStored s a wide v)) o).out = s.out ++ [o] := by
  rw [out_acquiredIf, wordStored_leaves State.out (fun _ _ => rfl) (fun _ _ _ => rfl) (fun _ _ _ => rfl) hret hlost]

theorem wordStored_sameMemoryBut (hret : isRetired s a = false) (hlost : rangeLost s a 1 = false) (aq : Bool) (v : Option Nat) :
    SameMemoryBut [(a, wordLen wide)] s (acquiredIf aq (wordStored s a wide v)) := by
  intro x hx
  rw [memByte_of_mem_eq (mem_acquiredIf aq _)]
  cases v with
  | none => rfl
  | some v => exact writeWord_sameMemoryBut v hret hlost x hx

/-- The word after an atomic: the new one reduced to its length, or the old one. -/
theorem memVal_wordStored (haligned : a % wordLen wide = 0) (hret : isRetired s a = false) (hlost : rangeLost s a 1 = false)
    (aq : Bool) (v : Option Nat) : memVal (acquiredIf aq (wordStored s a wide v)) a (wordLen wide) =
      (v.map (· % 2 ^ (8 * wordLen wide))).getD (memVal s a (wordLen wide)) := by
  rw [memVal_of_mem_eq (mem_acquiredIf aq _)]
  cases v with
  | none => rfl
  | some v => exact memVal_writeWord v haligned hret hlost

/-! Reservations. -/

theorem SMap.get_put_same (m : SMap Nat) (k v d : Nat) : SMap.get (SMap.put m k v) k d = v := by
  rw [SMap.get_eq_find, SMap.find_put, if_pos rfl]
  rfl

theorem SMap.get_of_dropped (m : SMap Nat) (k d : Nat) (p : Nat × Nat → Bool) : SMap.get ((SMap.drop m k).filter p) k d = d := by
  refine SMap.get_of_not_has d (List.any_eq_false.mpr fun e he => ?_)
  have hne := (List.mem_filter.mp (List.mem_filter.mp he).1).2
  simpa using hne

theorem reservations_writeWord (hret : isRetired s a = false) (hlost : rangeLost s a 1 = false) (v : Nat) :
    (writeWord s a wide v).reservations = keepRes s (lineAddr a) 64 := by
  refine (coreWrite_leaves State.reservations (fun _ _ => rfl) ..).trans ?_
  rw [writeLine_eq, hret, hlost]
  exact unitsCleared_leaves State.reservations (fun _ _ _ => rfl) ..

/-- An SC uses its core's reservation up. -/
theorem reservation_storeConditional (hret : isRetired s a = false) (hlost : rangeLost s a 1 = false) (n : Fin 4) (aq : Bool)
    (v : Option Nat) : SMap.get (acquiredIf aq (wordStored (unreserved s n) a wide v)).reservations n 0 = 0 := by
  rw [acquiredIf_leaves State.reservations (fun _ _ => rfl) (fun _ _ _ => setReg_reservations ..)]
  cases v with
  | none =>
    show SMap.get (SMap.drop s.reservations n) n 0 = 0
    rw [SMap.get_eq_find, SMap.find_drop, if_pos rfl]
    rfl
  | some v =>
    show SMap.get (writeWord (unreserved s n) a wide v).reservations n 0 = 0
    rw [reservations_writeWord (s := unreserved s n) hret hlost]
    exact SMap.get_of_dropped s.reservations n 0 _

end

/-! The commands. -/

/-- The whole atomics of an address: compare-and-swap, swap and fetch-add, with what each makes of the old word. -/
theorem exec_atomic (n : Fin 4) (wide : Bool) (addr : FabricAddr) (x y : BitVec 64) (aq rl : Bool) (s : State) :
    exec (.compareAndSwap n wide addr (.whole x) y aq rl) s = .next (atomic n wide addr aq s
      (fun old => if old = x.toNat % 2 ^ (8 * wordLen wide) then some y.toNat else none)) ∧
    exec (.swap n wide addr x aq rl) s = .next (atomic n wide addr aq s (fun _ => some x.toNat)) ∧
    exec (.fetchAdd n wide addr x aq rl) s = .next (atomic n wide addr aq s (fun old => some (old + x.toNat))) :=
  ⟨rfl, rfl, rfl⟩

/-- Every atomic faults in one way, a load-reserve like the whole ones. -/
theorem exec_atomics_of_fault {n : Fin 4} {wide : Bool} {addr : FabricAddr} {x y : BitVec 64} {aq rl : Bool} {s : State}
    (hserved : atomicServed s addr = true) (hat : atomicAt s wide addr = none) :
    ∀ i ∈ Instr.compareAndSwap n wide addr .loadReserved y aq rl :: [Instr.compareAndSwap n wide addr (.whole x) y aq rl,
      .swap n wide addr x aq rl, .fetchAdd n wide addr x aq rl], exec i s = .next (atomicFault s n addr) := by
  obtain ⟨hcas, hswap, hadd⟩ := exec_atomic n wide addr x y aq rl s
  have hfault : ∀ f, (.next (atomic n wide addr aq s f) : Out) = .next (atomicFault s n addr) :=
    fun f => congrArg _ (atomic_of_fault hserved n aq f hat)
  intro i hi
  simp only [List.mem_cons, List.not_mem_nil, or_false] at hi
  rcases hi with rfl | rfl | rfl | rfl
  · exact congrArg Host.Outcome.next (loadReserved_of_fault hserved n aq hat)
  · exact hcas.trans (hfault _)
  · exact hswap.trans (hfault _)
  · exact hadd.trans (hfault _)

end Sys2Proof.Machine
end

section
/-! SUPPORT. The statement of atomics (R241, R243, R244). -/

namespace Sys2Proof.Machine

/-- Settles O36: each atomic faults as `atomicFault`, or writes the word that it makes of the old one. -/
theorem atomicsReadModifyWriteOneWord : Obligations.AtomicsReadModifyWriteOneWord := by
  intro s n wide addr x y aq rl a hcores hstop hown hheld
  have hserved := atomicServed_of_runs hcores hstop hown hheld
  obtain ⟨hcas, hswap, hadd⟩ := exec_atomic n wide addr x y aq rl s
  have hfault : atomicFault s n addr = emit (if unassigned a then logUnassigned s a none 0 else s) (.accessFault n) := by
    unfold atomicFault
    rw [hown]
  refine ⟨fun hhole i hi => ?_, fun hassigned hbad i hi => ?_, fun hassigned hgood => ?_⟩
  · rw [exec_atomics_of_fault hserved (atomicAt_of_bad hown (.inl hhole)) i hi, hfault, hhole]
    rfl
  · rw [exec_atomics_of_fault hserved (atomicAt_of_bad hown (.inr hbad)) i hi, hfault, hassigned]
    rfl
  · have hat : atomicAt s wide addr = some a := atomicAt_of_good hown hassigned hgood
    obtain ⟨haligned, hret, hlost⟩ := usable_of_good (wide := wide) hgood
    have hdone := fun f => atomic_of_good hserved n aq f hat
    have hword := memVal_wordStored haligned hret hlost aq
    rw [hdone] at hcas hswap hadd
    refine ⟨fun i hi => ?_, ⟨_, hcas, (hword _).trans ?_⟩, ⟨_, hswap, hword _⟩, ⟨_, hadd, hword _⟩, ?_, ?_⟩
    · have hleaves : ∀ v o, (emit (acquiredIf aq (wordStored s a wide v)) o).out = s.out ++ [o] ∧
          SameMemoryBut [(a, wordLen wide)] s (acquiredIf aq (wordStored s a wide v)) ∧
          AtomicQuiet aq s (acquiredIf aq (wordStored s a wide v)) := fun v o =>
        ⟨out_wordStored hret hlost aq v o, wordStored_sameMemoryBut hret hlost aq v, wordStored_quiet hret hlost aq v⟩
      simp only [List.mem_cons, List.not_mem_nil, or_false] at hi
      rcases hi with rfl | rfl | rfl
      · exact ⟨_, hcas, hleaves _ _⟩
      · exact ⟨_, hswap, hleaves _ _⟩
      · exact ⟨_, hadd, hleaves _ _⟩
    · exact apply_ite (fun v => (Option.map (· % 2 ^ (8 * wordLen wide)) v).getD (memVal s a (wordLen wide))) _ _ _
    · exact ⟨_, congrArg Host.Outcome.next (loadReserved_of_good hserved n aq hat), out_acquiredIf aq s _, mem_acquiredIf aq s,
        acquiredIf_quiet aq s, SMap.get_put_same ..⟩
    · let s0 := unreserved s n
      refine ⟨_, congrArg Host.Outcome.next (storeConditional_of_good hserved n aq hat y),
        reservation_storeConditional hret hlost n aq _, wordStored_sameMemoryBut (s := s0) hret hlost aq _,
        wordStored_quiet (s := s0) hret hlost aq _, fun hholds => ?_, fun hbroken => ?_⟩
      · rw [if_pos hholds, hholds, beq_self_eq_true]
        exact ⟨memVal_wordStored (s := s0) haligned hret hlost aq _, out_wordStored (s := s0) hret hlost aq _ _⟩
      · rw [if_neg hbroken, beq_eq_false_iff_ne.mpr hbroken]
        exact ⟨mem_acquiredIf aq s0, out_acquiredIf aq s0 _⟩

end Sys2Proof.Machine
end

section
/-! SUPPORT. Line reads and writes of the agents (R234, R240): in memory, in the control window, and of peers (R275). -/

namespace Sys2Proof.Machine

section
variable {s : State} (hclock : clockOn s = true) {ag : Agent} {addr : LocalAddr} {data : Line} {mask : BitVec 128} {e0 e1 : EccResult}

/-! What each access comes to. -/

/-- The line that the read-through cache answers a read with. -/
def rtHit (s : State) (ag : Agent) (a : Nat) : Option Line :=
  if readsCached ag && inHbm a then SMap.find s.rtCache (rtKey a) else none

/-- What a read of clean units leaves: a core's read of a good HBM line fills the cache. -/
def lineServed (s : State) (ag : Agent) (a : Nat) : State :=
  if readsCached ag && inHbm a && !linePoisoned s a then rtFill s a (lineAt s a) else s

/-- A write of clean units, through the cache or not. -/
def lineWritten (s : State) (ag : Agent) (a : Nat) (data : Line) (mask : BitVec 128) : State :=
  if readsCached ag then coreWrite s a data mask else writeLine s a data mask

include hclock

theorem exec_line_of_held (hheld : memHeld s addr.toNat = true) :
    exec (.lineRead ag (.own addr) e0 e1) s = .next s ∧ exec (.lineWrite ag (.own addr) data mask e0 e1) s = .next s := by
  constructor
  · show execLineRead ag (.own addr) e0 e1 s = _
    simp [execLineRead, hclock, hheld]
  · show execLineWrite ag (.own addr) data mask e0 e1 s = _
    simp [execLineWrite, hclock, hheld]

theorem exec_line_in_control (hheld : memHeld s addr.toNat = false) (hctl : inCtl addr.toNat = true) :
    exec (.lineRead ag (.own addr) e0 e1) s = .next (emit s (if isCore ag = true ∧ inSyncWin addr.toNat = true
      then .lineData ag (lineAddr addr.toNat) (objWord s ((addr.toNat - 0xF0000100000) / 64)) false else .addressError ag addr.toNat)) ∧
    exec (.lineWrite ag (.own addr) data mask e0 e1) s =
      .next (emit (if inSyncWin addr.toNat then logUnassigned s addr.toNat none 0 else s) (.addressError ag addr.toNat)) := by
  constructor
  · show execLineRead ag (.own addr) e0 e1 s = _
    simp only [execLineRead, hclock, hheld, hctl, Bool.not_true, Bool.false_eq_true, if_false, if_true, Bool.and_eq_true]
    split
    · rfl
    · rfl
  · show execLineWrite ag (.own addr) data mask e0 e1 s = _
    simp only [execLineWrite, hclock, hheld, hctl, Bool.not_true, Bool.false_eq_true, if_false, if_true]
    split
    · rfl
    · rfl

section
variable (hheld : memHeld s addr.toNat = false) (hctl : inCtl addr.toNat = false)
include hheld hctl

theorem exec_line_unreached (hreach : lineReaches ag addr.toNat = false) :
    exec (.lineRead ag (.own addr) e0 e1) s = .next (emit (logUnassigned s addr.toNat none 0) (.addressError ag addr.toNat)) ∧
    exec (.lineWrite ag (.own addr) data mask e0 e1) s =
      .next (emit (logUnassigned s addr.toNat none 0) (.addressError ag addr.toNat)) := by
  constructor
  · show execLineRead ag (.own addr) e0 e1 s = _
    simp [execLineRead, hclock, hheld, hctl, hreach]
  · show execLineWrite ag (.own addr) data mask e0 e1 s = _
    simp [execLineWrite, hclock, hheld, hctl, hreach]

variable (hreach : lineReaches ag addr.toNat = true)
include hreach

theorem exec_lineRead_of_hit {l : Line} (hhit : rtHit s ag addr.toNat = some l) :
    exec (.lineRead ag (.own addr) e0 e1) s = .next (emit s (.lineData ag (lineAddr addr.toNat) l false)) := by
  unfold rtHit at hhit
  show execLineRead ag (.own addr) e0 e1 s = _
  simp only [execLineRead, hclock, hheld, hctl, hreach, hhit, Bool.not_true, Bool.false_eq_true, if_false]

theorem exec_lineRead_of_miss (hmiss : rtHit s ag addr.toNat = none) :
    exec (.lineRead ag (.own addr) .clean .clean) s = .next (emit (lineServed s ag addr.toNat)
      (.lineData ag (lineAddr addr.toNat) (lineAt s addr.toNat) (linePoisoned s addr.toNat))) := by
  unfold rtHit at hmiss
  show execLineRead ag (.own addr) .clean .clean s = _
  simp only [execLineRead, hclock, hheld, hctl, hreach, hmiss, lineChecks_clean, Bool.not_true, Bool.false_eq_true, if_false]
  rfl

theorem exec_lineWrite_of_lost (hlost : rangeLost s addr.toNat 1 = true) :
    exec (.lineWrite ag (.own addr) data mask e0 e1) s = .next (emit s (.hwFault ag addr.toNat)) := by
  show execLineWrite ag (.own addr) data mask e0 e1 s = _
  simp [execLineWrite, hclock, hheld, hctl, hreach, hlost]

theorem exec_lineWrite_of_usable (hlost : rangeLost s addr.toNat 1 = false) :
    exec (.lineWrite ag (.own addr) data mask .clean .clean) s = .next (lineWritten s ag addr.toNat data mask) := by
  show execLineWrite ag (.own addr) data mask .clean .clean s = _
  simp only [execLineWrite, hclock, hheld, hctl, hreach, hlost, ite_self, lineChecks_clean, Bool.not_true, Bool.false_eq_true, if_false]
  rfl

end

/-! Lines of peers (R275). -/

section
variable {dev : BitVec 16}

theorem exec_line_of_peer : exec (.lineRead ag (.peer dev addr) e0 e1) s = .next (peerRead s ag dev.toNat addr.toNat) ∧
    exec (.lineWrite ag (.peer dev addr) data mask e0 e1) s = .next (peerWrite s ag dev.toNat addr.toNat data mask) := by
  constructor
  · show execLineRead ag (.peer dev addr) e0 e1 s = _
    simp [execLineRead, hclock]
  · show execLineWrite ag (.peer dev addr) data mask e0 e1 s = _
    simp [execLineWrite, hclock]

end

end

/-- The byte mask of a whole line enables all its bytes. -/
theorem byteMask_allOnes : (List.range 64).foldl (fun v j => if (BitVec.allOnes 128).getLsbD (2 * j) &&
    (BitVec.allOnes 128).getLsbD (2 * j + 1) then v + 2 ^ j else v) 0 = ones64 := by decide

section
variable {s : State} {ag : Agent} (dev a : Nat)

theorem peer_of_uncached (h : readsCached ag = false) (data : Line) (mask : BitVec 128) :
    peerRead s ag dev a = emit s (.addressError ag a) ∧ peerWrite s ag dev a data mask = emit s (.addressError ag a) :=
  ⟨if_pos (by rw [h]; rfl), if_pos (by rw [h]; rfl)⟩

variable (hcached : readsCached ag = true)
include hcached

theorem peerRead_of_cached : peerRead s ag dev a = match SMap.find s.rrCache (dev * 2 ^ 44 + lineAddr a) with
    | some l => emit s (.lineData ag (dev * 2 ^ 44 + lineAddr a) l false)
    | none => request s true 1 (dev * 2 ^ 44 + lineAddr a) 1 ones64 [] (.lineRead ag true) :=
  (if_neg (by rw [hcached]; decide)).trans rfl

theorem peerWrite_whole (data : Line) : peerWrite s ag dev a data (BitVec.allOnes 128) =
    request s false 0 (dev * 2 ^ 44 + lineAddr a) 1 ones64 [data] (.lineWrite ag) := by
  rw [← byteMask_allOnes]
  exact if_neg (by rw [hcached]; decide)

end

/-! What a read leaves. -/

theorem lineServed_leaves (s : State) (ag : Agent) (a : Nat) :
    (lineServed s ag a).out = s.out ∧ (lineServed s ag a).mem = s.mem ∧ (lineServed s ag a).dict = s.dict := by
  unfold lineServed
  split
  · exact ⟨rfl, rfl, rfl⟩
  · exact ⟨rfl, rfl, rfl⟩

theorem rtCache_lineServed_of_filled {s : State} {ag : Agent} {a : Nat} (hcached : readsCached ag = true) (hhbm : inHbm a = true)
    (hclean : linePoisoned s a = false) : SMap.find (lineServed s ag a).rtCache (rtKey a) = some (lineAt s a) := by
  have hfill : lineServed s ag a = rtFill s a (lineAt s a) := if_pos (by simp [hcached, hhbm, hclean])
  rw [hfill]
  exact (SMap.find_put ..).trans (if_pos rfl)

theorem rtCache_lineServed_of_uncached {s : State} {ag : Agent} {a : Nat} (h : readsCached ag = false ∨ inHbm a = false) :
    (lineServed s ag a).rtCache = s.rtCache := by
  have hsame : lineServed s ag a = s := if_neg (by rcases h with h | h <;> simp [h])
  rw [hsame]

/-! What a write leaves. -/

/-- It is a line write, and may change the cached line. -/
theorem lineWritten_eq (s : State) (ag : Agent) (a : Nat) (data : Line) (mask : BitVec 128) :
    ∃ rtCache, lineWritten s ag a data mask = { writeLine s a data mask with rtCache := rtCache } := by
  unfold lineWritten
  split
  · exact coreWrite_eq s a data mask
  · exact ⟨_, rfl⟩

theorem writeLine_rtCache (s : State) (a : Nat) (v : Line) (mask : BitVec 128) : (writeLine s a v mask).rtCache = s.rtCache :=
  writeLine_leaves State.rtCache (fun _ => rfl) (fun _ _ _ => by unfold putLine; rfl) (fun _ _ _ => rfl) s a v mask

/-- The state outside of memory, poison and the cache is as before. -/
theorem lineWritten_leaves (s : State) (ag : Agent) (a : Nat) (data : Line) (mask : BitVec 128) :
    SameMemoryBut [(lineAddr a, 64)] s (lineWritten s ag a data mask) ∧ (lineWritten s ag a data mask).ops = s.ops ∧
      (lineWritten s ag a data mask).bar = s.bar := by
  obtain ⟨_, h⟩ := lineWritten_eq s ag a data mask
  rw [h]
  exact ⟨writeLine_sameMemoryBut s a data mask,
    writeLine_leaves State.ops (fun _ => rfl) (fun _ _ _ => by unfold putLine; rfl) (fun _ _ _ => rfl) s a data mask,
    writeLine_leaves State.bar (fun _ => rfl) (fun _ _ _ => by unfold putLine; rfl) (fun _ _ _ => rfl) s a data mask⟩

section
variable {s : State} {ag : Agent} {a : Nat} {data : Line} {mask : BitVec 128}

theorem lineWritten_of_inUse (hlost : rangeLost s a 1 = false) (hret : isRetired s a = false) :
    lineAt (lineWritten s ag a data mask) a = mergeLine (lineAt s a) data mask ∧ (lineWritten s ag a data mask).dict = s.dict := by
  obtain ⟨_, h⟩ := lineWritten_eq s ag a data mask
  rw [h]
  refine ⟨lineAt_writeLine_masked data mask hret hlost, ?_⟩
  show (writeLine s a data mask).dict = s.dict
  rw [writeLine_eq, hret, hlost]
  exact (unitsCleared_leaves State.dict clearPoison_dict ..).trans (putLine_dict ..)

/-- A retired line discards the write, which is counted (R394). -/
theorem lineWritten_of_retired (hret : isRetired s a = true) : (lineWritten s ag a data mask).mem = s.mem ∧
    reg (lineWritten s ag a data mask) 0x8000 9 = (reg s 0x8000 9 + 1) % 2 ^ 64 := by
  obtain ⟨_, h⟩ := lineWritten_eq s ag a data mask
  have hwrite : writeLine s a data mask = bump s 0x8000 9 := by rw [writeLine_eq, hret]; rfl
  rw [h, hwrite]
  exact ⟨bump_mem s 0x8000 9, reg_setReg_same ..⟩

theorem rtCache_lineWritten_of_uncached (h : readsCached ag = false) : (lineWritten s ag a data mask).rtCache = s.rtCache := by
  unfold lineWritten
  rw [h]
  exact writeLine_rtCache s a data mask

/-- A cached copy is kept in step with memory (R240). -/
theorem rtCache_lineWritten_of_hit (hcached : readsCached ag = true) (hhbm : inHbm a = true) {l : Line}
    (hhit : SMap.find s.rtCache (rtKey a) = some l) :
    SMap.find (lineWritten s ag a data mask).rtCache (rtKey a) = some (mergeLine l data mask) := by
  unfold lineWritten coreWrite
  simp only [hcached, hhbm, hhit, if_true]
  exact (SMap.find_put ..).trans (if_pos rfl)

end

end Sys2Proof.Machine
end

section
/-! SUPPORT. The statement of line reads and writes (R234). -/

namespace Sys2Proof.Machine

/-- Settles O26: each access is answered at once, waits, or is `lineServed` or `lineWritten`. -/
theorem linesAreReadAndWrittenUnderTheirNibbleMask : Obligations.LinesAreReadAndWrittenUnderTheirNibbleMask := by
  intro s ag addr data mask hclock a
  refine ⟨fun hheld hctl => ⟨fun hreach hmiss => ?_, fun hreach hcached hhbm l hhit e0 e1 => ?_, fun hreach hlost e0 e1 => ?_,
    fun hreach hlost => ?_, fun hreach e0 e1 => ?_⟩, fun hheld hctl e0 e1 => exec_line_in_control hclock hheld hctl,
    fun hheld e0 e1 => exec_line_of_held hclock hheld, fun dev e0 e1 => ⟨fun huncached => ?_, fun hcached => ?_⟩⟩
  · have hnone : rtHit s ag a = none := by
      unfold rtHit
      rcases hmiss with h | h | h
      · simp [h]
      · simp [h]
      · rw [h, ite_self]
    obtain ⟨hout, hmem, hdict⟩ := lineServed_leaves s ag a
    exact ⟨_, exec_lineRead_of_miss hclock hheld hctl hreach hnone, congrArg (· ++ _) hout, hmem, hdict,
      rtCache_lineServed_of_filled, rtCache_lineServed_of_uncached⟩
  · exact exec_lineRead_of_hit hclock hheld hctl hreach ((if_pos (by rw [hcached, hhbm]; rfl)).trans hhit)
  · exact exec_lineWrite_of_lost hclock hheld hctl hreach hlost
  · obtain ⟨hmem, hops, hbar⟩ := lineWritten_leaves s ag a data mask
    exact ⟨_, exec_lineWrite_of_usable hclock hheld hctl hreach hlost, hmem, lineWritten_of_inUse hlost, lineWritten_of_retired,
      rtCache_lineWritten_of_uncached, fun hcached hhbm l => rtCache_lineWritten_of_hit hcached hhbm, hops, hbar⟩
  · obtain ⟨hread, hwrite⟩ := exec_line_unreached (data := data) (mask := mask) (e0 := e0) (e1 := e1) hclock hheld hctl hreach
    exact ⟨hread, hwrite, logEvent_mem s _⟩
  · obtain ⟨hread, hwrite⟩ := peer_of_uncached (s := s) dev.toNat a huncached data mask
    rw [(exec_line_of_peer (data := data) (mask := mask) hclock).1, (exec_line_of_peer hclock).2, hread, hwrite]
    exact ⟨rfl, rfl⟩
  · rw [(exec_line_of_peer (data := data) (mask := mask) hclock).1, (exec_line_of_peer hclock).2, peerRead_of_cached dev.toNat a hcached,
      peerWrite_whole dev.toNat a hcached]
    exact ⟨fun l hhit => by rw [hhit], fun hmiss => by rw [hmiss], rfl⟩

end Sys2Proof.Machine
end

section
/-! SUPPORT. Sync descriptors (R248, R430): what the taking of one leaves, how its operation ends, and the checks it meets. -/

namespace Sys2Proof.Machine

/-! Interrupts write the registers of their controller and no queue's (R328, R333). -/

/-- The BAR0 registers below the interrupt controller's hold in `t` what they hold in `s`. -/
def QueueRegsKept (s t : State) : Prop := ∀ off, off < 0x200000 → bget t off = bget s off

namespace QueueRegsKept

variable {s t u : State}

theorem refl (s : State) : QueueRegsKept s s := fun _ _ => rfl

theorem trans (h : QueueRegsKept s t) (k : QueueRegsKept t u) : QueueRegsKept s u :=
  fun off hoff => (k off hoff).trans (h off hoff)

theorem of_bar_eq (h : t.bar = s.bar) : QueueRegsKept s t := fun off _ => by rw [bget, bget, h]

theorem bset_above (s : State) {off : Nat} (v : Nat) (h : 0x200000 ≤ off) : QueueRegsKept s (bset s off v) :=
  fun _ hoff => bget_bset_ne s v (by omega)

theorem headPassed (k : QueueRegsKept t u) {q : Nat} (hq : q < 64) (h : HeadPassed s t q) : HeadPassed s u q :=
  (k _ (by simp only [qHeadOff]; omega)).trans h

end QueueRegsKept

theorem startTimer_bar (s : State) (g : Nat) : (startTimer s g).bar = s.bar := by
  unfold startTimer
  split
  · rfl
  · rfl

theorem linesRose_bar (before s : State) : (linesRose before s).bar = s.bar := by
  have hfold : ∀ (l : List Nat) (t : State), (l.foldl startTimer t).bar = t.bar := by
    intro l
    induction l with
    | nil => exact fun _ => rfl
    | cons g l ih => exact fun t => (ih _).trans (startTimer_bar t g)
  unfold linesRose
  split
  · refine foldl_invariant (P := fun t => t.bar = s.bar) (fun p t ht => ?_) _ rfl
    split
    · exact (hfold _ t).trans ht
    · exact ht
  · rfl

theorem sendMsix_queueRegsKept (s : State) (n : Nat) : QueueRegsKept s (sendMsix s n) := by
  unfold sendMsix
  dsimp only
  split
  · exact .trans (.of_bar_eq rfl) (.bset_above _ _ (by decide))
  · exact .of_bar_eq (startTimer_bar _ _)

theorem msixOnRise_queueRegsKept (s : State) (n : Nat) : QueueRegsKept s (msixOnRise s n) := by
  unfold msixOnRise
  split
  · exact sendMsix_queueRegsKept s n
  · exact .refl s

theorem raise_queueRegsKept (s : State) (n : Nat) : QueueRegsKept s (raise s n) := by
  have hpend : ∀ v, QueueRegsKept s (bset s (pendOff (n / 32)) v) := fun v => .bset_above s v (by simp only [pendOff]; omega)
  unfold raise
  dsimp only
  split
  · exact .refl s
  · split
    · exact (hpend _).trans (.of_bar_eq rfl)
    · split
      · exact (hpend _).trans (.of_bar_eq rfl)
      · exact ((hpend _).trans (msixOnRise_queueRegsKept _ n)).trans (.of_bar_eq (linesRose_bar s _))

/-! The end of a sync operation (Table 12.7). -/

@[simp] theorem Op.stamp_epochSeen (t : Nat) (o : Op) : (o.stamp t).epochSeen = o.epochSeen := by unfold Op.stamp; split <;> rfl
@[simp] theorem Op.stamp_late (t : Nat) (o : Op) : (o.stamp t).late = o.late := by unfold Op.stamp; split <;> rfl

theorem mem_ops_of_findOp {s : State} {tag : Nat} {o : Op} (h : findOp s tag = some o) : o ∈ s.ops := List.mem_of_find?_eq_some h

/-- An operation that goes on ends with the status, and its record shows the object's epoch. -/
theorem findOp_endSync {s : State} {tag : Nat} {o : Op} (st : Nat) (ho : findOp s tag = some o) (hended : o.ended = false) :
    ∃ o', findOp (endSync s tag st) tag = some o' ∧ o'.ended = true ∧ o'.status = st ∧ o'.late = o.late ∧
      o'.epochSeen = (ownObj s (yOwner o.desc.toNat) (yObj o.desc.toNat)).epoch := by
  refine ⟨_, findOp_updOp_same (fun x => ?_) ho, ?_⟩
  · split
    · rfl
    · rfl
  · rw [if_neg (by rw [hended]; decide)]
    simp

/-! A sync descriptor taken. -/

section
variable {s : State} {q : QueueId} {tag : TagId} {c : Nat} {d : BitVec 1024}

/-- The sync operations with their opcodes (Table 12.6). -/
abbrev syncInstrs (q : QueueId) (tag : TagId) : List (Nat × Instr) :=
  [(0x10, .signal q tag), (0x11, .wait q tag), (0x12, .acquire q tag), (0x13, .releaseLock q tag), (0x14, .arrive q tag),
    (0x15, .clear q tag), (0x16, .init q tag)]

/-- The operation of the descriptor. -/
abbrev syncOp (s : State) (q : QueueId) (tag : TagId) (c : Nat) (d : BitVec 1024) : Op := newOp s tag q c .sync d

/-- The state with the operation in flight. -/
def syncBegun (s : State) (q : QueueId) (tag : TagId) (c : Nat) (d : BitVec 1024) : State :=
  addOp (takeHead s q) (syncOp s q tag c d)

theorem exec_sync_of_taken (h : Taken s q tag c d) {op : Nat} {i : Instr} (hi : (op, i) ∈ syncInstrs q tag)
    (hop : dOpcode d.toNat = op) : exec i s = .next (startSync (takeHead s q) (syncOp s q tag c d)) := by
  have hdispatch := congrArg (Host.Outcome.next (φ := Fault) (ρ := Refusal)) (dispatch_of_taken h
    (accept := fun x => dOpcode x == op) (beq_iff_eq.mpr hop) .sync startSync)
  simp only [List.mem_cons, Prod.mk.injEq, List.not_mem_nil, or_false] at hi
  rcases hi with ⟨rfl, rfl⟩ | ⟨rfl, rfl⟩ | ⟨rfl, rfl⟩ | ⟨rfl, rfl⟩ | ⟨rfl, rfl⟩ | ⟨rfl, rfl⟩ | ⟨rfl, rfl⟩ <;> exact hdispatch

/-- Taking a descriptor changes the registers of its queue, the dispatcher's turn and the slots read, and adds the operation. -/
theorem syncBegun_eq (s : State) (q : QueueId) (tag : TagId) (c : Nat) (d : BitVec 1024) : ∃ bar rrLast hostIf,
    syncBegun s q tag c d = { s with bar := bar, rrLast := rrLast, hostIf := hostIf, ops := s.ops ++ [syncOp s q tag c d] } :=
  ⟨_, _, _, rfl⟩

theorem takeHead_eq (s : State) (q : Nat) : ∃ bar rrLast hostIf,
    takeHead s q = { s with bar := bar, rrLast := rrLast, hostIf := hostIf } := ⟨_, _, _, rfl⟩

theorem tagFree_of_taken (h : Taken s q tag c d) : tagFree s tag = true := (Bool.and_eq_true_iff.mp h.turn).2

theorem findOp_syncBegun (h : Taken s q tag c d) : findOp (syncBegun s q tag c d) tag = some (syncOp s q tag c d) := by
  have hfree := tagFree_of_taken h
  have hnone : s.ops.find? (fun o => o.tag == tag.val) = none := by simpa [tagFree] using hfree
  show (s.ops ++ [syncOp s q tag c d]).find? (fun o => o.tag == tag.val) = _
  rw [List.find?_append, hnone]
  simp [newOp]

/-- The operations before it are those of the state before. -/
theorem recordsBefore_syncBegun (h : Taken s q tag c d) :
    recordsBefore (syncBegun s q tag c d) (syncOp s q tag c d) = (inFlight s q).isEmpty := by
  have hfree : ∀ o ∈ s.ops, (o.tag != tag.val) = true := by
    have := tagFree_of_taken h
    simpa [tagFree] using this
  show (!((s.ops ++ [syncOp s q tag c d]).takeWhile (fun x => x.tag != tag.val)).any (fun x => x.queue == q.val)) = _
  rw [List.takeWhile_append_of_pos hfree, Bool.eq_iff_iff]
  simp [newOp, inFlight]

/-! Its checks (R430). -/

/-- The status of R430 for an operation. -/
def syncCheck (s : State) (o : Op) : Nat :=
  if syncFieldsBad s o.queue o.desc.toNat then stDescriptor
  else syncStatus s (dOpcode o.desc.toNat) (yOwner o.desc.toNat) (yObj o.desc.toNat) ((queueAgent s o.queue).getD 127)

theorem syncCheck_takeHead (s : State) (q : Nat) (o : Op) : syncCheck (takeHead s q) o = syncCheck s o := by
  obtain ⟨_, _, _, h⟩ := takeHead_eq s q
  rw [h]
  rfl

theorem syncCheck_syncBegun (s : State) (q : QueueId) (tag : TagId) (c : Nat) (d : BitVec 1024) (o : Op) :
    syncCheck (syncBegun s q tag c d) o = syncCheck s o := by
  obtain ⟨_, _, _, h⟩ := syncBegun_eq s q tag c d
  rw [h]
  rfl

theorem syncCheck_of_fieldsBad (hbad : syncFieldsBad s q d.toNat = true) : syncCheck s (syncOp s q tag c d) = stDescriptor :=
  if_pos hbad

theorem SyncTaken.check {op st : Nat} (h : SyncTaken s q tag c d op st) : syncCheck s (syncOp s q tag c d) = st := by
  rw [← h.checks, ← h.isOp]
  exact if_neg (Bool.eq_false_iff.mp h.fields)

/-- The checks pass for an object in the range of its context alone. -/
theorem inSyncRange_of_ok {op n agent : Nat} {c : Nat} (h : syncStatus s op c n agent = stOk) : inSyncRange s c n = true := by
  unfold syncStatus syncAddressBad at h
  dsimp only at h
  split at h
  · cases h
  next hgood =>
    simp only [Bool.or_eq_true, not_or, Bool.not_eq_true'] at hgood
    exact eq_true_of_ne_false hgood.1.2

/-- An object that a context has live in its range is the hardware's. -/
theorem ownObj_of_live {c n : Nat} (hrange : inSyncRange s c n = true) (hlive : syncLive s c = true) : ownObj s c n = objOf s n := by
  simp [ownObj, hrange, hlive]

end

end Sys2Proof.Machine
end

section
/-! SUPPORT. Sync operations that end when they are taken (R249, R250, Table 12.4): refused, accepted, or behind an earlier one. -/

namespace Sys2Proof.Machine

theorem ReportsOnly.waits_eq {s t : State} (h : ReportsOnly s t) : t.waits = s.waits := by
  obtain ⟨_, _, _, _, _, _, _, _, _, rfl⟩ := h
  rfl

/-! The three outcomes of a sync operation that is no WAIT and no ACQUIRE. -/

/-- An abandoned operation is reported (R253). -/
def abandonNoted (s : State) (st : Nat) : State := if st = stAbandoned then raise s (src 10 1) else s

theorem trySync_eq {s : State} {tag : Nat} {o : Op} (ho : findOp s tag = some o) (hkind : o.kind = .sync) (hended : o.ended = false)
    (haccepted : o.accepted = false) (hwait : dOpcode o.desc.toNat ≠ 0x11 ∧ dOpcode o.desc.toNat ≠ 0x12) :
    trySync s tag = if recordsBefore s o = false then s
      else if syncCheck s o ≠ 0 then endSync (abandonNoted s (syncCheck s o)) tag (syncCheck s o)
      else if syncLive s (yOwner o.desc.toNat) = false then s
      else endSync (syncEffect s o.desc.toNat) tag stOk := by
  unfold trySync
  rw [ho]
  simp only [hkind, hended, haccepted, hwait, bne_self_eq_false, decide_false, Bool.or_false, Bool.false_or, Bool.not_eq_true']
  rfl

theorem headPassed_syncBegun (s : State) (q : QueueId) (tag : TagId) (c : Nat) (d : BitVec 1024) :
    HeadPassed s (syncBegun s q tag c d) q := headPassed_takeHead s q

section
variable {s : State} {q : QueueId} {tag : TagId} {c : Nat} {d : BitVec 1024} (h : Taken s q tag c d)
include h

theorem startSync_of_noWait (hwait : dOpcode d.toNat ≠ 0x11 ∧ dOpcode d.toNat ≠ 0x12) :
    startSync (takeHead s q) (syncOp s q tag c d) =
      if inFlight s q ≠ [] then syncBegun s q tag c d
      else if syncCheck s (syncOp s q tag c d) ≠ 0
      then endSync (abandonNoted (syncBegun s q tag c d) (syncCheck s (syncOp s q tag c d))) tag (syncCheck s (syncOp s q tag c d))
      else if syncLive (syncBegun s q tag c d) (yOwner d.toNat) = false then syncBegun s q tag c d
      else endSync (syncEffect (syncBegun s q tag c d) d.toNat) tag stOk := by
  have hstart : startSync (takeHead s q) (syncOp s q tag c d) = trySync (syncBegun s q tag c d) tag :=
    if_neg (by simp [newOp, hwait])
  rw [hstart, trySync_eq (findOp_syncBegun h) rfl rfl rfl hwait, recordsBefore_syncBegun h, syncCheck_syncBegun]
  simp only [List.isEmpty_eq_false_iff]
  rfl

/-- An operation that its checks refuse ends with their status, and only reports. -/
theorem startSync_refused {st : Nat} (hfirst : dOpcode d.toNat = 0x11 ∨ dOpcode d.toNat = 0x12 ∨ inFlight s q = [])
    (hcheck : syncCheck s (syncOp s q tag c d) = st) (hst : st ≠ stOk) :
    ∃ v, startSync (takeHead s q) (syncOp s q tag c d) = endSync v tag st ∧ ReportsOnly (syncBegun s q tag c d) v ∧
      QueueRegsKept (syncBegun s q tag c d) v := by
  by_cases hwait : dOpcode d.toNat = 0x11 ∨ dOpcode d.toNat = 0x12
  · refine ⟨if st = stAbandoned then countAbandoned (syncBegun s q tag c d) else syncBegun s q tag c d, ?_, .ite ?_, ?_⟩
    · rw [← syncCheck_takeHead s q] at hcheck
      have hstart : startSync (takeHead s q) (syncOp s q tag c d) = startWait (takeHead s q) (syncOp s q tag c d) :=
        if_pos (by simpa [newOp] using hwait)
      rw [hstart, ← hcheck]
      exact if_pos (by rw [← hcheck] at hst; exact hst)
    · exact (setReg_reportsOnly _ _ _ _).trans (raise_reportsOnly _ _)
    · split
      · exact .trans (.of_bar_eq rfl) (raise_queueRegsKept _ _)
      · exact .refl _
  · rw [← or_assoc, or_iff_right hwait] at hfirst
    refine ⟨abandonNoted (syncBegun s q tag c d) st, ?_, .ite (raise_reportsOnly _ _), ?_⟩
    · rw [startSync_of_noWait h (not_or.mp hwait), if_neg (not_not.mpr hfirst), hcheck, if_pos hst]
    · unfold abandonNoted
      split
      · exact raise_queueRegsKept _ _
      · exact .refl _

theorem sync_refused {op : Nat} {i : Instr} (hi : (op, i) ∈ syncInstrs q tag) (hop : dOpcode d.toNat = op) {st : Nat}
    (hfirst : op = 0x11 ∨ op = 0x12 ∨ inFlight s q = []) (hcheck : syncCheck s (syncOp s q tag c d) = st) (hst : st ≠ stOk) :
    ∃ t, exec i s = .next t ∧ HeadPassed s t q ∧ t.mem = s.mem ∧ t.sync = s.sync ∧ t.waits = s.waits ∧
      ∃ x ∈ t.ops, x.tag = tag.val ∧ x.ended = true ∧ x.status = st := by
  subst hop
  obtain ⟨v, hstart, hreports, hkept⟩ := startSync_refused h hfirst hcheck hst
  obtain ⟨x, hx, hended, hstatus, -⟩ := findOp_endSync st ((hreports.findOp_eq tag).trans (findOp_syncBegun h)) rfl
  exact ⟨_, (exec_sync_of_taken h hi rfl).trans (congrArg _ hstart), 
    hkept.headPassed q.isLt (headPassed_syncBegun s q tag c d), hreports.mem_eq, hreports.sync_eq, hreports.waits_eq, x, mem_ops_of_findOp hx, findOp_tag hx, hended, hstatus⟩

/-- Behind an earlier descriptor of its queue the operation waits its turn (R249). -/
theorem sync_behind {op : Nat} {i : Instr} (hi : (op, i) ∈ syncInstrs q tag) (hop : dOpcode d.toNat = op)
    (hwait : op ≠ 0x11 ∧ op ≠ 0x12) (hflight : inFlight s q ≠ []) :
    ∃ t, exec i s = .next t ∧ HeadPassed s t q ∧ t.mem = s.mem ∧ t.sync = s.sync ∧ t.waits = s.waits ∧
      ∃ x ∈ t.ops, x.tag = tag.val ∧ x.ended = false := by
  subst hop
  exact ⟨_, (exec_sync_of_taken h hi rfl).trans (congrArg _ ((startSync_of_noWait h hwait).trans (if_pos hflight))),
    headPassed_syncBegun s q tag c d, rfl, rfl, rfl, _, mem_ops_of_findOp (findOp_syncBegun h), rfl, rfl⟩

end

/-! What an accepted operation changes. -/

/-- `v` is `u` but for object `n`, which is `o`, and for the marks on pending requests. -/
structure ObjBecomes (u v : State) (n : Nat) (o : SyncObj) : Prop where
  frame : ∃ sync waits, v = { u with sync := sync, waits := waits }
  obj   : ∀ m, objOf v m = if m = n then o else objOf u m

theorem setObj_objBecomes (u : State) (n : Nat) (o : SyncObj) : ObjBecomes u (setObj u n o) n o :=
  ⟨⟨_, _, rfl⟩, fun _ => SMap.get_set ..⟩

/-- Marking requests changes no object. -/
theorem ObjBecomes.mark {u v : State} {n : Nat} {o : SyncObj} (h : ObjBecomes u v n o) (waits : List WaitReq) :
    ObjBecomes u { v with waits := waits } n o := by
  obtain ⟨⟨_, _, rfl⟩, hobj⟩ := h
  exact ⟨⟨_, _, rfl⟩, hobj⟩

/-- The object after a SIGNAL by `k`. -/
def signalledBy (o : SyncObj) (k : Nat) : SyncObj :=
  if o.type = 1 then advance o k else if o.set then o else { advance o 1 with set := true }

theorem signalObj_objBecomes (u : State) (c n k : Nat) : ObjBecomes u (signalObj u c n k) n (signalledBy (objOf u n) k) :=
  (setObj_objBecomes u n _).mark _

theorem waits_signalObjBy (u : State) (c n k : Nat) : (signalObj u c n k).waits =
    mapIf (fun w => w.owner == c && w.obj == n && !w.acquire && w.satisfied.isNone && waitOk (signalledBy (objOf u n) k) w.target)
      (fun w => { w with satisfied := some (now u) }) u.waits := by
  have hobj : objOf (setObj u n (signalledBy (objOf u n) k)) n = signalledBy (objOf u n) k := SMap.get_set_same ..
  rw [← hobj]
  rfl

/-- A lock set free. -/
def released (o : SyncObj) : SyncObj := { o with held := false, holder := 0 }

theorem releaseObj_eq (u : State) (c n : Nat) : releaseObj u c n = match firstAcquire u c n with
    | none => setObj u n (released (objOf u n))
    | some w => { setObj u n (released (objOf u n)) with
        waits := mapIf (fun x => x == w) (fun x => { x with satisfied := some (now u) }) u.waits } := by
  have hfree : (objOf (setObj u n (released (objOf u n))) n).held = false := congrArg SyncObj.held (SMap.get_set_same ..)
  exact if_neg (Bool.eq_false_iff.mp hfree)

theorem releaseObj_objBecomes (u : State) (c n : Nat) : ObjBecomes u (releaseObj u c n) n (released (objOf u n)) := by
  rw [releaseObj_eq]
  split
  · exact setObj_objBecomes u n _
  · exact (setObj_objBecomes u n _).mark _

/-- The first queued ACQUIRE is satisfied, and no request is added or taken out. -/
theorem waits_releaseObj (u : State) (c n : Nat) : (releaseObj u c n).waits.length = u.waits.length ∧
    ∀ w, firstAcquire u c n = some w → { w with satisfied := some (now u) } ∈ (releaseObj u c n).waits := by
  rw [releaseObj_eq]
  cases hfirst : firstAcquire u c n with
  | none => exact ⟨rfl, fun _ hw => nomatch hw⟩
  | some w =>
    refine ⟨List.length_map .., fun w' hw => ?_⟩
    cases hw
    exact List.mem_map.mpr ⟨w, List.mem_of_find?_eq_some hfirst, if_pos (beq_self_eq_true w)⟩

/-! The end of an accepted operation. -/

/-- The operation has ended OK with its object's epoch, memory and the other objects are as before, and the head has passed. -/
def SyncDone (s t : State) (q tag n : Nat) : Prop :=
  HeadPassed s t q ∧ t.mem = s.mem ∧ (∀ m, m ≠ n → objOf t m = objOf s m) ∧
    ∃ x ∈ t.ops, x.tag = tag ∧ x.ended = true ∧ x.status = stOk ∧ x.epochSeen = (objOf t n).epoch

section
variable {s : State} {q : QueueId} {tag : TagId} {c : Nat} {d : BitVec 1024} {op : Nat} (h : SyncTaken s q tag c d op stOk)
include h

theorem SyncTaken.exec_accepted {i : Instr} (hi : (op, i) ∈ syncInstrs q tag) (hwait : op ≠ 0x11 ∧ op ≠ 0x12) :
    exec i s = .next (endSync (syncEffect (syncBegun s q tag c d) d.toNat) tag stOk) := by
  have hcheck := h.check
  obtain ⟨htaken, hop, -, hfirst, -, hlive⟩ := h
  have hflight : inFlight s q = [] := (hfirst.resolve_left hwait.1).resolve_left hwait.2
  have hlive' : syncLive (syncBegun s q tag c d) (yOwner d.toNat) = true := hlive rfl
  rw [exec_sync_of_taken htaken hi hop, startSync_of_noWait htaken (by rw [hop]; exact hwait), if_neg (not_not.mpr hflight), hcheck,
    if_neg (not_not.mpr rfl), hlive', if_neg (by decide)]

theorem SyncTaken.done {v : State} {o : SyncObj} (hv : ObjBecomes (syncBegun s q tag c d) v (yObj d.toNat) o) :
    SyncDone s (endSync v tag stOk) q tag (yObj d.toNat) := by
  obtain ⟨⟨sync, waits, rfl⟩, hobj⟩ := hv
  obtain ⟨x, hx, hended, hstatus, -, hepoch⟩ := findOp_endSync (s := { syncBegun s q tag c d with sync := sync, waits := waits }) stOk
    (findOp_syncBegun h.taken) rfl
  have hrange := inSyncRange_of_ok h.checks
  have hown := ownObj_of_live (s := { syncBegun s q tag c d with sync := sync, waits := waits }) hrange (h.live rfl)
  exact ⟨headPassed_syncBegun s q tag c d, rfl, fun m hm => (hobj m).trans (if_neg hm), x, mem_ops_of_findOp hx, findOp_tag hx, hended,
    hstatus, hepoch.trans (congrArg SyncObj.epoch hown)⟩

/-- An accepted operation with its effect `v`. -/
theorem SyncTaken.accepted {i : Instr} (hi : (op, i) ∈ syncInstrs q tag) (hwait : op ≠ 0x11 ∧ op ≠ 0x12) {v : State} {o : SyncObj}
    (heffect : syncEffect (syncBegun s q tag c d) d.toNat = v) (hv : ObjBecomes (syncBegun s q tag c d) v (yObj d.toNat) o) :
    ∃ t, exec i s = .next t ∧ SyncDone s t q tag (yObj d.toNat) ∧ objOf t (yObj d.toNat) = o ∧
      t.waits = v.waits ∧ t.fab = s.fab := by
  subst heffect
  refine ⟨_, h.exec_accepted hi hwait, h.done hv, (hv.obj _).trans (if_pos rfl), rfl, ?_⟩
  obtain ⟨⟨_, _, hframe⟩, -⟩ := hv
  rw [endSync, updOp_fab, hframe]
  rfl

end

end Sys2Proof.Machine
end

section
/-! SUPPORT. The statement of sync operations (R249, R250, R253, R430). -/

namespace Sys2Proof.Machine

/-- Settles O33: an operation is refused, waits its turn, or ends with the effect that Table 12.4 gives it. -/
theorem syncOperationsChangeTheirObject : Obligations.SyncOperationsChangeTheirObject := by
  intro s q tag c d n o arg done
  let u := syncBegun s q tag c d
  refine ⟨fun h => ?_, fun h => ?_, fun h hlast => ?_, fun h hlast => ?_, fun h => ?_, fun h => ?_, fun op i st hi hst h => ?_,
    fun op i hi h hop hflight => ?_, fun op i hi h hop hbad hfirst => ?_⟩
  · have heffect : syncEffect u d.toNat = signalObj u (yOwner d.toNat) n arg := if_pos h.isOp
    obtain ⟨t, ht, hdone, hobj, hwaits, -⟩ := h.accepted (i := .signal q tag) (by simp) (by decide) heffect
      (signalObj_objBecomes u _ n arg)
    refine ⟨t, ht, hdone, hobj, ?_⟩
    rw [hwaits, waits_signalObjBy, hobj]
    rfl
  · have heffect : syncEffect u d.toNat = releaseObj u (yOwner d.toNat) n := by simp [syncEffect, h.isOp, n]
    obtain ⟨t, ht, hdone, hobj, hwaits, -⟩ := h.accepted (i := .releaseLock q tag) (by simp) (by decide) heffect
      (releaseObj_objBecomes u _ n)
    obtain ⟨hlength, hfirst⟩ := waits_releaseObj u (yOwner d.toNat) n
    exact ⟨t, ht, hdone, hobj, by rw [hwaits]; exact hlength, by rw [hwaits]; exact hfirst⟩
  · have heffect : syncEffect u d.toNat = setObj u n { o with localArrived := (o.localArrived + 1) % 64 } := by
      simp only [syncEffect, h.isOp]
      exact if_neg hlast
    obtain ⟨t, ht, hdone, hobj, hwaits, hfab⟩ := h.accepted (i := .arrive q tag) (by simp) (by decide) heffect
      (setObj_objBecomes u n _)
    exact ⟨t, ht, hdone, hobj, hwaits, hfab⟩
  · have heffect : syncEffect u d.toNat = sendArrival (setObj u n { o with localArrived := (o.localArrived + 1) % 64 }) n := by
      simp only [syncEffect, h.isOp]
      exact if_pos hlast
    refine ⟨syncOp s q tag c d, rfl, rfl, ?_⟩
    rw [h.exec_accepted (i := .arrive q tag) (by simp) (by decide), heffect]
    rfl
  · have heffect : syncEffect u d.toNat = setObj u n { o with set := false } := by
      simp only [syncEffect, h.isOp]
      rfl
    obtain ⟨t, ht, hdone, hobj, hwaits, -⟩ := h.accepted (i := .clear q tag) (by simp) (by decide) heffect
      (setObj_objBecomes u n _)
    exact ⟨t, ht, hdone, hobj, hwaits⟩
  · have heffect : syncEffect u d.toNat = initObj u d.toNat := by
      simp only [syncEffect, h.isOp]
      rfl
    obtain ⟨t, ht, hdone, hobj, hwaits, -⟩ := h.accepted (i := .init q tag) (by simp) (by decide) heffect
      (setObj_objBecomes u n _)
    refine ⟨t, ht, hdone, hwaits, ?_⟩
    rw [hobj]
    exact ⟨rfl, rfl, rfl, rfl, rfl, rfl, fun htype => ⟨if_pos htype, if_pos htype⟩⟩
  · exact sync_refused h.taken hi h.isOp h.first h.check hst
  · have hwait : op ≠ 0x11 ∧ op ≠ 0x12 := by
      simp only [List.mem_cons, Prod.mk.injEq, List.not_mem_nil, or_false] at hi
      omega
    have hmem : (op, i) ∈ syncInstrs q tag := by
      simp only [List.mem_cons, List.not_mem_nil, or_false] at hi ⊢
      tauto
    exact sync_behind h hmem hop hwait hflight
  · exact sync_refused h hi hop hfirst (syncCheck_of_fieldsBad hbad) (by decide)

end Sys2Proof.Machine
end

section
/-! SUPPORT. The end of a pending request (R250 to R252): what it leaves of the state, and what becomes of the operation. -/

namespace Sys2Proof.Machine

/-! What the parts of it leave. -/

theorem objOf_of_sync_eq {s t : State} (h : t.sync = s.sync) (n : Nat) : objOf t n = objOf s n := by
  unfold objOf
  rw [h]

theorem newRun_eq (s : State) (tag : Nat) : ∃ parts, newRun s tag = { s with parts := parts } := by
  unfold newRun
  split
  · exact ⟨_, rfl⟩
  · dsimp only
    split
    · exact ⟨_, rfl⟩
    · exact ⟨_, rfl⟩

theorem acquireEffect_eq (s : State) (scope : Nat) (prog : Bool) : ∃ dict rtCache fab, acquireEffect s scope prog =
    { s with dict := dict, rtCache := rtCache, fab := fab, rrCache := if scope = 3 then [] else s.rrCache } := by
  unfold acquireEffect
  dsimp only
  split
  · split
    · exact ⟨_, _, _, rfl⟩
    · exact ⟨_, _, _, rfl⟩
  · split
    · exact ⟨_, _, _, rfl⟩
    · exact ⟨_, _, _, rfl⟩

/-- A satisfied request comes late when the change was accepted at its deadline or after it (R252). -/
def waitLate (w : WaitReq) (st : Nat) : Bool :=
  st == 0 && (match w.satisfied with
    | some t => decide (w.deadline ≤ t)
    | none => false)

theorem waitLate_of_satisfied {w : WaitReq} {t : Nat} (hsat : w.satisfied = some t) (hlate : w.deadline ≤ t) :
    waitLate w stOk = true := by
  unfold waitLate
  rw [hsat]
  simpa using hlate

/-- The state once the request is out of the list, LATE is counted, and the caches of its scope are empty. -/
def waitReleased (s : State) (w : WaitReq) (st : Nat) : State :=
  let s1 := dropWait s w
  let s2 := if waitLate w st then raise (bump s1 0x2500 3) (src 10 2) else s1
  if st = 0 then acquireEffect s2 w.scope w.engine.isSome else s2

theorem endWait_of_sync {s : State} {w : WaitReq} (hengine : w.engine = none) (st : Nat) : endWait s w st =
    endSync (updOp (newRun (waitReleased s w st) w.tag) w.tag (fun o => { o with late := o.late || waitLate w st })) w.tag st := by
  unfold endWait
  rw [hengine]
  unfold waitReleased
  rw [hengine]
  rfl

/-- A program goes on behind its wait: its engine alone changes. -/
theorem endWait_of_program {s : State} {w : WaitReq} {n : Nat} (hengine : w.engine = some n) :
    ∃ engines, endWait s w stOk = { waitReleased s w stOk with engines := engines } := by
  have hreleased : ∀ u, waitReleased s w stOk = u → ∃ engines, (match progOf (engineOf u n) (waitClass w) with
      | none => u
      | some p => if p.tag != some w.tag || !p.waiting then u
        else keepProg u n (waitClass w) { p with waiting := false, pc := p.pc + 1 }) = { u with engines := engines } := by
    intro u _
    split
    · exact ⟨_, rfl⟩
    · split
      · exact ⟨_, rfl⟩
      · exact ⟨_, rfl⟩
  obtain ⟨engines, h⟩ := hreleased _ rfl
  refine ⟨engines, h ▸ ?_⟩
  unfold endWait
  rw [hengine]
  unfold waitReleased
  rw [hengine]
  rfl

/-- A report and an emptied cache leave the requests, the objects, memory and the operations. -/
theorem waitReleased_leaves (s : State) (w : WaitReq) (st : Nat) : (waitReleased s w st).waits = s.waits.erase w ∧
    (waitReleased s w st).sync = s.sync ∧ (waitReleased s w st).mem = s.mem ∧ (waitReleased s w st).ops = s.ops := by
  have hlate : ReportsOnly (dropWait s w) (if waitLate w st then raise (bump (dropWait s w) 0x2500 3) (src 10 2) else dropWait s w) :=
    .ite ((setReg_reportsOnly _ _ _ _).trans (raise_reportsOnly _ _))
  unfold waitReleased
  dsimp only
  split
  · obtain ⟨_, _, _, hacquire⟩ := acquireEffect_eq
      (if waitLate w st then raise (bump (dropWait s w) 0x2500 3) (src 10 2) else dropWait s w) w.scope w.engine.isSome
    rw [hacquire]
    exact ⟨hlate.waits_eq, hlate.sync_eq, hlate.mem_eq, hlate.ops_eq⟩
  · exact ⟨hlate.waits_eq, hlate.sync_eq, hlate.mem_eq, hlate.ops_eq⟩

/-- A request that ends without success, or in time, reports nothing. -/
theorem waitReleased_of_inTime {s : State} {w : WaitReq} {st : Nat} (h : waitLate w st = false) :
    waitReleased s w st = if st = 0 then acquireEffect (dropWait s w) w.scope w.engine.isSome else dropWait s w := by
  unfold waitReleased
  rw [h]
  rfl

theorem endWait_leaves {s : State} {w : WaitReq} {st : Nat} (h : st = stOk ∨ w.engine = none) :
    (endWait s w st).waits = s.waits.erase w ∧ (endWait s w st).sync = s.sync ∧ (endWait s w st).mem = s.mem := by
  obtain ⟨hwaits, hsync, hmem, -⟩ := waitReleased_leaves s w st
  cases hengine : w.engine with
  | none =>
    obtain ⟨_, hrun⟩ := newRun_eq (waitReleased s w st) w.tag
    rw [endWait_of_sync hengine, hrun]
    exact ⟨hwaits, hsync, hmem⟩
  | some n =>
    obtain rfl := h.resolve_right (by rw [hengine]; exact fun h => nomatch h)
    obtain ⟨_, hgoes⟩ := endWait_of_program (s := s) hengine
    rw [hgoes]
    exact ⟨hwaits, hsync, hmem⟩

/-! What becomes of an operation. -/

/-- The operation goes on as it is, or has ended with `st`; LATE stays once it is set. -/
structure EndsWith (st : Nat) (o o' : Op) : Prop where
  late  : o.late = true → o'.late = true
  kept  : o.ended = true → o'.ended = true ∧ o'.status = o.status
  ended : o.ended = false → o'.ended = true → o'.status = st

theorem EndsWith.refl (st : Nat) (o : Op) : EndsWith st o o :=
  ⟨id, fun h => ⟨h, rfl⟩, fun h h' => by rw [h] at h'; cases h'⟩

theorem EndsWith.trans {st : Nat} {o o' o'' : Op} (h : EndsWith st o o') (k : EndsWith st o' o'') : EndsWith st o o'' := by
  refine ⟨fun hl => k.late (h.late hl), fun he => ?_, fun he he'' => ?_⟩
  · obtain ⟨he', hs'⟩ := h.kept he
    obtain ⟨he'', hs''⟩ := k.kept he'
    exact ⟨he'', hs''.trans hs'⟩
  · cases he' : o'.ended with
    | true => exact (k.kept he').2.trans (h.ended he he')
    | false => exact k.ended he' he''

/-- A change made to the operation of a tag alone. -/
def atTag (tag time : Nat) (f : Op → Op) (o : Op) : Op := if o.tag == tag then (f o).stamp time else o

/-- An operation is marked LATE. -/
def markLate (late : Bool) (o : Op) : Op := { o with late := o.late || late }

/-- A sync operation that goes on ends with a status (Table 12.7). -/
def endedSync (s : State) (st : Nat) (o : Op) : Op :=
  if o.ended then o else { o with
    status := st, ended := true, accepted := true, epochSeen := (ownObj s (yOwner o.desc.toNat) (yObj o.desc.toNat)).epoch,
    waitNs := now s - o.taken }

theorem endedSync_tag (s : State) (st : Nat) (o : Op) : (endedSync s st o).tag = o.tag := by
  unfold endedSync
  split
  · rfl
  · rfl

theorem endedSync_ended (s : State) (st : Nat) (o : Op) : (endedSync s st o).ended = true := by
  unfold endedSync
  split
  next h => exact h
  · rfl

theorem EndsWith.of_atTag {st : Nat} {f : Op → Op} (hf : ∀ o, EndsWith st o (f o)) (tag time : Nat) (o : Op) :
    EndsWith st o (atTag tag time f o) := by
  obtain ⟨hlate, hkept, hended⟩ := hf o
  unfold atTag
  split
  · exact ⟨by simpa using hlate, by simpa using hkept, by simpa using hended⟩
  · exact .refl st o

theorem markLate_endsWith (st : Nat) (late : Bool) (o : Op) : EndsWith st o (markLate late o) :=
  ⟨fun h => Bool.or_eq_true_iff.mpr (.inl h), fun h => ⟨h, rfl⟩, fun h h' => by rw [show o.ended = true from h'] at h; cases h⟩

theorem endedSync_endsWith (s : State) (st : Nat) (o : Op) : EndsWith st o (endedSync s st o) := by
  unfold endedSync
  split
  · exact .refl st o
  next h => exact ⟨id, fun h' => absurd h' h, fun _ _ => rfl⟩

/-- The operation of a request that ends with a status. -/
theorem findOp_endWait_of_sync {s : State} {w : WaitReq} (hengine : w.engine = none) (st : Nat) : ∃ f : Op → Op,
    (∀ tag, findOp (endWait s w st) tag = (findOp s tag).map f) ∧ ∀ o, EndsWith st o (f o) ∧
      (o.tag = w.tag → (f o).ended = true ∧ (waitLate w st = true → (f o).late = true)) := by
  obtain ⟨-, -, -, hops⟩ := waitReleased_leaves s w st
  obtain ⟨_, hrun⟩ := newRun_eq (waitReleased s w st) w.tag
  have hfind : ∀ tag, findOp (newRun (waitReleased s w st) w.tag) tag = findOp s tag := fun tag => by
    rw [hrun]
    exact findOp_of_ops_eq hops tag
  let u := newRun (waitReleased s w st) w.tag
  let u' := updOp u w.tag (markLate (waitLate w st))
  let f := atTag w.tag u.aon.time (markLate (waitLate w st))
  let g := atTag w.tag u'.aon.time (endedSync u' st)
  have hg : ∀ o, EndsWith st o (g o) := .of_atTag (endedSync_endsWith u' st) _ _
  refine ⟨g ∘ f, fun tag => ?_, fun o => ⟨.trans (.of_atTag (markLate_endsWith st _) _ _ o) (hg _), fun ho => ?_⟩⟩
  · rw [endWait_of_sync hengine, ← hfind tag, ← Option.map_map]
    exact (findOp_updOp (endedSync_tag u' st) u' w.tag tag).trans
      (congrArg _ (findOp_updOp (f := markLate (waitLate w st)) (fun _ => rfl) u w.tag tag))
  · have hf : f o = (markLate (waitLate w st) o).stamp u.aon.time := if_pos (beq_iff_eq.mpr ho)
    have htag : (f o).tag = w.tag := by rw [hf, Op.stamp_tag]; exact ho
    have hend : g (f o) = (endedSync u' st (f o)).stamp u'.aon.time := if_pos (beq_iff_eq.mpr htag)
    refine ⟨by rw [Function.comp, hend, Op.stamp_ended, endedSync_ended], fun hlate => (hg (f o)).late ?_⟩
    rw [hf, Op.stamp_late]
    exact Bool.or_eq_true_iff.mpr (.inr hlate)

/-- Whatever request ends with success, an operation goes on or has ended OK. -/
theorem findOp_endWait (s : State) (w : WaitReq) : ∃ f : Op → Op,
    (∀ tag, findOp (endWait s w stOk) tag = (findOp s tag).map f) ∧ ∀ o, EndsWith stOk o (f o) ∧
      (w.engine = none → o.tag = w.tag → (f o).ended = true ∧ (waitLate w stOk = true → (f o).late = true)) := by
  cases hengine : w.engine with
  | none =>
    obtain ⟨f, hfind, hf⟩ := findOp_endWait_of_sync (s := s) hengine stOk
    exact ⟨f, hfind, fun o => ⟨(hf o).1, fun _ => (hf o).2⟩⟩
  | some n =>
    obtain ⟨_, hgoes⟩ := endWait_of_program (s := s) hengine
    refine ⟨id, fun tag => ?_, fun o => ⟨.refl _ o, fun h => nomatch h⟩⟩
    rw [hgoes, Option.map_id]
    exact findOp_of_ops_eq (waitReleased_leaves s w stOk).2.2.2 tag

/-- The operation of a sync request has ended with its status. -/
theorem findOp_endWait_ended {s : State} {w : WaitReq} (hengine : w.engine = none) (st : Nat) {o : Op}
    (ho : findOp s w.tag = some o) (hended : o.ended = false) :
    ∃ o', findOp (endWait s w st) w.tag = some o' ∧ o'.ended = true ∧ o'.status = st := by
  obtain ⟨f, hfind, hf⟩ := findOp_endWait_of_sync (s := s) hengine st
  obtain ⟨hends, htag⟩ := hf o
  have hdone := (htag (findOp_tag ho)).1
  exact ⟨f o, by rw [hfind, ho]; rfl, hdone, hends.ended hended hdone⟩

end Sys2Proof.Machine
end

section
/-! SUPPORT. WAIT and ACQUIRE when they are taken (R249, R250), and what ends pending requests (R250 to R252). -/

namespace Sys2Proof.Machine

/-! A request is answered when it is taken, or pends. -/

section
variable {s : State} {q : QueueId} {tag : TagId} {c : Nat} {d : BitVec 1024}

/-- The request of the descriptor. -/
abbrev syncReq (s : State) (q : QueueId) (tag : TagId) (c : Nat) (d : BitVec 1024) : WaitReq :=
  waitReq (takeHead s q) (syncOp s q tag c d)

/-- The state with the request in the list. -/
def syncPending (s : State) (q : QueueId) (tag : TagId) (c : Nat) (d : BitVec 1024) : State :=
  { syncBegun s q tag c d with waits := s.waits ++ [syncReq s q tag c d] }

/-- A lock is free and nobody queues for it. -/
def lockFree (s : State) (c n : Nat) : Bool := syncLive s c && !(objOf s n).held && (firstAcquire s c n).isNone

theorem startWait_of_checked (hcheck : syncCheck s (syncOp s q tag c d) = stOk) :
    startWait (takeHead s q) (syncOp s q tag c d) = if dOpcode d.toNat = 0x11 then
        if (syncLive s (yOwner d.toNat) && waitOk (objOf s (yObj d.toNat)) (yArg d.toNat)) = true
        then endWait (syncPending s q tag c d) (syncReq s q tag c d) stOk else syncPending s q tag c d
      else if lockFree s (yOwner d.toNat) (yObj d.toNat) = true
        then endWait (grantLock (syncPending s q tag c d) (yObj d.toNat) (syncReq s q tag c d).agent) (syncReq s q tag c d) stOk
        else syncPending s q tag c d := by
  have hpass : ¬ syncCheck (takeHead s q) (syncOp s q tag c d) ≠ 0 := by rw [syncCheck_takeHead, hcheck]; decide
  exact (if_neg hpass).trans rfl

/-- What the end of a request in time leaves of queues and caches. -/
theorem endWait_of_inTime {w : WaitReq} (s : State) (hengine : w.engine = none) (hsat : w.satisfied = none) :
    (endWait s w stOk).bar = s.bar ∧ (endWait s w stOk).rrCache = if w.scope = 3 then [] else s.rrCache := by
  have hlate : waitLate w stOk = false := by unfold waitLate; rw [hsat]; rfl
  obtain ⟨_, hrun⟩ := newRun_eq (waitReleased s w stOk) w.tag
  obtain ⟨_, _, _, hacquire⟩ := acquireEffect_eq (dropWait s w) w.scope w.engine.isSome
  rw [endWait_of_sync hengine, hrun, waitReleased_of_inTime hlate, if_pos rfl, hacquire]
  exact ⟨rfl, rfl⟩

/-- The operation goes on with its request last in the list. -/
def WaitPends (s t : State) (q : QueueId) (tag : TagId) (d : BitVec 1024) (acquire : Bool) : Prop :=
  HeadPassed s t q ∧ t.mem = s.mem ∧ t.sync = s.sync ∧
    (∃ w, t.waits = s.waits ++ [w] ∧ w.tag = tag.val ∧ w.owner = yOwner d.toNat ∧ w.obj = yObj d.toNat ∧ w.target = yArg d.toNat ∧
      w.acquire = acquire ∧ w.deadline = now s + (if yTimeout d.toNat = 0 then reg s 0x2500 1 else yTimeout d.toNat) ∧
      w.satisfied = none ∧ w.scope = yScope d.toNat ∧ w.engine = none) ∧
    ∃ x ∈ t.ops, x.tag = tag.val ∧ x.ended = false

/-- The operation has ended OK, and no request has been added or taken out. -/
def WaitEnds (s t : State) (q : QueueId) (tag : TagId) (d : BitVec 1024) : Prop :=
  HeadPassed s t q ∧ t.mem = s.mem ∧ (∀ x, x ∈ t.waits ↔ x ∈ s.waits) ∧
    t.rrCache = (if yScope d.toNat = 3 then [] else s.rrCache) ∧ ∃ x ∈ t.ops, x.tag = tag.val ∧ x.ended = true ∧ x.status = stOk

theorem syncPending_pends (h : Taken s q tag c d) {acquire : Bool} (hacquire : (dOpcode d.toNat == 0x12) = acquire) :
    WaitPends s (syncPending s q tag c d) q tag d acquire :=
  ⟨headPassed_syncBegun s q tag c d, rfl, rfl, ⟨_, rfl, rfl, rfl, rfl, rfl, hacquire, rfl, rfl, rfl, rfl⟩,
    _, mem_ops_of_findOp (findOp_syncBegun h), rfl, rfl⟩

/-- A request taken in and out again leaves the others. -/
theorem mem_append_erase {l : List WaitReq} {w : WaitReq} (x : WaitReq) : x ∈ (l ++ [w]).erase w ↔ x ∈ l := by
  by_cases hw : w ∈ l
  · rw [List.erase_append_left _ hw, List.mem_append, List.mem_singleton]
    by_cases hx : x = w
    · simp [hx, hw]
    · simp [hx, List.mem_erase_of_ne hx]
  · rw [List.erase_append_right _ hw]
    simp

/-- A request answered when it is taken, in a state that differs from the one in which it pends by objects alone. -/
theorem endWait_syncPending (h : Taken s q tag c d) (sync : SMap SyncObj) :
    WaitEnds s (endWait { syncPending s q tag c d with sync := sync } (syncReq s q tag c d) stOk) q tag d ∧
      (endWait { syncPending s q tag c d with sync := sync } (syncReq s q tag c d) stOk).sync = sync := by
  have hengine : (syncReq s q tag c d).engine = none := rfl
  obtain ⟨hwaits, hsync, hmem⟩ := endWait_leaves (s := { syncPending s q tag c d with sync := sync }) (.inr hengine) (st := stOk)
  obtain ⟨hbar, hcache⟩ := endWait_of_inTime { syncPending s q tag c d with sync := sync } hengine rfl
  obtain ⟨x, hx, hended, hstatus⟩ := findOp_endWait_ended (s := { syncPending s q tag c d with sync := sync }) hengine stOk
    (findOp_syncBegun h) rfl
  refine ⟨⟨?_, hmem, fun x => ?_, hcache, x, mem_ops_of_findOp hx, findOp_tag hx, hended, hstatus⟩, hsync⟩
  · exact (QueueRegsKept.of_bar_eq hbar).headPassed q.isLt (headPassed_syncBegun s q tag c d)
  · rw [hwaits]
    exact mem_append_erase x

theorem SyncTaken.exec_wait (h : SyncTaken s q tag c d 0x11 stOk) : exec (.wait q tag) s =
    .next (if (syncLive s (yOwner d.toNat) && waitOk (objOf s (yObj d.toNat)) (yArg d.toNat)) = true
      then endWait (syncPending s q tag c d) (syncReq s q tag c d) stOk else syncPending s q tag c d) := by
  rw [exec_sync_of_taken h.taken (op := 0x11) (i := .wait q tag) (by simp) h.isOp]
  exact congrArg _ ((if_pos (by simp [newOp, h.isOp])).trans ((startWait_of_checked h.check).trans (if_pos h.isOp)))

theorem SyncTaken.exec_acquire (h : SyncTaken s q tag c d 0x12 stOk) : exec (.acquire q tag) s =
    .next (if lockFree s (yOwner d.toNat) (yObj d.toNat) = true
      then endWait (grantLock (syncPending s q tag c d) (yObj d.toNat) (syncReq s q tag c d).agent) (syncReq s q tag c d) stOk
      else syncPending s q tag c d) := by
  have hop := h.isOp
  rw [exec_sync_of_taken h.taken (op := 0x12) (i := .acquire q tag) (by simp) hop]
  exact congrArg _ ((if_pos (by simp [newOp, hop])).trans ((startWait_of_checked h.check).trans (if_neg (by rw [hop]; decide))))

end

/-! Satisfied waits end together (R250). -/

/-- Taking out each element that `p` selects leaves the others. -/
theorem foldl_erase_filter (p : WaitReq → Bool) (l : List WaitReq) : (l.filter p).foldl List.erase l = l.filter (fun x => !p x) := by
  rw [← List.diff_eq_foldl]
  induction l with
  | nil => rfl
  | cons x l ih =>
    cases hp : p x with
    | true => rw [List.filter_cons_of_pos hp, List.diff_cons, List.erase_cons_head, ih, List.filter_cons_of_neg (by simp [hp])]
    | false =>
      have hx : x ∉ l.filter p := fun hmem => by simp [hp] at hmem
      rw [List.filter_cons_of_neg (by simp [hp]), List.cons_diff_of_not_mem hx, ih, List.filter_cons_of_pos (by simp [hp])]

theorem foldl_endWait_leaves (l : List WaitReq) (s : State) :
    (l.foldl (fun t x => endWait t x stOk) s).waits = l.foldl List.erase s.waits ∧
      (l.foldl (fun t x => endWait t x stOk) s).sync = s.sync ∧ (l.foldl (fun t x => endWait t x stOk) s).mem = s.mem := by
  induction l generalizing s with
  | nil => exact ⟨rfl, rfl, rfl⟩
  | cons x l ih =>
    obtain ⟨hwaits, hsync, hmem⟩ := endWait_leaves (s := s) (w := x) (st := stOk) (.inl rfl)
    obtain ⟨hwaits', hsync', hmem'⟩ := ih (endWait s x stOk)
    exact ⟨hwaits'.trans (by rw [hwaits]; rfl), hsync'.trans hsync, hmem'.trans hmem⟩

/-- The operation of each request that has ended OK, LATE when its change came late. -/
theorem findOp_foldl_endWait {l : List WaitReq} {x : WaitReq} (hx : x ∈ l) (hengine : x.engine = none) {s : State} {o : Op}
    (ho : findOp s x.tag = some o) (hended : o.ended = false) :
    ∃ o', findOp (l.foldl (fun t x => endWait t x stOk) s) x.tag = some o' ∧ o'.ended = true ∧ o'.status = stOk ∧
      (waitLate x stOk = true → o'.late = true) := by
  obtain ⟨o', ho', hends⟩ : ∃ o', findOp (l.foldl (fun t x => endWait t x stOk) s) x.tag = some o' ∧ EndsWith stOk o o' := by
    refine foldl_invariant (P := fun t => ∃ o', findOp t x.tag = some o' ∧ EndsWith stOk o o') (fun w t ⟨o', ho', hends⟩ => ?_) l
      ⟨o, ho, .refl _ o⟩
    obtain ⟨f, hfind, hf⟩ := findOp_endWait t w
    exact ⟨f o', by rw [hfind, ho']; rfl, hends.trans (hf o').1⟩
  have hdone : ∀ o', findOp (l.foldl (fun t x => endWait t x stOk) s) x.tag = some o' →
      o'.ended = true ∧ (waitLate x stOk = true → o'.late = true) := by
    refine foldl_of_mem (P := fun t => ∀ o', findOp t x.tag = some o' → o'.ended = true ∧ (waitLate x stOk = true → o'.late = true)) hx
      (fun t o' ho' => ?_) (fun w t ht o' ho' => ?_) s
    · obtain ⟨f, hfind, hf⟩ := findOp_endWait t x
      obtain ⟨p, hp, rfl⟩ := Option.map_eq_some_iff.mp ((hfind x.tag).symm.trans ho')
      exact (hf p).2 hengine (findOp_tag hp)
    · obtain ⟨f, hfind, hf⟩ := findOp_endWait t w
      obtain ⟨p, hp, rfl⟩ := Option.map_eq_some_iff.mp ((hfind x.tag).symm.trans ho')
      obtain ⟨hpended, hplate⟩ := ht p hp
      exact ⟨((hf p).1.kept hpended).1, fun hlate => (hf p).1.late (hplate hlate)⟩
  obtain ⟨hdone, hlate⟩ := hdone o' ho'
  exact ⟨o', ho', hdone, hends.ended hended hdone, hlate⟩

theorem exec_waitSatisfied {s : State} {tag : TagId} {w : WaitReq} (hclock : clockOn s = true) (hw : waitOf s tag = some w)
    (hacquire : w.acquire = false) (hsat : w.satisfied.isSome = true) : exec (.waitSatisfied tag) s =
      .next ((s.waits.filter fun x => !x.acquire && x.owner == w.owner && x.obj == w.obj && x.satisfied.isSome).foldl
        (fun t x => endWait t x stOk) s) := by
  show execWaitSatisfied tag s = _
  have hnone : w.satisfied.isNone = false := by rw [← Option.not_isSome, hsat]; rfl
  simp only [execWaitSatisfied, hclock, hw, hacquire, hnone, Bool.or_false, Bool.false_eq_true, if_false, if_true]

/-! A lock is granted to the first in its queue (R250). -/

/-- Taking out a request and its satisfied copy takes out the request, as no two requests are of one operation. -/
theorem erase_satisfied {l : List WaitReq} {w : WaitReq} (hw : w ∈ l) (hnodup : (l.map fun x => (x.tag, x.engine)).Nodup)
    (t : Option Nat) : (l.erase { w with satisfied := t }).erase w = l.erase w := by
  have hout : w ∉ l.erase w := (List.Nodup.of_map _ hnodup).not_mem_erase
  by_cases hcopy : { w with satisfied := t } ∈ l
  · have hsame : { w with satisfied := t } = w := List.inj_on_of_nodup_map hnodup hcopy hw rfl
    rw [hsame, List.erase_of_not_mem hout]
  · rw [List.erase_of_not_mem hcopy]

/-- The request that a grant ends: it is satisfied now, unless the lock was set free for it before. -/
def grantedReq (s : State) (w : WaitReq) : WaitReq := { w with satisfied := some (w.satisfied.getD (now s)) }

theorem exec_lockGrant {s : State} {obj : Fin 4096} {w : WaitReq} (hclock : clockOn s = true)
    (hfirst : s.waits.find? (fun x => x.acquire && x.obj == obj.val && syncLive s x.owner) = some w)
    (htype : (objOf s obj).type = 3)
    (hfree : (objOf s obj).held = false) :
    exec (.lockGrant obj) s = .next (dropWait (endWait (grantLock s obj w.agent) (grantedReq s w) stOk) w) := by
  show execLockGrant obj s = _
  simp only [execLockGrant, hfirst, hclock, htype, hfree, beq_self_eq_true, Bool.not_false, Bool.and_true, if_true]
  rfl

/-! The watchdog (R251). -/

/-- The fault that the watchdog reports for a request. -/
def timeoutEvent (s : State) (w : WaitReq) : Event :=
  { Event.plain 0x11 2 (match w.engine with
      | some n => 4 + n
      | none => ((findOp s w.tag).map (fun o => queueUnit s o.queue)).getD 0xFF) w.obj with
    ctx := some w.ctx, opId := ((findOp s w.tag).map (fun o => dOpId o.desc.toNat)).getD 0, srcs := [src 10 0] }

theorem exec_syncTimeout {s : State} {tag : TagId} {w : WaitReq} (hclock : clockOn s = true) (hstop : stopped s = false)
    (hw : waitOf s tag = some w) (hsat : w.satisfied = none) (hdue : w.deadline ≤ now s) :
    exec (.syncTimeout tag) s = .next (endWait (logEvent (bump s 0x2500 2) (timeoutEvent s w)) w stTimeout) := by
  show execSyncTimeout tag s = _
  simp only [execSyncTimeout, hw, hclock, hstop, hsat, hdue, Option.isNone_none, Bool.not_false, Bool.and_true, decide_true, if_true]
  rfl

/-- A request that times out stores no entry. -/
theorem endWait_timeout_dict {s : State} {w : WaitReq} (hengine : w.engine = none) : (endWait s w stTimeout).dict = s.dict := by
  rw [endWait_of_sync hengine, waitReleased_of_inTime rfl]
  exact newRun_dict _ _

end Sys2Proof.Machine
end

section
/-! SUPPORT. The statement of waits and locks (R241, R249 to R252). -/

namespace Sys2Proof.Machine

/-- Settles O34: WAIT and ACQUIRE leave their request in the list or end it at once; the three commands end requests by
`endWait`. -/
theorem waitsAndLocksAreGrantedOrQueued : Obligations.WaitsAndLocksAreGrantedOrQueued := by
  refine fun s => ⟨fun q tag c d => ⟨fun h hok => ?_, fun h hnot => ?_, fun h hheld hfirst => ?_, fun h hbusy => ?_⟩,
    fun tag w hclock hw hacquire hsat => ?_, fun obj w hclock hfirst htype hfree hnodup => ?_,
    fun tag w hclock hstop hw hsat hdue hengine => ?_⟩
  · obtain ⟨hends, hsync⟩ := endWait_syncPending h.taken s.sync
    exact ⟨_, h.exec_wait.trans (congrArg _ (if_pos (by rw [h.live rfl, hok]; rfl))), hends, hsync⟩
  · exact ⟨_, h.exec_wait.trans (congrArg _ (if_neg (by rw [hnot, Bool.and_false]; decide))),
      syncPending_pends h.taken (by rw [h.isOp]; rfl)⟩
  · have hlock : lockFree s (yOwner d.toNat) (yObj d.toNat) = true := by simp [lockFree, h.live rfl, hheld, hfirst]
    obtain ⟨hends, hsync⟩ := endWait_syncPending h.taken (grantLock s (yObj d.toNat) (syncReq s q tag c d).agent).sync
    have hobj : ∀ m, objOf (endWait (grantLock (syncPending s q tag c d) (yObj d.toNat) (syncReq s q tag c d).agent)
        (syncReq s q tag c d) stOk) m = objOf (grantLock s (yObj d.toNat) (syncReq s q tag c d).agent) m :=
      objOf_of_sync_eq hsync
    exact ⟨_, h.exec_acquire.trans (congrArg _ (if_pos hlock)), hends, (hobj _).trans (SMap.get_set_same ..),
      fun m hm => (hobj m).trans (SMap.get_set_ne _ _ _ hm)⟩
  · have hlock : lockFree s (yOwner d.toNat) (yObj d.toNat) = false := by
      unfold lockFree
      rcases hbusy with hheld | hfirst
      · simp [hheld]
      · simp [Option.isNone_eq_false_iff.mpr (Option.isSome_iff_ne_none.mpr hfirst)]
    exact ⟨_, h.exec_acquire.trans (congrArg _ (if_neg (by rw [hlock]; decide))),
      syncPending_pends h.taken (by rw [h.isOp]; rfl)⟩
  · intro group
    obtain ⟨hwaits, hsync, hmem⟩ := foldl_endWait_leaves (s.waits.filter group) s
    refine ⟨_, exec_waitSatisfied hclock hw hacquire hsat, hwaits.trans (foldl_erase_filter group s.waits), hsync, hmem,
      fun x hx hgroup hengine o ho hended => ?_⟩
    obtain ⟨o', ho', hdone, hstatus, hlate⟩ := findOp_foldl_endWait (List.mem_filter.mpr ⟨hx, hgroup⟩) hengine ho hended
    exact ⟨o', ho', hdone, hstatus, fun ⟨t, ht, hdue⟩ => hlate (waitLate_of_satisfied ht hdue)⟩
  · obtain ⟨hwaits, hsync, hmem⟩ := endWait_leaves (s := grantLock s obj w.agent) (w := grantedReq s w) (st := stOk) (.inl rfl)
    have hobj : ∀ m, objOf (dropWait (endWait (grantLock s obj w.agent) (grantedReq s w) stOk) w) m = objOf (grantLock s obj w.agent) m :=
      objOf_of_sync_eq hsync
    refine ⟨_, exec_lockGrant hclock hfirst htype hfree, ?_, hmem, (hobj _).trans (SMap.get_set_same ..),
      fun m hm => (hobj m).trans (SMap.get_set_ne _ _ _ hm), fun hengine o ho hended => ?_⟩
    · exact (congrArg (List.erase · w) hwaits).trans (erase_satisfied (List.mem_of_find?_eq_some hfirst) hnodup _)
    · exact findOp_endWait_ended (s := grantLock s obj w.agent) (w := grantedReq s w) hengine stOk ho hended
  · let u := logEvent (bump s 0x2500 2) (timeoutEvent s w)
    have hreports : ReportsOnly s u := (setReg_reportsOnly s _ _ _).trans (logEvent_reportsOnly _ _)
    obtain ⟨hwaits, hsync, hmem⟩ := endWait_leaves (s := u) (w := w) (st := stTimeout) (.inr hengine)
    refine ⟨_, exec_syncTimeout hclock hstop hw hsat hdue, by rw [hwaits, hreports.waits_eq], hsync.trans hreports.sync_eq,
      hmem.trans hreports.mem_eq, ?_, fun o ho hended => ?_⟩
    · have hlog := logEvent_entriesKept (lo := dkey 0x2500 0) (hi := dkey 0x2501 0) (by decide) (by decide) (bump s 0x2500 2)
        (timeoutEvent s w) 0x2500 2 (by decide) (by decide)
      exact (reg_of_dict_eq (endWait_timeout_dict hengine) _ _).trans (hlog.trans (reg_setReg_same ..))
    · exact findOp_endWait_ended hengine stTimeout ((hreports.findOp_eq w.tag).trans ho) hended

end Sys2Proof.Machine
end

section
/-! SUPPORT. Messages and reports use the sending half of the links (R260 to R269, R386 to R389): what they store in the
dictionary, that they only add to what the device puts out, and that links keep what they have received. -/

namespace Sys2Proof.Machine

/-! The entries that messages and reports store. -/

/-- The entries that messages and NOTIFY store: the counts of dropped NOTIFY frames, of discarded messages, and of the DATA cells
that each port sent. -/
def messageKeys : List Nat :=
  dkey 0x1010 5 :: dkey 0x7000 0x0A :: (List.range 24).map (fun p => dkey (0x7020 + p) 0x0B)

/-- Those, and the entries of the error log. -/
def logKeys : List Nat := dkey 0x8100 2 :: dkey 0x8100 3 :: dkey 0x8101 1 :: messageKeys

theorem messageKeys_subset_logKeys : messageKeys ⊆ logKeys := fun _ h => .tail _ (.tail _ (.tail _ h))

theorem cellsSent_mem_messageKeys {p : Nat} (hp : p < 24) : dkey (0x7020 + p) 0x0B ∈ messageKeys :=
  .tail _ (.tail _ (List.mem_map.mpr ⟨p, List.mem_range.mpr hp, rfl⟩))

theorem discards_mem_messageKeys : dkey 0x7000 0x0A ∈ messageKeys := .tail _ (.head _)

/-- The other entries of a port are none of them. -/
theorem portEntry_notMem_logKeys {p sub : Nat} (hp : p < 24) (hsub : sub < 0x0B) : dkey (0x7020 + p) sub ∉ logKeys := by
  simp only [logKeys, messageKeys, List.mem_cons, List.mem_map, List.mem_range, not_or, not_exists, dkey]
  refine ⟨by omega, by omega, by omega, by omega, by omega, fun q => ?_⟩
  omega

theorem portEntry_notMem_messageKeys {p sub : Nat} (hp : p < 24) (hsub : sub < 0x0B) : dkey (0x7020 + p) sub ∉ messageKeys :=
  fun h => portEntry_notMem_logKeys hp hsub (messageKeys_subset_logKeys h)

/-! What interrupts put out comes after what was put out. -/

theorem startTimer_out (s : State) (g : Nat) : (startTimer s g).out = s.out := by
  unfold startTimer
  split
  · rfl
  · rfl

theorem foldl_startTimer_out (l : List Nat) (s : State) : (l.foldl startTimer s).out = s.out := by
  induction l generalizing s with
  | nil => rfl
  | cons g l ih => exact (ih _).trans (startTimer_out s g)

theorem linesRose_out (before s : State) : (linesRose before s).out = s.out := by
  have hfold : ∀ (l : List Nat) (t : State), (l.foldl (fun t p =>
      if line t p && !line before p then (winGroups t p).foldl startTimer t else t) t).out = t.out := by
    intro l
    induction l with
    | nil => exact fun _ => rfl
    | cons p l ih =>
      intro t
      refine (ih _).trans ?_
      dsimp only
      split
      · exact foldl_startTimer_out _ t
      · rfl
  unfold linesRose
  split
  · exact hfold _ s
  · rfl

theorem sendMsix_keepsOut (s : State) (n : Nat) : s.out <+: (sendMsix s n).out := by
  unfold sendMsix
  dsimp only
  split
  · exact ⟨[], List.append_nil _⟩
  · rw [startTimer_out]
    exact ⟨_, rfl⟩

theorem raise_keepsOut (s : State) (n : Nat) : s.out <+: (raise s n).out := by
  unfold raise
  dsimp only
  split
  · exact ⟨[], List.append_nil _⟩
  · split
    · exact ⟨[], List.append_nil _⟩
    · split
      · exact ⟨[], List.append_nil _⟩
      · rw [linesRose_out]
        unfold msixOnRise
        split
        · refine List.IsPrefix.trans ?_ (sendMsix_keepsOut _ n)
          exact ⟨[], List.append_nil _⟩
        · exact ⟨[], List.append_nil _⟩

theorem setCond_keepsOut (s : State) (n : Nat) (b : Bool) : s.out <+: (setCond s n b).out := by
  unfold setCond
  dsimp only
  split
  · refine List.IsPrefix.trans ?_ (raise_keepsOut _ n)
    exact ⟨[], List.append_nil _⟩
  · exact ⟨[], List.append_nil _⟩

/-! The relation. -/

/-- `t` is `s` after messages and reports: entries not listed in `l` stay, what was put out stays in front, and the links keep
what they have received. -/
structure SendsOnly (l : List Nat) (s t : State) : Prop where
  entries  : SameEntriesBut l s t
  out      : s.out <+: t.out
  rx       : ∀ q, (linkOf t q).rx = (linkOf s q).rx
  dropping : ∀ q, (linkOf t q).dropping = (linkOf s q).dropping

theorem linkOf_of_links_eq {s t : State} (h : t.fab.links = s.fab.links) (q : Nat) : linkOf t q = linkOf s q := by
  unfold linkOf
  rw [h]

theorem linkOf_setLink_same (s : State) (p : Nat) (l : Link) : linkOf (setLink s p l) p = l := SMap.get_set_same ..

theorem linkOf_setLink_ne (s : State) {p q : Nat} (l : Link) (h : q ≠ p) : linkOf (setLink s p l) q = linkOf s q :=
  SMap.get_set_ne _ _ _ h

theorem linkOf_setLink (s : State) (p q : Nat) (l : Link) : linkOf (setLink s p l) q = if q = p then l else linkOf s q :=
  SMap.get_set ..

namespace SendsOnly

variable {l m : List Nat} {s t u : State}

theorem refl (l : List Nat) (s : State) : SendsOnly l s s := ⟨.refl l s, ⟨[], List.append_nil _⟩, fun _ => rfl, fun _ => rfl⟩

theorem trans (h : SendsOnly l s t) (k : SendsOnly l t u) : SendsOnly l s u :=
  ⟨h.entries.trans k.entries, h.out.trans k.out, fun q => (k.rx q).trans (h.rx q),
    fun q => (k.dropping q).trans (h.dropping q)⟩

theorem mono (h : SendsOnly l s t) (hlm : l ⊆ m) : SendsOnly m s t := ⟨h.entries.mono hlm, h.out, h.rx, h.dropping⟩

theorem foldl_mem {α : Type} {f : State → α → State} (xs : List α) (s : State) (hf : ∀ x ∈ xs, ∀ s, SendsOnly l s (f s x)) :
    SendsOnly l s (xs.foldl f s) := by
  induction xs generalizing s with
  | nil => exact .refl l s
  | cons x xs ih => exact (hf x List.mem_cons_self s).trans (ih _ fun y hy => hf y (List.mem_cons_of_mem x hy))

theorem foldl {α : Type} {f : State → α → State} (hf : ∀ s x, SendsOnly l s (f s x)) (xs : List α) (s : State) :
    SendsOnly l s (xs.foldl f s) := foldl_mem xs s fun x _ s => hf s x

theorem ite {b : Prop} [Decidable b] (h : SendsOnly l s t) : SendsOnly l s (if b then t else s) := by
  split
  · exact h
  · exact .refl l s

theorem ite_both {b : Prop} [Decidable b] (h : SendsOnly l s t) (k : SendsOnly l s u) :
    SendsOnly l s (if b then t else u) := by
  split
  · exact h
  · exact k

/-- An update that leaves the links. -/
theorem of_links_eq (hentries : SameEntriesBut l s t) (hout : s.out <+: t.out) (hlinks : t.fab.links = s.fab.links) :
    SendsOnly l s t :=
  ⟨hentries, hout, fun q => by rw [linkOf_of_links_eq hlinks], fun q => by rw [linkOf_of_links_eq hlinks]⟩

/-- An update of fields that are none of these. -/
theorem of_eq (l : List Nat) (hdict : t.dict = s.dict) (hout : t.out = s.out) (hlinks : t.fab.links = s.fab.links) :
    SendsOnly l s t :=
  .of_links_eq (.of_dict_eq hdict l) (hout ▸ ⟨[], List.append_nil _⟩) hlinks

/-- What a link has in another part changes nothing of it. -/
theorem setLink (l : List Nat) (s : State) {p : Nat} {k : Link} (hrx : k.rx = (linkOf s p).rx)
    (hdrop : k.dropping = (linkOf s p).dropping) : SendsOnly l s (setLink s p k) := by
  refine ⟨fun _ _ _ => rfl, ⟨[], List.append_nil _⟩, fun q => ?_, fun q => ?_⟩
  · rw [linkOf_setLink]
    split
    next hq => rw [hq, hrx]
    · rfl
  · rw [linkOf_setLink]
    split
    next hq => rw [hq, hdrop]
    · rfl

theorem mem_out (h : SendsOnly l s t) {o : Output} (ho : o ∈ s.out) : o ∈ t.out := h.out.subset ho

end SendsOnly

theorem emit_sendsOnly (l : List Nat) (s : State) (o : Output) : SendsOnly l s (emit s o) :=
  .of_links_eq (fun _ _ _ => rfl) (⟨_, rfl⟩) rfl

theorem setReg_sendsOnly {l : List Nat} (s : State) {i sub : Nat} (v : Nat) (h : dkey i sub ∈ l) :
    SendsOnly l s (setReg s i sub v) :=
  .of_links_eq (setReg_sameEntriesBut s v h) ⟨[], List.append_nil _⟩ rfl

theorem SignalsOnly.fab_eq {s t : State} (h : SignalsOnly s t) : t.fab = s.fab := by
  obtain ⟨_, _, _, rfl⟩ := h
  rfl

theorem SignalsOnly.sendsOnly {s t : State} (h : SignalsOnly s t) (hout : s.out <+: t.out) (l : List Nat) : SendsOnly l s t :=
  .of_links_eq (h.sameEntriesBut l) hout (congrArg Fabric.links h.fab_eq)

theorem raise_sendsOnly (l : List Nat) (s : State) (n : Nat) : SendsOnly l s (raise s n) :=
  (raise_signalsOnly s n).sendsOnly (raise_keepsOut s n) l

/-! NOTIFY (R356). -/

theorem fieldNotify_fab (s : State) (f : List Byte) : (fieldNotify s f).fab = s.fab := by
  unfold fieldNotify
  dsimp only
  split
  · rfl
  · split
    · rfl
    · split
      · rfl
      · rfl

theorem fieldNotify_keepsOut (s : State) (f : List Byte) : s.out <+: (fieldNotify s f).out := by
  unfold fieldNotify
  dsimp only
  split
  · exact ⟨[], List.append_nil _⟩
  · split
    · exact ⟨_, rfl⟩
    · split
      · exact ⟨[], List.append_nil _⟩
      · exact ⟨[], List.append_nil _⟩

/-- NOTIFY leaves the fabric. -/
theorem notify_fab (s : State) (bit index sub : Nat) (payload : List Byte) : (notify s bit index sub payload).fab = s.fab := by
  unfold notify
  split
  · exact (fieldNotify_fab _ _).trans (raise_signalsOnly _ _).fab_eq
  · rfl

theorem notify_keepsOut (s : State) (bit index sub : Nat) (payload : List Byte) :
    s.out <+: (notify s bit index sub payload).out := by
  unfold notify
  split
  · refine List.IsPrefix.trans (List.IsPrefix.trans ?_ (raise_keepsOut _ _)) (fieldNotify_keepsOut _ _)
    exact ⟨[], List.append_nil _⟩
  · exact ⟨[], List.append_nil _⟩

theorem notify_sendsOnly (s : State) (bit index sub : Nat) (payload : List Byte) :
    SendsOnly messageKeys s (notify s bit index sub payload) :=
  .of_links_eq ((notify_sameEntriesBut s bit index sub payload).mono (List.cons_subset_cons _ (List.nil_subset _)))
    (notify_keepsOut ..) (congrArg Fabric.links (notify_fab ..))

/-! DATA cells (R260, R261, R266). -/

/-- The cell that lane `v` of port `p` sends next. -/
def sentCell (s : State) (p v : Nat) : TxCell :=
  let l := linkOf s p
  let bytes := (fillCell s v 8 l 240).2.1
  { hdr := cellHdr l 0 v l.txNext (lastSeq l) bytes.length l.rxSeen, payload := padTo 240 bytes }

/-- The link after lane `v` has sent its cell. -/
def linkSent (s : State) (p v : Nat) : Link :=
  let l := linkOf s p
  { (fillCell s v 8 l 240).1 with
    txNext := (l.txNext + 1) % 4096
    replay := l.replay ++ [sentCell s p v]
    freed := []
    missed := tallySlot s l v
    credits := SMap.set l.credits v (SMap.get l.credits v (laneBuffer v) - 1) (laneBuffer v) }

/-- The state after it. -/
def cellSent (s : State) (p v : Nat) : State :=
  bump (emit ((fillCell s v 8 (linkOf s p) 240).2.2.foldl beginReq (setLink s p (linkSent s p v)))
    (.cell p (sentCell s p v).hdr (sentCell s p v).payload)) (0x7020 + p) 0x0B

/-- The lane that takes a slot is one of the four, and ready. -/
theorem pickLane_ready {s : State} {l : Link} {v : Nat} (h : pickLane s l = some v) : v < 4 ∧ laneReady s l v = true := by
  have hready : v ∈ [3, 1, 2, 0].filter (laneReady s l) := by
    unfold pickLane at h
    dsimp only at h
    split at h
    next w hw =>
      have htaken := List.find?_some hw
      rw [← Option.some.inj h]
      exact List.contains_iff_mem.mp (Bool.and_eq_true_iff.mp htaken).1
    · exact List.mem_of_head? h
  obtain ⟨hlane, hv⟩ := List.mem_filter.mp hready
  refine ⟨?_, hv⟩
  simp only [List.mem_cons, List.not_mem_nil, or_false] at hlane
  omega

/-- A port sends only while it is up and its replay buffer has room, and then from a ready lane. -/
theorem sendCell_some {s t : State} {p : Nat} (h : sendCell s p = some t) :
    portUp s p = true ∧ (linkOf s p).replay.length < 1024 ∧
      ∃ v, v < 4 ∧ laneReady s (linkOf s p) v = true ∧ t = cellSent s p v := by
  unfold sendCell at h
  dsimp only at h
  split at h
  · cases h
  next hopen =>
    simp only [Bool.or_eq_true, Bool.not_eq_true', decide_eq_true_eq, not_or, Bool.not_eq_false, Nat.not_le] at hopen
    obtain ⟨hup, hroom⟩ := hopen
    refine ⟨hup, hroom, ?_⟩
    split at h
    · cases h
    next v hv =>
      cases h
      obtain ⟨hlane, hready⟩ := pickLane_ready hv
      exact ⟨v, hlane, hready, rfl⟩

/-- Filling a cell changes a link's queues and wait counts. -/
theorem fillCell_link (s : State) (vl k : Nat) (l : Link) (room : Nat) :
    ∃ tx waits, (fillCell s vl k l room).1 = { l with tx := tx, waits := waits } := by
  induction k generalizing l room with
  | zero => exact ⟨_, _, rfl⟩
  | succ k ih =>
    unfold fillCell
    split
    · exact ⟨_, _, rfl⟩
    · split
      · exact ⟨_, _, rfl⟩
      next x _ =>
        dsimp only
        obtain ⟨tx, waits, h⟩ := ih { l with tx := _, waits := _ } _
        exact ⟨tx, waits, h⟩

theorem beginReq_links (s : State) (m : Msg) : (beginReq s m).fab.links = s.fab.links := by
  unfold beginReq
  split
  · rfl
  · rfl

theorem beginReq_out (s : State) (m : Msg) : (beginReq s m).out = s.out := by
  unfold beginReq
  split
  · rfl
  · rfl

theorem foldl_beginReq_links (l : List Msg) (s : State) : (l.foldl beginReq s).fab.links = s.fab.links := by
  induction l generalizing s with
  | nil => rfl
  | cons m l ih => exact (ih _).trans (beginReq_links s m)

theorem foldl_beginReq_out (l : List Msg) (s : State) : (l.foldl beginReq s).out = s.out := by
  induction l generalizing s with
  | nil => rfl
  | cons m l ih => exact (ih _).trans (beginReq_out s m)

theorem linkOf_cellSent (s : State) (p v q : Nat) : linkOf (cellSent s p v) q = if q = p then linkSent s p v else linkOf s q :=
  (linkOf_of_links_eq (foldl_beginReq_links _ (setLink s p (linkSent s p v))) q).trans (linkOf_setLink ..)

theorem cellSent_out (s : State) (p v : Nat) :
    (cellSent s p v).out = s.out ++ [.cell p (sentCell s p v).hdr (sentCell s p v).payload] :=
  congrArg (· ++ [Output.cell p (sentCell s p v).hdr (sentCell s p v).payload])
    (foldl_beginReq_out _ (setLink s p (linkSent s p v)))

theorem reg_beforeCount (s : State) (p v i sub : Nat) :
    reg ((fillCell s v 8 (linkOf s p) 240).2.2.foldl beginReq (setLink s p (linkSent s p v))) i sub = reg s i sub :=
  reg_of_dict_eq (foldl_beginReq_dict _ _) i sub

theorem reg_cellSent_count (s : State) (p v : Nat) :
    reg (cellSent s p v) (0x7020 + p) 0x0B = (reg s (0x7020 + p) 0x0B + 1) % 2 ^ 64 := by
  unfold cellSent bump bumpBy
  rw [reg_setReg_same, reg_emit, reg_beforeCount]

theorem cellSent_sameEntriesBut (s : State) {p : Nat} (hp : p < 24) (v : Nat) : SameEntriesBut messageKeys s (cellSent s p v) :=
  SameEntriesBut.trans (fun i sub _ => (reg_emit ..).trans (reg_beforeCount s p v i sub))
    (setReg_sameEntriesBut _ _ (cellsSent_mem_messageKeys hp))

theorem cellSent_sendsOnly (s : State) {p : Nat} (hp : p < 24) (v : Nat) : SendsOnly messageKeys s (cellSent s p v) := by
  obtain ⟨tx, waits, hfill⟩ := fillCell_link s v 8 (linkOf s p) 240
  refine ⟨cellSent_sameEntriesBut s hp v, ?_, fun q => ?_, fun q => ?_⟩
  · rw [cellSent_out]
    exact ⟨_, rfl⟩
  · rw [linkOf_cellSent]
    split
    next hq => rw [hq, linkSent, hfill]
    · rfl
  · rw [linkOf_cellSent]
    split
    next hq => rw [hq, linkSent, hfill]
    · rfl

theorem sendCells_sendsOnly (k : Nat) (s : State) {p : Nat} (hp : p < 24) : SendsOnly messageKeys s (sendCells k s p) := by
  induction k generalizing s with
  | zero => exact .refl _ s
  | succ k ih =>
    unfold sendCells
    split
    · exact .refl _ s
    next t ht =>
      obtain ⟨-, -, v, -, -, rfl⟩ := sendCell_some ht
      exact (cellSent_sendsOnly s hp v).trans (ih _)

theorem pumpPort_sendsOnly (s : State) {p : Nat} (hp : p < 24) : SendsOnly messageKeys s (pumpPort s p) := by
  unfold pumpPort
  exact sendCells_sendsOnly 1024 s hp

/-! Messages (R264 to R272). -/

/-- A message that joins its lane. -/
def queued (s : State) (p w : Nat) (m : Msg) : State :=
  let l := linkOf s p
  let vl := vlOf m.opcode
  emit (setLink s p { l with tx := SMap.set l.tx vl (laneMsgs l vl ++ [{ msg := m, req := w, sent := 0 }]) [] })
    (.msg (.port (Fin.ofNat 24 p)) m)

theorem sendOn_eq (s : State) (p w : Nat) (m : Msg) : sendOn s p w m = pumpPort (queued s p w m) p := rfl

theorem queued_sendsOnly (l : List Nat) (s : State) (p w : Nat) (m : Msg) : SendsOnly l s (queued s p w m) := by
  unfold queued
  refine SendsOnly.trans ?_ (emit_sendsOnly l _ _)
  exact .setLink l s rfl rfl

theorem sendOn_sendsOnly (s : State) {p : Nat} (hp : p < 24) (w : Nat) (m : Msg) : SendsOnly messageKeys s (sendOn s p w m) := by
  rw [sendOn_eq]
  exact (queued_sendsOnly _ s p w m).trans (pumpPort_sendsOnly _ hp)

/-- A message that takes a port is put out there. -/
theorem msg_mem_sendOn (s : State) (p : PortId) (w : Nat) (m : Msg) : Output.msg (.port p) m ∈ (sendOn s p w m).out := by
  have hport : Fin.ofNat 24 p.val = p := Fin.ofNat_val_eq_self p
  rw [sendOn_eq]
  refine (pumpPort_sendsOnly _ p.isLt).mem_out (List.mem_append_right _ ?_)
  rw [hport]
  exact List.mem_cons_self

theorem loopSend_sendsOnly (l : List Nat) (s : State) (m : Msg) : SendsOnly l s (loopSend s m) := by
  refine .of_links_eq (.of_dict_eq (beginReq_dict _ m) l) ?_ (beginReq_links _ m)
  unfold loopSend
  rw [beginReq_out]
  exact ⟨_, rfl⟩

theorem trySend_sendsOnly {s t : State} {m : Msg} (h : trySend s m = some t) : SendsOnly messageKeys s t := by
  unfold trySend at h
  split at h
  · cases h
    exact loopSend_sendsOnly _ s m
  · split at h
    · cases h
    next p hp =>
      cases h
      exact sendOn_sendsOnly s (routePort_lt hp) _ m

theorem discardMsg_sendsOnly (s : State) : SendsOnly messageKeys s (discardMsg s) :=
  (setReg_sendsOnly s _ discards_mem_messageKeys).trans (raise_sendsOnly _ _ _)

theorem sendOrDrop_sendsOnly (s : State) (m : Msg) : SendsOnly messageKeys s (sendOrDrop s m) := by
  unfold sendOrDrop
  split
  next ht => exact trySend_sendsOnly ht
  · exact discardMsg_sendsOnly s

theorem unroutable_sendsOnly (s : State) (m : Msg) : SendsOnly messageKeys s (unroutable s m) := by
  unfold unroutable
  exact .ite_both (discardMsg_sendsOnly s) (sendOrDrop_sendsOnly s _)

theorem upPorts_lt {s : State} {p : Nat} (h : p ∈ upPorts s) : p < 24 := List.mem_range.mp (List.mem_filter.mp h).1

theorem noticeAll_sendsOnly (s : State) (type : Nat) (body : Line) : SendsOnly messageKeys s (noticeAll s type body) :=
  .foldl_mem _ s fun _ hp t => sendOn_sendsOnly t (upPorts_lt hp) _ _

/-! Requests of this device (R276). -/

theorem sendNow_sendsOnly (s : State) (r : RemoteReq) (m : Msg) : SendsOnly messageKeys s (sendNow s r m) := by
  unfold sendNow
  extract_lets t m1 fab s1
  have h1 : SendsOnly messageKeys s s1 := .of_eq _ rfl rfl rfl
  split
  next ht => exact h1.trans (trySend_sendsOnly ht)
  · exact h1.trans (unroutable_sendsOnly s1 m1)

theorem sendWaiting_sendsOnly (s : State) : SendsOnly messageKeys s (sendWaiting s) := by
  have hunsent : ∀ (t : State) l, SendsOnly messageKeys t { t with fab := { t.fab with unsent := l } } :=
    fun t l => .of_eq _ rfl rfl rfl
  unfold sendWaiting
  refine SendsOnly.trans (hunsent s []) (.foldl (fun t e => ?_) _ _)
  exact .ite_both (sendNow_sendsOnly t e.1 e.2) (hunsent t _)

/-! Events (R386 to R389). -/

theorem faultNotice_sendsOnly (s : State) (entry : List Byte) : SendsOnly messageKeys s (faultNotice s entry) := by
  unfold faultNotice
  exact (noticeAll_sendsOnly s 1 _).trans (.foldl (fun t _ => sendOrDrop_sendsOnly t _) _ _)

theorem driveFaultN_sendsOnly (l : List Nat) (s : State) : SendsOnly l s (driveFaultN s) := by
  unfold driveFaultN
  refine SendsOnly.trans ?_ ((setCond_signalsOnly _ _ _).sendsOnly (setCond_keepsOut _ _ _) l)
  exact .of_eq l rfl rfl rfl

/-- Each path of R388 is taken or not. -/
theorem report_sendsOnly (s : State) (e : Event) (entry : List Byte) : SendsOnly messageKeys s (report s e entry) := by
  unfold report
  extract_lets s1 s2 s3 s4
  have h1 : SendsOnly messageKeys s s1 := .foldl (raise_sendsOnly _) _ s
  have h2 : SendsOnly messageKeys s1 s2 := notify_sendsOnly s1 _ _ _ _
  have h3 : SendsOnly messageKeys s2 s3 := .ite (faultNotice_sendsOnly s2 entry)
  have h4 : SendsOnly messageKeys s3 s4 := .ite (driveFaultN_sendsOnly _ s3)
  have h5 : ∀ aon, SendsOnly messageKeys s4 { s4 with aon := aon } := fun _ => .of_eq _ rfl rfl rfl
  exact h1.trans (h2.trans (h3.trans (h4.trans (.ite (h5 _)))))

theorem writeEntryOf_sendsOnly (s : State) (e : Event) (outcome : Nat) : SendsOnly logKeys s (writeEntryOf s e outcome) := by
  unfold writeEntryOf
  extract_lets n entry s1 s2
  have h1 : SendsOnly logKeys s s1 := .of_eq _ (domWrite_dict ..) (domWrite_out ..) (congrArg Fabric.links (domWrite_fab ..))
  have h2 : SendsOnly logKeys s1 s2 :=
    (setReg_sendsOnly s1 _ (.head _)).trans (setReg_sendsOnly _ _ (.tail _ (.tail _ (.head _))))
  exact h1.trans (h2.trans ((report_sendsOnly s2 e entry).mono messageKeys_subset_logKeys))

theorem addTest_sendsOnly (l : List Nat) (s : State) (e : Event) (detail : Nat) (t : TestKind × Nat × Nat) :
    SendsOnly l s (addTest s e detail t) := by
  unfold addTest
  dsimp only
  split
  · exact .of_eq l rfl rfl rfl
  · exact .of_eq l rfl rfl rfl

theorem logEvent_sendsOnly (s : State) (e : Event) : SendsOnly logKeys s (logEvent s e) := by
  have hcount : SendsOnly logKeys s (countMs s e) := by
    unfold countMs
    split
    · exact .of_eq _ rfl rfl rfl
    · exact .refl _ s
  have htests : ∀ n t, SendsOnly logKeys t (e.tests.foldl (fun t x => addTest t e n x) t) :=
    fun n t => .foldl (fun t x => addTest_sendsOnly _ t e n x) _ t
  unfold logEvent
  dsimp only
  split
  · exact (setReg_sendsOnly s _ (.tail _ (.head _))).trans (htests _ _)
  · exact (hcount.trans (writeEntryOf_sendsOnly _ e 0)).trans (htests _ _)

end Sys2Proof.Machine
end

section
/-! SUPPORT. Messages that arrive whole (R264, R268, R269, R276, R389): what the marl die does with each. -/

namespace Sys2Proof.Machine

/-! A message that has come by loopback (R272). -/

theorem clockOn_unloop (s : State) (v : Via) (m : Msg) : clockOn (unloop s v m) = clockOn s := by cases v <;> rfl
theorem laneHeld_unloop (s : State) (v : Via) (m x : Msg) : laneHeld (unloop s v m) v x = laneHeld s v x := by cases v <;> rfl
theorem devNum_unloop (s : State) (v : Via) (m : Msg) : devNum (unloop s v m) = devNum s := by cases v <;> rfl

/-! Delivery. -/

section
variable {s : State} {v : Via} {m : Msg} (hclock : clockOn s = true) (hfree : laneHeld s v m = false)
include hclock hfree

/-- A message that has passed 63 devices is discarded (R269). -/
theorem deliverMsg_of_wornOut (hhops : m.hops = 63) : deliverMsg s v m = discardMsg s := by
  simp [deliverMsg, hclock, hfree, hhops]

variable (hhops : m.hops ≠ 63)
include hhops

theorem deliverMsg_notice (hop : m.opcode = 8) (hhere : m.linkLocal = true ∨ m.dest = devNum s) :
    deliverMsg s v m = noticeIn s m := by
  cases hlocal : m.linkLocal with
  | true => simp [deliverMsg, hclock, hfree, hhops, hop, hlocal]
  | false =>
    have hdest : m.dest = devNum s := hhere.resolve_left (by simp [hlocal])
    simp [deliverMsg, hclock, hfree, hhops, hop, hlocal, hdest, isRequest, isResponse]

theorem deliverMsg_response (hhere : m.dest = devNum s) (hop : isResponse m.opcode = true) :
    deliverMsg s v m = response s v m := by
  have hcode : m.opcode = 0x81 ∨ m.opcode = 0x82 ∨ m.opcode = 0x83 := by simpa [isResponse, or_assoc] using hop
  rcases hcode with h | h | h <;> simp [deliverMsg, hclock, hfree, hhops, hhere, h, isRequest, isResponse]

theorem deliverMsg_transit (hother : m.dest ≠ devNum s) (hlocal : m.opcode = 8 → m.linkLocal = false)
    (hop : m.opcode ∈ [1, 2, 3, 4, 5, 6, 7, 8, 0x81, 0x82, 0x83]) : deliverMsg s v m = transit s v m := by
  have hnotice : ¬ ((decide (m.opcode = 8) && m.linkLocal) = true) := by simpa using hlocal
  have hlisted : (isRequest m.opcode || isResponse m.opcode || m.opcode == 6 || m.opcode == 7 || m.opcode == 8) = true := by
    simp only [List.mem_cons, List.not_mem_nil, or_false] at hop
    simp only [isRequest, isResponse, Bool.or_eq_true, Bool.and_eq_true, decide_eq_true_eq, beq_iff_eq]
    omega
  unfold deliverMsg
  rw [if_neg (by simp [hclock]), if_neg (by simp [hfree]), if_neg hhops, if_neg hnotice, if_neg (by simp [hlisted]), if_pos hother]

end

/-- A message of its row's opcode that comes by its port is delivered. -/
theorem arrive_of_comes {s : State} {v : Via} {m : Msg} {op : Nat} (hclock : clockOn s = true) (hvia : viaUp s v m = true)
    (hop : m.opcode = op) : arrive op v m s = .next (deliverMsg (unloop s v m) v m) := by
  simp [arrive, hclock, hvia, hop]

/-! Responses (R276). -/

/-- The row of a response hands it to its requester, or keeps it. -/
theorem exec_response {s : State} {v : Via} {m : Msg} (h : Arrives s v m) {op : Nat} {i : Instr}
    (hi : (op, i) ∈ [(0x81, Instr.readData v m), (0x82, .ack v m), (0x83, .nak v m)]) (hop : m.opcode = op) :
    exec i s = .next (response (unloop s v m) v m) := by
  have hdeliver : isResponse op = true → deliverMsg (unloop s v m) v m = response (unloop s v m) v m := fun hresp =>
    deliverMsg_response ((clockOn_unloop s v m).trans h.clock) ((laneHeld_unloop s v m m).trans h.free) h.hops
      (h.here.trans (devNum_unloop s v m).symm) (hop ▸ hresp)
  have hrow : ∀ k, k = op → isResponse k = true → arrive k v m s = .next (response (unloop s v m) v m) := fun k hk hresp => by
    rw [arrive_of_comes h.clock h.port (hop.trans hk.symm), hdeliver (hk ▸ hresp)]
  simp only [List.mem_cons, List.not_mem_nil, or_false, Prod.mk.injEq] at hi
  rcases hi with ⟨rfl, rfl⟩ | ⟨rfl, rfl⟩ | ⟨rfl, rfl⟩
  · exact hrow 0x81 rfl rfl
  · exact hrow 0x82 rfl rfl
  · exact hrow 0x83 rfl rfl

theorem response_of_stopped {s : State} (h : stopped s = true) (v : Via) (m : Msg) :
    response s v m = { s with fab := { s.fab with kept := s.fab.kept ++ [(v, m)] } } := if_pos h

/-- A response that no request waits for is late. -/
theorem response_of_none {s : State} (h : stopped s = false) (v : Via) {m : Msg} (hnone : s.fab.reqs.find? (answers m) = none) :
    response s v m = lateResponse s := by
  simp [response, takeResponse, h, hnone]

/-- A response ends the request it answers: with its lines, with success, or with its reason. -/
theorem response_of_some {s : State} (h : stopped s = false) (v : Via) {m : Msg} {r : RemoteReq}
    (hsome : s.fab.reqs.find? (answers m) = some r) : response s v m =
      endRequest s r (if m.opcode = 0x83 then m.q 2 7 0 else 0) (if m.opcode = 0x81 then m.body else []) := by
  simp [response, takeResponse, h, hsome]

/-- A late response is counted and reported, and nothing else. -/
theorem lateResponse_effect (s : State) : reg (lateResponse s) 0x7000 8 = (reg s 0x7000 8 + 1) % 2 ^ 64 ∧
    SameEntriesBut [dkey 0x7000 8] s (lateResponse s) ∧ (lateResponse s).mem = s.mem ∧ (lateResponse s).fab = s.fab := by
  have hraise := raise_signalsOnly (bump s 0x7000 8) (src 11 27)
  refine ⟨(hraise.reg_eq ..).trans (reg_setReg_same ..), ?_, hraise.mem_eq, hraise.fab_eq⟩
  exact (setReg_sameEntriesBut s _ (.head _)).trans (hraise.sameEntriesBut _)

/-- A request is taken from the list of those that await a response. -/
def reqDropped (s : State) (r : RemoteReq) : State :=
  { s with fab := { s.fab with reqs := s.fab.reqs.filter (fun x => x.tag != r.tag) } }

/-- Nothing is sent where nothing waits. -/
theorem sendWaiting_of_none {s : State} (h : s.fab.unsent = []) : sendWaiting s = s := by
  have hsame : ({ s with fab := { s.fab with unsent := [] } } : State) = s := by rw [← h]
  simp only [sendWaiting, h, List.foldl_nil, hsame]

section
variable {s : State} {r : RemoteReq} (hunsent : s.fab.unsent = [])
include hunsent

/-- A data-port write that succeeds has nothing more to do. -/
theorem endRequest_portWrite {w : Nat} (hp : r.purpose = .portWrite w) (body : List Line) :
    endRequest s r 0 body = reqDropped s r := by
  simp only [endRequest, hp]
  exact sendWaiting_of_none (s := reqDropped s r) hunsent

/-- A line read that succeeds and fills no cache gives its line. -/
theorem endRequest_lineRead {ag : Agent} (hp : r.purpose = .lineRead ag false) (body : List Line) :
    endRequest s r 0 body = emit (reqDropped s r) (.lineData ag r.addr (body.headD 0) false) := by
  simp only [endRequest, hp]
  exact sendWaiting_of_none (s := emit (reqDropped s r) _) hunsent

/-- A control core's line read that fails is an access fault. -/
theorem endRequest_lineRead_failed {n : Fin 4} (hp : r.purpose = .lineRead (.cc n) false) {reason : Nat} (hreason : reason ≠ 0)
    (body : List Line) : endRequest s r reason body = emit (reqDropped s r) (.accessFault n.val) := by
  simp only [endRequest, hp, hreason, if_false]
  exact sendWaiting_of_none (s := emit (reqDropped s r) _) hunsent

end

/-- A time-out is counted and reported. -/
def timeoutNoted (s : State) (r : RemoteReq) : State :=
  logEvent (bump s 0x7000 9) { Event.plain 0x12 2 0xFF r.addr with srcs := [src 11 26] }

/-- The time of a request that was sent runs out, or nothing happens. -/
theorem exec_remoteTimeout {s : State} {tag : BitVec 16} {r : RemoteReq} (hclock : clockOn s = true) (hstop : stopped s = false)
    (hr : s.fab.reqs.find? (fun x => x.tag == tag.toNat) = some r) : exec (.remoteTimeout tag) s =
      .next (if r.sentAt.isSome && decide (r.deadline ≤ now s) then endRequest (timeoutNoted s r) r 10 [] else s) := by
  show execRemoteTimeout tag s = _
  simp [execRemoteTimeout, hr, hclock, hstop, timeoutNoted]

theorem timeoutNoted_effect (s : State) (r : RemoteReq) : reg (timeoutNoted s r) 0x7000 9 = (reg s 0x7000 9 + 1) % 2 ^ 64 ∧
    reg (timeoutNoted s r) 0x8100 2 = reg s 0x8100 2 + 1 ∧ (timeoutNoted s r).mem = s.mem ∧ (timeoutNoted s r).ops = s.ops := by
  refine ⟨((logEvent_sendsOnly _ _).entries _ _ (by decide)).trans (reg_setReg_same ..), ?_, logEvent_mem ..,
    (logEvent_reportsOnly _ _).ops_eq⟩
  have hbefore : reg (bump s 0x7000 9) 0x8100 2 = reg s 0x8100 2 := reg_setReg_ne s _ (by decide)
  rw [← hbefore]
  exact reg_logEvent_entries two_ne_zero

/-! Notices (R264, R389). -/

theorem exec_notice {s : State} {v : Via} {m : Msg} (hclock : clockOn s = true) (hvia : viaUp s v m = true)
    (hfree : laneHeld s v m = false) (hhops : m.hops ≠ 63) (hop : m.opcode = 8) (hhere : m.linkLocal = true ∨ m.dest = devNum s) :
    exec (.notice v m) s = .next (noticeIn (unloop s v m) m) := by
  show arrive 8 v m s = _
  rw [arrive_of_comes hclock hvia hop, deliverMsg_notice ((clockOn_unloop s v m).trans hclock)
    ((laneHeld_unloop s v m m).trans hfree) hhops hop (devNum_unloop s v m ▸ hhere)]

/-- A FAULT notice writes an entry of the log. -/
theorem noticeIn_fault (s : State) {m : Msg} (h : m.q 2 15 8 = 1) :
    reg (noticeIn s m) 0x8100 2 = reg s 0x8100 2 + 1 ∧ (noticeIn s m).mem = s.mem ∧ (noticeIn s m).ops = s.ops := by
  unfold noticeIn
  dsimp only
  rw [if_pos h]
  exact ⟨reg_logEvent_entries two_ne_zero, logEvent_mem .., (logEvent_reportsOnly _ _).ops_eq⟩

/-! Transit (R268, R269). -/

theorem exec_transitForward {s : State} {p : PortId} {m : Msg} (hup : portUp s p = true) (hother : m.dest ≠ devNum s)
    (hlocal : m.opcode = 8 → m.linkLocal = false) : exec (.transitForward p m) s = .next (deliverMsg s (.port p) m) := by
  have hnotice : (m.opcode == 8 && m.linkLocal) = false := by
    by_cases h : m.opcode = 8
    · simp [hlocal h]
    · simp [h]
  show execTransitForward p m s = _
  simp [execTransitForward, hup, hother, hnotice]

section
variable {s : State} {m : Msg} (v : Via)

theorem transit_of_disabled (hopen : ¬ (reg s 0x7000 2 ≠ 0 ∨ m.opcode = 8)) : transit s v m =
    if isRequest m.opcode then sendOrDrop s (nakFor s m nakDisabled) else discardMsg s := by
  obtain ⟨hoff, hop⟩ := not_or.mp hopen
  simp [transit, not_not.mp hoff, hop]

variable (hopen : reg s 0x7000 2 ≠ 0 ∨ m.opcode = 8)
include hopen

/-- The ports carry the message (R259). -/
theorem transit_passes : (decide (reg s 0x7000 2 = 0) && m.opcode != 8) = false := by
  simpa [← not_or, or_comm, imp_iff_not_or] using hopen

theorem transit_of_halted (hhalt : halted s = true) (hreq : isRequest m.opcode = true) :
    transit s v m = sendOrDrop s (nakFor s m nakHalted) := by
  simp [transit, transit_passes hopen, hhalt, hreq]

variable (hrun : halted s = false ∨ isRequest m.opcode = false)
include hrun

theorem transit_of_route {p : Nat} (hroute : routePort s m = some p) :
    transit s v m = sendOn s p (3 * 256 + inPort v) (hop m) := by
  simp [transit, transit_passes hopen, Bool.and_eq_false_iff.mpr hrun, hroute]

theorem transit_of_noRoute (hroute : routePort s m = none) : transit s v m = unroutable s m := by
  simp [transit, transit_passes hopen, Bool.and_eq_false_iff.mpr hrun, hroute]

end

/-- A hop count below 63 goes up without a carry out of its field. -/
theorem toNat_hop {m : Msg} (h : m.hops ≠ 63) : (hop m).hdr.toNat = m.hdr.toNat + 2 ^ 16 := by
  have hhops : m.hdr.toNat / 2 ^ 16 % 2 ^ 6 ≠ 63 := h
  have hlt := m.hdr.isLt
  show (m.hdr + BitVec.ofNat 256 (2 ^ 16)).toNat = _
  rw [BitVec.toNat_add, BitVec.toNat_ofNat]
  omega

theorem hops_hop {m : Msg} (h : m.hops ≠ 63) : (hop m).hops = m.hops + 1 := by
  have hhops : m.hdr.toNat / 2 ^ 16 % 2 ^ 6 ≠ 63 := h
  show (hop m).hdr.toNat / 2 ^ 16 % 2 ^ 6 = m.hdr.toNat / 2 ^ 16 % 2 ^ 6 + 1
  rw [toNat_hop h]
  omega

theorem opcode_hop {m : Msg} (h : m.hops ≠ 63) : (hop m).opcode = m.opcode := by
  show (hop m).hdr.toNat / 2 ^ 0 % 2 ^ 8 = m.hdr.toNat / 2 ^ 0 % 2 ^ 8
  rw [toNat_hop h]
  omega

/-- What lies above the hop count does not see it. -/
theorem fld_hop {m : Msg} (h : m.hops ≠ 63) {hi lo : Nat} (hlo : 22 ≤ lo) :
    fld (hop m).hdr.toNat hi lo = fld m.hdr.toNat hi lo := by
  have hhops : m.hdr.toNat / 2 ^ 16 % 2 ^ 6 ≠ 63 := h
  have habove : (m.hdr.toNat + 2 ^ 16) / 2 ^ 22 = m.hdr.toNat / 2 ^ 22 := by omega
  have hsplit : 2 ^ lo = 2 ^ 22 * 2 ^ (lo - 22) := by rw [← Nat.pow_add, Nat.add_sub_cancel' hlo]
  unfold fld
  rw [toNat_hop h, hsplit, ← Nat.div_div_eq_div_mul, ← Nat.div_div_eq_div_mul, habove]

/-- Settles O38: each message by the delivery that its opcode and destination ask for, responses by `endRequest`, notices by
`noticeIn`, and the others by `transit`; a request's time by `exec_remoteTimeout`. -/
theorem responsesNoticesAndTransitTakeTheirWay : Obligations.ResponsesNoticesAndTransitTakeTheirWay := by
  refine fun s0 hclock => ⟨fun v m op i h hi hop => ?_, fun v m hvia hfree hhops hop hhere => ?_,
    fun p m hup hfree hother hlocal hop => ?_, fun tag r hstop hr => ?_⟩
  · intro s
    have hexec := exec_response h hi hop
    refine ⟨fun hs => hexec.trans (congrArg _ (response_of_stopped hs v m)), fun hs hnone => ⟨_, hexec, ?_⟩, fun hs r hr => ?_⟩
    · rw [response_of_none hs v hnone]
      exact lateResponse_effect s
    · have hends : exec i s0 = .next (endRequest s r (if op = 0x83 then m.q 2 7 0 else 0) (if op = 0x81 then m.body else [])) := by
        rw [hexec, response_of_some hs v hr, hop]
      refine ⟨hends, fun w hack hp hunsent => ?_, fun ag hp hunsent => ⟨fun hdata => ?_, fun n hnak hreason hcore => ?_⟩⟩
      · subst hack
        exact hends.trans (congrArg _ (endRequest_portWrite hunsent hp _))
      · subst hdata
        exact hends.trans (congrArg _ (endRequest_lineRead hunsent hp _))
      · subst hnak hcore
        exact hends.trans (congrArg _ (endRequest_lineRead_failed hunsent hp hreason _))
  · intro s
    have hexec := exec_notice hclock hvia hfree hhops hop hhere
    refine ⟨fun hfault => ?_, fun hhalted => ?_, fun hfault hhalted => ?_⟩
    · obtain ⟨hlog, hmem, hops⟩ := noticeIn_fault s hfault
      exact ⟨_, hexec, hlog, hmem, hops⟩
    · rw [hexec]
      simp [noticeIn, hhalted, s]
    · rw [hexec]
      simp [noticeIn, hfault, hhalted, s]
  · intro s out open_
    have hexec : out = .next (deliverMsg s (.port p) m) := exec_transitForward hup hother hlocal
    have htransit : m.hops ≠ 63 → out = .next (transit s (.port p) m) := fun hhops => by
      rw [hexec, deliverMsg_transit hclock hfree hhops hother hlocal hop]
    refine ⟨fun hhops => hexec.trans (congrArg _ (deliverMsg_of_wornOut hclock hfree hhops)), fun hhops hshut hreq => ?_,
      fun hhops hshut hreq => ?_, fun hhops hopen hhalt hreq => ?_, fun hhops hopen hrun => ⟨fun to_ hto => ?_,
      fun hnone hquiet => ?_, fun hnone hspeaks => ?_⟩⟩
    · rw [htransit hhops, transit_of_disabled _ hshut, if_pos hreq]
    · rw [htransit hhops, transit_of_disabled _ hshut, if_neg (by simp [hreq])]
    · rw [htransit hhops, transit_of_halted _ hopen hhalt hreq]
    · have hgoes : out = .next (sendOn s to_ (3 * 256 + p) (Machine.hop m)) := by
        rw [htransit hhops, transit_of_route _ hopen hrun hto]
        rfl
      exact ⟨_, hgoes, msg_mem_sendOn s to_ _ _, sendOn_mem s _ _ _, rfl, hops_hop hhops, opcode_hop hhops,
        fld_hop hhops (by decide), fld_hop hhops (by decide)⟩
    · rw [htransit hhops, transit_of_noRoute _ hopen hrun hnone]
      simp only [unroutable]
      rw [if_pos]
      simpa [and_assoc] using hquiet
    · rw [htransit hhops, transit_of_noRoute _ hopen hrun hnone]
      simp only [unroutable]
      rw [if_neg]
      simpa [and_assoc] using hspeaks
  · intro s
    have hexec := exec_remoteTimeout hclock hstop hr
    refine ⟨fun hsent hdue => ⟨timeoutNoted s r, ?_, timeoutNoted_effect s r⟩, fun hwaits => ?_⟩
    · rw [hexec, if_pos (by simp [hsent, s, hdue])]
    · rw [hexec, if_neg]
      rcases hwaits with hunsent | hearly
      · simp [hunsent]
      · simp only [Bool.and_eq_true, decide_eq_true_eq, not_and, Nat.not_le]
        exact fun _ => hearly

end Sys2Proof.Machine
end

section
/-! SUPPORT. The link layer (R258 to R263, R266): training, cells in order, replays, and the cells a port sends. -/

namespace Sys2Proof.Machine

/-! The state of a port (Table 15.10). -/

theorem setLinkState_reportsOnly (s : State) (p st : Nat) : ReportsOnly s (setLinkState s p st) := by
  unfold setLinkState
  split
  · exact .refl s
  · exact ((setReg_reportsOnly s _ _ _).trans (raise_reportsOnly _ _)).trans (notify_reportsOnly _ _ _ _ _)

theorem setLinkState_fab (s : State) (p st : Nat) : (setLinkState s p st).fab = s.fab := by
  unfold setLinkState
  split
  · rfl
  · exact (notify_fab ..).trans (raise_signalsOnly _ _).fab_eq

theorem setLinkState_sendsOnly (s : State) (p st : Nat) :
    SendsOnly (dkey (0x7020 + p) 1 :: messageKeys) s (setLinkState s p st) := by
  unfold setLinkState
  split
  · exact .refl _ s
  · exact ((setReg_sendsOnly s _ (.head _)).trans (raise_sendsOnly _ _ _)).trans
      ((notify_sendsOnly _ _ _ _ _).mono (List.subset_cons_self _ _))

theorem reg_setLinkState_same (s : State) {p : Nat} (hp : p < 24) (st : Nat) : reg (setLinkState s p st) (0x7020 + p) 1 = st := by
  unfold setLinkState
  split
  next h => exact h
  · refine ((notify_sendsOnly ..).entries _ _ (portEntry_notMem_messageKeys hp (by decide))).trans ?_
    exact ((raise_signalsOnly _ _).reg_eq ..).trans (reg_setReg_same ..)

/-- The other entries of the ports below their counts of cells stay. -/
theorem reg_setLinkState_ne (s : State) {p q sub : Nat} (hq : q < 24) (hsub : sub < 0x0B) (h : q ≠ p ∨ sub ≠ 1) (st : Nat) :
    reg (setLinkState s p st) (0x7020 + q) sub = reg s (0x7020 + q) sub := by
  refine (setLinkState_sendsOnly s p st).entries _ _ fun hmem => ?_
  rcases List.mem_cons.mp hmem with hkey | hkey
  · unfold dkey at hkey
    omega
  · exact portEntry_notMem_messageKeys hq hsub hkey

/-! Training (R258, R259). -/

/-- The state after training, but for LINK_STATE: a fresh link with its lanes and, where there are lanes, the partner's numbers. -/
def linkTrainedWith (s : State) (p lanes dev port : Nat) : State :=
  let s1 := setReg (freshLink s p) (0x7020 + p) 5 lanes
  if lanes = 0 then s1 else setReg (setReg s1 (0x7020 + p) 3 dev) (0x7020 + p) 4 port

theorem exec_linkTrained {s : State} {p : PortId} (hclock : clockOn s = true) (hon : portEnabled s p = true)
    (hdown : portUp s p = false) (r : TrainResult) (dev : BitVec 16) (port : Byte) :
    let lanes := lanesOf (linkOf s p) r
    exec (.linkTrained p r dev port) s = .next (setLinkState (linkTrainedWith s p lanes dev.toNat port.toNat) p
      (if lanes = 0 then 0 else if lanes = 0xFF then 2 else 3)) := by
  intro lanes
  show execLinkTrained p r dev port s = _
  unfold execLinkTrained linkTrainedWith
  rw [hclock, hon, hdown]
  by_cases h : lanesOf (linkOf s p) r = 0
  · simp [lanes, h]
  · simp [lanes, h]

theorem linkTrainedWith_leaves {α : Type} (f : State → α) (hset : ∀ t i sub v, f (setReg t i sub v) = f t) (s : State)
    (p lanes dev port : Nat) : f (linkTrainedWith s p lanes dev port) = f (freshLink s p) := by
  unfold linkTrainedWith
  dsimp only
  split
  · exact hset ..
  · rw [hset, hset, hset]

theorem linkOf_freshLink (s : State) (p : Nat) : linkOf (freshLink s p) p =
    { Link.fresh with badLow := (linkOf s p).badLow, badHigh := (linkOf s p).badHigh } := linkOf_setLink_same ..

theorem linkTrainedWith_effect (s : State) (p lanes dev port : Nat) :
    let t := linkTrainedWith s p lanes dev port
    reg t (0x7020 + p) 5 = lanes ∧ (lanes ≠ 0 → reg t (0x7020 + p) 3 = dev ∧ reg t (0x7020 + p) 4 = port) ∧
      ∀ q, q < 24 → reg t (0x7020 + q) 1 = reg s (0x7020 + q) 1 := by
  have hne : ∀ (u : State) q a sub v, a < 256 → sub < 256 → a ≠ sub →
      reg (setReg u (0x7020 + p) sub v) (0x7020 + q) a = reg u (0x7020 + q) a := fun u q a sub v ha hs h =>
    reg_setReg_ne u v (by unfold dkey; omega)
  unfold linkTrainedWith
  dsimp only
  split
  next h => exact ⟨reg_setReg_same .., fun hlanes => absurd h hlanes, fun q _ => hne _ q 1 5 _ (by decide) (by decide) (by decide)⟩
  · refine ⟨?_, fun _ => ⟨?_, reg_setReg_same ..⟩, fun q _ => ?_⟩
    · rw [hne _ p 5 4 _ (by decide) (by decide) (by decide), hne _ p 5 3 _ (by decide) (by decide) (by decide), reg_setReg_same]
    · rw [hne _ p 3 4 _ (by decide) (by decide) (by decide), reg_setReg_same]
    · rw [hne _ q 1 4 _ (by decide) (by decide) (by decide), hne _ q 1 3 _ (by decide) (by decide) (by decide),
        hne _ q 1 5 _ (by decide) (by decide) (by decide)]
      rfl

/-! A link that leaves UP (R259, R277). -/

theorem retrain_reportsOnly (s : State) (p : Nat) : ReportsOnly s (retrain s p) := by
  unfold retrain
  exact .ite (.of_update ..)

theorem requeue_reportsOnly (s : State) (x : TxMsg) : ReportsOnly s (requeue s x) := by
  unfold requeue
  split
  · exact .refl s
  · split
    · exact unroutable_reportsOnly s _
    · split
      · exact unroutable_reportsOnly s _
      · exact sendOn_reportsOnly s _ _ _

theorem requeue_sendsOnly (s : State) (x : TxMsg) : SendsOnly messageKeys s (requeue s x) := by
  unfold requeue
  split
  · exact .refl _ s
  · split
    · exact unroutable_sendsOnly s _
    · split
      · exact unroutable_sendsOnly s _
      next p hp => exact sendOn_sendsOnly s (routePort_lt hp) _ _

/-- The link before what was queued for it goes elsewhere. -/
def leftUp (s : State) (p st : Nat) : State := retrain (setLinkState (setReg (freshLink s p) (0x7020 + p) 5 0) p st) p

theorem leaveUp_eq (s : State) (p st : Nat) : leaveUp s p st = (queuedMsgs (linkOf s p)).foldl requeue (leftUp s p st) := rfl

theorem leaveUp_sendsOnly (s : State) (p st : Nat) : SendsOnly messageKeys (leftUp s p st) (leaveUp s p st) := by
  rw [leaveUp_eq]
  exact .foldl requeue_sendsOnly _ _

theorem leaveUp_reportsOnly (s : State) (p st : Nat) : ReportsOnly s (leaveUp s p st) := by
  have hfresh : ReportsOnly s (setReg (freshLink s p) (0x7020 + p) 5 0) := .of_update ..
  exact ((hfresh.trans (setLinkState_reportsOnly _ p st)).trans (retrain_reportsOnly _ p)).trans (.foldl requeue_reportsOnly _ _)

theorem retrain_keepsEntries (s : State) (p : Nat) : SameEntriesBut [dkey (0x7020 + p) 0x0A] s (retrain s p) := by
  unfold retrain
  split
  · exact fun i sub h => (reg_emit ..).trans (setReg_sameEntriesBut (freshLink s p) _ (.head _) i sub h)
  · exact .refl _ s

theorem retrain_rx {s : State} {p : Nat} (h : (linkOf s p).rx = []) : (linkOf (retrain s p) p).rx = [] := by
  unfold retrain
  split
  · show (linkOf (freshLink s p) p).rx = []
    rw [linkOf_freshLink]
    rfl
  · exact h

theorem leftUp_effect (s : State) {p : Nat} (hp : p < 24) (st : Nat) :
    reg (leftUp s p st) (0x7020 + p) 1 = st ∧ reg (leftUp s p st) (0x7020 + p) 5 = 0 ∧ (linkOf (leftUp s p st) p).rx = [] ∧
      (portEnabled s p = true → Output.linkTraining p ∈ (leftUp s p st).out) := by
  have hretrain := retrain_keepsEntries (setLinkState (setReg (freshLink s p) (0x7020 + p) 5 0) p st) p
  have hkey : ∀ sub, sub < 0x0A → dkey (0x7020 + p) sub ∉ [dkey (0x7020 + p) 0x0A] := fun sub hsub => by
    rw [List.mem_singleton]
    unfold dkey
    omega
  refine ⟨(hretrain _ _ (hkey 1 (by decide))).trans (reg_setLinkState_same _ hp st), ?_, retrain_rx ?_, fun hon => ?_⟩
  · refine (hretrain _ _ (hkey 5 (by decide))).trans ?_
    exact (reg_setLinkState_ne _ hp (by decide) (.inr (by decide)) st).trans (reg_setReg_same ..)
  · rw [linkOf_of_links_eq (congrArg Fabric.links (setLinkState_fab ..))]
    show (linkOf (freshLink s p) p).rx = []
    rw [linkOf_freshLink]
    rfl
  · have hstill : portEnabled (setLinkState (setReg (freshLink s p) (0x7020 + p) 5 0) p st) p = true := by
      unfold portEnabled at *
      rw [reg_setLinkState_ne _ hp (by decide) (.inr (by decide)) st, reg_setReg_ne _ _ (by unfold dkey; omega)]
      exact hon
    unfold leftUp retrain
    rw [if_pos hstill]
    exact List.mem_append_right _ List.mem_cons_self

/-- A link that leaves UP stores its state, its lanes, its trainings, and what messages store. -/
theorem leaveUp_sameEntriesBut (s : State) (p st : Nat) :
    SameEntriesBut (dkey (0x7020 + p) 1 :: dkey (0x7020 + p) 5 :: dkey (0x7020 + p) 0x0A :: messageKeys) s (leaveUp s p st) := by
  have hlanes : SameEntriesBut [dkey (0x7020 + p) 5] s (setReg (freshLink s p) (0x7020 + p) 5 0) :=
    setReg_sameEntriesBut (freshLink s p) _ (.head _)
  have hstate := (setLinkState_sendsOnly (setReg (freshLink s p) (0x7020 + p) 5 0) p st).entries
  have hretrain := retrain_keepsEntries (setLinkState (setReg (freshLink s p) (0x7020 + p) 5 0) p st) p
  have hmessages := (leaveUp_sendsOnly s p st).entries
  have hsub : messageKeys ⊆ dkey (0x7020 + p) 1 :: dkey (0x7020 + p) 5 :: dkey (0x7020 + p) 0x0A :: messageKeys :=
    fun _ hk => .tail _ (.tail _ (.tail _ hk))
  refine ((hlanes.mono ?_).trans (hstate.mono ?_)).trans ((hretrain.mono ?_).trans (hmessages.mono hsub))
  · exact List.cons_subset.mpr ⟨.tail _ (.head _), List.nil_subset _⟩
  · exact List.cons_subset.mpr ⟨.head _, hsub⟩
  · exact List.cons_subset.mpr ⟨.tail _ (.tail _ (.head _)), List.nil_subset _⟩

theorem leaveUp_effect (s : State) {p : Nat} (hp : p < 24) (st : Nat) :
    reg (leaveUp s p st) (0x7020 + p) 1 = st ∧ reg (leaveUp s p st) (0x7020 + p) 5 = 0 ∧ (linkOf (leaveUp s p st) p).rx = [] ∧
      (portEnabled s p = true → Output.linkTraining p ∈ (leaveUp s p st).out) := by
  obtain ⟨hstate, hlanes, hrx, hout⟩ := leftUp_effect s hp st
  have h := leaveUp_sendsOnly s p st
  exact ⟨(h.entries _ _ (portEntry_notMem_messageKeys hp (by decide))).trans hstate,
    (h.entries _ _ (portEntry_notMem_messageKeys hp (by decide))).trans hlanes, (h.rx p).trans hrx, fun hon => h.mem_out (hout hon)⟩

/-! A link fault (R263). -/

theorem faultLink_effect (s : State) {p : Nat} (hp : p < 24) : reg (faultLink s p) (0x7020 + p) 1 = 4 ∧
    reg (faultLink s p) 0x8100 2 = reg s 0x8100 2 + 1 ∧ (faultLink s p).mem = s.mem := by
  unfold faultLink
  dsimp only
  refine ⟨(leaveUp_effect _ hp 4).1, ?_, (leaveUp_reportsOnly _ p 4).mem_eq.trans (logEvent_mem ..)⟩
  rw [leaveUp_sameEntriesBut _ p 4 0x8100 2 ?_]
  · exact reg_logEvent_entries one_ne_zero
  · simp only [messageKeys, List.mem_cons, List.mem_map, List.mem_range, not_or, not_exists, dkey]
    refine ⟨by omega, by omega, by omega, by omega, by omega, fun q => ?_⟩
    omega

/-! Cells received (R260 to R262). -/

/-- What a header brings changes the replay buffer and the credits. -/
theorem takeHeader_fields (l : Link) (h : Nat) : (takeHeader l h).rxExpect = l.rxExpect ∧ (takeHeader l h).rx = l.rx := by
  unfold takeHeader takeCredits
  split
  · exact ⟨rfl, rfl⟩
  · exact ⟨rfl, rfl⟩

theorem corrected_sameEntriesBut (s : State) (p : Nat) : SameEntriesBut [dkey (0x7020 + p) 6] s (corrected s p) :=
  setReg_sameEntriesBut (nextFree s) _ (.head _)

/-- The link after an accepted DATA cell. -/
def cellTaken (l : Link) (h : Nat) (rest : List Byte) : Link :=
  { takeHeader l h with
    rxExpect := (l.rxExpect + 1) % 4096
    rxSeen := true
    dropping := false
    rx := SMap.set (takeHeader l h).rx (cVl h) rest [] }

/-- The state after it, before the messages that it completes are delivered. -/
def cellCounted (s : State) (p h : Nat) (rest : List Byte) : State :=
  bump (setLink s p (cellTaken (linkOf s p) h rest)) (0x7020 + p) 0x0C

theorem linkOf_cellCounted (s : State) (p h : Nat) (rest : List Byte) :
    linkOf (cellCounted s p h rest) p = cellTaken (linkOf s p) h rest := linkOf_setLink_same ..

/-- A DATA cell out of sequence changes nothing. -/
theorem exec_dataCell_of_other {s : State} {p : PortId} {h : BitVec 128} (hseq : cSeq h.toNat ≠ (linkOf s p).rxExpect)
    (payload : List Byte) : exec (.dataCell p h payload) s = .next s := by
  show execDataCell p h payload s = _
  simp [execDataCell, hseq]

section
variable {s : State} {p : PortId} (hclock : clockOn s = true) (hup : portUp s p = true)
include hclock hup

theorem exec_dataCell {h : BitVec 128} (htype : cType h.toNat = 0) (hseq : cSeq h.toNat = (linkOf s p).rxExpect)
    (payload : List Byte) :
    let bytes := SMap.get (linkOf s p).rx (cVl h.toNat) [] ++ padTo (min 240 (cFill h.toNat)) payload
    let r := takeMsgs (bytes.length / 32 + 1) bytes
    exec (.dataCell p h payload) s = .next (pumpPort (corrected (freeOrHold
      (r.1.foldl (fun t m => deliverMsg t (.port p) m) (cellCounted s p h.toNat r.2)) p (cVl h.toNat)) p) p) := by
  intro bytes r
  have hgoes : (!clockOn s || !portUp s p || cType h.toNat != 0 || cSeq h.toNat != (linkOf s p).rxExpect) = false := by
    simp [hclock, hup, htype, hseq]
  show execDataCell p h payload s = _
  unfold execDataCell
  dsimp only
  rw [if_neg (by rw [hgoes]; decide)]
  rfl

theorem exec_idleCell {h : BitVec 128} (htype : cType h.toNat = 1) :
    exec (.idleCell p h) s = .next (pumpPort (corrected (setLink s p (takeHeader (linkOf s p) h.toNat)) p) p) := by
  show execIdleCell p h s = _
  simp [execIdleCell, hclock, hup, htype]

theorem exec_linkLeavesUp : exec (.linkLeavesUp p) s = .next (leaveUp s p 1) := by
  show execLinkLeavesUp p s = _
  simp [execLinkLeavesUp, hclock, hup]

end

/-- The cell is freed, unless its lane is held (R261, R283). -/
theorem freeOrHold_effect (s : State) (p : PortId) (v : Nat) :
    let back := s.fab.held.any (fun x => x.1 == .port p && vlOf x.2.opcode == v)
    SMap.get (linkOf (freeOrHold s p v) p).freed v 0 = SMap.get (linkOf s p).freed v 0 + (if back then 0 else 1) ∧
      SMap.get (linkOf (freeOrHold s p v) p).heldCells v 0 = SMap.get (linkOf s p).heldCells v 0 + (if back then 1 else 0) := by
  unfold freeOrHold
  dsimp only
  rw [linkOf_setLink_same]
  split
  · exact ⟨rfl, SMap.get_set_same ..⟩
  · exact ⟨SMap.get_set_same .., rfl⟩

/-- Counting the corrected symbols changes neither memory nor links. -/
theorem linkOf_corrected (s : State) (p q : Nat) : linkOf (corrected s p) q = linkOf s q := rfl

theorem cellFreed_mem (s : State) (p : PortId) (v : Nat) : (corrected (freeOrHold s p v) p).mem = s.mem := rfl

/-! A failed codeword (R262). -/

/-- The expected cell is asked for again. -/
def replayAsked (s : State) (p : Nat) : State :=
  let l := linkOf s p
  bump (emit (emit (setLink (setLink s p { l with dropping := true }) p { l with dropping := true, freed := [] })
    (.replayReq p l.rxExpect)) (.cell p (cellHdr l 2 0 0 l.rxExpect 0 true) [])) (0x7020 + p) 7

theorem exec_uncorrectableCodeword {s : State} {p : PortId} (hclock : clockOn s = true) (hup : portUp s p = true) :
    exec (.uncorrectableCodeword p) s = .next (logEvent (replayAsked s p)
      { Event.plain 9 0 (32 + p.val) p.val with srcs := [src 12 p.val], tests := [(.lane, 32 + p.val, p.val)] }) := by
  show execUncorrectableCodeword p s = _
  unfold execUncorrectableCodeword
  rw [hclock, hup]
  rfl

theorem replayAsked_effect (s : State) (p : Nat) : (linkOf (replayAsked s p) p).dropping = true ∧
    Output.replayReq p (linkOf s p).rxExpect ∈ (replayAsked s p).out ∧
    reg (replayAsked s p) (0x7020 + p) 7 = (reg s (0x7020 + p) 7 + 1) % 2 ^ 64 ∧ (replayAsked s p).mem = s.mem := by
  unfold replayAsked bump bumpBy
  dsimp only
  refine ⟨?_, List.mem_append_left _ (List.mem_append_right _ List.mem_cons_self), ?_, ?_⟩
  · exact congrArg Link.dropping (linkOf_setLink_same ..)
  · rw [reg_setReg_same, reg_emit, reg_emit, reg_setLink, reg_setLink]
  · rw [setReg_mem, emit_mem, emit_mem, setLink_mem, setLink_mem]

/-! A replay request (R262, R263). -/

/-- Putting out one thing after another. -/
theorem foldl_emit {α : Type} (f : α → Output) (l : List α) (s : State) :
    l.foldl (fun t c => emit t (f c)) s = { s with out := s.out ++ l.map f } := by
  induction l generalizing s with
  | nil => simp
  | cons c l ih =>
    rw [List.foldl_cons, ih]
    simp [emit]

/-- How often in a row SEQ `seq` has been asked for, this time included. -/
def askedInRow (l : Link) (seq : Nat) : Nat := if l.reqCount != 0 && l.reqSeq == seq then l.reqCount + 1 else 1

/-- The state after a replay request short of the sixteenth, before the cells go again. -/
def replayTaken (s : State) (p h : Nat) : State :=
  emit (bump (setLink s p (takeCredits { linkOf s p with reqSeq := cAck h, reqCount := askedInRow (linkOf s p) (cAck h) } h))
    (0x7020 + p) 8) (.replay p (cAck h))

/-- The unacknowledged cells from `seq` on. -/
def cellsFrom (l : Link) (seq : Nat) : List TxCell := l.replay.dropWhile (fun c => c.seq != seq)

theorem exec_replayReq {s : State} {p : PortId} {h : BitVec 128} (hclock : clockOn s = true) (hup : portUp s p = true)
    (htype : cType h.toNat = 2) : exec (.replayReq p h) s = .next (if askedInRow (linkOf s p) (cAck h.toNat) = 16 then faultLink s p
      else pumpPort { replayTaken s p h.toNat with out := (replayTaken s p h.toNat).out ++
        (cellsFrom (linkOf s p) (cAck h.toNat)).map (fun c => Output.cell p c.hdr c.payload) } p) := by
  rw [← foldl_emit]
  have hgoes : (clockOn s && portUp s p && cType h.toNat == 2) = true := by simp [hclock, hup, htype]
  show execReplayReq p h s = _
  unfold execReplayReq
  dsimp only
  rw [if_pos hgoes]
  rfl

theorem replayTaken_effect (s : State) (p h : Nat) :
    (linkOf (replayTaken s p h) p).reqCount = askedInRow (linkOf s p) (cAck h) ∧ (linkOf (replayTaken s p h) p).reqSeq = cAck h ∧
      (replayTaken s p h).out = s.out ++ [.replay p (cAck h)] ∧
      reg (replayTaken s p h) (0x7020 + p) 8 = (reg s (0x7020 + p) 8 + 1) % 2 ^ 64 ∧
      reg (replayTaken s p h) (0x7020 + p) 1 = reg s (0x7020 + p) 1 := by
  refine ⟨congrArg Link.reqCount (linkOf_setLink_same ..), congrArg Link.reqSeq (linkOf_setLink_same ..), rfl, reg_setReg_same .., ?_⟩
  exact reg_setReg_ne _ _ (by unfold dkey; omega)

/-! The cells a port sends (R260 to R262, R266). -/

theorem padTo_length (n : Nat) (l : List Byte) : (padTo n l).length = n := by
  simp only [padTo, List.length_take, List.length_append, List.length_replicate]
  omega

/-- The header of a DATA cell carries its lane, its type and its SEQ (Table 13.2). -/
theorem cellHdr_fields (l : Link) {vl seq : Nat} (hvl : vl < 4) (hseq : seq < 4096) (ack fill : Nat) (valid : Bool) :
    let h := (cellHdr l 0 vl seq ack fill valid).toNat
    cType h = 0 ∧ cVl h = vl ∧ cSeq h = seq := by
  have hcredits : ∃ x, ((List.range 4).map (fun v => min 255 (SMap.get l.freed v 0) * 2 ^ (64 + 8 * v))).sum = 2 ^ 64 * x :=
    ⟨((List.range 4).map (fun v => min 255 (SMap.get l.freed v 0) * 2 ^ (8 * v))).sum, by
      rw [← List.sum_map_mul_left]
      exact congrArg List.sum (List.map_congr_left fun v _ => by rw [Nat.pow_add]; ring)⟩
  obtain ⟨x, hx⟩ := hcredits
  dsimp only
  rw [cellHdr, hx, BitVec.toNat_ofNat]
  unfold cType cVl cSeq fld
  omega

/-- A sent cell waits for its acknowledgement. -/
theorem replay_linkSent (s : State) (p v : Nat) : (linkSent s p v).replay = (linkOf s p).replay ++ [sentCell s p v] := rfl

theorem linkOf_cellSent_same (s : State) (p v : Nat) : linkOf (cellSent s p v) p = linkSent s p v :=
  (linkOf_cellSent ..).trans (if_pos rfl)

/-- A port that has sent `k` cells, or has filled its replay buffer, sends no more. -/
theorem sendCell_sendCells {k : Nat} {s : State} {p : Nat} (h : 1024 ≤ k + (linkOf s p).replay.length) :
    sendCell (sendCells k s p) p = none := by
  induction k generalizing s with
  | zero =>
    refine Option.eq_none_iff_forall_ne_some.mpr fun t ht => ?_
    obtain ⟨-, hroom, -⟩ := sendCell_some ht
    rw [sendCells] at hroom
    omega
  | succ k ih =>
    unfold sendCells
    split
    next hnone => exact hnone
    next t ht =>
      obtain ⟨-, -, v, -, -, rfl⟩ := sendCell_some ht
      refine ih ?_
      rw [linkOf_cellSent_same, replay_linkSent, List.length_append, List.length_singleton]
      omega

theorem sendCell_pumpPort (s : State) (p : Nat) : sendCell (pumpPort s p) p = none := by
  unfold pumpPort
  exact sendCell_sendCells (Nat.le_add_right _ _)

theorem creditsOf_cellSent (s : State) (p v : Nat) : creditsOf (cellSent s p v) p v = creditsOf s p v - 1 := by
  unfold creditsOf
  rw [linkOf_cellSent_same]
  exact SMap.get_set_same ..

theorem txNext_linkSent (s : State) (p v : Nat) : (linkSent s p v).txNext = ((linkOf s p).txNext + 1) % 4096 := rfl

theorem sentCell_fields (s : State) (p : Nat) {v : Nat} (hv : v < 4) (hnext : (linkOf s p).txNext < 4096) :
    cType (sentCell s p v).hdr.toNat = 0 ∧ cVl (sentCell s p v).hdr.toNat = v ∧ (sentCell s p v).seq = (linkOf s p).txNext :=
  cellHdr_fields _ hv hnext _ _ _

end Sys2Proof.Machine
end

section
/-! SUPPORT. FABRIC_ENABLE (R259, R277) and the windows (R273, R347); the statement of the link layer. -/

namespace Sys2Proof.Machine

theorem effFabricEnable_sendsOnly (v : Nat) (s : State) :
    SendsOnly messageKeys (setReg s 0x7000 2 v) (effFabricEnable v s) :=
  (sendWaiting_sendsOnly _).trans (.foldl_mem _ _ fun _ hp t => pumpPort_sendsOnly t (upPorts_lt hp))

theorem effFabricEnable_reportsOnly (v : Nat) (s : State) : ReportsOnly s (effFabricEnable v s) :=
  ((setReg_reportsOnly s _ _ _).trans (sendWaiting_reportsOnly _)).trans (.foldl (fun t p => sendCells_reportsOnly _ t p) _ _)

/-- A window is stored at once, and its OK is due (R347). -/
theorem effWindow_effect (w v : Nat) (s : State) : reg (effWindow w v s) (0x1100 + w) 1 = v ∧
    (effWindow w v s).fab.windowOk = s.fab.windowOk ++ [w] ∧ SameEntriesBut [dkey (0x1100 + w) 1] s (effWindow w v s) ∧
    (effWindow w v s).out = s.out ∧ (effWindow w v s).mem = s.mem :=
  ⟨reg_setReg_same .., rfl, setReg_sameEntriesBut s v (.head _), rfl, rfl⟩

section
variable {s : State} {q : Path} {w : Fin 256} {v : BitVec 256}

theorem exec_window_of_writeOk (h : WriteOk s q (0x1100 + w) 1 32 v.toNat (preWindow v.toNat s)) :
    exec (.window q w v) s = .next (effWindow w v.toNat s) := by
  obtain ⟨live, passes, free, range⟩ := h
  show execWindow q w v s = _
  simp [execWindow, tryWrite, live, passes, free, range]

theorem exec_window_of_bad (hlive : dictLive s = true) (hpasses : checkAccess s q (0x1100 + w) 1 true false 0 32 = 0)
    (hbad : windowBad v.toNat = true) : exec (.window q w v) s = .next (emit s (.dictAnswer q dRange [])) := by
  show execWindow q w v s = _
  simp [execWindow, tryWrite, answerTo, hlive, hpasses, preWindow, hbad]

theorem exec_windowWriteOk (hclock : clockOn s = true) (hw : w.val ∈ s.fab.windowOk) : exec (.windowWriteOk w) s =
    .next (emit { s with fab := { s.fab with windowOk := s.fab.windowOk.erase w.val } } (.dictAnswer .sec dOk [])) := by
  show execWindowWriteOk w s = _
  simp [execWindowWriteOk, hclock, hw]

end

/-! The rows. -/

section
variable {s : State} {p : PortId} (hclock : clockOn s = true)
include hclock

/-- Training leaves the port with its lanes, or DOWN without any (R258, R259). -/
theorem exec_linkTrained_effect (r : TrainResult) (dev : BitVec 16) (port : Byte) (hon : portEnabled s p = true)
    (hdown : portUp s p = false) :
    let lanes := lanesOf (linkOf s p) r
    ∃ t, exec (.linkTrained p r dev port) s = .next t ∧ reg t (0x7020 + p) 5 = lanes ∧ t.mem = s.mem ∧ t.ops = s.ops ∧
      (linkOf t p).rxExpect = 0 ∧ (linkOf t p).replay = [] ∧ (lanes = 0 → reg t (0x7020 + p) 1 = 0) ∧
      (lanes ≠ 0 → reg t (0x7020 + p) 1 = (if lanes = 0xFF then 2 else 3) ∧ reg t (0x7020 + p) 3 = dev.toNat ∧
        reg t (0x7020 + p) 4 = port.toNat) ∧ (∀ q, q < 24 → q ≠ p.val → reg t (0x7020 + q) 1 = reg s (0x7020 + q) 1) := by
  intro lanes
  obtain ⟨hlanes, hpartner, hstates⟩ := linkTrainedWith_effect s p lanes dev.toNat port.toNat
  have hexec := exec_linkTrained hclock hon hdown r dev port
  dsimp only at hexec hlanes hpartner hstates
  generalize hu : linkTrainedWith s p lanes dev.toNat port.toNat = u at *
  have hleaves : u.mem = s.mem ∧ u.ops = s.ops ∧ linkOf u p = linkOf (freshLink s p) p := by
    rw [← hu]
    exact ⟨linkTrainedWith_leaves State.mem (fun _ _ _ _ => rfl) .., linkTrainedWith_leaves State.ops (fun _ _ _ _ => rfl) ..,
      linkTrainedWith_leaves (fun t => linkOf t p) (fun _ _ _ _ => rfl) ..⟩
  obtain ⟨hmem, hops, hlink⟩ := hleaves
  have hfresh : ∀ st, linkOf (setLinkState u p st) p =
      { Link.fresh with badLow := (linkOf s p).badLow, badHigh := (linkOf s p).badHigh } := fun st => by
    rw [linkOf_of_links_eq (congrArg Fabric.links (setLinkState_fab ..)), hlink, linkOf_freshLink]
  have hkept : ∀ sub st, sub < 0x0B → sub ≠ 1 → reg (setLinkState u p st) (0x7020 + p) sub = reg u (0x7020 + p) sub :=
    fun sub st hsub hne => reg_setLinkState_ne _ p.isLt hsub (.inr hne) st
  have hreports := fun st => setLinkState_reportsOnly u p st
  refine ⟨_, hexec, (hkept 5 _ (by decide) (by decide)).trans hlanes, (hreports _).mem_eq.trans hmem, (hreports _).ops_eq.trans hops,
    by rw [hfresh]; rfl, by rw [hfresh]; rfl, fun hnone => ?_, fun hsome => ⟨?_, ?_, ?_⟩, fun q hq hne => ?_⟩
  · exact (reg_setLinkState_same _ p.isLt _).trans (if_pos hnone)
  · exact (reg_setLinkState_same _ p.isLt _).trans (if_neg hsome)
  · exact (hkept 3 _ (by decide) (by decide)).trans (hpartner hsome).1
  · exact (hkept 4 _ (by decide) (by decide)).trans (hpartner hsome).2
  · exact (reg_setLinkState_ne _ hq (by decide) (.inl hne) _).trans (hstates q hq)

variable (hup : portUp s p = true)
include hup

/-- An idle cell changes its link by its header, and the count of corrected symbols. -/
theorem exec_idleCell_effect {h : BitVec 128} (htype : cType h.toNat = 1) :
    ∃ t, exec (.idleCell p h) s = .next (pumpPort t p) ∧ SameEntriesBut [dkey (0x7020 + p) 6] s t ∧ t.mem = s.mem ∧
      linkOf t p = takeHeader (linkOf s p) h.toNat ∧ (linkOf t p).rxExpect = (linkOf s p).rxExpect ∧
      ∀ q, q ≠ p.val → linkOf t q = linkOf s q := by
  have hlink : linkOf (corrected (setLink s p (takeHeader (linkOf s p) h.toNat)) p) p = takeHeader (linkOf s p) h.toNat :=
    (linkOf_corrected ..).trans (linkOf_setLink_same ..)
  refine ⟨_, exec_idleCell hclock hup htype, corrected_sameEntriesBut (setLink s p (takeHeader (linkOf s p) h.toNat)) p, rfl, hlink, ?_,
    fun q hq => (linkOf_corrected ..).trans (linkOf_setLink_ne s _ hq)⟩
  rw [hlink]
  exact (takeHeader_fields ..).1

/-- A failed codeword drops cells and asks again for the expected one. -/
theorem exec_uncorrectableCodeword_effect : ∃ t, exec (.uncorrectableCodeword p) s = .next t ∧ (linkOf t p).dropping = true ∧
    Output.replayReq p (linkOf s p).rxExpect ∈ t.out ∧ reg t (0x7020 + p) 7 = (reg s (0x7020 + p) 7 + 1) % 2 ^ 64 ∧
    t.mem = s.mem := by
  obtain ⟨hdrop, hasked, hcount, hmem⟩ := replayAsked_effect s p
  have hlog := logEvent_sendsOnly (replayAsked s p)
    { Event.plain 9 0 (32 + p.val) p.val with srcs := [src 12 p.val], tests := [(.lane, 32 + p.val, p.val)] }
  exact ⟨_, exec_uncorrectableCodeword hclock hup, (hlog.dropping p).trans hdrop, hlog.mem_out hasked,
    (hlog.entries _ _ (portEntry_notMem_logKeys p.isLt (by decide))).trans hcount, (logEvent_mem ..).trans hmem⟩

/-- A replay request sends its cells again; the sixteenth in a row faults the link. -/
theorem exec_replayReq_effect {h : BitVec 128} (htype : cType h.toNat = 2) :
    let n := askedInRow (linkOf s p) (cAck h.toNat)
    (n ≠ 16 → ∃ t, exec (.replayReq p h) s = .next (pumpPort t p) ∧ (linkOf t p).reqCount = n ∧
      (linkOf t p).reqSeq = cAck h.toNat ∧
      t.out = s.out ++ .replay p (cAck h.toNat) ::
        (cellsFrom (linkOf s p) (cAck h.toNat)).map (fun c => Output.cell p c.hdr c.payload) ∧
      reg t (0x7020 + p) 8 = (reg s (0x7020 + p) 8 + 1) % 2 ^ 64 ∧ reg t (0x7020 + p) 1 = reg s (0x7020 + p) 1 ∧ t.mem = s.mem) ∧
    (n = 16 → ∃ t, exec (.replayReq p h) s = .next t ∧ reg t (0x7020 + p) 1 = 4 ∧ reg t 0x8100 2 = reg s 0x8100 2 + 1 ∧
      t.mem = s.mem) := by
  intro n
  have hexec := exec_replayReq hclock hup htype
  obtain ⟨hcount, hseq, hout, hreplays, hstate⟩ := replayTaken_effect s p h.toNat
  refine ⟨fun hless => ⟨_, hexec.trans (congrArg _ (if_neg hless)), hcount, hseq, ?_, hreplays, hstate, rfl⟩,
    fun hlast => ⟨_, hexec.trans (congrArg _ (if_pos hlast)), faultLink_effect s p.isLt⟩⟩
  dsimp only
  rw [hout, List.append_assoc]
  rfl

/-- An expected DATA cell is counted, its messages are delivered in order, and its buffer comes free unless its lane is held. -/
theorem exec_dataCell_effect {h : BitVec 128} (htype : cType h.toNat = 0) (hseq : cSeq h.toNat = (linkOf s p).rxExpect)
    (payload : List Byte) :
    let bytes := SMap.get (linkOf s p).rx (cVl h.toNat) [] ++ padTo (min 240 (cFill h.toNat)) payload
    let r := takeMsgs (bytes.length / 32 + 1) bytes
    ∃ u, (linkOf u p).rxExpect = ((linkOf s p).rxExpect + 1) % 4096 ∧ (linkOf u p).dropping = false ∧
      SMap.get (linkOf u p).rx (cVl h.toNat) [] = r.2 ∧
      reg u (0x7020 + p) 0x0C = (reg s (0x7020 + p) 0x0C + 1) % 2 ^ 64 ∧ u.mem = s.mem ∧ u.ops = s.ops ∧
      let w := r.1.foldl (fun t m => deliverMsg t (.port p) m) u
      let back := w.fab.held.any (fun x => x.1 == .port p && vlOf x.2.opcode == cVl h.toNat)
      ∃ x, exec (.dataCell p h payload) s = .next (pumpPort x p) ∧ x.mem = w.mem ∧
        SMap.get (linkOf x p).freed (cVl h.toNat) 0 = SMap.get (linkOf w p).freed (cVl h.toNat) 0 + (if back then 0 else 1) ∧
        SMap.get (linkOf x p).heldCells (cVl h.toNat) 0 =
          SMap.get (linkOf w p).heldCells (cVl h.toNat) 0 + (if back then 1 else 0) := by
  intro bytes r
  have hlink := linkOf_cellCounted s p h.toNat r.2
  refine ⟨cellCounted s p h.toNat r.2, congrArg Link.rxExpect hlink, congrArg Link.dropping hlink,
    (congrArg (fun k => SMap.get k.rx (cVl h.toNat) []) hlink).trans (SMap.get_set_same ..), reg_setReg_same .., rfl, rfl, ?_⟩
  intro w back
  refine ⟨_, exec_dataCell hclock hup htype hseq payload, cellFreed_mem w p _, ?_⟩
  rw [linkOf_corrected]
  exact freeOrHold_effect w p _

end

/-- Settles O39: each row of the link layer by its state after the row; that a port sends until no cell can go, by the bound of its
replay buffer. -/
theorem linksCarryCellsInOrder : Obligations.LinksCarryCellsInOrder := by
  refine fun s hclock => ⟨fun p r dev port => exec_linkTrained_effect hclock r dev port, fun p hup => ?_,
    fun p => ⟨sendCell_pumpPort s p, fun t ht => ?_⟩, fun q v hok => ?_,
    fun q w v hok => ⟨_, exec_window_of_writeOk hok, effWindow_effect w v.toNat s⟩,
    fun q w v hlive hpasses hbad => exec_window_of_bad hlive hpasses hbad,
    fun w hw => ⟨_, exec_windowWriteOk hclock hw, rfl, rfl, rfl, rfl⟩⟩
  · obtain ⟨hstate, hlanes, hrx, hout⟩ := leaveUp_effect s p.isLt 1
    exact ⟨⟨_, exec_linkLeavesUp hclock hup, hstate, hlanes, hrx, (leaveUp_reportsOnly ..).mem_eq, hout⟩,
      fun h payload htype => ⟨fun hother => exec_dataCell_of_other hother payload,
        fun hseq => exec_dataCell_effect hclock hup htype hseq payload⟩,
      fun h htype => exec_idleCell_effect hclock hup htype, exec_uncorrectableCodeword_effect hclock hup,
      fun h htype => exec_replayReq_effect hclock hup htype⟩
  · obtain ⟨hup, hroom, v, hv, hready, rfl⟩ := sendCell_some ht
    have hcredit : 0 < creditsOf s p v := of_decide_eq_true (Bool.and_eq_true_iff.mp hready).1
    refine ⟨hup, hroom, v, sentCell s p v, hv, hcredit, creditsOf_cellSent s p v, ?_, ?_, cellSent_out s p v, padTo_length _ _,
      sentCell_fields s p hv, reg_cellSent_count s p v, sendCell_mem ht⟩
    · rw [linkOf_cellSent_same, replay_linkSent]
    · rw [linkOf_cellSent_same, txNext_linkSent]
  · refine ⟨_, guarded_of_writeOk (effFabricEnable v.toNat) hok, ?_, (effFabricEnable_reportsOnly v.toNat s).mem_eq,
      (effFabricEnable_reportsOnly v.toNat s).ops_eq⟩
    exact ((effFabricEnable_sendsOnly v.toNat s).entries _ _ (by decide)).trans (reg_setReg_same ..)

end Sys2Proof.Machine
end

section
/-! SUPPORT. Inbound requests (R273 to R275): a slot write while an area's number is listed twice. -/

namespace Sys2Proof.Machine

/-- A registered area of which nothing has been counted. -/
def areaListed (r : Nat) : Area :=
  { reg := BitVec.ofNat 512 r, ovfl := 0, nan := 0, under := 0, doneReported := false }

/-- Port 0 is up, FABRIC_ENABLE is set, and window 0 lets every device reduce into the first 32 KiB of HBM. Area number 0 is listed
twice: with two slots from 0 on, of which slot 0 has sent its last line, and with two slots from 10240 on. -/
def numberListedTwice : State :=
  { State.reset with
    dict := [(dkey 0x1100 1, 2 ^ 64 * (8 + 2 ^ 48 * 0xFFFF) + 2 ^ 128 * 4), (dkey 0x7000 2, 1), (dkey 0x7020 1, 2)]
    hbm := { Hbm.reset with
      areas := [(0, areaListed (40960 + 2 ^ 44 * 3 + 2 ^ 48 + 2 ^ 128)),
        (0, areaListed (46080 + 2 ^ 44 * 3 + 2 ^ 48 + 2 ^ 64 * 10240 + 2 ^ 128))]
      arrived := [(akey 0 79, 1)] } }

/-- RED_SLOT of two lines of INT32: the last line of slot 1 of the first area, and the first line of slot 0 of the second. -/
def slotsMessage : Msg := mkMsg 4 0x30 1 0 0 10176 0 ones64 [0, 0]

theorem slotsMessage_arrives : Arrives numberListedTwice (.port 0) slotsMessage where
  clock := by decide
  port := by decide
  here := by decide
  free := by decide
  hops := by decide
  on := by decide

theorem slotsMessage_permitted :
    refusal numberListedTwice slotsMessage = 0 ∧ reqLost numberListedTwice slotsMessage = false := by
  decide +kernel

/-- The first line completes its target line; its fold stores the area anew and drops the second entry of the number, so the
second line no longer lies in an area and is left alone. -/
theorem redSlot_numberListedTwice : ∃ t, exec (.redSlot (.port 0) slotsMessage) numberListedTwice = .next t ∧
    SMap.get t.hbm.folded (akey 16 160) false = false :=
  ⟨_, rfl, by decide +kernel⟩

/-- Refutes O37: for RED_SLOT it takes a line that has come to lie in no area as one of area 16, and so has it folded under that
number; the request leaves such a line alone. In `numberListedTwice` the second line is one. The clause lacks a premise that no
area's number is listed twice. -/
theorem not_permittedRequestsActAndAreAnswered : ¬ Obligations.PermittedRequestsActAndAreAnswered := by
  intro h
  obtain ⟨permitted, -⟩ := h numberListedTwice (.port 0) slotsMessage slotsMessage_arrives
  obtain ⟨-, -, -, redSlot, -⟩ := permitted slotsMessage_permitted.1 slotsMessage_permitted.2
  obtain ⟨u, hanswer, -, -, hslots⟩ := redSlot (by decide)
  obtain ⟨t, ht, hleft⟩ := redSlot_numberListedTwice
  have hsent : t = sendOrDrop u (responseTo u slotsMessage 0x82 0 []) := Host.Outcome.next.inj (ht.symm.trans hanswer)
  have hfolded : SMap.get u.hbm.folded (akey 16 160) false = true := by
    rw [hslots]
    decide +kernel
  rw [hsent, (sendOrDrop_reportsOnly u _).hbm_eq, hfolded] at hleft
  cases hleft

end Sys2Proof.Machine
end

section
/-! SUPPORT. The stacks of claimed levels (R331): a claim pushes a level above those on the stack, an end of interrupt takes
the top off, and a stack that rises strictly through the levels 1 to 15 stays so. -/

namespace Sys2Proof.Machine

/-- A stack of levels, top first, that rises strictly from bottom to top and holds levels 1 to 15. -/
def StackOrdered (l : List Nat) : Prop := l.Pairwise (fun a b => b < a) ∧ ∀ x ∈ l, 1 ≤ x ∧ x ≤ 15

theorem levelsOrdered_iff (s : State) : LevelsOrdered s ↔ ∀ p, StackOrdered (levelStack s p) := Iff.rfl

theorem StackOrdered.nil : StackOrdered [] := ⟨List.Pairwise.nil, fun _ h => absurd h (List.not_mem_nil)⟩

theorem StackOrdered.cons {l : List Nat} {n : Nat} (h : StackOrdered l) (habove : l.headD 0 < n) (hn : n ≤ 15) :
    StackOrdered (n :: l) := by
  refine ⟨List.pairwise_cons.mpr ⟨fun x hx => ?_, h.1⟩, fun x hx => ?_⟩
  · cases l with
    | nil => cases hx
    | cons y l =>
      rcases List.mem_cons.mp hx with rfl | hx
      · exact habove
      · exact Nat.lt_trans ((List.pairwise_cons.mp h.1).1 x hx) habove
  · rcases List.mem_cons.mp hx with rfl | hx
    · exact ⟨by omega, hn⟩
    · exact h.2 x hx

theorem StackOrdered.drop {l : List Nat} (h : StackOrdered l) (n : Nat) : StackOrdered (l.drop n) :=
  ⟨h.1.sublist (List.drop_sublist n l), fun x hx => h.2 x (List.mem_of_mem_drop hx)⟩

/-- Fifteen levels give a stack at most fifteen entries. -/
theorem StackOrdered.length_le {l : List Nat} (h : StackOrdered l) : l.length ≤ 15 := by
  have hnodup : l.Nodup := h.1.imp (fun hab => Nat.ne_of_gt hab)
  have hsub : l ⊆ List.range' 1 15 := fun x hx => by
    have hx := h.2 x hx
    exact List.mem_range'_1.mpr ⟨hx.1, by omega⟩
  simpa using (hnodup.subperm hsub).length_le

theorem srcPrio_lt (s : State) (n : Nat) : srcPrio s n < 16 := Nat.mod_lt _ (by decide)

theorem foldl_max_le {l : List Nat} {f : Nat → Nat} {m b : Nat} (hm : m ≤ b) (hf : ∀ n ∈ l, f n ≤ b) :
    l.foldl (fun m n => max m (f n)) m ≤ b := by
  induction l generalizing m with
  | nil => exact hm
  | cons x l ih =>
    exact ih (Nat.max_le.mpr ⟨hm, hf x (List.mem_cons_self ..)⟩) (fun n hn => hf n (List.mem_cons_of_mem _ hn))

/-- A level is a PRIO (Table 15.12). -/
theorem winLevel_le (s : State) (p : Nat) : winLevel s p ≤ 15 :=
  foldl_max_le (Nat.zero_le _) (fun n _ => Nat.le_of_lt_succ (srcPrio_lt s n))

/-- The line of a processor other than the host shows a level above its running one. -/
theorem runLevel_lt_winLevel {s : State} {p : Nat} (hp : p ≠ 5) (hline : line s p = true) : runLevel s p < winLevel s p := by
  simp only [line, hp, if_false, Bool.and_eq_true, decide_eq_true_eq] at hline
  exact hline.2

theorem claimed_stackOrdered {s : State} {p : Nat} (hp : p ≠ 5) (hline : line s p = true) (h : StackOrdered (levelStack s p)) :
    StackOrdered (winLevel s p :: levelStack s p) :=
  h.cons (runLevel_lt_winLevel hp hline) (winLevel_le s p)

end Sys2Proof.Machine
end

section
/-! SUPPORT. Every command keeps the queue, the canonical form of memory, the order of the level stacks and the fused versions:
the commands that look something up before they act, then all of them. -/

namespace Sys2Proof.Machine

variable {s0 s : State}

/-- Stacks set one by one stay ordered. -/
theorem Keeping.setLevels {p : List Instr} {m : List Host.Cell} {l : SMap (List Nat)} {v : SMap Nat} (h : Keeping s0 p m l v)
    (k : Nat) (x : List Nat) (hx : StackOrdered (SMap.get l k []) → StackOrdered x) :
    Keeping s0 p m (SMap.set l k x []) v := by
  obtain ⟨hpending, hmem, hlevels, hsvn⟩ := h
  refine ⟨hpending, hmem, fun hordered q => ?_, hsvn⟩
  rw [SMap.get_set]
  split
  · exact hx (hlevels hordered k)
  · exact hlevels hordered q

theorem execClaim_keeps (p : Fin 6) (hs : Keeps s0 s) : OutKeeps s0 (execClaim p s) := by
  unfold execClaim
  rw [OutKeeps.next]
  split
  · exact hs
  · split
    case isTrue h =>
      rw [Bool.and_eq_true, bne_iff_ne] at h
      exact emit_keeps _ _ (hs.setLevels _ _ (claimed_stackOrdered h.1 h.2))
    case isFalse => exact emit_keeps _ _ hs

theorem execEoi_keeps (p : Fin 6) (hs : Keeps s0 s) : OutKeeps s0 (execEoi p s) := by
  unfold execEoi
  rw [OutKeeps.next]
  split
  · exact hs
  · exact linesRose_keeps _ _ (hs.setLevels _ _ (fun h => h.drop 1))

theorem execRailTelemetryPoll_keeps (r : List RailReading) (hs : Keeps s0 s) : OutKeeps s0 (execRailTelemetryPoll r s) := by
  simp only [execRailTelemetryPoll, OutKeeps.next, Keeps.ite]
  exact ⟨fun _ => foldl_keeps (fun t x ht => setReg_keeps _ _ _ _ (by simp [ht])) _ hs, fun _ => hs⟩

theorem execCanaryEvent_keeps (u : Fin 8) (hs : Keeps s0 s) : OutKeeps s0 (execCanaryEvent u s) := by
  have hcounted : ∀ m, Keeps s0 (setMargin (bump s (0x3010 + u.val) 4) u.val m) := fun m => by simp [hs]
  simp only [execCanaryEvent, OutKeeps.next]
  split
  · split
    · exact backOff_keeps _ _ (hcounted _)
    · exact hcounted _
  · exact hs

theorem execPhaseAnnouncement_keeps (q : QueueId) (slot : Fin 33) (hs : Keeps s0 s) :
    OutKeeps s0 (execPhaseAnnouncement q slot s) := by
  simp only [execPhaseAnnouncement, OutKeeps.next]
  split
  · split
    · exact hs
    · split
      · exact hs
      · exact evaluate_keeps _ hs
  · exact hs

theorem execHoldEntry_keeps (hs : Keeps s0 s) : OutKeeps s0 (execHoldEntry s) := by
  simp only [execHoldEntry, OutKeeps.next, Keeps.ite]
  exact ⟨fun _ => saveIrq_keeps _ (setReg_keeps _ _ _ _ (setReg_keeps _ _ _ _ hs)), fun _ => hs⟩

theorem execReturnToD0_keeps (hs : Keeps s0 s) : OutKeeps s0 (execReturnToD0 s) := by
  simp only [execReturnToD0, OutKeeps.next, Keeps.ite]
  refine ⟨fun _ => rampTrigger_keeps _ _ (linesStart_keeps _ (foldl_keeps (fun t n ht => msixOnRise_keeps _ _ ht) _ ?_)), fun _ => hs⟩
  exact setReg_keeps _ _ _ _ hs

theorem execShareWindowEnd_keeps (e : EngineId) (hs : Keeps s0 s) : OutKeeps s0 (execShareWindowEnd e s) := by
  simp only [execShareWindowEnd, OutKeeps.next]
  split
  · refine setEngine_keeps _ _ _ ?_
    split <;> simp [hs]
  · exact hs

theorem execTjUpdate_keeps (c : BitVec 32) (hs : Keeps s0 s) :
    OutKeeps s0 (execTjUpdate c s) := by
  simp only [execTjUpdate, OutKeeps.next]
  repeat' split
  all_goals simp [hs]

theorem execEpilogue_keeps (a : ArrayId) (ii : PartId) (hs : Keeps s0 s) :
    OutKeeps s0 (execEpilogue a ii s) := by
  simp only [execEpilogue, OutKeeps.next]
  repeat' split
  all_goals simp [hs]

theorem execStreamDeadlineExpiry_keeps (tag : TagId) (stream : Nat) (hs : Keeps s0 s) :
    OutKeeps s0 (execStreamDeadlineExpiry tag stream s) := by
  simp only [execStreamDeadlineExpiry, OutKeeps.next]
  repeat' split
  all_goals simp [hs]

theorem execLineWrite_keeps (ag : Agent) (place : LinePlace) (data : Line) (mask : BitVec 128) (e0 e1 : EccResult) (hs : Keeps s0 s) :
    OutKeeps s0 (execLineWrite ag place data mask e0 e1 s) := by
  simp only [execLineWrite, OutKeeps.next]
  repeat' split
  all_goals simp [hs]

theorem execSlotWrite_keeps (ag : Agent) (addr : LocalAddr) (fmt : Fin 8) (data : Line) (mask : BitVec 64) (hs : Keeps s0 s) :
    OutKeeps s0 (execSlotWrite ag addr fmt data mask s) := by
  simp only [execSlotWrite, OutKeeps.next]
  repeat' split
  all_goals simp [hs]

theorem execHostCompletion_keeps (r : HostRead) (data : List Byte) (ok : Bool) (hs : Keeps s0 s) :
    OutKeeps s0 (execHostCompletion r data ok s) := by
  simp only [execHostCompletion, OutKeeps.next]
  repeat' split
  all_goals simp [hs]

theorem execMsiXUnmask_keeps (v : Fin 64) (hs : Keeps s0 s) :
    OutKeeps s0 (execMsiXUnmask v s) := by
  simp only [execMsiXUnmask, OutKeeps.next]
  repeat' split
  all_goals simp [hs]

theorem execGrant_keeps (r : Resource) (arrivals : List ArbReq) (hs : Keeps s0 s) :
    OutKeeps s0 (execGrant r arrivals s) := by
  simp only [execGrant, OutKeeps.next]
  repeat' split
  all_goals simp [hs]

theorem execSignedCommandEnded_keeps (_c : SigCheck) (hs : Keeps s0 s) :
    OutKeeps s0 (execSignedCommandEnded _c s) := by
  simp only [execSignedCommandEnded, OutKeeps.next]
  repeat' split
  all_goals simp [hs]

theorem execHoldRequest_keeps (h : HoldSource) (hs : Keeps s0 s) :
    OutKeeps s0 (execHoldRequest h s) := by
  unfold execHoldRequest
  repeat' split
  all_goals simp +contextual [hs]

theorem execWaitSatisfied_keeps (tag : TagId) (hs : Keeps s0 s) :
    OutKeeps s0 (execWaitSatisfied tag s) := by
  simp only [execWaitSatisfied, OutKeeps.next]
  repeat' split
  all_goals simp +contextual [hs]

theorem execHoldoffExpiry_keeps (g : Fin 32) (hs : Keeps s0 s) :
    OutKeeps s0 (execHoldoffExpiry g s) := by
  simp only [execHoldoffExpiry, OutKeeps.next]
  repeat' split
  all_goals simp +contextual [hs]

theorem execStagedWrite_keeps (p : Path) (index : BitVec 16) (sub : BitVec 8) (v : Byte) (hs : Keeps s0 s) :
    OutKeeps s0 (execStagedWrite p index sub v s) := by
  unfold execStagedWrite
  repeat' split
  all_goals simp +contextual [hs]

theorem execLoop_keeps (e : EngineId) (k : WorkClass) (hs : Keeps s0 s) : OutKeeps s0 (execLoop e k s) := by
  refine (OutKeeps.next _ _).mpr (instrStep_keeps _ _ _ _ _ _ _ (fun t c ht => ?_) hs)
  split <;> simp [ht]

theorem execEndloop_keeps (e : EngineId) (k : WorkClass) (hs : Keeps s0 s) : OutKeeps s0 (execEndloop e k s) := by
  refine (OutKeeps.next _ _).mpr (instrStep_keeps _ _ _ _ _ _ _ (fun t c ht => ?_) hs)
  split
  · exact ht
  · split <;> simp [ht]

theorem execYield_keeps (e : EngineId) (k : WorkClass) (hs : Keeps s0 s) : OutKeeps s0 (execYield e k s) := by
  refine (OutKeeps.next _ _).mpr (instrStep_keeps _ _ _ _ _ _ _ (fun t c ht => ?_) hs)
  split
  · exact ht
  · dsimp only
    split <;> simp [ht]

theorem execCaptureComplete_keeps (a : ArrayId) (ii : PartId) (hs : Keeps s0 s) : OutKeeps s0 (execCaptureComplete a ii s) := by
  simp only [execCaptureComplete, OutKeeps.next]
  split
  · exact hs
  · split
    · exact leaveOpen_keeps _ _ _ (by simp [hs])
    · exact hs

theorem execExactCheck_keeps (e : EngineId) (ups : List Upset) (hs : Keeps s0 s) : OutKeeps s0 (execExactCheck e ups s) := by
  have hcounted : ∀ c, Keeps s0 (countSteps s e.val .sieve (exactSteps c)) := fun c => by simp [hs]
  simp only [execExactCheck, OutKeeps.next]
  split
  · exact hs
  · split
    · exact hs
    · split
      · exact afterExact_keeps _ _ (cleanCheck_keeps _ _ (bump_keeps _ _ _ (hcounted _)))
      · exact editCap_keeps _ _ _ (hcounted _)

theorem execSieveRecheck_keeps (e : EngineId) (ups : List Upset) (hs : Keeps s0 s) : OutKeeps s0 (execSieveRecheck e ups s) := by
  have hcounted : ∀ c k, Keeps s0 (mismatchBackOff (countSteps s e.val .sieve (exactSteps c)) c k) := fun c k => by simp [hs]
  simp only [execSieveRecheck, OutKeeps.next]
  split
  · exact hs
  · split
    · exact hs
    · exact afterExact_keeps _ _ (mismatchEvents_keeps _ _ _ _ _ (setReg_keeps _ _ _ _ (bump_keeps _ _ _ (hcounted _ _))))

theorem execFidelityCheck_keeps (e : EngineId) (hs : Keeps s0 s) : OutKeeps s0 (execFidelityCheck e s) := by
  have hcounted : ∀ c, Keeps s0 (countSteps s e.val .sieve (fidelitySteps c)) := fun c => by simp [hs]
  simp only [execFidelityCheck, OutKeeps.next]
  split
  · exact hs
  · split
    · exact hs
    · exact dropCap_keeps _ _ (fidelityWindow_keeps _ _ _ (bumpSat32_keeps _ _ _ _ (hcounted _)))

theorem execLineRead_keeps (ag : Agent) (place : LinePlace) (e0 e1 : EccResult) (hs : Keeps s0 s) :
    OutKeeps s0 (execLineRead ag place e0 e1 s) := by
  simp only [execLineRead, OutKeeps.next]
  split
  · exact hs
  · split
    · exact peerRead_keeps _ _ _ _ hs
    · have hchecked := fun a => lineChecks_keeps s a e0 e1 hs
      repeat' split
      all_goals simp [hs, hchecked]

theorem execImageSaved_keeps (c : CtxId) (gwevi : List Byte) (hs : Keeps s0 s) : OutKeeps s0 (execImageSaved c gwevi s) := by
  unfold execImageSaved
  rw [OutKeeps.next]
  split
  · exact hs
  · extract_lets r bad s1
    have h1 : Keeps s0 s1 := by
      simp only [s1]
      split
      · exact setReg_keeps _ _ _ _ hs
      · exact setReg_keeps _ _ _ _ (noteImage_keeps _ _ _ (writeImage_keeps _ _ _ hs))
    split
    · exact hs
    · split
      · exact endCmd_keeps _ _ _ (releaseCtx_keeps _ _ (discardChecks_keeps _ _ h1))
      · split
        · exact endCmd_keeps _ _ _ (setCtxState_keeps _ _ _ (runQueues_keeps _ _ h1))
        · exact startRemoteCopy_keeps _ _ h1

theorem execStackLinkReplay_keeps (k : StackId) (x : Transfer) (wire : BitVec 11) (hs : Keeps s0 s) :
    OutKeeps s0 (execStackLinkReplay k x wire s) := by
  simp only [execStackLinkReplay, OutKeeps.next]
  generalize (if SMap.get s.hbm.replayOf k.val 0 = x.number + 1 then SMap.get s.hbm.replayCount k.val 0 + 1 else 1) = n
  split
  · split
    · exact faultUser_keeps _ _ (logEvent_keeps _ _ (bump_keeps s 0x5000 6 hs))
    · exact bump_keeps s 0x5000 6 hs
  · exact hs

theorem execSlotTableWrap_keeps (cg : GroupId) (hs : Keeps s0 s) : OutKeeps s0 (execSlotTableWrap cg s) := by
  simp only [execSlotTableWrap, OutKeeps.next]
  split
  · refine adoptMode_keeps _ _ ?_
    split
    · exact setReg_keeps _ _ _ _ (setReg_keeps _ _ _ _ hs)
    · exact hs
  · exact hs

theorem execMarginRunDone_keeps (cg : GroupId) (sides : MarginSides) (hs : Keeps s0 s) :
    OutKeeps s0 (execMarginRunDone cg sides s) := by
  simp only [execMarginRunDone, OutKeeps.next]
  generalize List.range 16 = cells
  split
  · refine raise_keeps _ _ ?_
    have hdone : ∀ (t : State) (f : Nat → Nat) (h : Hbm), Keeps s0 t → Keeps s0 (setReg { cells.foldl (fun t i =>
        setReg t (0x5300 + cg.val) (3 + i) (f i)) t with hbm := h } (0x5300 + cg.val) 2 2) := fun t f h ht =>
      setReg_keeps _ _ _ _ (foldl_keeps (fun u i hu => setReg_keeps _ _ _ _ hu) cells ht)
    have hscribbled : Keeps s0 (scribble (nextFree s) (marginLines s cg.val)) := scribble_keeps _ _ (nextFree_keeps _ hs)
    split <;> split
    · exact setReg_keeps _ _ _ _ (hdone _ _ _ hscribbled)
    · exact setReg_keeps _ _ _ _ (hdone _ _ _ hs)
    · exact hdone _ _ _ hscribbled
    · exact hdone _ _ _ hs
  · exact hs

theorem execLockGrant_keeps (obj : Fin 4096) (hs : Keeps s0 s) : OutKeeps s0 (execLockGrant obj s) := by
  simp only [execLockGrant, OutKeeps.next]
  split
  · exact hs
  · split
    · exact dropWait_keeps _ _ (by simp [hs])
    · exact hs

theorem execSyncTimeout_keeps (tag : TagId) (hs : Keeps s0 s) : OutKeeps s0 (execSyncTimeout tag s) := by
  simp only [execSyncTimeout, OutKeeps.next]
  split
  · exact hs
  · split
    · exact endWait_keeps _ _ _ (by simp [hs])
    · exact hs

theorem execCommState_keeps (p : Path) (c : CommId) (v : Byte) (hs : Keeps s0 s) : OutKeeps s0 (execCommState p c v s) :=
  guarded_keeps _ _ _ _ _ _ _ _ (fun _ ht => effCommState_keeps _ _ _ ht) (noteTable_keeps _ _ _ _ hs)

theorem execPmbAlert_keeps (faulted : List (Fin 10)) (hs : Keeps s0 s) : OutKeeps s0 (execPmbAlert faulted s) := by
  simp only [execPmbAlert, OutKeeps.next]
  split
  · refine raise_keeps _ _ (foldl_keeps (fun t k ht => logEvent_keeps _ _ ht) _ (emit_keeps _ _ (setCond_keeps _ _ _ ?_)))
    exact hs
  · exact hs

theorem execArraySelfTestComplete_keeps (results : List (ArrayId × ArrayTest)) (bad : List EngineId) (hs : Keeps s0 s) :
    OutKeeps s0 (execArraySelfTestComplete results bad s) := by
  simp only [execArraySelfTestComplete, OutKeeps.next, Keeps.ite]
  refine ⟨fun _ => setStep_keeps _ _ (foldl_keeps (fun t n ht => retireEngine_keeps _ _ ht) _ ?_), fun _ => hs⟩
  exact foldl_keeps (fun t x ht => takeArrayTest_keeps _ _ ht) _ hs

theorem execLinkTrained_keeps (p : PortId) (r : TrainResult) (dev : BitVec 16) (port : Byte) (hs : Keeps s0 s) :
    OutKeeps s0 (execLinkTrained p r dev port s) := by
  have hfresh : ∀ lanes, Keeps s0 (setReg (freshLink s p.val) (0x7020 + p.val) 5 lanes) := fun lanes => by simp [hs]
  simp only [execLinkTrained, OutKeeps.next]
  split
  · split
    · exact setLinkState_keeps _ _ _ (hfresh _)
    · exact setLinkState_keeps _ _ _ (setReg_keeps _ _ _ _ (setReg_keeps _ _ _ _ (hfresh _)))
  · exact hs

theorem execDataCell_keeps (p : PortId) (hdr : BitVec 128) (payload : List Byte) (hs : Keeps s0 s) :
    OutKeeps s0 (execDataCell p hdr payload s) := by
  simp only [execDataCell, OutKeeps.next]
  split
  · exact hs
  · refine pumpPort_keeps _ _ (corrected_keeps _ _ (freeOrHold_keeps _ _ _ (foldl_keeps (fun t m ht => ?_) _ ?_)))
    · exact deliverMsg_keeps _ _ _ ht
    · simp [hs]

theorem execIdleCell_keeps (p : PortId) (hdr : BitVec 128) (hs : Keeps s0 s) : OutKeeps s0 (execIdleCell p hdr s) := by
  simp only [execIdleCell, OutKeeps.next, Keeps.ite]
  exact ⟨fun _ => pumpPort_keeps _ _ (by simp [hs]), fun _ => hs⟩

theorem execUncorrectableCodeword_keeps (p : PortId) (hs : Keeps s0 s) : OutKeeps s0 (execUncorrectableCodeword p s) := by
  simp only [execUncorrectableCodeword, OutKeeps.next, Keeps.ite]
  exact ⟨fun _ => logEvent_keeps _ _ (bump_keeps _ _ _ (emit_keeps _ _ (emit_keeps _ _ (setLink_keeps _ _ _ (setLink_keeps _ _ _ hs))))), fun _ => hs⟩

theorem execReplayReq_keeps (p : PortId) (hdr : BitVec 128) (hs : Keeps s0 s) : OutKeeps s0 (execReplayReq p hdr s) := by
  unfold execReplayReq
  rw [OutKeeps.next]
  extract_lets h l n s1 s2
  split
  · split
    · exact faultLink_keeps _ _ hs
    · have h2 : Keeps s0 s2 := emit_keeps _ _ (bump_keeps _ _ _ (setLink_keeps _ _ _ hs))
      exact pumpPort_keeps _ _ (foldl_keeps (fun t c ht => emit_keeps _ _ ht) _ h2)
  · exact hs

theorem execRemoteTimeout_keeps (tag : BitVec 16) (hs : Keeps s0 s) : OutKeeps s0 (execRemoteTimeout tag s) := by
  simp only [execRemoteTimeout, OutKeeps.next]
  split
  · exact hs
  · split
    · exact endRequest_keeps _ _ _ _ (by simp [hs])
    · exact hs

theorem execWindow_keeps (p : Path) (w : Fin 256) (v : BitVec 256) (hs : Keeps s0 s) : OutKeeps s0 (execWindow p w v s) := by
  have hwritten := tryWrite_keeps s p (0x1100 + w.val) 1 32 v.toNat (preWindow v.toNat) (effWindow w.val v.toNat)
    (fun t ht => effWindow_keeps _ _ _ ht) hs
  simp only [execWindow, OutKeeps.next]
  split
  · split
    · exact hwritten
    · exact answerTo_keeps _ _ hwritten
  · exact hs

theorem execResumeComplete_keeps (hs : Keeps s0 s) : OutKeeps s0 (execResumeComplete s) := by
  unfold execResumeComplete
  rw [OutKeeps.next]
  split
  · extract_lets power s1 s2 fab s3 s4
    have h2 : Keeps s0 s2 := shiftTimes_keeps _ _ (setReg_keeps _ _ _ _ hs)
    have h4 : Keeps s0 s4 := rampTrigger_keeps _ _ (foldl_keeps (fun t e ht => takeResponse_keeps _ _ ht) _ h2)
    split
    · exact startStop_keeps _ _ h4
    · exact h4
  · exact hs

theorem execResultChunkAccepted_keeps (tag : TagId) (chunk : Nat) (hs : Keeps s0 s) :
    OutKeeps s0 (execResultChunkAccepted tag chunk s) := by
  unfold execResultChunkAccepted
  rw [OutKeeps.next]
  split
  · exact hs
  · extract_lets r d rg lo n vs s1 b1 s2 s3 s4
    split
    · exact hs
    · have h2 : Keeps s0 s2 := updOp_keeps _ _ _ (updBucket_keeps _ _ (memWrite_keeps _ _ _ hs))
      have h3 : Keeps s0 s3 := by
        simp only [s3]
        split
        · exact onReduced_keeps _ _ _ _ h2
        · exact h2
      have h4 : Keeps s0 s4 := by
        simp only [s4]
        split
        · split
          · exact updBucket_keeps _ _ (releaseArea_keeps _ _ h3)
          · exact h3
        · exact h3
      exact pumpAll_keeps _ (advanceBucket_keeps _ _ h4)

theorem execDataPortRead_keeps (dw : Nat) (hs : Keeps s0 s) : OutKeeps s0 (execDataPortRead dw s) := by
  have hmoved : ∀ a, Keeps s0 (bset s dpAddrOff a) := fun a => bset_keeps _ _ _ hs
  simp only [execDataPortRead, OutKeeps.next]
  repeat' split
  all_goals simp [hs, hmoved]

theorem execBar4Access_keeps (op : Bar4Op) (hs : Keeps s0 s) : OutKeeps s0 (execBar4Access op s) := by
  have hread : ∀ o, Keeps s0 (emit (nextFree s) o) := fun o => emit_keeps _ _ (nextFree_keeps _ hs)
  simp only [execBar4Access, OutKeeps.next]
  split
  · exact hs
  · split
    all_goals
      repeat' split
      all_goals simp [hs, hread]

theorem execResourceWatchdogExpiry_keeps (r : Resource) (hs : Keeps s0 s) : OutKeeps s0 (execResourceWatchdogExpiry r s) := by
  simp only [execResourceWatchdogExpiry, OutKeeps.next]
  split
  · exact hs
  · split
    · exact endStuck_keeps _ _ _ (logEvent_keeps _ _ (bump_keeps _ _ _ (setArb_keeps _ _ _ hs)))
    · exact hs

theorem execMailboxDoorbell_keeps (k : MailSlot) (request : List Byte) (len : BitVec 14) (hs : Keeps s0 s) :
    OutKeeps s0 (execMailboxDoorbell k request len s) := by
  have hrung : ∀ f, Keeps s0 (raise (setMailRequest s k f) (src 16 2)) := fun f => by simp [hs]
  simp only [execMailboxDoorbell, OutKeeps.next]
  repeat' split
  all_goals simp [hs, hrung]

theorem execRetiredListWrite_keeps (p : Path) (off : BitVec 32) (data : List Byte) (hs : Keeps s0 s) :
    OutKeeps s0 (execRetiredListWrite p off data s) := by
  simp only [execRetiredListWrite, OutKeeps.next, Keeps.ite]
  exact ⟨fun _ => answerTo_keeps _ _ (tryBlock_keeps _ _ _ _ _ _ _ _ _ (fun t ht => effRetiredList_keeps _ _ _ ht) hs), fun _ => hs⟩

theorem execSignedCommand_keeps (p : Path) (off : BitVec 32) (data : List Byte) (hs : Keeps s0 s) :
    OutKeeps s0 (execSignedCommand p off data s) := by
  simp only [execSignedCommand, OutKeeps.next, Keeps.ite]
  exact ⟨fun _ => answerTo_keeps _ _ (tryBlock_keeps _ _ _ _ _ _ _ _ _ (fun t ht => effSigned_keeps _ _ _ _ ht) hs), fun _ => hs⟩

theorem execVddAonUp_keeps (hs : Keeps s0 s) : OutKeeps s0 (execVddAonUp s) := by
  simp only [execVddAonUp, OutKeeps.next, Keeps.ite]
  exact ⟨fun _ => hs, fun _ => coolantFrom_keeps _ (pinLevels_keeps _ (blankPart_keeps _ hs))⟩

theorem execFuseSenseComplete_keeps (hs : Keeps s0 s) : OutKeeps s0 (execFuseSenseComplete s) := by
  simp only [execFuseSenseComplete, OutKeeps.next, Keeps.ite]
  refine ⟨fun _ => setStep_keeps _ _ (foldl_keeps (fun t u ht => loadMargin_keeps _ _ ht) _ ?_), fun _ => hs⟩
  exact foldl_keeps (fun t a ht => loadAgeing_keeps _ _ ht) _ hs

theorem execBootImagesVerified_keeps (a b : SlotCheck) (hs : Keeps s0 s) : OutKeeps s0 (execBootImagesVerified a b s) := by
  have hrejected : ∀ slot k, Keeps s0 (rejectSlot s slot k 3) := fun slot k => rejectSlot_keeps _ _ _ _ hs
  simp only [execBootImagesVerified, OutKeeps.next]
  split
  · split
    · exact acceptSlot_keeps _ _ _ hs
    · split
      · exact acceptSlot_keeps _ _ _ (hrejected _ _)
      · exact setReg_keeps _ _ _ _ (by simp [hrejected])
  · exact hs

theorem execGweviRunning_keeps (version : BitVec 32) (hs : Keeps s0 s) : OutKeeps s0 (execGweviRunning version s) := by
  simp only [execGweviRunning, OutKeeps.next, Keeps.ite]
  refine ⟨fun _ => foldl_keeps (fun t p ht => emit_keeps _ _ (setLinkState_keeps _ _ _ ht)) _ ?_, fun _ => hs⟩
  exact setReg_keeps _ _ _ _ (by simp [hs])

theorem execIdentityDerived_keeps (r : IdentityResult) (hs : Keeps s0 s) : OutKeeps s0 (execIdentityDerived r s) := by
  have hderived : ∀ (u : Sec), Keeps s0 (setReg (setReg (setReg { s with sec := u } 0x6120 4 r.sieveSeed.toNat)
      0x9010 2 r.nonce.toNat) 0x9030 1 r.challenge.toNat) := fun u => setReg_keeps _ _ _ _ (by simp [hs])
  simp only [execIdentityDerived, OutKeeps.next]
  split
  · split
    · exact domWrite_keeps _ _ _ _ _ (by simp [hderived])
    · simp [hderived]
  · exact hs

theorem execSoftRepairRegistersLoaded_keeps (hs : Keeps s0 s) : OutKeeps s0 (execSoftRepairRegistersLoaded s) := by
  simp only [execSoftRepairRegistersLoaded, OutKeeps.next, Keeps.ite]
  exact ⟨fun _ => setStep_keeps _ _ (foldl_keeps (fun t a ht => setRecords_keeps _ _ _ ht) _ hs), fun _ => hs⟩

theorem execLoamMarchComplete_keeps (failing : List LocalAddr) (hs : Keeps s0 s) : OutKeeps s0 (execLoamMarchComplete failing s) := by
  simp only [execLoamMarchComplete, OutKeeps.next, Keeps.ite]
  refine ⟨fun _ => setStep_keeps _ _ (foldl_keeps (fun t a ht => retireLoamLine_keeps _ _ ht) _ ?_), fun _ => hs⟩
  exact memZero_keeps _ _ _ hs

theorem execHbmTrainingComplete_keeps (failed : List StackId) (hs : Keeps s0 s) : OutKeeps s0 (execHbmTrainingComplete failed s) := by
  have htrained := foldl_keeps (fun t k ht => setTrained_keeps failed t k ht) (List.range 20) hs
  simp only [execHbmTrainingComplete, OutKeeps.next]
  split
  · split
    · exact setStep_keeps _ _ htrained
    · exact setReg_keeps _ _ _ _ htrained
  · exact hs

theorem execHbmMarchComplete_keeps (rows : List HbmRow) (hs : Keeps s0 s) : OutKeeps s0 (execHbmMarchComplete rows s) := by
  simp only [execHbmMarchComplete, OutKeeps.next, Keeps.ite]
  refine ⟨fun _ => setStep_keeps _ _ (foldl_keeps (fun t r ht => softRepair_keeps _ _ ht) _ ?_), fun _ => hs⟩
  exact memZero_keeps _ _ _ hs

theorem execReady_keeps (hs : Keeps s0 s) : OutKeeps s0 (execReady s) := by
  simp only [execReady, OutKeeps.next]
  split
  · split
    · exact setStart_keeps _ _ hs
    · split
      · simp [hs]
      · exact foldl_keeps (fun t n ht => showIdle_keeps _ _ ht) _ (setReg_keeps _ _ _ _ (by simp [hs]))
  · exact hs

theorem execHotReset_keeps (hs : Keeps s0 s) : OutKeeps s0 (execHotReset s) := by
  simp only [execHotReset, OutKeeps.next, Keeps.ite]
  refine ⟨fun _ => foldl_keeps (fun t q ht => slotFailed_keeps _ _ (slotAnswered_keeps _ _ ht)) _ ?_, fun _ => hs⟩
  exact raise_keeps _ _ hs

theorem execWarmReset_keeps (hs : Keeps s0 s) : OutKeeps s0 (execWarmReset s) := by
  simp only [execWarmReset, OutKeeps.next, Keeps.ite]
  exact ⟨fun _ => coolantFrom_keeps _ (pinLevels_keeps _ (afterWarmReset_keeps _ hs)), fun _ => hs⟩

theorem execClockLoss_keeps (hs : Keeps s0 s) : OutKeeps s0 (execClockLoss s) := by
  have hlogged : ∀ (p : Pins) (a : Aon) (e : Event), Keeps s0 (driveFaultN (logEvent { s with pins := p, aon := a } e)) :=
    fun p a e => driveFaultN_keeps _ (logEvent_keeps _ _ hs)
  simp only [execClockLoss, OutKeeps.next]
  split
  · split <;> simp [hlogged]
  · exact hs

/-- Every command keeps them. Commands that share an operation go by what is said of that; a command of its own shape is a chain of
the operations of this file's layer. -/
theorem exec_keeps (i : Instr) (s : State) : OutKeeps s (exec i s) := by
  have hs := Keeps.refl s
  cases i
  case coolantResume | shareShadowWrite | d0Request | dozeRequest | arrayHold | partitionMode | repairBurn | sieveEnable |
      contextRecordWrite | scrubStart | slotShadow | slotAll | pprBurn | tgenEnable | fabricEnable | queueConfig | resume |
      flush | ringConfig | holdoffNs | waitLimit | commit | discard | gpioFunction | faultAck =>
    exact guarded_keeps _ _ _ _ _ _ _ _ (fun t ht => by simp [ht]) hs
  case vecNop | vecEnd | shape | vecWait | vecSignal | sets | setar | advar | add | sub | mul | fma | min | max | abs |
      neg | select | cmpeq | cmplt | cmple | mand | mor | mnot | exp2 | log2 | rcp | rsqrt | rsum | rsumsq | rprod | rmax |
      rmin | rargmax | rargmin | rcount | slotArithmetic | cvt | quant | qdual | compress | expand | topk | maskgen |
      vecLoad | store | loadstat | savestat | loadmask =>
    exact (OutKeeps.next _ _).mpr (instrStep_keeps _ _ _ _ _ _ _ (fun t c ht => by simp [ht]) hs)
  case signal | wait | acquire | releaseLock | arrive | clear | init =>
    exact dispatchSync_keeps _ _ _ _ hs
  case nop | matmul | vprog | vprogNop =>
    exact (OutKeeps.next _ _).mpr (dispatch_keeps _ _ _ _ _ _ (fun t o ht => by simp [ht]) hs)
  case rs | ag | ar | rsug =>
    exact (OutKeeps.next _ _).mpr (releaseLanes_keeps _ (dispatchColl_keeps _ _ _ _ hs))
  case read | write | redAdd | redSlot | fabricSignal | collData | collCtrl | notice | readData | ack | nak =>
    exact arrive_keeps _ _ _ _ hs
  case contrib | partialAcc | partialBlock | compressed | gather | repairData | scales | shadowDigest | substitute |
      stopped | done | abort | norm | repairReq | barrierArrive | barrierRelease =>
    exact collKind_keeps _ _ _ _ _ hs
  case load | preempt | checkpoint | reset | delete | loadRemote =>
    exact writeCmd_keeps _ _ _ hs
  case marginReadTiming | marginReadVoltage | marginWriteTiming | marginWriteVoltage =>
    exact marginStart_keeps _ _ _ _ hs
  case attest | writeEntry | scrub | advanceSvn | installOwnerKey | debugUnlock =>
    exact (OutKeeps.next _ _).mpr (runCmd_keeps _ _ _ _ (fun t ht => by simp [ht]) hs)
  case vddAonUp => exact execVddAonUp_keeps hs
  case fuseSenseComplete => exact execFuseSenseComplete_keeps hs
  case bootImagesVerified => exact execBootImagesVerified_keeps _ _ hs
  case gweviRunning => exact execGweviRunning_keeps _ hs
  case identityDerived => exact execIdentityDerived_keeps _ hs
  case softRepairRegistersLoaded => exact execSoftRepairRegistersLoaded_keeps hs
  case loamMarchComplete => exact execLoamMarchComplete_keeps _ hs
  case arraySelfTestComplete => exact execArraySelfTestComplete_keeps _ _ hs
  case hbmTrainingComplete => exact execHbmTrainingComplete_keeps _ hs
  case hbmMarchComplete => exact execHbmMarchComplete_keeps _ hs
  case ready => exact execReady_keeps hs
  case warmReset => exact execWarmReset_keeps hs
  case hotReset => exact execHotReset_keeps hs
  case clockLoss => exact execClockLoss_keeps hs
  case resumeComplete => exact execResumeComplete_keeps hs
  case tjUpdate => exact execTjUpdate_keeps _ hs
  case pmbAlert => exact execPmbAlert_keeps _ hs
  case railTelemetryPoll => exact execRailTelemetryPoll_keeps _ hs
  case canaryEvent => exact execCanaryEvent_keeps _ hs
  case phaseAnnouncement => exact execPhaseAnnouncement_keeps _ _ hs
  case holdRequest => exact execHoldRequest_keeps _ hs
  case holdEntry => exact execHoldEntry_keeps hs
  case epilogue => exact execEpilogue_keeps _ _ hs
  case shareWindowEnd => exact execShareWindowEnd_keeps _ hs
  case loop => exact execLoop_keeps _ _ hs
  case endloop => exact execEndloop_keeps _ _ hs
  case yield => exact execYield_keeps _ _ hs
  case captureComplete => exact execCaptureComplete_keeps _ _ hs
  case exactCheck => exact execExactCheck_keeps _ _ hs
  case sieveRecheck => exact execSieveRecheck_keeps _ _ hs
  case fidelityCheck => exact execFidelityCheck_keeps _ hs
  case lineRead => exact execLineRead_keeps _ _ _ _ hs
  case lineWrite => exact execLineWrite_keeps _ _ _ _ _ _ hs
  case imageSaved => exact execImageSaved_keeps _ _ hs
  case stackLinkReplay => exact execStackLinkReplay_keeps _ _ _ hs
  case slotTableWrap => exact execSlotTableWrap_keeps _ hs
  case slotWrite => exact execSlotWrite_keeps _ _ _ _ _ hs
  case marginRunDone => exact execMarginRunDone_keeps _ _ hs
  case waitSatisfied => exact execWaitSatisfied_keeps _ hs
  case lockGrant => exact execLockGrant_keeps _ hs
  case syncTimeout => exact execSyncTimeout_keeps _ hs
  case linkTrained => exact execLinkTrained_keeps _ _ _ _ hs
  case dataCell => exact execDataCell_keeps _ _ _ hs
  case uncorrectableCodeword => exact execUncorrectableCodeword_keeps _ hs
  case replayReq => exact execReplayReq_keeps _ _ hs
  case remoteTimeout => exact execRemoteTimeout_keeps _ hs
  case window => exact execWindow_keeps _ _ _ hs
  case commState => exact execCommState_keeps _ _ _ hs
  case streamDeadlineExpiry => exact execStreamDeadlineExpiry_keeps _ _ hs
  case resultChunkAccepted => exact execResultChunkAccepted_keeps _ _ hs
  case dataPortRead => exact execDataPortRead_keeps _ hs
  case bar4Access => exact execBar4Access_keeps _ hs
  case claim => exact execClaim_keeps _ hs
  case eoi => exact execEoi_keeps _ hs
  case holdoffExpiry => exact execHoldoffExpiry_keeps _ hs
  case grant => exact execGrant_keeps _ _ hs
  case resourceWatchdogExpiry => exact execResourceWatchdogExpiry_keeps _ hs
  case mailboxDoorbell => exact execMailboxDoorbell_keeps _ _ _ hs
  case stagedWrite => exact execStagedWrite_keeps _ _ _ _ hs
  case signedCommand => exact execSignedCommand_keeps _ _ _ hs
  case signedCommandEnded c => exact execSignedCommandEnded_keeps c hs
  case retiredListWrite => exact execRetiredListWrite_keeps _ _ _ hs
  case idleCell => exact execIdleCell_keeps _ _ hs
  case returnToD0 => exact execReturnToD0_keeps hs
  case msiXUnmask => exact execMsiXUnmask_keeps _ hs
  case hostCompletion => exact execHostCompletion_keeps _ _ _ hs
  case s0 => simp [exec, execS0]
  case baseDieFirmwareRunning => simp [exec, execBaseDieFirmwareRunning]
  case portsSettled => simp [exec, execPortsSettled]
  case perstNRise => simp [exec, execPerstNRise]
  case pcieLinkUp => simp [exec, execPcieLinkUp]
  case clockReturn => simp [exec, execClockReturn]
  case paceHoldNFall => simp [exec, execPaceHoldNFall]
  case paceHoldNRise => simp [exec, execPaceHoldNRise]
  case coolantOkFall => simp [exec, execCoolantOkFall]
  case coolantOkRise => simp [exec, execCoolantOkRise]
  case coolantStop => simp [exec, execCoolantStop]
  case thermtrip => simp [exec, execThermtrip]
  case thermalGridPoint => simp [exec, execThermalGridPoint]
  case stackTemperatureRead => simp [exec, execStackTemperatureRead]
  case voltageLoopUpdate => simp [exec, execVoltageLoopUpdate]
  case ageingMeasurement => simp [exec, execAgeingMeasurement]
  case ageingFuseBurnEnd => simp [exec, execAgeingFuseBurnEnd]
  case marginWindowEnd => simp [exec, execMarginWindowEnd]
  case railScaleUpdate => simp [exec, execRailScaleUpdate]
  case powerShareEvaluation => simp [exec, execPowerShareEvaluation]
  case phaseEnd => simp [exec, execPhaseEnd]
  case shareTableWrap => simp [exec, execShareTableWrap]
  case dozeEntry => simp [exec, execDozeEntry]
  case wakeEvent => simp [exec, execWakeEvent]
  case pcieD0 => simp [exec, execPcieD0]
  case wave => simp [exec, execWave]
  case outputStageAccept => simp [exec, execOutputStageAccept]
  case repairBurnComplete => simp [exec, execRepairBurnComplete]
  case microcodeInstruction => simp [exec, execMicrocodeInstruction]
  case copy => simp [exec, execCopy]
  case fill => simp [exec, execFill]
  case dmaNop => simp [exec, execDmaNop]
  case scrubDone => simp [exec, execScrubDone]
  case patrolScrubRead => simp [exec, execPatrolScrubRead]
  case hbmSlotGrant => simp [exec, execHbmSlotGrant]
  case arrivalAdd => simp [exec, execArrivalAdd]
  case areaRegistration => simp [exec, execAreaRegistration]
  case areaDone => simp [exec, execAreaDone]
  case areaRelease => simp [exec, execAreaRelease]
  case refresh => simp [exec, execRefresh]
  case readPhaseUpdate => simp [exec, execReadPhaseUpdate]
  case writePathRetrain => simp [exec, execWritePathRetrain]
  case tgenRunEnd => simp [exec, execTgenRunEnd]
  case swap => simp [exec, execSwap]
  case fetchAdd => simp [exec, execFetchAdd]
  case transitForward => simp [exec, execTransitForward]
  case windowWriteOk => simp [exec, execWindowWriteOk]
  case sliceTaken => simp [exec, execSliceTaken]
  case tail => simp [exec, execTail]
  case ringHead => simp [exec, execRingHead]
  case dataPortWrite => simp [exec, execDataPortWrite]
  case chTail => simp [exec, execChTail]
  case chBase => simp [exec, execChBase]
  case interruptSource => simp [exec, execInterruptSource]
  case raise => simp [exec, execRaise]
  case gpioEdge => simp [exec, execGpioEdge]
  case fieldFrame => simp [exec, execFieldFrame]
  case dictRead => simp [exec, execDictRead]
  case dictWrite => simp [exec, execDictWrite]
  case readBlock => simp [exec, execReadBlock]
  case writeBlock => simp [exec, execWriteBlock]
  case entryWrite => simp [exec, execEntryWrite]
  case neighborSolicitation => simp [exec, execNeighborSolicitation]
  case echo => simp [exec, execEcho]
  case duplicateAddressDetectionEnd => simp [exec, execDuplicateAddressDetectionEnd]
  case modeApplied => simp [exec, execModeApplied]
  case attestationReportReady => simp [exec, execAttestationReportReady]
  case vddAonRemoval => simp [exec, execVddAonRemoval]
  case linkLeavesUp => simp [exec, execLinkLeavesUp]
  case coolantStopComplete => simp [exec, execCoolantStopComplete]
  case faultNChange => simp [exec, execFaultNChange]
  case pmbAlertNRise => simp [exec, execPmbAlertNRise]
  case srcCfg => simp [exec, execSrcCfg]
  case threshold => simp [exec, execThreshold]
  case dataPortRegisterWrite => simp [exec, execDataPortRegisterWrite]
  case configurationRequest => simp [exec, execConfigurationRequest]
  case tapInstruction => simp [exec, execTapInstruction]
  case dictionaryAnswers => simp [exec, execDictionaryAnswers]
  case pprBurnComplete => simp +contextual [exec, execPprBurnComplete]
  case pending => simp +contextual [exec, execPending]
  case skewExpiry => simp only [exec, execSkewExpiry, OutKeeps.next]; split <;> simp
  case rampIntervalEnd => simp only [exec, execRampIntervalEnd, OutKeeps.next]; split <;> simp
  case thermalStop => simp only [exec, execThermalStop, OutKeeps.next]; split <;> simp
  case completionRecord => simp only [exec, execCompletionRecord, OutKeeps.next]; split <;> simp
  case recordWrite => simp only [exec, execRecordWrite, OutKeeps.next]; split <;> simp
  case operationDeadlineExpiry => simp only [exec, execOperationDeadlineExpiry, OutKeeps.next]; split <;> simp
  case loadComplete => simp only [exec, execLoadComplete, OutKeeps.next]; split <;> simp
  case checkpointCommitted => simp only [exec, execCheckpointCommitted, OutKeeps.next]; split <;> simp
  case compareAndSwap => simp only [exec, execCompareAndSwap, OutKeeps.next]; split <;> simp
  case collWatchdogExpiry => simp only [exec, execCollWatchdogExpiry, OutKeeps.next]; split <;> simp
  case bucketEnd => simp only [exec, execBucketEnd, OutKeeps.next]; split <;> simp
  case updateSlice => simp only [exec, execUpdateSlice, OutKeeps.next]; split <;> simp
  case globalNormKnown => simp only [exec, execGlobalNormKnown, OutKeeps.next]; split <;> simp
  case normRecord => simp only [exec, execNormRecord, OutKeeps.next]; split <;> simp
  case hostDmaDescriptor => simp only [exec, execHostDmaDescriptor, OutKeeps.next]; split <;> simp
  case targetedSelfTestStart => simp only [exec, execTargetedSelfTestStart, OutKeeps.next]; split <;> simp
  case targetedSelfTestEnd => simp only [exec, execTargetedSelfTestEnd, OutKeeps.next]; split <;> simp
  case laneErrorRateCheckEnd => simp only [exec, execLaneErrorRateCheckEnd, OutKeeps.next]; split <;> simp

theorem step_keeps (s : State) : OutKeeps { s with pending := s.pending.tail } (step s) := by
  intro t ht
  unfold step at ht
  split at ht
  case h_1 hempty =>
    have htick := tick_keeps s (Keeps.refl s)
    rw [← Host.Outcome.next.inj ht]
    exact ⟨htick.1.trans (by rw [hempty]; rfl), htick.2⟩
  case h_2 c rest hcons =>
    have hexec := exec_keeps c { s with pending := rest } t ht
    exact ⟨hexec.1.trans (by rw [hcons]; rfl), hexec.2⟩

/-- Settles O2: memory's form and the stacks' order are kept by every operation of the model, so by every command and by a cycle. -/
theorem everyStepKeepsTheInvariants : Obligations.EveryStepKeepsTheInvariants := by
  intro s t hmem hlevels hstep
  obtain ⟨-, hmemKept, hlevelsKept, -⟩ := step_keeps s t hstep
  exact ⟨hmemKept hmem, hlevelsKept hlevels⟩

/-- Settles O3: only ADVANCE_SVN writes a fused SVN, and only upwards; the queue is written by the step alone. -/
theorem noStepLowersAFusedVersion : Obligations.NoStepLowersAFusedVersion := by
  intro s t hstep
  obtain ⟨hpending, -, -, hsvn⟩ := step_keeps s t hstep
  exact ⟨hsvn, hpending⟩

end Sys2Proof.Machine
end

section
/-! SUPPORT. The owned ranges of a bucket (R286): shards of one chunk each, in the ranks' order. -/

namespace Sys2Proof.Machine

/-- The chunk of R286. -/
def chunkOf (r n : Nat) : Nat := 32 * ((n + 32 * cRanks r - 1) / (32 * cRanks r))

theorem cRanks_pos (r : Nat) : 0 < cRanks r := Nat.succ_pos _

theorem chunkOf_pos {n : Nat} (r : Nat) (hn : 0 < n) : 0 < chunkOf r n := by
  have hranks := cRanks_pos r
  exact Nat.mul_pos (by decide) (Nat.div_pos (by omega) (by omega))

/-- The chunks of all ranks cover the bucket. -/
theorem le_ranks_mul_chunkOf (r n : Nat) : n ≤ cRanks r * chunkOf r n := by
  have hranks := cRanks_pos r
  have hceil := Nat.lt_div_mul_add (a := n + 32 * cRanks r - 1) (b := 32 * cRanks r) (by omega)
  calc n ≤ (n + 32 * cRanks r - 1) / (32 * cRanks r) * (32 * cRanks r) := by omega
    _ = cRanks r * chunkOf r n := by unfold chunkOf; ring

theorem ownedRange_eq (r n k : Nat) :
    ownedRange r n k = (min (k * chunkOf r n) n, min ((k + 1) * chunkOf r n) n - min (k * chunkOf r n) n) := rfl

theorem mem_ownedRange_iff (r n k i : Nat) :
    (ownedRange r n k).1 ≤ i ∧ i < (ownedRange r n k).1 + (ownedRange r n k).2 ↔
      k * chunkOf r n ≤ i ∧ i < min ((k + 1) * chunkOf r n) n := by
  have hstep : k * chunkOf r n ≤ (k + 1) * chunkOf r n := Nat.mul_le_mul_right _ (Nat.le_succ k)
  rw [ownedRange_eq]
  generalize k * chunkOf r n = lo at *
  generalize (k + 1) * chunkOf r n = hi at *
  dsimp only
  omega

theorem ownedRange_empty {r n k : Nat} (h : n ≤ k * chunkOf r n) : (ownedRange r n k).2 = 0 := by
  rw [ownedRange_eq, Nat.min_eq_right h]
  exact Nat.sub_eq_zero_of_le (Nat.min_le_right _ _)

theorem myRange_backup {r : Nat} (n : Nat) (h : cBackup r = true) : (myRange r n).2 = 0 := by
  simp [myRange, h]

theorem ownerOf_eq (r n i : Nat) : ownerOf r n i = i / chunkOf r n := rfl

/-- An index lies in the range of its owner alone. -/
theorem mem_ownedRange_iff_owner {r n i : Nat} (hi : i < n) (k : Nat) :
    (ownedRange r n k).1 ≤ i ∧ i < (ownedRange r n k).1 + (ownedRange r n k).2 ↔ k = ownerOf r n i := by
  have hchunk := chunkOf_pos r (Nat.zero_lt_of_lt hi)
  rw [mem_ownedRange_iff, ownerOf_eq, eq_comm (a := k), Nat.div_eq_iff hchunk, Nat.lt_min, Nat.succ_mul]
  omega

theorem ownerOf_lt {r n i : Nat} (hi : i < n) : ownerOf r n i < cRanks r :=
  (Nat.div_lt_iff_lt_mul (chunkOf_pos r (Nat.zero_lt_of_lt hi))).mpr (Nat.lt_of_lt_of_le hi (le_ranks_mul_chunkOf r n))

/-- Settles O41: a shard is the chunk of its rank, cut at the bucket's end, and an index lies in the chunk of its quotient. -/
theorem ownedRangesShareTheBucketOut : Obligations.OwnedRangesShareTheBucketOut := by
  intro r n _
  exact ⟨fun k i _ => mem_ownedRange_iff r n k i, fun k => ownedRange_empty, myRange_backup n,
    fun i hi => ⟨ownerOf_lt hi, fun k _ => mem_ownedRange_iff_owner hi k⟩⟩

end Sys2Proof.Machine
end

section
/-! SUPPORT. The interrupt controller (R328 to R333): bits of its words, timers, and what a rise and a clear leave pending. -/

namespace Sys2Proof.Machine

/-! Bits. -/

theorem testBit_pred_of_odd {a : Nat} (h : a.testBit 0 = true) (j : Nat) : (a - 1).testBit j = (a.testBit j && decide (j ≠ 0)) := by
  have hodd : a % 2 = 1 := by simpa using h
  cases j with
  | zero =>
    have : (a - 1) % 2 = 0 := by omega
    simp [Nat.testBit_zero, this]
  | succ j =>
    have : (a - 1) / 2 = a / 2 := by omega
    simp [Nat.testBit_succ, this]

theorem testBit_setBit (w i j : Nat) (b : Bool) : (setBit w i b).testBit j = if j = i then b else w.testBit j := by
  unfold setBit
  split
  case isTrue hb =>
    rw [Nat.testBit_or, Nat.testBit_two_pow, hb]
    by_cases hj : i = j <;> simp [hj, eq_comm]
  case isFalse hb =>
    rw [Bool.not_eq_true] at hb
    subst hb
    split
    case isTrue hset =>
      have hhigh : (w / 2 ^ i).testBit 0 = true := by
        rw [Nat.testBit_div_two_pow, Nat.zero_add]
        exact hset
      have hpos : 1 ≤ w / 2 ^ i := by
        rcases Nat.eq_zero_or_pos (w / 2 ^ i) with h0 | h0
        · simp [h0] at hhigh
        · exact h0
      have hw : w - 2 ^ i = 2 ^ i * (w / 2 ^ i - 1) + w % 2 ^ i := by
        have hsplit := Nat.div_add_mod w (2 ^ i)
        rw [Nat.mul_sub, Nat.mul_one]
        have : 2 ^ i ≤ 2 ^ i * (w / 2 ^ i) := Nat.le_mul_of_pos_right _ hpos
        omega
      rw [hw, Nat.testBit_two_pow_mul_add _ (Nat.mod_lt _ (Nat.two_pow_pos i)), testBit_pred_of_odd hhigh,
        Nat.testBit_mod_two_pow, Nat.testBit_div_two_pow]
      by_cases hlt : j < i
      · simp [hlt, Nat.ne_of_lt hlt]
      · by_cases hj : j = i
        · simp [hj]
        · simp [hlt, hj, show j - i + i = j by omega, show j - i ≠ 0 by omega]
    case isFalse hclear =>
      rw [Bool.not_eq_true] at hclear
      by_cases hj : j = i
      · simp [hj, hclear]
      · simp [hj]

theorem mem_bitsOf {w n i : Nat} : i ∈ bitsOf w n ↔ i < n ∧ w.testBit i = true := by simp [bitsOf]

/-- A source's pending bit stands in its group's word. -/
theorem mem_pendingSources {s : State} {n : Nat} : n ∈ pendingSources s ↔ n < 1024 ∧ isPending s n = true := by
  simp only [pendingSources, List.mem_flatMap, List.mem_range, List.mem_map, mem_bitsOf, isPending]
  constructor
  · rintro ⟨g, hg, i, ⟨hi, hbit⟩, rfl⟩
    rw [show (32 * g + i) / 32 = g by omega, show (32 * g + i) % 32 = i by omega]
    exact ⟨by omega, hbit⟩
  · rintro ⟨hn, hbit⟩
    exact ⟨n / 32, by omega, n % 32, ⟨by omega, hbit⟩, by omega⟩

/-! Timers. -/

/-- `t` is `s` but for the hold-off timers that run. -/
def TimersOnly (s t : State) : Prop := ∃ timers, t = { s with irq := { s.irq with timers := timers } }

namespace TimersOnly

variable {s t u : State}

theorem refl (s : State) : TimersOnly s s := ⟨_, rfl⟩

theorem trans (h : TimersOnly s t) (k : TimersOnly t u) : TimersOnly s u := by
  obtain ⟨_, rfl⟩ := h
  obtain ⟨_, rfl⟩ := k
  exact ⟨_, rfl⟩

theorem foldl {α : Type} {f : State → α → State} (hf : ∀ s x, TimersOnly s (f s x)) (xs : List α) (s : State) :
    TimersOnly s (xs.foldl f s) := by
  induction xs generalizing s with
  | nil => exact refl s
  | cons x xs ih => exact (hf s x).trans (ih (f s x))

theorem bar_eq (h : TimersOnly s t) : t.bar = s.bar := by obtain ⟨_, rfl⟩ := h; rfl
theorem dict_eq (h : TimersOnly s t) : t.dict = s.dict := by obtain ⟨_, rfl⟩ := h; rfl
theorem mem_eq (h : TimersOnly s t) : t.mem = s.mem := by obtain ⟨_, rfl⟩ := h; rfl
theorem out_eq (h : TimersOnly s t) : t.out = s.out := by obtain ⟨_, rfl⟩ := h; rfl
theorem cond_eq (h : TimersOnly s t) : t.irq.cond = s.irq.cond := by obtain ⟨_, rfl⟩ := h; rfl
theorem held_eq (h : TimersOnly s t) : t.irq.held = s.irq.held := by obtain ⟨_, rfl⟩ := h; rfl
theorem levelStack_eq (h : TimersOnly s t) (p : Nat) : levelStack t p = levelStack s p := by obtain ⟨_, rfl⟩ := h; rfl

end TimersOnly

theorem startTimer_timersOnly (s : State) (g : Nat) : TimersOnly s (startTimer s g) := by
  unfold startTimer
  split
  · exact .refl s
  · exact ⟨_, rfl⟩

theorem linesRose_timersOnly (before s : State) : TimersOnly s (linesRose before s) := by
  unfold linesRose
  split
  · refine .foldl (fun t p => ?_) _ s
    split
    · exact .foldl startTimer_timersOnly _ t
    · exact .refl t
  · exact .refl s

/-! Pending bits. -/

/-- What `t` has of the controller's own registers, and of its conditions, held sources and stacks, is as in `s`. -/
structure ControllerKept (s t : State) : Prop where
  regs   : ∀ off, 0x200000 ≤ off → off < 0x300000 → bget t off = bget s off
  cond   : t.irq.cond = s.irq.cond
  held   : t.irq.held = s.irq.held
  levels : t.irq.levels = s.irq.levels

namespace ControllerKept

variable {s t u : State}

theorem refl (s : State) : ControllerKept s s := ⟨fun _ _ _ => rfl, rfl, rfl, rfl⟩

theorem trans (h : ControllerKept s t) (k : ControllerKept t u) : ControllerKept s u :=
  ⟨fun off hlo hhi => (k.regs off hlo hhi).trans (h.regs off hlo hhi), k.cond.trans h.cond, k.held.trans h.held,
    k.levels.trans h.levels⟩

theorem foldl {α : Type} {f : State → α → State} (hf : ∀ s x, ControllerKept s (f s x)) (xs : List α) (s : State) :
    ControllerKept s (xs.foldl f s) := by
  induction xs generalizing s with
  | nil => exact refl s
  | cons x xs ih => exact (hf s x).trans (ih (f s x))

theorem of_timersOnly (h : TimersOnly s t) : ControllerKept s t := by
  obtain ⟨_, rfl⟩ := h
  exact ⟨fun _ _ _ => rfl, rfl, rfl, rfl⟩

theorem isPending_eq (h : ControllerKept s t) {n : Nat} (hn : n < 1024) : isPending t n = isPending s n := by
  unfold isPending pendWord
  rw [h.regs _ (by simp only [pendOff]; omega) (by simp only [pendOff]; omega)]

theorem condOf_eq (h : ControllerKept s t) (n : Nat) : condOf t n = condOf s n := by
  unfold condOf
  rw [h.cond]

end ControllerKept

theorem sendMsix_controllerKept (s : State) (n : Nat) : ControllerKept s (sendMsix s n) := by
  unfold sendMsix
  dsimp only
  split
  · exact ⟨fun off _ hhi => bget_bset_ne _ _ (by simp only [pbaOff]; omega), rfl, rfl, rfl⟩
  · exact .trans (t := emit s (.msix (srcVector s n))) ⟨fun _ _ _ => rfl, rfl, rfl, rfl⟩ (.of_timersOnly (startTimer_timersOnly _ _))

theorem msixOnRise_controllerKept (s : State) (n : Nat) : ControllerKept s (msixOnRise s n) := by
  unfold msixOnRise
  split
  · exact sendMsix_controllerKept s n
  · exact .refl s

/-- The pending bits after one of them is written. -/
theorem isPending_bset (s : State) {n m : Nat} (hn : n < 1024) (hm : m < 1024) (b : Bool) :
    isPending (bset s (pendOff (n / 32)) (setBit (pendWord s (n / 32)) (n % 32) b)) m = if m = n then b else isPending s m := by
  unfold isPending pendWord
  by_cases hg : m / 32 = n / 32
  · rw [hg, bget_bset_same, testBit_setBit]
    by_cases hmn : m = n
    · simp [hmn]
    · rw [if_neg (by omega), if_neg hmn]
  · rw [bget_bset_ne _ _ (by simp only [pendOff]; omega), if_neg (fun h => hg (by rw [h]))]

/-- A rise sets the source's own bit, and no bit of an unlisted one (R328). -/
theorem isPending_raise (s : State) {n m : Nat} (hn : n < 1024) (hm : m < 1024) :
    isPending (raise s n) m = (isPending s m || (m == n && srcListed n)) := by
  unfold raise
  split
  case isTrue h =>
    rw [Bool.or_eq_true, Bool.not_eq_true'] at h
    by_cases hmn : m = n
    · subst hmn
      rcases h with h | h <;> simp [h]
    · simp [hmn]
  case isFalse h =>
    rw [Bool.or_eq_true, Bool.not_eq_true', not_or, Bool.not_eq_true, Bool.not_eq_false] at h
    have hset : isPending (bset s (pendOff (n / 32)) (setBit (pendWord s (n / 32)) (n % 32) true)) m =
        (isPending s m || (m == n && srcListed n)) := by
      rw [isPending_bset s hn hm]
      by_cases hmn : m = n <;> simp [hmn, h.2]
    dsimp only
    split
    · exact hset
    · split
      · exact hset
      · refine ((ControllerKept.trans ?_ (.of_timersOnly (linesRose_timersOnly _ _))).isPending_eq hm).trans hset
        exact msixOnRise_controllerKept _ _

theorem cond_raise (s : State) (n : Nat) : (raise s n).irq.cond = s.irq.cond := by
  unfold raise
  dsimp only
  split
  · rfl
  · split
    · rfl
    · split
      · rfl
      · exact (linesRose_timersOnly _ _).cond_eq.trans (msixOnRise_controllerKept _ _).cond

theorem condOf_raise (s : State) (n m : Nat) : condOf (raise s n) m = condOf s m := by
  unfold condOf
  rw [cond_raise]

theorem condOf_setCond (s : State) (n : Nat) (b : Bool) : condOf (setCond s n b) n = b := by
  have hset : ((SMap.get (SMap.set s.irq.cond (n / 32) (setBit (SMap.get s.irq.cond (n / 32) 0) (n % 32) b) 0) (n / 32) 0).testBit
      (n % 32)) = b := by rw [SMap.get_set_same, testBit_setBit, if_pos rfl]
  unfold setCond
  dsimp only
  split
  · exact (condOf_raise _ n n).trans hset
  · exact hset

theorem isPending_setCond (s : State) {n m : Nat} (hn : n < 1024) (hm : m < 1024) (b : Bool) :
    isPending (setCond s n b) m = (isPending s m || (m == n && srcListed n && b)) := by
  unfold setCond
  dsimp only
  split
  case isTrue hb =>
    rw [isPending_raise _ hn hm, hb, Bool.and_true]
    rfl
  case isFalse hb =>
    rw [Bool.not_eq_true] at hb
    simp only [hb, Bool.and_false, Bool.or_false]
    rfl

theorem isPending_raiseAll (l : List Nat) (s : State) {m : Nat} (hl : ∀ n ∈ l, n < 1024) (hm : m < 1024) :
    isPending (raiseAll s l) m = (isPending s m || (l.contains m && srcListed m)) := by
  unfold raiseAll
  induction l generalizing s with
  | nil => simp
  | cons n l ih =>
    rw [List.foldl_cons, ih _ (fun x hx => hl x (List.mem_cons_of_mem _ hx)), isPending_raise s (hl n (List.mem_cons_self ..)) hm,
      List.contains_cons]
    by_cases hmn : m = n
    · subst hmn
      cases isPending s m <;> cases srcListed m <;> simp
    · have hne : (m == n) = false := by simpa using hmn
      simp [hne]

theorem srcListed_of_isLevelSrc {n : Nat} (h : isLevelSrc n = true) : srcListed n = true := by
  unfold isLevelSrc at h
  unfold srcListed
  generalize n / 32 = g at h ⊢
  generalize n % 32 = i at h ⊢
  simp only [Bool.or_eq_true, Bool.and_eq_true, beq_iff_eq, decide_eq_true_eq, or_assoc] at h
  rcases h with rfl | rfl | ⟨rfl, h⟩ | ⟨rfl, h⟩ | ⟨rfl, h⟩ | ⟨rfl, rfl⟩ | ⟨⟨rfl, h⟩, k⟩ | ⟨rfl, rfl⟩
  all_goals simp
  all_goals omega

/-- A cleared bit stays clear unless the condition of a level source persists (R328). -/
theorem isPending_clearPending (s : State) {n m : Nat} (hn : n < 1024) (hm : m < 1024) :
    isPending (clearPending s n) m = if m = n then isLevelSrc n && condOf s n else isPending s m := by
  unfold clearPending
  dsimp only
  split
  case isTrue h =>
    rw [isPending_raise _ hn hm]
    refine (congrArg (· || _) (isPending_bset s hn hm false)).trans ?_
    rw [Bool.and_eq_true] at h
    have hcond : condOf s n = true := h.2
    by_cases hmn : m = n
    · simp [hmn, h.1, hcond, srcListed_of_isLevelSrc h.1]
    · simp [hmn]
  case isFalse h =>
    refine (isPending_bset s hn hm false).trans ?_
    have hpersists : (isLevelSrc n && condOf s n) = false := Bool.eq_false_iff.mpr h
    simp [hpersists]

theorem condOf_clearPending (s : State) (n m : Nat) : condOf (clearPending s n) m = condOf s m := by
  unfold clearPending
  dsimp only
  split
  · exact condOf_raise _ n m
  · rfl

theorem clearPending_signalsOnly (s : State) (n : Nat) : SignalsOnly s (clearPending s n) := by
  unfold clearPending
  dsimp only
  split
  · exact SignalsOnly.trans ⟨_, _, _, rfl⟩ (raise_signalsOnly _ n)
  · exact ⟨_, _, _, rfl⟩

theorem isPending_foldl_clearPending (l : List Nat) (s : State) {m : Nat} (hl : ∀ n ∈ l, n < 1024) (hm : m < 1024) :
    isPending (l.foldl clearPending s) m = if m ∈ l then isLevelSrc m && condOf s m else isPending s m := by
  induction l generalizing s with
  | nil => simp
  | cons n l ih =>
    rw [List.foldl_cons, ih _ (fun x hx => hl x (List.mem_cons_of_mem _ hx)), condOf_clearPending,
      isPending_clearPending s (hl n (List.mem_cons_self ..)) hm]
    by_cases hmn : m = n
    · simp [hmn]
    · simp [hmn]

theorem SignalsOnly.dict_eq {s t : State} (h : SignalsOnly s t) : t.dict = s.dict := by
  obtain ⟨_, _, _, rfl⟩ := h
  rfl

end Sys2Proof.Machine
end

section
/-! SUPPORT. Doorbells (R314, R320) and the interrupt controller's registers (R328 to R333). -/

namespace Sys2Proof.Machine

theorem sameBarBut_bset (s : State) (off v : Nat) : SameBarBut [off] s (bset s off v) :=
  fun o ho => bget_bset_ne s v (by simpa using ho)

theorem SameBarBut.of_bar_eq {l : List Nat} {s t : State} (h : t.bar = s.bar) : SameBarBut l s t := by
  intro off _
  unfold bget
  rw [h]

/-- Settles O49: a doorbell below SIZE is one BAR0 register written, the others one counter counted. -/
theorem doorbellsSetTheirIndexOrAreCounted : Obligations.DoorbellsSetTheirIndexOrAreCounted := by
  unfold Obligations.DoorbellsSetTheirIndexOrAreCounted
  intro s v hclock hbars
  refine ⟨fun q => ⟨fun hlt => ?_, fun hge => ?_⟩, fun r => ⟨fun hlt => ?_, fun hge => ?_⟩⟩
  · refine ⟨_, by simp [exec, execTail, hclock, hbars, Nat.not_le.mpr hlt]; rfl, ?_⟩
    exact ⟨bget_bset_same .., sameBarBut_bset _ _ _, rfl, rfl, rfl, rfl⟩
  · simp [exec, execTail, hclock, hbars, hge, doorbellError]
  · refine ⟨_, by simp [exec, execRingHead, hclock, hbars, Nat.not_le.mpr hlt]; rfl, ?_⟩
    exact ⟨bget_bset_same .., sameBarBut_bset _ _ _, rfl⟩
  · simp [exec, execRingHead, hclock, hbars, hge, doorbellError]

/-! Lines and levels. -/

theorem le_foldl_max (f : Nat → Nat) (l : List Nat) (m : Nat) : m ≤ l.foldl (fun m n => max m (f n)) m := by
  induction l generalizing m with
  | nil => simp
  | cons n l ih => exact le_trans (le_max_left ..) (ih _)

/-- A maximum over a list exceeds `t` exactly when its start or one of its members does. -/
theorem lt_foldl_max {f : Nat → Nat} {l : List Nat} {m t : Nat} :
    t < l.foldl (fun m n => max m (f n)) m ↔ t < m ∨ ∃ n ∈ l, t < f n := by
  induction l generalizing m with
  | nil => simp
  | cons n l ih => simp [ih, or_assoc]

/-- WIN_LEVEL exceeds `t` exactly when a counted source of the processor does (R330). -/
theorem lt_winLevel {s : State} {p t : Nat} :
    t < winLevel s p ↔ ∃ n ∈ pendingSources s, isCounted s n = true ∧ srcTarget s n = p ∧ t < srcPrio s n := by
  unfold winLevel
  rw [lt_foldl_max]
  simp [and_assoc]

theorem line_host_iff {s : State} : line s 5 = true ↔ threshold s 5 < winLevel s 5 := by simp [line]

theorem line_iff {s : State} {p : Nat} (hp : p ≠ 5) :
    line s p = true ↔ threshold s p < winLevel s p ∧ runLevel s p < winLevel s p := by simp [line, hp]

/-- The claimed level stands on top of the stack, and the line drops (R331). -/
theorem claim_of_line {s : State} {p : Fin 6} (hserves : irqServes s = true) (hp : p ≠ 5) (hline : line s p = true) :
    ∃ t, exec (.claim p) s = .next t ∧ levelStack t p = winLevel s p :: levelStack s p ∧
      runLevel t p = winLevel s p ∧ line t p = false ∧ t.out = s.out ++ [.claimed p (winLevel s p)] ∧
      (∀ q, q ≠ p.val → levelStack t q = levelStack s q) ∧ t.bar = s.bar ∧ t.dict = s.dict ∧ t.mem = s.mem := by
  have hp5 : p.val ≠ 5 := fun h => hp (Fin.ext h)
  let claimed : State := emit { s with irq := { s.irq with
    levels := SMap.set s.irq.levels p.val (winLevel s p.val :: levelStack s p.val) [] } } (.claimed p.val (winLevel s p.val))
  have hstack : levelStack claimed p = winLevel s p :: levelStack s p := SMap.get_set_same ..
  have hrun : runLevel claimed p = winLevel s p := congrArg (·.headD 0) hstack
  refine ⟨claimed, by simp [exec, execClaim, hserves, hp5, hline, claimed], hstack, hrun, ?_, rfl,
    fun q hq => SMap.get_set_ne _ _ _ hq, rfl, rfl, rfl⟩
  rw [← Bool.not_eq_true, line_iff hp5, hrun]
  exact fun h => Nat.lt_irrefl _ h.2

/-- A claim without a line reads 0 and changes nothing; so does the host's (R331). -/
theorem claim_without_line {s : State} {p : Fin 6} (hserves : irqServes s = true) (h : p = 5 ∨ line s p = false) :
    exec (.claim p) s = .next (emit s (.claimed p 0)) := by
  rcases h with rfl | h
  · simp [exec, execClaim, hserves]
  · simp [exec, execClaim, hserves, h]

/-- An end of interrupt takes the top off the stack (R331). -/
theorem eoi_pops {s : State} {p : Fin 6} (hserves : irqServes s = true) (hp : p ≠ 5) :
    ∃ t, exec (.eoi p) s = .next t ∧ levelStack t p = (levelStack s p).drop 1 ∧
      (∀ q, q ≠ p.val → levelStack t q = levelStack s q) ∧ t.bar = s.bar ∧ t.dict = s.dict ∧ t.mem = s.mem := by
  have hp5 : p.val ≠ 5 := fun h => hp (Fin.ext h)
  have honly := linesRose_timersOnly s { s with irq := { s.irq with
    levels := SMap.set s.irq.levels p.val ((levelStack s p.val).drop 1) [] } }
  refine ⟨_, congrArg Host.Outcome.next (if_neg (by simp [hserves, hp5])), ?_, fun q hq => ?_, honly.bar_eq, honly.dict_eq, honly.mem_eq⟩
  · exact (honly.levelStack_eq _).trans (SMap.get_set_same ..)
  · exact (honly.levelStack_eq _).trans (SMap.get_set_ne _ _ _ hq)

/-- Stacks that rise strictly stay so when one of them is replaced by one that does. -/
theorem LevelsOrdered.of_changed {s t : State} {p : Nat} (h : LevelsOrdered s) (hp : StackOrdered (levelStack t p))
    (hne : ∀ q, q ≠ p → levelStack t q = levelStack s q) : LevelsOrdered t := by
  intro q
  by_cases hq : q = p
  · exact hq ▸ hp
  · exact (hne q hq).symm ▸ h q

/-- Settles O51: a claim puts WIN_LEVEL, which is above RUN_LEVEL and at most 15, on the stack, and an EOI takes the top off. -/
theorem claimPushesAndEoiPops : Obligations.ClaimPushesAndEoiPops := by
  unfold Obligations.ClaimPushesAndEoiPops
  intro s hserves
  refine ⟨fun p hp => ⟨claim_of_line hserves hp, fun h => claim_without_line hserves (.inr h), eoi_pops hserves hp, ?_,
    fun h => ((line_iff (fun h5 => hp (Fin.ext h5))).mp h).2⟩, ⟨claim_without_line hserves (.inl rfl), ?_⟩, fun h => ?_, ?_⟩
  · intro i hi hord
    have hstacks := (levelsOrdered_iff s).mp hord
    rcases List.mem_pair.mp hi with rfl | rfl
    · by_cases hline : line s p = true
      · obtain ⟨t, ht, htop, -, -, -, hother, -⟩ := claim_of_line hserves hp hline
        have hnew : StackOrdered (levelStack t p) := by
          rw [htop]
          exact claimed_stackOrdered (fun h5 => hp (Fin.ext h5)) hline (hstacks p)
        exact ⟨t, ht, hord.of_changed hnew hother, hnew.length_le⟩
      · rw [Bool.not_eq_true] at hline
        exact ⟨_, claim_without_line hserves (.inr hline), hord, (hstacks p).length_le⟩
    · obtain ⟨t, ht, htop, hother, -⟩ := eoi_pops hserves hp
      have hnew : StackOrdered (levelStack t p) := by
        rw [htop]
        exact (hstacks p).drop 1
      exact ⟨t, ht, hord.of_changed hnew hother, hnew.length_le⟩
  · simp [exec, execEoi, hserves]
  · rw [runLevel, h]
    rfl
  · rw [line_host_iff, lt_winLevel]

end Sys2Proof.Machine
end

section
/-! SUPPORT. Rises and clears of sources (R328, R329), their settings and the hold-off timers (R329, R332, R333). -/

namespace Sys2Proof.Machine

/-! Words of written bits. -/

/-- The sources of group `g` that a word names. -/
theorem contains_groupBits {v : BitVec 32} {g m : Nat} :
    ((bitsOf v.toNat 32).map (fun i => 32 * g + i)).contains m = (m / 32 == g && v.getLsbD (m % 32)) := by
  rw [Bool.eq_iff_iff, List.contains_iff_mem, List.mem_map, Bool.and_eq_true, beq_iff_eq]
  simp only [mem_bitsOf, BitVec.testBit_toNat]
  constructor
  · rintro ⟨i, ⟨hi, hbit⟩, rfl⟩
    rw [show (32 * g + i) / 32 = g by omega, show (32 * g + i) % 32 = i by omega]
    exact ⟨rfl, hbit⟩
  · rintro ⟨rfl, hbit⟩
    exact ⟨m % 32, ⟨by omega, hbit⟩, by omega⟩

theorem contains_filter {l : List Nat} {f : Nat → Bool} {m : Nat} : (l.filter f).contains m = (l.contains m && f m) := by
  rw [Bool.eq_iff_iff, Bool.and_eq_true, List.contains_iff_mem, List.contains_iff_mem, List.mem_filter]

/-- A source that a word of group `g` names is one of the 1,024. -/
theorem lt_of_mem_groupBits {v : BitVec 32} {g : Fin 32} {n : Nat}
    (hn : n ∈ (bitsOf v.toNat 32).map (fun i => 32 * g.val + i)) : n < 1024 := by
  obtain ⟨i, hi, rfl⟩ := List.mem_map.mp hn
  have := (mem_bitsOf.mp hi).1
  omega

theorem raiseAll_signalsOnly (s : State) (l : List Nat) : SignalsOnly s (raiseAll s l) := .foldl raise_signalsOnly l s

/-- Settles O52: one lemma for each way a pending bit is set or cleared. -/
theorem sourcesPendAndAreCleared : Obligations.SourcesPendAndAreCleared := by
  unfold Obligations.SourcesPendAndAreCleared
  intro s
  refine ⟨fun n c hup hsoft => ?_, fun w g v hserves => ⟨?_, ?_⟩, fun n hclock hpin => ?_⟩
  · refine ⟨_, congrArg Host.Outcome.next (if_neg (by simp [hup, hsoft])), ?_⟩
    by_cases hlevel : isLevelSrc n.val = true
    · rw [if_pos hlevel]
      refine ⟨(setCond_signalsOnly s _ _).mem_eq, (setCond_signalsOnly s _ _).dict_eq, fun m hm => ?_, fun _ => condOf_setCond s _ _⟩
      rw [isPending_setCond s n.isLt hm, hlevel, Bool.not_true, Bool.or_false]
    · rw [if_neg hlevel]
      refine ⟨(raise_signalsOnly s _).mem_eq, (raise_signalsOnly s _).dict_eq, fun m hm => ?_, fun h => absurd h hlevel⟩
      rw [isPending_raise s n.isLt hm, Bool.eq_false_iff.mpr hlevel, Bool.not_false, Bool.or_true, Bool.and_true]
  · refine ⟨_, congrArg Host.Outcome.next (if_neg (by simp [hserves])), (raiseAll_signalsOnly s _).mem_eq,
      (raiseAll_signalsOnly s _).dict_eq, fun m hm => ?_⟩
    rw [isPending_raiseAll _ s (fun n hn => lt_of_mem_groupBits (List.mem_of_mem_filter hn)) hm, contains_filter, contains_groupBits]
  · have hall := SignalsOnly.foldl clearPending_signalsOnly
      (((bitsOf v.toNat 32).map (fun i => 32 * g.val + i)).filter (fun n => mayWrite s w n && isPending s n)) s
    refine ⟨_, congrArg Host.Outcome.next (if_neg (by simp [hserves])), hall.mem_eq, hall.dict_eq, fun m hm => ?_⟩
    rw [isPending_foldl_clearPending _ s (fun n hn => lt_of_mem_groupBits (List.mem_of_mem_filter hn)) hm]
    simp only [← List.contains_iff_mem, contains_filter, contains_groupBits]
    cases isPending s m
    · simp
    · cases (m / 32 == g.val && v.getLsbD (m % 32)) <;> cases mayWrite s w m <;> simp
  · refine ⟨_, congrArg Host.Outcome.next (if_pos (by simp [hclock, hpin])), (raise_signalsOnly s _).mem_eq,
      (raise_signalsOnly s _).dict_eq, fun m hm => ?_⟩
    have hlisted : srcListed (src 24 n.val) = true := by
      have hn := n.isLt
      simp only [srcListed, src]
      rw [show (32 * 24 + n.val) / 32 = 24 by omega, show (32 * 24 + n.val) % 32 = n.val by omega]
      simp
      omega
    rw [isPending_raise s (by simp only [src]; omega) hm, hlisted, Bool.and_true]

/-! Settings. -/

/-- What stands in a source's word after its write: PRIO, TARGET and VECTOR as written (Table 15.12). -/
theorem srcCfg_fields (v : Nat) :
    fld (fld v 6 0 + fld v 13 8 * 2 ^ 8) 3 0 = fld v 3 0 ∧ fld (fld v 6 0 + fld v 13 8 * 2 ^ 8) 6 4 = fld v 6 4 ∧
      fld (fld v 6 0 + fld v 13 8 * 2 ^ 8) 13 8 = fld v 13 8 := by
  simp only [fld, Nat.reduceAdd, Nat.reduceSub, Nat.reducePow, Nat.div_one, pow_zero]
  refine ⟨?_, ?_, ?_⟩ <;> omega

theorem bget_of_bar_eq {s t : State} (h : t.bar = s.bar) (off : Nat) : bget t off = bget s off := by
  unfold bget
  rw [h]

/-- A register of the controller that is written and lets lines rise. -/
theorem linesRose_bset (s : State) (off v : Nat) :
    bget (linesRose s (bset s off v)) off = v ∧ SameBarBut [off] s (linesRose s (bset s off v)) ∧
      (linesRose s (bset s off v)).dict = s.dict ∧ (linesRose s (bset s off v)).mem = s.mem := by
  have honly := linesRose_timersOnly s (bset s off v)
  refine ⟨(bget_of_bar_eq honly.bar_eq off).trans (bget_bset_same ..), fun o ho => ?_, honly.dict_eq, honly.mem_eq⟩
  exact (bget_of_bar_eq honly.bar_eq o).trans (sameBarBut_bset s off v o ho)

theorem execHoldoffExpiry_run {s : State} {g : Fin 32} {t0 : Nat} (hclock : clockOn s = true)
    (htimer : SMap.find s.irq.timers g = some t0) (hdue : t0 ≤ now s) :
    ∃ t, exec (.holdoffExpiry g) s = .next t ∧ SMap.get t.irq.held g 0 = 0 ∧ (∀ m, m < 1024 → isPending t m = isPending s m) ∧
      t.dict = s.dict ∧ t.mem = s.mem := by
  let counted : State := { s with irq := { s.irq with
    timers := SMap.drop s.irq.timers g.val
    held := SMap.set s.irq.held g.val 0 0 } }
  have hrun : exec (.holdoffExpiry g) s = .next ((hostSources counted g.val).foldl sendMsix (linesRose s counted)) := by
    simp only [exec, execHoldoffExpiry, htimer, hclock, hdue, decide_true, Bool.and_self, if_true, counted]
  have hkept : ControllerKept counted ((hostSources counted g.val).foldl sendMsix (linesRose s counted)) :=
    .trans (.of_timersOnly (linesRose_timersOnly s counted)) (.foldl sendMsix_controllerKept _ _)
  have honly : SignalsOnly counted ((hostSources counted g.val).foldl sendMsix (linesRose s counted)) :=
    .trans (linesRose_signalsOnly s counted) (.foldl sendMsix_signalsOnly _ _)
  refine ⟨_, hrun, ?_, fun m hm => hkept.isPending_eq hm, honly.dict_eq, honly.mem_eq⟩
  rw [hkept.held]
  exact SMap.get_set_same ..

/-- The state with vector `v` unmasked, and the one with its waiting message sent (R333). -/
def unmasked (s : State) (v : Nat) : State := bset s (msixCtl v) (setBit (bget s (msixCtl v)) 0 false)

def waitingSent (s : State) (v : Nat) : State :=
  let t := emit (bset s pbaOff (setBit (bget s pbaOff) v false)) (.msix v)
  { t with irq := { t.irq with pba := SMap.set t.irq.pba v 0 0 } }

theorem waitingSent_timersOnly (s : State) (v g : Nat) :
    TimersOnly (waitingSent s v) (if g = 0 then waitingSent s v else startTimer (waitingSent s v) (g - 1)) := by
  split
  · exact .refl _
  · exact startTimer_timersOnly _ _

theorem bget_unmasked_ctl (s : State) (v : Nat) : (bget (unmasked s v) (msixCtl v)).testBit 0 = false := by
  rw [unmasked, bget_bset_same, testBit_setBit, if_pos rfl]

theorem msixCtl_ne_pbaOff (v : Fin 64) : msixCtl v ≠ pbaOff := by
  have := v.isLt
  simp only [msixCtl, pbaOff]
  omega

theorem bget_unmasked_pba (s : State) (v : Fin 64) : bget (unmasked s v) pbaOff = bget s pbaOff :=
  bget_bset_ne _ _ (msixCtl_ne_pbaOff v).symm

theorem bget_waitingSent_pba (s : State) (v : Nat) : (bget (waitingSent s v) pbaOff).testBit v = false := by
  have h : bget (waitingSent s v) pbaOff = setBit (bget s pbaOff) v false := bget_bset_same ..
  rw [h, testBit_setBit, if_pos rfl]

theorem bget_waitingSent_ctl (s : State) (v : Fin 64) : bget (waitingSent s v) (msixCtl v) = bget s (msixCtl v) :=
  bget_bset_ne s _ (msixCtl_ne_pbaOff v)

theorem exec_msiXUnmask {s : State} (v : Fin 64) (hclock : clockOn s = true) :
    exec (.msiXUnmask v) s = .next (if (bget (unmasked s v) pbaOff).testBit v then
      (let g := SMap.get (unmasked s v).irq.pba v.val 0
       if g = 0 then waitingSent (unmasked s v) v else startTimer (waitingSent (unmasked s v) v) (g - 1))
      else unmasked s v) :=
  congrArg Host.Outcome.next (if_neg (by simp [hclock]))

theorem execMsiXUnmask_run {s : State} (v : Fin 64) (hclock : clockOn s = true) :
    ∃ t, exec (.msiXUnmask v) s = .next t ∧ (bget t (msixCtl v)).testBit 0 = false ∧ (bget t pbaOff).testBit v = false ∧
      t.dict = s.dict ∧ t.mem = s.mem ∧ t.out = (if (bget s pbaOff).testBit v then s.out ++ [.msix v] else s.out) := by
  refine ⟨_, exec_msiXUnmask v hclock, ?_⟩
  rw [bget_unmasked_pba]
  by_cases hwaits : (bget s pbaOff).testBit v.val = true
  · rw [if_pos hwaits, if_pos hwaits]
    have htimers := waitingSent_timersOnly (unmasked s v) v (SMap.get (unmasked s v).irq.pba v.val 0)
    refine ⟨?_, ?_, htimers.dict_eq, htimers.mem_eq, htimers.out_eq⟩
    · rw [bget_of_bar_eq htimers.bar_eq, bget_waitingSent_ctl, bget_unmasked_ctl]
    · rw [bget_of_bar_eq htimers.bar_eq, bget_waitingSent_pba]
  · rw [if_neg hwaits, if_neg hwaits]
    exact ⟨bget_unmasked_ctl s v, by rw [bget_unmasked_pba]; exact Bool.eq_false_iff.mpr hwaits, rfl, rfl, rfl⟩

theorem holdoffNs_effHoldoff (s : State) (p : Path) (g : Fin 32) (v : Nat) : holdoffNs (answered (effHoldoff p g v s) p) g = v := by
  have hkey : dkey (0x2180 + g.val) 1 ≠ dkey 0x2030 (9 + g.val) := by
    have := g.isLt
    simp only [dkey]
    omega
  rw [holdoffNs, reg_emit, effHoldoff, reg_setReg_ne _ _ hkey, reg_setReg_same]

/-- Settles O53: each setting is one word stored, after which lines may rise and only timers start. -/
theorem interruptSettingsAndHoldoff : Obligations.InterruptSettingsAndHoldoff := by
  unfold Obligations.InterruptSettingsAndHoldoff
  intro s
  refine ⟨fun hserves => ⟨fun w n v hmay => ⟨fun htarget => ?_, fun htarget => ?_⟩, fun w p v => ?_⟩, fun p g v hok => ?_,
    fun g t0 => execHoldoffExpiry_run, fun v => execMsiXUnmask_run v⟩
  · obtain ⟨hword, hbar, hdict, hmem⟩ := linesRose_bset s (srcCfgOff n.val) (fld v.toNat 6 0 + fld v.toNat 13 8 * 2 ^ 8)
    obtain ⟨hprio, htgt, hvec⟩ := srcCfg_fields v.toNat
    refine ⟨_, congrArg Host.Outcome.next (if_neg (by simp [hserves, hmay]; omega)), ?_, ?_, ?_, hbar, hdict, hmem⟩
    · simp only [srcPrio, srcCfg, hword, hprio]
    · simp only [srcTarget, srcCfg, hword, htgt]
    · simp only [srcVector, srcCfg, hword, hvec]
  · exact congrArg Host.Outcome.next (if_pos (by simp [htarget]))
  · obtain ⟨hword, hbar, hdict, hmem⟩ := linesRose_bset s (thrOff p.val) (v.toNat % 16)
    refine ⟨_, congrArg Host.Outcome.next (if_neg (by simp [hserves])), ?_, hbar, hdict, hmem⟩
    simp only [threshold, hword, fld]
    simp
  · refine ⟨_, guarded_of_writeOk _ hok, holdoffNs_effHoldoff s p g v.toNat, ?_, fun i sub hne => ?_, rfl, rfl⟩
    · rw [reg_emit, effHoldoff, reg_setReg_same]
      by_cases hv : v = 0
      · simp [hv]
      · rw [if_neg hv, if_neg (fun h : v.toNat = 0 => hv (BitVec.eq_of_toNat_eq h))]
    · simp only [List.mem_cons, List.not_mem_nil, or_false, not_or] at hne
      rw [reg_emit, effHoldoff, reg_setReg_ne _ _ hne.2, reg_setReg_ne _ _ hne.1]

end Sys2Proof.Machine
end

section
/-! SUPPORT. Queue and ring configuration, RESUME and FLUSH (R312, R317, R319). -/

namespace Sys2Proof.Machine

/-! Queue configuration. -/

/-- BASE and HOST are the first word of a configuration. -/
theorem qf_base_host_iff {c v : Nat} : qf c 0 63 0 = qf v 0 63 0 ↔ qBase c = qBase v ∧ qHost c = qHost v := by
  have hword : ∀ x, qf x 0 63 0 = x % 2 ^ 64 := fun x => by simp [qf, fld]
  have hbase : ∀ x, qBase x = x % 2 ^ 63 := fun x => by simp [qBase, qf, fld]
  have hhost : ∀ x, qHost x = (x / 2 ^ 63 % 2 == 1) := fun x => by simp [qHost, qf, fld]
  rw [hword, hword, hbase, hbase, hhost, hhost, Bool.eq_iff_iff, beq_iff_eq, beq_iff_eq]
  omega

/-- The head and tail of a queue stay exactly when BASE, HOST and SIZE do (R312). -/
theorem configKeeps_iff {c v : Nat} : (qf c 0 63 0 = qf v 0 63 0 && qSize c = qSize v : Prop) ↔
    qBase c = qBase v ∧ qHost c = qHost v ∧ qSize c = qSize v := by
  simp only [Bool.and_eq_true, decide_eq_true_eq, qf_base_host_iff, and_assoc]

theorem sameEntriesBut_setReg (s : State) (i sub v : Nat) : SameEntriesBut [dkey i sub] s (setReg s i sub v) :=
  fun _ _ h => reg_setReg_ne s v (by simpa using h)

theorem qHeadOff_ne_qTailOff (q : Nat) : qHeadOff q ≠ qTailOff q := by simp only [qHeadOff, qTailOff]; omega

/-- A configuration that moves the slots puts head and tail back to 0, and drops what was read of them. -/
theorem effQueueConfig_moved {s : State} {q v : Nat} (h : ¬ (qBase (qCfg s q) = qBase v ∧ qHost (qCfg s q) = qHost v ∧ qSize (qCfg s q) = qSize v)) :
    ∃ host, effQueueConfig q v s = { bset (bset (setReg s (0x2100 + q) 1 v) (qHeadOff q) 0) (qTailOff q) 0 with hostIf := host } :=
  ⟨_, if_neg (fun hkeeps => h (configKeeps_iff.mp hkeeps))⟩

theorem effQueueConfig_same {s : State} {q v : Nat} (h : qBase (qCfg s q) = qBase v ∧ qHost (qCfg s q) = qHost v ∧ qSize (qCfg s q) = qSize v) :
    effQueueConfig q v s = setReg s (0x2100 + q) 1 v :=
  if_pos (configKeeps_iff.mpr h)

theorem queueConfig_accepted {s : State} {p : Path} {q : QueueId} {v : BitVec 128}
    (hok : WriteOk s p (0x2100 + q) 1 16 v.toNat (preQueueConfig q v.toNat s)) :
    ∃ t, exec (.queueConfig p q v) s = .next t ∧ qCfg t q = v.toNat ∧
      ((qBase (qCfg s q) = qBase v.toNat ∧ qHost (qCfg s q) = qHost v.toNat ∧ qSize (qCfg s q) = qSize v.toNat) →
        qHead t q = qHead s q ∧ qTail t q = qTail s q) ∧
      ((qBase (qCfg s q) ≠ qBase v.toNat ∨ qHost (qCfg s q) ≠ qHost v.toNat ∨ qSize (qCfg s q) ≠ qSize v.toNat) →
        qHead t q = 0 ∧ qTail t q = 0) ∧
      SameEntriesBut [dkey (0x2100 + q) 1] s t ∧ SameBarBut [qHeadOff q, qTailOff q] s t ∧ t.mem = s.mem ∧ t.ops = s.ops := by
  refine ⟨_, guarded_of_writeOk _ hok, ?_⟩
  by_cases hsame : qBase (qCfg s q) = qBase v.toNat ∧ qHost (qCfg s q) = qHost v.toNat ∧ qSize (qCfg s q) = qSize v.toNat
  · rw [effQueueConfig_same hsame]
    refine ⟨reg_setReg_same .., fun _ => ⟨rfl, rfl⟩, fun hne => absurd hsame (by tauto), sameEntriesBut_setReg s _ _ _,
      fun _ _ => rfl, rfl, rfl⟩
  · obtain ⟨host, heff⟩ := effQueueConfig_moved hsame
    rw [heff]
    refine ⟨reg_setReg_same .., fun h => absurd h hsame, fun _ => ⟨?_, bget_bset_same ..⟩, sameEntriesBut_setReg s _ _ _,
      fun off hoff => ?_, rfl, rfl⟩
    · exact (bget_bset_ne _ _ (qHeadOff_ne_qTailOff q)).trans (bget_bset_same ..)
    · simp only [List.mem_cons, List.not_mem_nil, or_false, not_or] at hoff
      exact (bget_bset_ne _ _ hoff.2).trans (bget_bset_ne _ _ hoff.1)

/-- Another queue's stream is not taken (R312). -/
theorem preQueueConfig_conflict {s : State} {q v : Nat} (hstate : qState s q = 0 ∨ qState s q = 3)
    (htaken : streamTaken s q v = true) : preQueueConfig q v s = dConflict := by
  have hquiet : ¬ (qState s q = 1 || qState s q = 2) = true := by
    rcases hstate with h | h <;> simp [h]
  exact (if_neg hquiet).trans (if_pos htaken)

/-! Ring configuration. -/

theorem ringConfig_accepted {s : State} {p : Path} {r : RingId} {v : BitVec 128}
    (hok : WriteOk s p (0x2140 + r) 1 16 v.toNat (preRingConfig r v.toNat s)) :
    ∃ t, exec (.ringConfig p r v) s = .next t ∧ rCfg t r = v.toNat ∧ bget t (rHeadOff r) = 0 ∧ bget t (rTailOff r) = 0 ∧
      ringPassBit t r = true ∧ SameEntriesBut [dkey (0x2140 + r) 1] s t ∧ SameBarBut [rHeadOff r, rTailOff r] s t ∧
      t.mem = s.mem ∧ t.ready = s.ready := by
  have hne : rHeadOff r ≠ rTailOff r := by simp only [rHeadOff, rTailOff]; omega
  refine ⟨_, guarded_of_writeOk _ hok, reg_setReg_same .., (bget_bset_ne _ _ hne).trans (bget_bset_same ..), bget_bset_same ..,
    SMap.get_set_same .., sameEntriesBut_setReg s _ _ _, fun off hoff => ?_, rfl, rfl⟩
  simp only [List.mem_cons, List.not_mem_nil, or_false, not_or] at hoff
  exact (bget_bset_ne _ _ hoff.2).trans (bget_bset_ne _ _ hoff.1)

/-! RESUME. -/

/-- A queue that runs is one entry written; its STOPPED condition falls. -/
theorem runQueue_eq (s : State) (q : Nat) : ∃ irq, runQueue s q = { setReg s (0x2100 + q) 2 1 with irq := irq } := ⟨_, rfl⟩

theorem qState_runQueue (s : State) (q : Nat) : qState (runQueue s q) q = 1 := reg_setReg_same ..

theorem qAvail_runQueue (s : State) (q : Nat) : qAvail (runQueue s q) q = qAvail s q := by
  have hcfg : qCfg (runQueue s q) q = qCfg s q := reg_setReg_ne s _ (by simp only [dkey]; omega)
  unfold qAvail
  rw [hcfg]
  rfl

theorem runQueue_sameEntries (s : State) (q : Nat) : SameEntriesBut [dkey (0x2100 + q) 2] s (runQueue s q) :=
  sameEntriesBut_setReg s _ _ _

theorem resume_accepted {s : State} {p : Path} {q : QueueId} (hok : WriteOk s p (0x2100 + q) 3 1 1 0) (hstopped : qState s q = 3) :
    ∃ t, exec (.resume p q) s = .next t ∧ qState t q = 1 ∧ SameEntriesBut [dkey (0x2100 + q) 2] s t ∧ t.mem = s.mem ∧
      t.ops = s.ops ∧ t.bar = s.bar := by
  have heff : effQueueCmd q.val 1 s = runQueue s q := (if_pos rfl).trans (if_pos hstopped)
  refine ⟨_, guarded_of_writeOk (pre := freely) _ hok, ?_⟩
  rw [heff]
  exact ⟨qState_runQueue s q, runQueue_sameEntries s q, rfl, rfl, rfl⟩

/-! FLUSH. -/

/-- The head past the slot it stands at. -/
def pastSlot (s : State) (q : Nat) : State := bset s (qHeadOff q) ((qHead s q + 1) % qSize (qCfg s q))

theorem qHead_pastSlot (s : State) (q : Nat) : qHead (pastSlot s q) q = (qHead s q + 1) % qSize (qCfg s q) := bget_bset_same ..

/-- One slot fewer is left (R314). -/
theorem qAvail_pastSlot {s : State} {q : Nat} (h : qAvail s q ≠ 0) : qAvail (pastSlot s q) q + 1 = qAvail s q := by
  have htail : qTail (pastSlot s q) q = qTail s q := bget_bset_ne _ _ (qHeadOff_ne_qTailOff q).symm
  have hcfg : qCfg (pastSlot s q) q = qCfg s q := rfl
  unfold qAvail at h ⊢
  rw [htail, hcfg, qHead_pastSlot]
  generalize qSize (qCfg s q) = n at h ⊢
  generalize qHead s q = x at h ⊢
  generalize qTail s q = y at h ⊢
  dsimp only at h ⊢
  split at h
  · exact absurd rfl h
  case isFalse hn =>
    rw [if_neg hn, if_neg hn]
    have hle : (x + 1) % n ≤ x + 1 := Nat.mod_le _ _
    have hlt : x < y + n := by
      by_contra hge
      rw [Nat.sub_eq_zero_of_le (by omega), Nat.zero_mod] at h
      exact h rfl
    obtain ⟨k, hk⟩ : ∃ k, x + 1 = n * k + (x + 1) % n := ⟨_, (Nat.div_add_mod _ _).symm⟩
    have hstep : y + n - (x + 1) % n = (y + n - x - 1) + n * k := by omega
    rw [hstep, Nat.add_mul_mod_self_left]
    have hpos : 0 < n := Nat.pos_of_ne_zero hn
    generalize y + n - x = d at h ⊢
    have hdiv := Nat.div_add_mod d n
    have hrem : (d - 1) % n = d % n - 1 := by
      have hsplit : d - 1 = (d % n - 1) + n * (d / n) := by omega
      rw [hsplit, Nat.add_mul_mod_self_left, Nat.mod_eq_of_lt]
      have := Nat.mod_lt d hpos
      omega
    rw [hrem]
    omega

/-- What the return of slots leaves of the machine: memory, poison, stacks, and the entries but for the count at 2020h:05. -/
structure SlotsKept (s t : State) : Prop where
  mem  : t.mem = s.mem
  rel  : t.rel = s.rel
  hbm  : t.hbm = s.hbm
  regs : SameEntriesBut [dkey 0x2020 5] s t

theorem SlotsKept.trans {s t u : State} (h : SlotsKept s t) (k : SlotsKept t u) : SlotsKept s u :=
  ⟨k.mem.trans h.mem, k.rel.trans h.rel, k.hbm.trans h.hbm, fun i sub hne => (k.regs i sub hne).trans (h.regs i sub hne)⟩

theorem SlotsKept.qCfg_eq {s t : State} (h : SlotsKept s t) (q : Nat) : qCfg t q = qCfg s q :=
  h.regs _ _ (by simp only [dkey, List.mem_singleton]; omega)

theorem SlotsKept.qState_eq {s t : State} (h : SlotsKept s t) (q : Nat) : qState t q = qState s q :=
  h.regs _ _ (by simp only [dkey, List.mem_singleton]; omega)

theorem SlotsKept.slotReadable_eq {s t : State} (h : SlotsKept s t) (c q i : Nat) : slotReadable t c q i = slotReadable s c q i := by
  have hctx : ctxRec t c = ctxRec s c := h.regs _ _ (by simp only [dkey, List.mem_singleton]; omega)
  have hpoison : ∀ a, rangePoisoned t a 128 = rangePoisoned s a 128 := fun a => by
    unfold rangePoisoned rangeLost stackLost
    rw [h.rel, h.hbm]
  simp only [slotReadable, slotAddr, h.qCfg_eq, hctx, hpoison]

/-- The operation of a slot that is returned: FLUSHED, ended, its record made. -/
def IsFlushed (q : Nat) (o : Op) : Prop := o.queue = q ∧ o.ended = true ∧ o.recorded = true ∧ o.status = stFlushed

/-- The head moved past its slot, whose operation and record stand last. -/
def oneReturned (s : State) (q : Nat) (o : Op) (r : ReadyRec) : State :=
  { pastSlot s q with ops := s.ops ++ [o], ready := s.ready ++ [r] }

theorem flushOne_of (s : State) (c q tag : Nat) (d : BitVec 1024) :
    ∃ o r, IsFlushed q o ∧ flushSlots.flushOne (pastSlot s q) c q tag d = oneReturned s q o r :=
  ⟨_, _, ⟨rfl, rfl, rfl, rfl⟩, rfl⟩

/-- A run of FLUSH from `s` to `t`: the operations `l` end FLUSHED, one record for each, and no slot is left. -/
structure Flushed (s t : State) (q : Nat) (l : List Op) : Prop where
  kept  : SlotsKept s t
  none_left : qAvail t q = 0
  ops   : t.ops = s.ops ++ l
  each  : ∀ o ∈ l, IsFlushed q o
  ready : t.ready.length = s.ready.length + l.length

/-- FLUSH of a local queue with enough tags returns every slot from head to tail (R317). -/
theorem flushSlots_flushed (n : Nat) : ∀ (s : State) (c q : Nat) (tags : List Nat), qHost (qCfg s q) = false → qAvail s q < n →
    qAvail s q ≤ tags.length → ∃ l, Flushed s (flushSlots s c q n tags) q l ∧
      ((∀ j, j < qAvail s q → slotReadable s c q ((qHead s q + j) % qSize (qCfg s q)) = true) →
        qHead s q < qSize (qCfg s q) → l.length = qAvail s q) := by
  induction n with
  | zero => intro s c q tags _ hlt; exact absurd hlt (Nat.not_lt_zero _)
  | succ n ih =>
    intro s c q tags hlocal hlt htags
    by_cases hnone : qAvail s q = 0
    · rw [flushSlots, if_pos hnone]
      exact ⟨[], ⟨⟨rfl, rfl, rfl, fun _ _ _ => rfl⟩, hnone, (List.append_nil _).symm, fun _ h => absurd h List.not_mem_nil, rfl⟩,
        fun _ _ => hnone.symm⟩
    · have hnext := qAvail_pastSlot hnone
      have hpast : SlotsKept s (pastSlot s q) := ⟨rfl, rfl, rfl, fun _ _ _ => rfl⟩
      have hshift : qHead s q < qSize (qCfg s q) → ∀ j, ((qHead s q + 1) % qSize (qCfg s q) + j) % qSize (qCfg s q) =
          (qHead s q + (j + 1)) % qSize (qCfg s q) := fun _ j => by
        rw [Nat.mod_add_mod, Nat.add_assoc, Nat.add_comm 1 j]
      by_cases hread : slotReadable s c q (qHead s q) = true
      · cases tags with
        | nil => exact absurd (Nat.le_zero.mp htags) hnone
        | cons tag tags =>
          obtain ⟨o, r, ho, hone⟩ := flushOne_of s c q tag (slotDesc s q (qHead s q))
          have hflush : flushSlots s c q (n + 1) (tag :: tags) =
              flushSlots (flushSlots.flushOne (pastSlot s q) c q tag (slotDesc s q (qHead s q))) c q n tags := by
            rw [flushSlots, if_neg hnone]
            simp only [hlocal, Bool.false_eq_true, if_false, hread, if_true]
            rfl
          have hkept : SlotsKept s (oneReturned s q o r) := ⟨rfl, rfl, rfl, fun _ _ _ => rfl⟩
          have havail : qAvail (oneReturned s q o r) q = qAvail (pastSlot s q) q := rfl
          rw [hflush, hone]
          obtain ⟨l, hl, hcount⟩ := ih (oneReturned s q o r) c q tags hlocal (by omega)
            (by rw [List.length_cons] at htags; omega)
          refine ⟨o :: l, ⟨hkept.trans hl.kept, hl.none_left, ?_, ?_, ?_⟩, fun hall hhead => ?_⟩
          · exact hl.ops.trans (List.append_assoc ..)
          · exact List.forall_mem_cons.mpr ⟨ho, hl.each⟩
          · rw [hl.ready, List.length_cons]
            have : (oneReturned s q o r).ready.length = s.ready.length + 1 := List.length_append
            omega
          · rw [List.length_cons, ← hnext, ← havail]
            refine congrArg (· + 1) (hcount (fun j hj => ?_) ?_)
            · have := hall (j + 1) (by rw [← hnext]; exact Nat.succ_lt_succ (havail ▸ hj))
              rw [← hshift hhead] at this
              exact (congrArg (fun x => slotReadable s c q ((x + j) % qSize (qCfg s q))) (qHead_pastSlot s q)).trans this
            · exact (congrArg (· < qSize (qCfg s q)) (qHead_pastSlot s q)).mpr (Nat.mod_lt _ (by omega))
      · have hflush : flushSlots s c q (n + 1) tags = flushSlots (bump (pastSlot s q) 0x2020 5) c q n tags := by
          rw [flushSlots, if_neg hnone]
          simp only [hlocal, Bool.false_eq_true, if_false, hread]
          rfl
        have hkept : SlotsKept s (bump (pastSlot s q) 0x2020 5) := ⟨rfl, rfl, rfl, sameEntriesBut_setReg (pastSlot s q) _ _ _⟩
        have havail : qAvail (bump (pastSlot s q) 0x2020 5) q = qAvail (pastSlot s q) q := by
          unfold qAvail
          rw [hkept.qCfg_eq]
          rfl
        rw [hflush]
        obtain ⟨l, hl, -⟩ := ih (bump (pastSlot s q) 0x2020 5) c q tags (hkept.qCfg_eq q ▸ hlocal) (by omega) (by omega)
        refine ⟨l, ⟨hkept.trans hl.kept, hl.none_left, hl.ops, hl.each, hl.ready⟩, fun hall hhead => absurd ?_ hread⟩
        have := hall 0 (Nat.pos_of_ne_zero hnone)
        rwa [Nat.add_zero, Nat.mod_eq_of_lt hhead] at this

/-- What FLUSH leaves of a STOPPED queue that a context holds. -/
theorem exec_flush {s : State} {p : Path} {q : QueueId} {c : Nat} (tags : List TagId) (hok : WriteOk s p (0x2100 + q) 3 1 2 0)
    (hstopped : qState s q = 3) (hctx : queueCtx s q = some c) :
    exec (.flush p q tags) s = .next (answered (let u := flushSlots s c q 4096 (pickTags s tags)
      if qAvail u q = 0 then runQueue u q else u) p) := by
  refine (guarded_of_writeOk (pre := freely) (fun t => flushQueue t q.val (pickTags t tags)) hok).trans ?_
  simp only [flushQueue, hstopped, if_true, hctx]

/-- Settles O50: each write is its effect, and FLUSH goes by the slots that are left. -/
theorem queuesAndRingsAreConfigured : Obligations.QueuesAndRingsAreConfigured := by
  unfold Obligations.QueuesAndRingsAreConfigured
  intro s p
  refine ⟨fun q v => queueConfig_accepted, fun q v hlive hpasses hstate htaken => ?_, fun r v => ringConfig_accepted,
    fun q => resume_accepted, fun q tags c hok hstopped hctx => ⟨exec_flush tags hok hstopped hctx, fun hnone => ?_,
      fun hlocal hfuel htags => ?_⟩⟩
  · have hpre := preQueueConfig_conflict hstate htaken
    refine (guarded_of_refused (effQueueConfig q v.toNat) hlive hpasses (by rw [hpre]; decide)).trans ?_
    rw [hpre]
  · refine ⟨_, exec_flush tags hok hstopped hctx, ?_⟩
    rw [flushSlots, if_pos hnone]
    dsimp only
    rw [if_pos (by exact hnone)]
    exact ⟨qState_runQueue _ q, rfl, rfl⟩
  · obtain ⟨l, hl, hcount⟩ := flushSlots_flushed 4096 s c q (pickTags s tags) hlocal hfuel htags
    refine ⟨_, l, exec_flush tags hok hstopped hctx, ?_⟩
    dsimp only
    rw [if_pos hl.none_left]
    exact ⟨(qAvail_runQueue _ q).trans hl.none_left, qState_runQueue _ q, hl.kept.mem, hl.ops, hl.each, hl.ready, hcount⟩

end Sys2Proof.Machine
end

section
/-! SUPPORT. Messages and reports leave what waits in the device, and no more than their own registers and entries change. -/

namespace Sys2Proof.Machine

/-! What waits. -/

/-- Messages and reports leave BAR0 below the interrupt controller's registers, and the collective messages that wait. -/
structure WaitingKept (s t : State) : Prop where
  queues : QueueRegsKept s t
  held   : t.fab.held = s.fab.held
  subs   : t.fab.subs = s.fab.subs
  stops  : t.fab.stops = s.fab.stops

namespace WaitingKept

variable {s t u : State}

theorem refl (s : State) : WaitingKept s s := ⟨.refl s, rfl, rfl, rfl⟩

theorem trans (h : WaitingKept s t) (k : WaitingKept t u) : WaitingKept s u :=
  ⟨h.queues.trans k.queues, k.held.trans h.held, k.subs.trans h.subs, k.stops.trans h.stops⟩

theorem foldl {α : Type} {f : State → α → State} (hf : ∀ s x, WaitingKept s (f s x)) (xs : List α) (s : State) :
    WaitingKept s (xs.foldl f s) := by
  induction xs generalizing s with
  | nil => exact refl s
  | cons x xs ih => exact (hf s x).trans (ih (f s x))

theorem ite {b : Prop} [Decidable b] (h : WaitingKept s t) : WaitingKept s (if b then t else s) := by
  split
  · exact h
  · exact refl s

/-- A change of other fields. -/
theorem of_eq (hbar : t.bar = s.bar) (hfab : t.fab = s.fab) : WaitingKept s t :=
  ⟨.of_bar_eq hbar, congrArg Fabric.held hfab, congrArg Fabric.subs hfab, congrArg Fabric.stops hfab⟩

/-- Before the step, a change of other fields. -/
theorem after_update (k : WaitingKept t u) (hbar : t.bar = s.bar := by rfl) (hfab : t.fab = s.fab := by rfl) : WaitingKept s u :=
  (of_eq hbar hfab).trans k

end WaitingKept

theorem raise_waitingKept (s : State) (n : Nat) : WaitingKept s (raise s n) :=
  ⟨raise_queueRegsKept s n, congrArg Fabric.held (raise_signalsOnly s n).fab_eq, congrArg Fabric.subs (raise_signalsOnly s n).fab_eq,
    congrArg Fabric.stops (raise_signalsOnly s n).fab_eq⟩

theorem setCond_waitingKept (s : State) (n : Nat) (b : Bool) : WaitingKept s (setCond s n b) := by
  unfold setCond
  dsimp only
  split
  · exact (raise_waitingKept _ n).after_update
  · exact .of_eq rfl rfl

theorem beginReq_waitingKept (s : State) (m : Msg) : WaitingKept s (beginReq s m) := by
  unfold beginReq
  exact .ite ⟨.of_bar_eq rfl, rfl, rfl, rfl⟩

theorem cellSent_waitingKept (s : State) (p v : Nat) : WaitingKept s (cellSent s p v) := by
  unfold cellSent
  have hlink : WaitingKept s (setLink s p (linkSent s p v)) := ⟨.of_bar_eq rfl, rfl, rfl, rfl⟩
  have hreqs := WaitingKept.foldl beginReq_waitingKept (fillCell s v 8 (linkOf s p) 240).2.2 (setLink s p (linkSent s p v))
  exact (hlink.trans hreqs).trans (.of_eq rfl rfl)

theorem sendCells_waitingKept (k : Nat) (s : State) (p : Nat) : WaitingKept s (sendCells k s p) := by
  induction k generalizing s with
  | zero => exact .refl s
  | succ k ih =>
    unfold sendCells
    split
    · exact .refl s
    next t ht =>
      obtain ⟨-, -, v, -, -, rfl⟩ := sendCell_some ht
      exact (cellSent_waitingKept s p v).trans (ih _)

theorem sendOn_waitingKept (s : State) (p w : Nat) (m : Msg) : WaitingKept s (sendOn s p w m) := by
  rw [sendOn_eq]
  exact .trans (t := queued s p w m) ⟨.of_bar_eq rfl, rfl, rfl, rfl⟩ (sendCells_waitingKept _ _ _)

theorem discardMsg_waitingKept (s : State) : WaitingKept s (discardMsg s) :=
  .trans (t := bump s 0x7000 0x0A) (.of_eq rfl rfl) (raise_waitingKept _ _)

theorem sendOrDrop_waitingKept (s : State) (m : Msg) : WaitingKept s (sendOrDrop s m) := by
  unfold sendOrDrop
  split
  next t ht =>
    unfold trySend at ht
    split at ht
    · cases ht
      unfold loopSend
      refine .trans ?_ (beginReq_waitingKept _ m)
      exact ⟨.of_bar_eq rfl, rfl, rfl, rfl⟩
    · split at ht
      · cases ht
      · cases ht
        exact sendOn_waitingKept s _ _ m
  · exact discardMsg_waitingKept s

theorem noticeAll_waitingKept (s : State) (type : Nat) (body : Line) : WaitingKept s (noticeAll s type body) :=
  .foldl (fun t p => sendOn_waitingKept t p _ _) _ s

theorem fieldNotify_waitingKept (s : State) (f : List Byte) : WaitingKept s (fieldNotify s f) := by
  unfold fieldNotify
  dsimp only
  split
  · exact .refl s
  · split
    · exact .of_eq rfl rfl
    · split
      · exact .of_eq rfl rfl
      · exact .of_eq rfl rfl

theorem notify_waitingKept (s : State) (bit index sub : Nat) (payload : List Byte) :
    WaitingKept s (notify s bit index sub payload) := by
  unfold notify
  exact .ite ((raise_waitingKept _ _).trans (fieldNotify_waitingKept _ _)).after_update

theorem report_waitingKept (s : State) (e : Event) (entry : List Byte) : WaitingKept s (report s e entry) := by
  unfold report
  extract_lets s1 s2 s3 s4
  have h1 : WaitingKept s s1 := .foldl raise_waitingKept _ s
  have h2 : WaitingKept s1 s2 := notify_waitingKept s1 _ _ _ _
  have h3 : WaitingKept s2 s3 := by
    refine .ite ?_
    unfold faultNotice
    exact (noticeAll_waitingKept s2 1 _).trans (.foldl (fun t _ => sendOrDrop_waitingKept t _) _ _)
  have h4 : WaitingKept s3 s4 := by
    refine .ite ?_
    unfold driveFaultN
    exact (setCond_waitingKept _ _ _).after_update
  exact h1.trans (h2.trans (h3.trans (h4.trans (.ite (.of_eq rfl rfl)))))

theorem logEvent_waitingKept (s : State) (e : Event) : WaitingKept s (logEvent s e) := by
  have htests : ∀ n t, WaitingKept t (e.tests.foldl (fun t x => addTest t e n x) t) := fun n t => .foldl (fun t x => by
    unfold addTest
    dsimp only
    split
    · exact .of_eq rfl rfl
    · exact .of_eq rfl rfl) _ t
  have hcount : WaitingKept s (countMs s e) := .ite (.of_eq rfl rfl)
  have hentry : ∀ t, WaitingKept t (writeEntryOf t e 0) := fun t => by
    unfold writeEntryOf
    extract_lets n entry t1 t2
    have h1 : WaitingKept t t1 := .of_eq (domWrite_bar ..) (domWrite_fab ..)
    have h2 : WaitingKept t1 t2 := .of_eq ((setReg_bar ..).trans (setReg_bar ..)) ((setReg_fab ..).trans (setReg_fab ..))
    exact h1.trans (h2.trans (report_waitingKept t2 e entry))
  unfold logEvent
  dsimp only
  split
  · exact .trans (.of_eq (setReg_bar ..) (setReg_fab ..)) (htests _ (bump s 0x8100 3))
  · exact (hcount.trans (hentry _)).trans (htests _ _)

/-! Messages and reports in full. -/

/-- `t` is `s` after messages and reports: their own entries and registers apart, what they write is the fabric's, the frames',
the interrupt controller's and the error log's. -/
structure Tells (s t : State) : Prop where
  reports : ReportsOnly s t
  entries : SameEntriesBut logKeys s t
  waiting : WaitingKept s t

namespace Tells

variable {s t u : State}

theorem refl (s : State) : Tells s s := ⟨.refl s, .refl _ s, .refl s⟩

theorem trans (h : Tells s t) (k : Tells t u) : Tells s u :=
  ⟨h.reports.trans k.reports, h.entries.trans k.entries, h.waiting.trans k.waiting⟩

theorem foldl {α : Type} {f : State → α → State} (hf : ∀ s x, Tells s (f s x)) (xs : List α) (s : State) :
    Tells s (xs.foldl f s) := by
  induction xs generalizing s with
  | nil => exact refl s
  | cons x xs ih => exact (hf s x).trans (ih (f s x))

theorem ite {b : Prop} [Decidable b] (h : Tells s t) : Tells s (if b then t else s) := by
  split
  · exact h
  · exact refl s

/-- An entry that no message and no report writes. -/
theorem reg_eq (h : Tells s t) {i sub : Nat} (hkey : dkey i sub ∉ logKeys) : reg t i sub = reg s i sub := h.entries i sub hkey

theorem mem_eq (h : Tells s t) : t.mem = s.mem := h.reports.mem_eq
theorem ops_eq (h : Tells s t) : t.ops = s.ops := h.reports.ops_eq
theorem findOp_eq (h : Tells s t) (tag : Nat) : findOp t tag = findOp s tag := h.reports.findOp_eq tag

end Tells

/-- The fields of the collectives, and of what they never touch, are in `t` as in `s`. -/
structure CollFieldsKept (s t : State) : Prop where
  frame    : CollFrame s t
  buckets  : t.buckets = s.buckets
  colls    : t.colls = s.colls
  tables   : t.tables = s.tables
  barriers : t.barriers = s.barriers
  ranks    : t.ranks = s.ranks
  upd      : t.upd = s.upd

theorem ReportsOnly.fieldsKept {s t : State} (h : ReportsOnly s t) : CollFieldsKept s t := by
  obtain ⟨_, _, _, _, _, _, _, _, _, rfl⟩ := h
  exact ⟨⟨rfl, rfl, rfl, rfl, rfl, rfl⟩, rfl, rfl, rfl, rfl, rfl, rfl⟩

/-- The entries of the collectives, 7080h and 7100h to 7200h, are written by no message and no report. -/
theorem collKey_notMem_logKeys {i sub : Nat} (hlo : 0x7080 ≤ i) (hhi : i < 0x8000) (hsub : sub < 256) : dkey i sub ∉ logKeys := by
  simp only [logKeys, messageKeys, List.mem_cons, List.mem_map, List.mem_range, not_or, not_exists, not_and, dkey]
  refine ⟨by omega, by omega, by omega, by omega, by omega, fun p hp => by omega⟩

theorem raise_tells (s : State) (n : Nat) : Tells s (raise s n) :=
  ⟨raise_reportsOnly s n, (raise_signalsOnly s n).sameEntriesBut _, raise_waitingKept s n⟩

theorem setCond_tells (s : State) (n : Nat) (b : Bool) : Tells s (setCond s n b) :=
  ⟨(setCond_signalsOnly s n b).reportsOnly, (setCond_signalsOnly s n b).sameEntriesBut _, setCond_waitingKept s n b⟩

theorem sendOrDrop_tells (s : State) (m : Msg) : Tells s (sendOrDrop s m) :=
  ⟨sendOrDrop_reportsOnly s m, (sendOrDrop_sendsOnly s m).entries.mono messageKeys_subset_logKeys, sendOrDrop_waitingKept s m⟩

theorem logEvent_tells (s : State) (e : Event) : Tells s (logEvent s e) :=
  ⟨logEvent_reportsOnly s e, (logEvent_sendsOnly s e).entries, logEvent_waitingKept s e⟩

theorem sendColl_tells (s : State) (op kind c rank bucket : Nat) (shadow : Bool) (seq target idx per : Nat) (body : List Byte) :
    Tells s (sendColl s op kind c rank bucket shadow seq target idx per body) := .foldl (fun t _ => sendOrDrop_tells t _) _ s

theorem ctrlTo_tells (s : State) (b : Bucket) (kind rank target idx : Nat) (body : List Byte) :
    Tells s (ctrlTo s b kind rank target idx body) := sendColl_tells ..

theorem ctrlAll_tells (s : State) (b : Bucket) (kind idx : Nat) (body : List Byte) : Tells s (ctrlAll s b kind idx body) :=
  .foldl (fun t _ => ctrlTo_tells t ..) _ s

theorem sendUnits_tells (s : State) (b : Bucket) (kind rank : Nat) (shadow : Bool) (target : Nat) (us : List (Nat × List Byte)) :
    Tells s (sendUnits s b kind rank shadow target us) := .foldl (fun t _ => sendColl_tells t ..) _ s

theorem sendAbort_tells (s : State) (b : Bucket) (st : Nat) : Tells s (sendAbort s b st) := ctrlAll_tells ..

end Sys2Proof.Machine
end

section
/-! SUPPORT. Collective messages that are admitted, discarded or held (R259, R283), barriers at rank 0 (R304), and COMM_STATE (R281,
R282). -/

namespace Sys2Proof.Machine

/-! Admission (R283). -/

theorem reg_unloop (s : State) (v : Via) (m : Msg) (i sub : Nat) : reg (unloop s v m) i sub = reg s i sub := by
  cases v
  · rfl
  · rfl

theorem fabricOn_unloop (s : State) (v : Via) (m : Msg) : fabricOn (unloop s v m) = fabricOn s :=
  congrArg (· == 1) (reg_unloop s v m 0x7000 2)

theorem unloop_held (s : State) (v : Via) (m : Msg) : (unloop s v m).fab.held = s.fab.held := by
  cases v
  · rfl
  · rfl

theorem collOpcode_cases {op : Nat} (hop : op = 6 ∨ op = 7) : op ≠ 8 ∧ isRequest op = false ∧ isResponse op = false := by
  rcases hop with rfl | rfl <;> decide

section
variable {s : State} {v : Via} {m : Msg}

/-- A collective message for this device in a free lane: it comes to its communicator, by a port only while FABRIC_ENABLE is 1
(R259). -/
theorem deliverMsg_coll (hclock : clockOn s = true) (hfree : laneHeld s v m = false) (hhops : m.hops ≠ 63) (hhere : m.dest = devNum s)
    (hop : m.opcode = 6 ∨ m.opcode = 7) :
    deliverMsg s v m = if fabricOn s = true ∨ v = .loopback then collIn s v m else s := by
  obtain ⟨h8, hreq, hresp⟩ := collOpcode_cases hop
  have hlisted : (isRequest m.opcode || isResponse m.opcode || m.opcode == 6 || m.opcode == 7 || m.opcode == 8) = true := by
    rcases hop with h | h <;> simp [h]
  unfold deliverMsg
  rw [if_neg (by simp [hclock]), if_neg (by simp [hfree]), if_neg hhops, if_neg (by simp [h8]), if_neg (by simp [hlisted]),
    if_neg (by simp [hhere]), if_neg (by simp [hreq]), if_neg (by simp [hresp]), if_neg h8]
  by_cases hon : fabricOn s = true
  · simp [hon]
  · by_cases hloop : v = .loopback
    · simp [hloop]
    · simp [hon, hloop]

/-- The row of a collective message runs `deliverMsg` on it. -/
theorem exec_coll (hclock : clockOn s = true) (hvia : viaUp s v m = true) :
    (m.opcode = 6 → exec (.collData v m) s = .next (deliverMsg (unloop s v m) v m)) ∧
      (m.opcode = 7 → exec (.collCtrl v m) s = .next (deliverMsg (unloop s v m) v m)) :=
  ⟨arrive_of_comes hclock hvia, arrive_of_comes hclock hvia⟩

theorem Arrives.deliverMsg_eq (h : Arrives s v m) (hop : m.opcode = 6 ∨ m.opcode = 7) :
    deliverMsg (unloop s v m) v m = collIn (unloop s v m) v m := by
  rw [deliverMsg_coll ((clockOn_unloop s v m).trans h.clock) ((laneHeld_unloop s v m m).trans h.free) h.hops
    (h.here.trans (devNum_unloop s v m).symm) hop, fabricOn_unloop, if_pos (h.on hop).symm]

/-- A message behind a held one of its lane waits behind it. -/
theorem deliverMsg_of_laneHeld (hclock : clockOn s = true) (hheld : laneHeld s v m = true) :
    deliverMsg s v m = { s with fab := { s.fab with held := s.fab.held ++ [(v, m)] } } := by
  simp [deliverMsg, hclock, hheld]

/-- A message that fails R283 is discarded. -/
theorem collIn_of_unadmitted (hclock : clockOn s = true) (h : commActive s (gComm m) = false ∨
    knownSource s (gComm m) m.source = false ∨ kindListed m.opcode (gKind m) = false ∨ fullSeq s m = none) :
    collIn s v m = discardColl s := by
  unfold collIn
  rw [if_neg (by simp [hclock])]
  dsimp only
  split
  case isTrue => rfl
  case isFalse hadmitted =>
    simp only [Bool.or_eq_true, Bool.not_eq_true', not_or, Bool.not_eq_false] at hadmitted
    obtain ⟨⟨hactive, hknown⟩, hkind⟩ := hadmitted
    have hseq : fullSeq s m = none := by simpa [hactive, hknown, hkind] using h
    rw [hseq]

end

section
variable {s : State} {v : Via} {m : Msg} {seq : Nat}

theorem CollAdmitted.opcode (h : CollAdmitted s v m seq) : m.opcode = 6 ∨ m.opcode = 7 := by
  have hkind := h.kind
  simp only [kindListed, Bool.or_eq_true, Bool.and_eq_true, beq_iff_eq] at hkind
  omega

theorem fullSeq_unloop (s : State) (v : Via) (m x : Msg) : fullSeq (unloop s v m) x = fullSeq s x := by
  cases v
  · rfl
  · rfl

/-- An admitted message goes to what its kind names (R283). -/
theorem CollAdmitted.collIn_eq (h : CollAdmitted s v m seq) : collIn (unloop s v m) v m =
    (let u := capNotice (unloop s v m) (gComm m) seq (gCap m)
     if gKind m = 0x18 then barrierArrival u (gComm m) m
     else if gKind m = 0x19 then barrierReleased u (gComm m) m
     else match bucketNamed u (gComm m) seq (gBucket m) with
       | none =>
         if (runOf u (gComm m) seq).posted.testBit (gBucket m) then u
         else { u with fab := { u.fab with held := u.fab.held ++ [(v, m)] } }
       | some b => afterDelivery (deliver u v b m) b) := by
  have hactive : commActive (unloop s v m) (gComm m) = true := by
    cases v
    · exact h.active
    · exact h.active
  have hknown : knownSource (unloop s v m) (gComm m) m.source = true := by
    cases v
    · exact h.known
    · exact h.known
  unfold collIn
  dsimp only
  rw [if_neg (by simp [clockOn_unloop, h.comes.clock]), if_neg (by simp [hactive, hknown, h.kind]), fullSeq_unloop, h.seq] <;> rfl

/-- The row of a collective control message. -/
theorem CollAdmitted.exec_kind (h : CollAdmitted s v m seq) {op k : Nat} (hop : m.opcode = op) (hkind : gKind m = k) :
    collKind op k s v m = .next (collIn (unloop s v m) v m) := by
  unfold collKind
  rw [if_pos hkind, arrive_of_comes h.comes.clock h.comes.port hop, h.comes.deliverMsg_eq h.opcode]

end

/-- No notice comes with a cap of 0 (R294). -/
theorem capNotice_zero (s : State) (c seq : Nat) : capNotice s c seq 0 = s := by simp [capNotice]

/-! What a discard leaves (R283). -/

theorem sendMsix_out (s : State) (n : Nat) {o : Output} (ho : o ∈ (sendMsix s n).out) : o ∈ s.out ∨ ∃ k, o = .msix k := by
  unfold sendMsix at ho
  dsimp only at ho
  split at ho
  · exact .inl ho
  · rw [startTimer_out] at ho
    rcases List.mem_append.mp ho with ho | ho
    · exact .inl ho
    · exact .inr ⟨_, List.mem_singleton.mp ho⟩

/-- A rise puts out no more than a message to the host. -/
theorem raise_out (s : State) (n : Nat) {o : Output} (ho : o ∈ (raise s n).out) : o ∈ s.out ∨ ∃ k, o = .msix k := by
  unfold raise at ho
  dsimp only at ho
  split at ho
  · exact .inl ho
  · split at ho
    · exact .inl ho
    · split at ho
      · exact .inl ho
      · rw [linesRose_out] at ho
        unfold msixOnRise at ho
        split at ho
        · exact sendMsix_out (bset s (pendOff (n / 32)) (setBit (pendWord s (n / 32)) (n % 32) true)) n ho
        · exact .inl ho

theorem reg_raise (s : State) (n i sub : Nat) : reg (raise s n) i sub = reg s i sub := (raise_signalsOnly s n).reg_eq i sub

/-- Settles O42: the row is `collIn`, and its first checks discard, hold or pass the message on. -/
theorem unadmittedCollectiveMessagesAreDiscardedAndCounted : Obligations.UnadmittedCollectiveMessagesAreDiscardedAndCounted := by
  unfold Obligations.UnadmittedCollectiveMessagesAreDiscardedAndCounted
  intro s0 v m hclock hvia hhere hhops s row hop
  have hrow : ∀ t, deliverMsg s v m = t → row t := fun t ht => ht ▸ exec_coll hclock hvia
  have hclock1 : clockOn s = true := (clockOn_unloop s0 v m).trans hclock
  refine ⟨fun harrives hbad => ?_, fun seq hadm hcap hk18 hk19 hnone hposted => hrow _ ?_, fun hheld => hrow _ ?_,
    fun hfree hport hoff => hrow _ ?_⟩
  · refine ⟨discardColl s, hrow _ ?_, ?_, ?_, fun i sub hne => ?_, raise_mem _ _, ?_, ?_, ?_, fun o ho hnew => ?_⟩
    · exact (harrives.deliverMsg_eq hop).trans (collIn_of_unadmitted hclock1 hbad)
    · exact (reg_raise _ _ _ _).trans (reg_setReg_same ..)
    · exact (isPending_raise _ (by decide) (by decide)).trans (Bool.or_eq_true_iff.mpr (.inr (by decide)))
    · exact (reg_raise _ _ _ _).trans (reg_setReg_ne _ _ (by simpa using hne))
    · exact (raise_reportsOnly (bump s 0x7080 8) _).fieldsKept.buckets
    · exact (raise_reportsOnly (bump s 0x7080 8) _).fieldsKept.colls
    · exact (raise_signalsOnly (bump s 0x7080 8) _).fab_eq
    · exact (raise_out _ _ ho).resolve_left hnew
  · rw [hadm.comes.deliverMsg_eq hop, hadm.collIn_eq, hcap, capNotice_zero]
    dsimp only
    rw [if_neg hk18, if_neg hk19, hnone]
    exact if_neg (by rw [hposted]; decide)
  · exact deliverMsg_of_laneHeld hclock1 ((laneHeld_unloop s0 v m m).trans hheld)
  · rw [deliverMsg_coll hclock1 ((laneHeld_unloop s0 v m m).trans hfree) hhops (hhere.trans (devNum_unloop s0 v m).symm) hop]
    exact if_neg (by simp [fabricOn_unloop, s, hoff, hport])

/-! Barriers at rank 0 (R304). -/

/-- The device's own part of the release of an epoch (R304). -/
def sendRelease (c obj epoch : Nat) (s : State) (k : Nat) : State :=
  sendColl s 7 0x19 c 0 0 false (collSeq s c) (deviceOf s c k) 0 1 (leBytes 4 obj ++ leBytes 4 epoch)

/-- An arrival at rank 0 is noted, or it is the last one, and the release goes out. -/
theorem barrierArrival_at_rank0 {s : State} {c : Nat} {m : Msg} (hbackup : cBackup (commRec s c) = false)
    (hrank : cMyRank (commRec s c) = 0) :
    let obj := leVal ((bodyBytes m).take 4) % 4096
    let epoch := leVal (((bodyBytes m).drop 4).take 4)
    let key := c * 2 ^ 48 + obj * 2 ^ 32 + epoch
    let seen := SMap.get s.barriers key []
    let noted := if seen.contains m.source then seen else m.source :: seen
    barrierArrival s c m = if noted.length = cRanks (commRec s c) then
        (List.range (cRanks (commRec s c))).foldl (sendRelease c obj epoch) { s with barriers := SMap.drop s.barriers key }
      else { s with barriers := SMap.put s.barriers key noted } :=
  if_neg (by simp [hbackup, hrank])

theorem releaseSent_tells (c obj epoch : Nat) (l : List Nat) (s : State) : Tells s (l.foldl (sendRelease c obj epoch) s) :=
  .foldl (fun t _ => sendColl_tells t ..) l s

/-- Settles O45: an arrival is noted, or it is the last: then the epoch is forgotten, and the release goes out in messages alone. -/
theorem barriersReleaseWhenTheLastRankArrives : Obligations.BarriersReleaseWhenTheLastRankArrives := by
  unfold Obligations.BarriersReleaseWhenTheLastRankArrives
  intro s v m seq hop hkind hadm hcap hbackup hrank key seen after_
  obtain ⟨fab, hu⟩ : ∃ fab, unloop s v m = { s with fab := fab } := by
    cases v
    · exact ⟨_, rfl⟩
    · exact ⟨_, rfl⟩
  have hexec : exec (.barrierArrive v m) s = .next (barrierArrival (unloop s v m) (gComm m) m) := by
    refine (hadm.exec_kind hop hkind).trans (congrArg Host.Outcome.next ?_)
    rw [hadm.collIn_eq, hcap, capNotice_zero]
    exact if_pos hkind
  have harrival := barrierArrival_at_rank0 (s := { s with fab := fab }) (m := m) hbackup hrank
  rw [hexec, hu]
  by_cases hlast : after_.length = cRanks (commRec s (gComm m))
  · have htold := releaseSent_tells (gComm m) (leVal ((bodyBytes m).take 4) % 4096) (leVal (((bodyBytes m).drop 4).take 4))
      (List.range (cRanks (commRec s (gComm m)))) { s with fab := fab, barriers := SMap.drop s.barriers key }
    refine ⟨_, congrArg Host.Outcome.next (harrival.trans (if_pos hlast)), htold.mem_eq, htold.reports.fieldsKept.buckets,
      htold.reports.fieldsKept.frame.sync, fun h => absurd hlast h, fun _ => ?_⟩
    exact (congrArg (SMap.find · key) htold.reports.fieldsKept.barriers).trans ((SMap.find_drop ..).trans (if_pos rfl))
  · refine ⟨_, congrArg Host.Outcome.next (harrival.trans (if_neg hlast)), rfl, rfl, rfl, fun _ => ⟨?_, rfl, rfl, rfl⟩,
      fun h => absurd h hlast⟩
    exact (SMap.find_put ..).trans (if_pos rfl)

end Sys2Proof.Machine
end

section
/-! SUPPORT. COMM_STATE (R281, R282), with the rank table's address error (R6). -/

namespace Sys2Proof.Machine

theorem releaseLanes_of_none {s : State} (h : s.fab.held = []) : releaseLanes s = s := if_pos (by simp [h])

/-- A write that passes its own condition meets no hole in the rank table. -/
theorem noteTable_of_pre {s : State} {p : Path} {c v : Nat} (h : preCommState c v s = 0) : noteTable p c v s = s := by
  unfold noteTable
  split
  · rfl
  next a ha =>
    exfalso
    split at ha
    case isFalse => cases ha
    case isTrue hreads =>
      simp only [Bool.and_eq_true, beq_iff_eq, Bool.not_eq_true'] at hreads
      obtain ⟨⟨⟨-, rfl⟩, hactive⟩, hgood⟩ := hreads
      simp [preCommState, hactive, hgood, ha, dRange] at h

theorem noteTable_of_bad {s : State} (p : Path) {c : Nat} (v : Nat) (h : activationBad s (commRec s c) = true) : noteTable p c v s = s := by
  unfold noteTable
  rw [if_neg (by simp [h])]

theorem noteTable_of_hole {s : State} {p : Path} {c a : Nat} (hlive : dictLive s = true)
    (hpasses : checkAccess s p (0x7100 + c) 2 true false 0 1 = 0) (hactive : commActive s c = false)
    (hgood : activationBad s (commRec s c) = false) (hhole : tableHole (commRec s c) = some a) :
    noteTable p c 1 s = logUnassigned s a (some (cOwner (commRec s c))) 0 := by
  unfold noteTable
  rw [if_pos (by simp [hlive, hpasses, hactive, hgood]), hhole]

theorem exec_commState (s : State) (p : Path) (c : CommId) (v : Byte) : exec (.commState p c v) s =
    guarded (noteTable p c v.toNat s) p (0x7100 + c) 2 1 v.toNat (preCommState c v.toNat) (effCommState c v.toNat) := rfl

theorem exec_commState_accepted {s : State} {p : Path} {c : CommId} {v : Byte}
    (hok : WriteOk s p (0x7100 + c) 2 1 v.toNat (preCommState c v.toNat s)) :
    exec (.commState p c v) s = .next (answered (releaseLanes (setCommState c v.toNat s)) p) := by
  have hnoted : noteTable p c.val v.toNat s = s := noteTable_of_pre hok.free
  rw [exec_commState, hnoted]
  exact guarded_of_writeOk _ hok

/-- A write whose own condition fails leaves every state but for its answer. -/
theorem guarded_of_pre {s : State} {p : Path} {i sub len v : Nat} {pre : State → Nat} (eff : State → State) (h : pre s ≠ 0) :
    ∃ out, guarded s p i sub len v pre eff = .next { s with out := out } := by
  unfold guarded answerTo tryWrite
  split
  · split
    · exact ⟨_, rfl⟩
    · exact ⟨_, rfl⟩
  · exact ⟨_, rfl⟩

/-- A communicator taken out of use. -/
theorem setCommState_zero (s : State) (c : Nat) : setCommState c 0 s = setReg (dropComm s c) (0x7100 + c) 2 0 := by
  simp [setCommState]

/-- The rank table as an activation reads it (Table 14.1). -/
def tableRanks (s : State) (r : Nat) : List Rank := (List.range (cRanks r)).map (fun k =>
  { device := fld (rankWord s r k) 15 0, backup := if (rankWord s r k).testBit 32 then some (fld (rankWord s r k) 31 16) else none })

theorem setCommState_one {s : State} {c : Nat} (h : commActive s c = false) : setCommState c 1 s =
    setReg (setReg { dropComm s c with ranks := SMap.put (dropComm s c).ranks c (tableRanks s (commRec s c)) }
      (0x7100 + c) 2 1) (0x7100 + c) 3 1 :=
  if_pos (by simp [h])

theorem commState_keys_ne (c : Nat) : dkey (0x7100 + c) 2 ≠ dkey (0x7100 + c) 3 := by simp only [dkey]; omega

/-- The activation of an inactive communicator. -/
theorem commState_one {s : State} {c : Nat} (h : commActive s c = false) :
    commActive (setCommState c 1 s) c = true ∧ collSeq (setCommState c 1 s) c = 1 ∧
      ranksOf (setCommState c 1 s) c = tableRanks s (commRec s c) ∧
      SameEntriesBut [dkey (0x7100 + c) 2, dkey (0x7100 + c) 3] s (setCommState c 1 s) := by
  rw [setCommState_one h]
  refine ⟨?_, reg_setReg_same .., ?_, fun i sub hne => ?_⟩
  · rw [commActive, reg_setReg_ne _ _ (commState_keys_ne c), reg_setReg_same]
    rfl
  · exact (SMap.get_eq_find ..).trans (by rw [setReg_ranks, setReg_ranks, SMap.find_put, if_pos rfl]; rfl)
  · simp only [List.mem_cons, List.not_mem_nil, or_false, not_or] at hne
    exact (reg_setReg_ne _ _ hne.2).trans (reg_setReg_ne _ _ hne.1)

/-- Settles O46: an accepted write is `setCommState`; one that fails its condition answers RANGE, after the log of a hole. -/
theorem communicatorsActivateAndAreTakenOutOfUse : Obligations.CommunicatorsActivateAndAreTakenOutOfUse := by
  unfold Obligations.CommunicatorsActivateAndAreTakenOutOfUse
  intro s p c
  refine ⟨fun v => exec_commState_accepted, fun hheld hok hactive => ?_, fun hheld hok => ?_, fun hlive hpasses hactive =>
    ⟨fun hbad => ?_, fun hgood hhole => ?_⟩⟩
  · obtain ⟨hon, hseq, hranks, hentries⟩ := commState_one hactive
    have hexec := exec_commState_accepted (v := 1) hok
    rw [releaseLanes_of_none (by exact (congrArg (fun t : State => t.fab.held) (setCommState_one hactive)).trans hheld)] at hexec
    refine ⟨_, hexec, hon, hseq, ?_, ?_, hentries, ?_⟩
    · exact (congrArg (List.map Rank.device) hranks).trans (List.map_map ..)
    · exact (congrArg (List.map Rank.backup) hranks).trans (List.map_map ..)
    · exact (congrArg State.mem (setCommState_one hactive)).trans rfl
  · have hexec := exec_commState_accepted (v := 0) hok
    have hzero : setCommState c (0 : Byte).toNat s = setReg (dropComm s c) (0x7100 + c) 2 0 := setCommState_zero s c
    rw [hzero, releaseLanes_of_none (by exact hheld)] at hexec
    refine ⟨_, hexec, ?_, ?_, fun b hb => ?_, fun i sub hne => ?_, rfl⟩
    · exact congrArg (· == 1) (reg_setReg_same (dropComm s c) (0x7100 + c) 2 0)
    · exact (SMap.get_eq_find ..).trans (by
        show (SMap.find (SMap.drop s.ranks c) c).getD [] = []
        rw [SMap.find_drop, if_pos rfl]
        rfl)
    · simpa using (List.mem_filter.mp hb).2
    · exact reg_setReg_ne _ _ (by simpa using hne)
  · have hpre : preCommState c 1 s = dRange := if_pos (by simp [hactive, hbad])
    have hnoted : noteTable p c.val 1 s = s := noteTable_of_bad p 1 hbad
    refine (exec_commState s p c 1).trans ?_
    rw [show ((1 : Byte).toNat) = 1 from rfl, hnoted, guarded_of_refused _ hlive hpasses (by rw [hpre]; decide), hpre]
  · obtain ⟨a, ha⟩ := Option.isSome_iff_exists.mp hhole
    have hnoted : noteTable p c.val 1 s = logUnassigned s a (some (cOwner (commRec s c))) 0 :=
      noteTable_of_hole hlive hpasses hactive hgood ha
    have htold : Tells s (logUnassigned s a (some (cOwner (commRec s c))) 0) := logEvent_tells _ _
    have hentries : reg (logUnassigned s a (some (cOwner (commRec s c))) 0) 0x8100 2 = reg s 0x8100 2 + 1 :=
      reg_logEvent_entries (Nat.succ_ne_zero 1)
    generalize logUnassigned s a (some (cOwner (commRec s c))) 0 = u at hnoted htold hentries
    have hkept : ∀ sub, sub < 256 → reg u (0x7100 + c.val) sub = reg s (0x7100 + c.val) sub := fun sub hsub =>
      htold.reg_eq (collKey_notMem_logKeys (by omega) (by omega) hsub)
    have hrec : commRec u c = commRec s c := hkept 1 (by decide)
    have hoff : commActive u c = false := (congrArg (· == 1) (hkept 2 (by decide))).trans hactive
    have hpre : preCommState c 1 u = dRange := if_pos (by rw [hoff, hrec]; simp [hhole])
    obtain ⟨out, hout⟩ := guarded_of_pre (s := u) (p := p) (i := 0x7100 + c.val) (sub := 2) (len := 1) (v := 1)
      (pre := preCommState c.val 1) (effCommState c.val 1) (by rw [hpre]; decide)
    refine ⟨{ u with out := out }, ?_, hoff, hentries, htold.mem_eq⟩
    refine (exec_commState s p c 1).trans ?_
    rw [show ((1 : Byte).toNat) = 1 from rfl, hnoted]
    exact hout

end Sys2Proof.Machine
end

section
/-! SUPPORT. The arbiter (R335 to R338): what a stuck transfer's end leaves of its grants and of its entries at 2700h. -/

namespace Sys2Proof.Machine

/-- The arbiter's units, and the entries 2700h to 27FFh, are in `t` as in `s`. -/
structure ArbKept (s t : State) : Prop where
  arb     : t.arb = s.arb
  entries : EntriesKept (dkey 0x2700 0) (dkey 0x2800 0) s t

namespace ArbKept

variable {s t u : State}

theorem of_eq (hdict : t.dict = s.dict) (harb : t.arb = s.arb) : ArbKept s t := ⟨harb, .of_dict_eq hdict⟩

theorem refl (s : State) : ArbKept s s := ⟨rfl, .refl s⟩

theorem trans (h : ArbKept s t) (k : ArbKept t u) : ArbKept s u := ⟨k.arb.trans h.arb, h.entries.trans k.entries⟩

/-- Before the step, a change of other fields. -/
theorem after_update (k : ArbKept t u) (hdict : t.dict = s.dict := by rfl) (harb : t.arb = s.arb := by rfl) : ArbKept s u :=
  (of_eq hdict harb).trans k

theorem foldl {α : Type} {f : State → α → State} (hf : ∀ s x, ArbKept s (f s x)) (xs : List α) (s : State) :
    ArbKept s (xs.foldl f s) := by
  induction xs generalizing s with
  | nil => exact refl s
  | cons x xs ih => exact (hf s x).trans (ih (f s x))

theorem ite {b : Prop} [Decidable b] (h : ArbKept s t) : ArbKept s (if b then t else s) := by
  split
  · exact h
  · exact refl s

theorem ite_both {b : Prop} [Decidable b] (h : ArbKept s t) (k : ArbKept s u) : ArbKept s (if b then t else u) := by
  split
  · exact h
  · exact k

/-- A store into another entry. -/
theorem setReg (s : State) {i sub : Nat} (v : Nat) (h : dkey i sub < dkey 0x2700 0 ∨ dkey 0x2800 0 ≤ dkey i sub) :
    ArbKept s (setReg s i sub v) := ⟨rfl, .setReg_outside s v h⟩

end ArbKept

theorem Tells.arbKept {s t : State} (h : Tells s t) : ArbKept s t := by
  refine ⟨?_, .of_sameEntriesBut h.entries (by decide)⟩
  obtain ⟨_, _, _, _, _, _, _, _, _, ht⟩ := h.reports
  rw [ht]

theorem raise_arbKept (s : State) (n : Nat) : ArbKept s (raise s n) := (raise_tells s n).arbKept

theorem logEvent_arbKept (s : State) (e : Event) : ArbKept s (logEvent s e) := (logEvent_tells s e).arbKept

theorem leaveUp_arbKept (s : State) (p st : Nat) : ArbKept s (leaveUp s p st) := by
  refine ⟨?_, .of_sameEntriesBut (leaveUp_sameEntriesBut s p st) fun k hk => ?_⟩
  · obtain ⟨_, _, _, _, _, _, _, _, _, h⟩ := leaveUp_reportsOnly s p st
    rw [h]
  · rcases List.mem_cons.mp hk with rfl | hk
    · exact .inr (by simp only [dkey]; omega)
    · rcases List.mem_cons.mp hk with rfl | hk
      · exact .inr (by simp only [dkey]; omega)
      · rcases List.mem_cons.mp hk with rfl | hk
        · exact .inr (by simp only [dkey]; omega)
        · have hout : ∀ k ∈ messageKeys, k < dkey 0x2700 0 ∨ dkey 0x2800 0 ≤ k := by decide
          exact hout k hk

/-! Operations that stop (R106). -/

theorem discardCaps_arbKept (s : State) (tag : Nat) (p : Capture → Bool) : ArbKept s (discardCaps s tag p) := by
  have htaps : ∀ t, ArbKept t (releaseTaps t) := fun t => by
    refine ⟨?_, releaseTaps_entriesKept (by decide) t⟩
    obtain ⟨_, h⟩ := releaseTaps_dictOnly t
    rw [h]
  unfold discardCaps
  exact (htaps _).after_update

theorem dropSample_arbKept (s : State) (a : Nat) : ArbKept s (dropSample s a) :=
  .trans (.setReg s _ (.inr (by simp only [dkey]; omega))) (raise_arbKept _ _)

theorem noteWide_arbKept (s : State) (o : Op) (addr outer : Nat) : ArbKept s (noteWide s o addr outer) := by
  unfold noteWide
  split
  · exact .refl s
  · exact logEvent_arbKept s _

theorem captureTile_arbKept (s : State) (a ii tile : Nat) (o : Op) (rows cols : List Nat) (cIn : SMap Acc) :
    ArbKept s (captureTile s a ii tile o rows cols cIn) := by
  unfold captureTile
  extract_lets d r k fid wa wb size skip s0 s1
  split
  · exact dropSample_arbKept s a
  · split
    · exact dropSample_arbKept s a
    · have h0 : ArbKept s s0 := .ite ((noteWide_arbKept s o _ _).trans (noteWide_arbKept _ o _ _))
      have h1 : ArbKept s0 s1 := .ite (.setReg s0 _ (.inr (by simp only [dkey]; omega)))
      exact (h0.trans h1).trans (.of_eq rfl rfl)

theorem offerTile_arbKept (s : State) (a ii tile : Nat) (o : Op) (rows cols : List Nat) (cIn : SMap Acc) :
    ArbKept s (offerTile s a ii tile o rows cols cIn) := by
  unfold offerTile
  exact .ite (.trans (.ite (captureTile_arbKept s a ii tile o rows cols cIn)) (.setReg _ _ (.inr (by simp only [dkey]; omega))))

theorem noteStop_arbKept (s : State) (comm num t : Nat) : ArbKept s (noteStop s comm num t) := by
  unfold noteStop
  split
  · exact .of_eq rfl rfl
  · exact .of_eq rfl rfl

theorem finishIfDone_arbKept (s : State) (tag : Nat) : ArbKept s (finishIfDone s tag) := by
  unfold finishIfDone
  split
  · exact .refl s
  · exact .of_eq rfl rfl

theorem stopAt_arbKept (s : State) (tag st t : Nat) : ArbKept s (stopAt s tag st t) := by
  unfold stopAt
  split
  · exact .refl s
  next o _ =>
    split
    · split
      · exact .refl s
      · exact (discardCaps_arbKept _ tag _).after_update
    · extract_lets k p front s1 p1 s2 s3 s4
      have h1 : ArbKept s s1 := discardCaps_arbKept s tag _
      have h4 : ArbKept s3 s4 := .ite (noteStop_arbKept s3 _ _ _)
      exact h1.trans ((h4.trans (finishIfDone_arbKept s4 tag)).after_update)

theorem beginTile_arbKept (s : State) (a ii t : Nat) (o : Op) : ArbKept s (beginTile s a ii t o) := by
  unfold beginTile
  dsimp only
  split
  · exact stopAt_arbKept s _ _ t
  · exact (offerTile_arbKept _ a ii t o _ _ _).after_update

theorem beginOp_arbKept (s : State) (a ii : Nat) : ArbKept s (beginOp s a ii) := by
  unfold beginOp
  dsimp only
  split
  · exact .refl s
  · split
    · exact .of_eq rfl rfl
    · split
      · exact .refl s
      · split
        · exact (finishIfDone_arbKept _ _).after_update
        · split
          · split
            · exact .refl s
            · exact (finishIfDone_arbKept _ _).after_update
          · exact (beginTile_arbKept _ a ii _ _).after_update

theorem settle_arbKept (n : Nat) (s : State) (a ii : Nat) : ArbKept s (settle n s a ii) := by
  induction n generalizing s with
  | zero => exact .refl s
  | succ n ih =>
    unfold settle
    dsimp only
    split
    · exact .refl s
    · exact (beginOp_arbKept s a ii).trans (ih _)

theorem stopMatrixGo_arbKept (s : State) (tag st : Nat) : ArbKept s (stopMatrixGo s tag st) := by
  have hstop : ArbKept s (stopMatrix s tag st) := by
    unfold stopMatrix
    split
    · exact .refl s
    · exact stopAt_arbKept s tag st _
  unfold stopMatrixGo
  split
  · exact .refl s
  · exact hstop.trans ((settle_arbKept _ _ _ _).trans (setCond_tells _ _ _).arbKept)

theorem stopProg_arbKept (s : State) (n : Nat) (k : WorkClass) (p : Prog) (st : Nat) : ArbKept s (stopProg s n k p st) := by
  unfold stopProg
  dsimp only
  split
  · split
    · exact .of_eq rfl rfl
    · exact (stopMatrixGo_arbKept _ _ st).after_update
  · split
    · exact .of_eq rfl rfl
    · exact .of_eq rfl rfl

theorem stopDma_arbKept (s : State) (tag st : Nat) : ArbKept s (stopDma s tag st) := by
  have hfinish : ∀ t, ArbKept t (finishDma t tag) := fun t => by
    unfold finishDma dmaError
    split
    · exact .refl t
    · split
      · exact .refl t
      · split
        · exact .of_eq rfl rfl
        · exact (raise_arbKept _ _).after_update
  unfold stopDma
  extract_lets mine n s1
  exact (hfinish s1).after_update

theorem stopOp_arbKept (s : State) (o : Op) (st : Nat) : ArbKept s (stopOp s o st) := by
  unfold stopOp
  split
  · exact stopMatrixGo_arbKept s _ st
  · split
    · dsimp only
      split
      · split
        · exact stopProg_arbKept s _ _ _ st
        · exact .of_eq rfl rfl
      · exact .of_eq rfl rfl
    · split
      · exact stopDma_arbKept s _ st
      · exact .refl s

/-! Buckets whose contribution has stopped (R295). -/

theorem endCollective_arbKept (s : State) (c seq : Nat) : ArbKept s (endCollective s c seq) := by
  have hdigest : ∀ u, ArbKept s (digestEntry s c seq u) := fun u => by
    unfold digestEntry
    extract_lets crcs dig q1 n s1
    have h1 : ArbKept s s1 := .of_eq (domWrite_dict ..) (domWrite_arb ..)
    exact h1.trans (.trans (.setReg s1 _ (.inr (by decide))) (raise_arbKept _ _))
  unfold endCollective
  dsimp only
  split
  · exact .refl s
  · split
    · refine (hdigest _).trans (.trans (.setReg _ (i := 0x7100 + c) (sub := 3) _ (.inr ?_)) (.of_eq rfl rfl))
      simp only [dkey]
      omega
    · exact .refl s

theorem failStep_arbKept (s : State) (b : Bucket) (st : Nat) : ArbKept s (failStep s b st) := by
  unfold failStep
  split
  · dsimp only
    split
    · exact .refl s
    · exact .of_eq rfl rfl
  · exact .refl s

theorem finishBucket_arbKept (s : State) (b : Bucket) (st : Nat) : ArbKept s (finishBucket s b st) := by
  unfold finishBucket
  extract_lets r s0 s1 s2 u o s3 s4
  have h0 : ArbKept s s0 := by
    unfold s0
    split
    · exact .refl s
    · exact .of_eq rfl rfl
  have h4 : ArbKept s3 s4 := failStep_arbKept s3 b st
  exact h0.trans ((h4.trans (.trans (.ite (sendAbort_tells s4 b st).arbKept) (endCollective_arbKept _ _ _))).after_update)

theorem announceStops_arbKept (s : State) : ArbKept s (announceStops s) := by
  have hmiss : ∀ t x k, ArbKept t (missStream t x k endIncomplete) := fun t x k => by
    unfold missStream
    split
    · exact (sendAbort_tells t x _).arbKept.trans (finishBucket_arbKept _ x _)
    · refine .ite_both (.refl t) ?_
      unfold askBackup
      exact (ctrlTo_tells ..).arbKept.after_update
  refine .foldl (fun t b => ?_) _ s
  unfold announceStop
  extract_lets r me b1 lost lead dst s1 b2
  have h1 : ArbKept t s1 := (ArbKept.foldl (fun t _ => (ctrlTo_tells t ..).arbKept) dst _).after_update
  exact h1.trans (.ite ((hmiss _ b2 me).after_update))

theorem endStuck_arbKept (s : State) (r : Resource) (x : ArbReq) : ArbKept s (endStuck s r x) := by
  have hfault : ArbKept s (faultHolder s x) := by
    unfold faultHolder
    split
    · exact .refl s
    · exact .ite_both (.refl s) ((stopOp_arbKept s _ _).trans (announceStops_arbKept _))
  unfold endStuck
  split
  · exact hfault
  · exact hfault
  · exact leaveUp_arbKept s _ _
  · exact .ite_both (.of_eq rfl rfl) (.ite_both (.of_eq rfl rfl) hfault)

/-! Grants (R335, R336, R338). -/

/-- The least of two requesters, where there is a first. -/
def lowerOf (b : Option Nat) (w : Nat) : Option Nat :=
  match b with
  | none => some w
  | some x => some (min x w)

theorem foldl_lowerOf_some (l : List Nat) (x : Nat) : ∃ y, l.foldl lowerOf (some x) = some y ∧ y ∈ x :: l ∧ ∀ z ∈ x :: l, y ≤ z := by
  induction l generalizing x with
  | nil => exact ⟨x, rfl, List.mem_cons_self, fun z hz => by simp_all⟩
  | cons w l ih =>
    obtain ⟨y, hy, hmem, hle⟩ := ih (min x w)
    have hmin : y ≤ min x w := hle _ List.mem_cons_self
    refine ⟨y, hy, ?_, fun z hz => ?_⟩
    · rcases List.mem_cons.mp hmem with rfl | hmem
      · rcases min_choice x w with h | h <;> simp [h]
      · simp [hmem]
    · rcases List.mem_cons.mp hz with rfl | hz
      · omega
      · rcases List.mem_cons.mp hz with rfl | hz
        · omega
        · exact hle z (List.mem_cons_of_mem _ hz)

/-- The requesters among which a grant chooses (R335). -/
def grantPool (limit wait : Nat → Nat) (c : List Nat) : List Nat :=
  if c.filter (fun w => decide (limit (w / 256) ≤ wait w)) = [] then c else c.filter (fun w => decide (limit (w / 256) ≤ wait w))

theorem winner_eq (limit wait : Nat → Nat) (c : List Nat) : winner limit wait c = (grantPool limit wait c).foldl lowerOf none := by
  unfold winner grantPool
  simp only [List.isEmpty_iff]
  rfl

/-- The least of the pool wins. -/
theorem winner_of_least {limit wait : Nat → Nat} {c : List Nat} {w : Nat} (hw : w ∈ grantPool limit wait c)
    (hle : ∀ y ∈ grantPool limit wait c, w ≤ y) : winner limit wait c = some w := by
  rw [winner_eq]
  generalize grantPool limit wait c = l at hw hle
  cases l with
  | nil => exact absurd hw List.not_mem_nil
  | cons x l =>
    obtain ⟨y, hy, hmem, hlow⟩ := foldl_lowerOf_some l x
    have : y = w := le_antisymm (hlow w hw) (hle y hmem)
    exact this ▸ hy

/-- The wait counts after a grant: the winner's is 0, every other requester's one more (R335). -/
def waitsAfter (w : Nat) (m : SMap Nat) (c : List Nat) : SMap Nat :=
  c.foldl (fun m y => if y = w then SMap.set m y 0 0 else SMap.set m y (SMap.get m y 0 + 1) 0) m

theorem get_waitsAfter {w : Nat} {c : List Nat} (hc : c.Nodup) (m : SMap Nat) (y : Nat) :
    SMap.get (waitsAfter w m c) y 0 = if y ∈ c then (if y = w then 0 else SMap.get m y 0 + 1) else SMap.get m y 0 := by
  unfold waitsAfter
  induction c generalizing m with
  | nil => simp
  | cons x c ih =>
    obtain ⟨hx, hc⟩ := List.nodup_cons.mp hc
    rw [List.foldl_cons, ih hc]
    by_cases hyx : y = x
    · subst hyx
      rw [if_neg hx, if_pos List.mem_cons_self]
      split
      · exact SMap.get_set_same ..
      · exact SMap.get_set_same ..
    · have hkeep : SMap.get (if x = w then SMap.set m x 0 0 else SMap.set m x (SMap.get m x 0 + 1) 0) y 0 = SMap.get m y 0 := by
        split
        · exact SMap.get_set_ne _ _ _ hyx
        · exact SMap.get_set_ne _ _ _ hyx
      rw [hkeep]
      simp [hyx]

theorem eraseDups_nodup (l : List Nat) : l.eraseDups.Nodup := by
  induction hn : l.length using Nat.strong_induction_on generalizing l with
  | _ n ih =>
    cases l with
    | nil => simp
    | cons x l =>
      rw [List.eraseDups_cons, List.nodup_cons]
      refine ⟨by simp [List.mem_eraseDups], ih _ ?_ _ rfl⟩
      rw [← hn, List.length_cons]
      exact Nat.lt_succ_of_le (List.length_filter_le ..)

theorem requesters_nodup (q : List ArbReq) : (requesters q).Nodup := eraseDups_nodup _

theorem mem_requesters {q : List ArbReq} {w : Nat} : w ∈ requesters q ↔ ∃ x ∈ q, who x = w := by
  simp [requesters, List.mem_eraseDups]

theorem arbOf_setArb (s : State) (r : Resource) (u : ArbUnit) : arbOf (setArb s r u) r = u := SMap.get_set_same ..

theorem exec_grant {s : State} (r : Resource) (arrivals : List ArbReq) (hclock : clockOn s = true) :
    exec (.grant r arrivals) s = .next (
      let u := arbOf s r
      let q := park (resDepth r) u.queue arrivals
      match winner (waitLimit s (resKind r)) (fun w => SMap.get u.waits w 0) (requesters q) with
      | none => setArb s r { u with queue := q, holder := none }
      | some w =>
        match q.find? (fun x => who x == w) with
        | none => s
        | some x => emit (setArb s r { queue := q.erase x, waits := waitsAfter w u.waits (requesters q), holder := some x, since := now s })
            (.arbGranted r x)) :=
  congrArg Host.Outcome.next (if_neg (by simp [hclock]))

/-- Without a request nobody holds the resource. -/
theorem grant_to_none {s : State} {r : Resource} {arrivals : List ArbReq} (hclock : clockOn s = true)
    (hnone : park (resDepth r) (arbOf s r).queue arrivals = []) :
    exec (.grant r arrivals) s = .next (setArb s r { arbOf s r with queue := [], holder := none }) := by
  rw [exec_grant r arrivals hclock]
  dsimp only
  rw [hnone]
  rfl

/-- A grant to the least of the pool. -/
theorem grant_to {s : State} {r : Resource} {arrivals : List ArbReq} (hclock : clockOn s = true) {w : Nat} {x : ArbReq}
    (hw : winner (waitLimit s (resKind r)) (fun w => SMap.get (arbOf s r).waits w 0)
      (requesters (park (resDepth r) (arbOf s r).queue arrivals)) = some w)
    (hx : (park (resDepth r) (arbOf s r).queue arrivals).find? (fun z => who z == w) = some x) :
    exec (.grant r arrivals) s = .next (emit (setArb s r {
      queue := (park (resDepth r) (arbOf s r).queue arrivals).erase x
      waits := waitsAfter w (arbOf s r).waits (requesters (park (resDepth r) (arbOf s r).queue arrivals))
      holder := some x, since := now s }) (.arbGranted r x)) := by
  rw [exec_grant r arrivals hclock]
  dsimp only
  rw [hw]
  dsimp only
  rw [hx]

/-- Settles O54: the least of the pool is the winner; what ends a stuck transfer leaves the arbiter and its count as they are. -/
theorem arbiterGrantsTheLowestOrderOrTheForced : Obligations.ArbiterGrantsTheLowestOrderOrTheForced := by
  unfold Obligations.ArbiterGrantsTheLowestOrderOrTheForced
  intro s r hclock
  refine ⟨fun arrivals => ?_, fun x hholder hrun hdue => ?_, fun p k sub v hok => ?_⟩
  · intro q forced pool
    refine ⟨fun hnone => ?_, fun w x hw hle hx => ?_⟩
    · exact ⟨_, grant_to_none hclock hnone, congrArg ArbUnit.holder (arbOf_setArb s r _), rfl, rfl⟩
    · have hmem : w ∈ requesters q := by
        dsimp only [pool] at hw
        split at hw
        · exact hw
        · exact List.mem_of_mem_filter hw
      refine ⟨_, grant_to hclock (winner_of_least hw hle) hx, ?_, ?_, ?_, ?_, fun y hy hne => ?_, rfl⟩
      · exact congrArg ArbUnit.holder (arbOf_setArb s r _)
      · exact congrArg ArbUnit.queue (arbOf_setArb s r _)
      · exact congrArg ArbUnit.since (arbOf_setArb s r _)
      · refine (congrArg (fun u : ArbUnit => SMap.get u.waits w 0) (arbOf_setArb s r _)).trans ?_
        exact (get_waitsAfter (requesters_nodup q) _ w).trans (by rw [if_pos hmem, if_pos rfl])
      · refine (congrArg (fun u : ArbUnit => SMap.get u.waits y 0) (arbOf_setArb s r _)).trans ?_
        exact (get_waitsAfter (requesters_nodup q) _ y).trans (by rw [if_pos hy, if_neg hne])
  · have hexec : exec (.resourceWatchdogExpiry r) s =
        .next (endStuck (logEvent (bump (setArb s r { arbOf s r with holder := none }) 0x2700 5) (resEvent r)) r x) := by
      simp only [exec, execResourceWatchdogExpiry, hholder, hclock, hrun, hdue, Bool.not_false, decide_true, Bool.and_self, if_true]
    have hkept := (logEvent_arbKept (bump (setArb s r { arbOf s r with holder := none }) 0x2700 5) (resEvent r)).trans
      (endStuck_arbKept _ r x)
    refine ⟨hexec, _, hexec, ?_, ?_⟩
    · exact (hkept.entries 0x2700 5 (by decide) (by decide)).trans (reg_setReg_same ..)
    · have harb : arbOf (endStuck (logEvent (bump (setArb s r { arbOf s r with holder := none }) 0x2700 5) (resEvent r)) r x) r =
          { arbOf s r with holder := none } :=
        (congrArg (fun m => SMap.get m (resKey r) ArbUnit.idle) hkept.arb).trans (arbOf_setArb s r _)
      exact congrArg ArbUnit.holder harb
  · refine ⟨_, guarded_of_writeOk (pre := freely) _ hok, reg_setReg_same .., fun i j hne => ?_, rfl, rfl⟩
    exact reg_setReg_ne _ _ (by simpa using hne)

end Sys2Proof.Machine
end

section
/-! SUPPORT. Records and their rings (R104, R320). -/

namespace Sys2Proof.Machine

theorem readyRecord_ready (s : State) (o : Op) :
    (readyRecord s o).ready = s.ready ++ [{ ring := ringOf o, word := recordOf o, tag := some o.tag }] := by
  obtain ⟨_, _, _, _, _, _, _, _, _, h⟩ := readyRecord_reportsOnly s o
  rw [h]
  rfl

/-- The slot at the tail of a ring, and what a record leaves in it: its word with the phase of the pass. -/
abbrev tailSlot (s : State) (r : Nat) : Nat := qBase (rCfg s r) + 32 * bget s (rTailOff r)
abbrev phased (s : State) (r w : Nat) : Nat := w % 2 ^ 255 + (if ringPassBit s r then 1 else 0) * 2 ^ 255

/-- The record stored or put out at the tail, before the tail moves. -/
def recordStored (s : State) (r w : Nat) : State :=
  if qHost (rCfg s r) then emit s (.hostWrite (tailSlot s r) (leBytes 32 (phased s r w)))
  else memWriteVal s (tailSlot s r) 32 (phased s r w)

/-- The tail moved on by one record, and the pass with it. -/
def tailMoved (s : State) (r t size : Nat) : State :=
  let u := bset s (rTailOff r) ((t + 1) % size)
  if t + 1 = size then { u with ringPass := SMap.set u.ringPass r (!ringPassBit u r) true } else u

/-- A record put in its ring: stored, the tail moved, and the ring's source raised or not. -/
theorem putRecord_eq (s : State) (r : Nat) (w : BitVec 256) :
    putRecord s r w =
      let u := tailMoved (recordStored s r w.toNat) r (bget s (rTailOff r)) (rSize (rCfg s r))
      if qf (rCfg s r) 1 17 17 = 1 then raise u (src (r / 32) (r % 32)) else u := rfl

section
variable (s : State) (r w t size : Nat)

theorem recordStored_frame : (recordStored s r w).bar = s.bar ∧ (recordStored s r w).ringPass = s.ringPass ∧
    (recordStored s r w).ready = s.ready ∧ (recordStored s r w).ops = s.ops := by
  unfold recordStored
  split <;> exact ⟨rfl, rfl, rfl, rfl⟩

theorem recordStored_local (h : qHost (rCfg s r) = false) :
    recordStored s r w = memWriteVal s (tailSlot s r) 32 (phased s r w) := if_neg (by simp [h])

theorem recordStored_host (h : qHost (rCfg s r) = true) :
    recordStored s r w = emit s (.hostWrite (tailSlot s r) (leBytes 32 (phased s r w))) := if_pos h

theorem tailMoved_frame : (tailMoved s r t size).mem = s.mem ∧ (tailMoved s r t size).out = s.out ∧
    (tailMoved s r t size).ready = s.ready ∧ (tailMoved s r t size).ops = s.ops := by
  unfold tailMoved
  dsimp only
  split <;> exact ⟨rfl, rfl, rfl, rfl⟩

theorem tail_tailMoved : bget (tailMoved s r t size) (rTailOff r) = (t + 1) % size := by
  unfold tailMoved
  dsimp only
  split <;> exact bget_bset_same ..

theorem ringPassBit_tailMoved :
    ringPassBit (tailMoved s r t size) r = if t + 1 = size then !ringPassBit s r else ringPassBit s r := by
  unfold tailMoved
  dsimp only
  split
  · exact SMap.get_set_same ..
  · rfl

end

/-- A source raised or not changes signals, no BAR0 register of a queue or ring, and takes no output back. -/
theorem raiseIf_frame (u : State) (b : Prop) [Decidable b] (n : Nat) :
    let t := if b then raise u n else u
    SignalsOnly u t ∧ QueueRegsKept u t ∧ u.out <+: t.out := by
  dsimp only
  split
  · exact ⟨raise_signalsOnly u n, raise_queueRegsKept u n, raise_keepsOut u n⟩
  · exact ⟨.refl u, .refl u, List.prefix_refl _⟩

theorem phased_lt (s : State) (r w : Nat) : phased s r w < 2 ^ 256 := by
  have hw : w % 2 ^ 255 < 2 ^ 255 := Nat.mod_lt _ (by decide)
  unfold phased
  split <;> omega

/-- What putting a record in a ring does (R320). -/
theorem putRecord_effect {s t : State} {r : Nat} (w : BitVec 256) (hr : r < 64) (ht : t = putRecord s r w) :
    t.ready = s.ready ∧ t.ops = s.ops ∧
    bget t (rTailOff r) = (bget s (rTailOff r) + 1) % rSize (rCfg s r) ∧
    ringPassBit t r = (if bget s (rTailOff r) + 1 = rSize (rCfg s r) then !ringPassBit s r else ringPassBit s r) ∧
    (qHost (rCfg s r) = false → t.mem = (memWriteVal s (tailSlot s r) 32 (phased s r w.toNat)).mem) ∧
    (qHost (rCfg s r) = true → t.mem = s.mem ∧ .hostWrite (tailSlot s r) (leBytes 32 (phased s r w.toNat)) ∈ t.out) := by
  obtain ⟨hbar, hpass, hready, hops⟩ := recordStored_frame s r w.toNat
  obtain ⟨hmem', hout', hready', hops'⟩ := tailMoved_frame (recordStored s r w.toNat) r (bget s (rTailOff r)) (rSize (rCfg s r))
  have htail := tail_tailMoved (recordStored s r w.toNat) r (bget s (rTailOff r)) (rSize (rCfg s r))
  have hbit := ringPassBit_tailMoved (recordStored s r w.toNat) r (bget s (rTailOff r)) (rSize (rCfg s r))
  obtain ⟨⟨bar, irq, out, hsig⟩, hregs, hkeeps⟩ := raiseIf_frame (tailMoved (recordStored s r w.toNat) r (bget s (rTailOff r)) (rSize (rCfg s r)))
    (qf (rCfg s r) 1 17 17 = 1) (src (r / 32) (r % 32))
  rw [putRecord_eq] at ht
  rw [← ht] at hsig hregs hkeeps
  have hsamePass : ringPassBit (recordStored s r w.toNat) r = ringPassBit s r := congrArg (SMap.get · r true) hpass
  have hmem : t.mem = (recordStored s r w.toNat).mem := .trans (by rw [hsig]) hmem'
  refine ⟨.trans (by rw [hsig]) (hready'.trans hready), .trans (by rw [hsig]) (hops'.trans hops),
    (hregs _ (by simp only [rTailOff]; omega)).trans htail, ?_, fun h => ?_, fun h => ⟨?_, ?_⟩⟩
  · rw [hsamePass] at hbit
    exact .trans (by rw [hsig]; rfl) hbit
  · rw [hmem, recordStored_local s r _ h]
  · rw [hmem, recordStored_host s r _ h, emit_mem]
  · refine hkeeps.subset ?_
    rw [hout', recordStored_host s r _ h]
    exact List.mem_append_right _ (List.mem_singleton_self _)

theorem exec_recordWrite {s : State} {r : RingId} {x : ReadyRec} (hclock : clockOn s = true) (hx : firstReady s r = some x)
    (hsize : rSize (rCfg s r) ≠ 0) (hroom : ringFull s r = false) (hlink : qHost (rCfg s r) = true → s.aon.pcieUp = true) :
    let u := freeTag (putRecord (dropReady s r) r x.word) x.tag
    exec (.recordWrite r) s = .next u ∨ ∃ n, exec (.recordWrite r) s = .next (retryStream u n) := by
  have hgoes : ¬ (ringFull s r || (qHost (rCfg s r) && !s.aon.pcieUp)) = true := by
    rw [hroom, Bool.false_or, Bool.and_eq_true, Bool.not_eq_true']
    rintro ⟨hhost, hdown⟩
    simp [hlink hhost] at hdown
  have hexec : exec (.recordWrite r) s = .next (writeRecord s r x) := by
    simp only [exec, execRecordWrite]
    rw [hx]
    exact congrArg _ (if_pos hclock)
  rw [hexec, writeRecord]
  dsimp only
  rw [if_neg hsize, if_neg hgoes]
  dsimp only
  split
  · exact .inl rfl
  · exact .inr ⟨_, rfl⟩

theorem findOp_freeTag (t : State) {tg : Nat} : findOp (freeTag t (some tg)) tg = none := by
  refine List.find?_eq_none.mpr fun o ho => ?_
  simpa using (List.mem_filter.mp ho).2

theorem freeTag_frame (t : State) (tag : Option Nat) : (freeTag t tag).ready = t.ready ∧ (freeTag t tag).bar = t.bar ∧
    (freeTag t tag).ringPass = t.ringPass ∧ (freeTag t tag).mem = t.mem ∧ (freeTag t tag).out = t.out := by
  cases tag <;> exact ⟨rfl, rfl, rfl, rfl, rfl⟩

/-- Settles O12: a record joins the end of those that are ready (`readyRecord`), and RECORD_WRITE puts the first of its ring
at the tail (`putRecord_effect`); head and configuration are registers written. -/
theorem recordsGoToTheRingTailInOrderWithTheirPhase : Obligations.RecordsGoToTheRingTailInOrderWithTheirPhase := by
  unfold Obligations.RecordsGoToTheRingTailInOrderWithTheirPhase
  intro s hclock
  refine ⟨fun tag o ho hready htested => ?_, fun r x hx hsize hroom hlink => ?_, fun p r v hok => ?_, fun r v hbars => ⟨fun hlt => ?_, fun hge => ?_⟩⟩
  · have hsame := testExpired_of_tested htested
    have hexec := exec_completionRecord hclock ho hready (by rw [hsame]; exact ho)
    rw [hsame] at hexec
    exact ⟨_, hexec, readyRecord_ready s o, readyRecord_mem s o⟩
  · obtain ⟨hready, hops, htail, hpass, hlocal, hhost⟩ := putRecord_effect (s := dropReady s r) (r := r) x.word r.isLt rfl
    have hexec := exec_recordWrite hclock hx hsize hroom hlink
    obtain ⟨kready, kbar, kpass, kmem, kout⟩ := freeTag_frame (putRecord (dropReady s r) r x.word) x.tag
    refine ⟨_, hexec, kready.trans hready, .trans (by rw [bget, kbar]; rfl) htail, .trans (by rw [ringPassBit, kpass]; rfl) hpass,
      fun tg htg => ?_, fun h => ?_, fun h => ?_⟩
    · rw [htg]
      exact findOp_freeTag _
    · have hmem := kmem.trans (hlocal h)
      refine ⟨(SameMemoryBut.of_memByte_eq (memWrite_sameMemoryBut (List.mem_singleton_self _) s le_rfl ?_) hmem), fun hret => ?_⟩
      · rw [leBytes_length]
      · rw [memVal_of_mem_eq hmem]
        exact (memVal_memWriteVal (s := dropReady s r) _ hret).trans (Nat.mod_eq_of_lt (phased_lt s r _))
    · exact ⟨kmem.trans (hhost h).1, kout ▸ (hhost h).2⟩
  · obtain ⟨t, hexec, -, -, -, hbit, -⟩ := ringConfig_accepted hok
    exact ⟨t, hexec, hbit⟩
  · refine ⟨_, by simp [exec, execRingHead, hclock, hbars, Nat.not_le.mpr hlt]; rfl, bget_bset_same ..⟩
  · simp [exec, execRingHead, hclock, hbars, hge, doorbellError]

end Sys2Proof.Machine
end

section
/-! SUPPORT. The tilth controller's arithmetic: what the classes keep (R372) and the learned powers (R370). -/

namespace Sys2Proof.Machine

/-! What the classes keep. -/

/-- The share of a cut that the classes with room `r` above their floors give up. -/
def spread (cut r : Rat) : Rat := if cut ≤ 0 then 0 else if r ≤ cut then 1 else cut / r

theorem spread_nonneg (cut r : Rat) : 0 ≤ spread cut r := by
  unfold spread
  split
  · exact le_rfl
  · split
    · exact zero_le_one
    · exact div_nonneg (by linarith) (by linarith)

theorem spread_pos {cut r : Rat} (h : 0 < cut) : 0 < spread cut r := by
  unfold spread
  rw [if_neg (not_le.mpr h)]
  split
  · exact zero_lt_one
  · exact div_pos h (by linarith)

theorem foldl_add_nonneg {l : List Nat} {f : Nat → Rat} (hf : ∀ i ∈ l, 0 ≤ f i) {z : Rat} (hz : 0 ≤ z) :
    0 ≤ l.foldl (fun t i => t + f i) z := by
  induction l generalizing z with
  | nil => exact hz
  | cons i l ih =>
    exact ih (fun j hj => hf j (List.mem_cons_of_mem i hj)) (add_nonneg hz (hf i List.mem_cons_self))

/-- A class keeps all of its power, or of a positive cut what the pseudocode of R372 leaves. -/
theorem keeps_getD (first : Nat) (floors d : List Rat) (avail : Rat) {i : Nat} (hi : i < 3) :
    (keeps first floors d avail).1.getD i 1 =
      let cut := d.getD 0 0 + d.getD 1 0 + d.getD 2 0 - avail
      if cut ≤ 0 then 1 else
        let c1 := if first = 0 then 0 else min cut (d.getD (first - 1) 0 * (1 - floors.getD (first - 1) 0))
        let r := ((List.range 3).filter (fun i => i + 1 != first)).foldl (fun t i => t + d.getD i 0 * (1 - floors.getD i 0)) 0
        if i + 1 = first then
          (if r < cut - c1 then floors.getD i 0
           else if first = 0 || d.getD (first - 1) 0 = 0 then 1 else 1 - c1 / d.getD (first - 1) 0)
        else 1 - spread (cut - c1) r * (1 - floors.getD i 0) := by
  unfold keeps spread
  dsimp only
  split
  · match i, hi with
    | 0, _ => rfl
    | 1, _ => rfl
    | 2, _ => rfl
  · rw [List.getD_eq_getElem _ _ (by simpa using hi)]
    simp


/-- No class gains by a cut. -/
theorem keeps_le_one {first : Nat} {floors d : List Rat} {avail : Rat} (hfloors : ∀ i < 3, floors.getD i 0 ≤ 1)
    (hd : ∀ i < 3, 0 ≤ d.getD i 0) {i : Nat} (hi : i < 3) : (keeps first floors d avail).1.getD i 1 ≤ 1 := by
  rw [keeps_getD first floors d avail hi]
  dsimp only
  split
  · exact le_rfl
  case isFalse hcut =>
  have hc1 : ∀ j < 3, 0 ≤ min (d.getD 0 0 + d.getD 1 0 + d.getD 2 0 - avail) (d.getD j 0 * (1 - floors.getD j 0)) := fun j hj =>
    le_min (le_of_not_ge hcut) (mul_nonneg (hd j hj) (by linarith [hfloors j hj]))
  split
  case isTrue hfirst =>
    rw [← hfirst, if_neg (Nat.succ_ne_zero i), Nat.add_sub_cancel]
    split
    · exact hfloors i hi
    · split
      · exact le_rfl
      · linarith [div_nonneg (hc1 i hi) (hd i hi)]
  case isFalse =>
    exact sub_le_self _ (mul_nonneg (spread_nonneg _ _) (by linarith [hfloors i hi]))

/-- Some class keeps less than all exactly when the demand is more than what is there (R372). -/
theorem keeps_capped {first : Nat} {floors d : List Rat} {avail : Rat} (hfirst : first < 4) (hfloors : ∀ i < 3, floors.getD i 0 < 1)
    (hd : ∀ i < 3, 0 ≤ d.getD i 0) :
    (∃ i < 3, (keeps first floors d avail).1.getD i 1 < 1) ↔ avail < d.getD 0 0 + d.getD 1 0 + d.getD 2 0 := by
  constructor
  · rintro ⟨i, hi, hless⟩
    by_contra hno
    rw [keeps_getD first floors d avail hi] at hless
    dsimp only at hless
    rw [if_pos (by linarith)] at hless
    exact lt_irrefl _ hless
  · intro hmore
    have hcut : ¬ d.getD 0 0 + d.getD 1 0 + d.getD 2 0 - avail ≤ 0 := by linarith
    set c1 : Rat := if first = 0 then 0
      else min (d.getD 0 0 + d.getD 1 0 + d.getD 2 0 - avail) (d.getD (first - 1) 0 * (1 - floors.getD (first - 1) 0)) with hc1
    by_cases hrest : 0 < d.getD 0 0 + d.getD 1 0 + d.getD 2 0 - avail - c1
    · -- a class that is not first gives up its share of the rest of the cut
      obtain ⟨i, hi, hne⟩ : ∃ i < 3, i + 1 ≠ first := ⟨if first = 1 then 1 else 0, by split <;> omega, by split <;> omega⟩
      refine ⟨i, hi, ?_⟩
      rw [keeps_getD first floors d avail hi]
      dsimp only
      rw [if_neg hcut, if_neg hne]
      linarith [mul_pos (spread_pos (r := ((List.range 3).filter (fun i => i + 1 != first)).foldl
        (fun t i => t + d.getD i 0 * (1 - floors.getD i 0)) 0) hrest) (by linarith [hfloors i hi] : 0 < 1 - floors.getD i 0)]
    · -- the first class bears the whole cut
      have hne : first ≠ 0 := by
        rintro rfl
        rw [if_pos rfl] at hc1
        linarith
      rw [if_neg hne] at hc1
      have hi : first - 1 < 3 := by omega
      have hwhole := min_le_left (d.getD 0 0 + d.getD 1 0 + d.getD 2 0 - avail) (d.getD (first - 1) 0 * (1 - floors.getD (first - 1) 0))
      have hpart := min_le_right (d.getD 0 0 + d.getD 1 0 + d.getD 2 0 - avail) (d.getD (first - 1) 0 * (1 - floors.getD (first - 1) 0))
      rw [← hc1] at hwhole hpart
      have hpos : 0 < c1 := by linarith
      have hdpos : 0 < d.getD (first - 1) 0 := by
        refine lt_of_le_of_ne (hd _ hi) fun hzero => ?_
        rw [← hzero, zero_mul] at hpart
        linarith
      have hroom : 0 ≤ ((List.range 3).filter (fun i => i + 1 != first)).foldl (fun t i => t + d.getD i 0 * (1 - floors.getD i 0)) 0 :=
        foldl_add_nonneg (fun j hj => by
          have hj3 : j < 3 := List.mem_range.mp (List.mem_of_mem_filter hj)
          exact mul_nonneg (hd j hj3) (by linarith [hfloors j hj3])) le_rfl
      refine ⟨first - 1, hi, ?_⟩
      rw [keeps_getD first floors d avail hi]
      dsimp only
      rw [if_neg hcut, if_pos (by omega), if_neg hne, ← hc1, if_neg (by linarith), if_neg (by rw [Bool.or_eq_true, decide_eq_true_iff, decide_eq_true_iff]; exact not_or.mpr ⟨hne, hdpos.ne'⟩)]
      linarith [div_pos hpos hdpos]

/-! Demand. -/

theorem demand_nonneg (s : State) (cls : Nat) : 0 ≤ demand s cls :=
  foldl_add_nonneg (fun _ _ => div_nonneg (Nat.cast_nonneg _) (Nat.cast_nonneg _)) le_rfl

section
variable {s t : State} (hreg : ∀ i sub, i ≠ 0x3000 → sub < 256 → reg t i sub = reg s i sub) (hbar : t.bar = s.bar)
include hreg hbar

/-- The announced phases read no entry of the power unit itself (3000h). -/
theorem announcedOf_congr (hann : t.power.announced = s.power.announced) (k : Nat) : announcedOf t k = announcedOf s k := by
  have hcfg : ∀ q < 64, qCfg t q = qCfg s q := fun q hq => hreg _ _ (by omega) (by decide)
  have hst : ∀ q < 64, qState t q = qState s q := fun q hq => hreg _ _ (by omega) (by decide)
  have hlook : ∀ q < 64, lookahead t q = lookahead s q := fun q hq => by
    simp only [lookahead, qAvail, qHead, qTail, bget, hcfg q hq, hbar, hreg 0x3080 1 (by decide) (by decide)]
  have hfind : (List.range 64).find? (fun q => qSize (qCfg t q) != 0 && qKind (qCfg t q) == 0
        && 16 * qUnit (qCfg t q) + qPart (qCfg t q) == k && qState t q == 1) =
      (List.range 64).find? (fun q => qSize (qCfg s q) != 0 && qKind (qCfg s q) == 0
        && 16 * qUnit (qCfg s q) + qPart (qCfg s q) == k && qState s q == 1) :=
    List.find?_congr fun q hq => by rw [hcfg q (List.mem_range.mp hq), hst q (List.mem_range.mp hq)]
  unfold announcedOf
  rw [hfind]
  split
  · rfl
  next q hq => rw [hlook q (List.mem_range.mp (List.mem_of_find?_eq_some hq)), hann]

/-- Demand reads no entry of the power unit itself (3000h). -/
theorem demand_congr (hdom : t.domains = s.domains) (hann : t.power.announced = s.power.announced)
    (hphases : t.power.phases = s.power.phases) (cls : Nat) : demand t cls = demand s cls := by
  have hlearned : learnedPowers t = learnedPowers s := by
    funext c p
    unfold learnedPowers learnedEntry domVal domRead domByte
    rw [hdom]
  have hparts : ∀ k, partPowers t k = partPowers s k := fun k => by
    unfold partPowers
    rw [hlearned, announcedOf_congr hreg hbar hann, hphases]
  refine List.foldl_ext _ _ _ fun x a ha => ?_
  have hmode : partMode t a = partMode s a := hreg _ _ (by have := List.mem_range.mp ha; omega) (by decide)
  simp only [hparts, hmode]

end
/-! One evaluation. -/

theorem floorTo_le {q n : Nat} (hq : 0 < q) {x : Rat} (hx : x ≤ n) : floorTo q x ≤ n := by
  have hqr : (0 : Rat) < q := Nat.cast_pos.mpr hq
  rcases le_or_gt (x / q).floor 0 with hneg | hpos
  · rw [floorTo, Int.toNat_of_nonpos hneg, Nat.zero_mul]
    exact Nat.zero_le n
  · have hfloor : (((x / q).floor.toNat : Nat) : Rat) ≤ x / q := by
      rw [← Int.cast_natCast, Int.toNat_of_nonneg hpos.le]
      exact Rat.floor_le _
    have : ((floorTo q x : Nat) : Rat) ≤ n := by
      rw [floorTo, Nat.cast_mul]
      exact ((le_div_iff₀ hqr).mp hfloor).trans hx
    exact_mod_cast this

section
variable {base sub : Nat} (v : Nat → Nat)

theorem foldl_setReg_sameEntriesBut (l : List Nat) (s : State) :
    SameEntriesBut (l.map (fun a => dkey (base + a) sub)) s (l.foldl (fun t a => setReg t (base + a) sub (v a)) s) := by
  induction l generalizing s with
  | nil => exact .refl _ s
  | cons a l ih =>
    exact .trans (.mono (sameEntriesBut_setReg s (base + a) sub (v a)) (by simp)) (.mono (ih _) (List.subset_cons_self _ _))

theorem reg_foldl_setReg {l : List Nat} {a : Nat} (ha : a ∈ l) (hl : l.Nodup) (s : State) :
    reg (l.foldl (fun t a => setReg t (base + a) sub (v a)) s) (base + a) sub = v a := by
  induction l generalizing s with
  | nil => exact absurd ha List.not_mem_nil
  | cons b l ih =>
    obtain ⟨hb, hl⟩ := List.nodup_cons.mp hl
    rcases List.mem_cons.mp ha with rfl | ha
    · refine (foldl_setReg_sameEntriesBut v l _ _ _ fun hmem => ?_).trans (reg_setReg_same ..)
      obtain ⟨c, hc, hkey⟩ := List.mem_map.mp hmem
      exact hb (by rwa [show c = a by simp only [dkey] at hkey; omega] at hc)
    · exact ih ha hl _

theorem foldl_setReg_dictOnly (l : List Nat) (s : State) :
    DictOnly s (l.foldl (fun t a => setReg t (base + a) sub (v a)) s) := by
  induction l generalizing s with
  | nil => exact .refl s
  | cons a l ih => exact .trans (setReg_dictOnly ..) (ih _)

end

theorem DictOnly.power_eq {s t : State} (h : DictOnly s t) : t.power = s.power := by
  obtain ⟨_, rfl⟩ := h
  rfl

/-- The share slot of the present microsecond, its first class and floors, and what is there to share (R372, R373). -/
def shareSlot (s : State) : Nat :=
  fld (reg s 0x3082 2) (8 * ((now s - s.power.wrapAt) / 1000 % 64) + 7) (8 * ((now s - s.power.wrapAt) / 1000 % 64))

def shareBudget (s : State) : Int :=
  if reg s 0x3000 1 ≤ reg s 0x3000 6 + reg s 0x3000 3 then (reg s 0x3000 1 : Int) - reg s 0x3000 3
  else (reg s 0x3000 2 : Int) - reg s 0x3000 3

def sharedKeeps (s : State) : List Rat × Rat :=
  keeps (fld (shareSlot s) 1 0) [(fld (shareSlot s) 7 2 : Rat) / 64, 1 / 8, 1 / 4] [demand s 0, demand s 1, demand s 2]
    (shareBudget s - s.power.fixedW : Int)

def isCapped (s : State) : Bool :=
  (sharedKeeps s).1.getD 0 1 < 1 || (sharedKeeps s).1.getD 1 1 < 1 || (sharedKeeps s).1.getD 2 1 < 1

def thermalPart (s : State) : Rat := (reg s 0x3050 3 : Rat) / 64

/-- The pace of an array. -/
def sharedPace (s : State) (a : Nat) : Nat :=
  let hi := floorTo 10 ((sharedKeeps s).1.getD 0 1 * thermalPart s * (ceilingOf s a : Rat))
  let lo := ceilDiv (ceilingOf s a) 16
  if (sharedKeeps s).2 = 0 || hi ≤ lo then hi else lo + Config.freeValue s.freeCtr % (hi - lo + 1)

def sharedRate (s : State) : Nat := floorTo 10 ((sharedKeeps s).1.getD 1 1 * thermalPart s * 2000)

/-- The entries of an evaluation. -/
def sharesSet (s : State) : State :=
  let s1 := (List.range 4).foldl (fun t a => setReg t (0x3010 + a) 5 (1 + sharedPace s a)) s
  (List.range 4).foldl (fun t n => setReg t (0x2300 + n) 2 (sharedRate s)) s1

def hbmShare (s : State) : Nat := floorTo 1 ((sharedKeeps s).1.getD 2 1 * thermalPart s * 64)

/-- A free value taken and the stacks' share stored. -/
def withHbmRate (u : State) (rate : Nat) : State := { nextFree u with power := { u.power with hbmRate := rate } }

theorem withHbmRate_frame (u : State) (rate : Nat) : (withHbmRate u rate).dict = u.dict ∧ (withHbmRate u rate).mem = u.mem ∧
    (withHbmRate u rate).ops = u.ops ∧ (withHbmRate u rate).power = { u.power with hbmRate := rate } := ⟨rfl, rfl, rfl, rfl⟩

/-- An evaluation before it says whether it capped. -/
def sharesStored (s : State) : State := withHbmRate (sharesSet s) (hbmShare s)

theorem evaluate_eq (s : State) : evaluate s =
    setCond (setReg (sharesStored s) 0x3000 7 (b2n (isCapped s))) (src 15 0) (isCapped s) := rfl

/-- The entries an evaluation writes. -/
def shareKeys : List Nat :=
  [dkey 0x3010 5, dkey 0x3011 5, dkey 0x3012 5, dkey 0x3013 5, dkey 0x2300 2, dkey 0x2301 2, dkey 0x2302 2, dkey 0x2303 2, dkey 0x3000 7]

section
variable (s : State)

theorem sharesSet_dictOnly : DictOnly s (sharesSet s) := (foldl_setReg_dictOnly ..).trans (foldl_setReg_dictOnly ..)

theorem sharesSet_sameEntriesBut : SameEntriesBut shareKeys s (sharesSet s) :=
  .trans (.mono (foldl_setReg_sameEntriesBut (base := 0x3010) (sub := 5) _ _ s) (by decide))
    (.mono (foldl_setReg_sameEntriesBut (base := 0x2300) (sub := 2) _ _ _) (by decide))

theorem reg_evaluate {i sub : Nat} (h : dkey i sub ≠ dkey 0x3000 7) : reg (evaluate s) i sub = reg (sharesSet s) i sub := by
  rw [evaluate_eq, (setCond_signalsOnly _ _ _).reg_eq, reg_setReg_ne (sharesStored s) _ h]
  exact reg_of_dict_eq (withHbmRate_frame _ _).1 i sub

theorem capped_evaluate : reg (evaluate s) 0x3000 7 = b2n (isCapped s) := by
  rw [evaluate_eq, (setCond_signalsOnly _ _ _).reg_eq]
  exact reg_setReg_same ..

theorem evaluate_sameEntriesBut : SameEntriesBut shareKeys s (evaluate s) := fun i sub hkey => by
  rw [reg_evaluate s (fun h => hkey (by rw [h]; decide))]
  exact sharesSet_sameEntriesBut s i sub hkey

theorem pace_evaluate {a : Nat} (ha : a < 4) : reg (evaluate s) (0x3010 + a) 5 = 1 + sharedPace s a := by
  rw [reg_evaluate s (by simp only [dkey]; omega)]
  refine (foldl_setReg_sameEntriesBut (base := 0x2300) (sub := 2) (fun _ => sharedRate s) _ _ _ _ ?_).trans
    (reg_foldl_setReg (base := 0x3010) (sub := 5) (fun a => 1 + sharedPace s a) (List.mem_range.mpr ha) List.nodup_range s)
  simp only [List.mem_map, List.mem_range, dkey, not_exists, not_and]
  omega

theorem rate_evaluate {n : Nat} (hn : n < 4) : reg (evaluate s) (0x2300 + n) 2 = sharedRate s := by
  rw [reg_evaluate s (by simp only [dkey]; omega)]
  exact reg_foldl_setReg (base := 0x2300) (sub := 2) (fun _ => sharedRate s) (List.mem_range.mpr hn) List.nodup_range _

/-- What an evaluation leaves, up to the interrupt it may raise. -/
theorem sharesStored_frame : (sharesStored s).mem = s.mem ∧ (sharesStored s).ops = s.ops ∧
    (sharesStored s).power = { s.power with hbmRate := hbmShare s } := by
  obtain ⟨-, hmem, hops, hpower⟩ := withHbmRate_frame (sharesSet s) (hbmShare s)
  have hdict := sharesSet_dictOnly s
  exact ⟨hmem.trans hdict.mem_eq, hops.trans hdict.ops_eq, hpower.trans (by rw [hdict.power_eq])⟩

theorem evaluate_mem : (evaluate s).mem = s.mem := by
  rw [evaluate_eq, setCond_mem, setReg_mem, (sharesStored_frame s).1]

theorem evaluate_ops : (evaluate s).ops = s.ops := by
  rw [evaluate_eq, (setCond_signalsOnly _ _ _).reportsOnly.ops_eq, setReg_ops, (sharesStored_frame s).2.1]

theorem evaluate_power : (evaluate s).power = { s.power with hbmRate := hbmShare s } := by
  obtain ⟨_, _, _, hsig⟩ := setCond_signalsOnly (setReg (sharesStored s) 0x3000 7 (b2n (isCapped s))) (src 15 0) (isCapped s)
  rw [evaluate_eq, hsig]
  exact (sharesStored_frame s).2.2

/-! Bounds of an evaluation. -/

theorem shareFloors_lt (i : Nat) (hi : i < 3) :
    ([(fld (shareSlot s) 7 2 : Rat) / 64, 1 / 8, 1 / 4] : List Rat).getD i 0 < 1 := by
  have hslot : (fld (shareSlot s) 7 2 : Rat) < 64 := by
    exact_mod_cast Nat.mod_lt _ (by decide : 0 < 2 ^ (7 + 1 - 2))
  match i, hi with
  | 0, _ => exact (div_lt_one (by norm_num)).mpr hslot
  | 1, _ => norm_num
  | 2, _ => norm_num

theorem demands_nonneg (i : Nat) (hi : i < 3) : 0 ≤ ([demand s 0, demand s 1, demand s 2] : List Rat).getD i 0 :=
  match i, hi with
  | 0, _ => demand_nonneg s 0
  | 1, _ => demand_nonneg s 1
  | 2, _ => demand_nonneg s 2

theorem sharedKeeps_le_one {i : Nat} (hi : i < 3) : (sharedKeeps s).1.getD i 1 ≤ 1 :=
  keeps_le_one (fun i hi => (shareFloors_lt s i hi).le) (demands_nonneg s) hi

theorem isCapped_iff : isCapped s = true ↔
    ((shareBudget s - s.power.fixedW : Int) : Rat) < demand s 0 + demand s 1 + demand s 2 := by
  have hfirst : fld (shareSlot s) 1 0 < 4 := Nat.mod_lt _ (by decide)
  refine Iff.trans ?_ (keeps_capped hfirst (shareFloors_lt s) (demands_nonneg s))
  simp only [isCapped, Bool.or_eq_true, decide_eq_true_iff]
  constructor
  · rintro ((h | h) | h)
    · exact ⟨0, by decide, h⟩
    · exact ⟨1, by decide, h⟩
    · exact ⟨2, by decide, h⟩
  · rintro ⟨i, hi, h⟩
    match i, hi with
    | 0, _ => exact .inl (.inl h)
    | 1, _ => exact .inl (.inr h)
    | 2, _ => exact .inr h

/-- What a class keeps, with the thermal factor, of what it may have at most. -/
theorem keptOf_le (hfactor : reg s 0x3050 3 ≤ 64) {i n : Nat} (hi : i < 3) :
    (sharedKeeps s).1.getD i 1 * thermalPart s * n ≤ n := by
  have hf : (reg s 0x3050 3 : Rat) ≤ 64 := by exact_mod_cast hfactor
  have hpos : (0 : Rat) ≤ thermalPart s := div_nonneg (Nat.cast_nonneg _) (by norm_num)
  have hone : thermalPart s ≤ 1 := (div_le_one (by norm_num)).mpr hf
  have hkeep := sharedKeeps_le_one s hi
  have hboth : (sharedKeeps s).1.getD i 1 * thermalPart s ≤ 1 := by nlinarith
  calc _ ≤ (1 : Rat) * n := mul_le_mul_of_nonneg_right hboth (Nat.cast_nonneg _)
    _ = n := one_mul _

theorem sharedPace_le (hfactor : reg s 0x3050 3 ≤ 64) (a : Nat) : sharedPace s a ≤ ceilingOf s a := by
  have hhi : floorTo 10 ((sharedKeeps s).1.getD 0 1 * thermalPart s * (ceilingOf s a : Rat)) ≤ ceilingOf s a :=
    floorTo_le (by decide) (keptOf_le s hfactor (by decide))
  unfold sharedPace
  dsimp only
  split
  · exact hhi
  case isFalse h =>
    rw [Bool.or_eq_true, decide_eq_true_iff, decide_eq_true_iff, not_or, not_le] at h
    obtain ⟨-, hlo⟩ := h
    have hlt (n k : Nat) : n % (k + 1) < k + 1 := Nat.mod_lt n (Nat.succ_pos k)
    have := hlt (Config.freeValue s.freeCtr) (floorTo 10 ((sharedKeeps s).1.getD 0 1 * thermalPart s * (ceilingOf s a : Rat)) - ceilDiv (ceilingOf s a) 16)
    omega

theorem sharedRate_le (hfactor : reg s 0x3050 3 ≤ 64) : sharedRate s ≤ 2000 :=
  floorTo_le (by decide) (keptOf_le s (n := 2000) hfactor (by decide))

end
end Sys2Proof.Machine
end

section
/-! SUPPORT. Learned phases (R370) and power states (R383): what each instruction leaves. -/

namespace Sys2Proof.Machine

/-! Learned powers. -/

theorem domByte_domWrite (s : State) (i sub off : Nat) (l : List Byte) (i' sub' x : Nat) :
    domByte (domWrite s i sub off l) i' sub' x =
      if domKey i sub off ≤ domKey i' sub' x ∧ domKey i' sub' x < domKey i sub off + l.length
      then l.getD (domKey i' sub' x - domKey i sub off) 0 else domByte s i' sub' x := get_putBytes ..

theorem domRead_domWrite_same (s : State) (i sub off : Nat) (l : List Byte) :
    domRead (domWrite s i sub off l) i sub off l.length = l := by
  refine List.ext_getElem (by simp [domRead]) fun j hj hj' => ?_
  simp only [domRead, List.getElem_map, List.getElem_range, domByte_domWrite]
  rw [if_pos (by simp only [domKey]; omega), show domKey i sub (off + j) - domKey i sub off = j by simp only [domKey]; omega]
  exact List.getD_eq_getElem _ _ hj'

theorem domVal_domWrite_same (s : State) (i sub off n v : Nat) :
    domVal (domWrite s i sub off (leBytes n v)) i sub off n = v % 2 ^ (8 * n) := by
  have h := domRead_domWrite_same s i sub off (leBytes n v)
  rw [leBytes_length] at h
  rw [domVal, h, leVal_leBytes]

theorem domVal_domWrite_apart (s : State) {i sub off off' n : Nat} {l : List Byte} (h : off' + n ≤ off ∨ off + l.length ≤ off') :
    domVal (domWrite s i sub off l) i sub off' n = domVal s i sub off' n := by
  unfold domVal domRead
  rw [List.map_congr_left]
  intro j hj
  have := List.mem_range.mp hj
  rw [domByte_domWrite, if_neg (by simp only [domKey]; omega)]

theorem fld_lt (w hi lo : Nat) : fld w hi lo < 2 ^ (hi + 1 - lo) := Nat.mod_lt _ (Nat.two_pow_pos _)

/-- A learned power moves a quarter of the way to the observed one, to either neighbour of an inexact quarter. -/
theorem learn_bounds (free : Nat) {old obs : Nat} (hold : old < 2 ^ 14) (hobs : obs < 2 ^ 14) :
    4 * learn free old obs ≤ 3 * old + obs + 3 ∧ 3 * old + obs ≤ 4 * learn free old obs + 3 ∧
      ((3 * old + obs) % 4 = 0 → 4 * learn free old obs = 3 * old + obs) ∧ learn free old obs < 2 ^ 14 := by
  unfold learn
  dsimp only
  have hfree := Nat.mod_lt free (by decide : 0 < 2)
  generalize free % 2 = b at hfree
  split <;> omega

/-- The word of a learned entry, from the powers and the count of observations. -/
def learnedWord (w0 w1 w2 w3 n : Nat) : Nat := w0 + w1 * 2 ^ 14 + w2 * 2 ^ 28 + w3 * 2 ^ 42 + n * 2 ^ 56

theorem fld_learnedWord {w0 w1 w2 w3 n : Nat} (h0 : w0 < 2 ^ 14) (h1 : w1 < 2 ^ 14) (h2 : w2 < 2 ^ 14) (h3 : w3 < 2 ^ 14) (hn : n < 4) :
    fld (learnedWord w0 w1 w2 w3 n) 13 0 = w0 ∧ fld (learnedWord w0 w1 w2 w3 n) 27 14 = w1 ∧
    fld (learnedWord w0 w1 w2 w3 n) 41 28 = w2 ∧ fld (learnedWord w0 w1 w2 w3 n) 55 42 = w3 ∧
    fld (learnedWord w0 w1 w2 w3 n) 57 56 = n ∧ learnedWord w0 w1 w2 w3 n < 2 ^ 64 := by
  simp only [fld, learnedWord]
  omega

/-- The entry after an observation (R370). -/
def observedWord (s : State) (c p w0 w1 w2 w3 : Nat) : Nat :=
  let e := learnedEntry s c p
  let fr := Config.freeValue s.freeCtr
  learnedWord (learn fr (fld e 13 0) w0) (learn (fr / 2) (fld e 27 14) w1) (learn (fr / 4) (fld e 41 28) w2)
    (learn (fr / 8) (fld e 55 42) w3) (min 3 (fld e 57 56 + 1))

theorem exec_phaseEnd {s : State} (hclock : clockOn s = true) (a : ArrayId) (c : CtxId) (ph : Byte) (w0 w1 w2 w3 : BitVec 14) :
    ∃ t, exec (.phaseEnd a c ph w0 w1 w2 w3) s = .next t ∧ t.mem = s.mem ∧ t.dict = s.dict ∧
      t.domains = (domWrite s 0x3081 1 (learnedOff c ph.toNat)
        (leBytes 8 (observedWord s c ph.toNat w0.toNat w1.toNat w2.toNat w3.toNat))).domains :=
  ⟨_, congrArg Host.Outcome.next (if_pos hclock), rfl, rfl, rfl⟩

/-- The learned entries after an observation. -/
theorem learnedEntry_of_observed {s t : State} {c p w : Nat} (h : t.domains = (domWrite s 0x3081 1 (learnedOff c p) (leBytes 8 w)).domains)
    (hw : w < 2 ^ 64) : learnedEntry t c p = w ∧
      ∀ d x, p < 256 → x < 256 → (d ≠ c ∨ x ≠ p) → learnedEntry t d x = learnedEntry s d x := by
  have hread : ∀ off, domVal t 0x3081 1 off 8 = domVal (domWrite s 0x3081 1 (learnedOff c p) (leBytes 8 w)) 0x3081 1 off 8 := fun off => by
    unfold domVal domRead domByte
    rw [h]
  refine ⟨(hread _).trans ((domVal_domWrite_same ..).trans (Nat.mod_eq_of_lt hw)), fun d x hp hx hne => ?_⟩
  refine (hread _).trans (domVal_domWrite_apart s ?_)
  simp only [leBytes_length, learnedOff]
  omega

/-! RAIL_SCALE and the phases of a queue. -/

theorem railScaleUpdate_clause {s : State} (hclock : clockOn s = true) (k : Fin 10) (m tel : BitVec 64) :
    ∃ t, exec (.railScaleUpdate k m tel) s = .next t ∧ SameEntriesBut [dkey 0x3200 (2 + k)] s t ∧ t.mem = s.mem ∧
      (m ≠ 0 → reg t 0x3200 (2 + k) = railScale (reg s 0x3200 (2 + k)) m.toNat tel.toNat) := by
  by_cases hm : m = 0
  · refine ⟨_, congrArg Host.Outcome.next ((if_pos hclock).trans (if_pos hm)), ?_, rfl, fun h => absurd hm h⟩
    exact sameEntriesBut_setReg s _ _ _
  · exact ⟨_, congrArg Host.Outcome.next ((if_pos hclock).trans (if_neg hm)), sameEntriesBut_setReg s _ _ _, rfl,
      fun _ => reg_setReg_same ..⟩

/-- The state with a slot's phase announced, before the power is shared again. -/
def announcedAt (s : State) (q i c : Nat) : State :=
  let k := 16 * qUnit (qCfg s q) + qPart (qCfg s q)
  let kept := s.power.announced.filter (fun e => e.1 / 2 ^ 13 != k || (lookahead s q).contains (e.1 % 2 ^ 13))
  { s with power := { s.power with announced := SMap.set kept (k * 2 ^ 13 + i) (1 + dPhase (slotDesc s q i).toNat + 256 * c) 0 } }

theorem exec_phaseAnnouncement {s : State} {q : QueueId} {slot : Fin 33} {c : Nat} (hclock : clockOn s = true)
    (hrun : qState s q = 1) (hkind : qKind (qCfg s q) = 0) (hnear : slot.val < reg s 0x3080 1) (hholds : slot.val < qAvail s q)
    (hctx : queueCtx s q = some c) (hlocal : qHost (qCfg s q) = false)
    (hread : slotReadable s c q ((qHead s q + slot) % qSize (qCfg s q)) = true) :
    exec (.phaseAnnouncement q slot) s = .next (evaluate (announcedAt s q ((qHead s q + slot) % qSize (qCfg s q)) c)) := by
  simp only [exec, execPhaseAnnouncement]
  rw [if_pos (by simp [hclock, hrun, hkind, hnear, hholds]), hctx]
  dsimp only
  rw [hlocal, hread]
  rfl

/-! One evaluation. -/

theorem SameEntriesBut.setReg {l : List Nat} {s t : State} (h : SameEntriesBut l s t) {i sub : Nat} (v : Nat) (hl : dkey i sub ∈ l) :
    SameEntriesBut l s (setReg t i sub v) :=
  h.trans (.mono (sameEntriesBut_setReg t i sub v) (by simpa using hl))

/-- The readings of an evaluation stored. -/
def readingsStored (s : State) (p m10 m1 fx : Nat) : State :=
  { setReg (setReg (setReg (bumpBy s 0x3000 8 p) 0x3000 4 p) 0x3000 5 m10) 0x3000 6 m1 with
    power := { s.power with fixedW := fx } }

theorem exec_powerShareEvaluation {s : State} (hclock : clockOn s = true) (p m10 m1 fx : BitVec 32) :
    exec (.powerShareEvaluation p m10 m1 fx) s = .next (evaluate (readingsStored s p.toNat m10.toNat m1.toNat fx.toNat)) :=
  congrArg Host.Outcome.next (if_pos hclock)

section
variable (s : State) (p m10 m1 fx : Nat)

theorem readingsStored_sameEntriesBut :
    SameEntriesBut [dkey 0x3000 8, dkey 0x3000 4, dkey 0x3000 5, dkey 0x3000 6] s (readingsStored s p m10 m1 fx) := by
  have hsets : SameEntriesBut [dkey 0x3000 8, dkey 0x3000 4, dkey 0x3000 5, dkey 0x3000 6] s
      (setReg (setReg (setReg (bumpBy s 0x3000 8 p) 0x3000 4 p) 0x3000 5 m10) 0x3000 6 m1) :=
    ((((SameEntriesBut.refl _ s).setReg _ (by simp)).setReg _ (by simp)).setReg _ (by simp)).setReg _ (by simp)
  exact hsets.trans (.of_dict_eq rfl _)

theorem readingsStored_reg {i : Nat} (hi : i ≠ 0x3000) {sub : Nat} (hsub : sub < 256) :
    reg (readingsStored s p m10 m1 fx) i sub = reg s i sub :=
  readingsStored_sameEntriesBut s p m10 m1 fx i sub (by simp only [dkey, List.mem_cons, List.not_mem_nil, or_false]; omega)

theorem readingsStored_readings :
    reg (readingsStored s p m10 m1 fx) 0x3000 8 = (reg s 0x3000 8 + p) % 2 ^ 64 ∧
    reg (readingsStored s p m10 m1 fx) 0x3000 4 = p ∧ reg (readingsStored s p m10 m1 fx) 0x3000 5 = m10 ∧
    reg (readingsStored s p m10 m1 fx) 0x3000 6 = m1 := by
  have hdict : (readingsStored s p m10 m1 fx).dict =
    (setReg (setReg (setReg (bumpBy s 0x3000 8 p) 0x3000 4 p) 0x3000 5 m10) 0x3000 6 m1).dict := rfl
  refine ⟨?_, ?_, ?_, ?_⟩ <;> rw [reg_of_dict_eq hdict]
  · rw [reg_setReg_ne _ _ (by decide), reg_setReg_ne _ _ (by decide), reg_setReg_ne _ _ (by decide)]
    exact reg_setReg_same ..
  · rw [reg_setReg_ne _ _ (by decide), reg_setReg_ne _ _ (by decide), reg_setReg_same]
  · rw [reg_setReg_ne _ _ (by decide), reg_setReg_same]
  · rw [reg_setReg_same]

theorem demand_readingsStored (cls : Nat) : demand (readingsStored s p m10 m1 fx) cls = demand s cls :=
  demand_congr (fun i sub hi hsub => readingsStored_reg s p m10 m1 fx hi hsub) rfl rfl rfl rfl cls

theorem shareBudget_readingsStored : shareBudget (readingsStored s p m10 m1 fx) =
    if reg s 0x3000 1 ≤ m1 + reg s 0x3000 3 then (reg s 0x3000 1 : Int) - reg s 0x3000 3
    else (reg s 0x3000 2 : Int) - reg s 0x3000 3 := by
  have hkept : ∀ sub, sub < 4 → reg (readingsStored s p m10 m1 fx) 0x3000 sub = reg s 0x3000 sub := fun sub hsub =>
    readingsStored_sameEntriesBut s p m10 m1 fx 0x3000 sub (by simp only [dkey, List.mem_cons, List.not_mem_nil, or_false]; omega)
  unfold shareBudget
  rw [hkept 1 (by decide), hkept 2 (by decide), hkept 3 (by decide), (readingsStored_readings s p m10 m1 fx).2.2.2]

theorem ceilingOf_readingsStored {a : Nat} (ha : a < 4) : ceilingOf (readingsStored s p m10 m1 fx) a = ceilingOf s a := by
  unfold ceilingOf
  rw [readingsStored_reg s p m10 m1 fx (by omega) (by decide)]
  rfl

end

/-- An evaluation stores the readings, reports whether it capped, and gives nothing more than its ceiling. -/
theorem powerShareEvaluation_clause {s : State} (hclock : clockOn s = true) (p m10 m1 fx : BitVec 32) (hfactor : reg s 0x3050 3 ≤ 64) :
    ∃ t, exec (.powerShareEvaluation p m10 m1 fx) s = .next t ∧
      reg t 0x3000 8 = (reg s 0x3000 8 + p.toNat) % 2 ^ 64 ∧ reg t 0x3000 4 = p.toNat ∧ reg t 0x3000 5 = m10.toNat ∧
      reg t 0x3000 6 = m1.toNat ∧
      (let budget : Int := if reg s 0x3000 1 ≤ m1.toNat + reg s 0x3000 3 then (reg s 0x3000 1 : Int) - reg s 0x3000 3
        else (reg s 0x3000 2 : Int) - reg s 0x3000 3
      reg t 0x3000 7 = if (budget : Rat) - (fx.toNat : Rat) < demand s 0 + demand s 1 + demand s 2 then 1 else 0) ∧
      (∀ a, a < 4 → paceLimit t a ≤ ceilingOf s a ∧ reg t (0x2300 + a) 2 ≤ 2000) ∧ t.power.hbmRate ≤ 64 ∧ t.mem = s.mem := by
  obtain ⟨hread8, hread4, hread5, hread6⟩ := readingsStored_readings s p.toNat m10.toNat m1.toNat fx.toNat
  have hkept : reg (readingsStored s p.toNat m10.toNat m1.toNat fx.toNat) 0x3050 3 ≤ 64 := by
    rw [readingsStored_reg s _ _ _ _ (by decide) (by decide)]
    exact hfactor
  have hcapped := isCapped_iff (readingsStored s p.toNat m10.toNat m1.toNat fx.toNat)
  rw [shareBudget_readingsStored, demand_readingsStored, demand_readingsStored, demand_readingsStored] at hcapped
  refine ⟨_, exec_powerShareEvaluation hclock p m10 m1 fx, ?_, ?_, ?_, ?_, ?_, fun a ha => ⟨?_, ?_⟩, ?_, ?_⟩
  · rw [evaluate_sameEntriesBut _ _ _ (by decide), hread8]
  · rw [evaluate_sameEntriesBut _ _ _ (by decide), hread4]
  · rw [evaluate_sameEntriesBut _ _ _ (by decide), hread5]
  · rw [evaluate_sameEntriesBut _ _ _ (by decide), hread6]
  · dsimp only
    rw [capped_evaluate, b2n]
    refine if_congr (hcapped.trans ?_) rfl rfl
    rw [Int.cast_sub, Int.cast_natCast]
    rfl
  · rw [paceLimit, pace_evaluate _ ha, if_neg (by omega), Nat.add_sub_cancel_left]
    exact (sharedPace_le _ hkept a).trans (ceilingOf_readingsStored s _ _ _ _ ha).le
  · rw [rate_evaluate _ ha]
    exact sharedRate_le _ hkept
  · rw [evaluate_power]
    exact floorTo_le (n := 64) (by decide) (keptOf_le _ (n := 64) hkept (by decide))
  · rw [evaluate_mem]
    rfl

/-! The share table. -/

theorem exec_shareTableWrap {s : State} (hclock : clockOn s = true) (hdue : s.power.wrapAt + 64000 ≤ now s) :
    exec .shareTableWrap s = .next (
      let s1 := { s with power := { s.power with wrapAt := now s } }
      if reg s1 0x3082 3 = 1 then setReg (setReg s1 0x3082 2 (reg s1 0x3082 1)) 0x3082 3 0 else s1) :=
  congrArg Host.Outcome.next (if_pos (by rw [hclock, decide_eq_true hdue]; rfl))

theorem shareTableWrap_clause {s : State} (hclock : clockOn s = true) (hdue : s.power.wrapAt + 64000 ≤ now s) :
    ∃ t, exec .shareTableWrap s = .next t ∧ t.power.wrapAt = now s ∧
      (reg s 0x3082 3 = 1 → reg t 0x3082 2 = reg s 0x3082 1 ∧ reg t 0x3082 3 = 0) ∧ (reg s 0x3082 3 ≠ 1 → t.dict = s.dict) ∧
      t.mem = s.mem := by
  have hexec := exec_shareTableWrap hclock hdue
  by_cases hwritten : reg s 0x3082 3 = 1
  · refine ⟨_, hexec.trans (congrArg _ (if_pos hwritten)), rfl, fun _ => ⟨?_, reg_setReg_same ..⟩, fun h => absurd hwritten h, rfl⟩
    rw [reg_setReg_ne _ _ (by decide), reg_setReg_same]
    rfl
  · exact ⟨_, hexec.trans (congrArg _ (if_neg hwritten)), rfl, fun h => absurd h hwritten, fun _ => rfl, rfl⟩

/-! Power states. -/

section
variable {s : State} {p : Path}

theorem exec_d0Request (hok : WriteOk s p 0x3300 2 1 0 (prePowerState 0 s)) :
    exec (.d0Request p) s = .next (answered (effPowerState p 0 s) p) := guarded_of_writeOk _ hok

/-- A request for D0 from D0 or Doze (Table 17.6). -/
theorem effPowerState_d0 : (effPowerState p 0 s).dict = s.dict ∧ (effPowerState p 0 s).mem = s.mem ∧
    (reg s 0x3300 1 = 2 → (effPowerState p 0 s).power.leaving = true) ∧ (reg s 0x3300 1 ≤ 1 → effPowerState p 0 s = s) := by
  unfold effPowerState
  extract_lets st direct
  rw [if_pos rfl]
  split
  next h =>
    refine ⟨rfl, rfl, fun _ => rfl, fun hlow => ?_⟩
    simp only [Bool.or_eq_true, Bool.and_eq_true, decide_eq_true_iff] at h
    omega
  next h =>
    exact ⟨rfl, rfl, fun hdoze => absurd (by rw [Bool.or_eq_true, decide_eq_true_iff]; exact .inl hdoze) h, fun _ => rfl⟩

/-- A request of another state is kept, but in that state and in Hold. -/
theorem effPowerState_entry {v : Nat} (hv : v ≠ 0) : effPowerState p v s =
    if reg s 0x3300 1 = v || reg s 0x3300 1 = 3 then s else { s with power := { s.power with request := v } } :=
  if_neg hv

theorem effPowerState_kept {v : Nat} (hv : v ≠ 0) (hst : reg s 0x3300 1 ≠ v) (hhold : reg s 0x3300 1 ≠ 3) :
    effPowerState p v s = { s with power := { s.power with request := v } } := by
  rw [effPowerState_entry hv, if_neg (by simp [hst, hhold])]

end

/-- Idle arrays ramped: array state alone. -/
theorem rampTrigger_arrays (s : State) (k : Nat) : ∃ arrays, rampTrigger s k = { s with arrays := arrays } := by
  have hstep : ∀ t a, ∃ arrays, rampArray t k a = { t with arrays := arrays } := fun t a => by
    unfold rampArray
    dsimp only
    split
    · exact ⟨_, rfl⟩
    · exact ⟨_, rfl⟩
  unfold rampTrigger
  generalize List.range 4 = l
  induction l generalizing s with
  | nil => exact ⟨_, rfl⟩
  | cons a l ih =>
    obtain ⟨x, hx⟩ := hstep s a
    obtain ⟨y, hy⟩ := ih (rampArray s k a)
    exact ⟨y, by rw [List.foldl_cons, hy, hx]⟩

/-- The controller is restored and no rise is late. -/
def Restored (s : State) : Prop := s.irq.saved = false ∧ s.irq.late = []

theorem startTimer_restored {s : State} (h : Restored s) (g : Nat) : Restored (startTimer s g) := by
  obtain ⟨_, ht⟩ := startTimer_timersOnly s g
  rw [ht]
  exact h

theorem msixOnRise_restored {s : State} (h : Restored s) (n : Nat) : Restored (msixOnRise s n) := by
  unfold msixOnRise sendMsix
  dsimp only
  split
  · split
    · exact h
    · exact startTimer_restored (s := emit s (.msix (srcVector s n))) h _
  · exact h

theorem foldl_restored {α : Type} {f : State → α → State} (hf : ∀ s x, Restored s → Restored (f s x)) (l : List α) {s : State}
    (h : Restored s) : Restored (l.foldl f s) := by
  induction l generalizing s with
  | nil => exact h
  | cons x l ih => exact ih (hf s x h)

theorem linesStart_restored {s : State} (h : Restored s) : Restored (linesStart s) := by
  refine foldl_restored (fun t p ht => ?_) _ h
  split
  · exact foldl_restored (fun _ _ hu => startTimer_restored hu _) _ ht
  · exact ht

theorem msixOnRise_signalsOnly (s : State) (n : Nat) : SignalsOnly s (msixOnRise s n) := by
  unfold msixOnRise
  split
  · exact sendMsix_signalsOnly s n
  · exact .refl s

theorem linesStart_signalsOnly (s : State) : SignalsOnly s (linesStart s) := by
  refine .foldl (fun t p => ?_) _ s
  split
  · exact .foldl startTimer_signalsOnly _ t
  · exact .refl t

/-- D0 again, before the controller speaks. -/
def backInD0 (s : State) : State :=
  setReg { s with
    power := { s.power with leaving := false }
    hbm := { s.hbm with selfRefresh := stopped s }
    irq := { s.irq with saved := false, late := [] } } 0x3300 1 0

theorem returnToD0_clause {s : State} (hclock : clockOn s = true) (hleaving : s.power.leaving = true) :
    ∃ t, exec .returnToD0 s = .next t ∧ reg t 0x3300 1 = 0 ∧ t.power.leaving = false ∧
      t.irq.saved = false ∧ t.irq.late = [] ∧ t.hbm.selfRefresh = stopped s ∧ SameEntriesBut [dkey 0x3300 1] s t ∧ t.mem = s.mem := by
  have hexec : exec .returnToD0 s = .next (rampTrigger (linesStart (s.irq.late.foldl msixOnRise (backInD0 s))) 0) :=
    congrArg Host.Outcome.next (if_pos (by rw [hclock, hleaving]; rfl))
  have hsig : SignalsOnly (backInD0 s) (linesStart (s.irq.late.foldl msixOnRise (backInD0 s))) :=
    (SignalsOnly.foldl msixOnRise_signalsOnly _ _).trans (linesStart_signalsOnly _)
  have hres : Restored (linesStart (s.irq.late.foldl msixOnRise (backInD0 s))) :=
    linesStart_restored (foldl_restored (fun _ n h => msixOnRise_restored h n) _ ⟨rfl, rfl⟩)
  generalize linesStart (s.irq.late.foldl msixOnRise (backInD0 s)) = u at hexec hsig hres
  obtain ⟨_, hramp⟩ := rampTrigger_arrays u 0
  obtain ⟨hsaved, hlate⟩ := hres
  obtain ⟨_, _, _, rfl⟩ := hsig
  rw [hramp] at hexec
  exact ⟨_, hexec, reg_setReg_same .., rfl, hsaved, hlate, rfl, sameEntriesBut_setReg _ _ _ _, rfl⟩

/-- Settles O9: each clause is the effect of one instruction, read through its own equation. -/
theorem sharesPhasesAndPowerStatesMove : Obligations.SharesPhasesAndPowerStatesMove := by
  unfold Obligations.SharesPhasesAndPowerStatesMove
  intro s
  refine ⟨fun hclock k m tel => railScaleUpdate_clause hclock k m tel, fun q slot c hclock hrun hkind hnear hholds hctx hlocal hread => ?_,
    fun hclock p m10 m1 fx hfactor => powerShareEvaluation_clause hclock p m10 m1 fx hfactor,
    fun hclock a c ph w0 w1 w2 w3 => ?_, fun hclock hdue => shareTableWrap_clause hclock hdue, fun p v hok => ?_,
    fun p => ⟨fun hok => ?_, fun hok hdoze hhold => ?_, fun hok hlo hhi => ?_, fun hok hhold => ?_, fun hlive hpasses hbusy => ?_⟩,
    fun hreach hhold => ?_, fun hclock hquiet => ⟨fun hreq => ?_, fun hreq hscrub => ?_⟩, fun hbusy => ⟨?_, ?_⟩,
    fun hclock => ⟨fun hdoze c hc => ?_, fun hdoze hquiet => ?_, fun hhold => ?_, fun hleaving => returnToD0_clause hclock hleaving⟩⟩
  · refine ⟨_, exec_phaseAnnouncement hclock hrun hkind hnear hholds hctx hlocal hread, evaluate_mem _, evaluate_ops _, ?_⟩
    rw [evaluate_power]
    exact SMap.get_set_same ..
  · obtain ⟨t, hexec, hmem, hdict, hdom⟩ := exec_phaseEnd hclock a c ph w0 w1 w2 w3
    have hl0 := learn_bounds (Config.freeValue s.freeCtr) (fld_lt (learnedEntry s c ph.toNat) 13 0) w0.isLt
    have hl1 := learn_bounds (Config.freeValue s.freeCtr / 2) (fld_lt (learnedEntry s c ph.toNat) 27 14) w1.isLt
    have hl2 := learn_bounds (Config.freeValue s.freeCtr / 4) (fld_lt (learnedEntry s c ph.toNat) 41 28) w2.isLt
    have hl3 := learn_bounds (Config.freeValue s.freeCtr / 8) (fld_lt (learnedEntry s c ph.toNat) 55 42) w3.isLt
    obtain ⟨h0, h1, h2, h3, hobs, hsmall⟩ := fld_learnedWord hl0.2.2.2 hl1.2.2.2 hl2.2.2.2 hl3.2.2.2
      (n := min 3 (fld (learnedEntry s c ph.toNat) 57 56 + 1)) (by omega)
    obtain ⟨hentry, hothers⟩ := learnedEntry_of_observed hdom hsmall
    refine ⟨t, hexec, hmem, hdict, ?_, ?_, fun d x _ hx hne => hothers d x ph.isLt hx hne⟩
    · rw [hentry]
      exact hobs
    · rw [hentry]
      simp only [List.forall_mem_cons]
      refine ⟨?_, ?_, ?_, ?_, fun _ h => absurd h List.not_mem_nil⟩
      · exact (congrArg (fun w => 4 * w ≤ _ ∧ _ ≤ 4 * w + 3 ∧ (_ → 4 * w = _)) h0).mpr ⟨hl0.1, hl0.2.1, hl0.2.2.1⟩
      · exact (congrArg (fun w => 4 * w ≤ _ ∧ _ ≤ 4 * w + 3 ∧ (_ → 4 * w = _)) h1).mpr ⟨hl1.1, hl1.2.1, hl1.2.2.1⟩
      · exact (congrArg (fun w => 4 * w ≤ _ ∧ _ ≤ 4 * w + 3 ∧ (_ → 4 * w = _)) h2).mpr ⟨hl2.1, hl2.2.1, hl2.2.2.1⟩
      · exact (congrArg (fun w => 4 * w ≤ _ ∧ _ ≤ 4 * w + 3 ∧ (_ → 4 * w = _)) h3).mpr ⟨hl3.1, hl3.2.1, hl3.2.2.1⟩
  · refine ⟨_, guarded_of_writeOk _ hok, ?_, reg_setReg_same .., ?_, rfl⟩
    · exact (reg_setReg_ne _ _ (by decide)).trans (reg_setReg_same ..)
    · exact ((SameEntriesBut.refl _ s).setReg _ (by simp)).setReg _ (by simp)
  · obtain ⟨hdict, hmem, hleaves, hstays⟩ := effPowerState_d0 (s := s) (p := p)
    exact ⟨_, exec_d0Request hok, hleaves, fun hlow => congrArg (answered · p) (hstays hlow), hdict, hmem⟩
  · refine ⟨_, guarded_of_writeOk _ hok, ?_⟩
    rw [effPowerState_kept (by decide) hdoze hhold]
    exact ⟨rfl, rfl, rfl⟩
  · refine (guarded_of_writeOk _ hok).trans (congrArg (fun u => Host.Outcome.next (answered u p)) ?_)
    rw [effPowerState_entry (by decide), if_pos]
    simp only [Bool.or_eq_true, decide_eq_true_iff]
    omega
  · refine ⟨_, guarded_of_writeOk _ hok, ?_⟩
    rw [effPowerState_kept (by decide) hhold hhold]
    exact ⟨rfl, rfl, rfl⟩
  · have hpre : prePowerState 2 s = dQuiesce := if_pos (by rcases hbusy with h | h <;> simp [h])
    rw [← hpre]
    exact guarded_of_refused _ hlive hpasses (by rw [hpre]; decide)
  · have hreach' : clockOn s = true ∧ s.aon.pcieUp = true := by simpa [hostReaches] using hreach
    exact congrArg Host.Outcome.next (if_pos (by simp [hreach', hhold]))
  · exact ⟨_, congrArg Host.Outcome.next (if_pos (by simp [hclock, hreq, hquiet])), reg_setReg_same .., rfl, rfl, rfl,
      sameEntriesBut_setReg _ _ _ _, rfl⟩
  · refine ⟨_, congrArg Host.Outcome.next (if_pos (by simp [hclock, hreq, hquiet, hscrub])), reg_setReg_same .., ?_, rfl, rfl, ?_, rfl⟩
    · exact (reg_setReg_ne _ _ (by decide)).trans (reg_setReg_same ..)
    · exact ((SameEntriesBut.refl _ s).setReg _ (by simp)).setReg _ (by simp)
  · exact congrArg Host.Outcome.next (if_neg (by simp [hbusy]))
  · exact congrArg Host.Outcome.next (if_neg (by simp [hbusy]))
  · cases c
    case irq => exact absurd rfl hc
    case doorbell => exact congrArg Host.Outcome.next (if_pos (by simp [hclock, hdoze]))
    case inbound => exact congrArg Host.Outcome.next (if_pos (by simp [hclock, hdoze]))
  · have hnone : (List.range 6).any (line s) = false := by simpa using hquiet
    exact congrArg Host.Outcome.next (if_neg (by rw [hnone, Bool.and_false]; decide))
  · exact congrArg Host.Outcome.next (if_pos (by simp [hclock, hhold]))

end Sys2Proof.Machine
end

section
/-! SUPPORT. Rails, ageing and margins (R365 to R369): what alerts, measurements and window ends leave. -/

namespace Sys2Proof.Machine

/-! Conditions of level sources. -/

/-- The condition of level source `m` is as before. -/
def ConditionKept (m : Nat) (s t : State) : Prop := condOf t m = condOf s m

namespace ConditionKept

variable {m : Nat} {s t u : State}

theorem refl (m : Nat) (s : State) : ConditionKept m s s := rfl

theorem trans (h : ConditionKept m s t) (k : ConditionKept m t u) : ConditionKept m s u := Eq.trans k h

theorem of_irq_eq (h : t.irq = s.irq) : ConditionKept m s t := by
  unfold ConditionKept condOf
  rw [h]

theorem foldl {α : Type} {f : State → α → State} (hf : ∀ s x, ConditionKept m s (f s x)) (xs : List α) (s : State) :
    ConditionKept m s (xs.foldl f s) := by
  induction xs generalizing s with
  | nil => exact refl m s
  | cons x xs ih => exact (hf s x).trans (ih (f s x))

theorem ite {b : Prop} [Decidable b] (h : ConditionKept m s t) : ConditionKept m s (if b then t else s) := by
  split
  · exact h
  · exact refl m s

end ConditionKept

section
variable (m : Nat)

theorem raise_conditionKept (s : State) (n : Nat) : ConditionKept m s (raise s n) := condOf_raise s n m

theorem condOf_setCond_ne (s : State) {n m : Nat} (hm : m ≠ n) (b : Bool) : condOf (setCond s n b) m = condOf s m := by
  have hset : ((SMap.get (SMap.set s.irq.cond (n / 32) (setBit (SMap.get s.irq.cond (n / 32) 0) (n % 32) b) 0) (m / 32) 0).testBit
      (m % 32)) = condOf s m := by
    rw [SMap.get_set]
    split
    next h =>
      rw [testBit_setBit, if_neg (by omega), condOf, h]
    · rfl
  unfold setCond
  dsimp only
  split
  · exact (condOf_raise _ n m).trans hset
  · exact hset

theorem beginReq_conditionKept (s : State) (x : Msg) : ConditionKept m s (beginReq s x) := by
  unfold beginReq
  exact .ite rfl

theorem sendCells_conditionKept (k : Nat) (s : State) (p : Nat) : ConditionKept m s (sendCells k s p) := by
  induction k generalizing s with
  | zero => exact .refl m s
  | succ k ih =>
    unfold sendCells
    split
    · exact .refl m s
    next t ht =>
      obtain ⟨-, -, v, -, -, rfl⟩ := sendCell_some ht
      refine .trans ?_ (ih _)
      unfold cellSent
      exact .trans (.trans (t := setLink s p (linkSent s p v)) rfl (.foldl (beginReq_conditionKept m) _ _)) (.of_irq_eq rfl)

theorem sendOn_conditionKept (s : State) (p w : Nat) (x : Msg) : ConditionKept m s (sendOn s p w x) := by
  rw [sendOn_eq]
  exact .trans (t := queued s p w x) rfl (sendCells_conditionKept m _ _ _)

theorem sendOrDrop_conditionKept (s : State) (x : Msg) : ConditionKept m s (sendOrDrop s x) := by
  unfold sendOrDrop
  split
  next t ht =>
    unfold trySend at ht
    split at ht
    · cases ht
      unfold loopSend
      exact .trans (.of_irq_eq rfl) (beginReq_conditionKept m _ x)
    · split at ht
      · cases ht
      · cases ht
        exact sendOn_conditionKept m s _ _ x
  · exact raise_conditionKept m (bump s 0x7000 0x0A) _

theorem noticeAll_conditionKept (s : State) (type : Nat) (body : Line) : ConditionKept m s (noticeAll s type body) :=
  .foldl (fun t p => sendOn_conditionKept m t p _ _) _ s

theorem fieldNotify_irq (s : State) (f : List Byte) : (fieldNotify s f).irq = s.irq := by
  unfold fieldNotify
  dsimp only
  split
  · rfl
  · split
    · rfl
    · split
      · rfl
      · rfl

theorem notify_conditionKept (s : State) (bit index sub : Nat) (payload : List Byte) :
    ConditionKept m s (notify s bit index sub payload) := by
  unfold notify
  refine .ite (.trans ?_ (.of_irq_eq (fieldNotify_irq _ _)))
  exact condOf_raise _ _ m

theorem report_conditionKept (hm : m ≠ src 18 1) (s : State) (e : Event) (entry : List Byte) :
    ConditionKept m s (report s e entry) := by
  unfold report
  extract_lets s1 s2 s3 s4
  have h1 : ConditionKept m s s1 := .foldl (raise_conditionKept m) _ s
  have h2 : ConditionKept m s1 s2 := notify_conditionKept m s1 _ _ _ _
  have h3 : ConditionKept m s2 s3 := by
    refine .ite ?_
    unfold faultNotice
    exact (noticeAll_conditionKept m s2 1 _).trans (.foldl (fun t _ => sendOrDrop_conditionKept m t _) _ _)
  have h4 : ConditionKept m s3 s4 := .ite (condOf_setCond_ne { s3 with rel := { s3.rel with faultDrive := true } } hm true)
  exact h1.trans (h2.trans (h3.trans (h4.trans (.ite (.of_irq_eq rfl)))))

theorem logEvent_conditionKept (hm : m ≠ src 18 1) (s : State) (e : Event) : ConditionKept m s (logEvent s e) := by
  have htests : ∀ n t, ConditionKept m t (e.tests.foldl (fun t x => addTest t e n x) t) := fun n t => .foldl (fun t x => by
    unfold addTest
    dsimp only
    split
    · exact .of_irq_eq rfl
    · exact .of_irq_eq rfl) _ t
  have hcount : ConditionKept m s (countMs s e) := .ite (.of_irq_eq rfl)
  have hentry : ∀ t, ConditionKept m t (writeEntryOf t e 0) := fun t => by
    unfold writeEntryOf
    extract_lets n entry t1 t2
    have h2 : ConditionKept m t t2 := .of_irq_eq (((setReg_irq ..).trans (setReg_irq ..)).trans (domWrite_irq ..))
    exact h2.trans (report_conditionKept m hm t2 e entry)
  unfold logEvent
  dsimp only
  split
  · exact .trans (.of_irq_eq (setReg_irq ..)) (htests _ (bump s 0x8100 3))
  · exact (hcount.trans (hentry _)).trans (htests _ _)

end

/-! Alerts and telemetry (R368). -/

/-- A list of events of severity 1 or more is logged entry by entry. -/
theorem foldl_logEvent_entries {α : Type} (e : α → Event) (hsev : ∀ x, (e x).sev ≠ 0) (l : List α) (s : State) :
    reg (l.foldl (fun t x => logEvent t (e x)) s) 0x8100 2 = reg s 0x8100 2 + l.length := by
  induction l generalizing s with
  | nil => rfl
  | cons x l ih =>
    rw [List.foldl_cons, ih, reg_logEvent_entries (hsev x), List.length_cons]
    omega

theorem ReportsOnly.pins_eq {s t : State} (h : ReportsOnly s t) : t.pins = s.pins := by
  obtain ⟨_, _, _, _, _, _, _, _, _, rfl⟩ := h
  rfl

theorem ReportsOnly.power_eq {s t : State} (h : ReportsOnly s t) : t.power = s.power := by
  obtain ⟨_, _, _, _, _, _, _, _, _, rfl⟩ := h
  rfl

/-- The faulted rails that have an address. -/
abbrev monitored (s : State) (l : List (Fin 10)) : List (Fin 10) := l.filter (fun k => pmbusAddr s k != 0)

/-- The alert noted and the status words read. -/
def alertRead (s : State) : State :=
  emit (setCond { s with pins := { s.pins with pmbAlertN := false } } (src 16 0) true) .pmbusStatusRead

def alertsLogged (s : State) (l : List (Fin 10)) : State :=
  (monitored (alertRead s) l).foldl (fun t k => logEvent t (Event.plain 0x0D 2 0xFF k.val)) (alertRead s)

theorem exec_pmbAlert {s : State} (hclock : clockOn s = true) (hpin : s.pins.pmbAlertN = true) (l : List (Fin 10)) :
    exec (.pmbAlert l) s = .next (raise (alertsLogged s l) (src 15 5)) :=
  congrArg Host.Outcome.next (if_pos (Bool.and_eq_true_iff.mpr ⟨hclock, hpin⟩))

theorem reg_alertRead (s : State) (i sub : Nat) : reg (alertRead s) i sub = reg s i sub := by
  rw [alertRead, reg_emit, (setCond_signalsOnly _ _ _).reg_eq]
  exact reg_of_dict_eq rfl i sub

theorem alertRead_frame (s : State) : (alertRead s).pins.pmbAlertN = false ∧ Output.pmbusStatusRead ∈ (alertRead s).out ∧
    condOf (alertRead s) (src 16 0) = true ∧ (alertRead s).mem = s.mem := by
  have hcond : condOf (setCond { s with pins := { s.pins with pmbAlertN := false } } (src 16 0) true) (src 16 0) = true :=
    condOf_setCond _ _ _
  obtain ⟨_, _, _, hsig⟩ := setCond_signalsOnly { s with pins := { s.pins with pmbAlertN := false } } (src 16 0) true
  unfold alertRead
  rw [hsig] at hcond ⊢
  exact ⟨rfl, List.mem_append_right _ (List.mem_singleton_self _), hcond, rfl⟩

/-- The rails counted by number are those listed. -/
theorem length_filter_val (f : Nat → Bool) (l : List (Fin 10)) :
    (List.filter f (do let a ← l; pure a.val)).length = (l.filter (fun k => f k.val)).length := by
  have hmap : (do let a ← l; pure a.val) = l.map Fin.val := bind_pure_comp Fin.val l
  rw [hmap, List.filter_map, List.length_map]
  rfl

theorem monitored_alertRead (s : State) (l : List (Fin 10)) : monitored (alertRead s) l = monitored s l :=
  List.filter_congr fun k _ => by rw [pmbusAddr, reg_alertRead, pmbusAddr]

theorem pmbAlert_clause {s : State} (hclock : clockOn s = true) (hpin : s.pins.pmbAlertN = true) (l : List (Fin 10)) :
    ∃ t, exec (.pmbAlert l) s = .next t ∧
      t.pins.pmbAlertN = false ∧ Output.pmbusStatusRead ∈ t.out ∧ condOf t (src 16 0) = true ∧ t.mem = s.mem ∧
      reg t 0x8100 2 = reg s 0x8100 2 + (monitored s l).length := by
  have hreport : ReportsOnly (alertRead s) (alertsLogged s l) := .foldl (fun t _ => logEvent_reportsOnly t _) _ _
  have hsends : SendsOnly logKeys (alertRead s) (alertsLogged s l) := .foldl (fun t _ => logEvent_sendsOnly t _) _ _
  have hcond : ConditionKept (src 16 0) (alertRead s) (alertsLogged s l) :=
    .foldl (fun t _ => logEvent_conditionKept _ (by decide) t _) _ _
  have hentries : reg (alertsLogged s l) 0x8100 2 = reg (alertRead s) 0x8100 2 + (monitored (alertRead s) l).length :=
    foldl_logEvent_entries _ (fun _ => two_ne_zero) _ _
  obtain ⟨hpins, hout, hholds, hmem⟩ := alertRead_frame s
  refine ⟨_, exec_pmbAlert hclock hpin l, ?_, ?_, ?_, ?_, ?_⟩
  · rw [(raise_reportsOnly _ _).pins_eq, hreport.pins_eq, hpins]
  · exact (raise_keepsOut _ _).subset (hsends.mem_out hout)
  · exact (condOf_raise _ _ _).trans (Eq.trans hcond hholds)
  · rw [raise_mem, hreport.mem_eq, hmem]
  · rw [(raise_signalsOnly _ _).reg_eq, hentries, reg_alertRead, monitored_alertRead]

theorem railTelemetryPoll_clause {s : State} (hclock : clockOn s = true) (x : RailReading) (haddr : pmbusAddr s x.rail ≠ 0) :
    ∃ t, exec (.railTelemetryPoll [x]) s = .next t ∧
      reg t (0x3060 + x.rail) 2 = x.mv.toNat ∧ reg t (0x3060 + x.rail) 3 = x.ma.toNat ∧ reg t (0x3060 + x.rail) 4 = x.temp.toNat ∧
      SameEntriesBut [dkey (0x3060 + x.rail) 2, dkey (0x3060 + x.rail) 3, dkey (0x3060 + x.rail) 4] s t ∧ t.mem = s.mem := by
  have hexec : exec (.railTelemetryPoll [x]) s = .next (setReg (setReg (setReg s (0x3060 + x.rail) 2 x.mv.toNat)
      (0x3060 + x.rail) 3 x.ma.toNat) (0x3060 + x.rail) 4 x.temp.toNat) := by
    simp only [exec, execRailTelemetryPoll]
    rw [if_pos hclock, List.filter_cons_of_pos (by simpa using haddr)]
    rfl
  refine ⟨_, hexec, ?_, ?_, reg_setReg_same .., ?_, rfl⟩
  · rw [reg_setReg_ne _ _ (by simp only [dkey]; omega), reg_setReg_ne _ _ (by simp only [dkey]; omega), reg_setReg_same]
  · rw [reg_setReg_ne _ _ (by simp only [dkey]; omega), reg_setReg_same]
  · exact (((SameEntriesBut.refl _ s).setReg _ (by simp)).setReg _ (by simp)).setReg _ (by simp)

/-! The loop of a core rail (R369). -/

theorem railStep_mem (s : State) (d : Nat) (ar er : BitVec 32 × BitVec 32) : railStep s d ar er ∈ [-5, 0, 5, 20] := by
  unfold railStep
  dsimp only
  split
  · split
    · decide
    · decide
  · split
    · decide
    · decide

/-- The voltage an update asks for, in mV. -/
def railTarget (s : State) (d : Nat) (ar er : BitVec 32 × BitVec 32) : Nat :=
  if reg s 0x3070 1 = 1 then 700 else (max 550 (min 850 ((reg s (0x3060 + d) 5 : Int) + railStep s d ar er))).toNat

theorem railTarget_cast (s : State) (d : Nat) (ar er : BitVec 32 × BitVec 32) : (railTarget s d ar er : Int) =
    if reg s 0x3070 1 = 1 then 700 else max 550 (min 850 ((reg s (0x3060 + d) 5 : Int) + railStep s d ar er)) := by
  unfold railTarget
  split
  · rfl
  · omega

/-- A rail's loop stopped for want of an acknowledgement. -/
def loopStopped (s : State) (d : Nat) : State :=
  { noteLimits s d with power := { (noteLimits s d).power with
      railStopped := setBit (noteLimits s d).power.railStopped d true } }

section
variable {s : State} {d : Fin 2} (hclock : clockOn s = true) (hready : startState s = 3) (hd0 : reg s 0x3300 1 ≤ 1)
  (hloop : s.power.railStopped.testBit d = false) (haddr : pmbusAddr s d ≠ 0)
include hclock hready hd0 hloop haddr

theorem exec_voltageLoopUpdate (ar er : BitVec 32 × BitVec 32) (acked : Bool) :
    exec (.voltageLoopUpdate d ar er acked) s = .next
      (if railTarget s d ar er = reg s (0x3060 + d) 5 then noteLimits s d
      else if acked then emit (setReg (noteLimits s d) (0x3060 + d) 5 (railTarget s d ar er)) (.pmbusVout d (railTarget s d ar er))
      else logEvent (loopStopped s d) (Event.plain 0x0D 2 0xFF d)) := by
  exact congrArg Host.Outcome.next (if_pos (by simp [hclock, hready, hd0, hloop, haddr]))

theorem voltageLoopUpdate_acked (ar er : BitVec 32 × BitVec 32) :
    ∃ t, exec (.voltageLoopUpdate d ar er true) s = .next t ∧ reg t (0x3060 + d) 5 = railTarget s d ar er ∧
      SameEntriesBut [dkey (0x3060 + d) 5] s t ∧ t.mem = s.mem := by
  have hexec := exec_voltageLoopUpdate hclock hready hd0 hloop haddr ar er true
  by_cases hsame : railTarget s d ar er = reg s (0x3060 + d) 5
  · exact ⟨_, hexec.trans (congrArg _ (if_pos hsame)), hsame.symm, .of_dict_eq rfl _, rfl⟩
  · exact ⟨_, hexec.trans (congrArg _ ((if_neg hsame).trans (if_pos rfl))), reg_setReg_same .., sameEntriesBut_setReg s _ _ _, rfl⟩

theorem voltageLoopUpdate_refused (ar er : BitVec 32 × BitVec 32) (hmoves : railTarget s d ar er ≠ reg s (0x3060 + d) 5) :
    ∃ t, exec (.voltageLoopUpdate d ar er false) s = .next t ∧ reg t (0x3060 + d) 5 = reg s (0x3060 + d) 5 ∧
      t.power.railStopped.testBit d = true ∧ reg t 0x8100 2 = reg s 0x8100 2 + 1 := by
  have hexec := exec_voltageLoopUpdate hclock hready hd0 hloop haddr ar er false
  refine ⟨_, hexec.trans (congrArg _ ((if_neg hmoves).trans (if_neg Bool.false_ne_true))), ?_, ?_, ?_⟩
  · refine ((logEvent_tells _ _).reg_eq ?_).trans (reg_of_dict_eq rfl _ _)
    have hd := d.isLt
    interval_cases d.val <;> decide
  · rw [(logEvent_reportsOnly _ _).power_eq]
    exact (testBit_setBit (noteLimits s d).power.railStopped d d true).trans (if_pos rfl)
  · exact (reg_logEvent_entries two_ne_zero).trans (congrArg (· + 1) (reg_of_dict_eq rfl _ _))

end

/-! Ageing (R365). -/

section
variable {s : State} {a : ArrayId}

theorem ageingFault_reg (s : State) (a : ArrayId) : reg (ageingFault s a) (0x3010 + a) 6 = reg s (0x3010 + a) 6 := by
  refine (logEvent_tells _ _).reg_eq ?_
  have ha := a.isLt
  interval_cases a.val <;> decide

/-- The reduction raised, and its burn begun, when it is more than the present one. -/
def reductionRaised (s : State) (a r : Nat) : State :=
  if reg s (0x3010 + a) 6 < r then
    { setReg s (0x3010 + a) 6 r with power := { s.power with ageBurn := SMap.set s.power.ageBurn a r 0 } }
  else s

theorem reductionRaised_frame (s : State) (a r : Nat) : reg (reductionRaised s a r) (0x3010 + a) 6 = max (reg s (0x3010 + a) 6) r ∧
    (reductionRaised s a r).fuses = s.fuses ∧ (reductionRaised s a r).mem = s.mem ∧
    reg (reductionRaised s a r) 0x8100 2 = reg s 0x8100 2 := by
  unfold reductionRaised
  split
  next h =>
    refine ⟨?_, rfl, rfl, ?_⟩
    · rw [max_eq_right h.le]
      exact reg_setReg_same ..
    · exact (reg_of_dict_eq rfl _ _).trans (reg_setReg_ne (s := s) _ (by simp only [dkey]; omega))
  next h => exact ⟨(max_eq_left (Nat.le_of_not_lt h)).symm, rfl, rfl, rfl⟩

theorem exec_ageingMeasurement (hclock : clockOn s = true) {rate : BitVec 32} (hslow : rate.toNat < ceilingOf s a) :
    exec (.ageingMeasurement a rate) s = .next (
      let want := ceilDiv (ceilingFused s a - rate.toNat) 10 * 10
      let s1 := reductionRaised s a (min want (ceilingFused s a - 2000))
      if ceilingFused s a - 2000 < want then ageingFault s1 a else s1) :=
  congrArg Host.Outcome.next (if_pos (by rw [hclock, decide_eq_true hslow]; rfl))

theorem ceilingOf_ge (t : State) (a : Nat) : 2000 ≤ ceilingOf t a := le_max_left ..

theorem ageingMeasurement_clause (hclock : clockOn s = true) {rate : BitVec 32} (hslow : rate.toNat < ceilingOf s a) :
    let want := (ceilingFused s a - rate.toNat + 9) / 10 * 10
    let r := max (reg s (0x3010 + a) 6) (min want (ceilingFused s a - 2000))
    ∃ t, exec (.ageingMeasurement a rate) s = .next t ∧ reg t (0x3010 + a) 6 = r ∧ 2000 ≤ ceilingOf t a ∧ t.fuses = s.fuses ∧
      t.mem = s.mem ∧ reg t 0x8100 2 = reg s 0x8100 2 + (if ceilingFused s a - 2000 < want then 1 else 0) := by
  intro want r
  have hexec := exec_ageingMeasurement hclock hslow
  have hwant : ceilDiv (ceilingFused s a - rate.toNat) 10 * 10 = want := rfl
  rw [hwant] at hexec
  obtain ⟨hr, hfuses, hmem, hentries⟩ := reductionRaised_frame s a (min want (ceilingFused s a - 2000))
  by_cases hshort : ceilingFused s a - 2000 < want
  · refine ⟨_, hexec.trans (congrArg _ (if_pos hshort)), (ageingFault_reg _ a).trans hr, ceilingOf_ge _ _,
      (logEvent_reportsOnly _ _).fuses_eq.trans hfuses, (logEvent_reportsOnly _ _).mem_eq.trans hmem, ?_⟩
    rw [if_pos hshort, ← hentries]
    exact reg_logEvent_entries (Nat.succ_ne_zero 2)
  · refine ⟨_, hexec.trans (congrArg _ (if_neg hshort)), hr, ceilingOf_ge _ _, hfuses, hmem, ?_⟩
    rw [if_neg hshort]
    exact hentries

theorem exec_ageingFuseBurnEnd (hup : s.aon.up = true) (hburns : SMap.get s.power.ageBurn a 0 ≠ 0) (ok : Bool) :
    exec (.ageingFuseBurnEnd a ok) s = .next (
      let s1 := { s with power := { s.power with ageBurn := SMap.set s.power.ageBurn a 0 0 } }
      if ok then { s1 with fuses := { s1.fuses with ageing := SMap.set s1.fuses.ageing a (SMap.get s.power.ageBurn a 0 / 10) 0 } }
      else ageingFault s1 a) :=
  congrArg Host.Outcome.next (if_neg (by simp [hup, hburns]))

end

/-! Margins (R367). -/

section
variable {s : State} {u : Fin 8}

theorem marginOf_setMargin (s : State) (u : Nat) (m : Margin) : marginOf (setMargin s u m) u = m := SMap.get_set_same ..

/-- A canary event counted. -/
def canaryCounted (s : State) (u : Nat) : State :=
  setMargin (bump s (0x3010 + u) 4) u { marginOf s u with canary := (marginOf s u).canary + 1 }

theorem exec_canaryEvent (hruns : coreRuns s = true) : exec (.canaryEvent u) s =
    .next (if reg s 0x3018 1 < (marginOf s u).canary + 1 then backOff (canaryCounted s u) u else canaryCounted s u) :=
  congrArg Host.Outcome.next (if_pos hruns)

theorem canaryCounted_frame (s : State) (u : Nat) :
    marginOf (canaryCounted s u) u = { marginOf s u with canary := (marginOf s u).canary + 1 } ∧
    reg (canaryCounted s u) (0x3010 + u) 4 = (reg s (0x3010 + u) 4 + 1) % 2 ^ 64 ∧
    marginStep (canaryCounted s u) u = marginStep s u ∧ (canaryCounted s u).mem = s.mem := by
  refine ⟨marginOf_setMargin .., (reg_of_dict_eq rfl _ _).trans (reg_setReg_same (s := s) ..), ?_, rfl⟩
  exact (reg_of_dict_eq rfl _ _).trans (reg_setReg_ne (s := s) _ (by simp only [dkey]; omega))

/-- The margin of a unit after a step back: one coarser where there is one, and an event where there is none. -/
def steppedBack (s : State) (u : Nat) : State :=
  if marginStep s u < 15 then setReg s (0x3010 + u) 1 (marginStep s u + 1)
  else logEvent s { Event.plain 0x0B 3 u (marginStep s u) with tests := [(.fullUnit, u, u)] }

theorem steppedBack_frame (s : State) (u : Fin 8) :
    marginStep (steppedBack s u) u = (if marginStep s u < 15 then marginStep s u + 1 else marginStep s u) ∧
    (steppedBack s u).mem = s.mem := by
  unfold steppedBack
  split
  · exact ⟨reg_setReg_same .., rfl⟩
  · refine ⟨(logEvent_tells _ _).reg_eq ?_, (logEvent_reportsOnly _ _).mem_eq⟩
    have hu := u.isLt
    interval_cases u.val <;> decide

/-- A unit backs off (R367). -/
theorem backOff_frame (s : State) (u : Fin 8) : (marginOf (backOff s u) u).backedOff = true ∧ (marginOf (backOff s u) u).canary = 0 ∧
    marginStep (backOff s u) u = (if marginStep s u < 15 then marginStep s u + 1 else marginStep s u) ∧ (backOff s u).mem = s.mem := by
  obtain ⟨hstep, hmem⟩ := steppedBack_frame s u
  let m : Margin := { marginOf (steppedBack s u) u with canary := 0, cleanWindows := 0, cleanChecks := 0, backedOff := true }
  have hback : backOff s u = raise (bump (setMargin (steppedBack s u) u m) (0x3010 + u) 3) (src 15 6) := rfl
  have hmargin : marginOf (backOff s u) u = m := by
    rw [hback, marginOf, (raise_reportsOnly _ _).power_eq]
    exact marginOf_setMargin (steppedBack s u) u m
  refine ⟨by rw [hmargin], by rw [hmargin], ?_, ?_⟩
  · rw [← hstep, hback, marginStep, (raise_signalsOnly _ _).reg_eq]
    exact (reg_setReg_ne _ _ (by simp only [dkey]; omega)).trans (reg_of_dict_eq rfl _ _)
  · rw [hback, raise_mem]
    exact hmem

/-- The count of clean windows with this one, and whether the margin creeps (R367). -/
abbrev cleanCount (m : Margin) : Nat := if !m.backedOff && m.active then m.cleanWindows + 1 else m.cleanWindows

def creeps (s : State) (u : Nat) : Bool :=
  decide (reg s 0x3018 2 ≤ cleanCount (marginOf s u)) && decide (reg s 0x3018 3 ≤ (marginOf s u).cleanChecks)
    && decide (SMap.get s.fuses.marginFloor u 0 < marginStep s u)

theorem creeps_iff (s : State) (u : Nat) : creeps s u = true ↔ reg s 0x3018 2 ≤ cleanCount (marginOf s u) ∧
    reg s 0x3018 3 ≤ (marginOf s u).cleanChecks ∧ SMap.get s.fuses.marginFloor u 0 < marginStep s u := by
  simp only [creeps, Bool.and_eq_true, decide_eq_true_iff, and_assoc]

/-- A window's end: the counts start anew. -/
def marginWindowEnded (s : State) (u : Nat) : State :=
  setMargin (if creeps s u then setReg s (0x3010 + u) 1 (marginStep s u - 1) else s) u
    { canary := 0, cleanWindows := if creeps s u then 0 else cleanCount (marginOf s u),
      cleanChecks := if creeps s u then 0 else (marginOf s u).cleanChecks, backedOff := false, active := false }

theorem exec_marginWindowEnd (hclock : clockOn s = true) : exec (.marginWindowEnd u) s = .next (marginWindowEnded s u) :=
  congrArg Host.Outcome.next (if_pos hclock)

theorem marginWindowEnded_frame (s : State) (u : Nat) : SameEntriesBut [dkey (0x3010 + u) 1] s (marginWindowEnded s u) ∧
    marginStep (marginWindowEnded s u) u = (if creeps s u then marginStep s u - 1 else marginStep s u) ∧ (marginWindowEnded s u).mem = s.mem := by
  unfold marginWindowEnded
  split
  · exact ⟨sameEntriesBut_setReg s _ _ _, reg_setReg_same .., rfl⟩
  · exact ⟨.of_dict_eq rfl _, rfl, rfl⟩

end

/-- Settles O8: each clause is the effect of one instruction, read through its own equation. -/
theorem railsAgeingAndMarginsMoveInTheirRanges : Obligations.RailsAgeingAndMarginsMoveInTheirRanges := by
  unfold Obligations.RailsAgeingAndMarginsMoveInTheirRanges
  intro s
  refine ⟨fun hclock hpin l => ?_, ?_, fun hclock x haddr => railTelemetryPoll_clause hclock x haddr,
    fun hclock hready hd0 d ar er hloop haddr => ⟨railStep_mem .., ?_, fun hmoves => ?_⟩,
    fun hclock a rate hslow _ => ageingMeasurement_clause hclock hslow, fun hup a hburns => ⟨?_, ?_⟩,
    fun hruns u => ⟨fun hwithin => ?_, fun hbeyond => ?_⟩, fun hclock u => ?_⟩
  · have hcount := length_filter_val (fun k => pmbusAddr s k != 0) l
    rw [hcount]
    exact pmbAlert_clause hclock hpin l
  · obtain ⟨_, _, _, hsig⟩ := setCond_signalsOnly { s with pins := { s.pins with pmbAlertN := true } } (src 16 0) false
    refine ⟨_, rfl, ?_, condOf_setCond _ _ _, ?_, setCond_mem _ _ _⟩
    · rw [hsig]
    · rw [hsig]
  · rw [← railTarget_cast]
    obtain ⟨t, hexec, hreg, hentries, hmem⟩ := voltageLoopUpdate_acked hclock hready hd0 hloop haddr ar er
    exact ⟨t, hexec, congrArg _ hreg, hentries, hmem⟩
  · rw [← railTarget_cast] at hmoves
    exact voltageLoopUpdate_refused hclock hready hd0 hloop haddr ar er fun h => hmoves (congrArg _ h)
  · exact ⟨_, exec_ageingFuseBurnEnd hup hburns true, SMap.get_set_same .., SMap.get_set_same .., rfl, rfl⟩
  · refine ⟨_, (exec_ageingFuseBurnEnd hup hburns false).trans (congrArg _ (if_neg Bool.false_ne_true)),
      (logEvent_reportsOnly _ _).fuses_eq, ?_⟩
    exact (reg_logEvent_entries (Nat.succ_ne_zero 2)).trans (congrArg (· + 1) (reg_of_dict_eq rfl _ _))
  · obtain ⟨hmargin, hcount, hstep, hmem⟩ := canaryCounted_frame s u
    exact ⟨_, (exec_canaryEvent hruns).trans (congrArg _ (if_neg (Nat.not_lt.mpr hwithin))), by rw [hmargin], hcount, hstep, hmem⟩
  · obtain ⟨-, -, hstep, hmem⟩ := canaryCounted_frame s u
    obtain ⟨hback, hcanary, hstep', hmem'⟩ := backOff_frame (canaryCounted s u) u
    rw [hstep] at hstep'
    exact ⟨_, (exec_canaryEvent hruns).trans (congrArg _ (if_pos hbeyond)), hback, hcanary, hstep', hmem'.trans hmem⟩
  · obtain ⟨hentries, hstep, hmem⟩ := marginWindowEnded_frame s u
    have hmargin := marginOf_setMargin (if creeps s u then setReg s (0x3010 + u) 1 (marginStep s u - 1) else s) u
      { canary := 0, cleanWindows := if creeps s u then 0 else cleanCount (marginOf s u),
        cleanChecks := if creeps s u then 0 else (marginOf s u).cleanChecks, backedOff := false, active := false }
    refine ⟨_, exec_marginWindowEnd hclock, hentries, congrArg Margin.canary hmargin, congrArg Margin.backedOff hmargin, hmem,
      fun h => ?_, fun h => ?_⟩
    · have hcreeps := (creeps_iff s u).mpr h
      rw [if_pos hcreeps] at hstep
      refine ⟨hstep, (congrArg Margin.cleanWindows hmargin).trans (if_pos hcreeps), ?_⟩
      have := h.2.2
      omega
    · have hstays : ¬ creeps s u = true := fun hc => h ((creeps_iff s u).mp hc)
      rw [if_neg hstays] at hstep
      exact ⟨hstep, (congrArg Margin.cleanWindows hmargin).trans (if_neg hstays)⟩

end Sys2Proof.Machine
end

section
/-! SUPPORT. The data port over the fabric (R323, R324): a request that waited goes out with a write's own, and may be
discarded then. -/

namespace Sys2Proof.Machine

/-! The counterexample. -/

/-- A data-port write to device 9 that waits to be sent, from the time when this device was number 7. -/
def staleRequest : RemoteReq × Msg :=
  ({ tag := 0, addr := 9 * 2 ^ 44, lines := 1, isRead := false, deadline := 0, sentAt := none, purpose := .portWrite (2 ^ 63 + 9 * 2 ^ 44) },
    mkMsg 2 0 0 7 0 (9 * 2 ^ 44) 0 ones64 [0])

/-- A part that is READY as device 0 with its fabric on and no port UP, DP_ADDR at device 9; the request waits. -/
def portWithStaleRequest : State :=
  { State.reset with
    pins := { Pins.reset with perstN := true }
    aon := { Aon.reset with s0 := true, perstSeen := true, dictUp := true, pcieUp := true, time := 1000000 }
    dict := [(dkey 0x2001 1, 3), (dkey 0x7000 2, 1)]
    bar := [(dpAddrOff, 2 ^ 63 + 9 * 2 ^ 44)]
    fab := { State.reset.fab with unsent := [staleRequest] } }

theorem portWithStaleRequest_served :
    hostReaches portWithStaleRequest = true ∧ barsDead portWithStaleRequest = false ∧
      portHeld portWithStaleRequest (dpWord portWithStaleRequest) 4 = false ∧
      wAddrOk (dpWord portWithStaleRequest) = true ∧ wFabric (dpWord portWithStaleRequest) = true ∧
      bget portWithStaleRequest (pendOff 11) = 0 := by
  decide +kernel

/-- No port leads to device 9, and none to device 7 for the refusal: it is discarded, and source 11.25 is pending. -/
theorem exec_dataPortWrite_stale :
    ∃ t, exec (.dataPortWrite [1, 2, 3, 4] 15 0) portWithStaleRequest = .next t ∧ bget t (pendOff 11) = 2 ^ 25 :=
  ⟨_, rfl, by decide +kernel⟩

/-- Refutes O55: its clause for a write to a fabric address says of every state that no register of BAR0 but DP_ADDR changes.
In `portWithStaleRequest` the write lets a waiting request go out, whose refusal is discarded, and that is an interrupt: a
pending bit is set. -/
theorem not_hostAccessesMoveBytesOfLocalLines : ¬ Obligations.HostAccessesMoveBytesOfLocalLines := by
  intro h
  obtain ⟨hreach, hlive, hfree, hok, hfabric, hclear⟩ := portWithStaleRequest_served
  obtain ⟨hwrite, -⟩ := h portWithStaleRequest hreach
  obtain ⟨-, hserved⟩ := hwrite [1, 2, 3, 4] 15 0 (by decide) (by decide) (by decide)
  obtain ⟨-, -, -, hremote⟩ := hserved hlive hfree
  obtain ⟨t, ht, -, -, hsame⟩ := hremote hok hfabric
  obtain ⟨u, hu, hpending⟩ := exec_dataPortWrite_stale
  obtain rfl := Host.Outcome.next.inj (ht.symm.trans hu)
  have hkept := hsame (pendOff 11) (by decide)
  rw [hpending, hclear] at hkept
  exact absurd hkept (by decide)

end Sys2Proof.Machine
end

section
/-! SUPPORT. Signed commands (R402 to R404): a WRITE_ENTRY of COMM_STATE whose rank table lies in unassigned space (R6). -/

namespace Sys2Proof.Machine

/-! The counterexample. -/

/-- WRITE_ENTRY under owner key 0, and its payload: the value 1 for 7100h:02, one byte long. -/
def activateHeader : List Byte := leBytes 64 (0x444D4353 + 2 ^ 32 + 2 * 2 ^ 40 + 9 * 2 ^ 192)
def activatePayload : List Byte := leBytes 9 (0x7100 + 2 * 2 ^ 16 + 2 ^ 32 + 2 ^ 64)

/-- A part that is READY with this command RUNNING. Communicator 0 is inactive, of one rank and context 0, and its rank table
begins where HBM ends. -/
def activating : State :=
  domWrite (domWrite { State.reset with
    pins := { Pins.reset with perstN := true }
    aon := { Aon.reset with s0 := true, perstSeen := true, dictUp := true, time := 1000000 }
    dict := [(dkey 0x2001 1, 3), (dkey 0x2001 2, 0xFFF), (dkey 0x4100 2, 3), (dkey 0x7100 1, 2 ^ 64 * hbmEnd), (dkey 0x9010 3, 1)] }
    0x9010 1 0 activateHeader) 0x9010 1 5376 activatePayload

/-- The same with the hash of the command's key in owner slot 0, ACTIVE. -/
def activatingSigned : State :=
  { activating with fuses := { State.reset.fuses with ownerState := [(0, 1)], ownerHash := [(0, keyHash activating)] } }

theorem keyHash_activatingSigned : keyHash activatingSigned = keyHash activating := by
  unfold keyHash cmdBytes domRead domByte
  rfl

theorem activatingSigned_key : ownerKeyOk activatingSigned = true := by
  have hslot : cmdKeySlot activatingSigned = 0 := by decide +kernel
  unfold ownerKeyOk
  rw [hslot, keyHash_activatingSigned]
  simp [ownerActive, activatingSigned, SMap.get]

theorem activatingSigned_fields : cmdReady activatingSigned 2 = true ∧
    checkFields activatingSigned (writeEntryPayloadOk activatingSigned) = 0 := by decide +kernel

/-- The write is refused with RANGE, and the address of the table is in the event log. -/
theorem activatingSigned_refused :
    let r := writeEntryBytes activatingSigned .signed (payVal activatingSigned 0 2) (payVal activatingSigned 2 1)
      (cmdBytes activatingSigned 5384 (payVal activatingSigned 4 4))
    r.1 = dRange ∧ reg r.2 0x8100 2 = 1 ∧ reg activatingSigned 0x8100 2 = 0 := by decide +kernel

/-- Refutes O59: its clause for WRITE_ENTRY says that a refused write leaves every entry but its status at 9010h:04. In
`activatingSigned` the write is a COMM_STATE 1 whose rank table lies in unassigned space: it is refused with RANGE, and the
address error it met is logged, so the event log's count rises. -/
theorem not_signedCommandsRunOnlyWhenTheyPass : ¬ Obligations.SignedCommandsRunOnlyWhenTheyPass := by
  intro h
  obtain ⟨-, -, -, -, hwrite, -⟩ := h activatingSigned
  obtain ⟨hready, hfields⟩ := activatingSigned_fields
  obtain ⟨hrange, hlogged, hbefore⟩ := activatingSigned_refused
  obtain ⟨t, -, -, -, hafter, -, hkept⟩ := hwrite { sigOk := true } hready hfields activatingSigned_key rfl
  have hsame := hkept (by rw [hrange]; decide) 0x8100 2 (by decide)
  rw [hafter 0x8100 2 (by decide), hlogged, hbefore] at hsame
  exact absurd hsame (by decide)

end Sys2Proof.Machine
end

section
/-! SUPPORT. Frames, the address, pins and two-phase mode changes (R348 to R360, R416). -/

namespace Sys2Proof.Machine

/-! The mailbox (R354, R355). -/

section
variable {s : State} {k : MailSlot}

@[simp] theorem mailState_setMailRequest (s : State) (k : MailSlot) (f : List Byte) : mailState (setMailRequest s k f) k = 1 := by
  cases k <;> rfl

@[simp] theorem mailRequest_setMailRequest (s : State) (k : MailSlot) (f : List Byte) : mailRequest (setMailRequest s k f) k = f := by
  cases k <;> rfl

@[simp] theorem mailState_mailAnswer (s : State) (k : MailSlot) (f : List Byte) : mailState (mailAnswer s k f) k = 2 := by
  cases k <;> rfl

theorem setMailRequest_frame (s : State) (k : MailSlot) (f : List Byte) :
    (setMailRequest s k f).dict = s.dict ∧ (setMailRequest s k f).mem = s.mem := by
  cases k <;> exact ⟨rfl, rfl⟩

theorem mailAnswer_frame (s : State) (k : MailSlot) (f : List Byte) :
    (mailAnswer s k f).dict = s.dict ∧ (mailAnswer s k f).mem = s.mem := by
  cases k <;> exact ⟨rfl, rfl⟩

theorem mailState_of_frames_eq {t : State} (h : t.frames = s.frames) : mailState t k = mailState s k := by
  cases k <;> simp only [mailState, h]

theorem mailRequest_of_frames_eq {t : State} (h : t.frames = s.frames) : mailRequest t k = mailRequest s k := by
  cases k <;> simp only [mailRequest, h]

/-- The request stored, with its interrupt. -/
def mailTaken (s : State) (k : MailSlot) (f : List Byte) : State := raise (setMailRequest s k f) (src 16 2)

theorem mailTaken_frame (s : State) (k : MailSlot) (f : List Byte) : mailState (mailTaken s k f) k = 1 ∧
    mailRequest (mailTaken s k f) k = f ∧ (mailTaken s k f).dict = s.dict ∧ (mailTaken s k f).mem = s.mem := by
  have hsig := raise_signalsOnly (setMailRequest s k f) (src 16 2)
  obtain ⟨hdict, hmem⟩ := setMailRequest_frame s k f
  exact ⟨(mailState_of_frames_eq hsig.frames_eq).trans (mailState_setMailRequest ..),
    (mailRequest_of_frames_eq hsig.frames_eq).trans (mailRequest_setMailRequest ..), hsig.dict_eq.trans hdict, hsig.mem_eq.trans hmem⟩

theorem exec_mailboxDoorbell (hreach : hostReaches s = true) (hlive : dictLive s = true) (hfree : mailState s k ≠ 1)
    (req : List Byte) (len : BitVec 14) :
    exec (.mailboxDoorbell k req len) s = .next (
      let f := padTo len.toNat req
      if len.toNat < 20 || 8212 < len.toNat then mailAnswer (mailTaken s k f) k (frameAnswer (frameHdr (padTo 16 req)) dLength [])
      else if frameStatus f = 0 then mailTaken s k f
      else mailAnswer (bump (mailTaken s k f) 0x1010 6) k (frameAnswer (frameHdr f) (frameStatus f) [])) :=
  congrArg Host.Outcome.next (if_neg (by simp [hreach, hlive, hfree]))

theorem exec_mailboxDoorbell_busy (hbusy : mailState s k = 1) (req : List Byte) (len : BitVec 14) :
    exec (.mailboxDoorbell k req len) s = .next s := congrArg Host.Outcome.next (if_pos (by simp [hbusy]))

end

/-! The field network (R352, R353). -/

section
variable {s : State} {a : FieldSrc} {f : List Byte}

theorem exec_fieldFrame (hlive : fieldLive s = true) (haddr : linkLocalAddr a.addr = true) (hlong : 16 ≤ f.length) :
    exec (.fieldFrame a f true) s = .next (takeFrame (raise s (src 16 1)) a f) :=
  congrArg Host.Outcome.next ((if_neg (by simp [hlive, haddr])).trans (if_neg (Nat.not_lt.mpr hlong)))

theorem exec_fieldFrame_short (hlive : fieldLive s = true) (haddr : linkLocalAddr a.addr = true) (hshort : f.length < 16) :
    exec (.fieldFrame a f true) s = .next (bump (raise s (src 16 1)) 0x1010 6) :=
  congrArg Host.Outcome.next ((if_neg (by simp [hlive, haddr])).trans (if_pos hshort))

theorem pendingFor_of_frames_eq {t : State} (h : t.frames = s.frames) (tid : BitVec 16) : pendingFor t a tid = pendingFor s a tid := by
  unfold pendingFor
  rw [h]

theorem keptFor_of_signals {t : State} (h : SignalsOnly s t) (tid : BitVec 16) : keptFor t a tid = keptFor s a tid := by
  obtain ⟨_, _, _, rfl⟩ := h
  rfl

theorem takeFrame_bad (hbad : frameStatus f ≠ 0) :
    takeFrame s a f = emit (bump s 0x1010 6) (.datagram a (frameAnswer (frameHdr f) (frameStatus f) [])) := if_pos hbad

theorem takeFrame_repeat (hgood : frameStatus f = 0) (hpending : pendingFor s a (BitVec.ofNat 16 (frameHdr f).tid) = true) :
    takeFrame s a f = { s with frames := { s.frames with
      repeats := s.frames.repeats ++ [{ src := a, tid := BitVec.ofNat 16 (frameHdr f).tid, frame := f }] } } :=
  (if_neg (by simp [hgood])).trans (if_pos hpending)

theorem takeFrame_kept {r : KeptResp} (hgood : frameStatus f = 0)
    (hnew : pendingFor s a (BitVec.ofNat 16 (frameHdr f).tid) = false)
    (hkept : keptFor s a (BitVec.ofNat 16 (frameHdr f).tid) = some r) : takeFrame s a f = emit s (.datagram a r.resp) := by
  refine (if_neg (by simp [hgood])).trans ((if_neg (by simp [hnew])).trans ?_)
  rw [hkept]

theorem takeFrame_new (hgood : frameStatus f = 0) (hnew : pendingFor s a (BitVec.ofNat 16 (frameHdr f).tid) = false)
    (hfresh : keptFor s a (BitVec.ofNat 16 (frameHdr f).tid) = none) :
    takeFrame s a f = if 16 ≤ s.frames.pending.length then emit s (.datagram a (frameAnswer (frameHdr f) dBusy []))
      else { s with frames := { s.frames with
        pending := s.frames.pending ++ [{ src := a, tid := BitVec.ofNat 16 (frameHdr f).tid, frame := f }] } } := by
  refine (if_neg (by simp [hgood])).trans ((if_neg (by simp [hnew])).trans ?_)
  rw [hfresh]

theorem mem_out_emit (s : State) (o : Output) : o ∈ (emit s o).out := List.mem_append_right _ (List.mem_singleton_self _)

end

/-! The address (R352, R416). -/

theorem flushNotify_frame (s : State) : (flushNotify s).frames = { s.frames with notifyQ := [] } ∧ (flushNotify s).aon = s.aon ∧
    (flushNotify s).pins = s.pins ∧ (flushNotify s).dict = s.dict ∧ (flushNotify s).mem = s.mem := by
  unfold flushNotify
  generalize s.frames.notifyQ = l
  have hemits : ∀ t : State, (l.foldl (fun t f => emit t (.datagram (notifyDest t) f)) t).frames = t.frames ∧
      (l.foldl (fun t f => emit t (.datagram (notifyDest t) f)) t).aon = t.aon ∧
      (l.foldl (fun t f => emit t (.datagram (notifyDest t) f)) t).pins = t.pins ∧
      (l.foldl (fun t f => emit t (.datagram (notifyDest t) f)) t).dict = t.dict ∧
      (l.foldl (fun t f => emit t (.datagram (notifyDest t) f)) t).mem = t.mem := by
    induction l with
    | nil => exact fun t => ⟨rfl, rfl, rfl, rfl, rfl⟩
    | cons f l ih => exact fun t => ih (emit t (.datagram (notifyDest t) f))
  exact hemits _

/-! Two-phase mode changes (R357 to R359). -/

theorem effStage_frame (i sub v u : Nat) (s : State) :
    SMap.get (effStage i sub v u s).frames.staged (dkey i sub) 0 = 1 + v ∧ modeState (effStage i sub v u s) u = 1 ∧
    SameEntriesBut [dkey 0x2010 (2 + u)] s (effStage i sub v u s) ∧ (effStage i sub v u s).hbm = s.hbm ∧
    (effStage i sub v u s).mem = s.mem :=
  ⟨SMap.get_set_same .., reg_setReg_same .., .trans (.of_dict_eq rfl _) (sameEntriesBut_setReg _ _ _ _), rfl, rfl⟩

/-- The units that are STAGED. -/
abbrev stagedUnits (s : State) : List Nat := (List.range 4).filter (fun u => modeState s u == 1)

theorem mem_stagedUnits {s : State} {u : Nat} : u ∈ stagedUnits s ↔ u < 4 ∧ modeState s u = 1 := by
  rw [List.mem_filter, List.mem_range, beq_iff_eq]

theorem commitModes_frame (s : State) : (commitModes s).frames = s.frames ∧ (commitModes s).mem = s.mem ∧
    (∀ u < 4, modeState (commitModes s) u = if modeState s u = 1 then 2 else modeState s u) ∧
    SameEntriesBut ((List.range 4).map (fun u => dkey 0x2010 (2 + u))) s (commitModes s) := by
  have hsets : ∀ (l : List Nat) (t : State), l.Nodup → (∀ u ∈ l, u < 4) →
      DictOnly t (l.foldl (fun t u => setReg t 0x2010 (2 + u) 2) t) ∧
      (∀ u, u < 4 → modeState (l.foldl (fun t u => setReg t 0x2010 (2 + u) 2) t) u = if u ∈ l then 2 else modeState t u) ∧
      SameEntriesBut ((List.range 4).map (fun u => dkey 0x2010 (2 + u))) t (l.foldl (fun t u => setReg t 0x2010 (2 + u) 2) t) := by
    intro l
    induction l with
    | nil => exact fun t _ _ => ⟨.refl t, fun u _ => by simp, .refl _ t⟩
    | cons x l ih =>
      intro t hnodup hlt
      obtain ⟨hx, hnodup⟩ := List.nodup_cons.mp hnodup
      obtain ⟨hdict, hstate, hentries⟩ := ih (setReg t 0x2010 (2 + x) 2) hnodup fun u hu => hlt u (List.mem_cons_of_mem x hu)
      refine ⟨(setReg_dictOnly ..).trans hdict, fun u hu => (hstate u hu).trans ?_, SameEntriesBut.trans ?_ hentries⟩
      · have hx4 := hlt x List.mem_cons_self
        by_cases hux : u = x
        · subst hux
          rw [if_neg hx, if_pos List.mem_cons_self, modeState, reg_setReg_same]
        · rw [modeState, reg_setReg_ne _ _ (by simp only [dkey]; omega)]
          simp only [List.mem_cons, hux, false_or, modeState]
      · exact (SameEntriesBut.refl _ t).setReg _ (List.mem_map.mpr ⟨x, List.mem_range.mpr (hlt x List.mem_cons_self), rfl⟩)
  obtain ⟨⟨_, hdict⟩, hstate, hentries⟩ := hsets (stagedUnits s) { s with hbm := { s.hbm with wrapped := [] } }
    (List.nodup_range.filter _) fun u hu => (mem_stagedUnits.mp hu).1
  refine ⟨?_, ?_, fun u hu => (hstate u hu).trans ?_, .trans (.of_dict_eq rfl _) hentries⟩
  · rw [commitModes, hdict]
  · rw [commitModes, hdict]
  · refine if_congr ?_ rfl rfl
    rw [mem_stagedUnits]
    exact and_iff_right hu

/-- Units that return to APPLIED, and the others. -/
theorem modeState_foldl_returnApplied {l : List Nat} (hl : ∀ u ∈ l, u < 4) (s : State) {u : Nat} (hu : u < 4) :
    modeState (l.foldl returnApplied s) u = if u ∈ l then 0 else modeState s u := by
  induction l generalizing s with
  | nil => simp
  | cons x l ih =>
    have hx : x < 4 := hl x List.mem_cons_self
    rw [List.foldl_cons, ih fun u hu => hl u (List.mem_cons_of_mem x hu)]
    by_cases hmem : u ∈ l
    · rw [if_pos hmem, if_pos (List.mem_cons_of_mem x hmem)]
    · by_cases hux : u = x
      · rw [if_neg hmem, if_pos (hux ▸ List.mem_cons_self), hux, modeState_returnApplied s hx]
      · rw [if_neg hmem, if_neg (by simp [hux, hmem])]
        unfold returnApplied modeState
        rw [notify_sameEntriesBut _ _ _ _ _ _ _ (by rw [List.mem_singleton]; unfold dkey; omega),
          reg_setReg_ne _ _ (by simp only [dkey]; omega)]

theorem discardStaged_frame (s : State) : (discardStaged s).frames.staged = [] ∧ (discardStaged s).mem = s.mem ∧
    ∀ u < 4, modeState (discardStaged s) u = if modeState s u = 1 then 0 else modeState s u := by
  refine ⟨discardStaged_staged s, (discardStaged_reportsOnly s).mem_eq, fun u hu => ?_⟩
  refine (modeState_foldl_returnApplied (l := stagedUnits s) (fun u hu => (mem_stagedUnits.mp hu).1)
    { s with frames := { s.frames with staged := [] } } hu).trans (if_congr ?_ rfl rfl)
  rw [mem_stagedUnits]
  exact and_iff_right hu

theorem returnApplied_staged (s : State) (u : Nat) : (returnApplied s u).frames.staged = s.frames.staged :=
  notify_staged (setReg s 0x2010 (2 + u) 0) _ _ _ _

theorem exec_modeApplied_power {s : State} (hclock : clockOn s = true) (hmixed : modeState s 1 = 2) {v : Nat}
    (hstaged : SMap.get s.frames.staged (dkey 0x3070 1) 0 = v + 1) :
    exec (.modeApplied 1) s = .next (returnApplied (setReg
      { s with frames := { s.frames with staged := SMap.set s.frames.staged (dkey 0x3070 1) 0 0 } } 0x3070 1 v) 1) := by
  simp only [exec, execModeApplied]
  rw [hstaged, hclock, hmixed]
  rfl

theorem modeApplied_clause {s : State} (hclock : clockOn s = true) (hmixed : modeState s 1 = 2) {v : Nat}
    (hstaged : SMap.get s.frames.staged (dkey 0x3070 1) 0 = v + 1) :
    ∃ t, exec (.modeApplied 1) s = .next t ∧ reg t 0x3070 1 = v ∧ modeState t 1 = 0 ∧
      SMap.get t.frames.staged (dkey 0x3070 1) 0 = 0 ∧ t.mem = s.mem := by
  refine ⟨_, exec_modeApplied_power hclock hmixed hstaged, ?_, modeState_returnApplied _ (by decide), ?_,
    (returnApplied_reportsOnly _ _).mem_eq⟩
  · unfold returnApplied
    rw [notify_sameEntriesBut _ _ _ _ _ _ _ (by decide), reg_setReg_ne _ _ (by decide), reg_setReg_same]
  · rw [returnApplied_staged]
    exact SMap.get_set_same ..

/-- Settles O58: each clause is the effect of one instruction, read through its own equation. -/
theorem framesAddressesAndModesFollowChapter16 : Obligations.FramesAddressesAndModesFollowChapter16 := by
  unfold Obligations.FramesAddressesAndModesFollowChapter16
  intro s
  refine ⟨fun k req len hreach hlive => ⟨fun hbusy => exec_mailboxDoorbell_busy hbusy req len,
      fun hfree hlo hhi hgood => ?_, fun hfree hlo hhi hbad => ?_, fun hfree hlen => ?_⟩,
    fun a f ok => ⟨fun hnot => ?_, ?_, ?_, ?_⟩,
    fun hlive x data => ⟨?_, fun y hy => ?_, ?_⟩, fun hlive haddr u => ?_, fun hclock hdown => ?_,
    fun p => ⟨fun n v => ⟨fun hok => ?_, fun hlive hpasses hheld hother => ?_⟩,
      fun i sub v u hu => ⟨fun hok => ?_, fun hlive hpasses hmixed => ?_⟩, fun hok => ?_, fun hok => ?_⟩,
    fun hclock hmixed v hstaged => modeApplied_clause hclock hmixed hstaged, fun u hu => ?_⟩
  · obtain ⟨hstate, hreq, hdict, hmem⟩ := mailTaken_frame s k (padTo len.toNat req)
    have hexec := exec_mailboxDoorbell hreach hlive hfree req len
    exact ⟨_, hexec.trans (congrArg _ ((if_neg (by simp; omega)).trans (if_pos hgood))), hstate, hreq, hdict, hmem⟩
  · obtain ⟨-, -, hdict, hmem⟩ := mailTaken_frame s k (padTo len.toNat req)
    have hexec := exec_mailboxDoorbell hreach hlive hfree req len
    obtain ⟨kdict, kmem⟩ := mailAnswer_frame (bump (mailTaken s k (padTo len.toNat req)) 0x1010 6) k
      (frameAnswer (frameHdr (padTo len.toNat req)) (frameStatus (padTo len.toNat req)) [])
    refine ⟨_, hexec.trans (congrArg _ ((if_neg (by simp; omega)).trans (if_neg hbad))), mailState_mailAnswer .., ?_, ?_, kmem.trans hmem⟩
    · rw [reg_of_dict_eq kdict]
      exact (reg_setReg_same ..).trans (by rw [reg_of_dict_eq hdict])
    · exact .trans (.of_dict_eq hdict _) (.trans (sameEntriesBut_setReg _ _ _ _) (.of_dict_eq kdict _))
  · obtain ⟨-, -, hdict, hmem⟩ := mailTaken_frame s k (padTo len.toNat req)
    have hexec := exec_mailboxDoorbell hreach hlive hfree req len
    obtain ⟨kdict, kmem⟩ := mailAnswer_frame (mailTaken s k (padTo len.toNat req)) k (frameAnswer (frameHdr (padTo 16 req)) dLength [])
    exact ⟨_, hexec.trans (congrArg _ (if_pos (by simpa using hlen))), mailState_mailAnswer .., kdict.trans hdict, kmem.trans hmem⟩
  · refine congrArg Host.Outcome.next (if_pos ?_)
    by_contra hserved
    simp only [Bool.or_eq_true, Bool.not_eq_true', not_or, Bool.not_eq_false] at hserved
    exact hnot ⟨hserved.1.1, hserved.1.2, hserved.2⟩
  · rintro ⟨hlive, rfl, haddr⟩ hshort
    have hsig := raise_signalsOnly s (src 16 1)
    exact ⟨_, exec_fieldFrame_short hlive haddr hshort, hsig.frames_eq,
      (reg_setReg_same ..).trans (by rw [hsig.reg_eq]), hsig.mem_eq⟩
  · rintro ⟨hlive, rfl, haddr⟩ hlong hbad
    have hsig := raise_signalsOnly s (src 16 1)
    refine ⟨_, exec_fieldFrame hlive haddr hlong, ?_⟩
    rw [takeFrame_bad hbad]
    exact ⟨hsig.frames_eq, mem_out_emit _ _, hsig.mem_eq⟩
  · rintro ⟨hlive, rfl, haddr⟩ hlong hgood
    have hsig := raise_signalsOnly s (src 16 1)
    have hexec := exec_fieldFrame hlive haddr hlong
    have hpend := pendingFor_of_frames_eq (a := a) hsig.frames_eq (BitVec.ofNat 16 (frameHdr f).tid)
    have hkeep := keptFor_of_signals (a := a) hsig (BitVec.ofNat 16 (frameHdr f).tid)
    refine ⟨fun hrepeat => ?_, fun hnew r hkept => ?_, fun hnew hfresh => ⟨fun hfull => ?_, fun hroom => ?_⟩⟩
    · rw [takeFrame_repeat hgood (hpend.trans hrepeat)] at hexec
      exact ⟨_, hexec, by rw [hsig.frames_eq], hsig.dict_eq⟩
    · rw [takeFrame_kept hgood (hpend.trans hnew) (hkeep.trans hkept)] at hexec
      exact ⟨_, hexec, hsig.frames_eq, mem_out_emit _ _, hsig.dict_eq⟩
    · rw [takeFrame_new hgood (hpend.trans hnew) (hkeep.trans hfresh), if_pos (by rw [hsig.frames_eq]; exact hfull)] at hexec
      exact ⟨_, hexec, hsig.frames_eq, mem_out_emit _ _, hsig.dict_eq⟩
    · rw [takeFrame_new hgood (hpend.trans hnew) (hkeep.trans hfresh),
        if_neg (by rw [hsig.frames_eq]; exact Nat.not_le.mpr hroom)] at hexec
      exact ⟨_, hexec, hsig.dict_eq, by rw [hsig.frames_eq]⟩
  · exact congrArg Host.Outcome.next (if_pos (by rw [hlive, beq_self_eq_true]; rfl))
  · exact congrArg Host.Outcome.next (if_neg (by simp [hy]))
  · exact congrArg Host.Outcome.next (if_pos hlive)
  · exact congrArg Host.Outcome.next (if_pos (by rw [hlive, haddr]; rfl))
  · obtain ⟨hframes, haon, hpins, hdict, hmem⟩ := flushNotify_frame
      { s with aon := { s.aon with dictUp := true }, frames := { s.frames with addrState := 1 } }
    refine ⟨_, congrArg Host.Outcome.next (if_pos (by simp [hclock, hdown])), ?_, by rw [hframes], by rw [hframes], hdict, hmem⟩
    have hon : clockOn (flushNotify { s with aon := { s.aon with dictUp := true }, frames := { s.frames with addrState := 1 } }) = true := by
      unfold clockOn
      rw [haon, hpins]
      exact hclock
    rw [dictLive, hon, haon]
    rfl
  · refine ⟨_, guarded_of_writeOk _ hok, ?_, ?_, ?_, rfl⟩
    · exact (reg_setReg_ne _ _ (by simp only [dkey]; omega)).trans (reg_setReg_same ..)
    · refine (reg_setReg_same ..).trans (if_congr ?_ rfl rfl)
      exact ⟨fun h => BitVec.eq_of_toNat_eq h, fun h => by rw [h]; rfl⟩
    · exact ((SameEntriesBut.refl _ s).setReg _ (by simp)).setReg _ (by simp)
  · have hpre : preGpio p n s = dConflict := if_pos (by simp [hheld, hother])
    rw [← hpre]
    exact guarded_of_refused _ hlive hpasses (by rw [hpre]; decide)
  · obtain ⟨hstaged, hmode, hentries, hhbm, hmem⟩ := effStage_frame i.toNat sub.toNat v.toNat u s
    refine ⟨answered (effStage i.toNat sub.toNat v.toNat u s) p, ?_, hstaged, hmode, hentries, hhbm, hmem⟩
    simp only [exec, execStagedWrite]
    rw [hu]
    exact guarded_of_writeOk _ hok
  · have hpre : preMode s = dBusy := if_pos hmixed
    simp only [exec, execStagedWrite]
    rw [hu, ← hpre]
    exact guarded_of_refused _ hlive hpasses (by rw [hpre]; decide)
  · obtain ⟨hframes, hmem, hstate, hentries⟩ := commitModes_frame s
    exact ⟨_, guarded_of_writeOk _ hok, congrArg Frames.staged hframes, hstate, hentries, hmem⟩
  · obtain ⟨hstaged, hmem, hstate⟩ := discardStaged_frame s
    exact ⟨_, guarded_of_writeOk _ hok, hstaged, hstate, hmem⟩
  · have hunit : (u.val == 1) = false := by
      rw [beq_eq_false_iff_ne]
      exact fun h => hu (Fin.ext h)
    exact congrArg Host.Outcome.next (if_neg (by simp [hunit]))

end Sys2Proof.Machine
end

section
/-! SUPPORT. Dictionary accesses (R341 to R351): what is checked first, and what an accepted one does. -/

namespace Sys2Proof.Machine

/-! The checks. -/

section
variable {s : State} {p : Path} {i sub off len : Nat} {r : DictRow}

theorem checkAccess_of_none (h : lookupEntry i sub = none) (wr block : Bool) : checkAccess s p i sub wr block off len = dNoEntry := by
  unfold checkAccess
  rw [h]

theorem checkAccess_of_some (h : lookupEntry i sub = some r) (wr block : Bool) : checkAccess s p i sub wr block off len =
    if !permitted s p i sub wr then dPrivilege
    else if !(if wr then r.acc.writable else r.acc.readable) then dAccess
    else if block != r.ty.isDomain then dLength
    else if block && (off % 8 != 0 || len % 8 != 0 || decide (r.ty.size < off + len)) then dLength
    else if wr && !block && len != r.ty.size then dLength
    else if !broughtUp s i wr then dNotReady
    else dOk := by
  unfold checkAccess
  rw [h]

/-- Only a block access looks at an offset. -/
theorem checkAccess_entry_off (s : State) (p : Path) (i sub off off' len : Nat) (wr : Bool) :
    checkAccess s p i sub wr false off len = checkAccess s p i sub wr false off' len := by
  cases h : lookupEntry i sub with
  | none => rw [checkAccess_of_none h, checkAccess_of_none h]
  | some r =>
    rw [checkAccess_of_some h, checkAccess_of_some h]
    rfl

theorem noteTable_of_checkAccess {c v : Nat} (h : checkAccess s p (0x7100 + c) 2 true false 0 1 ≠ 0) : noteTable p c v s = s := by
  unfold noteTable
  rw [if_neg (by simp [h])]

end

/-! Whole writes. -/

section
variable {s : State} {p : Path} {i sub : Nat} {b : List Byte}

/-- A write that fails a check before its own condition. -/
theorem writeEntryBytes_of_checkAccess (h : checkAccess s p i sub true false 0 b.length ≠ 0) :
    writeEntryBytes s p i sub b = (checkAccess s p i sub true false 0 b.length, s) := by
  have hnoted : (if inIdx i 0x7100 256 && sub = 2 && b.length = 1 then noteTable p (i - 0x7100) (leVal b) s else s) = s := by
    split
    next hcomm =>
      simp only [Bool.and_eq_true, decide_eq_true_eq] at hcomm
      obtain ⟨⟨hidx, rfl⟩, hlen⟩ := hcomm
      have hi : 0x7100 + (i - 0x7100) = i := by
        simp only [inIdx, Bool.and_eq_true, decide_eq_true_eq] at hidx
        omega
      refine noteTable_of_checkAccess ?_
      rw [hi, ← hlen]
      exact h
    · rfl
  unfold writeEntryBytes
  rw [hnoted, tryWrite, if_pos h]

/-- A write whose condition fails; COMM_STATE may log an address first. -/
theorem writeEntryBytes_of_pre (hpasses : checkAccess s p i sub true false 0 b.length = 0) (hpre : preWrite p i sub (leVal b) s ≠ 0)
    (hother : inIdx i 0x7100 256 = false ∨ sub ≠ 2) : writeEntryBytes s p i sub b = (preWrite p i sub (leVal b) s, s) := by
  unfold writeEntryBytes
  rw [if_neg (by rcases hother with h | h <;> simp [h]), tryWrite, if_neg (by simp [hpasses]), if_pos hpre]

/-- The condition of COMM_STATE. -/
theorem preWrite_commState (hi : inIdx i 0x7100 256 = true) (p : Path) (v : Nat) (s : State) :
    preWrite p i 2 v s = preCommState (i - 0x7100) v s := by
  have hrange : 0x7100 ≤ i ∧ i < 0x7200 := by simpa [inIdx] using hi
  unfold preWrite
  rw [if_neg (by omega)]
  have hbelow : ∀ k n, k + n ≤ 0x7100 → inIdx i k n = false := fun k n hk => by
    simp only [inIdx, Bool.and_eq_false_iff, decide_eq_false_iff_not]
    omega
  simp [preHigh, stagedUnit, hi, hbelow 0x4100 64 (by decide), hbelow 0x5200 20 (by decide), hbelow 0x5300 80 (by decide),
    show i ≠ 0x3040 by omega, show i ≠ 0x3300 by omega, show i ≠ 0x4010 by omega, show i ≠ 0x3000 by omega]

/-- A write whose condition holds reads no rank table before it is made. -/
theorem writeEntryBytes_of_pre_zero (hpre : preWrite p i sub (leVal b) s = 0) : writeEntryBytes s p i sub b =
    tryWrite s p i sub b.length (leVal b) (preWrite p i sub (leVal b)) (effWrite p i sub (leVal b)) := by
  unfold writeEntryBytes
  split
  next hcomm =>
    simp only [Bool.and_eq_true, decide_eq_true_eq] at hcomm
    obtain ⟨⟨hidx, rfl⟩, -⟩ := hcomm
    rw [noteTable_of_pre ((preWrite_commState hidx p _ s).symm.trans hpre)]
  · rfl

theorem writeEntryBytes_of_range (hpasses : checkAccess s p i sub true false 0 b.length = 0) (hpre : preWrite p i sub (leVal b) s = 0)
    (hrange : rangeOk i sub (leVal b) = false) : writeEntryBytes s p i sub b = (dRange, s) := by
  rw [writeEntryBytes_of_pre_zero hpre, tryWrite, if_neg (by simp [hpasses]), if_neg (by simp [hpre]), if_pos (by simp [hrange])]

theorem writeEntryBytes_of_writeOk (hok : WriteOk s p i sub b.length (leVal b) (preWrite p i sub (leVal b) s)) :
    writeEntryBytes s p i sub b = (dOk, effWrite p i sub (leVal b) s) := by
  obtain ⟨-, hpasses, hpre, hrange⟩ := hok
  rw [writeEntryBytes_of_pre_zero hpre, tryWrite, if_neg (by simp [hpasses]), if_neg (by simp [hpre]), if_neg (by simp [hrange])]

end

/-- Entries with no condition and no effect of their own. -/
def plainEntries : List (Nat × Nat) :=
  [(0x1010, 2), (0x1010, 3), (0x1010, 4), (0x2500, 1), (0x2700, 1), (0x2700, 2), (0x2700, 3), (0x2700, 4),
    (0x3000, 1), (0x3000, 2), (0x7000, 1), (0x7000, 3), (0x7000, 4), (0x8000, 1), (0x8000, 3), (0x8000, 6)]

theorem effWrite_plain {x : Nat × Nat} (hx : x ∈ plainEntries) (p : Path) (v : Nat) (s : State) :
    effWrite p x.1 x.2 v s = setReg s x.1 x.2 v ∧ inIdx x.1 0x1100 256 = false := by
  fin_cases hx <;> exact ⟨rfl, rfl⟩

section
variable {s : State} {p : Path} {i : BitVec 16} {sub : BitVec 8} {b : List Byte}

theorem exec_entryWrite (hlive : dictLive s = true) :
    exec (.entryWrite p i sub b) s = .next (answerWrite p i.toNat (writeEntryBytes s p i.toNat sub.toNat b)) :=
  congrArg Host.Outcome.next (if_pos hlive)

/-- A write that is refused, and had no effect, is its answer alone. -/
theorem exec_entryWrite_refused (hlive : dictLive s = true) {c : Nat} (hc : c ≠ 0)
    (h : writeEntryBytes s p i.toNat sub.toNat b = (c, s)) :
    exec (.entryWrite p i sub b) s = .next (emit s (.dictAnswer p c [])) := by
  rw [exec_entryWrite hlive, h, answerWrite, if_neg (by simp [hc])]
  rfl

theorem exec_entryWrite_accepted (hok : WriteOk s p i.toNat sub.toNat b.length (leVal b) (preWrite p i.toNat sub.toNat (leVal b) s))
    (hplain : inIdx i.toNat 0x1100 256 = false) :
    exec (.entryWrite p i sub b) s = .next (answered (effWrite p i.toNat sub.toNat (leVal b) s) p) := by
  rw [exec_entryWrite hok.live, writeEntryBytes_of_writeOk hok, answerWrite, if_neg (by simp [hplain])]
  rfl

end

/-! Requests of a direct path. -/

/-- The request that a direct path makes with opcode `op`. -/
abbrev directRequest (p : Path) (i : BitVec 16) (sub : BitVec 8) (off : BitVec 32) (len : Nat) (b : List Byte) (op : Nat) : Request :=
  { path := p, op := op, index := i.toNat, sub := sub.toNat, offset := off.toNat, len := len, payload := b, limit := 2 ^ 16 }

section
variable {s : State} {p : Path} {i : BitVec 16} {sub : BitVec 8} {off : BitVec 32} {len : BitVec 16} {b : List Byte}

/-- The limit on LENGTH is no check of a direct path. -/
theorem checkRequest_direct {n op : Nat} (hn : n ≤ 2 ^ 16) (hread : op = 1 → n = 0) :
    checkRequest s (directRequest p i sub off n b op) =
      checkAccess s p i.toNat sub.toNat (op == 2 || op == 4) (op == 3 || op == 4) off.toNat (if op = 3 then n else b.length) := by
  have hlimit : ¬ (2 ^ 16 < n || (op = 1 && n != 0)) = true := by
    rw [Bool.or_eq_true, Bool.and_eq_true, decide_eq_true_eq, decide_eq_true_eq, not_or, bne_iff_ne]
    exact ⟨Nat.not_lt.mpr hn, fun h => h.2 (hread h.1)⟩
  unfold checkRequest
  dsimp only
  rw [if_neg hlimit]
  exact ite_self _

theorem dictStep_direct (hdirect : directPath p = true) (op : Nat) : dictStep s (.direct p i sub off len b) op =
    let a := serveRequest s (directRequest p i sub off (if op = 1 then 0 else len.toNat) b op)
    if op = 2 && a.1 = 0 && inIdx i.toNat 0x1100 256 then a.2.2 else emit a.2.2 (.dictAnswer p a.1 a.2.1) := if_pos hdirect

/-- A request that fails the common checks. -/
theorem serveRequest_refused {q : Request} (h : checkRequest s q ≠ 0) : serveRequest s q = (checkRequest s q, [], s) := if_pos h

theorem serveRequest_write {q : Request} (h : checkRequest s q = 0) (hop : q.op = 2) : serveRequest s q =
    ((writeEntryBytes s q.path q.index q.sub q.payload).1, [], (writeEntryBytes s q.path q.index q.sub q.payload).2) := by
  unfold serveRequest
  dsimp only
  rw [if_neg (by simp [h]), if_neg (by omega), if_pos hop]

theorem serveRequest_read {q : Request} (h : checkRequest s q = 0) (hop : q.op = 1) : serveRequest s q =
    (dOk, valueBytes s q.index q.sub, if freeReading s q.index q.sub then nextFree s else s) := by
  unfold serveRequest
  dsimp only
  rw [if_neg (by simp [h]), if_pos hop]

theorem serveRequest_readBlock {q : Request} (h : checkRequest s q = 0) (hop : q.op = 3) : serveRequest s q =
    (dOk, (List.range q.len).map (fun j => readByte s q.index q.sub (q.offset + j)), s) := by
  unfold serveRequest
  dsimp only
  rw [if_neg (by simp [h]), if_neg (by omega), if_neg (by omega), if_pos hop]

theorem serveRequest_writeBlock {q : Request} (h : checkRequest s q = 0) (hop : q.op = 4) : serveRequest s q =
    ((writeDomain s q.path q.index q.sub q.offset q.payload).1, [], (writeDomain s q.path q.index q.sub q.offset q.payload).2) := by
  unfold serveRequest
  dsimp only
  rw [if_neg (by simp [h]), if_neg (by omega), if_neg (by omega), if_neg (by omega)]

/-- A write request of a direct path is the entry write (R351). -/
theorem exec_dictWrite_direct (hlive : dictLive s = true) (hdirect : directPath p = true) (off : BitVec 32) (len : BitVec 16) :
    exec (.dictWrite (.direct p i sub off len b)) s = exec (.entryWrite p i sub b) s := by
  have hcheck : checkRequest s (directRequest p i sub off len.toNat b 2) = checkAccess s p i.toNat sub.toNat true false 0 b.length :=
    (checkRequest_direct (Nat.le_of_lt len.isLt) (fun h => absurd h (by decide))).trans (checkAccess_entry_off s p _ _ _ _ _ true)
  have hexec : exec (.dictWrite (.direct p i sub off len b)) s = .next (dictStep s (.direct p i sub off len b) 2) :=
    congrArg Host.Outcome.next (if_pos hlive)
  have hserved : serveRequest s (directRequest p i sub off len.toNat b 2) =
      ((writeEntryBytes s p i.toNat sub.toNat b).1, [], (writeEntryBytes s p i.toNat sub.toNat b).2) := by
    by_cases hpasses : checkAccess s p i.toNat sub.toNat true false 0 b.length = 0
    · exact serveRequest_write (hcheck.trans hpasses) rfl
    · rw [serveRequest_refused (by rw [hcheck]; exact hpasses), hcheck, writeEntryBytes_of_checkAccess hpasses]
  rw [hexec, exec_entryWrite hlive, dictStep_direct hdirect]
  dsimp only
  rw [if_neg (by decide : ¬ (2 : Nat) = 1), hserved]
  simp [answerWrite, answerTo]

/-- The bytes of a value that is stated. -/
theorem valueBytes_of_stated {i sub : Nat} {r : DictRow} (hr : lookupEntry i sub = some r) (h : freeReading s i sub = false) :
    valueBytes s i sub = leBytes r.ty.size (readVal s i sub) := by
  unfold valueBytes
  rw [hr, h]
  rfl

theorem valueBytes_length {i sub : Nat} {r : DictRow} (hr : lookupEntry i sub = some r) : (valueBytes s i sub).length = r.ty.size := by
  unfold valueBytes
  rw [hr]
  exact leBytes_length ..

theorem exec_dictRead_direct (hlive : dictLive s = true) (hdirect : directPath p = true)
    (hpasses : checkAccess s p i.toNat sub.toNat false false off.toNat b.length = 0) :
    exec (.dictRead (.direct p i sub off len b)) s =
      .next (emit (if freeReading s i.toNat sub.toNat then nextFree s else s) (.dictAnswer p dOk (valueBytes s i.toNat sub.toNat))) := by
  have hcheck : checkRequest s (directRequest p i sub off 0 b 1) = 0 := (checkRequest_direct (by decide) (fun _ => rfl)).trans hpasses
  have hexec : exec (.dictRead (.direct p i sub off len b)) s = .next (dictStep s (.direct p i sub off len b) 1) :=
    congrArg Host.Outcome.next (if_pos hlive)
  rw [hexec, dictStep_direct hdirect]
  dsimp only
  rw [if_pos rfl, serveRequest_read hcheck rfl]
  rfl

theorem exec_readBlock_direct (hlive : dictLive s = true) (hdirect : directPath p = true)
    (hpasses : checkAccess s p i.toNat sub.toNat false true off.toNat len.toNat = 0) :
    exec (.readBlock (.direct p i sub off len b)) s = .next (emit s (.dictAnswer p dOk
      ((List.range len.toNat).map (fun j => readByte s i.toNat sub.toNat (off.toNat + j))))) := by
  have hcheck : checkRequest s (directRequest p i sub off len.toNat b 3) = 0 :=
    (checkRequest_direct (Nat.le_of_lt len.isLt) (fun h => absurd h (by decide))).trans hpasses
  have hexec : exec (.readBlock (.direct p i sub off len b)) s = .next (dictStep s (.direct p i sub off len b) 3) :=
    congrArg Host.Outcome.next (if_pos hlive)
  rw [hexec, dictStep_direct hdirect]
  dsimp only
  rw [if_neg (by decide : ¬ (3 : Nat) = 1), serveRequest_readBlock hcheck rfl]
  rfl

theorem exec_writeBlock_direct (hlive : dictLive s = true) (hdirect : directPath p = true) :
    exec (.writeBlock (.direct p i sub off len b)) s = .next (
      let c := checkAccess s p i.toNat sub.toNat true true off.toNat b.length
      let r := if c ≠ 0 then (c, s) else writeDomain s p i.toNat sub.toNat off.toNat b
      emit r.2 (.dictAnswer p r.1 [])) := by
  have hcheck : checkRequest s (directRequest p i sub off len.toNat b 4) = checkAccess s p i.toNat sub.toNat true true off.toNat b.length :=
    checkRequest_direct (Nat.le_of_lt len.isLt) (fun h => absurd h (by decide))
  have hexec : exec (.writeBlock (.direct p i sub off len b)) s = .next (dictStep s (.direct p i sub off len b) 4) :=
    congrArg Host.Outcome.next (if_pos hlive)
  rw [hexec, dictStep_direct hdirect]
  dsimp only
  rw [if_neg (by decide : ¬ (4 : Nat) = 1), if_neg (by simp)]
  by_cases hpasses : checkAccess s p i.toNat sub.toNat true true off.toNat b.length = 0
  · rw [if_neg (not_not.mpr hpasses), serveRequest_writeBlock (hcheck.trans hpasses) rfl]
  · rw [if_pos hpasses, serveRequest_refused (by rw [hcheck]; exact hpasses), hcheck]

/-- A DOMAIN without a rule of its own takes the bytes. -/
theorem writeDomain_plain {i sub off : Nat} (hi : i ≠ 0x8200) (hi' : i ≠ 0x9010)
    (hpasses : checkAccess s p i sub true true off b.length = 0) : writeDomain s p i sub off b = (dOk, domWrite s i sub off b) := by
  have hunit : off % 8 = 0 ∧ b.length % 8 = 0 := by
    cases hr : lookupEntry i sub with
    | none => rw [checkAccess_of_none hr] at hpasses; cases hpasses
    | some r =>
      rw [checkAccess_of_some hr] at hpasses
      by_contra hnot
      have hbad : (true && (off % 8 != 0 || b.length % 8 != 0 || decide (r.ty.size < off + b.length))) = true := by
        simp only [Bool.true_and, Bool.or_eq_true, bne_iff_ne, ne_eq]
        omega
      rw [hbad] at hpasses
      simp only [dPrivilege, dAccess, dLength, ite_true, ite_self] at hpasses
      split_ifs at hpasses
  unfold writeDomain tryBlock
  rw [if_neg hi, if_neg hi', hpasses]
  simp [hunit, freely, dNoEntry, dPrivilege, dAccess, dLength]

end

/-! Each clause. -/

section
variable {s : State} {p : Path} {i : BitVec 16} {sub : BitVec 8} {b : List Byte}

/-- The first failing check of a write answers, and is all it does. -/
theorem exec_entryWrite_checked (hlive : dictLive s = true) {c : Nat} (hc : c ≠ 0)
    (h : checkAccess s p i.toNat sub.toNat true false 0 b.length = c) :
    exec (.entryWrite p i sub b) s = .next (emit s (.dictAnswer p c [])) := by
  subst h
  exact exec_entryWrite_refused hlive hc (writeEntryBytes_of_checkAccess hc)

theorem checkAccess_write_row {r : DictRow} (hr : lookupEntry i.toNat sub.toNat = some r) (off len : Nat) :
    (permitted s p i.toNat sub.toNat true = false → checkAccess s p i.toNat sub.toNat true false off len = dPrivilege) ∧
    (permitted s p i.toNat sub.toNat true = true → r.acc.writable = false →
      checkAccess s p i.toNat sub.toNat true false off len = dAccess) ∧
    (permitted s p i.toNat sub.toNat true = true → r.acc.writable = true → (r.ty.isDomain = true ∨ len ≠ r.ty.size) →
      checkAccess s p i.toNat sub.toNat true false off len = dLength) ∧
    (permitted s p i.toNat sub.toNat true = true → r.acc.writable = true → r.ty.isDomain = false → len = r.ty.size →
      broughtUp s i.toNat true = false → checkAccess s p i.toNat sub.toNat true false off len = dNotReady) := by
  rw [checkAccess_of_some hr]
  refine ⟨fun hp => by simp [hp], fun hp ha => by simp [hp, ha], fun hp ha hbad => ?_, fun hp ha hd hl hup => by simp [hp, ha, hd, hl, hup]⟩
  cases hd : r.ty.isDomain with
  | true => simp [hp, ha]
  | false => simp [hp, ha, hbad.resolve_left (by simp [hd])]

/-- An entry without an effect of its own then reads the value, and nothing else has changed. -/
theorem exec_entryWrite_plain (hok : WriteOk s p i.toNat sub.toNat b.length (leVal b) (preWrite p i.toNat sub.toNat (leVal b) s))
    (hplain : (i.toNat, sub.toNat) ∈ plainEntries) : ∃ t, exec (.entryWrite p i sub b) s = .next t ∧
      reg t i.toNat sub.toNat = leVal b ∧ SameEntriesBut [dkey i.toNat sub.toNat] s t ∧ t.mem = s.mem ∧ t.ops = s.ops ∧ t.bar = s.bar := by
  obtain ⟨heff, hidx⟩ := effWrite_plain hplain p (leVal b) s
  refine ⟨_, exec_entryWrite_accepted hok hidx, ?_⟩
  rw [heff]
  exact ⟨reg_setReg_same .., sameEntriesBut_setReg s i.toNat sub.toNat (leVal b), rfl, rfl, rfl⟩

/-- The checks of a whole read pass. -/
theorem checkAccess_read_row {r : DictRow} (hr : lookupEntry i.toNat sub.toNat = some r)
    (hp : permitted s p i.toNat sub.toNat false = true) (ha : r.acc.readable = true) (hup : broughtUp s i.toNat false = true) (off len : Nat) :
    (r.ty.isDomain = false → checkAccess s p i.toNat sub.toNat false false off len = 0) ∧
    (r.ty.isDomain = true → off % 8 = 0 → len % 8 = 0 → off + len ≤ r.ty.size →
      checkAccess s p i.toNat sub.toNat false true off len = 0) := by
  rw [checkAccess_of_some hr, checkAccess_of_some hr]
  exact ⟨fun hd => by simp [hp, ha, hd, hup], fun hd ho hl hin => by simp [hp, ha, hd, hup, ho, hl, Nat.not_lt.mpr hin]⟩

end

/-- The bytes written to a DOMAIN, and those left as they were. -/
theorem domByte_domWrite_self (s : State) (i sub off : Nat) (l : List Byte) :
    (∀ j, j < l.length → domByte (domWrite s i sub off l) i sub (off + j) = l.getD j 0) ∧
    (∀ o, o < off ∨ off + l.length ≤ o → domByte (domWrite s i sub off l) i sub o = domByte s i sub o) := by
  refine ⟨fun j hj => ?_, fun o ho => ?_⟩
  · rw [domByte_domWrite, if_pos (by simp only [domKey]; omega), show domKey i sub (off + j) - domKey i sub off = j by simp only [domKey]; omega]
  · rw [domByte_domWrite, if_neg (by simp only [domKey]; omega)]

/-! Requests in frames (R349, R355). -/

section
variable {s : State}

/-- The command of an opcode serves a request as `dictStep` says. -/
theorem exec_served (hlive : dictLive s = true) {op : Nat} {mk : DictReq → Instr}
    (h : (op, mk) ∈ [(1, Instr.dictRead), (2, .dictWrite), (3, .readBlock), (4, .writeBlock)]) (r : DictReq) :
    exec (mk r) s = .next (dictStep s r op) := by
  simp only [List.mem_cons, Prod.mk.injEq, List.not_mem_nil, or_false] at h
  obtain ⟨rfl, rfl⟩ | ⟨rfl, rfl⟩ | ⟨rfl, rfl⟩ | ⟨rfl, rfl⟩ := h <;> exact congrArg Host.Outcome.next (if_pos hlive)

/-- A response sent `n` times goes out and changes nothing else. -/
theorem foldl_emit_frames (n : Nat) (o : Output) (s : State) :
    ((List.range n).foldl (fun t _ => emit t o) s).frames = s.frames ∧
    (0 < n → o ∈ ((List.range n).foldl (fun t _ => emit t o) s).out) := by
  induction n with
  | zero => exact ⟨rfl, fun h => absurd h (lt_irrefl 0)⟩
  | succ n ih =>
    rw [List.range_succ, List.foldl_append]
    exact ⟨ih.1, fun _ => List.mem_append_right _ (List.mem_singleton_self o)⟩

/-- A field response leaves, its request no longer waits, and it is kept for a repeat. -/
theorem fieldAnswer_effect (s : State) (x : FieldSrc) (tid : BitVec 16) (f : List Byte) :
    Output.datagram x f ∈ (fieldAnswer s x tid f).out ∧
    (∀ y ∈ (fieldAnswer s x tid f).frames.pending, ¬ (y.src = x ∧ y.tid = tid)) ∧
    ∃ y ∈ (fieldAnswer s x tid f).frames.kept, y.src = x ∧ y.tid = tid ∧ y.resp = f := by
  unfold fieldAnswer
  extract_lets copies mine fr s1
  obtain ⟨hframes, hout⟩ := foldl_emit_frames (1 + copies.length) (.datagram x f) s1
  refine ⟨hout (by omega), fun y hy => ?_, ⟨{ src := x, tid := tid, resp := f, at_ := now s }, ?_, rfl, rfl, rfl⟩⟩
  · rw [hframes] at hy
    rintro ⟨rfl, rfl⟩
    simpa using (List.mem_filter.mp hy).2
  · rw [hframes]
    exact List.mem_append_right _ (List.mem_singleton_self _)

theorem dictStep_mail {k : MailSlot} {op : Nat} (hbusy : mailState s k = 1) (hop : (frameHdr (mailRequest s k)).op = op) :
    dictStep s (.mail k) op =
      mailAnswer (serveRequest s (requestOf (mailPath k) 8192 (mailRequest s k))).2.2 k
        (frameAnswer (frameHdr (mailRequest s k)) (serveRequest s (requestOf (mailPath k) 8192 (mailRequest s k))).1
          (serveRequest s (requestOf (mailPath k) 8192 (mailRequest s k))).2.1) :=
  if_pos (by simp [hbusy, hop])

theorem dictStep_field {x : FieldSrc} {tid : BitVec 16} {f : FieldTx} {op : Nat}
    (hf : s.frames.pending.find? (fun t => t.src == x && t.tid == tid) = some f) (hop : (frameHdr f.frame).op = op) :
    dictStep s (.field x tid) op =
      fieldAnswer (serveRequest s (requestOf .field 1024 f.frame)).2.2 x tid
        (frameAnswer (frameHdr f.frame) (serveRequest s (requestOf .field 1024 f.frame)).1
          (serveRequest s (requestOf .field 1024 f.frame)).2.1) := by
  unfold dictStep
  dsimp only
  rw [hf]
  exact if_pos hop

end

/-- Settles O57: the checks and effects of R351 by the lemmas above, and each frame's service by `dictStep`. -/
theorem dictionaryAccessesAreCheckedThenServed : Obligations.DictionaryAccessesAreCheckedThenServed := by
  unfold Obligations.DictionaryAccessesAreCheckedThenServed
  intro s p i sub hlive I S answer
  refine ⟨?_, fun hdirect off len b => ⟨fun r hr hp ha hup => ⟨fun hd => ?_, fun hd ho hl hin => ?_⟩, fun h8 h9 _ hc _ => ?_, fun _ hc => ?_⟩, ?_⟩
  · intro b off len c out
    refine ⟨fun hdirect => exec_dictWrite_direct hlive hdirect off len,
      fun hnone => exec_entryWrite_checked hlive (by decide) (checkAccess_of_none hnone ..), fun r hr => ?_,
      fun hc hpre hother => exec_entryWrite_refused hlive hpre (writeEntryBytes_of_pre hc hpre hother),
      fun hc hpre hrange => exec_entryWrite_refused hlive (by decide) (writeEntryBytes_of_range hc hpre hrange),
      fun hok => ⟨fun hplain => exec_entryWrite_accepted hok hplain, fun hplain => exec_entryWrite_plain hok hplain⟩⟩
    obtain ⟨hprivilege, haccess, hlength, hready⟩ := checkAccess_write_row (s := s) (p := p) hr 0 b.length
    exact ⟨fun hp => exec_entryWrite_checked hlive (by decide) (hprivilege hp),
      fun hp ha => exec_entryWrite_checked hlive (by decide) (haccess hp ha),
      fun hp ha hbad => exec_entryWrite_checked hlive (by decide) (hlength hp ha hbad),
      fun hp ha hd hl hup => exec_entryWrite_checked hlive (by decide) (hready hp ha hd hl hup)⟩
  · have hread := exec_dictRead_direct (len := len) hlive hdirect ((checkAccess_read_row hr hp ha hup off.toNat b.length).1 hd)
    refine ⟨fun hstated => ?_, fun hfree => ?_⟩
    · rw [hread, valueBytes_of_stated hr hstated, if_neg (by rw [hstated]; decide)]
    · exact ⟨_, _, hread, by rw [if_pos hfree]; rfl, valueBytes_length hr, by rw [if_pos hfree]; rfl, by rw [if_pos hfree]; rfl⟩
  · exact exec_readBlock_direct hlive hdirect ((checkAccess_read_row hr hp ha hup off.toNat len.toNat).2 hd ho hl hin)
  · have hwrite := exec_writeBlock_direct (s := s) (p := p) (i := i) (sub := sub) (off := off) (len := len) (b := b) hlive hdirect
    dsimp only at hwrite
    rw [if_neg (not_not.mpr hc), writeDomain_plain h8 h9 hc] at hwrite
    obtain ⟨htaken, hrest⟩ := domByte_domWrite_self s I S off.toNat b
    exact ⟨_, hwrite, htaken, fun o ho _ => hrest o ho, rfl, rfl⟩
  · have hwrite := exec_writeBlock_direct (s := s) (p := p) (i := i) (sub := sub) (off := off) (len := len) (b := b) hlive hdirect
    dsimp only at hwrite
    rw [if_pos hc] at hwrite
    exact ⟨_, hc, hwrite⟩
  · intro op mk hmk
    constructor
    · intro k hbusy hop a
      exact ⟨_, (exec_served hlive hmk _).trans (congrArg _ (dictStep_mail hbusy hop)), mailState_mailAnswer .., rfl⟩
    · intro x tid f hf hop a resp
      exact ⟨_, (exec_served hlive hmk _).trans (congrArg _ (dictStep_field hf hop)), fieldAnswer_effect ..⟩

end Sys2Proof.Machine
end

section
/-! SUPPORT. Two buckets of one name: one in flight, and one that has ended and whose update is settled (R165). -/

namespace Sys2Proof.Machine

/-- A bucket 0 of collective 1 of communicator 0 by operation 7 with opcode `op`: 32 FP32 elements, nothing come or sent. -/
def bareBucket (op : Nat) : Bucket :=
  { tag := 7, comm := 0, seq := 1, number := 0, desc := BitVec.ofNat 1024 (op + 2 ^ 8 + 2 ^ 128 * 32), ctx := 0, taken := 0,
    feeder := none, own := [], comp := [], sent := 0, sentParts := [], part := [], streams := [], result := [],
    foldDone := false, blockVals := [], scaleTab := [], scaleIn := [], scaleFrom := [], scaleSent := [], needScales := false,
    flags := [], bump := [], repairing := false, repairVals := [], norms := [], normSent := false, normOut := none,
    gathered := [], gatherSent := false, doneSent := false, doneFrom := [], stopTile := none, stopSent := false,
    needsArea := false, areaNum := none, updated := false, status := 0, finished := false }

/-- This device is rank 1 of two, and owns nothing of 32 elements; device 9 is rank 0. Bucket 0 is listed twice: as RS, in
flight, and as RSUG, ended, its collective ended too, and its update step skipped. -/
def namedTwice : State :=
  { State.reset with
    pins := { Pins.reset with perstN := true }
    aon := { Aon.reset with s0 := true, perstSeen := true, dictUp := true, time := 1000000 }
    dict := [(dkey 0x2001 1, 3), (dkey 0x2001 2, 0xFFF), (dkey 0x7000 2, 1), (dkey 0x7023 1, 2),
      (dkey 0x7100 1, 1 + 2 ^ 16 + 2 ^ 32), (dkey 0x7100 2, 1), (dkey 0x7100 3, 1)]
    ranks := [(0, [⟨9, none⟩, ⟨0, none⟩])]
    buckets := [bareBucket 0x20, { bareBucket 0x23 with finished := true }]
    upd := [(stepKey (bareBucket 0x23), { UpdRun.fresh with skipped := true })] }

/-- A message of rank 0 for bucket 0. -/
def namedMsg (op kind : Nat) : Msg := mkMsg op 0 0 9 0 0 (2 ^ 8 * kind) 1 [0]

/-- What a command leaves of the bucket of that name. -/
def bucketAfter (i : Instr) : Option Bucket :=
  match exec i namedTwice with
  | .next t => bucketNamed t 0 1 0
  | _ => none

theorem namedTwice_arrives (op kind : Nat) (h : (op, kind) ∈ [(6, 1), (7, 0x12)]) :
    Arrives namedTwice (.port 3) (namedMsg op kind) := by
  have hall : ∀ x ∈ [(6, 1), (7, 0x12)], clockOn namedTwice = true ∧ viaUp namedTwice (.port 3) (namedMsg x.1 x.2) = true ∧
      (namedMsg x.1 x.2).dest = devNum namedTwice ∧ laneHeld namedTwice (.port 3) (namedMsg x.1 x.2) = false ∧
      (namedMsg x.1 x.2).hops ≠ 63 ∧ fabricOn namedTwice = true := by decide +kernel
  obtain ⟨hclock, hport, hhere, hfree, hhops, hon⟩ := hall _ h
  exact ⟨hclock, hport, hhere, hfree, hhops, fun _ => .inr hon⟩

/-- The message is admitted, and names the bucket in flight. -/
theorem namedTwice_collFor (op kind : Nat) (h : (op, kind) ∈ [(6, 1), (7, 0x12)]) :
    CollFor namedTwice (.port 3) (namedMsg op kind) op kind (bareBucket 0x20) := by
  have hall : ∀ x ∈ [(6, 1), (7, 0x12)], let m := namedMsg x.1 x.2
      m.opcode = x.1 ∧ gKind m = x.2 ∧ commActive namedTwice (gComm m) = true ∧ knownSource namedTwice (gComm m) m.source = true ∧
      kindListed m.opcode (gKind m) = true ∧ fullSeq namedTwice m = some 1 ∧
      bucketNamed (capNotice (unloop namedTwice (.port 3) m) (gComm m) 1 (gCap m)) (gComm m) 1 (gBucket m) = some (bareBucket 0x20) := by
    decide +kernel
  obtain ⟨hop, hkind, hactive, hknown, hlisted, hseq, hnamed⟩ := hall _ h
  exact ⟨hop, hkind, ⟨1, ⟨namedTwice_arrives op kind h, hactive, hknown, hlisted, hseq⟩, hnamed⟩, rfl⟩

/-- The bucket in flight has no stream of rank 0, and its device is no backup: neither message changes it. The step lets the
buckets of its tag proceed, and the ended one leaves with everything of its name. -/
theorem bucketAfter_namedTwice : bucketAfter (.contrib (.port 3) (namedMsg 6 1)) = none ∧
    bucketAfter (.substitute (.port 3) (namedMsg 7 0x12)) = none := by decide +kernel

theorem not_bucketBecomes_of_bucketAfter {i : Instr} (h : bucketAfter i = none) (P : State → Bucket → Prop) :
    ¬ BucketBecomes i namedTwice (bareBucket 0x20) P := by
  rintro ⟨t, b', hexec, -, hnamed, -⟩
  unfold bucketAfter at h
  rw [hexec] at h
  exact absurd (hnamed.symm.trans h) (by simp)

/-- Refutes O43: its clause for CONTRIB says that the bucket a message names is in flight after it. In `namedTwice` the name
is listed twice; as the bucket in flight proceeds, the ended one's update is found settled, and both leave. -/
theorem not_collectiveDataMessagesFeedTheirBucket : ¬ Obligations.CollectiveDataMessagesFeedTheirBucket := by
  intro h
  obtain ⟨hcontrib, -⟩ := h namedTwice (.port 3) (namedMsg 6 1) (bareBucket 0x20)
  exact not_bucketBecomes_of_bucketAfter bucketAfter_namedTwice.1 _ (hcontrib (namedTwice_collFor 6 1 (by simp))).2

/-- Refutes O44: its clause for SUBSTITUTE says the same, and fails in the same state. -/
theorem not_collectiveControlMessagesActOnTheirBucket : ¬ Obligations.CollectiveControlMessagesActOnTheirBucket := by
  intro h
  obtain ⟨-, -, hsubstitute, -⟩ := h namedTwice (.port 3) (namedMsg 7 0x12)
  exact not_bucketBecomes_of_bucketAfter bucketAfter_namedTwice.2 _
    (hsubstitute _ (namedTwice_collFor 7 0x12 (by simp))).2

end Sys2Proof.Machine
end

section
/-! SUPPORT. How buckets proceed (R287 to R307): what no sending, folding or gathering changes. -/

namespace Sys2Proof.Machine

/-! What stays. -/

/-- A bucket without what changes while it proceeds: its name, operation and own elements, its result and its end are left. -/
def Bucket.still (b : Bucket) : Bucket :=
  { b with
    comp := [], sent := 0, sentParts := [], part := [], streams := [], foldDone := false, blockVals := [], scaleTab := [],
    scaleIn := [], scaleFrom := [], scaleSent := [], needScales := false, flags := [], bump := [], repairing := false,
    repairVals := [], norms := [], normSent := false, normOut := none, gathered := [], gatherSent := false, doneSent := false,
    doneFrom := [], stopSent := false, needsArea := false, areaNum := none, updated := false }

/-- An operation without what a proceeding bucket may note in it. -/
def Op.still (o : Op) : Op := { o with repaired := false, doneAt := none }

/-- Two buckets of one name. -/
def SameBucket (a b : Bucket) : Prop := b.comm = a.comm ∧ b.seq = a.seq ∧ b.number = a.number

/-- Every bucket of this one's name is in flight. -/
def NameInFlight (s : State) (x : Bucket) : Prop := ∀ y ∈ s.buckets, SameBucket x y → y.finished = false

/-- `t` is `s` after buckets have proceeded: their names, operations, own elements, results and ends are what they were, a
name in flight stays listed, and operations end by no such step. -/
structure Proceeds (s t : State) : Prop where
  frame   : CollFrame s t
  waiting : WaitingKept s t
  colls   : t.colls = s.colls
  ops     : t.ops.map Op.still = s.ops.map Op.still
  origin  : ∀ b ∈ t.buckets, ∃ x ∈ s.buckets, x.still = b.still
  stays   : ∀ x ∈ s.buckets, NameInFlight s x → ∃ b ∈ t.buckets, SameBucket x b

/-- The bucket, as it stands in a step's hands, is one of those listed. -/
def Listed (s : State) (b : Bucket) : Prop := ∃ x ∈ s.buckets, x.still = b.still

section
variable {a b c : Bucket} {s t u : State}

theorem SameBucket.refl (b : Bucket) : SameBucket b b := ⟨rfl, rfl, rfl⟩

theorem SameBucket.trans (h : SameBucket a b) (k : SameBucket b c) : SameBucket a c :=
  ⟨k.1.trans h.1, k.2.1.trans h.2.1, k.2.2.trans h.2.2⟩

theorem SameBucket.symm (h : SameBucket a b) : SameBucket b a := ⟨h.1.symm, h.2.1.symm, h.2.2.symm⟩

theorem SameBucket.of_still (h : a.still = b.still) : SameBucket a b :=
  ⟨(congrArg Bucket.comm h).symm, (congrArg Bucket.seq h).symm, (congrArg Bucket.number h).symm⟩

theorem finished_of_still (h : a.still = b.still) : b.finished = a.finished := (congrArg Bucket.finished h).symm

theorem Listed.of_mem (h : b ∈ s.buckets) : Listed s b := ⟨b, h, rfl⟩

theorem Listed.still (h : Listed s a) (hb : b.still = a.still) : Listed s b :=
  let ⟨x, hx, hxa⟩ := h
  ⟨x, hx, hxa.trans hb.symm⟩

theorem Listed.of_buckets_eq (h : Listed s b) (ht : t.buckets = s.buckets) : Listed t b :=
  let ⟨x, hx, hxb⟩ := h
  ⟨x, ht ▸ hx, hxb⟩

theorem mem_updBucket {x : Bucket} : x ∈ (updBucket s b).buckets ↔
    (x = b ∧ ∃ y ∈ s.buckets, SameBucket b y) ∨ (x ∈ s.buckets ∧ ¬ SameBucket b x) := by
  have hname : ∀ y : Bucket, (y.comm == b.comm && y.seq == b.seq && y.number == b.number) = true ↔ SameBucket b y := fun y => by
    simp only [SameBucket, Bool.and_eq_true, beq_iff_eq, and_assoc]
  unfold updBucket mapIf
  simp only [List.mem_map]
  constructor
  · rintro ⟨y, hy, rfl⟩
    by_cases h : SameBucket b y
    · exact .inl ⟨if_pos ((hname y).mpr h), y, hy, h⟩
    · rw [if_neg (fun hy => h ((hname y).mp hy))]
      exact .inr ⟨hy, h⟩
  · rintro (⟨rfl, y, hy, h⟩ | ⟨hx, h⟩)
    · exact ⟨y, hy, if_pos ((hname y).mpr h)⟩
    · exact ⟨x, hx, if_neg (fun hy => h ((hname x).mp hy))⟩

theorem Listed.updBucket (h : Listed s a) (hb : b.still = a.still) : Listed (updBucket s b) b := by
  obtain ⟨x, hx, hxa⟩ := h
  exact ⟨b, mem_updBucket.mpr (.inl ⟨rfl, x, hx, .of_still (hb.trans hxa.symm)⟩), rfl⟩

namespace Proceeds

theorem refl (s : State) : Proceeds s s :=
  ⟨⟨rfl, rfl, rfl, rfl, rfl, rfl⟩, .refl s, rfl, rfl, fun b hb => ⟨b, hb, rfl⟩, fun x hx _ => ⟨x, hx, .refl x⟩⟩

theorem nameInFlight (h : Proceeds s t) {x : Bucket} (hx : NameInFlight s x) : NameInFlight t x := fun y hy hxy =>
  let ⟨z, hz, hzy⟩ := h.origin y hy
  (finished_of_still hzy).trans (hx z hz (hxy.trans (SameBucket.of_still hzy).symm))

theorem trans (h : Proceeds s t) (k : Proceeds t u) : Proceeds s u where
  frame := ⟨k.frame.sync.trans h.frame.sync, k.frame.waits.trans h.frame.waits, k.frame.engines.trans h.frame.engines,
    k.frame.parts.trans h.frame.parts, k.frame.ctxs.trans h.frame.ctxs, k.frame.fuses.trans h.frame.fuses⟩
  waiting := h.waiting.trans k.waiting
  colls := k.colls.trans h.colls
  ops := k.ops.trans h.ops
  origin := fun b hb =>
    let ⟨y, hy, hyb⟩ := k.origin b hb
    let ⟨x, hx, hxy⟩ := h.origin y hy
    ⟨x, hx, hxy.trans hyb⟩
  stays := fun x hx hname =>
    let ⟨y, hy, hxy⟩ := h.stays x hx hname
    let ⟨z, hz, hyz⟩ := k.stays y hy (fun w hw hyw => h.nameInFlight hname w hw (hxy.trans hyw))
    ⟨z, hz, hxy.trans hyz⟩

theorem foldl {α : Type} {f : State → α → State} (hf : ∀ s x, Proceeds s (f s x)) (xs : List α) (s : State) :
    Proceeds s (xs.foldl f s) := by
  induction xs generalizing s with
  | nil => exact refl s
  | cons x xs ih => exact (hf s x).trans (ih (f s x))

theorem ite {p : Prop} [Decidable p] (h : Proceeds s t) : Proceeds s (if p then t else s) := by
  split
  · exact h
  · exact refl s

/-- A change of other fields. -/
theorem of_fields (hframe : CollFrame s t) (hwaiting : WaitingKept s t) (hcolls : t.colls = s.colls) (hops : t.ops = s.ops)
    (hbuckets : t.buckets = s.buckets) : Proceeds s t :=
  ⟨hframe, hwaiting, hcolls, by rw [hops], fun b hb => ⟨b, hbuckets ▸ hb, rfl⟩, fun x hx _ => ⟨x, hbuckets ▸ hx, .refl x⟩⟩

end Proceeds

theorem Tells.proceeds (h : Tells s t) : Proceeds s t :=
  .of_fields h.reports.fieldsKept.frame h.waiting h.reports.fieldsKept.colls h.ops_eq h.reports.fieldsKept.buckets

theorem Listed.tells (h : Listed s b) (ht : Tells s t) : Listed t b := h.of_buckets_eq ht.reports.fieldsKept.buckets

/-- One of the listed buckets proceeds. -/
theorem updBucket_proceeds (h : Listed s a) (hb : b.still = a.still) : Proceeds s (updBucket s b) where
  frame := ⟨rfl, rfl, rfl, rfl, rfl, rfl⟩
  waiting := .of_eq rfl rfl
  colls := rfl
  ops := rfl
  origin := fun x hx => by
    obtain ⟨rfl, -⟩ | ⟨hx, -⟩ := mem_updBucket.mp hx
    · obtain ⟨z, hz, hza⟩ := h
      exact ⟨z, hz, hza.trans hb.symm⟩
    · exact ⟨x, hx, rfl⟩
  stays := fun x hx _ => by
    by_cases hname : SameBucket b x
    · exact ⟨b, mem_updBucket.mpr (.inl ⟨rfl, x, hx, hname⟩), hname.symm⟩
    · exact ⟨x, mem_updBucket.mpr (.inr ⟨hx, hname⟩), .refl x⟩

theorem Proceeds.after_updBucket (h : Listed s a) (k : Proceeds (updBucket s b) u) (hb : b.still = a.still) : Proceeds s u :=
  (updBucket_proceeds h hb).trans k

theorem updOp_proceeds (s : State) (tag : Nat) {f : Op → Op} (hf : ∀ o, (f o).still = o.still) : Proceeds s (updOp s tag f) where
  frame := ⟨rfl, rfl, rfl, rfl, rfl, rfl⟩
  waiting := .of_eq rfl rfl
  colls := rfl
  ops := by
    unfold updOp mapIf
    rw [List.map_map]
    refine List.map_congr_left fun o _ => ?_
    dsimp only [Function.comp]
    split
    · refine Eq.trans ?_ (hf o)
      unfold Op.stamp
      split <;> rfl
    · rfl
  origin := fun b hb => ⟨b, hb, rfl⟩
  stays := fun x hx _ => ⟨x, hx, .refl x⟩

theorem withBucket_proceeds {tag : Nat} {f : State → Bucket → State} (h : ∀ b, b ∈ s.buckets → Proceeds s (f s b)) :
    Proceeds s (withBucket s tag f) := by
  unfold withBucket
  split
  · exact .refl s
  next b hb => exact h b (List.mem_of_find?_eq_some hb)

end

/-! Memory and what else is no bucket's. -/

theorem memWrite_proceeds (s : State) (a : Nat) (l : List Byte) : Proceeds s (memWrite s a l) :=
  .of_fields ⟨rfl, rfl, rfl, rfl, rfl, rfl⟩ (.of_eq rfl rfl) rfl rfl rfl

theorem leaveOpen_proceeds (s : State) (a len : Nat) : Proceeds s (leaveOpen s a len) :=
  .of_fields ⟨rfl, rfl, rfl, rfl, rfl, rfl⟩ (.of_eq rfl rfl) rfl rfl rfl

theorem setUpd_proceeds (s : State) (k : Nat) (u : UpdRun) : Proceeds s (setUpd s k u) :=
  .of_fields ⟨rfl, rfl, rfl, rfl, rfl, rfl⟩ (.of_eq rfl rfl) rfl rfl rfl

theorem setReg_proceeds (s : State) (i sub v : Nat) : Proceeds s (setReg s i sub v) :=
  .of_fields ⟨rfl, rfl, rfl, rfl, rfl, rfl⟩ (.of_eq rfl rfl) rfl rfl rfl

theorem bump_proceeds (s : State) (i sub : Nat) : Proceeds s (bump s i sub) := setReg_proceeds ..

theorem putLine_proceeds (s : State) (a : Nat) (v : Line) : Proceeds s (putLine s a v) := by
  have hbytes : ∀ l, Proceeds s { s with mem := putBytes s.mem (lineAddr a) l, reservations := keepRes s (lineAddr a) 64 } :=
    fun l => .of_fields ⟨rfl, rfl, rfl, rfl, rfl, rfl⟩ (.of_eq rfl rfl) rfl rfl rfl
  exact hbytes _

theorem countAdds_proceeds (s : State) (ovf nan : Nat) : Proceeds s (countAdds s ovf nan) := by
  unfold countAdds
  split
  · exact .refl s
  · exact ((setReg_proceeds s _ _ _).trans (setReg_proceeds _ _ _ _)).trans (raise_tells _ _).proceeds

theorem arrivalLine_proceeds (s : State) (a c : Nat) (data : Line) (mask : BitVec 64) : Proceeds s (arrivalLine s a c data mask) := by
  unfold arrivalLine
  extract_lets on s1 old l cs
  split
  · exact (countAdds_proceeds s 0 _).trans (.ite (setReg_proceeds _ _ _ _))
  · exact (putLine_proceeds s a _).trans (countAdds_proceeds _ _ _)

theorem addPart_proceeds (s : State) (b : Bucket) (i0 : Nat) (ls : List Line) (n : Nat) : Proceeds s (addPart s b i0 ls n) :=
  .foldl (fun t _ => arrivalLine_proceeds t ..) _ s

theorem registerArea_proceeds (s : State) (g : BitVec 512) : Proceeds s (registerArea s g) := by
  unfold registerArea
  split
  · exact .refl s
  · exact .of_fields ⟨rfl, rfl, rfl, rfl, rfl, rfl⟩ (.of_eq rfl rfl) rfl rfl rfl

theorem registerArea_buckets (s : State) (g : BitVec 512) : (registerArea s g).buckets = s.buckets := by
  unfold registerArea
  split <;> rfl

end Sys2Proof.Machine
end

section
/-! SUPPORT. Each part of a proceeding bucket (R287 to R305) leaves what `Proceeds` says. -/

namespace Sys2Proof.Machine

/-! Sending (R289, R296). -/

section
variable {s : State} {b : Bucket}

theorem ctrlTo_proceeds (s : State) (b : Bucket) (kind rank target idx : Nat) (body : List Byte) :
    Proceeds s (ctrlTo s b kind rank target idx body) := (ctrlTo_tells ..).proceeds

theorem ctrlAll_proceeds (s : State) (b : Bucket) (kind idx : Nat) (body : List Byte) : Proceeds s (ctrlAll s b kind idx body) :=
  (ctrlAll_tells ..).proceeds

theorem sendUnits_proceeds (s : State) (b : Bucket) (kind rank : Nat) (shadow : Bool) (target : Nat) (us : List (Nat × List Byte)) :
    Proceeds s (sendUnits s b kind rank shadow target us) := (sendUnits_tells ..).proceeds

theorem flagBlock_still (b : Bucket) (k : Nat) (f : Option Nat) : (flagBlock b k f).still = b.still := by
  cases f <;> rfl

theorem foldl_flagBlock_still {α : Type} (k : α → Nat) (f : α → Option Nat) (l : List α) (b : Bucket) :
    (l.foldl (fun t v => flagBlock t (k v) (f v)) b).still = b.still := by
  induction l generalizing b with
  | nil => rfl
  | cons v l ih => exact (ih _).trans (flagBlock_still ..)

theorem sendPartial_proceeds (h : Listed s b) (r k : Nat) : Proceeds s (sendPartial s r b k) := by
  unfold sendPartial
  extract_lets me g rg vs b1 vals us lastOne kind s1
  have hb1 : b1.still = b.still := foldl_flagBlock_still ..
  split
  · exact updBucket_proceeds h hb1
  · have hs1 : Proceeds s s1 := updBucket_proceeds h hb1
    split
    · exact hs1.trans (sendUnits_proceeds ..)
    · exact hs1.trans (sendUnits_proceeds ..)

theorem sendPart_proceeds (h : Listed s b) (k : Nat) : Proceeds s (sendPart s b k) := by
  unfold sendPart
  extract_lets r me d rg s1 us dst
  split
  · exact .refl s
  · split
    · exact .after_updBucket h (ctrlTo_proceeds ..) rfl
    · split
      · have hs1 : Proceeds s s1 := updBucket_proceeds h rfl
        split
        · exact hs1.trans (addPart_proceeds ..)
        · exact hs1
      · split
        · exact .after_updBucket h (sendUnits_proceeds ..) rfl
        · exact sendPartial_proceeds h r k

theorem sendParts_proceeds (s : State) (tag : Nat) : Proceeds s (sendParts s tag) :=
  withBucket_proceeds fun _ _ => by
    split
    · exact .refl s
    · exact .foldl (fun t k => withBucket_proceeds fun b hb => sendPart_proceeds (.of_mem hb) k) _ s

/-! The scale pass (R300). -/

theorem sendScale_proceeds (h : Listed s b) (k : Nat) : Proceeds s (sendScale s b k) := by
  unfold sendScale
  extract_lets r me rg l b1
  split
  · exact .refl s
  · split
    · exact updBucket_proceeds h rfl
    · exact .after_updBucket h (ctrlTo_proceeds ..) rfl

theorem agreeScales_proceeds (h : Listed s b) : Proceeds s (agreeScales s b) := by
  unfold agreeScales
  extract_lets r rg hr l b1
  split
  · exact .refl s
  · exact .after_updBucket h (ctrlAll_proceeds ..) rfl

theorem scalePass_proceeds (s : State) (tag : Nat) : Proceeds s (scalePass s tag) :=
  withBucket_proceeds fun _ _ => .ite ((Proceeds.foldl (fun _ k => withBucket_proceeds fun _ hb => sendScale_proceeds (.of_mem hb) k) _ s).trans
    (withBucket_proceeds fun _ hb => agreeScales_proceeds (.of_mem hb)))

/-! Folding (R288, R302). -/

theorem gridBlocks_still (r : Nat) (b : Bucket) (rg : Nat × Nat) (ks : List Nat) (f : Nat → Nat → Nat × Option Nat) :
    (gridBlocks r b rg ks f).still = b.still := by
  unfold gridBlocks
  induction ks generalizing b with
  | nil => rfl
  | cons k ks ih => exact (ih _).trans (foldl_flagBlock_still (fun _ => k) _ _ _)

theorem nextPass_proceeds (h : Listed s b) : Proceeds s (nextPass s b) := by
  unfold nextPass
  extract_lets r rg ks b1 s1
  split
  · exact updBucket_proceeds h rfl
  · have hupd : Proceeds s (updBucket s b1) := updBucket_proceeds h rfl
    have hnoted : Proceeds s (updOp (updBucket s b1) b.tag (fun o => { o with repaired := true })) :=
      hupd.trans (updOp_proceeds _ _ fun _ => rfl)
    have hs1 : Proceeds s s1 := (hnoted.trans (bump_proceeds ..)).trans (raise_tells ..).proceeds
    exact hs1.trans (.foldl (fun _ _ => ctrlAll_proceeds ..) _ _)

theorem foldBlocks_proceeds (s : State) (tag : Nat) : Proceeds s (foldBlocks s tag) :=
  withBucket_proceeds fun b hb => by
    have hlisted : Listed s b := .of_mem hb
    dsimp only
    split
    · exact .refl s
    · split
      · exact .ite (nextPass_proceeds (hlisted.still (gridBlocks_still ..)))
      · exact .ite (nextPass_proceeds (hlisted.still (gridBlocks_still ..)))

theorem sendDone_proceeds (s : State) (tag : Nat) : Proceeds s (sendDone s tag) :=
  withBucket_proceeds fun b hb => by
    extract_lets r rg l s1 s2 tab
    split
    · exact .refl s
    · have hs1 : Proceeds s s1 := .after_updBucket (.of_mem hb) (.foldl (fun _ _ => ctrlTo_proceeds ..) _ _) rfl
      split
      · have hs2 : Proceeds s s2 := hs1.trans (ctrlAll_proceeds ..)
        exact hs2.trans (.of_fields ⟨rfl, rfl, rfl, rfl, rfl, rfl⟩ (.of_eq rfl rfl) rfl rfl rfl)
      · exact hs1

/-! Gathering (R305). -/

theorem gatherOut_proceeds (h : Listed s b) (vals : List Nat) : Proceeds s (gatherOut s b vals) := by
  unfold gatherOut
  extract_lets r d rg n bytes s1
  have hs1 : Proceeds s s1 := updBucket_proceeds h rfl
  split
  · exact hs1
  · exact hs1.trans (.foldl (fun _ _ => (sendColl_tells ..).proceeds) _ _)

theorem claimArea_proceeds (s : State) (tag : Nat) : Proceeds s (claimArea s tag) :=
  withBucket_proceeds fun b hb => by
    dsimp only
    split
    · split
      · exact .refl s
      · split
        · exact .refl s
        · exact (registerArea_proceeds s _).trans (updBucket_proceeds
            ((Listed.of_mem hb).of_buckets_eq (registerArea_buckets s _)) rfl)
    · exact .refl s

theorem pump_proceeds (s : State) (tag : Nat) : Proceeds s (pump s tag) := by
  unfold pump
  extract_lets s1 s2 s3 s4 s5
  have h5 : Proceeds s s5 := ((((claimArea_proceeds s tag).trans (scalePass_proceeds _ tag)).trans (sendParts_proceeds _ tag)).trans
    (foldBlocks_proceeds _ tag)).trans (sendDone_proceeds _ tag)
  refine h5.trans (withBucket_proceeds fun b hb => ?_)
  extract_lets r d rg vals s6
  split
  · have h6 : Proceeds s5 s6 := .ite (memWrite_proceeds _ _ _)
    have hlisted : Listed s6 b := by
      refine (Listed.of_mem hb).of_buckets_eq ?_
      show (if _ then _ else _ : State).buckets = _
      split <;> rfl
    exact h6.trans (gatherOut_proceeds hlisted _)
  · exact .refl s5

theorem pumpAll_proceeds (s : State) : Proceeds s (pumpAll s) := .foldl pump_proceeds _ s

/-! The update's part (R159, R160, R165). -/

theorem setNorm_proceeds (h : Listed s b) (v : Acc) : Proceeds s (setNorm s b v) :=
  .after_updBucket h (setUpd_proceeds ..) rfl

theorem foldNorms_proceeds (h : Listed s b) : Proceeds s (foldNorms s b) := by
  unfold foldNorms
  extract_lets r me g ms lead v b1 s1 q
  have hb1 : b1.still = b.still := by
    show (if lead then _ else _ : Bucket).still = _
    split <;> rfl
  have hs1 : Proceeds s s1 ∧ Listed s1 b1 := by
    show Proceeds s (if lead then _ else _) ∧ Listed (if lead then _ else _) b1
    have hupd := updBucket_proceeds h hb1
    have hlisted := h.updBucket hb1
    split
    · split
      · exact ⟨hupd, hlisted⟩
      · exact ⟨hupd.trans (ctrlTo_proceeds ..), hlisted.tells (ctrlTo_tells ..)⟩
    · exact ⟨.refl s, h.still hb1⟩
  split
  · exact (hs1.1.trans (ctrlAll_proceeds ..)).trans (setNorm_proceeds (hs1.2.tells (ctrlAll_tells ..)) _)
  · exact hs1.1

theorem sendNorm_proceeds (s : State) (tag : Nat) : Proceeds s (sendNorm s tag) :=
  withBucket_proceeds fun b hb => by
    extract_lets r me g v b1
    have hupd : Proceeds s (updBucket s b1) := updBucket_proceeds (.of_mem hb) rfl
    split
    · exact .refl s
    · split
      · exact hupd.trans (foldNorms_proceeds ((Listed.of_mem hb).updBucket rfl))
      · exact hupd.trans (ctrlTo_proceeds ..)

/-- Buckets leave by the name of one that has ended. -/
theorem dropName_proceeds (hb : b ∈ s.buckets) (hfinished : b.finished = true) : Proceeds s
    { s with buckets := s.buckets.filter (fun x => !(x.comm == b.comm && x.seq == b.seq && x.number == b.number)) } where
  frame := ⟨rfl, rfl, rfl, rfl, rfl, rfl⟩
  waiting := .of_eq rfl rfl
  colls := rfl
  ops := rfl
  origin := fun x hx => ⟨x, (List.mem_filter.mp hx).1, rfl⟩
  stays := fun x hx hname => by
    refine ⟨x, List.mem_filter.mpr ⟨hx, ?_⟩, .refl x⟩
    by_contra hnot
    have hsame : SameBucket x b := by
      simp only [Bool.not_eq_true, Bool.not_eq_false', Bool.and_eq_true, beq_iff_eq] at hnot
      exact ⟨hnot.1.1.symm, hnot.1.2.symm, hnot.2.symm⟩
    exact absurd (hname b hb hsame) (by simp [hfinished])

theorem settleShard_proceeds (s : State) (tag : Nat) : Proceeds s (settleShard s tag) := by
  unfold settleShard
  split
  · exact .refl s
  next b hfound =>
    have hb := List.mem_of_find?_eq_some hfound
    split
    · extract_lets u s1
      have hs1 : Proceeds s s1 := setUpd_proceeds ..
      split
      · have hlisted : Listed s1 { b with updated := true } := ⟨b, hb, rfl⟩
        exact hs1.trans (gatherOut_proceeds hlisted _)
      next hfinished =>
        split
        · exact hs1
        · exact hs1.trans (dropName_proceeds hb (by simpa using hfinished))
    · exact .refl s

theorem openStage_proceeds (s : State) (tag : Nat) : Proceeds s (openStage s tag) :=
  withBucket_proceeds fun b _ => by
    dsimp only
    split
    · exact .refl s
    · exact leaveOpen_proceeds ..

theorem advanceBucket_proceeds (s : State) (tag : Nat) : Proceeds s (advanceBucket s tag) :=
  (((openStage_proceeds s tag).trans (pump_proceeds _ tag)).trans (sendNorm_proceeds _ tag)).trans (settleShard_proceeds _ tag)

/-! Compression (R298). -/

theorem compress_frame (s : State) (b : Bucket) :
    Proceeds s (compress s b).1 ∧ (compress s b).1.buckets = s.buckets ∧ (compress s b).2.still = b.still := by
  have hfold : ∀ (xs : List Nat) (g : State × Bucket → Nat → State × Bucket),
      (∀ u k, Proceeds u.1 (g u k).1 ∧ (g u k).1.buckets = u.1.buckets ∧ (g u k).2.still = u.2.still) →
      ∀ u, Proceeds u.1 (xs.foldl g u).1 ∧ (xs.foldl g u).1.buckets = u.1.buckets ∧ (xs.foldl g u).2.still = u.2.still := by
    intro xs g hg
    induction xs with
    | nil => exact fun u => ⟨.refl _, rfl, rfl⟩
    | cons x xs ih => exact fun u => ⟨(hg u x).1.trans (ih _).1, (ih _).2.1.trans (hg u x).2.1, (ih _).2.2.trans (hg u x).2.2⟩
  refine hfold _ _ (fun u k => ?_) (s, b)
  exact ⟨memWrite_proceeds u.1 _ _, rfl, rfl⟩

theorem ownComplete_proceeds (h : Listed s b) : Proceeds s (ownComplete s b) := by
  unfold ownComplete
  dsimp only
  obtain ⟨hproceeds, hbuckets, hstill⟩ := compress_frame s b
  exact .ite (hproceeds.trans (updBucket_proceeds (h.of_buckets_eq hbuckets) hstill))

end
end Sys2Proof.Machine
end

section
/-! SUPPORT. The end of a bucket (R287, R295, R305): its operation, its name, and what the end leaves alone. -/

namespace Sys2Proof.Machine

/-- Two entries that no end of a bucket writes: the count of missed streams and the length of the event log. -/
structure CountsKept (s t : State) : Prop where
  missed : reg t 0x7080 3 = reg s 0x7080 3
  logged : reg t 0x8100 2 = reg s 0x8100 2

/-- `t` is `s` after a bucket's end has been told: operations and memory are as before, and no bucket is new. -/
structure Closes (s t : State) : Prop where
  frame   : CollFrame s t
  waiting : WaitingKept s t
  counts  : CountsKept s t
  mem     : t.mem = s.mem
  ops     : t.ops = s.ops
  buckets : ∀ b ∈ t.buckets, b ∈ s.buckets

/-- Every bucket of this name has ended with status `st`, and so has its operation where it had not ended before. -/
structure BucketEnded (s t : State) (b : Bucket) (st : Nat) : Prop where
  frame  : CollFrame s t
  bucket : ∀ x ∈ t.buckets, SameBucket b x → x.finished = true ∧ x.status = st
  op     : ∀ o, findOp s b.tag = some o → o.ended = false → ∃ o', findOp t b.tag = some o' ∧ o'.ended = true ∧ o'.status = st

section
variable {s t u : State} {b : Bucket} {st : Nat}

theorem CollFrame.trans (h : CollFrame s t) (k : CollFrame t u) : CollFrame s u :=
  ⟨k.sync.trans h.sync, k.waits.trans h.waits, k.engines.trans h.engines, k.parts.trans h.parts, k.ctxs.trans h.ctxs,
    k.fuses.trans h.fuses⟩

theorem CountsKept.trans (h : CountsKept s t) (k : CountsKept t u) : CountsKept s u :=
  ⟨k.missed.trans h.missed, k.logged.trans h.logged⟩

theorem CountsKept.of_dict_eq (h : t.dict = s.dict) : CountsKept s t := ⟨reg_of_dict_eq h _ _, reg_of_dict_eq h _ _⟩

theorem CountsKept.of_entries {l : List Nat} (h : SameEntriesBut l s t) (hmissed : dkey 0x7080 3 ∉ l) (hlogged : dkey 0x8100 2 ∉ l) :
    CountsKept s t := ⟨h _ _ hmissed, h _ _ hlogged⟩

namespace Closes

theorem refl (s : State) : Closes s s := ⟨⟨rfl, rfl, rfl, rfl, rfl, rfl⟩, .refl s, ⟨rfl, rfl⟩, rfl, rfl, fun _ h => h⟩

theorem trans (h : Closes s t) (k : Closes t u) : Closes s u :=
  ⟨h.frame.trans k.frame, h.waiting.trans k.waiting, h.counts.trans k.counts, k.mem.trans h.mem, k.ops.trans h.ops,
    fun b hb => h.buckets b (k.buckets b hb)⟩

theorem ite {p : Prop} [Decidable p] (h : Closes s t) : Closes s (if p then t else s) := by
  split
  · exact h
  · exact refl s

theorem of_tells (h : Tells s t) (hcounts : CountsKept s t) : Closes s t :=
  ⟨h.reports.fieldsKept.frame, h.waiting, hcounts, h.mem_eq, h.ops_eq, fun _ hb => h.reports.fieldsKept.buckets ▸ hb⟩

end Closes

theorem raise_closes (s : State) (n : Nat) : Closes s (raise s n) :=
  .of_tells (raise_tells s n) (.of_entries ((raise_signalsOnly s n).sameEntriesBut []) (by simp) (by simp))

theorem ctrlAll_closes (s : State) (b : Bucket) (kind idx : Nat) (body : List Byte) : Closes s (ctrlAll s b kind idx body) := by
  have hsends : SendsOnly messageKeys s (ctrlAll s b kind idx body) := by
    unfold ctrlAll ctrlTo sendColl
    exact .foldl (fun t k => .foldl (fun t i => sendOrDrop_sendsOnly t _) _ _) _ _
  exact .of_tells (ctrlAll_tells ..) (.of_entries hsends.entries (by decide) (by decide))

theorem digestEntry_closes (s : State) (c seq : Nat) (u : CollRun) : Closes s (digestEntry s c seq u) := by
  unfold digestEntry
  extract_lets crcs dig q1 n s1
  have h1 : Closes s s1 := ⟨⟨rfl, rfl, rfl, rfl, rfl, rfl⟩, .of_eq rfl rfl, .of_dict_eq rfl, rfl, rfl, fun _ h => h⟩
  have h2 : Closes s1 (setReg s1 0x7200 2 ((n + 1) % 4096)) :=
    ⟨⟨rfl, rfl, rfl, rfl, rfl, rfl⟩, .of_eq rfl rfl,
      .of_entries (sameEntriesBut_setReg s1 _ _ _) (by decide) (by decide), rfl, rfl, fun _ h => h⟩
  exact (h1.trans h2).trans (raise_closes _ _)

/-- The sequence number moves on, and the run and some buckets leave. -/
theorem runLeft_closes (s : State) (c v : Nat) (colls : SMap CollRun) (p : Bucket → Bool) :
    Closes s { setReg s (0x7100 + c) 3 v with colls := colls, buckets := s.buckets.filter p } := by
  have hcounts : CountsKept s (setReg s (0x7100 + c) 3 v) := by
    refine .of_entries (sameEntriesBut_setReg s (0x7100 + c) 3 v) ?_ ?_
    · simp only [List.mem_singleton, dkey]
      omega
    · simp only [List.mem_singleton, dkey]
      omega
  exact ⟨⟨rfl, rfl, rfl, rfl, rfl, rfl⟩, .of_eq rfl rfl, ⟨hcounts.missed, hcounts.logged⟩, rfl, rfl, fun _ h => (List.mem_filter.mp h).1⟩

theorem endCollective_closes (s : State) (c seq : Nat) : Closes s (endCollective s c seq) := by
  unfold endCollective
  dsimp only
  split
  · exact .refl s
  · split
    · exact (digestEntry_closes s c seq (runOf s c seq)).trans (runLeft_closes ..)
    · exact .refl s

theorem failStep_closes (s : State) (b : Bucket) (st : Nat) : Closes s (failStep s b st) := by
  have hupd : ∀ k u, Closes s (setUpd s k u) := fun k u =>
    ⟨⟨rfl, rfl, rfl, rfl, rfl, rfl⟩, .of_eq rfl rfl, .of_dict_eq rfl, rfl, rfl, fun _ h => h⟩
  unfold failStep
  split
  · dsimp only
    split
    · exact .refl s
    · exact hupd _ _
  · exact .refl s

theorem setRun_closes (s : State) (c seq : Nat) (r : CollRun) : Closes s (setRun s c seq r) :=
  ⟨⟨rfl, rfl, rfl, rfl, rfl, rfl⟩, .of_eq rfl rfl, .of_dict_eq rfl, rfl, rfl, fun _ h => h⟩

/-! The end itself. -/

/-- An operation ended with its bucket, unless it has ended. -/
def endedWith (st waves energy : Nat) (o : Op) : Op :=
  if o.ended then o else { o with status := st, ended := true, waves := waves, energy := energy }

/-- A bucket ended with a status. -/
def Bucket.endedWith (b : Bucket) (st : Nat) : Bucket :=
  { b with finished := true, status := st, areaNum := none, needsArea := false }

/-- The bucket and its operation ended, before anyone is told. -/
def bucketClosed (s : State) (b : Bucket) (st : Nat) : State :=
  updOp (updBucket s (b.endedWith st)) b.tag (endedWith st b.sent (Config.energyEstimate s.freeCtr))

/-- What the end of a bucket does: the bucket and its operation end, and the end is told. -/
theorem finishBucket_closed (s : State) (b : Bucket) (st : Nat) :
    ∃ hbm, Closes (bucketClosed { s with hbm := hbm } b st) (finishBucket s b st) := by
  unfold finishBucket
  extract_lets r s0 s1 s2 u o s3 s4
  have h0 : ∃ hbm, s0 = { s with hbm := hbm } := by
    unfold s0
    split
    · exact ⟨s.hbm, rfl⟩
    · exact ⟨_, rfl⟩
  obtain ⟨hbm, h0⟩ := h0
  refine ⟨hbm, ?_⟩
  have h2 : Closes (bucketClosed { s with hbm := hbm } b st) s2 := by
    rw [← h0]
    exact ⟨⟨rfl, rfl, rfl, rfl, rfl, rfl⟩, .of_eq rfl rfl, .of_dict_eq rfl, rfl, rfl, fun _ h => h⟩
  have h3 : Closes s2 s3 := setRun_closes ..
  have h4 : Closes s3 s4 := failStep_closes s3 b st
  exact ((h2.trans h3).trans h4).trans ((Closes.ite (ctrlAll_closes s4 b _ _ _)).trans (endCollective_closes ..))

/-- What the end of a bucket leaves alone. -/
theorem finishBucket_frame (s : State) (b : Bucket) (st : Nat) : CollFrame s (finishBucket s b st) ∧
    WaitingKept s (finishBucket s b st) ∧ CountsKept s (finishBucket s b st) ∧ (finishBucket s b st).mem = s.mem := by
  obtain ⟨hbm, h⟩ := finishBucket_closed s b st
  have hclosed : CollFrame s (bucketClosed { s with hbm := hbm } b st) ∧ WaitingKept s (bucketClosed { s with hbm := hbm } b st) ∧
      CountsKept s (bucketClosed { s with hbm := hbm } b st) :=
    ⟨⟨rfl, rfl, rfl, rfl, rfl, rfl⟩, .of_eq rfl rfl, .of_dict_eq rfl⟩
  exact ⟨hclosed.1.trans h.frame, hclosed.2.1.trans h.waiting, hclosed.2.2.trans h.counts, h.mem⟩

theorem finishBucket_ops (s : State) (b : Bucket) (st : Nat) :
    (finishBucket s b st).ops = (updOp s b.tag (endedWith st b.sent (Config.energyEstimate s.freeCtr))).ops :=
  let ⟨_, h⟩ := finishBucket_closed s b st
  h.ops

theorem endedWith_ended {o : Op} (h : o.ended = false) (st waves energy : Nat) :
    endedWith st waves energy o = { o with status := st, ended := true, waves := waves, energy := energy } := if_neg (by simp [h])

theorem endedWith_tag (st waves energy : Nat) (o : Op) : (endedWith st waves energy o).tag = o.tag := by
  unfold endedWith
  split <;> rfl

theorem mem_updOp {o : Op} (ho : o ∈ s.ops) {tag : Nat} (htag : o.tag = tag) (f : Op → Op) :
    (f o).stamp s.aon.time ∈ (updOp s tag f).ops :=
  List.mem_map.mpr ⟨o, ho, if_pos (by simp [htag])⟩

/-- The operation of a bucket, wherever it stands, ends with it. -/
theorem finishBucket_op {o : Op} (ho : o ∈ s.ops) (htag : o.tag = b.tag) (hflight : o.ended = false) (st : Nat) :
    ∃ o' ∈ (finishBucket s b st).ops, o'.tag = o.tag ∧ o'.desc = o.desc ∧ o'.ended = true ∧ o'.status = st := by
  rw [finishBucket_ops]
  refine ⟨_, mem_updOp ho htag _, ?_⟩
  obtain ⟨htag', -, hdesc, -⟩ := asTaken_fields (Op.asTaken_stamp s.aon.time (endedWith st b.sent (Config.energyEstimate s.freeCtr) o))
  rw [htag', hdesc, Op.stamp_ended, Op.stamp_status, endedWith_ended hflight]
  exact ⟨rfl, rfl, rfl, rfl⟩

/-- A bucket ended by its own name. -/
theorem finishBucket_ended (s : State) (b : Bucket) (st : Nat) : BucketEnded s (finishBucket s b st) b st where
  frame := (finishBucket_frame s b st).1
  bucket := fun x hx hname => by
    obtain ⟨hbm, h⟩ := finishBucket_closed s b st
    obtain ⟨rfl, -⟩ | ⟨-, hnot⟩ := mem_updBucket.mp (h.buckets x hx)
    · exact ⟨rfl, rfl⟩
    · exact absurd hname hnot
  op := fun o ho hflight => by
    rw [findOp_of_ops_eq (finishBucket_ops s b st)]
    refine ⟨_, findOp_updOp_same (endedWith_tag _ _ _) ho, ?_⟩
    rw [endedWith_ended hflight, Op.stamp_ended, Op.stamp_status]
    exact ⟨rfl, rfl⟩

/-- What went before the end, and what goes on after it. -/
theorem BucketEnded.before {s₀ : State} {b₀ : Bucket} (h : BucketEnded s t b st) (hframe : CollFrame s₀ s) (hname : SameBucket b₀ b)
    (htag : b₀.tag = b.tag)
    (hop : ∀ o, findOp s₀ b.tag = some o → ∃ o', findOp s b.tag = some o' ∧ o'.ended = o.ended) : BucketEnded s₀ t b₀ st where
  frame := hframe.trans h.frame
  bucket := fun x hx hx' => h.bucket x hx (hname.symm.trans hx')
  op := fun o ho hflight => by
    rw [htag] at ho ⊢
    obtain ⟨o', ho', hended⟩ := hop o ho
    exact h.op o' ho' (hended.trans hflight)

theorem findOp_proceeds (h : Proceeds s t) (tag : Nat) : (findOp t tag).map Op.still = (findOp s tag).map Op.still := by
  have hfind : ∀ l : List Op, (l.find? (fun o => o.tag == tag)).map Op.still = (l.map Op.still).find? (fun o => o.tag == tag) := fun l => by
    rw [List.find?_map]
    rfl
  unfold findOp
  rw [hfind, hfind, h.ops]

theorem BucketEnded.proceeds (h : BucketEnded s t b st) (k : Proceeds t u) : BucketEnded s u b st where
  frame := h.frame.trans k.frame
  bucket := fun x hx hname => by
    obtain ⟨y, hy, hyx⟩ := k.origin x hx
    obtain ⟨hfinished, hstatus⟩ := h.bucket y hy (hname.trans (SameBucket.of_still hyx).symm)
    exact ⟨(finished_of_still hyx).trans hfinished, (congrArg Bucket.status hyx).symm.trans hstatus⟩
  op := fun o ho hflight => by
    obtain ⟨o', ho', hended, hstatus⟩ := h.op o ho hflight
    have hstill := findOp_proceeds k b.tag
    rw [ho'] at hstill
    obtain ⟨o'', ho'', hsame⟩ := Option.map_eq_some_iff.mp hstill
    exact ⟨o'', ho'', (congrArg Op.ended hsame).trans hended, (congrArg Op.status hsame).trans hstatus⟩

theorem bucketEnds_of {i : Instr} (hexec : exec i s = .next t) (h : BucketEnded s t b st) : BucketEnds i s b st := by
  refine ⟨t, hexec, h.frame, fun x hx => ?_, h.op⟩
  have hname : SameBucket b x := by simpa [SameBucket, and_assoc] using List.find?_some hx
  exact h.bucket x (List.mem_of_find?_eq_some hx) hname

/-- A bucket in flight is still found by its name after buckets have proceeded. -/
theorem bucketNamed_of_proceeds (h : Proceeds s t) (hb : b ∈ s.buckets) (hname : ∀ x ∈ s.buckets, SameBucket b x → x.still = b.still)
    (hflight : b.finished = false) : ∃ b', bucketNamed t b.comm b.seq b.number = some b' ∧ b'.still = b.still := by
  obtain ⟨x, hx, hbx⟩ := h.stays b hb fun y hy hby => (finished_of_still (hname y hy hby).symm).trans hflight
  have hfound : (bucketNamed t b.comm b.seq b.number).isSome = true := by
    rw [bucketNamed, List.find?_isSome]
    exact ⟨x, hx, by simp [hbx.1, hbx.2.1, hbx.2.2]⟩
  obtain ⟨b', hb'⟩ := Option.isSome_iff_exists.mp hfound
  have hsame : SameBucket b b' := by simpa [SameBucket, and_assoc] using List.find?_some hb'
  obtain ⟨y, hy, hyb⟩ := h.origin b' (List.mem_of_find?_eq_some hb')
  exact ⟨b', hb', hyb.symm.trans (hname y hy (hsame.trans (SameBucket.of_still hyb).symm))⟩

end
end Sys2Proof.Machine
end

section
/-! SUPPORT. A collective descriptor taken (R284 to R287, R291, R305). -/

namespace Sys2Proof.Machine

section
variable {s t : State} {o : Op}

/-! What a quiet device leaves as it is. -/

theorem replaySubs_proceeds (hsubs : s.fab.subs = []) (b : Bucket) :
    Proceeds s (replaySubs s b) ∧ (replaySubs s b).buckets = s.buckets := by
  unfold replaySubs
  rw [hsubs]
  exact ⟨.of_fields ⟨rfl, rfl, rfl, rfl, rfl, rfl⟩ ⟨.of_bar_eq rfl, rfl, hsubs.symm, rfl⟩ rfl rfl rfl, rfl⟩

theorem announceStops_of_none (h : ∀ b ∈ s.buckets, b.stopTile = none) : announceStops s = s := by
  unfold announceStops
  rw [List.filter_eq_nil_iff.mpr fun b hb => by simp [h b hb]]
  rfl

theorem Proceeds.noStops (h : Proceeds s t) (hs : ∀ b ∈ s.buckets, b.stopTile = none) : ∀ b ∈ t.buckets, b.stopTile = none :=
  fun b hb =>
    let ⟨x, hx, hxb⟩ := h.origin b hb
    (congrArg Bucket.stopTile hxb).symm.trans (hs x hx)

theorem stopOf_of_none (h : s.fab.stops = []) (d : Nat) : stopOf s d = none := by
  unfold stopOf
  rw [h]
  split <;> rfl

/-! The bucket posted. -/

/-- The collective that a descriptor's bucket joins. -/
def postedSeq (s : State) (o : Op) : Nat := postSeq (s.colls.length + 1) s (kComm o.desc.toNat) (collSeq s (kComm o.desc.toNat))

/-- A source in loam, read when the descriptor is taken. -/
def ownRead (s : State) (d : Nat) : SMap Nat :=
  if kLoam d && dOpcode d != 0x21 then (List.range (kElems d)).map (fun i => (i, memVal s (kSrc d + kBytes d * i) (kBytes d))) else []

/-- The bucket as it is posted, with no contribution stopped before. -/
def postedBucket (s : State) (o : Op) : Bucket :=
  newBucket s o (postedSeq s o) (ownRead s o.desc.toNat) (runOf s (kComm o.desc.toNat) (postedSeq s o)).capUs

/-- The run of the collective with the bucket marked posted. -/
def postedRun (s : State) (o : Op) : CollRun :=
  let u := runOf s (kComm o.desc.toNat) (postedSeq s o)
  { u with posted := setBit u.posted (kBucket o.desc.toNat) true
           lastSeen := if kLast o.desc.toNat then some (kBucket o.desc.toNat) else u.lastSeen }

/-- The operation in flight and its bucket posted, before anything is sent. -/
def collPosted (s : State) (o : Op) : State :=
  let u := runOf s (kComm o.desc.toNat) (postedSeq s o)
  let s1 := addOp s { o with capExt := u.capUs.isSome }
  setRun { s1 with buckets := s1.buckets ++ [postedBucket s o], rel := { s1.rel with
    lastComm := if u.posted = 0 then some (kComm o.desc.toNat) else s1.rel.lastComm } } (kComm o.desc.toNat) (postedSeq s o)
    (postedRun s o)

/-- The source that a descriptor reads when it is taken is poisoned. -/
def sourcePoisoned (s : State) (d : Nat) : Bool :=
  ((kLoam d && dOpcode d != 0x21) && rangePoisoned s (kSrc d) (kElems d * kBytes d))
    || (dOpcode d = 0x21 && (myRange (commRec s (kComm d)) (kElems d)).2 * kBytes d != 0
      && rangePoisoned s (kSrc d) ((myRange (commRec s (kComm d)) (kElems d)).2 * kBytes d))

/-- The buckets of a bucket's collective proceed. -/
def collGoes (s : State) (b : Bucket) : State :=
  let s3 := replaySubs (ownComplete s b) b
  (s3.buckets.filter (fun x => x.comm == b.comm && x.seq == b.seq && !x.finished)).foldl (fun t x => advanceBucket t x.tag) s3

theorem collGoes_proceeds {b : Bucket} (hlisted : Listed s b) (hsubs : s.fab.subs = []) : Proceeds s (collGoes s b) := by
  have hown : Proceeds s (ownComplete s b) := ownComplete_proceeds hlisted
  have hgo : ∀ (t : State) (l : List Bucket), Proceeds t (l.foldl (fun t x => advanceBucket t x.tag) t) := fun t l =>
    .foldl (f := fun t (x : Bucket) => advanceBucket t x.tag) (fun t x => advanceBucket_proceeds t x.tag) l t
  exact (hown.trans (replaySubs_proceeds (hown.waiting.subs.trans hsubs) b).1).trans (hgo _ _)

theorem startColl_of_failed (h : collCheck s o.ctx o.desc.toNat ≠ 0) : startColl s o = refuse s o (collCheck s o.ctx o.desc.toNat) :=
  if_pos h

theorem startColl_of_ok (h : collCheck s o.ctx o.desc.toNat = 0) (hstops : s.fab.stops = []) : startColl s o =
    if sourcePoisoned s o.desc.toNat then finishBucket (collPosted s o) (postedBucket s o) stHwFault else announceStops (collGoes (collPosted s o) (postedBucket s o)) := by
  unfold startColl
  dsimp only
  rw [if_neg (not_not.mpr h)]
  simp only [stopOf_of_none hstops, Option.isNone_none, if_true]
  rfl

/-- Posting lists the bucket, and leaves what waits. -/
theorem collPosted_frame (s : State) (o : Op) : CollFrame s (collPosted s o) ∧ WaitingKept s (collPosted s o) :=
  ⟨⟨rfl, rfl, rfl, rfl, rfl, rfl⟩, .of_eq rfl rfl⟩

theorem collPosted_buckets (s : State) (o : Op) : (collPosted s o).buckets = s.buckets ++ [postedBucket s o] := rfl

/-- The operation as it goes in flight. -/
abbrev postedOp (s : State) (o : Op) : Op := { o with capExt := (runOf s (kComm o.desc.toNat) (postedSeq s o)).capUs.isSome }

theorem postedOp_mem (s : State) (o : Op) : postedOp s o ∈ (collPosted s o).ops :=
  List.mem_append_right s.ops (List.mem_singleton_self _)

theorem runOf_collPosted (s : State) (o : Op) : runOf (collPosted s o) (kComm o.desc.toNat) (postedSeq s o) = postedRun s o :=
  SMap.get_set_same ..

theorem listed_collPosted (s : State) (o : Op) : Listed (collPosted s o) (postedBucket s o) :=
  .of_mem (by rw [collPosted_buckets]; exact List.mem_append_right _ (List.mem_singleton_self _))

theorem get_range_map (f : Nat → Nat) {n j : Nat} (hj : j < n) : SMap.get ((List.range n).map (fun i => (i, f i))) j 0 = f j := by
  have hlist : ∀ l : List Nat, j ∈ l → SMap.get (l.map (fun i => (i, f i))) j 0 = f j := fun l hl => by
    induction l with
    | nil => exact absurd hl List.not_mem_nil
    | cons i l ih =>
      by_cases hi : i = j
      · subst hi
        exact if_pos rfl
      · exact (if_neg hi).trans (ih ((List.mem_cons.mp hl).resolve_left (Ne.symm hi)))
  exact hlist _ (List.mem_range.mpr hj)

/-! The descriptor taken. -/

theorem exec_collective {q : QueueId} {tag : TagId} {c : Nat} {d : BitVec 1024} (htaken : Taken s q tag c d) (hkind : qKind (qCfg s q) = 3)
    {op : Nat} {i : Instr} (hrow : (op, i) ∈ [(0x20, Instr.rs q tag), (0x21, .ag q tag), (0x22, .ar q tag), (0x23, .rsug q tag)])
    (hop : dOpcode d.toNat = op) : exec i s = .next (releaseLanes (startColl (takeHead s q) (newOp s tag q c .coll d))) := by
  have hdispatch : ∀ p : Nat → Bool, p op = true →
      dispatchColl p q tag s = startColl (takeHead s q) (newOp s tag q c .coll d) := fun p hp =>
    dispatch_of_taken htaken (by simp [hkind, hop, hp]) .coll startColl
  simp only [List.mem_cons, Prod.mk.injEq, List.not_mem_nil, or_false] at hrow
  obtain ⟨rfl, rfl⟩ | ⟨rfl, rfl⟩ | ⟨rfl, rfl⟩ | ⟨rfl, rfl⟩ := hrow <;>
    exact congrArg (fun t => Host.Outcome.next (releaseLanes t)) (hdispatch _ (by decide))

theorem headPassed_of_waiting {q : QueueId} (h : WaitingKept (takeHead s q) t) : HeadPassed s t q :=
  (h.queues _ (by simp only [qHeadOff]; omega)).trans (headPassed_takeHead s q)

theorem postSeq_congr (h : t.colls = s.colls) (n c k : Nat) : postSeq n t c k = postSeq n s c k := by
  induction n generalizing k with
  | zero => rfl
  | succ n ih =>
    have hrun : runOf t c k = runOf s c k := by unfold runOf; rw [h]
    simp only [postSeq, ih, hrun]

theorem sourcePoisoned_takeHead (s : State) (q d : Nat) : sourcePoisoned (takeHead s q) d = sourcePoisoned s d := rfl

theorem sourcePoisoned_iff {d op : Nat} (hop : dOpcode d = op) : sourcePoisoned s d = true ↔
    (op ≠ 0x21 ∧ kLoam d = true ∧ rangePoisoned s (kSrc d) (kElems d * kBytes d) = true) ∨
      (op = 0x21 ∧ (myRange (commRec s (kComm d)) (kElems d)).2 * kBytes d ≠ 0 ∧
        rangePoisoned s (kSrc d) ((myRange (commRec s (kComm d)) (kElems d)).2 * kBytes d) = true) := by
  subst hop
  simp only [sourcePoisoned, Bool.or_eq_true, Bool.and_eq_true, bne_iff_ne, decide_eq_true_eq, and_assoc]
  tauto

/-- The operation ended by the poison of its source. -/
theorem startColl_poisoned (hcheck : collCheck s o.ctx o.desc.toNat = 0) (hstops : s.fab.stops = [])
    (hpoison : sourcePoisoned s o.desc.toNat = true) (hflight : o.ended = false) : WaitingKept s (startColl s o) ∧
      ∃ o' ∈ (startColl s o).ops, o'.tag = o.tag ∧ o'.desc = o.desc ∧ o'.ended = true ∧ o'.status = stHwFault := by
  rw [startColl_of_ok hcheck hstops, if_pos hpoison]
  refine ⟨(collPosted_frame s o).2.trans (finishBucket_frame ..).2.1, ?_⟩
  exact finishBucket_op (b := postedBucket s o) (postedOp_mem s o) rfl hflight stHwFault

/-- The operation in flight, its bucket posted and proceeding. -/
theorem startColl_clean (hcheck : collCheck s o.ctx o.desc.toNat = 0) (hquiet : CollQuiet s)
    (hclean : sourcePoisoned s o.desc.toNat = false) :
    ∃ t, startColl s o = t ∧ Proceeds (collPosted s o) t := by
  have hproceeds : Proceeds (collPosted s o) (collGoes (collPosted s o) (postedBucket s o)) :=
    collGoes_proceeds (listed_collPosted s o) hquiet.subs
  refine ⟨_, rfl, ?_⟩
  rw [startColl_of_ok hcheck hquiet.stops, if_neg (by simp [hclean]), announceStops_of_none]
  · exact hproceeds
  · refine hproceeds.noStops fun b hb => ?_
    rw [collPosted_buckets] at hb
    obtain hb | hb := List.mem_append.mp hb
    · exact hquiet.tiles b hb
    · rw [List.mem_singleton.mp hb]
      rfl

/-- The bucket that a new name is given. -/
theorem bucketNamed_posted (h : Proceeds (collPosted s o) t)
    (hnew : bucketNamed s (kComm o.desc.toNat) (postedSeq s o) (kBucket o.desc.toNat) = none) :
    ∃ b, bucketNamed t (kComm o.desc.toNat) (postedSeq s o) (kBucket o.desc.toNat) = some b ∧ b.still = (postedBucket s o).still := by
  refine bucketNamed_of_proceeds (b := postedBucket s o) h ?_ (fun x hx hname => ?_) rfl
  · rw [collPosted_buckets]
    exact List.mem_append_right _ (List.mem_singleton_self _)
  · rw [collPosted_buckets] at hx
    obtain hx | hx := List.mem_append.mp hx
    · have hnot := List.find?_eq_none.mp hnew x hx
      obtain ⟨hcomm, hseq, hnumber⟩ := hname
      exact absurd (by simp [hcomm, hseq, hnumber, postedBucket, newBucket]) hnot
    · rw [List.mem_singleton.mp hx]

/-- What of an operation a proceeding bucket leaves alone. -/
theorem op_of_proceeds {s t : State} (h : Proceeds s t) {o : Op} (ho : o ∈ s.ops) : ∃ o' ∈ t.ops, o'.still = o.still := by
  have hmem : o.still ∈ t.ops.map Op.still := h.ops ▸ List.mem_map_of_mem ho
  simpa only [List.mem_map] using hmem

end

/-- Settles O40: the descriptor's checks, then the posting of its bucket, whose proceeding leaves what was posted. -/
theorem collectiveDescriptorsArePostedOrRefused : Obligations.CollectiveDescriptorsArePostedOrRefused := by
  unfold Obligations.CollectiveDescriptorsArePostedOrRefused
  intro s q tag c d htaken hkind rows o D comm seq mine shard op i hrow hop
  have hexec := exec_collective htaken hkind hrow hop
  have hseq : postedSeq (takeHead s q) o = seq := postSeq_congr (s := s) (t := takeHead s q) rfl _ _ _
  have hpoisoned := sourcePoisoned_iff (s := s) hop
  refine ⟨hexec, fun hcheck hheld => ?_, fun hcheck hquiet => ⟨fun hpoison => ?_, fun hloam hag => ?_⟩⟩
  · have hrefused : exec i s = .next (refuse (takeHead s q) o (collCheck (takeHead s q) c D)) := by
      have hnone : (refuse (takeHead s q) o (collCheck (takeHead s q) c D)).fab.held = [] := hheld
      rw [hexec, startColl_of_failed (s := takeHead s q) (o := newOp s tag q c .coll d) hcheck]
      exact congrArg Host.Outcome.next (releaseLanes_of_none hnone)
    exact ⟨_, _, hrefused, headPassed_takeHead s q, rfl, rfl, rfl, rfl, rfl, rfl, rfl⟩
  · have hquiet' : CollQuiet (takeHead s q) := ⟨hquiet.held, hquiet.subs, hquiet.stops, hquiet.tiles⟩
    obtain ⟨hwaiting, o', ho', htag, hdesc, hended, hstatus⟩ := startColl_poisoned (s := takeHead s q) (o := o) hcheck hquiet'.stops
      (hpoisoned.mpr hpoison) rfl
    refine ⟨_, hexec.trans ?_, headPassed_of_waiting hwaiting, o', ho', htag, hdesc, hended, hstatus⟩
    rw [releaseLanes_of_none (hwaiting.held.trans hquiet'.held)]
  · have hquiet' : CollQuiet (takeHead s q) := ⟨hquiet.held, hquiet.subs, hquiet.stops, hquiet.tiles⟩
    have hclean : sourcePoisoned s D = false := by
      rw [Bool.eq_false_iff, Ne, hpoisoned]
      rintro (⟨hop', hl, hp⟩ | ⟨hop', hl, hp⟩)
      · exact absurd hp (Bool.eq_false_iff.mp (hloam hop' hl))
      · exact absurd hp (Bool.eq_false_iff.mp (hag hop' hl))
    obtain ⟨t, ht, hproceeds⟩ := startColl_clean (s := takeHead s q) (o := o) hcheck hquiet' hclean
    have hwaiting : WaitingKept (takeHead s q) t := (collPosted_frame (takeHead s q) o).2.trans hproceeds.waiting
    have hrun : runOf t comm seq = postedRun (takeHead s q) o := by
      have hkept : ∀ c k, runOf t c k = runOf (collPosted (takeHead s q) o) c k := fun c k => by
        unfold runOf
        rw [hproceeds.colls]
      rw [← hseq, hkept]
      exact runOf_collPosted _ o
    refine ⟨t, hexec.trans ?_, headPassed_of_waiting hwaiting, ?_, ?_, ?_, ?_, fun hnew => ?_⟩
    · rw [ht, releaseLanes_of_none (hwaiting.held.trans hquiet'.held)]
    · exact (show CollFrame s (collPosted (takeHead s q) o) from ⟨rfl, rfl, rfl, rfl, rfl, rfl⟩).trans hproceeds.frame
    · obtain ⟨o', ho', hstill⟩ := op_of_proceeds hproceeds (postedOp_mem (takeHead s q) o)
      exact ⟨o', ho', congrArg Op.tag hstill, congrArg Op.queue hstill, congrArg Op.ctx hstill, congrArg Op.kind hstill,
        congrArg Op.desc hstill, congrArg Op.ended hstill⟩
    · rw [hrun, ← hseq]
      rfl
    · rw [hrun, ← hseq]
      rfl
    · obtain ⟨b, hb, hstill⟩ := bucketNamed_posted hproceeds (by rw [hseq]; exact hnew)
      rw [hseq] at hb
      refine ⟨b, hb, congrArg Bucket.tag hstill, congrArg Bucket.desc hstill, congrArg Bucket.ctx hstill, congrArg Bucket.taken hstill,
        congrArg Bucket.finished hstill, fun hop' hl j hj => ?_⟩
      have hown : b.own = ownRead (takeHead s q) D := congrArg Bucket.own hstill
      rw [hown, ownRead, if_pos (by simp [hl, show dOpcode D = op from hop, hop'])]
      exact get_range_map _ hj

end Sys2Proof.Machine
end

section
/-! SUPPORT. Deadlines, accepted chunks, slices and the end of a bucket (R285, R287, R289, R291 to R293, R305). -/

namespace Sys2Proof.Machine

section
variable {s t u : State} {b : Bucket}

theorem bucketOf_some {tag : Nat} (h : bucketOf s tag = some b) : b ∈ s.buckets ∧ b.tag = tag ∧ b.finished = false := by
  refine ⟨List.mem_of_find?_eq_some h, ?_⟩
  simpa using List.find?_some h

/-! Stream deadlines (R291 to R293). -/

/-- A missed stream noted, counted and logged. -/
def missNoted (s : State) (b : Bucket) (x : Stream) : State :=
  logEvent (updOp (bump s 0x7080 3) b.tag (fun o => { o with missed := true })) { Event.plain 0x14 2 56 (x.rank % 2 ^ 20) with
    ctx := some b.ctx, opId := dOpId b.desc.toNat, comm := some b.comm, srcs := [src 13 0] }

/-- No backup can stand in for the stream's rank. -/
def noStandIn (s : State) (b : Bucket) (x : Stream) : Prop :=
  x.isGroup = true ∨ 2 ^ 20 ≤ x.rank ∨ cTransport (commRec s b.comm) = 1 ∨ backupOf s b.comm x.rank = none

theorem missNoted_tells (s : State) (b : Bucket) (x : Stream) :
    Tells (updOp (bump s 0x7080 3) b.tag (fun o => { o with missed := true })) (missNoted s b x) := logEvent_tells ..

theorem missNoted_effect (s : State) (b : Bucket) (x : Stream) : CollFrame s (missNoted s b x) ∧ (missNoted s b x).mem = s.mem ∧
    reg (missNoted s b x) 0x7080 3 = (reg s 0x7080 3 + 1) % 2 ^ 64 ∧ reg (missNoted s b x) 0x8100 2 = reg s 0x8100 2 + 1 ∧
    backupOf (missNoted s b x) b.comm x.rank = backupOf s b.comm x.rank := by
  have htells := missNoted_tells s b x
  have hframe : CollFrame s (updOp (bump s 0x7080 3) b.tag (fun o => { o with missed := true })) := ⟨rfl, rfl, rfl, rfl, rfl, rfl⟩
  refine ⟨hframe.trans htells.reports.fieldsKept.frame, htells.mem_eq, ?_, ?_, ?_⟩
  · refine (htells.reg_eq (collKey_notMem_logKeys (i := 0x7080) (sub := 3) (by decide) (by decide) (by decide))).trans ?_
    exact reg_setReg_same ..
  · refine (reg_logEvent_entries two_ne_zero).trans (congrArg (· + 1) ?_)
    exact reg_setReg_ne _ _ (by decide)
  · unfold backupOf ranksOf
    rw [htells.reports.fieldsKept.ranks]
    rfl

/-- An operation that has missed a stream. -/
def Op.withMissed (o : Op) : Op := { o with missed := true }

theorem findOp_missNoted {o : Op} (x : Stream) (h : findOp s b.tag = some o) :
    ∃ o', findOp (missNoted s b x) b.tag = some o' ∧ o'.missed = true ∧ o'.ended = o.ended := by
  have hnoted : findOp (updOp (bump s 0x7080 3) b.tag Op.withMissed) b.tag = some (o.withMissed.stamp s.aon.time) :=
    findOp_updOp_same (f := Op.withMissed) (s := bump s 0x7080 3) (fun _ => rfl) h
  refine ⟨_, ((missNoted_tells s b x).findOp_eq b.tag).trans hnoted, ?_⟩
  rw [Op.stamp_missed, Op.stamp_ended]
  exact ⟨rfl, rfl⟩

/-- The bucket ends where ABORT is set. -/
def abortIfSet (s : State) (b : Bucket) : State := if kAbort b.desc.toNat then finishBucket s b stAborted else s

theorem streamMissed_eq (s : State) (b : Bucket) (x : Stream) : streamMissed s b x =
    if !x.isGroup && decide (x.rank < 2 ^ 20) && cTransport (commRec s b.comm) != 1
    then missStream (missNoted s b x) b x.rank abortIfSet else abortIfSet (missNoted s b x) b := rfl

/-- With ABORT set and no backup to stand in, the bucket ends. -/
theorem streamMissed_abort {x : Stream} (habort : kAbort b.desc.toNat = true) (h : noStandIn s b x) :
    streamMissed s b x = finishBucket (missNoted s b x) b stAborted := by
  have hends : abortIfSet (missNoted s b x) b = finishBucket (missNoted s b x) b stAborted := if_pos habort
  rw [streamMissed_eq]
  split
  next hmay =>
    simp only [Bool.and_eq_true, Bool.not_eq_true', decide_eq_true_eq, bne_iff_ne] at hmay
    obtain ⟨⟨hgroup, hrank⟩, htransport⟩ := hmay
    obtain h | h | h | hnone := h
    · exact absurd h (by simp [hgroup])
    · omega
    · exact absurd h htransport
    · unfold missStream
      rw [(missNoted_effect s b x).2.2.2.2, hnone]
      exact hends
  · exact hends

/-- Otherwise it goes on, and its backup may be asked. -/
theorem streamMissed_cases (s : State) (b : Bucket) (x : Stream) : streamMissed s b x = missNoted s b x ∨
    streamMissed s b x = finishBucket (missNoted s b x) b stAborted ∨
    ∃ v, streamMissed s b x = askBackup (missNoted s b x) b x.rank v := by
  have hend : abortIfSet (missNoted s b x) b = missNoted s b x ∨
      abortIfSet (missNoted s b x) b = finishBucket (missNoted s b x) b stAborted := by
    unfold abortIfSet
    split
    · exact .inr rfl
    · exact .inl rfl
  rw [streamMissed_eq]
  split
  · unfold missStream
    split
    · exact hend.imp_right .inl
    next v _ => exact (ite_eq_or_eq _ _ _).imp_right fun h => .inr ⟨v, h⟩
  · exact hend.imp_right .inl

theorem askBackup_closes (s : State) (b : Bucket) (rank v : Nat) :
    CollFrame s (askBackup s b rank v) ∧ (askBackup s b rank v).mem = s.mem ∧ CountsKept s (askBackup s b rank v) ∧
      (askBackup s b rank v).ops = s.ops := by
  unfold askBackup
  extract_lets r
  generalize editStream b rank false (fun x => { x with substituted := true }) = b'
  have hsends : SendsOnly messageKeys (updBucket s b') (ctrlTo (updBucket s b') b 0x12 rank v (myRange r (kElems b.desc.toNat)).1 []) := by
    unfold ctrlTo sendColl
    exact .foldl (fun t i => sendOrDrop_sendsOnly t _) _ _
  have htells := ctrlTo_tells (updBucket s b') b 0x12 rank v (myRange r (kElems b.desc.toNat)).1 []
  exact ⟨(show CollFrame s (updBucket s b') from ⟨rfl, rfl, rfl, rfl, rfl, rfl⟩).trans htells.reports.fieldsKept.frame, htells.mem_eq,
    (CountsKept.of_dict_eq (s := s) (t := updBucket s b') rfl).trans (.of_entries hsends.entries (by decide) (by decide)), htells.ops_eq⟩

/-- What a missed stream leaves: it is counted, logged and marked, whatever becomes of its bucket. -/
theorem streamMissed_effect (s : State) (b : Bucket) (x : Stream) : CollFrame s (streamMissed s b x) ∧ (streamMissed s b x).mem = s.mem ∧
    reg (streamMissed s b x) 0x7080 3 = (reg s 0x7080 3 + 1) % 2 ^ 64 ∧ reg (streamMissed s b x) 0x8100 2 = reg s 0x8100 2 + 1 ∧
    ∀ o, findOp s b.tag = some o → ∃ o', findOp (streamMissed s b x) b.tag = some o' ∧ o'.missed = true := by
  obtain ⟨hframe, hmem, hmissed, hlogged, -⟩ := missNoted_effect s b x
  have hop := fun o ho => findOp_missNoted (s := s) (b := b) (o := o) x ho
  have hafter : ∀ t, CollFrame (missNoted s b x) t → t.mem = (missNoted s b x).mem → CountsKept (missNoted s b x) t →
      (∀ o, findOp (missNoted s b x) b.tag = some o → ∃ o', findOp t b.tag = some o' ∧ o'.missed = o.missed) →
      CollFrame s t ∧ t.mem = s.mem ∧ reg t 0x7080 3 = (reg s 0x7080 3 + 1) % 2 ^ 64 ∧ reg t 0x8100 2 = reg s 0x8100 2 + 1 ∧
      ∀ o, findOp s b.tag = some o → ∃ o', findOp t b.tag = some o' ∧ o'.missed = true := by
    intro t htframe htmem htcounts htop
    refine ⟨hframe.trans htframe, htmem.trans hmem, htcounts.missed.trans hmissed, htcounts.logged.trans hlogged, fun o ho => ?_⟩
    obtain ⟨o', ho', hm, -⟩ := hop o ho
    obtain ⟨o'', ho'', hm'⟩ := htop o' ho'
    exact ⟨o'', ho'', hm'.trans hm⟩
  obtain h | h | ⟨v, h⟩ := streamMissed_cases s b x
  · rw [h]
    exact hafter _ ⟨rfl, rfl, rfl, rfl, rfl, rfl⟩ rfl ⟨rfl, rfl⟩ fun o ho => ⟨o, ho, rfl⟩
  · rw [h]
    obtain ⟨hf, -, hc, hm⟩ := finishBucket_frame (missNoted s b x) b stAborted
    refine hafter _ hf hm hc fun o ho => ?_
    rw [findOp_of_ops_eq (finishBucket_ops ..)]
    refine ⟨_, findOp_updOp_same (endedWith_tag _ _ _) ho, ?_⟩
    rw [Op.stamp_missed]
    unfold endedWith
    split <;> rfl
  · rw [h]
    obtain ⟨hf, hm, hc, hops⟩ := askBackup_closes (missNoted s b x) b x.rank v
    exact hafter _ hf hm hc fun o ho => ⟨o, (findOp_of_ops_eq hops _).trans ho, rfl⟩

theorem streamMissed_ends {x : Stream} (habort : kAbort b.desc.toNat = true) (h : noStandIn s b x) :
    BucketEnded s (streamMissed s b x) b stAborted := by
  rw [streamMissed_abort habort h]
  refine (finishBucket_ended (missNoted s b x) b stAborted).before (missNoted_effect s b x).1 (.refl b) rfl fun o ho => ?_
  obtain ⟨o', ho', -, hended⟩ := findOp_missNoted x ho
  exact ⟨o', ho', hended⟩

/-! Chunks (R289). -/

theorem get_putVals (m : SMap Nat) (i0 : Nat) {l : List Nat} {j : Nat} (hj : j < l.length) :
    SMap.get (putVals m i0 l) (i0 + j) 0 = l.getD j 0 := by
  rw [SMap.get_eq_find, putVals, SMap.find_foldl_put_of_mem (fun e : Nat × Nat => i0 + e.1) (fun e => e.2) (v := l[j])]
  · simp [hj]
  · intro e he hkey
    obtain ⟨k, hk, rfl⟩ := List.mem_iff_getElem.mp he
    simp only [List.getElem_zip, List.getElem_range] at hkey ⊢
    congr
    omega
  · exact ⟨(j, l[j]), List.mem_iff_getElem.mpr ⟨j, by simpa using hj, by simp⟩, rfl⟩

/-- A bucket is listed, alone under its name but for copies. -/
def Holds (s : State) (b : Bucket) : Prop := ∃ x ∈ s.buckets, x.still = b.still ∧ ∀ y ∈ s.buckets, SameBucket x y → y.still = x.still

theorem holds_updBucket (h : ∃ y ∈ s.buckets, SameBucket b y) : Holds (updBucket s b) b :=
  ⟨b, mem_updBucket.mpr (.inl ⟨rfl, h⟩), rfl, fun y hy hname => by
    obtain ⟨rfl, -⟩ | ⟨-, hnot⟩ := mem_updBucket.mp hy
    · rfl
    · exact absurd hname hnot⟩

theorem Holds.of_buckets_eq (h : Holds s b) (ht : t.buckets = s.buckets) : Holds t b := by
  unfold Holds
  rw [ht]
  exact h

theorem Holds.of_still {b' : Bucket} (h : Holds s b) (hb : b.still = b'.still) : Holds s b' :=
  let ⟨x, hx, hxb, hall⟩ := h
  ⟨x, hx, hxb.trans hb, hall⟩

/-- After buckets have proceeded it is found by its name. -/
theorem Holds.bucketNamed (h : Holds s b) (k : Proceeds s t) (hflight : b.finished = false) :
    ∃ b', bucketNamed t b.comm b.seq b.number = some b' ∧ b'.still = b.still := by
  obtain ⟨x, hx, hxb, hall⟩ := h
  obtain ⟨hcomm, hseq, hnumber⟩ := SameBucket.of_still hxb
  obtain ⟨b', hb', hstill⟩ := bucketNamed_of_proceeds k hx hall ((finished_of_still hxb).symm.trans hflight)
  rw [← hcomm, ← hseq, ← hnumber] at hb'
  exact ⟨b', hb', hstill.trans hxb⟩

/-- What a reduced chunk's update leaves alone (R152, R154). -/
structure ReducedKept (s t : State) : Prop where
  sync    : t.sync = s.sync
  parts   : t.parts = s.parts
  buckets : t.buckets = s.buckets

namespace ReducedKept

theorem refl (s : State) : ReducedKept s s := ⟨rfl, rfl, rfl⟩

theorem trans (h : ReducedKept s t) (k : ReducedKept t u) : ReducedKept s u :=
  ⟨k.sync.trans h.sync, k.parts.trans h.parts, k.buckets.trans h.buckets⟩

theorem foldl {α : Type} {f : State → α → State} (hf : ∀ s x, ReducedKept s (f s x)) (xs : List α) (s : State) :
    ReducedKept s (xs.foldl f s) := by
  induction xs generalizing s with
  | nil => exact refl s
  | cons x xs ih => exact (hf s x).trans (ih (f s x))

theorem ite {p : Prop} [Decidable p] (h : ReducedKept s t) : ReducedKept s (if p then t else s) := by
  split
  · exact h
  · exact refl s

end ReducedKept

theorem setUpd_reducedKept (s : State) (k : Nat) (v : UpdRun) : ReducedKept s (setUpd s k v) := ⟨rfl, rfl, rfl⟩

theorem readHeader_reducedKept (s : State) (key : Nat) : ReducedKept s (readHeader s key) := by
  unfold readHeader
  dsimp only
  split
  · exact .refl s
  · split
    · exact setUpd_reducedKept ..
    · exact setUpd_reducedKept ..

theorem checkWork_reducedKept (s : State) (key : Nat) : ReducedKept s (checkWork s key) := by
  unfold checkWork
  dsimp only
  split
  · exact .refl s
  · exact .ite (setUpd_reducedKept ..)

theorem readEntry_reducedKept (s : State) (c key : Nat) (rg : Nat × Nat) (n : Nat) : ReducedKept s (readEntry s c key rg n) := by
  unfold readEntry
  dsimp only
  split
  · exact .refl s
  · exact setUpd_reducedKept ..

theorem arrivalPass_reducedKept (s : State) (b : Bucket) (v : UpdRun) (lo n k : Nat) : ReducedKept s (arrivalPass s b v lo n k) :=
  .ite ⟨rfl, rfl, rfl⟩

theorem openWork_reducedKept (s : State) (key : Nat) : ReducedKept s (openWork s key) := by
  unfold openWork
  split
  · exact .refl s
  · exact .ite ⟨rfl, rfl, rfl⟩

theorem onReduced_reducedKept (s : State) (b : Bucket) (lo n : Nat) : ReducedKept s (onReduced s b lo n) := by
  unfold onReduced
  extract_lets key s1 rg es s2
  have h1 : ReducedKept s s1 := (readHeader_reducedKept s key).trans (checkWork_reducedKept _ key)
  have h2 : ReducedKept s1 s2 := .foldl (fun t k => readEntry_reducedKept t ..) es s1
  exact ((h1.trans h2).trans (.foldl (fun t k => arrivalPass_reducedKept t ..) es s2)).trans (openWork_reducedKept _ key)

/-- The bucket with a chunk of its result. -/
def Bucket.withResult (b : Bucket) (lo : Nat) (vs : List Nat) : Bucket := { b with result := putVals b.result lo vs }

/-- The chunk stored at RESULT_ADDR and in the bucket, and its counts noted. -/
def chunkStored (s : State) (b : Bucket) (lo : Nat) (vs : List (Nat × Count)) : State :=
  updOp (updBucket (memWrite s (resultAddr b.desc.toNat (myRange (commRec s b.comm) (kElems b.desc.toNat)) lo)
    (fmtBytes b.desc.toNat (vs.map Prod.fst))) (b.withResult lo (vs.map Prod.fst))) b.tag (fun o => addCounts o (vs.map Prod.snd))

/-- The area of a bucket whose shard is whole is free. -/
def areaFreed (s : State) (r : Nat) (b : Bucket) : State :=
  match b.areaNum with
  | some k => if shardDone r b then updBucket (releaseArea s k) { b with areaNum := none, needsArea := false } else s
  | none => s

/-- The chunk taken by the bucket and its update, before anything goes on. -/
def chunkTaken (s : State) (b : Bucket) (lo n : Nat) (vs : List (Nat × Count)) : State :=
  areaFreed (if dOpcode b.desc.toNat = 0x23 then onReduced (chunkStored s b lo vs) (b.withResult lo (vs.map Prod.fst)) lo n
    else chunkStored s b lo vs) (commRec s b.comm) (b.withResult lo (vs.map Prod.fst))

theorem areaFreed_kept {r : Nat} (h : Holds s b) :
    (areaFreed s r b).sync = s.sync ∧ (areaFreed s r b).parts = s.parts ∧ (areaFreed s r b).mem = s.mem ∧ Holds (areaFreed s r b) b := by
  unfold areaFreed
  split
  next k _ =>
    split
    · obtain ⟨x, hx, hxb, -⟩ := h
      refine ⟨rfl, rfl, rfl, .of_still (b := { b with areaNum := none, needsArea := false }) (holds_updBucket ⟨x, hx, ?_⟩) rfl⟩
      exact (SameBucket.of_still hxb).symm
    · exact ⟨rfl, rfl, rfl, h⟩
  · exact ⟨rfl, rfl, rfl, h⟩

theorem chunkTaken_effect (hb : b ∈ s.buckets) (lo n : Nat) (vs : List (Nat × Count)) :
    (chunkTaken s b lo n vs).sync = s.sync ∧ (chunkTaken s b lo n vs).parts = s.parts ∧
      Holds (chunkTaken s b lo n vs) (b.withResult lo (vs.map Prod.fst)) ∧
      (dOpcode b.desc.toNat ≠ 0x23 → (chunkTaken s b lo n vs).mem = (memWrite s (resultAddr b.desc.toNat
        (myRange (commRec s b.comm) (kElems b.desc.toNat)) lo) (fmtBytes b.desc.toNat (vs.map Prod.fst))).mem) := by
  have hholds : Holds (chunkStored s b lo vs) (b.withResult lo (vs.map Prod.fst)) :=
    holds_updBucket (s := memWrite s _ _) ⟨b, hb, .refl b⟩
  unfold chunkTaken
  split
  next hrsug =>
    have hreduced := onReduced_reducedKept (chunkStored s b lo vs) (b.withResult lo (vs.map Prod.fst)) lo n
    obtain ⟨hsync, hparts, -, hfreed⟩ := areaFreed_kept (r := commRec s b.comm) (hholds.of_buckets_eq hreduced.buckets)
    exact ⟨hsync.trans hreduced.sync, hparts.trans hreduced.parts, hfreed, fun h => absurd hrsug h⟩
  · obtain ⟨hsync, hparts, hmem, hfreed⟩ := areaFreed_kept (r := commRec s b.comm) hholds
    exact ⟨hsync, hparts, hfreed, fun _ => hmem⟩

/-! Slices (R285). -/

theorem sliceTarget_mem {o : Op} (h : sliceTarget s o = some b) : b ∈ s.buckets := by
  unfold sliceTarget at h
  dsimp only at h
  split at h
  next hfound =>
    cases h
    exact List.mem_of_find?_eq_some hfound
  · exact List.mem_of_find?_eq_some h

theorem finishIfDone_frame (s : State) (tag : Nat) : CollFrame s (finishIfDone s tag) ∧ WaitingKept s (finishIfDone s tag) ∧
    (finishIfDone s tag).buckets = s.buckets := by
  unfold finishIfDone
  split
  · exact ⟨⟨rfl, rfl, rfl, rfl, rfl, rfl⟩, .refl s, rfl⟩
  · exact ⟨⟨rfl, rfl, rfl, rfl, rfl, rfl⟩, .of_eq rfl rfl, rfl⟩

/-- An operation that has ended is not ended again. -/
theorem findOp_finishIfDone {tag tag' : Nat} {o : Op} (ho : findOp s tag = some o) (hended : o.ended = true) :
    ∃ o', findOp (finishIfDone s tag') tag = some o' ∧ o'.ended = true ∧ o'.status = o.status := by
  unfold finishIfDone
  split
  · exact ⟨o, ho, hended, rfl⟩
  · generalize hf : (fun o : Op => if o.ended then o else { o with
      ended := true, energy := Config.energyEstimate s.freeCtr
      waves := if o.status = 0 then (if o.planned = 0 then 0 else o.planned + Config.feedStalls s.freeCtr) else o.waves }) = f
    have htag : ∀ o, (f o).tag = o.tag := fun o => by
      subst hf
      dsimp only
      split <;> rfl
    have hsame : f o = o := by
      subst hf
      exact if_pos hended
    have hfind : findOp (updOp s tag' f) tag = some (if o.tag == tag' then o.stamp s.aon.time else o) := by
      rw [findOp_updOp htag, ho, Option.map_some, hsame]
    refine ⟨_, hfind, ?_⟩
    split
    · rw [Op.stamp_ended, Op.stamp_status]
      exact ⟨hended, rfl⟩
    · exact ⟨hended, rfl⟩

theorem showIdle_tells (s : State) (a : Nat) : Tells s (showIdle s a) := setCond_tells ..

/-- A row whose operation's shape is not the bucket's. -/
theorem takeSlice_misfit {a ii : Nat} {o : Op} {r : OutRow} (hflight : b.finished = false) (h : feederFits o b = false) :
    takeSlice s a ii o r b =
      finishIfDone (finishBucket (takeStage s (pkey a ii)) { b with feeder := some o.tag } stFormat) o.tag := by
  unfold takeSlice
  dsimp only
  rw [if_neg (by simp [hflight]), if_pos (by simp [h])]

/-- The elements that a row of a slice brings, with its counts. -/
def sliceRow (s : State) (o : Op) (r : OutRow) : List Piece × List Count :=
  if r.vals.isEmpty then ([], []) else rowPieces s o (tileCols o.desc.toNat (sideOf (mMode o.desc.toNat)) r.tile) r.row r.vals

/-- Those, and the zeros that stand for masked rows. -/
def slicePieces (s : State) (o : Op) (r : OutRow) : List Piece :=
  (sliceRow s o r).1 ++ if r.last then maskedPieces s o r.tile else []

/-- The bucket with a row of its slices. -/
def Bucket.withSlice (b : Bucket) (s : State) (o : Op) (r : OutRow) : Bucket :=
  { b with feeder := some o.tag, own := pieceVals (mN o.desc.toNat) b.own (slicePieces s o r) }

/-- The row taken by the bucket, before anything goes on. -/
def sliceStored (s : State) (a ii : Nat) (o : Op) (r : OutRow) (b : Bucket) : State :=
  finishIfDone (updOp (updBucket (noteCapture (takeStage s (pkey a ii)) r (slicePieces s o r) (mDFormat o.desc.toNat) (sliceRow s o r).2)
    (b.withSlice s o r)) o.tag (fun x => addCounts x (sliceRow s o r).2)) o.tag

theorem takeSlice_fits {a ii : Nat} {o : Op} {r : OutRow} (hflight : b.finished = false) (h : feederFits o b = true) :
    takeSlice s a ii o r b = announceStops (advanceBucket (replaySubs (ownComplete (sliceStored s a ii o r b) (b.withSlice s o r))
      (b.withSlice s o r)) b.tag) := by
  unfold takeSlice
  dsimp only
  rw [if_neg (by simp [hflight]), if_neg (by simp [h])]
  rfl

theorem sliceStored_effect {a ii : Nat} {o : Op} {r : OutRow} {l : List OutRow} (hb : b ∈ s.buckets)
    (hstage : (partOf s (pkey a ii)).stage = r :: l) :
    (partOf (sliceStored s a ii o r b) (pkey a ii)).stage = l ∧ (sliceStored s a ii o r b).sync = s.sync ∧
      (sliceStored s a ii o r b).engines = s.engines ∧ WaitingKept s (sliceStored s a ii o r b) ∧
      Holds (sliceStored s a ii o r b) (b.withSlice s o r) ∧
      ((∀ x ∈ s.buckets, x.stopTile = none) → ∀ x ∈ (sliceStored s a ii o r b).buckets, x.stopTile = none) := by
  unfold sliceStored
  generalize hu : updOp (updBucket (noteCapture (takeStage s (pkey a ii)) r (slicePieces s o r) (mDFormat o.desc.toNat)
    (sliceRow s o r).2) (b.withSlice s o r)) o.tag (fun x => addCounts x (sliceRow s o r).2) = u
  have hbuckets : u.buckets = (updBucket s (b.withSlice s o r)).buckets := by rw [← hu]; rfl
  have hparts : u.parts = (takeStage s (pkey a ii)).parts := by rw [← hu]; rfl
  have hother : u.sync = s.sync ∧ u.engines = s.engines ∧ WaitingKept s u := by rw [← hu]; exact ⟨rfl, rfl, .of_eq rfl rfl⟩
  obtain ⟨hframe, hwaiting, hdone⟩ := finishIfDone_frame u o.tag
  have hupd : ∃ y ∈ s.buckets, SameBucket (b.withSlice s o r) y := ⟨b, hb, ⟨rfl, rfl, rfl⟩⟩
  refine ⟨?_, hframe.sync.trans hother.1, hframe.engines.trans hother.2.1, hother.2.2.trans hwaiting,
    (holds_updBucket hupd).of_buckets_eq (hdone.trans hbuckets), fun hnone x hx => ?_⟩
  · have hpart : partOf (finishIfDone u o.tag) (pkey a ii) = partOf (takeStage s (pkey a ii)) (pkey a ii) := by
      unfold partOf
      rw [hframe.parts, hparts]
    rw [hpart, partOf_takeStage_stage hstage]
  · rw [hdone, hbuckets] at hx
    obtain ⟨rfl, -⟩ | ⟨hx, -⟩ := mem_updBucket.mp hx
    · exact hnone b hb
    · exact hnone x hx

/-- The row's elements are the bucket's own, and what goes on leaves them. -/
theorem takeSlice_proceeds {a ii : Nat} {o : Op} {r : OutRow} {l : List OutRow} (hb : b ∈ s.buckets) (hflight : b.finished = false)
    (hfits : feederFits o b = true) (hquiet : CollQuiet s) (hstage : (partOf s (pkey a ii)).stage = r :: l) :
    Proceeds (sliceStored s a ii o r b) (takeSlice s a ii o r b) := by
  obtain ⟨-, -, -, hwaiting, ⟨x, hx, hxb, -⟩, hnone⟩ := sliceStored_effect (o := o) hb hstage
  rw [takeSlice_fits hflight hfits]
  generalize sliceStored s a ii o r b = u at *
  generalize b.withSlice s o r = b' at *
  have hown : Proceeds u (ownComplete u b') := ownComplete_proceeds ⟨x, hx, hxb⟩
  have hreplay := (replaySubs_proceeds (hown.waiting.subs.trans (hwaiting.subs.trans hquiet.subs)) b').1
  have hall := (hown.trans hreplay).trans (advanceBucket_proceeds _ b.tag)
  rw [announceStops_of_none (hall.noStops (hnone hquiet.tiles))]
  exact hall

/-! The commands. -/

theorem exec_streamDeadline {tag : TagId} {n t0 : Nat} {x : Stream} (hclock : clockOn s = true) (hstop : stopped s = false)
    (hb : bucketOf s tag = some b) (hx : b.streams[n]? = some x) (hhandled : x.handled = false) (hdeadline : x.deadline = some t0)
    (hdue : t0 ≤ now s) : exec (.streamDeadlineExpiry tag n) s = .next (
      let b1 := editStream b x.rank x.isGroup (fun y => { y with handled := true, missed := !x.done })
      if x.done then updBucket s b1 else streamMissed (updBucket s b1) b1 x) := by
  show execStreamDeadlineExpiry tag n s = _
  unfold execStreamDeadlineExpiry
  rw [hb]
  dsimp only
  rw [hx]
  dsimp only
  rw [hdeadline]
  exact congrArg Host.Outcome.next (if_neg (by simp [hclock, hstop, hhandled, hdue]))

theorem exec_collWatchdog {tag : TagId} (hclock : clockOn s = true) (hstop : stopped s = false) (hb : bucketOf s tag = some b)
    (hdue : b.taken + reg s 0x7080 1 ≤ now s) : exec (.collWatchdogExpiry tag) s = .next (finishBucket s b stTimeout) := by
  show execCollWatchdogExpiry tag s = _
  unfold execCollWatchdogExpiry
  rw [hb]
  exact congrArg Host.Outcome.next (if_pos (by simp [hclock, hstop, hdue]))

theorem exec_bucketEnd {tag : TagId} (hclock : clockOn s = true) (hstop : stopped s = false) (hb : bucketOf s tag = some b)
    (hdone : bucketDone s b = true) : exec (.bucketEnd tag) s = .next (pumpAll (finishBucket s b stOk)) := by
  show execBucketEnd tag s = _
  unfold execBucketEnd
  rw [hb]
  exact congrArg Host.Outcome.next (if_pos (by simp [hclock, hstop, hdone]))

theorem exec_resultChunk {tag : TagId} {chunk : Nat} (hclock : clockOn s = true) (hstop : stopped s = false)
    (hb : bucketOf s tag = some b) :
    let rg := myRange (commRec s b.comm) (kElems b.desc.toNat)
    let lo := rg.1 + 32768 * chunk
    let n := min 32768 (rg.1 + rg.2 - lo)
    chunkReady (commRec s b.comm) b lo n = true → exec (.resultChunkAccepted tag chunk) s =
      .next (pumpAll (advanceBucket (chunkTaken s b lo n (chunkVals s (commRec s b.comm) b rg lo n)) b.tag)) := by
  intro rg lo n hready
  show execResultChunkAccepted tag chunk s = _
  unfold execResultChunkAccepted
  rw [hb]
  have hnot : ¬ (!clockOn s || stopped s || !chunkReady (commRec s b.comm) b lo n) = true := by
    rw [hclock, hstop, hready]
    decide
  exact congrArg Host.Outcome.next (if_neg hnot)

theorem exec_sliceTaken {a : ArrayId} {ii : PartId} {r : OutRow} {l : List OutRow} {o : Op} (hcore : coreRuns s = true)
    (hstage : (partOf s (pkey a ii)).stage = r :: l) (ho : findOp s r.tag = some o) (hdest : mDest o.desc.toNat = 2)
    (hb : sliceTarget s o = some b) : exec (.sliceTaken a ii) s = .next (releaseLanes (showIdle (takeSlice s a ii o r b) a)) := by
  have htake : sliceTake s a ii = showIdle (takeSlice s a ii o r b) a := by
    simp [sliceTake, hcore, hstage, ho, hdest, hb]
  exact congrArg (fun t => Host.Outcome.next (releaseLanes t)) htake

theorem chunkVals_length (s : State) (r : Nat) (b : Bucket) (rg : Nat × Nat) (lo n : Nat) : (chunkVals s r b rg lo n).length = n := by
  unfold chunkVals
  rw [List.length_map, List.length_range]

end

/-- Settles O47: a missed stream is noted before its bucket may end, an end is `finishBucket_ended`, and what proceeds after a
chunk or a slice leaves what the bucket has taken. -/
theorem streamsBucketsAndChunksEndAsTheirRulesSay : Obligations.StreamsBucketsAndChunksEndAsTheirRulesSay := by
  unfold Obligations.StreamsBucketsAndChunksEndAsTheirRulesSay
  refine ⟨?_, ?_, ?_⟩
  · intro s tag b n t0 x hclock hstop hb hx hhandled hdeadline hdue b1
    have hexec := exec_streamDeadline hclock hstop hb hx hhandled hdeadline hdue
    dsimp only at hexec
    refine ⟨fun hdone => hexec.trans (congrArg _ (if_pos hdone)), fun hmissing => ?_⟩
    have hmissed : exec (.streamDeadlineExpiry tag n) s = .next (streamMissed (updBucket s b1) b1 x) :=
      hexec.trans (congrArg _ (if_neg (by simp [hmissing])))
    obtain ⟨hframe, hmem, hcount, hlogged, hop⟩ := streamMissed_effect (updBucket s b1) b1 x
    have hupd : CollFrame s (updBucket s b1) := ⟨rfl, rfl, rfl, rfl, rfl, rfl⟩
    refine ⟨hmissed, _, hmissed, hupd.trans hframe, hmem, hcount, hlogged, hop, fun habort hnone => bucketEnds_of hmissed ?_⟩
    exact (streamMissed_ends (s := updBucket s b1) (b := b1) habort hnone).before hupd ⟨rfl, rfl, rfl⟩ rfl fun o ho => ⟨o, ho, rfl⟩
  · intro s tag b hclock hstop hb
    obtain ⟨hmem, htag, hflight⟩ := bucketOf_some hb
    refine ⟨fun hdue => ?_, fun hdone => ?_, ?_⟩
    · have hexec := exec_collWatchdog hclock hstop hb hdue
      exact ⟨hexec, bucketEnds_of hexec (finishBucket_ended ..)⟩
    · have hexec := exec_bucketEnd hclock hstop hb hdone
      exact ⟨hexec, bucketEnds_of hexec ((finishBucket_ended ..).proceeds (pumpAll_proceeds _))⟩
    · intro chunk r rg lo n vs hready
      have hexec := exec_resultChunk (chunk := chunk) hclock hstop hb hready
      obtain ⟨hsync, hparts, hholds, hstored⟩ := chunkTaken_effect hmem lo n (chunkVals s r b rg lo n)
      have hproceeds := (advanceBucket_proceeds (chunkTaken s b lo n (chunkVals s r b rg lo n)) b.tag).trans (pumpAll_proceeds _)
      obtain ⟨b', hb', hstill⟩ := hholds.bucketNamed hproceeds hflight
      refine ⟨⟨_, hexec, hstored⟩, _, b', hexec, hb', (congrArg Bucket.finished hstill).trans hflight, hproceeds.frame.sync.trans hsync,
        hproceeds.frame.parts.trans hparts, fun j hj => ?_⟩
      rw [show b'.result = putVals b.result lo vs from congrArg Bucket.result hstill]
      exact get_putVals _ _ (by rw [List.length_map, chunkVals_length]; exact hj)
  · intro s a ii r l o b hcore hstage ho hdest hb
    have hexec := exec_sliceTaken hcore hstage ho hdest hb
    have hmem := sliceTarget_mem hb
    refine ⟨hexec, fun hquiet hfits hflight => ?_, fun hquiet hmisfit hflight => ?_⟩
    · intro w zs
      obtain ⟨hrest, hsync, hengines, hwaiting, hholds, -⟩ := sliceStored_effect (o := o) hmem hstage
      have hproceeds := (takeSlice_proceeds (ii := ii) hmem hflight hfits hquiet hstage).trans (showIdle_tells _ a).proceeds
      obtain ⟨b', hb', hstill⟩ := hholds.bucketNamed hproceeds hflight
      have hheld := (hproceeds.waiting.held.trans hwaiting.held).trans hquiet.held
      refine ⟨_, b', hexec.trans (congrArg _ (releaseLanes_of_none hheld)), ?_, hb', (congrArg Bucket.finished hstill).trans hflight,
        congrArg Bucket.feeder hstill, congrArg Bucket.own hstill, hproceeds.frame.sync.trans hsync, hproceeds.frame.engines.trans hengines⟩
      unfold partOf
      rw [hproceeds.frame.parts]
      exact hrest
    · rw [takeSlice_misfit hflight hmisfit] at hexec
      have hended := finishBucket_ended (takeStage s (pkey a ii)) { b with feeder := some o.tag } stFormat
      have hfinished := finishBucket_frame (takeStage s (pkey a ii)) { b with feeder := some o.tag } stFormat
      generalize finishBucket (takeStage s (pkey a ii)) { b with feeder := some o.tag } stFormat = u at *
      obtain ⟨hframe, hwaiting, -⟩ := finishIfDone_frame u o.tag
      have hshown := showIdle_tells (finishIfDone u o.tag) a
      have hkept := (hfinished.1.trans hframe).trans hshown.reports.fieldsKept.frame
      have hheld := ((hfinished.2.1.trans hwaiting).trans hshown.waiting).held.trans hquiet.held
      refine ⟨_, hexec.trans (congrArg _ (releaseLanes_of_none hheld)), ?_, hkept.sync, hkept.engines, fun x hx hflight' => ?_⟩
      · unfold partOf
        rw [hkept.parts]
        exact partOf_takeStage_stage hstage
      · obtain ⟨x1, hx1, hx1ended, hx1status⟩ := hended.op x hx hflight'
        obtain ⟨x2, hx2, hx2ended, hx2status⟩ := findOp_finishIfDone (tag' := o.tag) hx1 hx1ended
        exact ⟨x2, (hshown.findOp_eq _).trans hx2, hx2ended, hx2status.trans hx1status⟩

end Sys2Proof.Machine
end

section
/-! SUPPORT. Host DMA (R326, R327): the registers of a channel, the end of its descriptor, and the host's writes of local lines. -/

namespace Sys2Proof.Machine

/-! The registers of a channel. -/

theorem chOff_inj {ch : Nat} {r r' : Nat} (h : r ≠ r') : chOff ch r ≠ chOff ch r' := by simp only [chOff]; omega

theorem QueueRegsKept.channel {s t : State} (k : QueueRegsKept s t) (ch : Fin 4) {r : Nat} (hr : r < 0x100 := by decide) :
    bget t (chOff ch r) = bget s (chOff ch r) := k _ (by simp only [chOff]; omega)

theorem ReportsOnly.hostIf_eq {s t : State} (h : ReportsOnly s t) : t.hostIf = s.hostIf := by
  obtain ⟨_, _, _, _, _, _, _, _, _, rfl⟩ := h
  rfl

theorem SignalsOnly.aon_eq {s t : State} (h : SignalsOnly s t) : t.aon = s.aon := by
  obtain ⟨_, _, _, rfl⟩ := h
  rfl

theorem SignalsOnly.hostIf_eq {s t : State} (h : SignalsOnly s t) : t.hostIf = s.hostIf := h.reportsOnly.hostIf_eq

/-- Asking for a descriptor only puts the read out. -/
theorem askDescriptor_eq (s : State) (ch : Nat) : ∃ out, askDescriptor s ch = { s with out := out } ∧ s.out <+: out := by
  unfold askDescriptor
  split
  · exact ⟨_, rfl, List.prefix_append ..⟩
  · exact ⟨_, rfl, List.prefix_rfl⟩

theorem askDescriptor_signalsOnly (s : State) (ch : Nat) : SignalsOnly s (askDescriptor s ch) := by
  obtain ⟨out, h, -⟩ := askDescriptor_eq s ch
  exact ⟨_, _, out, h⟩

theorem askDescriptor_queueRegsKept (s : State) (ch : Nat) : QueueRegsKept s (askDescriptor s ch) := by
  obtain ⟨_, h, -⟩ := askDescriptor_eq s ch
  exact .of_bar_eq (by rw [h])

theorem askDescriptor_asks {s : State} {ch : Fin 4} (hstate : chStateOf s ch = 1) (hwork : chHeadOf s ch ≠ chTailOf s ch)
    (hlink : s.aon.pcieUp = true) (hnone : SMap.has s.hostIf.dmaDesc ch = false) :
    Output.hostRead (.dmaDescriptor ch) (chBaseOf s ch + 64 * chHeadOf s ch) 64 ∈ (askDescriptor s ch).out := by
  have hch : Fin.ofNat 4 ch.val = ch := Fin.ext (Nat.mod_eq_of_lt ch.isLt)
  unfold askDescriptor
  rw [if_pos (by simp [hstate, hwork, hlink, hnone]), hch]
  exact List.mem_append_right _ List.mem_cons_self

theorem setChState_signalsOnly (s : State) (ch st : Nat) : SignalsOnly s (setChState s ch st) :=
  .trans (t := bset s (chOff ch 0x20) st) ⟨_, _, _, rfl⟩ (setCond_signalsOnly _ _ _)

theorem chStateOf_setChState (s : State) (ch : Fin 4) (st : Nat) : chStateOf (setChState s ch st) ch = st :=
  ((setCond_waitingKept _ _ _).queues.channel ch).trans (bget_bset_same ..)

/-- The other registers of the channel stay. -/
theorem bget_setChState (s : State) (ch : Fin 4) (st : Nat) {r : Nat} (hr : r < 0x100) (hne : r ≠ 0x20) :
    bget (setChState s ch st) (chOff ch r) = bget s (chOff ch r) :=
  ((setCond_waitingKept _ _ _).queues.channel ch hr).trans (bget_bset_ne _ _ (chOff_inj hne))

/-! The end of a descriptor. -/

/-- The status is out, the head has moved on, and the channel has no descriptor. -/
def channelFreed (s : State) (ch st : Nat) : State :=
  let s2 := bset (emit s (.hostWrite (chBaseOf s ch + 64 * chHeadOf s ch + 24) (leBytes 8 (st + 2 ^ 63)))) (chOff ch 0x18)
    ((chHeadOf s ch + 1) % chSizeOf s ch)
  { s2 with hostIf := { s2.hostIf with
    dmaDesc := SMap.drop s2.hostIf.dmaDesc ch
    dmaBusy := SMap.drop s2.hostIf.dmaBusy ch
    dmaErr := SMap.drop s2.hostIf.dmaErr ch } }

/-- It is freed, and may interrupt and ask for the next descriptor. -/
theorem finishHostDma_eq (s : State) (ch st : Nat) : finishHostDma s ch st =
    askDescriptor (if hIrq ((SMap.find s.hostIf.dmaDesc ch).getD 0).toNat then raise (channelFreed s ch st) (src 17 (1 + ch))
      else channelFreed s ch st) ch := rfl

/-- In `t` the channel's descriptor of `s` has ended with the status. -/
def ChannelEnded (s : State) (ch : Fin 4) (st : Nat) (t : State) : Prop :=
  SMap.has t.hostIf.dmaDesc ch = false ∧ chHeadOf t ch = (chHeadOf s ch + 1) % chSizeOf s ch ∧
    Output.hostWrite (chBaseOf s ch + 64 * chHeadOf s ch + 24) (leBytes 8 (st + 2 ^ 63)) ∈ t.out

theorem SMap.has_drop {α : Type} (m : SMap α) (k : Nat) : SMap.has (SMap.drop m k) k = false := by
  rw [SMap.drop, SMap.has_filter m k (fun x => x != k)]
  simp

theorem finishHostDma_effect {s u : State} (k : QueueRegsKept s u) (ch : Fin 4) (st : Nat) :
    ChannelEnded s ch st (finishHostDma u ch st) ∧ (finishHostDma u ch st).mem = u.mem ∧ u.out <+: (finishHostDma u ch st).out := by
  rw [finishHostDma_eq]
  generalize hIrq _ = irq
  have htells : Tells (channelFreed u ch st) (if irq then raise (channelFreed u ch st) (src 17 (1 + ch)) else channelFreed u ch st) :=
    .ite (raise_tells ..)
  have hsends : SendsOnly [] (channelFreed u ch st)
      (if irq then raise (channelFreed u ch st) (src 17 (1 + ch)) else channelFreed u ch st) := .ite (raise_sendsOnly ..)
  generalize (if irq then raise (channelFreed u ch st) (src 17 (1 + ch)) else channelFreed u ch st) = v at htells hsends ⊢
  obtain ⟨out, hask, hout⟩ := askDescriptor_eq v ch
  rw [hask]
  have hfreed : (channelFreed u ch st).out = u.out ++
      [.hostWrite (chBaseOf s ch + 64 * chHeadOf s ch + 24) (leBytes 8 (st + 2 ^ 63))] := by
    have hbase : chBaseOf u ch = chBaseOf s ch := k.channel ch
    have hhead : chHeadOf u ch = chHeadOf s ch := k.channel ch
    rw [← hbase, ← hhead]
    rfl
  have hprefix : (channelFreed u ch st).out <+: out := hsends.out.trans hout
  refine ⟨⟨?_, ?_, hprefix.subset ?_⟩, htells.mem_eq, .trans ?_ hprefix⟩
  · exact (congrArg (fun h : HostIf => SMap.has h.dmaDesc ch) htells.reports.hostIf_eq).trans (SMap.has_drop ..)
  · have hsize : chSizeOf u ch = chSizeOf s ch := k.channel ch
    have hhead : chHeadOf u ch = chHeadOf s ch := k.channel ch
    rw [← hsize, ← hhead]
    exact (htells.waiting.queues.channel ch).trans (bget_bset_same ..)
  · rw [hfreed]
    exact List.mem_append_right _ List.mem_cons_self
  · rw [hfreed]
    exact List.prefix_append ..

end Sys2Proof.Machine
end

section
/-! SUPPORT. The host's writes of local lines (R234, R324, R327): the parts of a range that its lines take, and the bytes they
leave. -/

namespace Sys2Proof.Machine

/-! The parts of a range. -/

/-- The part `x` of the range of `len` bytes at `a` lies in one line and inside the range. -/
structure PartOf (a len : Nat) (x : Nat × Nat × Nat) : Prop where
  line   : x.1 = lineAddr (a + x.2.1)
  inLine : (a + x.2.1) % 64 + x.2.2 ≤ 64
  inside : x.2.1 + x.2.2 ≤ len

theorem partOf_of_touched {a len : Nat} {x : Nat × Nat × Nat} (hx : x ∈ touched a len) : PartOf a len x := by
  unfold touched at hx
  split at hx
  · exact absurd hx List.not_mem_nil
  next hlen =>
    obtain ⟨k, hk, rfl⟩ := List.mem_map.mp hx
    have hk := List.mem_range.mp hk
    refine ⟨?_, ?_, ?_⟩
    · dsimp only [lineAddr]
      split <;> omega
    · dsimp only
      split <;> omega
    · dsimp only
      split <;> omega

/-- Every byte of the range lies in a part. -/
theorem exists_part {a len i : Nat} (hi : i < len) : ∃ x ∈ touched a len, x.2.1 ≤ i ∧ i < x.2.1 + x.2.2 := by
  unfold touched
  rw [if_neg (by omega)]
  refine ⟨_, List.mem_map.mpr ⟨(a % 64 + i) / 64, List.mem_range.mpr (by omega), rfl⟩, ?_⟩
  dsimp only
  split <;> omega

/-! The bytes of a part. -/

theorem partMask_eq (sh n : Nat) : (List.range n).foldl (fun m i => m + 2 ^ (sh + i)) 0 = 2 ^ sh * (2 ^ n - 1) := by
  induction n with
  | zero => simp
  | succ n ih =>
    rw [List.range_succ, List.foldl_append, ih, List.foldl_cons, List.foldl_nil, Nat.pow_add, ← Nat.mul_add]
    have := Nat.one_le_two_pow (n := n)
    congr 1
    omega

/-- The mask of a part enables its bytes. -/
theorem testBit_partLine_mask (a : Nat) (data : List Byte) (x : Nat × Nat × Nat) (j : Nat) :
    (partLine a data (fun _ => true) x).2.testBit j = decide ((a + x.2.1) % 64 ≤ j ∧ j < (a + x.2.1) % 64 + x.2.2) := by
  have hmask : (partLine a data (fun _ => true) x).2 = 2 ^ ((a + x.2.1) % 64) * (2 ^ x.2.2 - 1) := partMask_eq _ _
  rw [hmask, Nat.testBit_two_pow_mul, Nat.testBit_two_pow_sub_one, ← Bool.decide_and]
  refine decide_eq_decide.mpr ⟨fun h => ⟨h.1, ?_⟩, fun h => ⟨h.1, ?_⟩⟩ <;> omega

/-- The line of a part holds the data at its bytes. -/
theorem getLsbD_partLine (a : Nat) (data : List Byte) {x : Nat × Nat × Nat} (hx : PartOf a data.length x) {y i : Nat}
    (hlo : a + x.2.1 ≤ y) (hhi : y < a + x.2.1 + x.2.2) (hi : i < 8) :
    (partLine a data (fun _ => true) x).1.getLsbD (8 * (y - lineAddr y) + i) = (data.getD (y - a) 0).getLsbD i := by
  obtain ⟨-, hin, -⟩ := hx
  have hplace : y - lineAddr y = (a + x.2.1) % 64 + (y - (a + x.2.1)) := by unfold lineAddr; omega
  rw [hplace]
  generalize hsh : (a + x.2.1) % 64 = sh at hin
  obtain ⟨k, rfl⟩ := Nat.exists_eq_add_of_le hlo
  have hk : k < x.2.2 := by omega
  have hline : (partLine a data (fun _ => true) x).1 =
      BitVec.ofNat 512 (leVal ((data.drop x.2.1).take x.2.2) * 2 ^ (8 * sh)) := by rw [← hsh]; rfl
  rw [hline, BitVec.getLsbD_ofNat, decide_eq_true (by omega), Bool.true_and, Nat.mul_comm, Nat.testBit_two_pow_mul,
    decide_eq_true (by omega), Bool.true_and, testBit_leVal]
  have hbyte : (8 * (sh + (a + x.2.1 + k - (a + x.2.1))) + i - 8 * sh) / 8 = k := by omega
  have hbit : (8 * (sh + (a + x.2.1 + k - (a + x.2.1))) + i - 8 * sh) % 8 = i := by omega
  rw [hbyte, hbit, show a + x.2.1 + k - a = x.2.1 + k by omega]
  congr 1
  rw [List.getD_eq_getElem?_getD, List.getD_eq_getElem?_getD, List.getElem?_take_of_lt hk, List.getElem?_drop]

/-! One line written under a byte mask. -/

theorem lineAddr_of_mem_line {a y : Nat} (hlo : lineAddr a ≤ y) (hhi : y < lineAddr a + 64) : lineAddr y = lineAddr a := by
  unfold lineAddr at *
  omega

/-- A line in use takes the enabled bytes (R234). -/
theorem getLsbD_memByte_writeLine {s : State} {a y : Nat} (v : Line) (m : Nat) (hlo : lineAddr a ≤ y) (hhi : y < lineAddr a + 64)
    (hret : isRetired s a = false) (hlost : rangeLost s a 1 = false) {i : Nat} (hi : i < 8) :
    (memByte (writeLine s a v (nibbles m)) y).getLsbD i =
      if m.testBit (y - lineAddr a) then v.getLsbD (8 * (y - lineAddr a) + i) else (memByte s y).getLsbD i := by
  rw [getLsbD_memByte_of_line _ hlo hhi hi, lineAt_writeLine_masked v _ hret hlost, getLsbD_mergeLine _ _ _ (by omega),
    getLsbD_nibbles _ (by omega), getLsbD_memByte_of_line s hlo hhi hi]
  have hnibble : (8 * (y - lineAddr a) + i) / 4 / 2 = y - lineAddr a := by omega
  rw [hnibble]

/-- A byte that the mask leaves out stays. -/
theorem memByte_writeLine_disabled {s : State} {a y : Nat} (v : Line) {m : Nat} (hlo : lineAddr a ≤ y) (hhi : y < lineAddr a + 64)
    (hm : m.testBit (y - lineAddr a) = false) : memByte (writeLine s a v (nibbles m)) y = memByte s y := by
  by_cases hdiscarded : (isRetired s a || rangeLost s a 1) = true
  · rw [memByte, writeLine_mem, if_pos hdiscarded]
    rfl
  · obtain ⟨hret, hlost⟩ := Bool.or_eq_false_iff.mp (Bool.eq_false_of_not_eq_true hdiscarded)
    refine BitVec.eq_of_getLsbD_eq fun i hi => ?_
    rw [getLsbD_memByte_writeLine v m hlo hhi hret hlost hi, if_neg (by rw [hm]; decide)]

/-! Retired lines and lost stacks. -/

theorem lineAddr_lineAddr (a : Nat) : lineAddr (lineAddr a) = lineAddr a := by unfold lineAddr; omega

theorem isRetired_lineAddr (s : State) (a : Nat) : isRetired s (lineAddr a) = isRetired s a := by
  unfold isRetired
  rw [lineAddr_lineAddr]

/-- A range inside a granule is lost with the granule's stack (R209, R211). -/
theorem rangeLost_of_granule (s : State) {a len : Nat} (hlen : len ≠ 0) (hin : a % 256 + len ≤ 256) :
    rangeLost s a len = (!s.hbm.unusable.isEmpty && inHbm a && stackLost s (a / 256 % 20)) := by
  have hone : (a + len - 1) / 256 - a / 256 + 1 = 1 := by omega
  unfold rangeLost
  rw [hone, bne_iff_ne.mpr hlen]
  simp

theorem rangeLost_line (s : State) (a : Nat) : rangeLost s (lineAddr a) 64 = rangeLost s a 1 := by
  have hgranule : lineAddr a / 256 = a / 256 := by unfold lineAddr; omega
  have hhbm : inHbm (lineAddr a) = inHbm a := by
    unfold inHbm lineAddr hbmEnd
    exact decide_eq_decide.mpr (by omega)
  rw [rangeLost_of_granule s (by decide) (by unfold lineAddr; omega), rangeLost_of_granule s (by decide) (by omega), hgranule, hhbm]

theorem rangeLost_lineAddr_one (s : State) (a : Nat) : rangeLost s (lineAddr a) 1 = rangeLost s a 1 := by
  rw [← rangeLost_line, lineAddr_lineAddr, rangeLost_line]

/-! A range written. -/

/-- One line of a range that the host writes. -/
def hostLineWritten (a : Nat) (data : List Byte) (t : State) (x : Nat × Nat × Nat) : State :=
  if !hostLineOk x.1 then t
  else if rangeLost t x.1 64 then emit t (.hwFault .host x.1)
  else writeLine t x.1 (partLine a data (fun _ => true) x).1 (nibbles (partLine a data (fun _ => true) x).2)

theorem hostWriteLines_eq (s : State) (a : Nat) (data : List Byte) :
    hostWriteLines s a data (fun _ => true) = (touched a data.length).foldl (hostLineWritten a data) s := rfl

/-- What the host's writes of lines leave: BAR0, the host's interface, the retired lines and the stacks. -/
structure LinesOnly (s t : State) : Prop where
  bar     : t.bar = s.bar
  hostIf  : t.hostIf = s.hostIf
  retired : t.rel.retired = s.rel.retired
  hbm     : t.hbm = s.hbm

namespace LinesOnly

variable {s t u : State}

theorem refl (s : State) : LinesOnly s s := ⟨rfl, rfl, rfl, rfl⟩

theorem trans (h : LinesOnly s t) (k : LinesOnly t u) : LinesOnly s u :=
  ⟨k.bar.trans h.bar, k.hostIf.trans h.hostIf, k.retired.trans h.retired, k.hbm.trans h.hbm⟩

theorem isRetired_eq (h : LinesOnly s t) (a : Nat) : isRetired t a = isRetired s a := by
  unfold isRetired
  rw [h.retired]

theorem rangeLost_eq (h : LinesOnly s t) (a len : Nat) : rangeLost t a len = rangeLost s a len := by
  unfold rangeLost stackLost
  rw [h.hbm]

end LinesOnly

theorem putLine_bar (s : State) (a : Nat) (v : Line) : (putLine s a v).bar = s.bar := by unfold putLine; rfl
theorem putLine_hostIf (s : State) (a : Nat) (v : Line) : (putLine s a v).hostIf = s.hostIf := by unfold putLine; rfl

theorem writeLine_linesOnly (s : State) (a : Nat) (v : Line) (mask : BitVec 128) : LinesOnly s (writeLine s a v mask) :=
  ⟨writeLine_leaves State.bar (fun _ => rfl) putLine_bar (fun _ _ _ => rfl) s a v mask,
    writeLine_leaves State.hostIf (fun _ => rfl) putLine_hostIf (fun _ _ _ => rfl) s a v mask, writeLine_retired s a v mask,
    writeLine_hbm s a v mask⟩

theorem hostLineWritten_linesOnly (a : Nat) (data : List Byte) (t : State) (x : Nat × Nat × Nat) :
    LinesOnly t (hostLineWritten a data t x) := by
  unfold hostLineWritten
  split
  · exact .refl t
  · split
    · exact ⟨rfl, rfl, rfl, rfl⟩
    · exact writeLine_linesOnly t _ _ _

theorem hostLinesWritten_linesOnly (a : Nat) (data : List Byte) (l : List (Nat × Nat × Nat)) (s : State) :
    LinesOnly s (l.foldl (hostLineWritten a data) s) := by
  induction l generalizing s with
  | nil => exact .refl s
  | cons x l ih => exact (hostLineWritten_linesOnly a data s x).trans (ih _)

theorem hostWriteLines_linesOnly (s : State) (a : Nat) (data : List Byte) : LinesOnly s (hostWriteLines s a data (fun _ => true)) :=
  hostLinesWritten_linesOnly a data _ s

section
variable {a : Nat} {data : List Byte} {x : Nat × Nat × Nat} (hx : PartOf a data.length x)
include hx

/-- Outside its part a line keeps its bytes. -/
theorem memByte_hostLineWritten_outside (t : State) {y : Nat} (hy : y < a + x.2.1 ∨ a + x.2.1 + x.2.2 ≤ y) :
    memByte (hostLineWritten a data t x) y = memByte t y := by
  unfold hostLineWritten
  split
  · rfl
  · split
    · rfl
    · by_cases hline : lineAddr x.1 ≤ y ∧ y < lineAddr x.1 + 64
      · refine memByte_writeLine_disabled _ hline.1 hline.2 ?_
        rw [testBit_partLine_mask, decide_eq_false_iff_not]
        have hin := hx.inLine
        rw [hx.line, lineAddr_lineAddr] at hline ⊢
        unfold lineAddr at *
        omega
      · exact memByte_writeLine_outside (by omega)

/-- Inside its part a line in use, of a stack that is not lost, takes the data. -/
theorem memByte_hostLineWritten_inside {t : State} {y : Nat} (hlo : a + x.2.1 ≤ y) (hhi : y < a + x.2.1 + x.2.2)
    (hok : hostLineOk x.1 = true) (hret : isRetired t y = false) (hlost : rangeLost t y 1 = false) :
    memByte (hostLineWritten a data t x) y = data.getD (y - a) 0 := by
  have hin := hx.inLine
  have hline : x.1 = lineAddr y := by rw [hx.line]; unfold lineAddr; omega
  unfold hostLineWritten
  rw [hok, hline, rangeLost_line, hlost]
  refine BitVec.eq_of_getLsbD_eq fun i hi => ?_
  have hlo' : lineAddr (lineAddr y) ≤ y := by unfold lineAddr; omega
  have hhi' : y < lineAddr (lineAddr y) + 64 := by unfold lineAddr; omega
  have hret' : isRetired t (lineAddr y) = false := (isRetired_lineAddr t y).trans hret
  have hlost' : rangeLost t (lineAddr y) 1 = false := (rangeLost_lineAddr_one t y).trans hlost
  refine (getLsbD_memByte_writeLine _ _ hlo' hhi' hret' hlost' hi).trans ?_
  rw [lineAddr_lineAddr, testBit_partLine_mask, if_pos (decide_eq_true (by unfold lineAddr; omega)),
    getLsbD_partLine a data hx hlo hhi hi]

end

/-- The host writes no byte outside its range. -/
theorem hostWriteLines_sameMemoryBut (s : State) (a : Nat) (data : List Byte) :
    SameMemoryBut [(a, data.length)] s (hostWriteLines s a data (fun _ => true)) := by
  intro y hy
  have hy : y < a ∨ a + data.length ≤ y := hy _ List.mem_cons_self
  have hfold : ∀ (l : List (Nat × Nat × Nat)) (t : State), (∀ x ∈ l, PartOf a data.length x) →
      memByte (l.foldl (hostLineWritten a data) t) y = memByte t y := by
    intro l
    induction l with
    | nil => exact fun _ _ => rfl
    | cons x l ih =>
      intro t hl
      have hx := hl x List.mem_cons_self
      have hin := hx.inside
      exact (ih _ fun z hz => hl z (List.mem_cons_of_mem x hz)).trans (memByte_hostLineWritten_outside hx t (by omega))
  exact hfold _ s fun _ => partOf_of_touched

/-- A byte of its range whose line is in use and whose stack is not lost takes its datum, where no line is refused. -/
theorem memByte_hostWriteLines {s : State} {a : Nat} {data : List Byte} (hok : ∀ x ∈ touched a data.length, hostLineOk x.1 = true)
    {i : Nat} (hi : i < data.length) (hret : isRetired s (a + i) = false) (hlost : rangeLost s (a + i) 1 = false) :
    memByte (hostWriteLines s a data (fun _ => true)) (a + i) = data.getD i 0 := by
  have hwrite : ∀ {t : State} {x : Nat × Nat × Nat}, LinesOnly s t → x ∈ touched a data.length → x.2.1 ≤ i → i < x.2.1 + x.2.2 →
      memByte (hostLineWritten a data t x) (a + i) = data.getD i 0 := by
    intro t x hkept hx hlo hhi
    rw [memByte_hostLineWritten_inside (partOf_of_touched hx) (by omega) (by omega) (hok x hx) ((hkept.isRetired_eq _).trans hret)
      ((hkept.rangeLost_eq _ _).trans hlost), Nat.add_sub_cancel_left]
  have hstays : ∀ (l : List (Nat × Nat × Nat)) (t : State), (∀ x ∈ l, x ∈ touched a data.length) → LinesOnly s t →
      (memByte t (a + i) = data.getD i 0 ∨ ∃ x ∈ l, x.2.1 ≤ i ∧ i < x.2.1 + x.2.2) →
      memByte (l.foldl (hostLineWritten a data) t) (a + i) = data.getD i 0 := by
    intro l
    induction l with
    | nil => exact fun t _ _ h => h.resolve_right fun ⟨_, hx, _⟩ => absurd hx List.not_mem_nil
    | cons x l ih =>
      intro t hl hkept h
      have hx := hl x List.mem_cons_self
      refine ih _ (fun z hz => hl z (List.mem_cons_of_mem x hz)) (hkept.trans (hostLineWritten_linesOnly a data t x)) ?_
      by_cases hpart : x.2.1 ≤ i ∧ i < x.2.1 + x.2.2
      · exact .inl (hwrite hkept hx hpart.1 hpart.2)
      · refine h.imp (fun hb => ?_) fun ⟨z, hz, hzi⟩ => ?_
        · exact (memByte_hostLineWritten_outside (partOf_of_touched hx) t (by omega)).trans hb
        · rcases List.mem_cons.mp hz with rfl | hz
          · exact absurd hzi hpart
          · exact ⟨z, hz, hzi⟩
  exact hstays _ s (fun _ h => h) (.refl s) (.inr (exists_part hi))

end Sys2Proof.Machine
end

section
/-! SUPPORT. The host's answers (R317, R321, R326, R327): channels, their descriptors, and slots of host-memory queues. -/

namespace Sys2Proof.Machine

/-! The return of slots leaves memory and the sync area. -/

/-- Memory and the sync objects are in `t` as in `s`. -/
structure MemSyncKept (s t : State) : Prop where
  mem  : t.mem = s.mem
  sync : t.sync = s.sync

namespace MemSyncKept

variable {s t u : State}

theorem refl (s : State) : MemSyncKept s s := ⟨rfl, rfl⟩

theorem trans (h : MemSyncKept s t) (k : MemSyncKept t u) : MemSyncKept s u := ⟨k.mem.trans h.mem, k.sync.trans h.sync⟩

theorem after_update (k : MemSyncKept t u) (hmem : t.mem = s.mem := by rfl) (hsync : t.sync = s.sync := by rfl) : MemSyncKept s u :=
  (⟨hmem, hsync⟩ : MemSyncKept s t).trans k

end MemSyncKept

theorem ReportsOnly.memSyncKept {s t : State} (h : ReportsOnly s t) : MemSyncKept s t := by
  obtain ⟨_, _, _, _, _, _, _, _, _, rfl⟩ := h
  exact ⟨rfl, rfl⟩

theorem askHostSlot_memSyncKept (s : State) (q : Nat) : MemSyncKept s (askHostSlot s q) := by
  unfold askHostSlot
  split
  · exact ⟨rfl, rfl⟩
  · exact .refl s

theorem flushSlots_memSyncKept (n : Nat) (s : State) (c q : Nat) (tags : List Nat) : MemSyncKept s (flushSlots s c q n tags) := by
  induction n generalizing s tags with
  | zero => exact .refl s
  | succ n ih =>
    unfold flushSlots
    dsimp only
    split
    · exact ⟨rfl, rfl⟩
    · split
      · split
        · split
          · exact (askHostSlot_memSyncKept _ q).after_update
          · exact (ih _ _).after_update
        · split
          · exact .refl s
          · exact (ih _ _).after_update
      · split
        · split
          · exact .refl s
          · exact (ih _ _).after_update
        · exact (ih _ _).after_update

theorem goOnFlushing_memSyncKept (s : State) (q : Nat) : MemSyncKept s (goOnFlushing s q) := by
  unfold goOnFlushing
  split
  · exact .refl s
  · dsimp only
    split
    · exact (flushSlots_memSyncKept ..).trans ⟨rfl, rfl⟩
    · exact flushSlots_memSyncKept ..

theorem slotFailed_memSyncKept (s : State) (q : Nat) : MemSyncKept s (slotFailed s q) := by
  unfold slotFailed
  split
  · exact (goOnFlushing_memSyncKept _ q).after_update
  · exact (stopQueue_reportsOnly s q 2).memSyncKept

theorem goOnFlushing_of_none {s : State} {q : Nat} (h : SMap.find s.hostIf.flushing q = none) : goOnFlushing s q = s := by
  unfold goOnFlushing
  rw [h]

theorem SMap.has_of_find_none {α : Type} {m : SMap α} {k : Nat} (h : SMap.find m k = none) : SMap.has m k = false := by
  induction m with
  | nil => rfl
  | cons e m ih =>
    obtain ⟨j, v⟩ := e
    rw [SMap.find] at h
    split at h
    · exact absurd h (by simp)
    next hne => rw [SMap.has_cons, ih h, beq_eq_false_iff_ne.mpr hne]; rfl

/-! Channels (R326). -/

section
variable {s : State} (ch : Fin 4) (v : BitVec 64)

theorem exec_chTail_ignored (h : barsDead s = true ∨ chSizeOf s ch ≤ v.toNat) : exec (.chTail ch v) s = .next s := by
  refine congrArg Host.Outcome.next (if_pos ?_)
  rcases h with h | h
  · rw [h, Bool.or_true, Bool.true_or]
  · rw [decide_eq_true h, Bool.or_true]

theorem exec_chBase_ignored (size : Bool) (h : chHeadOf s ch ≠ chTailOf s ch) : exec (.chBase ch size v) s = .next s :=
  congrArg Host.Outcome.next (if_pos (by rw [bne_iff_ne.mpr h, Bool.or_true]))

variable (hclock : clockOn s = true)
include hclock

theorem exec_chTail (hlive : barsDead s = false) (hsize : v.toNat < chSizeOf s ch) : exec (.chTail ch v) s =
    .next (if chStateOf s ch = 2 ∨ chHeadOf s ch = v.toNat then bset s (chOff ch 0x10) v.toNat
      else askDescriptor (setChState (bset s (chOff ch 0x10) v.toNat) ch 1) ch) := by
  have hserved : (!clockOn s || barsDead s || decide (chSizeOf s ch ≤ v.toNat)) = false := by
    rw [hclock, hlive, decide_eq_false (by omega)]
    rfl
  have hstate : chStateOf (bset s (chOff ch 0x10) v.toNat) ch = chStateOf s ch := bget_bset_ne _ _ (chOff_inj (by decide))
  have hhead : chHeadOf (bset s (chOff ch 0x10) v.toNat) ch = chHeadOf s ch := bget_bset_ne _ _ (chOff_inj (by decide))
  refine (congrArg Host.Outcome.next (if_neg (by rw [hserved]; decide))).trans ?_
  dsimp only
  rw [hstate, hhead]
  by_cases h : chStateOf s ch = 2 ∨ chHeadOf s ch = v.toNat
  · rw [if_pos h, if_pos (by simpa using h)]
  · rw [if_neg h, if_neg (by simpa using h)]

/-- A channel with work goes on, and asks for its descriptor. -/
theorem exec_chTail_runs (hlive : barsDead s = false) (hsize : v.toNat < chSizeOf s ch) (hstate : chStateOf s ch ≠ 2)
    (hwork : chHeadOf s ch ≠ v.toNat) : ∃ t, exec (.chTail ch v) s = .next t ∧ chTailOf t ch = v.toNat ∧ chStateOf t ch = 1 ∧
      t.mem = s.mem ∧ t.dict = s.dict ∧ (s.aon.pcieUp = true → SMap.has s.hostIf.dmaDesc ch = false →
        Output.hostRead (.dmaDescriptor ch) (chBaseOf s ch + 64 * chHeadOf s ch) 64 ∈ t.out) := by
  rw [exec_chTail ch v hclock hlive hsize, if_neg (by simp [hstate, hwork])]
  generalize hu : setChState (bset s (chOff ch 0x10) v.toNat) ch 1 = u
  have hsig : SignalsOnly s u := .trans (t := bset s (chOff ch 0x10) v.toNat) ⟨_, _, _, rfl⟩ (hu ▸ setChState_signalsOnly ..)
  have htail : chTailOf u ch = v.toNat := by
    rw [← hu]
    exact (bget_setChState _ ch 1 (by decide) (by decide)).trans (bget_bset_same ..)
  have hrun : chStateOf u ch = 1 := by rw [← hu, chStateOf_setChState]
  have hother : ∀ r, r < 0x100 → r ≠ 0x20 → r ≠ 0x10 → bget u (chOff ch r) = bget s (chOff ch r) := fun r hr h1 h2 => by
    rw [← hu]
    exact (bget_setChState _ ch 1 hr h1).trans (bget_bset_ne _ _ (chOff_inj h2))
  have hhead : chHeadOf u ch = chHeadOf s ch := hother _ (by decide) (by decide) (by decide)
  have hbase : chBaseOf u ch = chBaseOf s ch := hother _ (by decide) (by decide) (by decide)
  have hask := hsig.trans (askDescriptor_signalsOnly u ch)
  refine ⟨_, rfl, ((askDescriptor_queueRegsKept u ch).channel ch).trans htail,
    ((askDescriptor_queueRegsKept u ch).channel ch).trans hrun, hask.reportsOnly.mem_eq, hask.dict_eq, fun hlink hnone => ?_⟩
  rw [← hhead, ← hbase]
  refine askDescriptor_asks hrun ?_ ?_ ?_
  · rw [hhead, htail]
    exact hwork
  · rw [hsig.aon_eq]
    exact hlink
  · rw [hsig.hostIf_eq]
    exact hnone

/-- CH_BASE and CH_SIZE while head and tail agree. -/
theorem exec_chBase (size : Bool) (h : chHeadOf s ch = chTailOf s ch) : exec (.chBase ch size v) s =
    .next (if size then (if 1 ≤ v.toNat ∧ v.toNat ≤ 4096 then setChState (bset s (chOff ch 8) v.toNat) ch 0 else s)
      else setChState (bset s (chOff ch 0) (v.toNat / 64 * 64)) ch 0) := by
  have hserved : (!clockOn s || chHeadOf s ch != chTailOf s ch) = false := by rw [hclock, h, bne_self_eq_false]; rfl
  refine (congrArg Host.Outcome.next (if_neg (by rw [hserved]; decide))).trans ?_
  cases size
  · rfl
  · by_cases hv : 1 ≤ v.toNat ∧ v.toNat ≤ 4096
    · simp [hv]
    · rw [if_pos rfl, if_pos rfl, if_neg hv, if_neg (by simpa using hv)]

end

/-- A register of the channel set and the channel put into a state: the rest of it that matters. -/
theorem chRegister_set (s : State) (ch : Fin 4) (st v : Nat) {r : Nat} (hr : r < 0x100) (hne : r ≠ 0x20) :
    bget (setChState (bset s (chOff ch r) v) ch st) (chOff ch r) = v ∧
      chStateOf (setChState (bset s (chOff ch r) v) ch st) ch = st ∧
      (setChState (bset s (chOff ch r) v) ch st).mem = s.mem ∧ (setChState (bset s (chOff ch r) v) ch st).dict = s.dict := by
  have hsig : SignalsOnly s (setChState (bset s (chOff ch r) v) ch st) :=
    .trans (t := bset s (chOff ch r) v) ⟨_, _, _, rfl⟩ (setChState_signalsOnly ..)
  exact ⟨(bget_setChState _ ch st hr hne).trans (bget_bset_same ..), chStateOf_setChState .., hsig.reportsOnly.mem_eq, hsig.dict_eq⟩

/-! The descriptor run (R326, R327). -/

section
variable {s : State} (hclock : clockOn s = true) {ch : Fin 4} {dd : BitVec 512} (hdesc : SMap.find s.hostIf.dmaDesc ch = some dd)
include hclock hdesc

/-- A running channel whose descriptor is not under way goes by the descriptor. -/
theorem exec_hostDmaDescriptor (hrun : chStateOf s ch = 1) (hfree : SMap.has s.hostIf.dmaBusy ch = false)
    (hserves : (stopped s = false ∧ memHeld s (wAddr (hDev dd.toNat)) = false) ∨ wFabric (hDev dd.toNat) = true) :
    exec (.hostDmaDescriptor ch) s = .next (
      if hBad dd.toNat then finishHostDma s ch 6
      else if !wAddrOk (hDev dd.toNat) then finishHostDma s ch 1
      else if !hOut dd.toNat then
        emit { s with hostIf := { s.hostIf with dmaBusy := SMap.put s.hostIf.dmaBusy ch 1 } }
          (.hostRead (.dmaData ch) (hHost dd.toNat) (hLen dd.toNat))
      else if wFabric (hDev dd.toNat) then
        hostRemote s ch ((linePieces ((wAddr (hDev dd.toNat) % 64 + hLen dd.toNat + 63) / 64)).map (fun p =>
          (wAddr (hDev dd.toNat) / 64 * 64 + p.1, p.2, [], ones64))) true
      else hostOutLocal s ch dd.toNat) := by
  have hheld : (!wFabric (hDev dd.toNat) && (stopped s || memHeld s (wAddr (hDev dd.toNat)))) = false := by
    rcases hserves with ⟨hstop, hheld⟩ | hfab
    · rw [hstop, hheld, Bool.or_false, Bool.and_false]
    · rw [hfab]
      rfl
  have hgoes : (!clockOn s || chStateOf s ch != 1 || SMap.has s.hostIf.dmaBusy ch ||
      (!wFabric (hDev dd.toNat) && (stopped s || memHeld s (wAddr (hDev dd.toNat))))) = false := by
    rw [hclock, hrun, hfree, hheld]
    rfl
  show Host.Outcome.next _ = _
  refine congrArg Host.Outcome.next ?_
  rw [hdesc]
  exact if_neg (by rw [hgoes]; decide)

/-- Data for the descriptor, while the host alone is waited for. -/
theorem exec_dmaData (hbusy : SMap.find s.hostIf.dmaBusy ch = some 1) (hin : hOut dd.toNat = false) (data : List Byte) (ok : Bool) :
    exec (.hostCompletion (.dmaData ch) data ok) s =
      .next (if ok then hostInData s ch dd.toNat data else finishHostDma s ch 5) := by
  have hwaited : (SMap.get s.hostIf.dmaBusy ch 0 != 1 || hOut dd.toNat) = false := by
    rw [SMap.get_eq_find, hbusy, hin]
    rfl
  refine (congrArg Host.Outcome.next (if_neg (by rw [hclock]; decide))).trans (congrArg Host.Outcome.next ?_)
  dsimp only
  rw [hdesc]
  exact if_neg (by rw [hwaited]; decide)

end

/-! Device to host. -/

theorem logRefused_tells (s : State) (a : Nat) : Tells s (logRefused s a) := .ite (logEvent_tells s _)

/-- The bytes of a clean local range go out, and the descriptor ends well. -/
theorem hostOutLocal_clean {s : State} {d : Nat} (ch : Fin 4) (h : hostStop s (wAddr (hDev d)) (hLen d) true = none) :
    ChannelEnded s ch 0 (hostOutLocal s ch d) ∧
      Output.hostWrite (hHost d) (memRead s (wAddr (hDev d)) (hLen d)) ∈ (hostOutLocal s ch d).out ∧
      (hostOutLocal s ch d).mem = s.mem := by
  have hsent : hostOutLocal s ch d =
      finishHostDma (emit s (.hostWrite (hHost d) (memRead s (wAddr (hDev d)) (hLen d)))) ch 0 := by
    unfold hostOutLocal
    dsimp only
    rw [h]
  rw [hsent]
  obtain ⟨hended, hmem, hout⟩ := finishHostDma_effect
    (u := emit s (.hostWrite (hHost d) (memRead s (wAddr (hDev d)) (hLen d)))) (.of_bar_eq (s := s) rfl) ch 0
  exact ⟨hended, hout.subset (List.mem_append_right _ List.mem_cons_self), hmem⟩

/-- The descriptor ends with the status of the first line that fails. -/
theorem hostOutLocal_fails {s : State} {d n st : Nat} (ch : Fin 4) (h : hostStop s (wAddr (hDev d)) (hLen d) true = some (n, st)) :
    ChannelEnded s ch st (hostOutLocal s ch d) ∧ (hostOutLocal s ch d).mem = s.mem := by
  have hsent : ∃ u, Tells s u ∧ hostOutLocal s ch d = finishHostDma u ch st := by
    have hfirst : ∀ o, Tells s (if n = 0 then s else emit s o) := fun o => by
      split
      · exact .refl s
      · exact ⟨.of_update .., .of_dict_eq rfl _, .of_eq rfl rfl⟩
    unfold hostOutLocal
    dsimp only
    rw [h]
    exact ⟨_, (hfirst _).trans (.ite (logRefused_tells _ _)), rfl⟩
  obtain ⟨u, htells, heq⟩ := hsent
  obtain ⟨hended, hmem, -⟩ := finishHostDma_effect htells.waiting.queues ch st
  rw [heq]
  exact ⟨hended, hmem.trans htells.mem_eq⟩

/-- The requests of a channel change no byte of memory and nothing of the host's interface. -/
theorem request_mem_hostIf (s : State) (isRead : Bool) (cls addr lines mask : Nat) (body : List Line) (p : Purpose) :
    (request s isRead cls addr lines mask body p).mem = s.mem ∧ (request s isRead cls addr lines mask body p).hostIf = s.hostIf := by
  unfold request
  extract_lets flags m r s1
  have h1 : s1.mem = s.mem ∧ s1.hostIf = s.hostIf := by
    unfold s1
    split
    · exact ⟨rfl, rfl⟩
    · exact ⟨rfl, rfl⟩
  have hsent := sendWaiting_reportsOnly { s1 with fab := { s1.fab with unsent := s1.fab.unsent ++ [(r, m)] } }
  exact ⟨hsent.mem_eq.trans h1.1, hsent.hostIf_eq.trans h1.2⟩

theorem hostRemote_effect (s : State) (ch : Nat) (reqs : List (Nat × Nat × List Line × Nat)) (isRead : Bool) :
    (hostRemote s ch reqs isRead).mem = s.mem ∧ SMap.find (hostRemote s ch reqs isRead).hostIf.dmaBusy ch = some (1 + reqs.length) := by
  have hfold : ∀ (l : List (Nat × Nat × List Line × Nat)) (t : State),
      (l.foldl (fun t r => request t isRead 0 r.1 r.2.1 r.2.2.2 r.2.2.1 (.hostDma ch)) t).mem = t.mem ∧
      (l.foldl (fun t r => request t isRead 0 r.1 r.2.1 r.2.2.2 r.2.2.1 (.hostDma ch)) t).hostIf = t.hostIf := by
    intro l
    induction l with
    | nil => exact fun _ => ⟨rfl, rfl⟩
    | cons r l ih =>
      intro t
      obtain ⟨hmem, hif⟩ := request_mem_hostIf t isRead 0 r.1 r.2.1 r.2.2.2 r.2.2.1 (.hostDma ch)
      exact ⟨(ih _).1.trans hmem, (ih _).2.trans hif⟩
  obtain ⟨hmem, hif⟩ := hfold reqs
    { s with hostIf := { s.hostIf with dmaBusy := SMap.put s.hostIf.dmaBusy ch (1 + reqs.length) } }
  exact ⟨hmem, (congrArg (fun h : HostIf => SMap.find h.dmaBusy ch) hif).trans ((SMap.find_put ..).trans (if_pos rfl))⟩

/-! Host to device. -/

theorem getD_padTo (n : Nat) (l : List Byte) {i : Nat} (hi : i < n) : (padTo n l).getD i 0 = l.getD i 0 := by
  simp only [padTo, List.getD_eq_getElem?_getD]
  rw [List.getElem?_take_of_lt hi]
  by_cases h : i < l.length
  · rw [List.getElem?_append_left h]
  · rw [List.getElem?_append_right (by omega), List.getElem?_replicate, if_pos (by omega), List.getElem?_eq_none (by omega)]
    rfl

theorem hostLineOk_of_hostStop_none {s : State} {a len : Nat} (h : hostStop s a len false = none) :
    ∀ x ∈ touched a len, hostLineOk x.1 = true := by
  intro x hx
  have hnone := List.find?_eq_none.mp (Option.map_eq_none_iff.mp h) x hx
  simpa using hnone

/-- Where no line is refused the data are written, and the descriptor ends well. -/
theorem hostInData_clean {s : State} {d : Nat} (ch : Fin 4) (data : List Byte) (hlocal : wFabric (hDev d) = false)
    (h : hostStop s (wAddr (hDev d)) (hLen d) false = none) :
    ChannelEnded s ch 0 (hostInData s ch d data) ∧ SameMemoryBut [(wAddr (hDev d), hLen d)] s (hostInData s ch d data) ∧
      ∀ i, i < hLen d → isRetired s (wAddr (hDev d) + i) = false → rangeLost s (wAddr (hDev d) + i) 1 = false →
        memByte (hostInData s ch d data) (wAddr (hDev d) + i) = data.getD i 0 := by
  have hwritten : hostInData s ch d data =
      finishHostDma (hostWriteLines s (wAddr (hDev d)) (padTo (hLen d) data) (fun _ => true)) ch 0 := by
    unfold hostInData
    dsimp only
    rw [hlocal, padTo_length, h]
    rfl
  have hlines := hostWriteLines_linesOnly s (wAddr (hDev d)) (padTo (hLen d) data)
  obtain ⟨hended, hmem, -⟩ := finishHostDma_effect (.of_bar_eq hlines.bar) ch 0
  have hbytes : ∀ y, memByte (hostInData s ch d data) y =
      memByte (hostWriteLines s (wAddr (hDev d)) (padTo (hLen d) data) (fun _ => true)) y := fun y => by
    rw [hwritten, memByte, hmem]
    rfl
  have hlen := padTo_length (hLen d) data
  refine ⟨hwritten ▸ hended, fun y hy => (hbytes y).trans ?_, fun i hi hret hlost => (hbytes _).trans ?_⟩
  · exact hostWriteLines_sameMemoryBut s _ (padTo (hLen d) data) y (by rwa [hlen])
  · rw [memByte_hostWriteLines (by rw [hlen]; exact hostLineOk_of_hostStop_none h) (by rwa [hlen]) hret hlost, getD_padTo _ _ hi]

/-- The data before the first refused line are written, and the descriptor ends with the line's status. -/
theorem hostInData_refused {s : State} {d n st : Nat} (ch : Fin 4) (data : List Byte) (hlocal : wFabric (hDev d) = false)
    (h : hostStop s (wAddr (hDev d)) (hLen d) false = some (n, st)) :
    ChannelEnded s ch st (hostInData s ch d data) ∧ SameMemoryBut [(wAddr (hDev d), n)] s (hostInData s ch d data) := by
  have hwritten : hostInData s ch d data = finishHostDma (logRefused (hostWriteLines s (wAddr (hDev d))
      ((padTo (hLen d) data).take n) (fun _ => true)) (lineAddr (wAddr (hDev d) + n))) ch st := by
    unfold hostInData
    dsimp only
    rw [hlocal, padTo_length, h]
    rfl
  have hlines := hostWriteLines_linesOnly s (wAddr (hDev d)) ((padTo (hLen d) data).take n)
  have hlog := logRefused_tells (hostWriteLines s (wAddr (hDev d)) ((padTo (hLen d) data).take n) (fun _ => true))
    (lineAddr (wAddr (hDev d) + n))
  obtain ⟨hended, hmem, -⟩ := finishHostDma_effect ((QueueRegsKept.of_bar_eq hlines.bar).trans hlog.waiting.queues) ch st
  rw [hwritten]
  refine ⟨hended, fun y hy => ?_⟩
  rw [memByte, hmem, hlog.mem_eq]
  refine hostWriteLines_sameMemoryBut s _ ((padTo (hLen d) data).take n) y fun r hr => ?_
  obtain rfl := List.mem_singleton.mp hr
  have hshort := List.length_take_le n (padTo (hLen d) data)
  have hout : y < wAddr (hDev d) ∨ wAddr (hDev d) + n ≤ y := hy _ List.mem_cons_self
  dsimp only
  omega

/-! Completions of reads of descriptors and of slots. -/

theorem exec_dmaDescriptor {s : State} (hclock : clockOn s = true) {ch : Fin 4} (hrun : chStateOf s ch = 1)
    (hnone : SMap.has s.hostIf.dmaDesc ch = false) (data : List Byte) (ok : Bool) :
    exec (.hostCompletion (.dmaDescriptor ch) data ok) s = .next (if ok then
      { s with hostIf := { s.hostIf with dmaDesc := SMap.put s.hostIf.dmaDesc ch (BitVec.ofNat 512 (leVal (padTo 64 data))) } }
      else setChState s ch 2) := by
  have hwanted : (chStateOf s ch != 1 || SMap.has s.hostIf.dmaDesc ch) = false := by rw [hrun, hnone]; rfl
  refine (congrArg Host.Outcome.next (if_neg (by rw [hclock]; decide))).trans (congrArg Host.Outcome.next ?_)
  exact if_neg (by rw [hwanted]; decide)

/-- The slot of `q` read for it is kept. -/
def slotKept (s : State) (q : Nat) (data : List Byte) : State :=
  { s with hostIf := { s.hostIf with slotData := SMap.put s.hostIf.slotData q (BitVec.ofNat 1024 (leVal (padTo 128 data))) } }

theorem exec_queueSlot {s : State} (hclock : clockOn s = true) {q : QueueId} (hhost : qHost (qCfg s q) = true)
    (hnone : SMap.has s.hostIf.slotData q = false) (hwork : qAvail s q ≠ 0) (hasked : s.hostIf.asked.contains q.val = true)
    (data : List Byte) (ok : Bool) :
    exec (.hostCompletion (.queueSlot q) data ok) s = .next (if ok then goOnFlushing (slotKept (slotAnswered s q) q data) q
      else slotFailed (slotAnswered s q) q) := by
  have hwork' : qAvail (slotAnswered s q) q ≠ 0 := hwork
  have hwanted : (!s.hostIf.asked.contains q.val || !qHost (qCfg (slotAnswered s q) q) ||
      SMap.has (slotAnswered s q).hostIf.slotData q || decide (qAvail (slotAnswered s q) q = 0)) = false := by
    rw [hasked, show qHost (qCfg (slotAnswered s q) q) = true from hhost,
      show SMap.has (slotAnswered s q).hostIf.slotData q = false from hnone, decide_eq_false hwork']
    rfl
  refine (congrArg Host.Outcome.next (if_neg (by rw [hclock]; decide))).trans (congrArg Host.Outcome.next ?_)
  exact if_neg (by rw [hwanted]; decide)

theorem exec_queueSlot_memSyncKept {s : State} (hclock : clockOn s = true) {q : QueueId} (hhost : qHost (qCfg s q) = true)
    (hnone : SMap.has s.hostIf.slotData q = false) (hwork : qAvail s q ≠ 0) (hasked : s.hostIf.asked.contains q.val = true)
    (data : List Byte) (ok : Bool) : ∃ t, exec (.hostCompletion (.queueSlot q) data ok) s = .next t ∧ MemSyncKept s t := by
  refine ⟨_, exec_queueSlot hclock hhost hnone hwork hasked data ok, ?_⟩
  split
  · exact (goOnFlushing_memSyncKept _ q).after_update
  · exact (slotFailed_memSyncKept _ q).after_update

/-- A slot that cannot be read stops its queue with reason 2, but in a return of slots. -/
theorem slotFailed_stops {s : State} {q : Nat} (hflush : SMap.find s.hostIf.flushing q = none) (hheld : qState s q ≠ 0) :
    qState (slotFailed s q) q = 3 ∧ reg (slotFailed s q) (0x2100 + q) 4 = 2 := by
  unfold slotFailed
  rw [SMap.has_of_find_none hflush]
  exact stopQueue_of_held 2 hheld

/-! Configuration requests (R417). -/

theorem exec_configurationRequest {s : State} (hreach : hostReaches s = true) : exec .configurationRequest s =
    .next (if startState s < 3 then emit s .retryStatus
      else emit { s with aon := { s.aon with pcieConfigured := true } } .configServed) :=
  congrArg Host.Outcome.next (if_neg (by rw [hreach]; decide))

/-- Settles O56: each command goes by its own lemma, and the end of a descriptor is `finishHostDma_effect`. -/
theorem hostDmaChannelsRunTheirDescriptors : Obligations.HostDmaChannelsRunTheirDescriptors := by
  intro s hclock
  refine ⟨fun ch v => ⟨exec_chTail_ignored ch v, fun hlive hsize => ⟨fun h => ?_, exec_chTail_runs ch v hclock hlive hsize⟩,
      fun size => exec_chBase_ignored ch v size, fun heven => ⟨fun hlo hhi => ?_, fun h => ?_, ?_⟩⟩,
    fun ch dd hdesc hrun => ?_, fun ch data hrun hnone => ⟨?_, ?_⟩, fun q data hhost hnone hwork hasked => ⟨fun hflush => ⟨?_, ?_⟩, ?_⟩,
    fun hreach => ⟨fun h => ?_, fun h => ?_⟩⟩
  · rw [exec_chTail ch v hclock hlive hsize, if_pos h]
  · refine ⟨_, (exec_chBase ch v hclock true heven).trans (congrArg Host.Outcome.next ((if_pos rfl).trans (if_pos ⟨hlo, hhi⟩))), ?_⟩
    exact chRegister_set s ch 0 _ (by decide) (by decide)
  · exact (exec_chBase ch v hclock true heven).trans (congrArg Host.Outcome.next ((if_pos rfl).trans (if_neg (by omega))))
  · refine ⟨_, (exec_chBase ch v hclock false heven).trans (congrArg Host.Outcome.next (if_neg (by decide))), ?_⟩
    exact chRegister_set s ch 0 _ (by decide) (by decide)
  · intro d w a ended
    have hself : QueueRegsKept s s := .refl s
    refine ⟨fun hfree hserves => ?_, fun hbusy hin data => ⟨?_, fun hlocal h => ?_, fun hlocal n st h => ?_⟩⟩
    · have hexec := exec_hostDmaDescriptor hclock hdesc hrun hfree hserves
      refine ⟨fun hbad => ?_, fun hbad hok => ?_, fun hbad hok => ⟨fun hin => ?_, fun hout hlocal => ⟨fun h => ?_, fun n st h => ?_⟩,
        fun hout hfab => ?_⟩⟩
      · rw [if_pos hbad] at hexec
        obtain ⟨hended, hmem, -⟩ := finishHostDma_effect hself ch 6
        exact ⟨_, hexec, hended, hmem⟩
      · rw [if_neg (by rw [hbad]; decide), if_pos (by rw [hok]; rfl)] at hexec
        obtain ⟨hended, hmem, -⟩ := finishHostDma_effect hself ch 1
        exact ⟨_, hexec, hended, hmem⟩
      · rw [if_neg (by rw [hbad]; decide), if_neg (by rw [hok]; decide), if_pos (by rw [hin]; rfl)] at hexec
        exact ⟨_, hexec, rfl, (SMap.find_put ..).trans (if_pos rfl), rfl⟩
      · rw [if_neg (by rw [hbad]; decide), if_neg (by rw [hok]; decide), if_neg (by rw [hout]; decide),
          if_neg (by rw [hlocal]; decide)] at hexec
        exact ⟨_, hexec, hostOutLocal_clean ch h⟩
      · rw [if_neg (by rw [hbad]; decide), if_neg (by rw [hok]; decide), if_neg (by rw [hout]; decide),
          if_neg (by rw [hlocal]; decide)] at hexec
        exact ⟨_, hexec, hostOutLocal_fails ch h⟩
      · rw [if_neg (by rw [hbad]; decide), if_neg (by rw [hok]; decide), if_neg (by rw [hout]; decide), if_pos hfab] at hexec
        refine ⟨_, hexec, (hostRemote_effect ..).1, ((hostRemote_effect ..).2).trans ?_⟩
        rw [List.length_map]
    · obtain ⟨hended, hmem, -⟩ := finishHostDma_effect hself ch 5
      exact ⟨_, (exec_dmaData hclock hdesc hbusy hin data false).trans rfl, hended, hmem⟩
    · exact ⟨_, (exec_dmaData hclock hdesc hbusy hin data true).trans rfl, hostInData_clean ch data hlocal h⟩
    · exact ⟨_, (exec_dmaData hclock hdesc hbusy hin data true).trans rfl, hostInData_refused ch data hlocal h⟩
  · exact ⟨_, (exec_dmaDescriptor hclock hrun hnone data true).trans rfl, rfl, (SMap.find_put ..).trans (if_pos rfl)⟩
  · exact ⟨_, (exec_dmaDescriptor hclock hrun hnone data false).trans rfl, chStateOf_setChState ..,
      (setChState_signalsOnly s ch 2).reportsOnly.mem_eq⟩
  · refine ⟨_, (exec_queueSlot hclock hhost hnone hwork hasked data true).trans (congrArg Host.Outcome.next
      (goOnFlushing_of_none (s := slotKept (slotAnswered s q) q data) hflush)), rfl, (SMap.find_put ..).trans (if_pos rfl)⟩
  · intro hheld
    obtain ⟨hstate, hreason⟩ := slotFailed_stops (s := slotAnswered s q) hflush hheld
    exact ⟨_, (exec_queueSlot hclock hhost hnone hwork hasked data false).trans rfl, hstate, hreason,
      (slotFailed_memSyncKept (slotAnswered s q) q).mem⟩
  · intro ok
    obtain ⟨t, ht, hkept⟩ := exec_queueSlot_memSyncKept hclock hhost hnone hwork hasked data ok
    exact ⟨t, ht, hkept.mem, hkept.sync⟩
  · rw [exec_configurationRequest hreach, if_pos h]
  · exact ⟨_, (exec_configurationRequest hreach).trans (congrArg Host.Outcome.next (if_neg (by omega))), rfl, rfl, rfl, rfl⟩

end Sys2Proof.Machine
end
